-- ==== Sys2Proof/Word.lean ====
section
/-! DEFINITION. The plain words of the YN-4812: bytes, binary32 patterns, VCNs. -/

namespace Sys2Proof

/-- A byte of an image, a register or a frame. -/
abbrev Byte := BitVec 8

/-- A binary32 bit pattern (R10, R841, R846). -/
abbrev F32 := BitVec 32

/-- A virtual channel number: node in bits 15..8, local index in bits 7..0 (00_scope glossary). -/
abbrev Vcn := BitVec 16

/-- The 48-bit microsecond count of Plumb (R523). -/
abbrev Count48 := BitVec 48

end Sys2Proof
end

