-- ==== Sys2Proof/Syntax.lean ====
section
/-! DEFINITION. The commands of the block: one constructor per row of the opcode table, with what the
outside presents in that step (received bytes, counts, readings). -/

namespace Sys2Proof

/-- The two supplies of the VDD power-on reset (R42). -/
inductive VddRail where
  | vdd | vdda
  deriving DecidableEq, Repr

/-- The three supplies whose rise starts the release timer (R43). -/
inductive MainSupply where
  | vdd | vdda | vddio
  deriving DecidableEq, Repr

/-- The SPI NOR flash at the flash balls, as Footing reads it (R76 - R84): its bytes (unlisted: erased, 0xFF),
its SFDP area, its two status bytes and whether one answers at all. -/
structure FlashChip where
  /-- A device answers; otherwise every byte reads `missingByte`. -/
  present : Bool
  /-- What the lines read without a device: 0x00 or 0xFF (R84). -/
  missingByte : Byte
  /-- Content, address and byte, strictly rising, no entry equal to 0xFF. -/
  content : List (Nat × Byte)
  /-- The SFDP area from offset 0 (R77). -/
  sfdp : List Byte
  /-- The two bytes command 0x05 returns (R80). -/
  status05 : List Byte
  /-- The byte command 0x35 returns (R80). -/
  status35 : Byte
  deriving DecidableEq, Repr

/-- A host frame's request as received (R653). The row gives the opcode and the bytes its name fixes; the frame's own byte stands where it is a
reserved code (R8). -/
structure HostFrame where
  opcode : Byte
  flags : Byte
  address : BitVec 16
  length : BitVec 16
  headerCrc : BitVec 16
  payload : List Byte
  payloadCrc : BitVec 16
  deriving DecidableEq, Repr

/-- A Course frame as received on a port (table Header); the row gives the type. -/
structure CourseRx where
  port : Fin 2
  dst : Byte
  src : Byte
  seq : Byte
  len : Byte
  classVer : Byte
  credit : Byte
  hop : Byte
  payload : List Byte
  crc : BitVec 32
  endedEarly : Bool
  deriving DecidableEq, Repr

/-- W23's conversion of the same input in the same frame (R746, R748). -/
structure ShadowObs where
  pos : BitVec 24
  neg : BitVec 24
  startCode : BitVec 12
  endCode : BitVec 12
  spanHit : Bool
  deriving DecidableEq, Repr

/-- One packet of a tone window (R216): which electrode, its sign, and its time from the window start in MCLK cycles. -/
structure TonePacket where
  we2 : Bool
  neg : Bool
  t : Nat
  deriving DecidableEq, Repr

/-- What a Weir latches at a frame boundary (R180 - R183). -/
structure WeirObs where
  pos : BitVec 24
  neg : BitVec 24
  endCode : BitVec 12
  /-- Residue sample at the frame's start; used only where the spec takes q_start from a fresh sample. -/
  startCode : BitVec 12
  spanHit : Bool
  shadow : Option ShadowObs
  tone : List TonePacket
  deriving DecidableEq, Repr

/-- The sixteen supply quantities of one system or housekeeping frame (R61), each with its raw field. -/
abbrev SupplyObs := Vector (F32 × BitVec 32) 16

/-- One boundary of the base frame as the node's converters meet it (R15, R181): what W00 - W21 latch (W22's conversions come with its
visits), the lowest voltage of AUX_EXC in the AUX frame (R231), the supply quantities, the local indices whose two linearisations differ
(R755) and the rules whose two evaluators differ (R398). Which frames end here is the device's own doing. -/
structure BoundaryObs where
  weirs : Vector WeirObs 23
  excMin : Rat
  supplies : SupplyObs
  lin : List Nat
  bad : List (Fin 256)
  deriving DecidableEq, Repr

/-- A packet on a working electrode's Weir (R416): MCLK cycles before the evaluation, and its sign. -/
structure FastPacket where
  age : Nat
  neg : Bool
  deriving DecidableEq, Repr

/-- A counter electrode over a stretch of time: its voltage about VDD/2 in volt and its current in ampere where they were least, and for how
many microseconds they have stood there (R199, R200). -/
structure CeObs where
  volts : Rat
  amps : Rat
  us : Nat
  deriving DecidableEq, Repr

/-- One visit of W22 (R226). -/
inductive AuxSlot where
  | exs
  | input (n : Fin 4)
  deriving DecidableEq, Repr

/-- The conversion of one W22 visit (R228) with W23's when it shadows W22 (R235). -/
structure AuxObs where
  slot : AuxSlot
  pos : BitVec 24
  neg : BitVec 24
  startCode : BitVec 12
  endCode : BitVec 12
  spanHit : Bool
  shadow : Option ShadowObs
  deriving DecidableEq, Repr

/-- A channel with a warm-up timer. -/
inductive WarmChan where
  | ec (n : Fin 8)
  | mox (n : Fin 6)
  deriving DecidableEq, Repr

/-- An input with burn-out (R222). -/
inductive BurnInput where
  | aux (n : Fin 4)
  | film (n : Fin 6)
  deriving DecidableEq, Repr

/-- One on-pulse of a heater driver (R241, R243): V_h in volt and I_h in ampere at its end, its mean V_h, the driver's output voltage, and the
microseconds into the pulse at which I_h reached 150 mA, if it did. -/
structure HeaterPulse where
  vEnd : Rat
  iEnd : Rat
  vMean : Rat
  out : Rat
  limitUs : Option Rat
  deriving DecidableEq, Repr

/-- Latched heater fault kinds (table Heater fault kinds). -/
inductive HeaterFaultKind where
  | openCircuit | shortCircuit | kelvin
  deriving DecidableEq, Repr

/-- The rail's currents in mA: the shunt's, and the own sense of each phase A - D. -/
structure RailCurrents where
  shunt : Nat
  sense : Vector Nat 4
  deriving DecidableEq, Repr

/-- What the ladder watches: the currents, each phase's commanded on-time in ns, and for how many 2 microsecond cycles in a row each phase has
stood like this. -/
structure LadderObs where
  cur : RailCurrents
  on : Vector Nat 4
  cycles : Vector Nat 4
  deriving DecidableEq, Repr

/-- What a phase check finds: for each phase run alone the shunt's current and its own sense, mA (R285). -/
abbrev PhaseCheckObs := Vector (Nat × Nat) 4

/-- The rail's voltage at HRS and at the HRAIL balls in volt, and for how many microseconds it has stood like this. -/
structure RailVolts where
  hrs : Rat
  balls : Rat
  us : Nat
  deriving DecidableEq, Repr

/-- A chain-power switch: its output and HRAIL in volt, its current in mA, and for how many microseconds it has stood like this. -/
structure SwitchObs where
  out : Rat
  rail : Rat
  cur : Nat
  us : Nat
  deriving DecidableEq, Repr

/-- The balls of R842. -/
inductive AlarmPin where
  | alarmA | alarmB | faultn
  deriving DecidableEq, Repr

/-- What the start finds in the retained state: descriptors of the two log regions and of the pod backlog (R732), SYSCLK (R118). -/
structure HandoverObs where
  sysclkRunning : Bool
  generalOk : Bool
  alarmOk : Bool
  backlogOk : Bool
  deriving DecidableEq, Repr

/-- One reference measurement (R751, R753): deviations in ppm of A/B, A/C, B/C from Cornerstone, of REFIN from the voted
reference as it has held for the 10 ms that end here, and REFIN in microvolt. -/
structure VoteObs where
  ab : Int
  ac : Int
  bc : Int
  refinPpm : Int
  refinMicrovolt : Int
  deriving DecidableEq, Repr

/-- One cross-count window (R754): ratio deviations in ppm from the average of the previous second, and of KCLK/SYSCLK from nominal; a stopped clock shows as a deviation. -/
structure ClockObs where
  kOverS : Int
  kOverSNominal : Int
  kOverR : Int
  sOverR : Int
  deriving DecidableEq, Repr

/-- Where a double-bit error lies (table Double-bit errors by region). -/
inductive CisternPlace where
  | neuron (tarn : Fin 8) (n : Fin 256)
  | destEntry (tarn : Fin 8) (n : Fin 256) (e : Fin 8)
  | synapse (tarn : Fin 8) (word : Fin 16384)
  | template (tarn : Fin 8) (j : Fin 16)
  | decayTable (tarn : Fin 8) (j : Fin 16) (k : Fin 4)
  | logEntry (alarm : Bool) (seq : BitVec 32)
  | logDescriptor (alarm : Bool)
  | result (vcn : Vcn)
  | backlog (index : Fin 4096)
  | frameBuffer (port : Fin 2)
  deriving DecidableEq, Repr

/-- What a read of Cistern finds, the scrubber's or another's (R715 - R717). -/
inductive EccObs where
  | clean
  | single
  | double (p : CisternPlace)
  deriving DecidableEq, Repr

/-- The commands: one constructor per row of spec/opcode_table.json, in its order. -/
inductive Instr where
  /-- VDD_POR_ASSERT (R64). -/
  | vddPorAssert (rail : VddRail)
  /-- VDD_POR_RELEASE (R43). -/
  | vddPorRelease (rolesel testen : Bool)
  /-- AO_RESET (R45). -/
  | aoReset
  /-- VDDIO_FALL (R44). -/
  | vddioFall
  /-- IO_RESET_RELEASE (R44). -/
  | ioResetRelease
  /-- VIN_UVLO (R62). -/
  | vinUvlo
  /-- VIN_UVLO_END (R318). -/
  | vinUvloEnd
  /-- VDD_FALL_AO_SWITCH (R63). -/
  | vddFallAoSwitch
  /-- VRATIO_FALL (R65). -/
  | vratioFall
  /-- VRATIO_RISE (R65). -/
  | vratioRise
  /-- SUPPLY_EXCURSION (R756). -/
  | supplyExcursion (supply : Fin 5) (volts : Rat) (us : Nat)
  /-- PIN_RESET (R143). -/
  | pinReset
  /-- RESETN_RELEASE (R70). -/
  | resetnRelease
  /-- RESET_HOLD_END (R144). -/
  | resetHoldEnd
  /-- RAIL_HOLD_EXPIRY (R151). -/
  | railHoldExpiry
  /-- FOOTING_START (R70). -/
  | footingStart (fitted : Option FlashChip) (duration : BitVec 32)
  /-- FLASH_WIP_TIMEOUT (R76). -/
  | flashWipTimeout
  /-- HANDOVER (R128). -/
  | handover (o : HandoverObs)
  /-- FOOTING_LIMIT (R758). -/
  | footingLimit
  /-- MODE_RUN (R136). -/
  | modeRun (f : HostFrame)
  /-- MODE_WATCH (R136). -/
  | modeWatch (f : HostFrame)
  /-- MODE_SAFE (R136). -/
  | modeSafe (f : HostFrame)
  /-- MODE_BOUNDARY (R131). -/
  | modeBoundary
  /-- SAFE_AUTO_EXIT (R138). -/
  | safeAutoExit
  /-- HOUSEKEEPING_FRAME (R124). -/
  | housekeepingFrame (m : SupplyObs)
  /-- FRAME_BOUNDARY (R181). -/
  | frameBoundary (o : BoundaryObs)
  /-- COLD_START_SWITCH_OPEN (R174). -/
  | coldStartSwitchOpen (ch : Fin 8)
  /-- BIAS_SLEW_STEP (R173). -/
  | biasSlewStep (ch : Fin 8)
  /-- SHORT_SWITCH_CLOSE (R176). -/
  | shortSwitchClose (ch : Fin 8)
  /-- POTENTIOSTAT_DISABLE (R176). -/
  | potentiostatDisable (ch : Fin 8)
  /-- WARMUP_EXPIRY (R179). -/
  | warmupExpiry (ch : WarmChan)
  /-- COMPLIANCE_ENTER (R199). -/
  | complianceEnter (ch : Fin 8) (o : CeObs)
  /-- COMPLIANCE_EXIT (R200). -/
  | complianceExit (ch : Fin 8) (o : CeObs)
  /-- BIAS (R196). -/
  | bias (f : HostFrame)
  /-- IMPEDANCE_SWEEP (R234). -/
  | impedanceSweep (f : HostFrame)
  /-- BURNOUT_CHECK_END (R223). -/
  | burnoutCheckEnd (input : BurnInput) (volts : Rat)
  /-- AUX_VISIT (R226). -/
  | auxVisit (o : AuxObs)
  /-- HEATER_LOOP_TICK (R245): the pulses of the tick that ends, in order. -/
  | heaterLoopTick (ch : Fin 6) (pulses : List HeaterPulse)
  /-- PROFILE_STEP_END (R250). -/
  | profileStepEnd (ch : Fin 6)
  /-- HEATER_FAULT (R268): the pulses of the last millisecond. -/
  | heaterFault (ch : Fin 6) (pulses : List HeaterPulse)
  /-- HEATER_SET_TARGET (R274). -/
  | heaterSetTarget (f : HostFrame)
  /-- HEATER_RESUME (R274). -/
  | heaterResume (f : HostFrame)
  /-- HEATER_OFF (R274). -/
  | heaterOff (f : HostFrame)
  /-- HEATER_CLEAR_FAULT (R275). -/
  | heaterClearFault (f : HostFrame)
  /-- RAIL_START (R284). -/
  | railStart
  /-- RAIL_PHASE_CHECK_END (R285). -/
  | railPhaseCheckEnd (o : PhaseCheckObs)
  /-- RAIL_SOFT_START_DONE (R284). -/
  | railSoftStartDone (o : RailVolts)
  /-- CHAIN_SWITCH_ON (R290). -/
  | chainSwitchOn (sw : Fin 2) (o : SwitchObs)
  /-- CHAIN_SWITCH_FAIL (R292). -/
  | chainSwitchFail (sw : Fin 2) (o : SwitchObs)
  /-- CHAIN_SWITCH_RETRY (R292). -/
  | chainSwitchRetry (sw : Fin 2)
  /-- RAIL_SHED_TICK (R293). -/
  | railShedTick (c : RailCurrents)
  /-- CHAIN_SHED_VALUE (R296). -/
  | chainShedValue (c : RailCurrents)
  /-- RAIL_RESTORE (R297). -/
  | railRestore (c : RailCurrents)
  /-- PHASE_OPEN (R299). -/
  | phaseOpen (phase : Fin 4) (o : LadderObs)
  /-- PHASE_SENSE_FAIL (R303). -/
  | phaseSenseFail (o : LadderObs)
  /-- PHASE_RECHECK (R307). -/
  | phaseRecheck (o : PhaseCheckObs)
  /-- DROPOUT (R311). -/
  | dropout (o : RailVolts)
  /-- HRS_MISMATCH (R312). -/
  | hrsMismatch (o : RailVolts)
  /-- RAIL_OVERVOLTAGE (R313). -/
  | railOvervoltage (o : RailVolts)
  /-- RAIL_OVERVOLTAGE_END (R313). -/
  | railOvervoltageEnd (o : RailVolts)
  /-- DIE_TEMP_CONVERSION (R319). -/
  | dieTempConversion (readings : Vector Int 8)
  /-- THERMAL_EVALUATION (R320). -/
  | thermalEvaluation (power : Rat)
  /-- SENSOR_BROKEN (R323). -/
  | sensorBroken (sensor : Fin 8)
  /-- THROTTLE_UP (R329). -/
  | throttleUp
  /-- THROTTLE_DOWN (R330). -/
  | throttleDown
  /-- ROR_HOLD_END (R334). -/
  | rorHoldEnd
  /-- CLOCK_TRIM_UPDATE (R338). -/
  | clockTrimUpdate
  /-- CAL_ZERO (R379). -/
  | calZero (f : HostFrame)
  /-- CAL_SPAN (R379). -/
  | calSpan (f : HostFrame)
  /-- CAL_TWO_POINT_FIRST (R380). -/
  | calTwoPointFirst (f : HostFrame)
  /-- CAL_TWO_POINT_SECOND (R379). -/
  | calTwoPointSecond (f : HostFrame)
  /-- CAL_CLEAR (R392). -/
  | calClear (f : HostFrame)
  /-- CAL_ABORT (R380). -/
  | calAbort (f : HostFrame)
  /-- CAL_VERIFY_ZERO (R385). -/
  | calVerifyZero (f : HostFrame)
  /-- CAL_RUN_END (R377). -/
  | calRunEnd
  /-- PENDING_ZERO_EXPIRY (R380). -/
  | pendingZeroExpiry
  /-- RENDER_ERASE_COMPLETE (R369). -/
  | renderEraseComplete
  /-- RENDER_PAGE_PROGRAM_COMPLETE (R369). -/
  | renderPageProgramComplete
  /-- RENDER_READBACK_COMPLETE (R369). `diff`: the bytes of the sector that the chip holds otherwise than they were programmed. -/
  | renderReadbackComplete (diff : List (Nat × Byte))
  /-- RENDER_WRITE_TIMEOUT (R371). -/
  | renderWriteTimeout
  /-- FAST_PATH_EVALUATION (R416): the packets counted on the rule's Weir since its last evaluation, earliest first. -/
  | fastPathEvaluation (rule : Fin 256) (packets : List FastPacket) (mismatch : Bool)
  /-- RATE_EVALUATION (R400); `bad` here and below: the rules whose two evaluators differ in this step (R398). -/
  | rateEvaluation (bad : List (Fin 256))
  /-- PLUMB_MINUTE_END (R401). -/
  | plumbMinuteEnd (bad : List (Fin 256))
  /-- RULE_INVALID_TIMEOUT (R397). -/
  | ruleInvalidTimeout (rule : Fin 256)
  /-- ACKNOWLEDGE_RULE (R443). -/
  | acknowledgeRule (f : HostFrame)
  /-- RATIO_SLEW_TICK (R436). -/
  | ratioSlewTick (out : Fin 2)
  /-- RATIO_READBACK (R437). -/
  | ratioReadback (out : Fin 2) (code : BitVec 16)
  /-- ALARM_PIN_READBACK (R842). -/
  | alarmPinReadback (pin : AlarmPin) (low : Bool)
  /-- MERE_EVENT_APPLY (R460). -/
  | mereEventApply (tarn : Fin 8) (err : EccObs)
  /-- WAKE_DUE (R468). -/
  | wakeDue (tarn : Fin 8)
  /-- SPIKE_EMIT (R473). -/
  | spikeEmit (tarn : Fin 8) (err : EccObs)
  /-- ENCODER_SLOT_DRAIN (R495). -/
  | encoderSlotDrain (target : Fin 8)
  /-- CLASS_RECORD_WRITE (R498). -/
  | classRecordWrite (cls : Fin 64) (bad : List (Fin 256))
  /-- MERE_STALL (R506). -/
  | mereStall (tarn : Fin 8)
  /-- MERE_PROBE (R482). -/
  | mereProbe (f : HostFrame)
  /-- PROBE_SNAPSHOT (R706). -/
  | probeSnapshot
  /-- PPS_EDGE (R529). -/
  | ppsEdge (cycles : Nat) (phaseErr : Int) (conforming : Bool)
  /-- PPS_MISSING (R531). -/
  | ppsMissing
  /-- SLEW_COMPLETE (R535). -/
  | slewComplete
  /-- HOLDOVER_CORRECTION (R533). -/
  | holdoverCorrection
  /-- PLUMB_WRAP (R523). -/
  | plumbWrap
  /-- RTCCLK_STOP (R527). -/
  | rtcclkStop
  /-- SYSCLK_STOP (R562). -/
  | sysclkStop
  /-- PPS_OUT_PULSE (R542). -/
  | ppsOutPulse
  /-- PPS_OUT_FALL (R542). -/
  | ppsOutFall
  /-- TIME_SET (R557). -/
  | timeSet (f : HostFrame)
  /-- SLUICE_ACTION_DUE (R547). -/
  | sluiceActionDue (slot : Fin 128)
  /-- SLUICE_RETRY (R549). -/
  | sluiceRetry (slot : Fin 128)
  /-- SLUICE_GRACE_EXPIRY (R549). -/
  | sluiceGraceExpiry (slot : Fin 128)
  /-- SLUICE_SLOT (R558). -/
  | sluiceSlot (f : HostFrame)
  /-- LOSS_OF_SIGNAL (R572); a frame arriving on the port was being repeated. -/
  | lossOfSignal (port : Fin 2) (repeating : Bool)
  /-- SIGNAL_RESTORED (R572). -/
  | signalRestored (port : Fin 2)
  /-- STORED_FRAME_SEND (R582). -/
  | storedFrameSend (port : Fin 2)
  /-- DISCOVER (R587). -/
  | discover (r : CourseRx)
  /-- DISCOVER_TIMER (R588). -/
  | discoverTimer
  /-- IDENTITY (R590). -/
  | identity (r : CourseRx)
  /-- ENUMERATION_COLLECT_END (R590). -/
  | enumerationCollectEnd
  /-- ASSIGN (R593). -/
  | assign (r : CourseRx)
  /-- ASSIGN_RETRY (R593). -/
  | assignRetry (node : BitVec 8)
  /-- BOOT_START (R594). -/
  | bootStart (r : CourseRx)
  /-- BOOT_DATA (R600). -/
  | bootData (r : CourseRx)
  /-- BOOT_END (R595). -/
  | bootEnd (r : CourseRx)
  /-- BOOT_STATUS (R596). -/
  | bootStatus (r : CourseRx)
  /-- BOOT_STATUS_TIMEOUT (R597). -/
  | bootStatusTimeout
  /-- SWEEP_TICK (R609). -/
  | sweepTick
  /-- CREDIT_SEND (R625). -/
  | creditSend
  /-- SWEEP_START (R620). -/
  | sweepStart (r : CourseRx)
  /-- CREDIT (R626). -/
  | credit (r : CourseRx)
  /-- SWEEP_REPORT (R616). -/
  | sweepReport (r : CourseRx) (bad : List (Fin 256))
  /-- SWEEP_DATA (R617). -/
  | sweepData (r : CourseRx) (bad : List (Fin 256))
  /-- SWEEP_END (R636). -/
  | sweepEnd (bad : List (Fin 256))
  /-- SWEEP_MISSED (R640). -/
  | sweepMissed
  /-- ALARM (R634). -/
  | alarm (r : CourseRx) (bad : List (Fin 256))
  /-- DELAY_REQ (R621). -/
  | delayReq (r : CourseRx)
  /-- DELAY_RESP (R621). -/
  | delayResp (r : CourseRx)
  /-- BACKLOG_REQ (R643). -/
  | backlogReq (r : CourseRx)
  /-- BACKLOG_DATA (R643). -/
  | backlogData (r : CourseRx)
  /-- RENDER_ENTRIES (R365). -/
  | renderEntries (r : CourseRx)
  /-- RENDER_ACK (R365). -/
  | renderAck (r : CourseRx)
  /-- STATUS_REQ (R632). -/
  | statusReq (r : CourseRx)
  /-- STATUS_RESP (R668). -/
  | statusResp (r : CourseRx)
  /-- NAK (R632). -/
  | nak (r : CourseRx)
  /-- POD_FAULT_POLL (R760). -/
  | podFaultPoll (node : BitVec 8)
  /-- READ (R663). -/
  | read (f : HostFrame)
  /-- REGISTER_WRITE (R664). -/
  | registerWrite (f : HostFrame)
  /-- EVENT_PENDING_CLEAR (R709). -/
  | eventPendingClear (f : HostFrame)
  /-- QUEUE_MASK_WRITE (R688). -/
  | queueMaskWrite (f : HostFrame)
  /-- IRQ_MASK_WRITE (R684). -/
  | irqMaskWrite (f : HostFrame)
  /-- KEYSTONE_INJECT (R762). -/
  | keystoneInject (f : HostFrame)
  /-- INJECTION_EXPIRY (R762). -/
  | injectionExpiry
  /-- LINK_TEST_CONTROL (R799). -/
  | linkTestControl (port : Fin 2) (f : HostFrame)
  /-- LINK_TEST_INJECT (R802). -/
  | linkTestInject (port : Fin 2) (f : HostFrame)
  /-- REPLAY (R662). -/
  | replay (f : HostFrame)
  /-- RESULTS (R674). -/
  | results (f : HostFrame)
  /-- LOG (R679). -/
  | log (f : HostFrame)
  /-- EVENTS (R681). -/
  | events (f : HostFrame)
  /-- HOST_FRAME_END (R661). -/
  | hostFrameEnd (complete : Bool)
  /-- HIRQN_REASSERT (R685). -/
  | hirqnReassert
  /-- RESET (R145). -/
  | reset (f : HostFrame)
  /-- ACKNOWLEDGE_ALARM_LOG (R728). -/
  | acknowledgeAlarmLog (f : HostFrame)
  /-- REMOTE_REGISTER_READ (R668). -/
  | remoteRegisterRead (f : HostFrame)
  /-- OPEN (R791). -/
  | openScope (f : HostFrame)
  /-- CHALLENGE (R779). -/
  | challenge (f : HostFrame)
  /-- RESPONSE (R780). -/
  | response (f : HostFrame)
  /-- PASSWORD (R778). -/
  | password (f : HostFrame)
  /-- RELOCK (R787). -/
  | relock (f : HostFrame)
  /-- SEAL (R775). -/
  | sealDevice (f : HostFrame)
  /-- SEAL_COMPLETE (R775). -/
  | sealComplete (keyOk tagOk sealOk : Bool)
  /-- NONCE_EXPIRY (R781). -/
  | nonceExpiry
  /-- LOCKOUT_EXPIRY (R783). -/
  | lockoutExpiry
  /-- SESSION_INACTIVITY (R787). -/
  | sessionInactivity (scope : Fin 3)
  /-- TIMED_LOCAL_TEST (R804). -/
  | timedLocalTest (f : HostFrame)
  /-- TIMED_TEST_END (R804): `errors` bit errors since the port's last report. -/
  | timedTestEnd (port : Fin 2) (errors : BitVec 32)
  /-- STOP_ALL_TESTS (R805). -/
  | stopAllTests (f : HostFrame)
  /-- REMOTE_LINK_TEST (R806). -/
  | remoteLinkTest (f : HostFrame)
  /-- REMOTE_TEST_START (R807). -/
  | remoteTestStart
  /-- REMOTE_TEST_END (R813): `errors` as in TIMED_TEST_END, of this node's end. -/
  | remoteTestEnd (errors : BitVec 32)
  /-- LT_START (R814): `near`, this pod is the end one link count nearer the head (R806). -/
  | ltStart (near : Bool) (r : CourseRx)
  /-- LT_ACK (R812). -/
  | ltAck (r : CourseRx)
  /-- LT_ABORT (R812). -/
  | ltAbort (r : CourseRx)
  /-- LT_DONE (R813). -/
  | ltDone (r : CourseRx)
  /-- HOST_PORT_CHECK (R815). -/
  | hostPortCheck (f : HostFrame)
  /-- FLASH_CHECK (R816). -/
  | flashCheck (f : HostFrame)
  /-- FLASH_CHECK_COMPLETE (R816): for each read mode the bytes read that differ from the flash's, offset in the copy and byte; milliseconds. -/
  | flashCheckComplete (reads : Vector (List (Nat × Byte)) 4) (duration : BitVec 16)
  /-- REFERENCE_VOTE (R751). -/
  | referenceVote (o : VoteObs)
  /-- CLOCK_CROSS_COUNT (R754). -/
  | clockCrossCount (o : ClockObs)
  /-- KCLK_LOSS (R742). -/
  | kclkLoss
  /-- TEST_PATTERN (R755). -/
  | testPattern (fails : BitVec 3)
  /-- WATCHDOG_SERVICE (R757). -/
  | watchdogService (word : Byte)
  /-- WATCHDOG_EXPIRY (R757). -/
  | watchdogExpiry
  /-- STARTUP_TESTS_COMPLETE (R759). -/
  | startupTestsComplete (failed : Option (Fin 7))
  /-- FAULT_CLEAR (R744). -/
  | faultClear (code : Fin 28)
  /-- SCRUB_TICK (R716). -/
  | scrubTick (err : EccObs)
  /-- LOG_SUMMARY (R729). -/
  | logSummary
  /-- LOG_SAMPLE (R731). -/
  | logSample (entry : Fin 8)
  /-- SUPPLY_RISE (R43). -/
  | supplyRise (rail : MainSupply)
  /-- AO_POWER_ON (R36). -/
  | aoPowerOn (fromVin : Bool)
  /-- CUT_THROUGH_REPEAT (R579). -/
  | cutThroughRepeat (type : Byte) (busy : Bool) (r : CourseRx)
  /-- DISCOVER_RETURN (R589). -/
  | discoverReturn (r : CourseRx)
  /-- CHECKER_LOCK (R798): the bits received since the checker began to load, oldest first. -/
  | checkerLock (port : Fin 2) (rx : List Bool)
  /-- CHECKER_LOCK_LOSS (R798): `errors` as in TIMED_TEST_END; `window` the mismatches among the last 64 bits. -/
  | checkerLockLoss (port : Fin 2) (errors : BitVec 32) (window : BitVec 64)
  /-- ERROR_THRESHOLD (R803): `errors` as in TIMED_TEST_END. -/
  | errorThreshold (port : Fin 2) (errors : BitVec 32)
  deriving DecidableEq, Repr

end Sys2Proof
end

