-- ==== Sys2Proof/Config.lean ====
section
/-! DEFINITION. What an implementation fixes and the spec does not give: constants and functions with no body, so that
nothing can be proved from a value of theirs (log 8). -/

namespace Sys2Proof.Config

/-- A value the spec leaves open, the n-th one drawn: 32 bits. -/
opaque freeWord : Nat → BitVec 32

/-- The n-th draw of the noise source (R779), any number. -/
opaque noise : Nat → Nat

/-- The n-th nonce: any 128-bit value but 0 (R779). -/
def nonce (n : Nat) : BitVec 128 := BitVec.ofNat 128 (noise n % (2 ^ 128 - 1) + 1)

/-- The vendor key of the TEST scope (R780): 32 bytes, read by nothing else (R777). -/
opaque vendorKey : List Byte

/-- The vendor's public key for patch signatures (R102): the affine point. -/
opaque vendorPublicKey : Nat × Nat

/-- What R244 gives where its quadratic has no root: the spec states no temperature there. -/
opaque noRoot : Rat → Rat

/-- The LOADCLK trim of the Cornerstone tables at a TS7 value (R338). -/
opaque loadTrim : Rat → Int

/-- The KCLK trim of the Cornerstone tables at a TS7 value (R338). -/
opaque kclkTrim : Rat → Int

/-- By how much RTCCLK runs ahead of SYSCLK in a microsecond: the spec bounds both clocks and states neither (R519, R847). -/
opaque rtcRate : Nat → Nat

/-- The same in 2^-16 ppm, within 200 ppm: either clock lies within 100 ppm of its nominal rate (R519). -/
def rtcError (n : Nat) : Int := (rtcRate n % 26214401 : Nat) - 13107200

/-- Conversion time of the EXS visit in units of 0.1 ms: the spec names none (R227). -/
opaque exsTime : Nat

/-- What a pod takes as decimation factor and delay limit: section 0x0E stays with the head and no frame carries them (R628). -/
opaque podLimits : Nat × Nat

/-- The pod's decimation factor, in the range of section 0x0E. -/
def podDecimation : Nat := 2 + podLimits.1 % 15

/-- The pod's background delay limit, in the range of section 0x0E. -/
def podDelayLimit : Nat := 1 + podLimits.2 % 255

/-- Stage 1 with the curvature of VREF that Cornerstone holds, at a mean of TS4 in degrees (R339): the spec gives neither its form nor a formula. -/
opaque curve : Rat → Rat → Rat → Rat

/-- Stage 1 with a reference in use that is not the one measured against: the value of R545 from the uncorrected value and the voted
VREF. The spec states that records are corrected with that VREF, and no formula. -/
opaque refCorrect : Rat → Rat → Rat

/-- Fields of the MISSING record of a VCN of a parked pod that has no entry (R669): sequence, timestamp, raw, age (0 - 3). -/
opaque parkedField : Vcn → Nat → Nat

end Sys2Proof.Config
end

