-- ==== Sys2Proof/Machine/Bits.lean ====
section
/-! DEFINITION. Byte lists, CRCs, SHA-256, HMAC and ECDSA P-256, as the spec names them (R4, R88, R90, R102, R656, R780). -/

namespace Sys2Proof.Machine

/-- Byte `o` of a payload; bytes beyond the end read 0. -/
def u8 (p : List Byte) (o : Nat) : Nat := (p.getD o 0).toNat

/-- Little-endian value of `n` bytes at `o` (R4). -/
def le (p : List Byte) (o : Nat) : Nat → Nat
  | 0 => 0
  | n + 1 => u8 p o + 256 * le p (o + 1) n

/-- Two bytes at `o`. -/
def u16 (p : List Byte) (o : Nat) : Nat := le p o 2

/-- Four bytes at `o`. -/
def u32 (p : List Byte) (o : Nat) : Nat := le p o 4

/-- Two's complement reading of a value of `w` bits. -/
def signed (w n : Nat) : Int := if n < 2 ^ (w - 1) then (n : Int) else (n : Int) - 2 ^ w

/-- Four bytes at `o` as a binary32 pattern. -/
def f32At (p : List Byte) (o : Nat) : F32 := BitVec.ofNat 32 (u32 p o)

/-- The bits `[lo + w - 1 : lo]` of a value (R5). -/
def field (v lo w : Nat) : Nat := (v >>> lo) % 2 ^ w

/-- Bit `i` of a value. -/
def bit (v i : Nat) : Bool := v.testBit i

/-- Every byte of `[o, o + n)` is 0. -/
def zeros (p : List Byte) (o n : Nat) : Bool := ((p.drop o).take n).all (· == 0)

/-- `n` bytes of a value, least significant first (R4). -/
def toLE (n v : Nat) : List Byte :=
  match n with
  | 0 => []
  | k + 1 => BitVec.ofNat 8 v :: toLE k (v / 256)

/-- A 16-bit saturating count goes up by one (R700). -/
def sat16 (c : BitVec 16) : BitVec 16 := if c = 0xFFFF then c else c + 1

/-- An 8-bit saturating count goes up by one. -/
def sat8 (c : BitVec 8) : BitVec 8 := if c = 0xFF then c else c + 1

/-- A 32-bit saturating count goes up by one. -/
def sat32 (c : BitVec 32) : BitVec 32 := if c = 0xFFFFFFFF then c else c + 1

/-- `sat16`, `n` times. -/
def sat16Add (c : BitVec 16) (n : Nat) : BitVec 16 := BitVec.ofNat 16 (min 0xFFFF (c.toNat + n))

/-- Element `i` of a vector changed by `f`. -/
def vmod {α : Type} {n : Nat} (v : Vector α n) (i : Fin n) (f : α → α) : Vector α n := v.set i.val (f (v[i])) i.isLt

/-- Byte `i` of a payload replaced, when the payload reaches that far. -/
def setAt (p : List Byte) (i : Nat) (b : Byte) : List Byte := p.set i b

/-- One byte through the CRC-16 of the host port: polynomial 0x1021, no reflection (R656). -/
def crc16Byte (c : BitVec 16) (b : Byte) : BitVec 16 :=
  (List.range 8).foldl (fun c _ => if c.msb then (c <<< 1) ^^^ 0x1021 else c <<< 1) (c ^^^ (b.zeroExtend 16 <<< 8))

/-- The CRC-16 of R656. -/
def crc16 (bs : List Byte) : BitVec 16 := bs.foldl crc16Byte 0xFFFF

/-- One byte through the reflected IEEE 802.3 CRC-32 (R88). -/
def crc32Byte (c : BitVec 32) (b : Byte) : BitVec 32 :=
  (List.range 8).foldl (fun c _ => if c.getLsbD 0 then (c >>> 1) ^^^ 0xEDB88320 else c >>> 1) (c ^^^ b.zeroExtend 32)

/-- The CRC-32 of R88. -/
def crc32 (bs : List Byte) : BitVec 32 := bs.foldl crc32Byte 0xFFFFFFFF ^^^ 0xFFFFFFFF

/-! SHA-256 (FIPS 180-4) and HMAC (FIPS 198-1). -/

/-- The round constants of SHA-256, eight to a number, the first in its highest bits. -/
def shaK : List Nat :=
  [0x428A2F9871374491B5C0FBCFE9B5DBA53956C25B59F111F1923F82A4AB1C5ED5,
   0xD807AA9812835B01243185BE550C7DC372BE5D7480DEB1FE9BDC06A7C19BF174,
   0xE49B69C1EFBE47860FC19DC6240CA1CC2DE92C6F4A7484AA5CB0A9DC76F988DA,
   0x983E5152A831C66DB00327C8BF597FC7C6E00BF3D5A7914706CA635114292967,
   0x27B70A852E1B21384D2C6DFC53380D13650A7354766A0ABB81C2C92E92722C85,
   0xA2BFE8A1A81A664BC24B8B70C76C51A3D192E819D6990624F40E3585106AA070,
   0x19A4C1161E376C082748774C34B0BCB5391C0CB34ED8AA4A5B9CCA4F682E6FF3,
   0x748F82EE78A5636F84C878148CC7020890BEFFFAA4506CEBBEF9A3F7C67178F2]

/-- The initial hash value, H0 in the highest bits. -/
def shaStart : Nat :=
  0x6A09E667BB67AE853C6EF372A54FF53A510E527F9B05688C1F83D9AB5BE0CD19

/-- The eight 32-bit words of a number, highest first. -/
def eightWords (n : Nat) : List (BitVec 32) := (List.range 8).map fun i => BitVec.ofNat 32 (n >>> (32 * (7 - i)))

/-- Big-endian number of a byte list. -/
def beNat (p : List Byte) : Nat := p.foldl (fun a b => 256 * a + b.toNat) 0

/-- A word turned right by two amounts, and turned or moved right by a third, exclusive-ored: the four sums of FIPS 180-4. -/
def shaSum (x : BitVec 32) (a b c : Nat) (turn : Bool) : BitVec 32 := x.rotateRight a ^^^ x.rotateRight b ^^^ if turn then x.rotateRight c else x >>> c

/-- `x` where `p` has a bit set, `y` elsewhere. -/
def shaPick (p x y : BitVec 32) : BitVec 32 := y ^^^ (p &&& (x ^^^ y))

/-- The words of the message schedule run past the rounds in a window of sixteen, the next to use at its head; the rounds turn the working variables,
held as a to d and e to h. -/
def shaRounds : List (BitVec 32) → List (BitVec 32) → List (BitVec 32) → List (BitVec 32) → List (BitVec 32)
  | k :: ks, w, [a, b, c, d], [e, f, g, h] =>
    let word (i : Nat) : BitVec 32 := w.getD i 0
    let feed := h + k + word 0 + shaSum e 6 11 25 true + shaPick e f g
    let next := word 0 + shaSum (word 1) 7 18 3 false + word 9 + shaSum (word 14) 17 19 10 false
    shaRounds ks (w.drop 1 ++ [next]) [feed + shaSum a 2 13 22 true + shaPick (a ^^^ b) c a, a, b, c] [d + feed, e, f, g]
  | _, _, x, y => x ++ y

/-- One block of 64 bytes, as two numbers of eight words, into the hash value. -/
def shaBlock (h : List (BitVec 32)) (blk : List Byte) : List (BitVec 32) :=
  let w := eightWords (beNat (blk.take 32)) ++ eightWords (beNat (blk.drop 32))
  List.zipWith (· + ·) h (shaRounds (shaK.flatMap eightWords) w (h.take 4) (h.drop 4))

/-- The blocks of 64 bytes of a padded message, one after the other. -/
def shaFold : Nat → List (BitVec 32) → List Byte → List (BitVec 32)
  | 0, h, _ => h
  | n + 1, h, m => shaFold n (shaBlock h (m.take 64)) (m.drop 64)

/-- SHA-256: the message, a one bit, zeros up to 8 bytes short of a block's end, and its length in bits, big-endian. -/
def sha256 (m : List Byte) : List Byte :=
  let blocks := (m.length + 72) / 64
  let tail := (0x80 : Byte) :: List.replicate (64 * blocks - m.length - 9) 0
  (shaFold blocks (eightWords shaStart) (m ++ tail ++ (toLE 8 (8 * m.length)).reverse)).flatMap fun w => (toLE 4 w.toNat).reverse

/-- HMAC-SHA-256 with a key of at most 64 bytes. -/
def hmacSha256 (key m : List Byte) : List Byte :=
  let k := key ++ List.replicate (64 - key.length) 0
  sha256 ((k.map (· ^^^ 0x5C)) ++ sha256 ((k.map (· ^^^ 0x36)) ++ m))

/-! ECDSA over P-256 (FIPS 186-4). -/

/-- The field prime of P-256. -/
def p256 : Nat := 0xFFFFFFFF00000001000000000000000000000000FFFFFFFFFFFFFFFFFFFFFFFF
/-- The group order of P-256. -/
def n256 : Nat := 0xFFFFFFFF00000000FFFFFFFFFFFFFFFFBCE6FAADA7179E84F3B9CAC2FC632551
/-- The base point of P-256. -/
def g256 : Nat × Nat := (0x6B17D1F2E12C4247F8BCE6E563A440F277037D812DEB33A0F4A13945D898C296,
  0x4FE342E2FE1A7F9B8EE7EB4A7C0F9E162BCE33576B315ECECBB6406837BF51F5)

/-- `b ^ e mod m` over `k` exponent bits. -/
def powMod (m : Nat) : Nat → Nat → Nat → Nat
  | 0, _, _ => 1
  | k + 1, b, e => (if e % 2 = 1 then b else 1) * powMod m k (b * b % m) (e / 2) % m

/-- Inverse modulo a prime. -/
def invMod (m a : Nat) : Nat := powMod m 256 (a % m) (m - 2)

/-- Addition of points, none being the point at infinity. -/
def ptAdd (a b : Option (Nat × Nat)) : Option (Nat × Nat) :=
  match a, b with
  | none, q => q
  | q, none => q
  | some (x1, y1), some (x2, y2) =>
    if x1 = x2 ∧ (y1 + y2) % p256 = 0 then none
    else
      let l := if x1 = x2 then (3 * x1 * x1 + (p256 - 3)) * invMod p256 (2 * y1) % p256
        else (y2 + p256 - y1) * invMod p256 (x2 + p256 - x1) % p256
      let x3 := (l * l + 2 * p256 - x1 - x2) % p256
      some (x3, (l * (x1 + p256 - x3) + p256 - y1) % p256)

/-- Scalar multiple over `k` bits. -/
def ptMul : Nat → Nat → Option (Nat × Nat) → Option (Nat × Nat)
  | 0, _, _ => none
  | k + 1, e, q => ptAdd (if e % 2 = 1 then q else none) (ptMul k (e / 2) (ptAdd q q))

/-- ECDSA P-256 verification of a SHA-256 digest: `sig` is r then s, 32 bytes each, big-endian (R102). -/
def ecdsaVerify (pub : Nat × Nat) (digest sig : List Byte) : Bool :=
  let r := beNat (sig.take 32)
  let t := beNat ((sig.drop 32).take 32)
  let w := invMod n256 t
  let z := beNat digest
  0 < r && r < n256 && 0 < t && t < n256 &&
  match ptAdd (ptMul 256 (z * w % n256) (some g256)) (ptMul 256 (r * w % n256) (some pub)) with
  | none => false
  | some (x, _) => x % n256 == r

end Sys2Proof.Machine
end

