-- ==== Sys2Proof/Machine/Flags.lean ====
section
/-! DEFINITION. The status word of a result record (17, table Status word) and the host command status codes. -/

namespace Sys2Proof.Machine

/-- Bit `n` of a status word, when the condition holds. -/
def flagBit (n : Nat) (b : Bool) : BitVec 16 := if b then BitVec.ofNat 16 (2 ^ n) else 0

/-- The conditions of the status word, each named as the table names its bit. FRESH and REPEAT belong to mailbox responses
only (R672). -/
structure StatusBits where
  valid : Bool := false
  notYet : Bool := false
  stale : Bool := false
  delayed : Bool := false
  decimated : Bool := false
  missing : Bool := false
  overRange : Bool := false
  openInput : Bool := false
  userCal : Bool := false
  inBand : Bool := false
  late : Bool := false
  shadowed : Bool := false
  lagged : Bool := false
  deriving DecidableEq, Repr

/-- The word of those conditions; bits 1, 2 and 15 are 0. -/
def StatusBits.word (b : StatusBits) : BitVec 16 :=
  flagBit 0 b.valid ||| flagBit 3 b.notYet ||| flagBit 4 b.stale ||| flagBit 5 b.delayed ||| flagBit 6 b.decimated |||
    flagBit 7 b.missing ||| flagBit 8 b.overRange ||| flagBit 9 b.openInput ||| flagBit 10 b.userCal |||
    flagBit 11 b.inBand ||| flagBit 12 b.late ||| flagBit 13 b.shadowed ||| flagBit 14 b.lagged

/-- A status word carries VALID. -/
def isValid (w : BitVec 16) : Bool := w.getLsbD 0

/-- Set bit `n` of a status word. -/
def setFlag (w : BitVec 16) (n : Nat) : BitVec 16 := w ||| BitVec.ofNat 16 (2 ^ n)

/-- Clear bit `n` of a status word. -/
def clearFlag (w : BitVec 16) (n : Nat) : BitVec 16 := w &&& ~~~(BitVec.ofNat 16 (2 ^ n))

/-- Host command status codes (17). -/
def stOk : Byte := 0x00
def stBusy : Byte := 0x01
def stCapacity : Byte := 0x02
def stExpired : Byte := 0x03
def stLocked : Byte := 0x04
def stBadArg : Byte := 0x05
def stNotInMode : Byte := 0x06
def stStability : Byte := 0x07
def stPlausibility : Byte := 0x08
def stCrossCheck : Byte := 0x09
def stUnknownVcn : Byte := 0x0A
def stCrcError : Byte := 0x0B
def stIncompatible : Byte := 0x0C
def stLateRun : Byte := 0x0D

end Sys2Proof.Machine
end

