-- ==== Sys2Proof/Machine/Float.lean ====
section
/-! DEFINITION. IEEE 754 binary32 arithmetic with round to nearest even (R357), the one NaN of R841, and the
decay factors of Mere (R456 - R458). -/

namespace Sys2Proof.Machine

/-- The one quiet NaN the device writes (R841). -/
def qnan : F32 := 0x7FC00000

/-- What a binary32 pattern stands for: NaN, an infinity, or sign and magnitude in units of 2^-149. -/
inductive FVal where
  | nan
  | inf (neg : Bool)
  | fin (neg : Bool) (m : Nat)
  deriving DecidableEq, Repr

/-- Decode a pattern. -/
def fval (x : F32) : FVal :=
  let neg := x.msb
  let e := (x.toNat >>> 23) % 256
  let f := x.toNat % 2 ^ 23
  if e = 255 then (if f = 0 then .inf neg else .nan)
  else if e = 0 then .fin neg f
  else .fin neg ((f + 2 ^ 23) <<< (e - 1))

/-- Division rounded to nearest, ties to even. -/
def divRNE (a b : Nat) : Nat :=
  let q := a / b
  let r := a % b
  if 2 * r < b then q else if b < 2 * r then q + 1 else q + q % 2

/-- A signed ratio rounded to nearest even. -/
def divRNEInt (a : Int) (b : Nat) : Int := if a < 0 then -(divRNE a.natAbs b : Int) else (divRNE a.natAbs b : Int)

/-- The pattern nearest to `num / den` in units of 2^-149, ties to even; overflow gives infinity. -/
def packUnits (neg : Bool) (num den : Nat) : F32 :=
  let s : Nat := if neg then 2 ^ 31 else 0
  let q := num / den
  -- the bits of q above 24 are rounded away
  let sh := if q < 2 ^ 24 then 0 else q.log2 - 23
  let m := divRNE num (den * 2 ^ sh)
  let v := if m < 2 ^ 23 then m else (sh + 1 + m / 2 ^ 24) * 2 ^ 23 + (if m = 2 ^ 24 then 0 else m - 2 ^ 23)
  if (0xFF : Nat) * 2 ^ 23 ≤ v then BitVec.ofNat 32 (s + 0xFF * 2 ^ 23) else BitVec.ofNat 32 (s + v)

/-- The pattern nearest to a rational, ties to even; zero is +0. -/
def ofRat (r : Rat) : F32 := packUnits (decide (r < 0)) (r.num.natAbs * 2 ^ 149) r.den

/-- The value of a finite pattern. -/
def toRat? (x : F32) : Option Rat :=
  match fval x with
  | .fin neg m => some ((if neg then -1 else 1) * (m : Rat) / 2 ^ 149)
  | _ => none

/-- The value of a pattern, 0 for NaN and infinities. -/
def toRatD (x : F32) : Rat := (toRat? x).getD 0

/-- Finite: neither NaN nor infinite. -/
def isFinite (x : F32) : Bool :=
  match fval x with
  | .fin _ _ => true
  | _ => false

/-- NaN. -/
def isNaN (x : F32) : Bool :=
  match fval x with
  | .nan => true
  | _ => false

/-- A value as the device writes it: every NaN is the one of R841. -/
def oneNaN (x : F32) : F32 := if isNaN x then qnan else x

/-- `x + y` (R357). -/
def fadd (x y : F32) : F32 :=
  match fval x, fval y with
  | .nan, _ => qnan
  | _, .nan => qnan
  | .inf a, .inf b => if a = b then x else qnan
  | .inf _, _ => x
  | _, .inf _ => y
  | .fin a m, .fin b n =>
    let v : Int := (if a then -(m : Int) else m) + (if b then -(n : Int) else n)
    if v = 0 then (if a && b then 0x80000000 else 0) else packUnits (decide (v < 0)) v.natAbs 1

/-- `-x`. -/
def fneg (x : F32) : F32 := x ^^^ 0x80000000

/-- `x - y`. -/
def fsub (x y : F32) : F32 := if isNaN y then qnan else fadd x (fneg y)

/-- `x * y`. -/
def fmul (x y : F32) : F32 :=
  match fval x, fval y with
  | .nan, _ => qnan
  | _, .nan => qnan
  | .inf a, .inf b => if a = b then 0x7F800000 else 0xFF800000
  | .inf a, .fin b n => if n = 0 then qnan else if a = b then 0x7F800000 else 0xFF800000
  | .fin a m, .inf b => if m = 0 then qnan else if a = b then 0x7F800000 else 0xFF800000
  | .fin a m, .fin b n => packUnits (a != b) (m * n) (2 ^ 149)

/-- `x / y`. -/
def fdiv (x y : F32) : F32 :=
  match fval x, fval y with
  | .nan, _ => qnan
  | _, .nan => qnan
  | .inf _, .inf _ => qnan
  | .inf a, .fin b _ => if a = b then 0x7F800000 else 0xFF800000
  | .fin a _, .inf b => if a = b then 0 else 0x80000000
  | .fin a m, .fin b n =>
    if n = 0 then (if m = 0 then qnan else if a = b then 0x7F800000 else 0xFF800000)
    else packUnits (a != b) (m * 2 ^ 149) n

/-- `x < y` on values; false with a NaN (R846). -/
def flt (x y : F32) : Bool :=
  match fval x, fval y with
  | .nan, _ => false
  | _, .nan => false
  | .inf a, .inf b => a && !b
  | .inf a, .fin _ _ => a
  | .fin _ _, .inf b => !b
  | .fin a m, .fin b n => decide ((if a then -(m : Int) else m) < (if b then -(n : Int) else n))

/-- `x ≤ y` on values; false with a NaN. -/
def fle (x y : F32) : Bool := !isNaN x && !isNaN y && !flt y x

/-- Floor of a rational, for the encoders (R490). -/
def ratFloor (r : Rat) : Int := r.num / (r.den : Int)

/-- A rational rounded to the nearest integer, ties to even. -/
def ratRNE (r : Rat) : Int := divRNEInt r.num r.den

/-- The absolute value of a rational. -/
def ratAbs (r : Rat) : Rat := if r < 0 then -r else r

/-! Decay factors of Mere. -/

/-- Terms of the series of exp(-x), x = num/den, in units of 2^-160: each step multiplies the term by x/k. -/
def expSeries (num den : Nat) : Nat → Nat → Nat → Int → Bool → Int
  | 0, _, _, acc, _ => acc
  | fuel + 1, k, term, acc, neg =>
    let t := term * num / (den * k)
    expSeries num den fuel (k + 1) t (if neg then acc - t else acc + t) (!neg)

/-- Entry b of the table for τ: round(2^24 × exp(−2^b µs / τ)) (R456), τ in milliseconds. From x = 2^b/(1000 τ) on above 24
the entry is 0, since 2^24 e^-24 is below one half; below, 160 terms in 2^-160 leave far less than the distance to a tie. -/
def expEntry (tau b : Nat) : Nat :=
  let num := 2 ^ b
  let den := 1000 * tau
  if 24 * den < num then 0
  else
    let e := expSeries num den 160 1 (2 ^ 160) (2 ^ 160) true
    divRNE e.toNat (2 ^ 136)

/-- The decay factor D(τ, Δ) over bits `b` .. 30 (R457). -/
def decayFrom (tau d : Nat) : Nat → Nat → Nat → Nat
  | 0, _, x => x
  | fuel + 1, b, x =>
    decayFrom tau d fuel (b + 1) (if d.testBit b then divRNE (x * expEntry tau b) (2 ^ 24) else x)

/-- D(τ, Δ), in units of 2^-24 (R457). -/
def decay (tau d : Nat) : Nat := decayFrom tau d 31 0 (2 ^ 24)

/-- mul(s, d) = round_half_even(s × d / 2^24) (R458). -/
def mulD (s d : Int) : Int := divRNEInt (s * d) (2 ^ 24)

/-- mulg(g, x) = round_half_even(g × x / 2^10) (R458). -/
def mulG (g x : Int) : Int := divRNEInt (g * x) (2 ^ 10)

end Sys2Proof.Machine
end

