-- ==== Sys2Proof/Machine/State.lean ====
section
/-! DEFINITION. The state of the YN-4812 as plain data. Every field's comment ends with [where the spec names it;
width; value at reset], and the field's default is that value: `State.reset` is all defaults. `log 3` is the log
entry that names every value the spec does not state. Sub-structures are named after the blocks of the spec. -/

namespace Sys2Proof.Machine

/-- The role (R1). -/
inductive Role where
  | head | pod
  deriving DecidableEq, Repr

/-- The three modes (04). -/
inductive Mode where
  | run | watch | safe
  deriving DecidableEq, Repr

/-- The warm reset kinds (table Reset kinds). -/
inductive WarmKind where
  | pin | watchdog | command | ioSupply | thermal
  deriving DecidableEq, Repr

/-- Where the device stands between power and a mode (04: reset and Footing are states, not modes). -/
inductive Phase where
  /-- VDD power-on reset asserted (R42). -/
  | porHold
  /-- In a warm reset of that kind (R144). -/
  | reset (k : WarmKind)
  /-- Released, Footing waits for RESETn (R68). -/
  | waitResetn
  /-- Footing runs (R70). -/
  | footing
  /-- Footing has chosen its images; handover follows. -/
  | loaded
  /-- A pod waits for the head (R104). -/
  | podWait
  /-- In a mode, from handover to the next reset. -/
  | running
  /-- Production test (R818). -/
  | production
  deriving DecidableEq, Repr

/-- Supplies and monitors (02). -/
structure Supply where
  /-- VDD above its thresholds. [02 R41; 1; false: before power, log 3] -/
  vdd : Bool := false
  /-- VDDA above its thresholds. [02 R41; 1; false, log 3] -/
  vdda : Bool := false
  /-- VDDIO above its thresholds. [02 R41; 1; false, log 3] -/
  vddio : Bool := false
  /-- VIN above its undervoltage thresholds. [02 R41, R62; 1; false, log 3] -/
  vin : Bool := false
  /-- VRATIO above its thresholds. [02 R41, R65; 1; false, log 3] -/
  vratio : Bool := false
  /-- The AO domain is supplied. [02 R36, R45; 1; false, log 3] -/
  ao : Bool := false
  /-- The AO regulator is fed from the VIN start-up regulator. [02 R36, R63; 1; false, log 3] -/
  aoFromVin : Bool := false
  /-- The 1.6 - 2.4 ms release timer runs. [02 R43; 1; false] -/
  releaseTimer : Bool := false
  /-- The clk at which each of the two timers was started. [02 R43, R44; -; 0] -/
  releaseFrom : Nat := 0
  ioFrom : Nat := 0
  /-- The 1.6 - 2.4 ms IO release timer runs. [02 R44; 1; false] -/
  ioTimer : Bool := false
  /-- A supply stands above 3.6 V (status page bit 5). [02 R66, 18; 1; false] -/
  above36 : Bool := false
  /-- VCORE LDO, LOADCLK and KCLK run. [02 power-up step 2; 1; false] -/
  coreRunning : Bool := false
  deriving DecidableEq, Repr

/-- Factory one-time-programmable store (R73, table Cornerstone contents). -/
structure Cornerstone where
  /-- The Cornerstone CRC checks. [03 R73; 1; true: factory content, log 5] -/
  ok : Bool := true
  /-- Unique ID. [10 Cornerstone contents; 64; 0, log 5] -/
  uniqueId : BitVec 64 := 0
  /-- Stepping code. [03 Version codes; 8; 0x00, log 5] -/
  stepping : Byte := 0
  /-- ROM version code. [03 Version codes; 16; 0x0100, log 5] -/
  rom : BitVec 16 := 0x0100
  /-- Container format minor the ROM knows. [03 R100; 8; 0, log 5] -/
  romMinor : Byte := 0
  /-- Highest link protocol version. [15 R598; 4; 1] -/
  linkVersion : Byte := 1
  /-- Calibrated packets in units of 10^-21 C that differ from nominal: Weir, range, value. [05 R185; list; empty = nominal, log 5] -/
  qCal : List (Nat × Nat × Rat) := []
  /-- Bias DAC offsets of EC0 - EC7, microvolt. [10 Cornerstone contents; 8; 0, log 5] -/
  biasOffset : Vector Int 8 := Vector.replicate 8 0
  /-- Factory gradients of TS0 - TS7 in 0.1 K/W. [09 R323; 8 x 8; 0, log 5] -/
  gradients : Vector Int 8 := Vector.replicate 8 0
  /-- R_aux_cal in ohm. [06 R228; -; 12500, log 5] -/
  rAux : Rat := 12500
  /-- V_force_cal over V_force, per MOX channel. [07 R260; 6; 1, log 5] -/
  vForce : Vector Rat 6 := Vector.replicate 6 1
  /-- VREF curvature; 0: none. [10 Cornerstone contents, 09 R339; -; 0, log 5] -/
  vrefCurve : Rat := 0
  /-- Tone trim: applied over configured amplitude. [06 R216; -; 1, log 5] -/
  toneTrim : Rat := 1
  deriving DecidableEq, Repr

/-- One-time-programmable memory of the Gate (R775). -/
structure Otp where
  /-- The seal bit. [21 R770; 1; false: OPEN from the factory] -/
  sealBit : Bool := false
  /-- The tags-required bit. [21 R775; 1; false] -/
  tagsRequired : Bool := false
  /-- The user key, none while unwritten. [21 R775; 256; none] -/
  userKey : Option (List Byte) := none
  /-- A seal readback failed once (R776). [21 R776; 1; false] -/
  sealFailed : Bool := false
  deriving DecidableEq, Repr

/-- A result record (17, 24 bytes; the length of VCN, sequence and so on as there). -/
structure Record where
  vcn : Vcn
  status : BitVec 16
  seq : BitVec 32
  time : Count48
  value : F32
  raw : BitVec 32
  age : BitVec 16
  deriving DecidableEq, Repr

/-- The result store entry of one known VCN. -/
structure VcnEntry where
  /-- The record held; none reads under R675. [17 R674, R675; 192; none] -/
  record : Option Record := none
  /-- Frame sequence and age last delivered. [17 R676; 32 + 16; none] -/
  delivered : Option (BitVec 32 × BitVec 16) := none
  /-- Frame sequence of the channel's last frame. [17 R670; 32; 0 before the first] -/
  frameSeq : BitVec 32 := 0
  /-- Frames without a record since the last record. [17 R671; 16; 0] -/
  skipped : Nat := 0
  /-- Latest VALID value and its time (R358). [10 R358; 32 + 48; none] -/
  lastValid : Option (F32 × Count48) := none
  /-- Frame sequence last sampled into the log. [19 R731; 32; none] -/
  sampled : Option (BitVec 32) := none
  deriving DecidableEq, Repr

/-- A Render entry (10, table Render entry). -/
structure RenderEntry where
  vcn : Vcn
  tag : BitVec 16
  zero : Bool
  span : Bool
  era : Byte
  time : Count48
  yz : F32
  cz : F32
  g : F32
  deriving DecidableEq, Repr

/-- The Render copy in use (R368). -/
structure RenderCopy where
  sector : Fin 2
  sequence : BitVec 32
  entries : List RenderEntry
  deriving DecidableEq, Repr

/-- A configuration in force: the payload of each accepted section, by section ID (R99). -/
structure Image where
  secs : List (Byte × List Byte) := []
  deriving DecidableEq, Repr

/-- The loaded network image (13): its sections by ID, its kind word and image CRC. -/
structure MereImage where
  secs : List (Byte × List Byte)
  epoch : BitVec 32
  crc : BitVec 32
  sequence : BitVec 32
  deriving DecidableEq, Repr

/-- Flash read modes (03, identity page encoding). -/
inductive ReadMode where
  | baseline | single | dual | quad
  deriving DecidableEq, Repr

/-- The boot report and what Footing has chosen (03). -/
structure Boot where
  /-- Cornerstone has been checked (identity valid). [18 R703; 1; false] -/
  idValid : Bool := false
  /-- Read mode selected. [03 R79; 2; baseline, log 3] -/
  readMode : ReadMode := .baseline
  /-- NSCK runs at 24 MHz; else at 12 MHz. [03 R82; 1; false] -/
  fastClock : Bool := false
  /-- Dummy cycles of the read command. [03 R79; 6; 0] -/
  dummies : BitVec 6 := 0
  /-- 4-byte addressing selected. [03 R81; 1; false] -/
  fourByte : Bool := false
  /-- log2 of the density in bits, 0 unknown. [18 identity page; 8; 0] -/
  density : Byte := 0
  /-- SFDP found. [03 R83; 1; false] -/
  sfdp : Bool := false
  /-- The BFPT names a 4 KiB erase, or none is needed (R117). [03 R117; 1; false] -/
  erase4k : Bool := false
  /-- The 4 KiB erase instruction. [10 R369; 8; 0x20] -/
  eraseOp : Byte := 0x20
  /-- The backup anchor is in use. [03 R86; 1; false] -/
  backupAnchor : Bool := false
  /-- Slot table of the anchor in use: offset, capacity; offset none when absent. [03 R85; 8 x 64; all absent] -/
  slots : Vector (Option (Nat × Nat)) 8 := Vector.replicate 8 none
  /-- Outcome codes: configuration A, B, Mere A, B, patch A, B. [03 Copy outcome codes; 6 x 4; 0xF, log 3] -/
  outcomes : Vector Byte 6 := Vector.replicate 6 0xF
  /-- Warning count. [03 R114; 16 saturating; 0] -/
  warnings : BitVec 16 := 0
  /-- Cases of the warnings counted, in order (log entries at handover). [03 R114; list; empty] -/
  warningCases : List (BitVec 16) := []
  /-- Configuration chosen, not yet applied. [03 R99; -; none] -/
  config : Option Image := none
  /-- Slot (0 A, 1 B) of the configuration in use. [03; 1; none] -/
  configSlot : Option (Fin 2) := none
  /-- Sequence of the configuration copy. [18 identity page; 32; 0] -/
  configSeq : BitVec 32 := 0
  /-- Image length of the configuration copy in use. [22 R816; 32; 0] -/
  configLen : Nat := 0
  /-- Network image chosen. [03 R100; -; none] -/
  mere : Option MereImage := none
  /-- Patch sequence applied. [18 identity page; 32; 0xFFFF_FFFF] -/
  patchSeq : BitVec 32 := 0xFFFFFFFF
  /-- Sub-images rejected: their section IDs. [03 R113; list; empty] -/
  badSubImages : List Byte := []
  /-- Footing duration in microseconds. [18 identity page; 32; 0] -/
  duration : BitVec 32 := 0
  /-- When Footing started, on the own clock; in a pod, when it has its images. [20 R758; -; 0] -/
  startClk : Nat := 0
  /-- SAFE cause Footing ended with, none when it loads a configuration. [04 SAFE causes; 8; none] -/
  safeCause : Option (Fin 10) := none
  /-- When Footing began to wait for a busy flash, on the own clock. [03 R76; -; none] -/
  wipClk : Option Nat := none
  /-- Boot report fields from 0x30 on are filled. [18 R703; 1; false] -/
  reported : Bool := false
  deriving DecidableEq, Repr

/-- Operating modes (04). -/
structure Modes where
  /-- The mode; meaningful while running. [04 R121; 2; safe, log 3] -/
  mode : Mode := .safe
  /-- Pending request of the host. [04 R132; 2; none] -/
  hostReq : Option Mode := none
  /-- Pending request of Sluice, with its slot. [04 R132; 2 + 7; none] -/
  sluiceReq : Option (Mode × Fin 128) := none
  /-- Active SAFE causes, bit n for code n. [04 SAFE causes; 16; 0] -/
  causes : BitVec 16 := 0
  /-- Cause 0x06 reported as no longer present. [04 R138; 1; false] -/
  railCauseGone : Bool := false
  /-- clk since when neither cause 0x06 nor 0x07 is present any more, after one of them was; none otherwise. [04 R138; -; none] -/
  goneClk : Option Nat := none
  /-- Last transition: old mode as a code. [18 mode page; 8; 0xFF, log 3] -/
  oldMode : Byte := 0xFF
  /-- Last transition: new mode. [18 mode page; 8; safe, log 3] -/
  newMode : Mode := .safe
  /-- Last transition: cause code. [04 R135; 8; 0] -/
  lastCause : Byte := 0
  /-- Last transition: time and era. [04 R135; 56; 0] -/
  lastTime : Count48 × Byte := (0, 0)
  /-- AO mode record. [04 R129; 2; none: cleared by an AO reset] -/
  record : Option Mode := none
  /-- Thermal latch (AO). [04 R147; 1; false] -/
  thermalLatch : Bool := false
  /-- A thermal reset since the last handover: its EV15 is queued at the next one. [04 R152; 1; false] -/
  thermalDue : Bool := false
  /-- Reset cause register. [04 Reset kinds; 8; 0x01 AO reset] -/
  resetCause : Byte := 1
  /-- Warm resets since the last VDD power-on reset. [04; 16 saturating; 0] -/
  warmResets : BitVec 16 := 0
  /-- The rail hold timer runs; its time in microseconds and the clk of its start. [04 R150, R151; 1 + -; false, 0, 0] -/
  railHold : Bool := false
  holdUs : Nat := 0
  holdClk : Nat := 0
  /-- The start now in progress follows a VDD power-on reset (cold). [05 R174; 1; true] -/
  cold : Bool := true
  /-- Watchdog resets: times (clk) of the latest ones. [20 R758; list; empty] -/
  watchdogTimes : List Nat := []
  /-- The last watchdog reset was at least the third within 10 min. [20 R758; 1; false] -/
  watchdogThird : Bool := false
  /-- clk at the start of the warm reset in force or last in force. [04 R144; -; 0] -/
  resetClk : Nat := 0
  /-- clk at handover (uptime). [18 status page; -; 0] -/
  handoverClk : Nat := 0
  deriving DecidableEq, Repr

/-- Stage of a channel's start or end of bias (R174 - R178, R850). -/
inductive BiasStage where
  /-- Absent: switch closed, DAC 0, CE off (R177). -/
  | off
  /-- Step 1 done, waits for step 2 (R174, R850). -/
  | cold
  /-- Step 3 passed: biased. -/
  | biased
  /-- Slewing to 0 at 1 mV/s (R176). -/
  | retiring
  /-- At 0 V, waits to close the switch (R176). -/
  | retiredAtZero
  /-- Switch closed, waits to disable (R176). -/
  | retiredShorted
  deriving DecidableEq, Repr

/-- An electrochemical channel (05); the first three fields are the BIAS domain. -/
structure EcChan where
  /-- Bias DAC code in 2 microvolt steps. [05 R168; signed 20; 0] -/
  dac : Int := 0
  /-- Potentiostat enabled. [05 R177; 1; false] -/
  enabled : Bool := false
  /-- Shorting switch closed. [05 R208; 1; true] -/
  shorted : Bool := true
  /-- Stage. [05 R174 - R178; -; off] -/
  stage : BiasStage := .off
  /-- clk at which the stage began: the handover or the exit from SAFE for step 2, 0 V reached and the switch closed for R176. [05 R174, R176; -; 0] -/
  stageClk : Nat := 0
  /-- clk, with its fraction, at which the bias may take its next step. [05 R173; -; 0] -/
  stepDue : Rat := 0
  /-- Target in 2 microvolt steps. [05 R170; signed 20; 0] -/
  target : Int := 0
  /-- Slew rate in force, microvolt/s. [05 R170; 17; 0, log 3] -/
  rate : Nat := 0
  /-- Warm-up runs until this clk; none once expired. [05 R179; -; none] -/
  warmUntil : Option Nat := none
  /-- clk at which the warm-up has ended. [11 R412; -; 0] -/
  warmEnd : Nat := 0
  /-- In compliance. [05 R199; 1; false] -/
  compliance : Bool := false
  /-- Left compliance within the frame now running (first whole frame after it has no OPEN). [05 R200; 1; false] -/
  complianceTail : Bool := false
  /-- OPEN episode by impedance (R232). [06 R232; 1; false] -/
  zOpen : Bool := false
  /-- Z_mag out of band flag. [06 R233; 1; false] -/
  zMagOut : Bool := false
  /-- Z_phase out of band flag. [06 R233; 1; false] -/
  zPhaseOut : Bool := false
  /-- Band episode. [06 R233; 1; false] -/
  zEpisode : Bool := false
  deriving DecidableEq, Repr

/-- A Weir W00 - W22 (05, 07). -/
structure Weir where
  /-- Converting. [05 R181; 1; false] -/
  on : Bool := false
  /-- Range in force. [05 R186; 2; 0, log 3] -/
  range : Fin 4 := 0
  /-- End residue of the previous frame as a charge in nominal femtocoulomb (R182); none: fresh sample. [05 R182; -; none] -/
  residue : Option Rat := none
  /-- Rounding carry in units of the frame's range. [05 R184; -; 0] -/
  carry : Rat := 0
  /-- Range of the previous frame (R184). [05 R184; 2; 0] -/
  lastRange : Fin 4 := 0
  /-- The frame now running began at a Plumb step; it writes no record. [14 R539; 1; false] -/
  dropFrame : Bool := false
  /-- Sum of TS4's conversions in the frame, 1/16 K, and their number. [09 R339; -; 0] -/
  ts4Sum : Rat := 0
  ts4N : Nat := 0
  /-- clk of the path's latest frame boundary, none since conversion stopped. [20 R746; -; none] -/
  frameClk : Option Nat := none
  /-- W00 - W15: the packets of the trailing window of the fast path, latest first: clk with its fraction, and the signed charge in coulomb, each
  at its own weight. [11 R416, R419; packets of W; empty] -/
  window : List (Rat × Rat) := []
  deriving DecidableEq, Repr

/-- A tone that fades out (R213): amplitude in mV rms and frequency code as they were, clk at the start of its window and of the fade. -/
structure ToneFade where
  amp : Nat
  code : Nat
  window : Nat
  start : Nat
  deriving DecidableEq, Repr

/-- The tone of one electrochemical channel (06). -/
structure Tone where
  /-- A window is in progress. [06 R215; 1; false] -/
  active : Bool := false
  /-- A sweep is in progress. [06 R220; 1; false] -/
  sweeping : Bool := false
  /-- Sweep started late by Sluice (LATE on its records). [17 status word bit 12; 1; false] -/
  late : Bool := false
  /-- Sweep point. [06 R221; 3; 0] -/
  point : Nat := 0
  /-- Frames done in the window. [06 R215; 6; 0] -/
  frames : Nat := 0
  /-- Demodulation sums S and C in coulomb. [06 R216; -; 0] -/
  s : Rat := 0
  c : Rat := 0
  /-- A frame of the window carried OVERRANGE. [06 status bits; 1; false] -/
  overSeen : Bool := false
  /-- The channel was in compliance in the window. [06 status bits; 1; false] -/
  open_ : Bool := false
  /-- clk at the start of the window. [06 R209; -; 0] -/
  start : Nat := 0
  /-- The last tone that SAFE or a warm reset has cut off. [06 R213; -; none] -/
  fade : Option ToneFade := none
  deriving DecidableEq, Repr

/-- A burn-out check (06). -/
structure Burn where
  /-- Frames until the next check is due, 0: due. [06 R223; 8; 0: first frame checks, R238] -/
  count : Nat := 0
  /-- Frames a due film check has been deferred (R263). [07 R263; 8; 0] -/
  deferred : Nat := 0
  /-- The check of the present frame has been made. [06 R223; 1; false] -/
  active : Bool := false
  /-- OPEN episode. [06 R224; 1; false] -/
  isOpen : Bool := false
  deriving DecidableEq, Repr

/-- The conversion of one AUX input in the present AUX frame (R228). -/
structure AuxConv where
  volts : Rat
  raw : Int
  ovr : Bool
  /-- W23 converted the slot too; its comparison found a mismatch. -/
  shadowed : Bool
  bad : Bool
  deriving DecidableEq, Repr

/-- The AUX path (06). -/
structure Aux where
  /-- Input connected to the mux node: 0 - 3 AUX, 4 EXS; none: disconnected. [06 R226; 3; none] -/
  connected : Option (Fin 5) := none
  /-- V(AUX_EXS) of the present AUX frame. [06 R230; -; none] -/
  exs : Option Rat := none
  /-- That conversion reached the end of the span; its comparison with W23 found a mismatch. [05 R183, 20 R750; 2; false] -/
  exsOvr : Bool := false
  exsBad : Bool := false
  /-- Conversions of AUX0 - AUX3 in the present AUX frame. [06 R228; 4; none] -/
  conv : Vector (Option AuxConv) 4 := Vector.replicate 4 none
  /-- Compliance episode of the current source. [06 R231; 1; false] -/
  episode : Bool := false
  /-- Visits done in the present AUX frame. [06 R226; 3; 0] -/
  visits : Nat := 0
  /-- clk at the start of the visit in progress. [06, One visit of W22; -; 0] -/
  visitClk : Nat := 0
  deriving DecidableEq, Repr

/-- What drives a heater besides its profile (R274). -/
inductive HeaterOverride where
  | none
  /-- Commanded target and rate (0.1 degree, 0.1 K/s). -/
  | target (t : Int) (rate : Nat)
  | off
  deriving DecidableEq, Repr

/-- A MOX channel (07). -/
structure Mox where
  /-- The profile runs (started at a film frame boundary). [07 R264; 1; false] -/
  started : Bool := false
  /-- A restart at step 0 waits for the next film frame boundary. [07 R264, R274; 1; false] -/
  restart : Bool := false
  /-- Step in force. [07 R250; 5; 0] -/
  step : Nat := 0
  /-- The last step is held (R252, R253). [07; 1; false] -/
  held : Bool := false
  /-- A loop restart at step L waits for the next boundary (R252). [07; 1; false] -/
  loopWait : Bool := false
  /-- Instantaneous target, degrees; none until the first R_meas (R251). [07 R251, R255; -; none] -/
  target : Option Rat := none
  /-- Ticks of the step already run. [07 R250; -; 0] -/
  ticks : Nat := 0
  /-- clk at the start of the step and of the tick under way. [07 R250; -; 0] -/
  stepClk : Nat := 0
  tickClk : Nat := 0
  /-- In the tick under way: the step began, with the instantaneous target before it; a heater command came. [07 R279; -; false, none, false] -/
  fresh : Bool := false
  prevTarget : Option Rat := none
  commanded : Bool := false
  /-- The target of the step in force is ignored. [07 R279; 1; false] -/
  ignored : Bool := false
  /-- Target at step start (RAMP). [07 R250; -; none] -/
  rampFrom : Option Rat := none
  /-- Override by command. [07 R274; -; none] -/
  override : HeaterOverride := .none
  /-- Integrator of the loop. [07 R245; -; 0] -/
  integ : Rat := 0
  /-- Duty of the next tick. [07 R245; -; 0] -/
  duty : Rat := 0
  /-- V_on of the latest measured tick; none before (HRAIL setpoint). [07 R246; -; none] -/
  vOn : Option Rat := none
  /-- Pulse-density accumulator in microseconds. [07 R242; -; 0] -/
  pulseAcc : Rat := 0
  /-- Grouping: periods since the last pulse. [07 R242; 6; 0] -/
  period : Nat := 0
  /-- Length in microseconds of the pulse issued last. [07 R241, R242; -; 0] -/
  lastPulse : Rat := 0
  /-- Latched fault kind. [07 R269; 4; none] -/
  fault : Option HeaterFaultKind := none
  /-- Last tick in regulation. [07 R248; 1; false] -/
  inReg : Bool := false
  /-- Last tick capped. [07 R249; 1; false] -/
  capped : Bool := false
  /-- Every tick of the film frame in regulation and unshed so far. [07 R262; 1; true] -/
  frameGood : Bool := true
  /-- The whole film frame so far lies in a SAMPLE step (R258). [07 R258; 1; false] -/
  frameSample : Bool := false
  /-- Sums over the film frame: R_meas, its count, duty, T_h, ticks. [07 heater record; -; 0] -/
  sumR : Rat := 0
  nR : Nat := 0
  sumDuty : Rat := 0
  sumT : Rat := 0
  nT : Nat := 0
  /-- Warm-up runs until this clk. [07 R264; -; none] -/
  warmUntil : Option Nat := none
  /-- Warm-up seconds to start at the first boundary. [07 R264; 16; none] -/
  warmPending : Option Nat := none
  deriving DecidableEq, Repr

/-- State of a rail phase (R306). -/
inductive PhaseState where
  | working | estimate | lost
  deriving DecidableEq, Repr

/-- Rail states (08). -/
inductive RailState where
  | off | phaseCheck | softStart | on
  deriving DecidableEq, Repr

/-- Chain switch states (08). -/
inductive SwitchState where
  | off | softStart | on | inLimit | failed
  deriving DecidableEq, Repr

/-- A shed unit or heater (R293). -/
inductive Shed where
  | heater (n : Fin 6)
  | chain
  deriving DecidableEq, Repr

/-- A chain-power switch (08). -/
structure ChainSwitch where
  /-- State. [08 R290; 3; off] -/
  state : SwitchState := .off
  /-- Current limit in force, mA. [08 R289; 11; 0] -/
  limit : Nat := 0
  /-- Retry count. [08 R292; 16 saturating; 0] -/
  retries : BitVec 16 := 0
  /-- clk at the start of the soft start, and at the failure. [08 R290, R292; -; 0] -/
  startClk : Nat := 0
  failClk : Nat := 0
  deriving DecidableEq, Repr

/-- The heater rail (08). -/
structure Rail where
  /-- State. [08 R283, R286; 2; off] -/
  state : RailState := .off
  /-- Ladder record of phases A - D (AO). [08 R306; 4 x 2; working] -/
  phases : Vector PhaseState 4 := Vector.replicate 4 .working
  /-- Shunt declared failed (AO). [08 R304, R306; 1; false] -/
  shuntFailed : Bool := false
  /-- Regulating on the HRAIL balls. [08 R312; 1; false] -/
  onHrail : Bool := false
  /-- Switching stopped by overvoltage. [08 R313; 1; false] -/
  overvoltage : Bool := false
  /-- DROPOUT. [08 R311; 1; false] -/
  dropout : Bool := false
  /-- Analogue limiting flag. [08 R316; 1; false] -/
  analog : Bool := false
  /-- VIN lockout: an undervoltage episode with VDD valid. [02 R62; 1; false] -/
  lockout : Bool := false
  /-- EV10 of the episodes found outside a mode, to be raised at handover: one for each. [02 R62; count; 0] -/
  uvloDue : Nat := 0
  /-- Chain-shed indication. [08 R295; 1; false] -/
  chainShed : Bool := false
  /-- Shed units and heaters, latest first. [08 R297; list; empty] -/
  shed : List Shed := []
  /-- Shunt current at the last tick, mA. [08 R296; -; 0] -/
  lastShunt : Nat := 0
  /-- The heater shed at the last tick, whose value is to be measured (R296). [08 R296; -; none] -/
  measuring : Option (Fin 6 × Nat) := none
  /-- Shunt current at the chain shed, mA, until its value is measured (R296). [08 R296; -; none] -/
  chainFrom : Option Nat := none
  /-- Shed values: heaters 0 - 5, mA. [08 R296; 6 x 16; 0] -/
  heaterValue : Vector Nat 6 := Vector.replicate 6 0
  /-- Shed value of the chain unit, mA. [08 R296; 16; 0] -/
  chainValue : Nat := 0
  /-- Switches CHPWR0, CHPWR1. [08; 2; off] -/
  sw : Vector ChainSwitch 2 := Vector.replicate 2 {}
  /-- Effective limit held during a warm reset, mA (R308). [08 R308; 13; 0] -/
  heldLimit : Nat := 0
  /-- Setpoint that the rail held through a warm reset regulates to, V (R150, R308). [08 R308; 14; 0] -/
  heldSetpoint : Rat := 0
  /-- SAFE keeps the rail on for chain power. [04 R126, 08 R318; 1; false] -/
  kept : Bool := false
  /-- clk of the rail request, of the last phase check under R307, of the last loop tick. [08 Rail start, R307, R293; -; 0] -/
  startClk : Nat := 0
  recheckClk : Nat := 0
  tickClk : Nat := 0
  /-- clk at the chain shed. [08 R296; -; 0] -/
  chainClk : Nat := 0
  /-- clk since when the current with the latest shed value has fitted under 0.9 of the limit, none while it does not. [08 R297; -; none] -/
  fitsClk : Option Nat := none
  /-- clk at which the last open phase was dropped. [08 R314; -; none] -/
  dropClk : Option Nat := none
  /-- Code 0x14 stands for a phase sense or the shunt, which a restart does not clear (AO). [08 R312, 20 R744; 1; false] -/
  senseSeen : Bool := false
  deriving DecidableEq, Repr

/-- The thermal monitor (09). -/
structure Thermal where
  /-- Last eight conversions per sensor, latest first, 1/16 K. [09 R319; 8 x 8 x 16; empty, log 3] -/
  conv : Vector (List Int) 8 := Vector.replicate 8 []
  /-- Sums of the conversions in the system or housekeeping frame under way, 1/16 K, and their number. [09 R345; 8 + 1; 0] -/
  frameSum : Vector Int 8 := Vector.replicate 8 0
  frameN : Nat := 0
  /-- Sensor means, 1/16 K. [09 R320; 8; 0, log 3] -/
  mean : Vector Rat 8 := Vector.replicate 8 0
  /-- Deviations dev_i, 1/16 K. [09 R323; 8; 0] -/
  dev : Vector Rat 8 := Vector.replicate 8 0
  /-- Evaluations in a row with |dev| above 8 K. [09 R323; 8; 0] -/
  overCount : Vector Nat 8 := Vector.replicate 8 0
  /-- Broken mask (AO). [09 R326; 8; 0] -/
  broken : BitVec 8 := 0
  /-- Reported maximum, 1/16 K. [09 R321; 16; 0, log 3] -/
  max : Rat := 0
  /-- Sensor giving it. [18 thermal page; 3; 0, log 3] -/
  source : Fin 8 := 0
  /-- Throttle step s (AO). [09 R341; 3; 0] -/
  s : Fin 8 := 0
  /-- Where the maximum lay at the last evaluation: 0 at or below threshold - 5 K, 1 between, 2 above. [09 R329, R330; 2; 0] -/
  zone : Fin 3 := 0
  /-- Means of TS0, TS1 of the last 32 evaluations, latest first. [09 R332; 32 x 2; empty] -/
  hist : List (Rat × Rat) := []
  /-- Rates of TS0, TS1 in K/s. [09 R332; 2 x 16; 0] -/
  rate : Rat × Rat := (0, 0)
  /-- Evaluations in a row with a rate above the limit. [09 R333; 1; 0] -/
  rorCount : Nat := 0
  /-- A trip is in progress. [09 R333; 1; false] -/
  trip : Bool := false
  /-- The latest evaluation raised s to 4 with a trip. [09 R347; 1; false] -/
  tripRaised : Bool := false
  /-- The hold on s after a trip. [09 R334; 1; false] -/
  hold : Bool := false
  /-- Trip count (AO). [09 R333; 16 saturating; 0] -/
  trips : BitVec 16 := 0
  /-- Per sensor: conversions in a row at or above 150 degrees. [09 R336; 2; 0] -/
  hot : Vector Nat 8 := Vector.replicate 8 0
  /-- Conversions in a row with none at or above 150 degrees. [09 R337; 2; 0] -/
  cool : Nat := 0
  /-- A latched crossing episode. [09 R337; 1; false] -/
  episode : Bool := false
  /-- LOADCLK and KCLK trims in force. [09 R338; 2; 0, log 3] -/
  trims : Int × Int := (0, 0)
  /-- clk at the release of the VDD power-on reset (first 4 s, R349). [09 R349; -; 0] -/
  releaseClk : Nat := 0
  /-- clk of the last conversion, evaluation and trim update. [09 R319, R320, R338; -; none] -/
  convClk : Option Nat := none
  evalClk : Option Nat := none
  trimClk : Option Nat := none
  /-- clk from which the timer of R329 or R330 counts: the entry to the zone or the last step in it. [09 R329, R330; -; 0] -/
  stepClk : Nat := 0
  /-- clk since when both rates have been at or below the limit, none while one is not. [09 R334; -; none] -/
  okClk : Option Nat := none
  deriving DecidableEq, Repr

/-- Calibration kinds that run (table Calibration kinds). -/
inductive CalKind where
  | zero | span | first | second | clear | abort | verify
  deriving DecidableEq, Repr

/-- A run in progress (10): the window's records as (time, y, VALID, problem). -/
structure CalRun where
  kind : CalKind
  vcn : Vcn
  ref : F32
  /-- Records of the window, latest first: end time, stage 2 value, acceptable to the stability check. -/
  recs : List (Count48 × F32 × Bool)
  /-- Records of the two cross VCNs in the window. -/
  cross0 : List F32
  cross1 : List F32
  /-- What the clean-air class read, in its records and at each record of the run's VCN: asserted, or none for NOTYET. -/
  clean : List (Option Bool)
  /-- Started by a Sluice slot, late or not. -/
  late : Bool
  /-- Trims may be written: the Render entry to write once accepted. -/
  write : Option RenderEntry
  /-- When the first record of the window came, on the own clock. -/
  startClk : Option Nat := none
  deriving DecidableEq, Repr

/-- Stage of a Render write (R369). -/
inductive RenderStage where
  | idle | erasing | programming (page : Nat) | readback | eraseOld
  deriving DecidableEq, Repr

/-- Calibration (10). -/
structure Cal where
  /-- Render copy in use. [10 R368; -; none] -/
  render : Option RenderCopy := none
  /-- Copy from which trims apply at the next frame (R364): entries newly in force and when. [10 R364; -; none] -/
  run : Option CalRun := none
  /-- Pending zero: VCN, tag, y_z, C_z and its time. [10 R380; -; none] -/
  pending : Option (Vcn × BitVec 16 × F32 × F32 × Nat) := none
  /-- Last run's kind code, outcome, VCN. [18 mode page; 8 + 8 + 16; 0xFF, 0xFF, 0] -/
  lastKind : Byte := 0xFF
  outcome : Byte := 0xFF
  lastVcn : Vcn := 0
  /-- m_first, m_last, drift, r or offset. [10 R386; 4 x 32; 0] -/
  mFirst : F32 := 0
  mLast : F32 := 0
  drift : F32 := 0
  ratio : F32 := 0
  /-- Failing cross VCN. [18 mode page; 16; 0xFFFF] -/
  failCross : Vcn := 0xFFFF
  /-- Write failed flag. [10 R387; 1; false] -/
  writeFailed : Bool := false
  /-- Stage of the Render write. [10 R369; -; idle] -/
  stage : RenderStage := .idle
  /-- When the erase or page program in progress started, on the own clock. [10 R371; -; 0] -/
  stageClk : Nat := 0
  /-- Sector being written and its 4096 bytes to be programmed. [10 R369; -; none] -/
  sector : Fin 2 := 0
  image : List Byte := []
  /-- A write waits for a flash check (R816). [22 R816; 1; false] -/
  waiting : Bool := false
  /-- Entries newly in force take effect per VCN at the next frame: VCNs whose running frame still uses the old trims. [10 R364; list; empty] -/
  old : List (Vcn × Option RenderEntry) := []
  deriving DecidableEq, Repr

/-- Rule states (11, table Rule state codes). -/
inductive RuleState where
  | clear | alarmed | latched | acked | stanceAlarmed | stanceClear | invalid
  deriving DecidableEq, Repr

/-- A bucket chain of a STEL or TWA rule (R401), a RATE ring (R400). -/
structure Rule where
  /-- State. [11 Rule state codes; 4; clear] -/
  state : RuleState := .clear
  /-- No evaluation since the stance or the invalid state began. [11 R409; 1; true] -/
  first : Bool := true
  /-- Debounce counters. [11 R406; 8 + 8; 0] -/
  setCount : Nat := 0
  clearCount : Nat := 0
  /-- Last value compared. [11; 32; 0] -/
  last : F32 := 0
  /-- Buckets filled in. [11 R401; 16; 0] -/
  filled : BitVec 16 := 0
  /-- Transitions to alarmed. [11; 16 saturating; 0] -/
  transitions : BitVec 16 := 0
  /-- RATE: number of a Plumb second, sum and count of its VALID records, latest first. [11 R400; 61 and those a step back passes again; empty] -/
  seconds : List (Nat × Rat × Rat) := []
  /-- Open minute: weighted sum and weight. [11 R401; -; 0] -/
  sum : Rat := 0
  weight : Rat := 0
  /-- STEL, TWA: number of a Plumb minute, weighted sum and weight, latest first; weight 0: the value filled in. [11 R401; 480; empty] -/
  buckets : List (Nat × Rat × Rat) := []
  /-- clk of the last evaluation, or of the start of the stance. [11 R397; -; 0] -/
  evalClk : Nat := 0
  /-- Remote rule: state last reported. [11 R405; 1; false] -/
  remote : Bool := false
  /-- AO bits: latched, alarmed-acknowledged. [11 R415; 2; false] -/
  aoLatched : Bool := false
  aoAcked : Bool := false
  deriving DecidableEq, Repr

/-- A ratio output (11). -/
structure Aout where
  /-- Code driven. [11 R432; 16; 0, log 3] -/
  code : BitVec 16 := 0
  /-- Code it moves to. [11 R436; 16; 0, log 3] -/
  goal : BitVec 16 := 0
  /-- Driven; otherwise high-impedance. [02 R52; 1; false] -/
  driven : Bool := false
  /-- Held in the low band since a reset until the first update (R438). [11 R438; 1; true] -/
  holdLow : Bool := true
  /-- Readback fault. [11 R437; 1; false] -/
  fault : Bool := false
  /-- The last readback differed (fault after 1 ms). [11 R437; 1; false] -/
  differs : Bool := false
  /-- Last readback. [18 status page; 16; 0] -/
  readback : BitVec 16 := 0
  /-- Part of a code already gained towards the next one in a slew-limited move. [11 R436; -; 0] -/
  part : Rat := 0
  /-- Frames of the source without a record. [11 ratio table; 2; 0] -/
  missing : Nat := 0
  /-- clk of the latest record of the source. [11 ratio table; -; 0] -/
  recordClk : Nat := 0
  /-- clk of the last millisecond of its slew and of its readback. [11 R436, R437; -; 0] -/
  slewClk : Nat := 0
  readClk : Nat := 0
  deriving DecidableEq, Repr

/-- Spillway (11). -/
structure Spill where
  /-- Rules 0 - 255. [11 R395; 256; clear] -/
  rules : Vector Rule 256 := Vector.replicate 256 {}
  /-- AO latches: ALARMA, ALARMB driven low. [11 R421; 2; released] -/
  aLow : Bool := false
  bLow : Bool := false
  /-- Last readback low; readback fault. [11 R842; 2 x 2; false] -/
  aReadLow : Bool := false
  bReadLow : Bool := false
  aFault : Bool := false
  bFault : Bool := false
  fFault : Bool := false
  /-- clk of the last readback of ALARMA, ALARMB, FAULTn. [11 R428, R842; 3; 0] -/
  pinClk : Vector Nat 3 := Vector.replicate 3 0
  /-- Ratio outputs. [11; 2; undriven] -/
  aout : Vector Aout 2 := Vector.replicate 2 {}
  /-- clk of the last second and minute ends taken. [11 R400, R401; -; none] -/
  secondClk : Option Nat := none
  minuteClk : Option Nat := none
  deriving DecidableEq, Repr

/-- A neuron's record (R459). -/
structure Neuron where
  s0 : Int := 0
  s1 : Int := 0
  s2 : Int := 0
  s3 : Int := 0
  /-- Low 32 bits of the last update's time. [12 R459; 32; start time] -/
  tLast : BitVec 32 := 0
  /-- The same extended to 40 bits. [12 R459; 40; start time] -/
  tLast40 : BitVec 40 := 0
  /-- End of refractory time. [12 R459; 32; start time] -/
  tR : BitVec 32 := 0
  /-- Due time of the pending wake. [12 R465; 32; none] -/
  wake : Option (BitVec 32) := none
  deriving DecidableEq, Repr

/-- An event (12). -/
structure MereEvent where
  target : BitVec 11
  receptor : Fin 4
  weight : Int
  time : BitVec 32
  wake : Bool
  /-- A wake whose neuron was updated after it entered the FIFO (R484). -/
  cancelled : Bool := false
  /-- It waited while Mere was gated, or fell due then: its time may lie 2^31 microseconds back or more (R479). -/
  held : Bool := false
  deriving DecidableEq, Repr

/-- An event that a synapse reader has read out and not yet delivered, with the destination entry and the synapse word it was read from. -/
structure ReadEvent where
  entry : Nat
  word : Nat
  event : MereEvent
  deriving DecidableEq, Repr

/-- A tarn (12). -/
structure Tarn where
  /-- Neuron records that differ from the start record. [12 R459; 256; empty] -/
  neurons : List (Nat × Neuron) := []
  /-- Input FIFO. [12 R454, 14 R522; 64 deep; empty] -/
  fifo : List MereEvent := []
  /-- Spike queue: neuron, timestamp. [12 R474; 16 deep; empty] -/
  spikes : List (Nat × BitVec 32) := []
  /-- Spikes at the front of the queue that waited while Mere was gated. [12 R479; 5; 0] -/
  heldSpikes : Nat := 0
  /-- Events of the spike now read out that still wait (R473); none while the front spike has not been read out. [12 R473; -; none] -/
  emitting : Option (List ReadEvent) := none
  /-- Wake queue: neuron, due time. [12 R468; 32 deep; empty] -/
  wakes : List (Nat × BitVec 32) := []
  /-- Counts. [12; 32, 32, 4 x 16 saturating; 0] -/
  applied : BitVec 32 := 0
  spikeCount : BitVec 32 := 0
  wakeDrops : BitVec 16 := 0
  outOfOrder : BitVec 16 := 0
  saturations : BitVec 16 := 0
  longGaps : BitVec 16 := 0
  /-- High-water marks since the last read. [12; 8 + 8 RC; 0] -/
  fifoMark : Nat := 0
  spikeMark : Nat := 0
  /-- Lagging, and since when on the Plumb count. [13 R504; 1 + 48; none] -/
  lagging : Option Count48 := none
  /-- When the tarn last completed an event, or its queues last became non-empty, on the own clock. [13 R506; -; 0] -/
  busyClk : Nat := 0
  /-- Words that emit nothing after a double-bit error: neuron and entry, and synapse words. [12 R486; lists; empty] -/
  badDest : List (Nat × Nat) := []
  badSyn : List Nat := []
  /-- Source granted last into this tarn's FIFO, 8 = encoders. [12 R475; 4; 8: T0 first, log 3] -/
  grant : Nat := 8
  /-- Encoder granted last into this FIFO. [13 R495; 6; 63: E0 first, log 3] -/
  encGrant : Nat := 63
  deriving DecidableEq, Repr

/-- An encoder (13). -/
structure Encoder where
  init : Bool := false
  /-- Level k. [13 R490; 8; 0] -/
  level : Nat := 0
  /-- Pending slots. [13 R493; 2; empty] -/
  up : Option MereEvent := none
  down : Option MereEvent := none
  /-- Coalesced count. [13 R494; 16 saturating; 0] -/
  coalesced : BitVec 16 := 0
  deriving DecidableEq, Repr

/-- A class frame whose record is still to be written: spikes, length in microseconds, and a late spike was added to it (R497, R501). -/
structure ClassFrame where
  spikes : Nat
  us : Nat
  late : Bool
  /-- What the Plumb count has stepped by within the frame, microseconds (R518). [13 R518; signed; 0] -/
  move : Int := 0
  deriving DecidableEq, Repr

/-- A class output (13). -/
structure MereClass where
  /-- Buckets of frames whose records are written, latest first: spikes, length in microseconds. [13 R497; up to 64; empty] -/
  buckets : List (Nat × Nat) := []
  /-- Frames since `frameEnd`, earliest first, as far as a spike fell in one or the frame length changed; the others are empty.
  [13 R497, R498, R516; -; empty] -/
  frames : List ClassFrame := []
  /-- End of the last class frame written or discarded. [13 R497; 48; 0] -/
  frameEnd : Count48 := 0
  /-- Asserted (R500). [13 R500; 1; false] -/
  asserted : Bool := false
  /-- Class frames ended since the start of R502. [13 R502; 7; 0] -/
  ended : Nat := 0
  /-- A record has been written since the start of R502: the one in the result store is not an older one. [13 R502; 1; false] -/
  fresh : Bool := false
  deriving DecidableEq, Repr

/-- Power state of Mere (18, Mere page 0x104). -/
inductive MerePower where
  | running | gated | offNoImage | offStall
  deriving DecidableEq, Repr

/-- Mere (12, 13). -/
structure Mere where
  /-- Power state. [18 Mere page; 8; off, no image] -/
  power : MerePower := .offNoImage
  /-- Network image in use. [13; -; none] -/
  image : Option MereImage := none
  /-- Time of the Mere start (R459). [12 R459; 48; 0] -/
  start : Count48 := 0
  /-- Tarns T0 - T7. [12; 8; empty] -/
  tarns : Vector Tarn 8 := Vector.replicate 8 {}
  /-- Encoders E0 - E63. [13 R489; 64; inert] -/
  encoders : Vector Encoder 64 := Vector.replicate 64 {}
  /-- Classes 0 - 63. [13 R497; 64; empty] -/
  classes : Vector MereClass 64 := Vector.replicate 64 {}
  /-- Aggregate event count. [12; 32 wrapping; 0] -/
  aggregate : BitVec 32 := 0
  /-- Last coalesce time (and era). [13 R494; 56; none] -/
  lastCoalesce : Option (Count48 × Byte) := none
  /-- Times from which and to which tarns lagged, latest first, as far back as a class window can reach. [13 R501; 2 x 48 each; empty] -/
  lagSpans : List (Count48 × Count48) := []
  /-- EV25 episode: active, cause (0 none, 1 coalescing, 2 lag), disturbed in the present class frame. [13 R505; -; none] -/
  episode : Bool := false
  cause : Byte := 0
  disturbed : Bool := false
  /-- Stall resets: count and their times (clk). [13 R507, R508; 16 saturating; 0] -/
  stallResets : BitVec 16 := 0
  stallTimes : List Nat := []
  /-- Probe register, snapshot, wanted. [12 R482, 18; 16 + 256; 0] -/
  probe : BitVec 16 := 0
  snapshot : Option (Nat × Neuron) := none
  probeWanted : Bool := false
  deriving DecidableEq, Repr

/-- Plumb states (14). -/
inductive TimeState where
  | free | pps | chain | host | holdover
  deriving DecidableEq, Repr

/-- A change at a source: it has qualified, with its phase error in ns, or it has been lost (14). -/
inductive SourceChange where
  | qualified (st : TimeState) (err : Int)
  | lost (st : TimeState)
  deriving DecidableEq, Repr

/-- The timebase (14). -/
structure Time where
  /-- Plumb count (AO). [14 R523, R526; 48; 0] -/
  count : Count48 := 0
  /-- Plumb era (AO). [14 R523; 8; 0] -/
  era : Byte := 0
  /-- Plumb counts. [14 R527, 02 R60; 1; false: VDD is below its threshold and no crystal is declared] -/
  counting : Bool := false
  /-- By how much the count went up in the microsecond just past: 1, or 0 or 2 in a slew; what a boundary is recognised by. [14 R523, R525; 2; 1] -/
  stride : Nat := 1
  /-- Plumb time, 56 bits, that the frames in force are counted from: 0 from a start or the exit from SAFE on, the boundary at which the last
  change between RUN and WATCH took effect after it. [04 R131, 01 R15; 56; 0, log 94] -/
  anchor : Nat := 0
  /-- SYSCLK runs. [14 R562; 1; true, log 3] -/
  sysclk : Bool := true
  /-- XTAL32 as the last configuration in force declared it (AO). [14 R560, R562; 1; false, log 3] -/
  xtal : Bool := false
  /-- TCXO as the last configuration in force declared it (AO). [14 R541; 1; false, log 3] -/
  tcxo : Bool := false
  /-- The declared crystal has stopped (AO detector), until the next handover. [14 R527; 1; false, log 130] -/
  xtalStopped : Bool := false
  /-- State (AO). [14 R537; 3; FREE] -/
  state : TimeState := .free
  /-- TIMEVALID (AO). [14 R527; 1; false] -/
  valid : Bool := false
  /-- Learned frequency correction (AO). [14 R525, R533; signed, 2^-16 ppm; 0] -/
  learned : Int := 0
  /-- Crystal polynomial correction in force (holdover). [14 R533, R555; signed, 2^-16 ppm; 0] -/
  poly : Int := 0
  /-- PPS qualified (AO); edges: a prediction exists, its interval in SYSCLK cycles, good edges in a row, missing in a row. [14 R529 - R531; -; none] -/
  ppsQualified : Bool := false
  ppsPredicted : Bool := false
  ppsInterval : Nat := 0
  ppsGood : Nat := 0
  ppsMissed : Nat := 0
  /-- Intervals by which the prediction has advanced past the last edge accepted. [14 R531; 2; 0] -/
  ppsAdvanced : Nat := 0
  /-- When the last edge was accepted, on the own clock. [14 R531; -; 0] -/
  ppsClk : Nat := 0
  /-- When the pulse awaited is predicted, on the own clock. [14 R531; -; 0] -/
  ppsDue : Nat := 0
  /-- When the crystal polynomial was last evaluated, on the own clock. [14 R533; -; none] -/
  polyClk : Option Nat := none
  /-- Chain time qualified (AO), marks good in a row, sweeps without a mark in a row. [14 R532; -; false] -/
  chainQualified : Bool := false
  chainGood : Nat := 0
  chainMissed : Nat := 0
  /-- Latest mark of chain time: a prediction exists, the mark in ns, its clk, and chain time's rate against the own clock between the last two marks.
  [14 R532; -; none, 0, 0, 1] -/
  chainPredicted : Bool := false
  chainMark : Int := 0
  chainClk : Nat := 0
  chainRatio : Rat := 1
  /-- Error against chain time at its latest good mark, ns. [14 R849; 32 signed; 0] -/
  chainGoodErr : Int := 0
  /-- Counts (AO): good, missing, bad PPS, steps. [14; 4 x 16 saturating; 0] -/
  goodPps : BitVec 16 := 0
  missingPps : BitVec 16 := 0
  badPps : BitVec 16 := 0
  steps : BitVec 16 := 0
  /-- Phase error field in ns (R849). [14 R849; 32 signed; 0] -/
  phaseErr : Int := 0
  /-- Fraction of the microsecond in units of 2^-16 ppm of one: the 16 bits of R525 are its part above 10^6, and below them stands what the rate
  has not carried into them yet. [14 R525; 16 + 20; 0] -/
  frac : Nat := 0
  /-- Remaining slew in the same units; none outside a slew. [14 R534; signed; none] -/
  slew : Option Int := none
  /-- The change of source in progress has not raised EV16 yet. [14 R535; 1; false] -/
  changing : Bool := false
  /-- Sources that have qualified, or have been lost, while a time set waits for the rise of HCSn, in order. [14 R557; -; empty] -/
  held : List SourceChange := []
  /-- VDD fell with XTAL32 set in state PPS or CHAIN (AO). [14 R560; 1; false] -/
  fell : Bool := false
  /-- Plumb time, 56 bits, at the start of the warm reset in progress (AO). [14 R551; 56; none] -/
  resetTime : Option Nat := none
  /-- clk at which holdover was entered; none outside. [18 timebase page; -; none] -/
  holdoverClk : Option Nat := none
  /-- Time after the last step. [18 timebase page; 56; 0] -/
  lastStep : Count48 × Byte := (0, 0)
  /-- Time-set registers. [18 timebase page; 48 + 8; 0] -/
  setCount : Count48 := 0
  setEra : Byte := 0
  /-- PPS_OUT level and the clk of its last rise. [14 R542, R543; 1; low] -/
  ppsOut : Bool := false
  ppsOutClk : Option Nat := none
  /-- Plumb has stepped since that rise. [14 R543; 1; false] -/
  ppsStepped : Bool := false
  /-- External reference in use by the analogue part; bandgap taken alone (0 mean, 1 A, 2 B). [14 R544, 20 R752; 2; internal, log 3] -/
  refExternal : Bool := false
  refBandgap : Fin 3 := 0
  deriving DecidableEq, Repr

/-- A Sluice slot (14). -/
structure Slot where
  /-- The 16 bytes of the slot entry. [14 Slot entry; 128; empty] -/
  entry : List Byte := []
  /-- Next due time, 56 bits. [14 R546; 56; none] -/
  due : Option Nat := none
  /-- Waiting under R549. [14 R549; 1; false] -/
  waiting : Bool := false
  /-- It waits as one found past due: it starts with LATE whatever the time. [14 R550; 1; false] -/
  forced : Bool := false
  /-- Written by command. [18 Sluice page; 1; false] -/
  byCommand : Bool := false
  /-- Due time of the last run (R552). [14 R552; 56; none] -/
  lastDue : Option Nat := none
  /-- Last start, status of it. [18 Sluice page; 56 + 8; 0, 0xFF] -/
  lastStart : Nat := 0
  lastStatus : Byte := 0xFF
  /-- Counts. [18 Sluice page; 4 x 16 saturating; 0] -/
  runs : BitVec 16 := 0
  lates : BitVec 16 := 0
  missed : BitVec 16 := 0
  skipped : BitVec 16 := 0
  deriving DecidableEq, Repr

/-- A Course frame to be sent (15). -/
structure CourseFrame where
  dst : Byte
  src : Byte
  type : Byte
  seq : Byte
  classVer : Byte
  credit : Byte
  hop : Byte
  payload : List Byte
  /-- The CRC sent is the frame's own exclusive-ORed with 0xFFFF_FFFF (R581). -/
  stomped : Bool
  /-- Repeated, not originated here (R613). -/
  repeated : Bool
  /-- Ended before its last byte (R583). -/
  cut : Bool := false
  /-- The length byte as received, where a repeated frame's is not the length of its payload (R581). -/
  lenByte : Option Byte := none
  deriving DecidableEq, Repr

/-- A Course port (15, 22). -/
structure Port where
  /-- Used (section 0x0E, or pod) and enabled: Cn_DE high. [15 R568; 1; false] -/
  enabled : Bool := false
  /-- Loss of signal declared. [15 R572; 1; true: no signal yet, log 3] -/
  los : Bool := true
  /-- Frames waiting, in the order of R613. [15 R582, 16 R613; list; empty] -/
  txq : List CourseFrame := []
  /-- The frame sent last. [15 R571; -; none] -/
  sent : Option CourseFrame := none
  /-- Counts of R602 in its order, 16-bit saturating. [15 R602; 7 x 16; 0] -/
  counts : Vector (BitVec 16) 7 := Vector.replicate 7 0
  /-- Link test control byte. [22, 18; 8; 0] -/
  control : Byte := 0
  /-- Injections remaining. [22 R802; 8; 0] -/
  inject : Byte := 0
  /-- Bits sent towards the next injected error. [22 R802; 10; 0] -/
  genBits : Nat := 0
  /-- Checker locked, threshold reached. [22 R798, R803; 2; false] -/
  locked : Bool := false
  threshold : Bool := false
  /-- Errors and bits compared. [22 R799; 32, 48; 0] -/
  errors : BitVec 32 := 0
  bits : BitVec 48 := 0
  /-- Set by a timed local test, which ends at this clk. [22 R804; 1, -; false, 0] -/
  timed : Bool := false
  timedEnd : Nat := 0
  /-- Register of the pattern generator. [22 R797; 31; 0] -/
  gen : Nat := 0
  /-- Register of the checker. [22 R797, R798; 31; 0] -/
  check : Nat := 0
  /-- The pattern bits sent in the last microsecond, oldest first. [22 R797, R802; 12; empty] -/
  out : List Bool := []
  /-- The transmitter is sending a frame up to this clk. [15 R582; -; 0] -/
  busyUntil : Nat := 0
  deriving DecidableEq, Repr

/-- Node state codes (15). -/
inductive NodeState where
  | absent | found | assigned | booting | joined | parkedIncompatible | bootFailed | lost
  deriving DecidableEq, Repr

/-- The head's record of a node (15, 16, 18). -/
structure Node where
  addr : Byte
  state : NodeState := .absent
  uid : BitVec 64 := 0
  phase : Byte := 0
  mode : Byte := 0xFF
  link0 : Byte := 0
  link1 : Byte := 0
  stepping : Byte := 0
  version : Byte := 0
  rom : BitVec 16 := 0
  sub : Byte := 0
  subCrc : BitVec 32 := 0
  mereCrc : BitVec 32 := 0
  /-- Map entry matched, 0xFF adopted or none. -/
  mapEntry : Byte := 0xFF
  bootRound : Byte := 0
  /-- Blocks of the present item reported missing; none until a status came. -/
  missing : Option (List (BitVec 16)) := none
  /-- ASSIGN sent this many times without confirmation. -/
  assigns : Nat := 0
  /-- When the last ASSIGN was sent, on the own clock. -/
  assignClk : Nat := 0
  /-- No IDENTITY has come since that ASSIGN (R577). -/
  assignNew : Bool := false
  patchSeq : BitVec 32 := 0xFFFFFFFF
  warnings : BitVec 16 := 0
  outcomes : Vector Byte 4 := Vector.replicate 4 0xF
  /-- Side 0 C0, 1 C1; grant, ACK, DEC of the last sweep; shortfall. -/
  side : Fin 2 := 0
  grant : Nat := 0
  ack : Bool := false
  dec : Bool := false
  shortfall : Nat := 0
  /-- Demand, full demand, oldest age, LOS flags, backlog, throttle, causes of the last report. -/
  demand : Nat := 0
  fullDemand : Nat := 0
  age : Byte := 0
  los0 : Bool := false
  los1 : Bool := false
  backlog : BitVec 16 := 0
  throttle : Byte := 0
  causes : BitVec 16 := 0
  bitmap : List Byte := []
  /-- This sweep: report received, data frames announced and received, resent frames received before the report (R625). -/
  reported : Bool := false
  expected : Nat := 0
  got : Nat := 0
  resent : Nat := 0
  /-- Joined since the last sweep started: included from the next one (15, table Enumeration). -/
  joining : Bool := false
  /-- A report was received since joining. -/
  everReported : Bool := false
  /-- Reports missing in a row; excused once by a side move (R636). -/
  missedReports : Nat := 0
  excused : Bool := false
  /-- Sweeps in a row in which the full demand fitted (R628). -/
  fitted : Nat := 0
  /-- Render entries still to be confirmed. -/
  renderPending : Bool := false
  /-- Render entries the pod confirmed, latest first: Plumb time, 56 bits, of the confirmation, and the entries (R365). -/
  trims : List (Nat × List RenderEntry) := []
  /-- Delay measurement wanted within 2 sweeps; sweeps since the node was last named in the delay slot (R622). -/
  delayWanted : Bool := true
  delayAge : Nat := 0
  /-- Modes reported, latest first: Plumb time, 56 bits, of the report that brought each, and its code. [11 R449; up to 481; empty] -/
  modeLog : List (Nat × Byte) := []
  /-- Active-fault word last polled; a poll waits for port time (R760). -/
  faultWord : BitVec 32 := 0
  pollWanted : Bool := false
  /-- Backlog records received in order that no request has yet acknowledged for certain (R643). -/
  backlogGot : Nat := 0
  /-- The request outstanding: the sweep it went out in, what the pod then held by its last report, the records it acknowledged, and the data
  frames of its answer still awaited (R643). -/
  backlogSweep : Option (BitVec 32) := none
  backlogBase : Nat := 0
  backlogTold : Nat := 0
  backlogNext : Nat := 0
  /-- Counts: delayed, decimated, resends, missing sweeps, refusals, NAKs, backlog returned, backlog lost, pending lost. -/
  counts : Vector (BitVec 16) 9 := Vector.replicate 9 0
  deriving DecidableEq, Repr

/-- A host-requested operation in the head's service queue (R631). -/
inductive ServiceOp where
  | statusRead (node : Byte) (addr len : BitVec 16)
  deriving DecidableEq, Repr

/-- A record waiting in a pod, with the sweep it is due in. -/
structure PodRecord where
  record : Record
  /-- clk at which it was written. -/
  clk : Nat
  due : Option (BitVec 32)
  deriving DecidableEq, Repr

/-- The pod's side of the chain (15, 16). -/
structure Pod where
  /-- Address held, 0 none. [15 R591; 8; 0] -/
  addr : Byte := 0
  /-- Phase of IDENTITY. [15; 8; waiting for boot] -/
  phase : Byte := 0
  /-- Link counts through the head's C0, C1. [15 R585; 2 x 8; 0] -/
  link0 : Byte := 0
  link1 : Byte := 0
  /-- Port on which the DISCOVER sent on head port 0, 1 arrived. [15 R585; 2; none] -/
  faces0 : Option (Fin 2) := none
  faces1 : Option (Fin 2) := none
  /-- Sub-image assigned; items under reception: number, kind, length, block count, CRC and blocks held. [15 R594 - R600; -; none] -/
  sub : Byte := 0
  item : Option (Byte × Byte × Nat × Nat × BitVec 32) := none
  blocks : List (Nat × List Byte) := []
  /-- Items complete: kind, bytes. [15 R595; -; empty] -/
  items : List (Byte × List Byte) := []
  subCrc : BitVec 32 := 0
  mereCrc : BitVec 32 := 0
  /-- Sweep number, mode, rate, chain-shed, TIMEVALID and RINGCLOSED of the last SWEEP_START. [16 R620; -; 0] -/
  sweep : BitVec 32 := 0
  /-- clk + 1 at the arrival of that SWEEP_START, 0: none yet. [16 R614; -; 0] -/
  sweepClk : Nat := 0
  headMode : Byte := 0
  rate : Byte := 3
  chainShed : Bool := false
  headTimeValid : Bool := false
  ringClosed : Bool := false
  /-- Side assigned. [16 R618; 1; none] -/
  side : Option (Fin 2) := none
  /-- The sweep whose CREDIT entry has been handled for ACK; a time mark of the present sweep was judged. [16 R616, R620; 32 + 1; none, false] -/
  ackSweep : Option (BitVec 32) := none
  marked : Bool := false
  /-- Missed sweeps in a row; autonomous; was autonomous. [16 R640; -; 0] -/
  missed : Nat := 0
  /-- Sweeps missed since the last one received. [16 R640; -; 0] -/
  missNo : Nat := 0
  autonomous : Bool := false
  wasAuto : Bool := false
  /-- Pending records, oldest first; records sent and not acknowledged; backlog, oldest first. [16 R616, R627, R641; 4096; empty] -/
  pending : List PodRecord := []
  sentRecs : List PodRecord := []
  backlog : List Record := []
  /-- Records lost from the pending area and from the backlog, decimated. [16; 3 x 16; 0] -/
  lostPending : BitVec 16 := 0
  lostBacklog : BitVec 16 := 0
  decimated : BitVec 16 := 0
  /-- DEC in force. [16 R628; 1; false] -/
  dec : Bool := false
  /-- Delay measurements per side, latest first, and t1 of an exchange. [16 R621; 2 x 4; empty] -/
  delays0 : List Int := []
  delays1 : List Int := []
  t1 : Option Count48 := none
  /-- The DELAY_REQ of the present sweep is queued. [16 R621; 1; false] -/
  delayAsked : Bool := false
  /-- ALARM frames: change count, one wanted, one sent in this sweep. [11 R426; 8; 0] -/
  alarmCount : Byte := 0
  alarmWanted : Bool := false
  alarmSent : Bool := false
  /-- Render entries received and confirmed. [10 R365; -; empty] -/
  render : List RenderEntry := []
  renderBuild : List RenderEntry := []
  renderSeq : BitVec 32 := 0
  /-- A transfer is open: its FIRST frame has come and its LAST one not yet. [16 R651; 1; false] -/
  renderOpen : Bool := false
  deriving DecidableEq, Repr

/-- Enumeration phases at the head. -/
inductive EnumPhase where
  | idle | collecting | booting
  deriving DecidableEq, Repr

/-- A pod found in a collection: its latest IDENTITY payload, and the link counts that its replies to DISCOVER copies of head port 0 and 1 brought
in this collection (R604). -/
structure Found where
  payload : List Byte
  fresh0 : Option Byte := none
  fresh1 : Option Byte := none
  deriving DecidableEq, Repr

/-- A remote link test (22). -/
structure RemoteTest where
  node : Byte
  side : Fin 2
  pattern : Byte
  duration : BitVec 32
  /-- Sweeps still to start before the test starts. -/
  toStart : Nat
  running : Bool
  /-- Near end's address, 0 the head. -/
  near : Byte
  /-- The port of this node that is an end of the link. -/
  port : Option (Fin 2)
  ackFar : Bool
  ackNear : Bool
  doneFar : Bool
  doneNear : Bool
  wasRing : Bool
  /-- At a pod the Plumb time of the start, as LT_START gives it; the clk at which the test began to run. -/
  startAt : Nat := 0
  startClk : Nat := 0
  deriving DecidableEq, Repr

/-- The Course link (15, 16). -/
structure Course where
  /-- Ports C0, C1. [15; 2; unused] -/
  ports : Vector Port 2 := Vector.replicate 2 {}
  /-- Own sequence counters per class ALARM, SWEEP, SERVICE. [15 R575; 3 x 8; 0] -/
  seqs : Vector Byte 3 := Vector.replicate 3 0
  /-- Last accepted sequence per source and class, with its clk. [15 R576, R577; list; empty] -/
  last : List (Byte × Nat × Byte × Nat) := []
  /-- The DISCOVER accepted last: its sequence, and whether it is the copy sent on head port C1. [15 R575, R587; 8 + 1; none] -/
  discovered : Option (Byte × Bool) := none
  /-- Chain version. [15 R598; 8; 1] -/
  version : Byte := 1
  /-- Ring closed, N. [15 R589; 1 + 8; false, 0] -/
  ringClosed : Bool := false
  n : Byte := 0
  /-- The present sweep started with the ring closed. [16 R619; 1; false] -/
  sweepRing : Bool := false
  /-- Enumeration. [15; -; idle] -/
  enum : EnumPhase := .idle
  /-- The enumeration follows a DISCOVER with FULL; it is the one of the handover (R599). [15 R588; 2; false] -/
  enumFull : Bool := false
  enumFirst : Bool := false
  /-- When the collection began and when the last new unique ID came, on the own clock. [15 table Enumeration; -; 0] -/
  collectClk : Nat := 0
  newIdClk : Nat := 0
  /-- The head's own DISCOVER has come round since the last one with FULL (R589). [15 R589; 1; false] -/
  ringBack : Bool := false
  /-- When the last DISCOVER was sent, on the own clock. [15 R588; -; 0] -/
  discoverClk : Nat := 0
  /-- Pods found in the present enumeration. [15 R590; list; empty] -/
  found : List Found := []
  /-- Lowest of the highest versions that IDENTITY frames have named since handover. [15 R598, R599; 8; 0xFF] -/
  lowest : Byte := 0xFF
  /-- A DISCOVER with FULL waits for the end of a boot transfer. [16 R642; 1; false] -/
  fullWanted : Bool := false
  /-- Unique IDs that two pods report (R604). [15 R604; list; empty] -/
  conflicts : List (BitVec 64) := []
  /-- Node records, ascending address. [15 per-node status; 250; empty] -/
  nodes : List Node := []
  /-- Nodes for which EV30 has told that a VCN found no free entry. [19 R719; list; empty] -/
  noRoom : List Nat := []
  /-- Parked UNMAPPED unique IDs: the page lists 16 and counts those beyond. [15; 16 x 64 + 16; empty] -/
  unmapped : List (BitVec 64) := []
  /-- Boot items still to send and the present one with its round. [15 R594; list; empty] -/
  bootItems : List (Byte × Byte × List Byte) := []
  bootRound : Nat := 0
  bootItem : Nat := 0
  /-- When the last BOOT_END was sent, on the own clock. [15 R597; -; 0] -/
  bootClk : Nat := 0
  /-- The sweep in progress: its period S in microseconds, none between sweeps; when it began, on the own clock; its CREDIT frames are sent.
  [16 R609, R610 table; -; none] -/
  sweepOf : Option Nat := none
  tickClk : Nat := 0
  credited : Bool := false
  /-- Sweep number of the last sweep; 0 before the first, which has number 1. [16 R609, 18 R696; 32; 0] -/
  sweep : BitVec 32 := 0
  /-- Break positions per side, 0xFF none. [18 per-node page; 2 x 8; 0xFF] -/
  break0 : Byte := 0xFF
  break1 : Byte := 0xFF
  /-- Service queue of host operations. [16 R631; 16; empty] -/
  service : List ServiceOp := []
  /-- last_served per side and class. [16 R625; 6 x 8; 0] -/
  lastServed : Vector Byte 6 := Vector.replicate 6 0
  /-- SERVICE time left in the present sweep on sides C0 and C1, ns; sweeps in a row without any. [16 R630, R631; -; 0] -/
  room : Nat × Nat := (0, 0)
  noService : Vector Nat 2 := Vector.replicate 2 0
  /-- Overload episode: active, quiet sweeps, a case seen in this sweep. [16 R633; -; false] -/
  overload : Bool := false
  quiet : Nat := 0
  overloadNow : Bool := false
  /-- Remote read window. [18 per-node page; 240 bytes; 0] -/
  rrNode : Byte := 0
  rrDone : Bool := false
  rrPending : Bool := false
  rrStatus : Byte := 0
  rrAddr : BitVec 16 := 0
  rrLen : BitVec 16 := 0
  rrData : List Byte := []
  /-- Remote link test scheduled or running; one that is over and waits for LT_DONE (R813). [22 R806, R813; -; none] -/
  remote : Option RemoteTest := none
  testDone : Option RemoteTest := none
  /-- The ring is closed again when the next sweep starts (R809). [22 R809; 1; false] -/
  ringAgain : Bool := false
  /-- The link of a linear chain under test: its side, and the link count of its far pod; to the start of the sweep after the test.
  [22 R810; -; none] -/
  testLink : Option (Fin 2 × Byte) := none
  /-- Pod side. [15, 16; -; empty] -/
  pod : Pod := {}
  deriving DecidableEq, Repr

/-- A queued event (17, 12 bytes). -/
structure QueuedEvent where
  ev : Fin 32
  boot : Bool
  arg : BitVec 16
  time : Count48
  era : Byte
  deriving DecidableEq, Repr

/-- Events (17). -/
structure Events where
  /-- Pending bits. [17 R680; 32 W1C; 0] -/
  pending : BitVec 32 := 0
  /-- Queue mask, IRQ mask. [17 R687, R688; 32 + 32; 0xFFFF_FFDF, 0x8000_001F] -/
  queueMask : BitVec 32 := 0xFFFFFFDF
  irqMask : BitVec 32 := 0x8000001F
  /-- Counts per event. [17 R680; 32 x 16 saturating; 0] -/
  counts : Vector (BitVec 16) 32 := Vector.replicate 32 0
  /-- Queue, oldest first. [17 R681; 256; empty] -/
  queue : List QueuedEvent := []
  /-- Overflow sticky, lost count. [17 R682; 1 + 16; 0] -/
  overflow : Bool := false
  lost : BitVec 16 := 0
  /-- Plumb time when the sticky was set, the raising of EV31. [17 R682, Queue entry; 56; 0] -/
  overflowAt : Count48 × Byte := (0, 0)
  /-- HIRQn held deasserted after an EVENTS frame (R685). [17 R685; 1; false] -/
  irqHold : Bool := false
  /-- The clk at which the hold began. [17 R685; 64; 0] -/
  irqClk : Nat := 0
  /-- System frame boundaries since the last EV05. [17 R683; 8; 0] -/
  frames : Nat := 0
  /-- Frame sequence of the last system frame complete. [18 mailbox page; 32; 0] -/
  systemFrame : BitVec 32 := 0
  deriving DecidableEq, Repr

/-- The move a time set makes at the rise of HCSn (R557, R563): by whole seconds of PPS, a step, or a slew. -/
inductive TimeMove where
  | seconds (e : Int)
  | step
  | slew
  deriving DecidableEq, Repr

/-- What a frame still does when HCSn rises after its last byte (R661), or at that rise (R557). -/
inductive ReadEffect where
  | none
  /-- Clear the high-water marks of the tarns covered. -/
  | marks (fifo spike : List (Fin 8))
  /-- Mark the delivered pairs. -/
  | delivered (l : List (Vcn × BitVec 32 × BitVec 16))
  /-- Remove that many events; EV31 returned with this lost count. -/
  | events (n : Nat) (lost : Option (BitVec 16))
  /-- Apply the time-set registers. -/
  | timeSet (m : TimeMove)
  deriving DecidableEq, Repr

/-- The host port (17, 18). -/
structure HostPort where
  /-- Response of the frame now at the port: status, data and CRC. [17 R653; bytes; empty] -/
  response : List Byte := []
  /-- Response kept for REPLAY. [17 R662; bytes; none] -/
  stored : Option (List Byte) := none
  /-- Side effects due at HCSn rise. [17 R661; -; none] -/
  effect : ReadEffect := .none
  /-- Status VIEW, Sluice BANK, node SELECT. [18; 3 x 8; 0] -/
  view : Byte := 0
  bank : Byte := 0
  select : Byte := 0
  /-- Pairs last delivered of VCNs that have no entry in the result store. [17 R676; list; empty] -/
  delivered : List (Vcn × BitVec 32 × BitVec 16) := []
  /-- Last command code and status. [18 mode page; 2 x 8; 0] -/
  lastCmd : Byte := 0
  lastStatus : Byte := 0
  deriving DecidableEq, Repr

/-- A log entry (19, 32 bytes): body is 24 bytes. -/
structure LogEntry where
  seq : BitVec 32
  kind : Byte
  flags : Byte
  era : Byte
  node : Byte
  body : List Byte
  deriving DecidableEq, Repr

/-- The log and Cistern's counts (19). -/
structure CisternLog where
  /-- General ring, oldest first. [19 R724; 15 360; empty] -/
  general : List LogEntry := []
  /-- Sequence of the next general entry. [19 R721; 32; 0] -/
  generalSeq : BitVec 32 := 0
  /-- Alarm region, oldest first. [19 R726; 1024; empty] -/
  alarm : List LogEntry := []
  /-- Sequence of the next alarm entry. [19 R721; 32; 0] -/
  alarmSeq : BitVec 32 := 0
  /-- Entries written in the present minute. [19 R722; 8; 0] -/
  budget : Nat := 0
  /-- Loss counts. [19 Summary data; 32, 32, 16 saturating; 0] -/
  generalLost : BitVec 32 := 0
  rateLost : BitVec 32 := 0
  alarmLost : BitVec 16 := 0
  /-- Overwrites since the last EV27. [19 R724; 14; none yet] -/
  overwrites : Option Nat := none
  /-- The ring stopped (R725). [19 R725; 1; false] -/
  stopped : Bool := false
  /-- Alarm overflow episode. [19 R727; 1; false] -/
  alarmEpisode : Bool := false
  /-- ECC: corrected, uncorrectable. [19 R715, R717; 16, 8 saturating; 0] -/
  corrected : BitVec 16 := 0
  uncorrectable : Byte := 0
  /-- Scrubber address, word 0 - 196 607; a double-bit error in the present pass. [19 R716; 18; 0] -/
  scrub : Nat := 0
  scrubBad : Bool := false
  /-- The clk at which the scrubber's present pass began. [19 R716; 64; 0] -/
  scrubClk : Nat := 0
  deriving DecidableEq, Repr

/-- A fault record entry (18). -/
structure FaultRecord where
  code : BitVec 16 := 0
  arg : BitVec 16 := 0
  time : Count48 := 0
  era : Byte := 0
  active : Bool := false
  masked : Bool := false
  deriving DecidableEq, Repr

/-- Keystone (20). -/
structure Keystone where
  /-- Active-fault word (AO). [20 R745; 32; 0] -/
  active : BitVec 32 := 0
  /-- Fault record ring (AO) and its index. [18 Keystone page; 16 x 96, 4; 0] -/
  records : Vector FaultRecord 16 := Vector.replicate 16 {}
  index : Fin 16 := 0
  /-- Fault count (AO). [18; 16 saturating; 0] -/
  count : BitVec 16 := 0
  /-- Start-up tests complete. [20 R759; 1; false] -/
  started : Bool := false
  /-- FAULTn forced low by the AO detector (R742). [20 R742; 1; false] -/
  kclkLost : Bool := false
  /-- A failed copy of Keystone drives FAULTn low by itself, until code 0x03 clears. [20 R741; 2; false, log 150] -/
  copyLow : Vector Bool 2 := Vector.replicate 2 false
  /-- What the codes 0x17, 0x18 and 0x19 rest on, in AO with them: lost pods; the side and position of each break located before the last reset;
  pods whose active-fault word read non-zero. [20 R744, R760, R767; lists; empty] -/
  lostPods : List Byte := []
  oldBreaks : List (Fin 2 × Byte) := []
  podFaults : List Byte := []
  /-- Shadow: path visited, frame of the visit; path of the last 0x0C while the next visit may move it to W23; paths with 0x0C; visits passed in a row with 0x0D. [20 R746 - R749; -; 0] -/
  path : Fin 23 := 0
  visitFrame : Fin 2 := 0
  /-- A visit is in progress; it has compared; it has found a mismatch. [20 R746 - R749; 3; false] -/
  visiting : Bool := false
  compared : Bool := false
  visitBad : Bool := false
  suspect : Option (Fin 23) := none
  badPaths : BitVec 23 := 0
  passes : Nat := 0
  /-- For each code the clk at which its detector last saw its fault. [20 Keystone fault codes, Clears; 28; 0] -/
  seen : Vector Nat 28 := Vector.replicate 28 0
  /-- The clk of the last reference measurement, test pattern and cross-count window. [20 R751, R754, R755; -; 0] -/
  voteClk : Nat := 0
  patternClk : Nat := 0
  countClk : Nat := 0
  /-- Reference measurements, latest first (up to ten). [20 R751; 10; empty] -/
  votes : List (Int × Int × Int) := []
  /-- Outvoted: A, B, coarse (AO condition record). [20 R751, 04; 3; false] -/
  outA : Bool := false
  outB : Bool := false
  outC : Bool := false
  /-- REFIN lost (code 0x0B); consecutive measurements out or in. [20 R753; -; false] -/
  refinLost : Bool := false
  refinIn : Nat := 0
  /-- Next watchdog word; watchdog runs since this clk. [20 R757; 8; 0x5A, log 3] -/
  wdWord : Byte := 0x5A
  wdClk : Option Nat := none
  /-- Injection code field; faults injected and not yet cleared, oldest first. [20 R762; 16 + list; 0, empty] -/
  injectCode : BitVec 16 := 0
  injected : List (Fin 28) := []
  /-- For each code the clk of its last injection. [20 R762; 28; 0] -/
  injectClk : Vector Nat 28 := Vector.replicate 28 0
  deriving DecidableEq, Repr

/-- The Gate (21). -/
structure Gate where
  /-- Sessions CAL, DIAG, TEST open, with the clk of the last activity. [21 R772, R787; 3; closed] -/
  sessions : Vector (Option Nat) 3 := Vector.replicate 3 none
  /-- Outstanding nonce and its scope code. [21 R779; 128 + 8; none] -/
  nonce : Option (BitVec 128 × Byte) := none
  /-- The clk at which the nonce was issued. [21 R781; -; 0] -/
  nonceClk : Nat := 0
  /-- Failure counter (AO). [21 R782; 16 saturating; 0] -/
  failures : BitVec 16 := 0
  /-- Lockout (AO): microseconds left; none when not running. [21 R783, R785; 32; none] -/
  lockout : Option Nat := none
  /-- Last EV28 argument. [21 R792; 8; 0] -/
  lastEvent : Byte := 0
  /-- Seal in progress: tags-required and key. [21 R775; -; none] -/
  sealing : Option (Bool × List Byte) := none
  /-- A reset cut a seal short after its key was written: EV28 tells it at the next handover. [21 R795; 1; false] -/
  sealCut : Bool := false
  deriving DecidableEq, Repr

/-- Link test words (22). -/
structure LinkTest where
  /-- Host check word. [22 R815; 32; 0] -/
  hostCheck : BitVec 32 := 0
  /-- Flash check word; a check runs. [22 R816; 32 + 1; 0] -/
  flashCheck : BitVec 32 := 0
  flashRunning : Bool := false
  deriving DecidableEq, Repr

/-- The machine. -/
structure State where
  /-- Commands waiting, first in first out. [the block model's own; -; empty] -/
  pending : List Instr := []
  /-- Microseconds since the AO domain was powered: the model's own clock, log 1. [-; -; 0] -/
  clk : Nat := 0
  /-- Free values drawn so far: the model's own, log 8. [-; -; 0, DESIGN CHOICE] -/
  freeCount : Nat := 0
  /-- RESETn is low. [02 R68; 1; false, log 3] -/
  resetnLow : Bool := false
  /-- Role. [00 R1, R2; 1; head until sampled, log 3] -/
  role : Role := .head
  /-- Phase. [04; -; porHold: asserted from first power, R42] -/
  phase : Phase := .porHold
  /-- Production test was entered at the last release (R818). [22 R819; 1; false] -/
  testMode : Bool := false
  supply : Supply := {}
  cornerstone : Cornerstone := {}
  otp : Otp := {}
  /-- The channel of the node's own temperatures and supplies converts; the frame running began at a Plumb step; clk of its latest boundary.
  [01 R15, 04 R124; 2 + -; false, none] -/
  sysOn : Bool := false
  sysDrop : Bool := false
  sysClk : Option Nat := none
  /-- The attached flash. [03 R76; -; erased chip, log 4] -/
  flash : FlashChip := { present := true, missingByte := 0xFF, content := [], sfdp := [], status05 := [0], status35 := 0 }
  boot : Boot := {}
  /-- Configuration in force, none before handover or in SAFE without one. [03 R99, R101; -; none] -/
  config : Option Image := none
  modes : Modes := {}
  ec : Vector EcChan 8 := Vector.replicate 8 {}
  weirs : Vector Weir 23 := Vector.replicate 23 {}
  tones : Vector Tone 8 := Vector.replicate 8 {}
  /-- Burn-out checks: AUX0 - AUX3, then films 0 - 5. -/
  burns : Vector Burn 10 := Vector.replicate 10 {}
  aux : Aux := {}
  mox : Vector Mox 6 := Vector.replicate 6 {}
  rail : Rail := {}
  thermal : Thermal := {}
  cal : Cal := {}
  spill : Spill := {}
  mere : Mere := {}
  time : Time := {}
  sluice : Vector Slot 128 := Vector.replicate 128 {}
  course : Course := {}
  events : Events := {}
  host : HostPort := {}
  /-- Result store: known VCNs in ascending order with their entries. [17, 19 R718; 8192; empty] -/
  results : List (Vcn × VcnEntry) := []
  log : CisternLog := {}
  ks : Keystone := {}
  gate : Gate := {}
  link : LinkTest := {}
  deriving DecidableEq, Repr

/-- The machine right after an AO reset, before any supply has risen (R42, R45): every field at the value its
comment names. -/
def State.reset : State := {}

/-- Reasons a command stops the block. The spec gives the block no stop: no meaning raises it (log 2). Safe. -/
inductive Fault where
  /-- Raised by no command of this model; the type needs a member. Safe. -/
  | undefinedStop
  deriving DecidableEq, Repr

/-- Reasons a command has no meaning. -/
inductive Refusal where
  /-- Raised by exec alone for a command not modelled yet. Safe: the run ends. -/
  | notModelled (mnemonic : String)
  deriving DecidableEq, Repr

end Sys2Proof.Machine
end

