-- ==== Sys2Proof/Machine/Operands.lean ====
section
/-! DEFINITION. Operand forms: the fields of the configuration sections in force, each with what applies when the section
is absent or skipped, and the small conversions between the spec's codes and the model's names. -/

namespace Sys2Proof.Machine

/-- What applies for a section that is absent or skipped: R556 (0x03), R344 (0x08), R687 (0x0F), R763 (0x10), R734 (0x12), R820 (0x13); without a
configuration the device is in SAFE (R101), and the payload given here for 0x02 only makes its fields readable. -/
def defaultSec : Nat → List Byte
  | 0x02 => [2, 0, 2, 6, 0, 0, 0, 0, 10, 0, 0, 0, 0, 0, 0, 0]
  | 0x03 => [0, 1]
  | 0x08 => [115, 6, 7, 0, 1, 0, 0, 0, 0, 0, 0, 0, 0, 0, 0, 0]
  | 0x0F => [0, 1, 0, 0, 0xDF, 0xFF, 0xFF, 0xFF, 0x1F, 0x00, 0x00, 0x80, 0, 0, 0, 0]
  | 0x10 => [0, 10, 0, 0, 0, 0, 0, 0, 0, 0, 0, 0, 0, 0, 0, 0]
  | 0x12 => [0, 220, 0, 0, 0, 0, 0, 0]
  | 0x13 => [0, 3, 0, 0, 0, 0, 0, 0, 0x60, 0xEA, 0, 0]
  | _ => []

/-- The payload of section `id` in an image. -/
def imageSec (c : Image) (id : Nat) : Option (List Byte) := c.secs.lookup (BitVec.ofNat 8 id)

/-- A section of that ID is in force. -/
def hasSec (s : State) (id : Nat) : Bool :=
  match s.config with
  | none => false
  | some c => (imageSec c id).isSome

/-- The payload of section `id` in force, or what applies without it. -/
def sec (s : State) (id : Nat) : List Byte :=
  match s.config with
  | none => defaultSec id
  | some c => (imageSec c id).getD (defaultSec id)

/-- The node number in this node's own records: 0 in the head, its address in a pod (R18). -/
def ownNode (s : State) : Byte :=
  match s.role with
  | .head => 0
  | .pod => s.course.pod.addr

/-- A VCN of this node. -/
def ownVcn (s : State) (idx : Nat) : Vcn := BitVec.ofNat 16 (256 * (ownNode s).toNat + idx)

/-- A VCN field of a section: in a pod, node 0x00 is its own address (R845). -/
def localVcn (s : State) (v : Nat) : Vcn :=
  match s.role with
  | .head => BitVec.ofNat 16 v
  | .pod => ownVcn s (v % 256)

/-- The 56-bit number of a Plumb time: era then count. -/
def time56 (t : Count48 × Byte) : Nat := t.2.toNat * 2 ^ 48 + t.1.toNat

/-! Section 0x02 (04). -/

/-- Code of a mode (table Mode command arguments). -/
def modeCode : Mode → Byte
  | .run => 0
  | .watch => 1
  | .safe => 2

/-- Mode of a code. -/
def modeOf (n : Nat) : Option Mode :=
  match n with
  | 0 => some .run
  | 1 => some .watch
  | 2 => some .safe
  | _ => none

/-- The start mode. -/
def startMode (s : State) : Mode := (modeOf (u8 (sec s 2) 0)).getD .safe
def cfgResume (s : State) : Bool := bit (u8 (sec s 2) 1) 0
def cfgMereOn (s : State) : Bool := bit (u8 (sec s 2) 5) 0
def cfgMoxOn (s : State) : Bool := bit (u8 (sec s 2) 5) 1
def cfgFastOn (s : State) : Bool := bit (u8 (sec s 2) 5) 2
def cfgAuto (s : State) : Bool := bit (u8 (sec s 2) 7) 0
def cfgChainKeep (s : State) : Bool := bit (u8 (sec s 2) 7) 1
def cfgRailHold (s : State) : Nat := u16 (sec s 2) 10
def cfgSluiceMode (s : State) : Bool := bit (u8 (sec s 2) 12) 0
def cfgHostMode (s : State) : Bool := bit (u8 (sec s 2) 12) 1

/-- The SAFE stance of ALARMA (0) or ALARMB (1): 0 hold, 1 assert, 2 release. -/
def cfgStance (s : State) (pin : Fin 2) : Nat := field (u8 (sec s 2) 6) (2 * pin.val) 2

/-- k of the system frame in that mode (R15); SAFE has none. -/
def frameK (s : State) : Mode → Nat
  | .run => u8 (sec s 2) 2
  | .watch => u8 (sec s 2) 3
  | .safe => 0

/-- Length of a frame of 2^k base frames, in microseconds (R15). -/
def frameUs (k : Nat) : Nat := 15625 * 2 ^ k

/-- A boundary of a frame of `us` microseconds: the 56-bit Plumb time, counted from where the frames in force are counted from, has just
reached or passed a whole multiple (R15, R131, R538). -/
def onGrid (s : State) (us : Nat) : Bool :=
  s.time.counting && decide (((time56 (s.time.count, s.time.era) : Int) - s.time.anchor) % us < s.time.stride)

/-- The 48-bit Plumb count has just reached or passed a whole multiple of `us` microseconds: whole seconds, minutes, hours. -/
def onCount (s : State) (us : Nat) : Bool := s.time.counting && decide (s.time.count.toNat % us < s.time.stride)

/-- The 56-bit Plumb time has just reached or passed a whole multiple of `us` microseconds: the starts of sweeps (R524, R609). -/
def onTime (s : State) (us : Nat) : Bool := s.time.counting && decide (time56 (s.time.count, s.time.era) % us < s.time.stride)

/-- The 56-bit Plumb time of the base frame boundary that has just been reached or passed; the present time away from one (R15). -/
def gridTime (s : State) : Nat :=
  let now := time56 (s.time.count, s.time.era)
  let past := (((now : Int) - s.time.anchor) % 15625).toNat
  if past < s.time.stride then now - past else now

/-- The 56-bit Plumb time of the whole multiple of `us` microseconds of the count that has just been reached or passed. -/
def wholeTime (s : State) (us : Nat) : Nat := time56 (s.time.count, s.time.era) - s.time.count.toNat % us

/-- Bits of a byte, bit 0 first. -/
def flags8 (l : List Bool) : Nat := l.foldr (fun b a => (if b then 1 else 0) + 2 * a) 0

/-- The nonce outstanding: one lapses 60 s after it was issued (R781). -/
def liveNonce (s : State) : Option (BitVec 128 × Byte) := if s.clk < s.gate.nonceClk + 60000000 then s.gate.nonce else none

/-- The clk of the latest moment of a grid of `us` that the moment `old` lies on. -/
def gridClk (s : State) (old us : Nat) : Nat := s.clk - (s.clk - old) % us

/-- The 56-bit Plumb time of a 48-bit count near now: a record's end of frame (log 95). -/
def nearTime (s : State) (c : Count48) : Nat :=
  let now := time56 (s.time.count, s.time.era)
  let d := (s.time.count - c).toNat
  if d < 2 ^ 47 then now - d else now + (2 ^ 48 - d)

/-- Number of the period of `us` microseconds of the count that a moment lies in, its end counted in (log 95). -/
def periodOf (us t : Nat) : Nat :=
  let e := t - 1
  e / 2 ^ 48 * (2 ^ 48 / us + 1) + e % 2 ^ 48 / us

/-- Number of the Plumb second and of the Plumb minute in which a frame that ends at `t` ends. -/
def secondOf (t : Nat) : Nat := periodOf 1000000 t
def minuteOf (t : Nat) : Nat := periodOf 60000000 t

/-! Section 0x0B, 0x0C (11). -/

/-- Number of rules (R441: none without the section). -/
def ruleCount (s : State) : Nat := u16 (sec s 0x0B) 0

/-- The 32 bytes of rule `k`. -/
def ruleEntry (s : State) (k : Nat) : List Byte := ((sec s 0x0B).drop (16 + 32 * k)).take 32

/-- ALARMA (0) or ALARMB (1) is used. -/
def pinUsed (s : State) (pin : Fin 2) : Bool := bit (u8 (sec s 0x0B) 2) pin.val
def pinInv (s : State) (pin : Fin 2) : Bool := bit (u8 (sec s 0x0B) 2) (2 + pin.val)
def ruleKind (s : State) (k : Nat) : Nat := u8 (ruleEntry s k) 0
def ruleLatch (s : State) (k : Nat) : Bool := bit (u8 (ruleEntry s k) 1) 0
def ruleFast (s : State) (k : Nat) : Bool := bit (u8 (ruleEntry s k) 1) 1
def ruleLow (s : State) (k : Nat) : Bool := bit (u8 (ruleEntry s k) 1) 2
def rulePuClear (s : State) (k : Nat) : Bool := bit (u8 (ruleEntry s k) 1) 3
def ruleInvAssert (s : State) (k : Nat) : Bool := bit (u8 (ruleEntry s k) 1) 4
def ruleVcn (s : State) (k : Nat) : Vcn := localVcn s (u16 (ruleEntry s k) 2)
def ruleSet (s : State) (k : Nat) : F32 := f32At (ruleEntry s k) 4
def ruleClear (s : State) (k : Nat) : F32 := f32At (ruleEntry s k) 8
def ruleSetCount (s : State) (k : Nat) : Nat := u8 (ruleEntry s k) 12
def ruleClearCount (s : State) (k : Nat) : Nat := u8 (ruleEntry s k) 13
def ruleArg (s : State) (k : Nat) : Nat := u16 (ruleEntry s k) 16

/-- Output bit `n` of rule `k`: 0 ALARMA, 1 ALARMB, 2 FAULTn, 3 AOUT0, 4 AOUT1, 5 CHAIN, 6 EVENT. -/
def ruleOut (s : State) (k n : Nat) : Bool := bit (u8 (ruleEntry s k) 14) n

/-- The 16 bytes of a ratio output's block. -/
def aoutBlock (s : State) (n : Fin 2) : List Byte := ((sec s 0x0C).drop (16 * n.val)).take 16
def aoutPresent (s : State) (n : Fin 2) : Bool := bit (u8 (aoutBlock s n) 0) 0
def aoutVcn (s : State) (n : Fin 2) : Vcn := localVcn s (u16 (aoutBlock s n) 2)
def aoutLo (s : State) (n : Fin 2) : F32 := f32At (aoutBlock s n) 4
def aoutHi (s : State) (n : Fin 2) : F32 := f32At (aoutBlock s n) 8
def aoutSlew (s : State) (n : Fin 2) : Nat := u16 (aoutBlock s n) 12

/-! Section 0x06 (07). -/

/-- The 36 bytes of MOX channel `n`. -/
def moxBlock (s : State) (n : Fin 6) : List Byte := ((sec s 6).drop (36 * n.val)).take 36
def moxPresent (s : State) (n : Fin 6) : Bool := bit (u8 (moxBlock s n) 0) 0
def moxWatch (s : State) (n : Fin 6) : Bool := bit (u8 (moxBlock s n) 0) 1
def moxCrit (s : State) (n : Fin 6) : Bool := bit (u8 (moxBlock s n) 0) 2
def moxRatio (s : State) (n : Fin 6) : Bool := bit (u8 (moxBlock s n) 0) 3
def moxVlim (s : State) (n : Fin 6) : Rat := (u16 (moxBlock s n) 6 : Rat) / 1000
def moxR25 (s : State) (n : Fin 6) : Rat := toRatD (f32At (moxBlock s n) 8)
def moxAlpha (s : State) (n : Fin 6) : Rat := (signed 16 (u16 (moxBlock s n) 12) : Rat) / 10 ^ 6
def moxBeta (s : State) (n : Fin 6) : Rat := (signed 16 (u16 (moxBlock s n) 14) : Rat) / 10 ^ 8
def moxKp (s : State) (n : Fin 6) : Rat := (u16 (moxBlock s n) 24 : Rat) / 256
def moxTi (s : State) (n : Fin 6) : Nat := u16 (moxBlock s n) 26
def moxBand (s : State) (n : Fin 6) : Rat := (u8 (moxBlock s n) 28 : Rat) / 1000
def moxCold (s : State) (n : Fin 6) : Nat := u16 (moxBlock s n) 32
def moxWarm (s : State) (n : Fin 6) : Nat := u8 (moxBlock s n) 34

/-- The channel's heater runs in that mode (table What runs in each mode). -/
def moxHeatsIn (s : State) (m : Mode) (n : Fin 6) : Bool :=
  moxPresent s n &&
    match m with
    | .run => true
    | .watch => cfgMoxOn s && moxWatch s n
    | .safe => false

/-- The profile of channel `n`: 264 bytes. -/
def moxProfile (s : State) (n : Fin 6) : List Byte := ((sec s 6).drop (216 + 264 * u8 (moxBlock s n) 1)).take 264
def stepCount (s : State) (n : Fin 6) : Nat := u8 (moxProfile s n) 0
def loopStart (s : State) (n : Fin 6) : Nat := u8 (moxProfile s n) 1
def profileLoops (s : State) (n : Fin 6) : Bool := bit (u8 (moxProfile s n) 2) 0

/-- The 8 bytes of step `k`. -/
def stepEntry (s : State) (n : Fin 6) (k : Nat) : List Byte := ((moxProfile s n).drop (8 + 8 * k)).take 8
def stepKind (s : State) (n : Fin 6) (k : Nat) : Nat := u8 (stepEntry s n k) 0
def stepSample (s : State) (n : Fin 6) (k : Nat) : Bool := bit (u8 (stepEntry s n k) 1) 0

/-- Target of a STEP or RAMP step in degrees. -/
def stepTarget (s : State) (n : Fin 6) (k : Nat) : Rat := (signed 16 (u16 (stepEntry s n k) 2) : Rat) / 10

/-- Duty of a DUTY step. -/
def stepDuty (s : State) (n : Fin 6) (k : Nat) : Rat := (u16 (stepEntry s n k) 2 : Rat) / 1000

/-- Duration in 1 ms ticks. -/
def stepTicks (s : State) (n : Fin 6) (k : Nat) : Nat :=
  u16 (stepEntry s n k) 4 * (if bit (u8 (stepEntry s n k) 1) 1 then 10 else 1)

/-! Section 0x08 (09), in the monitor's units of 1/16 K. -/

def cfgThrottle (s : State) : Rat := 16 * (u8 (sec s 8) 0 : Rat)
def cfgRor (s : State) : Rat := 16 * (u8 (sec s 8) 1 : Rat)
def cfgCrystalSensor (s : State) : Fin 8 := ⟨u8 (sec s 8) 2 % 8, Nat.mod_lt _ (by decide)⟩
def cfgCrystalOffset (s : State) : Rat := (signed 8 (u8 (sec s 8) 3) : Rat) / 10

/-- The gradient g_i in 1/16 K per watt: Cornerstone's under FACTORYG (R344). -/
def cfgGradient (s : State) (i : Fin 8) : Rat :=
  let g : Int := if bit (u8 (sec s 8) 4) 0 then s.cornerstone.gradients[i] else signed 8 (u8 (sec s 8) (8 + i.val))
  16 * (g : Rat) / 10

/-! Sections 0x07, 0x0E, 0x0F, 0x10, 0x12, 0x13. -/

/-- The rail is present (R310). -/
def railPresent (s : State) : Bool := bit (u8 (sec s 7) 0) 0
def chainEnabled (s : State) (sw : Fin 2) : Bool := s.role == .head && bit (u8 (sec s 7) 0) (1 + sw.val)
def cfgSenseAct (s : State) : Bool := bit (u8 (sec s 7) 0) 3
def cfgRailLimit (s : State) : Nat := u16 (sec s 7) 8
def cfgChainLimit (s : State) (sw : Fin 2) : Nat := u16 (sec s 7) (10 + 2 * sw.val)
def cfgSetpoint (s : State) : Rat := (u16 (sec s 7) 2 : Rat) / 1000

/-- Unit at place `i` of the shed order: 0 background heaters, 1 chain, 2 critical heaters. -/
def cfgShedUnit (s : State) (i : Nat) : Nat := field (u8 (sec s 7) 1) (2 * i) 2
def cfgChainFloor (s : State) : Nat := u16 (sec s 7) 14

/-- A Course port is used: in a pod both; in the head C0 with C0USE, C1 with RING (section 0x0E, R22, R601). -/
def portUsed (s : State) (p : Fin 2) : Bool :=
  match s.role with
  | .pod => true
  | .head => bit (u8 (sec s 0x0E) 0) 0 && (p == 0 || bit (u8 (sec s 0x0E) 0) 1)

def cfgCrcReq (s : State) : Bool := bit (u8 (sec s 0x0F) 0) 0
def cfgPushPull (s : State) : Bool := bit (u8 (sec s 0x0F) 0) 1
def cfgEv05Divider (s : State) : Nat := u8 (sec s 0x0F) 1
def cfgSafety (s : State) : Bool := bit (u8 (sec s 0x10) 0) 0
def cfgRefin (s : State) : Bool := bit (u8 (sec s 0x10) 0) 1
/-- Watchdog timeout in microseconds (R757). -/
def watchdogUs (s : State) : Nat := 10000 * u8 (sec s 0x10) 1
def cfgSafeMask (s : State) : BitVec 32 := BitVec.ofNat 32 (u32 (sec s 0x10) 4)
def cfgLogStop (s : State) : Bool := bit (u8 (sec s 0x12) 0) 0
def cfgLogCap (s : State) : Nat := u8 (sec s 0x12) 1
def cfgNoRemote (s : State) : Bool := bit (u8 (sec s 0x13) 0) 0
def cfgTestPattern (s : State) : Nat := u8 (sec s 0x13) 1
def cfgErrorThreshold (s : State) : Nat := u32 (sec s 0x13) 4
def cfgTestMax (s : State) : Nat := u32 (sec s 0x13) 8

/-- CRCs are required on the host port (R657). -/
def crcRequired (s : State) : Bool := s.config.isSome && (cfgCrcReq s || cfgSafety s)

/-- Node and local index of a VCN. -/
def vcnNode (v : Vcn) : Nat := v.toNat / 256
def vcnIndex (v : Vcn) : Nat := v.toNat % 256

/-- A local index that R844 assigns to a quantity. -/
def assignedIndex (i : Nat) : Bool :=
  i ≤ 0x15 || (0x18 ≤ i && i ≤ 0x1D) || (0x20 ≤ i && i ≤ 0x23) || (0x28 ≤ i && i ≤ 0x7F) || (0x80 ≤ i && i ≤ 0x8F)

/-- The 24 bytes of a result record (17, table Result record). -/
def recordBytes (r : Record) : List Byte :=
  toLE 2 r.vcn.toNat ++ toLE 2 r.status.toNat ++ toLE 4 r.seq.toNat ++ toLE 6 r.time.toNat ++ toLE 4 r.value.toNat ++
    toLE 4 r.raw.toNat ++ toLE 2 r.age.toNat

/-- The record of 24 bytes. -/
def recordOf (p : List Byte) : Record :=
  { vcn := BitVec.ofNat 16 (u16 p 0), status := BitVec.ofNat 16 (u16 p 2), seq := BitVec.ofNat 32 (u32 p 4),
    time := BitVec.ofNat 48 (le p 8 6), value := f32At p 14, raw := BitVec.ofNat 32 (u32 p 18),
    age := BitVec.ofNat 16 (u16 p 22) }

/-- A Plumb time field of 7 bytes (R702). -/
def plumbBytes (t : Count48 × Byte) : List Byte := toLE 6 t.1.toNat ++ [t.2]

/-- The Plumb time at offset `o`. -/
def plumbAt (p : List Byte) (o : Nat) : Count48 × Byte := (BitVec.ofNat 48 (le p o 6), BitVec.ofNat 8 (u8 p (o + 6)))

/-- The Plumb time of a 56-bit number. -/
def plumb56 (n : Nat) : Count48 × Byte := (BitVec.ofNat 48 n, BitVec.ofNat 8 (n / 2 ^ 48))

end Sys2Proof.Machine
end

