-- ==== Sys2Proof/Machine/Image.lean ====
section
/-! DEFINITION. Images: the "Rejected if" column of every configuration section (R7, R9, R92), the container (R87 - R96), pod
sub-images (R111 - R113, R845), and the network image (R480, R510, R511). A value named by no rule of the spec: none. -/

namespace Sys2Proof.Machine

/-! Field forms. -/

/-- Payload of an accepted section of an image under check, empty when absent or skipped. -/
def isec (c : Image) (id : Nat) : List Byte := (imageSec c id).getD []

/-- A value in a closed range. -/
def inR (lo hi v : Nat) : Bool := lo ≤ v && v ≤ hi

/-- A signed value in a closed range. -/
def inZ (lo hi v : Int) : Bool := lo ≤ v && v ≤ hi

/-- A binary32 in a closed range; a NaN or an infinity is not. -/
def inF (lo hi : Rat) (v : F32) : Bool :=
  match toRat? v with
  | none => false
  | some r => lo ≤ r && r ≤ hi

/-- A binary32 above 0 and finite. -/
def posF (v : F32) : Bool := isFinite v && flt 0 v

/-- The condition holds for every number below `n`. -/
def allBelow (n : Nat) (f : Nat → Bool) : Bool := (List.range n).all f

/-- Element `i` of a list differs from every element before it. -/
def noRepeat (l : List Nat) : Bool := decide l.Nodup

/-- RUN and WATCH frames with a multiplier stay within 4 s. -/
def multOk (c : Image) (m : Nat) : Bool :=
  m / 4 == 0 && u8 (isec c 2) 2 + m % 4 ≤ 8 && u8 (isec c 2) 3 + m % 4 ≤ 8

/-- Range control byte (section 0x04 and 0x06). -/
def rangeOk (b : Nat) : Bool :=
  let lo := field b 0 2
  let hi := field b 2 2
  let st := field b 5 2
  lo ≤ hi && (bit b 4 || lo == hi) && lo ≤ st && st ≤ hi && !bit b 7

/-- A node field: 0 to 250 in the head, 0 in a sub-image (R845). -/
def nodeOk (pod : Bool) (v : Nat) : Bool := if pod then v / 256 == 0 else v / 256 ≤ 250

/-! Sections 0x01 to 0x13. -/

/-- An ASCII byte in a range. -/
def asciiIn (p : List Byte) (o lo hi : Nat) : Bool := inR lo hi (u8 p o)

/-- ISO 6346 value of byte `o` of section 0x01 (R109). -/
def isoValue (b : Nat) : Nat :=
  if b < 0x41 then b - 0x30
  else
    let i := b - 0x41
    10 + i + (if 1 ≤ i then 1 else 0) + (if 11 ≤ i then 1 else 0) + (if 21 ≤ i then 1 else 0)

/-- The check digit of R109. -/
def checkDigit (p : List Byte) : Nat :=
  ((List.range 10).foldl (fun a k => a + isoValue (u8 p (1 + k)) * 2 ^ k) 0) % 11 % 10

/-- Printable bytes, then zeros (asset tag). -/
def assetOk : List Byte → Bool
  | [] => true
  | b :: r => if b = 0 then r.all (· == 0) else inR 0x20 0x7E b.toNat && assetOk r

/-- Section 0x01. -/
def ok01 (p : List Byte) : Bool :=
  p.length == 32 && u8 p 0 / 2 == 0 && assetOk ((p.drop 12).take 16) &&
    if bit (u8 p 0) 0 then
      asciiIn p 1 0x41 0x5A && asciiIn p 2 0x41 0x5A && asciiIn p 3 0x41 0x5A &&
        (u8 p 4 == 0x55 || u8 p 4 == 0x4A || u8 p 4 == 0x5A) && allBelow 7 (fun i => asciiIn p (5 + i) 0x30 0x39) &&
        u8 p 11 == 0x30 + checkDigit p
    else zeros p 1 11

/-- Section 0x02 (04). -/
def ok02 (p : List Byte) : Bool :=
  p.length == 16 && u8 p 0 ≤ 2 && u8 p 1 ≤ 1 && u8 p 2 ≤ 8 && u8 p 2 ≤ u8 p 3 && u8 p 3 ≤ 8 && u8 p 4 ≤ 3 && u8 p 5 ≤ 7 &&
    u8 p 6 / 16 == 0 && field (u8 p 6) 0 2 ≤ 2 && field (u8 p 6) 2 2 ≤ 2 && u8 p 7 ≤ 3 && inR 10 3600 (u16 p 8) &&
    u16 p 10 ≤ 2000 && u8 p 12 ≤ 3 && zeros p 13 3

/-- A slot entry: kinds and arguments of the table Action kinds, one-shot and periodic forms (14; R558). The VCN of kind 0x04 is an argument, no
field that must name the own node: any node 0 - 250 stands there, in a sub-image too (R845; DESIGN CHOICE, log 140). -/
def slotOk (pod : Bool) (p : List Byte) : Bool :=
  let a := u16 p 2
  let per := bit (u8 p 1) 0
  let arg :=
    match u8 p 0 with
    | 1 => !pod && a ≤ 2
    | 2 => a != 0 && a ≤ 0x3F
    | 3 => a != 0 && a ≤ 0xFF
    | 4 => a / 256 ≤ 250 && (a % 256 ≤ 0x15 || inR 0x20 0x23 (a % 256))
    | 5 => true
    | _ => false
  if u8 p 0 = 0 then zeros p 0 16
  else
    u8 p 1 ≤ 1 && arg &&
      if per then 100 ≤ u32 p 4 && zeros p 12 4 && u32 p 8 < u32 p 4 else zeros p 5 3 && zeros p 14 2

/-- Section 0x03 (14). -/
def ok03 (pod : Bool) (p : List Byte) : Bool :=
  let n := u8 p 2
  n ≤ 128 && p.length == 64 + 16 * n && u8 p 0 / 64 == 0 && (pod || !bit (u8 p 0) 5) && u8 p 1 ≤ 60 && zeros p 3 1 &&
    (if bit (u8 p 0) 3 then inZ (-1000000) 1000000 (signed 32 (u32 p 4)) else u32 p 4 == 0) &&
    (if bit (u8 p 0) 4 then inR 1 500 (u16 p 8) else u16 p 8 == 0) && zeros p 10 2 && inF (-40) 125 (f32At p 12) &&
    inF (-200) 200 (f32At p 16) && isFinite (f32At p 20) && isFinite (f32At p 24) && isFinite (f32At p 28) && zeros p 40 24 &&
    allBelow n fun k => slotOk pod ((p.drop (64 + 16 * k)).take 16)

/-- A channel block of section 0x04 (05, R189). -/
def ecOk (c : Image) (b : List Byte) : Bool :=
  if !bit (u8 b 11) 0 then zeros b 0 16
  else
    inZ (-500000) 500000 (signed 32 (u32 b 0)) && inR 1 100000 (u32 b 4) && multOk c (u8 b 8) && rangeOk (u8 b 9) &&
      (if bit (u8 b 11) 1 then rangeOk (u8 b 10) else u8 b 10 == 0) && u8 b 11 ≤ 3 && zeros b 15 1

/-- Section 0x04. -/
def ok04 (c : Image) (p : List Byte) : Bool := p.length == 128 && allBelow 8 fun n => ecOk c ((p.drop (16 * n)).take 16)

/-- Channel `n` of the accepted section 0x04: PRESENT, WE2, and its block. -/
def ecBlk (c : Image) (n : Nat) : List Byte := ((isec c 4).drop (16 * n)).take 16

/-- A frequency code gives whole cycles in the channel's RUN frame (R209, R210). -/
def toneFits (c : Image) (n code : Nat) : Bool :=
  let x := code * 2 ^ (u8 (isec c 2) 2 + u8 (ecBlk c n) 8 % 4)
  inR 1 8000 code && x % 512 == 0 && 512 ≤ x

/-- Bias target and tone peak stay within 1.000 V: |target| + sqrt 2 x A, the target in 2 microvolt steps (R214). -/
def toneBiasOk (target : Int) (a : Nat) : Bool :=
  let room := 1000000 - 2 * target.natAbs
  2 * target.natAbs ≤ 1000000 && 2 * (1000 * a) * (1000 * a) ≤ room * room

/-- An electrochemical block of section 0x05 (06). -/
def toneOk (c : Image) (p : List Byte) (n : Nat) : Bool :=
  let b := (p.drop (24 * n)).take 24
  if u8 b 0 = 0 then zeros b 0 24
  else
    let sweep := u8 b 0 == 2
    u8 b 0 ≤ 2 && bit (u8 (ecBlk c n) 11) 0 && inR 1 20 (u8 b 1) && toneBiasOk (signed 32 (u32 (ecBlk c n) 0)) (u8 b 1) &&
      inR 1 64 (u8 b 2) && (if sweep then inR 1 8 (u8 b 3) else u8 b 3 == 0) &&
      (if sweep then u16 b 4 == 0 else toneFits c n (u16 b 4)) && zeros b 6 2 &&
      fle 0 (f32At b 8) && flt (f32At b 8) (f32At b 12) && isFinite (f32At b 12) && flt (f32At b 12) (f32At b 16) &&
      inZ (-18000) 18000 (signed 16 (u16 b 20)) && inZ (-18000) 18000 (signed 16 (u16 b 22)) &&
      signed 16 (u16 b 20) ≤ signed 16 (u16 b 22) &&
      (!sweep || allBelow (u8 b 3) fun i => toneFits c n (u16 p (192 + 2 * i)))

/-- Burn-out bytes from `o` on: level, period, check time, threshold. -/
def burnOk (b : List Byte) (o : Nat) : Bool :=
  if u8 b o = 0 then u8 b (o + 1) == 0
  else u8 b o ≤ 3 && 1 ≤ u8 b (o + 1) && inR 1 100 (u8 b (o + 2)) && inR 100 240 (u8 b (o + 3))

/-- Section 0x05. -/
def ok05 (c : Image) (p : List Byte) : Bool :=
  let sweepUse (i : Nat) : Bool := (List.range 8).any fun n => u8 p (24 * n) == 2 && i < u8 p (24 * n + 3)
  p.length == 256 && allBelow 8 (toneOk c p) && allBelow 8 (fun i => sweepUse i || u16 p (192 + 2 * i) == 0) &&
    allBelow 6 fun n =>
      let b := (p.drop (208 + 8 * n)).take 8
      burnOk b 0 && (u8 b 0 == 0 || (bit (u8 (isec c 6) (36 * n)) 0 && inR 5 500 (u16 b 4))) && zeros b 6 2

/-- A step of a profile (07). -/
def stepOk (b : List Byte) : Bool :=
  let t := signed 16 (u16 b 2)
  let target :=
    match u8 b 0 with
    | 0 => t == 0
    | 1 | 2 => inZ (-400) 6000 t
    | 3 => inZ 0 1000 t
    | _ => false
  target && u8 b 1 ≤ 3 && u16 b 4 != 0 && zeros b 6 2

/-- A used profile slot. -/
def profileOk (b : List Byte) : Bool :=
  let n := u8 b 0
  inR 1 32 n && u8 b 1 < n && u8 b 2 ≤ 1 && zeros b 3 5 && allBelow n (fun k => stepOk ((b.drop (8 + 8 * k)).take 8)) &&
    zeros b (8 + 8 * n) (256 - 8 * n)

/-- A present channel block of section 0x06. -/
def moxOk (c : Image) (b : List Byte) : Bool :=
  u8 b 0 / 16 == 0 && u8 b 1 ≤ 5 && multOk c (u8 b 2) && rangeOk (u8 b 3) && inR 10 1000 (u16 b 4) &&
    inR 500 12000 (u16 b 6) && inF 5 5000 (f32At b 8) && inZ 100 10000 (signed 16 (u16 b 12)) &&
    inZ (-10000) 10000 (signed 16 (u16 b 14)) && inF 1000 (10 ^ 11) (f32At b 16) &&
    inZ (-20000) 20000 (signed 16 (u16 b 20)) && inZ 0 6000 (signed 16 (u16 b 22)) && u16 b 24 != 0 && u16 b 26 != 0 &&
    u8 b 28 != 0 && u8 b 29 != 0 && 8 ≤ u8 b 30 && zeros b 31 1 && zeros b 35 1

/-- A SAMPLE step of a profile lasts at least twice the channel's RUN film frame (R270). -/
def sampleOk (c : Image) (b prof : List Byte) : Bool :=
  (List.range (u8 prof 0)).any fun k =>
    let f := u8 prof (9 + 8 * k)
    bit f 0 && 2 * frameUs (u8 (isec c 2) 2 + u8 b 2 % 4) ≤ 1000 * u16 prof (12 + 8 * k) * (if bit f 1 then 10 else 1)

/-- Section 0x06 (07, R270). -/
def ok06 (c : Image) (p : List Byte) : Bool :=
  let blk (n : Nat) : List Byte := (p.drop (36 * n)).take 36
  let prof (k : Nat) : List Byte := (p.drop (216 + 264 * k)).take 264
  let used (k : Nat) : Bool := (List.range 6).any fun n => bit (u8 (blk n) 0) 0 && u8 (blk n) 1 == k
  p.length == 1800 &&
    allBelow 6 (fun n => if bit (u8 (blk n) 0) 0 then moxOk c (blk n) && sampleOk c (blk n) (prof (u8 (blk n) 1))
      else zeros (blk n) 0 36) &&
    allBelow 6 fun k => if used k then profileOk (prof k) else zeros (prof k) 0 264

/-- A current limit of a chain-power port: used, or 0. -/
def portLimitOk (v : Nat) (on : Bool) : Bool := if on then inR 250 1750 v && v % 50 == 0 else v == 0

/-- Section 0x07 (08, R310). -/
def ok07 (pod : Bool) (p : List Byte) : Bool :=
  let fl := u8 p 0
  let c0 := bit fl 1
  let c1 := bit fl 2
  let port := c0 || c1
  let o := u8 p 1
  let units := [field o 0 2, field o 2 2, field o 4 2]
  p.length == 20 &&
    if !bit fl 0 then zeros p 0 20
    else
      fl / 16 == 0 && !(pod && port) && o / 64 == 0 && units.all (· ≤ 2) && noRepeat units && inR 3300 12000 (u16 p 2) &&
        inR 47 100 (u8 p 4) && (if port then inR 1 20 (u8 p 5) else u8 p 5 == 0) && inR 500 1500 (u16 p 6) &&
        inR 500 4000 (u16 p 8) && u16 p 6 * u16 p 8 ≤ 6000000 && portLimitOk (u16 p 10) c0 && portLimitOk (u16 p 12) c1 &&
        portLimitOk (u16 p 14) port && (!c0 || u16 p 14 ≤ u16 p 10) && (!c1 || u16 p 14 ≤ u16 p 12) &&
        (if port then inR 1 100 (u8 p 16) else u8 p 16 == 0) && zeros p 17 3

/-- Section 0x08 (09). A gradient of -128 is rejected: the field is stated as -127 to 127, and its last column does not name the value (R9; DESIGN
CHOICE, log 136). -/
def ok08 (p : List Byte) : Bool :=
  p.length == 16 && inR 95 125 (u8 p 0) && inR 1 20 (u8 p 1) && u8 p 2 ≤ 7 && inZ (-100) 100 (signed 8 (u8 p 3)) &&
    u8 p 4 ≤ 1 && zeros p 5 3 && (if bit (u8 p 4) 0 then zeros p 8 8 else allBelow 8 fun i => u8 p (8 + i) != 0x80)

/-- The visits of the AUX frame fit in it in RUN (R227), in microseconds. -/
def auxFits (c : Image) (p : List Byte) : Bool :=
  let visit (tc : Nat) : Nat := u8 p 5 + u16 p 6 + u16 p 8 + 100 * tc
  let one (n : Nat) : Nat :=
    let b := (p.drop (12 + 8 * n)).take 8
    if !bit (u8 b 0) 0 then 0
    else visit (u16 b 2) + if u8 b 4 = 0 then 0 else 100 * u8 b 6 + u8 p 5 + u16 p 6
  let exs := (List.range 4).any fun n => bit (u8 p (12 + 8 * n)) 0 && u8 p (13 + 8 * n) != 0
  (one 0 + one 1 + one 2 + one 3 + if exs then visit Config.exsTime else 0) ≤ frameUs (u8 (isec c 2) 2 + u8 p 4 % 4)

/-- An input block of section 0x09. -/
def auxOk (exc : Nat) (b : List Byte) : Bool :=
  if !bit (u8 b 0) 0 then zeros b 0 8
  else
    u8 b 0 == 1 && u8 b 1 ≤ 2 && (u8 b 1 != 1 || exc == 1) && (u8 b 1 != 2 || exc == 2) && inR 1 40000 (u16 b 2) && burnOk b 4

/-- Section 0x09 (06). -/
def ok09 (c : Image) (p : List Byte) : Bool :=
  let e := u8 p 0
  let value :=
    match e with
    | 0 => u16 p 2 == 0
    | 1 => u16 p 2 ≤ 2500
    | 2 => inR 1 1000 (u16 p 2)
    | _ => false
  p.length == 44 && value && u8 p 1 ≤ 1 && (u8 p 1 == 0 || e == 1) && multOk c (u8 p 4) && 2 ≤ u8 p 5 && inR 5 500 (u16 p 6) &&
    10 ≤ u16 p 8 && zeros p 10 2 && allBelow 4 (fun n => auxOk e ((p.drop (12 + 8 * n)).take 8)) && auxFits c p

/-- A cross entry; `own` the local indices bound to the model. -/
def crossOk (b : List Byte) (own : List Nat) : Bool :=
  if u8 b 0 = 0 ∧ zeros b 4 8 then zeros b 0 12
  else
    u8 b 0 ≤ 0x23 && assignedIndex (u8 b 0) && !own.contains (u8 b 0) && flt (f32At b 4) (f32At b 8) && zeros b 1 3

/-- A model block of section 0x0A (10). -/
def modelOk (b : List Byte) (own : List Nat) : Bool :=
  let temp := bit (u8 b 2) 0
  let clean := bit (u8 b 2) 1
  let n := field (u8 b 3) 0 2
  let m := field (u8 b 3) 2 2
  u16 b 0 != 0 && u8 b 2 ≤ 3 && u8 b 3 / 16 == 0 && m ≤ 2 && (m == 0 || temp) &&
    (if temp then inR 0x20 0x23 (u8 b 4) || inR 0x28 0x2F (u8 b 4) else u8 b 4 == 0) &&
    (if clean then inR 0x40 0x7F (u8 b 5) else u8 b 5 == 0) && zeros b 6 2 && isFinite (f32At b 8) &&
    isFinite (f32At b 12) && f32At b 12 != 0 && isFinite (f32At b 16) && (temp || zeros b 16 4) &&
    allBelow 12 (fun x => let o := 20 + 4 * x
      if x / 3 ≤ n ∧ x % 3 ≤ m then isFinite (f32At b o) else zeros b o 4) &&
    posF (f32At b 68) && posF (f32At b 72) && posF (f32At b 76) && crossOk ((b.drop 80).take 12) own &&
    crossOk ((b.drop 92).take 12) own && flt (f32At b 104) (f32At b 108)

/-- Section 0x0A (R382). -/
def ok0A (p : List Byte) : Bool :=
  let m := u8 p 0
  let b := u8 p 1
  let idx (i : Nat) : Nat := u8 p (4 + 112 * m + 4 * i)
  let mdl (i : Nat) : Nat := u8 p (5 + 112 * m + 4 * i)
  let own (j : Nat) : List Nat := ((List.range b).filter fun i => mdl i == j).map idx
  m ≤ 16 && b ≤ 26 && p.length == 4 + 112 * m + 4 * b && zeros p 2 2 &&
    allBelow m (fun j => modelOk ((p.drop (4 + 112 * j)).take 112) (own j)) &&
    noRepeat ((List.range m).map fun j => u16 p (4 + 112 * j)) &&
    allBelow b (fun i => (idx i ≤ 0x15 || inR 0x20 0x23 (idx i)) && mdl i < m && zeros p (6 + 112 * m + 4 * i) 2) &&
    noRepeat ((List.range b).map idx)

/-- The working electrode of a local index is present in the accepted section 0x04. -/
def wePresentIn (c : Image) (w : Nat) : Bool :=
  let f := u8 (ecBlk c (w / 2)) 11
  bit f 0 && (w % 2 == 0 || bit f 1)

/-- A rule entry of section 0x0B (11, R417, R439). -/
def ruleOk (pod : Bool) (c : Image) (pins : Nat) (b : List Byte) : Bool :=
  let kind := u8 b 0
  let fl := u8 b 1
  let v := u16 b 2
  let levels := kind ≤ 4
  let outs := u8 b 14
  inR 1 7 kind && fl / 32 == 0 && (!bit fl 1 || kind == 1) && (!bit fl 2 || levels) && !(pod && kind == 7) &&
    (if kind = 7 then inR 1 250 (v / 256) && v % 256 == 0 else assignedIndex (v % 256) && nodeOk pod v) &&
    (kind != 5 || inR 0x40 0x7F (v % 256)) && (!bit fl 1 || (v ≤ 0x0F && wePresentIn c v)) &&
    (if levels then
      isFinite (f32At b 4) && isFinite (f32At b 8) &&
        (if bit fl 2 then flt (f32At b 4) (f32At b 8) else flt (f32At b 8) (f32At b 4))
     else zeros b 4 8) &&
    u8 b 12 != 0 && u8 b 13 != 0 && (!bit fl 1 || (u8 b 12 == 1 && u8 b 13 == 1)) &&
    (!bit outs 0 || bit pins 0) && (!bit outs 1 || bit pins 1) && (pod || !bit outs 5) && !bit outs 7 && zeros b 15 1 &&
    (match kind with
     | 6 => u16 b 16 != 0 && u16 b 16 < 0x8000
     | 7 => u16 b 16 ≤ 0x100
     | _ => u16 b 16 == 0) && zeros b 18 14

/-- Section 0x0B. -/
def ok0B (pod : Bool) (c : Image) (p : List Byte) : Bool :=
  let n := u16 p 0
  let pins := u8 p 2
  let ks := (List.range n).map fun k => (u8 p (16 + 32 * k), u8 p (17 + 32 * k))
  n ≤ 256 && p.length == 16 + 32 * n && pins / 16 == 0 && (!bit pins 2 || bit pins 0) && (!bit pins 3 || bit pins 1) &&
    inR 8 64 (u8 p 3) && u8 p 4 != 0 && zeros p 5 11 &&
    allBelow n (fun k => ruleOk pod c pins ((p.drop (16 + 32 * k)).take 32)) &&
    (ks.filter fun x => bit x.2 1).length ≤ 16 && (ks.filter fun x => inR 2 4 x.1).length ≤ 32

/-- Section 0x0C (R442). -/
def ok0C (pod : Bool) (p : List Byte) : Bool :=
  p.length == 32 && allBelow 2 fun n =>
    let b := (p.drop (16 * n)).take 16
    if !bit (u8 b 0) 0 then zeros b 0 16
    else
      u8 b 0 == 1 && zeros b 1 1 && assignedIndex (u16 b 2 % 256) && nodeOk pod (u16 b 2) && isFinite (f32At b 4) &&
        isFinite (f32At b 8) && toRatD (f32At b 4) != toRatD (f32At b 8) && u16 b 12 ≤ 10000 && zeros b 14 2

/-- An encoder entry of section 0x0D (13). -/
def encOk (b : List Byte) : Bool :=
  let v := u16 b 0
  let wOk (x : Nat) : Bool := inZ (-2047) 2047 (signed 16 x)
  v < 256 && (v ≤ 0x3F || inR 0x80 0x8F v) && assignedIndex v && inR 2 255 (u8 b 2) && u8 b 3 % 16 != 0 &&
    u8 b 3 / 16 ≤ 8 && isFinite (f32At b 4) && posF (f32At b 8) && u16 b 12 < 0x2000 && wOk (u16 b 14) && u16 b 16 < 0x2000 &&
    wOk (u16 b 18) && !(u16 b 14 == 0 && u16 b 18 == 0) && zeros b 20 4

/-- A class entry of section 0x0D. -/
def classOk (b : List Byte) : Bool :=
  u16 b 0 < 2048 && inR 1 64 (u8 b 2) && u8 b 3 ≤ 1 && posF (f32At b 4) && fle 0 (f32At b 8) && flt (f32At b 8) (f32At b 4) &&
    zeros b 12 4

/-- Section 0x0D. -/
def ok0D (c : Image) (p : List Byte) : Bool :=
  let ne := u8 p 4
  let nc := u8 p 5
  u32 p 0 != 0 && ne ≤ 64 && nc ≤ 64 && p.length == 16 + 24 * ne + 16 * nc && multOk c (u8 p 6) && zeros p 7 1 &&
    inR 1 1000 (u16 p 8) && zeros p 10 6 && allBelow ne (fun e => encOk ((p.drop (16 + 24 * e)).take 24)) &&
    allBelow nc fun k => classOk ((p.drop (16 + 24 * ne + 16 * k)).take 16)

/-- Section 0x0E (15); `ids` the section IDs of the copy. -/
def ok0E (ids : List Nat) (p : List Byte) : Bool :=
  let n := u8 p 1
  let fl := u8 p 0
  let sub (x : Nat) : Bool := inR 0x20 0x3F x && ids.contains x
  let kind (k : Nat) : Nat := u8 p (16 + 12 * k)
  let key (k : Nat) : Nat := le p (20 + 12 * k) 8
  n ≤ 250 && p.length == 16 + 12 * n && fl ≤ 7 && ((!bit fl 1 && !bit fl 2) || bit fl 0) &&
    (if bit fl 2 then sub (u8 p 2) else u8 p 2 == 0) && u8 p 3 != 0 && inR 2 16 (u8 p 4) && zeros p 5 11 &&
    allBelow n (fun k =>
      inR 1 2 (kind k) && inR 1 250 (u8 p (17 + 12 * k)) && sub (u8 p (18 + 12 * k)) && u8 p (19 + 12 * k) ≤ 2 &&
        (if kind k = 1 then key k != 0 else inR 1 250 (key k))) &&
    noRepeat ((List.range n).map fun k => u8 p (17 + 12 * k)) &&
    noRepeat ((List.range n).map fun k => 256 ^ 8 * kind k + key k)

/-- Section 0x0F (17). -/
def ok0F (p : List Byte) : Bool :=
  p.length == 16 && u8 p 0 ≤ 3 && u8 p 1 != 0 && zeros p 2 2 && zeros p 12 4 &&
    BitVec.ofNat 31 (u32 p 8) &&& ~~~(BitVec.ofNat 31 (u32 p 4)) == 0

/-- Section 0x10 (20). -/
def ok10 (p : List Byte) : Bool :=
  p.length == 16 && u8 p 0 ≤ 3 && inR 1 100 (u8 p 1) && zeros p 2 2 && u32 p 4 < 2 ^ 28 && !bit (u32 p 4) 0 && zeros p 8 8

/-- Section 0x11 (21). -/
def ok11 (p : List Byte) : Bool :=
  p.length == 52 && u8 p 0 ≤ 1 && zeros p 1 3 && (if bit (u8 p 0) 0 then !zeros p 4 16 else zeros p 4 48)

/-- Section 0x12 (19). -/
def ok12 (pod : Bool) (p : List Byte) : Bool :=
  p.length == 40 && u8 p 0 ≤ 1 && inR 1 220 (u8 p 1) && zeros p 2 6 && allBelow 8 fun i =>
    let v := u16 p (8 + 4 * i)
    let t := u16 p (10 + 4 * i)
    assignedIndex (v % 256) && nodeOk pod v && t ≤ 3600 && (t != 0 || v == 0)

/-- Section 0x13 (22). -/
def ok13 (p : List Byte) : Bool :=
  p.length == 12 && u8 p 0 ≤ 1 && inR 1 3 (u8 p 1) && zeros p 2 2 && inR 1 60000 (u32 p 8)

/-- A known section 0x01 - 0x13 stands (R92). `pod`: within a sub-image; `ids`: the IDs of the copy; `c`: the sections
accepted before it. -/
def sectionOk (pod : Bool) (ids : List Nat) (c : Image) (id : Nat) (p : List Byte) : Bool :=
  match id with
  | 0x01 => ok01 p
  | 0x02 => ok02 p
  | 0x03 => ok03 pod p
  | 0x04 => ok04 c p
  | 0x05 => ok05 c p
  | 0x06 => ok06 c p
  | 0x07 => ok07 pod p
  | 0x08 => ok08 p
  | 0x09 => ok09 c p
  | 0x0A => ok0A p
  | 0x0B => ok0B pod c p
  | 0x0C => ok0C pod p
  | 0x0D => ok0D c p
  | 0x0E => ok0E ids p
  | 0x0F => ok0F p
  | 0x10 => ok10 p
  | 0x11 => ok11 p
  | 0x12 => ok12 pod p
  | 0x13 => ok13 p
  | _ => false

/-! Containers. -/

/-- A section as it stands in a container. -/
structure RawSec where
  id : Nat
  flags : Nat
  fmt : Nat
  res : Nat
  payload : List Byte
  deriving DecidableEq, Repr

def RawSec.critical (r : RawSec) : Bool := bit r.flags 0
/-- Reserved header bits are 0 and the format is not 0x00 (R7, R92). -/
def RawSec.headerOk (r : RawSec) : Bool := r.flags ≤ 1 && r.res == 0 && r.fmt != 0

/-- The sections of a container, back to back in ascending ID up to the image CRC (R87); none: a structure error. -/
def walkSections : Nat → Option Nat → List Byte → Option (List RawSec)
  | 0, _, b => if b.isEmpty then some [] else none
  | n + 1, prev, b =>
    let len := u32 b 4
    let id := u8 b 0
    let above := match prev with
      | none => true
      | some x => decide (x < id)
    if b.length < 8 ∨ !above ∨ len % 4 ≠ 0 ∨ b.length < 8 + len then none
    else
      (walkSections n (some id) (b.drop (8 + len))).map fun r =>
        { id := id, flags := u8 b 1, fmt := u8 b 2, res := u8 b 3, payload := (b.drop 8).take len } :: r

/-- Container magics. -/
def magicConfig : List Byte := [0x59, 0x4E, 0x43, 0x46]
def magicMere : List Byte := [0x59, 0x4E, 0x4D, 0x52]
def magicPatch : List Byte := [0x59, 0x4E, 0x50, 0x54]

/-- Header fields (table Container header). -/
def hLength (h : List Byte) : Nat := u32 h 8
def hSeq (h : List Byte) : Nat := u32 h 12
def hTag (h : List Byte) : Bool := bit (u8 h 22) 0
def hKind (h : List Byte) : Nat := u32 h 24

/-- The header CRC checks (offset 28). -/
def headerCrcOk (h : List Byte) : Bool := crc32 (h.take 28) == f32At h 28

/-- The other fields of the header that refuse a copy with code 0x3; `cap`: the room for image and tag. -/
def headerFieldsOk (h : List Byte) (cap : Nat) (kindZero : Bool) : Bool :=
  u16 h 6 == 32 && hLength h % 4 == 0 && 36 ≤ hLength h && hLength h + (if hTag h then 32 else 0) ≤ cap &&
    hSeq h != 0xFFFFFFFF && u8 h 16 ≤ u8 h 17 && inR 1 64 (u16 h 20) && u8 h 22 ≤ 1 && u8 h 23 == 0 &&
    (!kindZero || hKind h == 0)

/-- The image CRC of R89. -/
def imageCrcOk (img : List Byte) : Bool :=
  let n := hLength img
  crc32 (img.take (n - 4)) == f32At img (n - 4)

/-- The sections of an image. -/
def sectionsOf (img : List Byte) : Option (List RawSec) :=
  walkSections (u16 img 20) none ((img.take (hLength img - 4)).drop 32)

/-- What the parse of a configuration container has found. -/
structure Parse where
  /-- Accepted sections, ascending. -/
  secs : List (Byte × List Byte) := []
  /-- Warning cases of R114. -/
  warns : List (BitVec 16) := []
  /-- Some known section was rejected (R95). -/
  rejected : Bool := false
  /-- Sub-images rejected (R113). -/
  bad : List Byte := []
  deriving DecidableEq, Repr

/-- What a parse gives: an image, or the outcome code it is refused with. -/
inductive Verdict (α : Type) where
  | accepted (a : α)
  | refused (code : Byte)
  deriving DecidableEq, Repr

/-- Section 0x06 of the copy as it is judged, for section 0x05, which comes before it and names its films. -/
def filmSec (all : List RawSec) (c : Image) : List (Byte × List Byte) :=
  match all.find? fun r => r.id == 6 with
  | some r => if r.fmt ≤ 1 && r.headerOk && ok06 c r.payload then [(6, r.payload)] else []
  | none => []

/-- One section of a configuration container (R92 - R94, R112, R113). `sub` judges a sub-image: its warnings, or none when it
is rejected. This ROM knows no vendor tag of section 0x7F (log 15). -/
def parseSection (pod : Bool) (all : List RawSec) (sub : List Byte → Option (List (BitVec 16))) (a : Parse) (r : RawSec) :
    Verdict Parse :=
  let isSub := 0x20 ≤ r.id && r.id ≤ 0x3F
  let known := isSub || (1 ≤ r.id && r.id ≤ 0x13)
  let foreign := pod && (isSub || r.id == 1 || r.id == 0x0E || r.id == 0x0F || r.id == 0x11)
  let skip (a : Parse) : Parse := { a with warns := a.warns ++ [2] }
  let id : Byte := BitVec.ofNat 8 r.id
  if !known || 1 < r.fmt then (if r.critical then .refused 0xA else .accepted (skip a))
  else if foreign then .refused 0xB
  else
    let c : Image := { secs := a.secs }
    let c : Image := if r.id = 5 then { secs := a.secs ++ filmSec all c } else c
    let good : Option (List (BitVec 16)) :=
      if !r.headerOk then none
      else if isSub then sub r.payload
      else if sectionOk pod (all.map (·.id)) c r.id r.payload then some [] else none
    match good with
    | some w => .accepted { a with secs := a.secs ++ [(id, r.payload)], warns := a.warns ++ w }
    | none =>
      if r.critical then .refused 0xB
      else .accepted { (skip a) with rejected := true, bad := if isSub then a.bad ++ [id] else a.bad }

/-- All sections in order; the first refusal stands. -/
def parseAll (pod : Bool) (all : List RawSec) (sub : List Byte → Option (List (BitVec 16))) : Parse → List RawSec → Verdict Parse
  | a, [] => .accepted a
  | a, r :: l =>
    match parseSection pod all sub a r with
    | .refused c => .refused c
    | .accepted a => parseAll pod all sub a l

/-- The sections of a configuration container, with R96 and R95. -/
def parseConfig (pod : Bool) (sub : List Byte → Option (List (BitVec 16))) (l : List RawSec) : Verdict Parse :=
  match parseAll pod l sub {} l with
  | .refused c => .refused c
  | .accepted a =>
    let c : Image := { secs := a.secs }
    if (imageSec c 2).isNone then .refused 0xB
    else if bit (u8 (isec c 0x10) 0) 0 && a.rejected then .refused 0xB
    else .accepted a

/-- A sub-image container, by the device's format minor (R111, R112); none: rejected. -/
def parseSub (romMinor : Byte) (p : List Byte) : Option Parse :=
  if 32768 < p.length ∨ p.take 4 ≠ magicConfig ∨ !headerCrcOk p ∨ u8 p 4 ≠ 1 ∨ hTag p ∨ !headerFieldsOk p 32768 true ∨
      hLength p ≠ p.length ∨ !imageCrcOk p then none
  else
    match sectionsOf p with
    | none => none
    | some l =>
      match parseConfig true (fun _ => none) l with
      | .refused _ => none
      | .accepted a => some (if romMinor.toNat < u8 p 5 then { a with warns := a.warns ++ [4] } else a)

/-- The sections of an accepted sub-image. -/
def subImage (p : List Byte) : Image :=
  match parseSub 0xFF p with
  | none => {}
  | some a => { secs := a.secs }

/-- The sub-image of that section ID in a configuration. -/
def subImageOf (c : Image) (sub : Byte) : Image := subImage (isec c sub.toNat)

/-! The network image (12, 13). -/

/-- Four-byte words of a payload. -/
def words : List Byte → List Nat
  | a :: b :: c :: d :: r => (a.toNat + 256 * b.toNat + 65536 * c.toNat + 16777216 * d.toNat) :: words r
  | _ => []

/-- A template record that some neuron uses (R480). -/
def templateOk (b : List Byte) : Bool :=
  let fl := u8 b 0
  let wake := bit fl 0
  let cp (k : Nat) : Bool := bit fl k
  let th := signed 32 (u32 b 16)
  let vr := signed 32 (u32 b 20)
  fl / 16 == 0 && (!wake || cp 1 || cp 2 || cp 3) && zeros b 1 1 && allBelow 4 (fun k => u16 b (2 + 2 * k) != 0) &&
    allBelow 3 (fun k => !cp (k + 1) || u16 b (4 + 2 * k) != u16 b 2) && (if wake then u16 b 12 != 0 else u16 b 12 == 0) &&
    inZ 1 8388607 th && inZ (-8388608) (th - 1) vr && allBelow 3 (fun k => cp (k + 1) || u16 b (24 + 2 * k) == 0) &&
    zeros b 30 2 && allBelow 3 (fun k => inZ (-8388608) 8388607 (signed 32 (u32 b (32 + 4 * k)))) &&
    (if wake then u32 b 44 ≤ 8388607 else u32 b 44 == 0)

/-- What a check of a network image needs of one tarn. -/
structure TarnImage where
  templates : List Byte
  neurons : List Nat
  dests : List Nat
  syn : List Byte
  list : Bool
  deriving DecidableEq, Repr

/-- Neuron `n` is ENABLED. -/
def TarnImage.on (t : TarnImage) (n : Nat) : Bool := bit (t.neurons.getD n 0) 8

/-- Kind, target tarn and start index of a destination entry. -/
def destKind (w : Nat) : Nat := field w 0 2
def destTarn (w : Nat) : Nat := field w 2 3
def destStart (w : Nat) : Nat := field w 5 14

/-- The eight destination entries of neuron `n`. -/
def TarnImage.entries (t : TarnImage) (n : Nat) : List Nat := (t.dests.drop (8 * n)).take 8

/-- Index of the first entry with LAST at or after the head of the list, counted from `i`. -/
def lastFrom : List Nat → Nat → Option Nat
  | [], _ => none
  | w :: r, i => if bit w 25 then some i else lastFrom r (i + 1)

/-- The runs of a list-mode tarn: first and last index of each. -/
def listRuns (t : TarnImage) : List (Nat × Nat) :=
  if !t.list then []
  else
    let lw := words t.syn
    (List.range 256).flatMap fun n =>
      ((t.entries n).filter fun w => destKind w == 2).map fun w => (destStart w, destStart w + (lastFrom (lw.drop (destStart w)) 0).getD 0)

/-- A word of a list-mode tarn is an entry of a run. -/
def inRun (runs : List (Nat × Nat)) (i : Nat) : Bool := runs.any fun r => r.1 ≤ i && i ≤ r.2

/-- The entries of one neuron stand (table Destination entry). -/
def destsOk (t : TarnImage) (lw : List Nat) (l : List Nat) : Bool :=
  let one (w : Nat) : Bool :=
    w < 2 ^ 19 &&
      match destKind w with
      | 0 => w == 0
      | 1 => !t.list && destStart w == 0
      | 2 => t.list && destTarn w == 0 && (lastFrom (lw.drop (destStart w)) 0).isSome
      | _ => false
  let rec order : List Nat → Bool
    | [] => true
    | w :: r => if destKind w = 0 then r.all (fun x => destKind x == 0) else order r
  l.all one && order l && noRepeat ((l.filter fun w => destKind w == 1).map destTarn)

/-- A tarn's records stand (R480 and the tables of 12); `tarn`: the other tarns' images. -/
def tarnOk (tarns : List (Nat × TarnImage)) (t : TarnImage) : Bool :=
  let lw := if t.list then words t.syn else []
  let isOn (k n : Nat) : Bool := match tarns.lookup k with
    | none => false
    | some x => x.on n
  let tmpl (j : Nat) : List Byte := (t.templates.drop (48 * j)).take 48
  let used (j : Nat) : Bool := (List.range 256).any fun n => t.on n && t.neurons.getD n 0 % 256 == j
  let row (i : Nat) : List Byte := (t.syn.drop (256 * i)).take 256
  let runs := listRuns t
  allBelow 16 (fun j => if used j then templateOk (tmpl j) else zeros (tmpl j) 0 48) &&
    allBelow 256 (fun n =>
      let w := t.neurons.getD n 0
      w < 512 && (if t.on n then w % 256 ≤ 15 && !zeros (tmpl (w % 256)) 0 48 && destsOk t lw (t.entries n)
        else w == 0 && (t.entries n).all (· == 0))) &&
    (if t.list then
      (List.zipIdx lw).all fun x =>
        let w := x.1
        w < 2 ^ 26 && (w % 4096 != 0 || field w 12 2 == 0) && (w % 4096 == 0 || isOn (field w 22 3) (field w 14 8)) &&
          (w == 0 || inRun runs x.2)
     else
      allBelow 256 fun i =>
        let ds := ((t.entries i).filter fun w => destKind w == 1).map destTarn
        (List.zipIdx (row i)).all fun x =>
          let b := x.1.toNat
          if ds.isEmpty then b == 0 else (b % 64 != 0 || b == 0) && (b % 64 == 0 || ds.all fun k => isOn k x.2))

/-- The tarn images of a network image with its enable and list masks. -/
def tarnImages (secs : List (Byte × List Byte)) (en lst : Nat) : List (Nat × TarnImage) :=
  ((List.range 8).filter fun t => bit en t).map fun t =>
    let g (base : Nat) : List Byte := (secs.lookup (BitVec.ofNat 8 (base + t))).getD []
    let n := g 0x20
    (t, { templates := g 0x10, neurons := words (n.take 1024), dests := words (n.drop 1024), syn := g 0x30, list := bit lst t })

/-- Tarns that destination and list entries name, whatever the weight of a list entry (R511). -/
def namedTarns (t : TarnImage) : List Nat :=
  let runs := listRuns t
  ((t.dests.filter fun w => destKind w == 1).map destTarn) ++
    (if t.list then ((List.zipIdx (words t.syn)).filter fun x => x.1 != 0 || inRun runs x.2).map fun x => field x.1 22 3 else [])

/-- Payload length of a network section, none for a reserved ID. -/
def netLength (id : Nat) : Option Nat :=
  if id = 1 then some 16
  else if 0x10 ≤ id ∧ id < 0x18 then some 768
  else if 0x20 ≤ id ∧ id < 0x28 then some 9216
  else if 0x30 ≤ id ∧ id < 0x38 then some 65536
  else none

/-- First refusal among the sections of a network image taken one by one: without CRITICAL 0xB (R510), unknown 0xA (R94), a
malformed one 0xB. -/
def netSections : List RawSec → Option Byte
  | [] => none
  | r :: l =>
    if !r.critical then some 0xB
    else
      match netLength r.id with
      | none => some 0xA
      | some n => if 1 < r.fmt then some 0xA else if !r.headerOk || r.payload.length != n then some 0xB else netSections l

/-- The sections of a network image (R510, R511, R480), in that order (log 16). -/
def parseNet (kind : Nat) (l : List RawSec) : Verdict (List (Byte × List Byte)) :=
  match netSections l with
  | some c => .refused c
  | none =>
    let secs := l.map fun r => (BitVec.ofNat 8 r.id, r.payload)
    match secs.lookup 0x01 with
    | none => .refused 0x3
    | some h =>
      let en := u8 h 0
      let lst := u8 h 1
      let has (id : Nat) : Bool := (secs.lookup (BitVec.ofNat 8 id)).isSome
      let ts := tarnImages secs en lst
      if kind = 0 || !(allBelow 8 fun t =>
          if bit en t then has (0x10 + t) && has (0x20 + t) && has (0x30 + t)
          else !has (0x10 + t) && !has (0x20 + t) && !has (0x30 + t)) ||
          !(ts.all fun t => (namedTarns t.2).all fun k => bit en k) then .refused 0x3
      else if en == 0 || lst &&& en != lst || !zeros h 2 2 || !zeros h 8 8 then .refused 0xB
      else if ts.all fun t => tarnOk ts t.2 then .accepted secs
      else .refused 0xB

end Sys2Proof.Machine
end

