-- ==== Sys2Proof/Machine/Ops.lean ====
section
/-! DEFINITION. Operations that several commands share: the tick, events, the log, Keystone, the pins, the end of sessions,
the entry to SAFE, the resets. -/

namespace Sys2Proof.Machine

/-! Frame lengths. -/

/-- The head's record of a node. -/
def nodeOf (s : State) (addr : Nat) : Option Node := s.course.nodes.find? fun n => n.addr.toNat == addr

/-- The sections a node runs on: this node's own, or those of the sub-image assigned to a pod. -/
def nodeSec (s : State) (node id : Nat) : List Byte :=
  if node = (ownNode s).toNat then sec s id
  else
    match s.config, nodeOf s node with
    | some c, some n => isec (subImageOf c n.sub) id
    | _, _ => []

/-- Frame length in microseconds of a local index under the sections `g` in a mode (R15, R190; class frames R497): the weight of a
record in a bucket (R401). -/
def indexUs (g : Nat → List Byte) (m : Mode) (i : Nat) : Nat :=
  let k := match m with
    | .run => u8 (g 2) 2
    | _ => u8 (g 2) 3
  let mult :=
    if i < 0x10 then u8 (g 4) (16 * (i / 2) + 8)
    else if i < 0x16 then u8 (g 6) (36 * (i - 0x10) + 2)
    else if 0x18 ≤ i ∧ i < 0x1E then u8 (g 6) (36 * (i - 0x18) + 2)
    else if 0x20 ≤ i ∧ i < 0x24 then u8 (g 9) 4
    else if 0x30 ≤ i ∧ i < 0x40 then u8 (g 4) (16 * (i % 8) + 8)
    else if 0x40 ≤ i ∧ i < 0x80 then u8 (g 0x0D) 6
    else 0
  frameUs (k + mult % 4)

/-- The mode a pod stood in at a Plumb time, by its reports; before the first of them, the one it last reported (R449, log 97). -/
def nodeModeAt (x : Node) (t : Nat) : Option Mode :=
  modeOf ((((x.modeLog.find? fun p => p.1 ≤ t).map (·.2)).getD x.mode).toNat)

/-- Frame length of a VCN whose frame ends at a Plumb time: of this node in the mode in force, of a pod in the mode it then stood in. -/
def vcnUsAt (s : State) (v : Vcn) (t : Nat) : Nat :=
  let n := vcnNode v
  let m := if n = (ownNode s).toNat then s.modes.mode else ((nodeOf s n).bind fun x => nodeModeAt x t).getD s.modes.mode
  indexUs (nodeSec s n) m (vcnIndex v)

/-- Frame length of a VCN now. -/
def vcnUs (s : State) (v : Vcn) : Nat := vcnUsAt s v (time56 (s.time.count, s.time.era))

/-- Sweep period in microseconds, of a mode and a WATCH sweep rate code (R609). -/
def sweepUs (m : Mode) (rate : Nat) : Nat :=
  match m with
  | .run => 62500
  | _ =>
    match rate with
    | 0 => 1000000
    | 1 => 500000
    | 2 => 250000
    | _ => 62500

/-- S of the head. -/
def headS (s : State) : Nat := sweepUs s.modes.mode (u8 (sec s 2) 4)

/-! The tick. -/

/-- Plumb's units in a microsecond and in a nanosecond: 2^-16 ppm of a microsecond each (R525). -/
def usUnits : Nat := 65536000000
def nsUnits : Nat := 65536000

/-- What a slew adds in one microsecond: at most 20 microseconds per second, until the rest lies within 1 microsecond (R534). -/
def slewRate (e : Option Int) : Int :=
  match e with
  | none => 0
  | some e => if (usUnits : Int) < e then 1310720 else if e < -(usUnits : Int) then -1310720 else 0

/-- The frequency correction in force, in 2^-16 ppm, within 200 ppm (R525, R533, R555). -/
def correction (t : Time) : Int := max (-13107200) (min 13107200 (t.learned + t.poly))

/-- Plumb counts on RTCCLK: with SYSCLK stopped, and in holdover where its reference is that crystal and not a TCXO (R525, R541, R562). -/
def onRtcclk (t : Time) : Bool := t.xtal && !t.xtalStopped && (!t.sysclk || (t.state == .holdover && !t.tcxo))

/-- What microsecond `n` of SYSCLK adds to Plumb beyond one: the correction, a slew in progress, and on RTCCLK that clock's own difference. -/
def plumbRate (n : Nat) (t : Time) : Int := correction t + slewRate t.slew + if onRtcclk t then Config.rtcError n else 0

/-- A microsecond of a counting Plumb that adds `r` beyond one (R523, R525): the count goes up by one, and by one more or none where the fraction
carries over. -/
def countOne (r : Int) (t : Time) : Time :=
  let f := (t.frac : Int) + r
  let c := t.count + 1 + BitVec.ofInt 48 (f / usUnits)
  { t with count := c, stride := (c - t.count).toNat, era := if c < t.count then t.era + 1 else t.era, frac := (f % usUnits).toNat
           slew := t.slew.map (· - slewRate t.slew) }

/-- RTCCLK runs: on the declared crystal, else on SYSCLK (R60). -/
def rtcRuns (s : State) : Bool := if s.time.xtal then !s.time.xtalStopped else s.supply.vdd && s.time.sysclk

/-- One microsecond of a Gate lockout, which counts down while RTCCLK runs (R785). -/
def lockOne (l : Option Nat) : Option Nat := l.map (· - 1)

/-- The polynomial x^n + x^k + 1 of a pattern code as (n, k) (table Patterns); (0, 0) for none. -/
def prbsTaps (pattern : Nat) : Nat × Nat :=
  match pattern with
  | 1 => (7, 6)
  | 2 => (15, 14)
  | 3 => (31, 28)
  | _ => (0, 0)

/-- One step of the generator x^n + x^k + 1: the bit sent is shifted into bit 0 of the register. -/
def prbsStep (t : Nat × Nat) (r : Nat) : Nat := (2 * r + (r / 2 ^ (t.1 - 1) + r / 2 ^ (t.2 - 1)) % 2) % 2 ^ t.1

/-- Twelve bits of the pattern (R797). -/
def prbsTwelve (t : Nat × Nat) (r : Nat) : Nat := (List.range 12).foldl (fun r _ => prbsStep t r) r

/-- The next `n` bits of the pattern, the first sent first. -/
def prbsBits (t : Nat × Nat) : Nat → Nat → List Bool
  | 0, _ => []
  | n + 1, r => (prbsStep t r % 2 == 1) :: prbsBits t n (prbsStep t r)

/-- A bit of a list is inverted. -/
def invertBit (l : List Bool) (i : Nat) : List Bool := l.modify i (!·)

/-- One microsecond of a generator that is on: twelve bits of its pattern are sent; while injections are pending, the 1024th of every 1024 bits is
sent inverted (R797, R802). -/
def portSends (p : Port) : Port :=
  let t := prbsTaps (p.control.toNat % 8)
  let q := { p with gen := prbsTwelve t p.gen, out := prbsBits t 12 p.gen }
  if p.inject = 0 then q
  else if 1024 ≤ p.genBits + 12 then
    { q with genBits := p.genBits + 12 - 1024, inject := p.inject - 1, out := invertBit q.out (1023 - p.genBits) }
  else { q with genBits := p.genBits + 12 }

/-- One microsecond of a checker that is on and locked: its register runs on, and twelve bits are compared (R798, R799). -/
def portCompares (p : Port) : Port :=
  { p with check := prbsTwelve (prbsTaps (p.control.toNat % 8)) p.check, bits := p.bits + 12 }

/-- One microsecond of a port: what its generator sends and its checker compares. A port without generator sends no pattern. -/
def portOne (p : Port) : Port :=
  let p := if p.control.getLsbD 4 && p.locked then portCompares p else p
  if p.control.getLsbD 3 then portSends p else { p with out := [] }

/-- One microsecond passes with no command waiting (log 1): the model's clock goes up by one, Plumb with it while it counts and a lockout while
RTCCLK runs, and the ports under test send and compare. -/
def tick (s : State) : State :=
  { s with clk := s.clk + 1, time := if s.time.counting then countOne (plumbRate s.clk s.time) s.time else { s.time with stride := 0 }
           gate := { s.gate with lockout := if rtcRuns s then lockOne s.gate.lockout else s.gate.lockout }
           course := { s.course with ports := s.course.ports.map portOne } }

/-- Plumb time now. -/
def plumbNow (s : State) : Count48 × Byte := (s.time.count, s.time.era)

/-- The next free value (log 8): the counter goes up, the value is Config's. -/
def drawFree (s : State) : BitVec 32 × State := (Config.freeWord s.freeCount, { s with freeCount := s.freeCount + 1 })

/-- The device is in a mode: from handover to the next reset (04). -/
def isRunning (s : State) : Bool := s.phase == .running

/-- The device is in SAFE. -/
def inSafe (s : State) : Bool := isRunning s && s.modes.mode == .safe

/-- The device is in RUN or WATCH. -/
def isActive (s : State) : Bool := isRunning s && s.modes.mode != .safe

/-! Events (17). -/

/-- Pending bit and count of an event (R680). -/
def markEvent (e : Events) (ev : Fin 32) : Events :=
  { e with pending := e.pending ||| BitVec.ofNat 32 (2 ^ ev.val), counts := vmod e.counts ev sat16 }

/-- An event is to be queued: appended, or dropped and counted with EV31 at the first loss (R682). -/
def queueEvent (e : Events) (q : QueuedEvent) : Events :=
  if e.queue.length < 256 then { e with queue := e.queue ++ [q] }
  else
    let e := { e with lost := sat16 e.lost }
    if e.overflow then e else markEvent { e with overflow := true, overflowAt := (q.time, q.era) } 31

/-- The raising of an event (R680). -/
def raise (s : State) (ev : Fin 32) (arg : Nat) : State :=
  let e := markEvent s.events ev
  let q : QueuedEvent := { ev := ev, boot := false, arg := BitVec.ofNat 16 arg, time := s.time.count, era := s.time.era }
  { s with events := if ev ≠ 31 ∧ e.queueMask.getLsbD ev.val then queueEvent e q else e }

/-- Everything that stands in the queue at handover carries BOOT (R115, R690). -/
def markBoot (s : State) : State := { s with events := { s.events with queue := s.events.queue.map fun q => { q with boot := true } } }

/-- HIRQn is asserted (R684), unless held deasserted after an EVENTS frame (R685); high-impedance outside a mode (R50). -/
def hirqAsserted (s : State) : Bool :=
  isRunning s && !s.events.irqHold &&
    (s.events.queue.any (fun q => s.events.irqMask.getLsbD q.ev.val) ||
      (s.events.overflow && s.events.irqMask.getLsbD 31))

/-! The log (19). -/

/-- Unacknowledged entries of the alarm region. -/
def unacked (l : CisternLog) : Nat := (l.alarm.filter fun e => !e.flags.getLsbD 1).length

/-- The body of a kind that is no record kind: Plumb count, code, argument, data (table Log entry). -/
def bodyOf (t : Count48) (code arg : Nat) (data : List Byte) : List Byte :=
  toLE 6 t.toNat ++ toLE 2 code ++ toLE 2 arg ++ (data ++ List.replicate (14 - data.length) 0)

/-- Put an entry into a full general ring under WRAP: the oldest goes (R724). -/
def ringWrap (l : CisternLog) (e : LogEntry) : CisternLog × Bool :=
  let l' := { l with general := l.general.drop 1 ++ [{ e with seq := l.generalSeq }], generalSeq := l.generalSeq + 1,
                     generalLost := sat32 l.generalLost }
  match l.overwrites with
  | none => ({ l' with overwrites := some 0 }, true)
  | some n => if n + 1 = 15360 then ({ l' with overwrites := some 0 }, true) else ({ l' with overwrites := some (n + 1) }, false)

/-- Append an entry that fits. -/
def ringAppend (l : CisternLog) (e : LogEntry) : CisternLog :=
  { l with general := l.general ++ [{ e with seq := l.generalSeq }], generalSeq := l.generalSeq + 1 }

/-- Put an entry that is no summary into the general ring; true: EV27 with argument 0 is to be raised (R724, R725). A ring that has stopped stays so
until it is cleared, whatever the configuration. -/
def ringPut (stop : Bool) (l : CisternLog) (e : LogEntry) : CisternLog × Bool :=
  if stop || l.stopped then
    if l.general.length < 15359 ∧ !l.stopped then ({ (ringAppend l e) with budget := l.budget + 1 }, false)
    else ({ l with generalLost := sat32 l.generalLost, stopped := true }, !l.stopped)
  else if l.general.length < 15360 then ({ (ringAppend l e) with budget := l.budget + 1 }, false)
  else
    let (l', ev) := ringWrap l e
    ({ l' with budget := l.budget + 1 }, ev)

/-- Put a summary: under STOP the last slot holds only the most recent one (R725); never counted in the budget (R722). -/
def ringPutSummary (stop : Bool) (l : CisternLog) (e : LogEntry) : CisternLog × Bool :=
  if l.general.length < 15360 then (ringAppend l e, false)
  else if stop || l.stopped then (ringAppend { l with general := l.general.dropLast } e, false)
  else ringWrap l e

/-- The summary entry of this moment (R729). -/
def summaryEntry (s : State) : LogEntry :=
  let l := s.log
  let satBits := (if l.generalLost = 0xFFFFFFFF then 1 else 0) + (if l.rateLost = 0xFFFFFFFF then 2 else 0) +
    (if l.alarmLost = 0xFFFF then 4 else 0) + (if l.corrected = 0xFFFF then 8 else 0) + (if l.uncorrectable = 0xFF then 16 else 0)
  { seq := 0, kind := 0x0F, flags := 0, era := s.time.era, node := ownNode s,
    body := bodyOf s.time.count (unacked l) (if l.stopped then 1 else 0)
      (toLE 4 l.generalLost.toNat ++ toLE 4 l.rateLost.toNat ++ toLE 2 l.alarmLost.toNat ++ toLE 2 l.corrected.toNat ++
        [l.uncorrectable, BitVec.ofNat 8 satBits]) }

/-- Write a summary; where its writing is itself an overwrite that raises EV27, a further summary follows (`fuel` times). -/
def logSummary : Nat → State → State
  | 0, s => s
  | fuel + 1, s =>
    let (l, ev) := ringPutSummary (cfgLogStop s) s.log (summaryEntry s)
    let s := { s with log := l }
    if ev then logSummary fuel (raise s 27 0) else s

/-- The raising of EV27, with its summary (R729). -/
def raiseLogFull (s : State) (arg : Nat) : State := logSummary 2 (raise s 27 arg)

/-- An entry for the general ring under the rate cap (R722). -/
def logRing (s : State) (e : LogEntry) : State :=
  if cfgLogCap s ≤ s.log.budget then { s with log := { s.log with rateLost := sat32 s.log.rateLost } }
  else
    let (l, ev) := ringPut (cfgLogStop s) s.log e
    let s := { s with log := l }
    if ev then raiseLogFull s 0 else s

/-- A general entry that is no record kind. -/
def logGeneral (s : State) (kind : Byte) (node : Byte) (code arg : Nat) (data : List Byte) : State :=
  logRing s { seq := 0, kind := kind, flags := 0, era := s.time.era, node := node, body := bodyOf s.time.count code arg data }

/-- A general entry of a record kind: its time is the record's (R720); the era is the present one, or the one before when
the record's count lies ahead of Plumb's. -/
def logRecord (s : State) (kind : Byte) (r : Record) : State :=
  logRing s { seq := 0, kind := kind, flags := 0, era := if s.time.count < r.time then s.time.era - 1 else s.time.era,
              node := BitVec.ofNat 8 (vcnNode r.vcn), body := recordBytes r }

/-- Remove the first acknowledged entry. -/
def dropAcked : List LogEntry → List LogEntry
  | [] => []
  | e :: l => if e.flags.getLsbD 1 then l else e :: dropAcked l

/-- An entry of kind 0x01 or 0x02 (R726, R727). -/
def logAlarm (s : State) (kind : Byte) (node : Byte) (code arg : Nat) (data : List Byte) : State :=
  let l := s.log
  let e : LogEntry := { seq := l.alarmSeq, kind := kind, flags := 0, era := s.time.era, node := node,
                        body := bodyOf s.time.count code arg data }
  if unacked l < 1024 then
    let kept := if l.alarm.length < 1024 then l.alarm else dropAcked l.alarm
    { s with log := { l with alarm := kept ++ [e], alarmSeq := l.alarmSeq + 1 } }
  else
    let first := !l.alarmEpisode
    let s := { s with log := { l with alarmLost := sat16 l.alarmLost, alarmEpisode := true } }
    let s := logRing s { e with flags := 1 }
    if first then raiseLogFull s 1 else s

/-! Result store. -/

/-- The entry of a known VCN. -/
def entryOf (s : State) (v : Vcn) : Option VcnEntry := s.results.lookup v

/-- The entry of a known VCN is changed; nothing happens for a VCN that is not known (R719). -/
def modEntry (s : State) (v : Vcn) (f : VcnEntry → VcnEntry) : State :=
  { s with results := s.results.map fun p => if p.1 = v then (p.1, f p.2) else p }

/-- Put a VCN into the ascending store with an empty entry, when a free one is left (R718, R719). -/
def insertVcn (l : List (Vcn × VcnEntry)) (v : Vcn) : List (Vcn × VcnEntry) :=
  match l with
  | [] => [(v, {})]
  | (w, e) :: r => if v < w then (v, {}) :: (w, e) :: r else if v = w then (w, e) :: r else (w, e) :: insertVcn r v

/-- The next frame sequence (R670). -/
def nextSeq (q : BitVec 32) : BitVec 32 := if q = 0xFFFFFFFF then 1 else q + 1

/-! Course frames on their way out (15, 16). -/

/-- Place in the sending order: class, then repeated before originated (R613). -/
def sendRank (f : CourseFrame) : Nat := 2 * (f.classVer.toNat % 4) + (if f.repeated then 0 else 1)

/-- Insert behind every frame of the same or an earlier rank. -/
def insertFrame (q : List CourseFrame) (f : CourseFrame) : List CourseFrame :=
  match q with
  | [] => [f]
  | g :: r => if sendRank g ≤ sendRank f then g :: insertFrame r f else f :: g :: r

/-- The port has its generator or checker on (R800). -/
def underTest (p : Port) : Bool := p.control.getLsbD 3 || p.control.getLsbD 4

/-- Queue a frame on a port. A port that is not enabled sends nothing; one under test sends no frame of its own (R800), but its ALARM waits
(R811). -/
def sendOn (s : State) (p : Fin 2) (f : CourseFrame) : State :=
  let port := s.course.ports[p]
  if port.enabled && (f.repeated || f.type == 0x14 || !underTest port) then
    { s with course := { s.course with ports := vmod s.course.ports p fun q => { q with txq := insertFrame q.txq f } } }
  else s

/-- Own sequence number of a class and the counter after it (R575). -/
def takeSeq (s : State) (cls : Nat) : Byte × State :=
  let i : Fin 3 := ⟨cls % 3, Nat.mod_lt _ (by decide)⟩
  (s.course.seqs[i], { s with course := { s.course with seqs := vmod s.course.seqs i (· + 1) } })

/-- The address a node puts into its own frames: 0 the head, 255 a pod without an address. -/
def ownAddr (s : State) : Byte :=
  match s.role with
  | .head => 0
  | .pod => if s.course.pod.addr = 0 then 255 else s.course.pod.addr

/-- A frame this node originates: type, class, destination, credit, payload. DISCOVER, IDENTITY and ASSIGN carry
version 1 (R574), every other type the chain version in use. -/
def newFrame (s : State) (type dst : Byte) (cls : Nat) (credit seq : Byte) (payload : List Byte) : CourseFrame :=
  let v : Nat := if type = 1 ∨ type = 2 ∨ type = 3 then 1 else s.course.version.toNat
  { dst := dst, src := ownAddr s, type := type, seq := seq, classVer := BitVec.ofNat 8 (cls + 16 * v), credit := credit,
    hop := 0, payload := payload, stomped := false, repeated := false }

/-- Originate one frame on every port of `ports`, the same sequence on each (R575). -/
def originate (s : State) (ports : List (Fin 2)) (type dst : Byte) (cls : Nat) (credit : Byte) (payload : List Byte) : State :=
  let (q, s) := takeSeq s cls
  let f := newFrame s type dst cls credit q payload
  ports.foldl (fun s p => sendOn s p f) s

/-- The used ports. -/
def usedPorts (s : State) : List (Fin 2) := [0, 1].filter (portUsed s)

/-! Spillway outputs (11). -/

/-- The state counts as alarmed for outputs (R420). -/
def countsAlarmed : RuleState → Bool
  | .alarmed | .latched | .acked | .invalid | .stanceAlarmed => true
  | .clear | .stanceClear => false

/-- Some rule mapped to output `n` counts as alarmed. -/
def anyAlarm (s : State) (n : Nat) : Bool :=
  (List.finRange 256).any fun k => k.val < ruleCount s && ruleOut s k n && countsAlarmed s.spill.rules[k].state

/-- Write ALARMA (0) or ALARMB (1) through its AO latch: asserted is low without INV, released with it (R421). -/
def writePin (s : State) (pin : Fin 2) (low : Bool) : State :=
  { s with spill := if pin = 0 then { s.spill with aLow := low } else { s.spill with bLow := low } }

/-- The pin follows the rules in RUN and WATCH (R421), its stance in SAFE (R125, R427); an unused pin is released (R58). -/
def refreshPin (s : State) (pin : Fin 2) : State :=
  if !isRunning s then s
  else if !pinUsed s pin then (if s.config.isSome then writePin s pin false else s)
  else if s.modes.mode = .safe then
    match cfgStance s pin with
    | 1 => writePin s pin (!pinInv s pin)
    | 2 => writePin s pin (pinInv s pin)
    | _ => s
  else writePin s pin (anyAlarm s pin.val != pinInv s pin)

/-- Codes of the low and high fault bands (R434). -/
def lowBand : BitVec 16 := 1966
def highBand : BitVec 16 := 63570

/-- The code of the normal band for a value (R432, R433), ties to even (log 12). -/
def normalCode (lo hi v : Rat) : BitVec 16 :=
  let f := 1 / 10 + 8 / 10 * ((v - lo) / (hi - lo))
  let f := if f < 1 / 10 then 1 / 10 else if 9 / 10 < f then 9 / 10 else f
  BitVec.ofNat 16 (ratRNE (f * 65536)).toNat

/-- The first update of a ratio output after a reset ends its hold in the low band (R438). -/
def endHold (s : State) (n : Fin 2) : State :=
  { s with spill := { s.spill with aout := vmod s.spill.aout n fun o => { o with holdLow := false } } }

/-- No source record for 3 frames of the source VCN: frames that ended without one, or the time of three since the last record came; a pod's
record comes with a sweep (log 98). -/
def sourceSilent (s : State) (n : Fin 2) : Bool :=
  let o := s.spill.aout[n]
  let v := aoutVcn s n
  3 ≤ o.missing || o.recordClk + 3 * vcnUs s v + (if vcnNode v = (ownNode s).toNat then 0 else headS s) ≤ s.clk

/-- What a ratio output is to drive: none the normal band with its code, following the table from the top. -/
def aoutTarget (s : State) (n : Fin 2) : BitVec 16 :=
  let o := s.spill.aout[n]
  if !s.supply.vratio || !isRunning s || s.modes.mode == .safe || o.fault || o.holdLow then lowBand
  else if anyAlarm s (3 + n.val) then highBand
  else
    match (entryOf s (aoutVcn s n)).bind (·.record) with
    | none => lowBand
    | some r =>
      if !isValid r.status || sourceSilent s n then lowBand
      else normalCode (toRatD (aoutLo s n)) (toRatD (aoutHi s n)) (toRatD r.value)

/-- The code lies in a fault band. -/
def inBand (c : BitVec 16) : Bool := c == lowBand || c == highBand

/-- Bring an output to its table row (R435): moves within the normal band are slewed (R436), all others are steps. -/
def refreshAout (s : State) (n : Fin 2) : State :=
  if !s.spill.aout[n].driven then s
  else
    let c := aoutTarget s n
    let set (o : Aout) : Aout :=
      if inBand c || inBand o.code || aoutSlew s n = 0 then { o with code := c, goal := c, part := 0 } else { o with goal := c }
    { s with spill := { s.spill with aout := vmod s.spill.aout n set } }

/-- A condition of the ratio output table has changed in a mode: an update (R435, R438). -/
def aoutsChanged (s : State) : State := refreshAout (refreshAout (endHold (endHold s 0) 1) 0) 1

/-- Pins and ratio outputs after a change of rules or conditions. -/
def refreshOutputs (s : State) : State := refreshAout (refreshAout (refreshPin (refreshPin s 0) 1) 0) 1

/-! Rail and heaters going off (07, 08). -/

/-- The rate-of-rise limit stops to apply (R334, R335): a trip ends and its hold lapses at once. -/
def rorLapse (s : State) : State :=
  { s with thermal := { s.thermal with rorCount := 0, trip := false, hold := false, okClk := none } }

/-- Rates are computed anew, once 248 ms of means exist (R335). -/
def ratesAnew (s : State) : State := { s with thermal := { s.thermal with hist := [], rate := (0, 0), rorCount := 0 } }

/-- The rate-of-rise limit at the entry to a mode (R334, R335). -/
def rorEnter (s : State) (m : Mode) : State := if m = .run then ratesAnew s else rorLapse (ratesAnew s)

/-- Rail and chain-power switches off; the ladder record and the shed list stay (R306, R318). DROPOUT clears with the rail: R311 sets it, and
the spec names no end of it (log 106). -/
def railOff (s : State) : State :=
  let r := { s.rail with state := .off, onHrail := false, overvoltage := false, dropout := false, analog := false
                         measuring := none, chainFrom := none, kept := false, fitsClk := none
                         sw := s.rail.sw.map fun w => { w with state := .off } }
  { rorLapse s with rail := r }

/-- A heater driver off and its profile stopped; a latched fault stays, and an override that no resume has ended. -/
def moxStop (m : Mox) : Mox :=
  { m with override := if m.restart then .none else m.override, started := false, restart := false, step := 0, held := false, loopWait := false, target := none, ticks := 0,
           fresh := false, prevTarget := none, commanded := false, ignored := false, period := 0,
           rampFrom := none, integ := 0, duty := 0, vOn := none, pulseAcc := 0, inReg := false, capped := false,
           frameGood := true, frameSample := false, sumR := 0, nR := 0, sumDuty := 0, sumT := 0, nT := 0 }

/-- The rail is on or starting. -/
def railOn (s : State) : Bool := s.rail.state != .off

/-! Calibration ends (10). -/

/-- A run, with the Render write that is part of it (R381), ends rejected with an outcome: Render stays, a pending zero goes, EV07 is
raised (R378). -/
def calReject (s : State) (outcome : Byte) : State :=
  match s.cal.run with
  | none => s
  | some r =>
    let s := { s with cal := { s.cal with run := none, pending := none, outcome := outcome, stage := .idle, image := [], waiting := false } }
    raise s 7 r.vcn.toNat

/-! Gate sessions end (21, 22). -/

/-- A DIAG or TEST session is open, or CAL or TEST (R771). -/
def hasCal (s : State) : Bool := s.gate.sessions[0].isSome || s.gate.sessions[2].isSome
def hasDiag (s : State) : Bool := s.gate.sessions[1].isSome || s.gate.sessions[2].isSome
def hasTest (s : State) : Bool := s.gate.sessions[2].isSome

/-- Session bits open. -/
def sessionBits (s : State) : Nat :=
  (if s.gate.sessions[0].isSome then 1 else 0) + (if s.gate.sessions[1].isSome then 2 else 0) +
    (if s.gate.sessions[2].isSome then 4 else 0)

/-- EV28 with its byte, kept on the Gate page (R792). -/
def raiseGate (s : State) (kind bits : Nat) : State :=
  let a := kind + 16 * bits
  raise { s with gate := { s.gate with lastEvent := BitVec.ofNat 8 a } } 28 a

/-- The end of a link under remote test returns its control to 0 (R812). -/
def freeRemotePort (s : State) (t : RemoteTest) : State :=
  match t.port with
  | none => s
  | some p => { s with course := { s.course with ports := vmod s.course.ports p fun q => { q with control := 0, inject := 0 } } }

/-- The ring that ran as broken for a test on one of its links is closed again from the next sweep (R809). -/
def closeRingAgain (s : State) (t : RemoteTest) : State :=
  { s with course := { s.course with ringAgain := s.course.ringAgain || t.wasRing } }

/-- The head aborts the remote test, if any: LT_ABORT to all, EV29 with ABORTED (R812). -/
def abortRemote (s : State) : State :=
  match s.role, s.course.remote with
  | .head, some t =>
    let s := { s with course := { s.course with remote := none } }
    let s := closeRingAgain (if t.running then freeRemotePort s t else s) t
    let s := originate s (usedPorts s) 0x2A 255 2 0 [t.node, 0, 0, 0]
    raise s 29 (4 + 16 + 256 * t.node.toNat)
  | _, _ => s

/-- Every link test control and pending injection of the node goes to 0 (R712, R805). -/
def stopLinkTests (s : State) : State :=
  { s with course := { s.course with ports := s.course.ports.map fun p => { p with control := 0, inject := 0, timed := false } } }

/-- The open sessions among `bits` end. With CAL the pending zero goes (R380); with DIAG link tests stop and a remote test
is aborted (R712, R812). `kind`: the EV28 kind, none at a reset (R792). -/
def endSessions (s : State) (bits : Nat) (kind : Option Nat) : State :=
  let b := sessionBits s &&& bits
  if b = 0 then s
  else
    let keep (i : Nat) (o : Option Nat) : Option Nat := if b.testBit i then none else o
    let g := s.gate.sessions
    let s := { s with gate := { s.gate with sessions := #v[keep 0 g[0], keep 1 g[1], keep 2 g[2]] } }
    let s := if b.testBit 0 then { s with cal := { s.cal with pending := none } } else s
    let s := if b.testBit 1 then abortRemote (stopLinkTests s) else s
    match kind with
    | none => s
    | some k => raiseGate s k b

/-- Sessions without a COMMAND or WRITE for 15 min end (R787, R793). -/
def expireSessions (s : State) : State :=
  let old (i : Fin 3) : Nat :=
    match s.gate.sessions[i] with
    | none => 0
    | some t => if t + 900000000 ≤ s.clk then 2 ^ i.val else 0
  endSessions s (old 0 + old 1 + old 2) (some 3)

/-! Mode changes (04). -/

/-- A completed transition (R129, R135): the record, the mode page, EV04 and the log. -/
def completeMode (s : State) (new : Mode) (cause : Nat) : State :=
  let s := rorEnter s new
  let s := { s with modes := { s.modes with mode := new, oldMode := modeCode s.modes.mode, newMode := new,
                                            lastCause := BitVec.ofNat 8 cause, lastTime := plumbNow s, record := some new } }
  let s := raise s 4 ((modeCode new).toNat + 256 * cause)
  logGeneral s 0x07 (ownNode s) (modeCode new).toNat cause []

/-- Cause bits of the rail and thermal causes (R126). -/
def railOrThermal (causes : BitVec 16) : Bool := causes.getLsbD 5 || causes.getLsbD 6

/-- A frame of a channel has ended without a record for a VCN of it (R671). -/
def skipEntry (e : VcnEntry) : VcnEntry := { e with skipped := e.skipped + 1 }

/-- The channel of a local index converts. -/
def channelOn (s : State) (i : Nat) : Bool :=
  let on (w : Nat) : Bool := match s.weirs[w]? with
    | some x => x.on
    | none => false
  if i < 16 then on i
  else if i < 0x16 then on i
  else if 0x18 ≤ i ∧ i ≤ 0x1D then on (i - 8)
  else if 0x20 ≤ i ∧ i ≤ 0x23 then on 22
  else if 0x30 ≤ i ∧ i ≤ 0x3F then on (2 * (i % 8))
  else s.sysOn && ((0x28 ≤ i && i ≤ 0x2F) || (0x80 ≤ i && i ≤ 0x8F))

/-- Every frame in progress on the node ends without a record (R130, R539, R671). -/
def endFrames (s : State) : State :=
  let f (p : Vcn × VcnEntry) : Vcn × VcnEntry :=
    if vcnNode p.1 == (ownNode s).toNat && channelOn s (vcnIndex p.1) then (p.1, skipEntry p.2) else p
  { s with results := s.results.map f }

/-- The tones that SAFE or a warm reset cuts off: from now on each fades out over 1 ms (R213). -/
def fadeTones (s : State) : Vector Tone 8 :=
  Vector.ofFn fun n : Fin 8 =>
    let t := s.tones[n]
    let b := ((sec s 5).drop (24 * n.val)).take 24
    if t.active then
      { t with fade := some { amp := u8 b 1, code := if u8 b 0 = 2 then u16 (sec s 5) (192 + 2 * t.point) else u16 b 4
                              window := t.start, start := s.clk } }
    else t

/-- Every conversion stops and frames in progress are discarded (R121, R130, R202, R213). -/
def stopConversions (s : State) : State :=
  let s := endFrames s
  { s with
    weirs := s.weirs.map fun w => { w with on := false, residue := none, carry := 0, dropFrame := false, frameClk := none }
    ec := s.ec.map fun c => { c with complianceTail := false }
    tones := (fadeTones s).map fun t =>
      { t with active := false, sweeping := false, late := false, point := 0, frames := 0, s := 0, c := 0, overSeen := false, open_ := false }
    burns := s.burns.map fun b => { b with active := false }
    aux := { s.aux with connected := none, exs := none, conv := Vector.replicate 4 none, visits := 0 }
    sysOn := false, sysDrop := false, sysClk := none
    ks := { s.ks with visiting := false, visitBad := false, compared := false } }

/-- The class VCNs of this node that have a frame in progress get none of it as a record (R671). -/
def skipClasses (s : State) : State :=
  let f (p : Vcn × VcnEntry) : Vcn × VcnEntry :=
    if vcnNode p.1 == (ownNode s).toNat && 0x40 ≤ vcnIndex p.1 && vcnIndex p.1 ≤ 0x7F && p.2.frameSeq != 0 then (p.1, skipEntry p.2) else p
  { s with results := s.results.map f }

/-- The MERE domain is gated: slots are emptied (R496) and the class frame in progress is discarded (R516). -/
def gateMere (s : State) : State :=
  match s.mere.power with
  | .running =>
    let s := skipClasses s
    { s with mere := { s.mere with power := .gated,
                                   encoders := s.mere.encoders.map fun e => { e with up := none, down := none } } }
  | _ => s

/-- The VCNs that SAFE's housekeeping frames go on writing: this node's temperatures and supplies (R124). -/
def housekept (s : State) (v : Vcn) : Bool :=
  vcnNode v == (ownNode s).toNat && ((0x28 ≤ vcnIndex v && vcnIndex v ≤ 0x2F) || (0x80 ≤ vcnIndex v && vcnIndex v ≤ 0x8F))

/-- Entry to SAFE in the result store: the last record of every VCN but those of R124 carries STALE (R123). -/
def staleRecords (s : State) : State :=
  let stale (p : Vcn × VcnEntry) : Vcn × VcnEntry :=
    if housekept s p.1 then p else (p.1, { p.2 with record := p.2.record.map fun r => { r with status := setFlag r.status 4 } })
  { s with results := s.results.map stale }

/-- An action of a slot is skipped: counted, with EV19 (R133, R136, R549). -/
def skipSlot (s : State) (slot : Fin 128) : State :=
  raise { s with sluice := vmod s.sluice slot fun x => { x with skipped := sat16 x.skipped } } 19 slot.val

/-- The pending mode requests are dropped; a Sluice request lost this way is skipped with EV19 (R133, R161). -/
def dropRequests (s : State) : State :=
  let s := match s.modes.sluiceReq with
    | some (_, slot) => skipSlot s slot
    | none => s
  { s with modes := { s.modes with hostReq := none, sluiceReq := none } }

/-- Add a SAFE cause. -/
def addCause (s : State) (cause : Nat) : State :=
  { s with modes := { s.modes with causes := s.modes.causes ||| BitVec.ofNat 16 (2 ^ cause)
                                   goneClk := if cause = 6 ∨ cause = 7 then none else s.modes.goneClk } }

/-- Causes 0x06 and 0x07 that are still present: 0x06 until the ladder reports two working phases again (R138). -/
def heldCauses (m : Modes) : BitVec 16 := m.causes &&& (if m.railCauseGone then 0x0080 else 0x00C0)

/-- One of the two has been reported as no longer present: the SAFE hold time runs once neither is (R138). -/
def noteGone (s : State) : State := if heldCauses s.modes = 0 then { s with modes := { s.modes with goneClk := some s.clk } } else s

/-- The log entry of a shed or restore (R298). -/
def logShed (s : State) (u : Shed) (restore : Bool) (shunt : Nat) : State :=
  let unit : Nat := match u with
    | .chain => 1
    | .heater n => 0x10 + n.val
  logGeneral s 0x08 (ownNode s) (unit + if restore then 256 else 0) 0 (toLE 2 shunt)

/-- The chain-power switches at the limits of section 0x07 (R289); a switch that it does not enable is open. -/
def chainLimits (s : State) : State :=
  let f (w : Fin 2) (c : ChainSwitch) : ChainSwitch :=
    if chainEnabled s w then { c with limit := if s.rail.shed.contains .chain then cfgChainFloor s else cfgChainLimit s w } else { c with state := .off }
  { s with rail := { s.rail with sw := #v[f 0 s.rail.sw[0], f 1 s.rail.sw[1]], chainShed := s.rail.shed.contains .chain && s.role == .head } }

/-- SAFE keeps a rail that is on: under CHAINKEEP, with a switch enabled, while no cause is a rail or thermal one (R126). -/
def keepsChain (s : State) : Bool :=
  cfgChainKeep s && !railOrThermal s.modes.causes && (chainEnabled s 0 || chainEnabled s 1) && (s.rail.state != .off || s.rail.kept)

/-- The rail in SAFE (R126): off, or kept for the chain-power switches alone, at their limits of section 0x07; a chain unit that was shed is
restored for it (log 107). -/
def safeRail (s : State) : State :=
  if !keepsChain s then railOff s
  else
    let s := if s.rail.shed.contains .chain then
        logShed { s with rail := { s.rail with shed := s.rail.shed.erase .chain, chainFrom := none } } .chain true s.rail.lastShunt
      else s
    chainLimits { s with rail := { s.rail with kept := true, fitsClk := none } }

/-- Every heater driver off and its profile stopped. -/
def stopHeaters (s : State) : State := { s with mox := s.mox.map moxStop }

/-- A run in progress is rejected and the pending zero dropped (R378, R380). -/
def dropRun (s : State) : State :=
  let s := if s.cal.run.isSome then calReject s stNotInMode else s
  { s with cal := { s.cal with pending := none } }

/-- What the entry to SAFE stops before the transition counts as completed (R121, R123, R130, R133). -/
def stopForSafe (s : State) : State := gateMere (staleRecords (stopHeaters (stopConversions (dropRequests s))))

/-- Entry to SAFE (R130) for a cause; in SAFE already, only the cause is added (R134). `cause` 0: none is added. -/
def enterSafe (s : State) (cause : Nat) : State :=
  if !isRunning s then s
  else
    let s := if cause = 0 then s else addCause s cause
    if s.modes.mode = .safe then safeRail s
    else refreshOutputs (endSessions (dropRun (safeRail (completeMode (stopForSafe s) .safe cause))) 7 (some 4))

/-! Keystone (20). -/

/-- The event of a fault code (table Keystone fault codes). -/
def faultEvent (code : Fin 28) : Fin 32 :=
  match code.val with
  | 0x11 => 10
  | 0x13 => 11
  | 0x14 => 12
  | 0x17 => 20
  | 0x18 => 21
  | _ => 3

/-- A fault code is active. -/
def faultActive (s : State) (code : Fin 28) : Bool := s.ks.active.getLsbD code.val

/-- A detector sees its fault: the time from which the Clears column counts. -/
def noteSeen (s : State) (code : Fin 28) : State := { s with ks := { s.ks with seen := s.ks.seen.set code.val s.clk } }

/-- Record, raise and log a fault code that becomes active; one already active writes and raises nothing (R744, R766). -/
def recordFault (s : State) (code : Fin 28) (arg evArg : Nat) (masked : Bool) : State :=
  let s := noteSeen s code
  if faultActive s code then s
  else
    let k := s.ks
    let e : FaultRecord := { code := BitVec.ofNat 16 code.val, arg := BitVec.ofNat 16 arg, time := s.time.count,
                             era := s.time.era, active := true, masked := masked }
    let s := { s with ks := { k with active := k.active ||| BitVec.ofNat 32 (2 ^ code.val), records := k.records.set k.index.val e,
                                     index := k.index + 1, count := sat16 k.count } }
    let s := raise s (faultEvent code) evArg
    logAlarm s 0x02 (ownNode s) code.val arg []

/-- Declare a fault: as `recordFault`, and SAFE when the code stands in the SAFE mask (R761). -/
def declareWith (s : State) (code : Fin 28) (arg evArg : Nat) (masked : Bool) : State :=
  if faultActive s code then noteSeen s code
  else
    let s := recordFault s code arg evArg masked
    if isRunning s && (cfgSafeMask s).getLsbD code.val then enterSafe s 7 else s

/-- Declare a fault whose event is EV03: the argument of the event is the code (R745). -/
def declare (s : State) (code : Fin 28) (arg : Nat) (masked : Bool) : State := declareWith s code arg code.val masked

/-- Declare a fault whose event is EV03 and for whose record the spec states no argument: a free value (log 8). -/
def declareOpen (s : State) (code : Fin 28) (masked : Bool) : State :=
  if faultActive s code then noteSeen s code
  else
    let (a, s) := drawFree s
    declare s code (a.toNat % 65536) masked

/-- Record a fault with an open argument that is found while a frame or an evaluation runs: SAFE, where it follows, waits for the end
of the command (`settle`). -/
def noteOpen (s : State) (code : Fin 28) (masked : Bool) : State :=
  if faultActive s code then noteSeen s code
  else
    let (a, s) := drawFree s
    recordFault s code (a.toNat % 65536) code.val masked

/-- The end of a command that may have recorded faults on its way from `s` to `t`: SAFE when one of them stands in the SAFE mask (R761).
The frames that ended have their records and the next ones have started by then. -/
def settle (s t : State) : State :=
  if isRunning t && (t.ks.active &&& ~~~s.ks.active &&& cfgSafeMask t) != 0 then enterSafe t 7 else t

/-- A fault code clears: its active bit and the still-active flag of its entries; without an active code of the SAFE mask
cause 0x07 is reported as no longer present, which clears it (R744, R761). -/
def clearFault (s : State) (code : Fin 28) : State :=
  let k := s.ks
  let a := k.active &&& ~~~(BitVec.ofNat 32 (2 ^ code.val))
  let recs := k.records.map fun e => if e.code = BitVec.ofNat 16 code.val then { e with active := false } else e
  let s := { s with ks := { k with active := a, records := recs } }
  if a &&& cfgSafeMask s = 0 ∧ s.modes.causes.getLsbD 7 then
    noteGone { s with modes := { s.modes with causes := s.modes.causes &&& ~~~(BitVec.ofNat 16 128) } }
  else s

/-- A copy of Keystone drives FAULTn low: for a reason of R743 or R155, which both copies see, or, while code 0x03 is active, by itself (R741,
log 150). -/
def copyDrives (s : State) (n : Fin 2) : Bool :=
  (s.ks.copyLow[n] && faultActive s 0x03) || s.ks.active != 0 || !s.ks.started || !isRunning s || s.modes.mode == .safe || anyAlarm s 2

/-- FAULTn is low: the AO detector (R742) or either copy drives it; it is released only when both release it (R741). -/
def faultnLow (s : State) : Bool := s.ks.kclkLost || copyDrives s 0 || copyDrives s 1

/-! Plumb (14). -/

/-- Plumb stops counting (R527, R561): TIMEVALID clears and the state becomes FREE, and no source stays qualified (log 64). -/
def plumbStop (s : State) : State :=
  { s with time := { s.time with counting := false, valid := false, state := .free, slew := none, changing := false, holdoverClk := none,
                                 poly := 0, held := [], ppsOut := false, ppsQualified := false, ppsPredicted := false, ppsGood := 0, ppsMissed := 0
                                 chainQualified := false, chainPredicted := false, chainGood := 0, chainMissed := 0 } }

/-! Resets (04, 02). -/

/-- A seal that a reset cuts short resumes nowhere: how many of its three writes stand is a free value (R795, log 8); a key written
without the seal bit refuses later seals (R776). -/
def cutSeal (s : State) : State :=
  match s.gate.sealing with
  | none => s
  | some (tag, key) =>
    let (w, s) := drawFree s
    let n := w.toNat % 4
    let o := s.otp
    let cut := n == 1 || n == 2
    { s with otp := { o with userKey := if 1 ≤ n then some key else o.userKey, tagsRequired := if 2 ≤ n then tag else o.tagsRequired
                             sealBit := o.sealBit || n == 3, sealFailed := o.sealFailed || cut }
             gate := { s.gate with sealCut := s.gate.sealCut || cut } }

/-- The breaks that code 0x18 rests on when a reset forgets where they were located (R767). -/
def keptBreaks (s : State) : List (Fin 2 × Byte) :=
  let c := s.course
  let there (d : Fin 2) (b : Byte) : List (Fin 2 × Byte) := if b = 0xFF then [] else [(d, b)]
  (s.ks.oldBreaks ++ there 0 c.break0 ++ there 1 c.break1).eraseDups

/-- What every reset loses: CORE, MERE, ANALOG (table Retention). A ratio output that the configuration before had left undriven stays so until
handover (R58, R153; DESIGN CHOICE, log 117). -/
def coreReset (s : State) : State :=
  let s := cutSeal (endSessions s 7 none)
  { s with
    boot := {}
    config := none
    modes := { s.modes with hostReq := none, sluiceReq := none, causes := 0, railCauseGone := false, goneClk := none }
    ec := s.ec.map fun c => { c with warmUntil := none, compliance := false, complianceTail := false,
                                     zOpen := false, zMagOut := false, zPhaseOut := false, zEpisode := false }
    weirs := Vector.replicate 23 {}
    rail := { s.rail with sw := s.rail.sw.map fun w => { w with retries := 0 } }
    tones := (fadeTones s).map fun t => { fade := t.fade }
    burns := Vector.replicate 10 {}
    aux := {}
    sysOn := false
    sysDrop := false
    sysClk := none
    mox := Vector.replicate 6 {}
    cal := {}
    spill := { s.spill with
      rules := s.spill.rules.map fun r => { aoLatched := r.aoLatched, aoAcked := r.aoAcked }
      aReadLow := false, bReadLow := false, aFault := false, bFault := false, fFault := false
      aout := s.spill.aout.map fun o => { code := lowBand, goal := lowBand, driven := o.driven, holdLow := true } }
    mere := {}
    time := { s.time with setCount := 0, setEra := 0, phaseErr := 0, chainGoodErr := 0, ppsOut := false, ppsOutClk := none,
                          refExternal := false, refBandgap := 0 }
    sluice := Vector.replicate 128 {}
    course := { s.course with
      ports := Vector.replicate 2 {}
      seqs := Vector.replicate 3 0, last := [], discovered := none, version := 1, ringClosed := false, n := 0, sweepRing := false
      enum := .idle, enumFull := false, enumFirst := false, found := [], lowest := 0xFF, fullWanted := false, conflicts := [], nodes := [], noRoom := [], unmapped := []
      bootItems := [], bootRound := 0, sweepOf := none, credited := false
      bootItem := 0, sweep := 0, break0 := 0xFF, break1 := 0xFF, service := []
      lastServed := Vector.replicate 6 0, room := (0, 0), noService := Vector.replicate 2 0, overload := false, quiet := 0, overloadNow := false
      rrNode := 0, rrDone := false, rrPending := false, rrStatus := 0, rrAddr := 0, rrLen := 0, rrData := []
      remote := none, testDone := none, ringAgain := false, testLink := none, pod := { backlog := s.course.pod.backlog } }
    events := {}
    host := {}
    results := []
    log := { s.log with scrub := 0, scrubBad := false, scrubClk := s.clk }
    ks := { s.ks with started := false, path := 0, visitFrame := 0, visiting := false, compared := false, visitBad := false, suspect := none,
                      copyLow := Vector.replicate 2 false, oldBreaks := keptBreaks s, passes := 0, votes := [], refinIn := 0, wdWord := 0x5A, wdClk := none,
                      injectCode := 0 }
    gate := { s.gate with sessions := Vector.replicate 3 none, nonce := none, lastEvent := 0, sealing := none }
    link := {} }

/-- The rail through a warm reset (R150, R308): one that is on goes on, with the limit in mA that the caller gives; one that only starts has
nothing to regulate on yet and goes off (log 66). -/
def holdRail (s : State) (limit : Nat) : State :=
  if s.rail.state = .on then { s with rail := { s.rail with heldLimit := limit, heldSetpoint := if isRunning s then cfgSetpoint s else s.rail.heldSetpoint, measuring := none, chainFrom := none, fitsClk := none, kept := false } }
  else railOff s

/-- The cause register's code of a warm reset (R146). -/
def warmCode : WarmKind → Byte
  | .pin => 3
  | .watchdog => 4
  | .command => 5
  | .ioSupply => 6
  | .thermal => 7

/-- The rail is held but for the thermal kind or, from a mode, a hold time of 0 (R308). -/
def keepRail (s : State) (k : WarmKind) (limit : Nat) : State :=
  if k = .thermal ∨ (isRunning s ∧ cfgRailHold s = 0) then railOff s else holdRail s limit

/-- The cause register, the count of warm resets and the first reset since the last mode are recorded (R146, R147). `s`: before the
rail was kept, `t`: after. -/
def noteWarm (s t : State) (k : WarmKind) : State :=
  let m := t.modes
  { t with
    modes := { m with
      thermalLatch := m.thermalLatch || k == .thermal, thermalDue := m.thermalDue || k == .thermal, resetCause := warmCode k, warmResets := sat16 m.warmResets,
      railHold := if k = .thermal then false else if isRunning s then railOn t && cfgRailHold s != 0 else m.railHold
      holdUs := if isRunning s then 1000 * cfgRailHold s else m.holdUs
      holdClk := if isRunning s then s.clk else m.holdClk, cold := false, resetClk := s.clk }
    time := { t.time with resetTime := t.time.resetTime.or (some (time56 (plumbNow t))) } }

/-- The start of a warm reset (WARM_RESET_START, R146, R148 - R155): heaters off, the rail held but for the thermal kind or
a hold time of 0, ratio outputs at 3.0 %, the cause register and the count of warm resets written. `limit`: the effective
rail limit in force. -/
def startWarm (s : State) (k : WarmKind) (limit : Nat) : State :=
  { coreReset (noteWarm s (keepRail s k limit) k) with phase := .reset k }

/-- The codes whose Clears column names the VDD power-on reset (table Keystone fault codes). -/
def clearAtPower (s : State) : State := [0x09, 0x13, 0x14, 0x15].foldl clearFault s

/-- What a VDD power-on reset clears beside `coreReset` (R64, R156 and table Retention): bias, rail, the Keystone condition
records, the mode record, the thermal latch and the logs. -/
def powerReset (s : State) : State :=
  let s := clearAtPower (coreReset s)
  { s with
    phase := .porHold
    modes := { s.modes with record := none, thermalLatch := false, thermalDue := false, resetCause := 2, warmResets := 0, railHold := false,
                            cold := true, watchdogTimes := [], watchdogThird := false }
    ec := Vector.replicate 8 {}
    rail := { lockout := s.rail.lockout, uvloDue := s.rail.uvloDue }
    thermal := { trips := s.thermal.trips }
    log := {}
    course := { s.course with pod := {} }
    time := { s.time with resetTime := none }
    ks := { s.ks with outA := false, outB := false, outC := false } }

end Sys2Proof.Machine
end

