-- ==== Sys2Proof/Machine/MereCfg.lean ====
section
/-! DEFINITION. Operand forms of section 0x0D and of the network image (12, 13). -/

namespace Sys2Proof.Machine

/-! Section 0x0D. -/

def encCount (s : State) : Nat := u8 (sec s 0x0D) 4
def classCount (s : State) : Nat := u8 (sec s 0x0D) 5
def classMult (s : State) : Nat := u8 (sec s 0x0D) 6 % 4
/-- Lag limit in microseconds. -/
def lagLimit (s : State) : Nat := 1000 * u16 (sec s 0x0D) 8
/-- Class frame in microseconds (R497). -/
def classUs (s : State) : Nat := frameUs (frameK s s.modes.mode + classMult s)

/-- The 24 bytes of encoder `e`. -/
def encEntry (s : State) (e : Nat) : List Byte := ((sec s 0x0D).drop (16 + 24 * e)).take 24
/-- The 16 bytes of class `c`. -/
def classEntry (s : State) (c : Nat) : List Byte := ((sec s 0x0D).drop (16 + 24 * encCount s + 16 * c)).take 16
def classBound (s : State) (c : Nat) : Bool := c < classCount s
def classNeuron (s : State) (c : Nat) : Nat := u16 (classEntry s c) 0 % 2048
def classWindow (s : State) (c : Nat) : Nat := u8 (classEntry s c) 2
def classEvent (s : State) (c : Nat) : Bool := bit (u8 (classEntry s c) 3) 0
def classOn (s : State) (c : Nat) : F32 := f32At (classEntry s c) 4
def classOff (s : State) (c : Nat) : F32 := f32At (classEntry s c) 8

/-! The network image in use (13, table Network image sections). -/

/-- Payload of a section of the network image. -/
def netSec (s : State) (id : Nat) : List Byte :=
  match s.mere.image with
  | none => []
  | some i => (i.secs.lookup (BitVec.ofNat 8 id)).getD []

/-- Tarn `t` is enabled. -/
def tarnEnabled (s : State) (t : Fin 8) : Bool := bit (u8 (netSec s 1) 0) t.val
/-- Tarn `t` runs in list mode. -/
def tarnList (s : State) (t : Fin 8) : Bool := bit (u8 (netSec s 1) 1) t.val

/-- Mere is powered and runs its image. -/
def mereRuns (s : State) : Bool := isRunning s && s.mere.power == .running

/-- No class frame is in progress, or those in progress end at this moment (R497). -/
def classesEndHere (s : State) : Bool := !mereRuns s || classCount s == 0 || onGrid s (classUs s)

/-- Every frame in progress on the node has ended at this moment: of its own quantities, of every path that converts, and of the classes, which so
change their length at a boundary of their own (R131, R516, R544; DEDUCED, log 144). -/
def allEndHere (s : State) : Bool :=
  s.sysClk == some s.clk && s.weirs.all (fun w => !w.on || w.frameClk == some s.clk) && classesEndHere s

/-- Saturation to -2047 - +2047 (R490). -/
def sat12 (x : Int) : Int := if x < -2047 then -2047 else if 2047 < x then 2047 else x

/-- Coalescing or lag disturbs the present class frame; the first one after a quiet period raises EV25 (R505). -/
def mereDisturbed (s : State) (cause : Byte) : State :=
  let m := s.mere
  if m.episode then { s with mere := { m with disturbed := true } }
  else raise { s with mere := { m with episode := true, disturbed := true, cause := cause } } 25 (if cause = 2 then 1 else 0)

/-- The end of a class frame as the episode of R505 sees it. -/
def classEpisode (s : State) : State :=
  let lag := s.mere.tarns.toList.any (·.lagging.isSome)
  let m := s.mere
  { s with mere := { m with episode := m.episode && (m.disturbed || lag), disturbed := m.episode && lag } }

/-- Emit an encoder event into its slot (R493, R494): an undelivered event is replaced and counted. -/
def encEmit (s : State) (e : Fin 64) (isUp : Bool) (ev : MereEvent) : State :=
  let x := s.mere.encoders[e]
  let full := if isUp then x.up.isSome else x.down.isSome
  let x := if isUp then { x with up := some ev } else { x with down := some ev }
  let x := if full then { x with coalesced := sat16 x.coalesced } else x
  let s := { s with mere := { s.mere with encoders := s.mere.encoders.set e.val x } }
  if full then mereDisturbed { s with mere := { s.mere with lastCoalesce := some (s.time.count, s.time.era) } } 1 else s

/-- Level of a value on a ladder: clamp(floor(x / delta), 0, L - 1). -/
def ladder (x d : Rat) (l : Nat) : Nat := (min (max (ratFloor (x / d)) 0) ((l : Int) - 1)).toNat

/-- Encoder `e` takes a VALID record with that value (R490, R491). -/
def encTake (s : State) (e : Fin 64) (v : F32) : State :=
  let p := encEntry s e.val
  let x := s.mere.encoders[e]
  let l := u8 p 2
  let cap := u8 p 3 % 16
  let d := toRatD (f32At p 8)
  let h := ((u8 p 3 / 16 : Nat) : Rat) * d / 16
  let dv := toRatD v - toRatD (f32At p 4)
  let ku := ladder dv d l
  let put (y : Encoder) : State := { s with mere := { s.mere with encoders := s.mere.encoders.set e.val y } }
  if !x.init then put { x with level := ku, init := true }
  else
    let kd := ladder (dv + h) d l
    let send (s : State) (isUp : Bool) (m : Nat) : State :=
      let o := if isUp then 12 else 16
      let w := signed 16 (u16 p (o + 2))
      if w = 0 then s
      else
        encEmit s e isUp { target := BitVec.ofNat 11 (u16 p o), receptor := ⟨u16 p o / 2048 % 4, Nat.mod_lt _ (by decide)⟩,
                           weight := sat12 (w * (min m cap : Nat)), time := BitVec.ofNat 32 s.time.count.toNat, wake := false }
    if x.level < ku then send (put { x with level := ku }) true (ku - x.level)
    else if kd < x.level then send (put { x with level := kd }) false (x.level - kd)
    else s

/-- Every encoder of a VCN takes a record of this node (R489); without an image, or gated, encoders are inert. -/
def encodeRecord (s : State) (r : Record) : State :=
  if !mereRuns s || !isValid r.status || vcnNode r.vcn != (ownNode s).toNat then s
  else
    (List.finRange 64).foldl (fun s e =>
      if e.val < encCount s && u16 (encEntry s e.val) 0 % 256 == vcnIndex r.vcn then encTake s e r.value else s) s

end Sys2Proof.Machine
end

