-- ==== Sys2Proof/Machine/Sections.lean ====
section
/-! DEFINITION. Operand forms of the measurement sections 0x04, 0x05, 0x09, 0x0A (05, 06, 10) and the Weir paths they name. -/

namespace Sys2Proof.Machine

/-! Section 0x04. -/

/-- The 16 bytes of channel `n`. -/
def ecBlock (s : State) (n : Fin 8) : List Byte := ((sec s 4).drop (16 * n.val)).take 16
def ecPresent (s : State) (n : Fin 8) : Bool := bit (u8 (ecBlock s n) 11) 0
def ecWe2 (s : State) (n : Fin 8) : Bool := bit (u8 (ecBlock s n) 11) 1
def ecTarget (s : State) (n : Fin 8) : Int := signed 32 (u32 (ecBlock s n) 0)
def ecRate (s : State) (n : Fin 8) : Nat := u32 (ecBlock s n) 4
def ecCold (s : State) (n : Fin 8) : Nat := u16 (ecBlock s n) 12
def ecWarm (s : State) (n : Fin 8) : Nat := u8 (ecBlock s n) 14

/-- Channel of a working electrode's Weir. -/
def ecOf (w : Fin 16) : Fin 8 := ⟨w.val / 2, by omega⟩

/-- A working electrode is present (R192). -/
def wePresent (s : State) (w : Fin 16) : Bool := ecPresent s (ecOf w) && (w.val % 2 == 0 || ecWe2 s (ecOf w))

/-! Section 0x05. -/

/-- The 24 bytes of channel `n`'s tone block. -/
def toneBlock (s : State) (n : Fin 8) : List Byte := ((sec s 5).drop (24 * n.val)).take 24
def toneMode (s : State) (n : Fin 8) : Nat := u8 (toneBlock s n) 0
def toneAmp (s : State) (n : Fin 8) : Nat := u8 (toneBlock s n) 1
def toneWindow (s : State) (n : Fin 8) : Nat := u8 (toneBlock s n) 2
def tonePoints (s : State) (n : Fin 8) : Nat := u8 (toneBlock s n) 3

/-- Frequency code in force: the block's in continuous mode, the sweep list's in sweep mode. -/
def toneCode (s : State) (n : Fin 8) (point : Nat) : Nat :=
  if toneMode s n = 2 then u16 (sec s 5) (192 + 2 * point) else u16 (toneBlock s n) 4

/-- The 8 bytes of film `n`'s burn-out block. -/
def filmBurn (s : State) (n : Fin 6) : List Byte := ((sec s 5).drop (208 + 8 * n.val)).take 8

/-! Section 0x09. -/

/-- The 8 bytes of AUX input `n`. -/
def auxBlock (s : State) (n : Fin 4) : List Byte := ((sec s 9).drop (12 + 8 * n.val)).take 8
def auxPresent (s : State) (n : Fin 4) : Bool := bit (u8 (auxBlock s n) 0) 0
def auxQuantity (s : State) (n : Fin 4) : Nat := u8 (auxBlock s n) 1
/-- Conversion time in seconds. -/
def auxTime (s : State) (n : Fin 4) : Rat := (u16 (auxBlock s n) 2 : Rat) / 10000
/-- Excitation current in ampere. -/
def auxCurrent (s : State) : Rat := (u16 (sec s 9) 2 : Rat) / 10 ^ 6
def anyAux (s : State) : Bool := (List.finRange 4).any (auxPresent s)

/-- Level, period, check time in 0.1 ms and threshold in 10 mV of a burn-out input. -/
def burnCfg (s : State) : BurnInput → Nat × Nat × Nat × Nat
  | .aux n => (u8 (auxBlock s n) 4, u8 (auxBlock s n) 5, u8 (auxBlock s n) 6, u8 (auxBlock s n) 7)
  | .film n => (u8 (filmBurn s n) 0, u8 (filmBurn s n) 1, u8 (filmBurn s n) 2, u8 (filmBurn s n) 3)

/-- Place of an input among the burn-out checks. -/
def burnIdx : BurnInput → Fin 10
  | .aux n => ⟨n.val, by omega⟩
  | .film n => ⟨4 + n.val, by omega⟩

/-! The Weir paths (R746): W00 - W15 electrodes, W16 - W21 films, W22 AUX. -/

/-- What a Weir serves. -/
inductive Path where
  | electrode (w : Fin 16)
  | film (n : Fin 6)
  | aux
  deriving DecidableEq, Repr

/-- Path of a Weir. -/
def pathOf (w : Fin 23) : Path :=
  if h : w.val < 16 then .electrode ⟨w.val, h⟩ else if h' : w.val < 22 then .film ⟨w.val - 16, by omega⟩ else .aux

/-- Weirs of the paths. -/
def weirOfWe (w : Fin 16) : Fin 23 := ⟨w.val, by omega⟩
def weirOfFilm (n : Fin 6) : Fin 23 := ⟨16 + n.val, by omega⟩

/-- The path is present and converts in the present mode. -/
def pathRuns (s : State) (w : Fin 23) : Bool :=
  isActive s &&
    match pathOf w with
    | .electrode e => wePresent s e && s.ec[ecOf e].stage == .biased
    | .film n => moxHeatsIn s s.modes.mode n
    | .aux => anyAux s

/-- Frame multiplier of a path. -/
def pathMult (s : State) (w : Fin 23) : Nat :=
  match pathOf w with
  | .electrode e => u8 (ecBlock s (ecOf e)) 8 % 4
  | .film n => u8 (moxBlock s n) 2 % 4
  | .aux => u8 (sec s 9) 4 % 4

/-- Frame of a path in microseconds (R190). -/
def pathUs (s : State) (w : Fin 23) : Nat := frameUs (frameK s s.modes.mode + pathMult s w)

/-- Range control byte of a path; W22 converts at range 3 (R228). -/
def rangeCtl (s : State) (w : Fin 23) : Nat :=
  match pathOf w with
  | .electrode e => u8 (ecBlock s (ecOf e)) (9 + e.val % 2)
  | .film n => u8 (moxBlock s n) 3
  | .aux => 0x6F

/-- A value as a range. -/
def toRange (n : Nat) : Fin 4 := ⟨n % 4, Nat.mod_lt _ (by decide)⟩

/-- Start range. -/
def startRange (s : State) (w : Fin 23) : Fin 4 := toRange (rangeCtl s w / 32)

/-- Nominal packet in femtocoulomb (table Weir ranges). -/
def qNom (r : Fin 4) : Rat :=
  match r with
  | 0 => 1
  | 1 => 32
  | 2 => 1024
  | 3 => 32000

/-- Calibrated packet of a Weir, 0 - 23, in coulomb (R185, Cornerstone). -/
def qCal (s : State) (w : Nat) (r : Fin 4) : Rat :=
  match s.cornerstone.qCal.find? fun x => x.1 == w && x.2.1 == r.val with
  | some x => x.2.2 / 10 ^ 21
  | none => qNom r / 10 ^ 15

/-! Section 0x0A. -/

/-- The 112 bytes of model `j`. -/
def modelBlock (p : List Byte) (j : Nat) : List Byte := (p.drop (4 + 112 * j)).take 112

/-- The binding entries of a section 0x0A: local index and model. -/
def bindings (p : List Byte) : List (Nat × Nat) :=
  (List.range (u8 p 1)).map fun i =>
    let o := 4 + 112 * u8 p 0 + 4 * i
    (u8 p o, u8 p (o + 1))

/-- The model a section 0x0A binds to a local index. -/
def boundModel (p : List Byte) (idx : Nat) : Option (List Byte) := ((bindings p).lookup idx).map (modelBlock p)

/-- Tag of a model. -/
def modelTag (m : List Byte) : BitVec 16 := BitVec.ofNat 16 (u16 m 0)

/-- Stages 2 and 3 apply to a local index (R352). -/
def trimmedIndex (i : Nat) : Bool := i ≤ 0x15 || (0x20 ≤ i && i ≤ 0x23)

end Sys2Proof.Machine
end

