-- ==== Sys2Proof/Machine/SpillOps.lean ====
section
/-! DEFINITION. Spillway's shared operations (11): the change of a rule's state with everything that follows it, one evaluation of a
rule, the evaluations of a record. -/

namespace Sys2Proof.Machine

/-- Code of a rule state (table Rule state codes). -/
def ruleCode : RuleState → Nat
  | .clear => 0
  | .alarmed => 1
  | .latched => 2
  | .acked => 3
  | .stanceAlarmed => 4
  | .stanceClear => 5
  | .invalid => 6

/-- The rule stands in a stance. -/
def inStance : RuleState → Bool
  | .stanceAlarmed | .stanceClear => true
  | _ => false

/-- Byte `j` of the CHAIN bitmap (table Payloads, SWEEP_REPORT): rule `8j + i` counts as alarmed and has CHAIN set. -/
def bitmapByte (s : State) (j : Nat) : Byte :=
  BitVec.ofNat 8 ((List.range 8).foldl (fun a i =>
    let k := 8 * j + i
    match s.spill.rules[k]? with
    | some r => if k < ruleCount s && ruleOut s k 5 && countsAlarmed r.state then a + 2 ^ i else a
    | none => a) 0)

/-- The 32 bytes of the CHAIN bitmap. -/
def chainBitmap (s : State) : List Byte := (List.range 32).map (bitmapByte s)

/-- A pod's Mere is gated in a mode that its reports name (R478). -/
def podGated (s : State) (node code : Nat) : Bool :=
  match modeOf code with
  | some .watch => !bit (u8 (nodeSec s node 2) 5) 0
  | some .safe => true
  | _ => false

/-- Class `k` of a pod is off: it runs no Mere image by its IDENTITY (R26), does not bind the class, or its Mere is gated by its latest report, or
was after the time of the record the head holds of it (R502). -/
def podClassOff (s : State) (x : Node) (k : Nat) (r : Option Record) : Bool :=
  x.mereCrc == 0 || decide (u8 (nodeSec s x.addr.toNat 0x0D) 5 ≤ k) || podGated s x.addr.toNat x.mode.toNat ||
    match r with
    | none => false
    | some r => x.modeLog.any fun p => nearTime s r.time ≤ p.1 && podGated s x.addr.toNat p.2.toNat

/-- A class VCN that reads NOTYET whatever its record says: in SAFE, while Mere does not run on its node, and before its first record since
(R26, R123, R502, R514). -/
def classHidden (s : State) (v : Vcn) : Bool :=
  if h : 0x40 ≤ vcnIndex v ∧ vcnIndex v - 0x40 < 64 then
    inSafe s ||
      if vcnNode v == (ownNode s).toNat then s.mere.power != .running || !s.mere.classes[vcnIndex v - 0x40].fresh
      else (nodeOf s (vcnNode v)).any fun x => podClassOff s x (vcnIndex v - 0x40) ((entryOf s v).bind (·.record))
  else false

/-- A VCN reads NOTYET (R26, R675). -/
def readsNotYet (s : State) (v : Vcn) : Bool :=
  classHidden s v ||
    match (entryOf s v).bind (·.record) with
    | none => true
    | some r => r.status.getLsbD 3

/-- A pod with an address, not parked, sends its ALARM frame on both ports, at most once in a sweep (R426, R606, R634). -/
def sendAlarm (s : State) : State :=
  let p := s.course.pod
  if p.alarmSent || p.addr = 0 || p.phase = 3 then s
  else
    let s := { s with course := { s.course with pod := { p with alarmWanted := false, alarmSent := true } } }
    originate s [0, 1] 0x14 0 0 0 ([p.alarmCount, 0, 0, 0] ++ chainBitmap s)

/-- A CHAIN rule of a pod has changed (R426). -/
def chainChanged (s : State) : State :=
  let p := s.course.pod
  sendAlarm { s with course := { s.course with pod := { p with alarmCount := p.alarmCount + 1, alarmWanted := true } } }

/-- What a change of rule `k` between alarmed and not does to the outputs (R421 - R423, R426, R435). -/
def ruleOutputs (s : State) (k : Nat) : State :=
  let s := if ruleOut s k 3 then endHold s 0 else s
  let s := if ruleOut s k 4 then endHold s 1 else s
  let s := if s.role == .pod && ruleOut s k 5 then chainChanged s else s
  refreshOutputs s

/-- A rule takes a new state (R407): log entry, AO bits (R415), events of R424, outputs. `first`: at its first evaluation, where R409 has a
rule become alarmed or clear out of a stance, and R397 out of the invalid state. The entry to the invalid state becomes alarmed (log 96). -/
def setRule (s : State) (k : Fin 256) (new : RuleState) (first : Bool) : State :=
  let r := s.spill.rules[k]
  if r.state = new then s
  else
    let was := countsAlarmed r.state
    let now := countsAlarmed new
    let r' := { r with state := new, aoLatched := new == .latched, aoAcked := new == .acked,
                       transitions := if !was && now then sat16 r.transitions else r.transitions }
    let s := { s with spill := { s.spill with rules := s.spill.rules.set k.val r' } }
    let s := logAlarm s 0x01 (ownNode s) k.val (ruleCode r.state + 16 * ruleCode new)
      (toLE 4 r.last.toNat ++ toLE 2 (ruleVcn s k.val).toNat)
    let ev := ruleOut s k.val 6
    let s := if ev && now && (!was || (first && new == .alarmed)) then raise s (if ruleFast s k.val then 2 else 0) k.val else s
    let s := if ev && new == .clear && (was || first) then raise s 1 k.val else s
    if was != now then ruleOutputs s k.val else s

/-- The state after one evaluation of a rule and its counters (R406, R409, R410, R413, R414). -/
def judge (r : Rule) (latch : Bool) (ds dc : Nat) (setm clrm : Bool) : RuleState × Rule :=
  match r.state with
  | .latched => (.latched, r)
  | st =>
    if r.first then
      if setm then (.alarmed, { r with first := false, setCount := 0, clearCount := 0 })
      else if clrm then (.clear, { r with first := false, setCount := 0, clearCount := 0 })
      else (st, { r with first := !inStance st })
    else
      let plain : RuleState := if st = .stanceAlarmed then .alarmed else if st = .stanceClear then .clear else st
      let st := if setm || clrm then plain else st
      let a := if setm then min 255 (r.setCount + 1) else 0
      let b := if clrm && !setm then min 255 (r.clearCount + 1) else 0
      let new : RuleState :=
        if st = .clear && ds ≤ a then .alarmed
        else if (st = .alarmed || st = .acked) && dc ≤ b then (if latch && st = .alarmed then .latched else .clear)
        else st
      (new, { r with setCount := if new = st then a else 0, clearCount := if new = st then b else 0 })

/-- One evaluation of rule `k` with the value compared; where the two evaluators differ the result is the alarmed one, and the mismatch is
recorded under its code (R398); the command settles whether SAFE follows. -/
def evaluateAs (code : Fin 28) (s : State) (k : Fin 256) (setm clrm : Bool) (value : F32) (mismatch : Bool) : State :=
  let r := { s.spill.rules[k] with last := value, evalClk := s.clk }
  let (new, r') := judge r (ruleLatch s k.val) (ruleSetCount s k.val) (ruleClearCount s k.val) (setm || mismatch)
    (clrm && !mismatch)
  let s := { s with spill := { s.spill with rules := s.spill.rules.set k.val r' } }
  let s := setRule s k new r.first
  if mismatch then noteOpen s code false else s

/-- One evaluation of a rule on the frame path: a mismatch, `bad` naming the rules whose evaluators differ, is code 0x01 (R398). -/
def evaluate (s : State) (k : Fin 256) (setm clrm : Bool) (value : F32) (bad : List (Fin 256)) : State :=
  evaluateAs 0x01 s k setm clrm value (bad.contains k)

/-- Set and clear condition of a rule with levels (R399). -/
def levelMet (s : State) (k : Nat) (v : F32) : Bool × Bool :=
  if ruleLow s k then (fle v (ruleSet s k), fle (ruleClear s k) v) else (fle (ruleSet s k) v, fle v (ruleClear s k))

/-- 1.0 or 0.0: what the page shows as value compared of a rule without levels. -/
def flag32 (b : Bool) : F32 := if b then 0x3F800000 else 0

/-- A record of its input is an evaluation of rule `k` (R396, R403, R404): of a LEVEL or CLASS rule with VALID, of a CLASS rule without NOTYET,
of a STATUS rule always. Kinds evaluated elsewhere have none on a record. -/
def evaluatesOn (s : State) (k : Fin 256) (r : Record) : Bool :=
  match ruleKind s k.val with
  | 1 => !ruleFast s k.val && isValid r.status
  | 5 => isValid r.status && !r.status.getLsbD 3
  | 6 => true
  | _ => false

/-- The evaluation of rule `k` on a record of its input. -/
def evalRecord (s : State) (k : Fin 256) (r : Record) (bad : List (Fin 256)) : State :=
  if !evaluatesOn s k r then s
  else
    match ruleKind s k.val with
    | 1 =>
      let m := levelMet s k.val r.value
      evaluate s k m.1 m.2 r.value bad
    | 5 => evaluate s k r.raw.msb (!r.raw.msb) (flag32 r.raw.msb) bad
    | _ =>
      let v := r.status &&& BitVec.ofNat 16 (ruleArg s k.val)
      evaluate s k (v != 0) (v == 0) (ofRat (v.toNat : Rat)) bad

/-- Add to the sum and weight of period `j` of a list, latest first; a weight of 0 holds no sum, or a value filled in. A period without an
entry gets one in its place. -/
def addAt (l : List (Nat × Rat × Rat)) (j : Nat) (v w : Rat) : List (Nat × Rat × Rat) :=
  match l with
  | [] => [(j, w * v, w)]
  | (i, a, b) :: r =>
    if i = j then (i, (if b = 0 then w * v else a + w * v), b + w) :: r
    else if i < j then (j, w * v, w) :: (i, a, b) :: r
    else (i, a, b) :: addAt r j v w

/-- A minute whose bucket has closed (R449): an earlier one than the minute under way, or the one that has ended at this moment. -/
def minuteClosed (s : State) (m : Nat) : Bool :=
  let now := minuteOf (if onCount s 60000000 then wholeTime s 60000000 else time56 (plumbNow s))
  decide (m < now) || (m == now && s.spill.minuteClk == some s.clk)

/-- Rule `k` of kind RATE, STEL or TWA takes a VALID record into the second or minute its frame ended in (R400, R401, R449). `weight` is the
frame length. -/
def accumulate (s : State) (k : Fin 256) (r : Record) (weight : Rat) : State :=
  let t := nearTime s r.time
  let v := toRatD r.value
  let kind := ruleKind s k.val
  let f (x : Rule) : Rule :=
    if kind = 2 then { x with seconds := addAt x.seconds (secondOf t) v 1 }
    else if kind = 3 ∨ kind = 4 then
      if minuteClosed s (minuteOf t) then { x with buckets := (addAt x.buckets (minuteOf t) v weight).take 480 }
      else { x with sum := x.sum + weight * v, weight := x.weight + weight }
    else x
  { s with spill := { s.spill with rules := vmod s.spill.rules k f } }

/-- The rules of this node in ascending number. -/
def allRules (s : State) : List (Fin 256) := (List.finRange 256).filter fun k => k.val < ruleCount s

/-- Rules that read a VCN. -/
def rulesOf (s : State) (v : Vcn) : List (Fin 256) := (allRules s).filter fun k => ruleVcn s k.val == v && ruleKind s k.val != 7

/-- Every evaluation of a record in RUN and WATCH, in ascending rule number (R395), and INBAND where an evaluation leaves, or finds, a rule of
the VCN in a stance (R411). -/
def spillRecord (s : State) (r : Record) (weight : Rat) (bad : List (Fin 256)) : State × Record :=
  if !isActive s then (s, r)
  else
    let ks := rulesOf s r.vcn
    let s := if isValid r.status then ks.foldl (fun s k => accumulate s k r weight) s else s
    let t := ks.foldl (fun s k => evalRecord s k r bad) s
    if (ks.any fun k => evaluatesOn s k r) && (ks.any fun k => inStance t.spill.rules[k].state) then (t, { r with status := setFlag r.status 11 })
    else (t, r)

/-! Seconds and minutes (R400 - R402, R448). -/

/-- Mean of a second; none without a record. -/
def secondMean (l : List (Nat × Rat × Rat)) (k : Nat) : Option Rat :=
  match l.lookup k with
  | none => none
  | some x => if x.2 = 0 then none else some (x.1 / x.2)

/-- Mean of a bucket: of one filled in it is the value held. -/
def bucketMean (x : Nat × Rat × Rat) : Rat := if x.2.2 = 0 then x.2.1 else x.2.1 / x.2.2

/-- Seconds no RATE value can use any more are forgotten. -/
def pruneSeconds (k : Nat) (r : Rule) : Rule := { r with seconds := r.seconds.filter fun x => k < x.1 + 61 }

/-- The RATE value at the end of second `k` (R400). -/
def rateValue (k : Nat) (r : Rule) : Option Rat :=
  match secondMean r.seconds k, if 60 ≤ k then secondMean r.seconds (k - 60) else none with
  | some a, some b => some (a - b)
  | _, _ => none

/-- The open minute, number `m`, of a STEL or TWA rule closes (R401): a bucket, or the previous one's value filled in. -/
def closeMinute (m : Nat) (r : Rule) : Rule :=
  if r.weight ≠ 0 then { r with buckets := ((m, r.sum, r.weight) :: r.buckets).take 480, sum := 0, weight := 0 }
  else
    match r.buckets with
    | [] => { r with sum := 0 }
    | b :: _ => { r with buckets := ((m, bucketMean b, 0) :: r.buckets).take 480, sum := 0, filled := sat16 r.filled }

/-- STEL (15) or TWA (480) value (R402). -/
def bucketValue (n : Nat) (r : Rule) : Option Rat :=
  let l := (r.buckets.take n).map bucketMean
  if l.isEmpty then none else some (l.sum / (l.length : Rat))

/-- Change the rules of some kinds. -/
def modKinds (s : State) (kinds : List Nat) (f : Rule → Rule) : State :=
  { s with spill := { s.spill with rules := (allRules s).foldl (fun v k => if kinds.contains (ruleKind s k.val) then vmod v k f else v) s.spill.rules } }

/-- A forward Plumb step from `old` (R448): the open bucket closes without an evaluation; the minutes and seconds passed over hold nothing. -/
def spillStep (s : State) (old : Nat) : State := modKinds s [3, 4] (closeMinute (minuteOf (old + 1)))

/-- Rules start in their power-up stance, but for latched ones (R408). -/
def startStance (s : State) (k : Fin 256) : State :=
  let r := s.spill.rules[k]
  if r.state = .latched then s
  else
    { s with spill := { s.spill with rules := s.spill.rules.set k.val { r with
      state := if rulePuClear s k.val then .stanceClear else .stanceAlarmed, first := true, setCount := 0, clearCount := 0
      evalClk := s.clk, aoLatched := false, aoAcked := false } } }

/-- One rule starts; `logged`: the change from a held state is a change of state (R425, R426), in a pod reported where CHAIN is set. -/
def startRule (logged : Bool) (s : State) (k : Fin 256) : State :=
  let old := s.spill.rules[k].state
  let s := startStance s k
  let new := s.spill.rules[k].state
  if !logged || old == new then s
  else
    let s := logAlarm s 0x01 (ownNode s) k.val (ruleCode old + 16 * ruleCode new)
      (toLE 4 s.spill.rules[k].last.toNat ++ toLE 2 (ruleVcn s k.val).toNat)
    if s.role == .pod && ruleOut s k.val 5 && countsAlarmed old != countsAlarmed new then chainChanged s else s

/-- All rules start (R408): the outputs follow. -/
def startRules (s : State) (logged : Bool) : State := refreshOutputs ((allRules s).foldl (startRule logged) s)

end Sys2Proof.Machine
end

