-- ==== Sys2Proof/Machine/RecordOps.lean ====
section
/-! DEFINITION. Linearisation (10) and the path of a record: rules, result store, ratio outputs, encoders, calibration window,
a pod's pending area. -/

namespace Sys2Proof.Machine

/-- The row j = M .. 0 of coefficient i (R357). -/
def modelRow (m : List Byte) (tn : F32) (i : Nat) : Nat → F32 → F32
  | 0, p => p
  | k + 1, p => modelRow m tn i k (fadd (fmul p tn) (f32At m (20 + 4 * (3 * i + k))))

/-- The loop i = N .. 0 (R357). -/
def modelLoop (m : List Byte) (xn tn : F32) (mDeg : Nat) : Nat → F32 → F32
  | 0, y => y
  | k + 1, y => modelLoop m xn tn mDeg k (fadd (fmul y xn) (modelRow m tn k (mDeg + 1) 0))

/-- The sensor model at x and a companion value (R357, R359). -/
def evalModel (m : List Byte) (x : F32) (t : Option F32) : F32 :=
  let xn := fmul (fsub x (f32At m 8)) (f32At m 12)
  let tn := match t with
    | some t => fsub t (f32At m 16)
    | none => 0
  modelLoop m xn tn (u8 m 3 / 4 % 4) (u8 m 3 % 4 + 1) 0

/-- The latest VALID companion of a model with TEMP, and whether it is at most 60 s older than now (R358, R359). -/
def companion (s : State) (m : List Byte) : Option F32 × Bool :=
  if !bit (u8 m 2) 0 then (none, true)
  else
    match (entryOf s (ownVcn s (u8 m 4))).bind (·.lastValid) with
    | none => (none, false)
    | some (v, t) =>
      let d := (s.time.count - t).toNat
      (some v, d ≤ 60000000 || 2 ^ 47 ≤ d)

/-- The Render entries this node holds: the copy in use, or a pod's confirmed entries (R365). -/
def renderEntries (s : State) : List RenderEntry :=
  match s.role with
  | .head => (s.cal.render.map (·.entries)).getD []
  | .pod => s.course.pod.render

/-- The entry a VCN's running frame is linearised with: the old one until the frame ends (R364). -/
def renderOf (s : State) (v : Vcn) : Option RenderEntry :=
  match s.cal.old.lookup v with
  | some e => e
  | none => (renderEntries s).find? fun e => e.vcn == v

/-- The entry `old` stands to the end of a VCN's running frame; where one is kept already, that one is what the frame started with (R364). -/
def keepOld (l : List (Vcn × Option RenderEntry)) (v : Vcn) (old : Option RenderEntry) : List (Vcn × Option RenderEntry) :=
  if (l.lookup v).isSome then l else (v, old) :: l

/-- The entry of a VCN in force: its tag is that of the bound model (R362). -/
def entryInForce (s : State) (v : Vcn) : Option RenderEntry :=
  match boundModel (sec s 0x0A) (vcnIndex v) with
  | none => none
  | some m => (renderOf s v).filter fun e => e.tag == modelTag m

/-- Stage 3 (R361). -/
def trim (e : RenderEntry) (y : F32) : F32 := fadd (fmul e.g (fsub y e.yz)) e.cz

/-- Stages 2 and 3 (R352 - R363) of a stage 1 output: the value, and the status conditions as changed. -/
def linearise (s : State) (idx : Nat) (x : F32) (b : StatusBits) : F32 × StatusBits :=
  if !trimmedIndex idx then (oneNaN x, b)
  else
    let bad (v : F32) (b : StatusBits) : F32 × StatusBits := if isFinite v then (v, b) else (qnan, { b with valid := false })
    let stage3 (y : F32) (b : StatusBits) : F32 × StatusBits :=
      match entryInForce s (ownVcn s idx) with
      | none => bad y b
      | some e => bad (trim e y) { b with userCal := true }
    match boundModel (sec s 0x0A) idx with
    | none => bad x b
    | some m =>
      let (t, fresh) := companion s m
      let b := if fresh then b else { b with valid := false }
      let y := evalModel m x t
      if isFinite y && (flt y (f32At m 104) || flt (f32At m 108) y) then (y, { b with overRange := true, valid := false })
      else stage3 y b

/-! The calibration window (10). -/

/-- The entry a record was trimmed with: an own record's (R364), or the latest one a pod had confirmed when the record's frame started (R365;
the head takes the time at which the confirmation came, log 113). -/
def trimOf (s : State) (r : Record) : Option RenderEntry :=
  if vcnNode r.vcn == (ownNode s).toNat then renderOf s r.vcn
  else
    let start := nearTime s r.time - vcnUsAt s r.vcn (nearTime s r.time)
    (((nodeOf s (vcnNode r.vcn)).bind fun n => n.trims.find? fun t => t.1 ≤ start).bind fun t => t.2.find? fun e => e.vcn == r.vcn)

/-- The stage 2 value of a record of this or another node (Calibration procedures). -/
def stage2Of (s : State) (r : Record) : F32 :=
  if !r.status.getLsbD 10 then r.value
  else
    match trimOf s r with
    | some e => fadd (fdiv (fsub r.value e.cz) e.g) e.yz
    | none => r.value

/-- What a class record reads as for the clean-air check: none for NOTYET, asserted only with VALID. -/
def airReading (r : Record) : Option Bool := if r.status.getLsbD 3 then none else some (isValid r.status && r.raw.msb)

/-- What the clean-air class reads as now (R26, R376). -/
def airNow (s : State) (v : Vcn) : Option Bool :=
  if readsNotYet s v then none
  else
    match (entryOf s v).bind (·.record) with
    | none => none
    | some r => airReading r

/-- A record of the run's VCN, of a cross VCN or of the clean-air class enters the window. A record that comes more than 60 s after the first one
is in no window. -/
def calCollect (s : State) (r : Record) : State :=
  match s.cal.run with
  | none => s
  | some c =>
    let m := (boundModel (nodeSec s (vcnNode c.vcn) 0x0A) (vcnIndex c.vcn)).getD []
    if c.write.isSome || c.kind == .clear || c.startClk.any fun t => t + 60000000 < s.clk then s
    else
      let node := vcnNode c.vcn
      let cross (o : Nat) : Vcn := BitVec.ofNat 16 (256 * node + u8 m o)
      let crossUsed (o : Nat) : Bool := !(zeros m o 12)
      let c := if r.vcn = c.vcn then
          let ok := isValid r.status && r.status &&& 0xE0 == 0
          { c with recs := (r.time, stage2Of s r, ok) :: c.recs
                   startClk := some (c.startClk.getD s.clk)
                   clean := if bit (u8 m 2) 1 then airNow s (cross 5) :: c.clean else c.clean }
        else c
      let c := if c.recs.isEmpty then c
        else
          let c := if crossUsed 80 && r.vcn == cross 80 then { c with cross0 := r.value :: c.cross0 } else c
          let c := if crossUsed 92 && r.vcn == cross 92 then { c with cross1 := r.value :: c.cross1 } else c
          if bit (u8 m 2) 1 && r.vcn == cross 5 then
            { c with clean := airReading r :: c.clean } else c
      { s with cal := { s.cal with run := some c } }

/-! The result store. -/

/-- The entry holds a later frame sequence than an arriving record (R673). -/
def heldLater (e : VcnEntry) (r : Record) : Bool :=
  match e.record with
  | none => false
  | some h => let d := (h.seq - r.seq).toNat; 1 ≤ d && d ≤ 2 ^ 31 - 1

/-- The entry after a record of its VCN. -/
def putRecord (r : Record) (e : VcnEntry) : VcnEntry :=
  { e with record := some r, skipped := 0, lastValid := if isValid r.status then some (r.value, r.time) else e.lastValid }

/-- Ratio outputs whose source is `v`. -/
def aoutsOf (s : State) (v : Vcn) : List (Fin 2) := [0, 1].filter fun n => aoutPresent s n && aoutVcn s n == v

/-- A record of a ratio output's source has come: the frames without one count anew, and the hold of a reset ends (R438). -/
def ratioNote (s : State) (n : Fin 2) : State :=
  let s := { s with spill := { s.spill with aout := vmod s.spill.aout n fun o => { o with missing := 0, recordClk := s.clk } } }
  if isActive s then endHold s n else s

/-- A frame of a ratio output's source ended without a record (table Ratio output state). -/
def ratioMiss (s : State) (n : Fin 2) : State :=
  refreshAout { s with spill := { s.spill with aout := vmod s.spill.aout n fun o => { o with missing := min 3 (o.missing + 1) } } } n

/-- A frame of a VCN ended without a record (R671). -/
def skipVcn (s : State) (v : Vcn) : State := (aoutsOf s v).foldl ratioMiss (modEntry s v skipEntry)

/-- A frame of a VCN starts (R670). -/
def startVcn (s : State) (v : Vcn) : State := modEntry s v fun e => { e with frameSeq := nextSeq e.frameSeq }

/-- A local index of R614's slower kind. -/
def slowIndex (i : Nat) : Bool := (0x28 ≤ i && i ≤ 0x2F) || (0x80 ≤ i && i ≤ 0x8F)

/-- Append a record to the backlog of an autonomous pod (R641). -/
def backlogPut (p : Pod) (r : Record) : Pod :=
  if p.backlog.length < 4096 then { p with backlog := p.backlog ++ [r] }
  else { p with backlog := p.backlog.drop 1 ++ [r], lostBacklog := sat16 p.lostBacklog }

/-- A pod's new record goes into its pending area, or into its backlog while it is autonomous (R614, R627, R641). -/
def podTake (p : Pod) (clk : Nat) (r : Record) : Pod :=
  if p.autonomous then backlogPut p r
  else
    let kept := if slowIndex (vcnIndex r.vcn) then p.pending.filter fun x => x.record.vcn != r.vcn else p.pending
    let l := kept ++ [{ record := r, clk := clk, due := none }]
    if kept.length + p.sentRecs.length + p.backlog.length < 4096 then { p with pending := l }
    else { p with pending := l.drop 1, lostPending := sat16 p.lostPending }

/-- LATE on the records of a calibration run that a slot started late (17, status word). -/
def lateForm (s : State) (r : Record) : Record :=
  match s.cal.run with
  | none => r
  | some c => if c.late && c.vcn == r.vcn then { r with status := setFlag r.status 12 } else r

/-- A record that is kept: the store and what reads it there, then Spillway, then ratio outputs, encoders (13), the calibration window (10) and
a pod's pending area (16). `bad`: the rules whose evaluators differ (R398). -/
def keepRecord (s : State) (r : Record) (bad : List (Fin 256)) : State :=
  let r := lateForm s r
  let outs := aoutsOf s r.vcn
  let s := outs.foldl ratioNote (modEntry s r.vcn (putRecord r))
  let (s, r) := spillRecord s r (vcnUsAt s r.vcn (nearTime s r.time) : Rat) bad
  let s := outs.foldl refreshAout (modEntry s r.vcn fun e => { e with record := some r })
  let s := calCollect (encodeRecord s r) r
  if s.role == .pod then { s with course := { s.course with pod := podTake s.course.pod s.clk r } } else s

/-- The path of a record into the store (R673): a later one held stands, and a record of a VCN that is not known is discarded (R719). One that comes
behind a later one is a record of the calibration window all the same (R393). -/
def storeRecord (s : State) (r : Record) (bad : List (Fin 256)) : State :=
  match entryOf s r.vcn with
  | none => s
  | some e => if heldLater e r then calCollect (logRecord s 0x04 r) r else keepRecord s r bad

/-- The MISSING record that follows the entry of a VCN (R636). Its raw field is open; without a record before it, so are the sequence, which
is not 0 (R670), and the timestamp (log 8). -/
def missingRecord (s : State) (v : Vcn) (e : VcnEntry) : Record × State :=
  let (raw, s) := drawFree s
  let r : Record := { vcn := v, status := setFlag 0 7, seq := 1, time := 0, value := qnan, raw := raw, age := 1 }
  match e.record with
  | some old => ({ r with seq := old.seq, time := old.time, age := sat16 old.age }, s)
  | none =>
    let (q, s) := drawFree s
    let (a, s) := drawFree s
    let (b, s) := drawFree s
    ({ r with seq := if q = 0 then 1 else q, time := BitVec.ofNat 48 (a.toNat + 65536 * b.toNat) }, s)

/-- The count at which the frame that ends here has ended: the boundary, which a slewing count may have passed by one (R670). -/
def frameEnd (s : State) : Count48 :=
  (plumb56 (if inSafe s && onCount s 1000000 then wholeTime s 1000000 else gridTime s)).1

/-- A record of this node's own channel at the end of its frame, with the frame's sequence and age, into the store (R670, R671). -/
def ownRecord (s : State) (idx : Nat) (x : F32) (raw : BitVec 32) (b : StatusBits) (bad : List (Fin 256)) : State :=
  let v := ownVcn s idx
  match entryOf s v with
  | none => s
  | some e =>
    storeRecord s { vcn := v, status := b.word, seq := e.frameSeq, time := frameEnd s, value := x, raw := raw,
                    age := BitVec.ofNat 16 (min 0xFFFF e.skipped) } bad

/-- The same through stages 2 and 3 (R352 - R363). `lin`: the local indices whose duplicate linearisations differ: code 0x02, and VALID
clear (R755). -/
def emitRecord (s : State) (idx : Nat) (x : F32) (raw : BitVec 32) (b : StatusBits) (lin : List Nat) (bad : List (Fin 256)) : State :=
  let (y, b) := linearise s idx x b
  let m := lin.contains idx && (entryOf s (ownVcn s idx)).isSome
  ownRecord (if m then noteOpen s 0x02 false else s) idx y raw (if m then { b with valid := false } else b) bad

end Sys2Proof.Machine
end

