-- ==== Sys2Proof/Machine/FlashOps.lean ====
section
/-! DEFINITION. The attached flash as bytes, and the Render sectors (03, 10). -/

namespace Sys2Proof.Machine

/-- Bytes from address `a` on, the entries below it gone. -/
def readFrom : Nat → List (Nat × Byte) → Nat → List Byte
  | 0, _, _ => []
  | n + 1, [], a => 0xFF :: readFrom n [] (a + 1)
  | n + 1, (k, b) :: r, a => if k = a then b :: readFrom n r (a + 1) else 0xFF :: readFrom n ((k, b) :: r) (a + 1)

/-- `n` bytes at `a`; without a device the lines read one value (R84). -/
def flashRead (c : FlashChip) (a n : Nat) : List Byte :=
  if c.present then readFrom n (c.content.dropWhile fun p => p.1 < a) a else List.replicate n c.missingByte

/-- Entries of a byte list that are not 0xFF. -/
def flashCells : List Byte → Nat → List (Nat × Byte)
  | [], _ => []
  | b :: r, a => if b = 0xFF then flashCells r (a + 1) else (a, b) :: flashCells r (a + 1)

/-- Replace the bytes from `a` on. -/
def flashWrite (c : FlashChip) (a : Nat) (bytes : List Byte) : FlashChip :=
  if c.present then
    { c with content := (c.content.takeWhile fun p => p.1 < a) ++ flashCells bytes a ++
                        (c.content.dropWhile fun p => p.1 < a + bytes.length) }
  else c

/-- Offset and capacity of slot `i` of the anchor in use. -/
def slotOf (s : State) (i : Fin 8) : Option (Nat × Nat) := s.boot.slots[i]

/-- Slot of Render sector `n`. -/
def renderSlot (n : Fin 2) : Fin 8 := ⟨6 + n.val, by omega⟩

/-- Render can be written (R117). -/
def renderAvailable (s : State) : Bool :=
  s.role == .head && s.boot.erase4k && (slotOf s 6).isSome && (slotOf s 7).isSome

/-- A Render entry of 24 bytes stands (table Render entry). -/
def renderEntryOk (b : List Byte) (prev : Option Nat) : Bool :=
  let v := u16 b 0
  let zero := bit (u8 b 4) 0
  let span := bit (u8 b 4) 1
  trimmedIndex (v % 256) && v / 256 ≤ 250 && u16 b 2 != 0 && u8 b 4 ≤ 3 && u8 b 4 != 0 &&
    (match prev with
     | none => true
     | some p => decide (p < v)) &&
    isFinite (f32At b 12) && isFinite (f32At b 16) && (zero || (f32At b 12 == 0 && f32At b 16 == 0)) &&
    fle 0x3F000000 (f32At b 20) && fle (f32At b 20) 0x40000000 && (span || f32At b 20 == 0x3F800000)

/-- The entry of 24 bytes. -/
def renderEntryOf (b : List Byte) : RenderEntry :=
  { vcn := BitVec.ofNat 16 (u16 b 0), tag := BitVec.ofNat 16 (u16 b 2), zero := bit (u8 b 4) 0, span := bit (u8 b 4) 1
    era := BitVec.ofNat 8 (u8 b 5), time := BitVec.ofNat 48 (le b 6 6), yz := f32At b 12, cz := f32At b 16, g := f32At b 20 }

/-- The 24 bytes of an entry. -/
def renderEntryBytes (e : RenderEntry) : List Byte :=
  toLE 2 e.vcn.toNat ++ toLE 2 e.tag.toNat ++ [(if e.zero then 1 else 0) + (if e.span then 2 else 0), e.era] ++ toLE 6 e.time.toNat ++
    toLE 4 e.yz.toNat ++ toLE 4 e.cz.toNat ++ toLE 4 e.g.toNat

/-- `n` entries in order; none when one fails. -/
def renderEntriesOf : Nat → Option Nat → List Byte → Option (List RenderEntry)
  | 0, _, _ => some []
  | n + 1, prev, b =>
    let e := b.take 24
    if renderEntryOk e prev then (renderEntriesOf n (some (u16 e 0)) (b.drop 24)).map fun r => renderEntryOf e :: r else none

/-- A Render sector of 4096 bytes: the copy it holds when it is valid (R366, R367). -/
def parseRender (sector : Fin 2) (b : List Byte) : Option RenderCopy :=
  let n := u16 b 6
  let head := b.take 4 == [0x59, 0x4E, 0x52, 0x44] && u8 b 4 == 1 && u8 b 5 == 0 && decide (n ≤ 168) && u32 b 8 != 0xFFFFFFFF &&
    u8 b 19 == 0 && zeros b 24 8 && zeros b (32 + 24 * n) (4060 - 24 * n) && crc32 (b.take 4092) == f32At b 4092
  if head then
    (renderEntriesOf n none (b.drop 32)).map fun l => { sector := sector, sequence := BitVec.ofNat 32 (u32 b 8), entries := l }
  else none

/-- Configuration ID of section 0x01, 0 without it. -/
def configId (s : State) : Nat := u32 (sec s 1) 28

/-- The 4096 bytes of a sector with those entries (R366). -/
def renderImage (s : State) (seq : BitVec 32) (l : List RenderEntry) : List Byte :=
  let body := [0x59, 0x4E, 0x52, 0x44, 1, 0] ++ toLE 2 l.length ++ toLE 4 seq.toNat ++ toLE 6 s.time.count.toNat ++ [s.time.era, 0] ++
    toLE 4 (configId s) ++ List.replicate 8 0 ++ l.flatMap renderEntryBytes
  let p := body ++ List.replicate (4092 - body.length) 0
  p ++ toLE 4 (crc32 p).toNat

/-- Put an entry into an ascending list in place of one of its VCN. -/
def putEntry (l : List RenderEntry) (e : RenderEntry) : List RenderEntry :=
  match l with
  | [] => [e]
  | x :: r => if e.vcn < x.vcn then e :: x :: r else if e.vcn = x.vcn then e :: r else x :: putEntry r e

/-- The sub-image the pod map assigns to an address, 0 for none. -/
def mapSub (s : State) (node : Nat) : Byte :=
  let p := sec s 0x0E
  match (List.range (u8 p 1)).find? fun k => u8 p (17 + 12 * k) == node with
  | some k => BitVec.ofNat 8 (u8 p (18 + 12 * k))
  | none => 0

/-- The sub-image assigned to a pod: at its plan or adoption, and before it is found by the pod map. -/
def assignedSub (s : State) (node : Nat) : Byte :=
  match nodeOf s node with
  | some x => if x.sub = 0 then mapSub s node else x.sub
  | none => mapSub s node

/-- The section 0x0A an entry's node runs on, when its node has one assigned (R362). -/
def entryJudge (s : State) (e : RenderEntry) : Option (List Byte) :=
  let n := vcnNode e.vcn
  let sub := assignedSub s n
  if n = 0 then some (sec s 0x0A) else if sub = 0 then none else s.config.map fun c => isec (subImageOf c sub) 0x0A

/-- Entries whose tag is not that of the model bound to their VCN (R362). -/
def mismatchCount (s : State) : Nat :=
  ((renderEntries s).filter fun e =>
    match entryJudge s e with
    | none => false
    | some p => (boundModel p (vcnIndex e.vcn)).map modelTag != some e.tag).length

end Sys2Proof.Machine
end

