-- ==== Sys2Proof/Machine/HostOps.lean ====
section
/-! DEFINITION. Host frames: the checks of R658, responses, the command frame. -/

namespace Sys2Proof.Machine

/-- The host port answers at all: not with the power-on reset asserted, nor in a warm reset, nor before RESETn has
risen (R692, R653). -/
def hostAnswers (s : State) : Bool :=
  match s.phase with
  | .porHold | .reset _ | .waitResetn => false
  | _ => true

/-- The payload bytes the device takes: as many as the length field says. -/
def framePayload (f : HostFrame) (pay : List Byte) : List Byte := pay.take f.length.toNat

/-- The 6 header bytes (table Header). -/
def headerBytes (op : Byte) (f : HostFrame) (addr : Nat) : List Byte :=
  [op, f.flags] ++ toLE 2 addr ++ toLE 2 f.length.toNat

/-- An opcode that the opcode table reserves. -/
def reservedOpcode (b : Byte) : Bool := !([0x01, 0x02, 0x03, 0x04, 0x05, 0x06, 0x10] : List Byte).contains b

/-- A command code that the command table gives no command; 0x00 is none of its codes either. -/
def reservedCommand (b : Byte) : Bool :=
  let n := b.toNat
  n == 0 || (0x0C ≤ n && n ≤ 0x1F) || (0x25 < n && n < 0x28) || 0x2C < n

/-- The codes beyond the command table, which the model takes for those of the vendor test commands (R819; DESIGN CHOICE, log 93). -/
def vendorCode (b : Byte) : Bool := 0x30 ≤ b.toNat

/-- In production test a vendor test command is refused with LOCKED without a TEST session (R819). -/
def vendorLocked (s : State) (b : Byte) : Bool := s.phase == .production && vendorCode b && s.gate.sessions[2].isNone

/-- A byte at offset `i` of the payload of command `code` that is a reserved code there: command code, mode, heater action, calibration kind. -/
def reservedByte (code : Byte) (i : Nat) (b : Byte) : Bool :=
  match code.toNat, i with
  | _, 0 => reservedCommand b
  | 0x01, 4 => 2 < b.toNat
  | 0x05, 5 => 3 < b.toNat
  | 0x07, 6 => 6 < b.toNat
  | _, _ => false

/-- Checks 1 to 4 of R658. `addr` the address sent, `lenOk` the opcode's length rule, `pay` its payload (none for an
opcode without one), `identity` a READ wholly within the identity page, `gate` a Gate or a vendor test command (R819). -/
def frameCheck (s : State) (op : Byte) (f : HostFrame) (addr : Nat) (lenOk : Bool) (pay : Option (List Byte))
    (identity gate : Bool) : Byte :=
  let crc := f.flags.getLsbD 0
  if crc && crc16 (headerBytes (if reservedOpcode f.opcode then f.opcode else op) f addr) != f.headerCrc then stCrcError
  else if !crc && crcRequired s then stCrcError
  else if reservedOpcode f.opcode || f.flags &&& 0xFE != 0 || !lenOk then stBadArg
  else if !isRunning s && !identity && !(s.phase == .production && gate) then stBusy
  else
    match pay with
    | none => stOk
    | some p => if crc && f.length != 0 && crc16 p != f.payloadCrc then stCrcError else stOk

/-- The request is complete: every payload byte its length field announces has come (R660). A frame of a reserved opcode has no payload. -/
def frameComplete (f : HostFrame) (pay : List Byte) : Bool := reservedOpcode f.opcode || f.length.toNat ≤ pay.length

/-- Answer a frame: status, data, and the CRC when the request's CRC flag is set; kept for REPLAY (R662). -/
def respond (s : State) (f : HostFrame) (st : Byte) (data : List Byte) (e : ReadEffect) : State :=
  let body := st :: data
  let r := if f.flags.getLsbD 0 then body ++ toLE 2 (crc16 body).toNat else body
  { s with host := { s.host with response := r, stored := some r, effect := e } }

/-- Byte `i` on HSDO from the end of a request on, with `fill` fill bytes before the marker: fill, marker, the response, then 0xFF for as long
as the host clocks (R654, R655, table Host frame). -/
def hsdoByte (s : State) (fill : Fin 129) (i : Nat) : Byte :=
  if i < fill.val then 0xFF else if i = fill.val then 0xA5 else s.host.response.getD (i - fill.val - 1) 0xFF

/-- Bits of a byte on the host port: the most significant first (R652). -/
def hostBits (b : Byte) : List Bool := (List.range 8).map fun i => b.getLsbD (7 - i)

/-- Level that HIRQn is driven to, none where it is released or high-impedance (R50, R686). -/
def hirqLevel (s : State) : Option Bool :=
  if hirqAsserted s then some false else if isRunning s && cfgPushPull s then some true else none

/-- Answer without data or effect. -/
def answer (s : State) (f : HostFrame) (st : Byte) : State := respond s f st [] .none

/-- A COMMAND or WRITE frame that passed checks 1 - 4: overdue sessions end (R793), the timers of the others restart (R788). -/
def sessionActivity (s : State) : State :=
  let s := expireSessions s
  { s with gate := { s.gate with sessions := s.gate.sessions.map fun o => o.map fun _ => s.clk } }

/-- Last command and its status (mode and commands page). -/
def noteCommand (s : State) (code st : Byte) : State :=
  { s with host := { s.host with lastCmd := code, lastStatus := st } }

/-- Replace the bytes of a payload that the row fixes, as far as the payload reaches. -/
def fixBytes (p : List Byte) : List (Nat × Byte) → List Byte
  | [] => p
  | (i, b) :: l => fixBytes (setAt p i b) l

/-- The payload of a COMMAND frame of a row: its command code and the bytes `fix`, but for a reserved code that the frame itself carries. -/
def rowPayload (f : HostFrame) (code : Byte) (fix : List (Nat × Byte)) : List Byte :=
  framePayload f (fixBytes f.payload (((0, code) :: fix).filter fun x => !reservedByte code x.1 (f.payload.getD x.1 1)))

/-- A COMMAND frame (R658, R665, R666): `code` and `fix` the bytes the row fixes, `argOk` its number of argument bytes,
`body` the command's own refusals and effect on its arguments. An incomplete frame has no effect (R660); a complete one finds the sessions that are
overdue ended (R793). -/
def commandFrame (s : State) (f : HostFrame) (code : Byte) (fix : List (Nat × Byte)) (argOk : Nat → Bool)
    (body : State → List Byte → Byte × State) : State :=
  let pay := rowPayload f code fix
  let got := pay.getD 0 code
  if !hostAnswers s || !frameComplete f f.payload then s
  else
    let gate := (0x20 ≤ got.toNat && got.toNat ≤ 0x27) || vendorCode got
    let c := frameCheck s 0x10 f f.address.toNat (f.address == 0 && 4 ≤ f.length.toNat && f.length.toNat ≤ 256)
      (some pay) false gate
    if c != stOk then answer (expireSessions s) f c
    else
      let s := sessionActivity s
      let args := pay.drop 4
      if vendorLocked s got then answer (noteCommand s got stLocked) f stLocked
      else if reservedCommand got || !zeros pay 1 3 || !argOk args.length then answer (noteCommand s got stBadArg) f stBadArg
      else
        let (st, s) := body s args
        answer (noteCommand s code st) f st

/-- A WRITE frame at an address: `body` the fields' own checks and effect. -/
def writeFrame (s : State) (f : HostFrame) (addr : Nat) (fix : List (Nat × Byte))
    (body : State → Nat → List Byte → Byte × State) : State :=
  let pay := framePayload f (fixBytes f.payload fix)
  if !hostAnswers s || !frameComplete f f.payload then s
  else
    let lenOk := 1 ≤ f.length.toNat && f.length.toNat ≤ 256 && addr + f.length.toNat ≤ 0x10000
    let c := frameCheck s 0x02 f addr lenOk (some pay) false false
    if c != stOk then answer (expireSessions s) f c
    else
      let (st, s) := body (sessionActivity s) addr pay
      answer s f st

/-- The argument count is `n`. -/
def argCount (n : Nat) (k : Nat) : Bool := k == n

end Sys2Proof.Machine
end

