-- ==== Sys2Proof/Machine/Calibration.lean ====
section
/-! DEFINITION. The meanings of the calibration commands and of the Render writes (10). -/

namespace Sys2Proof.Machine

/-- Code of a kind (table Calibration kinds). -/
def calCode : CalKind → Byte
  | .zero => 0
  | .span => 1
  | .first => 2
  | .second => 3
  | .clear => 4
  | .abort => 5
  | .verify => 6

/-- A zero is judged (kinds 0x00, 0x02, 0x06), or a span (0x01, 0x03). -/
def calZeroKind : CalKind → Bool
  | .zero | .first | .verify => true
  | _ => false
def calSpanKind : CalKind → Bool
  | .span | .second => true
  | _ => false

/-- A run or a Render write is in progress (R381). -/
def calBusy (s : State) : Bool := s.cal.run.isSome || s.cal.stage != .idle || s.cal.waiting

/-- A node of a VCN is present: this node, or a pod that has joined, lost or not (R12). -/
def nodePresent (s : State) (n : Nat) : Bool :=
  n == (ownNode s).toNat ||
    match nodeOf s n with
    | none => false
    | some x => x.state == .joined || x.state == .lost

/-- Status of a VCN a command names: OK, UNKNOWN_VCN, or INCOMPATIBLE for a pod parked so (R385, R669). -/
def vcnStatus (s : State) (v : Vcn) : Byte :=
  let n := vcnNode v
  if (nodeOf s n).any fun x => x.state == .parkedIncompatible then stIncompatible
  else if !assignedIndex (vcnIndex v) || 250 < n || !nodePresent s n then stUnknownVcn
  else stOk

/-- The model bound to a VCN on its node. -/
def modelOfVcn (s : State) (v : Vcn) : Option (List Byte) := boundModel (nodeSec s (vcnNode v) 0x0A) (vcnIndex v)

/-- The entry of a VCN that R362 lets apply. -/
def calEntry (s : State) (v : Vcn) : Option RenderEntry :=
  match modelOfVcn s v with
  | none => none
  | some m => (renderEntries s).find? fun e => e.vcn == v && e.tag == modelTag m

/-- y_z and C_z a span is measured against (R374): the pending zero's for the second part, whose entry they go into; a span (kind 0x01) keeps
those of the entry in force (R379), so it is measured against those (log 114). -/
def calBase (s : State) (k : CalKind) (v : Vcn) : F32 × F32 :=
  let entry : F32 × F32 := match calEntry s v with
    | some e => (e.yz, e.cz)
    | none => (0, 0)
  match k, s.cal.pending with
  | .second, some (_, _, yz, cz, _) => (yz, cz)
  | _, _ => entry

/-- The pending zero is one of that VCN. -/
def pendingIs (s : State) (v : Vcn) : Bool :=
  match s.cal.pending with
  | none => false
  | some p => p.1 == v

/-- The refusals of R385 after the first, in the table's order. -/
def calRefusal (s : State) (k : CalKind) (v : Vcn) (reserved : Bool) (ref : F32) : Byte :=
  let c := vcnStatus s v
  let m := modelOfVcn s v
  let free := !(k == .clear || k == .abort || k == .verify)
  if inSafe s then stNotInMode
  else if c != stOk then c
  else if reserved || !isFinite ref || (!free && ref != 0) || m.isNone || (k == .second && !pendingIs s v) then stBadArg
  else if calSpanKind k && decide (ratAbs (toRatD ref - toRatD (calBase s k v).2) < toRatD (f32At (m.getD []) 76)) then stBadArg
  else if (k != .abort && k != .verify && !renderAvailable s) ||
      (free && (calEntry s v).isNone && 168 ≤ (renderEntries s).length) then stCapacity
  else if k != .abort && calBusy s then stBusy
  else stOk

/-- A run's page entries at its start. -/
def calNote (s : State) (k : CalKind) (v : Vcn) : State :=
  { s with cal := { s.cal with lastKind := calCode k, outcome := 0xFF, lastVcn := v, mFirst := 0, mLast := 0, drift := 0, ratio := 0,
                               failCross := 0xFFFF, writeFailed := false } }

/-- A run starts (R386). -/
def calStart (s : State) (k : CalKind) (v : Vcn) (ref : F32) (late : Bool) : State :=
  let s := calNote s k v
  { s with cal := { s.cal with run := some { kind := k, vcn := v, ref := ref, recs := [], cross0 := [], cross1 := [], clean := [],
                                             late := late, write := none } } }

/-! Writing Render (R369 - R371). -/

/-- A write of those entries begins, or waits for a flash check (R816). -/
def renderBegin (s : State) (l : List RenderEntry) : State :=
  let (sector, seq) : Fin 2 × BitVec 32 := match s.cal.render with
    | none => (0, 1)
    | some c => (c.sector + 1, if c.sequence = 0xFFFFFFFE then 0 else c.sequence + 1)
  let wait := s.link.flashRunning
  { s with cal := { s.cal with sector := sector, image := renderImage s seq l, waiting := wait, stage := if wait then .idle else .erasing
                               stageClk := s.clk } }

/-- The entry an accepted run writes (R379, R394). -/
def calNewEntry (s : State) (c : CalRun) (mLast r : F32) : RenderEntry :=
  let tag := modelTag ((modelOfVcn s c.vcn).getD [])
  let base := (calEntry s c.vcn).getD
    { vcn := c.vcn, tag := tag, zero := false, span := false, era := 0, time := 0, yz := 0, cz := 0, g := 0x3F800000 }
  let e := { base with tag := tag, era := s.time.era, time := s.time.count }
  match c.kind with
  | .zero => { e with yz := mLast, cz := c.ref, zero := true }
  | .second =>
    let b := calBase s .second c.vcn
    { e with yz := b.1, cz := b.2, zero := true, g := fdiv 0x3F800000 r, span := true }
  | _ => { e with g := fdiv 0x3F800000 r, span := true }

/-! The checks at the end of the window (R372 - R377). -/

/-- Mean of values, a NaN where one is not finite or there is none. -/
def meanF (l : List F32) : F32 :=
  if l.isEmpty || l.any (fun x => !isFinite x) then qnan else ofRat ((l.map toRatD).sum / (l.length : Rat))

/-- Time of a record after the window's first one, in microseconds; the window is 60 s. -/
def windowRecs (c : CalRun) : List (Nat × F32 × Bool) :=
  match c.recs.getLast? with
  | none => []
  | some (t0, _, _) => (c.recs.reverse.map fun r => ((r.1 - t0).toNat, r.2.1, r.2.2)).filter fun r => r.1 ≤ 60000000

/-- No two records in a row are more than 2 s apart (R393). -/
def gapsOk : List Nat → Bool
  | a :: b :: r => b ≤ a + 2000000 && gapsOk (b :: r)
  | _ => true

/-- Times in ascending order: a record may reach the head behind a later one (R393, R673). -/
def insertTime (t : Nat) : List Nat → List Nat
  | [] => [t]
  | a :: r => if t ≤ a then t :: a :: r else a :: insertTime t r
def sortTimes (l : List Nat) : List Nat := l.foldr insertTime []

/-- What a window gives. -/
structure CalResult where
  mFirst : F32
  mLast : F32
  drift : F32
  /-- r, or the zero offset. -/
  ratio : F32
  outcome : Byte
  failCross : Vcn
  /-- The clean-air part was skipped (R376). -/
  skipped : Bool
  deriving DecidableEq, Repr

/-- The absolute value is at most a limit. -/
def within (x lim : F32) : Bool := fle (x &&& 0x7FFFFFFF) lim

/-- The cross-check of R375: the first VCN that fails, and whether the clean-air part was skipped. -/
def crossCheck (c : CalRun) (m : List Byte) : Option Vcn × Bool :=
  let node := vcnNode c.vcn
  let one (o : Nat) (l : List F32) : Option Vcn :=
    if zeros m o 12 then none
    else
      let x := meanF l
      if fle (f32At m (o + 4)) x && fle x (f32At m (o + 8)) then none else some (BitVec.ofNat 16 (256 * node + u8 m o))
  let clean := calZeroKind c.kind && bit (u8 m 2) 1
  let skip := clean && c.clean.all (·.isNone)
  let air := if clean && !skip && !c.clean.all (· == some true) then some (BitVec.ofNat 16 (256 * node + u8 m 5)) else none
  ((one 80 c.cross0).or ((one 92 c.cross1).or air), skip)

/-- The outcome of a run (R377). -/
def calJudge (s : State) (c : CalRun) : CalResult :=
  let m := (modelOfVcn s c.vcn).getD []
  let l := windowRecs c
  let mF := meanF ((l.filter fun r => r.1 ≤ 10000000).map (·.2.1))
  let mL := meanF ((l.filter fun r => 50000000 ≤ r.1).map (·.2.1))
  let drift := fsub mL mF
  let b := calBase s c.kind c.vcn
  let r := if calSpanKind c.kind then fdiv (fsub mL b.1) (fsub c.ref b.2) else fsub mL c.ref
  let stable := l.all (·.2.2) && within drift (f32At m 72) && (vcnNode c.vcn == (ownNode s).toNat || gapsOk (sortTimes (l.map (·.1))))
  let plausible := if calSpanKind c.kind then fle 0x3F000000 r && fle r 0x40000000 else within r (f32At m 68)
  let (bad, skip) := crossCheck c m
  let outcome := if !stable then stStability else if !plausible then stPlausibility else if bad.isSome then stCrossCheck else stOk
  { mFirst := mF, mLast := mL, drift := drift, ratio := r, outcome := outcome,
    failCross := if outcome = stCrossCheck then bad.getD 0xFFFF else 0xFFFF, skipped := skip }

/-- A log entry of kind 0x0C. -/
def logCal (s : State) (v : Vcn) (outcome : Byte) (mLast : F32) : State :=
  logGeneral s 0x0C (BitVec.ofNat 8 (vcnNode v)) v.toNat outcome.toNat (toLE 4 mLast.toNat)

/-- A zero of an accepted first part is held as pending; where the CAL session has ended it is discarded at once (R391). -/
def holdZero (s : State) (c : CalRun) (yz : F32) : State :=
  let tag := modelTag ((modelOfVcn s c.vcn).getD [])
  { s with cal := { s.cal with pending := if hasCal s then some (c.vcn, tag, yz, c.ref, s.clk) else none } }

/-- CAL_RUN_END (R372 - R381): the window ends 60 s after its first record; an accepted run writes Render or holds its zero pending, a verify
run is logged. A run whose write is still to come has no outcome yet (R386). -/
def execCalRunEnd (s : State) : Host.Outcome State Fault Refusal :=
  match s.cal.run with
  | none => .next s
  | some c =>
    if c.write.isSome || c.kind == .clear || !c.startClk.any fun t => t + 60000000 ≤ s.clk then .next s
    else
      let r := calJudge s c
      let s := { s with cal := { s.cal with mFirst := r.mFirst, mLast := r.mLast, drift := r.drift, ratio := r.ratio, failCross := r.failCross } }
      let s := if r.skipped then logCal s c.vcn r.outcome r.mLast else s
      let s := if c.kind = .verify then logCal s c.vcn r.outcome r.mLast else s
      if r.outcome ≠ stOk then .next (calReject s r.outcome)
      else
        match c.kind with
        | .verify => .next { s with cal := { s.cal with run := none, outcome := stOk } }
        | .first =>
          let s := { s with cal := { s.cal with run := none, outcome := stOk } }
          .next (raise (holdZero s c r.mLast) 6 c.vcn.toNat)
        | k =>
          let e := calNewEntry s c r.mLast r.ratio
          let s := { s with cal := { s.cal with run := some { c with write := some e }
                                                pending := if k = .second then none else s.cal.pending } }
          .next (renderBegin s (putEntry (renderEntries s) e))

/-- The calibration command (R385, R386): `k` the row's kind, `body` its effect once it is accepted. A frame that carries a reserved kind runs no
kind: it is judged without the session test and refused with BAD_ARG at the latest. A clear answers OK at its acceptance (log 112). -/
def calCommand (s : State) (f : HostFrame) (k : CalKind) (body : State → Vcn → F32 → State) : State :=
  commandFrame s f 0x07 [(6, calCode k)] (argCount 8) fun s a =>
    let v : Vcn := BitVec.ofNat 16 (u16 a 0)
    let reserved := 6 < u8 a 2
    if k != .verify && !reserved && !hasCal s then (stLocked, s)
    else
      let c := calRefusal s k v (reserved || u8 a 3 != 0) (f32At a 4)
      if c != stOk then (c, s) else (stOk, body s v (f32At a 4))

/-- CAL_ZERO (R379). -/
def execCalZero (f : HostFrame) (s : State) : Host.Outcome State Fault Refusal :=
  .next (calCommand s f .zero fun s v r => calStart s .zero v r false)

/-- CAL_SPAN (R379). -/
def execCalSpan (f : HostFrame) (s : State) : Host.Outcome State Fault Refusal :=
  .next (calCommand s f .span fun s v r => calStart s .span v r false)

/-- CAL_TWO_POINT_FIRST (R380). -/
def execCalTwoPointFirst (f : HostFrame) (s : State) : Host.Outcome State Fault Refusal :=
  .next (calCommand s f .first fun s v r => calStart s .first v r false)

/-- CAL_TWO_POINT_SECOND (R379). -/
def execCalTwoPointSecond (f : HostFrame) (s : State) : Host.Outcome State Fault Refusal :=
  .next (calCommand s f .second fun s v r => calStart s .second v r false)

/-- CAL_VERIFY_ZERO (R385): checks only, no session needed. -/
def execCalVerifyZero (f : HostFrame) (s : State) : Host.Outcome State Fault Refusal :=
  .next (calCommand s f .verify fun s v r => calStart s .verify v r false)

/-- CAL_CLEAR (R392): the VCN's entry is taken out of Render; without one nothing is written. -/
def execCalClear (f : HostFrame) (s : State) : Host.Outcome State Fault Refusal :=
  .next (calCommand s f .clear fun s v _ =>
    if (renderEntries s).all fun e => e.vcn != v then s
    else renderBegin (calStart s .clear v 0 false) ((renderEntries s).filter fun e => e.vcn != v))

/-- CAL_ABORT (R380): a run in its window ends, a pending zero is discarded. A Render write in progress is completed (log 21). -/
def execCalAbort (f : HostFrame) (s : State) : Host.Outcome State Fault Refusal :=
  .next (calCommand s f .abort fun s _ _ =>
    let writing := s.cal.stage != .idle || s.cal.waiting
    { s with cal := { s.cal with pending := none, run := if writing then s.cal.run else none } })

/-- A second part is in progress: it uses the pending zero (R379, R380). -/
def secondRuns (s : State) : Bool := s.cal.run.any fun c => c.kind == .second

/-- PENDING_ZERO_EXPIRY (R380): 30 min have passed without a second part. -/
def execPendingZeroExpiry (s : State) : Host.Outcome State Fault Refusal :=
  match s.cal.pending with
  | none => .next s
  | some p => .next (if p.2.2.2.2 + 1800000000 ≤ s.clk && !secondRuns s then { s with cal := { s.cal with pending := none } } else s)

/-- Offset of the Render sector being written. -/
def renderOffset (s : State) (sector : Fin 2) : Nat := ((slotOf s (renderSlot sector)).getD (0, 0)).1

/-- A Render write fails (R371, R387): trims stay, the run is rejected with BUSY. -/
def renderFail (s : State) : State :=
  calReject { s with cal := { s.cal with stage := .idle, image := [], writeFailed := true } } stBusy

/-- A Render stage begins. -/
def setStage (s : State) (g : RenderStage) : State := { s with cal := { s.cal with stage := g, stageClk := s.clk } }

/-- The erase or page program in progress has not ended within 2 s (R371). -/
def renderLate (s : State) : Bool := decide (s.cal.stageClk + 2000000 < s.clk)

/-- RENDER_ERASE_COMPLETE (R369): the sector reads 0xFF, programming starts; the erase of an old sector ends the write. After 2 s the write
has failed (R371). -/
def execRenderEraseComplete (s : State) : Host.Outcome State Fault Refusal :=
  match s.cal.stage with
  | .erasing =>
    let t := { s with flash := flashWrite s.flash (renderOffset s s.cal.sector) (List.replicate 4096 0xFF) }
    .next (if renderLate s then renderFail t else setStage t (.programming 0))
  | .eraseOld =>
    .next (setStage { s with flash := flashWrite s.flash (renderOffset s (s.cal.sector + 1)) (List.replicate 4096 0xFF) } .idle)
  | _ => .next s

/-- RENDER_PAGE_PROGRAM_COMPLETE (R369): 256 bytes stand, the next page or the readback follows. After 2 s the write has failed (R371). -/
def execRenderPageProgramComplete (s : State) : Host.Outcome State Fault Refusal :=
  match s.cal.stage with
  | .programming p =>
    let t := { s with flash := flashWrite s.flash (renderOffset s s.cal.sector + 256 * p) ((s.cal.image.drop (256 * p)).take 256) }
    .next (if renderLate s then renderFail t else setStage t (if 15 ≤ p then .readback else .programming (p + 1)))
  | _ => .next s

/-- The new copy comes into use: each VCN whose entry changes keeps the old one to the end of its frame (R364), a pod is sent its
entries (R365). -/
def renderInstall (s : State) (c : RenderCopy) (v : Vcn) : State :=
  let old := (renderEntries s).find? fun e => e.vcn == v
  let s := if vcnNode v == 0 && channelOn s (vcnIndex v) then
      { s with cal := { s.cal with old := keepOld s.cal.old v old } }
    else s
  { s with cal := { s.cal with render := some c }
           course := { s.course with nodes := s.course.nodes.map fun n => if n.addr.toNat == vcnNode v then { n with renderPending := true } else n } }

/-- The sector just programmed as the chip holds it: `diff` are its bytes that stand otherwise than programmed. -/
def heldSector (s : State) (diff : List (Nat × Byte)) : State :=
  { s with flash := diff.foldl (fun c d => if d.1 < 4096 then flashWrite c (renderOffset s s.cal.sector + d.1) [d.2] else c) s.flash }

/-- RENDER_READBACK_COMPLETE (R369, R379): the sector as read passes the check of R367, the copy is in use and EV06 is raised for an accepted
run; or it fails. -/
def execRenderReadbackComplete (diff : List (Nat × Byte)) (s : State) : Host.Outcome State Fault Refusal :=
  if s.cal.stage ≠ .readback then .next s
  else
    let s := heldSector s diff
    match s.cal.run, parseRender s.cal.sector (flashRead s.flash (renderOffset s s.cal.sector) 4096) with
    | some c, some r =>
      let wrap := match s.cal.render with
        | none => false
        | some o => o.sequence == 0xFFFFFFFE
      let s := renderInstall s r c.vcn
      let s := { s with cal := { s.cal with stage := if wrap then .eraseOld else .idle, stageClk := s.clk, image := [], run := none
                                            outcome := stOk } }
      .next (if c.kind = .clear then s else raise s 6 c.vcn.toNat)
    | _, _ => .next (renderFail s)

/-- RENDER_WRITE_TIMEOUT (R371): 2 s have passed in an erase or a page program. -/
def execRenderWriteTimeout (s : State) : Host.Outcome State Fault Refusal :=
  if s.clk < s.cal.stageClk + 2000000 then .next s
  else
    match s.cal.stage with
    | .erasing | .programming _ => .next (renderFail s)
    | .eraseOld => .next { s with cal := { s.cal with stage := .idle } }
    | _ => .next s

end Sys2Proof.Machine
end

