-- ==== Sys2Proof/Machine/Mere.lean ====
section
/-! DEFINITION. Mere: the neuron update, spikes, Mortar, class outputs, stalls, the probe (12, 13). Times are compared as signed
differences modulo 2^32 (R460; log 20). -/

namespace Sys2Proof.Machine

/-- `b - a` modulo 2^32 as a signed number. -/
def since (a b : BitVec 32) : Int := (b - a).toInt

/-- Low 32 bits of the Plumb count now. -/
def now32 (s : State) : BitVec 32 := s.time.count.truncate 32

/-! Templates and neuron records. -/

/-- Template number of a neuron, and whether it is ENABLED. -/
def neuronWord (s : State) (t : Fin 8) (n : Nat) : Nat := u32 (netSec s (0x20 + t.val)) (4 * n)
def neuronOn (s : State) (t : Fin 8) (n : Nat) : Bool := tarnEnabled s t && bit (neuronWord s t n) 8

/-- The 48 bytes of a neuron's template. -/
def templateOf (s : State) (t : Fin 8) (n : Nat) : List Byte := ((netSec s (0x10 + t.val)).drop (48 * (neuronWord s t n % 256))).take 48

def tmWake (b : List Byte) : Bool := bit (u8 b 0) 0
def tmCouple (b : List Byte) (k : Nat) : Bool := bit (u8 b 0) k
def tmTau (b : List Byte) (k : Nat) : Nat := u16 b (2 + 2 * k)
/-- Refractory time and wake period in microseconds. -/
def tmRef (b : List Byte) : Nat := 100 * u16 b 10
def tmPeriod (b : List Byte) : Nat := 100 * u16 b 12
def tmShift (b : List Byte) (r : Nat) : Nat := field (u16 b 14) (4 * r) 4
def tmTheta (b : List Byte) : Int := signed 32 (u32 b 16)
def tmReset (b : List Byte) : Int := signed 32 (u32 b 20)
def tmGain (b : List Byte) (k : Nat) : Int := signed 16 (u16 b (22 + 2 * k))
def tmAdd (b : List Byte) (k : Nat) : Int := signed 32 (u32 b (28 + 4 * k))
def tmFloor (b : List Byte) : Int := (u32 b 44 : Nat)

/-- The record of R459 at a Mere start. -/
def startNeuron (t : Count48) : Neuron := { tLast := t.truncate 32, tLast40 := t.truncate 40, tR := t.truncate 32 }

/-- The record of a neuron. -/
def getNeuron (s : State) (t : Fin 8) (n : Nat) : Neuron := (s.mere.tarns[t].neurons.lookup n).getD (startNeuron s.mere.start)

/-- Put a pair into a list in ascending order of its key. -/
def putSorted (l : List (Nat × Neuron)) (n : Nat) (x : Neuron) : List (Nat × Neuron) :=
  match l with
  | [] => [(n, x)]
  | (m, y) :: r => if n < m then (n, x) :: (m, y) :: r else if n = m then (n, x) :: r else (m, y) :: putSorted r n x

/-- Write a neuron's record; the start record is not listed. -/
def setNeuron (s : State) (t : Fin 8) (n : Nat) (x : Neuron) : State :=
  let l := s.mere.tarns[t].neurons
  let l := if x = startNeuron s.mere.start then l.filter fun p => p.1 != n else putSorted l n x
  { s with mere := { s.mere with tarns := vmod s.mere.tarns t fun y => { y with neurons := l } } }

/-- Change a tarn. -/
def modTarn (s : State) (t : Fin 8) (f : Tarn → Tarn) : State := { s with mere := { s.mere with tarns := vmod s.mere.tarns t f } }

/-! The update (R453, R456 - R463). -/

/-- A neuron under update, with the saturations so far. -/
structure Update where
  x : Neuron
  sats : Nat
  deriving DecidableEq, Repr

/-- Saturation to the range of R451. -/
def sat24 (v : Int) : Int := if v < -8388608 then -8388608 else if 8388607 < v then 8388607 else v

/-- 1 when a result saturates (R453). -/
def satCount (v : Int) : Nat := if sat24 v = v then 0 else 1

/-- State variable `k`, and the record with another value of it. -/
def Neuron.get (x : Neuron) (k : Nat) : Int :=
  match k with
  | 0 => x.s0
  | 1 => x.s1
  | 2 => x.s2
  | _ => x.s3

def Neuron.put (x : Neuron) (k : Nat) (v : Int) : Neuron :=
  match k with
  | 0 => { x with s0 := v }
  | 1 => { x with s1 := v }
  | 2 => { x with s2 := v }
  | _ => { x with s3 := v }

/-- Store a saturated result. -/
def Update.put (u : Update) (k : Nat) (v : Int) : Update := { x := u.x.put k (sat24 v), sats := u.sats + satCount v }

/-- `mul(s, D(tau_k, d))`. -/
def mulDecay (b : List Byte) (k d : Nat) (v : Int) : Int := mulD v (decay (tmTau b k) d)

/-- s1 - s3 decay over `d` and s0 stands at V_reset: refractory time. -/
def decayHeld (b : List Byte) (d : Nat) (u : Update) : Update :=
  { u with x := { u.x with s0 := tmReset b, s1 := mulDecay b 1 d u.x.s1, s2 := mulDecay b 2 d u.x.s2, s3 := mulDecay b 3 d u.x.s3 } }

/-- One variable of `step`: the coupling into s0 before its own decay (R461). `v` stands in s0. -/
def stepVar (b : List Byte) (d k : Nat) (u : Update) : Update :=
  let dm : Int := decay (tmTau b 0) d
  let dk : Int := decay (tmTau b k) d
  let u' := if tmCouple b k then u.put 0 (u.x.s0 + mulG (tmGain b k) (mulD (u.x.get k) (dk - dm))) else u
  { u' with x := u'.x.put k (mulD (u.x.get k) dk) }

/-- `step(d)` of R460. -/
def stepNeuron (b : List Byte) (d : Nat) (u : Update) : Update :=
  let u := { u with x := { u.x with s0 := mulDecay b 0 d u.x.s0 } }
  stepVar b d 3 (stepVar b d 2 (stepVar b d 1 u))

/-- `advance(n, delta)` of R460. -/
def advance (b : List Byte) (d : Nat) (u : Update) : Update :=
  let x := u.x
  let t1 := x.tLast + BitVec.ofNat 32 d
  if 0 < since x.tLast x.tR ∧ 0 ≤ since x.tR t1 then
    let d1 := (x.tR - x.tLast).toNat
    stepNeuron b (d - d1) (decayHeld b d1 u)
  else if since x.tR t1 ≤ 0 then decayHeld b d u
  else stepNeuron b d u

/-- `in_refractory(n, t)`. -/
def inRefractory (x : Neuron) (t : BitVec 32) : Bool := decide (0 < since t x.tR)

/-- The gap to the last update is 2^31 microseconds or more (R460). The difference of the 40-bit times is taken modulo 2^40, and one that stands
for less than 2^31 ahead of Plumb, as after a backward step, is no gap (R485; DEDUCED, log 20). -/
def longGap (now40 t40 : BitVec 40) : Bool := let d := (now40 - t40).toNat; decide (2 ^ 31 ≤ d ∧ d ≤ 2 ^ 40 - 2 ^ 31)

/-- An event's time extended to 40 bits: of one held over a gating the latest at or before now, of any other the one nearest to now (R459, R479;
DEDUCED, log 20). -/
def time40 (now40 : BitVec 40) (t : BitVec 32) (held : Bool) : BitVec 40 :=
  let now32 : BitVec 32 := now40.truncate 32
  now40 - if held then BitVec.ofNat 40 (now32 - t).toNat else BitVec.ofInt 40 (since t now32)

/-- The elapsed time of R460: the neuron brought to the event's time, and whether it came out of order or after a long gap. -/
def elapse (b : List Byte) (now40 : BitVec 40) (t : BitVec 32) (held : Bool) (u : Update) : Update × Bool × Bool :=
  let x := u.x
  if longGap now40 x.tLast40 then
    let t40 := time40 now40 t held
    ({ u with x := { x with s0 := 0, s1 := 0, s2 := 0, s3 := 0, tR := t, tLast := t, tLast40 := t40 } }, false, true)
  else
    let late := 2 ^ 31 ≤ (t - x.tLast).toNat
    let d := if late then 0 else (t - x.tLast).toNat
    let u := advance b d u
    ({ u with x := { u.x with tLast := u.x.tLast + BitVec.ofNat 32 d, tLast40 := u.x.tLast40 + BitVec.ofNat 40 d } }, late, false)

/-- Receptor entry (R463, R470). -/
def receive (b : List Byte) (e : MereEvent) (u : Update) : Update :=
  let r := e.receptor.val
  if e.wake ∨ e.weight = 0 ∨ (r = 0 ∧ inRefractory u.x u.x.tLast) then u
  else u.put r (u.x.get r + e.weight * 2 ^ tmShift b r)

/-- The neuron spikes now (R460, R462). -/
def spikes (b : List Byte) (u : Update) : Bool := !inRefractory u.x u.x.tLast && decide (tmTheta b ≤ u.x.s0)

/-- `spike(n, t)` on the record. -/
def spikeNeuron (b : List Byte) (u : Update) : Update :=
  let u := { u with x := { u.x with s0 := tmReset b, tR := u.x.tLast + BitVec.ofNat 32 (max (tmRef b) 1) } }
  ((u.put 1 (u.x.s1 + tmAdd b 1)).put 2 (u.x.s2 + tmAdd b 2)).put 3 (u.x.s3 + tmAdd b 3)

/-- P of R466. -/
def wakeDrive (b : List Byte) (x : Neuron) : Int :=
  let c (k : Nat) : Int :=
    if !tmCouple b k then 0
    else if tmTau b 0 < tmTau b k then mulG (tmGain b k) (x.get k) else -(mulG (tmGain b k) (x.get k))
  c 1 + c 2 + c 3

/-- Due time of the wake that R466 requests, if it requests one. -/
def wakeRequest (b : List Byte) (x : Neuron) : Option (BitVec 32) :=
  if tmWake b ∧ x.s0 < tmTheta b ∧ tmFloor b < wakeDrive b x then
    let d := x.tLast + BitVec.ofNat 32 (tmPeriod b)
    some (if 0 < since d x.tR then x.tR else d)
  else none

/-! The wake queue (R465, R468, R469). -/

/-- The latest due of a queue; of several, the one queued first (log 20). -/
def latestWake : List (Nat × BitVec 32) → Option (Nat × BitVec 32)
  | [] => none
  | w :: r =>
    match latestWake r with
    | none => some w
    | some m => if 0 < since w.2 m.2 then some m else some w

/-- The earliest due; of several, the one queued first (log 20). -/
def earliestWake : List (Nat × BitVec 32) → Option (Nat × BitVec 32)
  | [] => none
  | w :: r =>
    match earliestWake r with
    | none => some w
    | some m => if since w.2 m.2 < 0 then some m else some w

/-- A FIFO event is a wake of neuron `n`. -/
def wakeOf (n : Nat) (e : MereEvent) : Bool := e.wake && e.target.toNat % 256 == n

/-- Neuron `n` keeps no pending wake: its queue entry goes, a wake event in the FIFO is cancelled (R465, R484). -/
def dropWake (s : State) (t : Fin 8) (n : Nat) : State :=
  let s := setNeuron s t n { getNeuron s t n with wake := none }
  modTarn s t fun y => { y with
    wakes := y.wakes.filter fun w => w.1 != n
    fifo := y.fifo.map fun e => if wakeOf n e then { e with cancelled := true } else e }

/-- Queue a wake of neuron `n`; a full queue drops one (R469). -/
def queueWake (s : State) (t : Fin 8) (n : Nat) (due : BitVec 32) : State :=
  let put (s : State) : State :=
    let s := setNeuron s t n { getNeuron s t n with wake := some due }
    modTarn s t fun y => { y with wakes := y.wakes ++ [(n, due)] }
  let count (s : State) : State := modTarn s t fun y => { y with wakeDrops := sat16 y.wakeDrops }
  let l := s.mere.tarns[t].wakes
  if l.length < 32 then put s
  else
    match latestWake l with
    | none => s
    | some m => if 0 < since due m.2 then put (count (dropWake s t m.1)) else count s

/-! Class frames (R497). -/

/-- Add a spike to the class frame that holds its time: `dt` microseconds after `frameEnd`; one at or before it goes to the first frame
still open. `us` is the present frame length. -/
def addSpike (us : Nat) (dt : Int) : List ClassFrame → List ClassFrame
  | [] =>
    if dt ≤ 0 then [{ spikes := 1, us := us, late := true }]
    else
      let k := (dt.toNat - 1) / us
      List.replicate k { spikes := 0, us := us, late := false } ++ [{ spikes := 1, us := us, late := false }]
  | f :: r =>
    if dt ≤ 0 then { f with spikes := f.spikes + 1, late := true } :: r
    else if dt ≤ f.us + f.move then { f with spikes := f.spikes + 1 } :: r
    else f :: addSpike us (dt - (f.us + f.move)) r

/-- A spike of neuron ID `id` enters every class bound to it. -/
def countSpike (s : State) (id : Nat) (t : BitVec 32) : State :=
  (List.finRange 64).foldl (fun s c =>
    if classBound s c.val && classNeuron s c.val == id then
      let us := classUs s
      { s with mere := { s.mere with classes := vmod s.mere.classes c fun x =>
        { x with frames := addSpike us (since (x.frameEnd.truncate 32) t) x.frames } } }
    else s) s

/-- How far the class frame of `us` microseconds in progress has run, on the grid that frames are counted on (R15, R497). -/
def frameRun (s : State) (us : Nat) : Nat := (((time56 (s.time.count, s.time.era) : Int) - s.time.anchor) % us).toNat

/-- End of the last class frame at or before now (R15, R497). -/
def lastFrameEnd (s : State) : Count48 := s.time.count - BitVec.ofNat 48 (frameRun s (classUs s))

/-! Double-bit errors in Mere's regions (R486, R717). -/

/-- A read finds an error: a single one is corrected and counted, a double one counted and reported; a scrub pass in which it was found ends no
code 0x08 (R744). -/
def noteEcc (s : State) : EccObs → State
  | .clean => s
  | .single => { s with log := { s.log with corrected := sat16 s.log.corrected } }
  | .double _ => noteOpen { s with log := { s.log with uncorrectable := sat8 s.log.uncorrectable, scrubBad := true } } 0x08 false

/-- The two 32-bit words of the 64-bit word that holds word `i` (R715). -/
def wordPair (i : Nat) : List Nat := [2 * (i / 2), 2 * (i / 2) + 1]

/-- Neuron `n`'s record goes to the state of R459 at the current time, without a pending wake; a long gap is counted. -/
def loseNeuron (s : State) (t : Fin 8) (n : Nat) : State :=
  let s := setNeuron (dropWake s t n) t n (startNeuron s.time.count)
  modTarn s t fun y => { y with longGaps := sat16 y.longGaps }

/-- The events read out from a word that turned out bad are not emitted. -/
def dropRead (y : Tarn) (bad : ReadEvent → Bool) : Tarn := { y with emitting := y.emitting.map fun l => l.filter fun e => !bad e }

/-- A word of neuron `n`'s destination list is bad. -/
def loseDest (s : State) (t : Fin 8) (n e : Nat) : State :=
  let l := wordPair e
  modTarn s t fun y =>
    let y := { y with badDest := l.map (fun i => (n, i)) ++ y.badDest }
    if (y.spikes.head?.map (·.1)) == some n then dropRead y fun r => l.contains r.entry else y

/-- A synapse word is bad. -/
def loseSynapse (s : State) (t : Fin 8) (w : Nat) : State :=
  let l := wordPair w
  modTarn s t fun y => dropRead { y with badSyn := l ++ y.badSyn } fun r => l.contains r.word

/-! One event (R454, R460). -/

/-- Write an update back with its spike and its wake. -/
def applyUpdate (s : State) (t : Fin 8) (n : Nat) (e : MereEvent) : State :=
  let b := templateOf s t n
  let s := dropWake s t n
  let u : Update := { x := getNeuron s t n, sats := 0 }
  let (u, late, gap) := elapse b (s.time.count.truncate 40) e.time e.held u
  let u := receive b e u
  let fires := spikes b u
  let at' := u.x.tLast
  let u := if fires then spikeNeuron b u else u
  let s := setNeuron s t n u.x
  let s := modTarn s t fun y => { y with
    outOfOrder := if late then sat16 y.outOfOrder else y.outOfOrder
    longGaps := if gap then sat16 y.longGaps else y.longGaps
    saturations := sat16Add y.saturations u.sats }
  let s := if fires then
      let s := modTarn s t fun y => { y with spikes := y.spikes ++ [(n, at')], spikeCount := y.spikeCount + 1
                                             spikeMark := max y.spikeMark (y.spikes.length + 1) }
      countSpike s (256 * t.val + n) at'
    else s
  match wakeRequest b u.x with
  | none => s
  | some d => queueWake s t n d

/-- The event a tarn takes lags by more than the limit (R504). -/
def eventLags (s : State) (e : MereEvent) : Bool :=
  let d := (now32 s - e.time).toNat
  decide (lagLimit s < d ∧ d < 2 ^ 31)

/-- A tarn's lag ends: its times are kept as far back as a class window reaches (R501). -/
def endLag (s : State) (t : Fin 8) : State :=
  match s.mere.tarns[t].lagging with
  | none => s
  | some a =>
    let c := s.time.count
    let l := s.mere.lagSpans.filter fun x => (c - x.2).toNat < 2 ^ 28
    let s := { s with mere := { s.mere with lagSpans := (a, c) :: l } }
    modTarn s t fun y => { y with lagging := none }

/-- A tarn takes an event that lags, or one that does not (R504, R505). -/
def noteLag (s : State) (t : Fin 8) (lags : Bool) : State :=
  if lags then mereDisturbed (modTarn s t fun y => { y with lagging := some (y.lagging.getD s.time.count) }) 2 else endLag s t

/-- A synaptic event is applied: the tarn's count and the aggregate (12, What the host sees). -/
def countApplied (s : State) (t : Fin 8) : State :=
  let s := modTarn s t fun y => { y with applied := y.applied + 1 }
  { s with mere := { s.mere with aggregate := s.mere.aggregate + 1 } }

/-- A tarn has completed an event: its time for the stall limit (R506). A tarn with an empty FIFO takes no event, so it does not lag (R504). -/
def eventDone (s : State) (t : Fin 8) : State :=
  let s := modTarn s t fun y => { y with busyClk := s.clk }
  if s.mere.tarns[t].fifo.isEmpty then endLag s t else s

/-- What reading a neuron's record finds; an error elsewhere is not this read's (R717). -/
def readNeuron (s : State) (t : Fin 8) (n : Nat) (err : EccObs) : State :=
  match err with
  | .double (.neuron t' n') => if t' = t ∧ n'.val = n then loseNeuron (noteEcc s err) t n else s
  | .single => noteEcc s err
  | _ => s

/-- MERE_EVENT_APPLY (R454, R460, R474, R484, R487, R504): the front event of the FIFO, unless the spike queue is full. `err`: what the read
of the neuron's record finds (R486). -/
def execMereEventApply (tarn : Fin 8) (err : EccObs) (s : State) : Host.Outcome State Fault Refusal :=
  let y := s.mere.tarns[tarn]
  match y.fifo with
  | [] => .next s
  | e :: rest =>
    if !mereRuns s || 16 ≤ y.spikes.length then .next s
    else
      let n := e.target.toNat % 256
      let t := modTarn s tarn fun y => { y with fifo := rest }
      let t := noteLag t tarn (eventLags s e)
      let takes := if e.wake then !e.cancelled else neuronOn s tarn n
      if !takes then .next (eventDone t tarn)
      else
        let t := readNeuron t tarn n err
        .next (settle s (eventDone (applyUpdate (if e.wake then t else countApplied t tarn) tarn n e) tarn))

/-- Put an event into a tarn's FIFO. -/
def fifoPut (s : State) (t : Fin 8) (e : MereEvent) : State :=
  modTarn s t fun y => { y with fifo := y.fifo ++ [e], fifoMark := max y.fifoMark (y.fifo.length + 1)
                                busyClk := if y.fifo.isEmpty && y.spikes.isEmpty then s.clk else y.busyClk }

/-- A tarn's FIFO takes another event. -/
def fifoRoom (s : State) (t : Fin 8) : Bool := s.mere.tarns[t].fifo.length < 64

/-- How long a wake has been due: its time is extended to 40 bits by its neuron's (R468, R479). -/
def wakeAge (s : State) (t : Fin 8) (w : Nat × BitVec 32) : Nat :=
  let x := getNeuron s t w.1
  let due : BitVec 40 := x.tLast40 + BitVec.ofInt 40 (since x.tLast w.2)
  (s.time.count.truncate 40 - due).toNat

/-- A wake is due: Plumb has reached its time. -/
def wakeIsDue (s : State) (t : Fin 8) (w : Nat × BitVec 32) : Bool := decide (wakeAge s t w ≤ 2 ^ 40 - 2 ^ 31)

/-- WAKE_DUE (R468, R478): the earliest wake, once due, enters the FIFO with its due time. -/
def execWakeDue (tarn : Fin 8) (s : State) : Host.Outcome State Fault Refusal :=
  match earliestWake s.mere.tarns[tarn].wakes with
  | none => .next s
  | some (n, due) =>
    if !mereRuns s || !fifoRoom s tarn || !wakeIsDue s tarn (n, due) then .next s
    else
      let t := modTarn s tarn fun y => { y with wakes := y.wakes.filter fun w => w.1 != n }
      .next (fifoPut t tarn { target := BitVec.ofNat 11 (256 * tarn.val + n), receptor := 0, weight := 0, time := due, wake := true,
                                 held := decide (2 ^ 31 ≤ wakeAge s tarn (n, due)) })

/-! Spikes through Mortar (R471 - R475). -/

/-- Destination entry `e` of neuron `n`. -/
def destEntry (s : State) (t : Fin 8) (n e : Nat) : Nat := u32 (netSec s (0x20 + t.val)) (1024 + 32 * n + 4 * e)

/-- The event of a synapse. -/
def synEvent (tarn n r : Nat) (w : Int) (time : BitVec 32) : MereEvent :=
  { target := BitVec.ofNat 11 (256 * tarn + n), receptor := ⟨r % 4, Nat.mod_lt _ (by decide)⟩, weight := w, time := time, wake := false }

/-- Events of a dense row towards a target tarn, in ascending neuron order; a word with a double-bit error emits none (R486). -/
def denseEvents (s : State) (t : Fin 8) (n entry target : Nat) (time : BitVec 32) : List ReadEvent :=
  let syn := netSec s (0x30 + t.val)
  (List.range 256).filterMap fun j =>
    let b := u8 syn (256 * n + j)
    let w := 64 * n + j / 4
    if b % 64 = 0 ∨ s.mere.tarns[t].badSyn.contains w then none
    else some { entry := entry, word := w, event := synEvent target j (b / 64) (signed 6 (b % 64)) time }

/-- Events of a list run from an index up to the first LAST. -/
def listEvents (s : State) (t : Fin 8) (entry : Nat) (time : BitVec 32) : Nat → Nat → List ReadEvent
  | 0, _ => []
  | fuel + 1, i =>
    let w := u32 (netSec s (0x30 + t.val)) (4 * i)
    let rest := if bit w 25 then [] else listEvents s t entry time fuel (i + 1)
    if w % 4096 = 0 ∨ s.mere.tarns[t].badSyn.contains i then rest
    else { entry := entry, word := i, event := synEvent (field w 22 3) (field w 14 8) (field w 12 2) (signed 12 (w % 4096)) time } :: rest

/-- Events of a destination list from entry `e` on, up to the first entry of kind none. -/
def destEvents (s : State) (t : Fin 8) (n : Nat) (time : BitVec 32) : Nat → Nat → List ReadEvent
  | 0, _ => []
  | fuel + 1, e =>
    let w := destEntry s t n e
    if destKind w = 0 then []
    else
      let here := if s.mere.tarns[t].badDest.contains (n, e) then []
        else if destKind w = 1 then denseEvents s t n e (destTarn w) time
        else listEvents s t e time (16384 - destStart w) (destStart w)
      here ++ destEvents s t n time fuel (e + 1)

/-- Events the tarn's synapse reader still has to emit for the spike at the front of its queue. -/
def frontEvents (s : State) (t : Fin 8) : List ReadEvent :=
  let y := s.mere.tarns[t]
  match y.emitting, y.spikes with
  | some l, _ => l
  | none, [] => []
  | none, (n, time) :: _ => (destEvents s t n time 8 0).map fun r => { r with event := { r.event with held := y.heldSpikes != 0 } }

/-- Tarn of a target neuron ID. -/
def tarnOf (id : BitVec 11) : Fin 8 := ⟨id.toNat / 256, by omega⟩

/-- The event an encoder would send first (R495). -/
def slotFirst (x : Encoder) : Option (Bool × MereEvent) :=
  match x.up, x.down with
  | some u, some d => if since u.time d.time < 0 then some (false, d) else some (true, u)
  | some u, none => some (true, u)
  | none, some d => some (false, d)
  | none, none => none

/-- Encoder `e` contends for a target's FIFO. -/
def encWants (s : State) (target : Fin 8) (e : Fin 64) : Bool :=
  match slotFirst s.mere.encoders[e] with
  | none => false
  | some (_, ev) => tarnOf ev.target == target

/-- Source `i` contends for a target's FIFO: tarns 0 - 7, then the encoders. -/
def sourceWants (s : State) (target : Fin 8) (i : Nat) : Bool :=
  if h : i < 8 then
    match frontEvents s ⟨i, h⟩ with
    | [] => false
    | e :: _ => tarnOf e.event.target == target
  else (List.finRange 64).any (encWants s target)

/-- The source whose turn it is: the first that contends after the one granted last (R475). -/
def granted (s : State) (target : Fin 8) : Option Nat :=
  ((List.range 9).map fun i => (s.mere.tarns[target].grant + 1 + i) % 9).find? (sourceWants s target)

/-- Record a grant and put the event in. -/
def grantTo (s : State) (target : Fin 8) (src : Nat) (e : MereEvent) : State :=
  fifoPut (modTarn s target fun y => { y with grant := src }) target e

/-- After an event of the front spike: the rest, or the spike is done. -/
def spikeDone (clk : Nat) (rest : List ReadEvent) (y : Tarn) : Tarn :=
  if rest.isEmpty then { y with emitting := none, spikes := y.spikes.drop 1, heldSpikes := y.heldSpikes - 1, busyClk := clk }
  else { y with emitting := some rest, busyClk := clk }

/-- What the synapse reader's reads for its front spike find: an error in another word is not theirs (R486, R717). -/
def readSynapses (s : State) (t : Fin 8) (err : EccObs) : State :=
  match err with
  | .single => noteEcc s err
  | .double (.destEntry t' n e) =>
    if t' = t ∧ (s.mere.tarns[t].spikes.head?.map (·.1)) = some n.val then loseDest (noteEcc s err) t n.val e.val else s
  | .double (.synapse t' w) =>
    if t' = t ∧ (frontEvents s t).any (fun r => r.word / 2 == w.val / 2) then loseSynapse (noteEcc s err) t w.val else s
  | _ => s

/-- The front spike's next event, or the end of the spike. -/
def emitFront (s : State) (tarn : Fin 8) : State :=
  match frontEvents s tarn with
  | [] => modTarn s tarn (spikeDone s.clk [])
  | e :: rest =>
    let target := tarnOf e.event.target
    if fifoRoom s target && granted s target == some tarn.val then
      grantTo (modTarn s tarn (spikeDone s.clk rest)) target tarn.val e.event
    else s

/-- SPIKE_EMIT (R473 - R475): one event of the front spike is granted into its target's FIFO; a spike without an event leaves the
queue. A source that finds the FIFO full, or whose turn it is not, waits. `err`: what the reads find (R486). -/
def execSpikeEmit (tarn : Fin 8) (err : EccObs) (s : State) : Host.Outcome State Fault Refusal :=
  if !mereRuns s || s.mere.tarns[tarn].spikes.isEmpty then .next s
  else .next (settle s (emitFront (readSynapses s tarn err) tarn))

/-- The encoder whose turn it is for a target. -/
def grantedEnc (s : State) (target : Fin 8) : Option (Fin 64) :=
  ((List.finRange 64).map fun i : Fin 64 => (⟨(s.mere.tarns[target].encGrant + 1 + i.val) % 64, Nat.mod_lt _ (by decide)⟩ : Fin 64)).find?
    (encWants s target)

/-- ENCODER_SLOT_DRAIN (R475, R495): one encoder's event is granted into a target's FIFO. -/
def execEncoderSlotDrain (target : Fin 8) (s : State) : Host.Outcome State Fault Refusal :=
  if !mereRuns s || !fifoRoom s target || granted s target != some 8 then .next s
  else
    match grantedEnc s target with
    | none => .next s
    | some e =>
      match slotFirst s.mere.encoders[e] with
      | none => .next s
      | some (isUp, ev) =>
        let s := { s with mere := { s.mere with encoders := vmod s.mere.encoders e fun x =>
          if isUp then { x with up := none } else { x with down := none } } }
        .next (grantTo (modTarn s target fun y => { y with encGrant := e.val }) target 8 ev)

/-! Class records (R497 - R505). -/

/-- The class frames from `frameEnd` on, split at `dt` microseconds of count after it: those that have ended, the rest that spikes have
already entered, and how long the frame in progress has run. `us` is the present frame length. -/
def splitFrames (us : Nat) (dt : Int) : List ClassFrame → List ClassFrame × List ClassFrame × Int
  | [] =>
    let n := dt.toNat / us
    (List.replicate n { spikes := 0, us := us, late := false }, [], dt - (us * n : Nat))
  | f :: r =>
    let e : Int := f.us + f.move
    if e ≤ dt then
      let (a, b, c) := splitFrames us (dt - e) r
      (f :: a, b, c)
    else ([], f :: r, dt - f.move)

/-- Microseconds of count since the end of the last class frame written. -/
def sinceFrameEnd (s : State) (x : MereClass) : Int := (s.time.count - x.frameEnd).toInt

/-- A tarn lagged at some time of the class window of `us` microseconds that ends at `e` (R501). -/
def lagWithin (s : State) (e : Count48) (us : Nat) : Bool :=
  let started (a : Count48) : Bool := 0 ≤ (e - a).toInt
  s.mere.lagSpans.any (fun x => started x.1 && decide (0 < (x.2 - e).toInt + us)) ||
    s.mere.tarns.toList.any fun y => y.lagging.any started

/-- The record of a class frame (R499 - R502). -/
def classRecord (s : State) (c : Fin 64) (e : VcnEntry) (late : Bool) : State × Record :=
  let x := s.mere.classes[c]
  let n := classWindow s c.val
  let win := x.buckets.take n
  let total := (win.map (·.1)).sum
  let us := (win.map (·.2)).sum + (n - win.length) * classUs s
  let value := ofRat ((total : Rat) * 10 ^ 6 / (us : Rat))
  let on := if fle (classOn s c.val) value then true else if fle value (classOff s c.val) then false else x.asserted
  let coal := match s.mere.lastCoalesce with
    | none => false
    | some (t, _) => decide ((x.frameEnd - t).toNat < us)
  let lag := lagWithin s x.frameEnd us
  let notYet := x.ended < n
  ({ s with mere := { s.mere with classes := s.mere.classes.set c.val { x with asserted := on } } },
   { vcn := ownVcn s (0x40 + c.val)
     status := StatusBits.word { valid := !notYet, notYet := notYet, lagged := !notYet && (late || coal || lag) }
     seq := e.frameSeq, time := x.frameEnd, value := value
     raw := BitVec.ofNat 32 ((if on then 2 ^ 31 else 0) + min total 16777215)
     age := BitVec.ofNat 16 (min 0xFFFF e.skipped) })

/-- EV24 for a class with EVENT (R503): the argument is its local index. -/
def classChanged (s : State) (c : Nat) : State := if classBound s c && classEvent s c then raise s 24 (0x40 + c) else s

/-- A time of Mere is at or before a moment. -/
def byTime (e : BitVec 32) (t : BitVec 32) : Bool := 0 ≤ since t e

/-- Every tarn has applied every event and every wake up to a moment, the encoders' events among them (R498). -/
def drainedTo (s : State) (t : Count48) : Bool :=
  let by' (x : BitVec 32) : Bool := byTime (t.truncate 32) x
  s.mere.tarns.toList.all (fun y =>
    y.fifo.all (fun e => !by' e.time) && y.spikes.all (fun x => !by' x.2) && y.wakes.all fun w => !by' w.2) &&
  s.mere.encoders.toList.all fun x => x.up.all (fun e => !by' e.time) && x.down.all fun e => !by' e.time

/-- The class frame that is written next: its spikes and length. -/
def nextFrame (s : State) (x : MereClass) : ClassFrame := x.frames.head?.getD { spikes := 0, us := classUs s, late := false }

/-- End of that frame. -/
def nextEnd (s : State) (x : MereClass) : Count48 := let f := nextFrame s x; x.frameEnd + BitVec.ofInt 48 (f.us + f.move)

/-- How long ago that frame ended, in microseconds of Plumb: negative while it runs. -/
def sinceEnd (s : State) (x : MereClass) : Int := (s.time.count - nextEnd s x).toInt

/-- The earliest class frame not yet written becomes a bucket, and its record, where the VCN is known, is written. `atLimit`: at the lag-limit
moment. -/
def writeClass (cls : Fin 64) (atLimit : Bool) (bad : List (Fin 256)) (s : State) : State :=
  let x := s.mere.classes[cls]
  let f := nextFrame s x
  let x' := { x with frames := x.frames.drop 1, buckets := ((f.spikes, f.us) :: x.buckets).take 64,
                     frameEnd := nextEnd s x, ended := min 64 (x.ended + 1), fresh := true }
  let s := { s with mere := { s.mere with classes := s.mere.classes.set cls.val x' } }
  match entryOf s (ownVcn s (0x40 + cls.val)) with
  | none => s
  | some e =>
    let (s, r) := classRecord s cls e (atLimit || f.late)
    let s := storeRecord s r bad
    if r.raw.msb != x.asserted then classChanged s cls.val else s

/-- CLASS_RECORD_WRITE (R498 - R505): the record of the earliest class frame not yet written, once the frame has ended and either every event and
wake up to its end has been applied or the lag limit has passed since (R498). `bad`: the rules whose evaluators differ (R398). -/
def execClassRecordWrite (cls : Fin 64) (bad : List (Fin 256)) (s : State) : Host.Outcome State Fault Refusal :=
  let x := s.mere.classes[cls]
  let drained := drainedTo s (nextEnd s x)
  if !mereRuns s || !classBound s cls.val || sinceEnd s x < 0 || (!drained && sinceEnd s x < lagLimit s) then .next s
  else .next (settle s (startVcn (writeClass cls (!drained) bad s) (ownVcn s (0x40 + cls.val))))

/-! Starts, stalls, the probe. -/

/-- Classes and encoders at a start of R502: no bucket, no level. -/
def clearClasses (s : State) (forget : Bool) : State :=
  let e := lastFrameEnd s
  { s with mere := { s.mere with
    classes := s.mere.classes.map fun x => { asserted := x.asserted && !forget, frameEnd := e }
    encoders := s.mere.encoders.map fun x => { x with init := false, up := none, down := none } } }

/-- The class VCNs bound start a frame. -/
def startClasses (s : State) : State :=
  (List.range 64).foldl (fun s c => if classBound s c then startVcn s (ownVcn s (0x40 + c)) else s) s

/-- What a tarn still holds when power returns has waited since the gating (R479). -/
def holdEvents (clk : Nat) (y : Tarn) : Tarn :=
  { y with busyClk := clk, heldSpikes := y.spikes.length, fifo := y.fifo.map fun e => { e with held := true }
           emitting := y.emitting.map fun l => l.map fun r => { r with event := { r.event with held := true } } }

/-- Power returns to the MERE domain (R479, R492, R502). -/
def ungateMere (s : State) : State :=
  match s.mere.power with
  | .gated =>
    let m := { s.mere with power := .running, tarns := s.mere.tarns.map (holdEvents s.clk) }
    startClasses (clearClasses { s with mere := m } false)
  | _ => s

/-- Every neuron at the record of R459 from now on, and every queue empty. -/
def clearTarns (s : State) : State :=
  { s with mere := { s.mere with
    start := s.time.count
    tarns := s.mere.tarns.map fun y => { y with neurons := [], fifo := [], spikes := [], heldSpikes := 0, emitting := none, wakes := [], lagging := none } } }

/-- Class frames that have ended and whose records a stall reset takes away (R515). -/
def dropClassFrames (s : State) : State :=
  (List.finRange 64).foldl (fun s c =>
    if classBound s c.val then
      let n := (splitFrames (classUs s) (sinceFrameEnd s s.mere.classes[c]) s.mere.classes[c].frames).1.length
      let v := ownVcn s (0x40 + c.val)
      (List.range n).foldl (fun s _ => startVcn (skipVcn s v) v) s
    else s) s

/-- The asserted classes are so no longer (R500, R503). -/
def dropAsserted (s : State) : State :=
  (List.finRange 64).foldl (fun s c => if s.mere.classes[c].asserted then classChanged s c.val else s) s

/-- Every tarn's lag ends. -/
def endLags (s : State) : State := (List.finRange 8).foldl endLag s

/-- A tarn has completed no event for the stall limit: 10 ms on KCLK, so from 9.5 ms on it may be found (R506; log 123). -/
def tarnStalled (s : State) (y : Tarn) : Bool := !(y.fifo.isEmpty && y.spikes.isEmpty) && decide (y.busyClk + 9500 ≤ s.clk)

/-- MERE_STALL (R503, R506 - R508, R515): a stall reset, or Mere off at the third within 60 s of the first (log 124). -/
def execMereStall (tarn : Fin 8) (s : State) : Host.Outcome State Fault Refusal :=
  if !mereRuns s || !tarnStalled s s.mere.tarns[tarn] then .next s
  else
    let recent := s.mere.stallTimes.filter fun t => s.clk ≤ t + 60000000
    let s := clearClasses (clearTarns (dropAsserted (dropClassFrames (endLags s)))) true
    if 2 ≤ recent.length then
      let s := skipClasses s
      .next (raise { s with mere := { s.mere with power := .offStall, stallTimes := [] } } 26 s.mere.stallResets.toNat)
    else
      let n := sat16 s.mere.stallResets
      .next (raise { s with mere := { s.mere with stallResets := n, stallTimes := s.clk :: recent } } 26 n.toNat)

/-- The class frame in progress at a Plumb step of `d` microseconds ends at the next boundary of the new count (R518); frames that had
ended keep their times. `old` is the count before the step, `run` how far the frame has run on its grid. -/
def stepClass (us run : Nat) (old d : Int) (x : MereClass) : MereClass :=
  let (a, b, held) := splitFrames us (BitVec.ofInt 48 (old - x.frameEnd.toNat)).toInt x.frames
  let rest := us - (run + d) % us
  let f : ClassFrame := { spikes := (b.map (·.spikes)).sum, us := (held + rest).toNat, late := b.any (·.late), move := (b.map (·.move)).sum + d }
  { x with frames := a ++ [f] }

/-- R485: a Plumb step moves every time of every neuron by the step; events in FIFOs and slots keep theirs. Class frames follow the
Plumb count (R518). The count of `s` is the one before the step. -/
def stepMere (s : State) (d : Int) : State :=
  let mv (t : BitVec 32) : BitVec 32 := t + BitVec.ofInt 32 d
  let nrn (x : Neuron) : Neuron := { x with tLast := mv x.tLast, tLast40 := x.tLast40 + BitVec.ofInt 40 d, tR := mv x.tR, wake := x.wake.map mv }
  let us := classUs s
  let c := stepClass us (frameRun s us) s.time.count.toNat d
  { s with mere := { s.mere with
    start := s.mere.start + BitVec.ofInt 48 d
    classes := if s.mere.power = .running then s.mere.classes.map c else s.mere.classes
    tarns := s.mere.tarns.map fun y => { y with neurons := y.neurons.map fun p => (p.1, nrn p.2), wakes := y.wakes.map fun w => (w.1, mv w.2) } } }

/-- PROBE_SNAPSHOT (R482, R706): the record of the neuron probed, with its template. -/
def execProbeSnapshot (s : State) : Host.Outcome State Fault Refusal :=
  if !isRunning s || !s.mere.probeWanted then .next s
  else
    let t := tarnOf (s.mere.probe.truncate 11)
    let n := s.mere.probe.toNat % 256
    .next { s with mere := { s.mere with probeWanted := false, snapshot := some (neuronWord s t n % 256, getNeuron s t n) } }

end Sys2Proof.Machine
end

