-- ==== Sys2Proof/Machine/RailOps.lean ====
section
/-! DEFINITION. What the rail, heater and thermal commands share: limits, shedding, the ladder, the throttle step. -/

namespace Sys2Proof.Machine

/-- The thermal limit in mA (R328). -/
def thermalLimit (s : State) : Rat := (cfgRailLimit s : Rat) * (8 - (s.thermal.s.val : Rat)) / 8

/-- Phases in a state. -/
def phaseCount (s : State) (p : PhaseState) : Nat := s.rail.phases.toList.count p

/-- The ladder limit in mA, none with four working phases (table Ladder; R303): 0.9 x (1.0 A per working phase and 0.7 A
per phase in estimate mode). -/
def ladderLimit (s : State) : Option Rat :=
  let w := phaseCount s .working
  let e := phaseCount s .estimate
  if w = 4 then none else some (900 * (w : Rat) + 630 * (e : Rat))

/-- The effective limit (R287, R350); 0 without a rail (R310). -/
def effectiveLimit (s : State) : Rat :=
  if !railPresent s then 0
  else
    let l := min (cfgRailLimit s : Rat) (thermalLimit s)
    match ladderLimit s with
    | none => l
    | some x => min l x

/-- The effective limit in whole mA; in a warm reset and in Footing the last value before it (R308). -/
def limitInForce (s : State) : Nat := if isRunning s then (ratFloor (effectiveLimit s)).toNat else s.rail.heldLimit

/-- The analogue total limit: 1.25 times the effective limit (R288, R308). -/
def analogLimit (s : State) : Nat := 5 * limitInForce s / 4

/-- The cycle-by-cycle limit of a phase, mA (R55). -/
def phaseLimit : Nat := 2000

/-- Angle between the phases that run, in degrees (R300, R301, table Ladder summary); a phase in estimate mode runs. The record holds it through a
warm reset (R308). -/
def interleave (s : State) : Option Nat :=
  match phaseCount s .working + phaseCount s .estimate with
  | 4 => some 90
  | 3 => some 120
  | 2 => some 180
  | _ => none

/-- The start of a warm reset under the limit in force. -/
def startReset (s : State) (k : WarmKind) : State := startWarm s k (limitInForce s)

/-- A heater is shed: in the shed list, by the chain-shed indication in a pod (R295), or for want of a rail (R310). -/
def moxShed (s : State) (n : Fin 6) : Bool :=
  !railPresent s || s.rail.shed.contains (.heater n) || (s.role == .pod && s.course.pod.chainShed && !moxCrit s n)

/-- The channel's heater runs in the present mode. -/
def moxHeats (s : State) (n : Fin 6) : Bool := isRunning s && moxHeatsIn s s.modes.mode n

/-- The rail is wanted: in RUN always, in WATCH while a heater or an enabled chain-power switch needs it (R283), in SAFE while it is kept for
chain power (R126, R318). -/
def railWanted (s : State) : Bool :=
  railPresent s && !s.rail.lockout && isRunning s &&
    match s.modes.mode with
    | .run => true
    | .watch => chainEnabled s 0 || chainEnabled s 1 || (List.finRange 6).any (moxHeats s)
    | .safe => keepsChain s

/-- The rail is requested from off: the phase check begins (R284, R286). A fault of the HRS sense alone ends with the
restart (R312). -/
def railBegin (s : State) : State :=
  if railWanted s && s.rail.state == .off then
    let s := { ratesAnew s with rail := { s.rail with state := .phaseCheck, onHrail := false, startClk := s.clk } }
    if faultActive s 0x14 && !s.rail.senseSeen && !(s.ks.injected.contains 0x14) then clearFault s 0x14 else s
  else s

/-- Rail in line with the mode: begun when wanted, off when not; outside SAFE it is on for every load. -/
def railFollow (s : State) : State := if railWanted s then railBegin { s with rail := { s.rail with kept := inSafe s && s.rail.kept } } else railOff s

/-- Raise a rail, heater or chain event and report the fault to Keystone: the event comes with the declaration, or alone while the code is already
active: these chapters raise it at each phase, heater, pod and break, beside what Keystone raises under R766. -/
def declareEvent (s : State) (code : Fin 28) (arg evArg : Nat) (masked : Bool) : State :=
  if faultActive s code then raise s (faultEvent code) evArg else declareWith s code arg evArg masked

/-- Fewer than two phases are left (R302, R307): rail and switches off, SAFE with cause 0x06, and the phase checks of R307 begin. -/
def railLost (s : State) : State :=
  let s := railOff s
  enterSafe { s with modes := { s.modes with railCauseGone := false }, rail := { s.rail with recheckClk := s.clk } } 6

/-- A phase is lost (R300 - R302): EV11; at the third, rail and switches off and SAFE with cause 0x06. -/
def losePhase (s : State) (p : Fin 4) : State :=
  if s.rail.phases[p] = .lost then s
  else
    let s := { s with rail := { s.rail with phases := s.rail.phases.set p.val .lost } }
    let s := declareEvent s 0x13 p.val p.val true
    if 3 ≤ phaseCount s .lost then railLost s else s

/-- What the unit at a place of the order still has to shed: its heaters in descending channel number, or the chain. -/
def shedCandidate (s : State) (unit : Nat) : Option Shed :=
  if unit = 1 then
    if (chainEnabled s 0 || chainEnabled s 1) && !s.rail.shed.contains .chain then some .chain else none
  else
    ((List.finRange 6).reverse.find? fun n =>
      moxPresent s n && (moxCrit s n == (unit == 2)) && !s.rail.shed.contains (.heater n)).map Shed.heater

/-- The next shed in the order of section 0x07. -/
def nextShed (s : State) : Option Shed :=
  (shedCandidate s (cfgShedUnit s 0)).or ((shedCandidate s (cfgShedUnit s 1)).or (shedCandidate s (cfgShedUnit s 2)))

/-- A heater is shed: its film frame in progress is no good one, whether or not a loop tick falls in between (R262). -/
def spoilFilm (s : State) (n : Fin 6) : State := { s with mox := vmod s.mox n fun m => { m with frameGood := false } }

/-- Shed a unit or heater (R262, R293, R295, R296). -/
def shedOne (s : State) (u : Shed) (shunt : Nat) : State :=
  let s := { s with rail := { s.rail with shed := u :: s.rail.shed, fitsClk := none } }
  let s := match u with
    | .heater n => spoilFilm { s with rail := { s.rail with measuring := some (n, shunt) } } n
    | .chain => chainLimits { s with rail := { s.rail with chainFrom := some shunt, chainClk := s.clk } }
  logShed s u false shunt

/-- Restore the most recently shed unit or heater (R297). -/
def restoreOne (s : State) (shunt : Nat) : State :=
  match s.rail.shed with
  | [] => s
  | u :: l =>
    let s := { s with rail := { s.rail with shed := l, fitsClk := none } }
    let s := match u with
      | .heater _ => s
      | .chain => chainLimits { s with rail := { s.rail with chainFrom := none } }
    logShed s u true shunt

/-- The shed value of a unit or heater. -/
def shedValue (s : State) : Shed → Nat
  | .heater n => s.rail.heaterValue[n]
  | .chain => s.rail.chainValue

/-- A chain-power switch begins its soft start with its limit in force (R290). -/
def switchStart (s : State) (w : Fin 2) : State :=
  let lim := if s.rail.shed.contains .chain then cfgChainFloor s else cfgChainLimit s w
  { s with rail := { s.rail with sw := vmod s.rail.sw w fun c => { c with state := .softStart, limit := lim, startClk := s.clk } } }

/-- No enabled chain-power switch is failed, off or still in its soft start: a failed one has come on after a retry (R292, code 0x12). -/
def switchesOn (s : State) : Bool :=
  (List.finRange 2).all fun w => !chainEnabled s w || s.rail.sw[w].state == .on || s.rail.sw[w].state == .inLimit

/-! What the ladder makes of the currents (R299 - R305). -/

/-- A phase is not recorded as lost. -/
def phaseRuns (s : State) (p : Fin 4) : Bool := s.rail.phases[p] != .lost

/-- The own sense of a phase in mA: nothing from a phase that is off, and never above the cycle-by-cycle limit (R55). -/
def ownSense (s : State) (c : RailCurrents) (p : Fin 4) : Int := if phaseRuns s p then ((min phaseLimit c.sense[p] : Nat) : Int) else 0

/-- The sum of the phase senses. -/
def senseSum (s : State) (c : RailCurrents) : Int := ((List.finRange 4).map (ownSense s c)).sum

/-- The total current in mA: the shunt's, or with the shunt declared failed the sum of the phase senses (R304). The analogue total limit holds it
(R288). -/
def totalCurrent (s : State) (c : RailCurrents) : Nat :=
  min (analogLimit s) (if s.rail.shuntFailed then (senseSum s c).toNat else c.shunt)

/-- The derived current of a phase: the total less the other phases' senses (R299). -/
def derivedCurrent (s : State) (c : RailCurrents) (p : Fin 4) : Int :=
  (if s.rail.shuntFailed then senseSum s c else (c.shunt : Int)) - (senseSum s c - ownSense s c p)

/-- The current a phase is taken to carry: its own sense, in estimate mode the derived current, which its duty keeps at or below 0.70 A (R303). -/
def phaseCurrent (s : State) (c : RailCurrents) (p : Fin 4) : Int :=
  if s.rail.phases[p] = .estimate then min 700 (derivedCurrent s c p) else ownSense s c p

/-- The mean phase current: over all phases not recorded as lost. -/
def meanCurrent (s : State) (c : RailCurrents) : Rat :=
  let l := (List.finRange 4).filter (phaseRuns s)
  if l.isEmpty then 0 else (((l.map (phaseCurrent s c)).sum : Int) : Rat) / (l.length : Rat)

/-- The on-time of a phase in a cycle at its maximum duty of 95 %, in ns (R311). -/
def maxOn : Nat := 1900

/-- The on-time of a phase in ns: as commanded, at most the maximum duty (R311); in estimate mode the mean of the healthy phases (R303). -/
def phaseOn (s : State) (o : LadderObs) (p : Fin 4) : Rat :=
  let on (q : Fin 4) : Nat := min maxOn o.on[q]
  let l := (List.finRange 4).filter fun q => s.rail.phases[q] == .working
  if s.rail.phases[p] = .estimate && !l.isEmpty then (((l.map on).sum : Nat) : Rat) / (l.length : Rat) else (on p : Rat)

/-- A phase meets the open condition (R299): by its own sense and its derived current; by the own sense alone with the shunt failed (R304), by the
derived current alone in estimate mode (R305). -/
def phaseOpenNow (s : State) (o : LadderObs) (p : Fin 4) : Bool :=
  let m := meanCurrent s o.cur
  let low (x : Int) : Bool := decide ((x : Rat) < m / 10)
  let by' : Bool := match s.rail.phases[p] with
    | .lost => false
    | .estimate => low (derivedCurrent s o.cur p)
    | .working => low (ownSense s o.cur p) && (s.rail.shuntFailed || low (derivedCurrent s o.cur p))
  by' && decide (100 ≤ m) && decide (100 < phaseOn s o p) && 16 ≤ o.cycles[p]

/-- A phase sense meets the failure condition (R303). -/
def senseFailsNow (s : State) (o : LadderObs) (p : Fin 4) : Bool :=
  let m := meanCurrent s o.cur
  s.rail.phases[p] == .working && decide (100 ≤ m) &&
    decide (m / 4 < ratAbs (((ownSense s o.cur p - derivedCurrent s o.cur p : Int)) : Rat)) && 64 ≤ o.cycles[p]

/-- A phase passes the phase check (R285). -/
def phasePasses (o : PhaseCheckObs) (p : Fin 4) : Bool :=
  let (shunt, own) := o[p]
  100 ≤ shunt && decide (4 * ratAbs ((own : Rat) - (shunt : Rat)) ≤ (shunt : Rat))

/-! The thermal monitor. -/

/-- Neighbours of each sensor (table Sensor placement and neighbours). -/
def neighbours (i : Fin 8) : Fin 8 × Fin 8 :=
  match i with
  | 0 => (1, 2)
  | 1 => (0, 3)
  | 2 => (0, 3)
  | 3 => (1, 2)
  | 4 => (5, 7)
  | 5 => (4, 6)
  | 6 => (5, 7)
  | 7 => (4, 6)

def sensorBad (s : State) (i : Fin 8) : Bool := s.thermal.broken.getLsbD i.val

/-- The larger of a list, if it has an element. -/
def maxOf (l : List Rat) : Option Rat :=
  match l with
  | [] => none
  | a :: r => some (r.foldl max a)

/-- The value of a sensor in a set of readings: its own, or its replacement when broken (R325). -/
def sensorValue (s : State) (v : Vector Rat 8) (i : Fin 8) : Rat :=
  if !sensorBad s i then v[i]
  else
    let (a, b) := neighbours i
    let near := ([a, b].filter fun j => !sensorBad s j).map fun j => v[j]
    match maxOf near with
    | some m => m + 80
    | none =>
      match maxOf (((List.finRange 8).filter fun j => !sensorBad s j).map fun j => v[j]) with
      | some m => m + 80
      | none => v[i]

/-- The reported maximum and the sensor that gives it, the lowest number on a tie (R321). -/
def reportedMax (s : State) (v : Vector Rat 8) : Rat × Fin 8 :=
  (List.finRange 8).foldl (fun (m : Rat × Fin 8) i => if m.1 < sensorValue s v i then (sensorValue s v i, i) else m)
    (sensorValue s v 0, 0)

/-- Where a maximum lies: 0 at or below the threshold less 5 K, 1 up to the threshold, 2 above (R329, R330). -/
def thermalZone (s : State) (m : Rat) : Fin 3 :=
  if m ≤ cfgThrottle s - 80 then 0 else if m ≤ cfgThrottle s then 1 else 2

/-- A new throttle step: EV13 and a log entry at a change (R331). -/
def setThrottle (s : State) (n : Fin 8) : State :=
  if n = s.thermal.s then s
  else
    let s := { s with thermal := { s.thermal with s := n } }
    let s := raise s 13 n.val
    logGeneral s 0x09 (ownNode s) n.val 0 (toLE 2 ((ratRNE s.thermal.max) % 65536).toNat)

/-- One throttle step more, up to 7. -/
def stepUp (n : Fin 8) : Fin 8 := if n = 7 then 7 else n + 1

/-- The value of a sensor for other chapters: its mean or replacement, in degrees (R327). -/
def sensorDegrees (s : State) (i : Fin 8) : Rat := sensorValue s s.thermal.mean i / 16

end Sys2Proof.Machine
end

