-- ==== Sys2Proof/Machine/Real.lean ====
section
/-! DEFINITION. Square root, sine, cosine and arc tangent of rationals, by integer arithmetic in units of 2^-160, with errors
far below the last bit of a binary32 result. The spec gives the formulas that use them and no rounding of its own (log 13). -/

namespace Sys2Proof.Machine

/-- Units of one. -/
def one160 : Int := 2 ^ 160

/-- Floor of the square root, two bits a step. -/
def isqrt : Nat → Nat → Nat
  | 0, _ => 0
  | fuel + 1, n =>
    let r := 2 * isqrt fuel (n / 4)
    if (r + 1) * (r + 1) ≤ n then r + 1 else r

/-- The square root of a rational that is not negative, below 2^300. -/
def ratSqrt (r : Rat) : Rat := (isqrt 320 (r.num.natAbs * 2 ^ 320 / r.den) : Rat) / 2 ^ 160

/-- Two times pi in units of 2^-160. -/
def twoPi : Int := 0x6487ED5110B4611A62633145C06E0E68948127044

/-- A rational in units of 2^-160. -/
def toFix (r : Rat) : Int := r.num * one160 / (r.den : Int)

/-- Product of two fixed-point numbers. -/
def fixMul (a b : Int) : Int := a * b / one160

/-- Alternating series t - t x2 / (k (k+1)) + ... : sine from t = x and k = 2, cosine from t = 1 and k = 1. -/
def trigSeries (x2 : Int) : Nat → Int → Int → Int
  | 0, _, _ => 0
  | fuel + 1, k, t => t + trigSeries x2 fuel (k + 2) (-(fixMul t x2 / (k * (k + 1))))

/-- Sine and cosine of that many turns, by quarter turns. -/
def sinCosTurns (x : Rat) : Rat × Rat :=
  let f := x - (ratFloor x : Rat)
  let q := (ratFloor (4 * f)).toNat
  let th := fixMul (toFix (f - (q : Rat) / 4)) twoPi
  let x2 := fixMul th th
  let s : Rat := (trigSeries x2 40 2 th : Rat) / (one160 : Rat)
  let c : Rat := (trigSeries x2 40 1 one160 : Rat) / (one160 : Rat)
  match q with
  | 0 => (s, c)
  | 1 => (c, -s)
  | 2 => (-s, -c)
  | _ => (-c, s)

/-- Sum of (-1)^k z^(2k+1) / (2k+1), `p` the power and `k` the divisor. -/
def atanSeries (z2 : Int) : Nat → Int → Int → Int
  | 0, _, _ => 0
  | fuel + 1, k, p => p / k - atanSeries z2 fuel (k + 2) (fixMul p z2)

/-- Arc tangent, in units of 2^-160, of a rational from 0 to 1: the argument is halved three times. -/
def atanUnit (z : Rat) : Int :=
  let h (z : Rat) : Rat :=
    let r := ratSqrt (1 + z * z)
    -- a short rational keeps the next step small
    (toFix (z / (1 + r)) : Rat) / (one160 : Rat)
  let w := toFix (h (h (h z)))
  8 * atanSeries (fixMul w w) 60 1 w

/-- The angle of the point (x, y) other than the origin in degrees, above -180 up to 180. -/
def atan2Deg (y x : Rat) : Rat :=
  let ay := ratAbs y
  let ax := ratAbs x
  let deg (f : Int) : Rat := 360 * (f : Rat) / (twoPi : Rat)
  let a := if ay ≤ ax then deg (atanUnit (ay / ax)) else 90 - deg (atanUnit (ax / ay))
  let a := if x < 0 then 180 - a else a
  if y < 0 then -a else a

end Sys2Proof.Machine
end

