-- ==== Sys2Proof/Machine/Mox.lean ====
section
/-! DEFINITION. The meanings of the heater commands (07). -/

namespace Sys2Proof.Machine

/-! The driver's pulses (R241 - R243). -/

/-- How a duty is turned into pulses: one per period, one of `n` times the on-time every `n` periods, or pulses of 0.4 microseconds as the
accumulator fills. -/
inductive PulseMode where
  | none
  | plain (on : Rat)
  | grouped (n : Nat) (on : Rat)
  | density (on : Rat)
  deriving DecidableEq, Repr

/-- The shortest pulse in microseconds. -/
def leastPulse : Rat := 2 / 5

/-- The pulses of a commanded duty, on a period of 5 microseconds. -/
def pulseMode (d : Rat) : PulseMode :=
  let on := 5 * d
  if on ≤ 0 then .none
  else if leastPulse ≤ on then .plain on
  else
    let n := (ratFloor (leastPulse / on)).toNat
    let n := if leastPulse ≤ (n : Rat) * on then n else n + 1
    if n ≤ 64 then .grouped n (n * on) else .density on

/-- The pulses of a tick of 200 periods: their number and planned length, and the channel's phase and accumulator after it. A grouping goes on
from the phase the last one left; the accumulator is cleared outside its mode. -/
def runPulses (m : Mox) : Nat × Rat × Mox :=
  match pulseMode m.duty with
  | .none => (0, 0, { m with pulseAcc := 0, period := 0 })
  | .plain on => (200, on, { m with pulseAcc := 0, period := 0 })
  | .grouped n w => ((m.period + 200) / n, w, { m with pulseAcc := 0, period := (m.period + 200) % n })
  | .density on =>
    let x := m.pulseAcc + 200 * on
    let k := (ratFloor (x / leastPulse)).toNat
    (k, leastPulse, { m with pulseAcc := x - (k : Rat) * leastPulse, period := 0 })

/-- How long a pulse of that planned length lasts: the cycle-by-cycle limit of 150 mA ends it early (R241). -/
def pulseLength (planned : Rat) (p : HeaterPulse) : Rat :=
  match p.limitUs with
  | none => planned
  | some t => min planned t

/-- R of a pulse; one without a current has none (log 102). -/
def pulseOhm (p : HeaterPulse) : Option Rat := if p.iEnd = 0 then none else some (p.vEnd / p.iEnd)

/-- The mean of a list. -/
def ratMean (l : List Rat) : Option Rat := if l.isEmpty then none else some (l.sum / (l.length : Rat))

/-! Resistance, temperature and cap (R244, R246). -/

/-- R at a temperature (R244). -/
def heaterR (s : State) (n : Fin 6) (t : Rat) : Rat :=
  moxR25 s n * (1 + moxAlpha s n * (t - 25) + moxBeta s n * (t - 25) * (t - 25))

/-- The temperature of a resistance: the root nearest 25 degrees (R244). Where the quadratic has no root the spec states no
temperature, and it is a free value (log 8). -/
def heaterT (s : State) (n : Fin 6) (r : Rat) : Rat :=
  let a := moxAlpha s n
  let b := moxBeta s n
  let q := r / moxR25 s n - 1
  let disc := a * a + 4 * b * q
  if b = 0 then 25 + q / a else if disc < 0 then Config.noRoot r else 25 + 2 * q / (a + ratSqrt disc)

/-- The cap of the duty (R246). -/
def dutyCap (s : State) (n : Fin 6) (vOn : Option Rat) : Rat :=
  let v := vOn.getD (cfgSetpoint s)
  if v = 0 then 1 else min 1 (moxVlim s n / v * (moxVlim s n / v))

/-- Clamp to [0, hi]. -/
def clamp0 (hi x : Rat) : Rat := if x < 0 then 0 else if hi < x then hi else x

/-! The loop. -/

/-- What a heater does in a tick: nothing, a fixed duty, or regulation. -/
inductive Drive where
  | off
  | duty (d : Rat)
  | regulate
  deriving DecidableEq, Repr

/-- The drive of the present tick: a command's override, else the step in force (R250, R274). A DUTY step whose target, its duty, is ignored leaves
the channel as it was: at the instantaneous target it had, or at the duty it had (R279; DESIGN CHOICE, log 143). -/
def driveOf (s : State) (n : Fin 6) : Drive :=
  let m := s.mox[n]
  match m.override with
  | .off => .off
  | .target _ _ => .regulate
  | .none =>
    if !m.started then .off
    else
      match stepKind s n m.step with
      | 1 | 2 => .regulate
      | 3 => if !m.ignored then .duty (stepDuty s n m.step) else if m.target.isSome then .regulate else .duty m.duty
      | _ => .off

/-- The drive asks for power. -/
def Drive.demands : Drive → Bool
  | .off => false
  | .duty d => decide (0 < d)
  | .regulate => true

/-- The heater can be driven: it runs in the mode, the rail is on, it is neither shed nor latched off (R267, R269, R277). -/
def heaterPowered (s : State) (n : Fin 6) : Bool :=
  moxHeats s n && s.rail.state == .on && !moxShed s n && s.mox[n].fault.isNone

/-- One tick towards a commanded target (R255, R274): rate in 0.1 K/s, 0 at once. -/
def approach (cur goal : Rat) (rate : Nat) : Rat :=
  let d : Rat := (rate : Rat) / 10000
  if rate = 0 then goal else if cur + d < goal then cur + d else if goal < cur - d then cur - d else goal

/-- The instantaneous target of this tick (R250 - R255): `first` is the T_h of a measurement that a profile start, or a step
after OFF or DUTY, still waits for. The target of a step that a command has overtaken is ignored (R279). -/
def tickTarget (s : State) (n : Fin 6) (first : Option Rat) : Mox :=
  let m := { s.mox[n] with ticks := (s.clk - s.mox[n].stepClk) / 1000 }
  match m.override with
  | .off => m
  | .target t rate =>
    let goal : Rat := (t : Rat) / 10
    { m with target := if rate = 0 then some goal else ((m.target.or first).map fun c => approach c goal rate) }
  | .none =>
    if !m.started || m.ignored then m
    else
      match stepKind s n m.step with
      | 1 => { m with target := some (stepTarget s n m.step) }
      | 2 =>
        match m.rampFrom.or first with
        | none => m
        | some from' =>
          let d := stepTicks s n m.step
          let part : Rat := if m.held || d ≤ m.ticks then 1 else (m.ticks : Rat) / (d : Rat)
          { m with rampFrom := some from', target := some (from' + (stepTarget s n m.step - from') * part) }
      | _ => { m with target := none }

/-- The loop of R245 with the flags of R248 and R249, for a regulated tick. -/
def regulate (s : State) (n : Fin 6) (m : Mox) (r : Option Rat) : Mox :=
  match r, m.target with
  | some r, some t =>
    let tr := heaterR s n t
    let cap := dutyCap s n m.vOn
    let e := (tr - r) / tr
    let integ := clamp0 cap (m.integ + e / (moxTi s n : Rat))
    let duty := clamp0 cap (moxKp s n * e + integ)
    { m with integ := integ, duty := duty, inReg := decide (ratAbs (r - tr) ≤ moxBand s n * tr), capped := duty = cap && 0 < e }
  | _, _ => { m with inReg := false, capped := false }

/-- Add a tick to the sums of the film frame (R262, heater record); `dark`: the drive asked for power and the rail was off (R277). -/
def tallyTick (s : State) (n : Fin 6) (m : Mox) (r : Option Rat) (d : Rat) (dark : Bool) : Mox :=
  let m := { m with frameGood := m.frameGood && m.inReg && !moxShed s n && !dark, nT := m.nT + 1, sumDuty := m.sumDuty + d }
  match r with
  | none => m
  | some r => { m with sumR := m.sumR + r, nR := m.nR + 1, sumT := m.sumT + heaterT s n r }

/-- The pulses of the tick that ends, by the duty it ran at (R242), and the channel after them. A regulating heater at duty 0 measures with the
pulses that are shown: R251 wants a first R_meas there, and R242 plans no pulse that could give it (log 103). -/
def tickPulses (s : State) (n : Fin 6) (l : List HeaterPulse) : List HeaterPulse × Mox :=
  let m := s.mox[n]
  if !heaterPowered s n then ([], { m with pulseAcc := 0, period := 0 })
  else
    let (k, w, m) := runPulses m
    let got := if s.mox[n].duty = 0 && driveOf s n == .regulate then l else l.take k
    (got, match got.getLast? with
      | none => m
      | some p => { m with lastPulse := pulseLength w p })

/-- The duty of the next tick and the flags of this one (R245 - R249). `integ` is cleared in an OFF step and under a commanded off, and a tick
under a commanded off counts as in regulation: R245 and R248 speak of neither (log 104). -/
def nextDuty (s : State) (n : Fin 6) (m : Mox) (r : Option Rat) : Mox :=
  let on := heaterPowered s n
  match driveOf s n with
  | .off => { m with duty := 0, integ := if on then 0 else m.integ, inReg := true, capped := false }
  | .duty x => { m with duty := if on then min x (dutyCap s n m.vOn) else 0, inReg := true, capped := false }
  | .regulate => if on then regulate s n m r else { m with duty := 0, inReg := false, capped := false }

/-- HEATER_LOOP_TICK (R241 - R251, R255, R277), a millisecond after the last one: R_meas and V_on of the pulses of the tick, the target, the duty
of the next tick. -/
def execHeaterLoopTick (ch : Fin 6) (pulses : List HeaterPulse) (s : State) : Host.Outcome State Fault Refusal :=
  let old := s.mox[ch]
  if !moxHeats s ch || s.clk < old.tickClk + 1000 then .next s
  else
    let (got, m) := tickPulses s ch pulses
    let r := ratMean (got.filterMap pulseOhm)
    let m := { m with vOn := (ratMean (got.map (·.vMean))).or m.vOn }
    let u := { s with mox := s.mox.set ch.val m }
    let m := nextDuty u ch (tickTarget u ch (r.map (heaterT s ch))) r
    let m := { m with pulseAcc := match pulseMode m.duty with
                        | .density _ => m.pulseAcc
                        | _ => 0
                      tickClk := s.clk - (s.clk - old.tickClk) % 1000, fresh := false, prevTarget := none, commanded := false }
    .next { s with mox := s.mox.set ch.val (tallyTick s ch m r old.duty ((driveOf s ch).demands && s.rail.state != .on)) }

/-! Profiles. -/

/-- Step `k` comes into force at `clk`: the instantaneous target is handed on, or waits for a measurement (R250, R251, R255). The film frame in
progress lies in it as far as the frame began no earlier. -/
def enterStep (s : State) (n : Fin 6) (m : Mox) (k clk : Nat) : Mox :=
  let inFrame := (s.weirs[weirOfFilm n].frameClk.map fun c => decide (clk ≤ c)).getD false
  { m with step := k, ticks := 0, stepClk := clk, held := false, loopWait := false, rampFrom := m.target
           fresh := true, prevTarget := m.target, ignored := m.commanded
           target := if m.commanded then m.target else if stepKind s n k = 1 then some (stepTarget s n k)
             else if stepKind s n k = 2 then m.target else none
           frameSample := inFrame && stepSample s n k }

/-- PROFILE_STEP_END (R250 - R253, R276, R279), at the end of the step's ticks: the next step, or after the last one its hold, to the next loop
with LOOP; a loop that begins on a boundary begins with the FRAME_BOUNDARY, which this row follows there. A last step shorter than the film frame
that fills a frame together with its held interval is sampled with it, as R252 joins the two (R276; DESIGN CHOICE, log 142). -/
def execProfileStepEnd (ch : Fin 6) (s : State) : Host.Outcome State Fault Refusal :=
  let m := s.mox[ch]
  let due := m.stepClk + 1000 * stepTicks s ch m.step
  if !moxHeats s ch || !m.started || m.held || s.clk < due then .next s
  else if m.step + 1 < stepCount s ch then
    let m' := enterStep s ch m (m.step + 1) due
    .next { s with mox := s.mox.set ch.val (if m.override = .none then m' else { m' with target := m.target }) }
  else .next { s with mox := s.mox.set ch.val { m with held := true, loopWait := profileLoops s ch } }

/-! Faults (R268, R269). -/

/-- Code of a latched fault (table Heater fault kinds). -/
def heaterFaultCode : HeaterFaultKind → Nat
  | .openCircuit => 1
  | .shortCircuit => 2
  | .kelvin => 3

/-- Open limit and short limit in ohm. -/
def moxOpenOhm (s : State) (n : Fin 6) : Rat := (u8 (moxBlock s n) 30 : Rat) / 4 * moxR25 s n
def moxShortOhm (s : State) (n : Fin 6) : Rat := (u8 (moxBlock s n) 29 : Rat) / 256 * moxR25 s n

/-- A pulse meets the condition of a fault kind (table Heater fault kinds). -/
def pulseFails (s : State) (n : Fin 6) (p : HeaterPulse) : HeaterFaultKind → Bool
  | .openCircuit => (pulseOhm p).any (fun r => decide (moxOpenOhm s n < r)) || decide (p.iEnd < 2 / 1000 ∧ 1 < p.vEnd)
  | .shortCircuit => (pulseOhm p).any fun r => decide (r < moxShortOhm s n)
  | .kelvin => decide (1 + p.out / 10 < ratAbs (p.vEnd - p.out))

/-- The fault that every pulse of a millisecond shows, the lowest code first (log 105). -/
def pulseFault (s : State) (n : Fin 6) (l : List HeaterPulse) : Option HeaterFaultKind :=
  if l.isEmpty then none else [.openCircuit, .shortCircuit, .kelvin].find? fun k => l.all fun p => pulseFails s n p k

/-- HEATER_FAULT (R268, R269): the driver goes off and stays off, EV10 once per episode, code 0x11. -/
def execHeaterFault (ch : Fin 6) (pulses : List HeaterPulse) (s : State) : Host.Outcome State Fault Refusal :=
  match if heaterPowered s ch then pulseFault s ch pulses else none with
  | none => .next s
  | some kind =>
    let s := { s with mox := vmod s.mox ch fun m => { m with fault := some kind, duty := 0, pulseAcc := 0, period := 0 } }
    let arg := ch.val + 256 * heaterFaultCode kind
    .next (declareEvent s 0x11 arg arg false)

/-! The heater command. -/

/-- The refusals of the heater command (R273) and its effect on the channel. `action` is the row's. -/
def heaterCommand (s : State) (f : HostFrame) (action : Byte) (body : State → Fin 6 → List Byte → State) : State :=
  commandFrame s f 0x05 [(5, action)] (argCount 8) fun s a =>
    if !hasCal s then (stLocked, s)
    else if h : u8 a 0 < 6 then
      let n : Fin 6 := ⟨u8 a 0, h⟩
      let t := signed 16 (u16 a 2)
      if !moxPresent s n || 3 < u8 a 1 || u16 a 6 ≠ 0 || (action ≠ 0 && u16 a 2 ≠ 0) || t < -400 || 6000 < t then (stBadArg, s)
      else if !moxHeats s n then (stNotInMode, s)
      else (stOk, body s n a)
    else (stBadArg, s)

/-- A channel that a command reaches: on the tick of a step boundary the step's target is ignored (R279). -/
def commandTick (m : Mox) : Mox :=
  { m with commanded := true, ignored := m.ignored || m.fresh, target := if m.fresh then m.prevTarget else m.target }

/-- HEATER_SET_TARGET (R273, R274): an override to a target at a rate. -/
def execHeaterSetTarget (f : HostFrame) (s : State) : Host.Outcome State Fault Refusal :=
  .next (heaterCommand s f 0 fun s n a =>
    { s with mox := vmod s.mox n fun m => { commandTick m with override := .target (signed 16 (u16 a 2)) (u16 a 4), restart := false } })

/-- Restart the profile at the next film frame boundary; the override lasts until there. -/
def restartProfile (s : State) (n : Fin 6) : State :=
  { s with mox := vmod s.mox n fun m => { commandTick m with restart := true } }

/-- HEATER_RESUME (R274). -/
def execHeaterResume (f : HostFrame) (s : State) : Host.Outcome State Fault Refusal :=
  .next (heaterCommand s f 1 fun s n _ => restartProfile s n)

/-- HEATER_OFF (R274): an override to off. -/
def execHeaterOff (f : HostFrame) (s : State) : Host.Outcome State Fault Refusal :=
  .next (heaterCommand s f 2 fun s n _ =>
    { s with mox := vmod s.mox n fun m => { commandTick m with override := .off, restart := false } })

/-- The latched fault of a channel goes, and code 0x11 with the last one (R269); without a latch nothing changes (R275). -/
def dropHeaterFault (s : State) (n : Fin 6) : State :=
  if s.mox[n].fault.isNone then s
  else
    let s := { s with mox := vmod s.mox n fun m => { m with fault := none } }
    if faultActive s 0x11 && s.mox.toList.all (fun m => m.fault.isNone) && !(s.ks.injected.contains 0x11) then clearFault s 0x11 else s

/-- HEATER_CLEAR_FAULT (R269, R275): the latch goes, and the profile restarts. -/
def execHeaterClearFault (f : HostFrame) (s : State) : Host.Outcome State Fault Refusal :=
  .next (heaterCommand s f 3 fun s n _ => restartProfile (dropHeaterFault s n) n)

end Sys2Proof.Machine
end

