-- ==== Sys2Proof/Machine/WeirOps.lean ====
section
/-! DEFINITION. The Weir's frame arithmetic and auto-ranging (05, 07) and the shadow converter W23 (20). -/

namespace Sys2Proof.Machine

/-- What the end of a Weir's frame gives: the range it ran in, its raw value, its charge with the calibrated packet in coulomb, its
gross packets, and OVERRANGE (R181 - R184). -/
structure WeirEnd where
  range : Fin 4
  raw : Int
  charge : Rat
  gross : Nat
  ovr : Bool
  deriving DecidableEq, Repr

/-- The charge a residue code stands for, in femtocoulomb (R180). -/
def residueCharge (r : Fin 4) (code : BitVec 12) : Rat := ((code.toNat : Rat) - 2048) * qNom r / 32

/-- A conversion has reached an end of the residue span: during it, or with its end code (R183). -/
def spanReached (hit : Bool) (code : BitVec 12) : Bool := hit || code == 0 || code == 4095

/-- End of the frame in progress on a Weir (an end code at either end of the span is the span reached, R183): net packets and the change of residue, in units of Q/`div`, with the carry of R184. -/
def weirEnd (s : State) (w : Fin 23) (div : Nat) (o : WeirObs) : State × WeirEnd :=
  let x := s.weirs[w]
  let r := x.range
  let q := qNom r
  let qEnd := residueCharge r o.endCode
  let qStart := match x.residue with
    | some c => c
    | none => residueCharge r o.startCode
  let net : Rat := (o.pos.toNat : Rat) - (o.neg.toNat : Rat)
  let charge := net * q + (qEnd - qStart)
  let units := charge / (q / (div : Rat)) + x.carry * qNom x.lastRange / q
  let raw := ratRNE units
  ({ s with weirs := s.weirs.set w.val { x with residue := some qEnd, carry := units - (raw : Rat), lastRange := r } },
   { range := r, raw := raw, charge := charge / q * qCal s w.val r, gross := o.pos.toNat + o.neg.toNat,
     ovr := spanReached o.spanHit o.endCode })

/-- The range of the next frame (R186 - R188) of a path whose frame lasted `us`. -/
def nextRange (ctl : Nat) (e : WeirEnd) (us : Nat) : Fin 4 :=
  if !bit ctl 4 then e.range
  else
    let lo := field ctl 0 2
    let hi := field ctl 2 2
    let g : Rat := (e.gross : Rat) / (4096 / 1000 * (us : Rat))
    let down (k : Fin 4) : Bool := k < e.range && g * qNom e.range / qNom k ≤ 3 / 4
    let want : Nat :=
      if e.ovr then hi
      else if 3 / 4 < g then min 3 (e.range.val + 1)
      else if g < 1 / 50 then
        (match (List.finRange 4).find? down with
         | some k => k.val
         | none => e.range.val)
      else e.range.val
    toRange (max lo (min hi want))

/-- A frame of a path ends here and its next one starts, in that range. -/
def weirTurn (s : State) (w : Fin 23) (range : Fin 4) : State :=
  { s with weirs := vmod s.weirs w fun x => { x with on := true, range := range, frameClk := some s.clk, dropFrame := false, ts4Sum := 0, ts4N := 0 } }

/-- A path starts to convert. Where a reset, SAFE or a Plumb step has left no residue, its first frame samples it (R202, R204, R539); a film
that WATCH had stopped goes on with the one it keeps (R207). -/
def weirStart (s : State) (w : Fin 23) : State :=
  { s with weirs := vmod s.weirs w fun x => { x with on := true, frameClk := some s.clk, dropFrame := false, ts4Sum := 0, ts4N := 0 } }

/-- The frame of a Plumb step ends: the first whole frame samples its residue afresh, with the carry at 0 (R539). -/
def weirAfterStep (s : State) (w : Fin 23) : State :=
  weirStart { s with weirs := vmod s.weirs w fun x => { x with residue := none, carry := 0 } } w

/-! The shadow (R746 - R750). -/

/-- The path converts now or may start to in the present mode; present paths alone are visited. -/
def visitable (s : State) (w : Fin 23) : Bool := pathRuns s w

/-- First visitable path at or after `w`, in ascending order and wrapping. -/
def nextVisit (s : State) (w : Fin 23) : Option (Fin 23) :=
  ((List.finRange 23).find? fun p => w ≤ p && visitable s p).or ((List.finRange 23).find? (visitable s))

/-- The visit of a path begins. -/
def beginVisit (s : State) (w : Fin 23) : State :=
  { s with ks := { s.ks with path := w, visiting := true, visitFrame := 0, compared := false, visitBad := false } }

/-- A visit ends without a mismatch: its path's 0x0C ends; 0x0D ends after two such visits running. -/
def visitPassed (s : State) (w : Fin 23) : State :=
  let bad := s.ks.badPaths &&& ~~~(BitVec.ofNat 23 (2 ^ w.val))
  let s := { s with ks := { s.ks with badPaths := bad, suspect := none, passes := min 2 (s.ks.passes + 1) } }
  let s := if bad = 0 ∧ faultActive s 0x0C ∧ !(s.ks.injected.contains 0x0C) then clearFault s 0x0C else s
  if faultActive s 0x0D ∧ 2 ≤ s.ks.passes ∧ !(s.ks.injected.contains 0x0D) then clearFault s 0x0D else s

/-- A visit ends: its verdict, and the next path, whose visit begins here when its own boundary is this one. -/
def endVisit (s : State) (w : Fin 23) : State :=
  let k := s.ks
  let s := if k.visitBad then { s with ks := { k with suspect := some w, passes := 0 } }
    else if k.compared then visitPassed s w else s
  let s := { s with ks := { s.ks with visiting := false } }
  match nextVisit s (w + 1) with
  | none => s
  | some p =>
    let s := { s with ks := { s.ks with path := p } }
    if s.weirs[p].frameClk = some s.clk then beginVisit s p else s

/-- Code 0x0C concerns a path. -/
def badPath (s : State) (w : Fin 23) : State :=
  { s with ks := { s.ks with badPaths := s.ks.badPaths ||| BitVec.ofNat 23 (2 ^ w.val) } }

/-- A mismatch in a visit of a path (R749); the command settles whether SAFE follows. -/
def shadowMismatch (s : State) (w : Fin 23) : State :=
  let k := s.ks
  if k.visitBad then s
  else
    let s := { s with ks := { k with visitBad := true } }
    if faultActive s 0x0D then s
    else
      match k.suspect with
      | some p =>
        if p = w then recordFault (badPath s w) 0x0C w.val 0x0C false
        else recordFault (clearFault { s with ks := { s.ks with badPaths := 0 } } 0x0C) 0x0D 23 0x0D false
      | none => recordFault (badPath s w) 0x0C w.val 0x0C false

/-- Two charges in coulomb differ (R748). -/
def chargesDiffer (qw qs : Rat) (r : Fin 4) : Bool :=
  decide (2 / 1000 * max (ratAbs qw) (ratAbs qs) + 8 * (qNom r / 10 ^ 15) < ratAbs (qw - qs))

/-- The charge W23 counted, in coulomb. -/
def shadowCharge (s : State) (r : Fin 4) (o : ShadowObs) : Rat :=
  ((o.pos.toNat : Rat) - (o.neg.toNat : Rat) + ((o.endCode.toNat : Rat) - (o.startCode.toNat : Rat)) / 32) * qCal s 23 r

/-- W23 visits this path now. -/
def visitedNow (s : State) (w : Fin 23) : Bool := s.ks.visiting && s.ks.path == w

/-- The comparison of a frame or AUX slot of a visit; true: a mismatch (R748, R749). -/
def shadowCompare (s : State) (w : Fin 23) (r : Fin 4) (charge : Rat) (ovr : Bool) (o : Option ShadowObs) : State × Bool :=
  match o with
  | none => (s, false)
  | some o =>
    if !visitedNow s w || ovr || spanReached o.spanHit o.endCode then (s, false)
    else
      let s := { s with ks := { s.ks with compared := true } }
      if chargesDiffer charge (shadowCharge s r o) r then (shadowMismatch s w, true) else (s, false)

/-- The end of a frame of a path as the shadow sees it: the second of a visit ends it, and a waiting visit begins (R746). -/
def shadowTurn (s : State) (w : Fin 23) : State :=
  if visitedNow s w then
    if s.ks.visitFrame = 0 then { s with ks := { s.ks with visitFrame := 1 } } else endVisit s w
  else if s.ks.visiting then s
  else if nextVisit s s.ks.path = some w then beginVisit s w
  else s

/-- Records of a path carry VALID clear while 0x0C is active for it (R750). -/
def pathBad (s : State) (w : Fin 23) : Bool := faultActive s 0x0C && s.ks.badPaths.getLsbD w.val

/-! Stage 1. -/

/-- A change of the analogue reference waits for a boundary at which every frame ends (R544, R752). -/
def wantedRef (s : State) : Bool × Fin 3 :=
  (cfgRefin s && !s.ks.refinLost, if s.ks.outA && !s.ks.outB then 2 else if s.ks.outB && !s.ks.outA then 1 else 0)

def refPending (s : State) : Bool := wantedRef s != (s.time.refExternal, s.time.refBandgap)

/-- The voted VREF in volts as VCN 0x86 holds it. -/
def votedVref (s : State) : Rat := (((entryOf s (ownVcn s 0x86)).bind (·.record)).map fun r => toRatD r.value).getD 0

/-- The mean of TS4 over the frame now running on a path, in degrees; a frame without a conversion takes the monitor's (R339, log 111). -/
def frameTs4 (s : State) (w : Fin 23) : Rat :=
  let x := s.weirs[w]
  if x.ts4N = 0 then sensorDegrees s 4 else x.ts4Sum / 16 / (x.ts4N : Rat)

/-- A stage 1 value of a path's frame: the curvature correction of VREF (R339), and while a reference change is pending the correction with the voted
VREF (R545, R752; log 14). -/
def stage1 (s : State) (w : Fin 23) (x : Rat) : Rat :=
  let c := s.cornerstone.vrefCurve
  let x := if c = 0 then x else Config.curve c (frameTs4 s w) x
  if refPending s then Config.refCorrect x (votedVref s) else x

/-- The reference in use after a boundary at which every frame in progress ends (R544, R752). -/
def switchRef (s : State) : State :=
  { s with time := { s.time with refExternal := (wantedRef s).1, refBandgap := (wantedRef s).2 } }

/-- A frame of a local index ends here and the next one starts: the sequence (R670), and the trims newly in force (R364). -/
def turnVcn (s : State) (idx : Nat) : State :=
  let v := ownVcn s idx
  startVcn { s with cal := { s.cal with old := s.cal.old.filter fun p => p.1 != v } } v

/-- Range in bits 31..30, a signed raw value below (R194 and the film's own field of 25 bits with its step). -/
def rawField (r : Fin 4) (raw : Int) : BitVec 32 := BitVec.ofNat 32 (r.val * 2 ^ 30 + (raw % 2 ^ 30).toNat)
def filmRaw (r : Fin 4) (step : Nat) (raw : Int) : BitVec 32 :=
  BitVec.ofNat 32 (r.val * 2 ^ 30 + step % 32 * 2 ^ 25 + (raw % 2 ^ 25).toNat)

end Sys2Proof.Machine
end

