-- ==== Sys2Proof/Machine/Frames.lean ====
section
/-! DEFINITION. The meanings of FRAME_BOUNDARY and HOUSEKEEPING_FRAME (04, 05, 06, 07, 09). -/

namespace Sys2Proof.Machine

/-! What ends at a boundary (R15, R181). -/

/-- What a boundary is to a path: its frame goes on, its first frame starts, a frame cut by a Plumb step ends, or a whole frame ends, an AUX
frame or one of a Weir with what its end gives. -/
inductive PathTurn where
  | stays
  | starts
  | dropped
  | auxEnded
  | ended (e : WeirEnd) (shadowed bad : Bool)
  deriving DecidableEq, Repr

/-- The frame of a path goes on. -/
def PathTurn.isStay : PathTurn → Bool
  | .stays => true
  | _ => false

/-- A channel is at a boundary of its frames: on the grid of its frame length, and not there already. -/
def boundaryHere (s : State) (us : Nat) (last : Option Nat) : Bool := onGrid s us && last != some s.clk

/-! The impedance tone (06). -/

/-- A frequency code in turns for a time in MCLK cycles. -/
def toneTurns (code t : Nat) : Rat := (code : Rat) / 8 * ((t : Rat) / 4096000)

/-- Packets of one electrode enter the demodulation sums (R216). -/
def toneAdd (code : Nat) (q : Rat) (t : Tone) (p : TonePacket) : Tone :=
  let (sn, cs) := sinCosTurns (toneTurns code p.t)
  let q := if p.neg then -q else q
  { t with s := t.s + q * sn, c := t.c + q * cs }

/-- The packets of electrode `w` in a frame of a window, with the conditions that flag the window (R216, R236). -/
def toneFeed (s : State) (w : Fin 16) (r : Fin 4) (ovr : Bool) (l : List TonePacket) : State :=
  let ch := ecOf w
  let t := s.tones[ch]
  if !t.active then s
  else
    let own := l.filter fun p => p.we2 == (w.val % 2 == 1)
    let t := own.foldl (toneAdd (toneCode s ch t.point) (qCal s w.val r)) t
    { s with tones := s.tones.set ch.val { t with overSeen := t.overSeen || ovr
                                                  open_ := t.open_ || s.ec[ch].compliance || s.ec[ch].complianceTail } }

/-- A window that starts at `clk`, with empty sums. -/
def toneRestart (clk : Nat) (t : Tone) (point : Nat) : Tone :=
  { t with active := true, point := point, frames := 0, s := 0, c := 0, overSeen := false, open_ := false, start := clk }

/-- A channel without a tone. -/
def toneOff (t : Tone) : Tone :=
  { t with active := false, sweeping := false, late := false, point := 0, frames := 0, s := 0, c := 0, overSeen := false, open_ := false }

/-- Z_phase wrapped to above -180 up to 180. -/
def wrapPhase (d : Rat) : Rat := if d ≤ -180 then d + 360 else d

/-- A free value as a binary32 (R841, log 8). -/
def drawF32 (s : State) : F32 × State := (oneNaN (drawFree s).1, (drawFree s).2)

/-- Magnitude and phase of a window (R216); without a current the spec states neither, and both are free values (log 8). -/
def toneResult (s : State) (ch : Fin 8) : State × F32 × F32 :=
  let t := s.tones[ch]
  let tw : Rat := (toneWindow s ch * pathUs s (weirOfWe ⟨2 * ch.val, by omega⟩) : Nat) / 10 ^ 6
  let m := ratSqrt ((t.s * t.s + t.c * t.c) * 10 ^ 36) / 10 ^ 18
  if t.s = 0 ∧ t.c = 0 ∨ m = 0 then
    let (a, s) := drawF32 s
    let (b, s) := drawF32 s
    (s, a, b)
  else
    let ipk := 2 / tw * m
    let a := (toneAmp s ch : Rat) / 1000 * s.cornerstone.toneTrim
    (s, ofRat (stage1 s (weirOfWe ⟨2 * ch.val, by omega⟩) (ratSqrt 2 * a / ipk)), ofRat (wrapPhase (-(atan2Deg t.c t.s))))

/-- Raw field of an impedance record. -/
def toneRaw (s : State) (ch : Fin 8) : BitVec 32 :=
  let p := s.tones[ch].point
  BitVec.ofNat 32 (toneAmp s ch * 2 ^ 22 + (toneWindow s ch - 1) * 2 ^ 16 + (if toneMode s ch = 2 then p else 0) * 2 ^ 13 +
    toneCode s ch p)

/-- OPEN by impedance (R232): EV09 once per episode. -/
def toneOpen (s : State) (ch : Fin 8) (isOpen : Bool) : State :=
  let was := s.ec[ch].zOpen
  let s := { s with ec := vmod s.ec ch fun c => { c with zOpen := isOpen } }
  if isOpen && !was then raise s 9 (ownVcn s (2 * ch.val)).toNat else s

/-- The bands (R233): EV08 once per episode, with the VCN of the first quantity outside. -/
def toneBands (s : State) (ch : Fin 8) (mag phase : Bool) : State :=
  let was := s.ec[ch].zEpisode
  let s := { s with ec := vmod s.ec ch fun c => { c with zMagOut := mag, zPhaseOut := phase, zEpisode := mag || phase } }
  if (mag || phase) && !was then raise s 8 (ownVcn s ((if mag then 0x30 else 0x38) + ch.val)).toNat else s

/-- What follows a window: the next one, the next point of a sweep, or silence (R215, Sweeps). -/
def toneNext (s : State) (ch : Fin 8) : State :=
  let t := s.tones[ch]
  let t' := if toneMode s ch = 1 then toneRestart s.clk t 0
    else if t.point + 1 < tonePoints s ch then toneRestart s.clk t (t.point + 1) else toneOff t
  { s with tones := s.tones.set ch.val t' }

/-- A window that has ended: Z_mag, Z_phase, OPEN by the open limit. -/
structure ToneEnd where
  mag : F32
  phase : F32
  openZ : Bool
  deriving DecidableEq, Repr

/-- The frame that ends is the last of its channel's window. -/
def toneEnds (s : State) (ch : Fin 8) : Bool :=
  let t := s.tones[ch]
  toneMode s ch != 0 && t.active && toneWindow s ch ≤ t.frames + 1

/-- The result of a window that ends here (R217, R232). -/
def toneClose (s : State) (ch : Fin 8) : State × Option ToneEnd :=
  if !toneEnds s ch then (s, none)
  else
    let (s, z, ph) := toneResult s ch
    (s, some { mag := z, phase := ph, openZ := flt (f32At (toneBlock s ch) 16) z })

/-- Status of an impedance record (R217, R219). -/
def toneBits (t : Tone) (e : ToneEnd) : StatusBits :=
  let isOpen := t.open_ || e.openZ
  { valid := !t.overSeen && !isOpen, overRange := t.overSeen, openInput := isOpen, late := t.late }

/-- The channel after the records of its window: open limit, bands, the next window (R217, R232, R233). -/
def toneFinish (s : State) (ch : Fin 8) (e : ToneEnd) : State :=
  let b := toneBlock s ch
  let s := toneOpen s ch e.openZ
  let deg := 100 * toRatD e.phase
  let s := toneBands s ch (flt e.mag (f32At b 8) || flt (f32At b 12) e.mag)
    (!isNaN e.phase && (deg < (signed 16 (u16 b 20) : Rat) || (signed 16 (u16 b 22) : Rat) < deg))
  toneNext s ch

/-- The tone of a channel whose frame has ended: the window counts a frame, or has its result; a waiting one starts here, and one that a Plumb
step has cut starts anew at the same point (log 99). -/
def toneTurn (s : State) (ch : Fin 8) (dropped : Bool) (e : Option ToneEnd) : State :=
  let t := s.tones[ch]
  let put (t : Tone) : State := { s with tones := s.tones.set ch.val t }
  if toneMode s ch = 0 then s
  else if !t.active then (if toneMode s ch = 1 || t.sweeping then put (toneRestart s.clk t 0) else s)
  else if dropped then put (toneRestart s.clk t t.point)
  else
    match e with
    | some e => toneFinish s ch e
    | none => put { t with frames := t.frames + 1 }

/-- The tone now in volt (R209): sqrt(2) A sin(2 pi f t) from the start of the window, or what is left of it in the millisecond after SAFE or a
warm reset has cut it off (R213). -/
def toneVolts (s : State) (ch : Fin 8) : Rat :=
  let t := s.tones[ch]
  let wave (amp code us : Nat) : Rat := ratSqrt 2 * ((amp : Rat) / 1000) * (sinCosTurns ((code : Rat) / 8 * ((us : Rat) / 10 ^ 6))).1
  if t.active then wave (toneAmp s ch) (toneCode s ch t.point) (s.clk - t.start)
  else
    match t.fade with
    | none => 0
    | some f => if 1000 ≤ s.clk - f.start then 0 else (1000 - (s.clk - f.start : Nat) : Rat) / 1000 * wave f.amp f.code (s.clk - f.window)

/-- V(WEn) - V(REn) of a channel in volt: the DAC's bias and the tone after it (R166, R209). -/
def cellBias (s : State) (ch : Fin 8) : Rat := (s.ec[ch].dac : Rat) * 2 / 10 ^ 6 + toneVolts s ch

/-! Electrodes (05). -/

/-- The last present electrode of a channel, whose frame end closes the channel's frame. -/
def lastWe (s : State) (w : Fin 16) : Bool := w.val % 2 == 1 || !ecWe2 s (ecOf w)

/-- The record of an electrode's frame (R179, R185, R194, table of status bits). -/
def electrodeRecord (s : State) (w : Fin 16) (e : WeirEnd) (shadowed bad : Bool) (o : BoundaryObs) : State :=
  let c := s.ec[ecOf w]
  let f := weirOfWe w
  let warm := c.warmUntil.isSome
  let isOpen := c.compliance || c.complianceTail || c.zOpen
  let x := (e.raw : Rat) * (qCal s w.val e.range / 32) / ((pathUs s f : Rat) / 10 ^ 6)
  emitRecord s w.val (ofRat (stage1 s f x)) (rawField e.range e.raw)
    { valid := !warm && !e.ovr && !isOpen && !bad && !pathBad s f, notYet := warm, overRange := e.ovr, openInput := isOpen,
      shadowed := shadowed } o.lin o.bad

/-- Electrode `w` of Weir `f` turns: a whole frame may change the range; the channel's frame closes with its last electrode. -/
def electrodeTurn (s : State) (w : Fin 16) (t : PathTurn) (e : Option ToneEnd) : State :=
  let f := weirOfWe w
  let ch := ecOf w
  let shared (s : State) : State :=
    let s := shadowTurn (turnVcn s w.val) f
    if lastWe s w then turnVcn (turnVcn s (0x30 + ch.val)) (0x38 + ch.val) else s
  let tail (s : State) : State := if lastWe s w then { s with ec := vmod s.ec ch fun c => { c with complianceTail := false } } else s
  let close (s : State) (dropped : Bool) : State := if lastWe s w then toneTurn (tail s) ch dropped e else s
  match t with
  | .stays | .auxEnded => s
  | .starts => tail (shared (weirStart s f))
  | .dropped => close (shared (weirAfterStep s f)) true
  | .ended x _ _ => close (shared (weirTurn s f (nextRange (rangeCtl s f) x (pathUs s f)))) false

/-! Burn-out periods (R223, R263). -/

/-- Frame end of an input: the period counts, and a check that was due and not made has been deferred once more. The next period counts from the
frame in which the check ran (R223; DESIGN CHOICE, log 44). -/
def burnTurn (s : State) (i : BurnInput) : State :=
  let p := (burnCfg s i).2.1
  { s with burns := vmod s.burns (burnIdx i) fun b =>
      if b.active then { b with active := false, count := p - 1, deferred := 0 }
      else if b.count = 0 then { b with deferred := b.deferred + 1 }
      else { b with count := b.count - 1 } }

/-! Films and heaters (07). -/

/-- Microseconds of a film frame that a burn-out slot takes (R225); the gap is 2. -/
def filmSlot (s : State) (n : Fin 6) : Nat :=
  if s.burns[burnIdx (.film n)].active then
    let b := filmBurn s n
    2 + 100 * u8 b 2 + 2 + u16 b 4
  else 0

/-- R_film in ohm; none: the +infinity of R260. -/
def filmOhm (s : State) (n : Fin 6) (e : WeirEnd) : Option Rat :=
  let f := weirOfFilm n
  if e.raw ≤ 0 then none
  else
    let v := (u16 (moxBlock s n) 4 : Rat) / 1000 * s.cornerstone.vForce[n]
    let t := ((pathUs s f : Rat) - (filmSlot s n : Rat)) / 10 ^ 6
    let r := v * t / ((e.raw : Rat) * qCal s f.val e.range)
    if 10 ^ 12 < r then none else some r

/-- T_step of R261: the step's or the command's target; an OFF or DUTY step, or a commanded off, has none. -/
def stepTemp (s : State) (n : Fin 6) : Option Rat :=
  let m := s.mox[n]
  match m.override with
  | .target t _ => some ((t : Rat) / 10)
  | .off => none
  | .none => if stepKind s n m.step = 1 ∨ stepKind s n m.step = 2 then some (stepTarget s n m.step) else none

/-- The stage 1 value of a film (R260, R261); with RATIO and no T_step, or a zero Rbase_eff, it is a free value (log 8). -/
def filmValue (s : State) (n : Fin 6) (r : Rat) : State × F32 :=
  if !moxRatio s n then (s, ofRat (stage1 s (weirOfFilm n) r))
  else
    let b := moxBlock s n
    let base (t : Rat) : Rat := toRatD (f32At b 16) *
      (1 + (signed 16 (u16 b 20) : Rat) / 10 ^ 6 * (t - (signed 16 (u16 b 22) : Rat) / 10))
    match stepTemp s n with
    | some t => if base t = 0 then ((drawF32 s).2, (drawF32 s).1) else (s, ofRat (stage1 s (weirOfFilm n) (r / base t)))
    | none => ((drawF32 s).2, (drawF32 s).1)

/-- The film record of a sample frame (R259 - R263, R269, R278). -/
def filmRecord (s : State) (n : Fin 6) (e : WeirEnd) (shadowed bad : Bool) (o : BoundaryObs) : State :=
  let m := s.mox[n]
  let warm := m.warmUntil.isSome
  let isOpen := s.burns[burnIdx (.film n)].isOpen
  let good := !warm && m.frameGood && m.fault.isNone && !isOpen && !bad && !pathBad s (weirOfFilm n)
  let raw := filmRaw e.range (if m.override = .none then m.step else 0) e.raw
  let b : StatusBits := { notYet := warm, openInput := isOpen, shadowed := shadowed }
  match filmOhm s n e with
  | none => ownRecord s (0x10 + n.val) 0x7F800000 raw { b with overRange := true } o.bad
  | some r =>
    let (s, x) := filmValue s n r
    emitRecord s (0x10 + n.val) x raw { b with overRange := e.ovr, valid := good && !e.ovr } o.lin o.bad

/-- The heater record of a film frame (R269, R272, table Heater raw field). Means over no measurement have no stated value. -/
def heaterRecord (s : State) (n : Fin 6) (o : BoundaryObs) : State :=
  let m := s.mox[n]
  let (free, s) := if m.nR = 0 ∨ m.nT = 0 then drawFree s else (0, s)
  let duty : Nat := if m.nT = 0 then free.toNat / 65536 % 2048 else (ratRNE (1000 * m.sumDuty / (m.nT : Rat))).toNat
  let th : Nat := if m.nR = 0 then free.toNat % 65536 else (ratRNE (10 * m.sumT / (m.nR : Rat)) % 65536).toNat
  let raw := BitVec.ofNat 32 (m.step % 32 * 2 ^ 27 + duty % 2048 * 2 ^ 16 + th)
  let x := if m.nR = 0 then qnan else ofRat (stage1 s (weirOfFilm n) (m.sumR / (m.nR : Rat)))
  emitRecord s (0x18 + n.val) x raw { valid := m.nR != 0 && m.fault.isNone } o.lin o.bad

/-- Step `k` comes into force at a film frame boundary; a command's override goes on. -/
def stepAt (s : State) (n : Fin 6) (m : Mox) (k : Nat) : Mox :=
  let m' := { (enterStep s n m k s.clk) with tickClk := s.clk }
  if m.override = .none then m' else { m' with target := m.target }

/-- The profile starts at step 0 (R251, R264, R266, R274), its 1 ms ticks with it: no instantaneous target until the first measurement. -/
def startProfile (s : State) (n : Fin 6) (m : Mox) : Mox :=
  let keep := m.override != .none
  let m' := enterStep s n { m with target := none, commanded := false } 0 s.clk
  { m' with started := true, restart := false, tickClk := s.clk, target := if keep then m.target else m'.target }

/-- The next loop begins at this film frame boundary: the last step has ended before it, or ends on it (R252). -/
def loopsHere (s : State) (n : Fin 6) (m : Mox) : Bool :=
  m.loopWait ||
    (m.step + 1 == stepCount s n && profileLoops s n && !m.held && decide (m.stepClk + 1000 * stepTicks s n m.step ≤ s.clk))

/-- The heater's side of a film frame boundary: sums anew, a waiting start, restart or loop, the warm-up timer, and whether the new
frame lies in a SAMPLE step so far and begins unshed (R250 - R252, R258, R262, R264). -/
def moxBoundary (s : State) (n : Fin 6) : State :=
  let m := s.mox[n]
  let m := { m with frameGood := !moxShed s n, sumR := 0, nR := 0, sumDuty := 0, sumT := 0, nT := 0 }
  let m :=
    if m.restart then startProfile s n { m with override := .none, target := none }
    else if !m.started then startProfile s n m
    else if loopsHere s n m then stepAt s n m (loopStart s n)
    else { m with frameSample := stepSample s n m.step }
  let m := match m.warmPending with
    | none => m
    | some sec => { m with warmPending := none, warmUntil := if sec = 0 then none else some (s.clk + 1000000 * sec) }
  { s with mox := s.mox.set n.val m }

/-- Film `n` turns: a whole frame may change the range; a burn-out period counts, and the heater's side follows. -/
def filmTurn (s : State) (n : Fin 6) (t : PathTurn) : State :=
  let f := weirOfFilm n
  let shared (s : State) : State := shadowTurn (turnVcn (turnVcn s (0x10 + n.val)) (0x18 + n.val)) f
  match t with
  | .stays | .auxEnded => s
  | .starts => moxBoundary (shared (weirStart s f)) n
  | .dropped => moxBoundary (burnTurn (shared (weirAfterStep s f)) (.film n)) n
  | .ended x _ _ => moxBoundary (burnTurn (shared (weirTurn s f (nextRange (rangeCtl s f) x (pathUs s f)))) (.film n)) n

/-! AUX (06). -/

/-- The RES inputs present, ascending. -/
def resInputs (s : State) : List (Fin 4) := (List.finRange 4).filter fun n => auxPresent s n && auxQuantity s n == 2

/-- V_upper of a RES input in this AUX frame (R230). -/
def auxUpper (s : State) (n : Fin 4) : Option Rat :=
  match ((resInputs s).filter fun k => k < n).reverse with
  | [] => s.aux.exs
  | k :: _ => s.aux.conv[k].map (·.volts)

/-- The other conversion of the AUX frame that an input's value rests on (R230): it reached the end of the span, its comparison found a mismatch. -/
def auxPartner (s : State) (n : Fin 4) : Bool × Bool :=
  let exs := (s.aux.exsOvr, s.aux.exsBad)
  match auxQuantity s n, ((resInputs s).filter fun k => k < n).reverse with
  | 1, _ | 2, [] => exs
  | 2, k :: _ => ((s.aux.conv[k].map fun c => (c.ovr, c.bad)).getD (false, false))
  | _, _ => (false, false)

/-- The value an AUX input passes to linearisation: none while a conversion it needs is missing from the frame. A ratio to 0 V is a
free value (log 8). -/
def auxValue (s : State) (n : Fin 4) (c : AuxConv) : Option (State × F32) :=
  match auxQuantity s n with
  | 1 => s.aux.exs.map fun e => if e = 0 then ((drawF32 s).2, (drawF32 s).1) else (s, ofRat (stage1 s 22 (c.volts / e)))
  | 2 => (auxUpper s n).map fun u => (s, ofRat (stage1 s 22 ((u - c.volts) / auxCurrent s)))
  | _ => some (s, ofRat (stage1 s 22 c.volts))

/-- What drives the excitation ball (R229). -/
inductive AuxDrive where
  /-- High-impedance. -/
  | off
  /-- That many volt; `sensed`: regulated on AUX_EXS, so that the drop in the lead does not count. -/
  | voltage (volts : Rat) (sensed : Bool)
  /-- That many ampere, up to the compliance of 2.5 V. -/
  | current (amps : Rat)
  deriving DecidableEq, Repr

/-- The excitation in RUN and WATCH by section 0x09. In SAFE and in resets it is off: R121 and the tables of 04 do not name it (R229; DESIGN CHOICE,
log 141). -/
def excitation (s : State) : AuxDrive :=
  if !isActive s then .off
  else
    match u8 (sec s 9) 0 with
    | 1 => .voltage ((u16 (sec s 9) 2 : Rat) / 1000) (bit (u8 (sec s 9) 1) 0)
    | 2 => .current (auxCurrent s)
    | _ => .off

/-- The current source has stood at its compliance for the whole AUX frame (R229, R231): AUX_EXC never below 2.5 V. -/
def atCompliance (s : State) (o : BoundaryObs) : Bool :=
  match excitation s with
  | .current _ => 5 / 2 ≤ o.excMin
  | _ => false

/-- The record of one AUX input in an AUX frame (R183, R224, R231, R750). -/
def auxRecord (s : State) (n : Fin 4) (o : BoundaryObs) : State :=
  let v := 0x20 + n.val
  match s.aux.conv[n] with
  | none => skipVcn s (ownVcn s v)
  | some c =>
    match auxValue s n c with
    | none => skipVcn s (ownVcn s v)
    | some (s, x) =>
      let isOpen := s.burns[burnIdx (.aux n)].isOpen || (atCompliance s o && auxQuantity s n == 2)
      let (ovr, bad) := auxPartner s n
      let either := c.ovr || ovr
      emitRecord s v x (rawField 3 c.raw)
        { valid := !isOpen && !either && !c.bad && !bad && !pathBad s 22, overRange := either, openInput := isOpen, shadowed := c.shadowed }
        o.lin o.bad

/-- Compliance of the current source over a whole AUX frame (R231): EV09 once per episode, with the lowest RES input's VCN (log 43). Without a
RES input there is no VCN to name, and the model raises nothing and keeps no episode. -/
def auxCompliance (s : State) (hit : Bool) : State :=
  match resInputs s with
  | [] => s
  | n :: _ =>
    let was := s.aux.episode
    let s := { s with aux := { s.aux with episode := hit } }
    if hit && !was then raise s 9 (ownVcn s (0x20 + n.val)).toNat else s

/-- The present inputs, ascending. -/
def auxInputs (s : State) : List (Fin 4) := (List.finRange 4).filter (auxPresent s)

/-- The AUX path turns: the next AUX frame has converted no input yet, and its first visit begins. -/
def auxPathTurn (s : State) (o : BoundaryObs) (t : PathTurn) : State :=
  let burns (s : State) : State := (auxInputs s).foldl (fun s n => burnTurn s (.aux n)) s
  let shared (s : State) : State :=
    let s := (auxInputs s).foldl (fun s n => turnVcn s (0x20 + n.val)) s
    shadowTurn { s with aux := { s.aux with exs := none, conv := Vector.replicate 4 none, visits := 0, visitClk := s.clk } } 22
  match t with
  | .stays | .ended _ _ _ => s
  | .starts => shared (weirStart s 22)
  | .dropped => shared (burns (weirAfterStep s 22))
  | .auxEnded => shared (weirTurn (burns (auxCompliance s (atCompliance s o))) 22 3)

/-! The node's own quantities (02, 09). -/

/-- Local indices of the system frame. -/
def systemIndices : List Nat := (List.range 8).map (0x28 + ·) ++ (List.range 16).map (0x80 + ·)

/-- A frame of the node's own quantities without a conversion: the spec states no mean, and each is a free value (log 8). -/
def readyMeans (s : State) : State :=
  let one (s : State) (i : Fin 8) : State :=
    let (w, s) := drawFree s
    { s with thermal := { s.thermal with frameSum := s.thermal.frameSum.set i.val w.toInt } }
  if s.thermal.frameN = 0 then
    let s := (List.finRange 8).foldl one s
    { s with thermal := { s.thermal with frameN := 1 } }
  else s

/-- Mean of a sensor's conversions in the frame that ends (R345). -/
def frameMean (s : State) (i : Fin 8) : Rat := (s.thermal.frameSum[i] : Rat) / (s.thermal.frameN : Rat)

/-- The record of a die temperature (R345, R346); its reading field holds the sensor's own mean to the nearest 1/16 K. -/
def tempRecord (o : BoundaryObs) (s : State) (i : Fin 8) : State :=
  let v : Vector Rat 8 := Vector.ofFn (frameMean s)
  let bad := sensorBad s i
  emitRecord s (0x28 + i.val) (ofRat (sensorValue s v i / 16))
    (BitVec.ofNat 32 ((if bad then 2 ^ 31 else 0) + (ratRNE v[i] % 65536).toNat)) { valid := !bad } o.lin o.bad

/-- The record of a supply quantity (R61); the rail's read 0.0 while it is declared absent. -/
def supplyRecord (o : BoundaryObs) (s : State) (i : Fin 16) : State :=
  let absent := !railPresent s && 7 ≤ i.val && i.val ≤ 14
  emitRecord s (0x80 + i.val) (if absent then 0 else o.supplies[i].1) o.supplies[i].2 { valid := true } o.lin o.bad

/-- EV05 in the head, once every D system frame boundaries (R683). -/
def systemEvent (s : State) : State :=
  if s.role = .pod then s
  else
    let n := s.events.frames + 1
    if cfgEv05Divider s ≤ n then raise { s with events := { s.events with frames := 0 } } 5 0
    else { s with events := { s.events with frames := n } }

/-- Frame sequence of the system frame that ends. -/
def noteSystemFrame (s : State) : State :=
  match entryOf s (ownVcn s 0x28) with
  | none => s
  | some e => { s with events := { s.events with systemFrame := e.frameSeq } }

/-- The frames of the node's own quantities turn: the next one holds no conversion yet. -/
def turnSystem (s : State) : State :=
  let s := systemIndices.foldl turnVcn { s with sysOn := true, sysDrop := false, sysClk := some s.clk }
  { s with thermal := { s.thermal with frameSum := Vector.replicate 8 0, frameN := 0 } }

/-- What a boundary is to the node's own quantities, on frames of `us` microseconds. -/
inductive SystemTurn where
  | stays | starts | dropped | ended
  deriving DecidableEq, Repr

def systemTurn (s : State) : SystemTurn :=
  if !s.sysOn then .starts else if s.sysDrop then .dropped else .ended

/-- The system frame's, in RUN and WATCH. -/
def systemHere (s : State) : SystemTurn :=
  if isActive s && boundaryHere s (frameUs (frameK s s.modes.mode)) s.sysClk then systemTurn s else .stays

/-! The boundary as a whole. -/

/-- What ends at this boundary. -/
structure Ending where
  paths : Vector PathTurn 23
  tones : Vector (Option ToneEnd) 8
  system : SystemTurn
  deriving DecidableEq, Repr

/-- What a path's boundary is, with what its Weir latches: counts and residue, the shadow's comparison, the packets of a tone (R181, R216, R748). -/
def latchPath (o : BoundaryObs) (a : State × Vector PathTurn 23) (w : Fin 23) : State × Vector PathTurn 23 :=
  let (s, v) := a
  let x := s.weirs[w]
  let put (t : PathTurn) : Vector PathTurn 23 := v.set w.val t
  if !pathRuns s w || !boundaryHere s (pathUs s w) x.frameClk then (s, v)
  else if !x.on then (s, put .starts)
  else if x.dropFrame then (s, put .dropped)
  else if w = 22 then (s, put .auxEnded)
  else
    let q := o.weirs[w]
    let (s, e) := weirEnd s w (if w.val < 16 then 32 else 1) q
    let shadowed := visitedNow s w
    let (s, bad) := shadowCompare s w e.range e.charge e.ovr q.shadow
    let s := if h : w.val < 16 then toneFeed s ⟨w.val, h⟩ e.range e.ovr q.tone else s
    (s, put (.ended e shadowed bad))

/-- The channel's frame, which its WE1 carries, ends whole. -/
def ecEnded (v : Vector PathTurn 23) (ch : Fin 8) : Bool :=
  match v[(⟨2 * ch.val, by omega⟩ : Fin 23)] with
  | .ended _ _ _ => true
  | _ => false

/-- The window of a channel, if it ends here. -/
def latchTone (v : Vector PathTurn 23) (a : State × Vector (Option ToneEnd) 8) (ch : Fin 8) : State × Vector (Option ToneEnd) 8 :=
  if !ecEnded v ch then a
  else
    let (s, e) := toneClose a.1 ch
    (s, a.2.set ch.val e)

/-- Everything that ends at this boundary, Weirs in ascending order. -/
def latchAll (s : State) (o : BoundaryObs) : State × Ending :=
  let (s, v) := (List.finRange 23).foldl (latchPath o) (s, Vector.replicate 23 .stays)
  let (s, t) := (List.finRange 8).foldl (latchTone v) (s, Vector.replicate 8 none)
  let g := systemHere s
  (if g = .ended then readyMeans s else s, { paths := v, tones := t, system := g })

/-- A frame of a local index of this node ends without a record. -/
def skipOwn (s : State) (idx : Nat) : State := skipVcn s (ownVcn s idx)

/-- The record, if any, of one local index. -/
def indexRecord (o : BoundaryObs) (g : Ending) (s : State) (i : Nat) : State :=
  if h : i < 0x10 then
    match g.paths[(⟨i, by omega⟩ : Fin 23)] with
    | .dropped => skipOwn s i
    | .ended e sh bad => electrodeRecord s ⟨i, h⟩ e sh bad o
    | _ => s
  else if h : i - 0x10 < 6 then
    let n : Fin 6 := ⟨i - 0x10, h⟩
    match g.paths[weirOfFilm n] with
    | .dropped => skipOwn s i
    | .ended e sh bad => if s.mox[n].frameSample || s.mox[n].override != .none then filmRecord s n e sh bad o else skipOwn s i
    | _ => s
  else if h : 0x18 ≤ i ∧ i - 0x18 < 6 then
    let n : Fin 6 := ⟨i - 0x18, h.2⟩
    match g.paths[weirOfFilm n] with
    | .dropped => skipOwn s i
    | .ended _ _ _ => heaterRecord s n o
    | _ => s
  else if h : 0x20 ≤ i ∧ i - 0x20 < 4 then
    let n : Fin 4 := ⟨i - 0x20, h.2⟩
    if !auxPresent s n then s
    else
      match g.paths[(22 : Fin 23)] with
      | .dropped => skipOwn s i
      | .auxEnded => auxRecord s n o
      | _ => s
  else if h : 0x28 ≤ i ∧ i - 0x28 < 8 then
    match g.system with
    | .dropped => skipOwn s i
    | .ended => tempRecord o s ⟨i - 0x28, h.2⟩
    | _ => s
  else if 0x30 ≤ i ∧ i < 0x40 then
    let ch : Fin 8 := ⟨i % 8, Nat.mod_lt _ (by decide)⟩
    match g.paths[(⟨2 * ch.val, by omega⟩ : Fin 23)], g.tones[ch] with
    | .dropped, _ => skipOwn s i
    | .ended _ _ _, none => skipOwn s i
    | .ended _ _ _, some e => emitRecord s i (if i < 0x38 then e.mag else e.phase) (toneRaw s ch) (toneBits s.tones[ch] e) o.lin o.bad
    | _, _ => s
  else if h : 0x80 ≤ i ∧ i - 0x80 < 16 then
    match g.system with
    | .dropped => skipOwn s i
    | .ended => supplyRecord o s ⟨i - 0x80, h.2⟩
    | _ => s
  else s

/-- The records of a boundary, in ascending local index (R354). -/
def boundaryRecords (o : BoundaryObs) (g : Ending) (s : State) : State := (List.range 0x90).foldl (indexRecord o g) s

/-- One path turns. -/
def pathTurn (o : BoundaryObs) (g : Ending) (s : State) (w : Fin 23) : State :=
  match pathOf w with
  | .electrode e => electrodeTurn s e g.paths[w] g.tones[ecOf e]
  | .film n => filmTurn s n g.paths[w]
  | .aux => auxPathTurn s o g.paths[w]

/-- The node's own quantities turn: EV05 comes with a system frame that ends (R683). -/
def ownTurn (g : SystemTurn) (s : State) : State :=
  match g with
  | .stays => s
  | .starts | .dropped => turnSystem s
  | .ended => turnSystem (systemEvent (noteSystemFrame s))

/-- The end of a class frame closes an episode that nothing has disturbed in it (R505). -/
def episodeTurn (s : State) : State := if mereRuns s && onGrid s (classUs s) then classEpisode s else s

/-- FRAME_BOUNDARY (R15, R181, R354, R505): at a boundary of Plumb's base frame every channel whose frame ends there has its record, in ascending
local index, and starts its next frame; a channel that waits starts. A change of reference follows where every frame has ended (R544), and
SAFE, when a fault found here calls for it. -/
def execFrameBoundary (o : BoundaryObs) (s : State) : Host.Outcome State Fault Refusal :=
  let (t, g) := latchAll s o
  let t := episodeTurn (boundaryRecords o g t)
  let t := ownTurn g.system ((List.finRange 23).foldl (pathTurn o g) t)
  .next (settle s (if allEndHere t then switchRef t else t))

/-- What the housekeeping frame brings beside the supplies: its commands carry no mismatch, since no rule and no stage 2 runs on it. -/
def housekeepingObs (m : SupplyObs) : BoundaryObs :=
  let w : WeirObs := { pos := 0, neg := 0, endCode := 0, startCode := 0, spanHit := false, shadow := none, tone := [] }
  { weirs := Vector.replicate 23 w, excMin := 0, supplies := m, lin := [], bad := [] }

/-- The records of a housekeeping frame. -/
def nodeRecords (s : State) (m : SupplyObs) : State :=
  boundaryRecords (housekeepingObs m) { paths := Vector.replicate 23 .stays, tones := Vector.replicate 8 none, system := .ended } (readyMeans s)

/-- HOUSEKEEPING_FRAME (R124): in SAFE, a whole Plumb second ends a frame of the node's own quantities and starts the next; the first
one after the entry only starts one. No other frame runs, so a waiting change of reference takes place here (R544). -/
def execHousekeepingFrame (m : SupplyObs) (s : State) : Host.Outcome State Fault Refusal :=
  if !inSafe s || !onCount s 1000000 || s.sysClk == some s.clk then .next s
  else
    match systemTurn s with
    | .dropped => .next (switchRef (turnSystem (systemIndices.foldl skipOwn s)))
    | .ended => .next (settle s (switchRef (turnSystem (nodeRecords s m))))
    | _ => .next (switchRef (turnSystem s))

end Sys2Proof.Machine
end

