-- ==== Sys2Proof/Machine/Ec.lean ====
section
/-! DEFINITION. The meanings of the electrochemical, cell check and AUX commands (05, 06) but for frame boundaries. -/

namespace Sys2Proof.Machine

/-- A channel after the end of its warm-up at this moment (R179, R412). -/
def warmOver (clk : Nat) (c : EcChan) : EcChan := { c with warmUntil := none, warmEnd := clk }

/-- The cold warm-up timer of a channel starts. -/
def beginWarm (s : State) (sec : Nat) (c : EcChan) : EcChan :=
  if sec = 0 then warmOver s.clk c else { c with warmUntil := some (s.clk + 1000000 * sec) }

/-- Microseconds from one bias step to the next at a rate in microvolt per second (R173). -/
def stepUs (rate : Nat) : Rat := 2 * 10 ^ 6 / (rate : Rat)

/-- Rate at which a channel that retires goes to 0 V (R176). -/
def retireRate : Nat := 1000

/-- A millisecond of the channel's stage has passed (R174, R176, R850). -/
def stageOver (s : State) (c : EcChan) : Bool := decide (c.stageClk + 1000 ≤ s.clk)

/-- COLD_START_SWITCH_OPEN (R174, R850): steps 2 and 3 of the cold start, 1 ms after the handover or the exit from SAFE. -/
def execColdStartSwitchOpen (ch : Fin 8) (s : State) : Host.Outcome State Fault Refusal :=
  if isActive s && s.ec[ch].stage == .cold && stageOver s s.ec[ch] then
    let c := s.ec[ch]
    let c := { c with shorted := false, stage := .biased, stepDue := (s.clk : Rat) + stepUs c.rate }
    .next { s with ec := s.ec.set ch.val (beginWarm s (ecCold s ch) c) }
  else .next s

/-- One step of 2 microvolt towards a code. -/
def stepTowards (cur goal : Int) : Int := if cur < goal then cur + 1 else if goal < cur then cur - 1 else cur

/-- The step of a channel whose period at `rate` has passed (R173). -/
def slewStep (clk : Nat) (goal : Int) (rate : Nat) (c : EcChan) : EcChan :=
  if (clk : Rat) < c.stepDue || c.dac == goal then c
  else { c with dac := stepTowards c.dac goal, stepDue := c.stepDue + stepUs rate }

/-- BIAS_SLEW_STEP (R170, R173, R176, R203): one 2 microvolt step towards the target, or to 0 V on a channel that retires, once the step period
of the rate in force has passed. -/
def execBiasSlewStep (ch : Fin 8) (s : State) : Host.Outcome State Fault Refusal :=
  let c := s.ec[ch]
  if !isActive s then .next s
  else
    match c.stage with
    | .biased => .next { s with ec := s.ec.set ch.val (slewStep s.clk c.target c.rate c) }
    | .retiring =>
      let c := slewStep s.clk 0 retireRate c
      .next { s with ec := s.ec.set ch.val (if c.dac = 0 then { c with stage := .retiredAtZero, stageClk := s.clk } else c) }
    | _ => .next s

/-- SHORT_SWITCH_CLOSE (R176): 1 ms after a retiring channel has reached 0 V. SAFE leaves every switch as it stands (R121). -/
def execShortSwitchClose (ch : Fin 8) (s : State) : Host.Outcome State Fault Refusal :=
  if isActive s && s.ec[ch].stage == .retiredAtZero && stageOver s s.ec[ch] then
    .next { s with ec := vmod s.ec ch fun c => { c with shorted := true, stage := .retiredShorted, stageClk := s.clk } }
  else .next s

/-- POTENTIOSTAT_DISABLE (R176): 1 ms after the switch has closed, the channel stands as R177 states. -/
def execPotentiostatDisable (ch : Fin 8) (s : State) : Host.Outcome State Fault Refusal :=
  if isRunning s && s.ec[ch].stage == .retiredShorted && stageOver s s.ec[ch] then
    .next { s with ec := vmod s.ec ch fun c => { c with enabled := false, stage := .off } }
  else .next s

/-- A timer that runs until a clk has expired. -/
def expired (clk : Nat) : Option Nat → Bool
  | none => false
  | some t => decide (t ≤ clk)

/-- WARMUP_EXPIRY (R179, R264): the channel's records are no longer marked NOTYET. -/
def execWarmupExpiry (ch : WarmChan) (s : State) : Host.Outcome State Fault Refusal :=
  match ch with
  | .ec n => if expired s.clk s.ec[n].warmUntil then .next { s with ec := vmod s.ec n (warmOver s.clk) } else .next s
  | .mox n => if expired s.clk s.mox[n].warmUntil then .next { s with mox := vmod s.mox n fun m => { m with warmUntil := none } } else .next s

/-- The counter electrode stands at its limit: within 50 mV of 2.2 V about VDD/2, or at 250 microampere (R169, R199). -/
def ceAtLimit (o : CeObs) : Bool := decide (215 / 100 ≤ ratAbs o.volts) || decide (250 / 10 ^ 6 ≤ ratAbs o.amps)

/-- COMPLIANCE_ENTER (R199): at the limit continuously for 1 ms; EV09 once per episode, with the VCN of the channel's WE1. A channel that is
declared absent reports none (R58). -/
def execComplianceEnter (ch : Fin 8) (o : CeObs) (s : State) : Host.Outcome State Fault Refusal :=
  let c := s.ec[ch]
  if !isRunning s || !ecPresent s ch || !c.enabled || c.compliance || !ceAtLimit o || o.us < 1000 then .next s
  else
    let s := { s with ec := s.ec.set ch.val { c with compliance := true }
                      tones := vmod s.tones ch fun t => { t with open_ := t.open_ || t.active } }
    .next (raise s 9 (ownVcn s (2 * ch.val)).toNat)

/-- COMPLIANCE_EXIT (R200): 1 s continuously out of it; the frame now running still carries OPEN. -/
def execComplianceExit (ch : Fin 8) (o : CeObs) (s : State) : Host.Outcome State Fault Refusal :=
  if s.ec[ch].compliance && !ceAtLimit o && 1000000 ≤ o.us then
    .next { s with ec := vmod s.ec ch fun c => { c with compliance := false, complianceTail := s.weirs[(⟨2 * ch.val, by omega⟩ : Fin 23)].on } }
  else .next s

/-- A bias target stays within the limit of the channel's tone (R214). -/
def biasFitsTone (s : State) (n : Fin 8) (t : Int) : Bool := toneMode s n == 0 || toneBiasOk t (toneAmp s n)

/-- The effect of an accepted bias command (R170, R171, R197): from this moment the next step is due one period of the rate in force on (log 100). -/
def setBias (s : State) (n : Fin 8) (target : Int) (rate : Nat) : State :=
  let one (c : EcChan) : EcChan :=
    if c.target = target then c
    else
      let r := if rate = 0 then c.rate else rate
      { c with target := target, rate := r, stepDue := if c.stage = .biased then (s.clk : Rat) + stepUs r else c.stepDue }
  { s with ec := vmod s.ec n one }

/-- BIAS (R196 - R198, R214). -/
def execBias (f : HostFrame) (s : State) : Host.Outcome State Fault Refusal :=
  .next (commandFrame s f 0x04 [] (argCount 12) fun s a =>
    let t := signed 32 (u32 a 4)
    if !hasCal s then (stLocked, s)
    else if h : u8 a 0 < 8 then
      let n : Fin 8 := ⟨u8 a 0, h⟩
      if !ecPresent s n || !zeros a 1 3 || !inZ (-500000) 500000 t || 100000 < u32 a 8 || !biasFitsTone s n t then (stBadArg, s)
      else if inSafe s then (stNotInMode, s)
      else (stOk, setBias s n t (u32 a 8))
    else (stBadArg, s))

/-- Start a sweep: the tone begins at the channel's next frame boundary (R212, R220). -/
def startSweep (late : Bool) (s : State) (n : Fin 8) : State :=
  { s with tones := s.tones.set n.val { (toneOff s.tones[n]) with sweeping := true, late := late } }

/-- Channels of a mask. -/
def maskChannels (m : Nat) : List (Fin 8) := (List.finRange 8).filter fun n => bit m n.val

/-- IMPEDANCE_SWEEP (R234): a mask without a channel starts no sweep and names none that is not in sweep mode; it is refused with
BAD_ARG (log 17). -/
def execImpedanceSweep (f : HostFrame) (s : State) : Host.Outcome State Fault Refusal :=
  .next (commandFrame s f 0x06 [] (argCount 4) fun s a =>
    let l := maskChannels (u8 a 0)
    if l.isEmpty || !zeros a 1 3 || l.any (fun n => toneMode s n != 2) then (stBadArg, s)
    else if l.all fun n => s.tones[n].sweeping then (stBusy, s)
    else if inSafe s then (stNotInMode, s)
    else (stOk, (l.filter fun n => !s.tones[n].sweeping).foldl (startSweep false) s))

/-- The frame now running on a film is expected to be a sample frame: it lies in a SAMPLE step that does not end before it (R263). -/
def sampleExpected (s : State) (n : Fin 6) : Bool :=
  let m := s.mox[n]
  let f := weirOfFilm n
  let fits := (s.weirs[f].frameClk.map fun c => decide (c + pathUs s f ≤ m.stepClk + 1000 * stepTicks s n m.step)).getD false
  m.override != .none || (m.frameSample && (m.held || fits || m.step + 1 == stepCount s n))

/-- A burn-out check may be made in the frame now running (R222, R223, R263). -/
def burnDue (s : State) (i : BurnInput) : Bool :=
  let b := s.burns[burnIdx i]
  let (level, p, _, _) := burnCfg s i
  isActive s && level != 0 && b.count == 0 && !b.active &&
    match i with
    | .aux n => auxPresent s n && s.weirs[(22 : Fin 23)].on
    | .film n => moxPresent s n && s.weirs[weirOfFilm n].on && (!sampleExpected s n || p ≤ b.deferred)

/-- The VCN index of an input with burn-out. -/
def burnIndex : BurnInput → Nat
  | .aux n => 0x20 + n.val
  | .film n => 0x10 + n.val

/-! One visit of W22 (table One visit of W22, R226). -/

/-- The EXS visit runs: some present input is RATIO or RES (R230). -/
def exsNeeded (s : State) : Bool := (List.finRange 4).any fun n => auxPresent s n && auxQuantity s n != 0

/-- The visits of an AUX frame in their order. -/
def auxSlots (s : State) : List AuxSlot := (if exsNeeded s then [.exs] else []) ++ (auxInputs s).map AuxSlot.input

/-- The visit in progress: the first one of the frame that is not done. -/
def visitNow (s : State) : Option AuxSlot := if s.weirs[(22 : Fin 23)].on then (auxSlots s)[s.aux.visits]? else none

/-- Gap t_g, discharge t_d and settle time t_s in microseconds. -/
def auxGap (s : State) : Nat := u8 (sec s 9) 5
def auxDischarge (s : State) : Nat := u16 (sec s 9) 6
def auxSettle (s : State) : Nat := u16 (sec s 9) 8

/-- The burn-out of a slot falls in the present frame (R223). -/
def slotBurns (s : State) : AuxSlot → Bool
  | .exs => false
  | .input n => u8 (auxBlock s n) 4 != 0 && (s.burns[burnIdx (.aux n)].count == 0)

/-- Check time of a slot's burn-out in microseconds. -/
def burnUs (s : State) : AuxSlot → Nat
  | .exs => 0
  | .input n => 100 * u8 (auxBlock s n) 6

/-- What the mux node is connected to: nothing, the mid-scale of 1.250 V, or a ball (0 - 3 AUX, 4 EXS). -/
inductive MuxNode where
  | open_ | mid
  | ball (n : Fin 5)
  deriving DecidableEq, Repr

/-- The ball of a slot. -/
def slotBall : AuxSlot → Fin 5
  | .exs => 4
  | .input n => ⟨n.val, by omega⟩

/-- The mux node at this moment, by the steps of the visit in progress: open for t_g, discharged for t_d, then the input, on a check frame with
both steps once more after t_b (R226). Between visits and after the last the ball converted last stays on. -/
def muxNode (s : State) : MuxNode :=
  let idle : MuxNode := match s.aux.connected with
    | none => .open_
    | some n => .ball n
  match visitNow s with
  | none => idle
  | some k =>
    let e := s.clk - s.aux.visitClk
    let g := auxGap s
    let d := auxDischarge s
    let steps (e : Nat) : MuxNode := if e < g then .open_ else if e < g + d then .mid else .ball (slotBall k)
    if !slotBurns s k || e < g + d + burnUs s k then steps e else steps (e - (g + d + burnUs s k))

/-- BURNOUT_CHECK_END (R223 - R225): after t_b the voltage at the ball is compared with the open threshold; EV09 once per episode. A film's
check lies at the start of its frame; an AUX check in its visit, which then goes back to steps 1 and 2. -/
def execBurnoutCheckEnd (input : BurnInput) (volts : Rat) (s : State) : Host.Outcome State Fault Refusal :=
  let inTime := match input with
    | .aux n => visitNow s == some (.input n) && decide (s.aux.visitClk + auxGap s + auxDischarge s + burnUs s (.input n) ≤ s.clk)
    | .film n => (s.weirs[weirOfFilm n].frameClk.map fun c => decide (c + 2 + 100 * u8 (filmBurn s n) 2 ≤ s.clk)).getD false
  if !burnDue s input || !inTime then .next s
  else
    let isOpen := decide (((burnCfg s input).2.2.2 : Rat) / 100 < volts)
    let was := s.burns[burnIdx input].isOpen
    let s := { s with burns := vmod s.burns (burnIdx input) fun b => { b with active := true, isOpen := isOpen } }
    let s := match input with
      | .aux _ => { s with aux := { s.aux with connected := none } }
      | .film _ => s
    .next (if isOpen && !was then raise s 9 (ownVcn s (burnIndex input)).toNat else s)

/-- Conversion time of a slot in seconds. -/
def slotTime (s : State) : AuxSlot → Rat
  | .exs => (Config.exsTime : Rat) / 10000
  | .input n => auxTime s n

/-- One conversion of W22 (R228): its raw value and the ball voltage. -/
def auxConvert (s : State) (o : AuxObs) : Int × Rat :=
  let q := qNom 3
  let charge := ((o.pos.toNat : Rat) - (o.neg.toNat : Rat)) * q + (residueCharge 3 o.endCode - residueCharge 3 o.startCode)
  let raw := ratRNE (charge / (q / 32))
  (raw, 5 / 4 + (raw : Rat) * (qCal s 22 3 / 32) * s.cornerstone.rAux / slotTime s o.slot)

/-- Counts and residues of a visit as a charge in coulomb with the calibrated packet (R748). -/
def auxCharge (s : State) (o : AuxObs) : Rat :=
  ((o.pos.toNat : Rat) - (o.neg.toNat : Rat) + ((o.endCode.toNat : Rat) - (o.startCode.toNat : Rat)) / 32) * qCal s 22 3

/-- Microseconds of a visit: gap, discharge, the burn-out of a check frame with both once more, settling, conversion (R227). -/
def visitUs (s : State) (k : AuxSlot) : Rat :=
  let base : Nat := auxGap s + auxDischarge s + auxSettle s + (if slotBurns s k then burnUs s k + auxGap s + auxDischarge s else 0)
  (base : Rat) + 10 ^ 6 * slotTime s k

/-- AUX_VISIT (R226, R228, R230, R235, R748): the end of the visit in progress; its input has been converted, and the next visit begins. -/
def execAuxVisit (o : AuxObs) (s : State) : Host.Outcome State Fault Refusal :=
  if !isActive s || visitNow s != some o.slot || (s.clk : Rat) < (s.aux.visitClk : Rat) + visitUs s o.slot then .next s
  else
    let shadowed := visitedNow s 22
    let ovr := spanReached o.spanHit o.endCode
    let (u, bad) := shadowCompare s 22 3 (auxCharge s o) ovr o.shadow
    let (raw, v) := auxConvert s o
    let a := { u.aux with connected := some (slotBall o.slot), visits := u.aux.visits + 1, visitClk := s.clk }
    match o.slot with
    | .exs => .next (settle s { u with aux := { a with exs := some v, exsOvr := ovr, exsBad := bad } })
    | .input n =>
      .next (settle s { u with aux := { a with
        conv := u.aux.conv.set n.val (some { volts := v, raw := raw, ovr := ovr, shadowed := shadowed, bad := bad }) } })

end Sys2Proof.Machine
end

