-- ==== Sys2Proof/Machine/SluiceOps.lean ====
section
/-! DEFINITION. The Sluice scheduler's shared operations (14): due times, busy resources, the start of an action. -/

namespace Sys2Proof.Machine

/-! Section 0x03. -/

def cfgTime (s : State) (n : Nat) : Bool := bit (u8 (sec s 3) 0) n
def cfgXtal (s : State) : Bool := cfgTime s 0
def cfgTcxo (s : State) : Bool := cfgTime s 1
def cfgSteps (s : State) : Bool := cfgTime s 2
def cfgPps (s : State) : Bool := cfgTime s 3
def cfgPpsOut (s : State) : Bool := cfgTime s 4

/-- Chain time disciplines this pod (R532, R556). -/
def cfgChainTime (s : State) : Bool := s.role == .pod && (!hasSec s 3 || cfgTime s 5)

/-- Grace window G in microseconds. -/
def cfgGrace (s : State) : Nat := 1000000 * u8 (sec s 3) 1
/-- PPS_IN delay in ns. -/
def cfgPpsDelay (s : State) : Int := signed 32 (u32 (sec s 3) 4)

/-! Slots. -/

def slotKind (x : Slot) : Nat := u8 x.entry 0
def slotPeriodic (x : Slot) : Bool := bit (u8 x.entry 1) 0
def slotArg (x : Slot) : Nat := u16 x.entry 2
/-- Period and phase in microseconds. -/
def slotPeriod (x : Slot) : Nat := 1000 * u32 x.entry 4
def slotPhase (x : Slot) : Nat := 1000 * u32 x.entry 8
/-- Due time of a one-shot, 56 bits. -/
def slotDueOnce (x : Slot) : Nat := u8 x.entry 4 * 2 ^ 48 + le x.entry 8 6

/-- First occurrence of a periodic slot at or after a time (R546). -/
def nextOccurrence (x : Slot) (t : Nat) : Nat :=
  let p := slotPeriod x
  t + (p - (t + p - slotPhase x % p) % p) % p

/-- Occurrences of a periodic slot from `a` on and before `b`. -/
def occurrences (x : Slot) (a b : Nat) : Nat :=
  let f := nextOccurrence x a
  if f < b then (b - 1 - f) / slotPeriod x + 1 else 0

/-- The slot's next due time after its occurrence at `d`, which has run or been skipped, seen from `now` (R551, R552): none for a one-shot. Only
a run bars an occurrence after a backward step; a one-shot that was skipped is not set again by one (DESIGN CHOICE, log 131). -/
def advanceSlot (ran : Bool) (now d : Nat) (x : Slot) : Slot :=
  let x := { x with lastDue := if ran then some d else x.lastDue, waiting := false, forced := false }
  if slotPeriodic x then
    let n := nextOccurrence x (max now (d + 1))
    { x with due := some n, missed := sat16Add x.missed (occurrences x (d + 1) n) }
  else { x with due := none }

/-- Change a slot. -/
def modSlot (s : State) (k : Fin 128) (f : Slot → Slot) : State := { s with sluice := vmod s.sluice k f }

/-! Actions (table Action kinds). -/

/-- Heater channels of a mask that are present. -/
def maskHeaters (s : State) (m : Nat) : List (Fin 6) := (List.finRange 6).filter fun n => bit m n.val && moxPresent s n

/-- Channels of a mask in sweep mode. -/
def maskSweeps (s : State) (m : Nat) : List (Fin 8) := (maskChannels m).filter fun n => toneMode s n == 2

/-- The action's resource is busy, or its own chapter would refuse it in the mode in force. -/
def slotBusy (s : State) (x : Slot) : Bool :=
  match slotKind x with
  | 2 => (maskHeaters s (slotArg x)).any fun n => s.mox[n].override != .none || s.mox[n].fault.isSome || !moxHeats s n
  | 3 => inSafe s || (maskSweeps s (slotArg x)).any fun n => s.tones[n].sweeping
  | 4 => inSafe s || calBusy s
  | _ => false

/-- Mode action of a slot (R132, R134, R136, R137): its status, none where it is skipped. A pending Sluice request that a later one replaces, or that
one for the mode in force clears, has run: it is no action that loses (DESIGN CHOICE, log 115). -/
def slotMode (leave : State → Mode → State) (s : State) (k : Fin 128) (m : Mode) : Option (Byte × State) :=
  if !cfgSluiceMode s then none
  else if m = .safe then some (stOk, if s.modes.mode = .safe then addCause s 9 else enterSafe s 9)
  else if s.modes.mode = .safe then
    let c := s.modes.causes &&& ~~~(BitVec.ofNat 16 512)
    let s := { s with modes := { s.modes with causes := c } }
    if c = 0 then some (stOk, leave s m) else some (stNotInMode, s)
  else if s.modes.mode = m then some (stOk, { s with modes := { s.modes with sluiceReq := none } })
  else some (stOk, { s with modes := { s.modes with sluiceReq := some (m, k) } })

/-- The effect of an action and its status; none: it is skipped. `leave`: the exit from SAFE into a mode. -/
def slotEffect (leave : State → Mode → State) (s : State) (k : Fin 128) (x : Slot) (late : Bool) : Option (Byte × State) :=
  match slotKind x with
  | 1 => slotMode leave s k ((modeOf (slotArg x)).getD .safe)
  | 2 => some (stOk, (maskHeaters s (slotArg x)).foldl restartProfile s)
  | 3 => some (stOk, (maskSweeps s (slotArg x)).foldl (startSweep late) s)
  | 4 =>
    let v : Vcn := BitVec.ofNat 16 (slotArg x)
    let c := calRefusal s .verify v false 0
    some (if c = stOk then (stOk, calStart s .verify v 0 late) else (c, s))
  | _ => some (stOk, logGeneral s 0x0B (ownNode s) k.val (slotArg x) [])

/-- A slot's action starts (R547, R548): `force` marks it LATE whatever the time (R550, R559). -/
def startSlot (leave : State → Mode → State) (s : State) (k : Fin 128) (force : Bool) : State :=
  let x := s.sluice[k]
  let now := time56 (plumbNow s)
  match x.due with
  | none => s
  | some d =>
    let late := force || decide (d + 10000 < now)
    match slotEffect leave s k x late with
    | none => modSlot (skipSlot s k) k (advanceSlot false now d)
    | some (st, s) =>
      let s := modSlot s k fun y => advanceSlot true now d { y with
        runs := sat16 y.runs, lates := if late then sat16 y.lates else y.lates, lastStart := now
        lastStatus := if st = stOk && late then stLateRun else st }
      if late then raise s 18 k.val else s

/-- A one-shot is held while TIMEVALID is clear (R553). -/
def slotHeld (s : State) (x : Slot) : Bool := !slotPeriodic x && !s.time.valid

/-- A slot falls due: it starts, or waits for its resource (R549); one found past due starts with LATE also then (R550). -/
def slotDue (leave : State → Mode → State) (s : State) (k : Fin 128) (force : Bool) : State :=
  let x := s.sluice[k]
  if x.due.isNone || slotHeld s x then s
  else if slotBusy s x then modSlot s k fun y => { y with waiting := true, forced := force }
  else startSlot leave s k force

/-- A one-shot expires (R550): logged, with EV19. -/
def expireSlot (s : State) (k : Fin 128) : State :=
  let s := logGeneral s 0x0B (ownNode s) k.val 0 []
  raise (modSlot s k fun x => { x with due := none, lastDue := x.due, waiting := false, forced := false }) 19 k.val

/-- A one-shot found past due runs at once with LATE, or expires (R550). -/
def pastDue (leave : State → Mode → State) (s : State) (k : Fin 128) : State :=
  let x := s.sluice[k]
  let now := time56 (plumbNow s)
  match x.due with
  | none => s
  | some d =>
    if slotPeriodic x || slotHeld s x || x.waiting || now ≤ d then s
    else if now ≤ d + cfgGrace s then slotDue leave s k true
    else expireSlot s k

/-- Every one-shot in ascending slot number (R547). -/
def pastDueAll (leave : State → Mode → State) (s : State) : State := (List.finRange 128).foldl (pastDue leave) s

/-- A Plumb step as the slots see it (R550 - R552, R564): a periodic slot moves to its first occurrence at or after the present time that
is later than its last run; a waiting action waits on. -/
def sluiceStep (leave : State → Mode → State) (s : State) (old : Nat) : State :=
  let now := time56 (plumbNow s)
  let f (x : Slot) : Slot :=
    if x.due.isNone || x.waiting || !slotPeriodic x then x
    else
      let a := match x.lastDue with
        | none => now
        | some d => max now (d + 1)
      let n := nextOccurrence x a
      { x with due := some n, missed := if old < now then sat16Add x.missed (occurrences x (x.due.getD n) n) else x.missed }
  let s := { s with sluice := s.sluice.map f }
  if old < now then pastDueAll leave s else s

/-- The entry of slot `k` in section 0x03. -/
def slotEntry (s : State) (k : Nat) : List Byte :=
  if k < u8 (sec s 3) 2 then ((sec s 3).drop (64 + 16 * k)).take 16 else []

/-- A slot holding an entry, due from a time on. -/
def loadSlot (entry : List Byte) (now : Nat) (x : Slot) : Slot :=
  let y : Slot := { x with entry := entry, due := none, waiting := false, forced := false, lastDue := none }
  if slotKind y = 0 then { y with entry := [] }
  else if slotPeriodic y then { y with due := some (nextOccurrence y now) }
  else { y with due := some (slotDueOnce y) }

/-- Every slot at handover (R551, R554): periodic slots count the occurrences a warm reset has passed over. -/
def loadSluice (leave : State → Mode → State) (s : State) : State :=
  let now := time56 (plumbNow s)
  let one (k : Fin 128) : Slot :=
    let x := loadSlot (slotEntry s k.val) now {}
    match s.time.resetTime with
    | some t => if slotPeriodic x then { x with missed := sat16Add x.missed (occurrences x t now) } else x
    | none => x
  pastDueAll leave { s with sluice := Vector.ofFn one, time := { s.time with resetTime := none } }

end Sys2Proof.Machine
end

