-- ==== Sys2Proof/Machine/ModeOps.lean ====
section
/-! DEFINITION. The transitions between modes (04) and the meanings of the mode commands. -/

namespace Sys2Proof.Machine

/-! Films and heaters at a change of mode. -/

/-- The frame of a VCN that began at this boundary is taken back: its channel does not run on. -/
def unturnVcn (s : State) (v : Vcn) : State :=
  modEntry s v fun e => { e with frameSeq := if e.frameSeq = 1 then 0 else e.frameSeq - 1 }

/-- The last record of a VCN carries STALE. -/
def staleVcn (s : State) (v : Vcn) : State :=
  modEntry s v fun e => { e with record := e.record.map fun r => { r with status := setFlag r.status 4 } }

/-- The W23 visit of a path that stops ends without a verdict. -/
def dropVisit (s : State) (w : Fin 23) : State :=
  if visitedNow s w then { s with ks := { s.ks with visiting := false, visitBad := false, compared := false } } else s

/-- A film channel stops at the boundary of R131: heater off, Weir off, its records stale. -/
def stopFilm (s : State) (n : Fin 6) : State :=
  let f := weirOfFilm n
  let vf := ownVcn s (0x10 + n.val)
  let vh := ownVcn s (0x18 + n.val)
  let s :=
    if !s.weirs[f].on then s
    else if s.weirs[f].frameClk = some s.clk then unturnVcn (unturnVcn s vf) vh
    else skipVcn (skipVcn s vf) vh
  let s := dropVisit (staleVcn (staleVcn s vf) vh) f
  { s with mox := vmod s.mox n moxStop
           weirs := vmod s.weirs f fun w => { w with on := false, dropFrame := false, frameClk := none }
           burns := vmod s.burns (burnIdx (.film n)) fun b => { b with active := false } }

/-- A channel that heats again waits for its warm warm-up, unless its cold one has not begun yet (R264). -/
def awaitWarm (s : State) (n : Fin 6) (m : Mox) : Mox := { m with warmPending := m.warmPending.or (some (moxWarm s n)) }

/-- Heaters of a change from RUN to WATCH. -/
def filmsToWatch (s : State) : State :=
  (List.finRange 6).foldl (fun s n => if moxPresent s n && !moxHeatsIn s .watch n then stopFilm s n else s) s

/-- Heaters of a change from WATCH to RUN: profiles start anew at the first film frame boundary (R266), which for a film that has run
in WATCH is this one. -/
def filmsToRun (s : State) : State :=
  let f (n : Fin 6) : Mox :=
    let m := s.mox[n]
    if !moxPresent s n then m
    else if !moxHeatsIn s .watch n then awaitWarm s n m
    else if s.weirs[weirOfFilm n].on then startProfile s n m else m
  { s with mox := Vector.ofFn f }

/-! Mere at a change of mode. -/

/-- Class frames up to this boundary keep the length they had (R516). -/
def keepClassFrames (s : State) : State :=
  let us := classUs s
  { s with mere := { s.mere with classes := s.mere.classes.map fun x =>
    let (a, b, _) := splitFrames us (sinceFrameEnd s x) x.frames
    { x with frames := a ++ b } } }

/-! Transitions. -/

/-- A tone window in progress is discarded and starts anew with its phase at 0 (R218). -/
def restartTones (s : State) : State :=
  { s with tones := s.tones.map fun t => if t.active then toneRestart s.clk t t.point else t }

/-- A change between RUN and WATCH takes effect (R131, R218, R283, R516): the frames are counted from this boundary on. -/
def changeMode (s : State) (m : Mode) : State :=
  let s := restartTones (keepClassFrames s)
  let s := if m = .watch then filmsToWatch s else filmsToRun s
  let s := completeMode { s with time := { s.time with anchor := gridTime s } } m 0
  let s := if m = .run || cfgMereOn s then ungateMere s else gateMere s
  refreshOutputs (railFollow s)

/-- A channel at the exit from SAFE: a cold start that was held begins anew, a slew goes on from where it stands (R203, R850). Its first step falls one
whole step period after the exit: the spec names no moment (DESIGN CHOICE, log 135). -/
def ecLeavesSafe (clk : Nat) (c : EcChan) : EcChan :=
  match c.stage with
  | .cold => { c with stageClk := clk }
  | .biased => { c with stepDue := (clk : Rat) + stepUs c.rate }
  | .retiring => { c with stepDue := (clk : Rat) + stepUs retireRate }
  | _ => c

/-- The exit from SAFE into RUN or WATCH (R138, R139, R202, R203, R264, R408, R438, R850). -/
def leaveSafe (s : State) (m : Mode) : State :=
  let s := endFrames s
  let s := { s with
    sysOn := false, sysDrop := false, sysClk := none
    time := { s.time with anchor := 0 }
    ec := s.ec.map (ecLeavesSafe s.clk)
    modes := { s.modes with causes := 0, railCauseGone := false, goneClk := none } }
  let s := completeMode s m 0
  let s := { s with mox := Vector.ofFn fun n => if moxHeatsIn s m n then awaitWarm s n s.mox[n] else s.mox[n] }
  let s := startRules s true
  let s := if m = .run || cfgMereOn s then ungateMere s else s
  aoutsChanged (refreshOutputs (railFollow s))

/-- The mode the head announces, for a pod in contact with it (R140). -/
def announcedMode (s : State) : Option Mode :=
  let p := s.course.pod
  if s.role = .pod && !p.autonomous && p.sweepClk != 0 then modeOf p.headMode.toNat else none

/-- The pod is autonomous: it keeps its mode but for SAFE (R142). -/
def isAutonomous (s : State) : Bool := s.role == .pod && s.course.pod.autonomous

/-- The mode pending at the next boundary (R132, R140 - R142, R161). In SAFE only a pod in contact has one, the head's, and only once no cause of
its own is left; requests that reach an autonomous pod wait (log 101). -/
def pendingMode (s : State) : Option Mode :=
  if inSafe s && s.modes.causes != 0 then none
  else
    match announcedMode s with
    | some m => if m = s.modes.mode then none else some m
    | none => if isAutonomous s || inSafe s then none else s.modes.hostReq.or (s.modes.sluiceReq.map (·.1))

/-! Commands. -/

/-- A host request for RUN or WATCH (R134, R136, R137). -/
def hostMode (s : State) (m : Mode) : Byte × State :=
  if s.modes.mode = .safe then
    let c := s.modes.causes &&& ~~~(0x0340 : BitVec 16)
    let s := { s with modes := { s.modes with causes := c } }
    if c = 0 then (stOk, leaveSafe s m) else (stNotInMode, s)
  else if s.modes.mode = m then (stOk, { s with modes := { s.modes with hostReq := none } })
  else if !cfgHostMode s then (stNotInMode, s)
  else (stOk, { s with modes := { s.modes with hostReq := some m } })

/-- A mode command with its mode byte: the other argument bytes are reserved. -/
def modeCommand (s : State) (f : HostFrame) (m : Mode) (body : State → Byte × State) : State :=
  commandFrame s f 0x01 [(4, modeCode m)] (argCount 4) fun s a => if u8 a 0 < 3 && zeros a 1 3 then body s else (stBadArg, s)

/-- MODE_RUN (R136, R137). -/
def execModeRun (f : HostFrame) (s : State) : Host.Outcome State Fault Refusal :=
  .next (modeCommand s f .run fun s => hostMode s .run)

/-- MODE_WATCH (R136, R137). -/
def execModeWatch (f : HostFrame) (s : State) : Host.Outcome State Fault Refusal :=
  .next (modeCommand s f .watch fun s => hostMode s .watch)

/-- MODE_SAFE (R130, R136): always accepted, with cause 0x08. -/
def execModeSafe (f : HostFrame) (s : State) : Host.Outcome State Fault Refusal :=
  .next (modeCommand s f .safe fun s => (stOk, enterSafe s 8))

/-- MODE_BOUNDARY (R131 - R133, R140): at a boundary at which every frame in progress has ended the pending mode takes effect; a Sluice request
beside a host request is skipped. It follows the FRAME_BOUNDARY, in SAFE the HOUSEKEEPING_FRAME, of that boundary. -/
def execModeBoundary (s : State) : Host.Outcome State Fault Refusal :=
  if !isRunning s || !allEndHere s then .next s
  else
    match pendingMode s with
    | none => .next s
    | some m =>
      let lost := s.modes.sluiceReq.isSome && (s.modes.hostReq.isSome || (announcedMode s).isSome)
      let s := match s.modes.sluiceReq with
        | some (_, k) => if lost then skipSlot s k else s
        | none => s
      let s := { s with modes := { s.modes with hostReq := none, sluiceReq := none } }
      match m with
      | .safe => .next (enterSafe s 0)
      | m => .next (if inSafe s then leaveSafe s m else changeMode s m)

/-- The mode an automatic exit leads into: the start mode, or in a pod in contact the head's (R138, R140, R158). -/
def exitMode (s : State) : Mode := (announcedMode s).getD (startMode s)

/-- SAFE hold time of section 0x02 in microseconds. -/
def cfgSafeHold (s : State) : Nat := 1000000 * u16 (sec s 2) 8

/-- SAFE_AUTO_EXIT (R138): with AUTO, once no cause is left but 0x06, and 0x06 and 0x07 have been reported as gone for the SAFE hold time. With
SAFE as the start mode there is no exit, and the causes stay (DESIGN CHOICE, log 134). -/
def execSafeAutoExit (s : State) : Host.Outcome State Fault Refusal :=
  let left := if s.modes.railCauseGone then s.modes.causes &&& ~~~(0x0040 : BitVec 16) else s.modes.causes
  let held := (s.modes.goneClk.map fun c => decide (c + cfgSafeHold s ≤ s.clk)).getD false
  if inSafe s && cfgAuto s && left == 0 && held && exitMode s != .safe then .next (leaveSafe s (exitMode s)) else .next s

end Sys2Proof.Machine
end

