-- ==== Sys2Proof/Machine/Spillway.lean ====
section
/-! DEFINITION. The meanings of the Spillway commands (11). -/

namespace Sys2Proof.Machine

/-- The fast path is active (R418): in RUN, in WATCH with FASTON. -/
def fastActive (s : State) : Bool := isActive s && (s.modes.mode == .run || cfgFastOn s)

/-- Fast window W in seconds. -/
def fastWindow (s : State) : Rat := (u8 (sec s 0x0B) 3 : Rat) / 1000

/-- The trailing window of a Weir after the packets of an evaluation (R416, R419): each packet weighs Q_r_cal of the range of the frame it was
counted in, and those older than W drop out. The Weir's last boundary lies between two evaluations at most once. -/
def windowWith (s : State) (w : Fin 16) (l : List FastPacket) : List (Rat × Rat) :=
  let x := s.weirs[weirOfWe w]
  let one (p : FastPacket) : Rat × Rat :=
    let t : Rat := (s.clk : Rat) - (p.age : Rat) * 125 / 512
    let r := match x.frameClk with
      | some c => if t ≤ (c : Rat) then x.lastRange else x.range
      | none => x.range
    (t, if p.neg then -(qCal s w.val r) else qCal s w.val r)
  (((l.map one).reverse ++ x.window).filter fun p => (s.clk : Rat) - 10 ^ 6 * fastWindow s < p.1)

/-- The window of a Weir is kept. -/
def putWindow (s : State) (w : Fin 16) (l : List (Rat × Rat)) : State :=
  { s with weirs := vmod s.weirs (weirOfWe w) fun x => { x with window := l } }

/-- A fast rule evaluates on electrode `w` (R412): its Weir converts, and the window lies wholly after the end of the channel's warm-up. -/
def fastReady (s : State) (w : Fin 16) : Bool :=
  let c := s.ec[ecOf w]
  c.stage == .biased && c.warmUntil.isNone && s.weirs[weirOfWe w].on && decide ((c.warmEnd : Rat) + 10 ^ 6 * fastWindow s ≤ (s.clk : Rat))

/-- FAST_PATH_EVALUATION (R412, R416 - R419): the trailing-window current of a fast rule's Weir against its levels. A mismatch of the two units
is code 0x02. -/
def execFastPathEvaluation (rule : Fin 256) (packets : List FastPacket) (mismatch : Bool) (s : State) : Host.Outcome State Fault Refusal :=
  if !fastActive s || ruleCount s ≤ rule.val || !ruleFast s rule.val then .next s
  else if h : vcnIndex (ruleVcn s rule.val) < 16 then
    let w : Fin 16 := ⟨vcnIndex (ruleVcn s rule.val), h⟩
    let l := windowWith s w packets
    let s := putWindow s w l
    if !fastReady s w then .next s
    else
      let v := ofRat ((l.map (·.2)).sum / fastWindow s)
      let m := levelMet s rule.val v
      .next (settle s (evaluateAs 0x02 s rule m.1 m.2 v mismatch))
  else .next s

/-- The RATE evaluation of a rule at the end of second `k`. -/
def evalRate (k : Nat) (bad : List (Fin 256)) (s : State) (i : Fin 256) : State :=
  if ruleKind s i.val ≠ 2 then s
  else
    match rateValue k s.spill.rules[i] with
    | none => s
    | some r =>
      let v := ofRat r
      evaluate s i (levelMet s i.val v).1 (levelMet s i.val v).2 v bad

/-- RATE_EVALUATION (R400): a Plumb second ends; every RATE rule with a value is evaluated in RUN and WATCH. -/
def execRateEvaluation (bad : List (Fin 256)) (s : State) : Host.Outcome State Fault Refusal :=
  if !isRunning s || !onCount s 1000000 || s.spill.secondClk == some s.clk then .next s
  else
    let k := secondOf (wholeTime s 1000000)
    let s := modKinds { s with spill := { s.spill with secondClk := some s.clk } } [2] (pruneSeconds k)
    if !isActive s then .next s else .next (settle s ((allRules s).foldl (evalRate k bad) s))

/-- The STEL or TWA evaluation of a rule. -/
def evalBuckets (bad : List (Fin 256)) (s : State) (k : Fin 256) : State :=
  let n := if ruleKind s k.val = 3 then 15 else if ruleKind s k.val = 4 then 480 else 0
  match bucketValue n s.spill.rules[k] with
  | none => s
  | some r =>
    let v := ofRat r
    evaluate s k (levelMet s k.val v).1 (levelMet s k.val v).2 v bad

/-- PLUMB_MINUTE_END (R401, R402, R722): buckets close, STEL and TWA rules are evaluated in RUN and WATCH, the log budget restarts,
also while a reset or Footing keeps the log. -/
def execPlumbMinuteEnd (bad : List (Fin 256)) (s : State) : Host.Outcome State Fault Refusal :=
  if !onCount s 60000000 || s.spill.minuteClk == some s.clk then .next s
  else
    let m := minuteOf (wholeTime s 60000000)
    let s := { s with log := { s.log with budget := 0 }, spill := { s.spill with minuteClk := some s.clk } }
    if !isRunning s then .next s else
    let s := modKinds s [3, 4] (closeMinute m)
    if !isActive s then .next s else .next (settle s ((allRules s).foldl (evalBuckets bad) s))

/-- Invalid timeout of section 0x0B in seconds. -/
def cfgInvalid (s : State) : Nat := u8 (sec s 0x0B) 4

/-- RULE_INVALID_TIMEOUT (R397): no evaluation for the invalid timeout. A latched rule stays latched until it is acknowledged (R413), and a
CLASS rule does not change while its input reads NOTYET (R26). -/
def execRuleInvalidTimeout (rule : Fin 256) (s : State) : Host.Outcome State Fault Refusal :=
  let r := s.spill.rules[rule]
  if !isActive s || ruleCount s ≤ rule.val || !ruleInvAssert s rule.val || r.state == .latched || r.state == .invalid ||
    s.clk < r.evalClk + 1000000 * cfgInvalid s || (ruleKind s rule.val == 5 && readsNotYet s (ruleVcn s rule.val)) then .next s
  else
    let s := { s with spill := { s.spill with rules := s.spill.rules.set rule.val { r with first := true, setCount := 0, clearCount := 0 } } }
    .next (setRule s rule .invalid false)

/-- One rule is acknowledged (R413, R414). -/
def acknowledge (s : State) (k : Fin 256) : State :=
  match s.spill.rules[k].state with
  | .latched => setRule s k .clear false
  | .alarmed => if ruleLatch s k.val then setRule s k .acked false else s
  | _ => s

/-- ACKNOWLEDGE_RULE (R443): one rule or all, in every mode. -/
def execAcknowledgeRule (f : HostFrame) (s : State) : Host.Outcome State Fault Refusal :=
  .next (commandFrame s f 0x03 [] (argCount 4) fun s a =>
    if u16 a 2 ≠ 0 then (stBadArg, s)
    else if u16 a 0 = 0xFFFF then (stOk, (allRules s).foldl acknowledge s)
    else if h : u16 a 0 < 256 then
      if u16 a 0 < ruleCount s then (stOk, acknowledge s ⟨u16 a 0, h⟩) else (stBadArg, s)
    else (stBadArg, s))

/-- A slew-limited output after one more millisecond (R436): whole codes of the allowed move, the rest kept. -/
def slewOut (rate : Nat) (o : Aout) : Aout :=
  let room := o.part + (rate * 65536 : Nat) / 10 ^ 6
  let n := (ratFloor room).toNat
  let up := o.code < o.goal
  let dist := if up then (o.goal - o.code).toNat else (o.code - o.goal).toNat
  if dist ≤ n then { o with code := o.goal, part := 0 }
  else { o with code := if up then o.code + BitVec.ofNat 16 n else o.code - BitVec.ofNat 16 n, part := room - (n : Rat) }

/-- RATIO_SLEW_TICK (R435, R436): each millisecond; the conditions of the table that time alone changes are looked at too. -/
def execRatioSlewTick (out : Fin 2) (s : State) : Host.Outcome State Fault Refusal :=
  let last := s.spill.aout[out].slewClk
  if s.clk < last + 1000 then .next s
  else
    let s := refreshAout { s with spill := { s.spill with aout := vmod s.spill.aout out fun o => { o with slewClk := gridClk s last 1000 } } } out
    let o := s.spill.aout[out]
    if !o.driven || o.code == o.goal then .next s
    else .next { s with spill := { s.spill with aout := s.spill.aout.set out.val (slewOut (aoutSlew s out) o) } }

/-- A readback differs from the drive by more than 0.5 % of VRATIO. -/
def readbackDiffers (drive code : BitVec 16) : Bool :=
  decide (5 / 1000 * 65536 < ratAbs ((drive.toNat : Rat) - (code.toNat : Rat)))

/-- RATIO_READBACK (R437): every 1 ms; the second difference in a row has lasted 1 ms, and the output is faulted with code 0x10. -/
def execRatioReadback (out : Fin 2) (code : BitVec 16) (s : State) : Host.Outcome State Fault Refusal :=
  let o := s.spill.aout[out]
  if !isRunning s || !aoutPresent s out || !o.driven || s.clk < o.readClk + 1000 then .next s
  else
    let bad := readbackDiffers o.code code
    let fault := o.fault || (bad && o.differs)
    let o' := { o with readback := code, differs := bad, fault := fault, readClk := gridClk s o.readClk 1000 }
    let s := { s with spill := { s.spill with aout := s.spill.aout.set out.val o' } }
    if fault && !o.fault then .next (declareOpen (refreshAout (endHold s out) out) 0x10 false)
    else .next (if bad && fault then noteSeen s 0x10 else s)

/-- The drive of an alarm ball or FAULTn, low or released. -/
def pinLow (s : State) : AlarmPin → Bool
  | .alarmA => s.spill.aLow
  | .alarmB => s.spill.bLow
  | .faultn => faultnLow s

/-- The ball is read back: a used alarm pin, and FAULTn. -/
def pinRead (s : State) : AlarmPin → Bool
  | .alarmA => pinUsed s 0
  | .alarmB => pinUsed s 1
  | .faultn => true

/-- Place of a ball among those read back. -/
def pinIdx : AlarmPin → Fin 3
  | .alarmA => 0
  | .alarmB => 1
  | .faultn => 2

/-- ALARM_PIN_READBACK (R428, R842, R768): every 1 ms; a ball whose level differs from its drive is code 0x0E, FAULTn 0x0F. -/
def execAlarmPinReadback (pin : AlarmPin) (low : Bool) (s : State) : Host.Outcome State Fault Refusal :=
  let last := s.spill.pinClk[pinIdx pin]
  if !isRunning s || !pinRead s pin || s.clk < last + 1000 then .next s
  else
    let bad := low != pinLow s pin
    let p := { s.spill with pinClk := s.spill.pinClk.set (pinIdx pin).val (gridClk s last 1000) }
    let s := { s with spill := match pin with
      | .alarmA => { p with aReadLow := low, aFault := bad }
      | .alarmB => { p with bReadLow := low, bFault := bad }
      | .faultn => { p with fFault := bad } }
    if !bad then .next s else .next (declareOpen s (if pin = .faultn then 0x0F else 0x0E) false)

end Sys2Proof.Machine
end

