-- ==== Sys2Proof/Machine/TimeOps.lean ====
section
/-! DEFINITION. Plumb's steps, slews and changes of source (14). Errors are in ns; the count with its fraction is in Plumb's units. -/

namespace Sys2Proof.Machine

/-- Plumb time in Plumb's units. -/
def plumbUnits (s : State) : Nat := time56 (plumbNow s) * usUnits + s.time.frac

/-- All of Plumb's range in those units. -/
def plumbRange : Nat := 2 ^ 56 * usUnits

/-- Put the count, era and fraction. -/
def putUnits (s : State) (u : Nat) : State :=
  let p := plumb56 (u / usUnits)
  { s with time := { s.time with count := p.1, era := p.2, frac := u % usUnits, stride := 1 } }

/-- Plumb time now in ns. -/
def plumbNs (s : State) : Int := (plumbUnits s : Int) / nsUnits

/-- The units after a move by a signed amount. -/
def movedUnits (s : State) (d : Int) : Nat := (((plumbUnits s : Int) + d) % (plumbRange : Int)).toNat

/-! Steps (R538 - R540). -/

/-- The frames in progress end without a record, and so will the parts of frames that follow them (R539). -/
def dropFrames (s : State) : State :=
  let own := (s.results.map (·.1)).filter fun v => vcnNode v == (ownNode s).toNat && channelOn s (vcnIndex v)
  let s := own.foldl (fun s v => startVcn (skipVcn s v) v) s
  { s with weirs := s.weirs.map fun w => { w with dropFrame := w.on, residue := none, carry := 0 }
           sysDrop := s.sysOn
           ks := { s.ks with visiting := false, visitBad := false, compared := false } }

/-- Plumb shows a step (R539, R540): counted, its value kept, no slew left. -/
def noteStep (s : State) : State :=
  { s with time := { s.time with steps := sat16 s.time.steps, lastStep := plumbNow s, slew := none, ppsStepped := true } }

/-- A forward step closes the Cistern's budget period and every Spillway bucket it passes (R448, R736). -/
def stepForward (s : State) (o n : Nat) : State :=
  if o < n then spillStep { s with log := { s.log with budget := 0 } } o else s

/-- The phase of Plumb moves to a time in units, with the Mere's times and the frames under way (R518, R540). -/
def stepPhase (s : State) (u : Nat) : State :=
  dropFrames (noteStep (putUnits (stepMere s ((u / usUnits % 2 ^ 56 : Nat) - (time56 (plumbNow s) : Int))) u))

/-- A Plumb step to a time in units (R539, R540, R448, R485, R518, R550 - R552, R736). -/
def plumbStepTo (s : State) (u : Nat) : State :=
  let old := plumbNow s
  sluiceStep leaveSafe (logGeneral (stepForward (stepPhase s u) (time56 old) (u / usUnits % 2 ^ 56)) 0x0A (ownNode s) 0 0 (plumbBytes old))
    (time56 old)

/-! Changes of source (R534 - R536). -/

/-- The change of source in progress completes (R535). -/
def completeChange (s : State) : State :=
  if s.time.changing then raise { s with time := { s.time with changing := false } } 16 0 else s

/-- A phase error of more than 10 ms may be stepped (R534). -/
def mayStep (s : State) : Bool := cfgSteps s || (!s.time.valid && s.time.state == .free)

/-- A larger error than 10 ms. -/
def bigError (err : Int) : Bool := decide (10000000 < err.natAbs)

/-- The slew under way. -/
def withSlew (s : State) (r : Option Int) : State := { s with time := { s.time with slew := r } }

/-- Move Plumb's phase by `err` towards a source: done within 1 microsecond, by a step, or by a slew (R534, R535). -/
def movePhase (s : State) (err : Int) (step : Bool) : State :=
  let s := withSlew s none
  if err.natAbs ≤ 1000 then completeChange s
  else if step && bigError err then completeChange (plumbStepTo s (movedUnits s (nsUnits * err)))
  else withSlew s (some (nsUnits * err))

/-- A source comes into force; `change`: the state it replaces is another one. -/
def enterSource (s : State) (st : TimeState) (change : Bool) : State :=
  { s with time := { s.time with state := st, changing := change, holdoverClk := none, poly := 0 } }

/-- A better source qualifies (R534, R536): during a slew it never steps. -/
def qualifySource (s : State) (st : TimeState) (err : Int) : State :=
  let step := mayStep s && s.time.slew.isNone
  movePhase (enterSource s st true) err step

/-- HOLDOVER is entered: EV17, and EV16 for the change completed at once (R535). -/
def enterHoldover (s : State) : State :=
  let s := { s with time := { s.time with state := .holdover, slew := none, changing := true, holdoverClk := some s.clk } }
  completeChange (raise s 17 0)

/-- TIMEVALID becomes set: one-shots found past due run or expire (R527, R550). -/
def setValid (s : State) : State :=
  if s.time.valid then s else pastDueAll leaveSafe { s with time := { s.time with valid := true } }

/-- Chain time now, in ns: the latest mark carried on at the rate of the last two (R532; DEDUCED, log 132). -/
def chainNow (s : State) : Int :=
  let t := s.time
  t.chainMark + ratRNE ((s.clk - t.chainClk : Nat) * 1000 * t.chainRatio)

/-- Chain time comes into force and gives Plumb its whole seconds (R527, Plumb state transitions); the page shows the error of the latest good mark
(R849). -/
def takeChain (s : State) (qualifies : Bool) : State :=
  let err := chainNow s - plumbNs s
  let s := { s with time := { s.time with phaseErr := s.time.chainGoodErr } }
  let s := if qualifies then qualifySource s .chain err else movePhase (enterSource s .chain true) err false
  setValid s

/-- The source in force is lost (Plumb state transitions). -/
def loseSource (s : State) : State :=
  match s.time.state with
  | .pps => if s.time.chainQualified then takeChain s false else enterHoldover s
  | .chain => enterHoldover s
  | _ => s

/-- A source has qualified or has been lost (Plumb state transitions). PPS qualified is kept over chain time; a loss counts in the state it
names. -/
def changeSource (s : State) : SourceChange → State
  | .qualified .chain _ => if s.time.state = .pps then s else takeChain s true
  | .qualified st err => if s.time.state = st then s else qualifySource { s with time := { s.time with phaseErr := err } } st err
  | .lost st => if s.time.state = st then loseSource s else s

/-- The same, after a time set that waits for the rise of HCSn (R557). -/
def sourceChanged (s : State) (c : SourceChange) : State :=
  match s.host.effect with
  | .timeSet _ => { s with time := { s.time with held := s.time.held ++ [c] } }
  | _ => changeSource s c

/-- The host becomes the source, with its phase error (R535, R563). -/
def hostSource (s : State) (err : Int) : State :=
  let s := enterSource s .host (s.time.state != .host || s.time.changing)
  { s with time := { s.time with phaseErr := err } }

/-- The host's whole seconds come into force beside PPS or chain time: the slew in progress goes on (R557). -/
def setSeconds (s : State) (e : Int) : State :=
  withSlew (plumbStepTo s (movedUnits s (e * (1000000 * usUnits : Nat)))) s.time.slew

/-- The time set itself, with the move chosen at the request (R557, R563). -/
def moveTime (s : State) (m : TimeMove) : State :=
  let target := time56 (s.time.setCount, s.time.setEra) * usUnits
  let d : Int := ((target : Int) - (plumbUnits s : Int)) / nsUnits
  match m with
  | .seconds e => setValid (if e = 0 then s else setSeconds s e)
  | .step => setValid (completeChange (plumbStepTo (hostSource s d) target))
  | .slew => setValid (movePhase (hostSource s d) d false)

/-- A phase error from before Plumb moved by `moved` ns: PPS knows the sub-second part alone. -/
def afterMove (moved : Int) : SourceChange → SourceChange
  | .qualified .pps err => .qualified .pps ((err - moved + 500000000) % 1000000000 - 500000000)
  | .qualified st err => .qualified st (err - moved)
  | .lost st => .lost st

/-- What sources have done while a time set waited, as if it had come at the rise of HCSn (R557). -/
def takeHeld (s : State) (moved : Int) : State :=
  s.time.held.foldl (fun s c => changeSource s (afterMove moved c)) { s with time := { s.time with held := [] } }

/-- The host's time comes into force at the rise of HCSn (R557). -/
def applyTimeSet (s : State) (m : TimeMove) : State :=
  let t := moveTime s m
  takeHeld t (plumbNs t - plumbNs s)

/-- An interval of SYSCLK cycles in microseconds. -/
def intervalUs (n : Nat) : Nat := n * 1000 / 24576

/-! Chain time (R532). -/

/-- A mark within 2 microseconds of the prediction (R532). -/
def goodMark (s : State) (mark : Int) : Bool := s.time.chainPredicted && decide ((mark - chainNow s).natAbs ≤ 2000)

/-- The mark predicts the next one; a rate that no two clocks of R519 have keeps the one before. -/
def noteMark (t : Time) (clk : Nat) (mark : Int) : Time :=
  let r : Rat := ((mark - t.chainMark : Int) : Rat) / ((clk - t.chainClk : Nat) * 1000)
  let near := t.chainPredicted && decide (t.chainClk < clk) && decide (r ≤ 10002 / 10000) && decide (9998 / 10000 ≤ r)
  { t with chainPredicted := true, chainMark := mark, chainClk := clk, chainRatio := if near then r else t.chainRatio, chainMissed := 0 }

/-- A sweep of this pod brings a time mark, in ns (R532). While the head does not report TIMEVALID (`sure` false) it is a mark that does not count
towards qualification. -/
def chainMark (s : State) (mark : Int) (sure : Bool) : State :=
  let t := s.time
  let good := sure && goodMark s mark
  let err := mark - plumbNs s
  let n := if good then min 4 (t.chainGood + 1) else if t.chainQualified && !sure then t.chainGood else 0
  let (w, s) := if t.state = .chain && good then drawFree s else (0, s)
  let s := { s with time := { (noteMark t s.clk mark) with
    chainGood := n, chainGoodErr := if good then err else t.chainGoodErr
    phaseErr := if t.state = .chain && good then err else t.phaseErr
    learned := if t.state = .chain && good then (w.toNat % 26214401 : Nat) - 13107200 else t.learned } }
  if t.chainQualified || n < 4 then s
  else
    sourceChanged { s with time := { s.time with chainQualified := true } } (.qualified .chain err)

/-- A sweep passes without a mark. -/
def chainMiss (s : State) : State :=
  let n := s.time.chainMissed + 1
  let s := { s with time := { s.time with chainMissed := n, chainGood := if s.time.chainQualified then s.time.chainGood else 0 } }
  if n < 3 || !s.time.chainQualified then s
  else
    let s := { s with time := { s.time with chainQualified := false, chainGood := 0, chainPredicted := false } }
    sourceChanged s (.lost .chain)

end Sys2Proof.Machine
end

