-- ==== Sys2Proof/Machine/CourseOps.lean ====
section
/-! DEFINITION. Course frames as received (15, 16): the checks of R573, the sequence window, repeating, and what head and pod share. -/

namespace Sys2Proof.Machine

/-! The checks of a received frame (R573, table Header, tables of payloads). -/

/-- Type codes of the frame types tables. -/
def knownType (t : Byte) : Bool :=
  inR 0x01 0x03 t.toNat || inR 0x08 0x0B t.toNat || inR 0x10 0x16 t.toNat || inR 0x20 0x26 t.toNat || inR 0x28 0x2B t.toNat

/-- The types that pods send to the head (tables Frame types); every other known one comes from the head. -/
def podSent (t : Byte) : Bool :=
  t == 0x02 || t == 0x0B || inR 0x12 0x15 t.toNat || t == 0x21 || t == 0x23 || t == 0x25 || t == 0x26 || t == 0x29 || t == 0x2B

/-- Sweep records or Render entries: 8 bytes, then `n` of 24. -/
def listPayloadOk (p : List Byte) (lo flags : Nat) : Bool :=
  inR lo 9 (u8 p 4) && p.length == 8 + 24 * u8 p 4 && u8 p 5 ≤ flags && zeros p 6 2

/-- The entries of a CREDIT payload carry no reserved bit. -/
def creditEntriesOk : List Byte → Bool
  | _ :: h :: r => h.toNat < 4 && creditEntriesOk r
  | _ => true

/-- A payload has its table's length, and no reserved value or bit (Payloads tables of 15, 16 and 22). -/
def payloadOk (t : Byte) (p : List Byte) : Bool :=
  let n := p.length
  match t.toNat with
  | 0x01 => n == 28 && u8 p 0 < 4 && inR 1 15 (u8 p 1) && inR 1 15 (u8 p 2) && zeros p 3 1
  | 0x02 =>
    n == 32 && u8 p 8 ≤ 250 && u8 p 9 ≤ 3 && inR 1 15 (u8 p 11) && (u8 p 16 == 0 || inR 0x20 0x3F (u8 p 16)) &&
      (u8 p 17 ≤ 2 || u8 p 17 == 0xFF) && zeros p 18 2
  | 0x03 => n == 16 && u8 p 8 ≤ 250 && u8 p 9 ≤ 3 && (u8 p 10 == 0 || inR 0x20 0x3F (u8 p 10)) && inR 1 15 (u8 p 11) && zeros p 12 4
  | 0x08 => n == 16 && u8 p 0 ≤ 15 && inR 1 3 (u8 p 1) && zeros p 3 1 && zeros p 10 2 && u16 p 8 == (u32 p 4 + 239) / 240
  | 0x09 => 1 ≤ n
  | 0x0A => n == 4 && u8 p 0 ≤ 15 && u8 p 1 ≤ 3 && zeros p 2 2
  | 0x0B => n == 4 + 2 * u8 p 2 && u8 p 0 ≤ 15 && u8 p 1 < 4 && u8 p 2 ≤ 56 && zeros p 3 1
  | 0x10 => n == 16 && u8 p 11 ≤ 1 && u8 p 12 < 8 && u8 p 13 ≤ 3 && u8 p 14 ≤ 250 && zeros p 15 1
  | 0x11 => n == 4 + 2 * u8 p 1 && inR 1 118 (u8 p 1) && u8 p 2 ≤ 1 && zeros p 3 1 && creditEntriesOk (p.drop 4)
  | 0x12 => n == 48 && u8 p 4 ≤ 2 && u8 p 5 < 32 && zeros p 15 1
  | 0x13 | 0x21 => listPayloadOk p 1 1
  | 0x14 => n == 36 && zeros p 1 3
  | 0x15 => n == 4
  | 0x16 => n == 16
  | 0x20 => n == 4 && zeros p 2 2
  | 0x22 => listPayloadOk p 0 3
  | 0x23 => n == 4
  | 0x24 => n == 4 && inR 1 232 (u16 p 2)
  | 0x25 => 4 ≤ n && n == 4 + u16 p 2
  | 0x26 => n == 4 && zeros p 2 2
  | 0x28 => n == 16 && inR 1 250 (u8 p 0) && u8 p 1 ≤ 1 && zeros p 3 1 && zeros p 11 1
  | 0x29 | 0x2A => n == 4 && zeros p 1 3
  | 0x2B => n == 16 && u8 p 1 ≤ 1 && zeros p 2 2 && zeros p 14 2
  | _ => false

/-- The credit byte of a type (R645): the block index, frames to follow, frames allowed, or 0. -/
def creditByteOk (t c : Byte) : Bool :=
  match t.toNat with
  | 0x09 | 0x13 | 0x21 => true
  | 0x20 => inR 1 127 c.toNat
  | _ => c == 0

/-- The CRC of a frame (R88): over the header and the payload. -/
def frameCrc (type hop : Byte) (r : CourseRx) : BitVec 32 :=
  crc32 ([r.dst, r.src, type, r.seq, r.len, r.classVer, r.credit, hop] ++ r.payload)

/-- The bytes received are those the length field names. -/
def wholeFrame (r : CourseRx) : Bool := !r.endedEarly && r.payload.length == r.len.toNat && r.len.toNat ≤ 240

/-- The CRC is the one that a repeating pod sends after a bad one (R581). -/
def stompedCrc (type : Byte) (r : CourseRx) : Bool := r.crc == frameCrc type r.hop r ^^^ 0xFFFFFFFF

/-- The header and payload fields of a whole frame with a good CRC. -/
def fieldsOk (s : State) (type : Byte) (r : CourseRx) : Bool :=
  knownType type && !inR 251 254 r.dst.toNat && !inR 251 254 r.src.toNat && (r.src != 255 || type == 2) && r.classVer.toNat % 16 < 3 &&
    r.classVer.toNat / 16 ≤ s.cornerstone.linkVersion.toNat && creditByteOk type r.credit && payloadOk type r.payload

/-- Addressed to this node (R573). -/
def addressedHere (s : State) (r : CourseRx) : Bool := r.dst == 255 || r.dst == ownAddr s

/-- The frame a receiver has, by the counts of R602. -/
inductive RxFate where
  | accepted | crcError | upstream | format | duplicate
  deriving DecidableEq, Repr

/-- Key of the sequence window: source and class (R576). -/
def seqKey (r : CourseRx) (e : Byte × Nat × Byte × Nat) : Bool := e.1 == r.src && e.2.1 == r.classVer.toNat % 4

/-- The copy that the head sent on its other port of the DISCOVER accepted last. Both carry one sequence (R575), and a pod answers both (worked
example of 15; log 33). -/
def otherCopy (s : State) (type : Byte) (r : CourseRx) : Bool :=
  type == 0x01 && s.course.discovered == some (r.seq, !bit (u8 r.payload 0) 1)

/-- The sequence window of R576 with R577 and R578: BOOT_DATA and source 255 are exempt; a DISCOVER with FULL, the first IDENTITY since an
ASSIGN, and any frame after 64 ms without one of its source and class, start afresh. -/
def freshSeq (s : State) (type : Byte) (r : CourseRx) : Bool :=
  type == 0x09 || r.src == 255 || (type == 0x01 && bit (u8 r.payload 0) 0) ||
    (type == 0x02 && s.course.nodes.any fun n => n.addr == r.src && n.assignNew) ||
    match s.course.last.find? (seqKey r) with
    | none => true
    | some (_, _, q, t) => decide (t + 64000 ≤ s.clk) || inR 1 127 (r.seq - q).toNat || (q == r.seq && otherCopy s type r)

/-- What a receiver finds (R573, R576, R581). -/
def rxFate (s : State) (type : Byte) (r : CourseRx) : RxFate :=
  if r.endedEarly then .format
  else if stompedCrc type r then .upstream
  else if !wholeFrame r then .format
  else if r.crc ≠ frameCrc type r.hop r then .crcError
  else if !fieldsOk s type r then .format
  else if addressedHere s r && !freshSeq s type r then .duplicate
  else .accepted

/-- One of the seven counts of R602 goes up, in its order. -/
def countPort (s : State) (p : Fin 2) (k : Fin 7) : State :=
  { s with course := { s.course with ports := vmod s.course.ports p fun q => { q with counts := vmod q.counts k sat16 } } }

/-- The sequence is now the last accepted one of its source and class. -/
def noteSeq (s : State) (type : Byte) (r : CourseRx) : State :=
  if type = 0x09 || r.src = 255 then s
  else
    let l := s.course.last.filter fun e => !seqKey r e
    { s with course := { s.course with last := (r.src, r.classVer.toNat % 4, r.seq, s.clk) :: l
                                       discovered := if type = 0x01 then some (r.seq, bit (u8 r.payload 0) 1) else s.course.discovered } }

/-- Count of a fate. -/
def fateCount : RxFate → Fin 7
  | .accepted => 0
  | .crcError => 1
  | .upstream => 2
  | .format => 3
  | .duplicate => 4

/-- What a receiver counts of a frame that it does not deliver: a bad one under its fate, and one that stands only where the port is under
test, where every frame is a chance match and a format discard (R573, R801). -/
def countFate (s : State) (type : Byte) (r : CourseRx) : State :=
  match rxFate s type r with
  | .accepted => if underTest s.course.ports[r.port] then countPort s r.port 3 else s
  | f => countPort s r.port (fateCount f)

/-- A frame arrives for this node: checked, counted and, when it is accepted and addressed here, delivered to `body`. A port that is not
enabled receives nothing, one under test delivers nothing (R800, R801); a frame for another node is only repeated. -/
def rx (s : State) (type : Byte) (r : CourseRx) (body : State → State) : State :=
  let port := s.course.ports[r.port]
  if !port.enabled then s
  else if rxFate s type r == .accepted && addressedHere s r && !underTest port then body (noteSeq (countPort s r.port 0) type r)
  else countFate s type r

/-- A frame arrives at the head. -/
def headRx (s : State) (type : Byte) (r : CourseRx) (body : State → State) : State :=
  if s.role = .head && isRunning s && r.src != 0 then rx s type r body else s

/-- A frame arrives at a pod. -/
def podRx (s : State) (type : Byte) (r : CourseRx) (body : State → State) : State :=
  if s.role = .pod then rx s type r body else s

/-! Repeating (R579 - R582). -/

/-- The other port. -/
def otherPort (p : Fin 2) : Fin 2 := if p = 0 then 1 else 0

/-- The frame a pod sends on: hop one more, the CRC stomped when it came in bad. -/
def repeated (type : Byte) (r : CourseRx) : CourseFrame :=
  { dst := r.dst, src := r.src, type := type, seq := r.seq, classVer := r.classVer, credit := r.credit, hop := sat8 r.hop
    payload := r.payload, stomped := r.crc != frameCrc type r.hop r, repeated := true, cut := r.endedEarly, lenByte := some r.len }

/-- Time in whole microseconds that a frame takes on a port, rounded up (R569). -/
def frameWireUs (f : CourseFrame) : Nat := ((16 + f.payload.length) * 8 + 11) / 12

/-- A frame leaves a port now; the transmitter is busy with it to its end. -/
def transmit (s : State) (p : Fin 2) (f : CourseFrame) : State :=
  { s with course := { s.course with ports := vmod s.course.ports p fun q => { q with sent := some f, busyUntil := s.clk + frameWireUs f } } }

/-- Bytes of the frames stored under R582, on both ports. -/
def storedBytes (s : State) : Nat :=
  ((s.course.ports.toList.flatMap (·.txq)).map fun f => if f.repeated then 16 + f.payload.length else 0).sum

/-- A frame is stored whole for a port (R582), as far as the 32 KiB of frame buffers hold it (R714): beyond them it is lost, which the spec does
not state (DESIGN CHOICE, log 148). -/
def storeFrame (s : State) (p : Fin 2) (f : CourseFrame) : State :=
  if storedBytes s + 16 + f.payload.length ≤ 32768 then
    countPort { s with course := { s.course with ports := vmod s.course.ports p fun x => { x with txq := insertFrame x.txq f } } } p 6
  else s

/-- A pod repeats a frame out of the other port (R579): at once, or stored whole when that transmitter is busy or stored frames wait
(R582). A port under test repeats nothing it receives. What would leave through one waits, but a frame to a single pod is discarded: its
destination there is out of reach (R800; log 147). -/
def repeatFrame (s : State) (type : Byte) (busy : Bool) (r : CourseRx) : State :=
  let q := otherPort r.port
  let port := s.course.ports[q]
  if s.role ≠ .pod || !s.course.ports[r.port].enabled || underTest s.course.ports[r.port] || !port.enabled then s
  else if underTest port && inR 1 250 r.dst.toNat then s
  else if busy || underTest port || port.txq.any (·.repeated) then storeFrame s q (repeated type r)
  else transmit s q (repeated type r)

/-- Another row delivers the frame to this node and counts it: at a pod one of a type that the head sends, addressed to it; at the head one
of a pod's type whose source is not 0, or its own DISCOVER (DISCOVER_RETURN). -/
def ownRow (s : State) (type : Byte) (r : CourseRx) : Bool :=
  match s.role with
  | .pod => knownType type && !podSent type && addressedHere s r
  | .head => if r.src = 0 then type == 0x01 else podSent type

/-- CUT_THROUGH_REPEAT (R8, R573, R579 - R582, R801): a pod repeats the frame; what its receiver finds, a pod's or the head's, is counted here when
no other row takes the frame in. A duplicate is one of a frame delivered here only (R573, R576). -/
def execCutThroughRepeat (type : Byte) (busy : Bool) (r : CourseRx) (s : State) : Host.Outcome State Fault Refusal :=
  let s' := repeatFrame s type busy r
  if !s.course.ports[r.port].enabled || ownRow s type r || (s.role == .head && !isRunning s) then .next s'
  else if rxFate s type r == .duplicate then .next s'
  else
    match rxFate s type r with
    | .accepted => .next (if underTest s.course.ports[r.port] then countPort s' r.port 3 else s')
    | f => .next (countPort s' r.port (fateCount f))

/-- The Plumb count in six bytes. -/
def countBytes (s : State) : List Byte := toLE 6 s.time.count.toNat

/-- What a frame of this node carries of the moment it leaves at, taken as that of its start delimiter (log 149): the bitmap of an ALARM
(R426), the time mark of a SWEEP_START (R611), t3 of a DELAY_RESP (R621). -/
def atSending (s : State) (f : CourseFrame) : CourseFrame :=
  if f.repeated then f
  else
    match f.type.toNat with
    | 0x14 => { f with payload := f.payload.take 4 ++ chainBitmap s }
    | 0x10 => { f with payload := f.payload.take 4 ++ plumbBytes (plumbNow s) ++ f.payload.drop 11 }
    | 0x16 => { f with payload := f.payload.take 6 ++ countBytes s ++ f.payload.drop 12 }
    | _ => f

/-- A pod notes t1 when its own DELAY_REQ leaves (R621). -/
def noteDeparture (s : State) (f : CourseFrame) : State :=
  if f.type = 0x15 ∧ !f.repeated then { s with course := { s.course with pod := { s.course.pod with t1 := some s.time.count } } } else s

/-- A waiting frame may leave: an own frame other than ALARM does not while a stored one waits (R612). -/
def mayLeave (l : List CourseFrame) (f : CourseFrame) : Bool := f.repeated || f.classVer.toNat % 4 == 0 || !l.any (·.repeated)

/-- The frame that leaves next, in the order of R613 among those that may (DEDUCED, log 126), and those that stay. -/
def nextOut (l : List CourseFrame) : Option (CourseFrame × List CourseFrame) := (l.find? (mayLeave l)).map fun f => (f, l.erase f)

/-- STORED_FRAME_SEND (R426, R582, R611 - R613, R621): the next waiting frame leaves the port. -/
def execStoredFrameSend (port : Fin 2) (s : State) : Host.Outcome State Fault Refusal :=
  let p := s.course.ports[port]
  match p.enabled && !underTest p, nextOut p.txq with
  | true, some (f, l) =>
    .next (noteDeparture (transmit { s with course := { s.course with ports := s.course.ports.set port.val { p with txq := l } } } port (atSending s f)) f)
  | _, _ => .next s

/-! The line (R569, R570, R581, table Course frame). -/

/-- The header of a frame as sent. A repeated one keeps the length byte it came with (R581). -/
def courseHeader (f : CourseFrame) : List Byte :=
  [f.dst, f.src, f.type, f.seq, f.lenByte.getD (BitVec.ofNat 8 f.payload.length), f.classVer, f.credit, f.hop]

/-- The CRC a frame carries, stomped when it came in bad (R581). -/
def sentCrc (f : CourseFrame) : BitVec 32 :=
  let c := crc32 (courseHeader f ++ f.payload)
  if f.stomped then c ^^^ 0xFFFFFFFF else c

/-- The bytes of a whole frame: preamble, start delimiter, header, payload and CRC. -/
def wireBytes (f : CourseFrame) : List Byte :=
  [0x55, 0x55, 0x55, 0xD3] ++ courseHeader f ++ f.payload ++ toLE 4 (sentCrc f).toNat

/-- Levels of a Manchester bit: a 1 rises at its centre, a 0 falls (R569). -/
def halves (b : Bool) : List Bool := if b then [false, true] else [true, false]

/-- Levels on the line for bytes, each least significant bit first; idle is a run of 1s (R569, R570). -/
def lineLevels (l : List Byte) : List Bool := l.flatMap fun b => (List.range 8).flatMap fun i => halves (b.getLsbD i)
def idleLevels (n : Nat) : List Bool := (List.replicate n true).flatMap halves

/-- Levels that a port with its generator on put on the line in the last microsecond: its pattern bits with no framing (R797). -/
def patternLevels (p : Port) : List Bool := p.out.flatMap halves

/-- The bits that levels spell; none with a code violation. -/
def lineBits : List Bool → Option (List Bool)
  | [] => some []
  | [_] => none
  | a :: b :: r => if a = b then none else (lineBits r).map (b :: ·)

/-- What a receiver makes of the bytes of a frame after its start delimiter on port `p`: type and frame. -/
def ofWire (p : Fin 2) (b : List Byte) : Option (Byte × CourseRx) :=
  match b.drop 4 with
  | dst :: src :: type :: seq :: len :: cv :: credit :: hop :: r =>
    if b.take 4 ≠ [0x55, 0x55, 0x55, 0xD3] || r.length < 4 then none
    else
      let n := r.length - 4
      some (type, { port := p, dst := dst, src := src, seq := seq, len := len, classVer := cv, credit := credit, hop := hop
                    payload := r.take n, crc := f32At r n, endedEarly := false })
  | _ => none

/-! Sending. -/

/-- Own sequence counter taken once for each port of a list (R611): `make` the payload. -/
def originateEach (s : State) (ports : List (Fin 2)) (type dst : Byte) (cls : Nat) (make : State → Fin 2 → List Byte) : State :=
  ports.foldl (fun s p => originate s [p] type dst cls 0 (make s p)) s

/-- The container code of chain frames and of the identity page: the CODE flag and bytes 1 - 11 of section 0x01 (R110). -/
def containerCode (s : State) : List Byte :=
  let p := sec s 1
  if p.isEmpty then List.replicate 12 0 else BitVec.ofNat 8 (u8 p 0 % 2) :: (p.drop 1).take 11

/-- DISCOVER payload for a head port. -/
def discoverPayload (s : State) (full : Bool) (p : Fin 2) : List Byte :=
  [BitVec.ofNat 8 ((if full then 1 else 0) + 2 * p.val), s.cornerstone.linkVersion, s.course.version, 0] ++
    toLE 8 s.cornerstone.uniqueId.toNat ++ containerCode s ++ toLE 4 (configId s)

/-- The chain version falls to the lowest that an IDENTITY has named, from this DISCOVER on: EV30, but in the enumeration of the handover, which sets
it (R598, R599, R603). -/
def lowerVersion (s : State) : State :=
  if s.course.lowest < s.course.version then
    let t := { s with course := { s.course with version := s.course.lowest } }
    if s.course.enumFirst then t else raise t 30 0
  else s

/-- One DISCOVER on each of the ports, with one sequence (R575). -/
def sendDiscover (s : State) (full : Bool) (ports : List (Fin 2)) : State :=
  let s := lowerVersion s
  let (q, s) := takeSeq { s with course := { s.course with discoverClk := s.clk } } 2
  ports.foldl (fun s p => sendOn s p (newFrame s 0x01 255 2 0 q (discoverPayload s full p))) s

/-- A FULL enumeration begins (R588, R642). -/
def discoverFull (s : State) : State :=
  if (usedPorts s).isEmpty then s
  else
    let c := { s.course with fullWanted := false, enum := .collecting, enumFull := true, found := [], conflicts := [], collectClk := s.clk, newIdClk := s.clk
                             ringBack := false }
    sendDiscover { s with course := c } true (usedPorts s)

/-- A DISCOVER with FULL is wanted (R642): at once, but while one is being collected it is under way, and a boot transfer ends first. -/
def wantFull (s : State) : State :=
  match s.course.enum with
  | .idle => discoverFull s
  | .collecting => if s.course.enumFull then s else discoverFull s
  | .booting => { s with course := { s.course with fullWanted := true } }

/-- The head's node of an address is changed. -/
def modNode (s : State) (addr : Nat) (f : Node → Node) : State :=
  { s with course := { s.course with nodes := s.course.nodes.map fun n => if n.addr.toNat == addr then f n else n } }

/-- Pieces of at most nine. -/
def chunks9 {α : Type} : Nat → List α → List (List α)
  | 0, _ => []
  | fuel + 1, l => if l.isEmpty then [] else l.take 9 :: chunks9 fuel (l.drop 9)

/-! Known VCNs of a node (R718). -/

/-- The local indices a node's sections declare present, ascending: channels present, every class, its own temperatures and supplies. -/
def presentIndex (g : Nat → List Byte) (i : Nat) : Bool :=
  let ec (n : Nat) : Nat := u8 (g 4) (16 * n + 11)
  if i < 0x10 then bit (ec (i / 2)) 0 && (i % 2 == 0 || bit (ec (i / 2)) 1)
  else if i < 0x16 then bit (u8 (g 6) (36 * (i - 0x10))) 0
  else if 0x18 ≤ i ∧ i < 0x1E then bit (u8 (g 6) (36 * (i - 0x18))) 0
  else if 0x20 ≤ i ∧ i < 0x24 then bit (u8 (g 9) (12 + 8 * (i - 0x20))) 0
  else if 0x30 ≤ i ∧ i < 0x40 then bit (ec (i % 8)) 0
  else inR 0x28 0x2F i || inR 0x40 0x8F i

/-- The VCNs of a node. -/
def nodeVcns (node : Nat) (g : Nat → List Byte) : List Vcn :=
  ((List.range 0x90).filter (presentIndex g)).map fun i => BitVec.ofNat 16 (256 * node + i)

/-- Entries for the VCNs of a node under its sections, as far as the store of 8192 has room; EV30 once for a node when one finds none (R718, R719). -/
def allocate (s : State) (node : Nat) (g : Nat → List Byte) : State :=
  let new := (nodeVcns node g).filter fun v => (entryOf s v).isNone
  let fit := new.take (8192 - s.results.length)
  let s' := { s with results := fit.foldl insertVcn s.results }
  if fit.length < new.length && !s.course.noRoom.contains node then
    raise { s' with course := { s.course with noRoom := node :: s.course.noRoom } } 30 0
  else s'

/-- The signal of a port (R572): the count of episodes, and the frame being repeated is cut (R583). -/
def execLossOfSignal (port : Fin 2) (repeating : Bool) (s : State) : Host.Outcome State Fault Refusal :=
  let p := s.course.ports[port]
  if !p.enabled || p.los then .next s
  else
    let s := countPort { s with course := { s.course with ports := vmod s.course.ports port fun p => { p with los := true } } } port 5
    let cut (p : Port) : Port := { p with sent := p.sent.map fun f => { f with cut := true } }
    if s.role = .pod && repeating && (s.course.ports[otherPort port].sent.any fun f => f.repeated) then
      .next { s with course := { s.course with ports := vmod s.course.ports (otherPort port) cut } }
    else .next s

/-- SIGNAL_RESTORED (R572, R642): the head sends a DISCOVER with FULL. -/
def execSignalRestored (port : Fin 2) (s : State) : Host.Outcome State Fault Refusal :=
  let p := s.course.ports[port]
  if !p.enabled || !p.los then .next s
  else
    let s := { s with course := { s.course with ports := vmod s.course.ports port fun p => { p with los := false } } }
    .next (if s.role = .head && isRunning s then wantFull s else s)

end Sys2Proof.Machine
end

