-- ==== Sys2Proof/Machine/Footing.lean ====
section
/-! DEFINITION. Footing (03): flash discovery, the anchor, copy selection, the meanings of its commands up to handover. -/

namespace Sys2Proof.Machine

/-! Flash discovery (R76 - R83). The field places of SFDP are those of JESD216B (log 18). -/

/-- Bytes of the SFDP area; what lies beyond it reads erased. -/
def sfdpRead (c : FlashChip) (a n : Nat) : List Byte :=
  (List.range n).map fun i => if c.present then c.sfdp.getD (a + i) 0xFF else c.missingByte

/-- What SFDP gives: the BFPT's bytes, and the first word of the 4-byte address instruction table. -/
structure Sfdp where
  bfpt : List Byte
  four : Nat
  deriving DecidableEq, Repr

/-- Parameter headers: ID, pointer, length in double words. -/
def paramHeaders (c : FlashChip) : List (Nat × Nat × Nat) :=
  (List.range (u8 (sfdpRead c 6 1) 0 + 1)).map fun i =>
    let h := sfdpRead c (8 + 8 * i) 8
    (u8 h 0 + 256 * u8 h 7, le h 4 3, u8 h 3)

/-- SFDP, none when its signature is absent or the BFPT is shorter than 9 double words (R77, R83). -/
def readSfdp (c : FlashChip) : Option Sfdp :=
  if sfdpRead c 0 4 ≠ [0x53, 0x46, 0x44, 0x50] then none
  else
    let hs := paramHeaders c
    match hs.find? fun h => h.1 == 0xFF00 with
    | none => none
    | some (_, p, n) =>
      if n < 9 then none
      else
        let four := match hs.find? fun h => h.1 == 0xFF84 && h.2.2 != 0 with
          | none => 0
          | some (_, q, _) => u32 (sfdpRead c q 4) 0
        some { bfpt := sfdpRead c p (4 * n), four := four }

/-- Double word `k` of the BFPT, counted from 1. -/
def bfptWord (f : Sfdp) (k : Nat) : Nat := u32 f.bfpt (4 * (k - 1))

/-- Density in bits. An exponent above 63 is no density of a flash: it is read as 0, so 3-byte addresses are used (DESIGN CHOICE, log 120). -/
def sfdpDensity (f : Sfdp) : Nat :=
  let d := bfptWord f 2
  if bit d 31 then (if d % 2 ^ 31 ≤ 63 then 2 ^ (d % 2 ^ 31) else 0) else d + 1

/-- The quad-enable bit is set (R80). Which status read shows it for each requirement code is the standard's (PRESUMED, log 18): code 0 has no bit;
1, 4, 5 and 6 name bit 1 of status register 2, which command 0x05 shows in its second byte under code 1 and command 0x35 under the others;
2 names bit 6 of status register 1; 3 names a bit that neither command reads. -/
def quadEnabled (c : FlashChip) (f : Sfdp) : Bool :=
  if f.bfpt.length < 60 then false
  else
    match field (bfptWord f 15) 20 3 with
    | 0 => true
    | 1 => bit (u8 c.status05 1) 1
    | 2 => bit (u8 c.status05 0) 6
    | 4 | 5 | 6 => c.status35.getLsbD 1
    | _ => false

/-- The 4 KiB erase instruction (R117). -/
def eraseCode (f : Sfdp) : Option Nat :=
  let w := bfptWord f 1
  if field w 0 2 = 1 then some (field w 8 8)
  else
    ([bfptWord f 8, bfptWord f 9].flatMap fun d => [d % 65536, d / 65536]).findSome? fun h =>
      if h % 256 = 12 then some (h / 256) else none

/-- Read mode, 4-byte addressing and reachable bytes under an anchor's bus width code (R79 - R83). -/
def selectRead (c : FlashChip) (f : Option Sfdp) (width : Nat) : ReadMode × Bool × Nat :=
  match f with
  | none => (.baseline, false, 2 ^ 24)
  | some f =>
    let w := bfptWord f 1
    let mode : ReadMode :=
      if bit w 22 && width == 2 && quadEnabled c f then .quad else if bit w 16 && 1 ≤ width then .dual else .single
    let listed := match mode with
      | .quad => bit f.four 4
      | .dual => bit f.four 2
      | _ => bit f.four 1
    let d := sfdpDensity f
    let four := decide (2 ^ 27 < d) && listed
    (mode, four, if four then d / 8 else if d = 0 then 2 ^ 24 else min (d / 8) (2 ^ 24))

/-- Command of a read mode, with a 3-byte or a 4-byte address (table Read modes). -/
def readCommand : ReadMode → Bool → Byte
  | .baseline, _ => 0x03
  | .single, four => if four then 0x0C else 0x0B
  | .dual, four => if four then 0x3C else 0x3B
  | .quad, four => if four then 0x6C else 0x6B

/-- Dummy cycles of a read mode: those of its BFPT entry, with its mode clocks; the entry has none for 0x0B, which takes 8 (R79; PRESUMED,
log 18). -/
def readDummies (f : Sfdp) : ReadMode → Nat
  | .baseline => 0
  | .single => 8
  | .dual => field (bfptWord f 4) 0 5 + field (bfptWord f 4) 5 3
  | .quad => field (bfptWord f 3) 16 5 + field (bfptWord f 3) 21 3

/-! The anchor (R85, R86). -/

/-- Slot entry `i` of an anchor block. -/
def anchorSlot (b : List Byte) (i : Nat) : Option (Nat × Nat) :=
  let o := u32 b (8 + 8 * i)
  if o = 0xFFFFFFFF then none else some (o, u32 b (12 + 8 * i))

/-- The reading that follows the acceptance of an anchor: mode, address width, clock, dummy cycles, slots (R79 - R83, R843). Until then a boot
reads with 0x03 at 12 MHz. -/
def acceptAnchor (c : FlashChip) (f : Option Sfdp) (a : List Byte) (b : Boot) : Boot :=
  let (mode, four, _) := selectRead c f (u8 a 5 % 4)
  { b with readMode := mode, fourByte := four, fastClock := f.isSome && !bit (u8 a 5) 2
           dummies := BitVec.ofNat 6 (f.elim 0 fun t => readDummies t mode), slots := Vector.ofFn fun i => anchorSlot a i.val }

/-- Largest capacity of a slot's kind; a Render slot has that one exactly. -/
def slotMax (i : Nat) : Nat := if i < 2 then 262144 else if i < 4 then 655360 else if i < 6 then 65536 else 4096

/-- Slot `i` stands in its table column, within the reachable flash. -/
def anchorSlotOk (b : List Byte) (reach i : Nat) : Bool :=
  match anchorSlot b i with
  | none => true
  | some (o, n) => o % 4096 == 0 && n % 4096 == 0 && 8192 ≤ o && decide (o + n ≤ reach) && (if i < 6 then n ≤ slotMax i else n == 4096)

/-- Two slots do not overlap. A slot of capacity 0 that lies inside another overlaps it (R85; DESIGN CHOICE, log 138). -/
def slotsApart (b : List Byte) (i j : Nat) : Bool :=
  match anchorSlot b i, anchorSlot b j with
  | some (o, n), some (p, m) => decide (o + n ≤ p) || decide (p + m ≤ o)
  | _, _ => true

/-- An anchor block of 128 bytes is valid (R85). -/
def anchorOk (c : FlashChip) (f : Option Sfdp) (b : List Byte) : Bool :=
  let reach := (selectRead c f (u8 b 5 % 4)).2.2
  b.take 4 == [0x59, 0x4E, 0x41, 0x4B] && u8 b 4 == 1 && u8 b 5 % 4 != 3 && u8 b 5 < 8 && u16 b 6 == 128 && zeros b 72 52 &&
    crc32 (b.take 124) == f32At b 124 && allBelow 8 (anchorSlotOk b reach) && allBelow 8 fun i => allBelow i fun j => slotsApart b i j

/-! Copies (R97 - R100). -/

/-- A copy whose magic and header CRC stand. -/
structure Copy where
  which : Fin 2
  cap : Nat
  img : List Byte
  deriving DecidableEq, Repr

/-- A slot's copy of that kind, or the outcome code it has without being checked. -/
def readCopy (c : FlashChip) (slot : Option (Nat × Nat)) (which : Fin 2) (magic : List Byte) : Verdict Copy :=
  match slot with
  | none => .refused 0x0
  | some (o, n) =>
    let h := flashRead c o 32
    if h.take 4 ≠ magic then .refused 0x0
    else if !headerCrcOk h then .refused 0x3
    else .accepted { which := which, cap := n, img := flashRead c o (max n 32) }

/-- Header and image CRC of a copy (R89, R100): its warnings, or its outcome code. A pod checks no more (R106). Of several checks that fail, the
first in this order gives the code: 0x7, 0x3, 0x4, then 0x5 or 0x6, 0x8, 0x9, the sections, 0xC and 0xD (R98; DESIGN CHOICE, log 137). -/
def checkBody (s : State) (kindZero : Bool) (c : Copy) : Verdict (List (BitVec 16)) :=
  let h := c.img
  if u8 h 4 ≠ 1 then .refused 0x7
  else if !headerFieldsOk h c.cap kindZero then .refused 0x3
  else if !imageCrcOk h then .refused 0x4
  else .accepted (if s.cornerstone.romMinor.toNat < u8 h 5 then [4] else [])

/-- Header, image CRC and tag of a copy (R89, R91, R100): its warnings, or its outcome code. -/
def checkCopy (s : State) (kindZero : Bool) (c : Copy) : Verdict (List (BitVec 16)) :=
  match checkBody s kindZero c with
  | .refused k => .refused k
  | .accepted w =>
    let h := c.img
    let n := hLength h
    let tag := hTag h
    if s.otp.sealBit && tag && hmacSha256 (s.otp.userKey.getD []) (h.take n) != (h.drop n).take 32 then .refused 0x5
    else if s.otp.sealBit && !tag && s.otp.tagsRequired then .refused 0x6
    else .accepted ((if tag && !s.otp.sealBit then [7] else []) ++ w)

/-- Copies judged in order until one is accepted: codes, and the accepted one with its result and warnings. -/
def tryCopies {α : Type} (judge : Copy → Verdict (α × List (BitVec 16))) :
    List Copy → List (Fin 2 × Byte) × Option (Copy × α × List (BitVec 16))
  | [] => ([], none)
  | c :: r =>
    match judge c with
    | .accepted a => ((c.which, 0x1) :: r.map (fun d => (d.which, 0x2)), some (c, a))
    | .refused k =>
      let (o, x) := tryCopies judge r
      ((c.which, k) :: o, x)

/-- What the selection of one image kind gives. -/
structure Selected (α : Type) where
  a : Byte
  b : Byte
  got : Option (Copy × α)
  /-- Cases of R114: one for each refused copy beside an accepted one, and the accepted copy's own. -/
  warns : List (BitVec 16)

/-- A code that means the copy was refused. -/
def refusedCode (k : Byte) : Bool := k != 0x0 && k != 0x1 && k != 0x2 && k != 0xF

/-- Select among copies A and B (R97, R98). -/
def selectCopies {α : Type} (a b : Verdict Copy) (judge : Copy → Verdict (α × List (BitVec 16))) : Selected α :=
  let order : List Copy := match a, b with
    | .accepted x, .accepted y => if hSeq x.img < hSeq y.img then [y, x] else [x, y]
    | .accepted x, _ => [x]
    | _, .accepted y => [y]
    | _, _ => []
  let (codes, got) := tryCopies judge order
  let code (v : Verdict Copy) (w : Fin 2) : Byte := match v with
    | .refused k => k
    | .accepted _ => (codes.lookup w).getD 0x2
  let ca := code a 0
  let cb := code b 1
  match got with
  | none => { a := ca, b := cb, got := none, warns := [] }
  | some (c, x, w) =>
    { a := ca, b := cb, got := some (c, x)
      warns := (if refusedCode ca then [1] else []) ++ (if refusedCode cb then [1] else []) ++ w }

/-! Patches (R102, R103). -/

/-- ROM versions of a patch's section 0x01; none: rejected. -/
def romList (p : List Byte) : Option (List Nat) :=
  let n := u8 p 0
  if inR 1 8 n && p.length == (1 + 2 * n + 3) / 4 * 4 && zeros p (1 + 2 * n) (p.length - (1 + 2 * n)) then
    some ((List.range n).map fun k => u16 p (1 + 2 * k))
  else none

/-- A patch's section stands. -/
def patchSecOk (r : RawSec) : Bool :=
  r.headerOk && (if r.id = 1 then (romList r.payload).isSome else if r.id = 3 then r.payload.length == 64 else true)

/-- Warnings of a patch's sections, or the code of a CRITICAL one that is unknown or rejected (R93, R94). -/
def patchSecs : List RawSec → Verdict (List (BitVec 16))
  | [] => .accepted []
  | r :: l =>
    let known := inR 1 3 r.id && r.fmt ≤ 1
    if r.critical && !known then .refused 0xA
    else if r.critical && !patchSecOk r then .refused 0xB
    else
      match patchSecs l with
      | .refused k => .refused k
      | .accepted w => .accepted (if known && patchSecOk r then w else 2 :: w)

/-- The patch applies to a ROM version: its list names it, and its signature verifies. -/
def patchApplies (rom : BitVec 16) (img : List Byte) (l : List RawSec) : Verdict Unit :=
  let get (id : Nat) : Option RawSec := l.find? fun r => r.id == id && r.fmt ≤ 1 && patchSecOk r
  let roms := ((get 1).bind fun r => romList r.payload).getD []
  if !roms.contains rom.toNat then .refused 0xC
  else
    match get 2, get 3 with
    | some _, some g =>
      let stop := ((l.filter fun r => r.id ≤ 2).map fun r => 8 + r.payload.length).sum + 32
      if ecdsaVerify Config.vendorPublicKey (sha256 (img.take stop)) g.payload then .accepted () else .refused 0xD
    | _, _ => .refused 0xD

/-- The verdict on a patch copy whose header and CRC stand. -/
def judgePatch (rom : BitVec 16) (img : List Byte) : Verdict (Unit × List (BitVec 16)) :=
  match sectionsOf img with
  | none => .refused 0x3
  | some l =>
    match patchSecs l with
    | .refused k => .refused k
    | .accepted w =>
      match patchApplies rom img l with
      | .refused k => .refused k
      | .accepted _ => .accepted ((), w)

/-! Loading (R73 - R75, R101). -/

/-- Continue a check with a further verdict. -/
def andThen {α : Type} (c : Verdict (List (BitVec 16))) (f : Unit → Verdict (α × List (BitVec 16))) : Verdict (α × List (BitVec 16)) :=
  match c with
  | .refused k => .refused k
  | .accepted w =>
    match f () with
    | .refused k => .refused k
    | .accepted (a, v) => .accepted (a, w ++ v)

/-- The judge of configuration copies. -/
def configJudge (s : State) (c : Copy) : Verdict (Parse × List (BitVec 16)) :=
  let st := s.cornerstone.stepping.toNat
  let h := c.img
  andThen (checkCopy s true c) fun _ =>
    if st < u8 h 16 then .refused 0x8
    else if s.cornerstone.rom.toNat < u16 h 18 then .refused 0x9
    else
      match sectionsOf h with
      | none => .refused 0x3
      | some l =>
        match parseConfig false (fun p => (parseSub s.cornerstone.romMinor p).map (·.warns)) l with
        | .refused k => .refused k
        | .accepted a => .accepted (a, (if u8 h 17 < st then [3] else []) ++ a.warns)

/-- The judge of Mere copies under an epoch (R100, R511, R512). -/
def mereJudge (s : State) (epoch : Nat) (c : Copy) : Verdict (List (Byte × List Byte) × List (BitVec 16)) :=
  andThen (checkCopy s false c) fun _ =>
    if hKind c.img = 0 then .refused 0x3
    else if hKind c.img ≠ epoch then .refused 0xE
    else
      match sectionsOf c.img with
      | none => .refused 0x3
      | some l =>
        match parseNet (hKind c.img) l with
        | .refused k => .refused k
        | .accepted n => .accepted (n, [])

/-- The network image of an accepted copy. -/
def mereImageOf (c : Copy) (secs : List (Byte × List Byte)) : MereImage :=
  { secs := secs, epoch := BitVec.ofNat 32 (hKind c.img), crc := f32At c.img (hLength c.img - 4), sequence := BitVec.ofNat 32 (hSeq c.img) }

/-- Warnings counted, with their cases (R114). -/
def addWarnings (b : Boot) (w : List (BitVec 16)) : Boot :=
  { b with warnings := sat16Add b.warnings w.length, warningCases := b.warningCases ++ w }

/-- Step 3: patches. -/
def loadPatch (s : State) (c : FlashChip) (b : Boot) : Boot :=
  let copy (w : Fin 2) (i : Fin 8) : Verdict Copy := readCopy c b.slots[i] w magicPatch
  let r := selectCopies (copy 0 4) (copy 1 5) fun x => andThen (checkCopy s true x) fun _ => judgePatch s.cornerstone.rom x.img
  let b := { b with outcomes := (b.outcomes.set 4 r.a).set 5 r.b }
  match r.got with
  | some (x, _) => addWarnings { b with patchSeq := BitVec.ofNat 32 (hSeq x.img) } r.warns
  | none => addWarnings b (if r.a != 0 || r.b != 0 then [8] else [])

/-- Step 4: the configuration. -/
def loadConfig (s : State) (c : FlashChip) (b : Boot) : Boot :=
  let copy (w : Fin 2) (i : Fin 8) : Verdict Copy := readCopy c b.slots[i] w magicConfig
  let r := selectCopies (copy 0 0) (copy 1 1) (configJudge s)
  let b := { b with outcomes := (b.outcomes.set 0 r.a).set 1 r.b }
  match r.got with
  | none => { b with safeCause := some 3 }
  | some (x, a) =>
    addWarnings { b with config := some { secs := a.secs }, configSlot := some x.which, configSeq := BitVec.ofNat 32 (hSeq x.img)
                         configLen := hLength x.img, badSubImages := a.bad } r.warns

/-- Step 6: the network image, where section 0x0D binds one. -/
def loadMere (s : State) (c : FlashChip) (b : Boot) : Boot :=
  let absent (i : Fin 8) : Byte := if b.slots[i].isNone then 0x0 else 0xF
  match b.config.bind fun i => imageSec i 0x0D with
  | none => { b with outcomes := (b.outcomes.set 2 (absent 2)).set 3 (absent 3) }
  | some p =>
    let copy (w : Fin 2) (i : Fin 8) : Verdict Copy := readCopy c b.slots[i] w magicMere
    let r := selectCopies (copy 0 2) (copy 1 3) (mereJudge s (u32 p 0))
    let b := { b with outcomes := (b.outcomes.set 2 r.a).set 3 r.b }
    match r.got with
    | none => b
    | some (x, n) => addWarnings { b with mere := some (mereImageOf x n) } r.warns

/-- Step 5: the Render sectors (R368): the copy in use, and the warning of case 9. -/
def loadRender (c : FlashChip) (b : Boot) : Option RenderCopy × Boot :=
  let raw (n : Fin 2) : Option (List Byte) := b.slots[renderSlot n].map fun p => flashRead c p.1 4096
  let copy (n : Fin 2) : Option RenderCopy := (raw n).bind (parseRender n)
  match copy 0, copy 1 with
  | some x, some y => (some (if x.sequence < y.sequence then y else x), b)
  | some x, none => (some x, b)
  | none, some y => (some y, b)
  | none, none =>
    let dirty (n : Fin 2) : Bool := (raw n).any fun l => l.any (· != 0xFF)
    (none, if dirty 0 || dirty 1 then addWarnings b [9] else b)

/-- Footing ends: what it has chosen waits for handover. -/
def footingEnds (s : State) (b : Boot) (r : Option RenderCopy) : State :=
  { s with boot := b, cal := { s.cal with render := r }, phase := .loaded }

/-- Steps 2 to 6 on a flash that has become idle. -/
def loadImages (s : State) (c : FlashChip) (b : Boot) : State :=
  let f := readSfdp c
  let b := match f with
    | none => addWarnings { b with erase4k := true, eraseOp := 0x20 } [6]
    | some f => { b with sfdp := true, density := BitVec.ofNat 8 (Nat.log2 (sfdpDensity f)), erase4k := (eraseCode f).isSome
                         eraseOp := BitVec.ofNat 8 ((eraseCode f).getD 0x20) }
  let prim := flashRead c 0 128
  let back := flashRead c 0x1000 128
  if !anchorOk c f prim && !anchorOk c f back then footingEnds s { b with safeCause := some 2 } none
  else
    let a := if anchorOk c f prim then prim else back
    let b := acceptAnchor c f a b
    let b := if anchorOk c f prim then b else addWarnings { b with backupAnchor := true } [5]
    let b := loadConfig s c (loadPatch s c b)
    let (r, b) := loadRender c b
    footingEnds s (loadMere s c b) r

/-- A pod after the Cornerstone check (R104): it repeats frames and waits for the head. Its rail stays as the reset has left it: off, or held over
a warm reset until handover or the end of the hold (R150, R308; DESIGN CHOICE, log 118). -/
def podBegins (s : State) (b : Boot) : State :=
  { s with boot := b, phase := .podWait, course := { s.course with ports := s.course.ports.map fun p => { p with enabled := true } } }

/-- A flash that reports a write in progress is waited for (R76, R116); else the images are loaded. -/
def flashBegins (s : State) (b : Boot) : State :=
  let busy := if s.flash.present then bit (u8 s.flash.status05 0) 0 else s.flash.missingByte.getLsbD 0
  if busy then { s with boot := { b with wipClk := some (s.boot.wipClk.getD s.clk) } } else loadImages s s.flash b

/-- What follows the Cornerstone check (R73, R104). -/
def footingBegins (s : State) (b : Boot) : State :=
  if !s.cornerstone.ok then footingEnds s { b with safeCause := some 1 } none
  else if s.role = .pod then podBegins s b
  else flashBegins s b

/-- FOOTING_START (R70 - R104): Cornerstone, then in the head the images, unless the flash is still busy (R76), when the row comes again; a pod
waits for the head. A Cornerstone whose check has failed does not count as checked: the identity page goes on reading 0 (R74; DESIGN CHOICE,
log 119). `fitted`: the flash now at the balls where it is another; `duration`: what Footing takes, in microseconds. -/
def execFootingStart (fitted : Option FlashChip) (duration : BitVec 32) (s : State) : Host.Outcome State Fault Refusal :=
  if s.phase ≠ .footing then .next s
  else .next (footingBegins { s with flash := fitted.getD s.flash } { idValid := s.cornerstone.ok, duration := duration, startClk := s.boot.startClk })

/-- FLASH_WIP_TIMEOUT (R76, R84): the flash has been busy for 500 ms and is handled as missing. -/
def execFlashWipTimeout (s : State) : Host.Outcome State Fault Refusal :=
  if s.phase = .footing ∧ s.role = .head ∧ s.cornerstone.ok ∧ (s.boot.wipClk.any fun c => decide (c + 500000 ≤ s.clk)) then
    .next (footingEnds s { s.boot with safeCause := some 2 } none)
  else .next s

end Sys2Proof.Machine
end

