-- ==== Sys2Proof/Machine/CourseEnum.lean ====
section
/-! DEFINITION. Enumeration and boot transfers at the head (15): the meanings of its commands. -/

namespace Sys2Proof.Machine

/-- What an IDENTITY tells (table IDENTITY payload). -/
structure Ident where
  uid : BitVec 64
  addr : Byte
  phase : Byte
  stepping : Byte
  version : Byte
  rom : BitVec 16
  link0 : Byte
  link1 : Byte
  sub : Byte
  mode : Byte
  subCrc : BitVec 32
  mereCrc : BitVec 32
  patchSeq : BitVec 32
  deriving DecidableEq, Repr

/-- Byte `o` of a payload as a byte. -/
def b8 (p : List Byte) (o : Nat) : Byte := p.getD o 0

def identOf (p : List Byte) : Ident :=
  { uid := BitVec.ofNat 64 (le p 0 8), addr := b8 p 8, phase := b8 p 9, stepping := b8 p 10, version := b8 p 11
    rom := BitVec.ofNat 16 (u16 p 12), link0 := b8 p 14, link1 := b8 p 15, sub := b8 p 16, mode := b8 p 17
    subCrc := f32At p 20, mereCrc := f32At p 24, patchSeq := f32At p 28 }

/-- The same of a pod the head knows. -/
def identOfNode (n : Node) : Ident :=
  { uid := n.uid, addr := n.addr, phase := n.phase, stepping := n.stepping, version := n.version, rom := n.rom, link0 := n.link0
    link1 := n.link1, sub := n.sub, mode := n.mode, subCrc := n.subCrc, mereCrc := n.mereCrc, patchSeq := n.patchSeq }

/-! Section 0x0E. -/

/-- A map entry. -/
structure MapEntry where
  idx : Nat
  kind : Nat
  addr : Byte
  sub : Byte
  prio : Nat
  key : Nat
  deriving DecidableEq, Repr

def mapEntries (s : State) : List MapEntry :=
  let p := sec s 0x0E
  (List.range (u8 p 1)).map fun k =>
    let o := 16 + 12 * k
    { idx := k, kind := u8 p o, addr := b8 p (o + 1), sub := b8 p (o + 2), prio := u8 p (o + 3) % 4, key := le p (o + 4) 8 }

def cfgRing (s : State) : Bool := bit (u8 (sec s 0x0E) 0) 1
def cfgAdopt (s : State) : Bool := bit (u8 (sec s 0x0E) 0) 2
def cfgDelayLimit (s : State) : Nat := u8 (sec s 0x0E) 3

/-- Priority of a node: critical 0, normal 1, background 2; an adopted pod has no entry and is normal (log 34). -/
def nodePrio (s : State) (n : Node) : Nat :=
  match (mapEntries s).find? fun e => e.idx == n.mapEntry.toNat && n.mapEntry != 0xFF with
  | some e => e.prio
  | none => 1

/-! Matching (R590 - R592). -/

/-- What the head decides for a pod: address 0 is parked UNMAPPED. -/
structure Plan where
  id : Ident
  addr : Byte
  sub : Byte
  entry : Byte
  deriving DecidableEq, Repr

/-- The order of R590 and R593: ascending position, then ascending C1 link count. -/
def beforeIn (a b : Ident) : Bool := a.link0 < b.link0 || (a.link0 == b.link0 && a.link1 ≤ b.link1)

def insertIdent (a : Ident) : List Ident → List Ident
  | [] => [a]
  | b :: r => if beforeIn a b then a :: b :: r else b :: insertIdent a r

def sortIdents (l : List Ident) : List Ident := l.foldr insertIdent []

/-- The entry with the pod's unique ID. -/
def uidEntry (s : State) (i : Ident) : Option MapEntry := (mapEntries s).find? fun e => e.kind == 1 && e.key == i.uid.toNat

/-- The entry of the pod's position. -/
def posEntry (s : State) (i : Ident) : Option MapEntry :=
  (mapEntries s).find? fun e => e.kind == 2 && e.key == i.link0.toNat

/-- The lowest free address that no entry names. -/
def freeAddress (s : State) (used : List Byte) : Option Byte :=
  ((List.range 250).map fun k => BitVec.ofNat 8 (k + 1)).find? fun a => !used.contains a && (mapEntries s).all fun e => e.addr != a

/-- A pod may keep the address it reports: no unique ID names it, and a position or adoption does (R591). -/
def mayKeep (s : State) (i : Ident) : Bool := i.addr != 0 && (uidEntry s i).isNone && ((posEntry s i).isSome || cfgAdopt s)

/-- R590 gives a pod by its position the very address it reports: it keeps that before any pod that only holds it (R591). -/
def firm (s : State) (i : Ident) : Bool := mayKeep s i && (posEntry s i).any fun e => e.addr == i.addr

/-- The addresses a plan may not give, when a pod is planned: in use so far; kept by pods still to come; firm ones; and, for an adopted pod only,
those of nodes of the table that were not found. -/
structure Taken where
  used : List Byte
  held : List Byte
  firm : List Byte
  table : List Byte

/-- A pod that no unique ID names: by position, by adoption, or parked; it keeps a held address that is not needed (R591). -/
def planOther (s : State) (t : Taken) (i : Ident) : Plan :=
  let keep := i.addr != 0 && !t.used.contains i.addr && (firm s i || !t.firm.contains i.addr)
  match posEntry s i with
  | some e =>
    let a := if keep then i.addr else if t.used.contains e.addr || t.held.contains e.addr then 0 else e.addr
    { id := i, addr := a, sub := if a = 0 then 0 else e.sub, entry := if a = 0 then 0xFF else BitVec.ofNat 8 e.idx }
  | none =>
    let a := if !cfgAdopt s then 0 else if keep then i.addr else (freeAddress s (t.used ++ t.held ++ t.firm ++ t.table)).getD 0
    { id := i, addr := a, sub := if a = 0 then 0 else b8 (sec s 0x0E) 2, entry := 0xFF }

/-- Plans in order, the addresses given so far in use. -/
def planAll (s : State) (firm table : List Byte) : List Byte → List Ident → List Plan
  | _, [] => []
  | used, i :: r =>
    let p := match uidEntry s i with
      | some e => { id := i, addr := e.addr, sub := e.sub, entry := BitVec.ofNat 8 e.idx }
      | none => planOther s { used := used, held := (r.filter (mayKeep s)).map (·.addr), firm := firm, table := table } i
    p :: planAll s firm table (if p.addr = 0 then used else p.addr :: used) r

/-- A pod that does not answer a DISCOVER without FULL holds its address in the head's table: one with which the head works (R587, R591). -/
def holds (n : Node) : Bool :=
  match n.state with
  | .assigned | .booting | .joined => true
  | _ => false

/-- Everything the head decides at the end of the collection: the plans in the order of the ASSIGN frames. A node that a FULL collection did not
find keeps its address from adopted pods only. Beyond 250 pods, and for unique IDs that two pods report, there is no address (R592, R604). -/
def plans (s : State) : List Plan :=
  let found := s.course.found.map fun x => identOf x.payload
  let need := (found.filterMap (uidEntry s)).map (·.addr)
  let away := s.course.nodes.filter fun n => !found.any fun i => i.uid == n.uid
  let moved := (away.filter fun n => holds n && need.contains n.addr).map identOfNode
  let all := sortIdents (found ++ moved)
  let used := if s.course.enumFull then need else need ++ (away.filter holds).map (·.addr)
  let out (i : Ident) : Bool := s.course.conflicts.contains i.uid
  let ids := (all.take 250).filter fun i => !out i
  let ok := planAll s ((ids.filter (firm s)).map (·.addr)) (away.map (·.addr)) used ids
  all.map fun i => (ok.find? fun p => p.id == i).getD { id := i, addr := 0, sub := 0, entry := 0xFF }

/-! What the head sends a pod (R105, R593). -/

/-- The sub-image of an ID in the configuration copy; none when it is missing or rejected (R113). -/
def subBytes (s : State) (sub : Byte) : Option (List Byte) :=
  if s.boot.badSubImages.contains sub then none else s.config.bind fun c => imageSec c sub.toNat

/-- CRC of a container: its last four bytes. -/
def containerCrc (p : List Byte) : BitVec 32 := f32At p (p.length - 4)

/-- CRC of the Mere copy a sub-image binds, 0 for none. -/
def mereCrcFor (s : State) (sub : List Byte) : BitVec 32 :=
  match imageSec (subImage sub) 0x0D, s.boot.mere with
  | some d, some m => if u32 d 0 = m.epoch.toNat then m.crc else 0
  | _, _ => 0

/-- R107 and R113: the pod can run the sub-image. -/
def compatible (s : State) (i : Ident) (sub : Byte) : Bool :=
  match subBytes s sub with
  | none => false
  | some p => u8 p 16 ≤ i.stepping.toNat && u16 p 18 ≤ i.rom.toNat

/-- A pod that runs, alone or not. -/
def runsPhase (i : Ident) : Bool := i.phase == 1 || i.phase == 2

/-- The images a pod runs on are those the head would send it (R593). -/
def imagesMatch (s : State) (i : Ident) (sub : Byte) : Bool :=
  match subBytes s sub with
  | none => false
  | some p => i.sub == sub && i.subCrc == containerCrc p && i.mereCrc == mereCrcFor s p

/-- Disposition of a plan (table ASSIGN payload). -/
def disposition (s : State) (p : Plan) : Byte :=
  if p.addr = 0 then 2
  else if !compatible s p.id p.sub then 1
  else if runsPhase p.id && !imagesMatch s p.id p.sub then 3 else 0

/-- ASSIGN payload. -/
def assignPayload (s : State) (uid : BitVec 64) (addr disp sub : Byte) : List Byte :=
  toLE 8 uid.toNat ++ [addr, disp, if disp = 0 || disp = 3 then sub else 0, s.course.version, 0, 0, 0, 0]

/-- An ASSIGN goes out on every used port; the pod's next IDENTITY is a fresh start (R577). -/
def sendAssign (s : State) (uid : BitVec 64) (addr disp sub : Byte) : State :=
  modNode (originate s (usedPorts s) 0x03 255 2 0 (assignPayload s uid addr disp sub)) addr.toNat fun n =>
    { n with assignClk := s.clk, assignNew := true }

/-- Insert a node record by ascending address, in place of one of that address. -/
def putNode (n : Node) : List Node → List Node
  | [] => [n]
  | m :: r => if n.addr < m.addr then n :: m :: r else if n.addr = m.addr then n :: r else m :: putNode n r

/-- A node's record in the node table. -/
def setNode (s : State) (n : Node) : State := { s with course := { s.course with nodes := putNode n s.course.nodes } }

/-- What an IDENTITY changes in a node's record. -/
def identNode (i : Ident) (n : Node) : Node :=
  { n with uid := i.uid, phase := i.phase, mode := i.mode, link0 := if i.link0 = 0 then n.link0 else i.link0
           link1 := if i.link1 = 0 then n.link1 else i.link1, stepping := i.stepping, version := i.version, rom := i.rom
           subCrc := i.subCrc, mereCrc := i.mereCrc, patchSeq := i.patchSeq }

/-- The record of a pod under its plan. The counts and warnings of an address go on whichever pod holds it (R700). -/
def planNode (s : State) (p : Plan) : Node :=
  let old := s.course.nodes.find? fun n => n.uid == p.id.uid && n.addr == p.addr
  let blank : Node := match s.course.nodes.find? fun n => n.addr == p.addr with
    | none => { addr := p.addr }
    | some m => { addr := p.addr, counts := m.counts, warnings := m.warnings }
  let n := identNode p.id (old.getD blank)
  let n := { n with link0 := p.id.link0, link1 := p.id.link1, sub := p.sub, mapEntry := p.entry, bootRound := 0, missing := none }
  match (disposition s p).toNat with
  | 1 => { n with state := .parkedIncompatible, assigns := 1 }
  | 3 => { n with state := .found, assigns := 0 }
  | _ => { n with state := if n.state = .joined && runsPhase p.id then .joined else .assigned, assigns := 1 }

/-- The VCNs of a node newly parked read MISSING (R107, R669). -/
def parkVcns (s : State) (a : Byte) : State :=
  ((s.results.map (·.1)).filter fun v => vcnNode v == a.toNat).foldl (fun s v =>
    match entryOf s v with
    | none => s
    | some e =>
      let (r, s) := missingRecord s v e
      modEntry s v fun e => { e with record := some r }) s

/-- One plan is carried out: the table, ASSIGN, and EV30 for a pod newly parked (R603). -/
def applyPlan (s : State) (p : Plan) : State :=
  let d := disposition s p
  if p.addr = 0 then
    let known := s.course.unmapped.contains p.id.uid
    let s := { s with course := { s.course with
      unmapped := if known then s.course.unmapped else s.course.unmapped ++ [p.id.uid]
      nodes := s.course.nodes.filter fun n => n.uid != p.id.uid } }
    sendAssign (if known then s else raise s 30 0) p.id.uid 0 2 0
  else
    let was := s.course.nodes.any fun n => n.uid == p.id.uid && n.state == .parkedIncompatible
    let n := planNode s p
    let s := { s with course := { s.course with nodes := putNode n (s.course.nodes.filter fun m => m.uid != p.id.uid) } }
    sendAssign (if d = 1 && !was then raise (parkVcns s p.addr) 30 0 else s) p.id.uid p.addr d p.sub

/-! Boot transfers (R594 - R597). -/

/-- Blocks of 240 bytes of an item. -/
def blockCount (b : List Byte) : Nat := (b.length + 239) / 240
def blockOf (b : List Byte) (i : Nat) : List Byte := (b.drop (240 * i)).take 240

/-- The items of R105: patches with a valid header, every valid sub-image, the Mere copy accepted (order: log 35). -/
def bootList (s : State) : List (Byte × Byte × List Byte) :=
  let copy (slot : Fin 8) (w : Fin 2) (magic : List Byte) : List (List Byte) :=
    match readCopy s.flash (slotOf s slot) w magic with
    | .accepted c => [c.img.take (hLength c.img)]
    | .refused _ => []
  let patches := copy 4 0 magicPatch ++ copy 5 1 magicPatch
  let subs := ((List.range 32).map fun k => BitVec.ofNat 8 (0x20 + k)).filterMap fun id => (subBytes s id).map fun p => (id, p)
  let mere := match s.boot.mere with
    | none => []
    | some _ => if s.boot.outcomes[2] = 1 then copy 2 0 magicMere else copy 3 1 magicMere
  patches.map (fun b => (1, 0, b)) ++ subs.map (fun x => (3, x.1, x.2)) ++ mere.map (fun b => (2, 0, b))

/-- Number of the present item in its frames. -/
def itemNo (s : State) : Byte := BitVec.ofNat 8 (s.course.bootItem % 16)

/-- BOOT_DATA frames of some blocks, which carry the block index in place of a sequence. -/
def sendBlocks (s : State) (b : List Byte) (idx : List Nat) : State :=
  let frame (i : Nat) : CourseFrame := newFrame s 0x09 255 2 (BitVec.ofNat 8 (i / 256)) (BitVec.ofNat 8 i) (blockOf b i)
  idx.foldl (fun s i => (usedPorts s).foldl (fun s p => sendOn s p (frame i)) s) s

/-- BOOT_END of a round. -/
def sendBootEnd (s : State) (round : Nat) : State :=
  originate { s with course := { s.course with bootRound := round, bootClk := s.clk } } (usedPorts s) 0x0A 255 2 0 [itemNo s, BitVec.ofNat 8 round, 0, 0]

/-- A pod that is offered the items. -/
def bootable (n : Node) : Bool := (n.state == .assigned || n.state == .booting) && n.phase != 1 && n.phase != 2

/-- Enumeration is done; a DISCOVER with FULL that waited for it goes out (R642). -/
def enumIdle (s : State) : State :=
  let t := { s with course := { s.course with enum := .idle, bootItems := [], bootRound := 0 } }
  if s.course.fullWanted then discoverFull t else t

/-- The first item waiting is sent whole (R594); without one, or without a pod that needs it, enumeration is done. -/
def sendItem (s : State) : State :=
  match s.course.bootItems with
  | [] => enumIdle s
  | (kind, sub, b) :: _ =>
    if !(s.course.nodes.any bootable) then enumIdle s
    else
      let s := { s with course := { s.course with enum := .booting, nodes := s.course.nodes.map fun n =>
        if (bootable n) then { n with missing := none } else n } }
      let s := originate s (usedPorts s) 0x08 255 2 0
        ([itemNo s, kind, sub, 0] ++ toLE 4 b.length ++ toLE 2 (blockCount b) ++ [0, 0] ++ toLE 4 (containerCrc b).toNat)
      sendBootEnd (sendBlocks s b (List.range (blockCount b))) 0

/-- The present item is done; the next one follows. -/
def nextItem (s : State) : State :=
  sendItem { s with course := { s.course with bootItems := s.course.bootItems.drop 1, bootItem := s.course.bootItem + 1 } }

/-- A pod keeps an item (R595). -/
def keepsItem (s : State) (n : Node) (kind sub : Byte) : Bool :=
  match kind.toNat with
  | 1 => true
  | 3 => n.sub == sub
  | _ =>
    match subBytes s n.sub with
    | none => false
    | some p => (imageSec (subImage p) 0x0D).isSome

/-! The meanings. -/

/-- Step 2 of the enumeration is over: 5 ms without a new unique ID, or 100 ms in all (table Enumeration). -/
def collected (s : State) : Bool := decide (s.course.newIdClk + 5000 ≤ s.clk) || decide (s.course.collectClk + 100000 ≤ s.clk)

/-- A ring that has not closed by the end of step 2 goes on as two chains (R589). -/
def judgeRing (s : State) : State :=
  if cfgRing s && s.course.enumFull && !s.course.ringBack then { s with course := { s.course with ringClosed := false, n := 0 } } else s

/-- Side of a pod (R618, R619): in a closed ring the port with the smaller link count, else the one that reaches it. -/
def sideFor (ring : Bool) (l0 l1 : Byte) : Fin 2 :=
  if l1 = 0 then 0 else if l0 = 0 then 1 else if ring && l1 < l0 then 1 else 0

/-- A node on the side that its link counts give in a closed ring; one that moves has its delay measured soon (R618, R622). -/
def onRingSide (n : Node) : Node :=
  let d := sideFor true n.link0 n.link1
  { n with side := d, delayWanted := n.delayWanted || n.side != d }

/-- The head runs a closed ring with every pod on its side (R618). -/
def ringSides (s : State) : State := { s with course := { s.course with nodes := s.course.nodes.map onRingSide } }

/-- ENUMERATION_COLLECT_END (R589 - R594, R598, R603 - R605, R618): plans, ASSIGN frames, and the boot items for those who need them. -/
def execEnumerationCollectEnd (s : State) : Host.Outcome State Fault Refusal :=
  if s.role ≠ .head || !isRunning s || s.course.enum ≠ .collecting || !collected s then .next s
  else
    let s := judgeRing s
    let ps := plans s
    let s := if s.course.enumFirst then lowerVersion s else s
    let full := s.course.enumFull
    let stay := if s.course.enumFull then s.course.unmapped.filter fun u => ps.any fun p => p.id.uid == u && p.addr == 0
      else s.course.unmapped.filter fun u => !ps.any fun p => p.id.uid == u && p.addr != 0
    let s := { s with course := { s.course with unmapped := stay, enumFirst := false, enumFull := false } }
    let s := ps.foldl applyPlan s
    let s := if full && s.course.ringClosed then ringSides s else s
    .next (sendItem { s with course := { s.course with found := [], bootItems := bootList s, bootItem := 0 } })

/-- DISCOVER_TIMER (R588): once per second one without FULL on each used port that has signal. -/
def execDiscoverTimer (s : State) : Host.Outcome State Fault Refusal :=
  let ports := (usedPorts s).filter fun p => !s.course.ports[p].los
  if s.role ≠ .head || !isRunning s || s.course.enum ≠ .idle || ports.isEmpty || s.clk < s.course.discoverClk + 1000000 then .next s
  else
    .next (sendDiscover { s with course := { s.course with enum := .collecting, enumFull := false, found := []
                                                           collectClk := s.clk, newIdClk := s.clk } } false ports)

/-- DISCOVER_RETURN (R573, R584, R589): the head's own DISCOVER from C0 has come round to C1, and the ring counts as closed; the frame is
discarded. A bad frame of this source and type, or a chance match, is counted. -/
def execDiscoverReturn (r : CourseRx) (s : State) : Host.Outcome State Fault Refusal :=
  let port := s.course.ports[r.port]
  if s.role ≠ .head || !isRunning s || r.src ≠ 0 || !port.enabled then .next s
  else
    let good := wholeFrame r && r.crc == frameCrc 0x01 r.hop r && fieldsOk s 0x01 r && !underTest port
    let own := cfgRing s && r.port == 1 && !bit (u8 r.payload 0) 1 && le r.payload 4 8 == s.cornerstone.uniqueId.toNat
    if !good then .next (if rxFate s 0x01 r == .duplicate then s else countFate s 0x01 r)
    else if !own then .next s
    else
      let t := { s with course := { s.course with ringClosed := true, ringBack := true, n := r.hop } }
      .next (if s.course.ringClosed then t else ringSides t)

/-- A pod becomes joined; the next sweep includes it (table Enumeration, R603, R718, R365, R622). -/
def joinNode (s : State) (n : Node) : State :=
  let n' := { n with state := .joined, side := sideFor s.course.ringClosed n.link0 n.link1, everReported := false, reported := false
                     expected := 0, got := 0, resent := 0, missedReports := 0, excused := false, joining := true
                     renderPending := true, delayWanted := true, delayAge := 0, fitted := 0, dec := false, ack := false, grant := 0
                     pollWanted := false, backlogSweep := none, backlogGot := 0, backlogBase := 0, backlogTold := 0, backlogNext := 0 }
  let s := setNode s n'
  let s := raise s 22 n.addr.toNat
  let s := allocate s n.addr.toNat (nodeSec s n.addr.toNat)
  let s := { s with ks := { s.ks with lostPods := s.ks.lostPods.filter fun a => a != n.addr } }
  if faultActive s 0x17 && s.ks.lostPods == [] then clearFault s 0x17 else s

/-- The link count that an IDENTITY gives for the head port it came in on: it answers the DISCOVER copy of that port, so this one is of now (R585,
R587). -/
def freshLink (port : Fin 2) (p : List Byte) : Byte := b8 p (14 + port.val)

/-- What a collection holds of a pod after an IDENTITY on a head port: the IDENTITY, with the link count of the other port as the answer there
brought it. -/
def putFound (x : Found) (port : Fin 2) (p : List Byte) : Found :=
  let x := if port = 0 then { x with fresh0 := some (freshLink 0 p) } else { x with fresh1 := some (freshLink 1 p) }
  let p := match x.fresh0 with
    | some c => setAt p 14 c
    | none => p
  let p := match x.fresh1 with
    | some c => setAt p 15 c
    | none => p
  { x with payload := p }

/-- Two answers on one head port with different link counts come from two pods (R604). -/
def clashFound (x : Found) (port : Fin 2) (p : List Byte) : Bool :=
  (if port = 0 then x.fresh0 else x.fresh1).any fun c => c != freshLink port p

/-- A pod of the table with the same unique ID is in place and stands elsewhere: it answers only a DISCOVER with FULL (R587), so the answer to
another one is a second pod's (R604, log 32). -/
def clashNode (s : State) (port : Fin 2) (p : List Byte) : Bool :=
  !s.course.enumFull && s.course.nodes.any fun n =>
    let l := if port = 0 then n.link0 else n.link1
    n.uid == (identOf p).uid && n.state == .joined && l != 0 && l != freshLink port p

/-- An IDENTITY that came in on a head port enters the collection (R587, R604). -/
def collectIdentity (s : State) (port : Fin 2) (p : List Byte) : State :=
  let c := s.course
  let same (x : Found) : Bool := x.payload.take 8 == p.take 8
  let uid := (identOf p).uid
  let clash := (c.found.any fun x => same x && clashFound x port p) || clashNode s port p
  let c := { c with conflicts := if clash && !c.conflicts.contains uid then uid :: c.conflicts else c.conflicts }
  if c.found.any same then { s with course := { c with found := c.found.map fun x => if same x then putFound x port p else x } }
  else { s with course := { c with found := c.found ++ [putFound { payload := p } port p], newIdClk := s.clk } }

/-- The lowest of the highest versions that pods report in IDENTITY (R598). -/
def noteVersion (s : State) (v : Byte) : State :=
  { s with course := { s.course with lowest := if v < s.course.lowest then v else s.course.lowest } }

/-- IDENTITY (R577, R590, R593, R598, R603, R642): collected, or the confirmation of an address, or a boot that is done. -/
def execIdentity (r : CourseRx) (s : State) : Host.Outcome State Fault Refusal :=
  .next (headRx s 0x02 r fun s =>
    let i := identOf r.payload
    let s := noteVersion s i.version
    let s := if s.course.enum = .collecting && (s.course.enumFull || i.addr == 0) then collectIdentity s r.port r.payload else s
    match s.course.nodes.find? fun n => n.uid == i.uid && n.addr == i.addr && i.addr != 0 with
    | none => s
    | some n =>
      let m := { (identNode i n) with assigns := 0, assignNew := false }
      let s := setNode s m
      match n.state with
      | .assigned | .booting =>
        if runsPhase i then joinNode s m
        else setNode s { m with state := .booting }
      | .bootFailed => if runsPhase i then joinNode s m else s
      | .lost => wantFull s
      | _ => s)

/-- ASSIGN_RETRY (R593): repeated up to three times at 10 ms intervals, then the pod is absent. -/
def execAssignRetry (node : BitVec 8) (s : State) : Host.Outcome State Fault Refusal :=
  match s.role == .head && isRunning s, s.course.nodes.find? fun n => n.addr == node && n.assigns != 0 with
  | true, some n =>
    if s.clk < n.assignClk + 10000 then .next s
    else if n.assigns ≤ 3 then
      let s := setNode s { n with assigns := n.assigns + 1 }
      .next (sendAssign s n.uid n.addr (if n.state = .parkedIncompatible then 1 else 0) n.sub)
    else .next (setNode s { n with assigns := 0, state := .absent })
  | _, _ => .next s

/-- Listed block indices of a BOOT_STATUS. -/
def listedBlocks (p : List Byte) : List (BitVec 16) := (List.range (u8 p 2)).map fun k => BitVec.ofNat 16 (u16 p (4 + 2 * k))

/-- BOOT_STATUS (R595, R596): the blocks a pod is missing, none when its item is complete. -/
def execBootStatus (r : CourseRx) (s : State) : Host.Outcome State Fault Refusal :=
  .next (headRx s 0x0B r fun s =>
    if s.course.enum ≠ .booting || b8 r.payload 0 != itemNo s then s
    else
      let l := if bit (u8 r.payload 1) 0 then [] else listedBlocks r.payload
      modNode s r.src.toNat fun n => if bootable n then { n with missing := some l } else n)

/-- What a pod is missing after the wait: every block without a status (R597). -/
def stillMissing (count : Nat) (n : Node) : List Nat :=
  match n.missing with
  | none => List.range count
  | some l => (l.map (·.toNat)).filter (· < count)

/-- BOOT_STATUS_TIMEOUT (R594, R596, R597), 10 ms after BOOT_END: resends under the next round, at most three; then the pods still incomplete have failed, and
the next item follows. -/
def execBootStatusTimeout (s : State) : Host.Outcome State Fault Refusal :=
  let due := decide (s.course.bootClk + 10000 ≤ s.clk)
  match s.role == .head && isRunning s && s.course.enum == .booting && due, s.course.bootItems with
  | true, (kind, sub, b) :: _ =>
    let count := blockCount b
    let keeper (n : Node) : Bool := bootable n && keepsItem s n kind sub
    let lacking (n : Node) : Bool := keeper n && !(stillMissing count n).isEmpty
    let need := (List.range count).filter fun i => s.course.nodes.any fun n => keeper n && (stillMissing count n).contains i
    if need.isEmpty then .next (nextItem s)
    else if 3 ≤ s.course.bootRound then
      .next (nextItem { s with course := { s.course with nodes := s.course.nodes.map fun n =>
        if (lacking n) then { n with state := .bootFailed } else n } })
    else
      let round := s.course.bootRound + 1
      let s := { s with course := { s.course with nodes := s.course.nodes.map fun n =>
        if (lacking n) then { n with bootRound := BitVec.ofNat 8 round, missing := none } else n } }
      .next (sendBootEnd (sendBlocks s b need) round)
  | _, _ => .next s

end Sys2Proof.Machine
end

