-- ==== Sys2Proof/Machine/CoursePod.lean ====
section
/-! DEFINITION. The pod's side of the chain (15, 16): the meanings of its commands. -/

namespace Sys2Proof.Machine

/-- Change the pod's record. -/
def modPod (s : State) (f : Pod → Pod) : State := { s with course := { s.course with pod := f s.course.pod } }

/-- The port that faces a side of the head. -/
def facing (p : Pod) (side : Fin 2) : Option (Fin 2) := if side = 0 then p.faces0 else p.faces1

/-- The port of the assigned side (R620); before a side is assigned, the one a frame came in on. -/
def sidePort (p : Pod) (arrival : Fin 2) : Fin 2 := (p.side.bind (facing p)).getD arrival

/-- The Mere copy a pod holds. -/
def podMereCrc (s : State) : BitVec 32 := s.course.pod.mereCrc

/-- IDENTITY payload. -/
def identityPayload (s : State) : List Byte :=
  let p := s.course.pod
  toLE 8 s.cornerstone.uniqueId.toNat ++ [p.addr, p.phase, s.cornerstone.stepping, s.cornerstone.linkVersion] ++ toLE 2 s.cornerstone.rom.toNat ++
    [p.link0, p.link1, if p.subCrc = 0 then 0 else p.sub, if isRunning s then modeCode s.modes.mode else 0xFF, 0, 0] ++ toLE 4 p.subCrc.toNat ++
    toLE 4 p.mereCrc.toNat ++ toLE 4 s.boot.patchSeq.toNat

/-- An IDENTITY is queued on one port (R587). -/
def sendIdentity (s : State) (port : Fin 2) : State := originate s [port] 0x02 0 2 0 (identityPayload s)

/-- The transmitter that would repeat a frame is sending another one (R582). -/
def sendingOn (s : State) (p : Fin 2) : Bool := decide (s.clk < s.course.ports[p].busyUntil)

/-- DISCOVER (R577 - R579, R582, R585, R587, R598): repeated; an accepted one gives the link count and is answered on its port. -/
def execDiscover (r : CourseRx) (s : State) : Host.Outcome State Fault Refusal :=
  let s := repeatFrame s 0x01 (sendingOn s (otherPort r.port)) r
  .next (podRx s 0x01 r fun s =>
    let full := bit (u8 r.payload 0) 0
    let h := sat8 r.hop
    let s := modPod s fun p =>
      if bit (u8 r.payload 0) 1 then { p with link1 := h, faces1 := some r.port } else { p with link0 := h, faces0 := some r.port }
    let s := { s with course := { s.course with version := b8 r.payload 2 } }
    if full || s.course.pod.addr = 0 then sendIdentity s r.port else s)

/-! ASSIGN. -/

/-- VCNs of this node move to a new address: in the result store, in the records that wait, and in the Render entries it holds, also those that
the frames under way keep (R17, R364). -/
def renameVcns (s : State) (a : Byte) : State :=
  let old := (ownNode s).toNat
  let f (v : Vcn) : Vcn := if vcnNode v = old then BitVec.ofNat 16 (256 * a.toNat + vcnIndex v) else v
  let rec1 (r : Record) : Record := { r with vcn := f r.vcn }
  let entry (e : RenderEntry) : RenderEntry := { e with vcn := f e.vcn }
  let waits (x : PodRecord) : PodRecord := { x with record := rec1 x.record }
  let s := { s with results := s.results.map fun p => (f p.1, { p.2 with record := p.2.record.map rec1 })
                    cal := { s.cal with old := s.cal.old.map fun p => (f p.1, p.2.map entry) } }
  modPod s fun p => { p with addr := a, render := p.render.map entry, pending := p.pending.map waits, sentRecs := p.sentRecs.map waits
                             backlog := p.backlog.map rec1 }

/-- ASSIGN (R593, R606): address and sub-image, or parked, or a command reset. -/
def execAssign (r : CourseRx) (s : State) : Host.Outcome State Fault Refusal :=
  .next (podRx s 0x03 r fun s =>
    let p := r.payload
    let a := b8 p 8
    if le p 0 8 ≠ s.cornerstone.uniqueId.toNat then s
    else
      let s := { s with course := { s.course with version := b8 p 11 } }
      match u8 p 9 with
      | 0 =>
        let s := modPod (renameVcns s a) fun q => { q with phase := if q.phase = 3 then (if isRunning s then 1 else 0) else q.phase, sub := b8 p 10 }
        sendIdentity s r.port
      | 1 => sendIdentity (modPod (renameVcns s a) fun q => { q with phase := 3 }) r.port
      | 2 => modPod (renameVcns s 0) fun q => { q with phase := 3 }
      | _ => if s.phase = .porHold then s else startReset s .command)

/-! Boot transfers (R594 - R596, R600, R106). -/

/-- A pod that waits for its images and has an address. -/
def podWaits (s : State) : Bool := (s.phase == .podWait || s.phase == .loaded) && s.course.pod.addr != 0 && s.course.pod.phase == 0

/-- The sub-image received. -/
def podSub (p : Pod) : Option (List Byte) := (p.items.find? fun i => i.1 == 3).map (·.2)

/-- A pod keeps an item: every patch, its own sub-image, the Mere copy when its sub-image binds one (R595). -/
def podKeeps (p : Pod) (kind sub : Byte) : Bool :=
  match kind.toNat with
  | 1 => true
  | 3 => sub == p.sub
  | _ => (podSub p).any fun b => (imageSec (subImage b) 0x0D).isSome

/-- BOOT_START (R594). -/
def execBootStart (r : CourseRx) (s : State) : Host.Outcome State Fault Refusal :=
  .next (podRx s 0x08 r fun s =>
    let p := r.payload
    if !podWaits s then s
    else
      modPod s fun q => { q with
        item := if podKeeps q (b8 p 1) (b8 p 2) then some (b8 p 0, b8 p 1, u32 p 4, u16 p 8, f32At p 12) else none, blocks := [] })

/-- Length of block `i` of an item. -/
def blockLen (len count i : Nat) : Nat := if i + 1 = count then len - 240 * i else 240

/-- BOOT_DATA (R600): a block of the item announced; without one the frame is discarded. -/
def execBootData (r : CourseRx) (s : State) : Host.Outcome State Fault Refusal :=
  .next (podRx s 0x09 r fun s =>
    let i := r.seq.toNat + 256 * r.credit.toNat
    match podWaits s, s.course.pod.item with
    | true, some (_, _, len, count, _) =>
      if i < count && r.payload.length == blockLen len count i && s.course.pod.blocks.all (fun b => b.1 != i) then
        modPod s fun q => { q with blocks := (i, r.payload) :: q.blocks }
      else s
    | _, _ => s)

/-- The blocks an item still lacks. -/
def missingBlocks (p : Pod) (count : Nat) : List Nat := (List.range count).filter fun i => p.blocks.all fun b => b.1 != i

/-- The bytes of a complete item. -/
def itemBytes (p : Pod) (count : Nat) : List Byte := (List.range count).flatMap fun i => (p.blocks.lookup i).getD []

/-- The item's bytes carry the CRC announced, and it is theirs (R106). -/
def itemStands (b : List Byte) (crc : BitVec 32) : Bool := imageCrcOk b && hLength b == b.length && containerCrc b == crc

/-- BOOT_STATUS payload: at most 56 blocks listed. -/
def bootStatusPayload (no : Byte) (miss : List Nat) : List Byte :=
  let l := miss.take 56
  [no, BitVec.ofNat 8 ((if miss.isEmpty then 1 else 0) + if 56 < miss.length then 2 else 0), BitVec.ofNat 8 l.length, 0] ++
    l.flatMap fun i => toLE 2 i

/-- A complete item is kept; with its own sub-image the pod is ready for handover. -/
def keepItem (s : State) (kind : Byte) (b : List Byte) (crc : BitVec 32) : State :=
  let s := modPod s fun q => { q with
    items := if q.items.contains (kind, b) then q.items else q.items ++ [(kind, b)]
    subCrc := if kind = 3 then crc else q.subCrc, mereCrc := if kind = 2 then crc else q.mereCrc }
  if kind = 3 then { s with phase := .loaded, boot := { s.boot with startClk := s.clk } } else s

/-- BOOT_END (R595, R106): the item is checked and answered on the port the frame came in on; with a wrong image CRC every block of
it is missing again (DESIGN CHOICE, log 139). -/
def execBootEnd (r : CourseRx) (s : State) : Host.Outcome State Fault Refusal :=
  .next (podRx s 0x0A r fun s =>
    match podWaits s, s.course.pod.item with
    | true, some (no, kind, _, count, crc) =>
      if no != b8 r.payload 0 then s
      else
        let miss := missingBlocks s.course.pod count
        let b := itemBytes s.course.pod count
        let answer (s : State) (m : List Nat) : State := originate s [r.port] 0x0B 0 2 0 (bootStatusPayload no m)
        if !miss.isEmpty then answer s miss
        else if itemStands b crc then answer (keepItem s kind b crc) []
        else answer (modPod s fun q => { q with blocks := [] }) (List.range count)
    | _, _ => s)

/-! Sweeps. -/

/-- A pod that takes part in sweeps (R606, R644). -/
def podSweeps (s : State) : Bool := isRunning s && s.course.pod.addr != 0 && (s.course.pod.phase == 1 || s.course.pod.phase == 2)

/-- The chain-shed indication as received: background heaters shed, or restored, each with its log entry (R262, R295, R298). -/
def setChainShed (s : State) (b : Bool) : State :=
  if s.course.pod.chainShed = b then s
  else
    let hs := (List.finRange 6).filter fun n => moxPresent s n && !moxCrit s n && !s.rail.shed.contains (.heater n)
    let s := modPod s fun p => { p with chainShed := b }
    hs.foldl (fun s n => logShed (if b then spoilFilm s n else s) (.heater n) (!b) s.rail.lastShunt) s

/-- Smallest of the last four delays of a side, ns (R621). -/
def sideDelay (p : Pod) (side : Fin 2) : Option Int :=
  match if side = 0 then p.delays0 else p.delays1 with
  | [] => none
  | a :: l => some (l.foldl min a)

/-- The time mark of the assigned side's copy (R532, R620, R623), once in a sweep. -/
def takeMark (s : State) (r : CourseRx) : State :=
  let p := s.course.pod
  match p.side with
  | none => s
  | some d =>
    if p.marked || facing p d != some r.port || !cfgChainTime s then s
    else
      match sideDelay p d with
      | none => s
      | some delay =>
        chainMark (modPod s fun p => { p with marked := true }) ((time56 (plumbAt r.payload 4) : Int) * 1000 + delay) p.headTimeValid

/-- S of the last sweep received. -/
def podS (p : Pod) : Nat := sweepUs ((modeOf p.headMode.toNat).getD .run) p.rate.toNat

/-- The CREDIT time, on the own clock, of the sweep that is `k` after the last one received: 1 ms after its start, which the pod takes to be the
arrival of SWEEP_START (R614; log 127). -/
def creditTime (p : Pod) (k : Nat) : Nat := p.sweepClk - 1 + k * podS p + 1000

/-- The due sweep of a record that has none yet: sweep `n` when it was written by that sweep's CREDIT time (R614). -/
def dueIn (n : BitVec 32) (credit : Nat) (x : PodRecord) : PodRecord :=
  if x.due.isNone && decide (x.clk ≤ credit) && (!slowIndex (vcnIndex x.record.vcn) || n.toNat % 16 = 0) then { x with due := some n } else x

/-- The records waiting become due in the sweep that is `k` after the last one received, granted or not (R614). -/
def settleDue (p : Pod) (k : Nat) : Pod :=
  if p.sweepClk = 0 then p else { p with pending := p.pending.map (dueIn (p.sweep + BitVec.ofNat 32 k) (creditTime p k)) }

/-- The first SWEEP_START copy of a sweep (R620): the sweep has arrived. -/
def newSweep (s : State) (p : List Byte) : State :=
  let q := s.course.pod
  let s := if q.sweepClk != 0 && !q.marked && cfgChainTime s then chainMiss s else s
  let fl := u8 p 12
  let s := modPod s fun q => { settleDue q q.missNo with
    sweep := f32At p 0, sweepClk := s.clk + 1, headMode := b8 p 11, rate := b8 p 13, headTimeValid := bit fl 1, ringClosed := bit fl 2
    missed := 0, missNo := 0, autonomous := false, phase := 1, marked := false, alarmSent := false, t1 := none, delayAsked := false }
  let s := setChainShed s (bit fl 0)
  if s.course.pod.alarmWanted then sendAlarm s else s

/-- A sweep number not yet received. -/
def freshSweep (s : State) (n : BitVec 32) : Bool := s.course.pod.sweepClk == 0 || s.course.pod.sweep != n

/-- A pod that does not sweep yet keeps the mode that the head announces, for its handover (R140). -/
def noteHead (s : State) (p : List Byte) : State :=
  if isRunning s then s else modPod s fun q => { q with sweep := f32At p 0, sweepClk := s.clk + 1, headMode := b8 p 11, rate := b8 p 13, missed := 0 }

/-- SWEEP_START (R295, R532, R620, R621, R623, R426): time mark, mode, chain-shed; the pod of the delay slot sends its DELAY_REQ. -/
def execSweepStart (r : CourseRx) (s : State) : Host.Outcome State Fault Refusal :=
  .next (podRx s 0x10 r fun s =>
    let p := r.payload
    if !podSweeps s then noteHead s p
    else
      let s := if freshSweep s (f32At p 0) then newSweep s p else s
      let s := takeMark s r
      let q := s.course.pod
      if b8 p 14 = q.addr && facing q (q.side.getD 0) == some r.port && !q.delayAsked then
        let s := modPod s fun q => { q with delayAsked := true }
        originate s [r.port] 0x15 0 1 0 (toLE 4 (u32 p 0))
      else s)

/-- DELAY_RESP (R621): the one-way delay of the assigned side, the last four kept. -/
def execDelayResp (r : CourseRx) (s : State) : Host.Outcome State Fault Refusal :=
  .next (podRx s 0x16 r fun s =>
    let p := r.payload
    let q := s.course.pod
    match q.t1 with
    | none => s
    | some t1 =>
      if f32At p 12 ≠ q.sweep || !podSweeps s then s
      else
        let there : Count48 := s.time.count - t1
        let away : Count48 := BitVec.ofNat 48 (le p 6 6) - BitVec.ofNat 48 (le p 0 6)
        let d : Int := (there.toInt - away.toInt) * 500
        let put (l : List Int) : List Int := (d :: l).take 4
        modPod s fun q =>
          if q.side.getD 0 = 0 then { q with t1 := none, delays0 := put q.delays0 } else { q with t1 := none, delays1 := put q.delays1 })

/-- No SWEEP_START copy came within S + 1 ms of the previous expected start (R640). -/
def sweepOverdue (s : State) : Bool :=
  let p := s.course.pod
  decide (p.sweepClk - 1 + (p.missNo + 1) * podS p + 1000 ≤ s.clk)

/-- SWEEP_MISSED (R532, R640, R641, R651): a transfer of Render entries is open no longer; the third in a row makes the pod autonomous, and its records move into the backlog. A sweep before it that has
brought no mark counts as one without a mark now. -/
def execSweepMissed (s : State) : Host.Outcome State Fault Refusal :=
  let p := s.course.pod
  if s.role ≠ .pod || !podSweeps s || p.sweepClk = 0 || !sweepOverdue s then .next s
  else
    let miss (s : State) : State := if cfgChainTime s then chainMiss s else s
    let s := miss (if p.marked then s else miss s)
    let k := min 3 (p.missed + 1)
    let s := modPod s fun q => { settleDue q q.missNo with missed := k, missNo := p.missNo + 1, alarmSent := false, marked := true, renderOpen := false }
    let s := if s.course.pod.alarmWanted then sendAlarm s else s
    if k < 3 || p.autonomous then .next s
    else
      .next (modPod s fun q =>
        let q := { q with autonomous := true, wasAuto := true, phase := 2 }
        (q.sentRecs ++ q.pending).foldl (fun q x => backlogPut q x.record) { q with pending := [], sentRecs := [] })

/-! CREDIT. -/

/-- The entry of an address in a CREDIT payload. -/
def creditOf (p : List Byte) (a : Byte) : Option Nat :=
  let first := u8 p 0
  if first ≤ a.toNat && a.toNat < first + u8 p 1 then some (u16 p (4 + 2 * (a.toNat - first))) else none

/-- Age of a due record in sweeps. -/
def sweepAge (n : BitVec 32) (x : PodRecord) : Nat :=
  match x.due with
  | none => 0
  | some d => (n - d).toNat

/-- DEC discards a record (R628). -/
def decDrops (n : BitVec 32) (x : PodRecord) : Bool :=
  !slowIndex (vcnIndex x.record.vcn) &&
    match x.due with
    | none => false
    | some d => d.toNat % Config.podDecimation != 0 || Config.podDecimation * Config.podDelayLimit < (n - d).toNat

/-- DECIMATED under DEC, but for the exempt indices (R628). -/
def decimatedForm (dec : Bool) (r : Record) : Record :=
  if dec && !slowIndex (vcnIndex r.vcn) then { r with status := setFlag r.status 6 } else r

/-- A record to send, and whether it was sent before and not acknowledged. -/
abbrev Outgoing := PodRecord × Bool

/-- A record as sent: DELAYED after its due sweep and on a resend, DECIMATED under DEC (R615, R616, R628). -/
def sentForm (n : BitVec 32) (dec : Bool) (x : Outgoing) : Record :=
  let r := x.1.record
  decimatedForm dec (if x.2 || x.1.due != some n then { r with status := setFlag r.status 5 } else r)

/-- SWEEP_DATA frames of chunks, `after` frames following the last; RESEND on one that holds a record sent before. -/
def sendData (s : State) (port : Fin 2) (n : BitVec 32) (dec : Bool) (after : Nat) : List (List Outgoing) → State
  | [] => s
  | c :: r =>
    let p := toLE 4 n.toNat ++ [BitVec.ofNat 8 c.length, if c.any (·.2) then 1 else 0, 0, 0] ++ c.flatMap fun x => recordBytes (sentForm n dec x)
    sendData (originate s [port] 0x13 0 1 (BitVec.ofNat 8 (r.length + after)) p) port n dec after r

/-- Frames of nine that a number of records needs, saturating at 255. -/
def framesFor (k : Nat) : Byte := BitVec.ofNat 8 (min 255 ((k + 8) / 9))

/-- SWEEP_REPORT payload. -/
def reportPayload (s : State) (n : BitVec 32) (following left dropped oldest : Nat) : List Byte :=
  let p := s.course.pod
  let fl : Nat := (if s.course.ports[0].los then 1 else 0) + (if s.course.ports[1].los then 2 else 0) + (if p.dec then 4 else 0) +
    (if p.chainShed then 8 else 0) + if p.wasAuto then 16 else 0
  toLE 4 n.toNat ++ [modeCode s.modes.mode, BitVec.ofNat 8 fl] ++ toLE 2 s.modes.causes.toNat ++
    [BitVec.ofNat 8 following, framesFor left, framesFor (left + dropped), BitVec.ofNat 8 (min 255 oldest)] ++ toLE 2 p.backlog.length ++
    [BitVec.ofNat 8 s.thermal.s.val, 0] ++ chainBitmap s

/-- A stable insertion by due sweep, the oldest first (R615). -/
def insertDue (n : BitVec 32) (x : PodRecord) : List PodRecord → List PodRecord
  | [] => [x]
  | y :: r => if sweepAge n y ≤ sweepAge n x then x :: y :: r else y :: insertDue n x r

def dueOrder (n : BitVec 32) (l : List PodRecord) : List PodRecord := l.foldr (insertDue n) []

/-- What a granted pod sends (R614 - R616, R626, R628): the records to resend, then those due, in frames of nine up to the grant. Frames of nothing
but resends go before the report; one that new records fill up goes after it, announced with the rest (log 146). -/
def sendGranted (s : State) (arrival : Fin 2) (grant : Nat) (dec : Bool) : State :=
  let p := s.course.pod
  let n := p.sweep
  let port := sidePort p arrival
  let drops (x : PodRecord) : Bool := dec && decDrops n x
  let all := (settleDue p 0).pending
  let gone := (p.sentRecs ++ all).filter drops
  let due := all.filter fun x => !drops x
  let again := p.sentRecs.filter fun x => !drops x
  let ready := dueOrder n (due.filter fun x => x.due.isSome)
  let chunks := chunks9 grant (again.map (·, true) ++ ready.map (·, false))
  let before := chunks.takeWhile fun c => c.all (·.2)
  let data := chunks.drop before.length
  let waits := (again ++ ready).drop (9 * chunks.length)
  let left := waits ++ due.filter fun x => x.due.isNone
  let oldest := (waits.map (sweepAge n)).foldl max 0
  let s := modPod s fun q => { q with dec := dec, pending := left, decimated := sat16Add q.decimated gone.length }
  let s := sendData s port n dec (1 + data.length) before
  let s := originate s [port] 0x12 0 1 0 (reportPayload s n data.length left.length gone.length oldest)
  let s := sendData s port n dec 0 data
  modPod s fun q => { q with sentRecs := chunks.flatten.map (·.1), wasAuto := false }

/-- CREDIT (R614 - R618, R626, R628): the pod's entry acknowledges the last sweep on either side; on its own side it grants. -/
def execCredit (r : CourseRx) (s : State) : Host.Outcome State Fault Refusal :=
  .next (podRx s 0x11 r fun s =>
    let q := s.course.pod
    match podSweeps s && q.sweepClk != 0, creditOf r.payload q.addr with
    | true, some e =>
      let first := q.ackSweep != some q.sweep
      let s := if first then modPod s fun q => { q with ackSweep := some q.sweep, sentRecs := if bit e 8 then [] else q.sentRecs } else s
      if !bit e 9 then s
      else
        let side : Fin 2 := if u8 r.payload 2 = 0 then 0 else 1
        sendGranted (modPod s fun q => { q with side := some side }) r.port (e % 128) (bit e 7)
    | _, _ => s)

/-! Backlog and Render entries. -/

/-- BACKLOG_DATA frames of chunks: DELAYED, and DECIMATED under DEC (R628, R643). -/
def sendBacklogData (s : State) (port : Fin 2) : List (List Record) → State
  | [] => s
  | c :: r =>
    let rec5 (x : Record) : Record := decimatedForm s.course.pod.dec { x with status := setFlag x.status 5 }
    let p := toLE 4 s.course.pod.sweep.toNat ++ [BitVec.ofNat 8 c.length, 0, 0, 0] ++ c.flatMap fun x => recordBytes (rec5 x)
    sendBacklogData (originate s [port] 0x21 0 2 (BitVec.ofNat 8 r.length) p) port r

/-- BACKLOG_REQ (R643): the acknowledged records go, the next ones are sent. -/
def execBacklogReq (r : CourseRx) (s : State) : Host.Outcome State Fault Refusal :=
  .next (podRx s 0x20 r fun s =>
    if !podSweeps s then s
    else
      let s := modPod s fun q => { q with backlog := q.backlog.drop (u16 r.payload 0) }
      sendBacklogData s (sidePort s.course.pod r.port) ((chunks9 456 s.course.pod.backlog).take r.credit.toNat))

/-- The entries of a RENDER_ENTRIES payload. -/
def entriesOf (p : List Byte) : List RenderEntry := (List.range (u8 p 4)).map fun k => renderEntryOf ((p.drop (8 + 24 * k)).take 24)

/-- New entries of this node come into force: a VCN whose frame runs keeps its old one to the end of it (R364). -/
def installRender (s : State) (l : List RenderEntry) : State :=
  let old := s.course.pod.render
  let vs := ((old ++ l).map (·.vcn)).filter fun v =>
    channelOn s (vcnIndex v) && (old.find? fun e => e.vcn == v) != (l.find? fun e => e.vcn == v)
  let s := { s with cal := { s.cal with old := vs.foldl (fun l v => keepOld l v (old.find? fun e => e.vcn == v)) s.cal.old } }
  modPod s fun q => { q with render := l }

/-- What a pod answers to RENDER_ENTRIES in place of taking them (R632): BAD_ARG to a part of a transfer that is not open, UNKNOWN_VCN to entries of
another node or of an unassigned local index. -/
def renderRefusal (s : State) (p : List Byte) : Option Byte :=
  let q := s.course.pod
  if !bit (u8 p 5) 0 && (!q.renderOpen || q.renderSeq != f32At p 0) then some stBadArg
  else if (entriesOf p).any fun e => vcnNode e.vcn != q.addr.toNat || !assignedIndex (vcnIndex e.vcn) then some stUnknownVcn
  else none

/-- RENDER_ENTRIES (R364, R365, R632, R651): built from FIRST to LAST, then confirmed and in force; else NAK. -/
def execRenderEntries (r : CourseRx) (s : State) : Host.Outcome State Fault Refusal :=
  .next (podRx s 0x22 r fun s =>
    let p := r.payload
    let seq := f32At p 0
    let port := sidePort s.course.pod r.port
    if !podSweeps s then s
    else
      match renderRefusal s p with
      | some c => originate (modPod s fun q => { q with renderOpen := false }) [port] 0x26 0 2 0 [0x22, c, 0, 0]
      | none =>
        let build := (if bit (u8 p 5) 0 then [] else s.course.pod.renderBuild) ++ entriesOf p
        let last := bit (u8 p 5) 1
        let s := modPod s fun q => { q with renderSeq := seq, renderBuild := build, renderOpen := !last }
        if last then originate (installRender s build) [port] 0x23 0 2 0 (toLE 4 seq.toNat) else s)

end Sys2Proof.Machine
end

