-- ==== Sys2Proof/Machine/Power.lean ====
section
/-! DEFINITION. The meanings of the supply and reset commands (02, 04, 20 watchdog). -/

namespace Sys2Proof.Machine

/-- The power-on reset is asserted and VDD, VDDA and VDDIO are all up: the release timer starts (R43). -/
def startRelease (s : State) : State :=
  let p := s.supply
  if s.phase = .porHold ∧ p.vdd ∧ p.vdda ∧ p.vddio then
    { s with supply := { p with coreRunning := true, releaseTimer := true, releaseFrom := s.clk } }
  else s

/-- A warm reset is in force. -/
def inReset : Phase → Bool
  | .reset _ => true
  | _ => false

/-- SUPPLY_RISE (R43, R44): the last of the three starts the release timer; VDDIO in an IO-supply reset starts that one's. -/
def execSupplyRise (rail : MainSupply) (s : State) : Host.Outcome State Fault Refusal :=
  let p := s.supply
  let p := match rail with
    | .vdd => { p with vdd := true, aoFromVin := false }
    | .vdda => { p with vdda := true }
    | .vddio => { p with vddio := true, ioTimer := p.ioTimer || inReset s.phase, ioFrom := s.clk }
  .next (startRelease { s with supply := p })

/-- AO_POWER_ON (R36): the AO domain is fed; Plumb counts where a crystal is declared, and otherwise from handover on (R60, R561).
FAULTn is low and the alarm latches are released, as an AO reset leaves them. -/
def execAoPowerOn (fromVin : Bool) (s : State) : Host.Outcome State Fault Refusal :=
  if s.supply.ao then .next s
  else
    let p := s.supply
    .next { s with
      supply := { p with ao := true, aoFromVin := fromVin, vin := p.vin || fromVin }
      time := { s.time with counting := s.time.xtal } }

/-- AO_RESET (R45, table Retention): everything the AO domain holds is reset; factory store, one-time-programmable memory
and the attached flash stay. -/
def execAoReset (s : State) : Host.Outcome State Fault Refusal :=
  .next { State.reset with
    pending := s.pending, clk := s.clk, freeCount := s.freeCount, resetnLow := s.resetnLow, role := s.role
    cornerstone := s.cornerstone, otp := s.otp, flash := s.flash
    supply := { vddio := s.supply.vddio, vratio := s.supply.vratio } }

/-- VDD has fallen below its threshold: with a crystal Plumb counts on in AO, and a state of PPS or CHAIN becomes HOLDOVER at handover
(R560); without one, or with one that has stopped, Plumb stops (R60, R561). SYSCLK runs no more. -/
def vddFalls (s : State) : State :=
  let s := { s with time := { s.time with sysclk := false } }
  if s.time.xtal && !s.time.xtalStopped then { s with time := { s.time with fell := s.time.fell || s.time.state == .pps || s.time.state == .chain } }
  else plumbStop s

/-- VDD_POR_ASSERT (R42, R64, R156): the power-on reset asserts; bias, heaters, rail and chain power end, the ratio outputs
are unpowered (R52). -/
def execVddPorAssert (rail : VddRail) (s : State) : Host.Outcome State Fault Refusal :=
  let p := s.supply
  let p := match rail with
    | .vdd => { p with vdd := false }
    | .vdda => { p with vdda := false }
  let p := { p with releaseTimer := false, ioTimer := false, coreRunning := false, above36 := false }
  let s := if rail = .vdd then vddFalls s else s
  if s.phase = .porHold then .next { s with supply := p }
  else
    let s := powerReset { s with supply := p }
    .next { s with spill := { s.spill with aout := s.spill.aout.map fun o => { o with driven := false } } }

/-- What follows the end of a reset: Footing with RESETn high (R70), the wait for it while low (R68), or production test
again (R819). -/
def afterReset (s : State) : Phase :=
  if s.resetnLow then .waitResetn else if s.testMode then .production else .footing

/-- The shortest release time after the last supply has risen, in microseconds (R43, R44; DESIGN CHOICE, log 123). -/
def releaseUs : Nat := 1600

/-- A phase begins that follows a reset; Footing's own time, where it starts, counts from here (R758). Production test runs the Cornerstone check
(R819), and the identity page follows from it. -/
def leaveReset (s : State) (p : Phase) : State :=
  let valid := if p = .production then s.cornerstone.ok else s.boot.idValid
  { s with phase := p, boot := { s.boot with startClk := s.clk, idValid := valid } }

/-- A ratio output powered, at 3.0 % (table Outputs during a reset). -/
def driveLow (o : Aout) : Aout := { o with driven := true, code := lowBand, goal := lowBand, holdLow := true }

/-- A heater driver at duty 0. -/
def dutyOff (m : Mox) : Mox := { m with duty := 0, pulseAcc := 0, period := 0 }

/-- VDD_POR_RELEASE (R43, R1, R67, R818): role and TESTEN are sampled, BIAS initialises, the ratio outputs are powered at
3.0 %; production test on an OPEN device with TESTEN high, else Footing follows. -/
def execVddPorRelease (rolesel testen : Bool) (s : State) : Host.Outcome State Fault Refusal :=
  if s.phase = .porHold ∧ s.supply.releaseTimer ∧ s.supply.releaseFrom + releaseUs ≤ s.clk then
    let test := testen && !s.otp.sealBit
    let s := { s with
      role := if rolesel then .head else .pod
      testMode := test
      supply := { s.supply with releaseTimer := false, ao := true, aoFromVin := false }
      ec := Vector.replicate 8 {}
      thermal := { s.thermal with releaseClk := s.clk }
      time := { s.time with sysclk := true }
      boot := {}
      spill := { s.spill with aout := s.spill.aout.map driveLow } }
    .next (leaveReset s (afterReset s))
  else .next s

/-- VDDIO_FALL (R44): an IO-supply warm reset, or with the power-on reset asserted only the end of its release timer. -/
def execVddioFall (s : State) : Host.Outcome State Fault Refusal :=
  let s := { s with supply := { s.supply with vddio := false, releaseTimer := false, ioTimer := false } }
  if s.phase = .porHold then .next s else .next (startReset s .ioSupply)

/-- VDDIO holds the device in reset: low, or its release time not over (R44). -/
def ioHolds (s : State) : Bool := !s.supply.vddio || s.supply.ioTimer

/-- A warm reset whose own condition is over: while VDDIO holds the device, only that is left of it (R44, R146). -/
def resetOver (s : State) : Phase := if ioHolds s then .reset .ioSupply else afterReset s

/-- IO_RESET_RELEASE (R44): VDDIO no longer holds the device; a later reset that came meanwhile goes on until its own end (R146). -/
def execIoResetRelease (s : State) : Host.Outcome State Fault Refusal :=
  if inReset s.phase && s.supply.vddio && s.supply.ioTimer && decide (s.supply.ioFrom + releaseUs ≤ s.clk) then
    let s := { s with supply := { s.supply with ioTimer := false } }
    .next (if s.phase = .reset .ioSupply then leaveReset s (afterReset s) else s)
  else .next s

/-- VIN_UVLO (R62): rail, heaters and chain power off, EV10 once per episode; outside a mode the event waits for handover. -/
def execVinUvlo (s : State) : Host.Outcome State Fault Refusal :=
  if !s.supply.vin && s.rail.lockout then .next s
  else
    let s := { s with supply := { s.supply with vin := false } }
    if !s.supply.vdd then .next s
    else
      let kept := s.rail.kept
      let s := { (railOff s) with mox := s.mox.map dutyOff }
      let s := { s with rail := { s.rail with kept := kept, lockout := true, uvloDue := s.rail.uvloDue + if isRunning s then 0 else 1 } }
      .next (if isRunning s then raise s 10 (0xFF + 256 * 4) else s)

/-- VIN_UVLO_END (R62, R318): the lockout ends and a wanted rail starts. -/
def execVinUvloEnd (s : State) : Host.Outcome State Fault Refusal :=
  .next (railBegin { s with supply := { s.supply with vin := true }, rail := { s.rail with lockout := false } })

/-- VDD_FALL_AO_SWITCH (R63, R60): the AO regulator moves to VIN; AO content stays; without a declared crystal Plumb stops. -/
def execVddFallAoSwitch (s : State) : Host.Outcome State Fault Refusal :=
  if !s.supply.vin then .next s
  else
    .next (vddFalls { s with supply := { s.supply with aoFromVin := true } })

/-- Put the fault state of the enabled ratio outputs (R65). -/
def setRatioFaults (s : State) (b : Bool) : State :=
  let f (n : Fin 2) (o : Aout) : Aout := if aoutPresent s n then { o with fault := b, differs := b } else o
  let a := s.spill.aout
  { s with spill := { s.spill with aout := #v[f 0 a[0], f 1 a[1]] } }

/-- VRATIO_FALL (R65): enabled outputs go to the low fault band and are reported as faulted (code 0x10). -/
def execVratioFall (s : State) : Host.Outcome State Fault Refusal :=
  let s := { s with supply := { s.supply with vratio := false } }
  if !isRunning s || !(aoutPresent s 0 || aoutPresent s 1) then .next (refreshOutputs s)
  else
    let s := aoutsChanged (refreshOutputs (setRatioFaults s true))
    .next (declareOpen s 0x10 false)

/-- VRATIO_RISE (R65): the outputs leave the fault state; code 0x10 clears under its Clears column. -/
def execVratioRise (s : State) : Host.Outcome State Fault Refusal :=
  let s := { s with supply := { s.supply with vratio := true } }
  .next (if isRunning s then noteSeen (aoutsChanged (refreshOutputs (setRatioFaults s false))) 0x10 else refreshOutputs s)

/-- A supply, in the order of VCN 0x80 - 0x84, stands outside the limits of R756 at a voltage. -/
def beyondLimits (supply : Fin 5) (v : Rat) : Bool :=
  match supply.val with
  | 0 => decide (36 < v)
  | 1 | 2 => decide (36 / 10 < v) || decide (v < 295 / 100)
  | 3 => decide (36 / 10 < v) || decide (v < 162 / 100)
  | _ => decide (55 / 10 < v)

/-- SUPPLY_EXCURSION (R756, R66, R767): the supply has stood at the voltage for `us` microseconds; beyond its limits for 50 us it is code 0x16
with the supply as argument. VRATIO counts only with a ratio output present. -/
def execSupplyExcursion (supply : Fin 5) (volts : Rat) (us : Nat) (s : State) : Host.Outcome State Fault Refusal :=
  if !isRunning s || us < 50 || !beyondLimits supply volts || (supply == 4 && !(aoutPresent s 0 || aoutPresent s 1)) then .next s
  else
    let hi := decide (36 / 10 < volts) && (supply == 1 || supply == 2 || supply == 3)
    .next (declare { s with supply := { s.supply with above36 := s.supply.above36 || hi } } 0x16 supply.val false)

/-- PIN_RESET (R143): RESETn low; with the power-on reset asserted nothing else follows (R68). -/
def execPinReset (s : State) : Host.Outcome State Fault Refusal :=
  let s := { s with resetnLow := true }
  if s.phase = .porHold then .next s else .next (startReset s .pin)

/-- RESETN_RELEASE (R70): after a pin reset, or when Footing waited for it, Footing starts, unless VDDIO holds the device (R44). -/
def execResetnRelease (s : State) : Host.Outcome State Fault Refusal :=
  let s := { s with resetnLow := false }
  if s.phase = .reset .pin ∨ s.phase = .waitResetn then .next (leaveReset s (resetOver s)) else .next s

/-- RESET_HOLD_END (R144): a watchdog, command or thermal reset ends after 100 us, unless VDDIO holds the device (R44). -/
def execResetHoldEnd (s : State) : Host.Outcome State Fault Refusal :=
  match s.phase with
  | .reset .watchdog | .reset .command | .reset .thermal =>
    .next (if s.modes.resetClk + 100 ≤ s.clk then leaveReset s (resetOver s) else s)
  | _ => .next s

/-- A watchdog reset (R757, R758): the resets of the last 10 min are kept for Footing's limit. -/
def watchdogReset (s : State) : State :=
  let times := s.clk :: s.modes.watchdogTimes.filter fun t => s.clk < t + 600000000
  startReset { s with modes := { s.modes with watchdogTimes := times, watchdogThird := decide (3 ≤ times.length) } } .watchdog

/-- WATCHDOG_EXPIRY (R757): no word within the timeout. -/
def execWatchdogExpiry (s : State) : Host.Outcome State Fault Refusal :=
  .next (if isRunning s && (s.ks.wdClk.any fun c => decide (c + watchdogUs s ≤ s.clk)) then watchdogReset s else s)

/-- WATCHDOG_SERVICE (R757): the expected word restarts the watchdog and the other word is expected next; a wrong word
expires it. -/
def execWatchdogService (word : Byte) (s : State) : Host.Outcome State Fault Refusal :=
  if !isRunning s || s.ks.wdClk.isNone then .next s
  else if word = s.ks.wdWord then
    .next { s with ks := { s.ks with wdWord := if word = 0x5A then 0xA5 else 0x5A, wdClk := some s.clk } }
  else .next (watchdogReset s)

/-- FOOTING_LIMIT (R758): Footing not handed over within 3 s of its start is reset. A pod's wait for the head does not count: its 3 s start once
it has its images (DESIGN CHOICE, log 121). -/
def execFootingLimit (s : State) : Host.Outcome State Fault Refusal :=
  .next (if (s.phase = .footing ∨ s.phase = .loaded) ∧ s.boot.startClk + 3000000 ≤ s.clk then watchdogReset s else s)

/-- The reset that follows the returned status (R145): the response of the frame that asked for it has been clocked out. -/
def resetAfterResponse (s : State) : State :=
  let t := startReset s .command
  { t with host := { t.host with response := s.host.response } }

/-- RESET (R145): with a CAL session open, OK is returned and the command reset starts. -/
def execReset (f : HostFrame) (s : State) : Host.Outcome State Fault Refusal :=
  let s' := commandFrame s f 0x02 [] (argCount 0) fun s _ =>
    if !hasCal s then (stLocked, s) else (stOk, s)
  let taken := hostAnswers s && frameComplete f f.payload && s'.host.response.head? == some stOk
  .next (if taken then resetAfterResponse s' else s')

end Sys2Proof.Machine
end

