-- ==== Sys2Proof/Machine/Handover.lean ====
section
/-! DEFINITION. Handover (03, 04): the images in force, the first mode, and what every block takes from its section. -/

namespace Sys2Proof.Machine

/-! What a pod has received (R106, R108). -/

/-- Put a copy into descending order of sequence; the one received first stays first among equals (R97). -/
def putCopy (c : Copy) : List Copy → List Copy
  | [] => [c]
  | d :: r => if hSeq d.img ≤ hSeq c.img then c :: d :: r else d :: putCopy c r

/-- The patch copies received, the highest sequence first. -/
def podPatches (s : State) : List Copy :=
  ((s.course.pod.items.filter fun p => p.1 == 1).map fun p => { which := 0, cap := slotMax 4, img := p.2 }).foldr putCopy []

/-- A pod's judge of a patch copy: without a tag (R103, R106). -/
def podPatchJudge (s : State) (c : Copy) : Verdict (Unit × List (BitVec 16)) :=
  andThen (checkBody s true c) fun _ => judgePatch s.cornerstone.rom c.img

/-- The patch that applies, the highest sequence among those that stand for this ROM (R106), and the warnings of the selection (R114): one for
each copy refused beside it, and its own; or the one of case 8. -/
def podPatch (s : State) : Option (BitVec 32) × List (BitVec 16) :=
  match tryCopies (podPatchJudge s) (podPatches s) with
  | (codes, some (c, _, w)) => (some (BitVec.ofNat 32 (hSeq c.img)), ((codes.filter fun k => refusedCode k.2).map fun _ => 1) ++ w)
  | (codes, none) => (none, if codes.isEmpty then [] else [8])

/-- The Mere image a pod loads, under the epoch of its section 0x0D, with its warnings (R100, R108). -/
def podMere (s : State) (c : Image) : Option (MereImage × List (BitVec 16)) :=
  match imageSec c 0x0D, s.course.pod.items.find? fun p => p.1 == 2 with
  | some d, some (_, b) =>
    let copy : Copy := { which := 0, cap := slotMax 2, img := b }
    let judge : Verdict (List (Byte × List Byte) × List (BitVec 16)) := andThen (checkBody s false copy) fun _ =>
      if hKind b ≠ u32 d 0 then .refused 0xE
      else
        match (sectionsOf b).map (parseNet (hKind b)) with
        | some (.accepted n) => .accepted (n, [])
        | _ => .refused 0xB
    match judge with
    | .accepted (n, w) => some (mereImageOf copy n, w)
    | .refused _ => none
  | _, _ => none

/-- The pod's boot report from its items: sub-image, patch, Mere, and the warnings they give (R114). -/
def podBoot (s : State) : Boot :=
  let b := s.boot
  let st := s.cornerstone.stepping.toNat
  let (patch, w) := podPatch s
  let b := addWarnings { b with patchSeq := patch.getD b.patchSeq } w
  match (podSub s.course.pod).map fun p => (p, parseSub s.cornerstone.romMinor p) with
  | some (p, some a) =>
    let c : Image := { secs := a.secs }
    let m := podMere s c
    addWarnings { b with config := some c, configSeq := BitVec.ofNat 32 (hSeq p), configLen := hLength p, mere := m.map (·.1) }
      ((if u8 p 17 < st then [3] else []) ++ a.warns ++ (m.map (·.2)).getD [])
  | _ => { b with safeCause := b.safeCause.or (some 3) }

/-- The configuration comes into force, with the event masks of its section 0x0F (R99, R115, R687). -/
def applyConfig (s : State) : State :=
  let s := if s.role = .pod && s.boot.idValid then { s with boot := podBoot s } else s
  let s := { s with config := s.boot.config }
  let p := sec s 0x0F
  { s with events := { s.events with queueMask := f32At p 4, irqMask := f32At p 8 } }

/-! The log and the backlog (R732). -/

/-- A log region without a valid descriptor. -/
def clearGeneral (l : CisternLog) : CisternLog :=
  { l with general := [], generalSeq := 0, generalLost := 0, rateLost := 0, overwrites := none, stopped := false, budget := 0 }
def clearAlarm (l : CisternLog) : CisternLog := { l with alarm := [], alarmSeq := 0, alarmLost := 0, alarmEpisode := false }

/-- The retained regions at handover after a warm reset. -/
def checkLogs (o : HandoverObs) (s : State) : State :=
  if s.modes.cold then s
  else
    let s := if o.generalOk then s else raiseLogFull { s with log := clearGeneral s.log } 0
    let s := if o.alarmOk then s else raiseLogFull { s with log := clearAlarm s.log } 1
    if o.backlogOk then s else modPod s fun q => { q with backlog := [], lostBacklog := 0 }

/-- Warnings: a log entry for each, and EV30 once (R114). -/
def bootWarnings (s : State) : State :=
  let s := s.boot.warningCases.foldl (fun s c => logGeneral s 0x06 (ownNode s) c.toNat 0 []) s
  if s.boot.warnings = 0 then s else raise s 30 0

/-! Time (R527, R560 - R562, R848). -/

/-- A held source that is lost before handover: its qualification goes with it. -/
def dropSource (s : State) : State :=
  let t := s.time
  let t := if t.state = .pps then { t with ppsQualified := false, ppsPredicted := false, ppsGood := 0, ppsMissed := 0 }
    else { t with chainQualified := false, chainGood := 0, chainMissed := 0, chainPredicted := false }
  { s with time := t }

/-- Pulses that were due during the reset are not judged (R537): the prediction lies at the first one after it. -/
def resumePps (s : State) : State :=
  let t := s.time
  let i := intervalUs t.ppsInterval
  if i = 0 || s.clk < t.ppsDue + 2 then s
  else
    let n := (s.clk - t.ppsDue - 2) / i + 1
    { s with time := { t with ppsDue := t.ppsDue + n * i, ppsAdvanced := t.ppsAdvanced + if t.ppsPredicted then n else 0 } }

/-- Sources that the configuration in force cannot use are not qualified, and a held state of one of them is lost (R848). -/
def bootSources (s : State) : State :=
  let t := s.time
  let p := cfgPps s
  let c := cfgChainTime s
  let s := { s with time := { t with
    ppsQualified := t.ppsQualified && p, ppsPredicted := t.ppsPredicted && p, ppsGood := if p then t.ppsGood else 0, ppsMissed := if p then t.ppsMissed else 0
    chainQualified := t.chainQualified && c, chainPredicted := t.chainPredicted && c, chainGood := if c then t.chainGood else 0
    chainMissed := if c then t.chainMissed else 0 } }
  if (t.state == .pps && !p) || (t.state == .chain && !c) then loseSource s else s

/-- Plumb at handover. -/
def bootTime (o : HandoverObs) (s : State) : State :=
  let x := cfgXtal s
  let s := { s with time := { s.time with xtal := x, tcxo := cfgTcxo s, xtalStopped := false, sysclk := o.sysclkRunning } }
  let s := if o.sysclkRunning || x then { s with time := { s.time with counting := true } } else plumbStop s
  let s := takeHeld s 0
  let held := s.time.state == .pps || s.time.state == .chain
  let s := if s.time.fell && held then enterHoldover (dropSource s) else s
  bootSources (resumePps { s with time := { s.time with fell := false } })

/-! The first mode (R128, R135, R758). -/

/-- Footing has been limited: the third watchdog reset within 10 min (R758). -/
def watchdogLimit (s : State) : Bool :=
  s.modes.resetCause == 4 && s.modes.watchdogThird

/-- SAFE causes present at handover. -/
def bootCauses (o : HandoverObs) (s : State) : BitVec 16 :=
  let c (b : Bool) (n : Nat) : BitVec 16 := if b then BitVec.ofNat 16 (2 ^ n) else 0
  let footing : BitVec 16 := match s.boot.safeCause with
    | none => c s.config.isNone 3
    | some n => BitVec.ofNat 16 (2 ^ n.val)
  footing ||| c (!o.sysclkRunning) 4 ||| c s.modes.thermalLatch 5 ||| c (watchdogLimit s) 7

/-- Lowest cause code of a mask, 0 for none. With several causes at handover the spec does not say which one EV04 and the mode page name: this
one (DESIGN CHOICE, log 116). -/
def lowestCause (m : BitVec 16) : Nat := ((List.range 16).find? fun n => m.getLsbD n).getD 0

/-- The mode entered (R128). A pod enters the one its head announces (R140, R158); before the first announcement the spec names none, since
RESUME and the start mode apply to an autonomous pod alone: it waits in SAFE without a cause (log 63). -/
def bootMode (s : State) (causes : BitVec 16) : Mode :=
  if causes ≠ 0 then .safe
  else if s.role = .pod then (announcedMode s).getD .safe
  else
    match cfgResume s, s.modes.record with
    | true, some .run => .run
    | true, some .watch => .watch
    | _, _ => startMode s

/-- The old mode of the transition at handover: the one the AO record holds; without a record the spec states none (free). -/
def bootOld (s : State) : Byte × State :=
  match s.modes.record with
  | some m => (modeCode m, s)
  | none => let (w, s) := drawFree s; (w.setWidth 8, s)

/-- The device is in its first mode: EV04 and its log entry (R115, R135). -/
def bootEnter (o : HandoverObs) (s : State) : State :=
  let causes := bootCauses o s
  let m := bootMode s causes
  let cause := lowestCause causes
  let (old, s) := bootOld s
  let s := { s with
    phase := .running
    log := { s.log with scrubClk := s.clk }
    modes := { s.modes with mode := m, causes := causes, oldMode := old, newMode := m, record := some m
                            lastCause := BitVec.ofNat 8 cause, lastTime := plumbNow s, railHold := false, handoverClk := s.clk } }
  let s := raise (rorEnter s m) 4 ((modeCode m).toNat + 256 * cause)
  let s := logGeneral s 0x07 (ownNode s) (modeCode m).toNat cause []
  if s.modes.thermalDue then raise { s with modes := { s.modes with thermalDue := false } } 15 0 else s

/-! The blocks. -/

/-- An electrochemical channel (R174 - R178, R850). -/
def bootEc (s : State) (n : Fin 8) : EcChan :=
  let c := s.ec[n]
  match ecPresent s n, c.shorted with
  | true, true => { c with stage := .cold, stageClk := s.clk, enabled := true, dac := 0, target := ecTarget s n, rate := ecRate s n }
  | true, false => beginWarm s (ecWarm s n)
      { c with stage := .biased, target := ecTarget s n, rate := ecRate s n, stepDue := (s.clk : Rat) + stepUs (ecRate s n) }
  | false, true => { c with stage := .off, enabled := false, dac := 0, target := 0, rate := 0 }
  | false, false => { c with stage := if c.dac = 0 then .retiredAtZero else .retiring, stageClk := s.clk, target := 0, rate := retireRate
                             stepDue := (s.clk : Rat) + stepUs retireRate }

/-- A film waits for its first boundary with the warm-up of the start (R264). -/
def bootMox (s : State) (n : Fin 6) : Mox :=
  let m := s.mox[n]
  if moxPresent s n then { m with warmPending := some (if s.modes.cold then moxCold s n else moxWarm s n) } else m

/-- Sensors: channels, films, start ranges, the reference (R204, R174 - R178, R264). -/
def bootAnalog (s : State) : State :=
  { s with
    ec := Vector.ofFn (bootEc s)
    mox := Vector.ofFn (bootMox s)
    weirs := Vector.ofFn fun w => { s.weirs[w] with range := startRange s w, lastRange := startRange s w }
    time := { s.time with refExternal := cfgRefin s, anchor := 0 } }

/-- The rail at handover: held, off, or started (R126, R283, R308, R309), with switch limits of the new configuration (R289) and shed values still to
be measured; undervoltage episodes of VIN not yet reported are (R62). A switch that the hold has left off starts here (log 66). -/
def bootRail (s : State) : State :=
  let r := s.rail
  let s : State := chainLimits { s with rail := { r with lockout := !s.supply.vin, uvloDue := 0, heldLimit := 0
                                                         heaterValue := Vector.replicate 6 0, chainValue := 0, lastShunt := 0 } }
  let n := r.uvloDue + if !s.supply.vin && !r.lockout then 1 else 0
  let s := (List.range n).foldl (fun s _ => raise s 10 (0xFF + 256 * 4)) s
  let s := if s.modes.mode = .safe then safeRail s else railFollow s
  let start (s : State) (w : Fin 2) : State := if s.rail.state == .on && chainEnabled s w && s.rail.sw[w].state == .off then switchStart s w else s
  start (start s 0) 1

/-- Rules that stand latched by their AO bits; the others in their stance (R408, R415). -/
def bootRules (s : State) : State :=
  let one (k : Fin 256) : Rule :=
    let r := s.spill.rules[k]
    if k.val < ruleCount s && ruleLatch s k.val && (r.aoLatched || r.aoAcked) then
      { r with state := .latched, first := false, aoLatched := true, aoAcked := false }
    else { r with aoLatched := false, aoAcked := false }
  { s with spill := { s.spill with rules := Vector.ofFn one } }

/-- Ratio outputs: driven where section 0x0C has them, in fault while VRATIO is low (R58, R65, R438). -/
def bootAouts (s : State) : State :=
  let one (n : Fin 2) : Aout := { s.spill.aout[n] with driven := aoutPresent s n }
  let s := { s with spill := { s.spill with aout := #v[one 0, one 1] } }
  if s.supply.vratio || !(aoutPresent s 0 || aoutPresent s 1) then s else declareOpen (setRatioFaults s true) 0x10 false

/-- Spillway takes over pins and outputs (R154, R408, R415). -/
def bootSpill (s : State) : State := startRules (bootAouts (bootRules s)) false

/-- Known VCNs of the node, then in a head those that the sub-images of the pods its map names declare present (R718, R719). -/
def bootResults (s : State) : State :=
  let s := allocate s (ownNode s).toNat (sec s)
  match s.role with
  | .pod => s
  | .head =>
    (List.range 251).foldl (fun s a =>
      match s.config, (mapEntries s).find? fun e => e.addr.toNat == a with
      | some c, some e => allocate s a (isec (subImageOf c e.sub))
      | _, _ => s) s

/-- Mere starts with its image, gated in a mode that does not power it (R459, R502, table What runs in each mode). -/
def bootMere (s : State) : State :=
  let s := { s with mere := { s.mere with image := s.boot.mere } }
  if s.boot.mere.isNone then s
  else
    let s := clearTarns { s with mere := { s.mere with power := .gated } }
    if s.modes.mode = .run || (s.modes.mode = .watch && cfgMereOn s) then ungateMere s
    else clearClasses s true

/-- The chain: a head enumerates (R588, R598, R601), a pod tells that it runs (R603). -/
def bootCourse (s : State) : State :=
  match s.role with
  | .head =>
    let port (p : Fin 2) (x : Port) : Port := { x with enabled := portUsed s p }
    let c := s.course
    discoverFull { s with course := { c with ports := #v[port 0 c.ports[0], port 1 c.ports[1]], version := s.cornerstone.linkVersion
                                             enumFirst := true } }
  | .pod =>
    if s.course.pod.addr = 0 || s.course.pod.phase = 3 then s
    else
      let s := modPod s fun q => { q with phase := 1 }
      originate s [0, 1] 0x02 0 2 0 (identityPayload s)

/-- Keystone starts, with its watchdog (R757); a SYSCLK that does not run is declared (R118). Codes of one moment come in ascending order (R765):
this one, 0x10 of the ratio outputs, 0x1A. -/
def bootKeystone (o : HandoverObs) (s : State) : State :=
  let s := { s with ks := { s.ks with started := false, wdClk := some s.clk, wdWord := 0x5A, voteClk := s.clk, patternClk := s.clk } }
  if o.sysclkRunning then s else declareOpen s (if s.time.xtal then 0x04 else 0x07) false

/-- A handover that follows a watchdog reset records it (R758). -/
def bootWatchdog (s : State) : State := if s.modes.resetCause = 4 then declareOpen s 0x1A false else s

/-- A seal that a reset cut short with its key written and its bit not: EV28 tells it as failed (R776, R795). -/
def bootSeal (s : State) : State :=
  if s.gate.sealCut then raiseGate { s with gate := { s.gate with sealCut := false } } 7 0 else s

/-- HANDOVER (R72, R99, R115, R128, R146, R309, R690): the images take force, the first mode is entered. -/
def execHandover (o : HandoverObs) (s : State) : Host.Outcome State Fault Refusal :=
  if s.phase ≠ .loaded then .next s
  else
    let s := applyConfig { s with boot := { s.boot with reported := true } }
    let s := bootEnter o (bootTime o (bootWarnings (checkLogs o s)))
    let s := bootResults (bootAnalog s)
    let s := bootRail (bootMere s)
    let s := bootSpill (bootKeystone o s)
    let s := bootCourse (loadSluice leaveSafe s)
    .next (markBoot (bootSeal (bootWatchdog s)))

end Sys2Proof.Machine
end

