-- ==== Sys2Proof/Machine/Cistern.lean ====
section
/-! DEFINITION. Cistern's scrubber, summaries and samples (19). -/

namespace Sys2Proof.Machine

/-- Words of 64 bits that the scrubber visits (R716). -/
def cisternWords : Nat := 196608

/-- A log entry that is lost: kind 0x00, its body 0; its sequence and acknowledgement follow from its position and the descriptor, its era and
node are open (R717; log 8). -/
def loseEntry (w : BitVec 32) (e : LogEntry) : LogEntry :=
  { e with kind := 0, era := BitVec.ofNat 8 w.toNat, node := BitVec.ofNat 8 (w.toNat / 256), body := List.replicate 24 0 }

/-- The entry of a sequence is lost. -/
def loseSeq (w seq : BitVec 32) (l : List LogEntry) : List LogEntry := l.map fun e => if e.seq = seq then loseEntry w e else e

/-- The first repeated frame that waits on a port is gone. -/
def dropRepeated : List CourseFrame → List CourseFrame
  | [] => []
  | f :: l => if f.repeated then l else f :: dropRepeated l

/-- What becomes of the word a double-bit error lies in (table Double-bit errors by region, R486). A template is rewritten as the image has it and a
decay table as its template gives it, so that nothing is lost (log 151). -/
def handleDouble (s : State) : CisternPlace → State
  | .neuron t n => loseNeuron s t n.val
  | .destEntry t n e => loseDest s t n.val e.val
  | .synapse t w => loseSynapse s t w.val
  | .template _ _ | .decayTable _ _ _ => s
  | .logEntry alarm seq =>
    let (w, s) := drawFree s
    if alarm then { s with log := { s.log with alarm := loseSeq w seq s.log.alarm } }
    else { s with log := { s.log with general := loseSeq w seq s.log.general } }
  | .logDescriptor alarm =>
    if alarm then raiseLogFull { s with log := clearAlarm s.log } 1 else raiseLogFull { s with log := clearGeneral s.log } 0
  | .result v => modEntry s v fun e => { e with record := none, delivered := none }
  | .backlog i =>
    if i.val < s.course.pod.backlog.length then
      modPod s fun p => { p with backlog := p.backlog.eraseIdx i.val, lostBacklog := sat16 p.lostBacklog }
    else s
  | .frameBuffer p =>
    let q := otherPort p
    countPort { s with course := { s.course with ports := vmod s.course.ports q fun x => { x with txq := dropRepeated x.txq } } } p 1

/-- A word is due: the scrubber reads one every 1000 SYSCLK cycles of 24.576 MHz, 125 000/3072 us, a pass in 8.0 s (R716). -/
def scrubDue (s : State) : Bool := s.log.scrubClk + (s.log.scrub + 1) * 125000 / 3072 ≤ s.clk

/-- The scrubber goes on to the next word; a full pass without a double-bit error clears code 0x08 (R716, R744). -/
def scrubNext (s : State) : State :=
  let a := s.log.scrub + 1
  if a < cisternWords then { s with log := { s.log with scrub := a } }
  else
    let clean := !s.log.scrubBad && faultActive s 0x08 && !(s.ks.injected.contains 0x08)
    let s := { s with log := { s.log with scrub := 0, scrubBad := false, scrubClk := s.log.scrubClk + 8000000 } }
    if clean then clearFault s 0x08 else s

/-- A read has found an error: counted, and a double one handled (R715, R717). -/
def handleEcc (s : State) (err : EccObs) : State :=
  match err with
  | .clean | .single => noteEcc s err
  | .double p => handleDouble (noteEcc s err) p

/-- SCRUB_TICK (R715 - R717): the scrubber's word, when one is due. At any other moment it tells what the read of the log, the result store, the
backlog or a frame buffer by the command behind it has found (log 152). -/
def execScrubTick (err : EccObs) (s : State) : Host.Outcome State Fault Refusal :=
  if !isRunning s then .next s
  else
    let t := handleEcc s err
    .next (settle s (if scrubDue s then scrubNext t else t))

/-- LOG_SUMMARY (R729): at a whole hour of Plumb. -/
def execLogSummary (s : State) : Host.Outcome State Fault Refusal :=
  .next (if isRunning s && onCount s 3600000000 then logSummary 2 s else s)

/-- VCN and interval of sample entry `i` of section 0x12. -/
def sampleVcn (s : State) (i : Fin 8) : Vcn := localVcn s (u16 (sec s 0x12) (8 + 4 * i.val))
def sampleEvery (s : State) (i : Fin 8) : Nat := u16 (sec s 0x12) (10 + 4 * i.val)

/-- LOG_SAMPLE (R731): at a whole multiple of the interval, the latest record of a known VCN, when its frame is new since the VCN's last sample. -/
def execLogSample (entry : Fin 8) (s : State) : Host.Outcome State Fault Refusal :=
  let v := sampleVcn s entry
  if !isRunning s || sampleEvery s entry = 0 || !onCount s (1000000 * sampleEvery s entry) then .next s
  else
    match entryOf s v with
    | none => .next s
    | some e =>
      match e.record with
      | none => .next s
      | some r =>
        if e.sampled = some r.seq then .next s
        else .next (logRecord (modEntry s v fun e => { e with sampled := some r.seq }) 0x03 r)

end Sys2Proof.Machine
end

