-- ==== Sys2Proof/Machine/CourseSweep.lean ====
section
/-! DEFINITION. Sweeps at the head (16): credits, records, missed reports, breaks, service traffic, and the meanings of its commands. -/

namespace Sys2Proof.Machine

/-! Credits (R624, R625). -/

/-- A pod that the present sweep includes: joined before it started (table Enumeration, step 5). -/
def swept (n : Node) : Bool := n.state == .joined && !n.joining

/-- Joined pods of a side, in ascending address. -/
def sideNodes (s : State) (side : Fin 2) : List Node := s.course.nodes.filter fun n => swept n && n.side == side

/-- Link count of a pod through a head port. -/
def linkOf (n : Node) (side : Fin 2) : Byte := if side = 0 then n.link0 else n.link1

/-- F of a side with that many pods: whole frames of 160.33 microseconds (R624). -/
def sideFrames (s : State) (n : Nat) : Nat := (850 * headS s - 1500000 - 43000 * n) / 160330

/-- Frames a pod must resend when no ACK follows: those it resent and those it announced, or what it was granted when no report came (R616, R625). -/
def resendFrames (n : Node) : Nat := if n.ack then 0 else if n.reported then min n.grant (n.resent + n.expected) else n.grant

/-- need[p] (R625). -/
def needOf (n : Node) : Nat := if !n.everReported then 1 else min 127 (resendFrames n + n.demand)

/-- One more frame in turn: the pods after the one served last, wrapping, that still need one. `l` holds (address, need, grant). -/
def serveNext (last : Byte) (l : List (Byte × Nat × Nat)) : Option Byte :=
  let wants (e : Byte × Nat × Nat) : Bool := e.2.2 < e.2.1
  match l.find? fun e => last < e.1 && wants e with
  | some e => some e.1
  | none => (l.find? wants).map (·.1)

/-- The loop of R625 over a class that does not fit: `free` frames in turn. -/
def serveClass : Nat → Byte → List (Byte × Nat × Nat) → List (Byte × Nat × Nat) × Byte
  | 0, last, l => (l, last)
  | free + 1, last, l =>
    match serveNext last l with
    | none => (l, last)
    | some a => serveClass free a (l.map fun e => if e.1 == a then (e.1, e.2.1, e.2.2 + 1) else e)

/-- Place of last_served[side, class]. -/
def servedIdx (side : Fin 2) (cls : Fin 3) : Fin 6 := ⟨3 * side.val + cls.val, by omega⟩

/-- Grants of one class out of `free`: (address, grant), what is left, and the pod served last. -/
def classGrants (s : State) (side : Fin 2) (cls : Fin 3) (free : Nat) : List (Byte × Nat) × Nat × Byte :=
  let l := ((sideNodes s side).filter fun n => nodePrio s n == cls.val).map fun n => (n.addr, needOf n, 0)
  let sum := (l.map (·.2.1)).sum
  let last := s.course.lastServed[servedIdx side cls]
  if sum ≤ free then (l.map fun e => (e.1, e.2.1), free - sum, last)
  else
    let (g, last) := serveClass free last l
    (g.map fun e => (e.1, e.2.2), 0, last)

/-- Grants of a side, and last_served of its three classes. -/
def sideGrants (s : State) (side : Fin 2) : List (Byte × Nat) × Vector Byte 6 :=
  let (a, f, x) := classGrants s side 0 (sideFrames s (sideNodes s side).length)
  let (b, f, y) := classGrants s side 1 f
  let (c, _, z) := classGrants s side 2 f
  (a ++ b ++ c, ((s.course.lastServed.set (servedIdx side 0).val x (by omega)).set (servedIdx side 1).val y (by omega)).set (servedIdx side 2).val z (by omega))

/-- Wire time of a frame with its gap in ns. -/
def wireNs (len : Nat) : Nat := (16 + len) * 8000 / 12 + 333

/-- Port time left for SERVICE frames in the sweep in ns (R610 table, R630). -/
def serviceLeft (s : State) (side : Fin 2) : Nat :=
  let g := ((sideGrants s side).1.map (·.2)).sum
  1000 * headS s - 2000000 - 160330 * g - 43000 * (sideNodes s side).length

/-! Service requests (R630, R365, R643, R723). -/

/-- SERVICE time left on a side in the present sweep. -/
def roomOf (s : State) (side : Fin 2) : Nat := if side = 0 then s.course.room.1 else s.course.room.2
def takeRoom (s : State) (side : Fin 2) (n : Nat) : State :=
  let r := s.course.room
  { s with course := { s.course with room := if side = 0 then (r.1 - n, r.2) else (r.1, r.2 - n) } }

/-- Time that the frames of a request and its answer take, with the hops there and back (R567, R580). -/
def exchangeNs (n : Node) (wire : Nat) : Nat := wire + 3000 * (linkOf n n.side).toNat

/-- A service frame to a node on its side. -/
def sendService (s : State) (n : Node) (type credit : Byte) (p : List Byte) : State := originate s [n.side] type n.addr 2 credit p

/-- A service request goes out when its answer can arrive in the time left, which it uses up; else nothing is sent (R630). -/
def request (s : State) (n : Node) (wire : Nat) (send : State → State) : State :=
  let cost := exchangeNs n wire
  if cost ≤ roomOf s n.side then takeRoom (send s) n.side cost else s

/-- RENDER_ENTRIES payloads of a node: at least one frame, the first with FIRST, the last with LAST. -/
def renderPayloads (s : State) (n : Node) : List (List Byte) :=
  let l := (renderEntries s).filter fun e => vcnNode e.vcn == n.addr.toNat
  let seq := (s.cal.render.map (·.sequence)).getD 0
  let c := chunks9 170 l
  let c := if c.isEmpty then [[]] else c
  (List.range c.length).map fun k =>
    let e := c.getD k []
    let fl : Nat := (if k = 0 then 1 else 0) + (if k + 1 = c.length then 2 else 0)
    toLE 4 seq.toNat ++ [BitVec.ofNat 8 e.length, BitVec.ofNat 8 fl, 0, 0] ++ e.flatMap renderEntryBytes

/-- Render entries of a node, until the pod confirms them (R365). -/
def sendRender (s : State) (n : Node) : State :=
  let ps := renderPayloads s n
  if swept n && n.renderPending then
    request s n ((ps.map fun p => wireNs p.length).sum + wireNs 4) fun s => ps.foldl (fun s p => sendService s n 0x22 0 p) s
  else s

/-- A host-requested operation (R630, R668): its request goes out until the answer has come. -/
def sendOperation (s : State) (op : ServiceOp) : State :=
  match op with
  | .statusRead node a l =>
    match s.course.nodes.find? fun n => n.addr == node && n.state == .joined with
    | none => s
    | some n => request s n (wireNs 4 + wireNs (4 + l.toNat)) fun s => sendService s n 0x24 0 (toLE 2 a.toNat ++ toLE 2 l.toNat)

/-- The fault poll of a node (R760): a STATUS_REQ for the active-fault word; one that finds no time waits for the next sweep. -/
def sendPoll (s : State) (n : Node) : State :=
  let s := modNode s n.addr.toNat fun n => { n with pollWanted := true }
  request s n (wireNs 4 + wireNs 8) fun s => modNode (sendService s n 0x24 0 [0x04, 0x30, 4, 0]) n.addr.toNat fun n => { n with pollWanted := false }

/-- The polls that wait, ahead of the service queue. -/
def sendPolls (s : State) : State := (s.course.nodes.filter fun n => swept n && n.pollWanted).foldl sendPoll s

/-- Backlog frames that the budget of the log still admits: whole nines of entries, without those already asked for (R723). -/
def backlogFrames (s : State) : Nat := (cfgLogCap s - s.log.budget) / 9 - (s.course.nodes.map (·.backlogNext)).sum

/-- Backlog collection from a node (R643, R723): as many frames as the budget, the port time and the count allow. The request acknowledges the
records received; the next one follows only after a report of a later sweep, which shows what has become of this one. -/
def sendBacklog (x : State × Nat) (n : Node) : State × Nat :=
  let (s, budget) := x
  if !swept n || n.backlogSweep.isSome || (n.backlog = 0 && n.backlogGot = 0) then x
  else
    let want := (n.backlog.toNat - n.backlogGot + 8) / 9
    let space := (roomOf s n.side - exchangeNs n (wireNs 4)) / 160330
    let k := min 127 (min budget (min space (max 1 want)))
    if k = 0 then x
    else
      let s := sendService s n 0x20 (BitVec.ofNat 8 k) (toLE 2 n.backlogGot ++ [0, 0])
      let asked (n : Node) : Node := { n with backlogSweep := some s.course.sweep, backlogBase := n.backlog.toNat, backlogTold := n.backlogGot
                                              backlogNext := min k want }
      (takeRoom (modNode s n.addr.toNat asked) n.side (exchangeNs n (wireNs 4 + k * 160330)), budget - min k want)

/-- A report of a later sweep than the request's settles the request: what its answer has not brought yet is asked for again, and where the pod
holds so many fewer, the records it acknowledged are gone (R643). -/
def settleBacklog (sweep : BitVec 32) (count : Nat) (n : Node) : Node :=
  if n.backlogSweep.isNone || n.backlogSweep == some sweep then n
  else
    let arrived : Bool := count + n.backlogTold ≤ n.backlogBase
    { n with backlogSweep := none, backlogNext := 0, backlogTold := 0, backlogGot := if arrived then n.backlogGot - n.backlogTold else n.backlogGot }

/-- A data frame of a request's answer: taken only in order, the frames still to follow counting down to 0 (R643, R645). -/
def inOrder (n : Node) (credit : Byte) : Bool := n.backlogSweep.isSome && n.backlogNext == credit.toNat + 1

/-- The records of such a frame are received; that one came shows that the request arrived. -/
def takeBacklog (k : Nat) (credit : Byte) (n : Node) : Node :=
  { n with backlogGot := n.backlogGot - n.backlogTold + k, backlogTold := 0, backlogNext := credit.toNat }

/-- Sweeps in a row without SERVICE time for a request and its answer on a side (R631). -/
def countService (s : State) (side : Fin 2) (k : Nat) : Nat := if roomOf s side < wireNs 4 + wireNs 236 then min 16 (k + 1) else 0

/-- LT_START payload (22): the start of the test is `toStart` sweeps ahead. -/
def ltStartPayload (s : State) (t : RemoteTest) : List Byte :=
  let at0 := time56 (plumbNow s) + t.toStart * headS s
  [t.node, BitVec.ofNat 8 t.side.val, t.pattern, 0] ++ plumbBytes (plumb56 at0) ++ [0] ++ toLE 4 t.duration.toNat

/-- LT_START goes out in the two sweeps before the start of a scheduled test (R807), where its answers can still arrive (R630). -/
def announceTest (s : State) : State :=
  match s.course.remote with
  | none => s
  | some t =>
    let cost := wireNs 16 + wireNs 4
    if t.running || t.toStart = 0 || 2 < t.toStart || !(usedPorts s).all fun p => cost ≤ roomOf s p then s
    else (usedPorts s).foldl (fun s p => takeRoom s p cost) (originate s (usedPorts s) 0x28 255 2 0 (ltStartPayload s t))

/-- The service requests of a sweep: fault polls, then the queue in the order of R630. -/
def serveSweep (s : State) : State :=
  let s := { s with course := { s.course with room := (serviceLeft s 0, serviceLeft s 1) } }
  let c := s.course
  let s := { s with course := { c with noService := #v[countService s 0 c.noService[0], countService s 1 c.noService[1]] } }
  let s := sendPolls s
  let s := s.course.nodes.foldl sendRender s
  let s := s.course.service.foldl sendOperation (announceTest s)
  (s.course.nodes.foldl sendBacklog (s, backlogFrames s)).1

/-! SWEEP_TICK. -/

/-- The node of a list that has waited longest for the delay slot, the lowest address among equals. -/
def longestUnnamed (l : List Node) : Option Node :=
  l.foldl (fun (b : Option Node) n => match b with
    | none => some n
    | some m => if m.delayAge < n.delayAge then some n else b) none

/-- The pod of the delay slot (R622): one whose 250 sweeps are up, else one that has moved or joined, else the one named longest ago. -/
def delayNode (s : State) : Byte :=
  let l := s.course.nodes.filter fun n => n.state == .joined
  let due := l.filter fun n => 249 ≤ n.delayAge
  let wanted := l.filter (·.delayWanted)
  ((longestUnnamed (if !due.isEmpty then due else if !wanted.isEmpty then wanted else l)).map (·.addr)).getD 0

/-- The pod named in the delay slot no longer waits for it, every other one a sweep longer (R622). -/
def named (d : Byte) (n : Node) : Node :=
  if n.addr = d then { n with delayWanted := false, delayAge := 0 } else { n with delayAge := n.delayAge + 1 }

/-- SWEEP_START payload; its time mark is set when the frame leaves (R611). -/
def sweepStartPayload (s : State) (delay : Byte) : List Byte :=
  let fl : Nat := (if s.rail.chainShed then 1 else 0) + (if s.time.valid then 2 else 0) + (if s.course.ringClosed then 4 else 0)
  let rate : Nat := if s.modes.mode = .run then 3 else u8 (sec s 2) 4
  toLE 4 s.course.sweep.toNat ++ plumbBytes (plumbNow s) ++ [modeCode s.modes.mode, BitVec.ofNat 8 fl, BitVec.ofNat 8 rate, delay, 0]

/-- Sides while a link of a closed ring is under test: the ring runs as two chains (R809). -/
def splitSides (s : State) (t : RemoteTest) : State :=
  let l := ((s.course.nodes.find? fun n => n.addr == t.node).map fun n => linkOf n t.side).getD 0
  let f (n : Node) : Node :=
    let d := if linkOf n t.side < l then t.side else otherPort t.side
    { n with side := d, delayWanted := n.delayWanted || n.side != d }
  { s with course := { s.course with ringClosed := false, nodes := s.course.nodes.map f } }

/-- A scheduled remote test comes one sweep nearer. It starts with the third sweep, for which a closed ring is run as if broken at the link, once
both ends have acknowledged (R807, R809). -/
def remoteSweep (s : State) : State :=
  match s.course.remote with
  | none => s
  | some t =>
    if t.running || t.toStart = 0 then s
    else
      let starts := t.toStart == 1 && t.ackFar && t.ackNear && s.course.ringClosed
      let t := { t with toStart := t.toStart - 1, wasRing := starts }
      let s := { s with course := { s.course with remote := some t } }
      if starts then splitSides s t else s

/-- The ring closes again after a test, unless a break has been located meanwhile (R809). -/
def ringAfterTest (s : State) : State :=
  let c := s.course
  let t := { s with course := { c with ringAgain := false } }
  if c.ringAgain && c.break0 == 0xFF && c.break1 == 0xFF then ringSides { t with course := { t.course with ringClosed := true } } else t

/-- What holds from the start of a sweep: pods that have joined take part, a test that is over has left the chain, the ring is as it is. -/
def beginSweep (s : State) : State :=
  let c := s.course
  remoteSweep (ringAfterTest { s with course := { c with nodes := c.nodes.map fun n => { n with joining := false }
                                                         testLink := if c.remote.any (·.running) then c.testLink else none } })

/-- SWEEP_TICK (R609, R611, R622, R630, R639, R646, R807, R809): at a whole multiple of S a sweep starts on each used port. -/
def execSweepTick (s : State) : Host.Outcome State Fault Refusal :=
  if s.role ≠ .head || !isActive s || (usedPorts s).isEmpty || !onTime s (headS s) then .next s
  else
    let s := beginSweep s
    let d := delayNode s
    let s := { s with course := { s.course with sweep := s.course.sweep + 1, sweepRing := s.course.ringClosed
                                                nodes := s.course.nodes.map (named d)
                                                sweepOf := some (headS s), tickClk := s.clk, credited := false } }
    let s := originateEach s (usedPorts s) 0x10 255 1 fun s _ => sweepStartPayload s d
    .next (serveSweep s)

/-! CREDIT_SEND. -/

/-- DEC and the sweeps that fitted, for a background pod (R628, R629). -/
def decide628 (s : State) (n : Node) (grant : Nat) : Node :=
  if nodePrio s n ≠ 2 then { n with dec := false, fitted := 0 }
  else
    let fit := if n.everReported && n.fullDemand ≤ grant then n.fitted + 1 else 0
    if cfgDelayLimit s ≤ n.age.toNat && n.everReported then { n with dec := true, fitted := 0 }
    else { n with dec := n.dec && fit < 16, fitted := min 16 fit }

/-- The grant of an address. -/
def grantOf (g : List (Byte × Nat)) (a : Byte) : Nat := (g.lookup a).getD 0

/-- One pod of the sweep after the grants: what a sweep awaits starts anew. -/
def creditNode (s : State) (g : List (Byte × Nat)) (n : Node) : Node :=
  if !swept n then n
  else
    let k := grantOf g n.addr
    let short := needOf n - k
    { (decide628 s n k) with grant := k, shortfall := short, reported := false, expected := 0, got := 0, resent := 0 }

/-- The entry of an address in the CREDIT frames of a side. -/
def creditEntry (s : State) (side : Fin 2) (a : Nat) : List Byte :=
  match s.course.nodes.find? fun n => n.addr.toNat == a && swept n with
  | none => [0, 0]
  | some n =>
    let own := n.side == side
    toLE 2 ((if own then n.grant else 0) + (if n.dec then 128 else 0) + (if n.ack then 256 else 0) + if own then 512 else 0)

/-- CREDIT payloads of a side: runs of at most 118 addresses over all joined pods. -/
def creditPayloads (s : State) (side : Fin 2) : Nat → Nat → Nat → List (List Byte)
  | 0, _, _ => []
  | fuel + 1, a, last =>
    if last < a then []
    else
      let n := min 118 (last + 1 - a)
      ([BitVec.ofNat 8 a, BitVec.ofNat 8 n, BitVec.ofNat 8 side.val, 0] ++ (List.range n).flatMap fun k => creditEntry s side (a + k)) ::
        creditPayloads s side fuel (a + n) last

/-- The CREDIT frames of the sweep in progress are due: 1 ms after its start, once (table One sweep). -/
def creditDue (s : State) : Bool := s.course.sweepOf.isSome && !s.course.credited && decide (s.course.tickClk + 1000 ≤ s.clk)

/-- CREDIT_SEND (R611, R616, R618, R624, R625, R628, R629): grants, and the CREDIT frames of each port. -/
def execCreditSend (s : State) : Host.Outcome State Fault Refusal :=
  let joined := s.course.nodes.filter swept
  if s.role ≠ .head || !isActive s || !creditDue s then .next s
  else
    let s := { s with course := { s.course with credited := true } }
    match joined.head?, joined.getLast? with
    | some a, some z =>
      let (g0, v) := sideGrants s 0
      let s1 := { s with course := { s.course with lastServed := v } }
      let (g1, v) := sideGrants s1 1
      let nodes := s.course.nodes.map (creditNode s (g0 ++ g1))
      let bad := nodes.any fun n => swept n && (n.shortfall != 0 || n.dec)
      let s := { s with course := { s.course with lastServed := v, nodes := nodes, overloadNow := s.course.overloadNow || bad } }
      .next ((usedPorts s).foldl (fun s p =>
        (creditPayloads s p 3 a.addr.toNat z.addr.toNat).foldl (fun s q => originate s [p] 0x11 255 1 0 q) s) s)
    | _, _ => .next s

/-! Reports and records. -/

/-- The state of a pod's rule, or of any of its CHAIN rules, in a bitmap (R405). -/
def bitmapBit (b : List Byte) (k : Nat) : Bool :=
  if k = 256 then b.any (· != 0) else bit (u8 b (k / 8)) (k % 8)

/-- The REMOTE rules that name a node are evaluated on a bitmap of it (R405, R634). -/
def remoteRules (s : State) (node : Nat) (b : List Byte) (bad : List (Fin 256)) : State :=
  if !isActive s then s
  else
    let ks := (allRules s).filter fun k => ruleKind s k.val == 7 && vcnNode (ruleVcn s k.val) == node
    ks.foldl (fun s k =>
      let m := bitmapBit b (ruleArg s k.val)
      evaluate s k m (!m) (flag32 m) bad) s

/-- A frame of a pod that is lost brings a DISCOVER with FULL and nothing else (R642). -/
def fromJoined (s : State) (r : CourseRx) (body : State → Node → State) : State :=
  match s.course.nodes.find? fun n => n.addr == r.src with
  | none => s
  | some n =>
    match n.state with
    | .joined => body s n
    | .lost => wantFull s
    | _ => s

/-- A count of a node goes up. -/
def countNode (n : Node) (k : Fin 9) (m : Nat) : Node := { n with counts := vmod n.counts k fun c => sat16Add c m }

/-- What no frame of the spec tells the head of a pod is free at each report (log 36): how far its decimated, backlog-lost and pending-lost counts
have gone up, its further warnings, and its boot outcomes. Counts and warnings only grow (R700). -/
def untoldCounts (s : State) (n : Node) : Node × State :=
  let (a, s) := drawFree s
  let (b, s) := drawFree s
  let (c, s) := drawFree s
  let half (x : BitVec 32) (k : Nat) : Nat := x.toNat / 65536 ^ k % 65536
  let o (k : Nat) : Byte := BitVec.ofNat 8 (c.toNat / 16 ^ k % 16)
  ({ (countNode (countNode (countNode n 1 (half a 0)) 7 (half a 1)) 8 (half b 0)) with
     warnings := n.warnings ||| BitVec.ofNat 16 (half b 1), outcomes := #v[o 0, o 1, o 2, o 3] }, s)

/-- The cases of an overload episode that a report shows: a background pod delayed, a pending area that was full (table How each loser can
tell, R633). -/
def reportOverload (s : State) (old new : Node) : State :=
  if (nodePrio s new == 2 && new.age != 0) || new.counts[8] != old.counts[8] then
    { s with course := { s.course with overloadNow := true } }
  else s

/-- A report clears a loss of signal that the located break rests on (R642). -/
def clearsBreak (s : State) (n : Node) (l0 l1 : Bool) : Bool :=
  (s.course.break0 == n.addr || s.course.break1 == n.addr) && ((n.los0 && !l0) || (n.los1 && !l1))

/-- A pod reports its mode: kept where it changes (R449). -/
def noteMode (s : State) (n : Node) (m : Byte) : Node :=
  if n.mode = m ∧ !n.modeLog.isEmpty then n
  else { n with mode := m, modeLog := ((time56 (s.time.count, s.time.era), m) :: n.modeLog).take 481 }

/-- The frame belongs to the sweep in progress: the present number, and that sweep has not ended (R615, R616). -/
def ofThisSweep (s : State) (p : List Byte) : Bool := f32At p 0 == s.course.sweep && s.course.sweepOf.isSome

/-- Records are accepted to the end of the sweep after theirs (R647). -/
def sweepOpen (s : State) (p : List Byte) : Bool := (s.course.sweep - f32At p 0).toNat ≤ 1

/-- SWEEP_REPORT (R616, R634, R642, R643): status, demand and bitmap of a pod; only the report of the sweep in progress counts for it. -/
def execSweepReport (r : CourseRx) (bad : List (Fin 256)) (s : State) : Host.Outcome State Fault Refusal :=
  .next (settle s (headRx s 0x12 r fun s => fromJoined s r fun s n =>
    let p := r.payload
    let f := u8 p 5
    let heals := clearsBreak s n (bit f 0) (bit f 1)
    let m : Node := { noteMode s n (b8 p 4) with
      los0 := bit f 0, los1 := bit f 1, causes := BitVec.ofNat 16 (u16 p 6), expected := if ofThisSweep s p then u8 p 8 else n.expected
      reported := n.reported || ofThisSweep s p, everReported := true, demand := u8 p 9, fullDemand := u8 p 10, age := b8 p 11, backlog := BitVec.ofNat 16 (u16 p 12)
      throttle := b8 p 14, bitmap := p.drop 16 }
    let (m, s) := untoldCounts s (settleBacklog (f32At p 0) (u16 p 12) m)
    let s := reportOverload (setNode s m) n m
    let s := remoteRules s n.addr.toNat (p.drop 16) bad
    if heals then wantFull s else s))

/-- ALARM (R634, R426): the REMOTE rules follow at once. -/
def execAlarm (r : CourseRx) (bad : List (Fin 256)) (s : State) : Host.Outcome State Fault Refusal :=
  .next (settle s (headRx s 0x14 r fun s => fromJoined s r fun s n =>
    let s := modNode s n.addr.toNat fun n => { n with bitmap := r.payload.drop 4 }
    remoteRules s n.addr.toNat (r.payload.drop 4) bad))

/-- Records of a payload. -/
def recordsOf (p : List Byte) : List Record := (List.range (u8 p 4)).map fun k => recordOf ((p.drop (8 + 24 * k)).take 24)

/-- A received record is one the head already holds (R617). -/
def heldAlready (s : State) (r : Record) : Bool :=
  match (entryOf s r.vcn).bind (·.record) with
  | none => false
  | some h => h.seq == r.seq

/-- A record of a pod takes its path into the store (R615, R617, R673). -/
def takeRecord (node : Nat) (late : Bool) (bad : List (Fin 256)) (s : State) (r : Record) : State :=
  if vcnNode r.vcn ≠ node || heldAlready s r then s
  else storeRecord s (if late then { r with status := setFlag r.status 5 } else r) bad

/-- SWEEP_DATA (R615 - R617, R642, R647, R673): new records are stored; those that arrive after their sweep carry DELAYED, and those of a
sweep before the last one are not taken. -/
def execSweepData (r : CourseRx) (bad : List (Fin 256)) (s : State) : Host.Outcome State Fault Refusal :=
  .next (settle s (headRx s 0x13 r fun s => fromJoined s r fun s n =>
    let p := r.payload
    if !sweepOpen s p then s else
    let rs := recordsOf p
    let resend := bit (u8 p 5) 0
    let late := !ofThisSweep s p
    let delayed := (rs.filter fun x => x.status.getLsbD 5 || late).length
    let s := modNode s n.addr.toNat fun n =>
      let n := countNode n 0 delayed
      let n := if resend then countNode n 2 rs.length else n
      if late then n else if resend && !n.reported then { n with resent := n.resent + 1 } else { n with got := n.got + 1 }
    rs.foldl (takeRecord n.addr.toNat late bad) s))

/-! SWEEP_END. -/

/-- One MISSING record for every VCN of a node. -/
def writeMissing (bad : List (Fin 256)) (s : State) (node : Nat) : State :=
  ((s.results.map (·.1)).filter fun v => vcnNode v == node).foldl (fun s v =>
    match entryOf s v with
    | none => s
    | some e =>
      let (r, s) := missingRecord s v e
      storeRecord s r bad) s

/-- A joined pod is lost (R637): EV20, code 0x17; its queued operations end. -/
def loseNode (s : State) (n : Node) : State :=
  let rr := s.course.rrPending && s.course.rrNode == n.addr
  let keep (op : ServiceOp) : Bool := match op with
    | .statusRead a _ _ => a != n.addr
  let s := { s with course := { s.course with
    nodes := putNode { n with state := .lost } s.course.nodes, service := s.course.service.filter keep
    rrPending := if rr then false else s.course.rrPending } }
  declareEvent { s with ks := { s.ks with lostPods := (s.ks.lostPods ++ [n.addr]).eraseDups } } 0x17 n.addr.toNat n.addr.toNat false

/-! Breaks (R638, R639, R648, R649). -/

/-- A pod beyond the link of a linear chain that is under test, or was in this sweep (R810). -/
def beyondTest (s : State) (n : Node) : Bool := s.course.testLink.any fun t => t.2 ≤ linkOf n t.1

/-- A node of the table that is not heard: no report of the sweep that ends, or given up before it joined (R607, R637). -/
def silent (n : Node) : Bool :=
  match n.state with
  | .lost | .absent | .bootFailed => true
  | .joined => !n.joining && !n.reported
  | _ => false

/-- A pod of a side with a larger link count, known to the head, is not heard, and no test is the reason (log 37). -/
def silentBeyond (s : State) (side : Fin 2) (l : Byte) : Bool :=
  s.course.nodes.any fun n => l < linkOf n side && silent n && !beyondTest s n

/-- An end of the link that is under test shows no break (R809, R810): `a` its address, 0 the head. -/
def testEnd (s : State) (a : Byte) : Bool := s.course.remote.any fun t => t.running && (t.node == a || t.near == a)

/-- The latest report of a pod shows loss of signal that counts for a side: on one port for its own side, on both for either (R638, R649). -/
def showsLoss (side : Fin 2) (n : Node) : Bool :=
  swept n && n.everReported && ((n.side == side && (n.los0 || n.los1)) || (n.los0 && n.los1))

/-- A pod whose loss of signal is a break position: in a ring any that shows it on one port; otherwise one with silent pods beyond it, which the
open end of a chain, or a pod that shows it on both ports by itself, has not (R638, R649, log 37). -/
def breakPod (s : State) (side : Fin 2) (n : Node) : Bool :=
  showsLoss side n && !testEnd s n.addr && ((cfgRing s && !(n.los0 && n.los1)) || silentBeyond s side (linkOf n side))

/-- The position of a break on a side: beyond the break pod with the highest link count, 0 between the head and the first pod, 0xFF none (R638). -/
def breakOn (s : State) (side : Fin 2) : Byte :=
  let top := (s.course.nodes.filter (breakPod s side)).foldl (fun (b : Option Node) n => match b with
    | none => some n
    | some m => if linkOf m side < linkOf n side then some n else b) none
  match top with
  | some n => n.addr
  | none =>
    let known := s.course.nodes.any fun n => n.state == .joined || n.state == .lost
    let both := s.course.nodes.any fun n => swept n && n.reported && n.los0 && n.los1
    if s.course.ports[side].los && known && !both && !testEnd s 0 then 0 else 0xFF

/-- A break newly located on a side: EV21 and code 0x18, masked in a ring. -/
def reportBreak (s : State) (side : Fin 2) (b : Byte) : State :=
  let arg := b.toNat + 256 * side.val
  declareEvent s 0x18 arg arg (cfgRing s)

/-- Link count of the node of an address through a head port. -/
def linkAt (s : State) (a : Byte) (side : Fin 2) : Nat := ((s.course.nodes.find? fun n => n.addr == a).map fun n => (linkOf n side).toNat).getD 0

/-- Positions `a` on side C0 and `b` on side C1 are the two ends of one break. -/
def sameBreak (s : State) (a b : Byte) : Bool :=
  if a = 0xFF ∨ b = 0xFF then false
  else if a = 0 then b != 0 && linkAt s b 0 == 1
  else if b = 0 then linkAt s a 1 == 1
  else if linkAt s b 0 = 0 then linkAt s a 1 == linkAt s b 1 + 1
  else linkAt s b 0 == linkAt s a 0 + 1

/-- The break of a side. -/
def breakAt (s : State) (side : Fin 2) : Byte := if side = 0 then s.course.break0 else s.course.break1

/-- A pod lies on the head's side of the break of a side. -/
def headSide (s : State) (side : Fin 2) (n : Node) : Bool :=
  linkOf n side != 0 && breakAt s side != 0 && (linkOf n side).toNat ≤ linkAt s (breakAt s side) side

/-- A side reaches a pod past the located breaks: up to its own one, or, with a break on the other side only, whatever that side does not. -/
def reaches (s : State) (side : Fin 2) (n : Node) : Bool :=
  let o := otherPort side
  if breakAt s side != 0xFF then headSide s side n else linkOf n side != 0 && (breakAt s o == 0xFF || !headSide s o n)

/-- A pod between two located breaks is reached from neither side (R648). -/
def between (s : State) (n : Node) : Bool :=
  s.course.break0 != 0xFF && s.course.break1 != 0xFF && !reaches s 0 n && !reaches s 1 n

/-- A pod on the side that reaches it (R619). -/
def onReachedSide (s : State) (n : Node) : Node :=
  let d : Fin 2 := if reaches s 0 n then 0 else if reaches s 1 n then 1 else n.side
  { n with side := d, delayWanted := n.delayWanted || n.side != d }

/-- A closed ring with a located break goes on as two chains (R639), each pod on the side that reaches it (R619). -/
def openRing (s : State) : State :=
  let c := s.course
  { s with course := { c with ringClosed := false, n := 0, nodes := c.nodes.map (onReachedSide s) } }

/-- A break located before the last reset has healed (R744, R767): the ring is closed, or the port that showed it has its signal again. -/
def healed (s : State) (x : Fin 2 × Byte) : Bool :=
  s.course.ringClosed || if x.2 = 0 then !s.course.ports[x.1].los else
    s.course.nodes.any fun n => n.addr == x.2 && n.state == .joined && n.reported && !n.los0 && !n.los1

/-- The breaks of before the last reset that are still open: not healed, and no break is located on their side since. -/
def stillOpen (s : State) (a b : Byte) : List (Fin 2 × Byte) :=
  s.ks.oldBreaks.filter fun x => !healed s x && (if x.1 = 0 then a else b) == 0xFF

/-- Breaks are located (R638, R639), each once, whichever of its ends shows it, also when a reset fell between (R766). -/
def locateBreaks (s : State) : State :=
  let c := s.course
  let a := if (usedPorts s).contains 0 then breakOn s 0 else 0xFF
  let b := if (usedPorts s).contains 1 then breakOn s 1 else 0xFF
  let newA := a != 0xFF && a != c.break0 && !sameBreak s a c.break1
  let newB := b != 0xFF && b != c.break1 && !sameBreak s a b && !sameBreak s c.break0 b
  let none : Bool := a == 0xFF && b == 0xFF
  let old := s.ks.oldBreaks
  let s := { s with course := { c with break0 := a, break1 := b }, ks := { s.ks with oldBreaks := stillOpen s a b } }
  let s := if c.ringClosed && !none then openRing s else s
  let s := if newA && !old.contains (0, a) then reportBreak s 0 a else s
  let s := if newB && !old.contains (1, b) then reportBreak s 1 b else s
  if none && s.ks.oldBreaks == [] && faultActive s 0x18 then clearFault s 0x18 else s

/-- The end of a sweep for one pod of it, after the breaks are located (R616, R619, R636, R637, R648, R810). -/
def endNode (bad : List (Fin 256)) (s : State) (a : Byte) : State :=
  match s.course.nodes.find? fun n => n.addr == a && swept n with
  | none => s
  | some n =>
    let whole := n.reported && n.expected ≤ n.got
    let moves := s.course.sweepRing && s.course.ringClosed && !whole
    let n := { n with ack := whole, side := if moves then otherPort n.side else n.side, delayWanted := n.delayWanted || moves }
    if n.reported then
      setNode s { n with missedReports := 0, excused := false }
    else
      let spare := s.course.sweepRing && !n.excused && !between s n
      let k := if beyondTest s n then 0 else min 3 (n.missedReports + 1)
      let n := { n with missedReports := k, excused := n.excused || spare }
      let n := if spare then n else countNode n 3 1
      let s := setNode s n
      let s := if spare then s else writeMissing bad s a.toNat
      if k = 3 then loseNode s n else s

/-- The overload episode (R633). -/
def overloadEnd (s : State) : State :=
  let c := s.course
  if c.overloadNow then
    let s := { s with course := { c with overload := true, quiet := 0, overloadNow := false } }
    if c.overload then s else raise s 23 0
  else
    let q := c.quiet + 1
    { s with course := { c with overload := c.overload && q < 16, quiet := min 16 q } }

/-- A remote test that has ended waits two sweep ends for its LT_DONE frames; then EV29 carries ABORTED (R823). -/
def missingDone (s : State) : State :=
  match s.course.testDone with
  | none => s
  | some t =>
    if t.toStart = 0 then { s with course := { s.course with testDone := some { t with toStart := 1 } } }
    else raise { s with course := { s.course with testDone := none } } 29 (4 + 16 + 256 * t.node.toNat)

/-- The sweep in progress ends: Plumb has reached the next whole multiple of its S. -/
def sweepOver (s : State) : Bool := s.course.sweepOf.any fun us => onTime s us && s.course.tickClk < s.clk

/-- SWEEP_END (R616, R619, R633, R636 - R639, R644, R648, R649), before the next SWEEP_TICK. `bad`: the rules whose evaluators differ (R398). -/
def execSweepEnd (bad : List (Fin 256)) (s : State) : Host.Outcome State Fault Refusal :=
  if s.role ≠ .head || !isActive s || !sweepOver s then .next s
  else
    let t := locateBreaks { s with course := { s.course with sweepOf := none } }
    let t := (t.course.nodes.map (·.addr)).foldl (endNode bad) t
    .next (settle s (overloadEnd (missingDone t)))

/-! The rest of the head's frames. -/

/-- DELAY_REQ (R621): answered at once on the port it came in, with t2; t3 is set when the answer leaves. -/
def execDelayReq (r : CourseRx) (s : State) : Host.Outcome State Fault Refusal :=
  .next (headRx s 0x15 r fun s => fromJoined s r fun s n =>
    let s := modNode s n.addr.toNat fun n => { n with delayWanted := false }
    originate s [r.port] 0x16 n.addr 1 0 (countBytes s ++ countBytes s ++ r.payload))

/-- BACKLOG_DATA (R643): logged as kind 0x05 with DELAYED, neither evaluated nor stored. A frame behind one that did not arrive is left to the next
request, which asks for its records again. -/
def execBacklogData (r : CourseRx) (s : State) : Host.Outcome State Fault Refusal :=
  .next (headRx s 0x21 r fun s => fromJoined s r fun s n =>
    let rs := recordsOf r.payload
    if !inOrder n r.credit then s else
    let s := modNode s n.addr.toNat fun n => takeBacklog rs.length r.credit (countNode n 6 rs.length)
    rs.foldl (fun s x => logRecord s 0x05 { x with status := setFlag x.status 5 }) s)

/-- RENDER_ACK (R365). -/
def execRenderAck (r : CourseRx) (s : State) : Host.Outcome State Fault Refusal :=
  .next (headRx s 0x23 r fun s => fromJoined s r fun s n =>
    if f32At r.payload 0 = (s.cal.render.map (·.sequence)).getD 0 then
      let l := (renderEntries s).filter fun e => vcnNode e.vcn == n.addr.toNat
      let now := time56 (s.time.count, s.time.era)
      modNode s n.addr.toNat fun n => { n with renderPending := false, trims := ((now, l) :: n.trims).take 64 }
    else s)

/-- The queued remote read of a node ends: its window is filled (R668). -/
def endRemoteRead (s : State) (node st : Byte) (data : List Byte) : State :=
  let keep (op : ServiceOp) : Bool := match op with
    | .statusRead a _ _ => a != node
  { s with course := { s.course with service := s.course.service.filter keep, rrPending := false, rrDone := true, rrStatus := st, rrData := data } }

/-- The pod's active-fault word as read (R760): code 0x19 while one is not 0, with the node as argument. -/
def pollWord (s : State) (n : Node) (w : BitVec 32) : State :=
  let s := modNode s n.addr.toNat fun n => { n with faultWord := w }
  let others := s.ks.podFaults.filter fun a => a != n.addr
  let s := { s with ks := { s.ks with podFaults := if w = 0 then others else others ++ [n.addr] } }
  if w ≠ 0 then declare s 0x19 n.addr.toNat false
  else if faultActive s 0x19 && others == [] then clearFault s 0x19 else s

/-- STATUS_RESP (R668, R760): fills the remote read window it answers, or is a fault poll's answer. -/
def execStatusResp (r : CourseRx) (s : State) : Host.Outcome State Fault Refusal :=
  .next (headRx s 0x25 r fun s => fromJoined s r fun s n =>
    let c := s.course
    let p := r.payload
    if c.rrPending && c.rrNode == n.addr && c.rrAddr.toNat == u16 p 0 && c.rrLen.toNat == u16 p 2 then endRemoteRead s n.addr stOk (p.drop 4)
    else if u16 p 0 = 0x3004 && u16 p 2 = 4 then pollWord s n (f32At p 4) else s)

/-- NAK (R632, R668, R812): counted; ends the remote read, or the remote test. -/
def execNak (r : CourseRx) (s : State) : Host.Outcome State Fault Refusal :=
  .next (headRx s 0x26 r fun s => fromJoined s r fun s n =>
    let s := modNode s n.addr.toNat fun n => countNode n 5 1
    match u8 r.payload 0 with
    | 0x24 => if s.course.rrPending && s.course.rrNode == n.addr then endRemoteRead s n.addr (b8 r.payload 1) [] else s
    | 0x28 => if s.course.remote.any fun t => t.node == n.addr || t.near == n.addr then abortRemote s else s
    | _ => s)

/-- The port time still free, at this moment of the sweep: none outside one and in its last millisecond (table One sweep, R630). -/
def presentRoom (s : State) : State :=
  let left := match s.course.sweepOf with
    | none => 0
    | some us => 1000 * (us - 1000 - (s.clk - s.course.tickClk))
  { s with course := { s.course with room := (min left s.course.room.1, min left s.course.room.2) } }

/-- POD_FAULT_POLL (R630, R760): a STATUS_REQ for the active-fault word, ahead of the service queue; one whose answer finds no port time waits for
the next sweep. -/
def execPodFaultPoll (node : BitVec 8) (s : State) : Host.Outcome State Fault Refusal :=
  match s.role == .head && isActive s, s.course.nodes.find? fun n => n.addr == node && n.state == .joined with
  | true, some n => .next (sendPoll (presentRoom s) n)
  | _, _ => .next s

end Sys2Proof.Machine
end

