-- ==== Sys2Proof/Machine/Gate.lean ====
section
/-! DEFINITION. The Gate's commands and timers (21). -/

namespace Sys2Proof.Machine

/-- Place of a scope among the sessions: codes 0x01 CAL, 0x02 DIAG, 0x03 TEST. -/
def scopeIdx (c : Nat) : Fin 3 := ⟨(c - 1) % 3, Nat.mod_lt _ (by decide)⟩

/-- A scope code of the table. -/
def scopeOk (c : Nat) : Bool := 1 ≤ c && c ≤ 3

/-- A session opens (R781, R792): an outstanding nonce of its scope lapses; EV28 unless it was open already. -/
def openSession (s : State) (c : Nat) : State :=
  let i := scopeIdx c
  let was := s.gate.sessions[i].isSome
  let keep := s.gate.nonce.filter fun n => n.2.toNat != c
  let s := { s with gate := { s.gate with sessions := s.gate.sessions.set i.val (some s.clk), nonce := keep } }
  if was then s else raiseGate s 1 (2 ^ i.val)

/-- The lockout after the failure that brings the counter to `n`, in microseconds (R783). -/
def lockoutFor (n : Nat) : Nat := 1000000 * (if 13 ≤ n then 3600 else min (2 ^ (n - 1)) 3600)

/-- A failure is counted (R782, R783, R792): the counter, the lockout, EV28 with the scope's bit. -/
def gateFail (s : State) (c : Nat) : State :=
  let n := sat16 s.gate.failures
  raiseGate { s with gate := { s.gate with failures := n, lockout := some (lockoutFor n.toNat) } } 5 (2 ^ (scopeIdx c).val)

/-- A password or response was right (R786). -/
def gatePass (s : State) (c : Nat) : State := openSession { s with gate := { s.gate with failures := 0 } } c

/-- OPEN (R770, R791): CAL or DIAG, on an OPEN device. -/
def execOpenScope (f : HostFrame) (s : State) : Host.Outcome State Fault Refusal :=
  .next (commandFrame s f 0x20 [] (argCount 4) fun s a =>
    let c := u8 a 0
    if !zeros a 1 3 || !(c = 1 || c = 2) || s.otp.sealBit then (stBadArg, s) else (stOk, openSession s c))

/-- CHALLENGE (R779, R791): a nonce for a scope; for CAL and DIAG on a SEALED device only. -/
def execChallenge (f : HostFrame) (s : State) : Host.Outcome State Fault Refusal :=
  .next (commandFrame s f 0x21 [] (argCount 4) fun s a =>
    let c := u8 a 0
    if !zeros a 1 3 || !scopeOk c || (c != 3 && !s.otp.sealBit) then (stBadArg, s)
    else
      let n := Config.nonce s.freeCount
      (stOk, { s with freeCount := s.freeCount + 1, gate := { s.gate with nonce := some (n, BitVec.ofNat 8 c), nonceClk := s.clk } }))

/-- A lockout runs (R783, R784). -/
def lockedOut (s : State) : Bool := s.gate.lockout.any fun n => 0 < n

/-- The key of a scope (R780). -/
def scopeKey (s : State) (c : Nat) : List Byte := if c = 3 then Config.vendorKey else s.otp.userKey.getD []

/-- The response expected (R780): the nonce in page order, the unique ID, the scope code under the scope's key. -/
def expectedResponse (s : State) (n : BitVec 128) (c : Nat) : List Byte :=
  (hmacSha256 (scopeKey s c) (toLE 16 n.toNat ++ toLE 8 s.cornerstone.uniqueId.toNat ++ [BitVec.ofNat 8 c])).take 16

/-- A response consumes the outstanding nonce, whatever becomes of it (R781); in a lockout it consumes none (R784). -/
def consumeNonce (s : State) : State := if lockedOut s then s else { s with gate := { s.gate with nonce := none } }

/-- RESPONSE (R780 - R786, R791): it consumes the nonce; the scope opens, or a failure is counted. -/
def execResponse (f : HostFrame) (s : State) : Host.Outcome State Fault Refusal :=
  .next (commandFrame s f 0x22 [] (argCount 20) fun s a =>
    let c := u8 a 0
    match liveNonce s with
    | none => (stBadArg, s)
    | some (n, sc) =>
      let t := consumeNonce s
      if !zeros a 1 3 || !scopeOk c || sc.toNat != c then (stBadArg, t)
      else if lockedOut s then (stLocked, t)
      else
        let good := a.drop 4 == expectedResponse s n c
        let s := t
        if good then (stOk, gatePass s c) else (stLocked, gateFail s c))

/-- PASSWORD of section 0x11 (R778, R790). -/
def cfgPassword (s : State) : Bool := bit (u8 (sec s 0x11) 0) 0
def cfgSalt (s : State) : List Byte := ((sec s 0x11).drop 4).take 16
def cfgHash (s : State) : List Byte := ((sec s 0x11).drop 20).take 32

/-- PASSWORD (R778, R782 - R786, R790, R791): it opens CAL. -/
def execPassword (f : HostFrame) (s : State) : Host.Outcome State Fault Refusal :=
  .next (commandFrame s f 0x23 [] (argCount 36) fun s a =>
    let n := u8 a 0
    if !zeros a 1 3 || n < 8 || 32 < n || !zeros a (4 + n) (32 - n) || !cfgPassword s then (stBadArg, s)
    else if lockedOut s then (stLocked, s)
    else if sha256 (cfgSalt s ++ (a.drop 4).take n) == cfgHash s then (stOk, gatePass s 1)
    else (stLocked, gateFail s 1))

/-- RELOCK (R787, R791): the open sessions of the mask end. -/
def execRelock (f : HostFrame) (s : State) : Host.Outcome State Fault Refusal :=
  .next (commandFrame s f 0x24 [] (argCount 4) fun s a =>
    if 7 < u8 a 0 || !zeros a 1 3 then (stBadArg, s) else (stOk, endSessions s (u8 a 0) (some 2)))

/-- A key is neither all 0x00 nor all 0xFF (R774). -/
def keyAllowed (k : List Byte) : Bool := !(k.all (· == 0x00)) && !(k.all (· == 0xFF))

/-- SEAL (R774 - R776, R791): pending once it is accepted; while one is pending another is refused as R774 unmet (log 40). -/
def execSeal (f : HostFrame) (s : State) : Host.Outcome State Fault Refusal :=
  .next (commandFrame s f 0x25 [] (argCount 44) fun s a =>
    let key := a.drop 12
    if 1 < u8 a 0 || !zeros a 1 3 then (stBadArg, s)
    else if s.otp.sealBit || s.gate.sealing.isSome || !hasCal s || !f.flags.getLsbD 0 || (a.drop 4).take 8 != toLE 8 s.cornerstone.uniqueId.toNat || !keyAllowed key
      then (stLocked, s)
    else if s.otp.sealFailed then (stCapacity, s)
    else (stOk, { s with gate := { s.gate with sealing := some (u8 a 0 = 1, key) } }))

/-- SEAL_COMPLETE (R775, R776): key, tags-required bit and seal bit are written in order, each read back; the first failure ends it. -/
def execSealComplete (keyOk tagOk sealOk : Bool) (s : State) : Host.Outcome State Fault Refusal :=
  match s.gate.sealing with
  | none => .next s
  | some (tag, key) =>
    let s := { s with gate := { s.gate with sealing := none } }
    if keyOk && tagOk && sealOk then
      .next (raiseGate { s with otp := { s.otp with userKey := some key, tagsRequired := tag, sealBit := true } } 6 0)
    else
      let o := s.otp
      let o := if keyOk then { o with userKey := some key } else o
      let o := if keyOk && tagOk then { o with tagsRequired := tag } else o
      .next (raiseGate { s with otp := { o with sealFailed := true } } 7 0)

/-- NONCE_EXPIRY (R781): 60 s after it was issued. -/
def execNonceExpiry (s : State) : Host.Outcome State Fault Refusal :=
  .next (if s.clk < s.gate.nonceClk + 60000000 then s else { s with gate := { s.gate with nonce := none } })

/-- LOCKOUT_EXPIRY (R783, R785): nothing of it is left. -/
def execLockoutExpiry (s : State) : Host.Outcome State Fault Refusal :=
  .next (if lockedOut s then s else { s with gate := { s.gate with lockout := none } })

/-- SESSION_INACTIVITY (R787, R792): 15 min without a COMMAND or WRITE frame. -/
def execSessionInactivity (scope : Fin 3) (s : State) : Host.Outcome State Fault Refusal :=
  .next (if s.gate.sessions[scope].any (fun t => decide (t + 900000000 ≤ s.clk)) then endSessions s (2 ^ scope.val) (some 3) else s)

end Sys2Proof.Machine
end

