-- ==== Sys2Proof/Machine/Keystone.lean ====
section
/-! DEFINITION. Keystone's detectors and the clearing of fault codes (20). -/

namespace Sys2Proof.Machine

/-! Reference vote (R751 - R753). -/

/-- A ratio has moved by more than 0.1 %, or by less than 0.05 % (in ppm). -/
def moved (x : Int) : Bool := 1000 < x.natAbs
def steady (x : Int) : Bool := x.natAbs < 500

/-- Bandgap A, bandgap B and the coarse reference are outvoted in one measurement of the ratios A/B, A/C, B/C. -/
def votesA (v : Int × Int × Int) : Bool := moved v.1 && moved v.2.1 && steady v.2.2
def votesB (v : Int × Int × Int) : Bool := moved v.1 && moved v.2.2 && steady v.2.1
def votesC (v : Int × Int × Int) : Bool :=
  moved v.2.1 && moved v.2.2 && decide (0 < v.2.1) == decide (0 < v.2.2) && steady v.1

/-- All of ten measurements in a row. -/
def tenOf (l : List (Int × Int × Int)) (p : Int × Int × Int → Bool) : Bool := l.length == 10 && l.all p

/-- The vote over the last ten measurements: 0x09 when a reference is outvoted, 0x0A when A and B differ and neither is (R751). -/
def takeVote (s : State) (v : Int × Int × Int) : State :=
  let l := (v :: s.ks.votes).take 10
  let a := tenOf l votesA
  let b := tenOf l votesB
  let c := tenOf l votesC
  let k := s.ks
  let s := { s with ks := { k with votes := l, outA := k.outA || a, outB := k.outB || b, outC := k.outC || c } }
  let s := if moved v.1 then noteSeen s 0x0A else s
  let s := if a || b || c then declareOpen s 0x09 true else s
  if tenOf l (fun v => moved v.1) && !s.ks.outA && !s.ks.outB then declareOpen s 0x0A false else s

/-- REFIN in use: lost beyond 0.2 % of the voted reference or outside 2.45 - 2.55 V, valid again after 1 s within 0.1 % (R753). -/
def takeRefin (s : State) (ppm microvolt : Int) : State :=
  let range := decide (2450000 ≤ microvolt) && decide (microvolt ≤ 2550000)
  let good := range && decide (ppm.natAbs ≤ 1000)
  let n := if good then min 100 (s.ks.refinIn + 1) else 0
  let s := { s with ks := { s.ks with refinIn := n } }
  if !range || 2000 < ppm.natAbs then declareOpen { s with ks := { s.ks with refinLost := true } } 0x0B true
  else if s.ks.refinLost && n = 100 then
    let s := { s with ks := { s.ks with refinLost := false } }
    if s.ks.injected.contains 0x0B then s else clearFault s 0x0B
  else s

/-- REFERENCE_VOTE (R751 - R753): every 10 ms. -/
def execReferenceVote (o : VoteObs) (s : State) : Host.Outcome State Fault Refusal :=
  if !isRunning s || s.clk < s.ks.voteClk + 10000 then .next s
  else
    let s := { s with ks := { s.ks with voteClk := gridClk s s.ks.voteClk 10000 } }
    let s := takeVote s (o.ab, o.ac, o.bc)
    .next (if cfgRefin s then takeRefin s o.refinPpm o.refinMicrovolt else s)

/-! Clocks. -/

/-- A ratio has moved by more than 2 % within the window. -/
def drifted (x : Int) : Bool := 20000 < x.natAbs

/-- CLOCK_CROSS_COUNT (R754): in each window of 1 ms; with XTAL32 the clock that disagrees with both others; without it 0x07, or 0x06 when KCLK/SYSCLK lies more
than 6 % off nominal. A KCLK that counts ends the AO detector's hold on FAULTn (R742). -/
def execClockCrossCount (o : ClockObs) (s : State) : Host.Outcome State Fault Refusal :=
  if !s.supply.coreRunning || s.clk < s.ks.countClk + 1000 then .next s
  else
    let s := { s with ks := { s.ks with countClk := gridClk s s.ks.countClk 1000 } }
    let far := decide (60000 < o.kOverSNominal.natAbs)
    let ks := drifted o.kOverS
    let kr := drifted o.kOverR
    let sr := drifted o.sOverR
    let x := s.time.xtal
    let s := if far then s else { s with ks := { s.ks with kclkLost := false } }
    let s := if x && ks && sr then declareOpen s 0x04 false else s
    let s := if x && kr && sr then declareOpen s 0x05 false else s
    let s := if far || (x && ks && kr) then declareOpen s 0x06 false else s
    .next (if !x && ks && !far then declareOpen s 0x07 false else s)

/-- KCLK_LOSS (R742): the AO detector forces FAULTn low; code 0x06. -/
def execKclkLoss (s : State) : Host.Outcome State Fault Refusal :=
  if !s.supply.coreRunning then .next s
  else .next (declareOpen { s with ks := { s.ks with kclkLost := true } } 0x06 false)

/-! Tests. -/

/-- The copies of Keystone disagree (code 0x03): which of them drives FAULTn by itself is a free value (R741, log 150). -/
def copiesDiffer (s : State) : State :=
  let (a, s) := drawFree s
  declareOpen { s with ks := { s.ks with copyLow := #v[a.getLsbD 0, a.getLsbD 1] } } 0x03 false

/-- TEST_PATTERN (R755): every 10 ms; a failing unit is declared under its code. -/
def execTestPattern (fails : BitVec 3) (s : State) : Host.Outcome State Fault Refusal :=
  if !isRunning s || s.clk < s.ks.patternClk + 10000 then .next s
  else
    let s := { s with ks := { s.ks with patternClk := gridClk s s.ks.patternClk 10000 } }
    let s := if fails.getLsbD 0 then declareOpen s 0x01 false else s
    let s := if fails.getLsbD 1 then declareOpen s 0x02 false else s
    .next (if fails.getLsbD 2 then copiesDiffer s else s)

/-- STARTUP_TESTS_COMPLETE (R155, R759): a failure is code 0x1B with the test number; a start whose tests pass clears it. -/
def execStartupTestsComplete (failed : Option (Fin 7)) (s : State) : Host.Outcome State Fault Refusal :=
  if !isRunning s || s.ks.started then .next s
  else
    let s := { s with ks := { s.ks with started := true } }
    match failed with
    | none => .next (if faultActive s 0x1B then clearFault s 0x1B else s)
    | some n => .next (declare s 0x1B (n.val + 1) false)

/-! Clearing (table Keystone fault codes). -/

/-- How long the condition of a code must have been gone before the code clears, in microseconds (column Clears). -/
def clearUs (code : Fin 28) : Nat :=
  match code.val with
  | 0x01 | 0x02 | 0x03 | 0x0A | 0x1A => 10000000
  | 0x04 | 0x05 | 0x06 | 0x07 => 1000000
  | 0x0E | 0x0F | 0x10 | 0x16 => 1000
  | _ => 0

/-- That time is over: counted from the last time the detector saw the fault, and afresh from handover (R767). -/
def clearDue (s : State) (code : Fin 28) : Bool := decide (max s.ks.seen[code] s.modes.handoverClk + clearUs code ≤ s.clk)

/-- The state bears out that a code's condition has ended (column Clears): a clock that stands still is not within tolerance. Codes that only a reset
or another command clears are not cleared by time: 0x08 by a full scrub pass alone, 0x13 - 0x15 and 0x1B by a reset or a start. -/
def clearable (s : State) (code : Fin 28) : Bool :=
  match code.val with
  | 0x01 | 0x02 | 0x03 | 0x0A | 0x16 | 0x1A => true
  | 0x04 | 0x07 => s.time.sysclk
  | 0x05 => rtcRuns s
  | 0x06 => !s.ks.kclkLost
  | 0x0B => !s.ks.refinLost || !cfgRefin s
  | 0x0C => s.ks.badPaths == 0
  | 0x0D => 2 ≤ s.ks.passes
  | 0x0E => !s.spill.aFault && !s.spill.bFault
  | 0x0F => !s.spill.fFault
  | 0x10 => s.supply.vratio && s.spill.aout.toList.all fun o => !o.differs
  | 0x11 => s.mox.toList.all fun m => m.fault.isNone
  | 0x12 => switchesOn s
  | 0x17 => s.ks.lostPods == []
  | 0x18 => s.course.break0 == 0xFF && s.course.break1 == 0xFF && s.ks.oldBreaks == []
  | 0x19 => s.ks.podFaults == []
  | _ => false

/-- What ends with a code besides its bit: the copies agree again, no supply stands above 3.6 V, the ratio outputs leave the fault band. -/
def clearedState (s : State) (code : Fin 28) : State :=
  match code.val with
  | 0x03 => { s with ks := { s.ks with copyLow := Vector.replicate 2 false } }
  | 0x10 => aoutsChanged { s with spill := { s.spill with aout := s.spill.aout.map fun o => { o with fault := false } } }
  | 0x16 => { s with supply := { s.supply with above36 := false } }
  | _ => s

/-- FAULT_CLEAR (R744, R767): a code whose clearing condition has held for its time clears; an injected one ends with its own second. -/
def execFaultClear (code : Fin 28) (s : State) : Host.Outcome State Fault Refusal :=
  if !isRunning s || !faultActive s code || s.ks.injected.contains code || !clearable s code || !clearDue s code then .next s
  else .next (clearFault (clearedState s code) code)

/-! Injection (R762). -/

/-- A code that can be injected: listed, and not one of 0x17 - 0x1B. -/
def injectable (c : Nat) : Bool := 1 ≤ c && c ≤ 0x16

/-- Codes whose handling is masking (column Handling). -/
def maskedCode (c : Nat) : Bool := c == 0x09 || c == 0x0B || c == 0x13 || c == 0x14 || c == 0x15

/-- The detector of a code sees its fault once: recorded, raised and logged as a real one, without masking action or SAFE entry. The
arguments the spec does not state for it are free values (log 8). -/
def injectFault (s : State) (code : Fin 28) : State :=
  if faultActive s code then s
  else
    let (a, s) := drawFree s
    let ev := if faultEvent code = 3 then code.val else a.toNat % 65536
    let s := recordFault s code (a.toNat % 65536) ev (maskedCode code.val)
    { s with ks := { s.ks with injected := s.ks.injected ++ [code], injectClk := s.ks.injectClk.set code.val s.clk } }

/-- INJECTION_EXPIRY (R762): the oldest injected fault has been active for 1 s; in a reset it stays active in AO (R767; log 125). -/
def execInjectionExpiry (s : State) : Host.Outcome State Fault Refusal :=
  match s.ks.injected with
  | [] => .next s
  | c :: l =>
    if !isRunning s || s.clk < s.ks.injectClk[c] + 1000000 then .next s
    else .next (clearFault { s with ks := { s.ks with injected := l } } c)

end Sys2Proof.Machine
end

