-- ==== Sys2Proof/Machine/LinkTest.lean ====
section
/-! DEFINITION. Link pattern generators and checkers, remote link tests, the host port and flash checks (22). -/

namespace Sys2Proof.Machine

/-! Ports under test. -/

/-- A port's control byte is set. Switching a checker on, or changing the pattern of one that is on, starts its counts afresh; they stay
when it is switched off (R799). A generator that begins a pattern starts where `w` says: the spec states no first register (log 122). Without
generator and checker no timed test is left. -/
def putControl (c : Byte) (w : Nat) (q : Port) : Port :=
  let begins (bit : Nat) : Bool := c.getLsbD bit && (!q.control.getLsbD bit || q.control.toNat % 8 != c.toNat % 8)
  let q := if begins 4 then { q with errors := 0, bits := 0, locked := false, threshold := false, check := 0 } else q
  let n := 2 ^ (prbsTaps (c.toNat % 8)).1
  let q := if begins 3 then { q with gen := 1 + w % (n - 1) } else q
  { q with control := c, timed := q.timed && (c.getLsbD 3 || c.getLsbD 4) }

/-- The control byte of port `p` is set. -/
def setControl (s : State) (p : Fin 2) (c : Byte) : State :=
  let (w, s) := drawFree s
  { s with course := { s.course with ports := vmod s.course.ports p (putControl c w.toNat) } }

/-- The checker of a port is on and locked: only then it compares and counts (R798). -/
def checking (q : Port) : Bool := q.control.getLsbD 4 && q.locked

/-- The count with `e` more reaches the error threshold, for the first time in the test (R803). -/
def reachesThreshold (s : State) (q : Port) (e : BitVec 32) : Bool :=
  checking q && !q.threshold && cfgErrorThreshold s != 0 && cfgErrorThreshold s ≤ q.errors.toNat + e.toNat

/-- Bit errors and code violations since the last report of a locked checker enter its count, which wraps (R798); with the one that reaches the
threshold the threshold bit is set and EV29 raised (R803, R817). -/
def addErrors (s : State) (p : Fin 2) (e : BitVec 32) : State :=
  let q := s.course.ports[p]
  if !checking q then s
  else
    let m := reachesThreshold s q e
    let t := { s with course := { s.course with ports := vmod s.course.ports p fun q => { q with errors := q.errors + e, threshold := q.threshold || m } } }
    if m then raise t 29 (8 + p.val) else t

/-- Control byte of a test with generator and checker. -/
def bothOn (pattern : Byte) : Byte := pattern ||| 0x18

/-- The port is in a test (R804, R821). -/
def inTest (s : State) (p : Fin 2) : Bool := underTest s.course.ports[p] || s.course.ports[p].timed

/-- The pattern a command names, 0 the default of section 0x13. -/
def patternOf (s : State) (n : Nat) : Byte := BitVec.ofNat 8 (if n = 0 then cfgTestPattern s else n)

/-- Port of a number. -/
def portNo (n : Nat) : Fin 2 := if n = 0 then 0 else 1

/-- TIMED_LOCAL_TEST (R804). -/
def execTimedLocalTest (f : HostFrame) (s : State) : Host.Outcome State Fault Refusal :=
  .next (commandFrame s f 0x28 [] (argCount 8) fun s a =>
    let p := portNo (u8 a 0)
    let d := u32 a 4
    if !hasDiag s then (stLocked, s)
    else if 1 < u8 a 0 || 3 < u8 a 1 || u8 a 2 = 0 || 3 < u8 a 2 || u8 a 3 != 0 || d = 0 || cfgTestMax s < d || !portUsed s p then (stBadArg, s)
    else if inTest s p then (stBusy, s)
    else
      let s := setControl s p (patternOf s (u8 a 1) ||| BitVec.ofNat 8 (8 * u8 a 2))
      (stOk, { s with course := { s.course with ports := vmod s.course.ports p fun q => { q with timed := true, timedEnd := s.clk + 1000 * d } } }))

/-- TIMED_TEST_END (R804, R817): the duration is over; the control returns to 0, EV29. -/
def execTimedTestEnd (port : Fin 2) (errors : BitVec 32) (s : State) : Host.Outcome State Fault Refusal :=
  if s.course.ports[port].timed && s.course.ports[port].timedEnd ≤ s.clk then .next (raise (setControl (addErrors s port errors) port 0) 29 port.val) else .next s

/-- STOP_ALL_TESTS (R805, R812). -/
def execStopAllTests (f : HostFrame) (s : State) : Host.Outcome State Fault Refusal :=
  .next (commandFrame s f 0x29 [] (argCount 4) fun s a =>
    if !hasDiag s then (stLocked, s)
    else if !zeros a 0 4 then (stBadArg, s)
    else (stOk, abortRemote (stopLinkTests s)))

/-- Received bits, oldest first, that load a checker's register and then match its prediction 64 times (R797, R798). -/
def lockRun (t : Nat × Nat) (rx : List Bool) : Bool :=
  let bitAt (i : Nat) : Bool := rx.getD i false
  t.1 != 0 && rx.length == t.1 + 64 && (List.range 64).all fun i => bitAt (t.1 + i) == (bitAt i != bitAt (t.1 + i - t.2))

/-- The register that received bits leave, the last one in bit 0. -/
def registerOf (n : Nat) (rx : List Bool) : Nat := (rx.drop (rx.length - n)).foldl (fun a b => 2 * a + b.toNat) 0

/-- CHECKER_LOCK (R797, R798): a checker that is on locks after 64 bits that match; its register holds the last ones. -/
def execCheckerLock (port : Fin 2) (rx : List Bool) (s : State) : Host.Outcome State Fault Refusal :=
  let f (q : Port) : Port :=
    let t := prbsTaps (q.control.toNat % 8)
    if q.control.getLsbD 4 && lockRun t rx then { q with locked := true, check := registerOf t.1 rx } else q
  .next { s with course := { s.course with ports := vmod s.course.ports port f } }

/-- Bits set in a word. -/
def onesIn {n : Nat} (w : BitVec n) : Nat := ((List.range n).filter w.getLsbD).length

/-- CHECKER_LOCK_LOSS (R798): 16 or more of 64 bits mismatch; the errors counted up to it stand; the register reloads. -/
def execCheckerLockLoss (port : Fin 2) (errors : BitVec 32) (window : BitVec 64) (s : State) : Host.Outcome State Fault Refusal :=
  let p := s.course.ports[port]
  if p.control.getLsbD 4 && p.locked && 16 ≤ onesIn window then
    let s := addErrors s port errors
    .next { s with course := { s.course with ports := vmod s.course.ports port fun q => { q with locked := false } } }
  else .next s

/-- ERROR_THRESHOLD (R803, R817): the count has reached the threshold: the threshold bit and EV29, once for the test. -/
def execErrorThreshold (port : Fin 2) (errors : BitVec 32) (s : State) : Host.Outcome State Fault Refusal :=
  .next (if reachesThreshold s s.course.ports[port] errors then addErrors s port errors else s)

/-! Remote link tests. -/

/-- The near end of a link: 0 the head, or the joined pod one link count nearer (R806). -/
def nearEnd (s : State) (side : Fin 2) (l : Byte) : Option Byte :=
  if l = 1 then some 0
  else ((s.course.nodes.filter fun n => n.state == .joined).find? fun n => linkOf n side + 1 == l && n.addr != 0).map (·.addr)

/-- A remote test as scheduled (R806, R807). -/
def remoteFor (node : Byte) (side : Fin 2) (pattern : Byte) (duration : BitVec 32) (near : Byte) : RemoteTest :=
  { node := node, side := side, pattern := pattern, duration := duration, toStart := 3, running := false, near := near
    port := if near = 0 then some side else none, ackFar := false, ackNear := near == 0, doneFar := false, doneNear := near == 0
    wasRing := false }

/-- REMOTE_LINK_TEST (R806, R807, R669). -/
def execRemoteLinkTest (f : HostFrame) (s : State) : Host.Outcome State Fault Refusal :=
  .next (commandFrame s f 0x2A [] (argCount 8) fun s a =>
    let d := u8 a 0
    let side := portNo (u8 a 1)
    let ms := u32 a 4
    if !hasDiag s then (stLocked, s)
    else if s.role != .head || inSafe s then (stNotInMode, s)
    else
      match s.course.nodes.find? fun n => n.addr.toNat == d with
      | none => (stUnknownVcn, s)
      | some n =>
        let l := linkOf n side
        let near := nearEnd s side l
        if n.state = .parkedIncompatible then (stIncompatible, s)
        else if n.state != .joined || (l != 0 && near.isNone) then (stUnknownVcn, s)
        else if s.course.remote.isSome then (stBusy, s)
        else if 1 < u8 a 1 || 3 < u8 a 2 || u8 a 3 != 0 || l = 0 || ms = 0 || cfgTestMax s < ms then (stBadArg, s)
        else
          let t := remoteFor n.addr side (patternOf s (u8 a 2)) (f32At a 4) (near.getD 0)
          (stOk, { s with course := { s.course with remote := some t } }))

/-- The end of the link this node is runs generator and checker for the remote test, which takes the place of a local one (R808). -/
def runEnd (s : State) (t : RemoteTest) : State :=
  match t.port with
  | none => s
  | some p => setControl { s with course := { s.course with ports := vmod s.course.ports p fun q => { q with timed := false } } } p (bothOn t.pattern)

/-- The moment of the start has come: at the head that of the third sweep, at a pod the Plumb time that LT_START gave (R807). -/
def remoteStarts (s : State) (t : RemoteTest) : Bool :=
  match s.role with
  | .head => t.toStart == 0
  | .pod => t.startAt ≤ time56 (plumbNow s)

/-- In a linear chain, the side and the link count from which a remote test cuts pods off (R810). -/
def cutOff (s : State) (t : RemoteTest) : Option (Fin 2 × Byte) :=
  if s.role = .head ∧ !t.wasRing then (s.course.nodes.find? fun n => n.addr == t.node).map fun n => (t.side, linkOf n t.side) else none

/-- REMOTE_TEST_START (R807 - R810, R812). -/
def execRemoteTestStart (s : State) : Host.Outcome State Fault Refusal :=
  match s.course.remote with
  | none => .next s
  | some t =>
    if t.running || !remoteStarts s t then .next s
    else if s.role = .head && !(t.ackFar && t.ackNear) then .next (abortRemote s)
    else
      let t := { t with running := true, startClk := s.clk }
      .next (runEnd { s with course := { s.course with remote := some t, testLink := cutOff s t } } t)

/-- The end of the link this node is returns to service; its counts stay (R813). -/
def stopEnd (s : State) (t : RemoteTest) (errors : BitVec 32) : State :=
  match t.port with
  | none => s
  | some p => setControl (addErrors s p errors) p 0

/-- EV29 once both ends of a test that is over are done (R813). -/
def remoteDone (s : State) : State :=
  match s.course.testDone with
  | none => s
  | some t => if t.doneFar && t.doneNear then raise { s with course := { s.course with testDone := none } } 29 (4 + 256 * t.node.toNat) else s

/-- LT_DONE payload (22). -/
def ltDonePayload (s : State) (t : RemoteTest) : List Byte :=
  match t.port with
  | none => []
  | some p =>
    let q := s.course.ports[p]
    [t.node, if q.locked then 1 else 0, 0, 0] ++ toLE 4 q.errors.toNat ++ toLE 6 q.bits.toNat ++ [0, 0]

/-- REMOTE_TEST_END (R807, R809, R813): the duration is over: each end returns to service, a pod that is
not parked sends LT_DONE (R606), the head closes the ring again from the next sweep. -/
def execRemoteTestEnd (errors : BitVec 32) (s : State) : Host.Outcome State Fault Refusal :=
  match s.course.remote with
  | none => .next s
  | some t =>
    if !t.running || s.clk < t.startClk + 1000 * t.duration.toNat then .next s
    else
      let s := stopEnd s t errors
      match s.role with
      | .head =>
        let s := closeRingAgain s t
        .next (remoteDone { s with course := { s.course with remote := none, testDone := some { t with running := false, toStart := 0 } } })
      | .pod =>
        let s := { s with course := { s.course with remote := none } }
        .next (if s.course.pod.phase = 3 then s else originate s [sidePort s.course.pod 0] 0x2B 0 2 0 (ltDonePayload s t))

/-- The port of this pod that is an end of the link: the far end faces the side, the near end turns away from it. -/
def podEnd (s : State) (near : Bool) (d : Byte) (side : Fin 2) : Option (Fin 2) :=
  let p := s.course.pod
  if p.addr = d then facing p side else if near then (facing p side).map otherPort else none

/-- LT_START at a pod (R620, R632, R808, R814). `near`: this pod is the near end. -/
def execLtStart (near : Bool) (r : CourseRx) (s : State) : Host.Outcome State Fault Refusal :=
  .next (podRx s 0x28 r fun s =>
    let p := r.payload
    let d := b8 p 0
    let side := portNo (u8 p 1)
    let out := sidePort s.course.pod r.port
    let nak (c : Byte) : State := originate s [out] 0x26 0 2 0 [0x28, c, 0, 0]
    match podSweeps s, podEnd s near d side with
    | true, some q =>
      if cfgNoRemote s then nak stLocked
      else if u8 p 2 = 0 || 3 < u8 p 2 then nak stBadArg
      else if inTest s q then nak stBusy
      else
        let t := { (remoteFor d side (b8 p 2) (f32At p 12) 0) with port := some q, startAt := le p 4 6 + 2 ^ 48 * u8 p 10 }
        originate { s with course := { s.course with remote := some t } } [out] 0x29 0 2 0 [d, 0, 0, 0]
    | _, _ => s)

/-- LT_ACK at the head (R812). -/
def execLtAck (r : CourseRx) (s : State) : Host.Outcome State Fault Refusal :=
  .next (headRx s 0x29 r fun s => fromJoined s r fun s n =>
    match s.course.remote with
    | none => s
    | some t =>
      if t.running || b8 r.payload 0 != t.node then s
      else
        { s with course := { s.course with
          remote := some { t with ackFar := t.ackFar || n.addr == t.node, ackNear := t.ackNear || n.addr == t.near } } })

/-- LT_ABORT at an end (R812, R814). -/
def execLtAbort (r : CourseRx) (s : State) : Host.Outcome State Fault Refusal :=
  .next (podRx s 0x2A r fun s =>
    match s.course.remote with
    | none => s
    | some t => if t.node = b8 r.payload 0 then freeRemotePort { s with course := { s.course with remote := none } } t else s)

/-- An end of a link is done. -/
def noteDone (a : Byte) (t : RemoteTest) : RemoteTest := { t with doneFar := t.doneFar || a == t.node, doneNear := t.doneNear || a == t.near }

/-- LT_DONE at the head (R813), of the test that is over or of one whose end the head has not yet reached. -/
def execLtDone (r : CourseRx) (s : State) : Host.Outcome State Fault Refusal :=
  .next (headRx s 0x2B r fun s => fromJoined s r fun s n =>
    let c := s.course
    let mine (t : RemoteTest) : Bool := b8 r.payload 0 == t.node
    if c.testDone.any mine then remoteDone { s with course := { c with testDone := c.testDone.map (noteDone n.addr) } }
    else if c.remote.any fun t => t.running && mine t then { s with course := { c with remote := c.remote.map (noteDone n.addr) } }
    else s)

/-! Host port and flash checks. -/

/-- One step of the PRBS15 generator. -/
def prbs15Step (r : Nat) : Nat := prbsStep (15, 14) r

/-- Eight outputs, least significant first, and the register after them. -/
def prbs15Byte (r : Nat) : Nat × Nat :=
  (List.range 8).foldl (fun (a : Nat × Nat) i => let r' := prbs15Step a.2
    (a.1 + r' % 2 * 2 ^ i, r')) (0, r)

/-- `n` bytes of the generator (R815). -/
def prbs15 : Nat → Nat → List Byte
  | 0, _ => []
  | n + 1, r => let (b, r') := prbs15Byte r
    BitVec.ofNat 8 b :: prbs15 n r'

/-- Offsets at which two byte lists differ. -/
def diffAt (a b : List Byte) : List Nat := (List.range a.length).filter fun i => b8 a i != b8 b i

/-- Host check word (R815). -/
def hostCheckWord (old : BitVec 32) (seed : Nat) (pat : List Byte) : BitVec 32 :=
  let d := diffAt pat (prbs15 pat.length seed)
  let checks := (old.toNat / 2 ^ 24 + 1) % 256
  BitVec.ofNat 32 (pat.length + 256 * d.length + 65536 * (d.head?.getD 0xFF) + 2 ^ 24 * checks)

/-- HOST_PORT_CHECK (R815): 8 - 244 pattern bytes; no session. -/
def execHostPortCheck (f : HostFrame) (s : State) : Host.Outcome State Fault Refusal :=
  .next (commandFrame s f 0x2B [] (fun n => 16 ≤ n && n ≤ 252) fun s a =>
    let seed := u32 a 4 % 32768
    if !zeros a 0 4 || seed = 0 then (stBadArg, s)
    else (stOk, { s with link := { s.link with hostCheck := hostCheckWord s.link.hostCheck seed (a.drop 8) } }))

/-- Number of a read mode (identity page). -/
def readModeNo : ReadMode → Nat
  | .baseline => 0
  | .single => 1
  | .dual => 2
  | .quad => 3

/-- FLASH_CHECK (R816). -/
def execFlashCheck (f : HostFrame) (s : State) : Host.Outcome State Fault Refusal :=
  .next (commandFrame s f 0x2C [] (argCount 4) fun s a =>
    if !zeros a 0 4 then (stBadArg, s)
    else if s.role != .head || s.config.isNone then (stNotInMode, s)
    else if s.cal.stage != .idle || s.link.flashRunning then (stBusy, s)
    else (stOk, { s with link := { s.link with flashRunning := true } }))

/-- A Render write that waited for the flash check begins (R816). -/
def startWaitingWrite (s : State) : State :=
  if s.cal.waiting then { s with cal := { s.cal with waiting := false, stage := .erasing, stageClk := s.clk } } else s

/-- The configuration copy in use as one read mode got it: the flash's bytes, but for those that differ. -/
def copyAsRead (s : State) (diff : List (Nat × Byte)) : List Byte :=
  match s.boot.configSlot.bind fun i => s.boot.slots[i.val] with
  | none => []
  | some x => fixBytes (flashRead s.flash x.1 s.boot.configLen) diff

/-- Bit m of the flash check word: mode m read the copy with a correct image CRC (R816). -/
def checkPassed (s : State) (reads : Vector (List (Nat × Byte)) 4) : Nat := flags8 ((List.finRange 4).map fun m => imageCrcOk (copyAsRead s reads[m]))

/-- FLASH_CHECK_COMPLETE (R816, R817): every mode up to the one in use was read; EV29. -/
def execFlashCheckComplete (reads : Vector (List (Nat × Byte)) 4) (duration : BitVec 16) (s : State) : Host.Outcome State Fault Refusal :=
  if !s.link.flashRunning then .next s
  else
    let tried : Nat := 2 ^ (readModeNo s.boot.readMode + 1) - 1
    let w := checkPassed s reads % (tried + 1) + 16 * tried + 65536 * duration.toNat
    let s := { s with link := { s.link with flashRunning := false, flashCheck := BitVec.ofNat 32 w } }
    .next (raise (startWaitingWrite s) 29 3)

end Sys2Proof.Machine
end

