-- ==== Sys2Proof/Machine/Registers.lean ====
section
/-! DEFINITION. The register pages (18): each a list of fields, an offset from the page base with its bytes; what no field lists reads 0
(R663, R695). -/

namespace Sys2Proof.Machine

/-- A field: offset and bytes. -/
abbrev Field := Nat × List Byte

/-- Fields of 1, 2, 4 and 6 bytes. -/
def f1 (o v : Nat) : Field := (o, [BitVec.ofNat 8 v])
def f2 (o v : Nat) : Field := (o, toLE 2 v)
def f4 (o v : Nat) : Field := (o, toLE 4 v)
def f6 (o v : Nat) : Field := (o, toLE 6 v)
def fPlumb (o : Nat) (t : Count48 × Byte) : Field := (o, plumbBytes t)

/-- A signed field of `n` bytes. -/
def fInt (n : Nat) (o : Nat) (v : Int) : Field := (o, toLE n (v % (2 ^ (8 * n) : Nat)).toNat)

/-- `n` bytes of a payload at `o`; bytes beyond its end read 0. -/
def bytesAt (p : List Byte) (o n : Nat) : List Byte := (List.range n).map fun i => p.getD (o + i) 0

/-- 16-bit counts from an offset on, and the sticky flags of R700 in their order. -/
def countFields (o : Nat) (l : List (BitVec 16)) : Field := (o, l.flatMap fun c => toLE 2 c.toNat)
def stickies (l : List (BitVec 16)) : Nat := flags8 (l.map (· == 0xFFFF))

/-- Whole seconds until a clk, begun ones counted. -/
def secondsLeft (s : State) (until_ : Nat) : Nat := (until_ - s.clk + 999999) / 1000000

/-- Whole seconds since a clk. -/
def secondsSince (s : State) (t : Nat) : Nat := (s.clk - t) / 1000000

/-! The pages. -/

/-- Boot fields of the identity page, filled at handover (R703). -/
def bootFields (s : State) : List Field :=
  let b := s.boot
  [(0x30, b.outcomes.toList), f2 0x36 b.warnings.toNat, f4 0x38 b.configSeq.toNat, f1 0x3E (stickies [b.warnings]),
   f4 0x40 ((b.mere.map fun m => m.sequence.toNat).getD 0xFFFFFFFF), f4 0x44 b.patchSeq.toNat, f4 0x48 b.duration.toNat]

/-- Identity page; every field reads 0 before IDVALID (R703). -/
def identityPage (s : State) : List Field :=
  let b := s.boot
  let c := s.cornerstone
  if !b.idValid then []
  else
    [f2 0 0x4812, f1 2 (flags8 [true, s.role == .pod, b.sfdp, b.backupAnchor, b.fourByte]), (3, [c.stepping]), f2 4 c.rom.toNat,
     f1 6 (readModeNo b.readMode), (7, [b.density]), (8, toLE 8 c.uniqueId.toNat), (0x10, containerCode s),
     (0x1C, bytesAt (sec s 1) 12 16), f4 0x2C (configId s)] ++ if b.reported then bootFields s else []

/-- Alarm pin bits of view 0x00 (R421, R842). -/
def pinByte (s : State) : Nat :=
  let p := s.spill
  flags8 [pinUsed s 0 && (p.aLow != pinInv s 0), p.aReadLow, pinUsed s 1 && (p.bLow != pinInv s 1), p.bReadLow, p.aFault, p.bFault]

/-- State code of a ratio output. -/
def ratioCode (o : Aout) : Nat := if !o.driven then 0 else if o.code = lowBand then 2 else if o.code = highBand then 3 else 1

/-- View 0x00. -/
def viewGeneral (s : State) : List Field :=
  let r := s.cal.render
  let a := s.spill.aout
  let sector : Nat := (r.map fun c => c.sector.val).getD 0
  [f1 0x10 (flags8 [renderAvailable s, sector == 1, r.isSome]), f2 0x12 ((r.map fun c => c.entries.length).getD 0),
   f4 0x14 ((r.map fun c => c.sequence.toNat).getD 0), f2 0x18 (mismatchCount s), f1 0x1A (pinByte s),
   f1 0x1B (ratioCode a[0] + 4 * ratioCode a[1] + 16 * flags8 [a[0].fault, a[1].fault]),
   f2 0x1C a[0].code.toNat, f2 0x1E a[1].code.toNat, f2 0x20 a[0].readback.toNat, f2 0x22 a[1].readback.toNat]

/-- An electrochemical channel of view 0x01; an absent one reads 0. -/
def ecView (s : State) (n : Fin 8) : List Field :=
  let c := s.ec[n]
  let o := 0x10 + 16 * n.val
  let w (k : Nat) : Nat := match s.weirs[2 * n.val + k]? with
    | some x => x.range.val
    | none => 0
  if !ecPresent s n then []
  else
    [fInt 4 o c.target, fInt 4 (o + 4) c.dac, f1 (o + 8) (w 0 + 4 * w 1),
     f1 (o + 9) (flags8 [isActive s && c.enabled && c.stage != .cold && c.dac != c.target, c.compliance, c.zMagOut, c.zPhaseOut, c.zOpen]),
     f2 (o + 10) ((c.warmUntil.map (secondsLeft s)).getD 0)]

/-- A MOX channel of view 0x01. -/
def moxView (s : State) (n : Fin 6) : List Field :=
  let m := s.mox[n]
  let o := 0x90 + 8 * n.val
  let warm : Nat := match m.warmPending, m.warmUntil with
    | some k, _ => k
    | none, some t => secondsLeft s t
    | none, none => 0
  if !moxPresent s n then []
  else
    [f1 o m.step, f1 (o + 1) (flags8 [m.override != .none, m.inReg, m.capped, moxShed s n]), f2 (o + 2) (ratRNE (m.duty * 1000)).toNat,
     f1 (o + 4) ((m.fault.map heaterFaultCode).getD (if s.rail.lockout then 4 else 0)), f2 (o + 6) warm]

/-- Rule 16 b + i of a rule bank; a rule at or above the count reads 0. -/
def ruleView (s : State) (b : Nat) (i : Nat) : List Field :=
  let k := 16 * b + i
  let o := 0x10 + 12 * i
  match s.spill.rules[k]? with
  | none => []
  | some r =>
    if ruleCount s ≤ k then []
    else
      [f1 o (ruleCode r.state + 16 * flags8 [inStance r.state, r.state == .invalid, r.transitions == 0xFFFF]), f1 (o + 1) r.setCount,
       f1 (o + 2) r.clearCount, f4 (o + 4) r.last.toNat, f2 (o + 8) r.filled.toNat, f2 (o + 10) r.transitions.toNat]

/-- The window that VIEW selects (R698). -/
def viewFields (s : State) : List Field :=
  match s.host.view.toNat with
  | 0 => viewGeneral s
  | 1 => (List.finRange 8).flatMap (ecView s) ++ (List.finRange 6).flatMap (moxView s)
  | v => (List.range 16).flatMap (ruleView s (v - 2))

/-- Status page. -/
def statusPage (s : State) : List Field :=
  let p := s.supply
  [(0, [s.host.view]), (2, [s.modes.resetCause]), f1 3 (flags8 [crcRequired s, cfgPushPull s, cfgSafety s]), f2 4 s.modes.warmResets.toNat,
   f1 6 (flags8 [p.vdd, p.vdda, p.vddio, p.vin, p.vratio, p.above36]), f1 7 (stickies [s.modes.warmResets]),
   f4 8 (secondsSince s s.modes.handoverClk)] ++ viewFields s

/-- Events page. -/
def eventsPage (s : State) : List Field :=
  let e := s.events
  [f4 0 e.pending.toNat, f4 4 e.queueMask.toNat, f4 8 e.irqMask.toNat, f2 0xC e.queue.length, f1 0xE (flags8 [e.overflow]),
   f2 0x10 e.lost.toNat, f4 0x14 (stickies e.counts.toList), countFields 0x20 e.counts.toList]

/-- Code of a mode that may be absent. -/
def modeByte (m : Option Mode) : Nat := (m.map fun x => (modeCode x).toNat).getD 0xFF

/-- Mode and commands page. -/
def modePage (s : State) : List Field :=
  let m := s.modes
  let c := s.cal
  [f1 0 (modeCode m.mode).toNat, f1 1 (modeByte (pendingMode s)), f2 2 m.causes.toNat, (4, [m.oldMode]),
   f1 5 (modeCode m.newMode).toNat, (6, [m.lastCause]), fPlumb 8 m.lastTime, f1 0x10 (modeByte m.record), f1 0x11 (flags8 [m.thermalLatch]),
   (0x12, [s.host.lastCmd]), (0x13, [s.host.lastStatus]), (0x20, [c.lastKind]), (0x21, [c.outcome]), f2 0x22 c.lastVcn.toNat,
   f1 0x24 (flags8 [c.writeFailed, c.run.isSome, c.pending.isSome]), f4 0x28 c.mFirst.toNat, f4 0x2C c.mLast.toNat,
   f4 0x30 c.drift.toNat, f4 0x34 c.ratio.toNat, f2 0x38 c.failCross.toNat, f2 0x3C ((c.pending.map fun p => p.1.toNat).getD 0xFFFF)]

/-- Code of a timebase state. -/
def timeCode : TimeState → Nat
  | .free => 0
  | .pps => 1
  | .chain => 2
  | .host => 3
  | .holdover => 4

/-- The phase error field (R849). -/
def phaseShown (t : Time) : Int :=
  match t.state with
  | .pps | .chain => t.phaseErr
  | .host => if t.slew.isSome then t.phaseErr else 0
  | _ => 0

/-- Timebase page. -/
def timePage (s : State) : List Field :=
  let t := s.time
  let c := [t.goodPps, t.missingPps, t.badPps, t.steps]
  [fPlumb 0 (plumbNow s), f1 7 (timeCode t.state), f1 8 (flags8 [t.valid, t.ppsQualified, t.chainQualified, t.slew.isSome]),
   fInt 4 0xC (phaseShown t), fInt 4 0x10 (t.slew.getD 0 / nsUnits), fInt 4 0x14 (correction t),
   f4 0x18 ((t.holdoverClk.map (secondsSince s)).getD 0), countFields 0x1C c, f1 0x24 (stickies c), fPlumb 0x28 t.lastStep,
   (0x30, bytesAt (sec s 3) 32 8), f6 0x40 t.setCount.toNat, (0x46, [t.setEra])]

/-- Entry `i` of the slot window. -/
def slotView (s : State) (i : Nat) : List Field :=
  let o := 0x10 + 28 * i
  match s.sluice[16 * s.host.bank.toNat + i]? with
  | none => []
  | some x =>
    let c := [x.runs, x.lates, x.missed, x.skipped]
    let due : List Byte := match x.due with
      | none => []
      | some d => plumbBytes (plumb56 d)
    [f1 o (slotKind x), f1 (o + 1) (flags8 [slotPeriodic x, x.waiting, x.byCommand]), (o + 2, [x.lastStatus]), f1 (o + 3) (stickies c),
     (o + 4, due), fPlumb (o + 12) (plumb56 x.lastStart), countFields (o + 20) c]

/-- Sluice page. -/
def sluicePage (s : State) : List Field := (0, [s.host.bank]) :: (List.range 16).flatMap (slotView s)

/-- A map of 32 bytes: bit `i` as `p` says. -/
def mapField (o : Nat) (p : Nat → Bool) : Field := (o, (List.range 32).map fun j => BitVec.ofNat 8 (flags8 ((List.range 8).map fun i => p (8 * j + i))))

/-- Result mailbox page. -/
def mailboxPage (s : State) : List Field :=
  let own := (s.results.map (·.1)).filter fun v => vcnNode v == (ownNode s).toNat
  [f2 0 own.length, f2 2 s.results.length, f4 4 s.events.systemFrame.toNat, mapField 0x10 fun i => own.contains (ownVcn s i),
   mapField 0x30 (nodePresent s)]

/-- Counts of a port with their sticky flags. -/
def portFields (s : State) (o : Nat) (p : Fin 2) : List Field :=
  let c := s.course.ports[p].counts.toList
  [countFields o c, f1 (o + 14) (stickies c)]

/-- Code of a node state (15). -/
def nodeCode : NodeState → Nat
  | .absent => 0
  | .found => 1
  | .assigned => 2
  | .booting => 3
  | .joined => 4
  | .parkedIncompatible => 5
  | .bootFailed => 6
  | .lost => 7

/-- What the head shows of an address: its record, or that of an absent node. -/
def nodeShown (s : State) (a : Nat) : Node := (nodeOf s a).getD { addr := BitVec.ofNat 8 a }

/-- Summary entry of an address. -/
def summaryFields (s : State) (a : Nat) : List Field :=
  let n := nodeShown s a
  let o := 0x240 + 8 * (a - 1)
  [f1 o (nodeCode n.state + 16 * flags8 [n.los0, n.los1, n.dec, n.ack]), (o + 1, [n.mode]), (o + 2, [n.link0]),
   f1 (o + 3) (n.grant % 128 + 128 * n.side.val), (o + 4, [n.age]), (o + 5, [n.throttle]), f2 (o + 6) n.backlog.toNat]

/-- Detail window of the node SELECT names. -/
def detailFields (s : State) : List Field :=
  let a := s.host.select.toNat
  let n := nodeShown s a
  let c := n.counts.toList
  if a = 0 then []
  else
    [(0xC0, toLE 8 n.uid.toNat), (0xC8, [n.link0, n.link1, n.stepping, n.version]), f2 0xCC n.rom.toNat, (0xCE, [n.sub, n.mapEntry]),
     f1 0xD0 n.bootRound.toNat, f1 0xD1 (min 255 n.shortfall), f2 0xD2 n.causes.toNat, (0xD4, n.outcomes.toList), f4 0xD8 n.patchSeq.toNat,
     f2 0xDC n.warnings.toNat, countFields 0xE0 c, f2 0xF2 (stickies c + 512 * stickies [n.warnings])]

/-- Remote read window (R668). -/
def remoteFields (s : State) : List Field :=
  let c := s.course
  [(0x140, [c.rrNode, BitVec.ofNat 8 (flags8 [c.rrDone, c.rrPending]), c.rrStatus]), f2 0x144 c.rrAddr.toNat, f2 0x146 c.rrLen.toNat,
   (0x148, c.rrData)]

/-- The chain fields of the head (R705). -/
def chainFields (s : State) : List Field :=
  let c := s.course
  [(0, [c.version]), f1 1 (flags8 [c.ringClosed]), (2, [if c.ringClosed then c.n else 0]), f4 4 c.sweep.toNat,
   f4 8 (if s.modes.mode = .safe then 0 else headS s), (0xC, [c.break0, c.break1]), f2 0xE (min 0xFFFF (c.unmapped.length - 16)),
   (0x10, (c.unmapped.take 16).flatMap fun u => toLE 8 u.toNat)] ++ detailFields s ++
    (List.range 250).flatMap fun i => summaryFields s (i + 1)

/-- Per-node page; in the pod role the chain fields, the unmapped list, the detail window and the summaries read 0 (R705). -/
def nodePage (s : State) : List Field :=
  (if s.role = .head then chainFields s else []) ++ portFields s 0x90 0 ++ portFields s 0xA0 1 ++ [(0xB0, [s.host.select])] ++ remoteFields s

/-- State code of a tarn. -/
def tarnCode (s : State) (t : Fin 8) : Nat :=
  let y := s.mere.tarns[t]
  if s.mere.power ≠ .running || !tarnEnabled s t then 0
  else if tarnStalled s y then 3
  else if y.fifo.isEmpty && y.spikes.isEmpty && y.emitting.isNone then 1 else 2

/-- Tarn block. -/
def tarnFields (s : State) (t : Fin 8) : List Field :=
  let y := s.mere.tarns[t]
  let o := 32 * t.val
  let c := [y.wakeDrops, y.outOfOrder, y.saturations, y.longGaps]
  [f1 o (tarnCode s t), f1 (o + 1) (if tarnList s t then 1 else 0), f4 (o + 4) y.applied.toNat, f4 (o + 8) y.spikeCount.toNat,
   countFields (o + 12) c, f1 (o + 20) (stickies c), f1 (o + 21) y.fifoMark, f1 (o + 22) y.spikeMark]

/-- Encoder entry. -/
def encFields (s : State) (e : Fin 64) : List Field :=
  let x := s.mere.encoders[e]
  let o := 0x200 + 4 * e.val
  [f1 o x.level, f1 (o + 1) (flags8 [x.up.isSome, x.down.isSome, x.coalesced == 0xFFFF]), f2 (o + 2) x.coalesced.toNat]

/-- State code of Mere. -/
def mereCode : MerePower → Nat
  | .running => 0
  | .gated => 1
  | .offNoImage => 2
  | .offStall => 3

/-- Probe snapshot (table Probe snapshot). -/
def snapshotFields (x : Nat × Neuron) : List Field :=
  let n := x.2
  [f1 0x302 (flags8 [true, n.wake.isSome]), f1 0x303 x.1, fInt 4 0x304 n.s0, fInt 4 0x308 n.s1, fInt 4 0x30C n.s2, fInt 4 0x310 n.s3,
   f4 0x314 n.tLast.toNat, f4 0x318 n.tR.toNat, f4 0x31C ((n.wake.map (·.toNat)).getD 0)]

/-- Mere page. -/
def merePage (s : State) : List Field :=
  let m := s.mere
  let on := m.power == .running || m.power == .gated
  (List.finRange 8).flatMap (tarnFields s) ++
    [f4 0x100 m.aggregate.toNat, f1 0x104 (mereCode m.power), (0x105, [m.cause]), f2 0x106 m.stallResets.toNat,
     f4 0x108 (if on then ((m.image.map (·.epoch.toNat)).getD 0) else 0), f4 0x10C (if on then u32 (netSec s 1) 4 else 0),
     fPlumb 0x110 (m.lastCoalesce.getD (0, 0)), f1 0x117 (stickies [m.stallResets])] ++
    (List.finRange 64).flatMap (encFields s) ++ [f2 0x300 m.probe.toNat] ++ (m.snapshot.map snapshotFields).getD []

/-- Fault record entry `j`. -/
def faultFields (s : State) (j : Fin 16) : List Field :=
  let e := s.ks.records[j]
  let o := 0x10 + 12 * j.val
  [f2 o e.code.toNat, f2 (o + 2) e.arg.toNat, fPlumb (o + 4) (e.time, e.era), f1 (o + 11) (flags8 [e.active, e.masked])]

/-- Keystone page. -/
def keystonePage (s : State) : List Field :=
  let k := s.ks
  let left : Nat := match k.wdClk with
    | none => 0
    | some t => (t + watchdogUs s - s.clk) / 1000
  [f1 0 (flags8 [cfgSafety s, faultnLow s, k.started, cfgRefin s, k.refinLost]), f1 1 (flags8 [k.outA, k.outB, k.outC]), f1 2 k.path.val,
   f1 3 k.visitFrame.val, f4 4 k.active.toNat, f2 8 k.count.toNat, f2 0xA left, f1 0xC (stickies [k.count]), f1 0xF k.index.val] ++
    (List.finRange 16).flatMap (faultFields s) ++ [f2 0x100 k.injectCode.toNat]

/-- Thermal page. -/
def thermalPage (s : State) : List Field :=
  let t := s.thermal
  let run := isRunning s && s.modes.mode == .run
  let rate (r : Rat) : Int := if run then ratRNE (r * 100) else 0
  let dev (i : Fin 8) : Field := fInt 2 (0x10 + 2 * i.val) (if sensorBad s i then 0 else ratRNE t.dev[i])
  [fInt 2 0 (ratRNE t.max), f1 2 t.source.val, f1 3 t.s.val, f2 4 (if railPresent s then (ratFloor (thermalLimit s)).toNat else 0),
   fInt 2 6 (rate t.rate.1), fInt 2 8 (rate t.rate.2), f1 0xA t.broken.toNat, f1 0xB (flags8 [s.modes.thermalLatch]), f2 0xC t.trips.toNat,
   f1 0xE (stickies [t.trips])] ++ (List.finRange 8).map dev

/-- Codes of a rail phase and of a chain switch. -/
def phaseNo : PhaseState → Nat
  | .working => 0
  | .estimate => 1
  | .lost => 2
def switchNo : SwitchState → Nat
  | .off => 0
  | .softStart => 1
  | .on => 2
  | .inLimit => 3
  | .failed => 4

/-- Heaters shed of a unit: 0 background, 2 critical. -/
def shedOf (s : State) (unit : Nat) : List (Fin 6) :=
  (List.finRange 6).filter fun n => (moxCrit s n == (unit == 2)) && s.rail.shed.contains (.heater n)

/-- Shed value of a unit: the sum of its shed heaters. -/
def unitValue (s : State) (unit : Nat) : Nat := ((shedOf s unit).map fun n => s.rail.heaterValue[n]).sum

/-- Heater rail page. -/
def railPage (s : State) : List Field :=
  let r := s.rail
  let mA (q : Rat) : Nat := if railPresent s then (ratFloor q).toNat else 0
  let sw (o : Nat) (c : ChainSwitch) : List Field := [f1 o (switchNo c.state), f1 (o + 1) (stickies [c.retries]), f2 (o + 2) c.retries.toNat]
  let shown (n : Fin 6) : Bool := moxPresent s n && moxShed s n
  [(0, r.phases.toList.map fun p => BitVec.ofNat 8 (phaseNo p)), f1 4 (flags8 [r.shuntFailed]),
   f1 5 (flags8 [r.chainShed || (s.role == .pod && s.course.pod.chainShed), r.dropout, r.analog, r.lockout, r.onHrail, r.state == .on,
                 !railPresent s]),
   f2 8 (mA (cfgRailLimit s)), f2 0xA (mA (thermalLimit s)), f2 0xC (mA ((ladderLimit s).getD 0)), f2 0xE (mA (effectiveLimit s)),
   f1 0x10 (flags8 [!(shedOf s 0).isEmpty, r.shed.contains .chain, !(shedOf s 2).isEmpty]),
   f1 0x11 (flags8 ((List.finRange 6).map shown)), f2 0x14 (unitValue s 0), f2 0x16 r.chainValue, f2 0x18 (unitValue s 2),
   (0x1C, r.heaterValue.toList.flatMap (toLE 2))] ++ sw 0x28 r.sw[0] ++ sw 0x2C r.sw[1]

/-- Seconds until the last open session ends by inactivity (R787). -/
def idleLeft (s : State) : Nat :=
  s.gate.sessions.toList.foldl (fun a o => match o with
    | none => a
    | some t => max a (secondsLeft s (t + 900000000))) 0

/-- Gate page. -/
def gatePage (s : State) : List Field :=
  let g := s.gate
  [f1 0 (flags8 [s.otp.sealBit]), f1 1 (flags8 [s.otp.tagsRequired]), f1 2 (sessionBits s), f2 4 (idleLeft s), f2 6 g.failures.toNat,
   f4 8 (((g.lockout.map fun u => (u + 999) / 1000)).getD 0), (0xC, [g.lastEvent]), (0x10, toLE 16 (((liveNonce s).map fun n => n.1.toNat).getD 0))]

/-- Port block of the link test page. -/
def testFields (s : State) (o : Nat) (p : Fin 2) : List Field :=
  let q := s.course.ports[p]
  [(o, [q.control]), f1 (o + 2) (flags8 [q.locked, q.threshold]), f4 (o + 4) q.errors.toNat, f6 (o + 8) q.bits.toNat]

/-- Link test page. -/
def linkPage (s : State) : List Field :=
  testFields s 0 0 ++ testFields s 0x20 1 ++ [f4 0x40 s.link.hostCheck.toNat, f4 0x44 s.link.flashCheck.toNat]

/-! Reading. -/

/-- The base of the page an address lies in, and the fields of a page (R695). -/
def pageBase (a : Nat) : Nat :=
  ([0x5000, 0x4000, 0x3C00, 0x3800, 0x3000, 0x2000, 0x1000, 0x0800, 0x0600, 0x0400, 0x0300, 0x0200, 0x0100].find? fun b => b ≤ a).getD 0

def pageFields (s : State) (base : Nat) : List Field :=
  match base with
  | 0x0000 => identityPage s
  | 0x0100 => statusPage s
  | 0x0200 => eventsPage s
  | 0x0300 => modePage s
  | 0x0400 => timePage s
  | 0x0600 => sluicePage s
  | 0x0800 => mailboxPage s
  | 0x1000 => nodePage s
  | 0x2000 => merePage s
  | 0x3000 => keystonePage s
  | 0x3800 => thermalPage s
  | 0x3C00 => railPage s
  | 0x4000 => gatePage s
  | 0x5000 => linkPage s
  | _ => []

/-- The byte at an offset of a page. -/
def fieldByte (l : List Field) (o : Nat) : Byte :=
  match l.find? fun f => f.1 ≤ o && o < f.1 + f.2.length with
  | some f => f.2.getD (o - f.1) 0
  | none => 0

/-- The byte at an address. -/
def regByte (s : State) (a : Nat) : Byte := fieldByte (pageFields s (pageBase a)) (a - pageBase a)

/-- Fields that cover an address of a run, each page built once. -/
def pagesFor (s : State) (a n : Nat) : List (Nat × List Field) :=
  ((List.range n).map fun i => pageBase (a + i)).eraseDups.map fun b => (b, pageFields s b)

/-- `n` bytes from an address on (R663). -/
def regBytes (s : State) (a n : Nat) : List Byte :=
  let ps := pagesFor s a n
  (List.range n).map fun i => fieldByte ((ps.lookup (pageBase (a + i))).getD []) (a + i - pageBase (a + i))

end Sys2Proof.Machine
end

