-- ==== Sys2Proof/Machine/HostRows.lean ====
section
/-! DEFINITION. The host port's opcodes other than COMMAND, register writes and the end of a frame (17, 18), the log acknowledgement (19) and
remote register reads (16, 17). -/

namespace Sys2Proof.Machine

/-! READ and REPLAY. -/

/-- A READ lies wholly within the identity page (R74). -/
def identityOnly (f : HostFrame) : Bool := f.address.toNat + f.length.toNat ≤ 0x100

/-- The READ's length and range (table Opcodes). -/
def readLenOk (f : HostFrame) : Bool := 1 ≤ f.length.toNat && f.length.toNat ≤ 4096 && f.address.toNat + f.length.toNat ≤ 0x10000

/-- Tarns whose mark at offset `k` of the block a READ covers (R711). -/
def marksIn (f : HostFrame) (k : Nat) : List (Fin 8) :=
  (List.finRange 8).filter fun t =>
    let a := 0x2000 + 32 * t.val + k
    f.address.toNat ≤ a && a < f.address.toNat + f.length.toNat

/-- READ (R663, R698, R711): every byte from one copy. -/
def execRead (f : HostFrame) (s : State) : Host.Outcome State Fault Refusal :=
  if !hostAnswers s then .next s
  else
    let c := frameCheck s 0x01 f f.address.toNat (readLenOk f) none (identityOnly f) false
    let s := expireSessions s
    if c != stOk then .next (answer s f c)
    else .next (respond s f stOk (regBytes s f.address.toNat f.length.toNat) (.marks (marksIn f 21) (marksIn f 22)))

/-- A REPLAY that is refused: the response kept stays (R662). -/
def replayRefused (s : State) (f : HostFrame) (c : Byte) : State :=
  let a := answer s f c
  { a with host := { a.host with stored := s.host.stored } }

/-- REPLAY (R662): the response of the previous frame, unchanged; no effect. A frame that itself carries a reserved opcode is one other than REPLAY:
its refusal is the response kept. -/
def execReplay (f : HostFrame) (s : State) : Host.Outcome State Fault Refusal :=
  if !hostAnswers s then .next s
  else
    let c := frameCheck s 0x03 f f.address.toNat (f.address == 0 && f.length == 0) none false false
    let s := expireSessions s
    if reservedOpcode f.opcode then .next (answer s f c)
    else if c != stOk then .next (replayRefused s f c)
    else
      match s.host.stored with
      | none => .next (replayRefused s f stBadArg)
      | some r => .next { s with host := { s.host with response := r, effect := .none } }

/-! RESULTS, LOG, EVENTS. -/

/-- A frame of an opcode whose payload is a request for data: `body` its own checks, data and effect at the end of the frame. -/
def dataFrame (s : State) (op : Byte) (f : HostFrame) (lenOk : Bool) (body : State → List Byte → Byte × List Byte × ReadEffect) : State :=
  let pay := framePayload f f.payload
  if !hostAnswers s || !frameComplete f f.payload then s
  else
    let c := frameCheck s op f f.address.toNat (f.address == 0 && lenOk) (some pay) false false
    let s := expireSessions s
    if c != stOk then answer s f c
    else
      let (st, data, e) := body s pay
      respond s f st data e

/-- The record as read: FRESH or REPEAT against the delivered pair (R672, R676), STALE in SAFE (R123), a class that does not run NOTYET. -/
def readForm (s : State) (v : Vcn) (e : VcnEntry) (r : Record) : Record :=
  let st := if e.delivered = some (r.seq, r.age) then setFlag r.status 2 else setFlag r.status 1
  let st := if inSafe s && !housekept s v then setFlag st 4 else st
  { r with status := if classHidden s v then setFlag (clearFlag st 0) 3 else st }

/-- The record of R675. -/
def emptyRecord (v : Vcn) : Record := { vcn := v, status := setFlag 0 3, seq := 0, time := 0, value := qnan, raw := 0, age := 0 }

/-- The MISSING record of a parked pod's VCN that has no record (R107, R669), against the pair last delivered of it (R676): its open fields are
Config's (log 8). -/
def parkedRecord (v : Vcn) (delivered : Option (BitVec 32 × BitVec 16)) : Record :=
  let f (k : Nat) : Nat := Config.parkedField v k
  let q := if BitVec.ofNat 32 (f 0) = 0 then 1 else BitVec.ofNat 32 (f 0)
  let st := setFlag (setFlag 0 7) (if delivered = some (q, BitVec.ofNat 16 (f 3)) then 2 else 1)
  { vcn := v, status := st, seq := q, time := BitVec.ofNat 48 (f 1), value := qnan, raw := BitVec.ofNat 32 (f 2), age := BitVec.ofNat 16 (f 3) }

/-- The node of a VCN is a pod parked INCOMPATIBLE. -/
def parkedNode (s : State) (v : Vcn) : Bool := (nodeOf s (vcnNode v)).any fun n => n.state == .parkedIncompatible

/-- The record a RESULTS read returns for a VCN, none for an unknown one (R12, R674 - R677). -/
def resultOf (s : State) (v : Vcn) : Option Record :=
  if !assignedIndex (vcnIndex v) then none
  else if parkedNode s v then
    match entryOf s v with
    | none => some (parkedRecord v (s.host.delivered.lookup v))
    | some e => some ((e.record.map (readForm s v e)).getD (parkedRecord v e.delivered))
  else if !nodePresent s (vcnNode v) then none
  else
    match entryOf s v with
    | none => none
    | some e => some ((e.record.map (readForm s v e)).getD (emptyRecord v))

/-- The 24 bytes of a result entry (R677). -/
def resultBytes (v : Vcn) (r : Option Record) : List Byte :=
  match r with
  | none => toLE 2 v.toNat ++ [0xFF, 0xFF] ++ List.replicate 20 0
  | some r => recordBytes r

/-- VCNs of a payload. -/
def vcnsOf (p : List Byte) : List Vcn := (List.range (p.length / 2)).map fun i => BitVec.ofNat 16 (u16 p (2 * i))

/-- What becomes the delivered pair of a VCN (R676): not for an R675 entry. -/
def deliveredOf (s : State) (v : Vcn) : Option (Vcn × BitVec 32 × BitVec 16) :=
  match resultOf s v with
  | none => none
  | some r => if r.seq = 0 then none else some (v, r.seq, r.age)

/-- RESULTS (R674 - R677): one snapshot of every entry; an unknown VCN gives UNKNOWN_VCN with data. -/
def execResults (f : HostFrame) (s : State) : Host.Outcome State Fault Refusal :=
  let n := f.length.toNat
  .next (dataFrame s 0x04 f (n % 2 == 0 && 2 ≤ n && n ≤ 64) fun s p =>
    let vs := vcnsOf p
    let st := if vs.any fun v => (resultOf s v).isNone then stUnknownVcn else stOk
    (st, vs.flatMap fun v => resultBytes v (resultOf s v), .delivered (vs.filterMap (deliveredOf s))))

/-- The 32 bytes of a log entry. -/
def logBytes (e : LogEntry) : List Byte := toLE 4 e.seq.toNat ++ [e.kind, e.flags, e.era, e.node] ++ bytesAt e.body 0 24

/-- `a` is before `b` modulo 2^32, within half the range. -/
def beforeSeq (a b : BitVec 32) : Bool := let d := (b - a).toNat
  1 ≤ d && d < 2 ^ 31

/-- Data of a LOG read (R679). -/
def logData (l : List LogEntry) (start : BitVec 32) (count : Nat) : List Byte :=
  let got := (l.filter fun e => !(beforeSeq e.seq start)).take count
  let gap := match l.head? with
    | none => false
    | some e => beforeSeq start e.seq
  let fin := match got.getLast?, l.getLast? with
    | some a, some b => a.seq == b.seq
    | _, _ => true
  toLE 4 ((got.head?.map (·.seq)).getD start).toNat ++ toLE 2 got.length ++ toLE 2 (flags8 [gap, fin]) ++ got.flatMap logBytes

/-- LOG (R679). -/
def execLog (f : HostFrame) (s : State) : Host.Outcome State Fault Refusal :=
  .next (dataFrame s 0x05 f (f.length == 8) fun s p =>
    let n := u16 p 2
    if 1 < u8 p 0 || u8 p 1 != 0 || n = 0 || 127 < n then (stBadArg, [], .none)
    else (stOk, logData (if u8 p 0 = 0 then s.log.general else s.log.alarm) (f32At p 4) n, .none))

/-- The 12 bytes of a queue entry. -/
def eventBytes (ev : Nat) (boot : Bool) (arg : BitVec 16) (t : Count48 × Byte) : List Byte :=
  [BitVec.ofNat 8 ev, if boot then 1 else 0] ++ toLE 2 arg.toNat ++ plumbBytes t ++ [0]

/-- EVENTS (R681, R682): the oldest entries, and EV31 when the read empties the queue of an overflow and has room. -/
def execEvents (f : HostFrame) (s : State) : Host.Outcome State Fault Refusal :=
  .next (dataFrame s 0x06 f (f.length == 4) fun s p =>
    let m := u8 p 0
    let e := s.events
    if m = 0 || 32 < m || !zeros p 1 3 then (stBadArg, [], .none)
    else
      let n := min m e.queue.length
      let ovf := e.overflow && n == e.queue.length && n < m
      let list := ((e.queue.take n).flatMap fun q => eventBytes q.ev.val q.boot q.arg (q.time, q.era)) ++
        if ovf then eventBytes 31 false e.lost e.overflowAt else []
      let total : Nat := if ovf then n + 1 else n
      (stOk, [BitVec.ofNat 8 total, if ovf then 1 else 0] ++ toLE 2 (e.queue.length - n) ++ list, .events n (if ovf then some e.lost else none)))

/-! The end of a frame (R661). -/

/-- The marks of some tarns go to 0. -/
def clearMarks (s : State) (fifo spike : List (Fin 8)) : State :=
  let s := fifo.foldl (fun s t => modTarn s t fun y => { y with fifoMark := 0 }) s
  spike.foldl (fun s t => modTarn s t fun y => { y with spikeMark := 0 }) s

/-- Events returned leave the queue; the lost count goes down, and the sticky clears at 0 (R682, R685). -/
def takeEvents (s : State) (n : Nat) (lost : Option (BitVec 16)) : State :=
  let e := { s.events with queue := s.events.queue.drop n, irqHold := true, irqClk := s.clk }
  match lost with
  | none => { s with events := e }
  | some k =>
    let rest : BitVec 16 := BitVec.ofNat 16 (e.lost.toNat - k.toNat)
    { s with events := { e with lost := rest, overflow := e.overflow && rest != 0 } }

/-- The pair last delivered of a VCN (R676): in its entry, or beside the store where it has none. -/
def putDelivered (s : State) (x : Vcn × BitVec 32 × BitVec 16) : State :=
  if (entryOf s x.1).isSome then modEntry s x.1 fun e => { e with delivered := some x.2 }
  else { s with host := { s.host with delivered := x :: s.host.delivered.filter fun y => y.1 != x.1 } }

/-- The side effects of reading. -/
def readEffect (s : State) : ReadEffect → State
  | .marks a b => clearMarks s a b
  | .delivered l => l.foldl putDelivered s
  | .events n lost => takeEvents s n lost
  | .none | .timeSet _ => s

/-- HOST_FRAME_END (R557, R661): HCSn rises; `complete`: after the last response byte. A time set acts at the rise in any case. -/
def execHostFrameEnd (complete : Bool) (s : State) : Host.Outcome State Fault Refusal :=
  let e := s.host.effect
  let s := { s with host := { s.host with response := [], effect := .none } }
  match e with
  | .timeSet m => .next (applyTimeSet s m)
  | e => .next (if complete then readEffect s e else s)

/-- HIRQN_REASSERT (R685): at least 2 µs after the end of the EVENTS frame. -/
def execHirqnReassert (s : State) : Host.Outcome State Fault Refusal :=
  if s.events.irqHold && s.clk < s.events.irqClk + 2 then .next s else .next { s with events := { s.events with irqHold := false } }

/-! WRITE (R664, table Writable fields). -/

/-- The byte lies in a writable field. -/
def writable (a : Nat) : Bool :=
  a == 0x100 || inR 0x200 0x20B a || inR 0x440 0x446 a || a == 0x600 || a == 0x10B0 || inR 0x2300 0x2301 a || inR 0x3100 0x3102 a ||
    a == 0x5000 || a == 0x5001 || a == 0x5020 || a == 0x5021

/-- The byte lies in a field of scope DIAG. -/
def diagByte (a : Nat) : Bool := inR 0x2300 0x2301 a || inR 0x3100 0x3102 a || 0x5000 ≤ a

/-- A WRITE of `p` at `addr` as it reaches one field: the bytes written there replace those it holds. -/
structure WriteReq where
  addr : Nat
  pay : List Byte
  deriving DecidableEq, Repr

/-- The WRITE covers an address. -/
def WriteReq.covers (w : WriteReq) (a : Nat) : Bool := w.addr ≤ a && a < w.addr + w.pay.length

/-- Byte written at an address. -/
def WriteReq.byte (w : WriteReq) (a : Nat) : Byte := w.pay.getD (a - w.addr) 0

/-- The WRITE covers some byte of `n` from `a` on. -/
def WriteReq.touches (w : WriteReq) (a n : Nat) : Bool := (List.range n).any fun i => w.covers (a + i)

/-- The value of a field of `n` bytes at `a` that holds `old`, after the WRITE. -/
def WriteReq.merged (w : WriteReq) (a n old : Nat) : Nat :=
  le ((List.range n).map fun i => if w.covers (a + i) then w.byte (a + i) else BitVec.ofNat 8 (old / 256 ^ i)) 0 n

/-- Address of a port's control byte; the inject byte follows it. -/
def controlAddr (p : Fin 2) : Nat := 0x5000 + 0x20 * p.val

/-- The values a WRITE gives are in range, each field by its table (R9, R699, R704, R706, R762, 18). -/
def writeInRange (s : State) (w : WriteReq) : Bool :=
  let at8 (a : Nat) : Nat := (w.byte a).toNat
  let qm := w.merged 0x204 4 s.events.queueMask.toNat
  let im := w.merged 0x208 4 s.events.irqMask.toNat
  let code := w.merged 0x3100 2 s.ks.injectCode.toNat
  let ctl (p : Fin 2) : Bool := !w.covers (controlAddr p) || at8 (controlAddr p) % 8 ≤ 3
  let inj (p : Fin 2) : Bool := !w.covers (controlAddr p + 1) || at8 (controlAddr p + 1) != 0
  (!w.covers 0x100 || at8 0x100 ≤ 0x11) && (!w.covers 0x600 || at8 0x600 ≤ 7) && (!w.covers 0x10B0 || at8 0x10B0 ≤ 250) &&
    (!w.touches 0x204 8 || (BitVec.ofNat 32 im &&& ~~~(BitVec.ofNat 32 qm) &&& 0x7FFFFFFF) == 0) &&
    (!w.touches 0x2300 2 || w.merged 0x2300 2 s.mere.probe.toNat ≤ 0x7FF) && (!w.touches 0x3100 2 || injectable code) &&
    (!w.covers 0x3102 || (at8 0x3102 == 1 && injectable code)) && ctl 0 && ctl 1 && inj 0 && inj 1

/-- The control byte of a port after the WRITE; its reserved bits stay 0 (R6). -/
def controlAfter (s : State) (w : WriteReq) (p : Fin 2) : Byte :=
  if w.covers (controlAddr p) then w.byte (controlAddr p) &&& 0x1F else s.course.ports[p].control

/-- The port is this node's end of the remote test now running. -/
def remotePort (s : State) (p : Fin 2) : Bool := s.course.remote.any fun t => t.running && t.port == some p

/-- An inject without generator (R802), and a port switched on that is in a timed or remote test (R821). -/
def writeState (s : State) (w : WriteReq) : Byte :=
  let noGen (p : Fin 2) : Bool := w.covers (controlAddr p + 1) && !(controlAfter s w p).getLsbD 3
  let busy (p : Fin 2) : Bool := w.covers (controlAddr p) && ((controlAfter s w p).getLsbD 3 || (controlAfter s w p).getLsbD 4) &&
    (s.course.ports[p].timed || remotePort s p)
  if noGen 0 || noGen 1 then stNotInMode else if busy 0 || busy 1 then stBusy else stOk

/-- A port block written: control, then injections, which add up to 255 (R802, R808). -/
def writePort (s : State) (w : WriteReq) (p : Fin 2) : State :=
  let s := if w.covers (controlAddr p) && !remotePort s p then setControl s p (controlAfter s w p) else s
  if w.covers (controlAddr p + 1) then
    let n := (w.byte (controlAddr p + 1)).toNat
    { s with course := { s.course with ports := vmod s.course.ports p fun q => { q with inject := BitVec.ofNat 8 (min 255 (q.inject.toNat + n)) } } }
  else s

/-- The event fields written: pending bits cleared where 1 is written (R709), the masks (R688). -/
def writeEvents (s : State) (w : WriteReq) : State :=
  let e := s.events
  { s with events := { e with
    pending := e.pending &&& ~~~(BitVec.ofNat 32 (w.merged 0x200 4 0))
    queueMask := BitVec.ofNat 32 (w.merged 0x204 4 e.queueMask.toNat)
    irqMask := BitVec.ofNat 32 (w.merged 0x208 4 e.irqMask.toNat) } }

/-- The selects and the time-set registers written. -/
def writeSelects (s : State) (w : WriteReq) : State :=
  let h := s.host
  let t := s.time
  { s with
    host := { h with view := BitVec.ofNat 8 (w.merged 0x100 1 h.view.toNat), bank := BitVec.ofNat 8 (w.merged 0x600 1 h.bank.toNat)
                     select := BitVec.ofNat 8 (w.merged 0x10B0 1 h.select.toNat) }
    time := { t with setCount := BitVec.ofNat 48 (w.merged 0x440 6 t.setCount.toNat), setEra := BitVec.ofNat 8 (w.merged 0x446 1 t.setEra.toNat) } }

/-- The probe written: its snapshot is no longer valid (R706). -/
def writeProbe (s : State) (w : WriteReq) : State :=
  if w.touches 0x2300 2 then
    { s with mere := { s.mere with probe := BitVec.ofNat 16 (w.merged 0x2300 2 s.mere.probe.toNat), snapshot := none, probeWanted := true } }
  else s

/-- The injection fields written (R762). -/
def writeInject (s : State) (w : WriteReq) : State :=
  let c := w.merged 0x3100 2 s.ks.injectCode.toNat
  let s := { s with ks := { s.ks with injectCode := BitVec.ofNat 16 c } }
  if w.covers 0x3102 then
    if h : c < 28 then injectFault s ⟨c, h⟩ else s
  else s

/-- The effect of a WRITE on registers: refused whole, or applied whole (R664). -/
def writeRegs (s : State) (addr : Nat) (pay : List Byte) : Byte × State :=
  let w : WriteReq := { addr := addr, pay := pay }
  let bytes := (List.range pay.length).map (addr + ·)
  if !bytes.all writable then (stBadArg, s)
  else if bytes.any diagByte && !hasDiag s then (stLocked, s)
  else if !writeInRange s w then (stBadArg, s)
  else
    let c := writeState s w
    if c != stOk then (c, s)
    else (stOk, writePort (writePort (writeInject (writeProbe (writeSelects (writeEvents s w) w) w) w) w 0) w 1)

/-- REGISTER_WRITE (R664, R697, R699). -/
def execRegisterWrite (f : HostFrame) (s : State) : Host.Outcome State Fault Refusal := .next (writeFrame s f f.address.toNat [] writeRegs)

/-- EVENT_PENDING_CLEAR (R709). -/
def execEventPendingClear (f : HostFrame) (s : State) : Host.Outcome State Fault Refusal := .next (writeFrame s f 0x200 [] writeRegs)

/-- QUEUE_MASK_WRITE (R688, R704). -/
def execQueueMaskWrite (f : HostFrame) (s : State) : Host.Outcome State Fault Refusal := .next (writeFrame s f 0x204 [] writeRegs)

/-- IRQ_MASK_WRITE (R684, R704). -/
def execIrqMaskWrite (f : HostFrame) (s : State) : Host.Outcome State Fault Refusal := .next (writeFrame s f 0x208 [] writeRegs)

/-- MERE_PROBE (R482, R706). -/
def execMereProbe (f : HostFrame) (s : State) : Host.Outcome State Fault Refusal := .next (writeFrame s f 0x2300 [] writeRegs)

/-- KEYSTONE_INJECT (R762). -/
def execKeystoneInject (f : HostFrame) (s : State) : Host.Outcome State Fault Refusal := .next (writeFrame s f 0x3102 [] writeRegs)

/-- LINK_TEST_CONTROL (R799, R800, R821). -/
def execLinkTestControl (port : Fin 2) (f : HostFrame) (s : State) : Host.Outcome State Fault Refusal :=
  .next (writeFrame s f (controlAddr port) [] writeRegs)

/-- LINK_TEST_INJECT (R802). -/
def execLinkTestInject (port : Fin 2) (f : HostFrame) (s : State) : Host.Outcome State Fault Refusal :=
  .next (writeFrame s f (controlAddr port + 1) [] writeRegs)

/-! Commands of the log and of remote reads. -/

/-- Set ACKED on every entry up to a sequence (R728). -/
def ackAlarms (a : BitVec 32) (l : CisternLog) : CisternLog :=
  let ack (e : LogEntry) : LogEntry := if (a - e.seq).toNat < 2 ^ 31 then { e with flags := e.flags ||| 2 } else e
  let l' : CisternLog := { l with alarm := l.alarm.map ack }
  { l' with alarmEpisode := l.alarmEpisode && decide (1024 ≤ unacked l') }

/-- ACKNOWLEDGE_ALARM_LOG (R727, R728): newest is the sequence of the newest entry since the region was cleared, 0xFFFF_FFFF before one. -/
def execAcknowledgeAlarmLog (f : HostFrame) (s : State) : Host.Outcome State Fault Refusal :=
  .next (commandFrame s f 0x0A [] (argCount 4) fun s a =>
    let k := f32At a 0
    if beforeSeq (s.log.alarmSeq - 1) k then (stBadArg, s) else (stOk, { s with log := ackAlarms k s.log }))

/-- An operation that the head refuses counts at its node (table How each loser can tell). -/
def refused (s : State) (node : Nat) : State := modNode s node fun y => countNode y 4 1

/-- REMOTE_REGISTER_READ (R631, R667 - R669); a reserved node number is a node not present (R13). -/
def execRemoteRegisterRead (f : HostFrame) (s : State) : Host.Outcome State Fault Refusal :=
  .next (commandFrame s f 0x0B [] (argCount 8) fun s a =>
    let d := u8 a 0
    let n := u16 a 4
    if s.role != .head then (stNotInMode, s)
    else if d = 0 || d = 255 || u8 a 1 != 0 || n = 0 || 232 < n || u16 a 6 != 0 then (stBadArg, s)
    else
      match nodeOf s d with
      | none => (stUnknownVcn, s)
      | some x =>
        if x.state = .parkedIncompatible then (stIncompatible, s)
        else if x.state != .joined then (stUnknownVcn, s)
        else if s.course.rrPending || 16 ≤ s.course.service.length then (stBusy, refused s d)
        else if 16 ≤ s.course.noService[x.side] then
          (stCapacity, refused { s with course := { s.course with overloadNow := true } } d)
        else
          let c := s.course
          (stOk, { s with course := { c with
            service := c.service ++ [.statusRead x.addr (BitVec.ofNat 16 (u16 a 2)) (BitVec.ofNat 16 n)]
            rrNode := x.addr, rrDone := false, rrPending := true, rrStatus := 0, rrAddr := BitVec.ofNat 16 (u16 a 2)
            rrLen := BitVec.ofNat 16 n, rrData := [] } }))

/-- STATUS_REQ at a pod (R632): the bytes of its own pages, or NAK with BAD_ARG for a range past the last page. -/
def execStatusReq (r : CourseRx) (s : State) : Host.Outcome State Fault Refusal :=
  .next (podRx s 0x24 r fun s =>
    let p := r.payload
    let a := u16 p 0
    let n := u16 p 2
    let port := sidePort s.course.pod r.port
    if !podSweeps s then s
    else if 0x10000 < a + n then originate s [port] 0x26 0 2 0 [0x24, stBadArg, 0, 0]
    else originate s [port] 0x25 0 2 0 (toLE 2 a ++ toLE 2 n ++ regBytes s a n))

end Sys2Proof.Machine
end

