-- ==== Sys2Proof/Machine/Rail.lean ====
section
/-! DEFINITION. The meanings of the heater rail and chain power commands (08). -/

namespace Sys2Proof.Machine

/-- RAIL_START (R284, R286): a wanted rail that is off begins its phase check. -/
def execRailStart (s : State) : Host.Outcome State Fault Refusal := .next (railBegin s)

/-- Record as lost the running phases that a check fails, A first (R285, R314); the third turns the rail off, and a fourth is recorded too. -/
def failPhases (s : State) (o : PhaseCheckObs) : State :=
  (List.finRange 4).foldl (fun s p => if phasePasses o p then s else losePhase s p) s

/-- RAIL_PHASE_CHECK_END (R285): failing phases are lost; with at least two left the soft start begins. -/
def execRailPhaseCheckEnd (o : PhaseCheckObs) (s : State) : Host.Outcome State Fault Refusal :=
  if !isRunning s || s.rail.state != .phaseCheck || s.clk < s.rail.startClk + 128 then .next s
  else
    let s := failPhases s o
    if s.rail.state ≠ .phaseCheck then .next s
    else if phaseCount s .lost ≤ 2 then .next { s with rail := { s.rail with state := .softStart } }
    else .next (railLost s)

/-- The rail is on: the enabled switches begin their soft start (table Rail start, step 3). -/
def railUp (s : State) : State :=
  let s := { s with rail := { s.rail with state := .on } }
  let s := if chainEnabled s 0 then switchStart s 0 else s
  if chainEnabled s 1 then switchStart s 1 else s

/-- RAIL_SOFT_START_DONE (R284, R290, table Rail start): 2.0 ms after the request, with HRS within 3 % of the setpoint, the rail is on. The table
is silent on an HRS that does not come that near: the soft start then lasts 10 ms longer at most, the time of R311, and the rail runs on with what
PVIN gives (DESIGN CHOICE, log 133). -/
def execRailSoftStartDone (o : RailVolts) (s : State) : Host.Outcome State Fault Refusal :=
  let near := decide (ratAbs (o.hrs - cfgSetpoint s) ≤ 3 / 100 * cfgSetpoint s)
  if isRunning s && s.rail.state == .softStart && decide ((s.rail.startClk + if near then 2000 else 12000) ≤ s.clk) then .next (railUp s) else .next s

/-! Chain-power switches (R289 - R292). -/

/-- Soft-start time t_ss and retry interval in microseconds. -/
def cfgSoftStart (s : State) : Nat := 1000 * u8 (sec s 7) 5
def cfgRetry (s : State) : Nat := 100000 * u8 (sec s 7) 16

/-- The part of HRAIL that the ramp of a switch has reached (R290). -/
def switchRamp (s : State) (w : Fin 2) : Rat :=
  let t := cfgSoftStart s
  if t ≤ s.clk - s.rail.sw[w].startClk then 1 else ((s.clk - s.rail.sw[w].startClk : Nat) : Rat) / (t : Rat)

/-- The current through a switch in mA: it blocks whenever its output lies above HRAIL (R289). -/
def switchCurrent (o : SwitchObs) : Nat := if o.rail < o.out then 0 else o.cur

/-- The output has reached 90 % of HRAIL. -/
def switchReached (o : SwitchObs) : Bool := decide (9 / 10 * o.rail ≤ o.out)

/-- Put the state of a switch. -/
def setSwitch (s : State) (w : Fin 2) (x : SwitchState) : State := { s with rail := { s.rail with sw := vmod s.rail.sw w fun c => { c with state := x } } }

/-- CHAIN_SWITCH_ON (R290): the output of a switch in soft start has reached 90 % of HRAIL; code 0x12 clears when every enabled switch
is on. A switch in its limit whose current has fallen below it is plainly on again. -/
def execChainSwitchOn (sw : Fin 2) (o : SwitchObs) (s : State) : Host.Outcome State Fault Refusal :=
  let c := s.rail.sw[sw]
  match c.state with
  | .softStart =>
    if !isRunning s || !switchReached o || switchRamp s sw < 9 / 10 then .next s
    else
      let s := setSwitch s sw .on
      let clear := faultActive s 0x12 && !(s.ks.injected.contains 0x12) && switchesOn s
      .next (if clear then clearFault s 0x12 else s)
  | .inLimit => .next (if isRunning s && switchCurrent o < c.limit then setSwitch s sw .on else s)
  | _ => .next s

/-- A switch fails: it opens and is reported (R292), once while the code is active (R766). -/
def failSwitch (s : State) (sw : Fin 2) : State :=
  declareOpen { s with rail := { s.rail with sw := vmod s.rail.sw sw fun c => { c with state := .failed, failClk := s.clk } } } 0x12 false

/-- CHAIN_SWITCH_FAIL (R292): no 90 % of HRAIL by t_ss + 10 ms, or 10 ms in current limit once on; before that time a switch at its limit shows as
in its limit. -/
def execChainSwitchFail (sw : Fin 2) (o : SwitchObs) (s : State) : Host.Outcome State Fault Refusal :=
  let c := s.rail.sw[sw]
  if !isRunning s then .next s
  else
    match c.state with
    | .softStart => .next (if !switchReached o && c.startClk + cfgSoftStart s + 10000 ≤ s.clk then failSwitch s sw else s)
    | .on | .inLimit =>
      .next (if switchCurrent o < c.limit then s else if 10000 ≤ o.us then failSwitch s sw else setSwitch s sw .inLimit)
    | _ => .next s

/-- CHAIN_SWITCH_RETRY (R292): after the retry interval a failed switch retries its soft start while the rail is on; the retry is counted. -/
def execChainSwitchRetry (sw : Fin 2) (s : State) : Host.Outcome State Fault Refusal :=
  let c := s.rail.sw[sw]
  if isRunning s && c.state == .failed && s.rail.state == .on && c.failClk + cfgRetry s ≤ s.clk then
    let s := { s with rail := { s.rail with sw := vmod s.rail.sw sw fun c => { c with retries := sat16 c.retries } } }
    .next (switchStart s sw)
  else .next s

/-! Shedding (R293 - R298). -/

/-- The digital checks of the rail run: rail on, in a mode (R308 suspends them while the rail is held). -/
def railChecks (s : State) : Bool := isRunning s && s.rail.state == .on

/-- Close the measurement of the heater shed at the tick before (R296). -/
def closeMeasure (s : State) (shunt : Nat) : State :=
  match s.rail.measuring with
  | none => s
  | some (n, before) =>
    { s with rail := { s.rail with measuring := none, heaterValue := s.rail.heaterValue.set n.val (before - shunt) } }

/-- The current with the value of the latest shed fits under 0.9 of the limit (R297). -/
def restoreFits (s : State) (cur : Nat) : Bool :=
  match s.rail.shed with
  | [] => false
  | u :: _ => decide ((cur : Rat) + (shedValue s u : Rat) ≤ 9 / 10 * effectiveLimit s)

/-- A tick sheds one unit or heater above the effective limit; with everything shed the analogue total limit holds the current (R293, R316). -/
def shedTick (s : State) (cur : Nat) : State :=
  if (cur : Rat) ≤ effectiveLimit s then { s with rail := { s.rail with analog := false } }
  else
    match nextShed s with
    | some u => shedOne s u cur
    | none => if s.rail.analog then s else logGeneral { s with rail := { s.rail with analog := true } } 0x0D (ownNode s) 1 0 []

/-- RAIL_SHED_TICK (R293 - R297, R315, R316), each millisecond. -/
def execRailShedTick (c : RailCurrents) (s : State) : Host.Outcome State Fault Refusal :=
  if !railChecks s || s.clk < s.rail.tickClk + 1000 then .next s
  else
    let cur := totalCurrent s c
    let s := closeMeasure s cur
    let s := shedTick { s with rail := { s.rail with lastShunt := cur, tickClk := s.clk } } cur
    .next { s with rail := { s.rail with fitsClk := if restoreFits s cur then s.rail.fitsClk.or (some s.clk) else none } }

/-- CHAIN_SHED_VALUE (R296): 200 ms after the chain was shed, the fall in current is its value. -/
def execChainShedValue (c : RailCurrents) (s : State) : Host.Outcome State Fault Refusal :=
  match s.rail.chainFrom with
  | none => .next s
  | some before =>
    if !railChecks s || s.clk < s.rail.chainClk + 200000 then .next s
    else .next { s with rail := { s.rail with chainFrom := none, chainValue := before - totalCurrent s c } }

/-- RAIL_RESTORE (R297): the latest shed is restored where the current with its value has fitted under 0.9 of the limit for 500 ms. -/
def execRailRestore (c : RailCurrents) (s : State) : Host.Outcome State Fault Refusal :=
  let cur := totalCurrent s c
  let long := (s.rail.fitsClk.map fun t => decide (t + 500000 ≤ s.clk)).getD false
  if railChecks s && long && restoreFits s cur then .next (restoreOne s cur) else .next s

/-! The ladder (R299 - R307). -/

/-- PHASE_OPEN (R299 - R302, R305, R314): an open phase is dropped, of two the lower letter first and the second not before the next cycle. -/
def execPhaseOpen (phase : Fin 4) (o : LadderObs) (s : State) : Host.Outcome State Fault Refusal :=
  let first := (List.finRange 4).find? (phaseOpenNow s o)
  let later := (s.rail.dropClk.map fun t => decide (t + 2 ≤ s.clk)).getD true
  if railChecks s && first == some phase && later then .next (losePhase { s with rail := { s.rail with dropClk := some s.clk } } phase)
  else .next s

/-- PHASE_SENSE_FAIL (R303, R304): one phase is estimated or dropped as SENSEACT selects; two or more within the same cycles mean the
shunt (log 108). -/
def execPhaseSenseFail (o : LadderObs) (s : State) : Host.Outcome State Fault Refusal :=
  if !railChecks s then .next s
  else
    match (List.finRange 4).filter (senseFailsNow s o) with
    | [] => .next s
    | [p] =>
      let s := declareEvent { s with rail := { s.rail with senseSeen := true } } 0x14 p.val p.val true
      if cfgSenseAct s then .next (losePhase s p)
      else .next { s with rail := { s.rail with phases := s.rail.phases.set p.val .estimate } }
    | _ => .next (declareEvent { s with rail := { s.rail with shuntFailed := true, senseSeen := true } } 0x14 4 4 true)

/-- Two or more phases pass a check of R307: those work again, the others are lost, and cause 0x06 is no longer present. -/
def phasesReturn (s : State) (o : PhaseCheckObs) : State :=
  let ph : Vector PhaseState 4 := Vector.ofFn fun p : Fin 4 => if phasePasses o p then PhaseState.working else s.rail.phases[p]
  let s := { s with rail := { s.rail with phases := ph } }
  let s := (List.finRange 4).foldl (fun s p => if phasePasses o p then s else losePhase s p) s
  let s := noteGone { s with modes := { s.modes with railCauseGone := true } }
  if phaseCount s .lost = 0 ∧ faultActive s 0x13 ∧ !(s.ks.injected.contains 0x13) then clearFault s 0x13 else s

/-- Fewer than two phases pass: the failing ones are lost, and the cause is present (again). -/
def phasesStayLost (s : State) (o : PhaseCheckObs) : State :=
  (List.finRange 4).foldl (fun s p => if phasePasses o p then s else losePhase s p)
    { s with modes := { s.modes with railCauseGone := false, goneClk := none } }

/-- PHASE_RECHECK (R307): with cause 0x06 active, the phase check of R285 every 10 s with the rail off. -/
def execPhaseRecheck (o : PhaseCheckObs) (s : State) : Host.Outcome State Fault Refusal :=
  if !isRunning s || !(s.modes.causes.getLsbD 6) || railOn s || s.clk < s.rail.recheckClk + 10000000 then .next s
  else
    let s := { s with rail := { s.rail with recheckClk := s.clk } }
    .next (if 2 ≤ ((List.finRange 4).filter (phasePasses o)).length then phasesReturn s o else phasesStayLost s o)

/-! Voltages (R311 - R313). -/

/-- DROPOUT (R311): HRS below 95 % of the setpoint for 10 ms; set and logged once (log 106). A soft start that it finds ends, and the rail runs on
(log 133). -/
def execDropout (o : RailVolts) (s : State) : Host.Outcome State Fault Refusal :=
  let runs := s.rail.state == .on || s.rail.state == .softStart
  if isRunning s && runs && !s.rail.dropout && decide (o.hrs < 95 / 100 * cfgSetpoint s) && 10000 ≤ o.us then
    let s := logGeneral { s with rail := { s.rail with dropout := true } } 0x0D (ownNode s) 0 0 []
    .next (if s.rail.state = .on then s else railUp s)
  else .next s

/-- HRS_MISMATCH (R312): HRS and the HRAIL balls differ by more than 10 %, of the larger of the two (log 109), for 128 microseconds; regulation moves
to the balls until a restart, with EV12. -/
def execHrsMismatch (o : RailVolts) (s : State) : Host.Outcome State Fault Refusal :=
  if railChecks s && !s.rail.onHrail && decide (max o.hrs o.balls / 10 < ratAbs (o.hrs - o.balls)) && 128 ≤ o.us then
    .next (declareEvent { s with rail := { s.rail with onHrail := true } } 0x14 5 5 true)
  else .next s

/-- The setpoint the rail regulates to: of section 0x07, and while the rail is held the one it had (R150, R308). -/
def setpointInForce (s : State) : Rat := if isRunning s then cfgSetpoint s else s.rail.heldSetpoint

/-- RAIL_OVERVOLTAGE (R313): HRS more than 10 % above the setpoint; every phase stops switching. -/
def execRailOvervoltage (o : RailVolts) (s : State) : Host.Outcome State Fault Refusal :=
  .next (if railOn s && decide (11 / 10 * setpointInForce s < o.hrs) then { s with rail := { s.rail with overvoltage := true } } else s)

/-- RAIL_OVERVOLTAGE_END (R313): HRS back below the setpoint plus 5 %; switching resumes. -/
def execRailOvervoltageEnd (o : RailVolts) (s : State) : Host.Outcome State Fault Refusal :=
  .next (if decide (o.hrs < 105 / 100 * setpointInForce s) then { s with rail := { s.rail with overvoltage := false } } else s)

/-- RAIL_HOLD_EXPIRY (R151): the hold time has passed before handover, to within 5 % on KCLK (log 123); rail and both switches go off. -/
def execRailHoldExpiry (s : State) : Host.Outcome State Fault Refusal :=
  let m := s.modes
  if m.railHold && 100 * m.holdClk + 95 * m.holdUs ≤ 100 * s.clk then .next { (railOff s) with modes := { m with railHold := false } }
  else .next s

end Sys2Proof.Machine
end

