-- ==== Sys2Proof/Machine/Thermal.lean ====
section
/-! DEFINITION. The meanings of the thermal monitor's commands (09). Temperatures are in 1/16 K. -/

namespace Sys2Proof.Machine

/-- The monitor is active from the release of the VDD power-on reset (R322). -/
def monitorOn (s : State) : Bool := s.phase != .porHold

/-- 150.0 degrees. -/
def shutdownLimit : Rat := 2400

/-- The sensors whose conversion or replacement has now been at or above 150 degrees twice running (R336). -/
def crossing (t : Thermal) : Option (Fin 8) := (List.finRange 8).find? fun i => 2 ≤ t.hot[i]

/-- One set of conversions enters the monitor (R319, R336, R337) and the frames' means of it (R339, R345). -/
def takeConversions (s : State) (readings : Vector Int 8) : State :=
  let v : Vector Rat 8 := Vector.ofFn fun i : Fin 8 => ((readings[i] : Int) : Rat)
  let t := s.thermal
  let conv := Vector.ofFn fun i : Fin 8 => (readings[i] :: t.conv[i]).take 8
  let hot := Vector.ofFn fun i : Fin 8 => if shutdownLimit ≤ sensorValue s v i then min 2 (t.hot[i] + 1) else 0
  let none' := (List.finRange 8).all fun i => hot[i] == 0
  let cool := if none' then min 2 (t.cool + 1) else 0
  let sum := Vector.ofFn fun i : Fin 8 => t.frameSum[i] + readings[i]
  { s with thermal := { t with conv := conv, hot := hot, cool := cool, episode := t.episode && cool < 2, frameSum := sum, frameN := t.frameN + 1
                               convClk := some s.clk }
           weirs := s.weirs.map fun w => { w with ts4Sum := w.ts4Sum + sensorValue s v 4, ts4N := w.ts4N + 1 } }

/-- A period of `us` microseconds has passed since it was last taken. -/
def periodDue (s : State) (last : Option Nat) (us : Nat) : Bool := (last.map fun c => decide (c + us ≤ s.clk)).getD true

/-- DIE_TEMP_CONVERSION (R319, R336, R337), once per millisecond: two consecutive conversions at or above 150 degrees set the latch and start a
thermal reset; with the latch set already they add one log entry per episode. -/
def execDieTempConversion (readings : Vector Int 8) (s : State) : Host.Outcome State Fault Refusal :=
  if !monitorOn s || !periodDue s s.thermal.convClk 1000 then .next s
  else
    let s := takeConversions s readings
    match crossing s.thermal with
    | none => .next s
    | some i =>
      if !s.modes.thermalLatch then .next (startReset s .thermal)
      else if s.thermal.episode then .next s
      else
        .next (logGeneral { s with thermal := { s.thermal with episode := true } } 0x0E (ownNode s) i.val 0
          (toLE 2 (readings[i] % 65536).toNat))

/-- Mean of the conversions held (R320). -/
def meanOf (l : List Int) : Rat := if l.isEmpty then 0 else (l.sum : Rat) / (l.length : Rat)

/-- The base of the cross-check model: the mean of the gradient-corrected working neighbours, or of all other working
sensors (R323, R324). -/
def crossBase (s : State) (v : Vector Rat 8) (p : Rat) (i : Fin 8) : Option Rat :=
  let (a, b) := neighbours i
  let near := [a, b].filter fun j => !sensorBad s j
  let all := (List.finRange 8).filter fun j => j ≠ i && !sensorBad s j
  let use := if near.isEmpty then all else near
  if use.isEmpty then none else some ((use.map fun j => v[j] - cfgGradient s j * p).sum / (use.length : Rat))

/-- dev_i; 0 for a broken sensor (18, thermal page). -/
def devOf (s : State) (v : Vector Rat 8) (p : Rat) (i : Fin 8) : Rat :=
  if sensorBad s i then 0
  else
    match crossBase s v p i with
    | none => 0
    | some b => v[i] - (b + cfgGradient s i * p)

/-- The rate-of-rise limit applies (R335). -/
def rorApplies (s : State) : Bool := isRunning s && s.modes.mode == .run && railOn s

/-- Rates are computed: in RUN (R332), and while a warm reset or Footing leaves a hold of R334 running under a held rail (R341, log 110). -/
def rorRuns (s : State) : Bool := if isRunning s then s.modes.mode == .run else railOn s && s.thermal.hold

/-- Rates over 248 ms, 31 evaluations, in K/s (R332); none before 248 ms of means exist. -/
def ratesOf (hist : List (Rat × Rat)) : Option (Rat × Rat) :=
  match hist, hist[31]? with
  | (a, b) :: _, some (c, d) => some ((a - c) / 16 / (248 / 1000), (b - d) / 16 / (248 / 1000))
  | _, _ => none

/-- The rate-of-rise part of an evaluation: the new monitor state and whether a trip begins now, and on which sensor
(R332 - R335). Only an evaluation under the limit begins a trip. -/
def rorEvaluate (s : State) : Thermal × Option Nat :=
  let t := s.thermal
  if !rorRuns s then (t, none)
  else
    let hist := ((sensorValue s t.mean 0, sensorValue s t.mean 1) :: t.hist).take 32
    let t := { t with hist := hist }
    match ratesOf hist with
    | none => ({ t with rate := (0, 0) }, none)
    | some r =>
      let lim := cfgRor s / 16
      let t := { t with rate := r }
      if r.1 ≤ lim ∧ r.2 ≤ lim then ({ t with rorCount := 0, trip := false, okClk := t.okClk.or (some s.clk) }, none)
      else
        let t := { t with okClk := none }
        if !rorApplies s then (t, none)
        else if t.rorCount = 0 ∨ t.trip then ({ t with rorCount := 1 }, none)
        else ({ t with trip := true, hold := true, trips := sat16 t.trips }, some (if lim < r.1 then 0 else 1))

/-- The means, deviations, counts and reported maximum of an evaluation (R320, R321, R323). -/
def evaluateSensors (s : State) (power : Rat) : State :=
  let mean := s.thermal.conv.map meanOf
  let dev := Vector.ofFn fun i : Fin 8 => devOf s mean power i
  let cnt := Vector.ofFn fun i : Fin 8 => if 128 < ratAbs dev[i] then s.thermal.overCount[i] + 1 else 0
  let (m, src) := reportedMax s mean
  { s with thermal := { s.thermal with mean := mean, dev := dev, overCount := cnt, max := m, source := src } }

/-- The zone of the maximum: at its entry both timers restart, and above the threshold s steps up at once (R329, R330). -/
def zoneStep (s : State) : State × Bool :=
  let z := thermalZone s s.thermal.max
  if z = s.thermal.zone then (s, false)
  else ({ s with thermal := { s.thermal with zone := z, stepClk := s.clk } }, z == 2)

/-- The next step up is due: 250 ms above the threshold since the last one (R329). -/
def upDue (s : State) : Bool := s.thermal.zone == 2 && decide (s.thermal.stepClk + 250000 ≤ s.clk)

/-- A step of the throttle timer has been taken: the next one counts from here. -/
def timerTaken (s : State) : State := { s with thermal := { s.thermal with stepClk := s.clk } }

/-- The step of the zone at an evaluation (R329, R347): up at the first evaluation above the threshold or when one falls due here; with the
throttle step it leads to. -/
def evaluateZone (s : State) (power : Rat) : State × Fin 8 :=
  let (s, first) := zoneStep (evaluateSensors s power)
  let due := !first && upDue s
  (if due then timerTaken s else s, if first || due then stepUp s.thermal.s else s.thermal.s)

/-- The rates at an evaluation (R333 - R335, R347): a trip gives max(s, 4); `n` the step that the zone gives. -/
def evaluateRates (s : State) (n : Fin 8) : State :=
  let (t, trip) := rorEvaluate s
  let s := { s with thermal := { t with tripRaised := trip.isSome && t.s < 4 } }
  match trip with
  | none => setThrottle s n
  | some i => raise (setThrottle s (max n 4)) 14 i

/-- THERMAL_EVALUATION (R320 - R335, R347), every 8 ms: means, deviations, maximum, rates; a step up at the first evaluation above the
threshold or when one falls due here, and max(s, 4) at a trip, together one EV13. -/
def execThermalEvaluation (power : Rat) (s : State) : Host.Outcome State Fault Refusal :=
  if !monitorOn s || !periodDue s s.thermal.evalClk 8000 then .next s
  else
    let (s, n) := evaluateZone { s with thermal := { s.thermal with evalClk := some s.clk } } power
    .next (evaluateRates s n)

/-- A sensor meets the condition of R323: above 8 K at every evaluation of 4 s, which are 501. -/
def brokenNow (s : State) (i : Fin 8) : Bool := !sensorBad s i && 501 ≤ s.thermal.overCount[i]

/-- The sensor to be declared broken: of those that meet the condition the one with the largest deviation, the lowest number on a tie (R323). -/
def brokenSensor (s : State) : Option (Fin 8) :=
  (List.finRange 8).find? fun i => brokenNow s i && (List.finRange 8).all fun j => !brokenNow s j || ratAbs s.thermal.dev[j] ≤ ratAbs s.thermal.dev[i]

/-- The counts once a sensor is declared broken: it and the others that met the condition with it are evaluated afresh (R323). -/
def countsAfresh (s : State) : Vector Nat 8 := Vector.ofFn fun j : Fin 8 => if brokenNow s j then 0 else s.thermal.overCount[j]

/-- The step that R348 puts at the evaluation of a declaration; with a trip there that has raised s to 4 the two together give 4 (R347). -/
def brokenStep (s : State) : State :=
  if s.thermal.tripRaised && s.thermal.evalClk == some s.clk then s else setThrottle s (stepUp s.thermal.s)

/-- SENSOR_BROKEN (R323 - R326, R336, R347 - R349, R766): the sensor is declared broken, its replacement takes its place in the maximum, and the
others that met the condition are evaluated afresh; not in the first 4 s after the release of the power-on reset. -/
def execSensorBroken (sensor : Fin 8) (s : State) : Host.Outcome State Fault Refusal :=
  let t := s.thermal
  if !monitorOn s || brokenSensor s != some sensor || s.clk < t.releaseClk + 4000000 then .next s
  else
    let s := { s with thermal := { t with broken := t.broken ||| BitVec.ofNat 8 (2 ^ sensor.val), overCount := countsAfresh s
                                          dev := t.dev.set sensor.val 0, hot := t.hot.set sensor.val 0 } }
    let s := declareOpen s 0x15 true
    let (m, src) := reportedMax s s.thermal.mean
    let (s, up) := zoneStep { s with thermal := { s.thermal with max := m, source := src } }
    .next (if up then brokenStep s else s)

/-- THROTTLE_UP (R329, R347): the maximum has stayed above the threshold for 250 ms since the last step; on the moment of an evaluation it is that
evaluation that takes the step. -/
def execThrottleUp (s : State) : Host.Outcome State Fault Refusal :=
  .next (if monitorOn s && upDue s && !periodDue s s.thermal.evalClk 8000 then setThrottle (timerTaken s) (stepUp s.thermal.s) else s)

/-- THROTTLE_DOWN (R330, R334): the maximum has stayed at or below the threshold less 5 K for 2 s since the last step, and no hold is on. -/
def execThrottleDown (s : State) : Host.Outcome State Fault Refusal :=
  let due := s.thermal.zone == 0 && decide (s.thermal.stepClk + 2000000 ≤ s.clk)
  .next (if monitorOn s && due && !s.thermal.hold && s.thermal.s != 0 then setThrottle (timerTaken s) (s.thermal.s - 1) else s)

/-- ROR_HOLD_END (R334): both rates have stayed at or below the limit for 2 s after the trip. -/
def execRorHoldEnd (s : State) : Host.Outcome State Fault Refusal :=
  let ok := (s.thermal.okClk.map fun c => decide (c + 2000000 ≤ s.clk)).getD false
  .next (if s.thermal.hold && !s.thermal.trip && ok then { s with thermal := { s.thermal with hold := false } } else s)

/-- CLOCK_TRIM_UPDATE (R338), every 8 ms: the LOADCLK and KCLK trims from TS7 (or its replacement, R327). -/
def execClockTrimUpdate (s : State) : Host.Outcome State Fault Refusal :=
  if !monitorOn s || !periodDue s s.thermal.trimClk 8000 then .next s
  else
    let v := sensorValue s s.thermal.mean 7
    .next { s with thermal := { s.thermal with trims := (Config.loadTrim v, Config.kclkTrim v), trimClk := some s.clk } }

end Sys2Proof.Machine
end

