-- ==== Sys2Proof/Machine/Time.lean ====
section
/-! DEFINITION. The meanings of the timebase and Sluice commands (14). -/

namespace Sys2Proof.Machine

/-! PPS (R528 - R531). SYSCLK counts 24 576 000 cycles in its nominal second. -/

/-- An interval of 1 s within 150 ppm. -/
def ppsSecond (n : Nat) : Bool := 24576000 - 3686 ≤ n && n ≤ 24576000 + 3686

/-- Within 2 microseconds of the prediction, which has advanced over missing pulses (log 30). -/
def ppsGoodEdge (t : Time) (cycles : Nat) : Bool :=
  let n := t.ppsAdvanced + 1
  t.ppsPredicted && decide (((cycles : Int) - (n * t.ppsInterval : Nat)).natAbs ≤ 49) && ppsSecond (cycles / n)

/-- The error of an edge against Plumb: the PPS_IN delay removed, the sub-second part alone. -/
def ppsError (s : State) (raw : Int) : Int := (raw + cfgPpsDelay s + 500000000) % 1000000000 - 500000000

/-- The edge now, which only sets a prediction, belongs to the pulse that a qualified PPS awaits: no good edge of that pulse will come, and it is
still to be counted as missing (R530, R531). -/
def stillAwaited (s : State) : Bool := s.time.ppsQualified && decide (s.time.ppsDue ≤ s.clk + 500000)

/-- PPS_EDGE (R528 - R530, R533, R537, R835): an edge judged, and PPS qualified by the fourth good one in a row. `cycles`: SYSCLK cycles
since the last accepted edge; `phaseErr`: the whole second less Plumb's time at the edge, in ns. -/
def execPpsEdge (cycles : Nat) (phaseErr : Int) (conforming : Bool) (s : State) : Host.Outcome State Fault Refusal :=
  let t := s.time
  let early := (t.ppsPredicted || t.ppsInterval != 0) && cycles < 12288000
  if !isRunning s || !cfgPps s || !t.sysclk || !conforming || early then .next s
  else
    let good := ppsGoodEdge t cycles
    let n := cycles / (t.ppsAdvanced + 1)
    let interval := if ppsSecond n then n else if t.ppsInterval = 0 then 24576000 else t.ppsInterval
    if !good then
      let first := !t.ppsPredicted
      .next { s with time := { t with ppsInterval := interval, ppsAdvanced := 0, ppsPredicted := first, ppsGood := 0, ppsClk := s.clk,
                                      ppsDue := if first && !stillAwaited s then s.clk + intervalUs interval else t.ppsDue
                                      badPps := if first then t.badPps else sat16 t.badPps } }
    else
      let err := ppsError s phaseErr
      let inForce := t.state == .pps
      let (w, s) := if inForce then drawFree s else (0, s)
      let k := min 4 (t.ppsGood + 1)
      let s := { s with time := { t with
        ppsInterval := interval, ppsAdvanced := 0, ppsClk := s.clk, ppsDue := s.clk + intervalUs interval, ppsGood := k, ppsMissed := 0, goodPps := sat16 t.goodPps
        phaseErr := if inForce then err else t.phaseErr
        learned := if inForce then (w.toNat % 26214401 : Nat) - 13107200 else t.learned } }
      if t.ppsQualified || k < 4 then .next s
      else
        .next (sourceChanged { s with time := { s.time with ppsQualified := true } } (.qualified .pps err))

/-- No good edge came by the prediction plus 2 microseconds (R531). -/
def ppsOverdue (s : State) : Bool := decide (s.time.ppsDue + 2 ≤ s.clk)

/-- The prediction after a missing pulse (R531): it advances by one interval, unless an edge that was not good has set another one since. -/
def advancePps (t : Time) : Time :=
  let p := t.ppsClk + intervalUs ((t.ppsAdvanced + 1) * t.ppsInterval)
  if t.ppsPredicted && t.ppsDue + 500000 < p then { t with ppsDue := p }
  else { t with ppsDue := t.ppsDue + intervalUs t.ppsInterval, ppsAdvanced := t.ppsAdvanced + if t.ppsPredicted then 1 else 0 }

/-- PPS_MISSING (R531): at the third missing pulse in a row PPS is lost. -/
def execPpsMissing (s : State) : Host.Outcome State Fault Refusal :=
  let t := s.time
  if !isRunning s || !t.ppsQualified || !ppsOverdue s then .next s
  else
    let n := t.ppsMissed + 1
    if n < 3 then
      .next { s with time := { (advancePps t) with missingPps := sat16 t.missingPps, ppsMissed := n } }
    else
      let s := { s with time := { t with missingPps := sat16 t.missingPps, ppsMissed := 0, ppsAdvanced := 0, ppsQualified := false,
                                         ppsGood := 0, ppsPredicted := false } }
      .next (sourceChanged s (.lost .pps))

/-- SLEW_COMPLETE (R534, R535): the slew of the tick has left at most 1 microsecond of the error. -/
def execSlewComplete (s : State) : Host.Outcome State Fault Refusal :=
  match s.time.slew with
  | none => .next s
  | some r => .next (if r.natAbs ≤ usUnits then completeChange (withSlew s none) else s)

/-- The polynomial of R555 in 2^-16 ppm, as the correction Plumb applies. -/
def polyCorrection (s : State) : Int :=
  let c (k : Nat) : Rat := toRatD (f32At (sec s 3) (16 + 4 * k))
  let d := sensorDegrees s (cfgCrystalSensor s) + cfgCrystalOffset s - toRatD (f32At (sec s 3) 12)
  ratRNE (-(c 0 + c 1 * d + c 2 * d * d + c 3 * d * d * d) * 65536)

/-- HOLDOVER_CORRECTION (R533, R555), every 8 ms. -/
def execHoldoverCorrection (s : State) : Host.Outcome State Fault Refusal :=
  let due := (s.time.polyClk.map fun c => decide (c + 8000 ≤ s.clk)).getD true
  if isRunning s && s.time.state == .holdover && due then
    .next { s with time := { s.time with poly := polyCorrection s, polyClk := some s.clk } }
  else .next s

/-- PLUMB_WRAP (R523): the count has reached its end and passes it. The tick wraps the count the same way (log 1). -/
def execPlumbWrap (s : State) : Host.Outcome State Fault Refusal :=
  if s.time.counting && s.time.count == 0xFFFFFFFFFFFF then
    .next { s with time := { s.time with count := 0, era := s.time.era + 1, stride := 1 } }
  else .next s

/-- RTCCLK_STOP (R527, R561): the declared crystal stops; without SYSCLK, Plumb then does not count. It counts as stopped until the next handover
(log 130). -/
def execRtcclkStop (s : State) : Host.Outcome State Fault Refusal :=
  if !s.time.xtal then .next s
  else
    let s := { s with time := { s.time with xtalStopped := true } }
    .next (if s.time.sysclk then s else plumbStop s)

/-- SYSCLK_STOP (R562): Plumb counts on a declared crystal, else it holds; the loss is reported as clock loss (log 31). -/
def execSysclkStop (s : State) : Host.Outcome State Fault Refusal :=
  if !s.supply.vdd || !s.time.sysclk then .next s
  else
    let s := { s with time := { s.time with sysclk := false } }
    let s := if s.time.xtal && !s.time.xtalStopped then s else plumbStop s
    .next (if isRunning s then declareOpen s (if s.time.xtal then 0x04 else 0x07) false else s)

/-- PPS_OUT_PULSE (R542, R543): the count has passed a whole second; after a step, a pulse within 500 ms of the one before is omitted. -/
def execPpsOutPulse (s : State) : Host.Outcome State Fault Refusal :=
  let t := s.time
  let leftOut := t.ppsStepped && match t.ppsOutClk with
    | some c => decide (s.clk < c + 500000)
    | none => false
  if !isRunning s || !cfgPpsOut s || t.state == .free || !onCount s 1000000 || leftOut then .next s
  else .next { s with time := { t with ppsOut := true, ppsOutClk := some s.clk, ppsStepped := false } }

/-- PPS_OUT width in microseconds. -/
def cfgPpsWidth (s : State) : Nat := 1000 * u16 (sec s 3) 8

/-- PPS_OUT_FALL (R542): the configured width has passed. -/
def execPpsOutFall (s : State) : Host.Outcome State Fault Refusal :=
  let due := (s.time.ppsOutClk.map fun c => decide (c + cfgPpsWidth s ≤ s.clk)).getD true
  .next (if due then { s with time := { s.time with ppsOut := false } } else s)

/-! Host time set (R557, R563). -/

/-- The value of the time-set registers less Plumb's time, ns. -/
def timeSetError (s : State) : Int := ((time56 (s.time.setCount, s.time.setEra) * usUnits : Nat) - (plumbUnits s : Int)) / nsUnits

/-- Nearest whole number of seconds, ties to even (log 12). -/
def wholeSeconds (err : Int) : Int := divRNEInt err 1000000000

/-- The move chosen at the request; none: refused with NOT_IN_MODE. -/
def chooseTimeSet (s : State) : Option TimeMove :=
  let err := timeSetError s
  match s.time.state with
  | .chain => none
  | .pps =>
    let e := wholeSeconds err
    if e ≠ 0 && !cfgSteps s && s.time.valid then none else some (.seconds e)
  | _ => some (if bigError err && mayStep s then .step else .slew)

/-- The move waits for the rise of HCSn. -/
def holdMove (s : State) (m : TimeMove) : State := { s with host := { s.host with effect := .timeSet m } }

/-- TIME_SET (R557): judged now, carried out at the rise of HCSn. -/
def execTimeSet (f : HostFrame) (s : State) : Host.Outcome State Fault Refusal :=
  let s' := commandFrame s f 0x08 [] (argCount 0) fun s _ =>
    if !hasCal s then (stLocked, s) else if (chooseTimeSet s).isNone then (stNotInMode, s) else (stOk, s)
  let taken := hostAnswers s && frameComplete f f.payload && s'.host.response.head? == some stOk
  match taken, chooseTimeSet s with
  | true, some m => .next (holdMove s' m)
  | _, _ => .next s'

/-! Sluice. -/

/-- A slot that falls due at its time, and neither waits nor is held. -/
def slotReady (s : State) (x : Slot) : Bool := !x.waiting && !slotHeld s x && x.due.any fun d => d ≤ time56 (plumbNow s)

/-- How long an action waits for its resource (R549): G, or the shorter of G and P. -/
def slotGrace (s : State) (x : Slot) : Nat := if slotPeriodic x then min (cfgGrace s) (slotPeriod x) else cfgGrace s

/-- The deadline of a waiting action has passed. -/
def graceOver (s : State) (x : Slot) : Bool := x.due.any fun d => d + slotGrace s x < time56 (plumbNow s)

/-- A waiting action whose resource is free before the deadline (R549). -/
def slotFree (s : State) (x : Slot) : Bool := x.waiting && !graceOver s x && !slotBusy s x

/-- No lower slot that could start has the same due time: actions that fall due together start in ascending slot number (R547). -/
def slotTurn (s : State) (k : Fin 128) : Bool :=
  (List.finRange 128).all fun j => k ≤ j || !(slotReady s s.sluice[j] || slotFree s s.sluice[j]) || s.sluice[j].due != s.sluice[k].due

/-- SLUICE_ACTION_DUE (R547 - R549, R553, R554): Plumb has reached the slot's due time. -/
def execSluiceActionDue (slot : Fin 128) (s : State) : Host.Outcome State Fault Refusal :=
  if !isRunning s || !slotReady s s.sluice[slot] || !slotTurn s slot then .next s else .next (slotDue leaveSafe s slot false)

/-- SLUICE_RETRY (R547, R549, R550): the resource of a waiting action is free before the deadline. -/
def execSluiceRetry (slot : Fin 128) (s : State) : Host.Outcome State Fault Refusal :=
  let x := s.sluice[slot]
  if !isRunning s || !slotFree s x || !slotTurn s slot then .next s else .next (startSlot leaveSafe s slot x.forced)

/-- SLUICE_GRACE_EXPIRY (R549): at the deadline the waiting action is skipped. -/
def execSluiceGraceExpiry (slot : Fin 128) (s : State) : Host.Outcome State Fault Refusal :=
  let x := s.sluice[slot]
  match isRunning s && x.waiting, x.due with
  | true, some d =>
    let now := time56 (plumbNow s)
    .next (if d + slotGrace s x ≤ now then modSlot (skipSlot s slot) slot (advanceSlot false now d) else s)
  | _, _ => .next s

/-- The slot command on a slot (R558, R559). -/
def writeSlot (s : State) (k : Fin 128) (entry : List Byte) : Byte × State :=
  let now := time56 (plumbNow s)
  let x := { (loadSlot entry now s.sluice[k]) with byCommand := true }
  let put (s : State) : State := modSlot s k fun _ => x
  match slotPeriodic x || !s.time.valid, x.due with
  | false, some d =>
    if now ≤ d then (stOk, put s)
    else if d + cfgGrace s < now then (stExpired, s)
    else (stLateRun, slotDue leaveSafe (put s) k true)
  | _, _ => (stOk, put s)

/-- SLUICE_SLOT (R558, R559). -/
def execSluiceSlot (f : HostFrame) (s : State) : Host.Outcome State Fault Refusal :=
  .next (commandFrame s f 0x09 [] (argCount 20) fun s a =>
    if !hasCal s then (stLocked, s)
    else if h : u8 a 0 < 128 then
      let e := a.drop 4
      if !zeros a 1 3 || !slotOk (s.role == .pod) e then (stBadArg, s) else writeSlot s ⟨u8 a 0, h⟩ e
    else (stBadArg, s))

end Sys2Proof.Machine
end

