-- ==== Sys2Proof/Machine/Dispatch.lean ====
section
/-! DEFINITION. One arm per command: the call of its meaning. -/

namespace Sys2Proof.Machine

def exec (i : Instr) (s : State) : Host.Outcome State Fault Refusal :=
  match i with
  | .vddPorAssert rail => Sys2Proof.Machine.execVddPorAssert rail s
  | .vddPorRelease rolesel testen => Sys2Proof.Machine.execVddPorRelease rolesel testen s
  | .aoReset => Sys2Proof.Machine.execAoReset s
  | .vddioFall => Sys2Proof.Machine.execVddioFall s
  | .ioResetRelease => Sys2Proof.Machine.execIoResetRelease s
  | .vinUvlo => Sys2Proof.Machine.execVinUvlo s
  | .vinUvloEnd => Sys2Proof.Machine.execVinUvloEnd s
  | .vddFallAoSwitch => Sys2Proof.Machine.execVddFallAoSwitch s
  | .vratioFall => Sys2Proof.Machine.execVratioFall s
  | .vratioRise => Sys2Proof.Machine.execVratioRise s
  | .supplyExcursion supply volts us => Sys2Proof.Machine.execSupplyExcursion supply volts us s
  | .pinReset => Sys2Proof.Machine.execPinReset s
  | .resetnRelease => Sys2Proof.Machine.execResetnRelease s
  | .resetHoldEnd => Sys2Proof.Machine.execResetHoldEnd s
  | .railHoldExpiry => Sys2Proof.Machine.execRailHoldExpiry s
  | .footingStart fitted duration => Sys2Proof.Machine.execFootingStart fitted duration s
  | .flashWipTimeout => Sys2Proof.Machine.execFlashWipTimeout s
  | .handover o => Sys2Proof.Machine.execHandover o s
  | .footingLimit => Sys2Proof.Machine.execFootingLimit s
  | .modeRun f => Sys2Proof.Machine.execModeRun f s
  | .modeWatch f => Sys2Proof.Machine.execModeWatch f s
  | .modeSafe f => Sys2Proof.Machine.execModeSafe f s
  | .modeBoundary => Sys2Proof.Machine.execModeBoundary s
  | .safeAutoExit => Sys2Proof.Machine.execSafeAutoExit s
  | .housekeepingFrame m => Sys2Proof.Machine.execHousekeepingFrame m s
  | .frameBoundary o => Sys2Proof.Machine.execFrameBoundary o s
  | .coldStartSwitchOpen ch => Sys2Proof.Machine.execColdStartSwitchOpen ch s
  | .biasSlewStep ch => Sys2Proof.Machine.execBiasSlewStep ch s
  | .shortSwitchClose ch => Sys2Proof.Machine.execShortSwitchClose ch s
  | .potentiostatDisable ch => Sys2Proof.Machine.execPotentiostatDisable ch s
  | .warmupExpiry ch => Sys2Proof.Machine.execWarmupExpiry ch s
  | .complianceEnter ch o => Sys2Proof.Machine.execComplianceEnter ch o s
  | .complianceExit ch o => Sys2Proof.Machine.execComplianceExit ch o s
  | .bias f => Sys2Proof.Machine.execBias f s
  | .impedanceSweep f => Sys2Proof.Machine.execImpedanceSweep f s
  | .burnoutCheckEnd input volts => Sys2Proof.Machine.execBurnoutCheckEnd input volts s
  | .auxVisit o => Sys2Proof.Machine.execAuxVisit o s
  | .heaterLoopTick ch pulses => Sys2Proof.Machine.execHeaterLoopTick ch pulses s
  | .profileStepEnd ch => Sys2Proof.Machine.execProfileStepEnd ch s
  | .heaterFault ch pulses => Sys2Proof.Machine.execHeaterFault ch pulses s
  | .heaterSetTarget f => Sys2Proof.Machine.execHeaterSetTarget f s
  | .heaterResume f => Sys2Proof.Machine.execHeaterResume f s
  | .heaterOff f => Sys2Proof.Machine.execHeaterOff f s
  | .heaterClearFault f => Sys2Proof.Machine.execHeaterClearFault f s
  | .railStart => Sys2Proof.Machine.execRailStart s
  | .railPhaseCheckEnd o => Sys2Proof.Machine.execRailPhaseCheckEnd o s
  | .railSoftStartDone o => Sys2Proof.Machine.execRailSoftStartDone o s
  | .chainSwitchOn sw o => Sys2Proof.Machine.execChainSwitchOn sw o s
  | .chainSwitchFail sw o => Sys2Proof.Machine.execChainSwitchFail sw o s
  | .chainSwitchRetry sw => Sys2Proof.Machine.execChainSwitchRetry sw s
  | .railShedTick c => Sys2Proof.Machine.execRailShedTick c s
  | .chainShedValue c => Sys2Proof.Machine.execChainShedValue c s
  | .railRestore c => Sys2Proof.Machine.execRailRestore c s
  | .phaseOpen phase o => Sys2Proof.Machine.execPhaseOpen phase o s
  | .phaseSenseFail o => Sys2Proof.Machine.execPhaseSenseFail o s
  | .phaseRecheck o => Sys2Proof.Machine.execPhaseRecheck o s
  | .dropout o => Sys2Proof.Machine.execDropout o s
  | .hrsMismatch o => Sys2Proof.Machine.execHrsMismatch o s
  | .railOvervoltage o => Sys2Proof.Machine.execRailOvervoltage o s
  | .railOvervoltageEnd o => Sys2Proof.Machine.execRailOvervoltageEnd o s
  | .dieTempConversion readings => Sys2Proof.Machine.execDieTempConversion readings s
  | .thermalEvaluation power => Sys2Proof.Machine.execThermalEvaluation power s
  | .sensorBroken sensor => Sys2Proof.Machine.execSensorBroken sensor s
  | .throttleUp => Sys2Proof.Machine.execThrottleUp s
  | .throttleDown => Sys2Proof.Machine.execThrottleDown s
  | .rorHoldEnd => Sys2Proof.Machine.execRorHoldEnd s
  | .clockTrimUpdate => Sys2Proof.Machine.execClockTrimUpdate s
  | .calZero f => Sys2Proof.Machine.execCalZero f s
  | .calSpan f => Sys2Proof.Machine.execCalSpan f s
  | .calTwoPointFirst f => Sys2Proof.Machine.execCalTwoPointFirst f s
  | .calTwoPointSecond f => Sys2Proof.Machine.execCalTwoPointSecond f s
  | .calClear f => Sys2Proof.Machine.execCalClear f s
  | .calAbort f => Sys2Proof.Machine.execCalAbort f s
  | .calVerifyZero f => Sys2Proof.Machine.execCalVerifyZero f s
  | .calRunEnd => Sys2Proof.Machine.execCalRunEnd s
  | .pendingZeroExpiry => Sys2Proof.Machine.execPendingZeroExpiry s
  | .renderEraseComplete => Sys2Proof.Machine.execRenderEraseComplete s
  | .renderPageProgramComplete => Sys2Proof.Machine.execRenderPageProgramComplete s
  | .renderReadbackComplete diff => Sys2Proof.Machine.execRenderReadbackComplete diff s
  | .renderWriteTimeout => Sys2Proof.Machine.execRenderWriteTimeout s
  | .fastPathEvaluation rule packets mismatch => Sys2Proof.Machine.execFastPathEvaluation rule packets mismatch s
  | .rateEvaluation bad => Sys2Proof.Machine.execRateEvaluation bad s
  | .plumbMinuteEnd bad => Sys2Proof.Machine.execPlumbMinuteEnd bad s
  | .ruleInvalidTimeout rule => Sys2Proof.Machine.execRuleInvalidTimeout rule s
  | .acknowledgeRule f => Sys2Proof.Machine.execAcknowledgeRule f s
  | .ratioSlewTick out => Sys2Proof.Machine.execRatioSlewTick out s
  | .ratioReadback out code => Sys2Proof.Machine.execRatioReadback out code s
  | .alarmPinReadback pin low => Sys2Proof.Machine.execAlarmPinReadback pin low s
  | .mereEventApply tarn err => Sys2Proof.Machine.execMereEventApply tarn err s
  | .wakeDue tarn => Sys2Proof.Machine.execWakeDue tarn s
  | .spikeEmit tarn err => Sys2Proof.Machine.execSpikeEmit tarn err s
  | .encoderSlotDrain target => Sys2Proof.Machine.execEncoderSlotDrain target s
  | .classRecordWrite cls bad => Sys2Proof.Machine.execClassRecordWrite cls bad s
  | .mereStall tarn => Sys2Proof.Machine.execMereStall tarn s
  | .mereProbe f => Sys2Proof.Machine.execMereProbe f s
  | .probeSnapshot => Sys2Proof.Machine.execProbeSnapshot s
  | .ppsEdge cycles phaseErr conforming => Sys2Proof.Machine.execPpsEdge cycles phaseErr conforming s
  | .ppsMissing => Sys2Proof.Machine.execPpsMissing s
  | .slewComplete => Sys2Proof.Machine.execSlewComplete s
  | .holdoverCorrection => Sys2Proof.Machine.execHoldoverCorrection s
  | .plumbWrap => Sys2Proof.Machine.execPlumbWrap s
  | .rtcclkStop => Sys2Proof.Machine.execRtcclkStop s
  | .sysclkStop => Sys2Proof.Machine.execSysclkStop s
  | .ppsOutPulse => Sys2Proof.Machine.execPpsOutPulse s
  | .ppsOutFall => Sys2Proof.Machine.execPpsOutFall s
  | .timeSet f => Sys2Proof.Machine.execTimeSet f s
  | .sluiceActionDue slot => Sys2Proof.Machine.execSluiceActionDue slot s
  | .sluiceRetry slot => Sys2Proof.Machine.execSluiceRetry slot s
  | .sluiceGraceExpiry slot => Sys2Proof.Machine.execSluiceGraceExpiry slot s
  | .sluiceSlot f => Sys2Proof.Machine.execSluiceSlot f s
  | .lossOfSignal port repeating => Sys2Proof.Machine.execLossOfSignal port repeating s
  | .signalRestored port => Sys2Proof.Machine.execSignalRestored port s
  | .storedFrameSend port => Sys2Proof.Machine.execStoredFrameSend port s
  | .discover r => Sys2Proof.Machine.execDiscover r s
  | .discoverTimer => Sys2Proof.Machine.execDiscoverTimer s
  | .identity r => Sys2Proof.Machine.execIdentity r s
  | .enumerationCollectEnd => Sys2Proof.Machine.execEnumerationCollectEnd s
  | .assign r => Sys2Proof.Machine.execAssign r s
  | .assignRetry node => Sys2Proof.Machine.execAssignRetry node s
  | .bootStart r => Sys2Proof.Machine.execBootStart r s
  | .bootData r => Sys2Proof.Machine.execBootData r s
  | .bootEnd r => Sys2Proof.Machine.execBootEnd r s
  | .bootStatus r => Sys2Proof.Machine.execBootStatus r s
  | .bootStatusTimeout => Sys2Proof.Machine.execBootStatusTimeout s
  | .sweepTick => Sys2Proof.Machine.execSweepTick s
  | .creditSend => Sys2Proof.Machine.execCreditSend s
  | .sweepStart r => Sys2Proof.Machine.execSweepStart r s
  | .credit r => Sys2Proof.Machine.execCredit r s
  | .sweepReport r bad => Sys2Proof.Machine.execSweepReport r bad s
  | .sweepData r bad => Sys2Proof.Machine.execSweepData r bad s
  | .sweepEnd bad => Sys2Proof.Machine.execSweepEnd bad s
  | .sweepMissed => Sys2Proof.Machine.execSweepMissed s
  | .alarm r bad => Sys2Proof.Machine.execAlarm r bad s
  | .delayReq r => Sys2Proof.Machine.execDelayReq r s
  | .delayResp r => Sys2Proof.Machine.execDelayResp r s
  | .backlogReq r => Sys2Proof.Machine.execBacklogReq r s
  | .backlogData r => Sys2Proof.Machine.execBacklogData r s
  | .renderEntries r => Sys2Proof.Machine.execRenderEntries r s
  | .renderAck r => Sys2Proof.Machine.execRenderAck r s
  | .statusReq r => Sys2Proof.Machine.execStatusReq r s
  | .statusResp r => Sys2Proof.Machine.execStatusResp r s
  | .nak r => Sys2Proof.Machine.execNak r s
  | .podFaultPoll node => Sys2Proof.Machine.execPodFaultPoll node s
  | .read f => Sys2Proof.Machine.execRead f s
  | .registerWrite f => Sys2Proof.Machine.execRegisterWrite f s
  | .eventPendingClear f => Sys2Proof.Machine.execEventPendingClear f s
  | .queueMaskWrite f => Sys2Proof.Machine.execQueueMaskWrite f s
  | .irqMaskWrite f => Sys2Proof.Machine.execIrqMaskWrite f s
  | .keystoneInject f => Sys2Proof.Machine.execKeystoneInject f s
  | .injectionExpiry => Sys2Proof.Machine.execInjectionExpiry s
  | .linkTestControl port f => Sys2Proof.Machine.execLinkTestControl port f s
  | .linkTestInject port f => Sys2Proof.Machine.execLinkTestInject port f s
  | .replay f => Sys2Proof.Machine.execReplay f s
  | .results f => Sys2Proof.Machine.execResults f s
  | .log f => Sys2Proof.Machine.execLog f s
  | .events f => Sys2Proof.Machine.execEvents f s
  | .hostFrameEnd complete => Sys2Proof.Machine.execHostFrameEnd complete s
  | .hirqnReassert => Sys2Proof.Machine.execHirqnReassert s
  | .reset f => Sys2Proof.Machine.execReset f s
  | .acknowledgeAlarmLog f => Sys2Proof.Machine.execAcknowledgeAlarmLog f s
  | .remoteRegisterRead f => Sys2Proof.Machine.execRemoteRegisterRead f s
  | .openScope f => Sys2Proof.Machine.execOpenScope f s
  | .challenge f => Sys2Proof.Machine.execChallenge f s
  | .response f => Sys2Proof.Machine.execResponse f s
  | .password f => Sys2Proof.Machine.execPassword f s
  | .relock f => Sys2Proof.Machine.execRelock f s
  | .sealDevice f => Sys2Proof.Machine.execSeal f s
  | .sealComplete keyOk tagOk sealOk => Sys2Proof.Machine.execSealComplete keyOk tagOk sealOk s
  | .nonceExpiry => Sys2Proof.Machine.execNonceExpiry s
  | .lockoutExpiry => Sys2Proof.Machine.execLockoutExpiry s
  | .sessionInactivity scope => Sys2Proof.Machine.execSessionInactivity scope s
  | .timedLocalTest f => Sys2Proof.Machine.execTimedLocalTest f s
  | .timedTestEnd port errors => Sys2Proof.Machine.execTimedTestEnd port errors s
  | .stopAllTests f => Sys2Proof.Machine.execStopAllTests f s
  | .remoteLinkTest f => Sys2Proof.Machine.execRemoteLinkTest f s
  | .remoteTestStart => Sys2Proof.Machine.execRemoteTestStart s
  | .remoteTestEnd errors => Sys2Proof.Machine.execRemoteTestEnd errors s
  | .ltStart near r => Sys2Proof.Machine.execLtStart near r s
  | .ltAck r => Sys2Proof.Machine.execLtAck r s
  | .ltAbort r => Sys2Proof.Machine.execLtAbort r s
  | .ltDone r => Sys2Proof.Machine.execLtDone r s
  | .hostPortCheck f => Sys2Proof.Machine.execHostPortCheck f s
  | .flashCheck f => Sys2Proof.Machine.execFlashCheck f s
  | .flashCheckComplete reads duration => Sys2Proof.Machine.execFlashCheckComplete reads duration s
  | .referenceVote o => Sys2Proof.Machine.execReferenceVote o s
  | .clockCrossCount o => Sys2Proof.Machine.execClockCrossCount o s
  | .kclkLoss => Sys2Proof.Machine.execKclkLoss s
  | .testPattern fails => Sys2Proof.Machine.execTestPattern fails s
  | .watchdogService word => Sys2Proof.Machine.execWatchdogService word s
  | .watchdogExpiry => Sys2Proof.Machine.execWatchdogExpiry s
  | .startupTestsComplete failed => Sys2Proof.Machine.execStartupTestsComplete failed s
  | .faultClear code => Sys2Proof.Machine.execFaultClear code s
  | .scrubTick err => Sys2Proof.Machine.execScrubTick err s
  | .logSummary => Sys2Proof.Machine.execLogSummary s
  | .logSample entry => Sys2Proof.Machine.execLogSample entry s
  | .supplyRise rail => Sys2Proof.Machine.execSupplyRise rail s
  | .aoPowerOn fromVin => Sys2Proof.Machine.execAoPowerOn fromVin s
  | .cutThroughRepeat type busy r => Sys2Proof.Machine.execCutThroughRepeat type busy r s
  | .discoverReturn r => Sys2Proof.Machine.execDiscoverReturn r s
  | .checkerLock port rx => Sys2Proof.Machine.execCheckerLock port rx s
  | .checkerLockLoss port errors window => Sys2Proof.Machine.execCheckerLockLoss port errors window s
  | .errorThreshold port errors => Sys2Proof.Machine.execErrorThreshold port errors s

end Sys2Proof.Machine
end

