-- ==== Sys2Proof/WellFormed.lean ====
section
/-! DEFINITION. Which commands the outside can present: byte lists no longer than their length fields can say, readings
that a converter can give, a flash image in its canonical form. The meanings are total and do not assume it. -/

namespace Sys2Proof

/-- Addresses strictly rising from `lo` on, below `hi`, and no entry that says what an unlisted address reads as. -/
def flashContentWf (lo hi : Nat) : List (Nat × Byte) → Bool
  | [] => true
  | (a, b) :: l => lo ≤ a && a < hi && b != 0xFF && flashContentWf (a + 1) hi l

/-- A flash device: content below 2^32 in canonical form, an SFDP area below its 24-bit space, two status bytes (R77, R80). -/
def FlashChip.wellFormed (c : FlashChip) : Bool :=
  flashContentWf 0 (2 ^ 32) c.content && c.sfdp.length ≤ 2 ^ 24 && c.status05.length == 2 &&
    (c.missingByte == 0x00 || c.missingByte == 0xFF)

/-- A host request carries at most the bytes its 16-bit LENGTH can count (R653). -/
def HostFrame.wellFormed (f : HostFrame) : Bool := f.payload.length ≤ 65535

/-- A Course frame carries at most the bytes its 8-bit LEN can count (table Header). -/
def CourseRx.wellFormed (r : CourseRx) : Bool := r.payload.length ≤ 255

/-- Packets lie within the longest window, 64 frames of 4 s of MCLK (R15, R215). -/
def WeirObs.wellFormed (o : WeirObs) : Bool := o.tone.all fun p => p.t < 64 * 16384000

/-- A boundary's observation: every Weir's. -/
def BoundaryObs.wellFormed (o : BoundaryObs) : Bool := o.weirs.all WeirObs.wellFormed

/-- A pulse's voltages and current are not negative, and it lasts no longer than 64 periods of 5 microseconds (R241 - R243). -/
def HeaterPulse.wellFormed (o : HeaterPulse) : Bool :=
  0 ≤ o.vEnd && 0 ≤ o.iEnd && 0 ≤ o.vMean && 0 ≤ o.out && o.limitUs.all fun t => 0 ≤ t && t ≤ 320

/-- The check of one command. -/
def Instr.wellFormed : Instr → Bool
  | .footingStart (some c) _ => c.wellFormed
  | .frameBoundary o => o.wellFormed
  | .heaterLoopTick _ l | .heaterFault _ l => l.all HeaterPulse.wellFormed
  | .burnoutCheckEnd _ v => 0 ≤ v
  | .thermalEvaluation p => 0 ≤ p
  | .modeRun f | .modeWatch f | .modeSafe f | .bias f | .impedanceSweep f | .heaterSetTarget f | .heaterResume f
  | .heaterOff f | .heaterClearFault f | .calZero f | .calSpan f | .calTwoPointFirst f | .calTwoPointSecond f
  | .calClear f | .calAbort f | .calVerifyZero f | .acknowledgeRule f | .mereProbe f | .timeSet f | .sluiceSlot f
  | .read f | .registerWrite f | .eventPendingClear f | .queueMaskWrite f | .irqMaskWrite f | .keystoneInject f
  | .linkTestControl _ f | .linkTestInject _ f | .replay f | .results f | .log f | .events f | .reset f
  | .acknowledgeAlarmLog f | .remoteRegisterRead f | .openScope f | .challenge f | .response f | .password f
  | .relock f | .sealDevice f | .timedLocalTest f | .stopAllTests f | .remoteLinkTest f | .hostPortCheck f
  | .flashCheck f => f.wellFormed
  | .discover r | .identity r | .assign r | .bootStart r | .bootData r | .bootEnd r | .bootStatus r | .sweepStart r
  | .credit r | .sweepReport r _ | .sweepData r _ | .alarm r _ | .delayReq r | .delayResp r | .backlogReq r
  | .backlogData r | .renderEntries r | .renderAck r | .statusReq r | .statusResp r | .nak r | .ltStart _ r | .ltAck r
  | .ltAbort r | .ltDone r | .cutThroughRepeat _ _ r | .discoverReturn r => r.wellFormed
  | _ => true

end Sys2Proof
end

