-- ==== Sys2Proof/Safety.lean ====
section
/-! DEFINITION. What counts as a safe run, and the terms the statements are made in: a command completes in a state, a host frame is
taken, the invariants. -/

namespace Sys2Proof.Machine

/-- A step from `s` answers a next state. -/
def State.runsOn (s : State) : Prop := ∃ t, step s = .next t

/-- Command `c` completes at `s` in a state of which `p` holds. -/
def Completes (c : Instr) (s : State) (p : State → Prop) : Prop := ∃ t, exec c s = .next t ∧ p t

/-- The payload of a COMMAND frame whose row fixes its code and the bytes of `fix`, where the frame carries no reserved code of its own. -/
def commandPayload (f : HostFrame) (code : Byte) (fix : List (Nat × Byte)) : List Byte :=
  framePayload f (fixBytes f.payload ((0, code) :: fix))

/-- The argument bytes of a COMMAND frame. -/
def commandArgs (f : HostFrame) (code : Byte) (fix : List (Nat × Byte)) : List Byte := (commandPayload f code fix).drop 4

/-- The port takes the COMMAND frame: it is complete, passes the checks of R658 and R665, and carries no reserved code, with `n` argument bytes. -/
def CommandReady (s : State) (f : HostFrame) (code : Byte) (fix : List (Nat × Byte)) (n : Nat) : Prop :=
  hostAnswers s = true ∧ frameComplete f f.payload = true ∧ rowPayload f code fix = commandPayload f code fix ∧
    frameCheck s 0x10 f f.address.toNat (f.address == 0 && 4 ≤ f.length.toNat && f.length.toNat ≤ 256)
      (some (commandPayload f code fix)) false (0x20 ≤ code.toNat && code.toNat ≤ 0x27) = stOk ∧
    zeros (commandPayload f code fix) 1 3 = true ∧ (commandArgs f code fix).length = n

/-- The port takes the WRITE frame at `addr`: it is complete and passes the checks of R658. -/
def WriteReady (s : State) (f : HostFrame) (addr : Nat) (fix : List (Nat × Byte)) : Prop :=
  hostAnswers s = true ∧ frameComplete f f.payload = true ∧
    frameCheck s 0x02 f addr (1 ≤ f.length.toNat && f.length.toNat ≤ 256 && addr + f.length.toNat ≤ 0x10000)
      (some (framePayload f (fixBytes f.payload fix))) false false = stOk

/-- The port takes a frame whose payload asks for data: it is complete and passes the checks of R658. -/
def DataReady (s : State) (op : Byte) (f : HostFrame) (lenOk : Bool) : Prop :=
  hostAnswers s = true ∧ frameComplete f f.payload = true ∧
    frameCheck s op f f.address.toNat (f.address == 0 && lenOk) (some (framePayload f f.payload)) false false = stOk

/-- The answer to a COMMAND: its code and status on the mode page, the status in the response. -/
def replied (s : State) (f : HostFrame) (code st : Byte) : State := answer (noteCommand s code st) f st

/-- The first byte of the response is a status. -/
def answered (t : State) (st : Byte) : Prop := t.host.response.head? = some st

/-- A Gate scope (1 CAL, 2 DIAG, 3 TEST) is open in `x` as from `u` (R781, R792): its session starts now, an outstanding nonce of it lapses, and
EV28 is raised unless it was open; nothing else changes. -/
def Opened (u x : State) (c : Nat) : Prop :=
  x = { u with gate := x.gate, events := x.events } ∧
    x.gate = { u.gate with sessions := u.gate.sessions.set (scopeIdx c).val (some u.clk), nonce := u.gate.nonce.filter fun n => n.2.toNat != c
                           lastEvent := x.gate.lastEvent } ∧
    (u.gate.sessions[scopeIdx c] = none → x.events.pending.getLsbD 28 = true ∧ x.gate.lastEvent = BitVec.ofNat 8 (1 + 16 * 2 ^ (scopeIdx c).val)) ∧
    (u.gate.sessions[scopeIdx c] ≠ none → x.events = u.events ∧ x.gate.lastEvent = u.gate.lastEvent)

/-- A Gate failure has been counted (R782, R783): the lockout that follows starts at 1 s and doubles up to an hour, with EV28. -/
def Failed (u x : State) (c : Nat) : Prop :=
  x = { u with gate := x.gate, events := x.events } ∧
    x.gate = { u.gate with failures := sat16 u.gate.failures, lockout := x.gate.lockout, lastEvent := BitVec.ofNat 8 (5 + 16 * 2 ^ (scopeIdx c).val) } ∧
    x.events.pending.getLsbD 28 = true ∧
    (∀ n : Nat, x.gate.failures.toNat = n + 1 → n < 12 → x.gate.lockout = some (1000000 * min (2 ^ n) 3600)) ∧
    (12 < x.gate.failures.toNat → x.gate.lockout = some 3600000000)

/-- The open sessions among `bits` have ended (R787): with CAL the pending zero goes, with DIAG the link tests stop; EV28 tells, unless none
was open. -/
def SessionsEnded (u x : State) (bits : Nat) : Prop :=
  x = { u with gate := x.gate, events := x.events, cal := x.cal, course := x.course } ∧
    x.gate = { u.gate with sessions := x.gate.sessions, lastEvent := x.gate.lastEvent } ∧
    (∀ i : Fin 3, x.gate.sessions[i] = if bits.testBit i.val = true then none else u.gate.sessions[i]) ∧
    (sessionBits u &&& bits = 0 → x = u) ∧ (sessionBits u &&& bits ≠ 0 → x.events.pending.getLsbD 28 = true) ∧
    x.cal = { u.cal with pending := x.cal.pending } ∧
    (bits.testBit 0 = true → u.gate.sessions[(0 : Fin 3)] ≠ none → x.cal.pending = none) ∧
    (bits.testBit 1 = true → u.gate.sessions[(1 : Fin 3)] ≠ none → ∀ p : Fin 2, x.course.ports[p].control = 0 ∧ x.course.ports[p].timed = false) ∧
    (bits.testBit 1 = false → x.course = u.course)

/-! Course frames. -/

/-- The Course frame a command presents to a role, with its type; a DISCOVER, which is repeated as well, is not among them. -/
def courseFrame : Instr → Option (Role × Byte × CourseRx)
  | .identity r => some (.head, 0x02, r)
  | .bootStatus r => some (.head, 0x0B, r)
  | .sweepReport r _ => some (.head, 0x12, r)
  | .sweepData r _ => some (.head, 0x13, r)
  | .alarm r _ => some (.head, 0x14, r)
  | .delayReq r => some (.head, 0x15, r)
  | .backlogData r => some (.head, 0x21, r)
  | .renderAck r => some (.head, 0x23, r)
  | .statusResp r => some (.head, 0x25, r)
  | .nak r => some (.head, 0x26, r)
  | .ltAck r => some (.head, 0x29, r)
  | .ltDone r => some (.head, 0x2B, r)
  | .assign r => some (.pod, 0x03, r)
  | .bootStart r => some (.pod, 0x08, r)
  | .bootData r => some (.pod, 0x09, r)
  | .bootEnd r => some (.pod, 0x0A, r)
  | .sweepStart r => some (.pod, 0x10, r)
  | .credit r => some (.pod, 0x11, r)
  | .delayResp r => some (.pod, 0x16, r)
  | .backlogReq r => some (.pod, 0x20, r)
  | .renderEntries r => some (.pod, 0x22, r)
  | .statusReq r => some (.pod, 0x24, r)
  | .ltStart _ r => some (.pod, 0x28, r)
  | .ltAbort r => some (.pod, 0x2A, r)
  | _ => none

/-- The node of a role takes a frame: its port is enabled and not under test, the checks of R573 pass, it is the frame's destination. -/
def Takes (role : Role) (s : State) (type : Byte) (r : CourseRx) : Prop :=
  s.role = role ∧ s.course.ports[r.port].enabled = true ∧ underTest s.course.ports[r.port] = false ∧ rxFate s type r = .accepted ∧
    addressedHere s r = true ∧ (role = .head → isRunning s = true ∧ r.src ≠ 0)

/-- A frame has been accepted: counted, its sequence noted. -/
def received (s : State) (type : Byte) (r : CourseRx) : State := noteSeq (countPort s r.port 0) type r

/-- The joined pod of an address at the head. -/
def JoinedPod (s : State) (a : Byte) (n : Node) : Prop := s.course.nodes.find? (fun m => m.addr == a) = some n ∧ n.state = .joined

/-- A frame of that kind waits on a port. -/
def Waits (t : State) (p : Fin 2) (type dst : Byte) (payload : List Byte) : Prop :=
  ∃ f ∈ t.course.ports[p].txq, f.type = type ∧ f.dst = dst ∧ f.payload = payload ∧ f.repeated = false

/-- A port sends what this node originates. -/
def sends (s : State) (p : Fin 2) : Bool := s.course.ports[p].enabled && !underTest s.course.ports[p]

/-- What every warm reset leaves of the state before it (R146, R148 - R155, R308, table Retention): the reset of kind `k` runs, its cause
is recorded and counted, Plumb, bias, logs and the AO bits of the rules stay, the ratio outputs go to 3.0 %, heaters, sessions, images,
records and queue are gone; a rail that is on is held unless its hold time is 0 or the die was too hot. -/
def WarmResetFrom (k : WarmKind) (cause : Byte) (s t : State) : Prop :=
  t.phase = .reset k ∧ t.modes.resetCause = cause ∧ t.modes.warmResets = sat16 s.modes.warmResets ∧
    t.modes.record = s.modes.record ∧ t.time.count = s.time.count ∧ t.time.era = s.time.era ∧
    (∀ n : Fin 8, t.ec[n].dac = s.ec[n].dac ∧ t.ec[n].shorted = s.ec[n].shorted ∧ t.ec[n].enabled = s.ec[n].enabled) ∧
    (∀ n : Fin 6, t.mox[n].duty = 0) ∧
    (∀ k : Fin 256, t.spill.rules[k].aoLatched = s.spill.rules[k].aoLatched ∧ t.spill.rules[k].state = .clear) ∧
    t.spill.aLow = s.spill.aLow ∧ t.spill.bLow = s.spill.bLow ∧
    (∀ n : Fin 2, t.spill.aout[n].code = lowBand ∧ t.spill.aout[n].driven = s.spill.aout[n].driven) ∧
    (k = .thermal → t.rail.state = .off) ∧
    (k ≠ .thermal → (isRunning s = true → cfgRailHold s ≠ 0) → t.rail.state = if s.rail.state = .on then .on else .off) ∧
    t.log.general = s.log.general ∧ t.log.alarm = s.log.alarm ∧
    t.config = none ∧ t.results = [] ∧ t.events.queue = [] ∧ t.gate.sessions = Vector.replicate 3 none ∧
    t.gate.failures = s.gate.failures ∧ t.ks.active = s.ks.active ∧ t.host.stored = none ∧
    t.resetnLow = s.resetnLow ∧ t.supply = s.supply ∧ t.role = s.role ∧ t.flash = s.flash

/-- What a VDD power-on reset leaves of the state before it (R52, R64, R121, R147, R156, table Retention): its cause is recorded; bias, heaters, the rail
but for the lockout of a low VIN (R62), images, records, queue, logs, sessions, mode record and thermal latch are gone, and the ladder and vote
records cleared; Plumb's count and era, the alarm latches, the fault count, the Gate failure counter, the trip count and the flash stay. -/
def PowerResetFrom (s t : State) : Prop :=
  t.phase = .porHold ∧ t.modes.resetCause = 2 ∧ t.modes.warmResets = 0 ∧ t.modes.record = none ∧ t.modes.thermalLatch = false ∧
    t.ec = Vector.replicate 8 {} ∧ t.rail = { lockout := s.rail.lockout, uvloDue := s.rail.uvloDue } ∧
    t.mox = Vector.replicate 6 {} ∧ t.config = none ∧ t.results = [] ∧ t.events.queue = [] ∧
    t.log = {} ∧ t.gate.sessions = Vector.replicate 3 none ∧ t.ks.outA = false ∧ t.ks.outB = false ∧ t.ks.outC = false ∧
    t.thermal = { trips := s.thermal.trips } ∧
    t.time.count = s.time.count ∧ t.time.era = s.time.era ∧ t.spill.aLow = s.spill.aLow ∧ t.spill.bLow = s.spill.bLow ∧
    t.gate.failures = s.gate.failures ∧ t.ks.count = s.ks.count ∧ t.supply = s.supply ∧ t.flash = s.flash

/-- Stored bytes in canonical form: addresses strictly rising and no entry equal to what an unlisted address reads as, an erased byte. -/
abbrev Memory.wf (m : List Host.Cell) : Prop := m.Pairwise (fun p q => p.1 < q.1) ∧ ∀ p ∈ m, p.2 ≠ 0xFF

/-- The flash content is in canonical form. -/
def FlashCanonical (s : State) : Prop := Memory.wf s.flash.content

/-- The invariant of the step: the flash is canonical and every command that waits is one the outside can present. -/
def StepInvariant (s : State) : Prop := FlashCanonical s ∧ ∀ c ∈ s.pending, c.wellFormed = true

end Sys2Proof.Machine
end

