-- ==== Sys2Proof/Certificates/Slice0/Obligations.lean ====
section
/-! DEFINITION. The statements for the provers: what the spec's rules say the commands do. -/

open Sys2Proof Sys2Proof.Machine

/-- A step runs the command at the front of the queue; on an empty queue one tick passes. For every state whose queue holds a command c in front
of rest, step answers what exec answers for c on that state with rest as its queue. On an empty queue step answers the next state that the
tick gives. The queue and the tick are the model's own (log 1). -/
def Obligations.StepRunsFrontCommand : Prop :=
  (∀ (s : State) (c : Instr) (rest : List Instr), s.pending = c :: rest → step s = exec c { s with pending := rest }) ∧
  (∀ s : State, s.pending = [] → step s = .next (tick s))

/-- Every command answers a next state, in every state. For every command c and every state s, exec c s answers a next state: no command faults
or is refused, well-formed or not. (The spec gives the block no stop; that an event whose condition does not hold leaves the state as it is,
is the model's choice, log 2.) -/
def Obligations.EveryCommandAnswers : Prop :=
  ∀ (c : Instr) (s : State), ∃ t, exec c s = .next t

/-- No command touches the queue of commands that wait. For every command c and states s and t, if exec c s answers next t, the queue of t is
the queue of s. With StepRunsFrontCommand: a step takes exactly the front command off the queue. The queue is the model's own (log 1). -/
def Obligations.CommandsKeepQueue : Prop :=
  ∀ (c : Instr) (s t : State), exec c s = .next t → t.pending = s.pending

/-- No step changes the factory store. For all states s and t, if a step from s answers next t, the factory store (Cornerstone) of t is that of
s, whatever command was waiting. -/
def Obligations.FactoryStoreFixed : Prop :=
  ∀ s t : State, step s = .next t → t.cornerstone = s.cornerstone

/-- No step clears a seal bit that is set. For all states s and t, if the seal bit of s is set and a step from s answers next t, the seal bit of
t is set, whatever command was waiting: no command, reset or image unseals a device. -/
def Obligations.SealedStaysSealed : Prop :=
  ∀ s t : State, s.otp.sealBit = true → step s = .next t → t.otp.sealBit = true

/-- Every step keeps the flash in canonical form and the waiting commands well-formed. If the attached flash lists its bytes at strictly rising
addresses with no erased byte listed, and every waiting command is one that the outside can present (Instr.wellFormed), a step that answers
next t leaves both so: Render erases and page programs, a flash replaced at the start of Footing, and everything else keep the form. -/
def Obligations.FlashKeepsForm : Prop :=
  ∀ s t : State, StepInvariant s → step s = .next t → StepInvariant t

/-- Reset meets the invariant of FlashKeepsForm. State.reset has a flash in canonical form (nothing listed; an erased chip is the model's
choice, log 4) and no command waiting, and its VDD power-on reset is asserted with every supply absent (R42). -/
def Obligations.ResetMeetsInvariant : Prop :=
  StepInvariant State.reset ∧ State.reset.pending = [] ∧ State.reset.phase = .porHold ∧
    State.reset.supply.vdd = false ∧ State.reset.supply.vdda = false ∧ State.reset.supply.vddio = false

/-- The role changes at the release of the VDD power-on reset and nowhere else. For every command other than VDD_POR_RELEASE, in every state,
the next state has the role of the state before; VDD_POR_RELEASE outside the VDD power-on reset changes nothing. So changes of ROLESEL count
only at a release, and warm resets keep the role. -/
def Obligations.RoleFixedAfterSampling : Prop :=
  (∀ (c : Instr) (s t : State), (∀ rolesel testen, c ≠ .vddPorRelease rolesel testen) → exec c s = .next t → t.role = s.role) ∧
  (∀ (s : State) (rolesel testen : Bool), s.phase ≠ .porHold → exec (.vddPorRelease rolesel testen) s = .next s)

/-- A mode begins, and a configuration comes into force, at handover and nowhere else. For every command other than HANDOVER, in every state: if
the next state is in a mode, the state before was; and the configuration in force afterwards is the one before or none. The device is in a
mode only from handover until the next reset. -/
def Obligations.ModeFromHandoverOnly : Prop :=
  ∀ (c : Instr) (s t : State), (∀ o, c ≠ .handover o) → exec c s = .next t →
    (t.phase = .running → s.phase = .running) ∧ (t.config = s.config ∨ t.config = none)

/-- FAULTn is low in SAFE and from any reset until the start-up tests, and follows Keystone then. FAULTn is low in SAFE; it is low in every
phase that is no mode, and in a mode until Keystone's start-up tests are complete. In RUN and WATCH after them it is low exactly when KCLK
is lost, a fault code is active or a rule mapped to FAULTn counts as alarmed. -/
def Obligations.FaultnLowInSafeAndResets : Prop :=
  (∀ s : State, inSafe s = true → faultnLow s = true) ∧
  (∀ s : State, s.phase ≠ .running ∨ s.ks.started = false → faultnLow s = true) ∧
  (∀ s : State, isActive s = true → s.ks.started = true →
    (faultnLow s = true ↔ s.ks.kclkLost = true ∨ s.ks.active ≠ 0 ∨ anyAlarm s 2 = true))

/-- Supplies rise, the power-on reset releases and the AO domain is fed: what each event completes in. SUPPLY_RISE: with the power-on reset
asserted, the last of VDD, VDDA and VDDIO starts the release timer and the core; while another is missing it sets its own supply alone;
VDDIO in a warm reset starts the timer of the IO-supply release. VDD_POR_RELEASE, once the timer has run 1.6 ms (the shortest the spec
allows, log 123): ROLESEL gives the role, TESTEN high on a device that is not sealed gives production test, SYSCLK runs, bias is at its
initial state, the ratio outputs are powered at 3.0 %, and the phase is production, else Footing, else the wait for RESETn while it is low;
all else is unchanged; before, it changes nothing. AO_POWER_ON: the domain is up from VDD or VIN, and Plumb counts where a crystal is
declared. -/
def Obligations.SuppliesRiseAndRelease : Prop :=
  (∀ s : State, s.phase = .porHold → s.supply.vdda = true → s.supply.vddio = true →
    exec (.supplyRise .vdd) s =
      .next { s with supply := { s.supply with vdd := true, aoFromVin := false, coreRunning := true, releaseTimer := true, releaseFrom := s.clk } }) ∧
  (∀ s : State, s.phase = .porHold → s.supply.vdd = true → s.supply.vddio = true →
    exec (.supplyRise .vdda) s =
      .next { s with supply := { s.supply with vdda := true, coreRunning := true, releaseTimer := true, releaseFrom := s.clk } }) ∧
  (∀ s : State, s.phase = .porHold → s.supply.vdd = true → s.supply.vdda = true →
    exec (.supplyRise .vddio) s =
      .next { s with supply := { s.supply with vddio := true, ioFrom := s.clk, coreRunning := true, releaseTimer := true, releaseFrom := s.clk } }) ∧
  (∀ s : State, s.phase = .porHold → s.supply.vdda = false →
    exec (.supplyRise .vdd) s = .next { s with supply := { s.supply with vdd := true, aoFromVin := false } } ∧
    exec (.supplyRise .vddio) s = .next { s with supply := { s.supply with vddio := true, ioFrom := s.clk } }) ∧
  (∀ s : State, s.phase = .porHold → s.supply.vdd = false →
    exec (.supplyRise .vdda) s = .next { s with supply := { s.supply with vdda := true } }) ∧
  (∀ (s : State) (k : WarmKind), s.phase = .reset k →
    exec (.supplyRise .vddio) s = .next { s with supply := { s.supply with vddio := true, ioTimer := true, ioFrom := s.clk } }) ∧
  (∀ (s : State) (rolesel testen : Bool), s.clk < s.supply.releaseFrom + 1600 → exec (.vddPorRelease rolesel testen) s = .next s) ∧
  (∀ (s : State) (rolesel testen : Bool), s.phase = .porHold → s.supply.releaseTimer = true → s.supply.releaseFrom + 1600 ≤ s.clk →
    ∃ t, exec (.vddPorRelease rolesel testen) s = .next t ∧
      t = { s with role := t.role, testMode := t.testMode, supply := t.supply, ec := t.ec, thermal := t.thermal, time := t.time,
                   boot := t.boot, spill := t.spill, phase := t.phase } ∧
      t.role = (if rolesel then Role.head else Role.pod) ∧ t.testMode = (testen && !s.otp.sealBit) ∧
      t.supply = { s.supply with releaseTimer := false, ao := true, aoFromVin := false } ∧
      t.ec = Vector.replicate 8 {} ∧ t.time = { s.time with sysclk := true } ∧
      (∀ n : Fin 2, t.spill.aout[n].driven = true ∧ t.spill.aout[n].code = lowBand) ∧
      t.spill.aLow = s.spill.aLow ∧ t.spill.bLow = s.spill.bLow ∧ faultnLow t = true ∧
      t.phase = (if s.resetnLow then Phase.waitResetn else if testen && !s.otp.sealBit then Phase.production else Phase.footing)) ∧
  (∀ (s : State) (fromVin : Bool), s.supply.ao = false →
    exec (.aoPowerOn fromVin) s =
      .next { s with supply := { s.supply with ao := true, aoFromVin := fromVin, vin := s.supply.vin || fromVin },
                     time := { s.time with counting := s.time.xtal } })

/-- The VDD power-on reset and the AO reset: what they end and what they keep. VDD_POR_ASSERT outside that reset: the phase is the asserted
power-on reset with cause 0x02 and warm-reset count 0; bias, heaters, rail, configuration, result store, event queue, logs, sessions, mode
record and thermal latch are gone and the ratio outputs are unpowered; Plumb's count and era, the alarm latches, the Gate failure counter,
the fault count and the flash stay. A VDD that falls stops Plumb unless a declared crystal runs (R60). Within that reset only the supply and
what Plumb's count rests on change. AO_RESET: every field is at its reset value but for the queue, the model's clock and count of free
values, the pins, factory store, OTP and flash, VDDIO and VRATIO. -/
def Obligations.PowerOnAndAoResets : Prop :=
  (∀ (s : State) (rail : VddRail), s.phase ≠ .porHold →
    ∃ t, exec (.vddPorAssert rail) s = .next t ∧
      PowerResetFrom { s with supply := { s.supply with
        vdd := s.supply.vdd && rail != .vdd, vdda := s.supply.vdda && rail != .vdda,
        releaseTimer := false, ioTimer := false, coreRunning := false, above36 := false } } t ∧
      (∀ n : Fin 2, t.spill.aout[n].driven = false)) ∧
  (∀ (s : State) (rail : VddRail), s.phase = .porHold →
    ∃ t, exec (.vddPorAssert rail) s = .next t ∧ t = { s with supply := t.supply, time := t.time } ∧
      t.time.count = s.time.count ∧ t.time.era = s.time.era ∧ t.time.counting = (s.time.counting && (rail != .vdd || (s.time.xtal && !s.time.xtalStopped))) ∧
      t.supply.releaseTimer = false ∧ t.supply.vdd = (s.supply.vdd && rail != .vdd) ∧ t.supply.vdda = (s.supply.vdda && rail != .vdda)) ∧
  (∀ s : State, exec .aoReset s = .next { State.reset with
    pending := s.pending, clk := s.clk, freeCount := s.freeCount, resetnLow := s.resetnLow, role := s.role,
    cornerstone := s.cornerstone, otp := s.otp, flash := s.flash,
    supply := { vddio := s.supply.vddio, vratio := s.supply.vratio } })

/-- Each warm reset starts with its own cause and keeps what every warm reset keeps. Outside the power-on reset, PIN_RESET starts a pin reset
(cause 0x03) and VDDIO_FALL an IO-supply reset (0x06). In a mode with the watchdog running, WATCHDOG_EXPIRY once its time has passed, and
WATCHDOG_SERVICE with a word other than the expected one, start a watchdog reset (0x04), as FOOTING_LIMIT does in the third second of
Footing. RESET, taken by the host port with a CAL session open, starts a command reset (0x05) and the response says OK. What each leaves is
WarmResetFrom: Plumb, bias, logs, record, alarm latches, AO bits of the rules, fault word and failure counter as before, a rail that is on
held, heaters off, ratio outputs at 3.0 %, images, records, queue and sessions gone. With the power-on reset asserted, PIN_RESET and
VDDIO_FALL change only their pin and supply. -/
def Obligations.WarmResetsStart : Prop :=
  (∀ s : State, s.phase ≠ .porHold → ∃ t, exec .pinReset s = .next t ∧ WarmResetFrom .pin 3 { s with resetnLow := true } t) ∧
  (∀ s : State, s.phase = .porHold → exec .pinReset s = .next { s with resetnLow := true }) ∧
  (∀ s : State, s.phase ≠ .porHold → ∃ t, exec .vddioFall s = .next t ∧
    WarmResetFrom .ioSupply 6 { s with supply := { s.supply with vddio := false, releaseTimer := false, ioTimer := false } } t) ∧
  (∀ s : State, s.phase = .porHold →
    exec .vddioFall s = .next { s with supply := { s.supply with vddio := false, releaseTimer := false, ioTimer := false } }) ∧
  (∀ (s : State) (c : Nat), isRunning s = true → s.ks.wdClk = some c → c + watchdogUs s ≤ s.clk →
    ∃ t, exec .watchdogExpiry s = .next t ∧ WarmResetFrom .watchdog 4 s t) ∧
  (∀ (s : State) (word : Byte), isRunning s = true → s.ks.wdClk.isSome = true → word ≠ s.ks.wdWord →
    ∃ t, exec (.watchdogService word) s = .next t ∧ WarmResetFrom .watchdog 4 s t) ∧
  (∀ s : State, s.phase = .footing ∨ s.phase = .loaded → s.boot.startClk + 3000000 ≤ s.clk →
    ∃ t, exec .footingLimit s = .next t ∧ WarmResetFrom .watchdog 4 s t) ∧
  (∀ (s : State) (f : HostFrame), CommandReady s f 0x02 [] 0 → hasCal (sessionActivity s) = true →
    ∃ t, exec (.reset f) s = .next t ∧ WarmResetFrom .command 5 (replied (sessionActivity s) f 0x02 stOk) t ∧ answered t stOk)

/-- Each warm reset ends into Footing, and the good watchdog word restarts the watchdog. RESETN_RELEASE ends a pin reset or Footing's wait for
RESETn, RESET_HOLD_END after 100 us a watchdog, command or thermal reset, IO_RESET_RELEASE, with VDDIO back and 1.6 ms of its timer over
(log 123), an IO-supply reset: the phase becomes the wait for RESETn while it is low, else production in test mode, with the identity page
by the Cornerstone check (R819), else Footing, whose time starts; nothing else changes but RESETn and the timer. While VDDIO holds the
device, the other two leave the IO-supply reset (R44, R146); before its time RESET_HOLD_END changes nothing. WATCHDOG_SERVICE with the
expected word restarts the watchdog and expects the other word. -/
def Obligations.ResetsEnd : Prop :=
  (∀ s : State, s.phase = .reset .pin ∨ s.phase = .waitResetn →
    exec .resetnRelease s =
      .next { s with resetnLow := false
                     boot := { s.boot with startClk := s.clk
                                           idValid := if s.supply.vddio && !s.supply.ioTimer && s.testMode then s.cornerstone.ok else s.boot.idValid }
                     phase := if !s.supply.vddio || s.supply.ioTimer then Phase.reset .ioSupply
                       else if s.testMode then Phase.production else Phase.footing }) ∧
  (∀ s : State, s.phase = .reset .watchdog ∨ s.phase = .reset .command ∨ s.phase = .reset .thermal →
    (s.clk < s.modes.resetClk + 100 → exec .resetHoldEnd s = .next s) ∧
    (s.modes.resetClk + 100 ≤ s.clk → exec .resetHoldEnd s =
      .next { s with boot := { s.boot with
                       startClk := s.clk
                       idValid := if s.supply.vddio && !s.supply.ioTimer && !s.resetnLow && s.testMode then s.cornerstone.ok else s.boot.idValid }
                     phase := if !s.supply.vddio || s.supply.ioTimer then Phase.reset .ioSupply
                       else if s.resetnLow then Phase.waitResetn else if s.testMode then Phase.production else Phase.footing })) ∧
  (∀ s : State, s.phase = .reset .ioSupply → s.supply.vddio = true → s.supply.ioTimer = true → s.supply.ioFrom + 1600 ≤ s.clk →
    exec .ioResetRelease s =
      .next { s with supply := { s.supply with ioTimer := false }
                     boot := { s.boot with startClk := s.clk, idValid := if !s.resetnLow && s.testMode then s.cornerstone.ok else s.boot.idValid }
                     phase := if s.resetnLow then Phase.waitResetn else if s.testMode then Phase.production else Phase.footing }) ∧
  (∀ s : State, isRunning s = true → s.ks.wdClk.isSome = true →
    exec (.watchdogService s.ks.wdWord) s =
      .next { s with ks := { s.ks with wdWord := if s.ks.wdWord = 0x5A then 0xA5 else 0x5A, wdClk := some s.clk } })

/-- The supply monitors: VIN lockout, the AO regulator's source, VRATIO and excursions. VIN_UVLO in a mode, at the start of an episode: VIN
counts as low, rail, chain power and heaters are off, the lockout is shown and EV10 is pending; with VDD up outside a mode the same, and one
more EV10 waits for the next handover; within the episode nothing changes. VIN_UVLO_END: VIN is back, the lockout ends, and a rail that is
wanted begins its phase check. VDD_FALL_AO_SWITCH with VIN valid: the AO regulator is fed from VIN and AO content is not disturbed: alarm
latches, fault record, Gate counters, mode record and Plumb's count and era stay; Plumb goes on counting only on a declared crystal that
runs. VRATIO_FALL with a ratio output present: the enabled outputs are in the low fault band, marked as faulted, and code 0x10 is active.
VRATIO_RISE: their fault state ends. SUPPLY_EXCURSION of 50 us or more beyond a limit of R66 (VIN above 36 V; VDD and VDDA above 3.6 V or
below 2.95 V; VDDIO above 3.6 V or below 1.62 V; VRATIO, with a ratio output present, above 5.5 V): code 0x16 is active with EV03 pending, a
recorded entry has the supply as argument, and there is no reset. -/
def Obligations.SupplyMonitors : Prop :=
  (∀ s : State, isRunning s = true → s.supply.vdd = true → s.supply.vin = true ∨ s.rail.lockout = false →
    ∃ t, exec .vinUvlo s = .next t ∧ t = { s with supply := t.supply, rail := t.rail, thermal := t.thermal, mox := t.mox, events := t.events } ∧
      t.supply = { s.supply with vin := false } ∧ t.rail.state = .off ∧ (∀ n : Fin 2, t.rail.sw[n].state = .off) ∧
      (∀ n : Fin 6, t.mox[n].duty = 0) ∧ t.rail.lockout = true ∧ t.events.pending.getLsbD 10 = true) ∧
  (∀ s : State, isRunning s = false → s.supply.vdd = true → s.supply.vin = true ∨ s.rail.lockout = false →
    ∃ t, exec .vinUvlo s = .next t ∧ t = { s with supply := t.supply, rail := t.rail, thermal := t.thermal, mox := t.mox } ∧
      t.supply = { s.supply with vin := false } ∧ t.rail.state = .off ∧ (∀ n : Fin 2, t.rail.sw[n].state = .off) ∧
      (∀ n : Fin 6, t.mox[n].duty = 0) ∧ t.rail.lockout = true ∧ t.rail.uvloDue = s.rail.uvloDue + 1) ∧
  (∀ s : State, s.supply.vin = false → s.rail.lockout = true → exec .vinUvlo s = .next s) ∧
  (∀ s : State, ∃ t, exec .vinUvloEnd s = .next t ∧
      t = { s with supply := t.supply, rail := t.rail, thermal := t.thermal, ks := t.ks, modes := t.modes } ∧
      t.supply = { s.supply with vin := true } ∧ t.rail.lockout = false ∧
      (railWanted { s with supply := t.supply, rail := { s.rail with lockout := false } } = true → s.rail.state = .off →
        t.rail.state = .phaseCheck)) ∧
  (∀ s : State, s.supply.vin = true → ∃ t, exec .vddFallAoSwitch s = .next t ∧
      t = { s with supply := t.supply, time := t.time } ∧ t.supply = { s.supply with aoFromVin := true } ∧
      t.time.count = s.time.count ∧ t.time.era = s.time.era ∧ t.time.counting = (s.time.counting && s.time.xtal && !s.time.xtalStopped)) ∧
  (∀ s : State, isRunning s = true → aoutPresent s 0 = true ∨ aoutPresent s 1 = true →
    ∃ t, exec .vratioFall s = .next t ∧ t.supply.vratio = false ∧ faultActive t 0x10 = true ∧
      (∀ n : Fin 2, aoutPresent s n = true → s.spill.aout[n].driven = true → t.spill.aout[n].code = lowBand) ∧
      (∀ n : Fin 2, aoutPresent s n = true → t.spill.aout[n].fault = true)) ∧
  (∀ s : State, isRunning s = true → ∃ t, exec .vratioRise s = .next t ∧ t = { s with supply := t.supply, spill := t.spill, ks := t.ks } ∧
      t.ks.active = s.ks.active ∧
      t.supply = { s.supply with vratio := true } ∧ (∀ n : Fin 2, aoutPresent s n = true → t.spill.aout[n].fault = false)) ∧
  (∀ (s : State) (n : Fin 5) (v : Rat) (us : Nat), isRunning s = true → 50 ≤ us →
    (n = 0 ∧ 36 < v) ∨ ((n = 1 ∨ n = 2) ∧ (36 / 10 < v ∨ v < 295 / 100)) ∨ (n = 3 ∧ (36 / 10 < v ∨ v < 162 / 100)) ∨
      (n = 4 ∧ 55 / 10 < v ∧ (aoutPresent s 0 = true ∨ aoutPresent s 1 = true)) → faultActive s 0x16 = false →
    ∃ t, exec (.supplyExcursion n v us) s = .next t ∧ faultActive t 0x16 = true ∧ t.phase = s.phase ∧
      t.ks.records = s.ks.records.set s.ks.index.val
        { code := 0x16, arg := BitVec.ofNat 16 n.val, time := s.time.count, era := s.time.era, active := true, masked := false } ∧
      t.ks.index = s.ks.index + 1 ∧ t.events.pending.getLsbD 3 = true)

/-- Footing: the Cornerstone check, the missing flash, the pod's wait; handover enters the mode of R128. FOOTING_START in Footing: with a failed
Cornerstone check no image is loaded and SAFE cause 0x01 waits for handover; a pod with a good one repeats frames and waits for the head; a
head whose flash reports a write in progress waits for it, one whose flash is missing (every byte 0x00) or, by FLASH_WIP_TIMEOUT, has stayed
busy for 500 ms, ends with cause 0x02; a head with an idle flash ends Footing with the images it loads. HANDOVER ends Footing: the device is
in a mode, FAULTn is low, the configuration in force in a head is the one Footing accepted, queue, stores, role and supplies stay, and the
boot fields of the identity page are filled (R703). The first mode, as bootEnter gives it: SAFE when the thermal latch is set, Footing has
ended in SAFE or SYSCLK does not run; else in a head the mode of the AO record under RESUME when it is RUN or WATCH, else the start mode; in
a pod the mode the head has announced, else SAFE without a cause (the model's choice, log 63). The anchor accepted: baseline reads at 12 MHz
without SFDP; else the widest mode that the BFPT, the anchor and the quad-enable bit allow (its fields where log 18 places them), NSCK at 24
MHz unless the anchor caps it, and 4-byte addresses only above 128 Mbit. -/
def Obligations.FootingLoadsAndHandsOver : Prop :=
  (∀ (s : State) (fitted : Option FlashChip) (d : BitVec 32), s.phase = .footing → s.cornerstone.ok = false →
    exec (.footingStart fitted d) s = .next { s with
      flash := fitted.getD s.flash, phase := .loaded, cal := { s.cal with render := none },
      boot := { idValid := false, duration := d, startClk := s.boot.startClk, safeCause := some 1 } }) ∧
  (∀ (s : State) (fitted : Option FlashChip) (d : BitVec 32), s.phase = .footing → s.cornerstone.ok = true → s.role = .pod →
    exec (.footingStart fitted d) s = .next { s with
      flash := fitted.getD s.flash, phase := .podWait, boot := { idValid := true, duration := d, startClk := s.boot.startClk },
      course := { s.course with ports := s.course.ports.map fun p => { p with enabled := true } } }) ∧
  (∀ (s : State) (c : FlashChip) (d : BitVec 32), s.phase = .footing → s.cornerstone.ok = true → s.role = .head →
    c.present = false → c.missingByte = 0x00 →
    ∃ t, exec (.footingStart (some c) d) s = .next t ∧ t.phase = .loaded ∧ t.boot.safeCause = some 2 ∧ t.boot.idValid = true ∧
      t.config = s.config ∧ t.cal.render = none) ∧
  (∀ (s : State) (fitted : Option FlashChip) (d : BitVec 32), s.phase = .footing → s.cornerstone.ok = true → s.role = .head →
    (fitted.getD s.flash).present = true → bit (u8 (fitted.getD s.flash).status05 0) 0 = true →
    exec (.footingStart fitted d) s = .next { s with
      flash := fitted.getD s.flash
      boot := { idValid := true, duration := d, startClk := s.boot.startClk, wipClk := some (s.boot.wipClk.getD s.clk) } }) ∧
  (∀ (s : State) (fitted : Option FlashChip) (d : BitVec 32), s.phase = .footing → s.cornerstone.ok = true → s.role = .head →
    (fitted.getD s.flash).present = true → bit (u8 (fitted.getD s.flash).status05 0) 0 = false →
    ∃ t, exec (.footingStart fitted d) s = .next t ∧
      t = { s with flash := fitted.getD s.flash, phase := .loaded, boot := t.boot, cal := { s.cal with render := t.cal.render } } ∧
      t.boot.idValid = true ∧ t.boot.reported = false) ∧
  (∀ (s : State) (c : Nat), s.phase = .footing → s.cornerstone.ok = true → s.role = .head → s.boot.wipClk = some c → c + 500000 ≤ s.clk →
    exec .flashWipTimeout s = .next { s with phase := .loaded, cal := { s.cal with render := none },
                                             boot := { s.boot with safeCause := some 2 } }) ∧
  (∀ (s : State) (o : HandoverObs), s.phase = .loaded →
    ∃ t, exec (.handover o) s = .next t ∧ t.phase = .running ∧ faultnLow t = true ∧ t.role = s.role ∧ t.supply = s.supply ∧
      t.flash = s.flash ∧ t.otp = s.otp ∧ t.boot.reported = true ∧ (s.role = .head → t.config = s.boot.config)) ∧
  (∀ (x : State) (o : HandoverObs), x.modes.thermalLatch = true ∨ x.boot.safeCause.isSome = true ∨ o.sysclkRunning = false →
    (bootEnter o x).modes.mode = .safe) ∧
  (∀ (x : State) (o : HandoverObs), x.role = .head → x.modes.thermalLatch = false → x.boot.safeCause = none → x.config.isSome = true →
    o.sysclkRunning = true → watchdogLimit x = false →
    (bootEnter o x).modes.mode =
      (if cfgResume x = true ∧ x.modes.record = some .run then Mode.run
       else if cfgResume x = true ∧ x.modes.record = some .watch then Mode.watch
       else startMode x)) ∧
  (∀ (x : State) (o : HandoverObs) (m : Mode), x.role = .pod → x.modes.thermalLatch = false → x.boot.safeCause = none → x.config.isSome = true →
    o.sysclkRunning = true → watchdogLimit x = false → x.course.pod.autonomous = false →
    (x.course.pod.sweepClk ≠ 0 → x.course.pod.headMode = modeCode m → (bootEnter o x).modes.mode = m) ∧
    (x.course.pod.sweepClk = 0 → (bootEnter o x).modes.mode = .safe ∧ (bootEnter o x).modes.causes = 0)) ∧
  (∀ (c : FlashChip) (f : Option Sfdp) (a : List Byte) (b : Boot), ∃ t : Boot, acceptAnchor c f a b = t ∧
    (f = none → t.readMode = .baseline ∧ t.fourByte = false ∧ t.fastClock = false) ∧
    (∀ g, f = some g → (t.fastClock = true ↔ bit (u8 a 5) 2 = false) ∧ t.readMode ≠ .baseline ∧
      (t.readMode = .quad ↔ bit (bfptWord g 1) 22 = true ∧ u8 a 5 % 4 = 2 ∧ quadEnabled c g = true) ∧
      (t.readMode = .dual ↔ t.readMode ≠ .quad ∧ bit (bfptWord g 1) 16 = true ∧ 1 ≤ u8 a 5 % 4) ∧
      (t.fourByte = true → 2 ^ 27 < sfdpDensity g)))

/-- Mode requests, the boundary, the exit from SAFE: what each completes in. The host port takes a mode command whose reserved bytes are 0. In
RUN or WATCH, MODE_RUN and MODE_WATCH for the other mode are noted as pending with OK under HOSTMODE and refused with NOT_IN_MODE without
it; for the mode in force they answer OK and only drop a pending request, with no event. In SAFE they clear causes 0x06, 0x08 and 0x09: with
a cause left the answer is NOT_IN_MODE and the mode stays; with none the device leaves SAFE into the mode with OK and EV04. MODE_SAFE is
always accepted: from RUN or WATCH the device enters SAFE with cause 0x08, EV04 pending; in SAFE it only adds the cause. MODE_BOUNDARY, at a
boundary at which every frame ends, carries out the pending request: mode, AO record and EV04; elsewhere, or with none pending, it does
nothing. In a pod in contact the mode pending is the head's, from SAFE too once no cause is left; an autonomous pod has none. SAFE_AUTO_EXIT
of a head under AUTO with no cause left but a 0x06 that is gone (a 0x07 that is gone has been cleared), for the SAFE hold time, enters the
start mode, where that is not SAFE (log 134). -/
def Obligations.ModeRequests : Prop :=
  (∀ (s : State) (f : HostFrame), CommandReady s f 0x01 [(4, 0)] 4 → zeros (commandArgs f 0x01 [(4, 0)]) 1 3 = true →
    let u := sessionActivity s
    (u.modes.mode = .watch → cfgHostMode u = true →
      exec (.modeRun f) s = .next (replied { u with modes := { u.modes with hostReq := some .run } } f 0x01 stOk)) ∧
    (u.modes.mode = .watch → cfgHostMode u = false → exec (.modeRun f) s = .next (replied u f 0x01 stNotInMode)) ∧
    (u.modes.mode = .run →
      exec (.modeRun f) s = .next (replied { u with modes := { u.modes with hostReq := none } } f 0x01 stOk)) ∧
    (u.modes.mode = .safe → u.modes.causes &&& ~~~(0x0340 : BitVec 16) ≠ 0 →
      exec (.modeRun f) s =
        .next (replied { u with modes := { u.modes with causes := u.modes.causes &&& ~~~(0x0340 : BitVec 16) } } f 0x01 stNotInMode)) ∧
    (u.modes.mode = .safe → u.modes.causes &&& ~~~(0x0340 : BitVec 16) = 0 →
      ∃ t, exec (.modeRun f) s = .next t ∧ t.modes.mode = .run ∧ t.modes.record = some .run ∧ t.modes.causes = 0 ∧
        t.events.pending.getLsbD 4 = true ∧ answered t stOk)) ∧
  (∀ (s : State) (f : HostFrame), CommandReady s f 0x01 [(4, 1)] 4 → zeros (commandArgs f 0x01 [(4, 1)]) 1 3 = true →
    let u := sessionActivity s
    (u.modes.mode = .run → cfgHostMode u = true →
      exec (.modeWatch f) s = .next (replied { u with modes := { u.modes with hostReq := some .watch } } f 0x01 stOk)) ∧
    (u.modes.mode = .run → cfgHostMode u = false → exec (.modeWatch f) s = .next (replied u f 0x01 stNotInMode)) ∧
    (u.modes.mode = .watch →
      exec (.modeWatch f) s = .next (replied { u with modes := { u.modes with hostReq := none } } f 0x01 stOk)) ∧
    (u.modes.mode = .safe → u.modes.causes &&& ~~~(0x0340 : BitVec 16) ≠ 0 →
      exec (.modeWatch f) s =
        .next (replied { u with modes := { u.modes with causes := u.modes.causes &&& ~~~(0x0340 : BitVec 16) } } f 0x01 stNotInMode)) ∧
    (u.modes.mode = .safe → u.modes.causes &&& ~~~(0x0340 : BitVec 16) = 0 →
      ∃ t, exec (.modeWatch f) s = .next t ∧ t.modes.mode = .watch ∧ t.modes.record = some .watch ∧ t.modes.causes = 0 ∧
        t.events.pending.getLsbD 4 = true ∧ answered t stOk)) ∧
  (∀ (s : State) (f : HostFrame), CommandReady s f 0x01 [(4, 2)] 4 → zeros (commandArgs f 0x01 [(4, 2)]) 1 3 = true →
    let u := sessionActivity s
    (isActive u = true → ∃ t, exec (.modeSafe f) s = .next t ∧ t.modes.mode = .safe ∧ t.modes.causes.getLsbD 8 = true ∧
      t.modes.record = some .safe ∧ t.events.pending.getLsbD 4 = true ∧ t.modes.hostReq = none ∧ answered t stOk) ∧
    (inSafe u = true → ∃ t, exec (.modeSafe f) s = .next t ∧ t.modes.mode = .safe ∧ t.modes.causes = u.modes.causes ||| 0x0100 ∧
      t.modes.record = u.modes.record ∧ t.events.pending.getLsbD 4 = u.events.pending.getLsbD 4 ∧ answered t stOk)) ∧
  (∀ s : State, allEndHere s = false ∨ pendingMode s = none → exec .modeBoundary s = .next s) ∧
  (∀ s : State, s.role = .pod → s.course.pod.autonomous = true → exec .modeBoundary s = .next s) ∧
  (∀ (s : State) (m : Mode), isRunning s = true → allEndHere s = true → s.role = .pod → s.course.pod.autonomous = false →
    s.course.pod.sweepClk ≠ 0 → s.course.pod.headMode = modeCode m → m ≠ .safe → s.modes.mode ≠ m → (s.modes.mode = .safe → s.modes.causes = 0) →
    ∃ t, exec .modeBoundary s = .next t ∧ t.modes.mode = m ∧ t.modes.record = some m ∧ t.events.pending.getLsbD 4 = true) ∧
  (∀ (s : State) (m : Mode), isActive s = true → allEndHere s = true → s.role = .head → s.modes.hostReq = some m → m ≠ .safe →
    ∃ t, exec .modeBoundary s = .next t ∧ t.modes.mode = m ∧ t.modes.record = some m ∧ t.modes.hostReq = none ∧
      t.modes.oldMode = modeCode s.modes.mode ∧ t.events.pending.getLsbD 4 = true) ∧
  (∀ (s : State) (c : Nat), inSafe s = true → s.role = .head → cfgAuto s = true →
    s.modes.causes = 0 ∨ (s.modes.causes = 0x0040 ∧ s.modes.railCauseGone = true) →
    s.modes.goneClk = some c → c + cfgSafeHold s ≤ s.clk → startMode s ≠ .safe →
    ∃ t, exec .safeAutoExit s = .next t ∧ t.modes.mode = startMode s ∧ t.modes.causes = 0 ∧ t.events.pending.getLsbD 4 = true)

/-- Cold start, slew, retirement and warm-up of a bias channel, and what SAFE holds. In RUN and WATCH: COLD_START_SWITCH_OPEN on a channel at
step 1 for 1 ms opens the shorting switch, starts the cold warm-up timer (none for a warm-up time of 0) and lets the slew run, the first
step one step period of the rate in force later. BIAS_SLEW_STEP moves a biased channel whose step is due by one 2 microvolt step towards its
target and not past it, a retiring channel towards 0 V at 1000 microvolt/s, which it reaches; the next step is due one period on, and before
it is due nothing moves. SHORT_SWITCH_CLOSE closes the switch of a channel that has been at 0 V for 1 ms, and POTENTIOSTAT_DISABLE disables
its potentiostat 1 ms later. WARMUP_EXPIRY ends the warm-up of a channel whose timer has expired. Before their moments these commands change
nothing. In SAFE the step, the opening and the closing change nothing. -/
def Obligations.BiasStartsSlewsAndRetires : Prop :=
  (∀ (s : State) (n : Fin 8), isActive s = true → s.ec[n].stage = .cold → s.ec[n].stageClk + 1000 ≤ s.clk →
    exec (.coldStartSwitchOpen n) s = .next { s with ec := vmod s.ec n fun c =>
      { c with shorted := false, stage := .biased, stepDue := (s.clk : Rat) + 2 * 10 ^ 6 / (c.rate : Rat)
               warmUntil := if ecCold s n = 0 then none else some (s.clk + 1000000 * ecCold s n)
               warmEnd := if ecCold s n = 0 then s.clk else c.warmEnd } }) ∧
  (∀ (s : State) (n : Fin 8), isActive s = true → s.ec[n].stage = .biased → s.ec[n].stepDue ≤ (s.clk : Rat) →
    ∃ (d : Int) (q : Rat), exec (.biasSlewStep n) s = .next { s with ec := vmod s.ec n fun c => { c with dac := d, stepDue := q } } ∧
      (s.ec[n].dac < s.ec[n].target → d = s.ec[n].dac + 1) ∧ (s.ec[n].target < s.ec[n].dac → d = s.ec[n].dac - 1) ∧
      (s.ec[n].dac = s.ec[n].target → d = s.ec[n].dac ∧ q = s.ec[n].stepDue) ∧
      (s.ec[n].dac ≠ s.ec[n].target → q = s.ec[n].stepDue + 2 * 10 ^ 6 / (s.ec[n].rate : Rat))) ∧
  (∀ (s : State) (n : Fin 8), isActive s = true → s.ec[n].stage = .retiring → s.ec[n].stepDue ≤ (s.clk : Rat) →
    ∃ (d : Int) (q : Rat) (g : BiasStage) (k : Nat),
      exec (.biasSlewStep n) s = .next { s with ec := vmod s.ec n fun c => { c with dac := d, stepDue := q, stage := g, stageClk := k } } ∧
      (s.ec[n].dac < 0 → d = s.ec[n].dac + 1) ∧ (0 < s.ec[n].dac → d = s.ec[n].dac - 1) ∧ (s.ec[n].dac = 0 → d = 0) ∧
      (s.ec[n].dac ≠ 0 → q = s.ec[n].stepDue + 2000) ∧
      (g = .retiredAtZero ↔ d = 0) ∧ (d = 0 → k = s.clk) ∧ (d ≠ 0 → g = .retiring ∧ k = s.ec[n].stageClk)) ∧
  (∀ (s : State) (n : Fin 8), s.ec[n].stage = .biased ∨ (s.ec[n].stage = .retiring ∧ s.ec[n].dac ≠ 0) → (s.clk : Rat) < s.ec[n].stepDue →
    exec (.biasSlewStep n) s = .next s) ∧
  (∀ (s : State) (n : Fin 8), isActive s = true → s.ec[n].stage = .retiredAtZero → s.ec[n].stageClk + 1000 ≤ s.clk →
    exec (.shortSwitchClose n) s = .next { s with ec := vmod s.ec n fun c =>
      { c with shorted := true, stage := .retiredShorted, stageClk := s.clk } }) ∧
  (∀ (s : State) (n : Fin 8), isRunning s = true → s.ec[n].stage = .retiredShorted → s.ec[n].stageClk + 1000 ≤ s.clk →
    exec (.potentiostatDisable n) s = .next { s with ec := vmod s.ec n fun c => { c with enabled := false, stage := .off } }) ∧
  (∀ (s : State) (n : Fin 8), s.clk < s.ec[n].stageClk + 1000 →
    exec (.coldStartSwitchOpen n) s = .next s ∧ exec (.shortSwitchClose n) s = .next s ∧ exec (.potentiostatDisable n) s = .next s) ∧
  (∀ (s : State) (n : Fin 8) (e : Nat), s.ec[n].warmUntil = some e →
    (e ≤ s.clk → exec (.warmupExpiry (.ec n)) s = .next { s with ec := vmod s.ec n fun c => { c with warmUntil := none, warmEnd := s.clk } }) ∧
    (s.clk < e → exec (.warmupExpiry (.ec n)) s = .next s)) ∧
  (∀ (s : State) (n : Fin 6) (e : Nat), s.mox[n].warmUntil = some e →
    (e ≤ s.clk → exec (.warmupExpiry (.mox n)) s = .next { s with mox := vmod s.mox n fun m => { m with warmUntil := none } }) ∧
    (s.clk < e → exec (.warmupExpiry (.mox n)) s = .next s)) ∧
  (∀ (s : State) (n : Fin 8), inSafe s = true →
    exec (.coldStartSwitchOpen n) s = .next s ∧ exec (.biasSlewStep n) s = .next s ∧ exec (.shortSwitchClose n) s = .next s)

/-- Compliance: one EV09 per episode with the VCN of WE1. In a mode, COMPLIANCE_ENTER on a present channel whose potentiostat is enabled and
that is not in compliance, with the counter electrode within 50 mV of 2.2 V about VDD/2 or at 250 microampere for 1 ms, puts it into
compliance, marks a tone window in progress, and raises EV09 with the VCN of its WE1; an absent channel, one in compliance already, and a
shorter time at the limit change nothing. COMPLIANCE_EXIT after 1 s out of the limit ends the episode; a frame in progress still counts as
touched. All else is unchanged. -/
def Obligations.ComplianceEpisodes : Prop :=
  (∀ (s : State) (n : Fin 8) (o : CeObs), isRunning s = true → ecPresent s n = true → s.ec[n].enabled = true → s.ec[n].compliance = false →
    (215 / 100 : Rat) ≤ ratAbs o.volts ∨ (250 / 10 ^ 6 : Rat) ≤ ratAbs o.amps → 1000 ≤ o.us →
    exec (.complianceEnter n o) s = .next (raise { s with
      ec := vmod s.ec n fun c => { c with compliance := true }
      tones := vmod s.tones n fun t => { t with open_ := t.open_ || t.active } } 9 (256 * (ownNode s).toNat + 2 * n.val))) ∧
  (∀ (s : State) (n : Fin 8) (o : CeObs), s.ec[n].compliance = true ∨ ecPresent s n = false ∨ o.us < 1000 →
    exec (.complianceEnter n o) s = .next s) ∧
  (∀ (s : State) (n : Fin 8) (o : CeObs), s.ec[n].compliance = true → ratAbs o.volts < (215 / 100 : Rat) →
    ratAbs o.amps < (250 / 10 ^ 6 : Rat) → 1000000 ≤ o.us →
    exec (.complianceExit n o) s = .next { s with ec := vmod s.ec n fun c =>
      { c with compliance := false, complianceTail := s.weirs[(⟨2 * n.val, by omega⟩ : Fin 23)].on } }) ∧
  (∀ (s : State) (n : Fin 8) (o : CeObs), o.us < 1000000 → exec (.complianceExit n o) s = .next s)

/-- BIAS and IMPEDANCE_SWEEP: refusals in their order and effects. The host port takes BIAS with 12 argument bytes: without a CAL session
LOCKED; with one, BAD_ARG when the channel number is no present channel, a reserved byte is not 0, target or rate is out of range or the
target breaks the tone limit of R214; else NOT_IN_MODE in SAFE; else OK: a new target replaces the one in force, with the rate given (0: the
rate in force stays) and the next step one period of it on (the model's choice, log 100), an equal target changes nothing. IMPEDANCE_SWEEP
with 4 argument bytes: BAD_ARG for a non-zero reserved byte, a masked channel not in sweep mode or (the model's choice, log 17) an empty
mask; BUSY when every masked channel is sweeping; NOT_IN_MODE in SAFE; else OK, and exactly the masked channels that were idle start a sweep
at its first point. -/
def Obligations.BiasAndSweepCommands : Prop :=
  (∀ (s : State) (f : HostFrame), CommandReady s f 0x04 [] 12 →
    let u := sessionActivity s
    let a := commandArgs f 0x04 []
    let t := signed 32 (u32 a 4)
    (hasCal u = false → exec (.bias f) s = .next (replied u f 0x04 stLocked)) ∧
    (hasCal u = true → 8 ≤ u8 a 0 ∨ zeros a 1 3 = false ∨ t < -500000 ∨ 500000 < t ∨ 100000 < u32 a 8 →
      exec (.bias f) s = .next (replied u f 0x04 stBadArg)) ∧
    (∀ n : Fin 8, hasCal u = true → u8 a 0 = n.val → ecPresent u n = false ∨ biasFitsTone u n t = false →
      exec (.bias f) s = .next (replied u f 0x04 stBadArg)) ∧
    (∀ n : Fin 8, hasCal u = true → u8 a 0 = n.val → zeros a 1 3 = true → -500000 ≤ t → t ≤ 500000 → u32 a 8 ≤ 100000 →
      ecPresent u n = true → biasFitsTone u n t = true →
      (inSafe u = true → exec (.bias f) s = .next (replied u f 0x04 stNotInMode)) ∧
      (inSafe u = false → exec (.bias f) s = .next (replied { u with ec := vmod u.ec n fun c =>
        if c.target = t then c else
          { c with target := t, rate := if u32 a 8 = 0 then c.rate else u32 a 8
                   stepDue := if c.stage = .biased then (u.clk : Rat) + 2 * 10 ^ 6 / ((if u32 a 8 = 0 then c.rate else u32 a 8 : Nat) : Rat)
                     else c.stepDue } } f 0x04 stOk)))) ∧
  (∀ (s : State) (f : HostFrame), CommandReady s f 0x06 [] 4 →
    let u := sessionActivity s
    let a := commandArgs f 0x06 []
    let l := maskChannels (u8 a 0)
    (l = [] ∨ zeros a 1 3 = false ∨ (∃ n ∈ l, toneMode u n ≠ 2) → exec (.impedanceSweep f) s = .next (replied u f 0x06 stBadArg)) ∧
    (l ≠ [] → zeros a 1 3 = true → (∀ n ∈ l, toneMode u n = 2) → (∀ n ∈ l, u.tones[n].sweeping = true) →
      exec (.impedanceSweep f) s = .next (replied u f 0x06 stBusy)) ∧
    (l ≠ [] → zeros a 1 3 = true → (∀ n ∈ l, toneMode u n = 2) → (∃ n ∈ l, u.tones[n].sweeping = false) → inSafe u = true →
      exec (.impedanceSweep f) s = .next (replied u f 0x06 stNotInMode)) ∧
    (l ≠ [] → zeros a 1 3 = true → (∀ n ∈ l, toneMode u n = 2) → (∃ n ∈ l, u.tones[n].sweeping = false) → inSafe u = false →
      ∃ v, exec (.impedanceSweep f) s = .next (replied { u with tones := v } f 0x06 stOk) ∧
        ∀ n : Fin 8, if n ∈ l ∧ u.tones[n].sweeping = false then v[n].sweeping = true ∧ v[n].point = 0 ∧ v[n].late = false
          else v[n] = u.tones[n]))

/-- A burn-out check compares with the open threshold; an AUX visit connects and converts its input alone. BURNOUT_CHECK_END of an AUX input in
its visit, after gap, discharge and check time, or of a film after its check time from the frame start, with the check of this frame not yet
made: the check is made, the input is open exactly when the voltage is above the configured threshold, and EV09 with the input's VCN is
raised when an episode begins; an AUX input is then disconnected for the gap; all else is unchanged. AUX_VISIT at the end of the visit in
progress stores the conversion of its input, when W23 does not shadow W22: the raw value is the net charge in units of Q/32 rounded to even,
and V = 1.25 V + raw x Q_cal/32 x R_aux / t_c; the visit of EXS stores V(AUX_EXS); each is OVERRANGE when the span was hit or its end code
is 0 or 4095 (R183); the next visit begins; all else is unchanged. In a visit without a check the mux node is open for the gap, at mid-scale
for the discharge time, then at the visited ball. -/
def Obligations.BurnOutAndAuxVisit : Prop :=
  (∀ (s : State) (n : Fin 4) (v : Rat), burnDue s (.aux n) = true → visitNow s = some (.input n) →
    s.aux.visitClk + auxGap s + auxDischarge s + burnUs s (.input n) ≤ s.clk →
    let o := decide (((burnCfg s (.aux n)).2.2.2 : Rat) / 100 < v)
    let t := { s with burns := vmod s.burns (burnIdx (.aux n)) fun b => { b with active := true, isOpen := o }
                      aux := { s.aux with connected := none } }
    (o = true → s.burns[burnIdx (.aux n)].isOpen = false →
      exec (.burnoutCheckEnd (.aux n) v) s = .next (raise t 9 (ownVcn s (0x20 + n.val)).toNat)) ∧
    (o = false ∨ s.burns[burnIdx (.aux n)].isOpen = true → exec (.burnoutCheckEnd (.aux n) v) s = .next t)) ∧
  (∀ (s : State) (n : Fin 6) (c : Nat) (v : Rat), burnDue s (.film n) = true → s.weirs[weirOfFilm n].frameClk = some c →
    c + 2 + 100 * u8 (filmBurn s n) 2 ≤ s.clk →
    let o := decide (((burnCfg s (.film n)).2.2.2 : Rat) / 100 < v)
    let t := { s with burns := vmod s.burns (burnIdx (.film n)) fun b => { b with active := true, isOpen := o } }
    (o = true → s.burns[burnIdx (.film n)].isOpen = false →
      exec (.burnoutCheckEnd (.film n) v) s = .next (raise t 9 (ownVcn s (0x10 + n.val)).toNat)) ∧
    (o = false ∨ s.burns[burnIdx (.film n)].isOpen = true → exec (.burnoutCheckEnd (.film n) v) s = .next t)) ∧
  (∀ (s : State) (n : Fin 4) (o : AuxObs), isActive s = true → visitNow s = some (.input n) → o.slot = .input n → o.shadow = none →
    (s.aux.visitClk : Rat) + visitUs s (.input n) ≤ (s.clk : Rat) →
    let raw := ratRNE (((o.pos.toNat : Rat) - (o.neg.toNat : Rat)) * 32 +
      (((o.endCode.toNat : Rat) - 2048) - ((o.startCode.toNat : Rat) - 2048)))
    ∃ c : AuxConv, exec (.auxVisit o) s = .next { s with aux := { s.aux with
        connected := some ⟨n.val, by omega⟩, visits := s.aux.visits + 1, visitClk := s.clk, conv := s.aux.conv.set n.val (some c) } } ∧
      c.raw = raw ∧ c.volts = 5 / 4 + (raw : Rat) * (qCal s 22 3 / 32) * s.cornerstone.rAux / auxTime s n ∧
      c.ovr = spanReached o.spanHit o.endCode ∧ c.bad = false ∧ c.shadowed = visitedNow s 22) ∧
  (∀ (s : State) (o : AuxObs), isActive s = true → visitNow s = some .exs → o.slot = .exs → o.shadow = none →
    (s.aux.visitClk : Rat) + visitUs s .exs ≤ (s.clk : Rat) →
    let raw := ratRNE (((o.pos.toNat : Rat) - (o.neg.toNat : Rat)) * 32 +
      (((o.endCode.toNat : Rat) - 2048) - ((o.startCode.toNat : Rat) - 2048)))
    exec (.auxVisit o) s = .next { s with aux := { s.aux with
      connected := some 4, visits := s.aux.visits + 1, visitClk := s.clk
      exs := some (5 / 4 + (raw : Rat) * (qCal s 22 3 / 32) * s.cornerstone.rAux / ((Config.exsTime : Rat) / 10000))
      exsOvr := spanReached o.spanHit o.endCode, exsBad := false } }) ∧
  (∀ (s : State) (k : AuxSlot), visitNow s = some k → slotBurns s k = false →
    (s.clk < s.aux.visitClk + auxGap s → s.aux.visitClk ≤ s.clk → muxNode s = .open_) ∧
    (s.aux.visitClk + auxGap s ≤ s.clk → s.clk < s.aux.visitClk + auxGap s + auxDischarge s → muxNode s = .mid) ∧
    (s.aux.visitClk + auxGap s + auxDischarge s ≤ s.clk → muxNode s = .ball (slotBall k)))

/-- FRAME_BOUNDARY and the working electrodes: the frames that end, their raw values and carries, their records, the next frames. One
FRAME_BOUNDARY, in which neither shadow nor duplicates disagree, is the boundary of every path whose frame length the Plumb time has just
reached a whole multiple of. Supplies, reset and boot state, configuration, rail, Sluice, host port, Gate, flash, bias code, target, stage
and switch of every channel stay. A working electrode that is at no boundary, or does not convert, keeps its Weir as it is. Its first
boundary starts conversion; the boundary of a frame that a Plumb step has cut ends it without a record, and the next one starts with a fresh
residue and carry 0. Every other boundary ends a frame: its charge is the net packets plus the change of residue, its raw value that charge
in units of Q/32 plus the rescaled carry, rounded to even, and the remainder is the next carry; the next range is the same without AUTO and
within the limits with it, the maximum after OVERRANGE. Where no rule and no sensor model applies and the reference is settled, the store
then holds the frame's record: its sequence, Plumb's count at the boundary, the raw field, and the current in ampere, through stage 1, or
NaN. -/
def Obligations.ElectrodeFrames : Prop :=
  (∀ (s : State) (o : BoundaryObs), (∀ w : Fin 23, o.weirs[w].shadow = none) → o.lin = [] → o.bad = [] →
    ∃ t, exec (.frameBoundary o) s = .next t ∧
      t = { s with freeCount := t.freeCount, sysOn := t.sysOn, sysDrop := t.sysDrop, sysClk := t.sysClk, modes := t.modes, ec := t.ec,
                   weirs := t.weirs, tones := t.tones, burns := t.burns, aux := t.aux, mox := t.mox, thermal := t.thermal, cal := t.cal,
                   spill := t.spill, mere := t.mere, time := t.time, course := t.course, events := t.events, results := t.results,
                   log := t.log, ks := t.ks } ∧
      t.modes.mode = s.modes.mode ∧ t.time = { s.time with refExternal := t.time.refExternal, refBandgap := t.time.refBandgap } ∧
      t.thermal = { s.thermal with frameSum := t.thermal.frameSum, frameN := t.thermal.frameN } ∧
      (∀ n : Fin 8, t.ec[n].dac = s.ec[n].dac ∧ t.ec[n].target = s.ec[n].target ∧ t.ec[n].stage = s.ec[n].stage ∧
        t.ec[n].shorted = s.ec[n].shorted ∧ t.ec[n].warmUntil = s.ec[n].warmUntil ∧ t.ec[n].compliance = s.ec[n].compliance) ∧
      (∀ w : Fin 16, pathRuns s (weirOfWe w) = false ∨ onGrid s (pathUs s (weirOfWe w)) = false ∨
        s.weirs[weirOfWe w].frameClk = some s.clk → t.weirs[weirOfWe w] = s.weirs[weirOfWe w])) ∧
  (∀ (s : State) (w : Fin 16) (o : BoundaryObs), (∀ w : Fin 23, o.weirs[w].shadow = none) → o.lin = [] → o.bad = [] →
    pathRuns s (weirOfWe w) = true → onGrid s (pathUs s (weirOfWe w)) = true → s.weirs[weirOfWe w].on = false →
    s.weirs[weirOfWe w].frameClk ≠ some s.clk →
    ∃ t, exec (.frameBoundary o) s = .next t ∧
      t.weirs[weirOfWe w] = { s.weirs[weirOfWe w] with on := true, frameClk := some s.clk, dropFrame := false, ts4Sum := 0, ts4N := 0 }) ∧
  (∀ (s : State) (w : Fin 16) (o : BoundaryObs) (e : VcnEntry), (∀ w : Fin 23, o.weirs[w].shadow = none) → o.lin = [] → o.bad = [] →
    pathRuns s (weirOfWe w) = true → onGrid s (pathUs s (weirOfWe w)) = true → s.weirs[weirOfWe w].on = true →
    s.weirs[weirOfWe w].frameClk ≠ some s.clk → s.weirs[weirOfWe w].dropFrame = true → entryOf s (ownVcn s w.val) = some e →
    ∃ t e', exec (.frameBoundary o) s = .next t ∧ entryOf t (ownVcn s w.val) = some e' ∧
      e'.record = e.record ∧ e'.skipped = e.skipped + 1 ∧ e'.frameSeq = nextSeq e.frameSeq ∧
      t.weirs[weirOfWe w].residue = none ∧ t.weirs[weirOfWe w].carry = 0 ∧ t.weirs[weirOfWe w].dropFrame = false) ∧
  (∀ (s : State) (w : Fin 16) (o : BoundaryObs), (∀ w : Fin 23, o.weirs[w].shadow = none) → o.lin = [] → o.bad = [] →
    pathRuns s (weirOfWe w) = true → onGrid s (pathUs s (weirOfWe w)) = true → s.weirs[weirOfWe w].on = true →
    s.weirs[weirOfWe w].frameClk ≠ some s.clk → s.weirs[weirOfWe w].dropFrame = false →
    let f := weirOfWe w
    let x := s.weirs[f]
    let q := o.weirs[f]
    let r := x.range
    let ctl := rangeCtl s f
    let charge : Rat := ((q.pos.toNat : Rat) - (q.neg.toNat : Rat)) * qNom r +
      (residueCharge r q.endCode - x.residue.getD (residueCharge r q.startCode))
    let units : Rat := charge / (qNom r / 32) + x.carry * qNom x.lastRange / qNom r
    let raw := ratRNE units
    ∃ (t : State) (g : Fin 4), exec (.frameBoundary o) s = .next t ∧
      t.weirs[f] = { x with
        range := g, residue := some (residueCharge r q.endCode), carry := units - (raw : Rat), lastRange := r, frameClk := some s.clk
        ts4Sum := 0, ts4N := 0 } ∧
      (bit ctl 4 = false → g = r) ∧
      (bit ctl 4 = true → field ctl 0 2 ≤ field ctl 2 2 → field ctl 0 2 ≤ g.val ∧ g.val ≤ field ctl 2 2 ∧
        (q.spanHit = true ∨ q.endCode = 0 ∨ q.endCode = 4095 → g.val = field ctl 2 2)) ∧
      (∀ e : VcnEntry, entryOf s (ownVcn s w.val) = some e → (∀ h, e.record = some h → (e.frameSeq - h.seq).toNat < 2 ^ 31) →
        ruleCount s = 0 → boundModel (sec s 0x0A) w.val = none → refPending s = false →
        ∃ (e' : VcnEntry) (k : Record), entryOf t (ownVcn s w.val) = some e' ∧ e'.record = some k ∧ e'.skipped = 0 ∧
          e'.frameSeq = nextSeq e.frameSeq ∧ k.seq = e.frameSeq ∧ k.time = frameEnd s ∧ k.raw = rawField r raw ∧
          k.age = BitVec.ofNat 16 (min 0xFFFF e.skipped) ∧
          let y := ofRat (stage1 s f ((raw : Rat) * (qCal s w.val r / 32) / ((pathUs s f : Rat) / 10 ^ 6)))
          k.value = (if isFinite y = true then y else qnan) ∧
          (isValid k.status = true → s.ec[ecOf w].warmUntil = none ∧ q.spanHit = false ∧ s.ec[ecOf w].compliance = false)))

/-- FRAME_BOUNDARY of the films and of the AUX frame. FRAME_BOUNDARY at a boundary of a film path that converts (neither shadow nor duplicates
disagree): its first starts conversion with the heater's sums empty; one that ends a frame takes the raw value in units of Q rounded to
even, keeps the remainder as carry, begins the next frame with every sum of the heater record at 0 and good unless the heater is shed, and,
outside a SAMPLE step and without a commanded target, writes no film record. At a boundary of the AUX frame W22 converts from now on: no
input counts as converted, EXS is to be converted anew, and the first visit begins. -/
def Obligations.FilmAndAuxFrames : Prop :=
  (∀ (s : State) (n : Fin 6) (o : BoundaryObs), (∀ w : Fin 23, o.weirs[w].shadow = none) → o.lin = [] → o.bad = [] →
    pathRuns s (weirOfFilm n) = true → onGrid s (pathUs s (weirOfFilm n)) = true → s.weirs[weirOfFilm n].on = false →
    s.weirs[weirOfFilm n].frameClk ≠ some s.clk →
    ∃ t, exec (.frameBoundary o) s = .next t ∧
      t.weirs[weirOfFilm n] = { s.weirs[weirOfFilm n] with on := true, frameClk := some s.clk, dropFrame := false, ts4Sum := 0, ts4N := 0 } ∧
      t.mox[n].nR = 0 ∧ t.mox[n].nT = 0 ∧ t.mox[n].sumR = 0 ∧ t.mox[n].sumDuty = 0 ∧ t.mox[n].sumT = 0) ∧
  (∀ (s : State) (n : Fin 6) (o : BoundaryObs), (∀ w : Fin 23, o.weirs[w].shadow = none) → o.lin = [] → o.bad = [] →
    pathRuns s (weirOfFilm n) = true → onGrid s (pathUs s (weirOfFilm n)) = true → s.weirs[weirOfFilm n].on = true →
    s.weirs[weirOfFilm n].frameClk ≠ some s.clk → s.weirs[weirOfFilm n].dropFrame = false →
    let f := weirOfFilm n
    let x := s.weirs[f]
    let q := o.weirs[f]
    let r := x.range
    let charge : Rat := ((q.pos.toNat : Rat) - (q.neg.toNat : Rat)) * qNom r +
      (residueCharge r q.endCode - x.residue.getD (residueCharge r q.startCode))
    let units : Rat := charge / qNom r + x.carry * qNom x.lastRange / qNom r
    ∃ (t : State) (g : Fin 4), exec (.frameBoundary o) s = .next t ∧
      t.weirs[f] = { x with
        range := g, residue := some (residueCharge r q.endCode), carry := units - (ratRNE units : Rat), lastRange := r
        frameClk := some s.clk, ts4Sum := 0, ts4N := 0 } ∧
      (bit (rangeCtl s f) 4 = false → g = r) ∧
      t.mox[n].nR = 0 ∧ t.mox[n].nT = 0 ∧ t.mox[n].sumR = 0 ∧ t.mox[n].sumDuty = 0 ∧ t.mox[n].sumT = 0 ∧ (t.mox[n].frameGood = true ↔ moxShed s n = false) ∧
      (∀ e : VcnEntry, entryOf s (ownVcn s (0x10 + n.val)) = some e → s.mox[n].frameSample = false → s.mox[n].override = .none →
        ruleCount s = 0 → ∃ e' : VcnEntry, entryOf t (ownVcn s (0x10 + n.val)) = some e' ∧ e'.record = e.record ∧
          e'.skipped = e.skipped + 1 ∧ e'.frameSeq = nextSeq e.frameSeq)) ∧
  (∀ (s : State) (n : Fin 6) (o : BoundaryObs), (∀ w : Fin 23, o.weirs[w].shadow = none) → o.lin = [] → o.bad = [] →
    pathRuns s (weirOfFilm n) = false ∨ onGrid s (pathUs s (weirOfFilm n)) = false →
    ∃ t, exec (.frameBoundary o) s = .next t ∧ t.weirs[weirOfFilm n] = s.weirs[weirOfFilm n] ∧ t.mox[n] = s.mox[n]) ∧
  (∀ (s : State) (o : BoundaryObs), (∀ w : Fin 23, o.weirs[w].shadow = none) → o.lin = [] → o.bad = [] →
    pathRuns s 22 = true → onGrid s (pathUs s 22) = true → s.weirs[(22 : Fin 23)].frameClk ≠ some s.clk →
    ∃ t, exec (.frameBoundary o) s = .next t ∧ t.weirs[(22 : Fin 23)].on = true ∧ t.weirs[(22 : Fin 23)].dropFrame = false ∧
      t.weirs[(22 : Fin 23)].frameClk = some s.clk ∧ t.aux.exs = none ∧ (∀ n : Fin 4, t.aux.conv[n] = none) ∧
      t.aux.visits = 0 ∧ t.aux.visitClk = s.clk)

/-- The system frame in RUN and WATCH, and HOUSEKEEPING_FRAME in SAFE. FRAME_BOUNDARY at a boundary of the system frame in RUN or WATCH (neither
shadow nor duplicates disagree): the frame of the node's own quantities that begins here holds no conversion yet; one that ends in the head
counts towards EV05, which is raised once every D boundaries of section 0x0F; elsewhere the system frame and that count stay. In SAFE it
ends no frame: it changes nothing but the episode of a class frame and, where the housekeeping frame has just ended, the reference in use.
HOUSEKEEPING_FRAME in SAFE at a whole Plumb second: the first after the entry starts a frame, every later one ends one and starts the next,
with no EV05; a waiting change of the analogue reference takes place, so that none is pending; outside SAFE and between seconds it does
nothing. Weirs, bias, heaters, rail, AUX, Sluice, host port, Gate and configuration stay. -/
def Obligations.SystemFrames : Prop :=
  (∀ (s : State) (o : BoundaryObs), (∀ w : Fin 23, o.weirs[w].shadow = none) → o.lin = [] → o.bad = [] → isActive s = true →
    onGrid s (frameUs (frameK s s.modes.mode)) = true → s.sysClk ≠ some s.clk →
    ∃ t, exec (.frameBoundary o) s = .next t ∧ t.sysOn = true ∧ t.sysDrop = false ∧ t.sysClk = some s.clk ∧ t.thermal.frameN = 0 ∧
      (s.role = .head → s.sysOn = true → s.sysDrop = false →
        t.events.frames = (if cfgEv05Divider s ≤ s.events.frames + 1 then 0 else s.events.frames + 1) ∧
        (cfgEv05Divider s ≤ s.events.frames + 1 → t.events.pending.getLsbD 5 = true)) ∧
      (s.sysOn = false ∨ s.sysDrop = true → t.events.frames = s.events.frames)) ∧
  (∀ (s : State) (o : BoundaryObs), (∀ w : Fin 23, o.weirs[w].shadow = none) → o.lin = [] → o.bad = [] →
    onGrid s (frameUs (frameK s s.modes.mode)) = false ∨ s.sysClk = some s.clk →
    ∃ t, exec (.frameBoundary o) s = .next t ∧ t.sysOn = s.sysOn ∧ t.sysDrop = s.sysDrop ∧ t.sysClk = s.sysClk ∧
      t.thermal = s.thermal ∧ t.events.frames = s.events.frames) ∧
  (∀ (s : State) (o : BoundaryObs), inSafe s = true →
    ∃ t, exec (.frameBoundary o) s = .next t ∧ t = { s with mere := t.mere, time := t.time } ∧
      t.mere = { s.mere with episode := t.mere.episode, disturbed := t.mere.disturbed } ∧
      t.time = { s.time with refExternal := t.time.refExternal, refBandgap := t.time.refBandgap } ∧
      (s.sysClk ≠ some s.clk → t.time = s.time)) ∧
  (∀ (s : State) (m : SupplyObs), inSafe s = true → onCount s 1000000 = true → s.sysClk ≠ some s.clk → s.sysOn = false →
    ∃ t, exec (.housekeepingFrame m) s = .next t ∧
      t = { s with sysOn := true, sysDrop := false, sysClk := some s.clk, results := t.results, cal := t.cal, thermal := t.thermal, time := t.time } ∧
      t.thermal = { s.thermal with frameSum := Vector.replicate 8 0, frameN := 0 } ∧
      t.time = { s.time with refExternal := t.time.refExternal, refBandgap := t.time.refBandgap } ∧ refPending t = false) ∧
  (∀ (s : State) (m : SupplyObs), inSafe s = true → onCount s 1000000 = true → s.sysClk ≠ some s.clk → s.sysOn = true → s.sysDrop = false →
    ∃ t, exec (.housekeepingFrame m) s = .next t ∧
      t = { s with freeCount := t.freeCount, sysClk := some s.clk, results := t.results, cal := t.cal, spill := t.spill, mere := t.mere
                   thermal := t.thermal, time := t.time, log := t.log, events := t.events, course := t.course } ∧
      t.thermal = { s.thermal with frameSum := Vector.replicate 8 0, frameN := 0 } ∧
      t.time = { s.time with refExternal := t.time.refExternal, refBandgap := t.time.refBandgap } ∧ refPending t = false ∧
      t.events.frames = s.events.frames) ∧
  (∀ (s : State) (m : SupplyObs), inSafe s = false ∨ onCount s 1000000 = false → exec (.housekeepingFrame m) s = .next s)

/-- The heater driver's pulses, the loop, the profile's steps and a latched heater fault. A duty whose on-time of 5 microseconds x duty is at
least 0.4 drives one pulse a period; a shorter one is grouped, the smallest n of 2 - 64 that makes n on-times 0.4 microseconds; below that
pulses of 0.4 microseconds come as the accumulator fills. HEATER_LOOP_TICK, a millisecond after the last one, on a channel whose heater runs
in the mode takes the pulses of the tick: 200 plain ones, those of the grouping's phase, or those of the accumulator, none unpowered; a
regulating heater at duty 0 measures with the pulses shown (the model's choice, log 103). Regulating on a STEP or on a commanded target at
rate 0, with a measurement: target_R is R at the target, e = (target_R - R_meas)/target_R, R_meas and V_on are the means over the pulses,
the integrator adds e/Ti and the next duty is Kp x e plus the integrator, both clamped to 0 - duty_cap with V_on of this tick; in regulation
when |R_meas - target_R| is within the band; capped when the duty equals the cap and e > 0. Off, the duty is 0 and (the model's choice, log
104) the integrator empty and the tick in regulation; unpowered (rail not on, shed or latched off) the duty is 0, and a regulated tick is
not in regulation; a DUTY step not ignored drives its duty up to the cap. PROFILE_STEP_END, at the end of the step: the next step comes into
force, its target ignored where a command came in that tick, and after the last one it is held, with LOOP until the next loop. HEATER_FAULT:
open, short or Kelvin is found when every pulse of the millisecond meets its condition, the lowest code first (log 105); the driver is off
and latched with its kind, EV10 carries channel and kind, and code 0x11 is active (EV10 alone while it was active before). Only the
channel's own heater changes in a tick or a step; before their moments tick and step change nothing. -/
def Obligations.HeaterLoopAndProfile : Prop :=
  (∀ d : Rat, (d ≤ 0 → pulseMode d = .none) ∧ (2 / 5 ≤ 5 * d → pulseMode d = .plain (5 * d)) ∧
    (0 < d → 5 * d < 2 / 5 → 2 / 5 ≤ 64 * (5 * d) → ∃ n : Nat, 2 ≤ n ∧ n ≤ 64 ∧ pulseMode d = .grouped n (n * (5 * d)) ∧
      2 / 5 ≤ (n : Rat) * (5 * d) ∧ ((n : Rat) - 1) * (5 * d) < 2 / 5) ∧
    (0 < d → 64 * (5 * d) < 2 / 5 → pulseMode d = .density (5 * d))) ∧
  (∀ (s : State) (n : Fin 6) (l : List HeaterPulse),
    (heaterPowered s n = false → (tickPulses s n l).1 = []) ∧
    (heaterPowered s n = true → s.mox[n].duty = 0 → driveOf s n = .regulate → (tickPulses s n l).1 = l) ∧
    (heaterPowered s n = true → s.mox[n].duty ≠ 0 ∨ driveOf s n ≠ .regulate →
      (tickPulses s n l).1 = l.take (match pulseMode s.mox[n].duty with
        | .none => 0
        | .plain _ => 200
        | .grouped k _ => (s.mox[n].period + 200) / k
        | .density on => (ratFloor ((s.mox[n].pulseAcc + 200 * on) / (2 / 5))).toNat))) ∧
  (∀ (s : State) (n : Fin 6) (l : List HeaterPulse) (r v goal : Rat), moxHeats s n = true → heaterPowered s n = true →
    s.mox[n].tickClk + 1000 ≤ s.clk →
    ratMean ((tickPulses s n l).1.filterMap pulseOhm) = some r → ratMean ((tickPulses s n l).1.map (·.vMean)) = some v →
    ((∃ t : Int, s.mox[n].override = .target t 0 ∧ goal = (t : Rat) / 10) ∨
      (s.mox[n].override = .none ∧ s.mox[n].started = true ∧ s.mox[n].ignored = false ∧ stepKind s n s.mox[n].step = 1 ∧
        goal = stepTarget s n s.mox[n].step)) →
    let tr := heaterR s n goal
    let cap := dutyCap s n (some v)
    let e := (tr - r) / tr
    let i := clamp0 cap (s.mox[n].integ + e / (moxTi s n : Rat))
    ∃ m : Mox, exec (.heaterLoopTick n l) s = .next { s with mox := s.mox.set n.val m } ∧
      m.target = some goal ∧ m.vOn = some v ∧ m.integ = i ∧ m.duty = clamp0 cap (moxKp s n * e + i) ∧
      (m.inReg = true ↔ ratAbs (r - tr) ≤ moxBand s n * tr) ∧ (m.capped = true ↔ m.duty = cap ∧ 0 < e) ∧
      m.nR = s.mox[n].nR + 1 ∧ m.sumR = s.mox[n].sumR + r ∧ m.nT = s.mox[n].nT + 1 ∧
      m.sumDuty = s.mox[n].sumDuty + s.mox[n].duty ∧ m.fault = s.mox[n].fault ∧ m.step = s.mox[n].step) ∧
  (∀ (s : State) (n : Fin 6) (l : List HeaterPulse), moxHeats s n = true → s.mox[n].tickClk + 1000 ≤ s.clk → heaterPowered s n = false →
    ∃ m : Mox, exec (.heaterLoopTick n l) s = .next { s with mox := s.mox.set n.val m } ∧ m.duty = 0 ∧
      (m.inReg = true ↔ driveOf s n ≠ .regulate) ∧ m.nR = s.mox[n].nR ∧ m.fault = s.mox[n].fault) ∧
  (∀ (s : State) (n : Fin 6) (l : List HeaterPulse), moxHeats s n = true → s.mox[n].tickClk + 1000 ≤ s.clk → heaterPowered s n = true →
    driveOf s n = .off →
    ∃ m : Mox, exec (.heaterLoopTick n l) s = .next { s with mox := s.mox.set n.val m } ∧ m.duty = 0 ∧ m.integ = 0 ∧ m.inReg = true) ∧
  (∀ (s : State) (n : Fin 6) (l : List HeaterPulse), moxHeats s n = true → s.mox[n].tickClk + 1000 ≤ s.clk → heaterPowered s n = true →
    s.mox[n].override = .none → s.mox[n].started = true → s.mox[n].ignored = false → stepKind s n s.mox[n].step = 3 →
    ∃ m : Mox, exec (.heaterLoopTick n l) s = .next { s with mox := s.mox.set n.val m } ∧
      m.duty = min (stepDuty s n s.mox[n].step) (dutyCap s n m.vOn) ∧ m.inReg = true ∧
      (l = [] → m.vOn = s.mox[n].vOn) ∧ (∀ v : Rat, ratMean ((tickPulses s n l).1.map (·.vMean)) = some v → m.vOn = some v)) ∧
  (∀ (s : State) (n : Fin 6) (l : List HeaterPulse), moxHeats s n = false ∨ s.clk < s.mox[n].tickClk + 1000 →
    exec (.heaterLoopTick n l) s = .next s) ∧
  (∀ (s : State) (n : Fin 6), moxHeats s n = true → s.mox[n].started = true → s.mox[n].held = false →
    let due := s.mox[n].stepClk + 1000 * stepTicks s n s.mox[n].step
    (s.clk < due → exec (.profileStepEnd n) s = .next s) ∧
    (due ≤ s.clk → s.mox[n].step + 1 < stepCount s n →
      ∃ m : Mox, exec (.profileStepEnd n) s = .next { s with mox := s.mox.set n.val m } ∧
        m.step = s.mox[n].step + 1 ∧ m.stepClk = due ∧ m.ticks = 0 ∧ m.held = false ∧ m.duty = s.mox[n].duty ∧
        (s.mox[n].override = .none → s.mox[n].commanded = false → stepKind s n (s.mox[n].step + 1) = 1 →
          m.target = some (stepTarget s n (s.mox[n].step + 1))) ∧
        (s.mox[n].override ≠ .none ∨ s.mox[n].commanded = true → m.target = s.mox[n].target) ∧
        (m.ignored = true ↔ s.mox[n].commanded = true)) ∧
    (due ≤ s.clk → stepCount s n ≤ s.mox[n].step + 1 → exec (.profileStepEnd n) s =
      .next { s with mox := vmod s.mox n fun m => { m with held := true, loopWait := profileLoops s n } })) ∧
  (∀ (s : State) (n : Fin 6) (l : List HeaterPulse), l ≠ [] →
    let isOpen := ∀ p ∈ l, (p.iEnd ≠ 0 ∧ (u8 (moxBlock s n) 30 : Rat) / 4 * moxR25 s n < p.vEnd / p.iEnd) ∨ (p.iEnd < 2 / 1000 ∧ 1 < p.vEnd)
    let isShort := ∀ p ∈ l, p.iEnd ≠ 0 ∧ p.vEnd / p.iEnd < (u8 (moxBlock s n) 29 : Rat) / 256 * moxR25 s n
    let kelvin := ∀ p ∈ l, 1 + p.out / 10 < ratAbs (p.vEnd - p.out)
    (pulseFault s n l = some .openCircuit ↔ isOpen) ∧ (pulseFault s n l = some .shortCircuit ↔ isShort ∧ ¬ isOpen) ∧
    (pulseFault s n l = some .kelvin ↔ kelvin ∧ ¬ isOpen ∧ ¬ isShort)) ∧
  (∀ (s : State) (n : Fin 6) (l : List HeaterPulse) (k : HeaterFaultKind), heaterPowered s n = true → pulseFault s n l = some k →
    faultActive s 0x11 = false → (cfgSafeMask s).getLsbD 0x11 = false →
    ∃ t, exec (.heaterFault n l) s = .next t ∧ t = { s with mox := t.mox, ks := t.ks, events := t.events, log := t.log } ∧
      t.mox = vmod s.mox n (fun m => { m with fault := some k, duty := 0, pulseAcc := 0, period := 0 }) ∧
      faultActive t 0x11 = true ∧ t.events.pending.getLsbD 10 = true ∧
      t.ks.records[s.ks.index].arg = BitVec.ofNat 16 (n.val + 256 * heaterFaultCode k)) ∧
  (∀ (s : State) (n : Fin 6) (l : List HeaterPulse) (k : HeaterFaultKind), heaterPowered s n = true → pulseFault s n l = some k →
    faultActive s 0x11 = true →
    exec (.heaterFault n l) s = .next (raise { s with
      mox := vmod s.mox n fun m => { m with fault := some k, duty := 0, pulseAcc := 0, period := 0 } }
      10 (n.val + 256 * heaterFaultCode k))) ∧
  (∀ (s : State) (n : Fin 6) (l : List HeaterPulse), heaterPowered s n = false ∨ pulseFault s n l = none →
    exec (.heaterFault n l) s = .next s)

/-- The four heater commands: refusals in their order and effects. Each heater command that the host port takes with 8 argument bytes is refused
with LOCKED without a CAL session; with one, with BAD_ARG when the channel number is no present channel, the last field is not 0, the target
lies outside -40.0 to 600.0 degrees, or (but for set target) the target is not 0; then with NOT_IN_MODE when the channel's heater is off in
the mode. Accepted, HEATER_SET_TARGET sets the override to target and rate, HEATER_OFF to off, both ending a waiting restart; HEATER_RESUME
has the profile restart at the next film frame; HEATER_CLEAR_FAULT also ends the latch, and code 0x11 with the last one, unless it is
injected. A command in the tick of a step boundary has the step's target ignored. Nothing else changes but sessions and the response. -/
def Obligations.HeaterCommands : Prop :=
  (∀ (s : State) (f : HostFrame) (act : Byte) (c : HostFrame → Instr),
    ((act = 0 ∧ c = Instr.heaterSetTarget) ∨ (act = 1 ∧ c = Instr.heaterResume) ∨ (act = 2 ∧ c = Instr.heaterOff) ∨
      (act = 3 ∧ c = Instr.heaterClearFault)) → CommandReady s f 0x05 [(5, act)] 8 →
    let u := sessionActivity s
    let a := commandArgs f 0x05 [(5, act)]
    (hasCal u = false → exec (c f) s = .next (replied u f 0x05 stLocked)) ∧
    (hasCal u = true → 6 ≤ u8 a 0 ∨ u16 a 6 ≠ 0 ∨ (act ≠ 0 ∧ u16 a 2 ≠ 0) ∨ signed 16 (u16 a 2) < -400 ∨ 6000 < signed 16 (u16 a 2) →
      exec (c f) s = .next (replied u f 0x05 stBadArg)) ∧
    (∀ n : Fin 6, hasCal u = true → u8 a 0 = n.val →
      (moxPresent u n = false → exec (c f) s = .next (replied u f 0x05 stBadArg)) ∧
      (moxPresent u n = true → moxHeats u n = false → u16 a 6 = 0 → (act = 0 ∨ u16 a 2 = 0) → -400 ≤ signed 16 (u16 a 2) →
        signed 16 (u16 a 2) ≤ 6000 → exec (c f) s = .next (replied u f 0x05 stNotInMode)))) ∧
  (∀ (s : State) (f : HostFrame) (n : Fin 6), CommandReady s f 0x05 [(5, 0)] 8 →
    let u := sessionActivity s
    let a := commandArgs f 0x05 [(5, 0)]
    hasCal u = true → u8 a 0 = n.val → moxPresent u n = true → moxHeats u n = true → u16 a 6 = 0 → -400 ≤ signed 16 (u16 a 2) →
    signed 16 (u16 a 2) ≤ 6000 →
    exec (.heaterSetTarget f) s = .next (replied { u with mox := vmod u.mox n fun m =>
      { m with commanded := true, ignored := m.ignored || m.fresh, target := if m.fresh then m.prevTarget else m.target,
               override := .target (signed 16 (u16 a 2)) (u16 a 4), restart := false } } f 0x05 stOk)) ∧
  (∀ (s : State) (f : HostFrame) (n : Fin 6), CommandReady s f 0x05 [(5, 1)] 8 →
    let u := sessionActivity s
    let a := commandArgs f 0x05 [(5, 1)]
    hasCal u = true → u8 a 0 = n.val → moxPresent u n = true → moxHeats u n = true → u16 a 6 = 0 → u16 a 2 = 0 →
    exec (.heaterResume f) s = .next (replied { u with mox := vmod u.mox n fun m =>
      { m with commanded := true, ignored := m.ignored || m.fresh, target := if m.fresh then m.prevTarget else m.target,
               restart := true } } f 0x05 stOk)) ∧
  (∀ (s : State) (f : HostFrame) (n : Fin 6), CommandReady s f 0x05 [(5, 2)] 8 →
    let u := sessionActivity s
    let a := commandArgs f 0x05 [(5, 2)]
    hasCal u = true → u8 a 0 = n.val → moxPresent u n = true → moxHeats u n = true → u16 a 6 = 0 → u16 a 2 = 0 →
    exec (.heaterOff f) s = .next (replied { u with mox := vmod u.mox n fun m =>
      { m with commanded := true, ignored := m.ignored || m.fresh, target := if m.fresh then m.prevTarget else m.target,
               override := .off, restart := false } } f 0x05 stOk)) ∧
  (∀ (s : State) (f : HostFrame) (n : Fin 6), CommandReady s f 0x05 [(5, 3)] 8 →
    let u := sessionActivity s
    let a := commandArgs f 0x05 [(5, 3)]
    hasCal u = true → u8 a 0 = n.val → moxPresent u n = true → moxHeats u n = true → u16 a 6 = 0 → u16 a 2 = 0 →
    ∃ x : State, exec (.heaterClearFault f) s = .next (replied x f 0x05 stOk) ∧
      x = { u with mox := x.mox, ks := x.ks, modes := x.modes } ∧
      x.mox = vmod u.mox n (fun m => { m with commanded := true, ignored := m.ignored || m.fresh, target := if m.fresh then m.prevTarget else m.target,
                                              fault := none, restart := true }) ∧
      (u.mox[n].fault.isSome = true → faultActive x 0x11 = true →
        (∃ k : Fin 6, x.mox[k].fault.isSome = true) ∨ u.ks.injected.contains 0x11 = true) ∧
      ((∃ k : Fin 6, x.mox[k].fault.isSome = true) ∨ u.mox[n].fault = none → x.ks = u.ks ∧ x.modes = u.modes))

/-- The rail's start, the chain-power switches and the end of the rail hold. RAIL_START of a wanted rail that is off begins the phase check; of
any other it changes nothing. A phase passes the check with the shunt at 100 mA or more and its own sense within 25 % of it.
RAIL_PHASE_CHECK_END, 128 microseconds on: failing phases are lost, and with at most two lost the soft start begins (code 0x13 not in the
SAFE mask); with three or more the rail is off and the device in SAFE with cause 0x06. RAIL_SOFT_START_DONE, 2.0 ms after the request with
HRS within 3 % of the setpoint: the rail is on and the enabled switches begin their soft start under the limit in force; before its moment,
and (the model's choice, log 133) for 10 ms more with HRS off by more than 3 %, it changes nothing. CHAIN_SWITCH_ON with the output at 90 %
of HRAIL: the switch is on, and code 0x12, unless injected, is clear once no switch is failed; a switch in its limit whose current has
fallen is on again. CHAIN_SWITCH_FAIL of a switch that has not reached 90 % by its soft-start time and 10 ms, or has been at its limit for
10 ms (code 0x12 not in the SAFE mask): it is failed and code 0x12 active, with EV03 unless it was active before; for less than 10 ms it is
in its limit. A switch blocks current while its output lies above HRAIL. CHAIN_SWITCH_RETRY of a failed switch with the rail on, once the
retry interval is over: soft start again, counted. RAIL_HOLD_EXPIRY once the hold time is over to within 5 %: rail and switches off. All
else is unchanged. -/
def Obligations.RailStartsAndChainSwitches : Prop :=
  (∀ s : State, railWanted s = true → s.rail.state = .off → ∃ t, exec .railStart s = .next t ∧
    t = { s with rail := { s.rail with state := .phaseCheck, onHrail := false, startClk := s.clk }, thermal := t.thermal, ks := t.ks,
                 modes := t.modes }) ∧
  (∀ s : State, railWanted s = false ∨ s.rail.state ≠ .off → exec .railStart s = .next s) ∧
  (∀ (o : PhaseCheckObs) (p : Fin 4), phasePasses o p = true ↔
    100 ≤ (o[p]).1 ∧ 4 * ratAbs (((o[p]).2 : Rat) - ((o[p]).1 : Rat)) ≤ ((o[p]).1 : Rat)) ∧
  (∀ (s : State) (o : PhaseCheckObs), isRunning s = true → s.rail.state = .phaseCheck → s.rail.startClk + 128 ≤ s.clk →
    (cfgSafeMask s).getLsbD 0x13 = false →
    let bad := (List.finRange 4).filter fun p => !phasePasses o p || s.rail.phases[p] == .lost
    (bad.length ≤ 2 → ∃ t, exec (.railPhaseCheckEnd o) s = .next t ∧
      t = { s with rail := t.rail, ks := t.ks, events := t.events, log := t.log } ∧ t.rail.state = .softStart ∧
      (∀ p : Fin 4, t.rail.phases[p] = if phasePasses o p then s.rail.phases[p] else .lost) ∧
      ((∃ p : Fin 4, phasePasses o p = false ∧ s.rail.phases[p] ≠ .lost) → t.events.pending.getLsbD 11 = true)) ∧
    (3 ≤ bad.length → ∃ t, exec (.railPhaseCheckEnd o) s = .next t ∧ t.rail.state = .off ∧ inSafe t = true ∧
      t.modes.causes.getLsbD 6 = true)) ∧
  (∀ (s : State) (o : RailVolts), isRunning s = true → s.rail.state = .softStart → s.rail.startClk + 2000 ≤ s.clk →
    ratAbs (o.hrs - cfgSetpoint s) ≤ 3 / 100 * cfgSetpoint s →
    ∃ t, exec (.railSoftStartDone o) s = .next t ∧ t = { s with rail := t.rail } ∧
    t.rail.state = .on ∧ t.rail.shed = s.rail.shed ∧ t.rail.phases = s.rail.phases ∧
    ∀ w : Fin 2, (chainEnabled s w = true → t.rail.sw[w] = { s.rail.sw[w] with
        state := .softStart, startClk := s.clk, limit := if s.rail.shed.contains .chain then cfgChainFloor s else cfgChainLimit s w }) ∧
      (chainEnabled s w = false → t.rail.sw[w] = s.rail.sw[w])) ∧
  (∀ (s : State) (o : RailVolts), isRunning s = false ∨ s.rail.state ≠ .softStart ∨ s.clk < s.rail.startClk + 2000 ∨
    (3 / 100 * cfgSetpoint s < ratAbs (o.hrs - cfgSetpoint s) ∧ s.clk < s.rail.startClk + 12000) → exec (.railSoftStartDone o) s = .next s) ∧
  (∀ (s : State) (w : Fin 2) (o : SwitchObs), isRunning s = true → s.rail.sw[w].state = .softStart → 9 / 10 * o.rail ≤ o.out →
    9 / 10 ≤ switchRamp s w → ∃ t, exec (.chainSwitchOn w o) s = .next t ∧
    t = { s with rail := { s.rail with sw := vmod s.rail.sw w fun c => { c with state := .on } }, ks := t.ks, modes := t.modes } ∧
    ((∀ k : Fin 2, chainEnabled s k = true → t.rail.sw[k].state = .on) → s.ks.injected.contains 0x12 = false → faultActive t 0x12 = false)) ∧
  (∀ (s : State) (w : Fin 2) (o : SwitchObs), isRunning s = true → s.rail.sw[w].state = .inLimit → switchCurrent o < s.rail.sw[w].limit →
    exec (.chainSwitchOn w o) s = .next { s with rail := { s.rail with sw := vmod s.rail.sw w fun c => { c with state := .on } } }) ∧
  (∀ o : SwitchObs, (o.rail < o.out → switchCurrent o = 0) ∧ (o.out ≤ o.rail → switchCurrent o = o.cur)) ∧
  (∀ (s : State) (w : Fin 2) (o : SwitchObs), isRunning s = true →
    (s.rail.sw[w].state = .softStart ∧ o.out < 9 / 10 * o.rail ∧ s.rail.sw[w].startClk + 1000 * u8 (sec s 7) 5 + 10000 ≤ s.clk) ∨
      ((s.rail.sw[w].state = .on ∨ s.rail.sw[w].state = .inLimit) ∧ s.rail.sw[w].limit ≤ switchCurrent o ∧ 10000 ≤ o.us) →
    (cfgSafeMask s).getLsbD 0x12 = false →
    ∃ t, exec (.chainSwitchFail w o) s = .next t ∧
      t = { s with freeCount := t.freeCount, rail := { s.rail with sw := vmod s.rail.sw w fun c => { c with state := .failed, failClk := s.clk } },
                   ks := t.ks, events := t.events, log := t.log } ∧
      faultActive t 0x12 = true ∧ (faultActive s 0x12 = false → t.events.pending.getLsbD 3 = true)) ∧
  (∀ (s : State) (w : Fin 2) (o : SwitchObs), isRunning s = true → s.rail.sw[w].state = .on → s.rail.sw[w].limit ≤ switchCurrent o →
    o.us < 10000 →
    exec (.chainSwitchFail w o) s = .next { s with rail := { s.rail with sw := vmod s.rail.sw w fun c => { c with state := .inLimit } } }) ∧
  (∀ (s : State) (w : Fin 2), isRunning s = true → s.rail.sw[w].state = .failed → s.rail.state = .on →
    s.rail.sw[w].failClk + 100000 * u8 (sec s 7) 16 ≤ s.clk →
    exec (.chainSwitchRetry w) s = .next { s with rail := { s.rail with sw := vmod s.rail.sw w fun c => { c with
      state := .softStart, retries := sat16 c.retries, startClk := s.clk,
      limit := if s.rail.shed.contains .chain then cfgChainFloor s else cfgChainLimit s w } } }) ∧
  (∀ (s : State) (w : Fin 2), isRunning s = false ∨ s.clk < s.rail.sw[w].failClk + 100000 * u8 (sec s 7) 16 →
    exec (.chainSwitchRetry w) s = .next s) ∧
  (∀ s : State, s.modes.railHold = true → 100 * s.modes.holdClk + 95 * s.modes.holdUs ≤ 100 * s.clk →
    ∃ t, exec .railHoldExpiry s = .next t ∧
    t = { s with rail := t.rail, thermal := t.thermal, modes := { s.modes with railHold := false } } ∧ t.rail.state = .off ∧
    (∀ w : Fin 2, t.rail.sw[w].state = .off) ∧ t.rail.phases = s.rail.phases ∧ t.rail.shed = s.rail.shed) ∧
  (∀ s : State, 100 * s.clk < 100 * s.modes.holdClk + 95 * s.modes.holdUs → exec .railHoldExpiry s = .next s)

/-- Load shedding one at a time, shed values and restoring. The total current is the shunt's, or with the shunt declared failed the sum of the
phase senses, and never above 1.25 times the effective limit. RAIL_SHED_TICK, a millisecond after the last, with the rail on in a mode: at
or below the effective limit nothing is shed and the analogue limiting flag is clear; above it exactly the next unit or heater of the shed
order is shed, a heater with the measurement of its value begun and its film frame in progress no good one, the chain with every enabled
switch at the chain floor and the head's chain-shed indication set; with nothing left to shed the analogue limit holds the current and its
flag is set. The value of the heater shed at the tick before is the fall in current. CHAIN_SHED_VALUE, 200 ms on: the fall since the chain
was shed is its value. RAIL_RESTORE: the latest shed alone is restored when the current plus its value has been at or below 0.9 of the limit
for 500 ms, the chain with its limits. All else but log and events is unchanged; outside a mode, with the rail not on or before its moment
each does nothing. -/
def Obligations.LoadShedding : Prop :=
  (∀ (s : State) (c : RailCurrents), isRunning s = true →
    (s.rail.shuntFailed = false → totalCurrent s c = min (5 * (ratFloor (effectiveLimit s)).toNat / 4) c.shunt) ∧
    (s.rail.shuntFailed = true → totalCurrent s c = min (5 * (ratFloor (effectiveLimit s)).toNat / 4) (senseSum s c).toNat)) ∧
  (∀ (s : State) (c : RailCurrents), railChecks s = true → s.rail.tickClk + 1000 ≤ s.clk →
    let i := totalCurrent s c
    let hv := match s.rail.measuring with
      | some (n, before) => s.rail.heaterValue.set n.val (before - i)
      | none => s.rail.heaterValue
    ((i : Rat) ≤ effectiveLimit s → exec (.railShedTick c) s =
      .next { s with rail := { s.rail with
        measuring := none, heaterValue := hv, lastShunt := i, tickClk := s.clk, analog := false
        fitsClk := if restoreFits { s with rail := { s.rail with heaterValue := hv } } i then s.rail.fitsClk.or (some s.clk) else none } }) ∧
    (∀ n : Fin 6, effectiveLimit s < (i : Rat) → nextShed s = some (.heater n) → ∃ t, exec (.railShedTick c) s = .next t ∧
      t = { s with rail := { s.rail with measuring := some (n, i), heaterValue := hv, lastShunt := i, tickClk := s.clk, fitsClk := none,
                                         shed := .heater n :: s.rail.shed },
                   mox := vmod s.mox n fun m => { m with frameGood := false },
                   log := t.log, events := t.events }) ∧
    (effectiveLimit s < (i : Rat) → nextShed s = some .chain → ∃ t, exec (.railShedTick c) s = .next t ∧
      t = { s with rail := { s.rail with measuring := none, heaterValue := hv, lastShunt := i, tickClk := s.clk, fitsClk := none,
                                         shed := .chain :: s.rail.shed, chainFrom := some i, chainClk := s.clk,
                                         chainShed := s.role == .head, sw := t.rail.sw },
                   log := t.log, events := t.events } ∧
      ∀ w : Fin 2, (chainEnabled s w = true → t.rail.sw[w] = { s.rail.sw[w] with limit := cfgChainFloor s }) ∧
        (chainEnabled s w = false → t.rail.sw[w] = { s.rail.sw[w] with state := .off })) ∧
    (effectiveLimit s < (i : Rat) → nextShed s = none → ∃ t, exec (.railShedTick c) s = .next t ∧
      t = { s with rail := { s.rail with measuring := none, heaterValue := hv, lastShunt := i, tickClk := s.clk, fitsClk := none, analog := true },
                   log := t.log, events := t.events })) ∧
  (∀ (s : State) (c : RailCurrents), railChecks s = false ∨ s.clk < s.rail.tickClk + 1000 → exec (.railShedTick c) s = .next s) ∧
  (∀ (s : State) (c : RailCurrents) (before : Nat), s.rail.chainFrom = some before → railChecks s = true → s.rail.chainClk + 200000 ≤ s.clk →
    exec (.chainShedValue c) s = .next { s with rail := { s.rail with chainFrom := none, chainValue := before - totalCurrent s c } }) ∧
  (∀ (s : State) (c : RailCurrents), s.clk < s.rail.chainClk + 200000 → exec (.chainShedValue c) s = .next s) ∧
  (∀ (s : State) (c : RailCurrents) (u : Shed) (l : List Shed) (k : Nat), railChecks s = true → s.rail.shed = u :: l →
    s.rail.fitsClk = some k → k + 500000 ≤ s.clk → (totalCurrent s c : Rat) + (shedValue s u : Rat) ≤ 9 / 10 * effectiveLimit s →
    ∃ t, exec (.railRestore c) s = .next t ∧
      t = { s with rail := t.rail, log := t.log, events := t.events } ∧ t.rail.shed = l ∧
      (u ≠ .chain → t.rail = { s.rail with shed := l, fitsClk := none }) ∧
      (u = .chain → l.contains .chain = false → t.rail.chainShed = false ∧ t.rail.chainFrom = none ∧
        ∀ w : Fin 2, chainEnabled s w = true → t.rail.sw[w] = { s.rail.sw[w] with limit := cfgChainLimit s w })) ∧
  (∀ (s : State) (c : RailCurrents), s.rail.shed = [] ∨ s.rail.fitsClk = none ∨ (∃ k, s.rail.fitsClk = some k ∧ s.clk < k + 500000) →
    exec (.railRestore c) s = .next s)

/-- The fault ladder of the phases, dropout, the HRS sense and overvoltage. A working phase is open when its own sense and its derived current
(the total less the others' senses; with the shunt failed the own sense only), an estimated one when its derived current, has been below a
tenth of a mean of at least 0.1 A for 16 cycles at an on-time above 100 ns. With the rail on in a mode, and codes 0x13 and 0x14 not in the
SAFE mask: PHASE_OPEN drops the open phase of the lowest letter, a second one not before the next cycle, and records it as lost with EV11
and code 0x13, the first and second leave the rail on; the third turns rail and switches off and enters SAFE with cause 0x06. The phases
left stand 120, with two left 180 degrees apart. PHASE_SENSE_FAIL of one working phase, whose own sense and derived current differ by more
than 25 % of the mean for 64 cycles, raises EV12 with code 0x14 and estimates the phase or, under SENSEACT, drops it; of two or more it
declares the shunt failed and keeps every phase. PHASE_RECHECK, every 10 s under cause 0x06: with two or more passing phases these are
working again, the others lost, and the cause counts as gone; with fewer it does not. DROPOUT, HRS below 95 % of the setpoint for 10 ms, is
set, and a soft start it finds ends with the rail on (the model's choice, log 133); HRS_MISMATCH by more than 10 % (of the larger, the
model's choice, log 109) moves regulation to the HRAIL balls with EV12; RAIL_OVERVOLTAGE above 110 % and its end below 105 % of the setpoint
in force, in a reset that the held rail's, stop and resume switching. All else is unchanged. -/
def Obligations.PhaseLadder : Prop :=
  (∀ (s : State) (o : LadderObs) (p : Fin 4),
    let m := meanCurrent s o.cur
    let own : Rat := (ownSense s o.cur p : Int)
    let der : Rat := (derivedCurrent s o.cur p : Int)
    let long := 100 ≤ m ∧ 100 < phaseOn s o p ∧ 16 ≤ o.cycles[p]
    (s.rail.phases[p] = .working → s.rail.shuntFailed = false → (phaseOpenNow s o p = true ↔ own < m / 10 ∧ der < m / 10 ∧ long)) ∧
    (s.rail.phases[p] = .working → s.rail.shuntFailed = true → (phaseOpenNow s o p = true ↔ own < m / 10 ∧ long)) ∧
    (s.rail.phases[p] = .estimate → (phaseOpenNow s o p = true ↔ der < m / 10 ∧ long)) ∧
    (s.rail.phases[p] = .lost → phaseOpenNow s o p = false) ∧
    (s.rail.phases[p] = .working → (senseFailsNow s o p = true ↔ 100 ≤ m ∧ m / 4 < ratAbs (own - der) ∧ 64 ≤ o.cycles[p]))) ∧
  (∀ (s : State) (p : Fin 4) (o : LadderObs), railChecks s = true → phaseOpenNow s o p = true → (∀ q : Fin 4, q < p → phaseOpenNow s o q = false) →
    (∀ k, s.rail.dropClk = some k → k + 2 ≤ s.clk) → (cfgSafeMask s).getLsbD 0x13 = false →
    (phaseCount s .lost ≤ 1 → ∃ t, exec (.phaseOpen p o) s = .next t ∧
      t = { s with rail := { s.rail with phases := s.rail.phases.set p.val .lost, dropClk := some s.clk },
                   ks := t.ks, events := t.events, log := t.log } ∧
      t.events.pending.getLsbD 11 = true ∧ faultActive t 0x13 = true ∧
      (phaseCount s .lost = 0 → interleave t = some 120) ∧ (phaseCount s .lost = 1 → interleave t = some 180)) ∧
    (2 ≤ phaseCount s .lost → ∃ t, exec (.phaseOpen p o) s = .next t ∧ inSafe t = true ∧ t.modes.causes.getLsbD 6 = true ∧
      t.rail.state = .off ∧ (∀ w : Fin 2, t.rail.sw[w].state = .off) ∧ t.rail.phases[p] = .lost ∧ t.events.pending.getLsbD 11 = true)) ∧
  (∀ (s : State) (p : Fin 4) (o : LadderObs), phaseOpenNow s o p = false ∨ (∃ q : Fin 4, q < p ∧ phaseOpenNow s o q = true) ∨
    (∃ k, s.rail.dropClk = some k ∧ s.clk < k + 2) → exec (.phaseOpen p o) s = .next s) ∧
  (∀ (s : State) (o : LadderObs) (p : Fin 4), railChecks s = true → (cfgSafeMask s).getLsbD 0x14 = false →
    ((List.finRange 4).filter fun q => senseFailsNow s o q) = [p] →
    (cfgSenseAct s = false → ∃ t, exec (.phaseSenseFail o) s = .next t ∧
      t = { s with rail := { s.rail with phases := s.rail.phases.set p.val .estimate, senseSeen := true },
                   ks := t.ks, events := t.events, log := t.log } ∧
      t.events.pending.getLsbD 12 = true ∧ faultActive t 0x14 = true) ∧
    (cfgSenseAct s = true → (cfgSafeMask s).getLsbD 0x13 = false → ∃ t, exec (.phaseSenseFail o) s = .next t ∧
      t.rail.phases[p] = .lost ∧ t.events.pending.getLsbD 12 = true ∧ t.events.pending.getLsbD 11 = true ∧
      (phaseCount s .lost ≤ 1 → t.rail.state = .on))) ∧
  (∀ (s : State) (o : LadderObs), railChecks s = true → (cfgSafeMask s).getLsbD 0x14 = false →
    2 ≤ ((List.finRange 4).filter fun q => senseFailsNow s o q).length →
    ∃ t, exec (.phaseSenseFail o) s = .next t ∧
      t = { s with rail := { s.rail with shuntFailed := true, senseSeen := true }, ks := t.ks, events := t.events, log := t.log } ∧
      t.events.pending.getLsbD 12 = true ∧ faultActive t 0x14 = true) ∧
  (∀ (s : State) (o : PhaseCheckObs), inSafe s = true → s.modes.causes.getLsbD 6 = true → s.rail.state = .off →
    s.rail.recheckClk + 10000000 ≤ s.clk → (cfgSafeMask s).getLsbD 0x13 = false →
    (((List.finRange 4).filter (phasePasses o)).length < 2 → ∃ t, exec (.phaseRecheck o) s = .next t ∧
      t.modes.railCauseGone = false ∧ inSafe t = true ∧ t.modes.causes.getLsbD 6 = true ∧ t.rail.state = .off ∧
      (∀ p : Fin 4, t.rail.phases[p] = if phasePasses o p then s.rail.phases[p] else .lost)) ∧
    (2 ≤ ((List.finRange 4).filter (phasePasses o)).length → ∃ t, exec (.phaseRecheck o) s = .next t ∧
      t = { s with rail := { s.rail with phases := t.rail.phases, recheckClk := s.clk }, modes := t.modes, ks := t.ks,
                   events := t.events, log := t.log } ∧ t.modes.railCauseGone = true ∧
      t.modes.causes.getLsbD 6 = true ∧ (∀ p : Fin 4, t.rail.phases[p] = if phasePasses o p then .working else .lost))) ∧
  (∀ (s : State) (o : PhaseCheckObs), s.modes.causes.getLsbD 6 = false ∨ s.clk < s.rail.recheckClk + 10000000 →
    exec (.phaseRecheck o) s = .next s) ∧
  (∀ (s : State) (o : RailVolts), railChecks s = true → s.rail.dropout = false → o.hrs < 95 / 100 * cfgSetpoint s → 10000 ≤ o.us →
    ∃ t, exec (.dropout o) s = .next t ∧ t = { s with rail := { s.rail with dropout := true }, log := t.log, events := t.events }) ∧
  (∀ (s : State) (o : RailVolts), isRunning s = true → s.rail.state = .softStart → s.rail.dropout = false → o.hrs < 95 / 100 * cfgSetpoint s →
    10000 ≤ o.us → ∃ t, exec (.dropout o) s = .next t ∧ t = { s with rail := t.rail, log := t.log, events := t.events } ∧
      t.rail.dropout = true ∧ t.rail.state = .on ∧ t.rail.phases = s.rail.phases ∧ t.rail.shed = s.rail.shed) ∧
  (∀ (s : State) (o : RailVolts), railChecks s = true → s.rail.onHrail = false → max o.hrs o.balls / 10 < ratAbs (o.hrs - o.balls) →
    128 ≤ o.us → (cfgSafeMask s).getLsbD 0x14 = false →
    ∃ t, exec (.hrsMismatch o) s = .next t ∧
      t = { s with rail := { s.rail with onHrail := true }, ks := t.ks, events := t.events, log := t.log } ∧
      t.events.pending.getLsbD 12 = true ∧ faultActive t 0x14 = true) ∧
  (∀ s : State, setpointInForce s = if isRunning s = true then cfgSetpoint s else s.rail.heldSetpoint) ∧
  (∀ (s : State) (o : RailVolts), railOn s = true → 11 / 10 * setpointInForce s < o.hrs →
    exec (.railOvervoltage o) s = .next { s with rail := { s.rail with overvoltage := true } }) ∧
  (∀ (s : State) (o : RailVolts), railOn s = false ∨ o.hrs ≤ 11 / 10 * setpointInForce s → exec (.railOvervoltage o) s = .next s) ∧
  (∀ (s : State) (o : RailVolts), (o.hrs < 105 / 100 * setpointInForce s →
      exec (.railOvervoltageEnd o) s = .next { s with rail := { s.rail with overvoltage := false } }) ∧
    (105 / 100 * setpointInForce s ≤ o.hrs → exec (.railOvervoltageEnd o) s = .next s))

/-- The thermal monitor: conversions and the 150 degree shutdown, evaluations, rate of rise, clock trims. With the monitor active (from the
release of the VDD power-on reset), each once its period is over and not before: DIE_TEMP_CONVERSION keeps the last eight conversions of
every sensor and adds TS4 to the mean of every path's frame; the second conversion or replacement in a row at or above 150.0 degrees of a
sensor starts a thermal reset and sets the thermal latch, and with the latch set it only adds one log entry per episode; without one nothing
else changes. THERMAL_EVALUATION takes the means and the reported maximum; the first evaluation above the throttle threshold, and one at
which the 250 ms timer is due, raises s by one, with EV13. Where no rates are computed, rates, trip and hold stay; in RUN they are the rise
over 248 ms; where the limit applies and a rate exceeds it at the second evaluation running, a trip begins: s is the larger of the step so
far and 4, EV14 is pending, the trip is counted and s is held. CLOCK_TRIM_UPDATE takes the trims from TS7. -/
def Obligations.ThermalMonitor : Prop :=
  (∀ (s : State) (x : Vector Int 8), monitorOn s = true → (∀ c, s.thermal.convClk = some c → c + 1000 ≤ s.clk) →
    let v : Vector Rat 8 := Vector.ofFn fun i : Fin 8 => ((x[i] : Int) : Rat)
    let w := s.weirs.map fun y => { y with ts4Sum := y.ts4Sum + sensorValue s v 4, ts4N := y.ts4N + 1 }
    ((∀ i : Fin 8, 2400 ≤ sensorValue s v i → s.thermal.hot[i] = 0) → ∃ t, exec (.dieTempConversion x) s = .next t ∧
      t = { s with thermal := t.thermal, weirs := w } ∧ t.thermal.s = s.thermal.s ∧ t.thermal.mean = s.thermal.mean ∧
      t.thermal.frameN = s.thermal.frameN + 1 ∧ t.thermal.convClk = some s.clk ∧
      ∀ i : Fin 8, t.thermal.conv[i] = (x[i] :: s.thermal.conv[i]).take 8 ∧ t.thermal.frameSum[i] = s.thermal.frameSum[i] + x[i] ∧
        (t.thermal.hot[i] = if 2400 ≤ sensorValue s v i then 1 else 0)) ∧
    ((∃ i : Fin 8, 2400 ≤ sensorValue s v i ∧ 1 ≤ s.thermal.hot[i]) →
      (s.modes.thermalLatch = false → ∃ t, exec (.dieTempConversion x) s = .next t ∧ WarmResetFrom .thermal 7 s t ∧
        t.modes.thermalLatch = true) ∧
      (s.modes.thermalLatch = true → ∃ t, exec (.dieTempConversion x) s = .next t ∧
        t = { s with thermal := t.thermal, weirs := w, log := t.log, events := t.events } ∧ t.thermal.s = s.thermal.s ∧
        t.thermal.episode = true ∧ (s.thermal.episode = true → t.log = s.log ∧ t.events = s.events)))) ∧
  (∀ (s : State) (x : Vector Int 8) (c : Nat), s.thermal.convClk = some c → s.clk < c + 1000 → exec (.dieTempConversion x) s = .next s) ∧
  (∀ (s : State) (p : Rat), monitorOn s = true → (∀ c, s.thermal.evalClk = some c → c + 8000 ≤ s.clk) →
    ∃ t, exec (.thermalEvaluation p) s = .next t ∧
    t = { s with thermal := t.thermal, events := t.events, log := t.log } ∧ t.thermal.conv = s.thermal.conv ∧
    t.thermal.broken = s.thermal.broken ∧ t.thermal.mean = s.thermal.conv.map meanOf ∧ t.thermal.evalClk = some s.clk ∧
    (t.thermal.max, t.thermal.source) = reportedMax s t.thermal.mean ∧ t.thermal.zone = thermalZone s t.thermal.max ∧
    let n := if thermalZone s t.thermal.max = 2 ∧ (s.thermal.zone ≠ 2 ∨ s.thermal.stepClk + 250000 ≤ s.clk) then stepUp s.thermal.s
      else s.thermal.s
    let h := ((sensorValue s t.thermal.mean 0, sensorValue s t.thermal.mean 1) :: s.thermal.hist).take 32
    (n ≠ s.thermal.s → t.events.pending.getLsbD 13 = true) ∧
    (rorRuns s = false → t.thermal.s = n ∧ t.thermal.rate = s.thermal.rate ∧ t.thermal.trip = s.thermal.trip ∧ t.thermal.hold = s.thermal.hold) ∧
    (rorRuns s = true → ratesOf h = none → t.thermal.s = n ∧ t.thermal.rate = (0, 0) ∧ t.thermal.hist = h) ∧
    (∀ r : Rat × Rat, rorRuns s = true → ratesOf h = some r → t.thermal.rate = r ∧ t.thermal.hist = h ∧
      (r.1 ≤ cfgRor s / 16 ∧ r.2 ≤ cfgRor s / 16 → t.thermal.s = n ∧ t.thermal.trip = false ∧ t.thermal.trips = s.thermal.trips) ∧
      (cfgRor s / 16 < r.1 ∨ cfgRor s / 16 < r.2 → rorApplies s = false → t.thermal.s = n ∧ t.thermal.trip = s.thermal.trip) ∧
      (cfgRor s / 16 < r.1 ∨ cfgRor s / 16 < r.2 → rorApplies s = true → s.thermal.rorCount ≠ 0 → s.thermal.trip = false →
        t.thermal.s = max n 4 ∧ t.thermal.trip = true ∧ t.thermal.hold = true ∧ t.thermal.trips = sat16 s.thermal.trips ∧
        t.events.pending.getLsbD 14 = true ∧ (max n 4 ≠ s.thermal.s → t.events.pending.getLsbD 13 = true)))) ∧
  (∀ (s : State) (p : Rat) (c : Nat), s.thermal.evalClk = some c → s.clk < c + 8000 → exec (.thermalEvaluation p) s = .next s) ∧
  (∀ s : State, monitorOn s = true → (∀ c, s.thermal.trimClk = some c → c + 8000 ≤ s.clk) →
    exec .clockTrimUpdate s = .next { s with thermal := { s.thermal with
      trims := (Config.loadTrim (sensorValue s s.thermal.mean 7), Config.kclkTrim (sensorValue s s.thermal.mean 7)), trimClk := some s.clk } })

/-- The throttle step goes up and down, the hold ends, a broken sensor is masked. With the monitor active, THROTTLE_UP 250 ms after the last
step while the maximum is above the threshold, at no evaluation's moment, raises s by one up to 7; THROTTLE_DOWN 2 s after the last step
while it is at or below the threshold less 5 K and no hold is on lowers it by one; a change raises EV13 once, and nothing but s, its timer,
events and log changes; with a hold, between the levels, at 0 or early, THROTTLE_DOWN does nothing. ROR_HOLD_END ends the hold once both
rates have been at or below the limit for 2 s after the trip. SENSOR_BROKEN of the sensor with the largest deviation of those above 8 K for
4 s (code 0x15 not in the SAFE mask), not in the first 4 s after the release, sets its bit in the broken mask, makes code 0x15 active, with
EV03 unless it was active before, counts the others that met the condition afresh, takes its replacement into the maximum, begins its
conversions in a row anew, and s goes up by one where the maximum lies above the threshold for the first time and no trip has raised s to 4
at this evaluation. -/
def Obligations.ThrottleSteps : Prop :=
  (∀ (s : State) (c : Nat), monitorOn s = true → s.thermal.zone = 2 → s.thermal.stepClk + 250000 ≤ s.clk → s.thermal.evalClk = some c →
    s.clk < c + 8000 → ∃ t, exec .throttleUp s = .next t ∧
    t = { s with thermal := { s.thermal with s := stepUp s.thermal.s, stepClk := s.clk }, events := t.events, log := t.log } ∧
    (s.thermal.s ≠ 7 → t.events.pending.getLsbD 13 = true) ∧ (s.thermal.s = 7 → t.events = s.events ∧ t.log = s.log)) ∧
  (∀ s : State, s.thermal.zone ≠ 2 ∨ s.clk < s.thermal.stepClk + 250000 → exec .throttleUp s = .next s) ∧
  (∀ s : State, monitorOn s = true → s.thermal.zone = 0 → s.thermal.stepClk + 2000000 ≤ s.clk → s.thermal.hold = false → s.thermal.s ≠ 0 →
    ∃ t, exec .throttleDown s = .next t ∧
      t = { s with thermal := { s.thermal with s := s.thermal.s - 1, stepClk := s.clk }, events := t.events, log := t.log } ∧
      t.events.pending.getLsbD 13 = true) ∧
  (∀ s : State, s.thermal.zone ≠ 0 ∨ s.thermal.hold = true ∨ s.thermal.s = 0 ∨ s.clk < s.thermal.stepClk + 2000000 →
    exec .throttleDown s = .next s) ∧
  (∀ (s : State) (c : Nat), s.thermal.hold = true → s.thermal.trip = false → s.thermal.okClk = some c → c + 2000000 ≤ s.clk →
    exec .rorHoldEnd s = .next { s with thermal := { s.thermal with hold := false } }) ∧
  (∀ (s : State), s.thermal.hold = false ∨ s.thermal.trip = true ∨ s.thermal.okClk = none ∨
    (∃ c, s.thermal.okClk = some c ∧ s.clk < c + 2000000) → exec .rorHoldEnd s = .next s) ∧
  (∀ (s : State) (i : Fin 8), monitorOn s = true → sensorBad s i = false → 501 ≤ s.thermal.overCount[i] →
    (∀ j : Fin 8, j ≠ i → sensorBad s j = false → 501 ≤ s.thermal.overCount[j] →
      ratAbs s.thermal.dev[j] < ratAbs s.thermal.dev[i] ∨ (ratAbs s.thermal.dev[j] = ratAbs s.thermal.dev[i] ∧ i < j)) →
    s.thermal.releaseClk + 4000000 ≤ s.clk → (cfgSafeMask s).getLsbD 0x15 = false →
    ∃ t, exec (.sensorBroken i) s = .next t ∧
      t = { s with freeCount := t.freeCount, thermal := t.thermal, ks := t.ks, events := t.events, log := t.log } ∧
      sensorBad t i = true ∧ (∀ j : Fin 8, j ≠ i → sensorBad t j = sensorBad s j) ∧ t.thermal.hot[i] = 0 ∧ faultActive t 0x15 = true ∧
      (faultActive s 0x15 = false → t.events.pending.getLsbD 3 = true) ∧ t.thermal.max = (reportedMax t s.thermal.mean).1 ∧
      (∀ j : Fin 8, t.thermal.overCount[j] = if sensorBad s j = false ∧ 501 ≤ s.thermal.overCount[j] then 0 else s.thermal.overCount[j]) ∧
      (t.thermal.s = if thermalZone s t.thermal.max = 2 ∧ s.thermal.zone ≠ 2 ∧ (s.thermal.tripRaised = false ∨ s.thermal.evalClk ≠ some s.clk)
        then stepUp s.thermal.s else s.thermal.s)) ∧
  (∀ (s : State) (i : Fin 8), s.thermal.overCount[i] < 501 ∨ s.clk < s.thermal.releaseClk + 4000000 → exec (.sensorBroken i) s = .next s)

/-- The calibration commands: refusals, the start of a run, clear and abort. Each calibration command that the host port takes with 8 argument
bytes: without a CAL session LOCKED, but for the verify kind, which needs none; in SAFE NOT_IN_MODE; any other refusal of R385 as calRefusal
gives it, with nothing changed. Accepted, a zero, span, two-point or verify run starts with OK: no record yet, outcome 0xFF and the results
of the last run gone; the pending zero, Render and the flash stay. CAL_CLEAR answers OK at its acceptance (the model's choice, log 112): of
a VCN without an entry it writes nothing; of one with an entry it starts a Render write of the other entries, which waits while a flash
check runs. CAL_ABORT discards the pending zero and a run in its window; a Render write in progress goes on (the model's choice, log 21). -/
def Obligations.CalibrationCommands : Prop :=
  (∀ (s : State) (f : HostFrame) (k : CalKind) (c : HostFrame → Instr),
    ((k = .zero ∧ c = Instr.calZero) ∨ (k = .span ∧ c = Instr.calSpan) ∨ (k = .first ∧ c = Instr.calTwoPointFirst) ∨
      (k = .second ∧ c = Instr.calTwoPointSecond) ∨ (k = .verify ∧ c = Instr.calVerifyZero) ∨ (k = .clear ∧ c = Instr.calClear) ∨
      (k = .abort ∧ c = Instr.calAbort)) → CommandReady s f 0x07 [(6, calCode k)] 8 →
    let u := sessionActivity s
    let a := commandArgs f 0x07 [(6, calCode k)]
    let v : Vcn := BitVec.ofNat 16 (u16 a 0)
    (k ≠ .verify → hasCal u = false → exec (c f) s = .next (replied u f 0x07 stLocked)) ∧
    (k = .verify ∨ hasCal u = true →
      (inSafe u = true → exec (c f) s = .next (replied u f 0x07 stNotInMode)) ∧
      (calRefusal u k v (u8 a 3 != 0) (f32At a 4) ≠ stOk →
        exec (c f) s = .next (replied u f 0x07 (calRefusal u k v (u8 a 3 != 0) (f32At a 4)))) ∧
      (calRefusal u k v (u8 a 3 != 0) (f32At a 4) = stOk → k ≠ .clear → k ≠ .abort →
        ∃ x : State, exec (c f) s = .next (replied x f 0x07 stOk) ∧ x = { u with cal := x.cal } ∧
          x.cal.run = some { kind := k, vcn := v, ref := f32At a 4, recs := [], cross0 := [], cross1 := [], clean := [],
                             late := false, write := none } ∧
          x.cal.lastKind = calCode k ∧ x.cal.outcome = 0xFF ∧ x.cal.lastVcn = v ∧ x.cal.writeFailed = false ∧
          x.cal.pending = u.cal.pending ∧ x.cal.render = u.cal.render ∧ x.cal.stage = u.cal.stage))) ∧
  (∀ (s : State) (f : HostFrame), CommandReady s f 0x07 [(6, 4)] 8 →
    let u := sessionActivity s
    let a := commandArgs f 0x07 [(6, 4)]
    let v : Vcn := BitVec.ofNat 16 (u16 a 0)
    hasCal u = true → calRefusal u .clear v (u8 a 3 != 0) (f32At a 4) = stOk →
    ((∀ e ∈ renderEntries u, e.vcn ≠ v) → exec (.calClear f) s = .next (replied u f 0x07 stOk)) ∧
    ((∃ e ∈ renderEntries u, e.vcn = v) → ∃ x : State, exec (.calClear f) s = .next (replied x f 0x07 stOk) ∧
      x = { u with cal := x.cal } ∧ x.cal.render = u.cal.render ∧ x.cal.pending = u.cal.pending ∧ x.cal.waiting = u.link.flashRunning ∧
      x.cal.stage = (if u.link.flashRunning then .idle else .erasing) ∧
      (∃ q : BitVec 32, x.cal.image = renderImage u q ((renderEntries u).filter fun e => e.vcn != v)))) ∧
  (∀ (s : State) (f : HostFrame), CommandReady s f 0x07 [(6, 5)] 8 →
    let u := sessionActivity s
    let a := commandArgs f 0x07 [(6, 5)]
    hasCal u = true → calRefusal u .abort (BitVec.ofNat 16 (u16 a 0)) (u8 a 3 != 0) (f32At a 4) = stOk →
    exec (.calAbort f) s = .next (replied { u with cal := { u.cal with
      pending := none, run := if u.cal.stage ≠ .idle ∨ u.cal.waiting = true then u.cal.run else none } } f 0x07 stOk))

/-- The end of a calibration run: checks in order, rejection, pending zero, the entry to be written. CAL_RUN_END 60 s after the first record of
a run's window judges it as calJudge does: stability, then plausibility, then cross-check, each with its code. Rejected, the run ends with
the failing code, any pending zero is discarded, EV07 is pending and Render stays. Accepted: a two-point first part holds its zero pending,
if the CAL session is still open, with EV06 and writes nothing; a verify run ends with OK; the others, still without an outcome, go on to a
Render write of the entry that has the VCN of the run: a zero has y_z = m_last and C_z = the command's with g kept, a span g = 1/r, r from
0.5 to 2.0, a second part also the pending zero's y_z and C_z. Without a run, in a write, for a clear or before that moment it does nothing.
PENDING_ZERO_EXPIRY discards a pending zero that is 30 min old, unless its second part runs; else it does nothing. Everything outside
calibration but events and log is unchanged. -/
def Obligations.CalibrationRunEnds : Prop :=
  (∀ (s : State) (c : CalRun), s.cal.run = some c → c.write = none → c.kind ≠ .clear →
    (∃ k, c.startClk = some k ∧ k + 60000000 ≤ s.clk) →
    let r := calJudge s c
    ∃ t, exec .calRunEnd s = .next t ∧ t = { s with cal := t.cal, events := t.events, log := t.log } ∧
      t.cal.render = s.cal.render ∧ t.cal.mFirst = r.mFirst ∧ t.cal.mLast = r.mLast ∧
      t.cal.drift = r.drift ∧ t.cal.ratio = r.ratio ∧ t.cal.failCross = r.failCross ∧
      (r.outcome = stOk → calSpanKind c.kind = true → fle 0x3F000000 r.ratio = true ∧ fle r.ratio 0x40000000 = true) ∧
      (r.outcome ≠ stOk → (r.outcome = stStability ∨ r.outcome = stPlausibility ∨ r.outcome = stCrossCheck) ∧ t.cal.outcome = r.outcome ∧
        t.cal.run = none ∧ t.cal.pending = none ∧ t.cal.stage = .idle ∧ t.events.pending.getLsbD 7 = true) ∧
      (r.outcome = stOk → c.kind = .verify → t.cal.run = none ∧ t.cal.outcome = stOk ∧ t.cal.pending = s.cal.pending) ∧
      (r.outcome = stOk → c.kind = .first → t.cal.run = none ∧ t.cal.outcome = stOk ∧ t.events.pending.getLsbD 6 = true ∧
        (hasCal s = true → ∃ tag, t.cal.pending = some (c.vcn, tag, r.mLast, c.ref, s.clk)) ∧ (hasCal s = false → t.cal.pending = none)) ∧
      (r.outcome = stOk → c.kind = .zero ∨ c.kind = .span ∨ c.kind = .second → ∃ e : RenderEntry,
        t.cal.run = some { c with write := some e } ∧ t.cal.outcome = s.cal.outcome ∧ e.time = s.time.count ∧ e.era = s.time.era ∧
        (t.cal.stage = if s.link.flashRunning then .idle else .erasing) ∧ t.cal.waiting = s.link.flashRunning ∧
        (∃ q : BitVec 32, t.cal.image = renderImage s q (putEntry (renderEntries s) e)) ∧
        (c.kind = .zero → e.yz = r.mLast ∧ e.cz = c.ref ∧ e.zero = true ∧ t.cal.pending = s.cal.pending) ∧
        (c.kind = .span → e.g = fdiv 0x3F800000 r.ratio ∧ e.span = true) ∧
        (c.kind = .second → e.g = fdiv 0x3F800000 r.ratio ∧ e.span = true ∧ e.zero = true ∧ t.cal.pending = none ∧
          ∀ tag yz cz b, s.cal.pending = some (c.vcn, tag, yz, cz, b) → e.yz = yz ∧ e.cz = cz))) ∧
  (∀ s : State, s.cal.run = none ∨ (∃ c, s.cal.run = some c ∧ (c.write ≠ none ∨ c.kind = .clear ∨ c.startClk = none ∨
      ∃ k, c.startClk = some k ∧ s.clk < k + 60000000)) → exec .calRunEnd s = .next s) ∧
  (∀ (s : State) (v : Vcn) (tag : BitVec 16) (yz cz : F32) (b : Nat), s.cal.pending = some (v, tag, yz, cz, b) →
    (b + 1800000000 ≤ s.clk → (∀ c, s.cal.run = some c → c.kind ≠ .second) →
      exec .pendingZeroExpiry s = .next { s with cal := { s.cal with pending := none } }) ∧
    (s.clk < b + 1800000000 ∨ (∃ c, s.cal.run = some c ∧ c.kind = .second) → exec .pendingZeroExpiry s = .next s)) ∧
  (∀ s : State, s.cal.pending = none → exec .pendingZeroExpiry s = .next s)

/-- A Render write step by step: erase, pages, readback, failure. With a canonical flash that answers: RENDER_ERASE_COMPLETE within 2 s leaves
the 4096 bytes of the sector being written erased and goes on to page 0; RENDER_PAGE_PROGRAM_COMPLETE within 2 s leaves the 256 bytes of the
page as the image has them, the last page leading to the readback; every other byte of the flash reads as before, and nothing else changes;
after 2 s the write has failed. RENDER_READBACK_COMPLETE, the chip holding its bytes but for those that stand otherwise than programmed:
where what it reads passes the check, that copy is in use, the run ends with OK and EV06 is pending but for a clear; a frame of the VCN in
progress keeps the entry it started with, and a pod concerned is to be sent its entries. With a failing check, or by RENDER_WRITE_TIMEOUT
after 2 s, the copy in use stays and the run ends with BUSY, the write-failed flag and EV07. The erase of an old sector ends the write. -/
def Obligations.RenderWrites : Prop :=
  (∀ s : State, FlashCanonical s → s.flash.present = true → s.cal.stage = .erasing → s.clk ≤ s.cal.stageClk + 2000000 →
    ∃ t, exec .renderEraseComplete s = .next t ∧
    t = { s with flash := t.flash, cal := { s.cal with stage := .programming 0, stageClk := s.clk } } ∧ FlashCanonical t ∧
    let o := renderOffset s s.cal.sector
    ∀ a : Nat, flashRead t.flash a 1 = if o ≤ a ∧ a < o + 4096 then [0xFF] else flashRead s.flash a 1) ∧
  (∀ (s : State) (p : Nat), FlashCanonical s → s.flash.present = true → s.cal.stage = .programming p → s.cal.image.length = 4096 → p ≤ 15 →
    s.clk ≤ s.cal.stageClk + 2000000 →
    ∃ t, exec .renderPageProgramComplete s = .next t ∧
      t = { s with flash := t.flash
                   cal := { s.cal with stage := if 15 ≤ p then .readback else .programming (p + 1), stageClk := s.clk } } ∧ FlashCanonical t ∧
      let o := renderOffset s s.cal.sector + 256 * p
      ∀ a : Nat, flashRead t.flash a 1 =
        if o ≤ a ∧ a < o + 256 then [s.cal.image.getD (256 * p + (a - o)) 0] else flashRead s.flash a 1) ∧
  (∀ (s : State) (c : CalRun) (d : List (Nat × Byte)) (r : RenderCopy), s.cal.stage = .readback → s.cal.run = some c →
    parseRender s.cal.sector (flashRead (heldSector s d).flash (renderOffset s s.cal.sector) 4096) = some r →
    ∃ t, exec (.renderReadbackComplete d) s = .next t ∧
      t = { s with flash := (heldSector s d).flash, cal := t.cal, course := t.course, events := t.events } ∧
      t.cal.render = some r ∧ t.cal.run = none ∧ t.cal.outcome = stOk ∧ t.cal.pending = s.cal.pending ∧
      (c.kind ≠ .clear → t.events.pending.getLsbD 6 = true) ∧ (c.kind = .clear → t.events = s.events) ∧
      (vcnNode c.vcn = 0 → channelOn s (vcnIndex c.vcn) = true →
        (s.cal.old.lookup c.vcn = none → t.cal.old.lookup c.vcn = some ((renderEntries s).find? fun e => e.vcn == c.vcn)) ∧
        (∀ e, s.cal.old.lookup c.vcn = some e → t.cal.old.lookup c.vcn = some e)) ∧
      (∀ n ∈ t.course.nodes, n.addr.toNat = vcnNode c.vcn → n.renderPending = true)) ∧
  (∀ (s : State) (c : CalRun) (d : List (Nat × Byte)), s.cal.run = some c →
    (s.cal.stage = .readback → parseRender s.cal.sector (flashRead (heldSector s d).flash (renderOffset s s.cal.sector) 4096) = none →
      ∃ t, exec (.renderReadbackComplete d) s = .next t ∧
      t = { s with flash := (heldSector s d).flash, cal := t.cal, events := t.events } ∧ t.cal.render = s.cal.render ∧ t.cal.run = none ∧
      t.cal.outcome = stBusy ∧ t.cal.writeFailed = true ∧ t.cal.stage = .idle ∧ t.events.pending.getLsbD 7 = true) ∧
    (s.cal.stage = .erasing ∨ (∃ p, s.cal.stage = .programming p) → s.cal.stageClk + 2000000 ≤ s.clk →
      ∃ t, exec .renderWriteTimeout s = .next t ∧
      t = { s with cal := t.cal, events := t.events } ∧ t.cal.render = s.cal.render ∧ t.cal.run = none ∧ t.cal.outcome = stBusy ∧
      t.cal.writeFailed = true ∧ t.cal.stage = .idle ∧ t.events.pending.getLsbD 7 = true) ∧
    (s.cal.stageClk + 2000000 < s.clk →
      (s.cal.stage = .erasing → ∃ t, exec .renderEraseComplete s = .next t ∧ t.cal.render = s.cal.render ∧ t.cal.run = none ∧
        t.cal.outcome = stBusy ∧ t.cal.writeFailed = true ∧ t.events.pending.getLsbD 7 = true) ∧
      (∀ p, s.cal.stage = .programming p → ∃ t, exec .renderPageProgramComplete s = .next t ∧ t.cal.render = s.cal.render ∧ t.cal.run = none ∧
        t.cal.outcome = stBusy ∧ t.cal.writeFailed = true ∧ t.events.pending.getLsbD 7 = true))) ∧
  (∀ s : State, s.cal.stage = .eraseOld → (∃ t, exec .renderEraseComplete s = .next t ∧
      t = { s with flash := t.flash, cal := { s.cal with stage := .idle, stageClk := s.clk } }) ∧
    (s.cal.stageClk + 2000000 ≤ s.clk → exec .renderWriteTimeout s = .next { s with cal := { s.cal with stage := .idle } })) ∧
  (∀ s : State, s.clk < s.cal.stageClk + 2000000 → exec .renderWriteTimeout s = .next s)

/-- Evaluations of Spillway rules: fast path, RATE, STEL and TWA, the invalid timeout, debounce and latch. Debounce: a clear rule alarms at the
set count, an alarmed one clears, or latches under LATCH, at the clear count, a latched one stays. The trailing window of a Weir holds the
packets younger than W, each with the charge and sign of the range it was counted in, across a range change too. FAST_PATH_EVALUATION of a
fast rule whose channel is biased and a whole window past its warm-up, with the fast path active, compares the window's net charge over W
with the levels; a mismatch of the two units takes the alarmed result and makes code 0x02 active. RATE_EVALUATION in a mode at the end of a
Plumb second, where the evaluators agree, evaluates in RUN and WATCH every RATE rule that has means of this second and of the one a minute
before; PLUMB_MINUTE_END at the end of a minute closes the minute of STEL and TWA rules, evaluates them and restarts the log budget, which
it also does outside a mode; the other rules stay as they are. RULE_INVALID_TIMEOUT under INVASSERT after the invalid timeout without an
evaluation makes a rule invalid, with its counters anew; a latched rule stays, and so does a CLASS rule whose input reads NOTYET. But for
these rules only outputs, events, log and a pod's frames change. -/
def Obligations.RuleEvaluations : Prop :=
  (∀ (r : Rule) (l : Bool) (ds dc : Nat) (c : Bool), r.state = .clear → r.first = false →
    ((judge r l ds dc true c).1 = .alarmed ↔ ds ≤ min 255 (r.setCount + 1)) ∧
    ((judge r l ds dc true c).1 = .clear ↔ min 255 (r.setCount + 1) < ds)) ∧
  (∀ (r : Rule) (l : Bool) (ds dc : Nat), r.state = .alarmed → r.first = false →
    (judge r l ds dc false true).1 = (if dc ≤ min 255 (r.clearCount + 1) then (if l = true then RuleState.latched else .clear) else .alarmed)) ∧
  (∀ (r : Rule) (l : Bool) (ds dc : Nat) (m c : Bool), r.state = .latched → judge r l ds dc m c = (.latched, r)) ∧
  (∀ (s : State) (w : Fin 16) (l : List FastPacket),
    let young (t : Rat) := (s.clk : Rat) - 10 ^ 6 * fastWindow s < t
    let x := s.weirs[weirOfWe w]
    (∀ p ∈ windowWith s w l, young p.1) ∧ (∀ p ∈ x.window, young p.1 → p ∈ windowWith s w l) ∧
    (∀ p ∈ l, ∀ c : Nat, x.frameClk = some c →
      let t : Rat := (s.clk : Rat) - (p.age : Rat) * 125 / 512
      let q := qCal s w.val (if t ≤ (c : Rat) then x.lastRange else x.range)
      young t → (t, if p.neg then -q else q) ∈ windowWith s w l)) ∧
  (∀ (s : State) (k : Fin 256) (l : List FastPacket) (b : Bool) (w : Fin 16), fastActive s = true → k.val < ruleCount s →
    ruleFast s k.val = true → vcnIndex (ruleVcn s k.val) = w.val → s.ec[ecOf w].stage = .biased → s.ec[ecOf w].warmUntil = none →
    s.weirs[weirOfWe w].on = true → (s.ec[ecOf w].warmEnd : Rat) + 10 ^ 6 * fastWindow s ≤ (s.clk : Rat) →
    (b = true → (cfgSafeMask s).getLsbD 2 = false) →
    let v := ofRat (((windowWith s w l).map (·.2)).sum / fastWindow s)
    let m := levelMet s k.val v
    ∃ t, exec (.fastPathEvaluation k l b) s = .next t ∧
      t = { s with freeCount := t.freeCount, weirs := vmod s.weirs (weirOfWe w) (fun x => { x with window := windowWith s w l }),
                   spill := t.spill, events := t.events, log := t.log, course := t.course, ks := t.ks } ∧
      t.spill.rules[k].last = v ∧ t.spill.rules[k].evalClk = s.clk ∧
      t.spill.rules[k].state = (judge { s.spill.rules[k] with last := v } (ruleLatch s k.val) (ruleSetCount s k.val)
        (ruleClearCount s k.val) (m.1 || b) (m.2 && !b)).1 ∧
      (b = true → faultActive t 2 = true) ∧ (b = false → t.ks = s.ks) ∧ ∀ j : Fin 256, j ≠ k → t.spill.rules[j] = s.spill.rules[j]) ∧
  (∀ (s : State) (k : Fin 256) (l : List FastPacket) (b : Bool) (w : Fin 16), fastActive s = true → k.val < ruleCount s →
    ruleFast s k.val = true → vcnIndex (ruleVcn s k.val) = w.val →
    s.ec[ecOf w].warmUntil.isSome = true ∨ (s.clk : Rat) < (s.ec[ecOf w].warmEnd : Rat) + 10 ^ 6 * fastWindow s →
    exec (.fastPathEvaluation k l b) s = .next { s with
      weirs := vmod s.weirs (weirOfWe w) (fun x => { x with window := windowWith s w l }) }) ∧
  (∀ s : State, isRunning s = true → onCount s 1000000 = true → s.spill.secondClk ≠ some s.clk →
    let n := secondOf (wholeTime s 1000000)
    ∃ t, exec (.rateEvaluation []) s = .next t ∧
    t = { s with spill := t.spill, events := t.events, log := t.log, course := t.course } ∧
    (∀ k : Fin 256, k.val < ruleCount s → ruleKind s k.val = 2 →
      t.spill.rules[k].seconds = s.spill.rules[k].seconds.filter (fun x => n < x.1 + 61) ∧
      (∀ a b, isActive s = true → 60 ≤ n → secondMean (t.spill.rules[k].seconds) n = some a →
        secondMean (t.spill.rules[k].seconds) (n - 60) = some b → t.spill.rules[k].last = ofRat (a - b)) ∧
      (isActive s = false ∨ n < 60 ∨ secondMean (t.spill.rules[k].seconds) n = none ∨ secondMean (t.spill.rules[k].seconds) (n - 60) = none →
        t.spill.rules[k].state = s.spill.rules[k].state)) ∧
    (∀ k : Fin 256, ruleCount s ≤ k.val ∨ ruleKind s k.val ≠ 2 → t.spill.rules[k] = s.spill.rules[k])) ∧
  (∀ s : State, isRunning s = true → onCount s 60000000 = true → s.spill.minuteClk ≠ some s.clk →
    let n := minuteOf (wholeTime s 60000000)
    ∃ t, exec (.plumbMinuteEnd []) s = .next t ∧
    t = { s with spill := t.spill, events := t.events, log := t.log, course := t.course } ∧ (inSafe s = true → t.log.budget = 0) ∧
    (∀ k : Fin 256, k.val < ruleCount s → ruleKind s k.val = 3 ∨ ruleKind s k.val = 4 →
      t.spill.rules[k].buckets = (closeMinute n s.spill.rules[k]).buckets ∧
      (isActive s = true → ∀ v, bucketValue (if ruleKind s k.val = 3 then 15 else 480) (closeMinute n s.spill.rules[k]) = some v →
        t.spill.rules[k].last = ofRat v)) ∧
    (∀ k : Fin 256, ruleCount s ≤ k.val ∨ (ruleKind s k.val ≠ 3 ∧ ruleKind s k.val ≠ 4) → t.spill.rules[k] = s.spill.rules[k])) ∧
  (∀ (s : State) (b : List (Fin 256)), isRunning s = false → exec (.rateEvaluation b) s = .next s ∧
    (onCount s 60000000 = true → s.spill.minuteClk ≠ some s.clk → exec (.plumbMinuteEnd b) s =
      .next { s with log := { s.log with budget := 0 }, spill := { s.spill with minuteClk := some s.clk } })) ∧
  (∀ (s : State) (b : List (Fin 256)), (onCount s 1000000 = false → exec (.rateEvaluation b) s = .next s) ∧
    (onCount s 60000000 = false → exec (.plumbMinuteEnd b) s = .next s)) ∧
  (∀ (s : State) (k : Fin 256), isActive s = true → k.val < ruleCount s → ruleInvAssert s k.val = true →
    (s.spill.rules[k].evalClk + 1000000 * cfgInvalid s ≤ s.clk → (ruleKind s k.val = 5 → readsNotYet s (ruleVcn s k.val) = false) →
      s.spill.rules[k].state ≠ .latched → s.spill.rules[k].state ≠ .invalid → ∃ t, exec (.ruleInvalidTimeout k) s = .next t ∧
      t = { s with spill := t.spill, events := t.events, log := t.log, course := t.course } ∧
      t.spill.rules[k].state = .invalid ∧ t.spill.rules[k].first = true ∧ t.spill.rules[k].setCount = 0 ∧
      t.spill.rules[k].clearCount = 0 ∧ ∀ j : Fin 256, j ≠ k → t.spill.rules[j] = s.spill.rules[j]) ∧
    (s.spill.rules[k].state = .latched ∨ s.clk < s.spill.rules[k].evalClk + 1000000 * cfgInvalid s ∨
      (ruleKind s k.val = 5 ∧ readsNotYet s (ruleVcn s k.val) = true) → exec (.ruleInvalidTimeout k) s = .next s))

/-- ACKNOWLEDGE_RULE, the ratio outputs' slew and readback, the alarm balls' readback. ACKNOWLEDGE_RULE taken by the host port with 4 argument
bytes, in every mode: BAD_ARG for a reserved byte not 0 or a number that names no rule and is not 0xFFFF; else OK, a latched rule named is
clear, an alarmed one with LATCH is alarmed-acknowledged, every other rule stays. RATIO_SLEW_TICK, each millisecond, brings a driven output
to its row of the table: at once into or out of a fault band or without a rate, else towards its code, not past it and by no more than the
configured rate allows. RATIO_READBACK, each millisecond: a first difference is noted, the second running makes the output faulted, in the
low band, with code 0x10 active. ALARM_PIN_READBACK, each millisecond: a level other than the drive marks the ball as faulted and makes code
0x0E active, 0x0F for FAULTn (codes not in the SAFE mask); an equal one changes the readback alone. -/
def Obligations.AcknowledgeAndReadbacks : Prop :=
  (∀ (s : State) (f : HostFrame), CommandReady s f 0x03 [] 4 →
    let u := sessionActivity s
    let a := commandArgs f 0x03 []
    let acked (k : Fin 256) : RuleState := match u.spill.rules[k].state with
      | .latched => .clear
      | .alarmed => if ruleLatch u k.val = true then .acked else .alarmed
      | g => g
    (u16 a 2 ≠ 0 ∨ (u16 a 0 ≠ 0xFFFF ∧ (256 ≤ u16 a 0 ∨ ruleCount u ≤ u16 a 0)) →
      exec (.acknowledgeRule f) s = .next (replied u f 0x03 stBadArg)) ∧
    (∀ k : Fin 256, u16 a 2 = 0 → u16 a 0 = k.val → k.val < ruleCount u →
      ∃ x, exec (.acknowledgeRule f) s = .next (replied x f 0x03 stOk) ∧
        x = { u with spill := x.spill, events := x.events, log := x.log, course := x.course } ∧
        x.spill.rules[k].state = acked k ∧ ∀ j : Fin 256, j ≠ k → x.spill.rules[j] = u.spill.rules[j]) ∧
    (u16 a 2 = 0 → u16 a 0 = 0xFFFF → ∃ x, exec (.acknowledgeRule f) s = .next (replied x f 0x03 stOk) ∧
        x = { u with spill := x.spill, events := x.events, log := x.log, course := x.course } ∧
        ∀ k : Fin 256, k.val < ruleCount u → x.spill.rules[k].state = acked k)) ∧
  (∀ (s : State) (n : Fin 2), s.spill.aout[n].driven = true → s.spill.aout[n].slewClk + 1000 ≤ s.clk →
    let o := s.spill.aout[n]
    let c := aoutTarget s n
    ∃ x : Aout, exec (.ratioSlewTick n) s = .next { s with spill := { s.spill with aout := s.spill.aout.set n.val x } } ∧
      x = { o with code := x.code, goal := c, part := x.part, slewClk := gridClk s o.slewClk 1000 } ∧
      (inBand c = true ∨ inBand o.code = true ∨ aoutSlew s n = 0 → x.code = c) ∧
      (inBand c = false → inBand o.code = false → aoutSlew s n ≠ 0 → 0 ≤ o.part →
        (o.code ≤ c → o.code ≤ x.code ∧ x.code ≤ c) ∧ (c ≤ o.code → c ≤ x.code ∧ x.code ≤ o.code) ∧
        ratAbs ((x.code.toNat : Rat) - (o.code.toNat : Rat)) ≤ o.part + ((aoutSlew s n * 65536 : Nat) : Rat) / 10 ^ 6)) ∧
  (∀ (s : State) (n : Fin 2) (c : BitVec 16), isRunning s = true → aoutPresent s n = true → s.spill.aout[n].driven = true →
    s.spill.aout[n].readClk + 1000 ≤ s.clk →
    (readbackDiffers s.spill.aout[n].code c = false ∨ (s.spill.aout[n].differs = false ∧ s.spill.aout[n].fault = false) →
      exec (.ratioReadback n c) s = .next { s with spill := { s.spill with aout := vmod s.spill.aout n fun o =>
        { o with readback := c, differs := readbackDiffers o.code c, readClk := gridClk s o.readClk 1000 } } }) ∧
    (readbackDiffers s.spill.aout[n].code c = true → s.spill.aout[n].differs = true → s.spill.aout[n].fault = false →
      (cfgSafeMask s).getLsbD 0x10 = false → ∃ t, exec (.ratioReadback n c) s = .next t ∧
        t = { s with freeCount := t.freeCount, spill := t.spill, ks := t.ks, events := t.events, log := t.log } ∧
        t.spill.aout[n].fault = true ∧ t.spill.aout[n].code = lowBand ∧ faultActive t 0x10 = true)) ∧
  (∀ (s : State) (n : Fin 2), s.clk < s.spill.aout[n].slewClk + 1000 → exec (.ratioSlewTick n) s = .next s) ∧
  (∀ (s : State) (n : Fin 2) (c : BitVec 16), s.clk < s.spill.aout[n].readClk + 1000 → exec (.ratioReadback n c) s = .next s) ∧
  (∀ (s : State) (p : AlarmPin) (low : Bool), isRunning s = true → pinRead s p = true → s.spill.pinClk[pinIdx p] + 1000 ≤ s.clk →
    (low = pinLow s p → ∃ t, exec (.alarmPinReadback p low) s = .next t ∧ t = { s with spill := t.spill } ∧
      t.spill = { s.spill with aReadLow := t.spill.aReadLow, bReadLow := t.spill.bReadLow, aFault := t.spill.aFault,
                               bFault := t.spill.bFault, fFault := t.spill.fFault, pinClk := t.spill.pinClk } ∧
      (p = .alarmA → t.spill.aFault = false ∧ t.spill.aReadLow = low) ∧ (p = .alarmB → t.spill.bFault = false ∧ t.spill.bReadLow = low) ∧
      (p = .faultn → t.spill.fFault = false)) ∧
    (low ≠ pinLow s p → (cfgSafeMask s).getLsbD 0x0E = false → (cfgSafeMask s).getLsbD 0x0F = false →
      ∃ t, exec (.alarmPinReadback p low) s = .next t ∧
        t = { s with freeCount := t.freeCount, spill := t.spill, ks := t.ks, events := t.events, log := t.log } ∧
        (p = .alarmA → t.spill.aFault = true ∧ faultActive t 0x0E = true) ∧ (p = .alarmB → t.spill.bFault = true ∧ faultActive t 0x0E = true) ∧
        (p = .faultn → t.spill.fFault = true ∧ faultActive t 0x0F = true))) ∧
  (∀ (s : State) (p : AlarmPin) (low : Bool), s.clk < s.spill.pinClk[pinIdx p] + 1000 → exec (.alarmPinReadback p low) s = .next s)

/-- MERE_EVENT_APPLY: one event of a tarn's FIFO, the neuron's record, its spike and its wake. With Mere running and fewer than 16 spikes
queued, the front event leaves the tarn's FIFO and no other tarn changes. A synaptic event for an ENABLED neuron, or a wake not cancelled,
is taken: the record is brought to the event's time, the event is received, and a neuron at its threshold outside refractory time spikes:
reset values, one more spike in the queue with its time. Wakes the neuron still waits for go, those in the FIFO are cancelled; the wake the
update requests joins the wake queue while fewer than 32 others wait. A synaptic event taken counts in the tarn and in the aggregate.
Another event changes no neuron, queue or count. An empty FIFO, a full spike queue or Mere not running leaves all as it is. This is said for
a read that finds no error in the record: a single-bit error adds only its count, an error elsewhere nothing, a double-bit error in the
record is counted as uncorrectable. The order of signed times is the model's reading (log 20). -/
def Obligations.MereEvents : Prop :=
  (∀ (s : State) (k : Fin 8) (err : EccObs), s.mere.tarns[k].fifo = [] ∨ 16 ≤ s.mere.tarns[k].spikes.length ∨ mereRuns s = false →
    exec (.mereEventApply k err) s = .next s) ∧
  (∀ (s : State) (k : Fin 8) (e : MereEvent) (rest : List MereEvent), mereRuns s = true → s.mere.tarns[k].fifo = e :: rest →
    s.mere.tarns[k].spikes.length < 16 →
    let n := e.target.toNat % 256
    let takes := if e.wake = true then e.cancelled = false else neuronOn s k n = true
    let b := templateOf s k n
    let x := getNeuron s k n
    let came := (elapse b (s.time.count.truncate 40) e.time e.held { x := { x with wake := none }, sats := 0 }).1
    let got := receive b e came
    let u := if spikes b got = true then spikeNeuron b got else got
    let others := s.mere.tarns[k].wakes.filter fun w => w.1 != n
    let left := rest.map fun f => if wakeOf n f = true then { f with cancelled := true } else f
    ∃ t, exec (.mereEventApply k .clean) s = .next t ∧ t = { s with mere := t.mere, events := t.events } ∧
      t.mere = { s.mere with tarns := t.mere.tarns, classes := t.mere.classes, aggregate := t.mere.aggregate, lagSpans := t.mere.lagSpans,
                             episode := t.mere.episode, disturbed := t.mere.disturbed, cause := t.mere.cause } ∧
      t.mere.tarns[k].busyClk = s.clk ∧ (∀ j : Fin 8, j ≠ k → t.mere.tarns[j] = s.mere.tarns[j]) ∧
      (takes →
        { getNeuron t k n with wake := none } = u.x ∧
        t.mere.tarns[k].spikes = s.mere.tarns[k].spikes ++ (if spikes b got = true then [(n, got.x.tLast)] else []) ∧
        (spikes b got = false → t.mere.classes = s.mere.classes) ∧
        (wakeRequest b u.x = none → t.mere.tarns[k].fifo = left ∧ t.mere.tarns[k].wakes = others ∧ (getNeuron t k n).wake = none) ∧
        (∀ d, wakeRequest b u.x = some d → others.length < 32 →
          t.mere.tarns[k].fifo = left ∧ t.mere.tarns[k].wakes = others ++ [(n, d)] ∧ (getNeuron t k n).wake = some d) ∧
        t.mere.aggregate = (if e.wake = true then s.mere.aggregate else s.mere.aggregate + 1) ∧
        t.mere.tarns[k].applied = (if e.wake = true then s.mere.tarns[k].applied else s.mere.tarns[k].applied + 1) ∧
        exec (.mereEventApply k .single) s = .next { t with log := { t.log with corrected := sat16 s.log.corrected } } ∧
        (∀ m : Fin 256, m.val = n → ∃ w, exec (.mereEventApply k (.double (.neuron k m))) s = .next w ∧
          w.log.uncorrectable = sat8 s.log.uncorrectable)) ∧
      (¬ takes →
        t.mere.tarns[k] = { s.mere.tarns[k] with fifo := rest, busyClk := s.clk, lagging := t.mere.tarns[k].lagging } ∧
        t.mere.classes = s.mere.classes ∧ t.mere.aggregate = s.mere.aggregate ∧
        ∀ err : EccObs, exec (.mereEventApply k err) s = .next t) ∧
      (∀ p : CisternPlace, (∀ m : Fin 256, m.val = n → p ≠ .neuron k m) → exec (.mereEventApply k (.double p)) s = .next t))

/-- Wakes that fall due, spikes read out through Mortar, encoder slots drained. WAKE_DUE: with room in the FIFO, the earliest wake, once Plumb
has reached its time, leaves the wake queue and joins the tarn's FIFO as a wake event with its due time, marked as held where it has been
due for 2^31 microseconds; one not yet due stays. Earliest is by signed times, of equals the one queued first: of wakes less than 2^31 after
one time, none is earlier (log 20). SPIKE_EMIT: a front spike without an event left leaves the queue; otherwise, when it is this tarn's turn
and the target's FIFO has room, its first event joins that FIFO, and the rest of the spike waits or, after its last event, the spike leaves;
a full FIFO or another's turn changes nothing. A single-bit error that the read finds adds only its count. ENCODER_SLOT_DRAIN: when it is
the encoders' turn, the first event of the encoder whose turn it is leaves its slot and joins the target's FIFO. Nothing else changes but
the grants, the FIFO's high-water mark and the time of the stall limit. -/
def Obligations.SpikesWakesEncoders : Prop :=
  (∀ (s : State) (k : Fin 8) (n : Nat) (due : BitVec 32), mereRuns s = true → s.mere.tarns[k].fifo.length < 64 →
    earliestWake s.mere.tarns[k].wakes = some (n, due) →
    (wakeIsDue s k (n, due) = true → exec (.wakeDue k) s = .next { s with mere := { s.mere with tarns := vmod s.mere.tarns k fun y => { y with
      wakes := y.wakes.filter fun w => w.1 != n
      fifo := y.fifo ++ [{ target := BitVec.ofNat 11 (256 * k.val + n), receptor := 0, weight := 0, time := due, wake := true,
                           held := decide (2 ^ 31 ≤ wakeAge s k (n, due)) }]
      fifoMark := max y.fifoMark (y.fifo.length + 1)
      busyClk := if y.fifo = [] ∧ y.spikes = [] then s.clk else y.busyClk } } }) ∧
    (wakeIsDue s k (n, due) = false → exec (.wakeDue k) s = .next s)) ∧
  (∀ (s : State) (k : Fin 8), s.mere.tarns[k].wakes = [] ∨ 64 ≤ s.mere.tarns[k].fifo.length → exec (.wakeDue k) s = .next s) ∧
  (∀ (s : State) (k : Fin 8) (n : Nat) (due : BitVec 32), wakeIsDue s k (n, due) = true ↔
    (s.time.count.truncate 40 - ((getNeuron s k n).tLast40 + BitVec.ofInt 40 (due - (getNeuron s k n).tLast).toInt)).toNat ≤ 2 ^ 40 - 2 ^ 31) ∧
  (∀ (l : List (Nat × BitVec 32)) (n : Nat) (due b : BitVec 32), earliestWake l = some (n, due) → (∀ w ∈ l, 0 ≤ since b w.2) →
    (n, due) ∈ l ∧ ∀ w ∈ l, since b due ≤ since b w.2) ∧
  (∀ (s : State) (k : Fin 8), mereRuns s = true → s.mere.tarns[k].spikes ≠ [] → frontEvents s k = [] →
    exec (.spikeEmit k .clean) s = .next { s with mere := { s.mere with tarns := vmod s.mere.tarns k fun y => { y with
      emitting := none, spikes := y.spikes.drop 1, heldSpikes := y.heldSpikes - 1, busyClk := s.clk } } }) ∧
  (∀ (s : State) (k : Fin 8) (e : ReadEvent) (rest : List ReadEvent), mereRuns s = true → s.mere.tarns[k].spikes ≠ [] →
    frontEvents s k = e :: rest →
    let g := tarnOf e.event.target
    (granted s g = some k.val → s.mere.tarns[g].fifo.length < 64 → ∃ t, exec (.spikeEmit k .clean) s = .next t ∧
      t = { s with mere := { s.mere with tarns := t.mere.tarns } } ∧
      t.mere.tarns[g].fifo = s.mere.tarns[g].fifo ++ [e.event] ∧ t.mere.tarns[g].grant = k.val ∧
      t.mere.tarns[k].emitting = (if rest = [] then none else some rest) ∧
      t.mere.tarns[k].spikes = (if rest = [] then s.mere.tarns[k].spikes.drop 1 else s.mere.tarns[k].spikes) ∧
      (∀ j : Fin 8, t.mere.tarns[j] = { s.mere.tarns[j] with
        fifo := t.mere.tarns[j].fifo, fifoMark := t.mere.tarns[j].fifoMark, grant := t.mere.tarns[j].grant,
        emitting := t.mere.tarns[j].emitting, spikes := t.mere.tarns[j].spikes, heldSpikes := t.mere.tarns[j].heldSpikes, busyClk := t.mere.tarns[j].busyClk } ∧
        (j ≠ g → j ≠ k → t.mere.tarns[j] = s.mere.tarns[j])) ∧
      exec (.spikeEmit k .single) s = .next { t with log := { t.log with corrected := sat16 s.log.corrected } }) ∧
    (granted s g ≠ some k.val ∨ 64 ≤ s.mere.tarns[g].fifo.length → exec (.spikeEmit k .clean) s = .next s)) ∧
  (∀ (s : State) (g : Fin 8) (x : Fin 64) (isUp : Bool) (e : MereEvent), mereRuns s = true → s.mere.tarns[g].fifo.length < 64 →
    granted s g = some 8 → grantedEnc s g = some x → slotFirst s.mere.encoders[x] = some (isUp, e) →
    exec (.encoderSlotDrain g) s = .next { s with mere := { s.mere with
      encoders := vmod s.mere.encoders x fun y => if isUp = true then { y with up := none } else { y with down := none }
      tarns := vmod s.mere.tarns g fun y => { y with
        encGrant := x.val, grant := 8, fifo := y.fifo ++ [e], fifoMark := max y.fifoMark (y.fifo.length + 1)
        busyClk := if y.fifo = [] ∧ y.spikes = [] then s.clk else y.busyClk } } }) ∧
  (∀ (s : State) (g : Fin 8) (i : Nat), (granted s g = some i → i < 9 ∧ sourceWants s g i = true) ∧
    (sourceWants s g i = true → i < 9 → (granted s g).isSome = true))

/-- Class records, stall resets, the probe's snapshot. CLASS_RECORD_WRITE of a bound class while Mere runs (here without an evaluator
difference), once its earliest class frame not yet written has ended and either all up to its end is applied or the lag limit has passed:
the frame becomes the newest bucket and its end the class's frame end. Where the VCN is known and no rule is loaded, the store then holds
its record: the frame's sequence, the frame end as time, the value S/(n_c T_c) of the window, S and the asserted state as raw field;
asserted follows the on and off rates. Before that moment, or for a class not bound, nothing changes. MERE_STALL of a tarn that with
something queued has completed no event for the stall limit (found from 9.5 ms on, the model's reading of KCLK's tolerance, log 20): every
tarn's neurons, queues and wakes, every class bucket and pending slot are gone, an asserted class with EVENT has EV24, and EV26 is pending;
the reset is counted, or, with two in the last 60 s, Mere is off until a reset. A tarn with nothing queued, or within the limit, is not
stalled. PROBE_SNAPSHOT takes the template and record of the neuron probed. -/
def Obligations.ClassRecordsStallsProbe : Prop :=
  (∀ (s : State) (c : Fin 64), mereRuns s = true → classBound s c.val = true →
    let x := s.mere.classes[c]
    0 ≤ sinceEnd s x → drainedTo s (nextEnd s x) = true ∨ (lagLimit s : Int) ≤ sinceEnd s x →
    let f : ClassFrame := x.frames.head?.getD { spikes := 0, us := classUs s, late := false }
    let n := classWindow s c.val
    let win := (((f.spikes, f.us) :: x.buckets).take 64).take n
    let total := (win.map (·.1)).sum
    let us := (win.map (·.2)).sum + (n - win.length) * classUs s
    let value := ofRat ((total : Rat) * 10 ^ 6 / (us : Rat))
    let on := if fle (classOn s c.val) value = true then true else if fle value (classOff s c.val) = true then false else x.asserted
    ∃ t, exec (.classRecordWrite c []) s = .next t ∧
      t = { s with mere := t.mere, results := t.results, spill := t.spill, events := t.events, log := t.log, course := t.course, cal := t.cal } ∧
      t.mere.classes[c] = { x with frames := x.frames.drop 1, buckets := ((f.spikes, f.us) :: x.buckets).take 64, ended := min 64 (x.ended + 1)
                                   frameEnd := x.frameEnd + BitVec.ofInt 48 (f.us + f.move), fresh := true
                                   asserted := t.mere.classes[c].asserted } ∧
      (∀ d : Fin 64, d ≠ c → t.mere.classes[d] = s.mere.classes[d]) ∧ t.mere.tarns = s.mere.tarns ∧
      (∀ e : VcnEntry, entryOf s (ownVcn s (0x40 + c.val)) = some e → (∀ h, e.record = some h → (e.frameSeq - h.seq).toNat < 2 ^ 31) →
        ruleCount s = 0 → ∃ (e' : VcnEntry) (q : Record), entryOf t (ownVcn s (0x40 + c.val)) = some e' ∧ e'.record = some q ∧
          e'.frameSeq = nextSeq e.frameSeq ∧ e'.skipped = 0 ∧ q.seq = e.frameSeq ∧ q.time = t.mere.classes[c].frameEnd ∧ q.value = value ∧
          q.raw = BitVec.ofNat 32 ((if on = true then 2 ^ 31 else 0) + min total 16777215) ∧ t.mere.classes[c].asserted = on ∧
          (isValid q.status = true ↔ n ≤ min 64 (x.ended + 1)))) ∧
  (∀ (s : State) (c : Fin 64) (bad : List (Fin 256)),
    classBound s c.val = false ∨ sinceEnd s s.mere.classes[c] < 0 ∨
      (drainedTo s (nextEnd s s.mere.classes[c]) = false ∧ sinceEnd s s.mere.classes[c] < lagLimit s) →
    exec (.classRecordWrite c bad) s = .next s) ∧
  (∀ (s : State) (k : Fin 8), mereRuns s = true → s.mere.tarns[k].fifo ≠ [] ∨ s.mere.tarns[k].spikes ≠ [] →
    s.mere.tarns[k].busyClk + 9500 ≤ s.clk →
    let recent := s.mere.stallTimes.filter fun t => s.clk ≤ t + 60000000
    ∃ t, exec (.mereStall k) s = .next t ∧ t = { s with mere := t.mere, events := t.events, results := t.results, spill := t.spill } ∧
      (∀ j : Fin 8, t.mere.tarns[j] = { s.mere.tarns[j] with
        neurons := [], fifo := [], spikes := [], heldSpikes := 0, emitting := none, wakes := [], lagging := none }) ∧
      (∀ c : Fin 64, t.mere.classes[c] = { frameEnd := lastFrameEnd s } ∧
        t.mere.encoders[c] = { s.mere.encoders[c] with init := false, up := none, down := none } ∧
        (s.mere.classes[c].asserted = true → classBound s c.val = true → classEvent s c.val = true → t.events.pending.getLsbD 24 = true)) ∧
      t.mere.start = s.time.count ∧ t.mere.image = s.mere.image ∧ t.events.pending.getLsbD 26 = true ∧
      (recent.length < 2 → t.mere.power = .running ∧ t.mere.stallResets = sat16 s.mere.stallResets ∧ t.mere.stallTimes = s.clk :: recent) ∧
      (2 ≤ recent.length → t.mere.power = .offStall ∧ t.mere.stallResets = s.mere.stallResets)) ∧
  (∀ (s : State) (k : Fin 8), (s.mere.tarns[k].fifo = [] ∧ s.mere.tarns[k].spikes = []) ∨ s.clk < s.mere.tarns[k].busyClk + 9500 →
    exec (.mereStall k) s = .next s) ∧
  (∀ s : State, isRunning s = true → s.mere.probeWanted = true →
    let k := tarnOf (s.mere.probe.truncate 11)
    let n := s.mere.probe.toNat % 256
    exec .probeSnapshot s = .next { s with mere := { s.mere with
      probeWanted := false, snapshot := some (neuronWord s k n % 256, getNeuron s k n) } })

/-- PPS edges judged, PPS qualified and lost. PPS_EDGE in a mode with PPSEN and SYSCLK: an edge less than 500 ms after an accepted one is
ignored; an edge that is not good, or the first, only notes the interval, sets a prediction and restarts the row of good edges, a bad one
counts and sets none; a good one adds to the row and is counted, and in state PPS gives the phase error and a correction within 200 ppm (its
value free, log 8). The fourth good edge in a row qualifies PPS; from another state, where no step is due, Plumb is in state PPS: within 1
microsecond at once with EV16, otherwise a slew over the error begins. PPS_MISSING of a qualified PPS whose prediction plus 2 microseconds
has passed counts, before that it does nothing; the third in a row loses it: in state PPS, qualified chain time (TIMEVALID set) is slewed to
and its latest good mark's error shown, else HOLDOVER with EV16 and EV17. While a time set waits for the end of its frame, a source that
qualifies or is lost waits too. Only Plumb and events change, but for a step. Predictions across missing pulses and chain time between marks
are the model's readings (log 30, 132). -/
def Obligations.PpsEdgesAndLoss : Prop :=
  (∀ (s : State) (c : Nat) (e : Int) (conf : Bool), cfgPps s = false ∨ conf = false ∨
    ((s.time.ppsPredicted = true ∨ s.time.ppsInterval ≠ 0) ∧ c < 12288000) → exec (.ppsEdge c e conf) s = .next s) ∧
  (∀ (s : State) (c : Nat) (raw : Int), isRunning s = true → cfgPps s = true → s.time.sysclk = true →
    (s.time.ppsPredicted = true ∨ s.time.ppsInterval ≠ 0 → 12288000 ≤ c) →
    let n := c / (s.time.ppsAdvanced + 1)
    let interval := if ppsSecond n = true then n else if s.time.ppsInterval = 0 then 24576000 else s.time.ppsInterval
    let err := (raw + cfgPpsDelay s + 500000000) % 1000000000 - 500000000
    (ppsGoodEdge s.time c = false → exec (.ppsEdge c raw true) s = .next { s with time := { s.time with
      ppsInterval := interval, ppsAdvanced := 0, ppsPredicted := !s.time.ppsPredicted, ppsGood := 0, ppsClk := s.clk
      ppsDue := if s.time.ppsPredicted = true ∨ stillAwaited s = true then s.time.ppsDue else s.clk + intervalUs interval
      badPps := if s.time.ppsPredicted = true then sat16 s.time.badPps else s.time.badPps } }) ∧
    (ppsGoodEdge s.time c = true → s.time.state ≠ .pps → s.time.ppsQualified = true ∨ s.time.ppsGood < 3 →
      exec (.ppsEdge c raw true) s = .next { s with time := { s.time with
        ppsInterval := interval, ppsAdvanced := 0, ppsClk := s.clk, ppsDue := s.clk + intervalUs interval, ppsGood := min 4 (s.time.ppsGood + 1)
        ppsMissed := 0
        goodPps := sat16 s.time.goodPps } }) ∧
    (ppsGoodEdge s.time c = true → s.time.state = .pps → ∃ t, exec (.ppsEdge c raw true) s = .next t ∧
      t = { s with freeCount := t.freeCount, time := t.time } ∧ t.time.state = .pps ∧ t.time.phaseErr = err ∧
      t.time.goodPps = sat16 s.time.goodPps ∧ -13107200 ≤ t.time.learned ∧ t.time.learned ≤ 13107200 ∧ t.time.ppsMissed = 0) ∧
    (ppsGoodEdge s.time c = true → s.time.state ≠ .pps → s.time.ppsQualified = false → 3 ≤ s.time.ppsGood →
      (∀ m, s.host.effect ≠ .timeSet m) → mayStep s = false ∨ bigError err = false ∨ s.time.slew.isSome = true → ∃ t, exec (.ppsEdge c raw true) s = .next t ∧
        t = { s with time := t.time, events := t.events } ∧ t.time.state = .pps ∧ t.time.ppsQualified = true ∧ t.time.phaseErr = err ∧
        t.time.count = s.time.count ∧ t.time.valid = s.time.valid ∧
        (err.natAbs ≤ 1000 → t.time.slew = none ∧ t.events.pending.getLsbD 16 = true) ∧
        (1000 < err.natAbs → t.time.slew = some (nsUnits * err) ∧ t.time.changing = true ∧ t.events = s.events)) ∧
    (ppsGoodEdge s.time c = true → s.time.state ≠ .pps → s.time.ppsQualified = false → 3 ≤ s.time.ppsGood →
      (∀ m, s.host.effect ≠ .timeSet m) → mayStep s = true → bigError err = true → s.time.slew = none → ∃ t, exec (.ppsEdge c raw true) s = .next t ∧
        t.time.state = .pps ∧ t.time.ppsQualified = true ∧ t.time.slew = none ∧ t.time.steps = sat16 s.time.steps ∧
        plumbUnits t = movedUnits s (nsUnits * err) ∧ t.events.pending.getLsbD 16 = true) ∧
    (ppsGoodEdge s.time c = true → s.time.state ≠ .pps → s.time.ppsQualified = false → 3 ≤ s.time.ppsGood →
      (∃ m, s.host.effect = .timeSet m) → ∃ t, exec (.ppsEdge c raw true) s = .next t ∧ t = { s with time := t.time } ∧
        t.time.ppsQualified = true ∧ t.time.state = s.time.state ∧ t.time.slew = s.time.slew ∧ t.time.count = s.time.count ∧
        t.time.held = s.time.held ++ [.qualified .pps err])) ∧
  (∀ s : State, isRunning s = true → s.time.ppsQualified = true →
    s.time.ppsDue + 2 ≤ s.clk →
    (s.time.ppsMissed < 2 → s.time.ppsPredicted = true → s.time.ppsClk + intervalUs ((s.time.ppsAdvanced + 1) * s.time.ppsInterval) ≤ s.time.ppsDue →
      exec .ppsMissing s = .next { s with time := { s.time with
        missingPps := sat16 s.time.missingPps, ppsMissed := s.time.ppsMissed + 1, ppsAdvanced := s.time.ppsAdvanced + 1
        ppsDue := s.time.ppsDue + intervalUs s.time.ppsInterval } }) ∧
    (s.time.ppsMissed < 2 → exec .ppsMissing s = .next { s with time := { (advancePps s.time) with
      missingPps := sat16 s.time.missingPps, ppsMissed := s.time.ppsMissed + 1 } }) ∧
    (2 ≤ s.time.ppsMissed → ∃ t, exec .ppsMissing s = .next t ∧ t.time.ppsQualified = false ∧ t.time.ppsPredicted = false ∧
      t.time.missingPps = sat16 s.time.missingPps ∧
      (s.time.state ≠ .pps → t = { s with time := t.time } ∧ t.time.state = s.time.state) ∧
      ((∃ m, s.host.effect = .timeSet m) → t = { s with time := t.time } ∧ t.time.state = s.time.state ∧
        t.time.held = s.time.held ++ [.lost .pps]) ∧
      (s.time.state = .pps → (∀ m, s.host.effect ≠ .timeSet m) → s.time.chainQualified = false → t = { s with time := t.time, events := t.events } ∧
        t.time.state = .holdover ∧ t.time.slew = none ∧ t.events.pending.getLsbD 16 = true ∧ t.events.pending.getLsbD 17 = true) ∧
      (s.time.state = .pps → (∀ m, s.host.effect ≠ .timeSet m) → s.time.chainQualified = true → s.time.valid = true →
        t = { s with time := t.time, events := t.events } ∧ t.time.state = .chain ∧ t.time.phaseErr = s.time.chainGoodErr ∧
        let err := chainNow s - plumbNs s
        t.time.slew = (if err.natAbs ≤ 1000 then none else some (nsUnits * err))))) ∧
  (∀ s : State, s.time.ppsQualified = false ∨ s.clk < s.time.ppsDue + 2 →
    exec .ppsMissing s = .next s)

/-- TIME_SET judged at the request, the move made at the end of the frame, the step's effect. TIME_SET taken by the port: LOCKED without CAL;
NOT_IN_MODE in state CHAIN, and in PPS when the error rounds to a non-zero number of seconds with STEPS clear and TIMEVALID set; otherwise
OK, and the move waits for the end of the frame: the whole seconds in PPS, a step for an error above 10 ms with STEPS, or with TIMEVALID
clear in FREE, else a slew. At HOST_FRAME_END, complete or not, the state is HOST with TIMEVALID set and the phase error kept; within 1
microsecond no slew runs, otherwise one over the error; a step puts Plumb to the registers' time, counts and drops the slew. In PPS, Plumb
steps by the whole seconds and stays in PPS with its slew. PPS that has qualified in between comes into force after the set. A step back,
with TIMEVALID set, drops the frames in progress, moves Mere's and Sluice's times and is logged; all outside frames, results, events, log,
Mere, Sluice and host port stays. -/
def Obligations.HostTimeSet : Prop :=
  (∀ (s : State) (f : HostFrame), CommandReady s f 0x08 [] 0 →
    let u := sessionActivity s
    let err := timeSetError u
    (hasCal u = false → exec (.timeSet f) s = .next (replied u f 0x08 stLocked)) ∧
    (hasCal u = true → u.time.state = .chain → exec (.timeSet f) s = .next (replied u f 0x08 stNotInMode)) ∧
    (hasCal u = true → u.time.state = .pps → wholeSeconds err ≠ 0 → cfgSteps u = false → u.time.valid = true →
      exec (.timeSet f) s = .next (replied u f 0x08 stNotInMode)) ∧
    (hasCal u = true → u.time.state = .pps → wholeSeconds err = 0 ∨ cfgSteps u = true ∨ u.time.valid = false →
      exec (.timeSet f) s = .next (holdMove (replied u f 0x08 stOk) (.seconds (wholeSeconds err)))) ∧
    (hasCal u = true → u.time.state ≠ .chain → u.time.state ≠ .pps →
      exec (.timeSet f) s = .next (holdMove (replied u f 0x08 stOk)
        (if 10000000 < err.natAbs ∧ (cfgSteps u = true ∨ (u.time.valid = false ∧ u.time.state = .free)) then .step else .slew)))) ∧
  (∀ (s : State) (complete : Bool), s.host.effect = .timeSet .slew → s.time.held = [] →
    s.time.state ≠ .pps → s.time.state ≠ .chain →
    let err := timeSetError s
    ∃ t, exec (.hostFrameEnd complete) s = .next t ∧ t.time.state = .host ∧ t.time.valid = true ∧ t.time.phaseErr = err ∧
      t.time.slew = (if err.natAbs ≤ 1000 then none else some (nsUnits * err)) ∧ t.time.count = s.time.count ∧
      (s.time.valid = true → t = { s with time := t.time, events := t.events, host := { s.host with response := [], effect := .none } }) ∧
      (s.time.state ≠ .host → err.natAbs ≤ 1000 → t.events.pending.getLsbD 16 = true)) ∧
  (∀ (s : State) (complete : Bool), s.host.effect = .timeSet .step → s.time.held = [] →
    s.time.state ≠ .pps → s.time.state ≠ .chain →
    ∃ t, exec (.hostFrameEnd complete) s = .next t ∧ t.time.state = .host ∧ t.time.valid = true ∧ t.time.count = s.time.setCount ∧
      t.time.era = s.time.setEra ∧ t.time.frac = 0 ∧ t.time.slew = none ∧ t.time.steps = sat16 s.time.steps ∧
      t.time.lastStep = (s.time.setCount, s.time.setEra) ∧ (s.time.state ≠ .host → t.events.pending.getLsbD 16 = true) ∧
      (time56 (s.time.setCount, s.time.setEra) < time56 (plumbNow s) → s.time.valid = true →
        t = { s with time := t.time, events := t.events, host := t.host, results := t.results, spill := t.spill, weirs := t.weirs,
                     sysDrop := s.sysOn, mere := t.mere, sluice := t.sluice, log := t.log,
                     ks := { s.ks with visiting := false, visitBad := false, compared := false } } ∧
        (∀ n : Fin 23, t.weirs[n] = { s.weirs[n] with dropFrame := s.weirs[n].on, residue := none, carry := 0 }) ∧
        (∀ k : Fin 128, slotPeriodic s.sluice[k] = false → t.sluice[k] = s.sluice[k]) ∧
        (s.log.budget < cfgLogCap s → s.log.general.length < 15359 → s.log.stopped = false →
          ∃ e, t.log.general = s.log.general ++ [e] ∧ e.kind = 0x0A))) ∧
  (∀ (s : State) (complete : Bool) (e : Int), s.host.effect = .timeSet (.seconds e) → s.time.held = [] → s.time.state = .pps →
    ∃ t, exec (.hostFrameEnd complete) s = .next t ∧ t.time.state = .pps ∧ t.time.valid = true ∧
      (e = 0 → t.time.count = s.time.count ∧ t.time.slew = s.time.slew ∧
        (s.time.valid = true → t = { s with host := { s.host with response := [], effect := .none } })) ∧
      (e ≠ 0 → plumbUnits t = movedUnits s (e * (1000000 * usUnits : Nat)) ∧ t.time.slew = s.time.slew ∧ t.time.steps = sat16 s.time.steps)) ∧
  (∀ (s : State) (complete : Bool) (m : TimeMove) (e : Int), s.host.effect = .timeSet m → s.time.held = [.qualified .pps e] →
    s.time.state ≠ .pps → s.time.state ≠ .chain → m = .step ∨ m = .slew →
    ∃ t, exec (.hostFrameEnd complete) s = .next t ∧ t.time.state = .pps ∧ t.time.valid = true ∧ t.time.held = [])

/-- The slew's end, holdover correction, the count's wrap, clocks that stop, PPS_OUT. SLEW_COMPLETE of a slew with at most 1 microsecond left
ends it and completes a change of source with EV16; with more left it does nothing. HOLDOVER_CORRECTION in HOLDOVER, 8 ms after the one
before, puts the negated polynomial of the crystal temperature in force. PLUMB_WRAP at the end of the count: the count is 0 and the era one
higher. RTCCLK_STOP on a declared crystal: it counts as stopped (until the next handover, the model's choice, log 130), and without SYSCLK
Plumb does not count, TIMEVALID is clear, the state FREE. SYSCLK_STOP under a valid VDD: Plumb counts on with a declared crystal that runs,
else it does not count; in a mode the loss makes code 0x04, without a crystal 0x07, active (which code is the model's reading, log 31).
PPS_OUT_PULSE at a whole second with PPSOUT in a state other than FREE raises PPS_OUT, except less than 500 ms after a pulse when Plumb has
stepped since; PPS_OUT_FALL lowers it once its width has passed. Nothing else changes (codes not in the SAFE mask). -/
def Obligations.TimebaseEvents : Prop :=
  (∀ (s : State) (r : Int), s.time.slew = some r →
    (r.natAbs ≤ usUnits → ∃ t, exec .slewComplete s = .next t ∧
      t = { s with time := { s.time with slew := none, changing := false }, events := t.events } ∧
      (s.time.changing = true → t.events.pending.getLsbD 16 = true) ∧ (s.time.changing = false → t.events = s.events)) ∧
    (usUnits < r.natAbs → exec .slewComplete s = .next s)) ∧
  (∀ s : State, s.time.slew = none → exec .slewComplete s = .next s) ∧
  (∀ s : State, isRunning s = true → s.time.state = .holdover → (∀ c, s.time.polyClk = some c → c + 8000 ≤ s.clk) →
    exec .holdoverCorrection s = .next { s with time := { s.time with poly := polyCorrection s, polyClk := some s.clk } }) ∧
  (∀ s : State, s.time.state ≠ .holdover ∨ (∃ c, s.time.polyClk = some c ∧ s.clk < c + 8000) → exec .holdoverCorrection s = .next s) ∧
  (∀ s : State, s.time.counting = true → s.time.count = 0xFFFFFFFFFFFF →
    exec .plumbWrap s = .next { s with time := { s.time with count := 0, era := s.time.era + 1, stride := 1 } }) ∧
  (∀ s : State, s.time.count ≠ 0xFFFFFFFFFFFF → exec .plumbWrap s = .next s) ∧
  (∀ s : State, s.time.xtal = true → s.time.sysclk = false → ∃ t, exec .rtcclkStop s = .next t ∧ t = { s with time := t.time } ∧
    t.time.counting = false ∧ t.time.valid = false ∧ t.time.state = .free ∧ t.time.slew = none ∧ t.time.count = s.time.count ∧
    t.time.era = s.time.era ∧ t.time.xtalStopped = true) ∧
  (∀ s : State, s.time.xtal = true → s.time.sysclk = true →
    exec .rtcclkStop s = .next { s with time := { s.time with xtalStopped := true } }) ∧
  (∀ s : State, s.time.xtal = false → exec .rtcclkStop s = .next s) ∧
  (∀ s : State, s.supply.vdd = true → s.time.sysclk = true → (cfgSafeMask s).getLsbD 4 = false → (cfgSafeMask s).getLsbD 7 = false →
    ∃ t, exec .sysclkStop s = .next t ∧
      t = { s with freeCount := t.freeCount, time := t.time, ks := t.ks, events := t.events, log := t.log } ∧
      (s.time.xtal = true → s.time.xtalStopped = false → t.time = { s.time with sysclk := false }) ∧
      (s.time.xtal = false ∨ s.time.xtalStopped = true → t.time.sysclk = false ∧ t.time.counting = false ∧ t.time.valid = false ∧ t.time.state = .free ∧ t.time.count = s.time.count) ∧
      (isRunning s = true → faultActive t (if s.time.xtal = true then 0x04 else 0x07) = true) ∧ (isRunning s = false → t.ks = s.ks)) ∧
  (∀ s : State, isRunning s = true → cfgPpsOut s = true → s.time.state ≠ .free → onCount s 1000000 = true →
    (s.time.ppsStepped = false ∨ (∀ c, s.time.ppsOutClk = some c → c + 500000 ≤ s.clk) →
      exec .ppsOutPulse s = .next { s with time := { s.time with ppsOut := true, ppsOutClk := some s.clk, ppsStepped := false } }) ∧
    (∀ c, s.time.ppsStepped = true → s.time.ppsOutClk = some c → s.clk < c + 500000 → exec .ppsOutPulse s = .next s)) ∧
  (∀ s : State, cfgPpsOut s = false ∨ s.time.state = .free ∨ onCount s 1000000 = false → exec .ppsOutPulse s = .next s) ∧
  (∀ s : State, (∀ c, s.time.ppsOutClk = some c → c + cfgPpsWidth s ≤ s.clk) →
    exec .ppsOutFall s = .next { s with time := { s.time with ppsOut := false } }) ∧
  (∀ (s : State) (c : Nat), s.time.ppsOutClk = some c → s.clk < c + cfgPpsWidth s → exec .ppsOutFall s = .next s)

/-- Sluice: an action due, retried, skipped after its grace, and the slot command. In a mode, for a slot with a due time: SLUICE_ACTION_DUE
before it, or while a lower slot with the same due time could start and has not, does nothing. After that a one-shot without TIMEVALID is
held; an action whose resource is busy only waits; otherwise (for every kind but the mode change) it starts: the run is counted, its start
and status kept, started more than 10 ms late it counts as late with EV18, and the slot advances to its next occurrence, a one-shot to none;
a log mark changes log, events and this slot alone. A mode action the configuration forbids is skipped with EV19. SLUICE_RETRY starts a
waiting action whose resource is free in the same order, up to its deadline (G, or the shorter of G and the period), as late where it was
found past due, and leaves others waiting. Only a run, not a skip, is noted as the occurrence that does not run again. SLUICE_GRACE_EXPIRY
skips a waiting action with EV19 at the deadline. SLUICE_SLOT: LOCKED without CAL, BAD_ARG for a bad number, reserved byte or entry; else
the slot takes the entry, EXPIRED and unchanged for a one-shot late by more than G, LATE_RUN and at once for one late by less. -/
def Obligations.SluiceActions : Prop :=
  (∀ (s : State) (k : Fin 128) (d : Nat), isRunning s = true → s.sluice[k].due = some d →
    let x := s.sluice[k]
    let now := time56 (plumbNow s)
    let ran (late : Bool) (st : Byte) : Slot := advanceSlot true now d { x with
      runs := sat16 x.runs, lates := if late = true then sat16 x.lates else x.lates, lastStart := now
      lastStatus := if st = stOk ∧ late = true then stLateRun else st }
    (x.waiting = false → slotPeriodic x = false → s.time.valid = false → exec (.sluiceActionDue k) s = .next s) ∧
    (now < d ∨ slotTurn s k = false → exec (.sluiceActionDue k) s = .next s) ∧
    (x.waiting = false → slotPeriodic x = true ∨ s.time.valid = true → d ≤ now → slotTurn s k = true → slotBusy s x = true →
      exec (.sluiceActionDue k) s = .next { s with sluice := vmod s.sluice k fun y => { y with waiting := true, forced := false } }) ∧
    (x.waiting = true → slotBusy s x = true → exec (.sluiceRetry k) s = .next s ∧ exec (.sluiceActionDue k) s = .next s) ∧
    (∀ (c : Instr) (force : Bool), slotBusy s x = false → slotPeriodic x = true ∨ s.time.valid = true → slotTurn s k = true →
      (c = .sluiceActionDue k ∧ force = false ∧ x.waiting = false ∧ d ≤ now) ∨
        (c = .sluiceRetry k ∧ force = x.forced ∧ x.waiting = true ∧ now ≤ d + slotGrace s x) →
      let late := force || decide (d + 10000 < now)
      (slotKind x ≠ 1 → ∃ (t : State) (st : Byte), exec c s = .next t ∧ t.sluice[k] = ran late st ∧ (∀ j : Fin 128, j ≠ k → t.sluice[j] = s.sluice[j]) ∧
        (slotKind x ≠ 4 → st = stOk) ∧ (late = true → t.events.pending.getLsbD 18 = true) ∧
        t.time = s.time ∧ t.config = s.config ∧ t.rail = s.rail ∧ t.gate = s.gate ∧ t.host = s.host ∧
        (slotKind x ≠ 2 → t.mox = s.mox) ∧ (slotKind x ≠ 3 → t.tones = s.tones) ∧ (slotKind x ≠ 4 → t.cal = s.cal) ∧
        (slotKind x = 5 → t = { s with sluice := t.sluice, log := t.log, events := t.events })) ∧
      (slotKind x = 1 → cfgSluiceMode s = false → ∃ t, exec c s = .next t ∧ t = { s with sluice := t.sluice, events := t.events } ∧
        t.sluice[k] = advanceSlot false now d { x with skipped := sat16 x.skipped } ∧ t.events.pending.getLsbD 19 = true)) ∧
    (x.waiting = true → d + slotGrace s x < now ∨ slotTurn s k = false → exec (.sluiceRetry k) s = .next s) ∧
    (x.waiting = true → now < d + slotGrace s x → exec (.sluiceGraceExpiry k) s = .next s) ∧
    (x.waiting = true → d + slotGrace s x ≤ now → ∃ t, exec (.sluiceGraceExpiry k) s = .next t ∧ t = { s with sluice := t.sluice, events := t.events } ∧
      t.sluice[k] = advanceSlot false now d { x with skipped := sat16 x.skipped } ∧ (∀ j : Fin 128, j ≠ k → t.sluice[j] = s.sluice[j]) ∧
      t.events.pending.getLsbD 19 = true)) ∧
  (∀ (s : State) (x : Slot), slotGrace s x = if slotPeriodic x = true then min (cfgGrace s) (slotPeriod x) else cfgGrace s) ∧
  (∀ (s : State) (k : Fin 128), slotTurn s k = true ↔ ∀ j : Fin 128, j < k → slotReady s s.sluice[j] = true ∨ slotFree s s.sluice[j] = true →
    s.sluice[j].due ≠ s.sluice[k].due) ∧
  (∀ (x : Slot) (now d : Nat), (advanceSlot true now d x).lastDue = some d ∧ (advanceSlot false now d x).lastDue = x.lastDue ∧
    ∀ ran : Bool, (advanceSlot ran now d x).waiting = false ∧ (slotPeriodic x = false → (advanceSlot ran now d x).due = none)) ∧
  (∀ (s : State) (f : HostFrame), CommandReady s f 0x09 [] 20 →
    let u := sessionActivity s
    let a := commandArgs f 0x09 []
    let e := a.drop 4
    let now := time56 (plumbNow u)
    (hasCal u = false → exec (.sluiceSlot f) s = .next (replied u f 0x09 stLocked)) ∧
    (hasCal u = true → 128 ≤ u8 a 0 ∨ zeros a 1 3 = false ∨ slotOk (u.role == .pod) e = false →
      exec (.sluiceSlot f) s = .next (replied u f 0x09 stBadArg)) ∧
    (∀ k : Fin 128, hasCal u = true → u8 a 0 = k.val → zeros a 1 3 = true → slotOk (u.role == .pod) e = true →
      let x : Slot := { (loadSlot e now u.sluice[k]) with byCommand := true }
      (slotPeriodic x = true ∨ u.time.valid = false ∨ x.due = none ∨ (∃ d, x.due = some d ∧ now ≤ d) →
        exec (.sluiceSlot f) s = .next (replied { u with sluice := vmod u.sluice k fun _ => x } f 0x09 stOk)) ∧
      (∀ d, slotPeriodic x = false → u.time.valid = true → x.due = some d → d + cfgGrace u < now →
        exec (.sluiceSlot f) s = .next (replied u f 0x09 stExpired)) ∧
      (∀ d, slotPeriodic x = false → u.time.valid = true → x.due = some d → d < now → now ≤ d + cfgGrace u →
        ∃ y, exec (.sluiceSlot f) s = .next (replied y f 0x09 stLateRun) ∧
          (slotBusy u x = true → y = { u with sluice := vmod u.sluice k fun _ => { x with waiting := true, forced := true } }) ∧
          (slotKind x = 5 → y.sluice[k].due = none ∧ y.sluice[k].runs = sat16 x.runs ∧ y.sluice[k].lastStatus = stLateRun ∧
            y.events.pending.getLsbD 18 = true))))

/-- Loss and return of signal, repeating, what a node sends, and frames that fail the checks. LOSS_OF_SIGNAL of an enabled port notes and counts
the episode, and cuts the frame a pod was repeating from it. SIGNAL_RESTORED ends it; a head then starts an enumeration with FULL, unless
one is under way, or has it follow a boot transfer. STORED_FRAME_SEND sends the first waiting frame, an own frame other than ALARM not
before a stored one (R612 over R613's classes: the model's reading, log 126), an ALARM of this node's own with the bitmap, a SWEEP_START
with the time, a DELAY_RESP with t3 of that moment, which a DELAY_REQ notes as t1. A whole frame's bytes on the wire, preamble and start
delimiter before the header, are read back as that frame, with the length byte it came with when it is repeated, its CRC good, or upstream
when stomped; the line's levels spell their bits, least significant first. CUT_THROUGH_REPEAT at a pod, of a good frame for another node: it
leaves the other port at once with the hop byte one up, its CRC good, or waits there whole, counted, while that transmitter is busy and the
32 KiB of buffers have room; towards a port under test one for a single pod is discarded (the model's reading, log 147); at the head a whole
frame of a reserved type is only counted as a format error. A frame originated on a port that is enabled and not under test waits there with
this node's address, the class's next sequence and the chain version (1 for enumeration frames), behind the frames of its class or before. A
Course frame of any type but DISCOVER that arrives at the other role, on a port that is not enabled, or at a head in no mode or from source
0, changes nothing; one that fails a check changes only its port's count for that. -/
def Obligations.CoursePortsAndRepeating : Prop :=
  (∀ (s : State) (p : Fin 2) (rep : Bool), s.course.ports[p].enabled = true → s.course.ports[p].los = false →
    (rep = false ∨ s.role = .head → exec (.lossOfSignal p rep) s = .next { s with course := { s.course with
      ports := vmod s.course.ports p fun q => { q with los := true, counts := vmod q.counts 5 sat16 } } }) ∧
    (∀ f, rep = true → s.role = .pod → s.course.ports[otherPort p].sent = some f → f.repeated = true →
      ∃ t, exec (.lossOfSignal p rep) s = .next t ∧ t = { s with course := { s.course with ports := t.course.ports } } ∧
        t.course.ports[p] = { s.course.ports[p] with los := true, counts := vmod s.course.ports[p].counts 5 sat16 } ∧
        t.course.ports[otherPort p] = { s.course.ports[otherPort p] with sent := some { f with cut := true } })) ∧
  (∀ (s : State) (p : Fin 2), s.course.ports[p].enabled = true → s.course.ports[p].los = true →
    (s.role = .pod ∨ isRunning s = false → exec (.signalRestored p) s = .next { s with course := { s.course with
      ports := vmod s.course.ports p fun q => { q with los := false } } }) ∧
    (s.role = .head → isRunning s = true → p ∈ usedPorts s → ∃ t, exec (.signalRestored p) s = .next t ∧
      t = { s with course := t.course, events := t.events } ∧ t.course.ports[p].los = false ∧ t.course.nodes = s.course.nodes ∧
      (s.course.enum = .idle ∨ (s.course.enum = .collecting ∧ s.course.enumFull = false) →
        t.course.enum = .collecting ∧ t.course.enumFull = true ∧
        ∀ q ∈ usedPorts s, sends s q = true → Waits t q 0x01 255 (discoverPayload (lowerVersion s) true q)) ∧
      (s.course.enum = .collecting → s.course.enumFull = true → t.course.enum = .collecting ∧ t.course.enumFull = true ∧ t.events = s.events) ∧
      (s.course.enum = .booting → t.course.enum = .booting ∧ t.course.fullWanted = true ∧ t.events = s.events))) ∧
  (∀ s : State, (lowerVersion s).course.version = if s.course.lowest < s.course.version then s.course.lowest else s.course.version) ∧
  (∀ (s : State) (p : Fin 2) (rep : Bool), s.course.ports[p].enabled = false →
    exec (.lossOfSignal p rep) s = .next s ∧ exec (.signalRestored p) s = .next s ∧ exec (.storedFrameSend p) s = .next s) ∧
  (∀ (s : State) (p : Fin 2) (f : CourseFrame) (l : List CourseFrame), sends s p = true → nextOut s.course.ports[p].txq = some (f, l) →
    (∃ t, exec (.storedFrameSend p) s = .next t ∧ t = { s with course := { s.course with pod := t.course.pod, ports := vmod s.course.ports p fun q =>
        { q with sent := some (atSending s f), txq := l, busyUntil := s.clk + frameWireUs (atSending s f) } } } ∧
      t.course.pod = if f.type = 0x15 ∧ f.repeated = false then { s.course.pod with t1 := some s.time.count } else s.course.pod) ∧
    ((f.type ≠ 0x14 ∧ f.type ≠ 0x10 ∧ f.type ≠ 0x16) ∨ f.repeated = true → atSending s f = f) ∧
    (f.type = 0x14 → f.repeated = false → atSending s f = { f with payload := f.payload.take 4 ++ chainBitmap s }) ∧
    (f.type = 0x10 → f.repeated = false →
      atSending s f = { f with payload := f.payload.take 4 ++ plumbBytes (plumbNow s) ++ f.payload.drop 11 }) ∧
    (f.type = 0x16 → f.repeated = false →
      atSending s f = { f with payload := f.payload.take 6 ++ countBytes s ++ f.payload.drop 12 })) ∧
  (∀ l : List CourseFrame, (nextOut l = none ↔ l = []) ∧ (∀ f k, nextOut l = some (f, k) → l.Perm (f :: k) ∧
    (f.repeated = true ∨ f.classVer.toNat % 4 = 0 ∨ ∀ g ∈ l, g.repeated = false)) ∧
    (∀ f k, l = f :: k → f.repeated = true ∨ f.classVer.toNat % 4 = 0 ∨ (∀ g ∈ l, g.repeated = false) → nextOut l = some (f, k))) ∧
  (∀ (f : CourseFrame) (p : Fin 2), f.payload.length ≤ 240 →
    let r : CourseRx := { port := p, dst := f.dst, src := f.src, seq := f.seq, len := f.lenByte.getD (BitVec.ofNat 8 f.payload.length),
                          classVer := f.classVer, credit := f.credit, hop := f.hop, payload := f.payload, crc := sentCrc f, endedEarly := false }
    ofWire p (wireBytes f) = some (f.type, r) ∧ (f.lenByte = none → wholeFrame r = true) ∧
      (f.stomped = false → r.crc = frameCrc f.type r.hop r) ∧ (f.stomped = true → ∀ s, rxFate s f.type r = .upstream)) ∧
  (∀ l : List Byte, (lineLevels l).length = 16 * l.length ∧
    lineBits (lineLevels l) = some (l.flatMap fun b => (List.range 8).map b.getLsbD)) ∧
  (∀ (s : State) (type : Byte) (busy : Bool) (r : CourseRx), s.role = .head → isRunning s = true → s.course.ports[r.port].enabled = true →
    knownType type = false → wholeFrame r = true → r.crc = frameCrc type r.hop r →
    exec (.cutThroughRepeat type busy r) s = .next { s with course := { s.course with
      ports := vmod s.course.ports r.port fun q => { q with counts := vmod q.counts 3 sat16 } } }) ∧
  (∀ (s : State) (type : Byte) (busy : Bool) (r : CourseRx), s.role = .pod → s.course.ports[r.port].enabled = true →
    underTest s.course.ports[r.port] = false → s.course.ports[otherPort r.port].enabled = true → addressedHere s r = false →
    rxFate s type r = .accepted →
    let out : CourseFrame := { dst := r.dst, src := r.src, type := type, seq := r.seq, classVer := r.classVer, credit := r.credit,
                               hop := sat8 r.hop, payload := r.payload, stomped := false, repeated := true, cut := false, lenByte := some r.len }
    (busy = false → underTest s.course.ports[otherPort r.port] = false →
      (∀ g ∈ s.course.ports[otherPort r.port].txq, g.repeated = false) →
      exec (.cutThroughRepeat type busy r) s = .next { s with course := { s.course with
        ports := vmod s.course.ports (otherPort r.port) fun q => { q with sent := some out, busyUntil := s.clk + frameWireUs out } } }) ∧
    (busy = true → storedBytes s + 16 + r.payload.length ≤ 32768 → underTest s.course.ports[otherPort r.port] = false ∨ r.dst = 0 ∨ r.dst = 255 →
      exec (.cutThroughRepeat type busy r) s = .next { s with course := { s.course with
        ports := vmod s.course.ports (otherPort r.port) fun q => { q with txq := insertFrame q.txq out, counts := vmod q.counts 6 sat16 } } }) ∧
    (underTest s.course.ports[otherPort r.port] = true → 1 ≤ r.dst.toNat → r.dst.toNat ≤ 250 → exec (.cutThroughRepeat type busy r) s = .next s)) ∧
  (∀ (s : State) (p : Fin 2) (type dst credit : Byte) (cls : Fin 3) (pay : List Byte), sends s p = true →
    let f : CourseFrame := { dst := dst, src := ownAddr s, type := type, seq := s.course.seqs[cls],
                             classVer := BitVec.ofNat 8 (cls.val + 16 * (if type.toNat ≤ 3 ∧ type ≠ 0 then 1 else s.course.version.toNat)),
                             credit := credit, hop := 0, payload := pay, stomped := false, repeated := false }
    originate s [p] type dst cls.val credit pay = { s with course := { s.course with
      seqs := vmod s.course.seqs cls (· + 1), ports := vmod s.course.ports p fun q => { q with txq := insertFrame q.txq f } } } ∧
    ∃ a b, s.course.ports[p].txq = a ++ b ∧ insertFrame s.course.ports[p].txq f = a ++ f :: b ∧
      (∀ g ∈ a, sendRank g ≤ sendRank f) ∧ ∀ g, b.head? = some g → sendRank f < sendRank g) ∧
  (∀ (c : Instr) (s : State) (role : Role) (type : Byte) (r : CourseRx), courseFrame c = some (role, type, r) →
    (s.role ≠ role ∨ s.course.ports[r.port].enabled = false ∨ (role = .head ∧ (isRunning s = false ∨ r.src = 0)) → exec c s = .next s) ∧
    (s.role = role → s.course.ports[r.port].enabled = true → (role = .head → isRunning s = true ∧ r.src ≠ 0) →
      rxFate s type r ≠ .accepted → exec c s = .next { s with course := { s.course with
        ports := vmod s.course.ports r.port fun q => { q with counts := vmod q.counts (fateCount (rxFate s type r)) sat16 } } }))

/-- Enumeration at the head: discovery, identities, plans, retries, the closed ring. DISCOVER_TIMER of an idle head, a second after the last
one, sends a DISCOVER without FULL on each used port with signal and starts a collection. IDENTITY: collected while a FULL collection runs;
otherwise it updates the pod it names, which joins with EV22 once it runs on the address it was given, and stays booting before, and the
lowest version named is kept for the next DISCOVER; a lost pod brings a FULL enumeration. ENUMERATION_COLLECT_END, 5 ms after the last new
unique ID or 100 ms after the start, carries out the plans: for one plan, a pod without an address is parked unmapped, EV30 if new, one with
an address is in the node table under it: assigned, parked incompatible (EV30 if new), or found before its reset, and every used port sends
the ASSIGN; a boot transfer or idle follows. ASSIGN_RETRY repeats an unconfirmed ASSIGN three times at 10 ms, then the pod is absent.
DISCOVER_RETURN of the head's own frame from C0 on C1 in a ring closes the ring with the hop count as N, and pods go to the side of the
smaller link count; one that fails a check is counted. -/
def Obligations.HeadEnumerates : Prop :=
  (∀ s : State, s.role = .head → isRunning s = true → s.course.enum = .idle → (usedPorts s).any (fun p => !s.course.ports[p].los) = true →
    s.course.discoverClk + 1000000 ≤ s.clk → ∃ t, exec .discoverTimer s = .next t ∧
      t = { s with course := t.course, events := t.events } ∧ t.course.enum = .collecting ∧ t.course.enumFull = false ∧
      t.course.found = [] ∧ t.course.nodes = s.course.nodes ∧
      ∀ p : Fin 2, (p ∈ usedPorts s → s.course.ports[p].los = false → sends s p = true → Waits t p 0x01 255 (discoverPayload (lowerVersion s) false p)) ∧
        (p ∉ usedPorts s ∨ s.course.ports[p].los = true → t.course.ports[p] = s.course.ports[p])) ∧
  (∀ s : State, s.role = .pod ∨ s.course.enum ≠ .idle ∨ s.clk < s.course.discoverClk + 1000000 → exec .discoverTimer s = .next s) ∧
  (∀ (s : State) (r : CourseRx), Takes .head s 0x02 r →
    let i := identOf r.payload
    let u := received s 0x02 r
    (s.course.enum = .collecting → s.course.enumFull = true → (∀ q ∈ s.course.found, q.payload.take 8 ≠ r.payload.take 8) →
      ∃ t, exec (.identity r) s = .next t ∧ t.course.found = s.course.found ++ [putFound { payload := r.payload } r.port r.payload]) ∧
    (s.course.enum ≠ .collecting → (∀ n ∈ s.course.nodes, n.uid ≠ i.uid ∨ n.addr ≠ i.addr) → exec (.identity r) s = .next { u with course := { u.course with
      lowest := if i.version < u.course.lowest then i.version else u.course.lowest } }) ∧
    (∀ n, i.addr ≠ 0 → s.course.nodes.find? (fun m => m.uid == i.uid && m.addr == i.addr) = some n → s.course.enum ≠ .collecting →
      (n.state = .assigned ∨ n.state = .booting → ∃ (t : State) (m : Node), exec (.identity r) s = .next t ∧
        t = { s with course := t.course, events := t.events, results := t.results, ks := t.ks, modes := t.modes } ∧
        m ∈ t.course.nodes ∧ m.addr = i.addr ∧ m.uid = i.uid ∧ m.assigns = 0 ∧ m.phase = i.phase ∧
        (runsPhase i = true → m.state = .joined ∧ t.events.pending.getLsbD 22 = true) ∧ (runsPhase i = false → m.state = .booting)) ∧
      (n.state = .lost → s.course.enum = .idle → usedPorts s ≠ [] → ∃ t, exec (.identity r) s = .next t ∧
        t = { s with course := t.course, events := t.events } ∧
        t.course.enum = .collecting ∧ t.course.enumFull = true))) ∧
  (∀ (s : State) (p : Plan), s.role = .head → isRunning s = true → s.course.enum = .collecting → plans s = [p] →
    s.course.newIdClk + 5000 ≤ s.clk ∨ s.course.collectClk + 100000 ≤ s.clk →
    ∃ t, exec .enumerationCollectEnd s = .next t ∧
      t = { s with course := t.course, events := t.events, results := t.results, freeCount := t.freeCount } ∧
      (s.course.fullWanted = false → t.course.enum ≠ .collecting) ∧ t.course.found = [] ∧
      (∀ q ∈ usedPorts s, sends s q = true → ∃ f ∈ t.course.ports[q].txq, f.type = 0x03 ∧ f.payload.take 8 = toLE 8 p.id.uid.toNat ∧
        f.payload.getD 8 0 = p.addr) ∧
      (p.addr = 0 → p.id.uid ∈ t.course.unmapped ∧ (∀ n ∈ t.course.nodes, n.uid ≠ p.id.uid) ∧
        (p.id.uid ∉ s.course.unmapped → t.events.pending.getLsbD 30 = true)) ∧
      (p.addr ≠ 0 → ∃ n ∈ t.course.nodes, n.addr = p.addr ∧ n.uid = p.id.uid ∧ n.sub = p.sub ∧
        (disposition s p = 1 → n.state = .parkedIncompatible) ∧ (disposition s p = 3 → n.state = .found) ∧
        (disposition s p = 0 → n.state = .assigned ∨ (n.state = .joined ∧ runsPhase p.id = true)))) ∧
  (∀ s : State, s.course.enum ≠ .collecting ∨ (s.clk < s.course.newIdClk + 5000 ∧ s.clk < s.course.collectClk + 100000) →
    exec .enumerationCollectEnd s = .next s) ∧
  (∀ (s : State) (a : BitVec 8) (n : Node), s.role = .head → isRunning s = true →
    s.course.nodes.find? (fun m => m.addr == a && m.assigns != 0) = some n →
    (s.clk < n.assignClk + 10000 → exec (.assignRetry a) s = .next s) ∧
    (n.assignClk + 10000 ≤ s.clk → n.assigns ≤ 3 → exec (.assignRetry a) s = .next (sendAssign (setNode s { n with assigns := n.assigns + 1 }) n.uid n.addr
      (if n.state = .parkedIncompatible then 1 else 0) n.sub)) ∧
    (n.assignClk + 10000 ≤ s.clk → 3 < n.assigns → exec (.assignRetry a) s = .next (setNode s { n with assigns := 0, state := .absent }))) ∧
  (∀ (s : State) (a : BitVec 8), (∀ m ∈ s.course.nodes, m.addr = a → m.assigns = 0) → exec (.assignRetry a) s = .next s) ∧
  (∀ (s : State) (r : CourseRx), s.role = .head → isRunning s = true → r.src = 0 →
    (cfgRing s = true → r.port = 1 → bit (u8 r.payload 0) 1 = false → le r.payload 4 8 = s.cornerstone.uniqueId.toNat → wholeFrame r = true → r.crc = frameCrc 0x01 r.hop r →
      fieldsOk s 0x01 r = true → sends s 1 = true → ∃ t, exec (.discoverReturn r) s = .next t ∧
        t = { s with course := { s.course with ringClosed := true, ringBack := true, n := r.hop, nodes := t.course.nodes } } ∧
        (s.course.ringClosed = true → t.course.nodes = s.course.nodes) ∧
        (s.course.ringClosed = false → t.course.nodes = s.course.nodes.map fun n =>
          let d : Fin 2 := if n.link1 ≠ 0 ∧ (n.link0 = 0 ∨ n.link1 < n.link0) then 1 else 0
          { n with side := d, delayWanted := n.delayWanted || n.side != d })) ∧
    (cfgRing s = false ∨ r.port = 0 ∨ bit (u8 r.payload 0) 1 = true ∨ le r.payload 4 8 ≠ s.cornerstone.uniqueId.toNat →
      wholeFrame r = true → r.crc = frameCrc 0x01 r.hop r → fieldsOk s 0x01 r = true → underTest s.course.ports[r.port] = false →
      exec (.discoverReturn r) s = .next s) ∧
    (s.course.ports[r.port].enabled = true → rxFate s 0x01 r ≠ .accepted → rxFate s 0x01 r ≠ .duplicate →
      exec (.discoverReturn r) s = .next { s with course := { s.course with
        ports := vmod s.course.ports r.port fun q => { q with counts := vmod q.counts (fateCount (rxFate s 0x01 r)) sat16 } } }))

/-- Boot transfers: the head's rounds and the pod's reception. BOOT_STATUS for the item under way notes the blocks the pod misses.
BOOT_STATUS_TIMEOUT, 10 ms after BOOT_END: when no pod that keeps the item misses a block the next item follows; otherwise the missing
blocks go out under the next round, and after round 3 the pods still incomplete have failed booting and the next item follows. At a pod that
waits for its images under an address: BOOT_START notes an item it keeps and drops what it had begun, BOOT_DATA adds a block of the right
index and length that it lacks and ignores others, BOOT_END of that item is answered on its port with the blocks missing; a complete item
whose CRC stands is kept, with its own sub-image the pod is ready for handover (its Footing limit counts from then, log 121), and one whose
CRC is wrong is missing whole. -/
def Obligations.BootTransfers : Prop :=
  (∀ (s : State) (r : CourseRx), Takes .head s 0x0B r →
    let u := received s 0x0B r
    (s.course.enum = .booting → b8 r.payload 0 = itemNo s → exec (.bootStatus r) s = .next { u with course := { u.course with
      nodes := u.course.nodes.map fun n => if n.addr = r.src ∧ bootable n = true then
        { n with missing := some (if bit (u8 r.payload 1) 0 = true then [] else listedBlocks r.payload) } else n } }) ∧
    (s.course.enum ≠ .booting ∨ b8 r.payload 0 ≠ itemNo s → exec (.bootStatus r) s = .next u)) ∧
  (∀ (s : State) (kind sub : Byte) (b : List Byte) (rest : List (Byte × Byte × List Byte)), s.role = .head → isRunning s = true →
    s.course.enum = .booting → s.course.bootItems = (kind, sub, b) :: rest → s.course.bootClk + 10000 ≤ s.clk →
    let count := blockCount b
    let lacking (n : Node) : Bool := bootable n && keepsItem s n kind sub && !(stillMissing count n).isEmpty
    let need := (List.range count).filter fun i => s.course.nodes.any fun n => bootable n && keepsItem s n kind sub && (stillMissing count n).contains i
    ∃ t, exec .bootStatusTimeout s = .next t ∧ t = { s with course := t.course, events := t.events } ∧
      (need = [] → t.course.bootItem = s.course.bootItem + 1 ∧ t.course.bootItems.length ≤ rest.length ∧
        ∀ n ∈ s.course.nodes, ∃ m ∈ t.course.nodes, m.addr = n.addr ∧ m.state = n.state) ∧
      (need ≠ [] → s.course.bootRound < 3 → t.course.bootItem = s.course.bootItem ∧ t.course.bootItems = s.course.bootItems ∧
        t.course.bootRound = s.course.bootRound + 1 ∧
        t.course.nodes = s.course.nodes.map (fun n => if lacking n = true then
          { n with bootRound := BitVec.ofNat 8 (s.course.bootRound + 1), missing := none } else n) ∧
        ∀ q ∈ usedPorts s, sends s q = true → (∀ i ∈ need, Waits t q 0x09 255 (blockOf b i)) ∧
          Waits t q 0x0A 255 [itemNo s, BitVec.ofNat 8 (s.course.bootRound + 1), 0, 0]) ∧
      (need ≠ [] → 3 ≤ s.course.bootRound → t.course.bootItem = s.course.bootItem + 1 ∧
        ∀ n ∈ s.course.nodes, ∃ m ∈ t.course.nodes, m.addr = n.addr ∧ m.state = (if lacking n = true then .bootFailed else n.state))) ∧
  (∀ s : State, s.clk < s.course.bootClk + 10000 → exec .bootStatusTimeout s = .next s) ∧
  (∀ (s : State) (r : CourseRx), Takes .pod s 0x08 r → podWaits s = true →
    let p := r.payload
    let u := received s 0x08 r
    exec (.bootStart r) s = .next { u with course := { u.course with pod := { u.course.pod with
      item := if podKeeps s.course.pod (b8 p 1) (b8 p 2) = true then some (b8 p 0, b8 p 1, u32 p 4, u16 p 8, f32At p 12) else none, blocks := [] } } }) ∧
  (∀ (s : State) (r : CourseRx) (no kind : Byte) (len count : Nat) (crc : BitVec 32), Takes .pod s 0x09 r → podWaits s = true →
    s.course.pod.item = some (no, kind, len, count, crc) →
    let i := r.seq.toNat + 256 * r.credit.toNat
    let u := received s 0x09 r
    (i < count → r.payload.length = (if i + 1 = count then len - 240 * i else 240) → (∀ b ∈ s.course.pod.blocks, b.1 ≠ i) →
      exec (.bootData r) s = .next { u with course := { u.course with pod := { u.course.pod with
        blocks := (i, r.payload) :: s.course.pod.blocks } } }) ∧
    (count ≤ i ∨ (∃ b ∈ s.course.pod.blocks, b.1 = i) → exec (.bootData r) s = .next u)) ∧
  (∀ (s : State) (r : CourseRx) (no kind : Byte) (len count : Nat) (crc : BitVec 32), Takes .pod s 0x0A r → podWaits s = true →
    s.course.pod.item = some (no, kind, len, count, crc) →
    let u := received s 0x0A r
    let miss := missingBlocks s.course.pod count
    let b := itemBytes s.course.pod count
    (no ≠ b8 r.payload 0 → exec (.bootEnd r) s = .next u) ∧
    (no = b8 r.payload 0 → miss ≠ [] → exec (.bootEnd r) s = .next (originate u [r.port] 0x0B 0 2 0 (bootStatusPayload no miss))) ∧
    (no = b8 r.payload 0 → miss = [] → itemStands b crc = true → ∃ t, exec (.bootEnd r) s = .next t ∧
      t = { u with course := t.course, phase := if kind = 3 then .loaded else s.phase
                   boot := if kind = 3 then { s.boot with startClk := s.clk } else s.boot } ∧ (kind, b) ∈ t.course.pod.items ∧
      t.course.pod.subCrc = (if kind = 3 then crc else s.course.pod.subCrc) ∧
      t.course.pod.mereCrc = (if kind = 2 then crc else s.course.pod.mereCrc) ∧
      (sends s r.port = true → Waits t r.port 0x0B 0 [no, 1, 0, 0])) ∧
    (no = b8 r.payload 0 → miss = [] → itemStands b crc = false → ∃ t, exec (.bootEnd r) s = .next t ∧ t = { u with course := t.course } ∧
      t.course.pod = { s.course.pod with blocks := [] } ∧
      (sends s r.port = true → Waits t r.port 0x0B 0 (bootStatusPayload no (List.range count)))))

/-- A pod answers DISCOVER and takes its ASSIGN. DISCOVER at a pod that takes it: its hop count plus one is the link count through the head port
the frame names, its port is the one that faces that head port, the chain version is the one told; with FULL, or without an address, an
IDENTITY waits on that port; a free other port sends the frame on with the hop byte one up, one that is sending stores it. ASSIGN naming
another unique ID changes nothing. Naming this one: disposition 0 gives address and sub-image (the VCNs of results, waiting records and
Render entries move with the address), 1 gives the address and parks, both answered by an IDENTITY; 2 takes the address away, and with it
that of its VCNs, and parks; 3 starts a command reset. -/
def Obligations.PodIsDiscoveredAndAssigned : Prop :=
  (∀ (s : State) (r : CourseRx), Takes .pod s 0x01 r →
    let p := r.payload
    ∃ t, exec (.discover r) s = .next t ∧ t = { s with course := t.course } ∧ t.course.version = b8 p 2 ∧
      t.course.pod = (if bit (u8 p 0) 1 = true then { s.course.pod with link1 := sat8 r.hop, faces1 := some r.port }
        else { s.course.pod with link0 := sat8 r.hop, faces0 := some r.port }) ∧
      (bit (u8 p 0) 0 = true ∨ s.course.pod.addr = 0 → Waits t r.port 0x02 0 (identityPayload t)) ∧
      (bit (u8 p 0) 0 = false → s.course.pod.addr ≠ 0 → t.course.ports[r.port].txq = s.course.ports[r.port].txq) ∧
      (sends s (otherPort r.port) = true → s.course.ports[otherPort r.port].busyUntil > s.clk → storedBytes s + 16 + p.length ≤ 32768 →
        ∃ f ∈ t.course.ports[otherPort r.port].txq, f.type = 0x01 ∧ f.hop = sat8 r.hop ∧ f.payload = p ∧ f.seq = r.seq ∧ f.repeated = true) ∧
      (sends s (otherPort r.port) = true → s.course.ports[otherPort r.port].txq = [] → s.course.ports[otherPort r.port].busyUntil ≤ s.clk →
        ∃ f : CourseFrame, t.course.ports[otherPort r.port].sent = some f ∧ f.type = 0x01 ∧ f.hop = sat8 r.hop ∧ f.payload = p ∧ f.src = r.src ∧
          f.seq = r.seq ∧ f.dst = r.dst ∧ f.stomped = false ∧ f.repeated = true)) ∧
  (∀ (s : State) (r : CourseRx), Takes .pod s 0x03 r →
    let p := r.payload
    let u := received s 0x03 r
    let v : State := { u with course := { u.course with version := b8 p 11 } }
    (le p 0 8 ≠ s.cornerstone.uniqueId.toNat → exec (.assign r) s = .next u) ∧
    (le p 0 8 = s.cornerstone.uniqueId.toNat →
      let w := renameVcns s (b8 p 8)
      (u8 p 9 = 0 → ∃ t, exec (.assign r) s = .next t ∧ t = { s with course := t.course, results := w.results, cal := w.cal } ∧
        t.course.version = b8 p 11 ∧
        t.course.pod = { w.course.pod with
          addr := b8 p 8, sub := b8 p 10,
          phase := if s.course.pod.phase = 3 then (if isRunning s = true then 1 else 0) else s.course.pod.phase } ∧
        Waits t r.port 0x02 0 (identityPayload t)) ∧
      (u8 p 9 = 1 → ∃ t, exec (.assign r) s = .next t ∧ t = { s with course := t.course, results := w.results, cal := w.cal } ∧
        t.course.version = b8 p 11 ∧ t.course.pod = { w.course.pod with addr := b8 p 8, phase := 3 } ∧ Waits t r.port 0x02 0 (identityPayload t)) ∧
      (u8 p 9 = 2 → exec (.assign r) s = .next { v with
        results := (renameVcns s 0).results, cal := (renameVcns s 0).cal,
        course := { v.course with pod := { (renameVcns s 0).course.pod with addr := 0, phase := 3 } } }) ∧
      (u8 p 9 = 3 → s.phase ≠ .porHold → ∃ t, exec (.assign r) s = .next t ∧ WarmResetFrom .command 5 v t))) ∧
  (∀ (s : State) (a : Byte) (v : Vcn) (e : VcnEntry), (v, e) ∈ s.results →
    (vcnNode v = (ownNode s).toNat → ∃ w e', (w, e') ∈ (renameVcns s a).results ∧ vcnNode w = a.toNat ∧ vcnIndex w = vcnIndex v ∧
      e' = { e with record := e'.record } ∧ ∀ q, e.record = some q → q.vcn = v → e'.record = some { q with vcn := w }) ∧
    (vcnNode v ≠ (ownNode s).toNat → ∃ e', (v, e') ∈ (renameVcns s a).results ∧ e' = { e with record := e'.record })) ∧
  (∀ (s : State) (a : Byte) (v : Vcn), vcnNode v = (ownNode s).toNat →
    let w : Vcn := BitVec.ofNat 16 (256 * a.toNat + vcnIndex v)
    (renameVcns s a).cal = { s.cal with old := (renameVcns s a).cal.old } ∧
    (∀ q ∈ s.course.pod.backlog, q.vcn = v → { q with vcn := w } ∈ (renameVcns s a).course.pod.backlog) ∧
    (∀ e ∈ s.course.pod.render, e.vcn = v → { e with vcn := w } ∈ (renameVcns s a).course.pod.render) ∧
    (∀ e, (v, e) ∈ s.cal.old → ∃ e', (w, e') ∈ (renameVcns s a).cal.old) ∧
    (renameVcns s a).course.pod = { s.course.pod with
      addr := a, render := (renameVcns s a).course.pod.render, pending := (renameVcns s a).course.pod.pending
      sentRecs := (renameVcns s a).course.pod.sentRecs, backlog := (renameVcns s a).course.pod.backlog })

/-- A sweep at the head: its start, the grants, and its end with missed reports, lost pods and breaks. SWEEP_TICK in RUN or WATCH at a whole
multiple of S raises the sweep number, sends a SWEEP_START on every used port, names a pod for the delay slot (one whose 250 sweeps are up,
else one that moved or joined) and brings a scheduled remote test nearer, with which an acknowledged ring test starts as two chains; a pod
that has joined takes part from now on. CREDIT_SEND, once in a sweep and 1 ms after its start, with node addresses in order: every pod that
takes part is granted at most its need, a side no more than its frames; with room each pod is granted its whole need; while a pod of a more
important class falls short, none of a less important one on its side is granted a frame; what a sweep awaits starts anew. SWEEP_END when
Plumb reaches the next multiple of the sweep's S (codes 0x17 and 0x18 not in the SAFE mask): a pod that reported is acknowledged when all
its announced frames came, and moves side in a ring that stays closed otherwise; one that did not counts a missed report, its VCNs read
MISSING unless a ring's move excuses it once (not one between two breaks), and at the third it is lost with EV20 and code 0x17, unless it
lies beyond a link under test. Loss of signal at the head with no pod showing one is a break at the head: EV21, code 0x18, the ring open. -/
def Obligations.HeadSweepsAndCredits : Prop :=
  (∀ s : State, s.role = .head → isActive s = true → usedPorts s ≠ [] → onTime s (headS s) = true →
    let d := delayNode (beginSweep s)
    ∃ t, exec .sweepTick s = .next t ∧ t = { s with course := t.course } ∧ t.course.sweepOf = some (headS s) ∧ t.course.tickClk = s.clk ∧
    t.course.credited = false ∧ t.course.sweep = s.course.sweep + 1 ∧ t.course.sweepRing = t.course.ringClosed ∧
    (s.course.remote = none → s.course.ringAgain = false → t.course.ringClosed = s.course.ringClosed) ∧
    (∀ p ∈ usedPorts s, sends s p = true → Waits t p 0x10 255 (sweepStartPayload t d)) ∧
    (∀ n ∈ s.course.nodes, ∃ m ∈ t.course.nodes, m.addr = n.addr ∧ m.uid = n.uid ∧ m.state = n.state ∧ m.joining = false ∧
      (n.addr = d → m.delayWanted = false ∧ m.delayAge = 0) ∧ (n.addr ≠ d → m.delayAge = n.delayAge + 1)) ∧
    (∀ x, s.course.remote = some x → x.running = false → x.toStart ≠ 0 →
      ∃ w, t.course.remote = some { x with toStart := x.toStart - 1, wasRing := w } ∧
        (x.toStart = 1 → x.ackFar = true → x.ackNear = true → s.course.ringClosed = true → w = true ∧ t.course.ringClosed = false))) ∧
  (∀ (s : State) (a : Byte), delayNode s = a → a ≠ 0 → ∃ n ∈ s.course.nodes, n.addr = a ∧ n.state = .joined ∧
    (∀ m ∈ s.course.nodes, m.state = .joined → 249 ≤ m.delayAge → 249 ≤ n.delayAge ∧ m.delayAge ≤ n.delayAge) ∧
    (∀ m ∈ s.course.nodes, m.state = .joined → m.delayWanted = true → n.delayWanted = true ∨ 249 ≤ n.delayAge)) ∧
  (∀ (s : State) (bad : List (Fin 256)),
    (s.role = .pod ∨ isActive s = false ∨ usedPorts s = [] ∨ onTime s (headS s) = false → exec .sweepTick s = .next s) ∧
    (s.role = .pod ∨ isActive s = false ∨ sweepOver s = false → exec (.sweepEnd bad) s = .next s) ∧
    (s.role = .pod ∨ isActive s = false ∨ creditDue s = false → exec .creditSend s = .next s) ∧
    (creditDue s = true ↔ s.course.sweepOf ≠ none ∧ s.course.credited = false ∧ s.course.tickClk + 1000 ≤ s.clk) ∧
    (sweepOver s = true ↔ ∃ us, s.course.sweepOf = some us ∧ onTime s us = true ∧ s.course.tickClk < s.clk)) ∧
  (∀ s : State, s.role = .head → isActive s = true → (∃ n ∈ s.course.nodes, swept n = true) →
    s.course.nodes.Pairwise (fun a b => a.addr < b.addr) → (∀ n ∈ s.course.nodes, nodePrio s n < 3) → creditDue s = true →
    ∃ (t : State) (after : Node → Node), exec .creditSend s = .next t ∧ t = { s with course := t.course } ∧ t.course.credited = true ∧
      t.course.nodes = s.course.nodes.map after ∧ (∀ n ∈ s.course.nodes, swept n = false → after n = n) ∧
      (∀ n ∈ s.course.nodes, swept n = true → (after n).grant ≤ needOf n ∧ (after n).shortfall = needOf n - (after n).grant ∧
        after n = { n with grant := (after n).grant, shortfall := (after n).shortfall, dec := (after n).dec, fitted := (after n).fitted,
                           reported := false, expected := 0, got := 0, resent := 0 }) ∧
      (∀ side : Fin 2, ((sideNodes s side).map fun n => (after n).grant).sum ≤ sideFrames s (sideNodes s side).length) ∧
      (∀ side : Fin 2, ((sideNodes s side).map needOf).sum ≤ sideFrames s (sideNodes s side).length →
        ∀ n ∈ sideNodes s side, (after n).grant = needOf n) ∧
      (∀ (side : Fin 2) (n m : Node), n ∈ sideNodes s side → m ∈ sideNodes s side → nodePrio s n < nodePrio s m →
        (after n).shortfall ≠ 0 → (after m).grant = 0) ∧
      (∀ p ∈ usedPorts s, sends s p = true → ∃ f ∈ t.course.ports[p].txq, f.type = 0x11 ∧ f.dst = 255 ∧ u8 f.payload 2 = p.val)) ∧
  (∀ s : State, s.role = .head → isActive s = true → creditDue s = true → (∀ n ∈ s.course.nodes, swept n = false) →
    exec .creditSend s = .next { s with course := { s.course with credited := true } }) ∧
  (∀ s : State, s.role = .head → isActive s = true → sweepOver s = true → s.course.nodes.Pairwise (fun a b => a.addr < b.addr) →
    (cfgSafeMask s).getLsbD 0x17 = false → (cfgSafeMask s).getLsbD 0x18 = false → ∃ t, exec (.sweepEnd []) s = .next t ∧ t.course.sweepOf = none ∧
      t = { s with freeCount := t.freeCount, course := t.course, results := t.results, spill := t.spill, events := t.events, log := t.log,
                   ks := t.ks, mere := t.mere, cal := t.cal, modes := t.modes } ∧
      (∀ n ∈ s.course.nodes, swept n = true → ∃ m ∈ t.course.nodes, m.addr = n.addr ∧
        let whole := n.reported && n.expected ≤ n.got
        m.ack = whole ∧ (s.course.ringClosed = false → m.side = n.side) ∧
        (s.course.sweepRing = true → t.course.ringClosed = true → m.side = if whole = true then n.side else otherPort n.side) ∧
        (n.reported = true → m.state = .joined ∧ m.missedReports = 0) ∧
        (n.reported = false → m.missedReports = (if beyondTest s n = true then 0 else min 3 (n.missedReports + 1)) ∧
          (n.missedReports < 2 ∨ beyondTest s n = true → m.state = .joined) ∧
          (2 ≤ n.missedReports → beyondTest s n = false → m.state = .lost ∧ faultActive t 0x17 = true ∧
            t.events.pending.getLsbD 20 = true) ∧
          (s.course.sweepRing = false ∨ n.excused = true ∨ between t n = true → ∀ v e, vcnNode v = n.addr.toNat → entryOf s v = some e → ∃ e' q, entryOf t v = some e' ∧ e'.record = some q ∧
            q.status.getLsbD 7 = true ∧ isValid q.status = false))) ∧
      (s.course.overloadNow = true → s.course.overload = false → t.events.pending.getLsbD 23 = true ∧ t.course.overload = true) ∧
      ((0 : Fin 2) ∈ usedPorts s → s.course.ports[(0 : Fin 2)].los = true → (∀ n ∈ s.course.nodes, n.los0 = false ∧ n.los1 = false) →
        (∃ n ∈ s.course.nodes, n.state = .joined) → s.course.remote = none → s.course.break0 ≠ 0 → s.course.break1 = 0xFF → s.ks.oldBreaks = [] →
        t.course.break0 = 0 ∧ t.course.ringClosed = false ∧ (s.course.ringClosed = true → t.course.n = 0) ∧ faultActive t 0x18 = true ∧ t.events.pending.getLsbD 21 = true))

/-- What the head does with a pod's report, records, alarm and answers. From a joined pod, without an evaluator difference: SWEEP_REPORT puts
its fields into the node's record and counts as the report of the sweep in progress when it is its own, ALARM its bitmap, and both evaluate
the REMOTE rules that name it. SWEEP_DATA of this sweep or the last one, with one record not yet held, stores it, marked DELAYED after its
sweep, and counts the frame of this sweep, a resend before the report by itself; one of an older sweep changes nothing more. DELAY_REQ is
answered on its port with the time and the request's payload. BACKLOG_DATA in the order of its request counts and logs its records, behind a
gap it changes nothing more. RENDER_ACK of the copy in use ends the wait for it, and its entries count for the pod's records from then on
(log 113). STATUS_RESP fills the remote read window it answers, or is the fault word of a poll, which makes code 0x19 active when not 0. NAK
is counted, and ends the remote read it answers. POD_FAULT_POLL sends the request for the fault word where its answer fits, else it waits.
These frames from a pod the head does not know change nothing more; from a lost one they bring a FULL enumeration. -/
def Obligations.HeadTakesPodFrames : Prop :=
  (∀ (c : Instr) (s : State) (type : Byte) (r : CourseRx), courseFrame c = some (.head, type, r) → type ≠ 0x02 → type ≠ 0x0B → Takes .head s type r →
    (s.course.nodes.find? (fun n => n.addr == r.src) = none → exec c s = .next (received s type r)) ∧
    (∀ n, s.course.nodes.find? (fun n => n.addr == r.src) = some n → n.state = .lost → s.course.enum = .idle → usedPorts s ≠ [] →
      ∃ t, exec c s = .next t ∧ t = { s with course := t.course, events := t.events } ∧ t.course.enum = .collecting ∧ t.course.enumFull = true)) ∧
  (∀ (s : State) (r : CourseRx) (n : Node), Takes .head s 0x12 r → JoinedPod s r.src n →
    let p := r.payload
    ∃ t, exec (.sweepReport r []) s = .next t ∧
      t = { s with freeCount := t.freeCount, course := t.course, spill := t.spill, events := t.events, log := t.log } ∧
      (∃ m ∈ t.course.nodes, m.addr = r.src ∧ m.reported = (n.reported || ofThisSweep s p) ∧ m.everReported = true ∧ m.mode = b8 p 4 ∧ m.los0 = bit (u8 p 5) 0 ∧
        m.los1 = bit (u8 p 5) 1 ∧ m.causes = BitVec.ofNat 16 (u16 p 6) ∧ (ofThisSweep s p = true → m.expected = u8 p 8) ∧ m.demand = u8 p 9 ∧ m.fullDemand = u8 p 10 ∧
        m.age = b8 p 11 ∧ m.backlog = BitVec.ofNat 16 (u16 p 12) ∧ m.throttle = b8 p 14 ∧ m.bitmap = p.drop 16 ∧ m.state = .joined) ∧
      (∀ k : Fin 256, isActive s = true → k.val < ruleCount s → ruleKind s k.val = 7 → vcnNode (ruleVcn s k.val) = n.addr.toNat →
        let m := bitmapBit (p.drop 16) (ruleArg s k.val)
        t.spill.rules[k].state = (judge { s.spill.rules[k] with last := flag32 m } (ruleLatch s k.val) (ruleSetCount s k.val)
          (ruleClearCount s k.val) m (!m)).1) ∧
      (clearsBreak s n (bit (u8 p 5) 0) (bit (u8 p 5) 1) = true → usedPorts s ≠ [] →
        if s.course.enum = .booting then t.course.fullWanted = true else t.course.enum = .collecting)) ∧
  (∀ (s : State) (r : CourseRx) (n : Node), Takes .head s 0x14 r → JoinedPod s r.src n →
    ∃ t, exec (.alarm r []) s = .next t ∧ t = { s with course := t.course, spill := t.spill, events := t.events, log := t.log } ∧
      (∃ m ∈ t.course.nodes, m.addr = r.src ∧ m = { n with bitmap := r.payload.drop 4 }) ∧
      (∀ k : Fin 256, isActive s = true → k.val < ruleCount s → ruleKind s k.val = 7 → vcnNode (ruleVcn s k.val) = n.addr.toNat →
        let m := bitmapBit (r.payload.drop 4) (ruleArg s k.val)
        t.spill.rules[k].state = (judge { s.spill.rules[k] with last := flag32 m } (ruleLatch s k.val) (ruleSetCount s k.val)
          (ruleClearCount s k.val) m (!m)).1)) ∧
  (∀ (s : State) (r : CourseRx) (n : Node) (x : Record) (e : VcnEntry), Takes .head s 0x13 r → JoinedPod s r.src n → recordsOf r.payload = [x] → sweepOpen s r.payload = true →
    vcnNode x.vcn = n.addr.toNat → entryOf s x.vcn = some e →
    ∃ t, exec (.sweepData r []) s = .next t ∧
      t = { s with course := t.course, results := t.results, spill := t.spill, mere := t.mere, cal := t.cal, events := t.events, log := t.log } ∧
      (∃ m ∈ t.course.nodes, m.addr = r.src ∧ 
        let before := bit (u8 r.payload 5) 0 && !n.reported
        m.got = (if ofThisSweep s r.payload = true ∧ before = false then n.got + 1 else n.got) ∧
        m.resent = (if ofThisSweep s r.payload = true ∧ before = true then n.resent + 1 else n.resent)) ∧
      (heldAlready s x = false → heldLater e x = false → ∃ e' q, entryOf t x.vcn = some e' ∧ e'.record = some q ∧ q.seq = x.seq ∧
        q.time = x.time ∧ q.value = x.value ∧ q.raw = x.raw ∧ q.age = x.age ∧
        q.status.getLsbD 5 = (x.status.getLsbD 5 || !ofThisSweep s r.payload)) ∧
      (heldAlready s x = true → t.results = s.results ∧ t.spill = s.spill)) ∧
  (∀ (s : State) (r : CourseRx) (n : Node), Takes .head s 0x13 r → JoinedPod s r.src n → sweepOpen s r.payload = false →
    exec (.sweepData r []) s = .next (received s 0x13 r)) ∧
  (∀ (s : State) (p : List Byte), (ofThisSweep s p = true ↔ f32At p 0 = s.course.sweep ∧ s.course.sweepOf ≠ none) ∧
    (sweepOpen s p = true ↔ (s.course.sweep - f32At p 0).toNat ≤ 1)) ∧
  (∀ (s : State) (r : CourseRx) (n : Node), Takes .head s 0x15 r → JoinedPod s r.src n →
    let u := received s 0x15 r
    let now := toLE 6 s.time.count.toNat
    exec (.delayReq r) s = .next (originate { u with course := { u.course with
      nodes := u.course.nodes.map fun m => if m.addr = r.src then { m with delayWanted := false } else m } } [r.port] 0x16 n.addr 1 0 (now ++ now ++ r.payload))) ∧
  (∀ (s : State) (r : CourseRx) (n : Node), Takes .head s 0x21 r → JoinedPod s r.src n →
    let k := (recordsOf r.payload).length
    (inOrder n r.credit = true ↔ n.backlogSweep ≠ none ∧ n.backlogNext = r.credit.toNat + 1) ∧
    (inOrder n r.credit = false → exec (.backlogData r) s = .next (received s 0x21 r)) ∧
    (inOrder n r.credit = true → ∃ t, exec (.backlogData r) s = .next t ∧ t = { s with course := t.course, log := t.log, events := t.events } ∧
      (∃ m ∈ t.course.nodes, m.addr = r.src ∧ m.backlogGot = n.backlogGot - n.backlogTold + k ∧ m.backlogTold = 0 ∧ m.backlogNext = r.credit.toNat) ∧
      (k = 1 → s.log.budget < cfgLogCap s → s.log.general.length < 15359 → s.log.stopped = false →
        ∃ e, t.log.general = s.log.general ++ [e] ∧ e.kind = 0x05))) ∧
  (∀ (s : State) (r : CourseRx) (n : Node), Takes .head s 0x23 r → JoinedPod s r.src n →
    let u := received s 0x23 r
    (f32At r.payload 0 = (s.cal.render.map (·.sequence)).getD 0 → exec (.renderAck r) s = .next { u with course := { u.course with
      nodes := u.course.nodes.map fun m => if m.addr = r.src then { m with
        renderPending := false
        trims := ((time56 (plumbNow s), (renderEntries s).filter fun e => vcnNode e.vcn == n.addr.toNat) :: m.trims).take 64 } else m } }) ∧
    (f32At r.payload 0 ≠ (s.cal.render.map (·.sequence)).getD 0 → exec (.renderAck r) s = .next u)) ∧
  (∀ (s : State) (r : CourseRx) (n : Node), Takes .head s 0x25 r → JoinedPod s r.src n →
    let u := received s 0x25 r
    let c := s.course
    let p := r.payload
    let ours := c.rrPending && c.rrNode == r.src && c.rrAddr.toNat == u16 p 0 && c.rrLen.toNat == u16 p 2
    (ours = true → exec (.statusResp r) s = .next { u with course := { u.course with
      service := c.service.filter (fun op => match op with | .statusRead a _ _ => a != r.src)
      rrPending := false, rrDone := true, rrStatus := stOk, rrData := p.drop 4 } }) ∧
    (ours = false → u16 p 0 = 0x3004 → u16 p 2 = 4 → (cfgSafeMask s).getLsbD 0x19 = false → ∃ t, exec (.statusResp r) s = .next t ∧
      t = { s with course := t.course, ks := t.ks, events := t.events, log := t.log, modes := t.modes } ∧
      (∃ m ∈ t.course.nodes, m.addr = r.src ∧ m.faultWord = f32At p 4) ∧ (f32At p 4 ≠ 0 → faultActive t 0x19 = true)) ∧
    (ours = false → u16 p 0 ≠ 0x3004 → exec (.statusResp r) s = .next u)) ∧
  (∀ (s : State) (r : CourseRx) (n : Node), Takes .head s 0x26 r → JoinedPod s r.src n → s.course.remote = none →
    ∃ t, exec (.nak r) s = .next t ∧ t = { s with course := t.course } ∧
      (∃ m ∈ t.course.nodes, m.addr = r.src ∧ m = { n with counts := vmod n.counts 5 fun c => sat16Add c 1 }) ∧
      (u8 r.payload 0 = 0x24 → s.course.rrPending = true → s.course.rrNode = r.src →
        t.course.rrPending = false ∧ t.course.rrDone = true ∧ t.course.rrStatus = b8 r.payload 1) ∧
      (s.course.rrPending = false ∨ u8 r.payload 0 ≠ 0x24 → t.course.rrDone = s.course.rrDone ∧ t.course.rrStatus = s.course.rrStatus)) ∧
  (∀ (s : State) (a : BitVec 8) (n : Node), s.role = .head → isActive s = true →
    s.course.nodes.find? (fun m => m.addr == a && m.state == .joined) = some n →
    let fits := exchangeNs n (wireNs 4 + wireNs 8) ≤ roomOf (presentRoom s) n.side
    ∃ t, exec (.podFaultPoll a) s = .next t ∧ t = { s with course := t.course } ∧
      (fits → t.course.ports = (originate s [n.side] 0x24 a 2 0 [0x04, 0x30, 4, 0]).course.ports ∧ ∃ m ∈ t.course.nodes, m.addr = a ∧ m.pollWanted = false) ∧
      (¬ fits → t.course.ports = s.course.ports ∧ ∃ m ∈ t.course.nodes, m.addr = a ∧ m.pollWanted = true))

/-- A pod's sweeps: start, credit, missed sweeps, delays, backlog, Render entries, register reads. At a pod that takes part in sweeps:
SWEEP_START of a new sweep (without chain time) takes the head's words, ends autonomy, and the pod named measures its delay; with chain
time, the fourth good mark in a row qualifies the chain, and TIMEVALID kept Plumb goes to CHAIN. CREDIT: its entry's acknowledgement drops
the records sent; its grant on its side sends a report and at most that many data frames, and without DEC no record is lost. SWEEP_MISSED
counts once S + 1 ms have passed since the start expected; the third in a row makes it autonomous, its records moving to the backlog.
DELAY_RESP keeps the measured delay, the last four of a side. BACKLOG_REQ drops what was acknowledged and sends on. RENDER_ENTRIES from
FIRST to LAST come into force and are confirmed; a part of no open transfer is answered with a NAK of BAD_ARG, entries of another node or an
unassigned index with UNKNOWN_VCN. STATUS_REQ is answered with the registers, or a NAK past the last page. Other pods count the frame only,
and one not yet in a mode keeps what a SWEEP_START announces for its handover (log 63). -/
def Obligations.PodSweepsAndServices : Prop :=
  (∀ (s : State) (r : CourseRx), Takes .pod s 0x10 r →
    let p := r.payload
    let fl := u8 p 12
    (podSweeps s = false → isRunning s = true → exec (.sweepStart r) s = .next (received s 0x10 r)) ∧
    (isRunning s = false → exec (.sweepStart r) s = .next (let u := received s 0x10 r
      { u with course := { u.course with pod := { s.course.pod with
          sweep := f32At p 0, sweepClk := s.clk + 1, headMode := b8 p 11, rate := b8 p 13, missed := 0 } } })) ∧
    (podSweeps s = true → cfgChainTime s = false → freshSweep s (f32At p 0) = true → ∃ t, exec (.sweepStart r) s = .next t ∧
      t = { s with course := t.course, log := t.log, events := t.events, mox := t.mox } ∧
      (∀ n : Fin 6, t.mox[n] = { s.mox[n] with frameGood := t.mox[n].frameGood }) ∧
      (let q := t.course.pod
       q.sweep = f32At p 0 ∧ q.sweepClk = s.clk + 1 ∧ q.headMode = b8 p 11 ∧ q.rate = b8 p 13 ∧ q.headTimeValid = bit fl 1 ∧
         q.ringClosed = bit fl 2 ∧ q.chainShed = bit fl 0 ∧ q.missed = 0 ∧ q.missNo = 0 ∧ q.autonomous = false ∧ q.phase = 1 ∧ q.pending.map (·.record) = s.course.pod.pending.map (·.record) ∧
         q.backlog = s.course.pod.backlog) ∧
      (b8 p 14 = s.course.pod.addr → facing s.course.pod (s.course.pod.side.getD 0) = some r.port →
        t.course.pod.delayAsked = true ∧ Waits t r.port 0x15 0 (toLE 4 (u32 p 0)))) ∧
    (∀ (d : Fin 2) (delay : Int), podSweeps s = true → cfgChainTime s = true → freshSweep s (f32At p 0) = false →
      s.course.pod.side = some d → facing s.course.pod d = some r.port → s.course.pod.marked = false → s.course.pod.headTimeValid = true →
      sideDelay s.course.pod d = some delay → s.time.chainPredicted = true → s.time.chainQualified = false → s.time.chainGood = 3 →
      s.time.valid = true → s.time.state ≠ .pps → s.time.state ≠ .chain → (∀ m, s.host.effect ≠ .timeSet m) →
      let mark := (time56 (plumbAt p 4) : Int) * 1000 + delay
      let err := mark - plumbNs s
      (mark - chainNow s).natAbs ≤ 2000 → err.natAbs ≤ 10000000 → ∃ t, exec (.sweepStart r) s = .next t ∧
        t = { s with course := t.course, time := t.time, events := t.events } ∧ t.time.state = .chain ∧ t.time.chainQualified = true ∧
        t.time.phaseErr = err ∧ t.time.slew = (if err.natAbs ≤ 1000 then none else some (nsUnits * err)) ∧ t.course.pod.marked = true)) ∧
  (∀ (s : State) (r : CourseRx) (e : Nat), Takes .pod s 0x11 r → podSweeps s = true → s.course.pod.sweepClk ≠ 0 →
    creditOf r.payload s.course.pod.addr = some e →
    let u := received s 0x11 r
    let kept := if s.course.pod.ackSweep = some s.course.pod.sweep ∨ bit e 8 = false then s.course.pod.sentRecs else []
    (bit e 9 = false → exec (.credit r) s = .next { u with course := { u.course with pod := { s.course.pod with
      ackSweep := some s.course.pod.sweep, sentRecs := kept } } }) ∧
    (bit e 9 = true → ∃ t, exec (.credit r) s = .next t ∧ t = { s with course := t.course } ∧
      t.course.pod.side = some (if u8 r.payload 2 = 0 then 0 else 1) ∧ t.course.pod.dec = bit e 7 ∧ t.course.pod.backlog = s.course.pod.backlog ∧
      t.course.pod.sentRecs.length ≤ 9 * (e % 128) ∧
      (bit e 7 = false → ((t.course.pod.pending ++ t.course.pod.sentRecs).map (·.record)).Perm ((s.course.pod.pending ++ kept).map (·.record))) ∧
      (let port := sidePort t.course.pod r.port
       sends s port = true → ∃ f ∈ t.course.ports[port].txq, f.type = 0x12 ∧ f.dst = 0 ∧ f.payload.take 4 = toLE 4 s.course.pod.sweep.toNat))) ∧
  (∀ s : State, s.role = .pod → podSweeps s = true → s.course.pod.sweepClk ≠ 0 →
    let q := s.course.pod
    q.sweepClk - 1 + (q.missNo + 1) * podS q + 1000 ≤ s.clk →
    (cfgChainTime s = false → ∃ t, exec .sweepMissed s = .next t ∧ t = { s with course := t.course } ∧ t.course.pod.missed = min 3 (q.missed + 1) ∧
      t.course.pod.missNo = q.missNo + 1 ∧
      (q.missed < 2 ∨ q.autonomous = true → t.course.pod.pending.map (·.record) = q.pending.map (·.record) ∧ t.course.pod.sentRecs = q.sentRecs ∧
        t.course.pod.backlog = q.backlog ∧ t.course.pod.autonomous = q.autonomous) ∧
      (2 ≤ q.missed → q.autonomous = false → t.course.pod.autonomous = true ∧ t.course.pod.phase = 2 ∧ t.course.pod.pending = [] ∧
        t.course.pod.sentRecs = [] ∧ (q.backlog.length + q.sentRecs.length + q.pending.length ≤ 4096 →
          t.course.pod.backlog = q.backlog ++ (q.sentRecs ++ q.pending).map (·.record)))) ∧
    (cfgChainTime s = true → s.time.chainQualified = true → s.time.chainMissed = 2 → s.time.state = .chain →
      (∀ m, s.host.effect ≠ .timeSet m) →
      ∃ t, exec .sweepMissed s = .next t ∧ t.time.state = .holdover ∧ t.time.chainQualified = false ∧ t.events.pending.getLsbD 17 = true)) ∧
  (∀ s : State, s.role = .head ∨ podSweeps s = false ∨ s.course.pod.sweepClk = 0 ∨
      s.clk < s.course.pod.sweepClk - 1 + (s.course.pod.missNo + 1) * podS s.course.pod + 1000 → exec .sweepMissed s = .next s) ∧
  (∀ (s : State) (r : CourseRx), Takes .pod s 0x16 r →
    let p := r.payload
    let u := received s 0x16 r
    (s.course.pod.t1 = none ∨ f32At p 12 ≠ s.course.pod.sweep → exec (.delayResp r) s = .next u) ∧
    (∀ t1, podSweeps s = true → s.course.pod.t1 = some t1 → f32At p 12 = s.course.pod.sweep →
      let d : Int := ((s.time.count - t1).toInt - (BitVec.ofNat 48 (le p 6 6) - BitVec.ofNat 48 (le p 0 6)).toInt) * 500
      exec (.delayResp r) s = .next { u with course := { u.course with pod := if s.course.pod.side.getD 0 = 0
        then { s.course.pod with t1 := none, delays0 := (d :: s.course.pod.delays0).take 4 }
        else { s.course.pod with t1 := none, delays1 := (d :: s.course.pod.delays1).take 4 } } })) ∧
  (∀ (s : State) (r : CourseRx), Takes .pod s 0x20 r → podSweeps s = true → ∃ t, exec (.backlogReq r) s = .next t ∧
    t = { s with course := t.course } ∧ t.course.pod = { s.course.pod with backlog := s.course.pod.backlog.drop (u16 r.payload 0) } ∧
    (t.course.pod.backlog ≠ [] → r.credit ≠ 0 → sends s (sidePort s.course.pod r.port) = true →
      ∃ f ∈ t.course.ports[sidePort s.course.pod r.port].txq, f.type = 0x21 ∧ u8 f.payload 4 = min 9 t.course.pod.backlog.length)) ∧
  (∀ (s : State) (r : CourseRx), Takes .pod s 0x22 r → podSweeps s = true →
    let p := r.payload
    let u := received s 0x22 r
    let build := (if bit (u8 p 5) 0 = true then [] else s.course.pod.renderBuild) ++ entriesOf p
    let port := sidePort s.course.pod r.port
    (∀ c, renderRefusal s p = some c → exec (.renderEntries r) s = .next (originate { u with course := { u.course with
      pod := { s.course.pod with renderOpen := false } } } [port] 0x26 0 2 0 [0x22, c, 0, 0])) ∧
    (bit (u8 p 5) 0 = false → s.course.pod.renderOpen = false ∨ s.course.pod.renderSeq ≠ f32At p 0 → renderRefusal s p = some stBadArg) ∧
    (bit (u8 p 5) 0 = true ∨ (s.course.pod.renderOpen = true ∧ s.course.pod.renderSeq = f32At p 0) →
      (renderRefusal s p = none ↔ ∀ e ∈ entriesOf p, vcnNode e.vcn = s.course.pod.addr.toNat ∧ assignedIndex (vcnIndex e.vcn) = true) ∧
      (renderRefusal s p ≠ none → renderRefusal s p = some stUnknownVcn)) ∧
    (renderRefusal s p = none →
      (bit (u8 p 5) 1 = false → exec (.renderEntries r) s = .next { u with course := { u.course with pod := { s.course.pod with
        renderSeq := f32At p 0, renderBuild := build, renderOpen := true } } }) ∧
      (bit (u8 p 5) 1 = true → ∃ t, exec (.renderEntries r) s = .next t ∧ t = { s with course := t.course, cal := t.cal } ∧
        t.course.pod = { s.course.pod with renderSeq := f32At p 0, renderBuild := build, renderOpen := false, render := build } ∧
        t.cal = { s.cal with old := t.cal.old } ∧
        (sends s port = true → Waits t port 0x23 0 (toLE 4 (f32At p 0).toNat))))) ∧
  (∀ (s : State) (r : CourseRx), Takes .pod s 0x24 r → podSweeps s = true →
    let p := r.payload
    let u := received s 0x24 r
    let port := sidePort s.course.pod r.port
    exec (.statusReq r) s = .next (if 0x10000 < u16 p 0 + u16 p 2 then originate u [port] 0x26 0 2 0 [0x24, stBadArg, 0, 0]
      else originate u [port] 0x25 0 2 0 (toLE 2 (u16 p 0) ++ toLE 2 (u16 p 2) ++ regBytes u (u16 p 0) (u16 p 2)))) ∧
  (∀ (s : State) (r : CourseRx), podSweeps s = false → (Takes .pod s 0x11 r → exec (.credit r) s = .next (received s 0x11 r)) ∧
    (Takes .pod s 0x20 r → exec (.backlogReq r) s = .next (received s 0x20 r)) ∧ (Takes .pod s 0x22 r → exec (.renderEntries r) s = .next (received s 0x22 r)) ∧
    (Takes .pod s 0x24 r → exec (.statusReq r) s = .next (received s 0x24 r)))

/-- The order of a frame's checks, reserved codes, READ, REPLAY and RESULTS. The checks of R658 in order, shown on EVENTS: a wrong header CRC,
or none where CRCs are required, CRC_ERROR; a reserved flag, an address or a wrong length, BAD_ARG; no mode, BUSY; a wrong payload CRC,
CRC_ERROR; an incomplete frame, and one while the port does not answer, have no effect. A reserved opcode, command code, mode, heater action
or calibration kind is BAD_ARG. In production test a code from 0x30 on is LOCKED without TEST (log 93). Every complete frame first ends the
overdue sessions. READ that passes answers OK with the bytes of one copy, with CRC when asked; only the port changes. On HSDO a response
stands after its fill bytes and the marker, with 0xFF after it. REPLAY answers the response kept, with no effect, and BAD_ARG when none is
kept; a refused REPLAY keeps what was kept. RESULTS answers 24 bytes for each VCN, UNKNOWN_VCN when one is unknown: an entry with a record
reads as that record, FRESH or, once delivered, REPEAT, in SAFE also STALE unless it is housekeeping's; one without reads NOTYET with
sequence 0 and NaN; a parked pod's VCN without entry reads MISSING and NaN, FRESH or, once delivered, REPEAT. -/
def Obligations.HostReadsReplayResults : Prop :=
  (∀ (s : State) (f : HostFrame), hostAnswers s = true → frameComplete f f.payload = true → reservedOpcode f.opcode = false →
    let crc := f.flags.getLsbD 0
    let head := crc16 (headerBytes 0x06 f f.address.toNat)
    let s' := expireSessions s
    (crc = true → head ≠ f.headerCrc → exec (.events f) s = .next (answer s' f stCrcError)) ∧
    (crc = false → crcRequired s = true → exec (.events f) s = .next (answer s' f stCrcError)) ∧
    ((crc = true → head = f.headerCrc) → (crc = false → crcRequired s = false) →
      (f.flags &&& 0xFE ≠ 0 ∨ f.address ≠ 0 ∨ f.length ≠ 4 → exec (.events f) s = .next (answer s' f stBadArg)) ∧
      (f.flags &&& 0xFE = 0 → f.address = 0 → f.length = 4 → isRunning s = false → exec (.events f) s = .next (answer s' f stBusy)) ∧
      (f.flags &&& 0xFE = 0 → f.address = 0 → f.length = 4 → isRunning s = true → crc = true → crc16 (framePayload f f.payload) ≠ f.payloadCrc →
        exec (.events f) s = .next (answer s' f stCrcError)))) ∧
  (∀ (s : State) (f : HostFrame), hostAnswers s = true → reservedOpcode f.opcode = true →
    (f.flags.getLsbD 0 = true → crc16 (headerBytes f.opcode f f.address.toNat) = f.headerCrc) → (f.flags.getLsbD 0 = false → crcRequired s = false) →
    ∀ c ∈ [Instr.read f, .replay f, .events f, .results f, .log f, .registerWrite f, .reset f], exec c s = .next (answer (expireSessions s) f stBadArg)) ∧
  (∀ (s : State) (f : HostFrame) (code : Byte) (fix : List (Nat × Byte)), hostAnswers s = true → frameComplete f f.payload = true →
    let p := rowPayload f code fix
    let u := sessionActivity s
    frameCheck s 0x10 f f.address.toNat (f.address == 0 && 4 ≤ f.length.toNat && f.length.toNat ≤ 256) (some p) false false = stOk →
    (code = 8 → fix = [] → reservedCommand (p.getD 0 0) = true →
      exec (.timeSet f) s = .next (answer (noteCommand u (p.getD 0 0) stBadArg) f stBadArg)) ∧
    (code = 1 → fix = [(4, 0)] → u8 p 0 = 1 → 2 < u8 p 4 → exec (.modeRun f) s = .next (replied u f 1 stBadArg)) ∧
    (code = 5 → fix = [(5, 0)] → u8 p 0 = 5 → 3 < u8 p 5 → p.length ≠ 12 ∨ zeros p 1 3 = false ∨ hasCal u = true →
      exec (.heaterSetTarget f) s = .next (replied u f 5 stBadArg)) ∧
    (code = 7 → fix = [(6, calCode .zero)] → u8 p 0 = 7 → 6 < u8 p 6 → p.length = 12 → zeros p 1 3 = true → inSafe u = false →
      vcnStatus u (BitVec.ofNat 16 (u16 p 4)) = stOk → exec (.calZero f) s = .next (replied u f 7 stBadArg))) ∧
  (∀ (s : State) (f : HostFrame), hostAnswers s = true → frameComplete f f.payload = true → s.phase = .production → s.gate.sessions[2] = none →
    let p := rowPayload f 8 []
    let got := p.getD 0 8
    frameCheck s 0x10 f f.address.toNat (f.address == 0 && 4 ≤ f.length.toNat && f.length.toNat ≤ 256) (some p) false true = stOk →
    vendorCode got = true → exec (.timeSet f) s = .next (answer (noteCommand (sessionActivity s) got stLocked) f stLocked)) ∧
  (∀ (s : State) (f : HostFrame), (hostAnswers s = false ∨ (reservedOpcode f.opcode = false ∧ f.payload.length < f.length.toNat) → exec (.events f) s = .next s ∧
      exec (.results f) s = .next s ∧ exec (.log f) s = .next s ∧ exec (.registerWrite f) s = .next s) ∧
    (hostAnswers s = false → exec (.read f) s = .next s ∧ exec (.replay f) s = .next s)) ∧
  (∀ (s : State) (f : HostFrame), hostAnswers s = true →
    let c := frameCheck s 0x01 f f.address.toNat (readLenOk f) none (identityOnly f) false
    let u := expireSessions s
    let body := stOk :: regBytes u f.address.toNat f.length.toNat
    (c ≠ stOk → exec (.read f) s = .next (answer u f c)) ∧
    (c = stOk → ∃ t, exec (.read f) s = .next t ∧ t = { u with host := { u.host with
        response := t.host.response, stored := some t.host.response, effect := t.host.effect } } ∧
      t.host.response = (if f.flags.getLsbD 0 = true then body ++ toLE 2 (crc16 body).toNat else body))) ∧
  (∀ (s : State) (f : HostFrame), hostAnswers s = true →
    let c := frameCheck s 0x03 f f.address.toNat (f.address == 0 && f.length == 0) none false false
    let u := expireSessions s
    (c = stOk → ∀ r, s.host.stored = some r → exec (.replay f) s = .next { u with host := { s.host with response := r, effect := .none } }) ∧
    (c = stOk → s.host.stored = none → ∃ t, exec (.replay f) s = .next t ∧ t = { u with host := t.host } ∧ t.host.stored = none ∧ answered t stBadArg) ∧
    (c ≠ stOk → reservedOpcode f.opcode = false → ∃ t, exec (.replay f) s = .next t ∧ t = { u with host := t.host } ∧
      t.host.stored = s.host.stored ∧ answered t c)) ∧
  (∀ (s : State) (f : HostFrame), DataReady s 0x04 f (f.length.toNat % 2 == 0 && 2 ≤ f.length.toNat && f.length.toNat ≤ 64) →
    let vs := vcnsOf (framePayload f f.payload)
    let u := expireSessions s
    let st := if vs.any (fun v => (resultOf u v).isNone) = true then stUnknownVcn else stOk
    let body := st :: vs.flatMap fun v => resultBytes v (resultOf u v)
    ∃ t, exec (.results f) s = .next t ∧ t = { u with host := { u.host with
        response := t.host.response, stored := some t.host.response, effect := .delivered (vs.filterMap (deliveredOf u)) } } ∧
      t.host.response = (if f.flags.getLsbD 0 = true then body ++ toLE 2 (crc16 body).toNat else body)) ∧
  (∀ (s : State) (f : HostFrame) (st : Byte) (data : List Byte) (e : ReadEffect) (n : Fin 129) (i : Nat), f.flags.getLsbD 0 = false →
    let t := respond s f st data e
    (i < n.val → hsdoByte t n i = 0xFF) ∧ hsdoByte t n n.val = 0xA5 ∧ hsdoByte t n (n.val + 1) = st ∧
      (∀ k, k < data.length → hsdoByte t n (n.val + 2 + k) = data.getD k 0) ∧ (n.val + 1 + data.length < i → hsdoByte t n i = 0xFF)) ∧
  (∀ (s : State) (v : Vcn), (assignedIndex (vcnIndex v) = false → resultOf s v = none) ∧
    (parkedNode s v = false → nodePresent s (vcnNode v) = false → resultOf s v = none) ∧
    (assignedIndex (vcnIndex v) = true → parkedNode s v = true → entryOf s v = none → ∃ q, resultOf s v = some q ∧
      q.vcn = v ∧ isValid q.status = false ∧ q.status.getLsbD 7 = true ∧ q.value = qnan ∧ q.seq ≠ 0 ∧
      (q.status.getLsbD 2 = true ↔ s.host.delivered.lookup v = some (q.seq, q.age)) ∧ (q.status.getLsbD 1 = true ↔ q.status.getLsbD 2 = false)) ∧
    (∀ e, assignedIndex (vcnIndex v) = true → parkedNode s v = false → nodePresent s (vcnNode v) = true → entryOf s v = some e →
      (e.record = none → resultOf s v = some { vcn := v, status := 8, seq := 0, time := 0, value := qnan, raw := 0, age := 0 }) ∧
      (∀ r, e.record = some r → classHidden s v = false →
        let st := setFlag r.status (if e.delivered = some (r.seq, r.age) then 2 else 1)
        resultOf s v = some { r with status := if inSafe s = true ∧ housekept s v = false then setFlag st 4 else st }) ∧
      (∀ r, e.record = some r → classHidden s v = true → ∃ q, resultOf s v = some q ∧ isValid q.status = false ∧ q.status.getLsbD 3 = true)))

/-- LOG, EVENTS, the end of a frame and HIRQn. LOG: BAD_ARG for a region above 1, a reserved byte or a count outside 1 - 127; else the header
and at most that many entries of the region from the sequence asked for on, oldest first; nothing but the port changes. EVENTS: BAD_ARG for
a count outside 1 - 32 or a reserved byte; else the oldest entries, with EV31 when they empty the queue of an overflow and one more fits.
HOST_FRAME_END: the port's response and effect are gone; only after a complete frame do the events returned leave the queue, HIRQn held
until HIRQN_REASSERT at least 2 us later, the lost count fall by what was returned and the overflow clear at 0, the pairs returned read
delivered (a VCN without entry keeps its own beside the store), and the high-water marks read go to 0. HIRQn is asserted in a mode, when not
held, exactly while an unmasked event is queued or an unmasked overflow stands. The ball is driven low while asserted, else high under
PUSHPULL in a mode, else released. -/
def Obligations.LogEventsFrameEnd : Prop :=
  (∀ (s : State) (f : HostFrame), DataReady s 0x05 f (f.length == 8) →
    let p := framePayload f f.payload
    let u := expireSessions s
    (1 < u8 p 0 ∨ u8 p 1 ≠ 0 ∨ u16 p 2 = 0 ∨ 127 < u16 p 2 → exec (.log f) s = .next (answer u f stBadArg)) ∧
    (u8 p 0 ≤ 1 → u8 p 1 = 0 → 1 ≤ u16 p 2 → u16 p 2 ≤ 127 →
      let l := if u8 p 0 = 0 then u.log.general else u.log.alarm
      exec (.log f) s = .next (respond u f stOk (logData l (f32At p 4) (u16 p 2)) .none))) ∧
  (∀ (l : List LogEntry) (start : BitVec 32) (n : Nat), ∃ got : List LogEntry, got.Sublist l ∧ got.length ≤ n ∧
    (∀ e ∈ got, beforeSeq e.seq start = false) ∧ (logData l start n).drop 8 = got.flatMap logBytes ∧
    u16 (logData l start n) 4 = got.length % 65536 ∧
    (bit (u8 (logData l start n) 6) 0 = true ↔ ∃ e, l.head? = some e ∧ beforeSeq start e.seq = true)) ∧
  (∀ (s : State) (f : HostFrame), DataReady s 0x06 f (f.length == 4) →
    let p := framePayload f f.payload
    let m := u8 p 0
    let u := expireSessions s
    let e := u.events
    let n := min m e.queue.length
    let ovf := e.overflow && n == e.queue.length && n < m
    (m = 0 ∨ 32 < m ∨ zeros p 1 3 = false → exec (.events f) s = .next (answer u f stBadArg)) ∧
    (1 ≤ m → m ≤ 32 → zeros p 1 3 = true → exec (.events f) s = .next (respond u f stOk
      ([BitVec.ofNat 8 (if ovf = true then n + 1 else n), if ovf = true then 1 else 0] ++ toLE 2 (e.queue.length - n) ++
        ((e.queue.take n).flatMap (fun q => eventBytes q.ev.val q.boot q.arg (q.time, q.era)) ++
          if ovf = true then eventBytes 31 false e.lost e.overflowAt else []))
      (.events n (if ovf = true then some e.lost else none))))) ∧
  (∀ (s : State) (complete : Bool),
    let h := { s.host with response := [], effect := .none }
    (complete = false → (∀ m, s.host.effect ≠ .timeSet m) → exec (.hostFrameEnd complete) s = .next { s with host := h }) ∧
    (complete = true →
      (s.host.effect = .none → exec (.hostFrameEnd complete) s = .next { s with host := h }) ∧
      (∀ n, s.host.effect = .events n none → exec (.hostFrameEnd complete) s = .next { s with
        host := h, events := { s.events with queue := s.events.queue.drop n, irqHold := true, irqClk := s.clk } }) ∧
      (∀ n k, s.host.effect = .events n (some k) → exec (.hostFrameEnd complete) s = .next { s with host := h, events := { s.events with
        queue := s.events.queue.drop n, irqHold := true, irqClk := s.clk, lost := BitVec.ofNat 16 (s.events.lost.toNat - k.toNat),
        overflow := s.events.overflow && s.events.lost.toNat - k.toNat != 0 } }) ∧
      (∀ v q a e, s.host.effect = .delivered [(v, q, a)] → entryOf s v = some e → ∃ t, exec (.hostFrameEnd complete) s = .next t ∧
        t = { s with host := h, results := t.results } ∧ entryOf t v = some { e with delivered := some (q, a) } ∧
        ∀ w, w ≠ v → entryOf t w = entryOf s w) ∧
      (∀ v q a, s.host.effect = .delivered [(v, q, a)] → entryOf s v = none → exec (.hostFrameEnd complete) s = .next { s with
        host := { h with delivered := (v, q, a) :: s.host.delivered.filter fun y => y.1 != v } }) ∧
      (∀ a b, s.host.effect = .marks a b → ∃ t, exec (.hostFrameEnd complete) s = .next t ∧
        t = { s with host := h, mere := { s.mere with tarns := t.mere.tarns } } ∧
        ∀ k : Fin 8, t.mere.tarns[k] = { s.mere.tarns[k] with fifoMark := if k ∈ a then 0 else s.mere.tarns[k].fifoMark
                                                              spikeMark := if k ∈ b then 0 else s.mere.tarns[k].spikeMark }))) ∧
  (∀ s : State, s.events.irqClk + 2 ≤ s.clk → exec .hirqnReassert s = .next { s with events := { s.events with irqHold := false } }) ∧
  (∀ s : State, s.clk < s.events.irqClk + 2 → exec .hirqnReassert s = .next s) ∧
  (∀ s : State, hirqAsserted s = true ↔ isRunning s = true ∧ s.events.irqHold = false ∧
    ((∃ q ∈ s.events.queue, s.events.irqMask.getLsbD q.ev.val = true) ∨ (s.events.overflow = true ∧ s.events.irqMask.getLsbD 31 = true))) ∧
  (∀ s : State, (hirqAsserted s = true → hirqLevel s = some false) ∧
    (hirqAsserted s = false → hirqLevel s = if isRunning s = true ∧ cfgPushPull s = true then some true else none))

/-- WRITE: refused or applied whole; pending bits, masks, probe, injection, link test bytes, selects, time-set registers. A WRITE taken by the
port: a byte outside the writable fields, BAD_ARG; a field of scope DIAG without the session, LOCKED; both leave all as it was but the
session timers. Otherwise, field by field: 1s written to the pending bits clear them; a mask takes its value unless an interrupt bit lacks
its queue bit, BAD_ARG; the probe takes a neuron ID up to 0x7FF, its snapshot goes and a new one is wanted; the injection trigger of an
injectable code makes it active with its event and log entry and no SAFE; a link test control byte is taken, its reserved bits ignored, when
its pattern is in range and the port is not in a timed or remote test, counts starting afresh when its checker starts; injections of a
running generator add up to 255, and without one NOT_IN_MODE; the selects and the time-set registers take values in range. -/
def Obligations.RegisterWrites : Prop :=
  (∀ (s : State) (f : HostFrame), WriteReady s f f.address.toNat [] →
    let u := sessionActivity s
    let p := framePayload f f.payload
    let a := f.address.toNat
    ((∃ i, i < p.length ∧ writable (a + i) = false) → exec (.registerWrite f) s = .next (answer u f stBadArg)) ∧
    ((∀ i, i < p.length → writable (a + i) = true) → (∃ i, i < p.length ∧ diagByte (a + i) = true) → hasDiag u = false →
      exec (.registerWrite f) s = .next (answer u f stLocked)) ∧
    (a = 0x100 → p.length = 1 → exec (.registerWrite f) s = .next (if u8 p 0 ≤ 0x11
      then answer { u with host := { u.host with view := p.getD 0 0 } } f stOk else answer u f stBadArg)) ∧
    (a = 0x600 → p.length = 1 → exec (.registerWrite f) s = .next (if u8 p 0 ≤ 7
      then answer { u with host := { u.host with bank := p.getD 0 0 } } f stOk else answer u f stBadArg)) ∧
    (a = 0x10B0 → p.length = 1 → exec (.registerWrite f) s = .next (if u8 p 0 ≤ 250
      then answer { u with host := { u.host with select := p.getD 0 0 } } f stOk else answer u f stBadArg)) ∧
    (a = 0x440 → p.length = 7 → exec (.registerWrite f) s = .next (answer { u with time := { u.time with
      setCount := BitVec.ofNat 48 (le p 0 6), setEra := p.getD 6 0 } } f stOk))) ∧
  (∀ (s : State) (f : HostFrame),
    let u := sessionActivity s
    let p := framePayload f f.payload
    (WriteReady s f 0x200 [] → p.length ≤ 4 → exec (.eventPendingClear f) s = .next (answer { u with events := { u.events with
      pending := u.events.pending &&& ~~~(BitVec.ofNat 32 (le p 0 p.length)) } } f stOk)) ∧
    (WriteReady s f 0x204 [] → p.length = 4 →
      let q := BitVec.ofNat 32 (u32 p 0)
      exec (.queueMaskWrite f) s = .next (if u.events.irqMask &&& ~~~q &&& 0x7FFFFFFF = 0
        then answer { u with events := { u.events with queueMask := q } } f stOk else answer u f stBadArg)) ∧
    (WriteReady s f 0x208 [] → p.length = 4 →
      let q := BitVec.ofNat 32 (u32 p 0)
      exec (.irqMaskWrite f) s = .next (if q &&& ~~~u.events.queueMask &&& 0x7FFFFFFF = 0
        then answer { u with events := { u.events with irqMask := q } } f stOk else answer u f stBadArg)) ∧
    (WriteReady s f 0x2300 [] → p.length = 2 → exec (.mereProbe f) s = .next (if hasDiag u = false then answer u f stLocked
      else if 0x7FF < u16 p 0 then answer u f stBadArg
      else answer { u with mere := { u.mere with probe := BitVec.ofNat 16 (u16 p 0), snapshot := none, probeWanted := true } } f stOk)) ∧
    (WriteReady s f 0x3102 [] → p.length = 1 →
      let c := u.ks.injectCode.toNat
      (hasDiag u = false → exec (.keystoneInject f) s = .next (answer u f stLocked)) ∧
      (hasDiag u = true → u8 p 0 ≠ 1 ∨ injectable c = false → exec (.keystoneInject f) s = .next (answer u f stBadArg)) ∧
      (∀ k : Fin 28, hasDiag u = true → u8 p 0 = 1 → injectable c = true → c = k.val → faultActive u k = false →
        ∃ x, exec (.keystoneInject f) s = .next (answer x f stOk) ∧
          x = { u with freeCount := x.freeCount, ks := x.ks, events := x.events, log := x.log } ∧ faultActive x k = true ∧
          x.ks.injected = u.ks.injected ++ [k] ∧ x.events.pending.getLsbD (faultEvent k).val = true ∧ x.ks.index = u.ks.index + 1))) ∧
  (∀ (s : State) (n : Fin 2) (f : HostFrame),
    let u := sessionActivity s
    let p := framePayload f f.payload
    let port := u.course.ports[n]
    let c := p.getD 0 0
    (WriteReady s f (controlAddr n) [] → p.length = 1 →
      let c := c &&& 0x1F
      (hasDiag u = false → exec (.linkTestControl n f) s = .next (answer u f stLocked)) ∧
      (hasDiag u = true → 3 < c.toNat % 8 → exec (.linkTestControl n f) s = .next (answer u f stBadArg)) ∧
      (hasDiag u = true → c.toNat % 8 ≤ 3 → c.getLsbD 3 = true ∨ c.getLsbD 4 = true → port.timed = true ∨ remotePort u n = true →
        exec (.linkTestControl n f) s = .next (answer u f stBusy)) ∧
      (hasDiag u = true → c.toNat % 8 ≤ 3 → port.timed = false ∨ (c.getLsbD 3 = false ∧ c.getLsbD 4 = false) → remotePort u n = false → ∃ q : Port,
        exec (.linkTestControl n f) s = .next (answer { u with freeCount := u.freeCount + 1, course := { u.course with ports := vmod u.course.ports n fun _ => q } } f stOk) ∧
        q.control = c ∧ q.enabled = port.enabled ∧ q.txq = port.txq ∧ q.inject = port.inject ∧
        (c.getLsbD 4 = true → port.control.getLsbD 4 = false → q.errors = 0 ∧ q.bits = 0 ∧ q.locked = false ∧ q.threshold = false) ∧
        (c.getLsbD 4 = false → q.errors = port.errors ∧ q.bits = port.bits))) ∧
    (WriteReady s f (controlAddr n + 1) [] → p.length = 1 →
      (hasDiag u = false → exec (.linkTestInject n f) s = .next (answer u f stLocked)) ∧
      (hasDiag u = true → c = 0 → exec (.linkTestInject n f) s = .next (answer u f stBadArg)) ∧
      (hasDiag u = true → c ≠ 0 → port.control.getLsbD 3 = false → exec (.linkTestInject n f) s = .next (answer u f stNotInMode)) ∧
      (hasDiag u = true → c ≠ 0 → port.control.getLsbD 3 = true → exec (.linkTestInject n f) s = .next (answer { u with course := { u.course with
        ports := vmod u.course.ports n fun q => { q with inject := BitVec.ofNat 8 (min 255 (q.inject.toNat + c.toNat)) } } } f stOk))))

/-- ACKNOWLEDGE_ALARM_LOG and REMOTE_REGISTER_READ. ACKNOWLEDGE_ALARM_LOG taken by the port: a sequence after the newest entry's is BAD_ARG;
otherwise every alarm entry up to it, within half the range, is marked acknowledged, no other entry changes, and an alarm overflow ends once
fewer than 1024 are unacknowledged. REMOTE_REGISTER_READ: NOT_IN_MODE at a pod; BAD_ARG for node 0 or 255, reserved bytes or length;
INCOMPATIBLE for a parked pod, UNKNOWN_VCN for one that is not joined or not present; BUSY while a read is pending or 16 operations wait,
counted; REFUSED_CAPACITY after 16 sweeps without SERVICE time, counted and an overload case of the sweep; otherwise OK, the read is queued
and the window is its own. -/
def Obligations.AlarmLogAndRemoteReads : Prop :=
  (∀ (s : State) (f : HostFrame), CommandReady s f 0x0A [] 4 →
    let u := sessionActivity s
    let k := f32At (commandArgs f 0x0A []) 0
    (beforeSeq (u.log.alarmSeq - 1) k = true → exec (.acknowledgeAlarmLog f) s = .next (replied u f 0x0A stBadArg)) ∧
    (beforeSeq (u.log.alarmSeq - 1) k = false → ∃ l : List LogEntry,
      exec (.acknowledgeAlarmLog f) s = .next (replied { u with log := { u.log with
        alarm := l, alarmEpisode := u.log.alarmEpisode && decide (1024 ≤ (l.filter fun e => !e.flags.getLsbD 1).length) } } f 0x0A stOk) ∧
      l = u.log.alarm.map fun e => if (k - e.seq).toNat < 2 ^ 31 then { e with flags := e.flags ||| 2 } else e)) ∧
  (∀ (s : State) (f : HostFrame), CommandReady s f 0x0B [] 8 →
    let u := sessionActivity s
    let a := commandArgs f 0x0B []
    let bad := u8 a 0 = 0 ∨ u8 a 0 = 255 ∨ u8 a 1 ≠ 0 ∨ u16 a 4 = 0 ∨ 232 < u16 a 4 ∨ u16 a 6 ≠ 0
    let refuse (st : Byte) : Prop := exec (.remoteRegisterRead f) s = .next (replied u f 0x0B st)
    (u.role = .pod → refuse stNotInMode) ∧
    (u.role = .head → bad → refuse stBadArg) ∧
    (u.role = .head → ¬ bad →
      (nodeOf u (u8 a 0) = none → refuse stUnknownVcn) ∧
      (∀ n, nodeOf u (u8 a 0) = some n →
        (n.state = .parkedIncompatible → refuse stIncompatible) ∧
        (n.state ≠ .parkedIncompatible → n.state ≠ .joined → refuse stUnknownVcn) ∧
        (n.state = .joined → u.course.rrPending = true ∨ 16 ≤ u.course.service.length →
          ∃ x, exec (.remoteRegisterRead f) s = .next (replied x f 0x0B stBusy) ∧ x = { u with course := { u.course with nodes := x.course.nodes } } ∧
            ∃ m ∈ x.course.nodes, m.addr = n.addr ∧ m.counts[(4 : Fin 9)] = sat16Add n.counts[(4 : Fin 9)] 1) ∧
        (n.state = .joined → u.course.rrPending = false → u.course.service.length < 16 → 16 ≤ u.course.noService[n.side] →
          ∃ x, exec (.remoteRegisterRead f) s = .next (replied x f 0x0B stCapacity) ∧ x = { u with course := { u.course with nodes := x.course.nodes, overloadNow := true } } ∧
            ∃ m ∈ x.course.nodes, m.addr = n.addr ∧ m.counts[(4 : Fin 9)] = sat16Add n.counts[(4 : Fin 9)] 1) ∧
        (n.state = .joined → u.course.rrPending = false → u.course.service.length < 16 → u.course.noService[n.side] < 16 →
          exec (.remoteRegisterRead f) s = .next (replied { u with course := { u.course with
            service := u.course.service ++ [.statusRead n.addr (BitVec.ofNat 16 (u16 a 2)) (BitVec.ofNat 16 (u16 a 4))],
            rrNode := n.addr, rrDone := false, rrPending := true, rrStatus := 0, rrAddr := BitVec.ofNat 16 (u16 a 2),
            rrLen := BitVec.ofNat 16 (u16 a 4), rrData := [] } } f 0x0B stOk)))))

/-- The Gate: opening, challenge and response, password, failures and lockouts, relock, expiries. OPEN: BAD_ARG on a sealed device or for
another scope than CAL or DIAG, else the session is open. CHALLENGE: BAD_ARG, or a nonce stands for the scope (its value free). RESPONSE:
BAD_ARG without a nonce of the scope, LOCKED in a lockout; outside a lockout it uses up the nonce that stands, whatever it answers, and the
expected response opens the session with the counter at 0, another counts a failure and starts the lockout of 1 s doubling to an hour,
LOCKED. PASSWORD likewise for CAL, BAD_ARG where the configuration has none. A scope that opens has EV28. RELOCK, and SESSION_INACTIVITY
after 15 min, end open sessions with EV28: with CAL the pending zero, with DIAG the link tests. A nonce lasts 60 s. Before its time a timer
does nothing. Nothing else changes. -/
def Obligations.GateScopes : Prop :=
  (∀ (s : State) (f : HostFrame), CommandReady s f 0x20 [] 4 →
    let u := sessionActivity s
    let a := commandArgs f 0x20 []
    (zeros a 1 3 = false ∨ (u8 a 0 ≠ 1 ∧ u8 a 0 ≠ 2) ∨ u.otp.sealBit = true → exec (.openScope f) s = .next (replied u f 0x20 stBadArg)) ∧
    (zeros a 1 3 = true → u8 a 0 = 1 ∨ u8 a 0 = 2 → u.otp.sealBit = false → ∃ x, exec (.openScope f) s = .next (replied x f 0x20 stOk) ∧
      Opened u x (u8 a 0))) ∧
  (∀ (s : State) (f : HostFrame), CommandReady s f 0x21 [] 4 →
    let u := sessionActivity s
    let a := commandArgs f 0x21 []
    let c := u8 a 0
    (zeros a 1 3 = false ∨ c = 0 ∨ 3 < c ∨ (c ≠ 3 ∧ u.otp.sealBit = false) → exec (.challenge f) s = .next (replied u f 0x21 stBadArg)) ∧
    (zeros a 1 3 = true → 1 ≤ c → c ≤ 3 → c = 3 ∨ u.otp.sealBit = true → exec (.challenge f) s = .next (replied { u with
      freeCount := u.freeCount + 1, gate := { u.gate with nonce := some (Config.nonce u.freeCount, BitVec.ofNat 8 c), nonceClk := s.clk } } f 0x21 stOk))) ∧
  (∀ (s : State) (f : HostFrame), CommandReady s f 0x22 [] 20 →
    let u := sessionActivity s
    let a := commandArgs f 0x22 []
    let c := u8 a 0
    (liveNonce u = none → exec (.response f) s = .next (replied u f 0x22 stBadArg)) ∧
    (∀ n sc, liveNonce u = some (n, sc) → zeros a 1 3 = false ∨ c = 0 ∨ 3 < c ∨ sc.toNat ≠ c →
      (lockedOut u = true → exec (.response f) s = .next (replied u f 0x22 stBadArg)) ∧
      (lockedOut u = false → exec (.response f) s = .next (replied { u with gate := { u.gate with nonce := none } } f 0x22 stBadArg))) ∧
    (∀ n sc, liveNonce u = some (n, sc) → zeros a 1 3 = true → 1 ≤ c → c ≤ 3 →
      (sc.toNat = c → lockedOut u = true → exec (.response f) s = .next (replied u f 0x22 stLocked)) ∧
      (sc.toNat = c → lockedOut u = false → a.drop 4 = expectedResponse u n c → ∃ x, exec (.response f) s = .next (replied x f 0x22 stOk) ∧
        Opened { u with gate := { u.gate with nonce := none, failures := 0 } } x c) ∧
      (sc.toNat = c → lockedOut u = false → a.drop 4 ≠ expectedResponse u n c → ∃ x, exec (.response f) s = .next (replied x f 0x22 stLocked) ∧
        Failed { u with gate := { u.gate with nonce := none } } x c))) ∧
  (∀ (s : State) (f : HostFrame), CommandReady s f 0x23 [] 36 →
    let u := sessionActivity s
    let a := commandArgs f 0x23 []
    let n := u8 a 0
    let bad := zeros a 1 3 = false ∨ n < 8 ∨ 32 < n ∨ zeros a (4 + n) (32 - n) = false ∨ cfgPassword u = false
    let good := sha256 (cfgSalt u ++ (a.drop 4).take n) = cfgHash u
    (bad → exec (.password f) s = .next (replied u f 0x23 stBadArg)) ∧
    (¬ bad → lockedOut u = true → exec (.password f) s = .next (replied u f 0x23 stLocked)) ∧
    (¬ bad → lockedOut u = false → good → ∃ x, exec (.password f) s = .next (replied x f 0x23 stOk) ∧
      Opened { u with gate := { u.gate with failures := 0 } } x 1) ∧
    (¬ bad → lockedOut u = false → ¬ good → ∃ x, exec (.password f) s = .next (replied x f 0x23 stLocked) ∧ Failed u x 1)) ∧
  (∀ (s : State) (f : HostFrame), CommandReady s f 0x24 [] 4 →
    let u := sessionActivity s
    let a := commandArgs f 0x24 []
    (7 < u8 a 0 ∨ zeros a 1 3 = false → exec (.relock f) s = .next (replied u f 0x24 stBadArg)) ∧
    (u8 a 0 ≤ 7 → zeros a 1 3 = true → ∃ x, exec (.relock f) s = .next (replied x f 0x24 stOk) ∧ SessionsEnded u x (u8 a 0))) ∧
  (∀ (s : State) (i : Fin 3),
    (∀ c, s.gate.sessions[i] = some c → c + 900000000 ≤ s.clk → ∃ t, exec (.sessionInactivity i) s = .next t ∧ SessionsEnded s t (2 ^ i.val)) ∧
    ((∀ c, s.gate.sessions[i] = some c → s.clk < c + 900000000) → exec (.sessionInactivity i) s = .next s)) ∧
  (∀ s : State, exec .nonceExpiry s = .next (if s.gate.nonceClk + 60000000 ≤ s.clk then { s with gate := { s.gate with nonce := none } } else s)) ∧
  (∀ s : State, exec .lockoutExpiry s = .next (if lockedOut s = true then s else { s with gate := { s.gate with lockout := none } }))

/-- Sealing, timed local tests, the checker, the host port check and the flash check. SEAL: BAD_ARG; LOCKED when sealed, a seal pending (log
40), without CAL or CRC, for another unique ID or an all-0 or all-1 key; REFUSED_CAPACITY after a failed seal; else pending. SEAL_COMPLETE
writes key, tags bit and seal bit as far as they read back; all good, the device is sealed, else the seal has failed, with EV28.
TIMED_LOCAL_TEST: LOCKED, BAD_ARG, BUSY on a port in a test, else the port's control is set. TIMED_TEST_END at its time returns it to 0 with
EV29. STOP_ALL_TESTS clears controls and injections. The checker locks after 64 bits that match, loses its lock at 16 errors in 64 bits and
reaches its threshold, once, with EV29; it counts only while locked. HOST_PORT_CHECK writes its word. FLASH_CHECK: BAD_ARG, NOT_IN_MODE at a
pod or without a configuration, BUSY in a Render write or a check; its end writes the word with EV29 and starts a write that waited. -/
def Obligations.SealAndLinkChecks : Prop :=
  (∀ (s : State) (f : HostFrame), CommandReady s f 0x25 [] 44 →
    let u := sessionActivity s
    let a := commandArgs f 0x25 []
    let key := a.drop 12
    let bad := 1 < u8 a 0 ∨ zeros a 1 3 = false
    let unmet := u.otp.sealBit = true ∨ u.gate.sealing ≠ none ∨ hasCal u = false ∨ f.flags.getLsbD 0 = false ∨
      (a.drop 4).take 8 ≠ toLE 8 u.cornerstone.uniqueId.toNat ∨ (∀ b ∈ key, b = 0) ∨ (∀ b ∈ key, b = 0xFF)
    (bad → exec (.sealDevice f) s = .next (replied u f 0x25 stBadArg)) ∧
    (¬ bad → unmet → exec (.sealDevice f) s = .next (replied u f 0x25 stLocked)) ∧
    (¬ bad → ¬ unmet → exec (.sealDevice f) s = .next (if u.otp.sealFailed = true then replied u f 0x25 stCapacity
      else replied { u with gate := { u.gate with sealing := some (u8 a 0 == 1, key) } } f 0x25 stOk))) ∧
  (∀ (s : State) (tag : Bool) (key : List Byte) (k g b : Bool), s.gate.sealing = some (tag, key) → ∃ t, exec (.sealComplete k g b) s = .next t ∧
    t = { s with otp := t.otp, gate := t.gate, events := t.events } ∧ t.gate.sealing = none ∧ t.events.pending.getLsbD 28 = true ∧
    t.otp.userKey = (if k = true then some key else s.otp.userKey) ∧
    t.otp.tagsRequired = (if k = true ∧ g = true then tag else s.otp.tagsRequired) ∧
    (k = true → g = true → b = true → t.otp.sealBit = true ∧ t.otp.sealFailed = s.otp.sealFailed) ∧
    (k = false ∨ g = false ∨ b = false → t.otp.sealBit = s.otp.sealBit ∧ t.otp.sealFailed = true)) ∧
  (∀ (s : State) (k g b : Bool), s.gate.sealing = none → exec (.sealComplete k g b) s = .next s) ∧
  (∀ (s : State) (f : HostFrame), CommandReady s f 0x28 [] 8 →
    let u := sessionActivity s
    let a := commandArgs f 0x28 []
    let p := portNo (u8 a 0)
    let bad := 1 < u8 a 0 ∨ 3 < u8 a 1 ∨ u8 a 2 = 0 ∨ 3 < u8 a 2 ∨ u8 a 3 ≠ 0 ∨ u32 a 4 = 0 ∨ cfgTestMax u < u32 a 4 ∨ portUsed u p = false
    (hasDiag u = false → exec (.timedLocalTest f) s = .next (replied u f 0x28 stLocked)) ∧
    (hasDiag u = true → bad → exec (.timedLocalTest f) s = .next (replied u f 0x28 stBadArg)) ∧
    (hasDiag u = true → ¬ bad → inTest u p = true → exec (.timedLocalTest f) s = .next (replied u f 0x28 stBusy)) ∧
    (hasDiag u = true → ¬ bad → inTest u p = false → ∃ q : Port,
      exec (.timedLocalTest f) s = .next (replied { u with freeCount := u.freeCount + 1,
                                                           course := { u.course with ports := vmod u.course.ports p fun _ => q } } f 0x28 stOk) ∧
      q.timed = true ∧ q.timedEnd = s.clk + 1000 * u32 a 4 ∧ q.control = (patternOf u (u8 a 1) ||| BitVec.ofNat 8 (8 * u8 a 2)) ∧ q.enabled = u.course.ports[p].enabled ∧
      (2 ≤ u8 a 2 → q.errors = 0 ∧ q.bits = 0 ∧ q.locked = false))) ∧
  (∀ (s : State) (p : Fin 2) (e : BitVec 32),
    (s.course.ports[p].timed = true → s.course.ports[p].timedEnd ≤ s.clk → ∃ t, exec (.timedTestEnd p e) s = .next t ∧
      t = { s with freeCount := s.freeCount + 1, course := t.course, events := t.events } ∧
      t.course = { s.course with ports := vmod s.course.ports p fun q => { q with
        errors := if checking q = true then q.errors + e else q.errors, threshold := q.threshold || reachesThreshold s q e, control := 0, timed := false } } ∧
      t.events.pending.getLsbD 29 = true) ∧
    (s.course.ports[p].timed = false ∨ s.clk < s.course.ports[p].timedEnd → exec (.timedTestEnd p e) s = .next s) ∧
    (∀ rx, s.course.ports[p].control.getLsbD 4 = true →
      let m := prbsTaps (s.course.ports[p].control.toNat % 8)
      (lockRun m rx = true → exec (.checkerLock p rx) s = .next { s with course := { s.course with
        ports := vmod s.course.ports p fun q => { q with locked := true, check := registerOf m.1 rx } } }) ∧
      (lockRun m rx = false → exec (.checkerLock p rx) s = .next s)) ∧
    (∀ w, checking s.course.ports[p] = true → 16 ≤ onesIn w → ∃ t, exec (.checkerLockLoss p e w) s = .next t ∧
      t = { s with course := t.course, events := t.events } ∧
      t.course = { s.course with ports := vmod s.course.ports p fun q => { q with
        errors := q.errors + e, threshold := q.threshold || reachesThreshold s q e, locked := false } } ∧
      (reachesThreshold s s.course.ports[p] e = true → t.events.pending.getLsbD 29 = true) ∧
      (reachesThreshold s s.course.ports[p] e = false → t.events = s.events)) ∧
    (∀ w, s.course.ports[p].locked = false ∨ onesIn w < 16 → exec (.checkerLockLoss p e w) s = .next s) ∧
    (checking s.course.ports[p] = true → s.course.ports[p].threshold = false → cfgErrorThreshold s ≠ 0 →
      cfgErrorThreshold s ≤ s.course.ports[p].errors.toNat + e.toNat →
      ∃ t, exec (.errorThreshold p e) s = .next t ∧ t = { s with course := t.course, events := t.events } ∧
        t.course = { s.course with ports := vmod s.course.ports p fun q => { q with errors := q.errors + e, threshold := true } } ∧
        t.events.pending.getLsbD 29 = true) ∧
    (s.course.ports[p].control.getLsbD 4 = false → (∀ rx, exec (.checkerLock p rx) s = .next s) ∧ (∀ w, exec (.checkerLockLoss p e w) s = .next s) ∧
      exec (.errorThreshold p e) s = .next s) ∧
    (s.course.ports[p].threshold = true ∨ s.course.ports[p].locked = false ∨ cfgErrorThreshold s = 0 ∨
      s.course.ports[p].errors.toNat + e.toNat < cfgErrorThreshold s → exec (.errorThreshold p e) s = .next s)) ∧
  (∀ (s : State) (f : HostFrame), CommandReady s f 0x29 [] 4 →
    let u := sessionActivity s
    let a := commandArgs f 0x29 []
    (hasDiag u = false → exec (.stopAllTests f) s = .next (replied u f 0x29 stLocked)) ∧
    (hasDiag u = true → zeros a 0 4 = false → exec (.stopAllTests f) s = .next (replied u f 0x29 stBadArg)) ∧
    (hasDiag u = true → zeros a 0 4 = true → ∃ x, exec (.stopAllTests f) s = .next (replied x f 0x29 stOk) ∧
      x = { u with course := x.course, events := x.events } ∧
      (∀ p : Fin 2, x.course.ports[p].control = 0 ∧ x.course.ports[p].inject = 0 ∧ x.course.ports[p].timed = false ∧
        x.course.ports[p].errors = u.course.ports[p].errors) ∧
      (∀ r, u.role = .head → u.course.remote = some r → x.course.remote = none ∧ x.events.pending.getLsbD 29 = true))) ∧
  (∀ (s : State) (f : HostFrame) (n : Nat), 16 ≤ n → n ≤ 252 → CommandReady s f 0x2B [] n →
    let u := sessionActivity s
    let a := commandArgs f 0x2B []
    let seed := u32 a 4 % 32768
    (zeros a 0 4 = false ∨ seed = 0 → exec (.hostPortCheck f) s = .next (replied u f 0x2B stBadArg)) ∧
    (zeros a 0 4 = true → seed ≠ 0 → exec (.hostPortCheck f) s = .next (replied { u with link := { u.link with
      hostCheck := hostCheckWord u.link.hostCheck seed (a.drop 8) } } f 0x2B stOk))) ∧
  (∀ (s : State) (f : HostFrame), CommandReady s f 0x2C [] 4 →
    let u := sessionActivity s
    let a := commandArgs f 0x2C []
    (zeros a 0 4 = false → exec (.flashCheck f) s = .next (replied u f 0x2C stBadArg)) ∧
    (zeros a 0 4 = true → u.role = .pod ∨ u.config = none → exec (.flashCheck f) s = .next (replied u f 0x2C stNotInMode)) ∧
    (zeros a 0 4 = true → u.role = .head → u.config ≠ none → exec (.flashCheck f) s = .next (if u.cal.stage ≠ .idle ∨ u.link.flashRunning = true
      then replied u f 0x2C stBusy else replied { u with link := { u.link with flashRunning := true } } f 0x2C stOk))) ∧
  (∀ (s : State) (reads : Vector (List (Nat × Byte)) 4) (d : BitVec 16), (s.link.flashRunning = false → exec (.flashCheckComplete reads d) s = .next s) ∧
    (s.link.flashRunning = true → ∃ t, exec (.flashCheckComplete reads d) s = .next t ∧
      t = { s with link := t.link, events := t.events, cal := t.cal } ∧ t.link.flashRunning = false ∧ t.events.pending.getLsbD 29 = true ∧
      t.cal = (if s.cal.waiting = true then { s.cal with waiting := false, stage := .erasing, stageClk := s.clk } else s.cal) ∧
      t.link.flashCheck.toNat / 65536 = d.toNat ∧
      ∀ k : Fin 4, t.link.flashCheck.getLsbD (4 + k.val) = decide (k.val ≤ readModeNo s.boot.readMode) ∧
        t.link.flashCheck.getLsbD k.val = (decide (k.val ≤ readModeNo s.boot.readMode) && imageCrcOk (copyAsRead s reads[k]))))

/-- Remote link tests: the command, start, end, and their frames at head and pod. REMOTE_LINK_TEST: LOCKED without DIAG, NOT_IN_MODE at a pod or
in SAFE, UNKNOWN_VCN, INCOMPATIBLE, BUSY and BAD_ARG in the order of its rules, else the test is scheduled three sweeps ahead.
REMOTE_TEST_START at its time, not before: with both ends' LT_ACK the head's end, if it is one, runs generator and checker in place of a
timed local test, and in a chain the pods beyond the link are noted; without, the head aborts with EV29. REMOTE_TEST_END after the duration
returns the end to service; a pod that is not parked sends LT_DONE, the head has the ring close again from the next sweep and waits for
them, free for the next test. LT_START at a pod that is an end: NAK where remote tests are off (LOCKED), the pattern is bad or the port is
in a test (BUSY); else the test is kept and acknowledged. LT_ACK and LT_DONE note the end they come from; the last LT_DONE after the end
completes the test with EV29. LT_ABORT of the test frees the pod's port. -/
def Obligations.RemoteLinkTests : Prop :=
  (∀ (s : State) (f : HostFrame), CommandReady s f 0x2A [] 8 →
    let u := sessionActivity s
    let a := commandArgs f 0x2A []
    let side := portNo (u8 a 1)
    let answers (st : Byte) : Prop := exec (.remoteLinkTest f) s = .next (replied u f 0x2A st)
    (hasDiag u = false → answers stLocked) ∧
    (hasDiag u = true → u.role = .pod ∨ inSafe u = true → answers stNotInMode) ∧
    (hasDiag u = true → u.role = .head → inSafe u = false →
      ((∀ n ∈ u.course.nodes, n.addr.toNat ≠ u8 a 0) → answers stUnknownVcn) ∧
      (∀ n, u.course.nodes.find? (fun n => n.addr.toNat == u8 a 0) = some n →
        let l := linkOf n side
        let bad := 1 < u8 a 1 ∨ 3 < u8 a 2 ∨ u8 a 3 ≠ 0 ∨ l = 0 ∨ u32 a 4 = 0 ∨ cfgTestMax u < u32 a 4
        (n.state = .parkedIncompatible → answers stIncompatible) ∧
        (n.state ≠ .parkedIncompatible → n.state ≠ .joined → answers stUnknownVcn) ∧
        (n.state = .joined → l ≠ 0 → nearEnd u side l = none → answers stUnknownVcn) ∧
        (n.state = .joined → l = 0 ∨ nearEnd u side l ≠ none → u.course.remote ≠ none → answers stBusy) ∧
        (n.state = .joined → l = 0 ∨ nearEnd u side l ≠ none → u.course.remote = none → bad → answers stBadArg) ∧
        (∀ near, n.state = .joined → nearEnd u side l = some near → u.course.remote = none → ¬ bad →
          let x := remoteFor n.addr side (patternOf u (u8 a 2)) (f32At a 4) near
          exec (.remoteLinkTest f) s = .next (replied { u with course := { u.course with remote := some x } } f 0x2A stOk))))) ∧
  (∀ (s : State) (x : RemoteTest), s.course.remote = some x → x.running = false → (s.role = .head → x.toStart = 0) →
    (s.role = .pod → x.startAt ≤ time56 (plumbNow s)) →
    (s.role = .head → (x.ackFar = false ∨ x.ackNear = false) → ∃ t, exec .remoteTestStart s = .next t ∧
      t = { s with course := t.course, events := t.events } ∧ t.course.remote = none ∧ t.events.pending.getLsbD 29 = true ∧
      (∀ p ∈ usedPorts s, sends s p = true → x.port ≠ some p → Waits t p 0x2A 255 [x.node, 0, 0, 0])) ∧
    (s.role = .pod ∨ (x.ackFar = true ∧ x.ackNear = true) → ∃ t, exec .remoteTestStart s = .next t ∧
      t = { s with course := t.course, freeCount := t.freeCount } ∧
      t.course.remote = some { x with running := true, startClk := s.clk } ∧ t.course.testLink = cutOff s x ∧
      (∀ p : Fin 2, (x.port = some p → t.course.ports[p].control = x.pattern ||| 0x18 ∧ t.course.ports[p].timed = false) ∧ (x.port ≠ some p → t.course.ports[p] = s.course.ports[p])))) ∧
  (∀ s : State, s.course.remote = none → exec .remoteTestStart s = .next s ∧ ∀ e, exec (.remoteTestEnd e) s = .next s) ∧
  (∀ (s : State) (x : RemoteTest) (e : BitVec 32), s.course.remote = some x → x.running = true →
    (s.clk < x.startClk + 1000 * x.duration.toNat → exec (.remoteTestEnd e) s = .next s) ∧
    (x.startClk + 1000 * x.duration.toNat ≤ s.clk → ∃ t, exec (.remoteTestEnd e) s = .next t ∧
      t = { s with course := t.course, events := t.events, freeCount := t.freeCount } ∧
      (∀ p : Fin 2, x.port = some p → t.course.ports[p].control = 0 ∧
        t.course.ports[p].errors = if checking s.course.ports[p] = true then s.course.ports[p].errors + e else s.course.ports[p].errors) ∧
      t.course.remote = none ∧ t.course.ringClosed = s.course.ringClosed ∧
      (s.role = .pod → s.course.pod.phase ≠ 3 → ∀ p, x.port = some p → sends t (sidePort s.course.pod 0) = true →
        ∃ g ∈ t.course.ports[sidePort s.course.pod 0].txq, g.type = 0x2B ∧ g.dst = 0 ∧ b8 g.payload 0 = x.node ∧ f32At g.payload 4 = t.course.ports[p].errors) ∧
      (s.role = .pod → s.course.pod.phase = 3 → ∀ q : Fin 2, t.course.ports[q].txq = s.course.ports[q].txq) ∧
      (s.role = .head → t.course.ringAgain = (s.course.ringAgain || x.wasRing)) ∧
      (s.role = .head → x.doneFar = true → x.doneNear = true → t.course.testDone = none ∧ t.events.pending.getLsbD 29 = true) ∧
      (s.role = .head → (x.doneFar = false ∨ x.doneNear = false) → t.course.testDone = some { x with running := false, toStart := 0 } ∧
        ((∀ p, x.port = some p → reachesThreshold s s.course.ports[p] e = false) → t.events = s.events)))) ∧
  (∀ (s : State) (x : RemoteTest), s.course.remote = some x → x.running = true ∨ remoteStarts s x = false →
    exec .remoteTestStart s = .next s) ∧
  (∀ (s : State) (near : Bool) (r : CourseRx) (q : Fin 2), Takes .pod s 0x28 r → podSweeps s = true →
    let p := r.payload
    let u := received s 0x28 r
    podEnd s near (b8 p 0) (portNo (u8 p 1)) = some q →
    let nak (c : Byte) : Prop := exec (.ltStart near r) s = .next (originate u [sidePort s.course.pod r.port] 0x26 0 2 0 [0x28, c, 0, 0])
    (cfgNoRemote s = true → nak stLocked) ∧
    (cfgNoRemote s = false → u8 p 2 = 0 ∨ 3 < u8 p 2 → nak stBadArg) ∧
    (cfgNoRemote s = false → 1 ≤ u8 p 2 → u8 p 2 ≤ 3 → inTest s q = true → nak stBusy) ∧
    (cfgNoRemote s = false → 1 ≤ u8 p 2 → u8 p 2 ≤ 3 → inTest s q = false →
      let x : RemoteTest := { (remoteFor (b8 p 0) (portNo (u8 p 1)) (b8 p 2) (f32At p 12) 0) with port := some q, startAt := le p 4 6 + 2 ^ 48 * u8 p 10 }
      exec (.ltStart near r) s = .next (originate { u with course := { u.course with remote := some x } } [sidePort s.course.pod r.port] 0x29 0 2 0 [b8 p 0, 0, 0, 0]))) ∧
  (∀ (s : State) (near : Bool) (r : CourseRx), Takes .pod s 0x28 r → podSweeps s = false ∨ podEnd s near (b8 r.payload 0) (portNo (u8 r.payload 1)) = none →
    exec (.ltStart near r) s = .next (received s 0x28 r)) ∧
  (∀ (s : State) (r : CourseRx) (n : Node) (x : RemoteTest), JoinedPod s r.src n → b8 r.payload 0 = x.node →
    (Takes .head s 0x29 r → s.course.remote = some x → x.running = false →
      let u := received s 0x29 r
      exec (.ltAck r) s = .next { u with course := { u.course with remote := some { x with
        ackFar := x.ackFar || n.addr == x.node, ackNear := x.ackNear || n.addr == x.near } } }) ∧
    (Takes .head s 0x2B r →
      let u := received s 0x2B r
      let y : RemoteTest := { x with doneFar := x.doneFar || n.addr == x.node, doneNear := x.doneNear || n.addr == x.near }
      (s.course.testDone = some x → (y.doneFar && y.doneNear) = false →
        exec (.ltDone r) s = .next { u with course := { u.course with testDone := some y } }) ∧
      (s.course.testDone = some x → (y.doneFar && y.doneNear) = true → ∃ t, exec (.ltDone r) s = .next t ∧
        t = { u with course := { u.course with testDone := none }, events := t.events } ∧ t.events.pending.getLsbD 29 = true) ∧
      (s.course.testDone = none → s.course.remote = some x → x.running = true →
        exec (.ltDone r) s = .next { u with course := { u.course with remote := some y } }))) ∧
  (∀ (s : State) (r : CourseRx), Takes .pod s 0x2A r →
    let u := received s 0x2A r
    (∀ x p, s.course.remote = some x → x.node = b8 r.payload 0 → x.port = some p → exec (.ltAbort r) s = .next { u with course := { u.course with
      remote := none, ports := vmod u.course.ports p fun q => { q with control := 0, inject := 0 } } }) ∧
    (s.course.remote = none → exec (.ltAbort r) s = .next u))

/-- Keystone: votes, clocks, test patterns, start-up tests, clearing and the end of an injection. With the code concerned not in the SAFE mask.
REFERENCE_VOTE in a mode keeps the last ten measurements; ten in a row in which a reference is outvoted note it with code 0x09; REFIN in use
off by more than 0.2 % or out of range is lost with code 0x0B. CLOCK_CROSS_COUNT: with a crystal the clock that disagrees with both others,
0x04, 0x05 or 0x06; without, a moved ratio is 0x07, or 0x06 when KCLK lies more than 6 % off; counting within that ends the hold on FAULTn.
KCLK_LOSS holds FAULTn low with code 0x06. TEST_PATTERN makes the codes of failing units active. STARTUP_TESTS_COMPLETE: the tests are done;
a failure is code 0x1B with its number, a pass clears it. FAULT_CLEAR clears a code that can clear, not an injected one; INJECTION_EXPIRY
clears the oldest injected code. Only Keystone's state, events, log and what a code governs change. -/
def Obligations.KeystoneDetectors : Prop :=
  (∀ (s : State) (o : VoteObs), isRunning s = true → (cfgSafeMask s).getLsbD 9 = false → (cfgSafeMask s).getLsbD 0x0A = false →
    (cfgSafeMask s).getLsbD 0x0B = false →
    s.ks.voteClk + 10000 ≤ s.clk →
    let l := ((o.ab, o.ac, o.bc) :: s.ks.votes).take 10
    ∃ t, exec (.referenceVote o) s = .next t ∧ t = { s with freeCount := t.freeCount, ks := t.ks, events := t.events, log := t.log, modes := t.modes } ∧
      t.ks.votes = l ∧ t.ks.outA = (s.ks.outA || tenOf l votesA) ∧ t.ks.outB = (s.ks.outB || tenOf l votesB) ∧
      t.ks.outC = (s.ks.outC || tenOf l votesC) ∧
      (tenOf l votesA = true ∨ tenOf l votesB = true ∨ tenOf l votesC = true → faultActive t 9 = true) ∧
      (cfgRefin s = true → 2000 < o.refinPpm.natAbs ∨ o.refinMicrovolt < 2450000 ∨ 2550000 < o.refinMicrovolt →
        t.ks.refinLost = true ∧ faultActive t 0x0B = true) ∧
      (cfgRefin s = false → t.ks.refinLost = s.ks.refinLost)) ∧
  (∀ (s : State) (o : ClockObs), s.supply.coreRunning = true → (∀ k : Nat, 4 ≤ k → k ≤ 7 → (cfgSafeMask s).getLsbD k = false) →
    s.ks.countClk + 1000 ≤ s.clk →
    let far := 60000 < o.kOverSNominal.natAbs
    let ks := 20000 < o.kOverS.natAbs
    let kr := 20000 < o.kOverR.natAbs
    let sr := 20000 < o.sOverR.natAbs
    ∃ t, exec (.clockCrossCount o) s = .next t ∧ t = { s with freeCount := t.freeCount, ks := t.ks, events := t.events, log := t.log } ∧
      (¬ far → t.ks.kclkLost = false) ∧ (far → t.ks.kclkLost = s.ks.kclkLost ∧ faultActive t 6 = true) ∧
      (s.time.xtal = true → ((ks ∧ sr → faultActive t 4 = true) ∧ (kr ∧ sr → faultActive t 5 = true) ∧ (ks ∧ kr → faultActive t 6 = true))) ∧
      (s.time.xtal = false → ks → ¬ far → faultActive t 7 = true) ∧
      (¬ far → ¬ ks → ¬ sr → t.ks.active = s.ks.active)) ∧
  (∀ s : State, s.supply.coreRunning = true → (cfgSafeMask s).getLsbD 6 = false → ∃ t, exec .kclkLoss s = .next t ∧
    t = { s with freeCount := t.freeCount, ks := t.ks, events := t.events, log := t.log } ∧ t.ks.kclkLost = true ∧ faultnLow t = true ∧
    faultActive t 6 = true) ∧
  (∀ (s : State) (fails : BitVec 3), isRunning s = true → (∀ k : Nat, 1 ≤ k → k ≤ 3 → (cfgSafeMask s).getLsbD k = false) →
    s.ks.patternClk + 10000 ≤ s.clk →
    ∃ t, exec (.testPattern fails) s = .next t ∧ t = { s with freeCount := t.freeCount, ks := t.ks, events := t.events, log := t.log } ∧
      (fails.getLsbD 0 = true → faultActive t 1 = true) ∧ (fails.getLsbD 1 = true → faultActive t 2 = true) ∧
      (fails.getLsbD 2 = true → faultActive t 3 = true) ∧ t.ks.patternClk = gridClk s s.ks.patternClk 10000 ∧ (fails = 0 → t = { s with ks := { s.ks with patternClk := t.ks.patternClk } })) ∧
  (∀ (s : State) (o : VoteObs) (c : ClockObs) (fails : BitVec 3), (s.clk < s.ks.voteClk + 10000 → exec (.referenceVote o) s = .next s) ∧
    (s.clk < s.ks.countClk + 1000 → exec (.clockCrossCount c) s = .next s) ∧ (s.clk < s.ks.patternClk + 10000 → exec (.testPattern fails) s = .next s)) ∧
  (∀ (s : State) (failed : Option (Fin 7)), isRunning s = true → s.ks.started = false → (cfgSafeMask s).getLsbD 0x1B = false →
    ∃ t, exec (.startupTestsComplete failed) s = .next t ∧ t = { s with ks := t.ks, events := t.events, log := t.log, modes := t.modes } ∧
      t.ks.started = true ∧ (failed = none → faultActive t 0x1B = false) ∧
      (∀ n : Fin 7, failed = some n → faultActive t 0x1B = true ∧ (faultActive s 0x1B = false →
        t.ks.records[s.ks.index].code = 0x1B ∧ t.ks.records[s.ks.index].arg = BitVec.ofNat 16 (n.val + 1)))) ∧
  (∀ (s : State) (k : Fin 28), isRunning s = true → faultActive s k = true → k ∉ s.ks.injected → clearable s k = true →
    s.ks.seen[k] + clearUs k ≤ s.clk → s.modes.handoverClk + clearUs k ≤ s.clk →
    ∃ t, exec (.faultClear k) s = .next t ∧ t = { s with ks := t.ks, modes := t.modes, supply := t.supply, spill := t.spill } ∧
      faultActive t k = false ∧ (∀ j : Fin 28, j ≠ k → faultActive t j = faultActive s j) ∧ t.ks.count = s.ks.count ∧
      (∀ i : Fin 16, t.ks.records[i].active = true → t.ks.records[i].code ≠ BitVec.ofNat 16 k.val) ∧ (k ≠ 0x10 → t.spill = s.spill) ∧
      (k ≠ 0x16 → t.supply = s.supply)) ∧
  (∀ (s : State) (k : Fin 28), faultActive s k = false ∨ k ∈ s.ks.injected ∨ clearable s k = false ∨ s.clk < s.ks.seen[k] + clearUs k ∨
    s.clk < s.modes.handoverClk + clearUs k → exec (.faultClear k) s = .next s) ∧
  (∀ (s : State) (k : Fin 28) (l : List (Fin 28)), s.ks.injected = k :: l → isRunning s = true →
    s.ks.injectClk[k] + 1000000 ≤ s.clk → ∃ t, exec .injectionExpiry s = .next t ∧
    t = { s with ks := t.ks, modes := t.modes } ∧ t.ks.injected = l ∧ faultActive t k = false ∧ ∀ j : Fin 28, j ≠ k → faultActive t j = faultActive s j) ∧
  (∀ s : State, (∀ k l, s.ks.injected = k :: l → isRunning s = false ∨ s.clk < s.ks.injectClk[k] + 1000000) → exec .injectionExpiry s = .next s)

/-- The scrubber, log summaries and log samples. SCRUB_TICK in a mode, when a word is due, goes on to the next: a clean one changes only that;
when none is due it tells of another access (log 152). A corrected word counts, a double-bit error counts and makes code 0x08 active (not in
the SAFE mask), and what the word held is lost as its region says: a neuron's record, destination or synapse words that emit nothing from
then on, a result, a backlog record; a template or decay table word is written anew; the last word starts the pass anew, and a pass without
a double-bit error clears code 0x08. LOG_SUMMARY writes a summary entry, which the minute's budget does not count. LOG_SAMPLE of an entry in
use writes the latest record of its VCN as kind 0x03 once per frame, while the budget lasts, and a loss is counted after it. -/
def Obligations.CisternScrubAndLog : Prop :=
  (∀ s : State, isRunning s = true → scrubDue s = true → s.log.scrub + 1 < 196608 →
    exec (.scrubTick .clean) s = .next { s with log := { s.log with scrub := s.log.scrub + 1 } } ∧
    exec (.scrubTick .single) s = .next { s with log := { s.log with scrub := s.log.scrub + 1, corrected := sat16 s.log.corrected } }) ∧
  (∀ s : State, isRunning s = true → scrubDue s = true → 196608 ≤ s.log.scrub + 1 → ∃ t, exec (.scrubTick .clean) s = .next t ∧
    t = { s with log := { s.log with scrub := 0, scrubBad := false, scrubClk := s.log.scrubClk + 8000000 }, ks := t.ks, modes := t.modes } ∧
    (s.log.scrubBad = false → (8 : Fin 28) ∉ s.ks.injected → faultActive t 8 = false) ∧ (s.log.scrubBad = true → t.ks = s.ks)) ∧
  (∀ s : State, isRunning s = true → scrubDue s = false → exec (.scrubTick .clean) s = .next s ∧
    exec (.scrubTick .single) s = .next { s with log := { s.log with corrected := sat16 s.log.corrected } }) ∧
  (∀ (s : State) (p : CisternPlace), isRunning s = true → (cfgSafeMask s).getLsbD 8 = false →
    ∃ t, exec (.scrubTick (.double p)) s = .next t ∧
    t = { s with freeCount := t.freeCount, ks := t.ks, events := t.events, log := t.log, mere := t.mere, results := t.results, course := t.course,
                 modes := t.modes } ∧
    t.log.uncorrectable = sat8 s.log.uncorrectable ∧
    faultActive t 8 = true ∧ (scrubDue s = false → t.log.scrub = s.log.scrub ∧ t.log.scrubBad = true) ∧
    (scrubDue s = true → s.log.scrub + 1 < 196608 → t.log.scrub = s.log.scrub + 1 ∧ t.log.scrubBad = true) ∧
    (∀ k j, p = .template k j → t.mere = s.mere) ∧ (∀ k j i, p = .decayTable k j i → t.mere = s.mere) ∧
    (∀ k n, p = .neuron k n → getNeuron t k n.val = startNeuron s.time.count ∧ t.mere.tarns[k].longGaps = sat16 s.mere.tarns[k].longGaps) ∧
    (∀ k n e, p = .destEntry k n e → ∀ i ∈ wordPair e.val, (n.val, i) ∈ t.mere.tarns[k].badDest) ∧
    (∀ k w, p = .synapse k w → ∀ i ∈ wordPair w.val, i ∈ t.mere.tarns[k].badSyn) ∧
    (∀ v e, p = .result v → entryOf s v = some e → entryOf t v = some { e with record := none, delivered := none }) ∧
    (∀ i, p = .backlog i → i.val < s.course.pod.backlog.length → t.course.pod.backlog = s.course.pod.backlog.eraseIdx i.val ∧
      t.course.pod.lostBacklog = sat16 s.course.pod.lostBacklog)) ∧
  (∀ (s : State) (o : EccObs), isRunning s = false → exec (.scrubTick o) s = .next s) ∧
  (∀ s : State, isRunning s = true → onCount s 3600000000 = true → s.log.general.length < 15360 →
    exec .logSummary s = .next { s with log := { s.log with
      general := s.log.general ++ [{ (summaryEntry s) with seq := s.log.generalSeq }], generalSeq := s.log.generalSeq + 1 } }) ∧
  (∀ (s : State) (i : Fin 8) (e : VcnEntry) (r : Record), isRunning s = true → sampleEvery s i ≠ 0 →
    onCount s (1000000 * sampleEvery s i) = true → entryOf s (sampleVcn s i) = some e →
    e.record = some r →
    (e.sampled = some r.seq → exec (.logSample i) s = .next s) ∧
    (e.sampled ≠ some r.seq → ∃ t, exec (.logSample i) s = .next t ∧ t = { s with results := t.results, log := t.log, events := t.events } ∧
      entryOf t (sampleVcn s i) = some { e with sampled := some r.seq } ∧
      (s.log.budget < cfgLogCap s → s.log.general.length < 15359 → s.log.stopped = false → ∃ x, t.log.general = s.log.general ++ [x] ∧
        x.kind = 0x03 ∧ x.body = recordBytes r ∧ t.log.budget = s.log.budget + 1) ∧
      (cfgLogCap s ≤ s.log.budget → t.log = { s.log with rateLost := sat32 s.log.rateLost }))) ∧
  (∀ (s : State) (i : Fin 8), sampleEvery s i = 0 ∨ onCount s (1000000 * sampleEvery s i) = false ∨ entryOf s (sampleVcn s i) = none →
    exec (.logSample i) s = .next s) ∧
  (∀ s : State, onCount s 3600000000 = false → exec .logSummary s = .next s)

/-- FOOTING_START, FLASH_WIP_TIMEOUT, HANDOVER, SWEEP_TICK, CREDIT_SEND and SWEEP_END complete with their effect. With a good Cornerstone and,
in a head, a flash that is fitted and idle, FOOTING_START ends with a pod waiting for the head, a head's images chosen. FLASH_WIP_TIMEOUT,
500 ms after Footing first found the flash busy, ends Footing with SAFE cause 0x02. HANDOVER puts the device into a mode with FAULTn low,
with EV28 for a seal that a reset cut short and code 0x1A after a watchdog reset. At a head in RUN or WATCH, SWEEP_TICK at a multiple of S
begins the next sweep, CREDIT_SEND 1 ms into it sends its credits once, and SWEEP_END at its end closes it, whatever the evaluators differ
in and whatever the SAFE mask holds. The queue stays in each. -/
def Obligations.FootingHandoverAndSweepsComplete : Prop :=
  (∀ (s : State) (fitted : Option FlashChip) (d : BitVec 32), s.phase = .footing → s.cornerstone.ok = true →
    s.role = .pod ∨ ((fitted.getD s.flash).present = true ∧ bit (u8 (fitted.getD s.flash).status05 0) 0 = false) →
    ∃ t, exec (.footingStart fitted d) s = .next t ∧ t.phase = (match s.role with | .pod => .podWait | .head => .loaded) ∧
      t.boot.idValid = true ∧ t.boot.duration = d ∧ t.flash = fitted.getD s.flash ∧ t.pending = s.pending) ∧
  (∀ (s : State) (c : Nat), s.phase = .footing → s.cornerstone.ok = true → s.role = .head → s.boot.wipClk = some c → c + 500000 ≤ s.clk →
    ∃ t, exec .flashWipTimeout s = .next t ∧ t.phase = .loaded ∧ t.boot.safeCause = some 2 ∧ t.pending = s.pending) ∧
  (∀ (s : State) (o : HandoverObs), s.phase = .loaded → ∃ t, exec (.handover o) s = .next t ∧ t.phase = .running ∧ faultnLow t = true ∧
    t.pending = s.pending ∧ (s.gate.sealCut = true → t.events.pending.getLsbD 28 = true ∧ t.gate.sealCut = false) ∧
    (s.modes.resetCause = 4 → faultActive t 0x1A = true)) ∧
  (∀ s : State, s.role = .head → isActive s = true → usedPorts s ≠ [] → onTime s (headS s) = true →
    ∃ t, exec .sweepTick s = .next t ∧ t.course.sweep = s.course.sweep + 1 ∧ t.course.sweepOf = some (headS s) ∧ t.course.credited = false ∧
      t.pending = s.pending) ∧
  (∀ s : State, s.role = .head → isActive s = true → creditDue s = true →
    ∃ t, exec .creditSend s = .next t ∧ t.course.credited = true ∧ t.course.sweep = s.course.sweep ∧ t.pending = s.pending) ∧
  (∀ (s : State) (bad : List (Fin 256)), s.role = .head → isActive s = true → sweepOver s = true →
    ∃ t, exec (.sweepEnd bad) s = .next t ∧ t.course.sweepOf = none ∧ t.course.sweep = s.course.sweep ∧ t.pending = s.pending)
end

