-- ==== Sys2Proof/Laws/State.lean ====
section
/-! SUPPORT. What commands leave alone, said once for every function of the model: the queue, the stores, the clock, the pins, the role, the
phase, the supplies, the boot report and the configuration (`State.fixed`); the queue, the factory store, the flash's canonical form and
a set seal bit where even resets and writes are meant (`Keeps`). -/

set_option Elab.async false -- one theorem after another: the whole compiles within its memory

namespace Sys2Proof.Machine

/-- The parts of the state that few commands touch. -/
structure Fixed where
  pending : List Instr
  cornerstone : Cornerstone
  flash : FlashChip
  otp : Otp
  clk : Nat
  resetnLow : Bool
  role : Role
  phase : Phase
  testMode : Bool
  supply : Supply
  boot : Boot
  config : Option Image

/-- Those parts of a state. -/
def State.fixed (s : State) : Fixed := ⟨s.pending, s.cornerstone, s.flash, s.otp, s.clk, s.resetnLow, s.role, s.phase, s.testMode, s.supply, s.boot, s.config⟩

@[simp] theorem fixed_mk (x0 x1 x2 x3 x4 x5 x6 x7 x8 x9 x10 x11 x12 x13 x14 x15 x16 x17 x18 x19 x20 x21 x22 x23 x24 x25 x26 x27 x28 x29 x30 x31 x32 x33 x34 x35 x36 x37) :
  (State.mk x0 x1 x2 x3 x4 x5 x6 x7 x8 x9 x10 x11 x12 x13 x14 x15 x16 x17 x18 x19 x20 x21 x22 x23 x24 x25 x26 x27 x28 x29 x30 x31 x32 x33 x34 x35 x36 x37).fixed = ⟨x0, x8, x13, x9, x1, x3, x4, x5, x6, x7, x14, x15⟩ := rfl

@[simp] theorem fixed_fold (s : State) : (⟨s.pending, s.cornerstone, s.flash, s.otp, s.clk, s.resetnLow, s.role, s.phase, s.testMode, s.supply, s.boot, s.config⟩ : Fixed) = s.fixed := rfl

@[simp] theorem fixed_ite (c : Prop) [Decidable c] (a b : State) : (if c then a else b).fixed = if c then a.fixed else b.fixed := apply_ite _ _ _ _

@[simp] theorem foldl_fixed {α} (f : State → α → State) (h : ∀ s a, (f s a).fixed = s.fixed) (l : List α) (s : State) : (l.foldl f s).fixed = s.fixed := by
  induction l generalizing s with
  | nil => rfl
  | cons a l ih => simp [ih, h]

@[simp] theorem snd_ite {α β} (c : Prop) [Decidable c] (a b : α × β) : (if c then a else b).2 = if c then a.2 else b.2 := apply_ite _ _ _ _

@[simp] theorem fst_ite {α β} (c : Prop) [Decidable c] (a b : α × β) : (if c then a else b).1 = if c then a.1 else b.1 := apply_ite _ _ _ _
/-- Those parts of an outcome's next state. -/
def outFixed (o : Host.Outcome State Fault Refusal) : Option Fixed := match o with | .next t => some t.fixed | _ => none

@[simp] theorem outFixed_next (t : State) : outFixed (.next t) = some t.fixed := rfl

@[simp] theorem outFixed_ite (c : Prop) [Decidable c] (a b : Host.Outcome State Fault Refusal) : outFixed (if c then a else b) = if c then outFixed a else outFixed b := apply_ite _ _ _ _

/-- From `s` to `t`: the queue and the factory store are unchanged, the flash stays canonical, a set seal bit stays set. -/
def Keeps (s t : State) : Prop :=
  t.pending = s.pending ∧ t.cornerstone = s.cornerstone ∧ (FlashCanonical s → FlashCanonical t) ∧ (s.otp.sealBit = true → t.otp.sealBit = true)

theorem Keeps.of_fixed {s t : State} (h : t.fixed = s.fixed) : Keeps s t := by
  simp only [State.fixed, Fixed.mk.injEq] at h
  obtain ⟨h1, h2, h3, h4, -⟩ := h
  exact ⟨h1, h2, fun h => by simpa only [FlashCanonical, h3] using h, fun h => by rw [h4]; exact h⟩

theorem Keeps.trans {s t u : State} (h : Keeps s t) (k : Keeps t u) : Keeps s u :=
  ⟨k.1.trans h.1, k.2.1.trans h.2.1, fun x => k.2.2.1 (h.2.2.1 x), fun x => k.2.2.2 (h.2.2.2 x)⟩

theorem Keeps.refl (s : State) : Keeps s s := ⟨rfl, rfl, id, id⟩

theorem Keeps.after {s t u : State} (h : Keeps s t) (e : u.fixed = t.fixed) : Keeps s u := h.trans (Keeps.of_fixed e)

/-- Cells lie within the bytes written and list no erased byte. -/
theorem flashCells_ge {l : List Byte} {a : Nat} {p : Nat × Byte} (h : p ∈ flashCells l a) :
    a ≤ p.1 ∧ p.1 < a + l.length ∧ p.2 ≠ 0xFF := by
  induction l generalizing a with
  | nil => cases h
  | cons b r ih =>
    simp only [flashCells] at h
    split at h
    · have := ih h; exact ⟨by omega, by simp only [List.length_cons]; omega, this.2.2⟩
    · rcases List.mem_cons.1 h with rfl | h
      · simp_all
      · have := ih h; exact ⟨by omega, by simp only [List.length_cons]; omega, this.2.2⟩

theorem flashCells_pairwise (l : List Byte) (a : Nat) : (flashCells l a).Pairwise (fun p q => p.1 < q.1) := by
  induction l generalizing a with
  | nil => exact .nil
  | cons b r ih =>
    simp only [flashCells]
    split
    · exact ih _
    · exact .cons (fun q h => (flashCells_ge h).1) (ih _)

theorem dropWhile_ge {l : List (Nat × Byte)} (h : l.Pairwise (fun p q => p.1 < q.1)) (n : Nat) {p : Nat × Byte}
    (hp : p ∈ l.dropWhile fun q => q.1 < n) : n ≤ p.1 := by
  induction l with
  | nil => cases hp
  | cons q r ih =>
    simp only [List.dropWhile_cons] at hp
    split at hp
    · exact ih h.tail hp
    · rename_i hq
      rcases List.mem_cons.1 hp with rfl | hp
      · simpa using hq
      · have := List.rel_of_pairwise_cons h hp
        simp at hq; omega

theorem takeWhile_lt {l : List (Nat × Byte)} (n : Nat) {p : Nat × Byte} (hp : p ∈ l.takeWhile fun q => q.1 < n) : p.1 < n := by
  simpa using List.mem_takeWhile_imp hp
/-- Writing bytes keeps the canonical form. -/
theorem flashWrite_canonical {s t : State} {a : Nat} {b : List Byte} (ht : t.flash = flashWrite s.flash a b) (h : FlashCanonical s) :
    FlashCanonical t := by
  unfold FlashCanonical at *
  rw [ht]
  unfold flashWrite
  split
  · obtain ⟨h, h'⟩ := h
    refine ⟨?_, fun p hp => ?_⟩
    · refine List.pairwise_append.2 ⟨List.pairwise_append.2 ⟨h.sublist (List.takeWhile_sublist _), flashCells_pairwise b a, ?_⟩,
        h.sublist (List.dropWhile_sublist _), ?_⟩
      · intro p hp q hq
        have := takeWhile_lt a hp
        have := (flashCells_ge hq).1
        omega
      · intro p hp q hq
        have := dropWhile_ge h _ hq
        rcases List.mem_append.1 hp with hp | hp
        · have := takeWhile_lt a hp; omega
        · have := (flashCells_ge hp).2.1; omega
    · rcases List.mem_append.1 hp with hp | hp
      · rcases List.mem_append.1 hp with hp | hp
        · exact h' p ((List.takeWhile_sublist _).subset hp)
        · exact (flashCells_ge hp).2.2
      · exact h' p ((List.dropWhile_sublist _).subset hp)
  · exact h
/-- The outcome is a next state that `Keeps` holds of. -/
def OutKeeps (s : State) (o : Host.Outcome State Fault Refusal) : Prop := ∃ t, o = .next t ∧ Keeps s t

theorem OutKeeps.next {s t : State} (h : Keeps s t) : OutKeeps s (.next t) := ⟨t, rfl, h⟩

theorem OutKeeps.of_fixed {s : State} {o : Host.Outcome State Fault Refusal} (h : outFixed o = some s.fixed) : OutKeeps s o := by
  cases o with
  | next t => exact ⟨t, rfl, Keeps.of_fixed (Option.some.inj h)⟩
  | fault _ => cases h
  | refused _ => cases h
end Sys2Proof.Machine
end

