-- ==== Sys2Proof/Laws/Resets.lean ====
section
/-! SUPPORT. What a warm reset does, said once for every kind of it. -/

set_option Elab.async false -- one theorem after another: the whole compiles within its memory

namespace Sys2Proof.Machine

/-- `t` differs from `s` in sessions, calibration, Course and events alone. -/
def SessionsOnly (s t : State) : Prop := t = { s with gate := { s.gate with sessions := t.gate.sessions }, cal := t.cal, course := t.course, events := t.events }

theorem SessionsOnly.trans {s t u : State} (h : SessionsOnly s t) (k : SessionsOnly t u) : SessionsOnly s u := by
  unfold SessionsOnly at *
  rw [k, h]

theorem sendOn_sessions (s : State) (p : Fin 2) (f : CourseFrame) : SessionsOnly s (sendOn s p f) := by
  unfold sendOn
  dsimp only
  split <;> rfl

theorem originate_sessions (s : State) (ports : List (Fin 2)) (type dst : Byte) (cls : Nat) (credit : Byte) (payload : List Byte) :
    SessionsOnly s (originate s ports type dst cls credit payload) := by
  have h : ∀ (l : List (Fin 2)) (f : CourseFrame) (t : State), SessionsOnly t (l.foldl (fun s p => sendOn s p f) t) := by
    intro l f
    induction l with
    | nil => intro t; rfl
    | cons p l ih => intro t; exact (sendOn_sessions t p f).trans (ih _)
  exact (show SessionsOnly s (takeSeq s cls).2 from rfl).trans (h _ _ _)

theorem freeRemotePort_sessions (s : State) (t : RemoteTest) : SessionsOnly s (freeRemotePort s t) := by
  unfold freeRemotePort
  split <;> rfl

theorem closeRingAgain_sessions (s : State) (t : RemoteTest) : SessionsOnly s (closeRingAgain s t) := rfl

theorem abortRemote_sessions (s : State) : SessionsOnly s (abortRemote s) := by
  unfold abortRemote
  split
  · dsimp only
    refine .trans ?_ (show SessionsOnly _ (raise _ _ _) from rfl)
    refine .trans ?_ (originate_sessions ..)
    refine .trans ?_ (closeRingAgain_sessions ..)
    refine .trans (show SessionsOnly s { s with course := { s.course with remote := none } } from rfl) ?_
    split
    · exact freeRemotePort_sessions ..
    · rfl
  · rfl

/-- The end of sessions without an event. -/
theorem endSessions_sessions (s : State) (bits : Nat) : SessionsOnly s (endSessions s bits none) := by
  unfold endSessions
  dsimp only
  split
  · rfl
  · split <;> split
    · exact .trans (show SessionsOnly s (stopLinkTests _) from rfl) (abortRemote_sessions _)
    · exact .trans (show SessionsOnly s (stopLinkTests _) from rfl) (abortRemote_sessions _)
    · rfl
    · rfl

theorem cutSeal_gate (s : State) : cutSeal s =
    { s with otp := (cutSeal s).otp, freeCount := (cutSeal s).freeCount, gate := { s.gate with sealCut := (cutSeal s).gate.sealCut } } := by
  unfold cutSeal
  split <;> rfl

/-- What the end of sessions and a cut seal leave before the reset proper. -/
theorem beforeReset (s : State) : ∃ g x c k e o n, cutSeal (endSessions s 7 none) =
    { s with gate := { s.gate with sessions := g, sealCut := x }, cal := c, course := k, events := e, otp := o, freeCount := n } :=
  ⟨_, _, _, _, _, _, _, (cutSeal_gate _).trans (by rw [endSessions_sessions s 7])⟩

/-- `t` differs from `s` in the rail and the thermal loop alone. -/
def RailOnly (s t : State) : Prop := t = { s with rail := t.rail, thermal := t.thermal }

/-- What the rail is at a warm reset. -/
theorem keepRail_rail (s : State) (k : WarmKind) (limit : Nat) : RailOnly s (keepRail s k limit) ∧
    (k = .thermal → (keepRail s k limit).rail.state = .off) ∧
    (k ≠ .thermal → (isRunning s = true → cfgRailHold s ≠ 0) → (keepRail s k limit).rail.state = if s.rail.state = .on then .on else .off) := by
  unfold keepRail
  split
  · rename_i h
    refine ⟨rfl, fun _ => rfl, fun h1 h2 => ?_⟩
    rcases h with h | h
    · exact absurd h h1
    · exact absurd h.2 (h2 h.1)
  · rename_i h
    unfold holdRail
    split
    · rename_i on
      exact ⟨rfl, fun h3 => absurd (.inl h3) h, fun _ _ => on⟩
    · exact ⟨rfl, fun h3 => absurd (.inl h3) h, fun _ _ => rfl⟩

/-- The start of any warm reset. -/
theorem startWarm_from (s : State) (k : WarmKind) (limit : Nat) : WarmResetFrom k (warmCode k) s (startWarm s k limit) := by
  obtain ⟨hr, h1, h2⟩ := keepRail_rail s k limit
  unfold startWarm
  unfold RailOnly at hr
  generalize keepRail s k limit = t at hr h1 h2
  rw [hr] at h1 h2 ⊢
  generalize t.rail = r at h1 h2 ⊢
  generalize t.thermal = th at h1 h2 ⊢
  obtain ⟨g, x, c, k', e, o, n, hb⟩ := beforeReset (noteWarm s { s with rail := r, thermal := th } k)
  unfold coreReset
  rw [hb]
  refine ⟨rfl, rfl, rfl, rfl, rfl, rfl, fun n => ?_, fun n => ?_, fun n => ?_, rfl, rfl, fun n => ?_, h1, h2, rfl, rfl, rfl, rfl, rfl,
    rfl, rfl, rfl, rfl, rfl, rfl, rfl, rfl⟩
  · simp [noteWarm]
  · simp
  · simp [noteWarm]
  · simp [noteWarm]

/-- `t` differs from `s` in the fault word, the records' active flags and the SAFE causes alone. -/
def ClearOnly (s t : State) : Prop :=
  t = { s with modes := { s.modes with causes := t.modes.causes, goneClk := t.modes.goneClk }, ks := { s.ks with active := t.ks.active, records := t.ks.records } }

theorem ClearOnly.trans {s t u : State} (h : ClearOnly s t) (k : ClearOnly t u) : ClearOnly s u := by
  unfold ClearOnly at *
  rw [k, h]

theorem clearFault_clear (s : State) (code : Fin 28) : ClearOnly s (clearFault s code) := by
  unfold clearFault
  dsimp only
  split
  · unfold noteGone
    split <;> rfl
  · rfl

theorem clearAtPower_clear (s : State) : ClearOnly s (clearAtPower s) :=
  (((clearFault_clear s 0x09).trans (clearFault_clear _ 0x13)).trans (clearFault_clear _ 0x14)).trans (clearFault_clear _ 0x15)

theorem powerReset_from (s : State) : PowerResetFrom s (powerReset s) := by
  have h := clearAtPower_clear (coreReset s)
  unfold ClearOnly at h
  obtain ⟨g, x, c, k', e, o, n, hb⟩ := beforeReset s
  unfold powerReset
  dsimp only
  rw [h]
  unfold coreReset
  dsimp only
  rw [hb]
  exact ⟨rfl, rfl, rfl, rfl, rfl, rfl, rfl, rfl, rfl, rfl, rfl, rfl, rfl, rfl, rfl, rfl, rfl, rfl, rfl, rfl, rfl, rfl, rfl, rfl, rfl⟩

theorem startReset_from (s : State) (k : WarmKind) : WarmResetFrom k (warmCode k) s (startReset s k) := startWarm_from s k _

end Sys2Proof.Machine
end

