-- ==== Sys2Proof/Laws/Changes.lean ====
section
/-! SUPPORT. What the shared operations change, said once for each: every field that is not named stays. -/

set_option Elab.async false -- one theorem after another: the whole compiles within its memory

namespace Sys2Proof.Machine

/-! The log and the events. -/

/-- `t` differs from `s` in the log and the events alone. -/
def LogOnly (s t : State) : Prop := t = { s with log := t.log, events := t.events }

theorem LogOnly.refl (s : State) : LogOnly s s := rfl

theorem LogOnly.trans {s t u : State} (h : LogOnly s t) (k : LogOnly t u) : LogOnly s u := by
  unfold LogOnly at *
  rw [k, h]

theorem raise_log {s t : State} (h : LogOnly s t) (ev : Fin 32) (arg : Nat) : LogOnly s (raise t ev arg) := h.trans rfl

/-- Writing the log. -/
theorem LogOnly.log {s t : State} (h : LogOnly s t) (l : CisternLog) : LogOnly s { t with log := l } :=
  h.trans (show LogOnly t { t with log := l } from rfl)

theorem logSummary_log {s t : State} (h : LogOnly s t) (n : Nat) : LogOnly s (logSummary n t) := by
  induction n generalizing t with
  | zero => exact h
  | succ n ih =>
    unfold logSummary
    dsimp only
    split
    · exact ih (raise_log (h.log _) _ _)
    · exact h.log _

theorem raiseLogFull_log {s t : State} (h : LogOnly s t) (arg : Nat) : LogOnly s (raiseLogFull t arg) := logSummary_log (raise_log h _ _) _

theorem logRing_log {s t : State} (h : LogOnly s t) (e : LogEntry) : LogOnly s (logRing t e) := by
  unfold logRing
  split
  · exact h.log _
  · dsimp only
    split
    · exact raiseLogFull_log (h.log _) _
    · exact h.log _

theorem logGeneral_log {s t : State} (h : LogOnly s t) (kind node : Byte) (code arg : Nat) (data : List Byte) :
    LogOnly s (logGeneral t kind node code arg data) := logRing_log h _

theorem logRecord_log {s t : State} (h : LogOnly s t) (kind : Byte) (r : Record) : LogOnly s (logRecord t kind r) := logRing_log h _

theorem logAlarm_log {s t : State} (h : LogOnly s t) (kind node : Byte) (code arg : Nat) (data : List Byte) :
    LogOnly s (logAlarm t kind node code arg data) := by
  unfold logAlarm
  dsimp only
  split
  · exact h.log _
  · split
    · exact raiseLogFull_log (logRing_log (h.log _) _) _
    · exact logRing_log (h.log _) _

/-- A pending event bit stays pending while events are raised. -/
theorem markEvent_pending (e : Events) (ev : Fin 32) (n : Nat) (h : e.pending.getLsbD n = true) :
    (markEvent e ev).pending.getLsbD n = true := by
  simp [markEvent, h]

theorem markEvent_self (e : Events) (ev : Fin 32) : (markEvent e ev).pending.getLsbD ev.val = true := by
  have h := ev.isLt
  simp only [markEvent, BitVec.getLsbD_or, BitVec.getLsbD_ofNat, Nat.testBit_two_pow_self, h, decide_true, Bool.and_self, Bool.or_true]

/-- `t` has every pending event of `s`. -/
structure PendingStays (s t : State) : Prop where
  stays : ∀ n, s.events.pending.getLsbD n = true → t.events.pending.getLsbD n = true

theorem queueEvent_pending (e : Events) (q : QueuedEvent) (n : Nat) (h : e.pending.getLsbD n = true) :
    (queueEvent e q).pending.getLsbD n = true := by
  unfold queueEvent
  split
  · exact h
  · dsimp only
    split
    · exact h
    · exact markEvent_pending _ _ _ h

theorem raise_stays {s t : State} (h : PendingStays s t) (ev : Fin 32) (arg : Nat) : PendingStays s (raise t ev arg) := by
  refine ⟨fun n hn => ?_⟩
  unfold raise
  dsimp only
  split
  · exact queueEvent_pending _ _ _ (markEvent_pending _ _ _ (h.stays n hn))
  · exact markEvent_pending _ _ _ (h.stays n hn)

theorem raise_pending (s : State) (ev : Fin 32) (arg : Nat) : (raise s ev arg).events.pending.getLsbD ev.val = true := by
  unfold raise
  dsimp only
  split
  · exact queueEvent_pending _ _ _ (markEvent_self _ _)
  · exact markEvent_self _ _

theorem PendingStays.trans {s t u : State} (h : PendingStays s t) (k : PendingStays t u) : PendingStays s u :=
  ⟨fun n x => k.stays n (h.stays n x)⟩

theorem logSummary_stays {s t : State} (h : PendingStays s t) (n : Nat) : PendingStays s (logSummary n t) := by
  induction n generalizing t with
  | zero => exact h
  | succ n ih =>
    unfold logSummary
    dsimp only
    split
    · refine ih (raise_stays ?_ 27 0)
      exact ⟨h.stays⟩
    · exact ⟨h.stays⟩

theorem raiseLogFull_stays {s t : State} (h : PendingStays s t) (arg : Nat) : PendingStays s (raiseLogFull t arg) :=
  logSummary_stays (raise_stays h 27 arg) 2

theorem logRing_stays {s t : State} (h : PendingStays s t) (e : LogEntry) : PendingStays s (logRing t e) := by
  unfold logRing
  split
  · exact ⟨h.stays⟩
  · dsimp only
    split
    · refine raiseLogFull_stays ?_ 0
      exact ⟨h.stays⟩
    · exact ⟨h.stays⟩

theorem logGeneral_stays {s t : State} (h : PendingStays s t) (kind node : Byte) (code arg : Nat) (data : List Byte) :
    PendingStays s (logGeneral t kind node code arg data) := logRing_stays h _

theorem logAlarm_stays {s t : State} (h : PendingStays s t) (kind node : Byte) (code arg : Nat) (data : List Byte) :
    PendingStays s (logAlarm t kind node code arg data) := by
  unfold logAlarm
  dsimp only
  split
  · exact ⟨h.stays⟩
  · split
    · refine raiseLogFull_stays (logRing_stays ?_ _) 1
      exact ⟨h.stays⟩
    · refine logRing_stays ?_ _
      exact ⟨h.stays⟩

theorem logAlarm_pending {t : State} {n : Nat} (h : t.events.pending.getLsbD n = true) (kind node : Byte) (code arg : Nat) (data : List Byte) :
    (logAlarm t kind node code arg data).events.pending.getLsbD n = true :=
  (logAlarm_stays (s := t) ⟨fun _ x => x⟩ kind node code arg data).stays n h

/-! Faults. -/

/-- `t` differs from `s` in what a fault writes: the fault word, record and count, when it was seen, the log and the events. -/
def FaultOnly (s t : State) : Prop :=
  t = { s with log := t.log, events := t.events
               ks := { s.ks with active := t.ks.active, records := t.ks.records, index := t.ks.index, count := t.ks.count, seen := t.ks.seen } }

theorem FaultOnly.refl (s : State) : FaultOnly s s := rfl

theorem FaultOnly.trans {s t u : State} (h : FaultOnly s t) (k : FaultOnly t u) : FaultOnly s u := by
  unfold FaultOnly at *
  rw [k, h]

theorem LogOnly.fault {s t : State} (h : LogOnly s t) : FaultOnly s t := by
  unfold FaultOnly LogOnly at *
  rw [h]

/-- The fault word, record and count that a new fault gives, seen at `clk`. -/
def ksWith (k : Keystone) (clk : Nat) (code : Fin 28) (e : FaultRecord) : Keystone :=
  { k with active := k.active ||| BitVec.ofNat 32 (2 ^ code.val), records := k.records.set k.index.val e, index := k.index + 1
           count := sat16 k.count, seen := k.seen.set code.val clk }

/-- The record a new fault writes. -/
def faultEntry (s : State) (code : Fin 28) (arg : Nat) (masked : Bool) : FaultRecord :=
  { code := BitVec.ofNat 16 code.val, arg := BitVec.ofNat 16 arg, time := s.time.count, era := s.time.era, active := true, masked := masked }

theorem recordFault_eq (s : State) (code : Fin 28) (arg evArg : Nat) (masked : Bool) (h : faultActive s code = false) :
    recordFault s code arg evArg masked =
      logAlarm (raise { s with ks := ksWith s.ks s.clk code (faultEntry s code arg masked) } (faultEvent code) evArg) 0x02 (ownNode s) code.val arg [] := by
  unfold recordFault
  dsimp only
  rw [if_neg (show ¬faultActive (noteSeen s code) code = true by rw [show faultActive (noteSeen s code) code = faultActive s code from rfl, h]; decide)]
  rfl

/-- A fault that was not active: its word, record and count, its event pending, everything else but the log as before. -/
theorem recordFault_new (s : State) (code : Fin 28) (arg evArg : Nat) (masked : Bool) (h : faultActive s code = false) :
    LogOnly { s with ks := ksWith s.ks s.clk code (faultEntry s code arg masked) } (recordFault s code arg evArg masked) ∧
      (recordFault s code arg evArg masked).events.pending.getLsbD (faultEvent code).val = true ∧
      PendingStays s (recordFault s code arg evArg masked) := by
  rw [recordFault_eq s code arg evArg masked h]
  generalize hx : ({ s with ks := ksWith s.ks s.clk code (faultEntry s code arg masked) } : State) = x
  have hp : PendingStays s x := ⟨fun n y => by rw [← hx]; exact y⟩
  exact ⟨logAlarm_log (raise_log (LogOnly.refl _) _ _) .., logAlarm_pending (raise_pending ..) .., logAlarm_stays (raise_stays hp _ _) ..⟩

theorem recordFault_changes (s : State) (code : Fin 28) (arg evArg : Nat) (masked : Bool) :
    FaultOnly s (recordFault s code arg evArg masked) := by
  cases h : faultActive s code with
  | true =>
    unfold recordFault
    dsimp only
    rw [if_pos (show faultActive (noteSeen s code) code = true from h)]
    rfl
  | false =>
    exact (show FaultOnly s { s with ks := ksWith s.ks s.clk code (faultEntry s code arg masked) } from rfl).trans
      (recordFault_new s code arg evArg masked h).1.fault

end Sys2Proof.Machine
end

