-- ==== Sys2Proof/Laws/Safe.lean ====
section
/-! SUPPORT. What the entry to SAFE, a declared fault, a cleared fault and a refresh of the outputs change. -/

set_option Elab.async false -- one theorem after another: the whole compiles within its memory

namespace Sys2Proof.Machine

/-! Pins and ratio outputs. -/

/-- `t` differs from `s` in the alarm pins and the ratio outputs alone; of an output, its code, goal and slew remainder. -/
def PinsOnly (s t : State) : Prop :=
  t = { s with spill := { s.spill with aLow := t.spill.aLow, bLow := t.spill.bLow, aout := t.spill.aout } } ∧
    ∀ n : Fin 2, t.spill.aout[n].driven = s.spill.aout[n].driven ∧ t.spill.aout[n].fault = s.spill.aout[n].fault ∧
      t.spill.aout[n].differs = s.spill.aout[n].differs ∧ t.spill.aout[n].holdLow = s.spill.aout[n].holdLow ∧
      t.spill.aout[n].missing = s.spill.aout[n].missing

theorem PinsOnly.refl (s : State) : PinsOnly s s := ⟨rfl, fun _ => ⟨rfl, rfl, rfl, rfl, rfl⟩⟩

theorem PinsOnly.trans {s t u : State} (h : PinsOnly s t) (k : PinsOnly t u) : PinsOnly s u := by
  refine ⟨?_, fun n => ?_⟩
  · have h1 := h.1
    have k1 := k.1
    rw [k1, h1]
  · obtain ⟨a, b, c, d, e⟩ := h.2 n
    obtain ⟨a', b', c', d', e'⟩ := k.2 n
    exact ⟨a'.trans a, b'.trans b, c'.trans c, d'.trans d, e'.trans e⟩

theorem writePin_pins (s : State) (pin : Fin 2) (low : Bool) : PinsOnly s (writePin s pin low) := by
  unfold writePin
  split <;> exact ⟨rfl, fun _ => ⟨rfl, rfl, rfl, rfl, rfl⟩⟩

theorem refreshPin_pins (s : State) (pin : Fin 2) : PinsOnly s (refreshPin s pin) := by
  unfold refreshPin
  (repeat' split) <;> first | exact .refl s | exact writePin_pins ..

theorem refreshAout_pins (s : State) (n : Fin 2) : PinsOnly s (refreshAout s n) := by
  unfold refreshAout
  split
  · exact .refl s
  · refine ⟨rfl, fun m => ?_⟩
    dsimp only
    by_cases h : m = n
    · subst h
      simp only [vmod, Fin.getElem_fin, Vector.getElem_set_self]
      split <;> exact ⟨rfl, rfl, rfl, rfl, rfl⟩
    · have h' : n.val ≠ m.val := fun e => h (Fin.ext e.symm)
      simp only [vmod, Fin.getElem_fin, Vector.getElem_set_ne _ _ h', and_self]

theorem refreshOutputs_pins (s : State) : PinsOnly s (refreshOutputs s) :=
  ((refreshPin_pins s 0).trans (refreshPin_pins _ 1)).trans ((refreshAout_pins _ 0).trans (refreshAout_pins _ 1))

/-! The entry to SAFE. -/

/-- Of the electrochemical channels, at most the mark of an overrange that has just ended differs. -/
def EcKept (s t : State) : Prop := ∀ n : Fin 8, t.ec[n] = { s.ec[n] with complianceTail := t.ec[n].complianceTail }

theorem EcKept.of_eq {s t : State} (h : t.ec = s.ec) : EcKept s t := fun n => by rw [h]

theorem EcKept.trans {s t u : State} (h : EcKept s t) (k : EcKept t u) : EcKept s u := fun n => by rw [k n, h n]

/-- `t` differs from `s` in what an entry to SAFE may write. Clock, reset, phase, role, supplies, factory store, flash, configuration,
bias, Plumb, host port, link test, and of Keystone all but the visit under way stay. -/
def SafeOnly (s t : State) : Prop :=
  t = { s with sysOn := t.sysOn, sysDrop := t.sysDrop, sysClk := t.sysClk, modes := t.modes, weirs := t.weirs, tones := t.tones, burns := t.burns
               aux := t.aux, ec := t.ec, mox := t.mox, rail := t.rail, thermal := t.thermal, cal := t.cal, spill := t.spill, mere := t.mere
               sluice := t.sluice, course := t.course, events := t.events, results := t.results, log := t.log, gate := t.gate
               ks := { s.ks with visiting := t.ks.visiting, visitBad := t.ks.visitBad, compared := t.ks.compared } } ∧ EcKept s t

theorem SafeOnly.refl (s : State) : SafeOnly s s := ⟨rfl, .of_eq rfl⟩

theorem SafeOnly.trans {s t u : State} (h : SafeOnly s t) (k : SafeOnly t u) : SafeOnly s u := by
  refine ⟨?_, h.2.trans k.2⟩
  have h := h.1
  have k := k.1
  rw [k, h]

theorem LogOnly.safe {s t : State} (h : LogOnly s t) : SafeOnly s t := by
  unfold LogOnly at h
  exact ⟨by rw [h], .of_eq (by rw [h])⟩

theorem SessionsOnly.safe {s t : State} (h : SessionsOnly s t) : SafeOnly s t := by
  unfold SessionsOnly at h
  exact ⟨by rw [h], .of_eq (by rw [h])⟩

theorem PinsOnly.safe {s t : State} (h : PinsOnly s t) : SafeOnly s t := by
  have h := h.1
  exact ⟨by rw [h], .of_eq (by rw [h])⟩

theorem safeRail_safe (s : State) : SafeOnly s (safeRail s) := by
  unfold safeRail
  split
  · exact ⟨rfl, .of_eq rfl⟩
  · dsimp only
    split
    · refine .trans (t := logShed { s with rail := { s.rail with shed := s.rail.shed.erase .chain, chainFrom := none } } .chain true s.rail.lastShunt)
        (.trans (t := { s with rail := { s.rail with shed := s.rail.shed.erase .chain, chainFrom := none } }) ⟨rfl, .of_eq rfl⟩
          (logGeneral_log (.refl _) ..).safe) ⟨rfl, .of_eq rfl⟩
    · exact ⟨rfl, .of_eq rfl⟩

theorem dropRequests_safe (s : State) : SafeOnly s (dropRequests s) := by
  unfold dropRequests
  dsimp only
  split <;> exact ⟨rfl, .of_eq rfl⟩

theorem gateMere_safe (s : State) : SafeOnly s (gateMere s) := by
  unfold gateMere
  split <;> exact ⟨rfl, .of_eq rfl⟩

theorem completeMode_safe (s : State) (new : Mode) (cause : Nat) : SafeOnly s (completeMode s new cause) := by
  unfold completeMode
  dsimp only
  refine .trans ?_ (logGeneral_log (.refl _) ..).safe
  unfold rorEnter
  split <;> exact ⟨rfl, .of_eq rfl⟩

theorem calReject_safe (s : State) (outcome : Byte) : SafeOnly s (calReject s outcome) := by
  unfold calReject
  split <;> exact ⟨rfl, .of_eq rfl⟩

theorem raiseGate_safe (s : State) (kind bits : Nat) : SafeOnly s (raiseGate s kind bits) := ⟨rfl, .of_eq rfl⟩

theorem endSessions_safe (s : State) (bits : Nat) (kind : Option Nat) : SafeOnly s (endSessions s bits kind) := by
  have h := (endSessions_sessions s bits).safe
  unfold endSessions at *
  dsimp only at *
  cases kind with
  | none => exact h
  | some k =>
    split
    · exact .refl s
    · rename_i hb
      rw [if_neg hb] at h
      exact h.trans (raiseGate_safe ..)

theorem dropRun_safe (s : State) : SafeOnly s (dropRun s) := by
  unfold dropRun
  dsimp only
  split
  · exact (calReject_safe s stNotInMode).trans ⟨rfl, .of_eq rfl⟩
  · exact ⟨rfl, .of_eq rfl⟩

/-- Frames, tones, AUX path and the visit under way stop; a channel keeps its bias. -/
theorem stopConversions_safe (s : State) : SafeOnly s (stopConversions s) := by
  refine ⟨rfl, fun n => ?_⟩
  have h : (stopConversions s).ec[n] = { s.ec[n] with complianceTail := false } := Vector.getElem_map ..
  rw [h]

theorem stopForSafe_safe (s : State) : SafeOnly s (stopForSafe s) :=
  ((dropRequests_safe s).trans (stopConversions_safe _)).trans (.trans
    (show SafeOnly _ (staleRecords (stopHeaters (stopConversions _))) from ⟨rfl, .of_eq rfl⟩) (gateMere_safe _))

theorem enterSafe_changes (s : State) (cause : Nat) : SafeOnly s (enterSafe s cause) := by
  unfold enterSafe
  dsimp only
  split
  · exact .refl s
  · have h0 : SafeOnly s (if cause = 0 then s else addCause s cause) := by split <;> exact ⟨rfl, .of_eq rfl⟩
    generalize (if cause = 0 then s else addCause s cause) = a at h0
    split
    · exact h0.trans (safeRail_safe a)
    · exact (((((h0.trans (stopForSafe_safe a)).trans (completeMode_safe ..)).trans (safeRail_safe _)).trans (dropRun_safe _)).trans
        (endSessions_safe ..)).trans (refreshOutputs_pins _).safe

theorem refreshOutputs_modes (s : State) : (refreshOutputs s).modes = s.modes := by
  have h := (refreshOutputs_pins s).1
  rw [h]

theorem endSessions_modes (s : State) (bits : Nat) (kind : Option Nat) : (endSessions s bits kind).modes = s.modes := by
  have h := congrArg State.modes (endSessions_sessions s bits)
  unfold endSessions at *
  dsimp only at *
  cases kind with
  | none => exact h
  | some k =>
    split
    · rfl
    · rename_i hb
      rw [if_neg hb] at h
      exact h

theorem calReject_modes (s : State) (outcome : Byte) : (calReject s outcome).modes = s.modes := by
  unfold calReject
  split <;> rfl

theorem safeRail_modes (s : State) : (safeRail s).modes = s.modes := by
  unfold safeRail
  split
  · rfl
  · dsimp only
    split
    · generalize hx : ({ s with rail := { s.rail with shed := s.rail.shed.erase .chain, chainFrom := none } } : State) = x
      have k := logGeneral_log (.refl x) 0x08 (ownNode x) (1 + 256) 0 (toLE 2 s.rail.lastShunt)
      unfold LogOnly at k
      show (logShed x .chain true s.rail.lastShunt).modes = s.modes
      unfold logShed
      dsimp only
      rw [if_pos rfl, k, ← hx]
    · rfl

theorem completeMode_mode (s : State) (new : Mode) (cause : Nat) : (completeMode s new cause).modes.mode = new := by
  unfold completeMode
  dsimp only
  generalize hx : raise _ 4 _ = x
  have h : x.modes.mode = new := by rw [← hx]; rfl
  have k := (logGeneral_log (.refl x) 0x07 (ownNode x) (modeCode new).toNat cause [] : LogOnly x _)
  unfold LogOnly at k
  rw [k]
  exact h

theorem dropRun_modes (s : State) : (dropRun s).modes = s.modes := by
  unfold dropRun
  dsimp only
  split
  · exact calReject_modes ..
  · rfl

/-- A device in a mode is in SAFE after it. -/
theorem enterSafe_mode (s : State) (cause : Nat) (h : isRunning s = true) : (enterSafe s cause).modes.mode = .safe := by
  unfold enterSafe
  rw [h]
  dsimp only
  rw [if_neg (by decide)]
  generalize (if cause = 0 then s else addCause s cause) = a
  split
  · rename_i hm
    rw [safeRail_modes]
    exact hm
  · rw [refreshOutputs_modes, endSessions_modes, dropRun_modes, safeRail_modes, completeMode_mode]

/-! Pending events stay. -/

theorem dropRequests_stays {s t : State} (h : PendingStays s t) : PendingStays s (dropRequests t) := by
  unfold dropRequests
  dsimp only
  split
  · exact ⟨(raise_stays (t := { t with sluice := _ }) ⟨h.stays⟩ 19 _).stays⟩
  · exact ⟨h.stays⟩

theorem completeMode_stays {s t : State} (h : PendingStays s t) (new : Mode) (cause : Nat) : PendingStays s (completeMode t new cause) := by
  unfold completeMode rorEnter
  dsimp only
  refine logGeneral_stays (raise_stays ?_ _ _) ..
  split <;> exact ⟨h.stays⟩

theorem calReject_stays {s t : State} (h : PendingStays s t) (outcome : Byte) : PendingStays s (calReject t outcome) := by
  unfold calReject
  split
  · exact h
  · refine raise_stays ?_ _ _
    exact ⟨h.stays⟩

theorem originate_events (s : State) (ports : List (Fin 2)) (type dst : Byte) (cls : Nat) (credit : Byte) (payload : List Byte) :
    (originate s ports type dst cls credit payload).events = s.events := by
  have h : ∀ (l : List (Fin 2)) (f : CourseFrame) (t : State), (l.foldl (fun s p => sendOn s p f) t).events = t.events := by
    intro l f
    induction l with
    | nil => intro t; rfl
    | cons p l ih =>
      intro t
      rw [List.foldl_cons, ih]
      unfold sendOn
      dsimp only
      split <;> rfl
  exact h _ _ _

theorem freeRemotePort_events (s : State) (t : RemoteTest) : (freeRemotePort s t).events = s.events := by
  unfold freeRemotePort
  split <;> rfl

theorem closeRingAgain_events (s : State) (t : RemoteTest) : (closeRingAgain s t).events = s.events := rfl

theorem abortRemote_stays {s t : State} (h : PendingStays s t) : PendingStays s (abortRemote t) := by
  unfold abortRemote
  split
  · refine raise_stays ⟨?_⟩ _ _
    rw [originate_events, closeRingAgain_events]
    split
    · rw [freeRemotePort_events]
      exact h.stays
    · exact h.stays
  · exact h

theorem endSessions_stays {s t : State} (h : PendingStays s t) (bits : Nat) (kind : Option Nat) : PendingStays s (endSessions t bits kind) := by
  have g {u : State} (k : PendingStays s u) (b : Nat) : PendingStays s (match kind with | none => u | some k => raiseGate u k b) := by
    cases kind with
    | none => exact k
    | some n =>
      show PendingStays s (raiseGate u n b)
      unfold raiseGate
      dsimp only
      refine raise_stays ?_ _ _
      exact ⟨k.stays⟩
  unfold endSessions
  dsimp only
  split
  · exact h
  · refine g ?_ _
    split <;> split
    · exact abortRemote_stays ⟨h.stays⟩
    · exact abortRemote_stays ⟨h.stays⟩
    · exact ⟨h.stays⟩
    · exact ⟨h.stays⟩

theorem safeRail_stays {s t : State} (h : PendingStays s t) : PendingStays s (safeRail t) := by
  unfold safeRail
  split
  · exact ⟨h.stays⟩
  · dsimp only
    split
    · have k := logGeneral_stays (s := s) (t := { t with rail := { t.rail with shed := t.rail.shed.erase .chain, chainFrom := none } }) ⟨h.stays⟩
        0x08 (ownNode t) (1 + 256) 0 (toLE 2 t.rail.lastShunt)
      exact ⟨k.stays⟩
    · exact ⟨h.stays⟩

theorem stopForSafe_stays {s t : State} (h : PendingStays s t) : PendingStays s (stopForSafe t) := by
  have k := dropRequests_stays h
  unfold stopForSafe gateMere
  split
  · exact ⟨k.stays⟩
  · exact ⟨k.stays⟩

theorem dropRun_stays {s t : State} (h : PendingStays s t) : PendingStays s (dropRun t) := by
  unfold dropRun
  dsimp only
  split
  · exact ⟨(calReject_stays h stNotInMode).stays⟩
  · exact ⟨h.stays⟩

theorem refreshOutputs_stays {s t : State} (h : PendingStays s t) : PendingStays s (refreshOutputs t) := by
  have k : (refreshOutputs t).events = t.events := by rw [(refreshOutputs_pins t).1]
  exact ⟨by rw [k]; exact h.stays⟩

theorem enterSafe_stays {s t : State} (h : PendingStays s t) (cause : Nat) : PendingStays s (enterSafe t cause) := by
  unfold enterSafe
  dsimp only
  split
  · exact h
  · have h0 : PendingStays s (if cause = 0 then t else addCause t cause) := by
      split
      · exact h
      · exact ⟨h.stays⟩
    generalize (if cause = 0 then t else addCause t cause) = a at h0
    split
    · exact safeRail_stays h0
    · exact refreshOutputs_stays (endSessions_stays (dropRun_stays (safeRail_stays (completeMode_stays (stopForSafe_stays h0) _ _))) _ _)

/-! Faults. -/

/-- `t` differs from `s` in what a declared fault may write: a new fault's word, record and count, and an entry to SAFE. -/
def DeclareOnly (s t : State) : Prop :=
  t = { s with freeCount := t.freeCount, sysOn := t.sysOn, sysDrop := t.sysDrop, sysClk := t.sysClk, modes := t.modes, weirs := t.weirs
               tones := t.tones, burns := t.burns, aux := t.aux, ec := t.ec, mox := t.mox, rail := t.rail, thermal := t.thermal, cal := t.cal
               spill := t.spill, mere := t.mere, sluice := t.sluice, course := t.course, events := t.events, results := t.results, log := t.log
               gate := t.gate
               ks := { s.ks with visiting := t.ks.visiting, visitBad := t.ks.visitBad, compared := t.ks.compared, active := t.ks.active
                                 records := t.ks.records, index := t.ks.index, count := t.ks.count, seen := t.ks.seen } } ∧ EcKept s t

theorem DeclareOnly.trans {s t u : State} (h : DeclareOnly s t) (k : DeclareOnly t u) : DeclareOnly s u := by
  refine ⟨?_, h.2.trans k.2⟩
  have h := h.1
  have k := k.1
  rw [k, h]

theorem SafeOnly.declare {s t : State} (h : SafeOnly s t) : DeclareOnly s t := ⟨by rw [h.1], h.2⟩

theorem FaultOnly.declare {s t : State} (h : FaultOnly s t) : DeclareOnly s t := by
  unfold FaultOnly at h
  exact ⟨by rw [h], .of_eq (by rw [h])⟩

theorem declareWith_changes (s : State) (code : Fin 28) (arg evArg : Nat) (masked : Bool) :
    DeclareOnly s (declareWith s code arg evArg masked) := by
  unfold declareWith
  split
  · exact ⟨rfl, .of_eq rfl⟩
  · dsimp only
    split
    · exact (recordFault_changes ..).declare.trans (enterSafe_changes ..).declare
    · exact (recordFault_changes ..).declare

theorem enterSafe_ks (s : State) (cause : Nat) :
    (enterSafe s cause).ks.active = s.ks.active ∧ (enterSafe s cause).ks.records = s.ks.records ∧
      (enterSafe s cause).ks.index = s.ks.index ∧ (enterSafe s cause).ks.count = s.ks.count := by
  have h := (enterSafe_changes s cause).1
  rw [h]
  exact ⟨rfl, rfl, rfl, rfl⟩

/-- A declared fault that was not active: its word, record and count are written, its event is pending, and the device is in SAFE when
the code stands in the SAFE mask (R744, R745, R761). -/
theorem declareWith_new (s : State) (code : Fin 28) (arg evArg : Nat) (masked : Bool) (h : faultActive s code = false) :
    (declareWith s code arg evArg masked).ks.active = s.ks.active ||| BitVec.ofNat 32 (2 ^ code.val) ∧
      (declareWith s code arg evArg masked).ks.records = s.ks.records.set s.ks.index.val (faultEntry s code arg masked) ∧
      (declareWith s code arg evArg masked).ks.index = s.ks.index + 1 ∧
      (declareWith s code arg evArg masked).ks.count = sat16 s.ks.count ∧
      (declareWith s code arg evArg masked).events.pending.getLsbD (faultEvent code).val = true ∧
      PendingStays s (declareWith s code arg evArg masked) ∧
      (isRunning s = true → (cfgSafeMask s).getLsbD code.val = true → (declareWith s code arg evArg masked).modes.mode = .safe) := by
  obtain ⟨h1, h2, h3⟩ := recordFault_new s code arg evArg masked h
  unfold declareWith
  rw [if_neg (by rw [h]; decide)]
  dsimp only
  generalize recordFault s code arg evArg masked = r at h1 h2 h3
  unfold LogOnly at h1
  have hk : r.ks = ksWith s.ks s.clk code (faultEntry s code arg masked) := by rw [h1]
  have hr : isRunning r = isRunning s := by rw [h1]; rfl
  have hc : cfgSafeMask r = cfgSafeMask s := by rw [h1]; rfl
  rw [hr, hc]
  split
  · obtain ⟨k1, k2, k3, k4⟩ := enterSafe_ks r 7
    rw [k1, k2, k3, k4, hk]
    exact ⟨rfl, rfl, rfl, rfl, (enterSafe_stays (s := r) ⟨fun _ x => x⟩ 7).stays _ h2, enterSafe_stays h3 7,
      fun hs _ => enterSafe_mode r 7 (hr.trans hs)⟩
  · rename_i hn
    rw [hk]
    exact ⟨rfl, rfl, rfl, rfl, h2, h3, fun a b => absurd (by rw [a, b]; rfl) hn⟩

/-- The code is active afterwards, whether it was before or not. -/
theorem declareWith_active (s : State) (code : Fin 28) (arg evArg : Nat) (masked : Bool) :
    faultActive (declareWith s code arg evArg masked) code = true := by
  cases h : faultActive s code with
  | true => unfold declareWith; rw [if_pos h]; exact h
  | false =>
    have hk := (declareWith_new s code arg evArg masked h).1
    have hc : code.val < 32 := by omega
    unfold faultActive
    rw [hk, BitVec.getLsbD_or, BitVec.getLsbD_ofNat, Nat.testBit_two_pow_self]
    simp [hc]

theorem declareOpen_active (s : State) (code : Fin 28) (masked : Bool) : faultActive (declareOpen s code masked) code = true := by
  unfold declareOpen
  split
  · assumption
  · exact declareWith_active ..

theorem declareOpen_changes (s : State) (code : Fin 28) (masked : Bool) : DeclareOnly s (declareOpen s code masked) := by
  unfold declareOpen
  split
  · exact ⟨rfl, .of_eq rfl⟩
  · exact (show DeclareOnly s (drawFree s).2 from ⟨rfl, .of_eq rfl⟩).trans (declareWith_changes ..)

end Sys2Proof.Machine
end

