-- ==== Sys2Proof/Laws/Host.lean ====
section
/-! SUPPORT. What a host frame that passes its checks does. -/

set_option Elab.async false -- one theorem after another: the whole compiles within its memory

namespace Sys2Proof.Machine

/-- Fixed bytes elsewhere leave the first one. -/
theorem fixBytes_first {l : List (Nat × Byte)} (h : (l.all fun x => x.1 != 0) = true) (p : List Byte) (d : Byte) :
    (fixBytes p l).getD 0 d = p.getD 0 d := by
  induction l generalizing p with
  | nil => rfl
  | cons x l ih =>
    simp only [List.all_cons, Bool.and_eq_true, bne_iff_ne, ne_eq] at h
    obtain ⟨i, b⟩ := x
    rw [fixBytes, ih h.2]
    cases p with
    | nil => rfl
    | cons q p =>
      cases i with
      | zero => exact absurd rfl h.1
      | succ i => simp [setAt]

/-- The first byte of a row's payload is its code. -/
theorem commandPayload_code (f : HostFrame) (code : Byte) {fix : List (Nat × Byte)} (h : (fix.all fun x => x.1 != 0) = true) :
    (commandPayload f code fix).getD 0 code = code := by
  have k : (fixBytes f.payload ((0, code) :: fix)).getD 0 code = code := by
    rw [fixBytes, fixBytes_first h]
    cases f.payload with
    | nil => rfl
    | cons q p => simp [setAt]
  unfold commandPayload framePayload
  generalize fixBytes f.payload ((0, code) :: fix) = q at k
  cases q with
  | nil => simp
  | cons x q => cases f.length.toNat <;> simp_all

/-- A code of the command table is no vendor test command's. -/
theorem vendorCode_named {code : Byte} (h : reservedCommand code = false) : vendorCode code = false := by
  unfold reservedCommand at h
  unfold vendorCode
  simp only [Bool.or_eq_false_iff, decide_eq_false_iff_not] at h ⊢
  omega

/-- A COMMAND frame that the port takes: the body's status and effect, after overdue sessions have ended. -/
theorem commandFrame_ready {s : State} {f : HostFrame} {code : Byte} {fix : List (Nat × Byte)} {n : Nat} {argOk : Nat → Bool}
    {body : State → List Byte → Byte × State} (h : CommandReady s f code fix n) (hn : argOk n = true)
    (hc : reservedCommand code = false := by decide) (hf : (fix.all fun x => x.1 != 0) = true := by decide) :
    commandFrame s f code fix argOk body =
      replied (body (sessionActivity s) (commandArgs f code fix)).2 f code (body (sessionActivity s) (commandArgs f code fix)).1 := by
  obtain ⟨h1, h2, h0, h3, h4, h5⟩ := h
  have hg := commandPayload_code f code hf
  unfold commandFrame
  dsimp only
  rw [h1, h2, if_neg (by decide), h0]
  unfold commandArgs at *
  generalize commandPayload f code fix = p at *
  rw [hg, vendorCode_named hc, Bool.or_false, h3, if_neg (by decide)]
  unfold vendorLocked
  rw [vendorCode_named hc, Bool.and_false, Bool.false_and, if_neg (by decide), hc, h4, h5, hn, if_neg (by decide)]
  rfl

/-- A WRITE frame that the port takes. -/
theorem writeFrame_ready {s : State} {f : HostFrame} {addr : Nat} {fix : List (Nat × Byte)}
    {body : State → Nat → List Byte → Byte × State} (h : WriteReady s f addr fix) :
    writeFrame s f addr fix body =
      answer (body (sessionActivity s) addr (framePayload f (fixBytes f.payload fix))).2 f
        (body (sessionActivity s) addr (framePayload f (fixBytes f.payload fix))).1 := by
  obtain ⟨h1, h2, h3⟩ := h
  unfold writeFrame
  dsimp only
  rw [h1, h2, if_neg (by decide), h3, if_neg (by decide)]

/-- The response begins with the status. -/
theorem replied_answered (s : State) (f : HostFrame) (code st : Byte) : answered (replied s f code st) st := by
  unfold answered replied answer respond
  dsimp only
  split <;> rfl

theorem answer_answered (s : State) (f : HostFrame) (st : Byte) : answered (answer s f st) st := by
  unfold answered answer respond
  dsimp only
  split <;> rfl

end Sys2Proof.Machine
end

