-- ==== Sys2Proof/Laws/Course.lean ====
section
/-! SUPPORT. Course frames: what an accepted frame does, and what sending one changes. -/

set_option Elab.async false -- one theorem after another: the whole compiles within its memory

namespace Sys2Proof.Machine

/-- A frame that its node takes reaches the body in the state once it is counted. -/
theorem rx_takes {s : State} {type : Byte} {r : CourseRx} {body : State → State} (hp : s.course.ports[r.port].enabled = true)
    (hu : underTest s.course.ports[r.port] = false) (hf : rxFate s type r = .accepted) (ha : addressedHere s r = true) :
    rx s type r body = body (received s type r) := by
  unfold rx
  dsimp only
  rw [hf, hp, hu, ha]
  rfl

theorem podRx_takes {s : State} {type : Byte} {r : CourseRx} {body : State → State} (h : Takes .pod s type r) :
    podRx s type r body = body (received s type r) := by
  obtain ⟨h1, h2, h3, h4, h5, -⟩ := h
  unfold podRx
  rw [if_pos h1, rx_takes h2 h3 h4 h5]

theorem headRx_takes {s : State} {type : Byte} {r : CourseRx} {body : State → State} (h : Takes .head s type r) :
    headRx s type r body = body (received s type r) := by
  obtain ⟨h1, h2, h3, h4, h5, h6⟩ := h
  unfold headRx
  rw [if_pos, rx_takes h2 h3 h4 h5]
  rw [h1, (h6 rfl).1]
  simpa using (h6 rfl).2

/-- What counting a frame changes: the counts of its port and the sequence noted. -/
theorem received_eq (s : State) (type : Byte) (r : CourseRx) :
    received s type r = { s with course := { s.course with
      ports := (received s type r).course.ports, last := (received s type r).course.last, discovered := (received s type r).course.discovered } } := by
  unfold received noteSeq countPort
  dsimp only
  split <;> rfl

/-- Only the queue of a port changes. -/
def QueueOnly (p q : Port) : Prop := q = { p with txq := q.txq }

theorem QueueOnly.refl (p : Port) : QueueOnly p p := rfl

theorem QueueOnly.trans {p q r : Port} (h : QueueOnly p q) (k : QueueOnly q r) : QueueOnly p r := by
  unfold QueueOnly at *
  rw [k, h]

/-- A frame sent stands in the queue. -/
theorem insertFrame_self (l : List CourseFrame) (f : CourseFrame) : f ∈ insertFrame l f := by
  induction l with
  | nil => exact List.mem_singleton.mpr rfl
  | cons g l ih =>
    unfold insertFrame
    split
    · exact List.mem_cons_of_mem _ ih
    · exact List.mem_cons_self

theorem insertFrame_mem {l : List CourseFrame} {f g : CourseFrame} (h : g ∈ l) : g ∈ insertFrame l f := by
  induction l with
  | nil => cases h
  | cons a l ih =>
    unfold insertFrame
    split
    · cases h with
      | head => exact List.mem_cons_self
      | tail _ h => exact List.mem_cons_of_mem _ (ih h)
    · exact List.mem_cons_of_mem _ h

/-- An element of a vector changed at one place. -/
theorem vmod_get {α : Type} {n : Nat} (v : Vector α n) (i j : Fin n) (f : α → α) : (vmod v i f)[j] = if i = j then f v[j] else v[j] := by
  unfold vmod
  by_cases h : i = j
  · subst h; simp
  · rw [if_neg h]; simp [Fin.getElem_fin, show i.val ≠ j.val from fun e => h (Fin.ext e)]

/-- Sending on a port changes its queue alone. -/
theorem sendOn_ports (s : State) (p : Fin 2) (f : CourseFrame) :
    sendOn s p f = { s with course := { s.course with ports := (sendOn s p f).course.ports } } ∧
      ∀ q : Fin 2, QueueOnly s.course.ports[q] (sendOn s p f).course.ports[q] ∧
        (∀ g ∈ s.course.ports[q].txq, g ∈ (sendOn s p f).course.ports[q].txq) := by
  unfold sendOn
  dsimp only
  split
  · refine ⟨rfl, fun q => ?_⟩
    dsimp only
    rw [vmod_get]
    split
    · exact ⟨rfl, fun g hg => insertFrame_mem hg⟩
    · exact ⟨rfl, fun g hg => hg⟩
  · exact ⟨rfl, fun q => ⟨rfl, fun g hg => hg⟩⟩

/-- Sending a frame on several ports. -/
theorem sendAll_ports (f : CourseFrame) (l : List (Fin 2)) (s : State) :
    l.foldl (fun s p => sendOn s p f) s = { s with course := { s.course with ports := (l.foldl (fun s p => sendOn s p f) s).course.ports } } ∧
      (∀ q : Fin 2, QueueOnly s.course.ports[q] (l.foldl (fun s p => sendOn s p f) s).course.ports[q] ∧
        (∀ g ∈ s.course.ports[q].txq, g ∈ (l.foldl (fun s p => sendOn s p f) s).course.ports[q].txq)) ∧
      ∀ p ∈ l, sends s p = true → f.repeated = false → f ∈ (l.foldl (fun s p => sendOn s p f) s).course.ports[p].txq := by
  induction l generalizing s with
  | nil => exact ⟨rfl, fun q => ⟨rfl, fun g hg => hg⟩, fun p hp => by cases hp⟩
  | cons a l ih =>
    rw [List.foldl_cons]
    obtain ⟨h1, h2, h3⟩ := ih (sendOn s a f)
    obtain ⟨k1, k2⟩ := sendOn_ports s a f
    refine ⟨?_, fun q => ⟨(k2 q).1.trans (h2 q).1, fun g hg => (h2 q).2 g ((k2 q).2 g hg)⟩, fun p hp hs hr => ?_⟩
    · rw [h1, k1]
    · by_cases e : p = a
      · subst e
        apply (h2 p).2
        unfold sends at hs
        unfold sendOn
        dsimp only
        rw [hr, if_pos (by simp only [Bool.and_eq_true] at hs; simp [-Fin.getElem_fin, hs.1, hs.2])]
        dsimp only
        rw [vmod_get, if_pos rfl]
        exact insertFrame_self _ _
      · cases hp with
        | head => exact absurd rfl e
        | tail _ hp =>
          apply h3 p hp _ hr
          have := (k2 p).1
          unfold QueueOnly at this
          unfold sends at hs ⊢
          rw [this]
          exact hs

/-- A frame originated: the sequence counter of its class and the queues of the ports change, and it waits on every port of the list that
sends. -/
theorem originate_ports (s : State) (ports : List (Fin 2)) (type dst : Byte) (cls : Nat) (credit : Byte) (payload : List Byte) :
    let t := originate s ports type dst cls credit payload
    t = { s with course := { s.course with ports := t.course.ports, seqs := t.course.seqs } } ∧
      (∀ q : Fin 2, QueueOnly s.course.ports[q] t.course.ports[q] ∧ ∀ g ∈ s.course.ports[q].txq, g ∈ t.course.ports[q].txq) ∧
      ∀ p ∈ ports, sends s p = true → Waits t p type dst payload := by
  intro t
  obtain ⟨h1, h2, h3⟩ := sendAll_ports (newFrame (takeSeq s cls).2 type dst cls credit (takeSeq s cls).1 payload) ports (takeSeq s cls).2
  refine ⟨?_, h2, fun p hp hs => ⟨_, h3 p hp hs rfl, rfl, rfl, rfl, rfl⟩⟩
  show originate s ports type dst cls credit payload = _
  unfold t originate
  dsimp only
  rw [h1]
  rfl

end Sys2Proof.Machine
end

