-- ==== Sys2Proof/Laws/FixedOps.lean ====
section
/-! SUPPORT. What the functions and commands of the shared operations leave alone (`State.fixed`), or, where a reset or
a write is among their effects, what `Keeps` says. -/

set_option Elab.async false -- one theorem after another: the whole compiles within its memory

namespace Sys2Proof.Machine

/-! Ops. -/

theorem tick_fixed (s : State) : (tick s).fixed = { s.fixed with clk := s.clk + 1 } := rfl
theorem tick_keeps (s : State) : Keeps s (tick s) := ⟨rfl, rfl, id, id⟩
@[simp] theorem drawFree_fixed (s : State) : (drawFree s).2.fixed = s.fixed := by simp [drawFree]
@[simp] theorem raise_fixed (s : State) (ev : Fin 32) (arg : Nat) : (raise s ev arg).fixed = s.fixed := by simp [raise]
@[simp] theorem logSummary_fixed (n : Nat) (s : State) : (logSummary n s).fixed = s.fixed := by
  induction n generalizing s with
  | zero => rfl
  | succ n ih => simp [logSummary, ih]
@[simp] theorem markBoot_fixed (s : State) : (markBoot s).fixed = s.fixed := by
  simp [markBoot]
@[simp] theorem raiseLogFull_fixed (s : State) (arg : Nat) : (raiseLogFull s arg).fixed = s.fixed := by simp [raiseLogFull]
@[simp] theorem logRing_fixed (s : State) (e : LogEntry) : (logRing s e).fixed = s.fixed := by simp [logRing]
@[simp] theorem logGeneral_fixed (s : State) (kind : Byte) (node : Byte) (code : Nat) (arg : Nat) (data : List Byte) :
    (logGeneral s kind node code arg data).fixed = s.fixed := by
  simp [logGeneral]
@[simp] theorem logRecord_fixed (s : State) (kind : Byte) (r : Record) : (logRecord s kind r).fixed = s.fixed := by simp [logRecord]
@[simp] theorem logAlarm_fixed (s : State) (kind : Byte) (node : Byte) (code : Nat) (arg : Nat) (data : List Byte) :
    (logAlarm s kind node code arg data).fixed = s.fixed := by
  simp [logAlarm]
@[simp] theorem modEntry_fixed (s : State) (v : Vcn) (f : VcnEntry → VcnEntry) : (modEntry s v f).fixed = s.fixed := by simp [modEntry]
@[simp] theorem sendOn_fixed (s : State) (p : Fin 2) (f : CourseFrame) : (sendOn s p f).fixed = s.fixed := by simp [sendOn]
@[simp] theorem takeSeq_fixed (s : State) (cls : Nat) : (takeSeq s cls).2.fixed = s.fixed := by simp [takeSeq]
@[simp] theorem originate_fixed (s : State) (ports : List (Fin 2)) (type : Byte) (dst : Byte) (cls : Nat) (credit : Byte) (payload : List Byte) :
    (originate s ports type dst cls credit payload).fixed = s.fixed := by
  simp [originate]
@[simp] theorem writePin_fixed (s : State) (pin : Fin 2) (low : Bool) : (writePin s pin low).fixed = s.fixed := by simp [writePin]
@[simp] theorem refreshPin_fixed (s : State) (pin : Fin 2) : (refreshPin s pin).fixed = s.fixed := by unfold refreshPin; (repeat' split) <;> simp
@[simp] theorem refreshAout_fixed (s : State) (n : Fin 2) : (refreshAout s n).fixed = s.fixed := by simp [refreshAout]
@[simp] theorem endHold_fixed (s : State) (n : Fin 2) : (endHold s n).fixed = s.fixed := by
  simp [endHold]
@[simp] theorem aoutsChanged_fixed (s : State) : (aoutsChanged s).fixed = s.fixed := by
  simp [aoutsChanged]
@[simp] theorem refreshOutputs_fixed (s : State) : (refreshOutputs s).fixed = s.fixed := by simp [refreshOutputs]
@[simp] theorem rorLapse_fixed (s : State) : (rorLapse s).fixed = s.fixed := by
  simp [rorLapse]
@[simp] theorem ratesAnew_fixed (s : State) : (ratesAnew s).fixed = s.fixed := by
  simp [ratesAnew]
@[simp] theorem rorEnter_fixed (s : State) (m : Mode) : (rorEnter s m).fixed = s.fixed := by
  simp [rorEnter]
@[simp] theorem railOff_fixed (s : State) : (railOff s).fixed = s.fixed := by simp [railOff]
@[simp] theorem calReject_fixed (s : State) (outcome : Byte) : (calReject s outcome).fixed = s.fixed := by unfold calReject; split <;> simp
@[simp] theorem raiseGate_fixed (s : State) (kind : Nat) (bits : Nat) : (raiseGate s kind bits).fixed = s.fixed := by simp [raiseGate]
@[simp] theorem freeRemotePort_fixed (s : State) (t : RemoteTest) : (freeRemotePort s t).fixed = s.fixed := by unfold freeRemotePort; split <;> simp
@[simp] theorem closeRingAgain_fixed (s : State) (t : RemoteTest) : (closeRingAgain s t).fixed = s.fixed := by simp [closeRingAgain]
@[simp] theorem abortRemote_fixed (s : State) : (abortRemote s).fixed = s.fixed := by unfold abortRemote; split <;> simp
@[simp] theorem stopLinkTests_fixed (s : State) : (stopLinkTests s).fixed = s.fixed := by simp [stopLinkTests]
@[simp] theorem endSessions_fixed (s : State) (bits : Nat) (kind : Option Nat) : (endSessions s bits kind).fixed = s.fixed := by
  unfold endSessions; split <;> simp
@[simp] theorem expireSessions_fixed (s : State) : (expireSessions s).fixed = s.fixed := by simp [expireSessions]
@[simp] theorem completeMode_fixed (s : State) (new : Mode) (cause : Nat) : (completeMode s new cause).fixed = s.fixed := by simp [completeMode]
@[simp] theorem endFrames_fixed (s : State) : (endFrames s).fixed = s.fixed := by simp [endFrames]
@[simp] theorem stopConversions_fixed (s : State) : (stopConversions s).fixed = s.fixed := by simp [stopConversions]
@[simp] theorem skipClasses_fixed (s : State) : (skipClasses s).fixed = s.fixed := by simp [skipClasses]
@[simp] theorem gateMere_fixed (s : State) : (gateMere s).fixed = s.fixed := by unfold gateMere; split <;> simp
@[simp] theorem staleRecords_fixed (s : State) : (staleRecords s).fixed = s.fixed := by simp [staleRecords]
@[simp] theorem skipSlot_fixed (s : State) (slot : Fin 128) : (skipSlot s slot).fixed = s.fixed := by simp [skipSlot]
@[simp] theorem dropRequests_fixed (s : State) : (dropRequests s).fixed = s.fixed := by unfold dropRequests; split <;> simp
@[simp] theorem addCause_fixed (s : State) (cause : Nat) : (addCause s cause).fixed = s.fixed := by simp [addCause]
@[simp] theorem noteGone_fixed (s : State) : (noteGone s).fixed = s.fixed := by
  simp [noteGone]
@[simp] theorem logShed_fixed (s : State) (u : Shed) (restore : Bool) (shunt : Nat) : (logShed s u restore shunt).fixed = s.fixed := by simp [logShed]
@[simp] theorem chainLimits_fixed (s : State) : (chainLimits s).fixed = s.fixed := by
  simp [chainLimits]
@[simp] theorem safeRail_fixed (s : State) : (safeRail s).fixed = s.fixed := by unfold safeRail; (repeat' split) <;> simp
@[simp] theorem stopHeaters_fixed (s : State) : (stopHeaters s).fixed = s.fixed := by simp [stopHeaters]
@[simp] theorem dropRun_fixed (s : State) : (dropRun s).fixed = s.fixed := by simp [dropRun]
@[simp] theorem stopForSafe_fixed (s : State) : (stopForSafe s).fixed = s.fixed := by simp [stopForSafe]
@[simp] theorem enterSafe_fixed (s : State) (cause : Nat) : (enterSafe s cause).fixed = s.fixed := by simp [enterSafe]
@[simp] theorem noteSeen_fixed (s : State) (code : Fin 28) : (noteSeen s code).fixed = s.fixed := by
  simp [noteSeen]
@[simp] theorem recordFault_fixed (s : State) (code : Fin 28) (arg : Nat) (evArg : Nat) (masked : Bool) :
    (recordFault s code arg evArg masked).fixed = s.fixed := by
  simp [recordFault]
@[simp] theorem declareWith_fixed (s : State) (code : Fin 28) (arg : Nat) (evArg : Nat) (masked : Bool) :
    (declareWith s code arg evArg masked).fixed = s.fixed := by
  simp [declareWith]
@[simp] theorem declare_fixed (s : State) (code : Fin 28) (arg : Nat) (masked : Bool) : (declare s code arg masked).fixed = s.fixed := by simp [declare]
@[simp] theorem declareOpen_fixed (s : State) (code : Fin 28) (masked : Bool) : (declareOpen s code masked).fixed = s.fixed := by simp [declareOpen]
@[simp] theorem noteOpen_fixed (s : State) (code : Fin 28) (masked : Bool) : (noteOpen s code masked).fixed = s.fixed := by simp [noteOpen]
@[simp] theorem settle_fixed (s t : State) : (settle s t).fixed = t.fixed := by unfold settle; split <;> simp
@[simp] theorem clearFault_fixed (s : State) (code : Fin 28) : (clearFault s code).fixed = s.fixed := by simp [clearFault]
@[simp] theorem plumbStop_fixed (s : State) : (plumbStop s).fixed = s.fixed := by simp [plumbStop]
theorem cutSeal_keeps (s : State) : Keeps s (cutSeal s) := by
  unfold cutSeal
  split
  · exact Keeps.of_fixed rfl
  · exact ⟨rfl, rfl, fun h => h, fun h => by simp [drawFree, h]⟩
theorem coreReset_keeps (s : State) : Keeps s (coreReset s) := by
  have h := (Keeps.of_fixed (endSessions_fixed s 7 none)).trans (cutSeal_keeps _)
  exact ⟨h.1, h.2.1, h.2.2.1, h.2.2.2⟩
@[simp] theorem holdRail_fixed (s : State) (limit : Nat) : (holdRail s limit).fixed = s.fixed := by simp [holdRail]
@[simp] theorem keepRail_fixed (s : State) (k : WarmKind) (limit : Nat) : (keepRail s k limit).fixed = s.fixed := by simp [keepRail]
@[simp] theorem noteWarm_fixed (s t : State) (k : WarmKind) : (noteWarm s t k).fixed = t.fixed := rfl
theorem startWarm_keeps (s : State) (k : WarmKind) (limit : Nat) : Keeps s (startWarm s k limit) := by
  unfold startWarm
  show Keeps s (coreReset _)
  exact (Keeps.of_fixed (by rw [noteWarm_fixed, keepRail_fixed])).trans (coreReset_keeps _)
@[simp] theorem clearAtPower_fixed (s : State) : (clearAtPower s).fixed = s.fixed := by simp [clearAtPower]
theorem powerReset_keeps (s : State) : Keeps s (powerReset s) := by
  have h := (coreReset_keeps s).trans (Keeps.of_fixed (clearAtPower_fixed (coreReset s)))
  unfold powerReset
  exact ⟨h.1, h.2.1, h.2.2.1, h.2.2.2⟩

/-! HostOps. -/

@[simp] theorem respond_fixed (s : State) (f : HostFrame) (st : Byte) (data : List Byte) (e : ReadEffect) :
    (respond s f st data e).fixed = s.fixed := by
  simp [respond]
@[simp] theorem answer_fixed (s : State) (f : HostFrame) (st : Byte) : (answer s f st).fixed = s.fixed := by simp [answer]
@[simp] theorem sessionActivity_fixed (s : State) : (sessionActivity s).fixed = s.fixed := by simp [sessionActivity]
@[simp] theorem noteCommand_fixed (s : State) (code : Byte) (st : Byte) : (noteCommand s code st).fixed = s.fixed := by simp [noteCommand]
theorem commandFrame_fixed (s : State) (f : HostFrame) (code : Byte) (fix : List (Nat × Byte)) (argOk : Nat → Bool)
    (body : State → List Byte → Byte × State) (h : ∀ s a, (body s a).2.fixed = s.fixed) :
    (commandFrame s f code fix argOk body).fixed = s.fixed := by
  unfold commandFrame; (repeat' split) <;> simp [h]
theorem writeFrame_fixed (s : State) (f : HostFrame) (addr : Nat) (fix : List (Nat × Byte))
    (body : State → Nat → List Byte → Byte × State) (h : ∀ s n a, (body s n a).2.fixed = s.fixed) :
    (writeFrame s f addr fix body).fixed = s.fixed := by
  unfold writeFrame; (repeat' split) <;> simp [h]

/-! SpillOps. -/

@[simp] theorem sendAlarm_fixed (s : State) : (sendAlarm s).fixed = s.fixed := by simp [sendAlarm]
@[simp] theorem chainChanged_fixed (s : State) : (chainChanged s).fixed = s.fixed := by simp [chainChanged]
@[simp] theorem ruleOutputs_fixed (s : State) (k : Nat) : (ruleOutputs s k).fixed = s.fixed := by simp [ruleOutputs]
@[simp] theorem setRule_fixed (s : State) (k : Fin 256) (new : RuleState) (first : Bool) : (setRule s k new first).fixed = s.fixed := by
  simp [setRule]
@[simp] theorem evaluateAs_fixed (code : Fin 28) (s : State) (k : Fin 256) (setm : Bool) (clrm : Bool) (value : F32) (mismatch : Bool) :
    (evaluateAs code s k setm clrm value mismatch).fixed = s.fixed := by
  simp [evaluateAs]
@[simp] theorem evaluate_fixed (s : State) (k : Fin 256) (setm : Bool) (clrm : Bool) (value : F32) (bad : List (Fin 256)) :
    (evaluate s k setm clrm value bad).fixed = s.fixed := by
  simp [evaluate]
@[simp] theorem evalRecord_fixed (s : State) (k : Fin 256) (r : Record) (bad : List (Fin 256)) : (evalRecord s k r bad).fixed = s.fixed := by
  unfold evalRecord; (repeat' split) <;> simp
@[simp] theorem accumulate_fixed (s : State) (k : Fin 256) (r : Record) (weight : Rat) : (accumulate s k r weight).fixed = s.fixed := by
  simp [accumulate]
@[simp] theorem spillRecord_fixed (s : State) (r : Record) (weight : Rat) (bad : List (Fin 256)) : (spillRecord s r weight bad).1.fixed = s.fixed := by
  simp [spillRecord]
@[simp] theorem modKinds_fixed (s : State) (kinds : List Nat) (f : Rule → Rule) : (modKinds s kinds f).fixed = s.fixed := by simp [modKinds]
@[simp] theorem spillStep_fixed (s : State) (old : Nat) : (spillStep s old).fixed = s.fixed := by simp [spillStep]
@[simp] theorem startStance_fixed (s : State) (k : Fin 256) : (startStance s k).fixed = s.fixed := by simp [startStance]
@[simp] theorem startRule_fixed (logged : Bool) (s : State) (k : Fin 256) : (startRule logged s k).fixed = s.fixed := by
  unfold startRule; simp
@[simp] theorem startRules_fixed (s : State) (logged : Bool) : (startRules s logged).fixed = s.fixed := by simp [startRules]

/-! MereCfg. -/

@[simp] theorem mereDisturbed_fixed (s : State) (cause : Byte) : (mereDisturbed s cause).fixed = s.fixed := by simp [mereDisturbed]
@[simp] theorem encEmit_fixed (s : State) (e : Fin 64) (isUp : Bool) (ev : MereEvent) : (encEmit s e isUp ev).fixed = s.fixed := by simp [encEmit]
@[simp] theorem encTake_fixed (s : State) (e : Fin 64) (v : F32) : (encTake s e v).fixed = s.fixed := by simp [encTake]
@[simp] theorem encodeRecord_fixed (s : State) (r : Record) : (encodeRecord s r).fixed = s.fixed := by simp [encodeRecord]

/-! RecordOps. -/

@[simp] theorem calCollect_fixed (s : State) (r : Record) : (calCollect s r).fixed = s.fixed := by unfold calCollect; split <;> simp
@[simp] theorem ratioNote_fixed (s : State) (n : Fin 2) : (ratioNote s n).fixed = s.fixed := by simp only [ratioNote]; split <;> simp
@[simp] theorem ratioMiss_fixed (s : State) (n : Fin 2) : (ratioMiss s n).fixed = s.fixed := by simp [ratioMiss]
@[simp] theorem skipVcn_fixed (s : State) (v : Vcn) : (skipVcn s v).fixed = s.fixed := by simp [skipVcn]
@[simp] theorem startVcn_fixed (s : State) (v : Vcn) : (startVcn s v).fixed = s.fixed := by simp [startVcn]
@[simp] theorem keepRecord_fixed (s : State) (r : Record) (bad : List (Fin 256)) : (keepRecord s r bad).fixed = s.fixed := by
  unfold keepRecord; simp
@[simp] theorem storeRecord_fixed (s : State) (r : Record) (bad : List (Fin 256)) : (storeRecord s r bad).fixed = s.fixed := by
  unfold storeRecord; (repeat' split) <;> simp
@[simp] theorem missingRecord_fixed (s : State) (v : Vcn) (e : VcnEntry) : (missingRecord s v e).2.fixed = s.fixed := by
  simp only [missingRecord]; (repeat' split) <;> simp
@[simp] theorem ownRecord_fixed (s : State) (idx : Nat) (x : F32) (raw : BitVec 32) (b : StatusBits) (bad : List (Fin 256)) : (ownRecord s idx x raw b bad).fixed = s.fixed := by
  unfold ownRecord
  show (match entryOf s (ownVcn s idx) with | none => s | some e => storeRecord s _ bad).fixed = s.fixed
  split <;> simp
@[simp] theorem emitRecord_fixed (s : State) (idx : Nat) (x : F32) (raw : BitVec 32) (b : StatusBits) (lin : List Nat) (bad : List (Fin 256)) :
    (emitRecord s idx x raw b lin bad).fixed = s.fixed := by
  simp only [emitRecord]; (repeat' split) <;> simp

/-! RailOps. -/

theorem startReset_keeps (s : State) (k : WarmKind) : Keeps s (startReset s k) := startWarm_keeps s k _
@[simp] theorem railBegin_fixed (s : State) : (railBegin s).fixed = s.fixed := by unfold railBegin; (repeat' split) <;> simp
@[simp] theorem railFollow_fixed (s : State) : (railFollow s).fixed = s.fixed := by simp [railFollow]
@[simp] theorem declareEvent_fixed (s : State) (code : Fin 28) (arg : Nat) (evArg : Nat) (masked : Bool) :
    (declareEvent s code arg evArg masked).fixed = s.fixed := by
  simp [declareEvent]
@[simp] theorem railLost_fixed (s : State) : (railLost s).fixed = s.fixed := by
  simp [railLost]
@[simp] theorem losePhase_fixed (s : State) (p : Fin 4) : (losePhase s p).fixed = s.fixed := by unfold losePhase; (repeat' split) <;> simp
@[simp] theorem spoilFilm_fixed (s : State) (n : Fin 6) : (spoilFilm s n).fixed = s.fixed := by
  simp [spoilFilm]
@[simp] theorem shedOne_fixed (s : State) (u : Shed) (shunt : Nat) : (shedOne s u shunt).fixed = s.fixed := by unfold shedOne; split <;> simp
@[simp] theorem restoreOne_fixed (s : State) (shunt : Nat) : (restoreOne s shunt).fixed = s.fixed := by unfold restoreOne; (repeat' split) <;> simp
@[simp] theorem switchStart_fixed (s : State) (w : Fin 2) : (switchStart s w).fixed = s.fixed := by simp [switchStart]
@[simp] theorem setThrottle_fixed (s : State) (n : Fin 8) : (setThrottle s n).fixed = s.fixed := by simp [setThrottle]

end Sys2Proof.Machine
end

