-- ==== Sys2Proof/Laws/FixedFront.lean ====
section
/-! SUPPORT. What the functions and commands of the rail, thermal, power and heater commands leave alone (`State.fixed`), or, where a reset or
a write is among their effects, what `Keeps` says. -/

set_option Elab.async false -- one theorem after another: the whole compiles within its memory

namespace Sys2Proof.Machine

/-! Rail. -/

@[simp] theorem execRailStart_fixed (s : State) : outFixed (execRailStart s) = some s.fixed := by simp [execRailStart]
@[simp] theorem failPhases_fixed (s : State) (o : PhaseCheckObs) : (failPhases s o).fixed = s.fixed := by simp [failPhases]
@[simp] theorem execRailPhaseCheckEnd_fixed (o : PhaseCheckObs) (s : State) : outFixed (execRailPhaseCheckEnd o s) = some s.fixed := by
  simp [execRailPhaseCheckEnd]
@[simp] theorem railUp_fixed (s : State) : (railUp s).fixed = s.fixed := by
  simp [railUp]
@[simp] theorem execRailSoftStartDone_fixed (o : RailVolts) (s : State) : outFixed (execRailSoftStartDone o s) = some s.fixed := by simp [execRailSoftStartDone]
@[simp] theorem setSwitch_fixed (s : State) (w : Fin 2) (x : SwitchState) : (setSwitch s w x).fixed = s.fixed := by
  simp [setSwitch]
@[simp] theorem execChainSwitchOn_fixed (sw : Fin 2) (o : SwitchObs) (s : State) : outFixed (execChainSwitchOn sw o s) = some s.fixed := by
  simp only [execChainSwitchOn]; (repeat' split) <;> simp
@[simp] theorem failSwitch_fixed (s : State) (sw : Fin 2) : (failSwitch s sw).fixed = s.fixed := by
  simp only [failSwitch]; (repeat' split) <;> simp
@[simp] theorem execChainSwitchFail_fixed (sw : Fin 2) (o : SwitchObs) (s : State) : outFixed (execChainSwitchFail sw o s) = some s.fixed := by
  simp only [execChainSwitchFail]; (repeat' split) <;> simp
@[simp] theorem execChainSwitchRetry_fixed (sw : Fin 2) (s : State) : outFixed (execChainSwitchRetry sw s) = some s.fixed := by
  simp [execChainSwitchRetry]
@[simp] theorem closeMeasure_fixed (s : State) (shunt : Nat) : (closeMeasure s shunt).fixed = s.fixed := by unfold closeMeasure; split <;> simp
@[simp] theorem shedTick_fixed (s : State) (cur : Nat) : (shedTick s cur).fixed = s.fixed := by
  simp only [shedTick]; (repeat' split) <;> simp
@[simp] theorem execRailShedTick_fixed (c : RailCurrents) (s : State) : outFixed (execRailShedTick c s) = some s.fixed := by
  simp only [execRailShedTick]; (repeat' split) <;> simp
@[simp] theorem execChainShedValue_fixed (c : RailCurrents) (s : State) : outFixed (execChainShedValue c s) = some s.fixed := by
  unfold execChainShedValue; split <;> simp
@[simp] theorem execRailRestore_fixed (c : RailCurrents) (s : State) : outFixed (execRailRestore c s) = some s.fixed := by
  simp only [execRailRestore]; (repeat' split) <;> simp
@[simp] theorem execPhaseOpen_fixed (phase : Fin 4) (o : LadderObs) (s : State) : outFixed (execPhaseOpen phase o s) = some s.fixed := by simp [execPhaseOpen]
@[simp] theorem execPhaseSenseFail_fixed (o : LadderObs) (s : State) : outFixed (execPhaseSenseFail o s) = some s.fixed := by
  unfold execPhaseSenseFail; (repeat' split) <;> simp
@[simp] theorem phasesReturn_fixed (s : State) (o : PhaseCheckObs) : (phasesReturn s o).fixed = s.fixed := by
  simp only [phasesReturn]; (repeat' split) <;> simp
@[simp] theorem phasesStayLost_fixed (s : State) (o : PhaseCheckObs) : (phasesStayLost s o).fixed = s.fixed := by
  simp [phasesStayLost]
@[simp] theorem execPhaseRecheck_fixed (o : PhaseCheckObs) (s : State) : outFixed (execPhaseRecheck o s) = some s.fixed := by
  simp [execPhaseRecheck]
@[simp] theorem execDropout_fixed (o : RailVolts) (s : State) : outFixed (execDropout o s) = some s.fixed := by simp [execDropout]
@[simp] theorem execHrsMismatch_fixed (o : RailVolts) (s : State) : outFixed (execHrsMismatch o s) = some s.fixed := by simp [execHrsMismatch]
@[simp] theorem execRailOvervoltage_fixed (o : RailVolts) (s : State) : outFixed (execRailOvervoltage o s) = some s.fixed := by simp [execRailOvervoltage]
@[simp] theorem execRailOvervoltageEnd_fixed (o : RailVolts) (s : State) : outFixed (execRailOvervoltageEnd o s) = some s.fixed := by simp [execRailOvervoltageEnd]
@[simp] theorem execRailHoldExpiry_fixed (s : State) : outFixed (execRailHoldExpiry s) = some s.fixed := by simp [execRailHoldExpiry]

/-! Thermal. -/

@[simp] theorem takeConversions_fixed (s : State) (readings : Vector Int 8) : (takeConversions s readings).fixed = s.fixed := by simp [takeConversions]
theorem execDieTempConversion_keeps (readings : Vector Int 8) (s : State) : OutKeeps s (execDieTempConversion readings s) := by
  unfold execDieTempConversion
  split
  · exact .next (Keeps.of_fixed rfl)
  · dsimp only
    (repeat' split) <;>
      first
        | exact .next (Keeps.of_fixed (by simp))
        | exact .next ((Keeps.of_fixed (by simp)).trans (startReset_keeps _ _))
@[simp] theorem evaluateSensors_fixed (s : State) (power : Rat) : (evaluateSensors s power).fixed = s.fixed := by simp [evaluateSensors]
@[simp] theorem zoneStep_fixed (s : State) : (zoneStep s).1.fixed = s.fixed := by simp [zoneStep]
@[simp] theorem timerTaken_fixed (s : State) : (timerTaken s).fixed = s.fixed := by
  simp [timerTaken]
@[simp] theorem evaluateZone_fixed (s : State) (power : Rat) : (evaluateZone s power).1.fixed = s.fixed := by simp [evaluateZone]
@[simp] theorem evaluateRates_fixed (s : State) (n : Fin 8) : (evaluateRates s n).fixed = s.fixed := by
  simp only [evaluateRates]; split <;> simp
@[simp] theorem execThermalEvaluation_fixed (power : Rat) (s : State) : outFixed (execThermalEvaluation power s) = some s.fixed := by
  simp [execThermalEvaluation]
@[simp] theorem brokenStep_fixed (s : State) : (brokenStep s).fixed = s.fixed := by
  simp [brokenStep]
@[simp] theorem execSensorBroken_fixed (sensor : Fin 8) (s : State) : outFixed (execSensorBroken sensor s) = some s.fixed := by
  simp [execSensorBroken]
@[simp] theorem execThrottleUp_fixed (s : State) : outFixed (execThrottleUp s) = some s.fixed := by simp [execThrottleUp]
@[simp] theorem execThrottleDown_fixed (s : State) : outFixed (execThrottleDown s) = some s.fixed := by simp [execThrottleDown]
@[simp] theorem execRorHoldEnd_fixed (s : State) : outFixed (execRorHoldEnd s) = some s.fixed := by simp [execRorHoldEnd]
@[simp] theorem execClockTrimUpdate_fixed (s : State) : outFixed (execClockTrimUpdate s) = some s.fixed := by simp [execClockTrimUpdate]

/-! Power. -/

theorem startRelease_keeps (s : State) : Keeps s (startRelease s) := by
  unfold startRelease
  dsimp only
  split <;> exact ⟨rfl, rfl, id, id⟩
theorem execSupplyRise_keeps (rail : MainSupply) (s : State) : OutKeeps s (execSupplyRise rail s) := by
  refine .next (.trans ?_ (startRelease_keeps _))
  exact ⟨rfl, rfl, id, id⟩
theorem execAoPowerOn_keeps (fromVin : Bool) (s : State) : OutKeeps s (execAoPowerOn fromVin s) := by
  unfold execAoPowerOn
  (repeat' split) <;> exact .next ⟨rfl, rfl, id, id⟩
theorem execAoReset_keeps (s : State) : OutKeeps s (execAoReset s) := by
  unfold execAoReset
  exact .next ⟨rfl, rfl, id, id⟩
@[simp] theorem vddFalls_fixed (s : State) : (vddFalls s).fixed = s.fixed := by simp [vddFalls]
theorem execVddPorAssert_keeps (rail : VddRail) (s : State) : OutKeeps s (execVddPorAssert rail s) := by
  have h (u : Supply) (t : State) (e : t.fixed = s.fixed) : Keeps s { t with supply := u } :=
    (Keeps.of_fixed e).trans ⟨rfl, rfl, id, id⟩
  have g (t : State) (k : Keeps s t) : Keeps s { (powerReset t) with spill := { (powerReset t).spill with aout := (powerReset t).spill.aout.map fun o => { o with driven := false } } } :=
    (k.trans (powerReset_keeps _)).trans ⟨rfl, rfl, id, id⟩
  cases rail
  · simp only [execVddPorAssert, if_true]
    split
    · exact .next (h _ _ (vddFalls_fixed s))
    · exact .next (g _ (h _ _ (vddFalls_fixed s)))
  · simp only [execVddPorAssert, reduceCtorEq, if_false]
    split
    · exact .next (h _ _ rfl)
    · exact .next (g _ (h _ _ rfl))
theorem leaveReset_keeps (s : State) (p : Phase) : Keeps s (leaveReset s p) := ⟨rfl, rfl, id, id⟩
theorem execVddPorRelease_keeps (rolesel : Bool) (testen : Bool) (s : State) : OutKeeps s (execVddPorRelease rolesel testen s) := by
  unfold execVddPorRelease
  (repeat' split) <;> exact .next ⟨rfl, rfl, id, id⟩
theorem execVddioFall_keeps (s : State) : OutKeeps s (execVddioFall s) := by
  unfold execVddioFall
  dsimp only
  split
  · exact .next ⟨rfl, rfl, id, id⟩
  · refine .next (.trans ?_ (startReset_keeps _ _))
    exact ⟨rfl, rfl, id, id⟩
theorem execIoResetRelease_keeps (s : State) : OutKeeps s (execIoResetRelease s) := by
  unfold execIoResetRelease
  dsimp only
  split
  · refine .next ?_
    split <;> exact ⟨rfl, rfl, id, id⟩
  · exact .next (.refl s)
theorem execVinUvlo_keeps (s : State) : OutKeeps s (execVinUvlo s) := by
  have h : Keeps s { s with supply := { s.supply with vin := false } } := ⟨rfl, rfl, id, id⟩
  unfold execVinUvlo
  dsimp only
  split
  · exact .next (.refl s)
  · split
    · exact .next h
    · refine .next (h.after ?_)
      split <;> simp
theorem execVinUvloEnd_keeps (s : State) : OutKeeps s (execVinUvloEnd s) := by
  refine .next (.after ?_ (railBegin_fixed _))
  exact ⟨rfl, rfl, id, id⟩
theorem execVddFallAoSwitch_keeps (s : State) : OutKeeps s (execVddFallAoSwitch s) := by
  unfold execVddFallAoSwitch
  split
  · exact .next (.refl s)
  · exact .next (.after (t := { s with supply := { s.supply with aoFromVin := true } }) ⟨rfl, rfl, id, id⟩ (vddFalls_fixed _))
@[simp] theorem setRatioFaults_fixed (s : State) (b : Bool) : (setRatioFaults s b).fixed = s.fixed := by simp [setRatioFaults]
theorem execVratioFall_keeps (s : State) : OutKeeps s (execVratioFall s) := by
  unfold execVratioFall
  have h : Keeps s { s with supply := { s.supply with vratio := false } } := ⟨rfl, rfl, id, id⟩
  dsimp only
  split
  · exact .next (h.after (refreshOutputs_fixed _))
  · exact .next (h.after (by rw [declareOpen_fixed, aoutsChanged_fixed, refreshOutputs_fixed, setRatioFaults_fixed]))
theorem execVratioRise_keeps (s : State) : OutKeeps s (execVratioRise s) := by
  have h : Keeps s { s with supply := { s.supply with vratio := true } } := ⟨rfl, rfl, id, id⟩
  unfold execVratioRise
  refine .next ?_
  dsimp only
  split
  · exact h.after (by rw [noteSeen_fixed, aoutsChanged_fixed, refreshOutputs_fixed, setRatioFaults_fixed])
  · exact h.after (refreshOutputs_fixed _)
theorem execSupplyExcursion_keeps (supply : Fin 5) (volts : Rat) (us : Nat) (s : State) : OutKeeps s (execSupplyExcursion supply volts us s) := by
  unfold execSupplyExcursion
  split
  · exact .next (.refl s)
  · refine .next (.after ?_ (declare_fixed _ _ _ _))
    exact ⟨rfl, rfl, id, id⟩
theorem execPinReset_keeps (s : State) : OutKeeps s (execPinReset s) := by
  unfold execPinReset
  dsimp only
  split
  · exact .next ⟨rfl, rfl, id, id⟩
  · refine .next (.trans ?_ (startReset_keeps _ _))
    exact ⟨rfl, rfl, id, id⟩
theorem execResetnRelease_keeps (s : State) : OutKeeps s (execResetnRelease s) := by
  unfold execResetnRelease
  dsimp only
  split <;> exact .next ⟨rfl, rfl, id, id⟩
theorem execResetHoldEnd_keeps (s : State) : OutKeeps s (execResetHoldEnd s) := by
  unfold execResetHoldEnd
  (repeat' split) <;> exact .next ⟨rfl, rfl, id, id⟩
theorem watchdogReset_keeps (s : State) : Keeps s (watchdogReset s) := by
  unfold watchdogReset
  exact (Keeps.of_fixed (by simp)).trans (startReset_keeps _ _)
theorem execWatchdogExpiry_keeps (s : State) : OutKeeps s (execWatchdogExpiry s) := by
  unfold execWatchdogExpiry
  refine .next ?_
  split
  · exact watchdogReset_keeps s
  · exact Keeps.of_fixed rfl
theorem execWatchdogService_keeps (word : Byte) (s : State) : OutKeeps s (execWatchdogService word s) := by
  unfold execWatchdogService
  (repeat' split) <;> first | exact .next (Keeps.of_fixed rfl) | exact .next (watchdogReset_keeps s)
theorem execFootingLimit_keeps (s : State) : OutKeeps s (execFootingLimit s) := by
  unfold execFootingLimit
  refine .next ?_
  split
  · exact watchdogReset_keeps s
  · exact Keeps.of_fixed rfl
theorem resetAfterResponse_keeps (s : State) : Keeps s (resetAfterResponse s) := startReset_keeps s .command
theorem execReset_keeps (f : HostFrame) (s : State) : OutKeeps s (execReset f s) := by
  unfold execReset
  have h : (commandFrame s f 0x02 [] (argCount 0) fun s _ => if !hasCal s then (stLocked, s) else (stOk, s)).fixed = s.fixed :=
    commandFrame_fixed _ _ _ _ _ _ (by intro s a; simp)
  refine .next ?_
  split
  · exact (Keeps.of_fixed h).trans (resetAfterResponse_keeps _)
  · exact Keeps.of_fixed h

/-! Mox. -/

@[simp] theorem execHeaterLoopTick_fixed (ch : Fin 6) (pulses : List HeaterPulse) (s : State) :
    outFixed (execHeaterLoopTick ch pulses s) = some s.fixed := by
  simp [execHeaterLoopTick]
@[simp] theorem execProfileStepEnd_fixed (ch : Fin 6) (s : State) : outFixed (execProfileStepEnd ch s) = some s.fixed := by simp [execProfileStepEnd]
@[simp] theorem execHeaterFault_fixed (ch : Fin 6) (pulses : List HeaterPulse) (s : State) :
    outFixed (execHeaterFault ch pulses s) = some s.fixed := by
  simp only [execHeaterFault]; (repeat' split) <;> simp
@[simp] theorem heaterCommand_fixed (s : State) (f : HostFrame) (action : Byte) (body : State → Fin 6 → List Byte → State)
    (h : ∀ s n a, (body s n a).fixed = s.fixed) : (heaterCommand s f action body).fixed = s.fixed := by
  unfold heaterCommand
  exact commandFrame_fixed _ _ _ _ _ _ (by intro s a; dsimp only; (repeat' split) <;> simp [h])
@[simp] theorem execHeaterSetTarget_fixed (f : HostFrame) (s : State) : outFixed (execHeaterSetTarget f s) = some s.fixed := by
  simp only [execHeaterSetTarget, outFixed_next]; exact congrArg some (commandFrame_fixed _ _ _ _ _ _ (by intro s a; (repeat' split) <;> simp))
@[simp] theorem restartProfile_fixed (s : State) (n : Fin 6) : (restartProfile s n).fixed = s.fixed := by simp [restartProfile]
@[simp] theorem execHeaterResume_fixed (f : HostFrame) (s : State) : outFixed (execHeaterResume f s) = some s.fixed := by simp [execHeaterResume]
@[simp] theorem execHeaterOff_fixed (f : HostFrame) (s : State) : outFixed (execHeaterOff f s) = some s.fixed := by
  simp only [execHeaterOff, outFixed_next]; exact congrArg some (commandFrame_fixed _ _ _ _ _ _ (by intro s a; (repeat' split) <;> simp))
@[simp] theorem dropHeaterFault_fixed (s : State) (n : Fin 6) : (dropHeaterFault s n).fixed = s.fixed := by
  simp only [dropHeaterFault]; (repeat' split) <;> simp
@[simp] theorem execHeaterClearFault_fixed (f : HostFrame) (s : State) : outFixed (execHeaterClearFault f s) = some s.fixed := by
  simp [execHeaterClearFault]

/-! WeirOps. -/

@[simp] theorem weirEnd_fixed (s : State) (w : Fin 23) (div : Nat) (o : WeirObs) : (weirEnd s w div o).1.fixed = s.fixed := by simp [weirEnd]
@[simp] theorem weirTurn_fixed (s : State) (w : Fin 23) (range : Fin 4) : (weirTurn s w range).fixed = s.fixed := by simp [weirTurn]
@[simp] theorem weirStart_fixed (s : State) (w : Fin 23) : (weirStart s w).fixed = s.fixed := by simp [weirStart]
@[simp] theorem weirAfterStep_fixed (s : State) (w : Fin 23) : (weirAfterStep s w).fixed = s.fixed := by simp [weirAfterStep]
@[simp] theorem beginVisit_fixed (s : State) (w : Fin 23) : (beginVisit s w).fixed = s.fixed := by simp [beginVisit]
@[simp] theorem visitPassed_fixed (s : State) (w : Fin 23) : (visitPassed s w).fixed = s.fixed := by simp [visitPassed]
@[simp] theorem endVisit_fixed (s : State) (w : Fin 23) : (endVisit s w).fixed = s.fixed := by simp only [endVisit]; (repeat' split) <;> simp
@[simp] theorem badPath_fixed (s : State) (w : Fin 23) : (badPath s w).fixed = s.fixed := by simp [badPath]
@[simp] theorem shadowMismatch_fixed (s : State) (w : Fin 23) : (shadowMismatch s w).fixed = s.fixed := by
  simp only [shadowMismatch]; (repeat' split) <;> simp
@[simp] theorem shadowCompare_fixed (s : State) (w : Fin 23) (r : Fin 4) (charge : Rat) (ovr : Bool) (o : Option ShadowObs) :
    (shadowCompare s w r charge ovr o).1.fixed = s.fixed := by
  unfold shadowCompare; split <;> simp
@[simp] theorem shadowTurn_fixed (s : State) (w : Fin 23) : (shadowTurn s w).fixed = s.fixed := by simp [shadowTurn]
@[simp] theorem switchRef_fixed (s : State) : (switchRef s).fixed = s.fixed := by simp [switchRef]
@[simp] theorem turnVcn_fixed (s : State) (idx : Nat) : (turnVcn s idx).fixed = s.fixed := by simp [turnVcn]

end Sys2Proof.Machine
end

