-- ==== Sys2Proof/Laws/FixedCompute.lean ====
section
/-! SUPPORT. What the functions and commands of the Mere, calibration, Spillway, frame and electrode commands leave alone (`State.fixed`), or, where a reset or
a write is among their effects, what `Keeps` says. -/

set_option Elab.async false -- one theorem after another: the whole compiles within its memory

namespace Sys2Proof.Machine

/-! Mere. -/

@[simp] theorem setNeuron_fixed (s : State) (t : Fin 8) (n : Nat) (x : Neuron) : (setNeuron s t n x).fixed = s.fixed := by simp [setNeuron]
@[simp] theorem modTarn_fixed (s : State) (t : Fin 8) (f : Tarn → Tarn) : (modTarn s t f).fixed = s.fixed := by simp [modTarn]
@[simp] theorem dropWake_fixed (s : State) (t : Fin 8) (n : Nat) : (dropWake s t n).fixed = s.fixed := by simp [dropWake]
@[simp] theorem queueWake_fixed (s : State) (t : Fin 8) (n : Nat) (due : BitVec 32) : (queueWake s t n due).fixed = s.fixed := by
  simp only [queueWake]; (repeat' split) <;> simp
@[simp] theorem countSpike_fixed (s : State) (id : Nat) (t : BitVec 32) : (countSpike s id t).fixed = s.fixed := by simp [countSpike]
@[simp] theorem loseNeuron_fixed (s : State) (t : Fin 8) (n : Nat) : (loseNeuron s t n).fixed = s.fixed := by
  simp [loseNeuron]
@[simp] theorem loseDest_fixed (s : State) (t : Fin 8) (n : Nat) (e : Nat) : (loseDest s t n e).fixed = s.fixed := by
  simp [loseDest]
@[simp] theorem loseSynapse_fixed (s : State) (t : Fin 8) (w : Nat) : (loseSynapse s t w).fixed = s.fixed := by
  simp [loseSynapse]
@[simp] theorem applyUpdate_fixed (s : State) (t : Fin 8) (n : Nat) (e : MereEvent) : (applyUpdate s t n e).fixed = s.fixed := by
  unfold applyUpdate
  dsimp only
  split <;> simp
@[simp] theorem endLag_fixed (s : State) (t : Fin 8) : (endLag s t).fixed = s.fixed := by
  unfold endLag; split <;> simp
@[simp] theorem noteLag_fixed (s : State) (t : Fin 8) (lags : Bool) : (noteLag s t lags).fixed = s.fixed := by simp [noteLag]
@[simp] theorem countApplied_fixed (s : State) (t : Fin 8) : (countApplied s t).fixed = s.fixed := by simp [countApplied]
@[simp] theorem eventDone_fixed (s : State) (t : Fin 8) : (eventDone s t).fixed = s.fixed := by
  simp only [eventDone]; (repeat' split) <;> simp
@[simp] theorem noteEcc_fixed (s : State) (err : EccObs) : (noteEcc s err).fixed = s.fixed := by
  cases err
  · rfl
  · rfl
  · simp [noteEcc]
@[simp] theorem readNeuron_fixed (s : State) (t : Fin 8) (n : Nat) (err : EccObs) : (readNeuron s t n err).fixed = s.fixed := by
  cases err with
  | clean => rfl
  | single => exact noteEcc_fixed s _
  | double p =>
    cases p with
    | neuron t' n' =>
      show (if t' = t ∧ n'.val = n then loseNeuron (noteEcc s (.double (.neuron t' n'))) t n else s).fixed = s.fixed
      split
      · exact (loseNeuron_fixed _ _ _).trans (noteEcc_fixed _ _)
      · rfl
    | _ => rfl
@[simp] theorem execMereEventApply_fixed (tarn : Fin 8) (err : EccObs) (s : State) : outFixed (execMereEventApply tarn err s) = some s.fixed := by
  simp only [execMereEventApply]; (repeat' split) <;> simp
@[simp] theorem fifoPut_fixed (s : State) (t : Fin 8) (e : MereEvent) : (fifoPut s t e).fixed = s.fixed := by simp [fifoPut]
@[simp] theorem execWakeDue_fixed (tarn : Fin 8) (s : State) : outFixed (execWakeDue tarn s) = some s.fixed := by unfold execWakeDue; split <;> simp
@[simp] theorem grantTo_fixed (s : State) (target : Fin 8) (src : Nat) (e : MereEvent) : (grantTo s target src e).fixed = s.fixed := by simp [grantTo]
@[simp] theorem readSynapses_fixed (s : State) (t : Fin 8) (err : EccObs) : (readSynapses s t err).fixed = s.fixed := by
  unfold readSynapses
  split
  · rfl
  · simp
  · simp
  · rfl
@[simp] theorem emitFront_fixed (s : State) (tarn : Fin 8) : (emitFront s tarn).fixed = s.fixed := by
  simp only [emitFront]; (repeat' split) <;> simp
@[simp] theorem execSpikeEmit_fixed (tarn : Fin 8) (err : EccObs) (s : State) : outFixed (execSpikeEmit tarn err s) = some s.fixed := by
  unfold execSpikeEmit; (repeat' split) <;> simp
@[simp] theorem execEncoderSlotDrain_fixed (target : Fin 8) (s : State) : outFixed (execEncoderSlotDrain target s) = some s.fixed := by
  unfold execEncoderSlotDrain; (repeat' split) <;> simp
@[simp] theorem classRecord_fixed (s : State) (c : Fin 64) (e : VcnEntry) (late : Bool) : (classRecord s c e late).1.fixed = s.fixed := by
  simp [classRecord]
@[simp] theorem classEpisode_fixed (s : State) : (classEpisode s).fixed = s.fixed := by simp [classEpisode]
@[simp] theorem classChanged_fixed (s : State) (c : Nat) : (classChanged s c).fixed = s.fixed := by
  simp only [classChanged]; (repeat' split) <;> simp
@[simp] theorem writeClass_fixed (cls : Fin 64) (atLimit : Bool) (bad : List (Fin 256)) (s : State) :
    (writeClass cls atLimit bad s).fixed = s.fixed := by
  simp only [writeClass]; (repeat' split) <;> simp
@[simp] theorem execClassRecordWrite_fixed (cls : Fin 64) (bad : List (Fin 256)) (s : State) :
    outFixed (execClassRecordWrite cls bad s) = some s.fixed := by
  simp only [execClassRecordWrite]; split <;> simp
@[simp] theorem clearClasses_fixed (s : State) (forget : Bool) : (clearClasses s forget).fixed = s.fixed := by simp [clearClasses]
@[simp] theorem startClasses_fixed (s : State) : (startClasses s).fixed = s.fixed := by simp [startClasses]
@[simp] theorem ungateMere_fixed (s : State) : (ungateMere s).fixed = s.fixed := by unfold ungateMere; split <;> simp
@[simp] theorem clearTarns_fixed (s : State) : (clearTarns s).fixed = s.fixed := by simp [clearTarns]
@[simp] theorem dropClassFrames_fixed (s : State) : (dropClassFrames s).fixed = s.fixed := by simp [dropClassFrames]
@[simp] theorem dropAsserted_fixed (s : State) : (dropAsserted s).fixed = s.fixed := by
  refine foldl_fixed _ (fun s c => ?_) _ _
  split <;> simp
@[simp] theorem endLags_fixed (s : State) : (endLags s).fixed = s.fixed := foldl_fixed _ (fun s t => endLag_fixed s t) _ _
@[simp] theorem execMereStall_fixed (tarn : Fin 8) (s : State) : outFixed (execMereStall tarn s) = some s.fixed := by simp [execMereStall]
@[simp] theorem stepMere_fixed (s : State) (d : Int) : (stepMere s d).fixed = s.fixed := by simp [stepMere]
@[simp] theorem execProbeSnapshot_fixed (s : State) : outFixed (execProbeSnapshot s) = some s.fixed := by simp [execProbeSnapshot]

/-! Calibration. -/

@[simp] theorem calNote_fixed (s : State) (k : CalKind) (v : Vcn) : (calNote s k v).fixed = s.fixed := by simp [calNote]
@[simp] theorem calStart_fixed (s : State) (k : CalKind) (v : Vcn) (ref : F32) (late : Bool) : (calStart s k v ref late).fixed = s.fixed := by
  simp [calStart]
@[simp] theorem renderBegin_fixed (s : State) (l : List RenderEntry) : (renderBegin s l).fixed = s.fixed := by simp [renderBegin]
@[simp] theorem logCal_fixed (s : State) (v : Vcn) (outcome : Byte) (mLast : F32) : (logCal s v outcome mLast).fixed = s.fixed := by simp [logCal]
@[simp] theorem holdZero_fixed (s : State) (c : CalRun) (yz : F32) : (holdZero s c yz).fixed = s.fixed := by
  simp only [holdZero]; (repeat' split) <;> simp
@[simp] theorem execCalRunEnd_fixed (s : State) : outFixed (execCalRunEnd s) = some s.fixed := by unfold execCalRunEnd; (repeat' split) <;> simp
@[simp] theorem calCommand_fixed (s : State) (f : HostFrame) (k : CalKind) (body : State → Vcn → F32 → State)
    (h : ∀ s v r, (body s v r).fixed = s.fixed) : (calCommand s f k body).fixed = s.fixed := by
  unfold calCommand
  exact commandFrame_fixed _ _ _ _ _ _ (by intro s a; dsimp only; (repeat' split) <;> simp [h])
@[simp] theorem execCalZero_fixed (f : HostFrame) (s : State) : outFixed (execCalZero f s) = some s.fixed := by simp [execCalZero]
@[simp] theorem execCalSpan_fixed (f : HostFrame) (s : State) : outFixed (execCalSpan f s) = some s.fixed := by simp [execCalSpan]
@[simp] theorem execCalTwoPointFirst_fixed (f : HostFrame) (s : State) : outFixed (execCalTwoPointFirst f s) = some s.fixed := by
  simp [execCalTwoPointFirst]
@[simp] theorem execCalTwoPointSecond_fixed (f : HostFrame) (s : State) : outFixed (execCalTwoPointSecond f s) = some s.fixed := by
  simp [execCalTwoPointSecond]
@[simp] theorem execCalVerifyZero_fixed (f : HostFrame) (s : State) : outFixed (execCalVerifyZero f s) = some s.fixed := by simp [execCalVerifyZero]
@[simp] theorem execCalClear_fixed (f : HostFrame) (s : State) : outFixed (execCalClear f s) = some s.fixed := by simp [execCalClear]
@[simp] theorem execCalAbort_fixed (f : HostFrame) (s : State) : outFixed (execCalAbort f s) = some s.fixed := by
  simp only [execCalAbort, outFixed_next]; exact congrArg some (commandFrame_fixed _ _ _ _ _ _ (by intro s a; simp))
@[simp] theorem execPendingZeroExpiry_fixed (s : State) : outFixed (execPendingZeroExpiry s) = some s.fixed := by
  unfold execPendingZeroExpiry; split <;> simp
@[simp] theorem setStage_fixed (s : State) (g : RenderStage) : (setStage s g).fixed = s.fixed := rfl
@[simp] theorem renderFail_fixed (s : State) : (renderFail s).fixed = s.fixed := by simp [renderFail]
/-- A write to the flash on the way to a state. -/
theorem Keeps.flash {s t : State} {a : Nat} {b : List Byte} (h : t.fixed = { s with flash := flashWrite s.flash a b }.fixed) : Keeps s t := by
  refine .after (t := { s with flash := flashWrite s.flash a b }) ⟨rfl, rfl, flashWrite_canonical rfl, id⟩ h
theorem execRenderEraseComplete_keeps (s : State) : OutKeeps s (execRenderEraseComplete s) := by
  unfold execRenderEraseComplete
  split
  · refine .next ?_
    split
    · exact .flash (renderFail_fixed _)
    · exact .flash (setStage_fixed _ _)
  · exact .next (.flash (setStage_fixed _ _))
  · exact .next (.refl s)
theorem execRenderPageProgramComplete_keeps (s : State) : OutKeeps s (execRenderPageProgramComplete s) := by
  unfold execRenderPageProgramComplete
  split
  · refine .next ?_
    split
    · exact .flash (renderFail_fixed _)
    · exact .flash (setStage_fixed _ _)
  · exact .next (.refl s)
@[simp] theorem renderInstall_fixed (s : State) (c : RenderCopy) (v : Vcn) : (renderInstall s c v).fixed = s.fixed := by simp [renderInstall]
theorem heldSector_keeps (s : State) (diff : List (Nat × Byte)) : Keeps s (heldSector s diff) := by
  unfold heldSector
  induction diff generalizing s with
  | nil => exact .refl s
  | cons d l ih =>
    rw [List.foldl_cons]
    split
    · exact .trans (t := { s with flash := flashWrite s.flash (renderOffset s s.cal.sector + d.1) [d.2] })
        ⟨rfl, rfl, flashWrite_canonical rfl, id⟩ (ih { s with flash := flashWrite s.flash (renderOffset s s.cal.sector + d.1) [d.2] })
    · exact ih s
theorem execRenderReadbackComplete_keeps (diff : List (Nat × Byte)) (s : State) : OutKeeps s (execRenderReadbackComplete diff s) := by
  unfold execRenderReadbackComplete
  split
  · exact .next (.refl s)
  · dsimp only
    split
    · exact .next ((heldSector_keeps s diff).after (by split <;> simp))
    · exact .next ((heldSector_keeps s diff).after (renderFail_fixed _))
@[simp] theorem execRenderWriteTimeout_fixed (s : State) : outFixed (execRenderWriteTimeout s) = some s.fixed := by
  unfold execRenderWriteTimeout; (repeat' split) <;> simp
/-! Spillway. -/

@[simp] theorem putWindow_fixed (s : State) (w : Fin 16) (l : List (Rat × Rat)) : (putWindow s w l).fixed = s.fixed := by
  simp [putWindow]
@[simp] theorem execFastPathEvaluation_fixed (rule : Fin 256) (packets : List FastPacket) (mismatch : Bool) (s : State) :
    outFixed (execFastPathEvaluation rule packets mismatch s) = some s.fixed := by
  simp only [execFastPathEvaluation]; (repeat' split) <;> simp
@[simp] theorem evalRate_fixed (k : Nat) (bad : List (Fin 256)) (s : State) (i : Fin 256) : (evalRate k bad s i).fixed = s.fixed := by
  unfold evalRate; (repeat' split) <;> simp
@[simp] theorem execRateEvaluation_fixed (bad : List (Fin 256)) (s : State) : outFixed (execRateEvaluation bad s) = some s.fixed := by
  simp [execRateEvaluation]
@[simp] theorem evalBuckets_fixed (bad : List (Fin 256)) (s : State) (k : Fin 256) : (evalBuckets bad s k).fixed = s.fixed := by
  simp only [evalBuckets]; (repeat' split) <;> simp
@[simp] theorem execPlumbMinuteEnd_fixed (bad : List (Fin 256)) (s : State) : outFixed (execPlumbMinuteEnd bad s) = some s.fixed := by
  simp [execPlumbMinuteEnd]
@[simp] theorem execRuleInvalidTimeout_fixed (rule : Fin 256) (s : State) : outFixed (execRuleInvalidTimeout rule s) = some s.fixed := by
  simp [execRuleInvalidTimeout]
@[simp] theorem acknowledge_fixed (s : State) (k : Fin 256) : (acknowledge s k).fixed = s.fixed := by unfold acknowledge; split <;> simp
@[simp] theorem execAcknowledgeRule_fixed (f : HostFrame) (s : State) : outFixed (execAcknowledgeRule f s) = some s.fixed := by
  simp only [execAcknowledgeRule, outFixed_next]; exact congrArg some (commandFrame_fixed _ _ _ _ _ _ (by intro s a; (repeat' split) <;> simp))
@[simp] theorem execRatioSlewTick_fixed (out : Fin 2) (s : State) : outFixed (execRatioSlewTick out s) = some s.fixed := by simp [execRatioSlewTick]
@[simp] theorem execRatioReadback_fixed (out : Fin 2) (code : BitVec 16) (s : State) : outFixed (execRatioReadback out code s) = some s.fixed := by
  simp [execRatioReadback]
@[simp] theorem execAlarmPinReadback_fixed (pin : AlarmPin) (low : Bool) (s : State) : outFixed (execAlarmPinReadback pin low s) = some s.fixed := by
  simp [execAlarmPinReadback]

/-! Frames. -/

@[simp] theorem toneFeed_fixed (s : State) (w : Fin 16) (r : Fin 4) (ovr : Bool) (l : List TonePacket) : (toneFeed s w r ovr l).fixed = s.fixed := by
  simp [toneFeed]
@[simp] theorem drawF32_fixed (s : State) : (drawF32 s).2.fixed = s.fixed := by
  simp [drawF32]
@[simp] theorem toneResult_fixed (s : State) (ch : Fin 8) : (toneResult s ch).1.fixed = s.fixed := by simp [toneResult]
@[simp] theorem toneOpen_fixed (s : State) (ch : Fin 8) (isOpen : Bool) : (toneOpen s ch isOpen).fixed = s.fixed := by simp [toneOpen]
@[simp] theorem toneBands_fixed (s : State) (ch : Fin 8) (mag : Bool) (phase : Bool) : (toneBands s ch mag phase).fixed = s.fixed := by
  simp [toneBands]
@[simp] theorem toneNext_fixed (s : State) (ch : Fin 8) : (toneNext s ch).fixed = s.fixed := by simp [toneNext]
@[simp] theorem toneClose_fixed (s : State) (ch : Fin 8) : (toneClose s ch).1.fixed = s.fixed := by
  simp only [toneClose]; (repeat' split) <;> simp
@[simp] theorem toneFinish_fixed (s : State) (ch : Fin 8) (e : ToneEnd) : (toneFinish s ch e).fixed = s.fixed := by
  simp [toneFinish]
@[simp] theorem toneTurn_fixed (s : State) (ch : Fin 8) (dropped : Bool) (e : Option ToneEnd) : (toneTurn s ch dropped e).fixed = s.fixed := by
  simp only [toneTurn]; (repeat' split) <;> simp
@[simp] theorem electrodeRecord_fixed (s : State) (w : Fin 16) (e : WeirEnd) (shadowed : Bool) (bad : Bool) (o : BoundaryObs) :
    (electrodeRecord s w e shadowed bad o).fixed = s.fixed := by
  simp [electrodeRecord]
@[simp] theorem electrodeTurn_fixed (s : State) (w : Fin 16) (t : PathTurn) (e : Option ToneEnd) : (electrodeTurn s w t e).fixed = s.fixed := by
  simp only [electrodeTurn]; (repeat' split) <;> simp
@[simp] theorem burnTurn_fixed (s : State) (i : BurnInput) : (burnTurn s i).fixed = s.fixed := by simp [burnTurn]
@[simp] theorem filmValue_fixed (s : State) (n : Fin 6) (r : Rat) : (filmValue s n r).1.fixed = s.fixed := by unfold filmValue; (repeat' split) <;> simp
@[simp] theorem filmRecord_fixed (s : State) (n : Fin 6) (e : WeirEnd) (shadowed : Bool) (bad : Bool) (o : BoundaryObs) :
    (filmRecord s n e shadowed bad o).fixed = s.fixed := by
  unfold filmRecord; split <;> simp
@[simp] theorem heaterRecord_fixed (s : State) (n : Fin 6) (o : BoundaryObs) : (heaterRecord s n o).fixed = s.fixed := by simp [heaterRecord]
@[simp] theorem moxBoundary_fixed (s : State) (n : Fin 6) : (moxBoundary s n).fixed = s.fixed := by simp [moxBoundary]
@[simp] theorem filmTurn_fixed (s : State) (n : Fin 6) (t : PathTurn) : (filmTurn s n t).fixed = s.fixed := by
  simp only [filmTurn]; (repeat' split) <;> simp
theorem auxValue_fixed {s : State} {n : Fin 4} {c : AuxConv} {p : State × F32} (h : auxValue s n c = some p) : p.1.fixed = s.fixed := by
  unfold auxValue at h
  split at h
  · obtain ⟨e, -, rfl⟩ := Option.map_eq_some_iff.1 h; simp
  · obtain ⟨e, -, rfl⟩ := Option.map_eq_some_iff.1 h; rfl
  · cases h; rfl
@[simp] theorem auxRecord_fixed (s : State) (n : Fin 4) (o : BoundaryObs) : (auxRecord s n o).fixed = s.fixed := by
  unfold auxRecord
  split
  · simp
  · split
    · simp
    · rename_i h; simp [auxValue_fixed h]
@[simp] theorem auxCompliance_fixed (s : State) (hit : Bool) : (auxCompliance s hit).fixed = s.fixed := by
  unfold auxCompliance; split <;> simp
@[simp] theorem auxPathTurn_fixed (s : State) (o : BoundaryObs) (t : PathTurn) : (auxPathTurn s o t).fixed = s.fixed := by
  simp only [auxPathTurn]; (repeat' split) <;> simp
@[simp] theorem readyMeans_fixed (s : State) : (readyMeans s).fixed = s.fixed := by
  have h (s : State) (l : List (Fin 8)) (f : State → Fin 8 → State) (k : ∀ s i, (f s i).fixed = s.fixed) (g : State → Thermal) :
      { (l.foldl f s) with thermal := g (l.foldl f s) }.fixed = s.fixed := by
    rw [fixed_mk, fixed_fold]
    exact foldl_fixed f k l s
  unfold readyMeans
  dsimp only
  split
  · refine h s _ _ (fun s i => ?_) fun x => { x.thermal with frameN := 1 }
    rw [fixed_mk, fixed_fold]
    exact drawFree_fixed s
  · rfl
@[simp] theorem tempRecord_fixed (o : BoundaryObs) (s : State) (i : Fin 8) : (tempRecord o s i).fixed = s.fixed := by simp [tempRecord]
@[simp] theorem supplyRecord_fixed (o : BoundaryObs) (s : State) (i : Fin 16) : (supplyRecord o s i).fixed = s.fixed := by simp [supplyRecord]
@[simp] theorem systemEvent_fixed (s : State) : (systemEvent s).fixed = s.fixed := by simp [systemEvent]
@[simp] theorem noteSystemFrame_fixed (s : State) : (noteSystemFrame s).fixed = s.fixed := by unfold noteSystemFrame; split <;> simp
@[simp] theorem turnSystem_fixed (s : State) : (turnSystem s).fixed = s.fixed := by simp [turnSystem]
@[simp] theorem foldl_fst_fixed {α β} (f : State × β → α → State × β) (h : ∀ a x, (f a x).1.fixed = a.1.fixed) (l : List α) (a : State × β) :
    (l.foldl f a).1.fixed = a.1.fixed := by
  induction l generalizing a with
  | nil => rfl
  | cons x l ih => simp [ih, h]
theorem latchPath_fixed (o : BoundaryObs) (a : State × Vector PathTurn 23) (w : Fin 23) : (latchPath o a w).1.fixed = a.1.fixed := by
  unfold latchPath
  dsimp only
  (repeat' split) <;> simp
theorem latchTone_fixed (v : Vector PathTurn 23) (a : State × Vector (Option ToneEnd) 8) (ch : Fin 8) : (latchTone v a ch).1.fixed = a.1.fixed := by
  unfold latchTone
  dsimp only
  (repeat' split) <;> simp
@[simp] theorem latchAll_fixed (s : State) (o : BoundaryObs) : (latchAll s o).1.fixed = s.fixed := by
  simp only [latchAll]
  split <;> simp [foldl_fst_fixed _ (latchPath_fixed o), foldl_fst_fixed _ (latchTone_fixed _)]
@[simp] theorem skipOwn_fixed (s : State) (idx : Nat) : (skipOwn s idx).fixed = s.fixed := by simp [skipOwn]
@[simp] theorem indexRecord_fixed (o : BoundaryObs) (g : Ending) (s : State) (i : Nat) : (indexRecord o g s i).fixed = s.fixed := by
  simp only [indexRecord]; (repeat' split) <;> simp
@[simp] theorem boundaryRecords_fixed (o : BoundaryObs) (g : Ending) (s : State) : (boundaryRecords o g s).fixed = s.fixed := by
  simp [boundaryRecords]
@[simp] theorem nodeRecords_fixed (s : State) (m : SupplyObs) : (nodeRecords s m).fixed = s.fixed := by simp [nodeRecords]
@[simp] theorem pathTurn_fixed (o : BoundaryObs) (g : Ending) (s : State) (w : Fin 23) : (pathTurn o g s w).fixed = s.fixed := by
  simp only [pathTurn]; (repeat' split) <;> simp
@[simp] theorem ownTurn_fixed (g : SystemTurn) (s : State) : (ownTurn g s).fixed = s.fixed := by
  cases g
  · rfl
  · exact turnSystem_fixed s
  · exact turnSystem_fixed s
  · exact (turnSystem_fixed _).trans ((systemEvent_fixed _).trans (noteSystemFrame_fixed s))
@[simp] theorem episodeTurn_fixed (s : State) : (episodeTurn s).fixed = s.fixed := by
  unfold episodeTurn; split <;> simp
@[simp] theorem execFrameBoundary_fixed (o : BoundaryObs) (s : State) : outFixed (execFrameBoundary o s) = some s.fixed := by
  simp [execFrameBoundary]
@[simp] theorem execHousekeepingFrame_fixed (m : SupplyObs) (s : State) : outFixed (execHousekeepingFrame m s) = some s.fixed := by
  unfold execHousekeepingFrame; (repeat' split) <;> simp
/-! Ec. -/

@[simp] theorem execColdStartSwitchOpen_fixed (ch : Fin 8) (s : State) : outFixed (execColdStartSwitchOpen ch s) = some s.fixed := by
  simp [execColdStartSwitchOpen]
@[simp] theorem execBiasSlewStep_fixed (ch : Fin 8) (s : State) : outFixed (execBiasSlewStep ch s) = some s.fixed := by
  simp only [execBiasSlewStep]; (repeat' split) <;> simp
@[simp] theorem execShortSwitchClose_fixed (ch : Fin 8) (s : State) : outFixed (execShortSwitchClose ch s) = some s.fixed := by
  simp [execShortSwitchClose]
@[simp] theorem execPotentiostatDisable_fixed (ch : Fin 8) (s : State) : outFixed (execPotentiostatDisable ch s) = some s.fixed := by
  simp [execPotentiostatDisable]
@[simp] theorem execWarmupExpiry_fixed (ch : WarmChan) (s : State) : outFixed (execWarmupExpiry ch s) = some s.fixed := by
  unfold execWarmupExpiry; split <;> simp
@[simp] theorem execComplianceEnter_fixed (ch : Fin 8) (o : CeObs) (s : State) : outFixed (execComplianceEnter ch o s) = some s.fixed := by
  simp [execComplianceEnter]
@[simp] theorem execComplianceExit_fixed (ch : Fin 8) (o : CeObs) (s : State) : outFixed (execComplianceExit ch o s) = some s.fixed := by simp [execComplianceExit]
@[simp] theorem setBias_fixed (s : State) (n : Fin 8) (target : Int) (rate : Nat) : (setBias s n target rate).fixed = s.fixed := by simp [setBias]
@[simp] theorem execBias_fixed (f : HostFrame) (s : State) : outFixed (execBias f s) = some s.fixed := by
  simp only [execBias, outFixed_next]; exact congrArg some (commandFrame_fixed _ _ _ _ _ _ (by intro s a; (repeat' split) <;> simp))
@[simp] theorem startSweep_fixed (late : Bool) (s : State) (n : Fin 8) : (startSweep late s n).fixed = s.fixed := by simp [startSweep]
@[simp] theorem execImpedanceSweep_fixed (f : HostFrame) (s : State) : outFixed (execImpedanceSweep f s) = some s.fixed := by
  simp only [execImpedanceSweep, outFixed_next]; exact congrArg some (commandFrame_fixed _ _ _ _ _ _ (by intro s a; simp))
@[simp] theorem execBurnoutCheckEnd_fixed (input : BurnInput) (volts : Rat) (s : State) :
    outFixed (execBurnoutCheckEnd input volts s) = some s.fixed := by
  cases input <;> simp [execBurnoutCheckEnd]
@[simp] theorem execAuxVisit_fixed (o : AuxObs) (s : State) : outFixed (execAuxVisit o s) = some s.fixed := by
  unfold execAuxVisit
  split
  · rfl
  · dsimp only
    split <;> simp
end Sys2Proof.Machine
end

