-- ==== Sys2Proof/Laws/FixedTime.lean ====
section
/-! SUPPORT. What the functions and commands of the Sluice, mode, time and Footing commands leave alone (`State.fixed`), or, where a reset or
a write is among their effects, what `Keeps` says. -/

set_option Elab.async false -- one theorem after another: the whole compiles within its memory

namespace Sys2Proof.Machine

/-! SluiceOps. -/

@[simp] theorem modSlot_fixed (s : State) (k : Fin 128) (f : Slot → Slot) : (modSlot s k f).fixed = s.fixed := by simp [modSlot]
theorem slotMode_fixed (leave : State → Mode → State) (hl : ∀ s m, (leave s m).fixed = s.fixed) (s : State) (k : Fin 128) (m : Mode) (p : Byte × State)
    (h : slotMode leave s k m = some p) : p.2.fixed = s.fixed := by
  unfold slotMode at h
  dsimp only at h
  (repeat' split at h) <;> cases h <;> simp [hl]
theorem slotEffect_fixed (leave : State → Mode → State) (hl : ∀ s m, (leave s m).fixed = s.fixed) (s : State) (k : Fin 128) (x : Slot) (late : Bool)
    (p : Byte × State) (h : slotEffect leave s k x late = some p) : p.2.fixed = s.fixed := by
  unfold slotEffect at h
  dsimp only at h
  split at h
  · exact slotMode_fixed leave hl _ _ _ _ h
  all_goals cases h; simp
@[simp] theorem startSlot_fixed (leave : State → Mode → State) (hl : ∀ s m, (leave s m).fixed = s.fixed) (s : State) (k : Fin 128) (force : Bool) :
    (startSlot leave s k force).fixed = s.fixed := by
  unfold startSlot
  dsimp only
  split
  · rfl
  · split
    · simp
    · rename_i h
      have := slotEffect_fixed leave hl _ _ _ _ _ h
      split <;> simpa using this
@[simp] theorem slotDue_fixed (leave : State → Mode → State) (hl : ∀ s m, (leave s m).fixed = s.fixed) (s : State) (k : Fin 128) (force : Bool) : (slotDue leave s k force).fixed = s.fixed := by
  unfold slotDue; dsimp only; (repeat' split) <;> simp [hl]
@[simp] theorem expireSlot_fixed (s : State) (k : Fin 128) : (expireSlot s k).fixed = s.fixed := by simp [expireSlot]
@[simp] theorem pastDue_fixed (leave : State → Mode → State) (hl : ∀ s m, (leave s m).fixed = s.fixed) (s : State) (k : Fin 128) : (pastDue leave s k).fixed = s.fixed := by
  unfold pastDue; dsimp only; (repeat' split) <;> simp [hl]
@[simp] theorem pastDueAll_fixed (leave : State → Mode → State) (hl : ∀ s m, (leave s m).fixed = s.fixed) (s : State) : (pastDueAll leave s).fixed = s.fixed := by
  simp [pastDueAll, hl]
@[simp] theorem sluiceStep_fixed (leave : State → Mode → State) (hl : ∀ s m, (leave s m).fixed = s.fixed) (s : State) (old : Nat) : (sluiceStep leave s old).fixed = s.fixed := by
  unfold sluiceStep; dsimp only; split <;> simp [hl]
@[simp] theorem loadSluice_fixed (leave : State → Mode → State) (hl : ∀ s m, (leave s m).fixed = s.fixed) (s : State) : (loadSluice leave s).fixed = s.fixed := by
  simp [loadSluice, hl]

/-! ModeOps. -/

@[simp] theorem unturnVcn_fixed (s : State) (v : Vcn) : (unturnVcn s v).fixed = s.fixed := by simp [unturnVcn]
@[simp] theorem staleVcn_fixed (s : State) (v : Vcn) : (staleVcn s v).fixed = s.fixed := by simp [staleVcn]
@[simp] theorem dropVisit_fixed (s : State) (w : Fin 23) : (dropVisit s w).fixed = s.fixed := by simp [dropVisit]
@[simp] theorem stopFilm_fixed (s : State) (n : Fin 6) : (stopFilm s n).fixed = s.fixed := by simp [stopFilm]
@[simp] theorem filmsToWatch_fixed (s : State) : (filmsToWatch s).fixed = s.fixed := by simp [filmsToWatch]
@[simp] theorem filmsToRun_fixed (s : State) : (filmsToRun s).fixed = s.fixed := by simp [filmsToRun]
@[simp] theorem keepClassFrames_fixed (s : State) : (keepClassFrames s).fixed = s.fixed := by simp [keepClassFrames]
@[simp] theorem restartTones_fixed (s : State) : (restartTones s).fixed = s.fixed := by simp [restartTones]
@[simp] theorem changeMode_fixed (s : State) (m : Mode) : (changeMode s m).fixed = s.fixed := by simp [changeMode]
@[simp] theorem leaveSafe_fixed (s : State) (m : Mode) : (leaveSafe s m).fixed = s.fixed := by simp [leaveSafe]
@[simp] theorem hostMode_fixed (s : State) (m : Mode) : (hostMode s m).2.fixed = s.fixed := by simp [hostMode]
@[simp] theorem modeCommand_fixed (s : State) (f : HostFrame) (m : Mode) (body : State → Byte × State)
    (h : ∀ s, (body s).2.fixed = s.fixed) : (modeCommand s f m body).fixed = s.fixed := by
  unfold modeCommand
  exact commandFrame_fixed _ _ _ _ _ _ (by intro s a; split <;> simp [h])
@[simp] theorem execModeRun_fixed (f : HostFrame) (s : State) : outFixed (execModeRun f s) = some s.fixed := by simp [execModeRun]
@[simp] theorem execModeWatch_fixed (f : HostFrame) (s : State) : outFixed (execModeWatch f s) = some s.fixed := by simp [execModeWatch]
@[simp] theorem execModeSafe_fixed (f : HostFrame) (s : State) : outFixed (execModeSafe f s) = some s.fixed := by simp [execModeSafe]
@[simp] theorem execModeBoundary_fixed (s : State) : outFixed (execModeBoundary s) = some s.fixed := by
  unfold execModeBoundary; (repeat' split) <;> simp
@[simp] theorem execSafeAutoExit_fixed (s : State) : outFixed (execSafeAutoExit s) = some s.fixed := by simp [execSafeAutoExit]

/-! TimeOps. -/

@[simp] theorem putUnits_fixed (s : State) (u : Nat) : (putUnits s u).fixed = s.fixed := by simp [putUnits]
@[simp] theorem dropFrames_fixed (s : State) : (dropFrames s).fixed = s.fixed := by simp [dropFrames]
@[simp] theorem noteStep_fixed (s : State) : (noteStep s).fixed = s.fixed := by simp [noteStep]
@[simp] theorem stepForward_fixed (s : State) (o : Nat) (n : Nat) : (stepForward s o n).fixed = s.fixed := by simp [stepForward]
@[simp] theorem stepPhase_fixed (s : State) (u : Nat) : (stepPhase s u).fixed = s.fixed := by simp [stepPhase]
@[simp] theorem plumbStepTo_fixed (s : State) (u : Nat) : (plumbStepTo s u).fixed = s.fixed := by simp [plumbStepTo]
@[simp] theorem completeChange_fixed (s : State) : (completeChange s).fixed = s.fixed := by simp [completeChange]
@[simp] theorem withSlew_fixed (s : State) (r : Option Int) : (withSlew s r).fixed = s.fixed := by simp [withSlew]
@[simp] theorem movePhase_fixed (s : State) (err : Int) (step : Bool) : (movePhase s err step).fixed = s.fixed := by simp [movePhase]
@[simp] theorem enterSource_fixed (s : State) (st : TimeState) (change : Bool) : (enterSource s st change).fixed = s.fixed := by simp [enterSource]
@[simp] theorem qualifySource_fixed (s : State) (st : TimeState) (err : Int) : (qualifySource s st err).fixed = s.fixed := by simp [qualifySource]
@[simp] theorem enterHoldover_fixed (s : State) : (enterHoldover s).fixed = s.fixed := by simp [enterHoldover]
@[simp] theorem setValid_fixed (s : State) : (setValid s).fixed = s.fixed := by simp [setValid]
@[simp] theorem takeChain_fixed (s : State) (qualifies : Bool) : (takeChain s qualifies).fixed = s.fixed := by simp [takeChain]
@[simp] theorem loseSource_fixed (s : State) : (loseSource s).fixed = s.fixed := by unfold loseSource; (repeat' split) <;> simp
@[simp] theorem changeSource_fixed (s : State) (c : SourceChange) : (changeSource s c).fixed = s.fixed := by
  unfold changeSource; (repeat' split) <;> simp
@[simp] theorem sourceChanged_fixed (s : State) (c : SourceChange) : (sourceChanged s c).fixed = s.fixed := by
  unfold sourceChanged; split <;> simp
@[simp] theorem hostSource_fixed (s : State) (err : Int) : (hostSource s err).fixed = s.fixed := by simp [hostSource]
@[simp] theorem setSeconds_fixed (s : State) (e : Int) : (setSeconds s e).fixed = s.fixed := by simp [setSeconds]
@[simp] theorem moveTime_fixed (s : State) (m : TimeMove) : (moveTime s m).fixed = s.fixed := by
  unfold moveTime; dsimp only; (repeat' split) <;> simp
@[simp] theorem takeHeld_fixed (s : State) (moved : Int) : (takeHeld s moved).fixed = s.fixed :=
  foldl_fixed _ (fun s _ => changeSource_fixed s _) _ _
@[simp] theorem applyTimeSet_fixed (s : State) (m : TimeMove) : (applyTimeSet s m).fixed = s.fixed := by simp [applyTimeSet]
@[simp] theorem chainMark_fixed (s : State) (mark : Int) (sure : Bool) : (chainMark s mark sure).fixed = s.fixed := by simp [chainMark]
@[simp] theorem chainMiss_fixed (s : State) : (chainMiss s).fixed = s.fixed := by simp [chainMiss]

/-! Time. -/

@[simp] theorem execPpsEdge_fixed (cycles : Nat) (phaseErr : Int) (conforming : Bool) (s : State) :
    outFixed (execPpsEdge cycles phaseErr conforming s) = some s.fixed := by
  simp [execPpsEdge]
@[simp] theorem execPpsMissing_fixed (s : State) : outFixed (execPpsMissing s) = some s.fixed := by simp [execPpsMissing]
@[simp] theorem execSlewComplete_fixed (s : State) : outFixed (execSlewComplete s) = some s.fixed := by
  unfold execSlewComplete; (repeat' split) <;> simp
@[simp] theorem execHoldoverCorrection_fixed (s : State) : outFixed (execHoldoverCorrection s) = some s.fixed := by simp [execHoldoverCorrection]
@[simp] theorem execPlumbWrap_fixed (s : State) : outFixed (execPlumbWrap s) = some s.fixed := by simp [execPlumbWrap]
@[simp] theorem execRtcclkStop_fixed (s : State) : outFixed (execRtcclkStop s) = some s.fixed := by simp [execRtcclkStop]
@[simp] theorem execSysclkStop_fixed (s : State) : outFixed (execSysclkStop s) = some s.fixed := by simp [execSysclkStop]
@[simp] theorem execPpsOutPulse_fixed (s : State) : outFixed (execPpsOutPulse s) = some s.fixed := by simp [execPpsOutPulse]
@[simp] theorem execPpsOutFall_fixed (s : State) : outFixed (execPpsOutFall s) = some s.fixed := by simp [execPpsOutFall]
@[simp] theorem holdMove_fixed (s : State) (m : TimeMove) : (holdMove s m).fixed = s.fixed := by simp [holdMove]
@[simp] theorem execTimeSet_fixed (f : HostFrame) (s : State) : outFixed (execTimeSet f s) = some s.fixed := by
  unfold execTimeSet
  extract_lets s' taken
  have h : s'.fixed = s.fixed := commandFrame_fixed _ _ _ _ _ _ (by intro s a; (repeat' split) <;> rfl)
  split <;> simp [h]
@[simp] theorem execSluiceActionDue_fixed (slot : Fin 128) (s : State) : outFixed (execSluiceActionDue slot s) = some s.fixed := by
  simp [execSluiceActionDue]
@[simp] theorem execSluiceRetry_fixed (slot : Fin 128) (s : State) : outFixed (execSluiceRetry slot s) = some s.fixed := by simp [execSluiceRetry]
@[simp] theorem execSluiceGraceExpiry_fixed (slot : Fin 128) (s : State) : outFixed (execSluiceGraceExpiry slot s) = some s.fixed := by
  simp only [execSluiceGraceExpiry]; (repeat' split) <;> simp
@[simp] theorem writeSlot_fixed (s : State) (k : Fin 128) (entry : List Byte) : (writeSlot s k entry).2.fixed = s.fixed := by
  simp only [writeSlot]; (repeat' split) <;> simp
@[simp] theorem execSluiceSlot_fixed (f : HostFrame) (s : State) : outFixed (execSluiceSlot f s) = some s.fixed := by
  simp only [execSluiceSlot, outFixed_next]; exact congrArg some (commandFrame_fixed _ _ _ _ _ _ (by intro s a; (repeat' split) <;> simp))

/-! Footing. -/

/-- The queue, the factory store, the flash and the OTP. -/
def State.store (s : State) : List Instr × Cornerstone × FlashChip × Otp := (s.pending, s.cornerstone, s.flash, s.otp)
theorem Keeps.of_store {s t : State} (h : t.store = s.store) : Keeps s t := by
  simp only [State.store, Prod.mk.injEq] at h
  obtain ⟨h1, h2, h3, h4⟩ := h
  exact ⟨h1, h2, fun h => by simpa only [FlashCanonical, h3] using h, fun h => by rw [h4]; exact h⟩
theorem footingEnds_fixed (s : State) (b : Boot) (r : Option RenderCopy) : (footingEnds s b r).fixed = { s.fixed with phase := .loaded, boot := b } := rfl
theorem footingEnds_store (s : State) (b : Boot) (r : Option RenderCopy) : (footingEnds s b r).store = s.store := rfl
theorem loadImages_store (s : State) (c : FlashChip) (b : Boot) : (loadImages s c b).store = s.store := by
  unfold loadImages
  dsimp only
  split <;> exact footingEnds_store ..
theorem podBegins_store (s : State) (b : Boot) : (podBegins s b).store = s.store := rfl
theorem flashBegins_store (s : State) (b : Boot) : (flashBegins s b).store = s.store := by
  unfold flashBegins
  dsimp only
  split
  · split
    · rfl
    · exact loadImages_store ..
  · split
    · rfl
    · exact loadImages_store ..
theorem footingBegins_store (s : State) (b : Boot) : (footingBegins s b).store = s.store := by
  unfold footingBegins
  split
  · exact footingEnds_store ..
  · split
    · exact podBegins_store ..
    · exact flashBegins_store ..
theorem flashContentWf_canonical {l : List (Nat × Byte)} {lo hi : Nat} (h : flashContentWf lo hi l = true) :
    l.Pairwise (fun p q => p.1 < q.1) ∧ ∀ p ∈ l, lo ≤ p.1 ∧ p.2 ≠ 0xFF := by
  induction l generalizing lo with
  | nil => exact ⟨.nil, fun _ h => nomatch h⟩
  | cons q r ih =>
    obtain ⟨a, b⟩ := q
    simp only [flashContentWf, Bool.and_eq_true, decide_eq_true_eq, bne_iff_ne, ne_eq] at h
    obtain ⟨⟨⟨h1, _⟩, h3⟩, h4⟩ := h
    obtain ⟨hp, hm⟩ := ih h4
    refine ⟨.cons (fun p hp => ?_) hp, fun p hp => ?_⟩
    · have := (hm p hp).1; omega
    · rcases List.mem_cons.1 hp with rfl | hp
      · exact ⟨h1, h3⟩
      · have := hm p hp; exact ⟨by omega, this.2⟩
theorem execFootingStart_keeps (fitted : Option FlashChip) (duration : BitVec 32) (s : State)
    (hc : (Instr.footingStart fitted duration).wellFormed = true) : OutKeeps s (execFootingStart fitted duration s) := by
  have hk : Keeps s { s with flash := fitted.getD s.flash } := by
    refine ⟨rfl, rfl, fun h => ?_, id⟩
    cases fitted with
    | none => exact h
    | some c =>
      simp only [Instr.wellFormed, FlashChip.wellFormed, Bool.and_eq_true] at hc
      have := flashContentWf_canonical hc.1.1.1
      exact ⟨this.1, fun p hp => (this.2 p hp).2⟩
  unfold execFootingStart
  split
  · exact .next (Keeps.of_fixed rfl)
  · exact .next (hk.trans (Keeps.of_store (footingBegins_store ..)))
/-- Whatever flash is fitted, Footing leaves the queue, the factory store and the OTP. -/
theorem execFootingStart_store (fitted : Option FlashChip) (duration : BitVec 32) (s : State) :
    ∃ t, execFootingStart fitted duration s = .next t ∧ t.pending = s.pending ∧ t.cornerstone = s.cornerstone ∧ t.otp = s.otp := by
  unfold execFootingStart
  split
  · exact ⟨_, rfl, rfl, rfl, rfl⟩
  · refine ⟨_, rfl, ?_⟩
    generalize hx : ({ s with flash := fitted.getD s.flash } : State) = x
    have h := footingBegins_store x { idValid := s.cornerstone.ok, duration := duration, startClk := s.boot.startClk }
    simp only [State.store, Prod.mk.injEq] at h
    subst hx
    exact ⟨h.1, h.2.1, h.2.2.2⟩
theorem execFlashWipTimeout_keeps (s : State) : OutKeeps s (execFlashWipTimeout s) := by
  unfold execFlashWipTimeout
  split
  · exact .next (Keeps.of_store (footingEnds_store ..))
  · exact .next (.refl s)

end Sys2Proof.Machine
end

