-- ==== Sys2Proof/Laws/FixedCourse.lean ====
section
/-! SUPPORT. What the functions and commands of the Course, handover and link test commands leave alone (`State.fixed`), or, where a reset or
a write is among their effects, what `Keeps` says. -/

set_option Elab.async false -- one theorem after another: the whole compiles within its memory

namespace Sys2Proof.Machine

/-! CourseOps. -/

@[simp] theorem countPort_fixed (s : State) (p : Fin 2) (k : Fin 7) : (countPort s p k).fixed = s.fixed := by simp [countPort]
@[simp] theorem noteSeq_fixed (s : State) (type : Byte) (r : CourseRx) : (noteSeq s type r).fixed = s.fixed := by simp [noteSeq]
@[simp] theorem countFate_fixed (s : State) (type : Byte) (r : CourseRx) : (countFate s type r).fixed = s.fixed := by
  simp only [countFate]; (repeat' split) <;> simp
@[simp] theorem rx_fixed (s : State) (type : Byte) (r : CourseRx) (body : State → State) (h : ∀ s, (body s).fixed = s.fixed) :
    (rx s type r body).fixed = s.fixed := by
  unfold rx; dsimp only; (repeat' split) <;> simp [h]
@[simp] theorem headRx_fixed (s : State) (type : Byte) (r : CourseRx) (body : State → State) (h : ∀ s, (body s).fixed = s.fixed) :
    (headRx s type r body).fixed = s.fixed := by
  unfold headRx; split <;> simp [h]
@[simp] theorem podRx_fixed (s : State) (type : Byte) (r : CourseRx) (body : State → State) (h : ∀ s, (body s).fixed = s.fixed) :
    (podRx s type r body).fixed = s.fixed := by
  unfold podRx; split <;> simp [h]
@[simp] theorem transmit_fixed (s : State) (p : Fin 2) (f : CourseFrame) : (transmit s p f).fixed = s.fixed := by
  simp only [transmit]; (repeat' split) <;> simp
@[simp] theorem storeFrame_fixed (s : State) (p : Fin 2) (f : CourseFrame) : (storeFrame s p f).fixed = s.fixed := by
  simp only [storeFrame]; (repeat' split) <;> simp
@[simp] theorem repeatFrame_fixed (s : State) (type : Byte) (busy : Bool) (r : CourseRx) : (repeatFrame s type busy r).fixed = s.fixed := by
  simp [repeatFrame]
@[simp] theorem execCutThroughRepeat_fixed (type : Byte) (busy : Bool) (r : CourseRx) (s : State) :
    outFixed (execCutThroughRepeat type busy r s) = some s.fixed := by
  unfold execCutThroughRepeat; (repeat' split) <;> simp
@[simp] theorem noteDeparture_fixed (s : State) (f : CourseFrame) : (noteDeparture s f).fixed = s.fixed := by
  simp only [noteDeparture]; (repeat' split) <;> simp
@[simp] theorem execStoredFrameSend_fixed (port : Fin 2) (s : State) : outFixed (execStoredFrameSend port s) = some s.fixed := by
  simp only [execStoredFrameSend]; (repeat' split) <;> simp
@[simp] theorem originateEach_fixed (s : State) (ports : List (Fin 2)) (type : Byte) (dst : Byte) (cls : Nat) (make : State → Fin 2 → List Byte) :
    (originateEach s ports type dst cls make).fixed = s.fixed := by
  simp [originateEach]
@[simp] theorem lowerVersion_fixed (s : State) : (lowerVersion s).fixed = s.fixed := by
  simp only [lowerVersion]; (repeat' split) <;> simp
@[simp] theorem sendDiscover_fixed (s : State) (full : Bool) (ports : List (Fin 2)) : (sendDiscover s full ports).fixed = s.fixed := by
  simp [sendDiscover]
@[simp] theorem discoverFull_fixed (s : State) : (discoverFull s).fixed = s.fixed := by simp [discoverFull]
@[simp] theorem wantFull_fixed (s : State) : (wantFull s).fixed = s.fixed := by
  simp only [wantFull]; (repeat' split) <;> simp
@[simp] theorem modNode_fixed (s : State) (addr : Nat) (f : Node → Node) : (modNode s addr f).fixed = s.fixed := by simp [modNode]
@[simp] theorem allocate_fixed (s : State) (node : Nat) (g : Nat → List Byte) : (allocate s node g).fixed = s.fixed := by simp [allocate]
@[simp] theorem execLossOfSignal_fixed (port : Fin 2) (repeating : Bool) (s : State) :
    outFixed (execLossOfSignal port repeating s) = some s.fixed := by
  simp [execLossOfSignal]
@[simp] theorem execSignalRestored_fixed (port : Fin 2) (s : State) : outFixed (execSignalRestored port s) = some s.fixed := by
  simp [execSignalRestored]

/-! CourseEnum. -/

@[simp] theorem sendAssign_fixed (s : State) (uid : BitVec 64) (addr : Byte) (disp : Byte) (sub : Byte) :
    (sendAssign s uid addr disp sub).fixed = s.fixed := by
  simp [sendAssign]
@[simp] theorem setNode_fixed (s : State) (n : Node) : (setNode s n).fixed = s.fixed := by simp [setNode]
@[simp] theorem parkVcns_fixed (s : State) (a : Byte) : (parkVcns s a).fixed = s.fixed := by
  unfold parkVcns
  refine foldl_fixed _ (fun s v => ?_) _ _
  split <;> simp
@[simp] theorem applyPlan_fixed (s : State) (p : Plan) : (applyPlan s p).fixed = s.fixed := by simp [applyPlan]
@[simp] theorem sendBlocks_fixed (s : State) (b : List Byte) (idx : List Nat) : (sendBlocks s b idx).fixed = s.fixed := by simp [sendBlocks]
@[simp] theorem sendBootEnd_fixed (s : State) (round : Nat) : (sendBootEnd s round).fixed = s.fixed := by simp [sendBootEnd]
@[simp] theorem enumIdle_fixed (s : State) : (enumIdle s).fixed = s.fixed := by
  simp only [enumIdle]; (repeat' split) <;> simp
@[simp] theorem sendItem_fixed (s : State) : (sendItem s).fixed = s.fixed := by unfold sendItem; (repeat' split) <;> simp
@[simp] theorem nextItem_fixed (s : State) : (nextItem s).fixed = s.fixed := by simp [nextItem]
@[simp] theorem judgeRing_fixed (s : State) : (judgeRing s).fixed = s.fixed := by
  simp only [judgeRing]; (repeat' split) <;> simp
@[simp] theorem ringSides_fixed (s : State) : (ringSides s).fixed = s.fixed := by
  simp only [ringSides]; (repeat' split) <;> simp
@[simp] theorem execEnumerationCollectEnd_fixed (s : State) : outFixed (execEnumerationCollectEnd s) = some s.fixed := by
  simp [execEnumerationCollectEnd]
@[simp] theorem execDiscoverTimer_fixed (s : State) : outFixed (execDiscoverTimer s) = some s.fixed := by simp [execDiscoverTimer]
@[simp] theorem execDiscoverReturn_fixed (r : CourseRx) (s : State) : outFixed (execDiscoverReturn r s) = some s.fixed := by simp [execDiscoverReturn]
@[simp] theorem joinNode_fixed (s : State) (n : Node) : (joinNode s n).fixed = s.fixed := by simp [joinNode]
@[simp] theorem collectIdentity_fixed (s : State) (port : Fin 2) (p : List Byte) : (collectIdentity s port p).fixed = s.fixed := by
  simp only [collectIdentity]; (repeat' split) <;> simp
@[simp] theorem noteVersion_fixed (s : State) (v : Byte) : (noteVersion s v).fixed = s.fixed := by
  simp only [noteVersion]; (repeat' split) <;> simp
@[simp] theorem execIdentity_fixed (r : CourseRx) (s : State) : outFixed (execIdentity r s) = some s.fixed := by
  unfold execIdentity
  refine congrArg some (headRx_fixed _ _ _ _ fun s => ?_)
  dsimp only
  (repeat' split) <;> simp
@[simp] theorem execAssignRetry_fixed (node : BitVec 8) (s : State) : outFixed (execAssignRetry node s) = some s.fixed := by
  unfold execAssignRetry; (repeat' split) <;> simp
@[simp] theorem execBootStatus_fixed (r : CourseRx) (s : State) : outFixed (execBootStatus r s) = some s.fixed := by simp [execBootStatus]
@[simp] theorem execBootStatusTimeout_fixed (s : State) : outFixed (execBootStatusTimeout s) = some s.fixed := by
  unfold execBootStatusTimeout
  dsimp only
  split
  · (repeat' split) <;> simp
  · rfl
/-! CourseSweep. -/

@[simp] theorem takeRoom_fixed (s : State) (side : Fin 2) (n : Nat) : (takeRoom s side n).fixed = s.fixed := by
  simp [takeRoom]
@[simp] theorem sendService_fixed (s : State) (n : Node) (type : Byte) (credit : Byte) (p : List Byte) :
    (sendService s n type credit p).fixed = s.fixed := by
  simp [sendService]
theorem request_fixed (s : State) (n : Node) (wire : Nat) (send : State → State) (h : (send s).fixed = s.fixed) :
    (request s n wire send).fixed = s.fixed := by
  simp [request, h]
@[simp] theorem sendRender_fixed (s : State) (n : Node) : (sendRender s n).fixed = s.fixed := by
  unfold sendRender; dsimp only
  split
  · exact request_fixed _ _ _ _ (foldl_fixed _ (fun s _ => sendService_fixed ..) _ _)
  · rfl
@[simp] theorem sendOperation_fixed (s : State) (op : ServiceOp) : (sendOperation s op).fixed = s.fixed := by
  unfold sendOperation; dsimp only
  split
  · rfl
  · exact request_fixed _ _ _ _ (sendService_fixed ..)
@[simp] theorem sendPoll_fixed (s : State) (n : Node) : (sendPoll s n).fixed = s.fixed := by
  simp [sendPoll, request_fixed]
@[simp] theorem sendPolls_fixed (s : State) : (sendPolls s).fixed = s.fixed := by
  simp [sendPolls]
@[simp] theorem sendBacklog_fixed (x : State × Nat) (n : Node) : (sendBacklog x n).1.fixed = x.1.fixed := by
  unfold sendBacklog; dsimp only; (repeat' split) <;> simp
@[simp] theorem announceTest_fixed (s : State) : (announceTest s).fixed = s.fixed := by
  simp only [announceTest]; (repeat' split) <;> simp
@[simp] theorem serveSweep_fixed (s : State) : (serveSweep s).fixed = s.fixed := by
  unfold serveSweep
  dsimp only
  rw [foldl_fst_fixed _ sendBacklog_fixed, foldl_fixed _ sendOperation_fixed, announceTest_fixed, foldl_fixed _ sendRender_fixed, sendPolls_fixed]
  simp only [fixed_mk, fixed_fold]
@[simp] theorem remoteSweep_fixed (s : State) : (remoteSweep s).fixed = s.fixed := by
  unfold remoteSweep; (repeat' split) <;> simp [splitSides]
@[simp] theorem ringAfterTest_fixed (s : State) : (ringAfterTest s).fixed = s.fixed := by
  simp only [ringAfterTest]; (repeat' split) <;> simp
@[simp] theorem beginSweep_fixed (s : State) : (beginSweep s).fixed = s.fixed := by
  simp only [beginSweep]; (repeat' split) <;> simp
@[simp] theorem execSweepTick_fixed (s : State) : outFixed (execSweepTick s) = some s.fixed := by simp [execSweepTick]
@[simp] theorem execCreditSend_fixed (s : State) : outFixed (execCreditSend s) = some s.fixed := by
  simp only [execCreditSend]; (repeat' split) <;> simp
@[simp] theorem remoteRules_fixed (s : State) (node : Nat) (b : List Byte) (bad : List (Fin 256)) :
    (remoteRules s node b bad).fixed = s.fixed := by simp [remoteRules]
@[simp] theorem fromJoined_fixed (s : State) (r : CourseRx) (body : State → Node → State) (h : ∀ s n, (body s n).fixed = s.fixed) :
    (fromJoined s r body).fixed = s.fixed := by
  unfold fromJoined; (repeat' split) <;> simp [h]
@[simp] theorem untoldCounts_fixed (s : State) (n : Node) : (untoldCounts s n).2.fixed = s.fixed := by simp [untoldCounts]
@[simp] theorem reportOverload_fixed (s : State) (old : Node) (new : Node) : (reportOverload s old new).fixed = s.fixed := by
  simp only [reportOverload]; (repeat' split) <;> simp
@[simp] theorem execSweepReport_fixed (r : CourseRx) (bad : List (Fin 256)) (s : State) : outFixed (execSweepReport r bad s) = some s.fixed := by
  refine congrArg some ((settle_fixed _ _).trans (headRx_fixed _ _ _ _ fun s => fromJoined_fixed _ _ _ fun s n => ?_))
  dsimp only
  split <;> simp
@[simp] theorem execAlarm_fixed (r : CourseRx) (bad : List (Fin 256)) (s : State) : outFixed (execAlarm r bad s) = some s.fixed := by
  refine congrArg some ((settle_fixed _ _).trans (headRx_fixed _ _ _ _ fun s => fromJoined_fixed _ _ _ fun s n => ?_))
  simp
@[simp] theorem takeRecord_fixed (node : Nat) (late : Bool) (bad : List (Fin 256)) (s : State) (r : Record) :
    (takeRecord node late bad s r).fixed = s.fixed := by
  simp [takeRecord]
@[simp] theorem execSweepData_fixed (r : CourseRx) (bad : List (Fin 256)) (s : State) : outFixed (execSweepData r bad s) = some s.fixed := by
  refine congrArg some ((settle_fixed _ _).trans (headRx_fixed _ _ _ _ fun s => fromJoined_fixed _ _ _ fun s n => ?_))
  dsimp only
  split
  · rfl
  · exact (foldl_fixed _ (fun s x => takeRecord_fixed ..) _ _).trans (by simp)
@[simp] theorem writeMissing_fixed (bad : List (Fin 256)) (s : State) (node : Nat) : (writeMissing bad s node).fixed = s.fixed := by
  unfold writeMissing
  refine foldl_fixed _ (fun s v => ?_) _ _
  split <;> simp
@[simp] theorem loseNode_fixed (s : State) (n : Node) : (loseNode s n).fixed = s.fixed := by simp [loseNode]
@[simp] theorem endNode_fixed (bad : List (Fin 256)) (s : State) (a : Byte) : (endNode bad s a).fixed = s.fixed := by unfold endNode; (repeat' split) <;> simp
@[simp] theorem reportBreak_fixed (s : State) (side : Fin 2) (b : Byte) : (reportBreak s side b).fixed = s.fixed := by simp [reportBreak]
@[simp] theorem openRing_fixed (s : State) : (openRing s).fixed = s.fixed := by
  simp only [openRing]; (repeat' split) <;> simp
@[simp] theorem locateBreaks_fixed (s : State) : (locateBreaks s).fixed = s.fixed := by simp [locateBreaks]
@[simp] theorem overloadEnd_fixed (s : State) : (overloadEnd s).fixed = s.fixed := by simp [overloadEnd]
@[simp] theorem missingDone_fixed (s : State) : (missingDone s).fixed = s.fixed := by unfold missingDone; (repeat' split) <;> simp
@[simp] theorem execSweepEnd_fixed (bad : List (Fin 256)) (s : State) : outFixed (execSweepEnd bad s) = some s.fixed := by simp [execSweepEnd]
@[simp] theorem execDelayReq_fixed (r : CourseRx) (s : State) : outFixed (execDelayReq r s) = some s.fixed := by simp [execDelayReq]
@[simp] theorem execBacklogData_fixed (r : CourseRx) (s : State) : outFixed (execBacklogData r s) = some s.fixed := by
  unfold execBacklogData
  refine congrArg some (headRx_fixed _ _ _ _ fun s => fromJoined_fixed _ _ _ fun s n => ?_)
  dsimp only
  split
  · rfl
  · refine (foldl_fixed _ (fun s x => logRecord_fixed ..) _ _).trans ?_
    simp
@[simp] theorem execRenderAck_fixed (r : CourseRx) (s : State) : outFixed (execRenderAck r s) = some s.fixed := by simp [execRenderAck]
@[simp] theorem endRemoteRead_fixed (s : State) (node : Byte) (st : Byte) (data : List Byte) : (endRemoteRead s node st data).fixed = s.fixed := by
  simp [endRemoteRead]
@[simp] theorem pollWord_fixed (s : State) (n : Node) (w : BitVec 32) : (pollWord s n w).fixed = s.fixed := by simp [pollWord]
@[simp] theorem execStatusResp_fixed (r : CourseRx) (s : State) : outFixed (execStatusResp r s) = some s.fixed := by simp [execStatusResp]
@[simp] theorem execNak_fixed (r : CourseRx) (s : State) : outFixed (execNak r s) = some s.fixed := by unfold execNak; (repeat' split) <;> simp
@[simp] theorem presentRoom_fixed (s : State) : (presentRoom s).fixed = s.fixed := by
  simp only [presentRoom]; (repeat' split) <;> simp
@[simp] theorem execPodFaultPoll_fixed (node : BitVec 8) (s : State) : outFixed (execPodFaultPoll node s) = some s.fixed := by
  unfold execPodFaultPoll; (repeat' split) <;> simp

/-! CoursePod. -/

@[simp] theorem modPod_fixed (s : State) (f : Pod → Pod) : (modPod s f).fixed = s.fixed := by simp [modPod]
@[simp] theorem sendIdentity_fixed (s : State) (port : Fin 2) : (sendIdentity s port).fixed = s.fixed := by simp [sendIdentity]
@[simp] theorem execDiscover_fixed (r : CourseRx) (s : State) : outFixed (execDiscover r s) = some s.fixed := by simp [execDiscover]
@[simp] theorem renameVcns_fixed (s : State) (a : Byte) : (renameVcns s a).fixed = s.fixed := by simp [renameVcns]
theorem rx_keeps (s : State) (type : Byte) (r : CourseRx) (body : State → State) (h : ∀ s, Keeps s (body s)) : Keeps s (rx s type r body) := by
  unfold rx
  dsimp only
  split
  · exact Keeps.of_fixed rfl
  · split
    · exact (Keeps.of_fixed (by simp)).trans (h _)
    · exact Keeps.of_fixed (by simp)
theorem podRx_keeps (s : State) (type : Byte) (r : CourseRx) (body : State → State) (h : ∀ s, Keeps s (body s)) : Keeps s (podRx s type r body) := by
  unfold podRx
  split
  · exact rx_keeps _ _ _ _ h
  · exact Keeps.of_fixed rfl
theorem execAssign_keeps (r : CourseRx) (s : State) : OutKeeps s (execAssign r s) := by
  unfold execAssign
  refine .next (podRx_keeps _ _ _ _ fun s => ?_)
  dsimp only
  split
  · exact Keeps.of_fixed rfl
  · split
    · exact Keeps.of_fixed (by simp)
    · exact Keeps.of_fixed (by simp)
    · exact Keeps.of_fixed (by simp)
    · split
      · exact Keeps.of_fixed (by simp)
      · exact (Keeps.of_fixed (by simp)).trans (startReset_keeps _ _)
@[simp] theorem execBootStart_fixed (r : CourseRx) (s : State) : outFixed (execBootStart r s) = some s.fixed := by simp [execBootStart]
@[simp] theorem execBootData_fixed (r : CourseRx) (s : State) : outFixed (execBootData r s) = some s.fixed := by
  unfold execBootData
  refine congrArg some (podRx_fixed _ _ _ _ fun s => ?_)
  dsimp only
  (repeat' split) <;> simp
theorem keepItem_keeps (s : State) (kind : Byte) (b : List Byte) (crc : BitVec 32) : Keeps s (keepItem s kind b crc) := by
  unfold keepItem
  dsimp only
  split <;> exact ⟨rfl, rfl, id, id⟩
theorem execBootEnd_keeps (r : CourseRx) (s : State) : OutKeeps s (execBootEnd r s) := by
  unfold execBootEnd
  refine .next (podRx_keeps _ _ _ _ fun s => ?_)
  dsimp only
  split
  · split
    · exact .refl s
    · split
      · exact Keeps.of_fixed (originate_fixed ..)
      · split
        · exact (keepItem_keeps s _ _ _).after (originate_fixed ..)
        · exact Keeps.of_fixed (by simp)
  · exact .refl s
@[simp] theorem setChainShed_fixed (s : State) (b : Bool) : (setChainShed s b).fixed = s.fixed := by simp [setChainShed]
@[simp] theorem takeMark_fixed (s : State) (r : CourseRx) : (takeMark s r).fixed = s.fixed := by simp only [takeMark]; (repeat' split) <;> simp
@[simp] theorem newSweep_fixed (s : State) (p : List Byte) : (newSweep s p).fixed = s.fixed := by simp [newSweep]
@[simp] theorem noteHead_fixed (s : State) (p : List Byte) : (noteHead s p).fixed = s.fixed := by
  simp only [noteHead]; (repeat' split) <;> simp
@[simp] theorem execSweepStart_fixed (r : CourseRx) (s : State) : outFixed (execSweepStart r s) = some s.fixed := by simp [execSweepStart]
@[simp] theorem execDelayResp_fixed (r : CourseRx) (s : State) : outFixed (execDelayResp r s) = some s.fixed := by
  unfold execDelayResp
  refine congrArg some (podRx_fixed _ _ _ _ fun s => ?_)
  dsimp only
  (repeat' split) <;> simp
@[simp] theorem execSweepMissed_fixed (s : State) : outFixed (execSweepMissed s) = some s.fixed := by simp [execSweepMissed]
@[simp] theorem sendData_fixed (s : State) (port : Fin 2) (n : BitVec 32) (dec : Bool) (after : Nat) (l : List (List Outgoing)) :
    (sendData s port n dec after l).fixed = s.fixed := by
  induction l generalizing s with
  | nil => rfl
  | cons c r ih => rw [sendData, ih]; simp
@[simp] theorem sendGranted_fixed (s : State) (arrival : Fin 2) (grant : Nat) (dec : Bool) : (sendGranted s arrival grant dec).fixed = s.fixed := by
  simp [sendGranted]
@[simp] theorem execCredit_fixed (r : CourseRx) (s : State) : outFixed (execCredit r s) = some s.fixed := by
  unfold execCredit
  refine congrArg some (podRx_fixed _ _ _ _ fun s => ?_)
  dsimp only
  (repeat' split) <;> simp
@[simp] theorem sendBacklogData_fixed (s : State) (port : Fin 2) (l : List (List Record)) : (sendBacklogData s port l).fixed = s.fixed := by
  induction l generalizing s with
  | nil => rfl
  | cons c r ih => rw [sendBacklogData]; dsimp only; rw [ih]; simp
@[simp] theorem execBacklogReq_fixed (r : CourseRx) (s : State) : outFixed (execBacklogReq r s) = some s.fixed := by simp [execBacklogReq]
@[simp] theorem installRender_fixed (s : State) (l : List RenderEntry) : (installRender s l).fixed = s.fixed := by simp [installRender]
@[simp] theorem execRenderEntries_fixed (r : CourseRx) (s : State) : outFixed (execRenderEntries r s) = some s.fixed := by
  unfold execRenderEntries
  refine congrArg some (podRx_fixed _ _ _ _ fun s => ?_)
  dsimp only
  (repeat' split) <;> simp

/-! Handover. -/

theorem applyConfig_fixed (s : State) : (applyConfig s).fixed = { s.fixed with
    boot := if (s.role = .pod && s.boot.idValid) = true then podBoot s else s.boot
    config := (if (s.role = .pod && s.boot.idValid) = true then podBoot s else s.boot).config } := by
  unfold applyConfig
  by_cases h : (s.role = .pod && s.boot.idValid) = true
  · simp only [h, if_true]
    rfl
  · simp only [h]
    rfl
@[simp] theorem checkLogs_fixed (o : HandoverObs) (s : State) : (checkLogs o s).fixed = s.fixed := by simp [checkLogs]
@[simp] theorem bootWarnings_fixed (s : State) : (bootWarnings s).fixed = s.fixed := by simp [bootWarnings]
@[simp] theorem dropSource_fixed (s : State) : (dropSource s).fixed = s.fixed := by simp [dropSource]
@[simp] theorem resumePps_fixed (s : State) : (resumePps s).fixed = s.fixed := by
  unfold resumePps
  dsimp only
  split <;> rfl
@[simp] theorem bootSources_fixed (s : State) : (bootSources s).fixed = s.fixed := by
  simp [bootSources]
@[simp] theorem bootTime_fixed (o : HandoverObs) (s : State) : (bootTime o s).fixed = s.fixed := by simp [bootTime]
@[simp] theorem bootOld_fixed (s : State) : (bootOld s).2.fixed = s.fixed := by unfold bootOld; split <;> simp
theorem bootEnter_fixed (o : HandoverObs) (s : State) : (bootEnter o s).fixed = { s.fixed with phase := .running } := by
  have e (y : State) (h : y.fixed = s.fixed) (l : CisternLog) (m : Modes) :
      ({ y with phase := .running, log := l, modes := m } : State).fixed = { s.fixed with phase := .running } := by
    rw [← h]
    rfl
  unfold bootEnter
  dsimp only
  generalize hx : rorEnter _ _ = x
  have h : x.fixed = { s.fixed with phase := .running } := by
    subst hx
    rw [rorEnter_fixed]
    exact e _ (bootOld_fixed s) _ _
  split
  · rw [raise_fixed, fixed_mk, fixed_fold, logGeneral_fixed, raise_fixed, h]
  · rw [logGeneral_fixed, raise_fixed, h]
@[simp] theorem bootAnalog_fixed (s : State) : (bootAnalog s).fixed = s.fixed := by simp [bootAnalog]
@[simp] theorem bootRail_fixed (s : State) : (bootRail s).fixed = s.fixed := by simp [bootRail]
@[simp] theorem bootRules_fixed (s : State) : (bootRules s).fixed = s.fixed := by simp [bootRules]
@[simp] theorem bootAouts_fixed (s : State) : (bootAouts s).fixed = s.fixed := by simp [bootAouts]
@[simp] theorem bootSpill_fixed (s : State) : (bootSpill s).fixed = s.fixed := by simp [bootSpill]
@[simp] theorem bootResults_fixed (s : State) : (bootResults s).fixed = s.fixed := by
  unfold bootResults
  dsimp only
  split
  · simp
  · refine (foldl_fixed _ (fun s a => ?_) _ _).trans (allocate_fixed ..)
    split <;> simp
@[simp] theorem bootMere_fixed (s : State) : (bootMere s).fixed = s.fixed := by simp [bootMere]
@[simp] theorem bootCourse_fixed (s : State) : (bootCourse s).fixed = s.fixed := by unfold bootCourse; (repeat' split) <;> simp
@[simp] theorem bootKeystone_fixed (o : HandoverObs) (s : State) : (bootKeystone o s).fixed = s.fixed := by simp [bootKeystone]
@[simp] theorem bootWatchdog_fixed (s : State) : (bootWatchdog s).fixed = s.fixed := by simp [bootWatchdog]
@[simp] theorem bootSeal_fixed (s : State) : (bootSeal s).fixed = s.fixed := by simp [bootSeal]
/-- HANDOVER: the images come into force and the device runs; the reset, the supplies and the stores stay. -/
theorem execHandover_fixed (o : HandoverObs) (s : State) (h : s.phase = .loaded) :
    ∃ t, execHandover o s = .next t ∧
      t.fixed = { (applyConfig { s with boot := { s.boot with reported := true } }).fixed with phase := .running } := by
  unfold execHandover
  rw [if_neg (by rw [h]; decide)]
  refine ⟨_, rfl, ?_⟩
  dsimp only
  generalize applyConfig _ = x
  simp only [markBoot_fixed, bootSeal_fixed, bootWatchdog_fixed, bootKeystone_fixed, bootCourse_fixed, loadSluice_fixed _ leaveSafe_fixed, bootSpill_fixed, bootMere_fixed, bootRail_fixed,
    bootResults_fixed, bootAnalog_fixed, bootEnter_fixed, bootTime_fixed, bootWarnings_fixed, checkLogs_fixed]
theorem execHandover_keeps (o : HandoverObs) (s : State) : OutKeeps s (execHandover o s) := by
  by_cases h : s.phase = .loaded
  · obtain ⟨t, ht, hf⟩ := execHandover_fixed o s h
    rw [applyConfig_fixed] at hf
    simp only [State.fixed, Fixed.mk.injEq] at hf
    refine ⟨t, ht, Keeps.of_store ?_⟩
    simp only [State.store, hf]
  · unfold execHandover
    rw [if_pos h]
    exact .next (.refl s)

/-! LinkTest. -/

@[simp] theorem setControl_fixed (s : State) (p : Fin 2) (c : Byte) : (setControl s p c).fixed = s.fixed := by simp [setControl]
@[simp] theorem addErrors_fixed (s : State) (p : Fin 2) (e : BitVec 32) : (addErrors s p e).fixed = s.fixed := by simp [addErrors]
@[simp] theorem execTimedLocalTest_fixed (f : HostFrame) (s : State) : outFixed (execTimedLocalTest f s) = some s.fixed := by
  simp only [execTimedLocalTest, outFixed_next]; exact congrArg some (commandFrame_fixed _ _ _ _ _ _ (by intro s a; simp))
@[simp] theorem execTimedTestEnd_fixed (port : Fin 2) (errors : BitVec 32) (s : State) :
    outFixed (execTimedTestEnd port errors s) = some s.fixed := by
  simp [execTimedTestEnd]
@[simp] theorem execStopAllTests_fixed (f : HostFrame) (s : State) : outFixed (execStopAllTests f s) = some s.fixed := by
  simp only [execStopAllTests, outFixed_next]; exact congrArg some (commandFrame_fixed _ _ _ _ _ _ (by intro s a; simp))
@[simp] theorem execCheckerLock_fixed (port : Fin 2) (rx : List Bool) (s : State) : outFixed (execCheckerLock port rx s) = some s.fixed := by simp [execCheckerLock]
@[simp] theorem execCheckerLockLoss_fixed (port : Fin 2) (errors : BitVec 32) (window : BitVec 64) (s : State) :
    outFixed (execCheckerLockLoss port errors window s) = some s.fixed := by
  simp [execCheckerLockLoss]
@[simp] theorem execErrorThreshold_fixed (port : Fin 2) (errors : BitVec 32) (s : State) :
    outFixed (execErrorThreshold port errors s) = some s.fixed := by
  simp [execErrorThreshold]
@[simp] theorem execRemoteLinkTest_fixed (f : HostFrame) (s : State) : outFixed (execRemoteLinkTest f s) = some s.fixed := by
  simp only [execRemoteLinkTest, outFixed_next]; exact congrArg some (commandFrame_fixed _ _ _ _ _ _ (by intro s a; (repeat' split) <;> simp))
@[simp] theorem splitSides_fixed (s : State) (t : RemoteTest) : (splitSides s t).fixed = s.fixed := by simp [splitSides]
@[simp] theorem runEnd_fixed (s : State) (t : RemoteTest) : (runEnd s t).fixed = s.fixed := by unfold runEnd; (repeat' split) <;> simp
@[simp] theorem execRemoteTestStart_fixed (s : State) : outFixed (execRemoteTestStart s) = some s.fixed := by
  unfold execRemoteTestStart; (repeat' split) <;> simp
@[simp] theorem stopEnd_fixed (s : State) (t : RemoteTest) (errors : BitVec 32) : (stopEnd s t errors).fixed = s.fixed := by
  unfold stopEnd; (repeat' split) <;> simp
@[simp] theorem remoteDone_fixed (s : State) : (remoteDone s).fixed = s.fixed := by unfold remoteDone; (repeat' split) <;> simp
@[simp] theorem execRemoteTestEnd_fixed (errors : BitVec 32) (s : State) : outFixed (execRemoteTestEnd errors s) = some s.fixed := by
  simp only [execRemoteTestEnd]; (repeat' split) <;> simp
@[simp] theorem execLtStart_fixed (near : Bool) (r : CourseRx) (s : State) : outFixed (execLtStart near r s) = some s.fixed := by
  unfold execLtStart
  refine congrArg some (podRx_fixed _ _ _ _ fun s => ?_)
  dsimp only
  (repeat' split) <;> simp
@[simp] theorem execLtAck_fixed (r : CourseRx) (s : State) : outFixed (execLtAck r s) = some s.fixed := by
  unfold execLtAck
  refine congrArg some (headRx_fixed _ _ _ _ fun s => fromJoined_fixed _ _ _ fun s n => ?_)
  split
  · rfl
  · split <;> simp
@[simp] theorem execLtAbort_fixed (r : CourseRx) (s : State) : outFixed (execLtAbort r s) = some s.fixed := by
  unfold execLtAbort
  refine congrArg some (podRx_fixed _ _ _ _ fun s => ?_)
  split
  · rfl
  · split <;> simp
@[simp] theorem execLtDone_fixed (r : CourseRx) (s : State) : outFixed (execLtDone r s) = some s.fixed := by
  unfold execLtDone
  refine congrArg some (headRx_fixed _ _ _ _ fun s => fromJoined_fixed _ _ _ fun s n => ?_)
  dsimp only
  (repeat' split) <;> simp
@[simp] theorem execHostPortCheck_fixed (f : HostFrame) (s : State) : outFixed (execHostPortCheck f s) = some s.fixed := by
  simp only [execHostPortCheck, outFixed_next]; exact congrArg some (commandFrame_fixed _ _ _ _ _ _ (by intro s a; simp))
@[simp] theorem execFlashCheck_fixed (f : HostFrame) (s : State) : outFixed (execFlashCheck f s) = some s.fixed := by
  simp only [execFlashCheck, outFixed_next]; exact congrArg some (commandFrame_fixed _ _ _ _ _ _ (by intro s a; simp))
@[simp] theorem startWaitingWrite_fixed (s : State) : (startWaitingWrite s).fixed = s.fixed := by simp [startWaitingWrite]
@[simp] theorem execFlashCheckComplete_fixed (reads : Vector (List (Nat × Byte)) 4) (duration : BitVec 16) (s : State) :
    outFixed (execFlashCheckComplete reads duration s) = some s.fixed := by
  simp [execFlashCheckComplete]

end Sys2Proof.Machine
end

