-- ==== Sys2Proof/Laws/FixedHost.lean ====
section
/-! SUPPORT. What the functions and commands of the Keystone, Gate, host port and Cistern commands leave alone (`State.fixed`), or, where a reset or
a write is among their effects, what `Keeps` says. -/

set_option Elab.async false -- one theorem after another: the whole compiles within its memory

namespace Sys2Proof.Machine

/-! Keystone. -/

@[simp] theorem takeVote_fixed (s : State) (v : Int × Int × Int) : (takeVote s v).fixed = s.fixed := by simp [takeVote]
@[simp] theorem takeRefin_fixed (s : State) (ppm : Int) (microvolt : Int) : (takeRefin s ppm microvolt).fixed = s.fixed := by simp [takeRefin]
@[simp] theorem execReferenceVote_fixed (o : VoteObs) (s : State) : outFixed (execReferenceVote o s) = some s.fixed := by simp [execReferenceVote]
@[simp] theorem execClockCrossCount_fixed (o : ClockObs) (s : State) : outFixed (execClockCrossCount o s) = some s.fixed := by
  simp [execClockCrossCount]
@[simp] theorem execKclkLoss_fixed (s : State) : outFixed (execKclkLoss s) = some s.fixed := by simp [execKclkLoss]
@[simp] theorem copiesDiffer_fixed (s : State) : (copiesDiffer s).fixed = s.fixed := by
  simp only [copiesDiffer]; (repeat' split) <;> simp
@[simp] theorem execTestPattern_fixed (fails : BitVec 3) (s : State) : outFixed (execTestPattern fails s) = some s.fixed := by simp [execTestPattern]
@[simp] theorem execStartupTestsComplete_fixed (failed : Option (Fin 7)) (s : State) :
    outFixed (execStartupTestsComplete failed s) = some s.fixed := by
  unfold execStartupTestsComplete; (repeat' split) <;> simp
theorem clearedState_fixed (s : State) (code : Fin 28) : (clearedState s code).fixed = { s.fixed with supply := (clearedState s code).supply } := by
  unfold clearedState
  split
  · rfl
  · generalize hx : ({ s with spill := _ } : State) = x
    have h : x.fixed = s.fixed := by rw [← hx]; rfl
    have k := aoutsChanged_fixed x
    rw [k, h, show (aoutsChanged x).supply = s.supply from (congrArg Fixed.supply (k.trans h))]
    rfl
  · rfl
  · rfl
theorem execFaultClear_fixed (code : Fin 28) (s : State) :
    ∃ t, execFaultClear code s = .next t ∧ t.fixed = { s.fixed with supply := t.supply } := by
  unfold execFaultClear
  split
  · exact ⟨s, rfl, rfl⟩
  · refine ⟨_, rfl, ?_⟩
    have k := clearFault_fixed (clearedState s code) code
    rw [k, clearedState_fixed, show (clearFault (clearedState s code) code).supply = (clearedState s code).supply from congrArg Fixed.supply k]
theorem execFaultClear_keeps (code : Fin 28) (s : State) : OutKeeps s (execFaultClear code s) := by
  obtain ⟨t, h, k⟩ := execFaultClear_fixed code s
  simp only [State.fixed, Fixed.mk.injEq] at k
  exact ⟨t, h, Keeps.of_store (by simp only [State.store, k])⟩
@[simp] theorem injectFault_fixed (s : State) (code : Fin 28) : (injectFault s code).fixed = s.fixed := by simp [injectFault]
@[simp] theorem execInjectionExpiry_fixed (s : State) : outFixed (execInjectionExpiry s) = some s.fixed := by
  unfold execInjectionExpiry; (repeat' split) <;> simp

/-! Gate. -/

@[simp] theorem openSession_fixed (s : State) (c : Nat) : (openSession s c).fixed = s.fixed := by simp [openSession]
@[simp] theorem gateFail_fixed (s : State) (c : Nat) : (gateFail s c).fixed = s.fixed := by simp [gateFail]
@[simp] theorem gatePass_fixed (s : State) (c : Nat) : (gatePass s c).fixed = s.fixed := by simp [gatePass]
@[simp] theorem execOpenScope_fixed (f : HostFrame) (s : State) : outFixed (execOpenScope f s) = some s.fixed := by
  simp only [execOpenScope, outFixed_next]; exact congrArg some (commandFrame_fixed _ _ _ _ _ _ (by intro s a; simp))
@[simp] theorem execChallenge_fixed (f : HostFrame) (s : State) : outFixed (execChallenge f s) = some s.fixed := by
  simp only [execChallenge, outFixed_next]; exact congrArg some (commandFrame_fixed _ _ _ _ _ _ (by intro s a; simp))
@[simp] theorem consumeNonce_fixed (s : State) : (consumeNonce s).fixed = s.fixed := by simp [consumeNonce]
@[simp] theorem execResponse_fixed (f : HostFrame) (s : State) : outFixed (execResponse f s) = some s.fixed := by
  unfold execResponse
  refine congrArg some (commandFrame_fixed _ _ _ _ _ _ fun s a => ?_)
  generalize liveNonce s = l
  cases l with
  | none => rfl
  | some p =>
    simp only [snd_ite, fixed_ite, gatePass_fixed, gateFail_fixed, consumeNonce_fixed, ite_self]
@[simp] theorem execPassword_fixed (f : HostFrame) (s : State) : outFixed (execPassword f s) = some s.fixed := by
  simp only [execPassword, outFixed_next]; exact congrArg some (commandFrame_fixed _ _ _ _ _ _ (by intro s a; simp))
@[simp] theorem execRelock_fixed (f : HostFrame) (s : State) : outFixed (execRelock f s) = some s.fixed := by
  simp only [execRelock, outFixed_next]; exact congrArg some (commandFrame_fixed _ _ _ _ _ _ (by intro s a; simp))
@[simp] theorem execSeal_fixed (f : HostFrame) (s : State) : outFixed (execSeal f s) = some s.fixed := by
  simp only [execSeal, outFixed_next]; exact congrArg some (commandFrame_fixed _ _ _ _ _ _ (by intro s a; simp))
theorem raiseGate_keeps {s t : State} (h : Keeps s t) (kind bits : Nat) : Keeps s (raiseGate t kind bits) :=
  h.trans (Keeps.of_fixed (raiseGate_fixed ..))
theorem execSealComplete_keeps (keyOk tagOk sealOk : Bool) (s : State) : OutKeeps s (execSealComplete keyOk tagOk sealOk s) := by
  unfold execSealComplete
  split
  · exact .next (Keeps.of_fixed rfl)
  · dsimp only
    split
    · refine .next (raiseGate_keeps ?_ _ _)
      exact ⟨rfl, rfl, fun h => h, fun _ => rfl⟩
    · refine .next (raiseGate_keeps ?_ _ _)
      refine ⟨rfl, rfl, fun h => h, fun h => ?_⟩
      cases keyOk <;> cases tagOk <;> exact h
@[simp] theorem execNonceExpiry_fixed (s : State) : outFixed (execNonceExpiry s) = some s.fixed := by simp [execNonceExpiry]
@[simp] theorem execLockoutExpiry_fixed (s : State) : outFixed (execLockoutExpiry s) = some s.fixed := by simp [execLockoutExpiry]
@[simp] theorem execSessionInactivity_fixed (scope : Fin 3) (s : State) : outFixed (execSessionInactivity scope s) = some s.fixed := by
  simp [execSessionInactivity]

/-! HostRows. -/

@[simp] theorem execRead_fixed (f : HostFrame) (s : State) : outFixed (execRead f s) = some s.fixed := by simp [execRead]
@[simp] theorem replayRefused_fixed (s : State) (f : HostFrame) (c : Byte) : (replayRefused s f c).fixed = s.fixed := by simp [replayRefused]
@[simp] theorem execReplay_fixed (f : HostFrame) (s : State) : outFixed (execReplay f s) = some s.fixed := by
  unfold execReplay; dsimp only; (repeat' split) <;> simp
@[simp] theorem dataFrame_fixed (s : State) (op : Byte) (f : HostFrame) (lenOk : Bool) (body : State → List Byte → Byte × List Byte × ReadEffect) :
    (dataFrame s op f lenOk body).fixed = s.fixed := by
  simp [dataFrame]
@[simp] theorem execResults_fixed (f : HostFrame) (s : State) : outFixed (execResults f s) = some s.fixed := by simp [execResults]
@[simp] theorem execLog_fixed (f : HostFrame) (s : State) : outFixed (execLog f s) = some s.fixed := by simp [execLog]
@[simp] theorem execEvents_fixed (f : HostFrame) (s : State) : outFixed (execEvents f s) = some s.fixed := by simp [execEvents]
@[simp] theorem clearMarks_fixed (s : State) (fifo : List (Fin 8)) (spike : List (Fin 8)) : (clearMarks s fifo spike).fixed = s.fixed := by
  simp [clearMarks]
@[simp] theorem takeEvents_fixed (s : State) (n : Nat) (lost : Option (BitVec 16)) : (takeEvents s n lost).fixed = s.fixed := by
  unfold takeEvents; (repeat' split) <;> simp
@[simp] theorem putDelivered_fixed (s : State) (x : Vcn × BitVec 32 × BitVec 16) : (putDelivered s x).fixed = s.fixed := by
  unfold putDelivered; split <;> simp
@[simp] theorem readEffect_fixed (s : State) (x2 : ReadEffect) : (readEffect s x2).fixed = s.fixed := by unfold readEffect; (repeat' split) <;> simp
@[simp] theorem execHostFrameEnd_fixed (complete : Bool) (s : State) : outFixed (execHostFrameEnd complete s) = some s.fixed := by
  simp only [execHostFrameEnd]; (repeat' split) <;> simp
@[simp] theorem execHirqnReassert_fixed (s : State) : outFixed (execHirqnReassert s) = some s.fixed := by simp [execHirqnReassert]
@[simp] theorem writePort_fixed (s : State) (w : WriteReq) (p : Fin 2) : (writePort s w p).fixed = s.fixed := by simp [writePort]
@[simp] theorem writeEvents_fixed (s : State) (w : WriteReq) : (writeEvents s w).fixed = s.fixed := by simp [writeEvents]
@[simp] theorem writeSelects_fixed (s : State) (w : WriteReq) : (writeSelects s w).fixed = s.fixed := by simp [writeSelects]
@[simp] theorem writeProbe_fixed (s : State) (w : WriteReq) : (writeProbe s w).fixed = s.fixed := by simp [writeProbe]
@[simp] theorem writeInject_fixed (s : State) (w : WriteReq) : (writeInject s w).fixed = s.fixed := by
  simp only [writeInject]; (repeat' split) <;> simp
@[simp] theorem writeRegs_fixed (s : State) (addr : Nat) (pay : List Byte) : (writeRegs s addr pay).2.fixed = s.fixed := by simp [writeRegs]
@[simp] theorem execRegisterWrite_fixed (f : HostFrame) (s : State) : outFixed (execRegisterWrite f s) = some s.fixed :=
  congrArg some (writeFrame_fixed _ _ _ _ _ fun s n a => writeRegs_fixed s n a)
@[simp] theorem execEventPendingClear_fixed (f : HostFrame) (s : State) : outFixed (execEventPendingClear f s) = some s.fixed :=
  congrArg some (writeFrame_fixed _ _ _ _ _ fun s n a => writeRegs_fixed s n a)
@[simp] theorem execQueueMaskWrite_fixed (f : HostFrame) (s : State) : outFixed (execQueueMaskWrite f s) = some s.fixed :=
  congrArg some (writeFrame_fixed _ _ _ _ _ fun s n a => writeRegs_fixed s n a)
@[simp] theorem execIrqMaskWrite_fixed (f : HostFrame) (s : State) : outFixed (execIrqMaskWrite f s) = some s.fixed :=
  congrArg some (writeFrame_fixed _ _ _ _ _ fun s n a => writeRegs_fixed s n a)
@[simp] theorem execMereProbe_fixed (f : HostFrame) (s : State) : outFixed (execMereProbe f s) = some s.fixed :=
  congrArg some (writeFrame_fixed _ _ _ _ _ fun s n a => writeRegs_fixed s n a)
@[simp] theorem execKeystoneInject_fixed (f : HostFrame) (s : State) : outFixed (execKeystoneInject f s) = some s.fixed :=
  congrArg some (writeFrame_fixed _ _ _ _ _ fun s n a => writeRegs_fixed s n a)
@[simp] theorem execLinkTestControl_fixed (port : Fin 2) (f : HostFrame) (s : State) : outFixed (execLinkTestControl port f s) = some s.fixed :=
  congrArg some (writeFrame_fixed _ _ _ _ _ fun s n a => writeRegs_fixed s n a)
@[simp] theorem execLinkTestInject_fixed (port : Fin 2) (f : HostFrame) (s : State) : outFixed (execLinkTestInject port f s) = some s.fixed :=
  congrArg some (writeFrame_fixed _ _ _ _ _ fun s n a => writeRegs_fixed s n a)
@[simp] theorem execAcknowledgeAlarmLog_fixed (f : HostFrame) (s : State) : outFixed (execAcknowledgeAlarmLog f s) = some s.fixed := by
  simp only [execAcknowledgeAlarmLog, outFixed_next]; exact congrArg some (commandFrame_fixed _ _ _ _ _ _ (by intro s a; simp))
@[simp] theorem refused_fixed (s : State) (node : Nat) : (refused s node).fixed = s.fixed := by simp [refused]
@[simp] theorem execRemoteRegisterRead_fixed (f : HostFrame) (s : State) : outFixed (execRemoteRegisterRead f s) = some s.fixed := by
  simp only [execRemoteRegisterRead, outFixed_next]; exact congrArg some (commandFrame_fixed _ _ _ _ _ _ (by intro s a; (repeat' split) <;> simp))
@[simp] theorem execStatusReq_fixed (r : CourseRx) (s : State) : outFixed (execStatusReq r s) = some s.fixed := by simp [execStatusReq]

/-! Cistern. -/

@[simp] theorem handleDouble_fixed (s : State) (x2 : CisternPlace) : (handleDouble s x2).fixed = s.fixed := by unfold handleDouble; split <;> simp
@[simp] theorem scrubNext_fixed (s : State) : (scrubNext s).fixed = s.fixed := by simp [scrubNext]
@[simp] theorem handleEcc_fixed (s : State) (err : EccObs) : (handleEcc s err).fixed = s.fixed := by
  simp only [handleEcc]; (repeat' split) <;> simp
@[simp] theorem execScrubTick_fixed (err : EccObs) (s : State) : outFixed (execScrubTick err s) = some s.fixed := by
  unfold execScrubTick; (repeat' split) <;> simp
@[simp] theorem execLogSummary_fixed (s : State) : outFixed (execLogSummary s) = some s.fixed := by simp [execLogSummary]
@[simp] theorem execLogSample_fixed (entry : Fin 8) (s : State) : outFixed (execLogSample entry s) = some s.fixed := by
  simp only [execLogSample]; (repeat' split) <;> simp

end Sys2Proof.Machine
end

