-- ==== Sys2Proof/Laws/Flash.lean ====
section
/-! SUPPORT. What a write to the attached flash leaves to read. -/

set_option Elab.async false -- one theorem after another: the whole compiles within its memory

namespace Sys2Proof.Machine

/-- Below the first entry the bytes read erased. -/
theorem readFrom_succ_of_lt {l : List (Nat × Byte)} {n a : Nat} (h : ∀ p ∈ l, a < p.1) :
    readFrom (n + 1) l a = 0xFF :: readFrom n l (a + 1) := by
  cases l with
  | nil => rfl
  | cons p r =>
    have := h p (List.mem_cons_self ..)
    simp only [readFrom]
    rw [if_neg (by omega)]

/-- The cells of a byte list read as that list. -/
theorem readFrom_cells (l : List Byte) (a : Nat) : readFrom l.length (flashCells l a) a = l := by
  induction l generalizing a with
  | nil => rfl
  | cons b r ih =>
    simp only [List.length_cons, flashCells]
    split
    · rename_i hb
      rw [readFrom_succ_of_lt (fun p hp => (flashCells_ge hp).1), ih, hb]
    · simp only [readFrom, if_true, ih]

/-- One byte, by the entry of its address. -/
theorem readFrom_one {l : List (Nat × Byte)} (h : l.Pairwise fun p q => p.1 < q.1) (x : Nat) :
    readFrom 1 (l.dropWhile fun p => p.1 < x) x = [(l.lookup x).getD 0xFF] := by
  induction l with
  | nil => rfl
  | cons p r ih =>
    obtain ⟨k, b⟩ := p
    simp only [List.dropWhile_cons, List.lookup]
    by_cases hk : k < x
    · rw [if_pos (by simpa using hk), ih h.tail, show (x == k) = false by simp; omega]
    · rw [if_neg (by simpa using hk)]
      by_cases he : x = k
      · subst he; simp [readFrom]
      · have hn : r.lookup x = none := by
          rw [List.lookup_eq_none_iff]
          intro q hq
          have := List.rel_of_pairwise_cons h hq
          simp only at this
          simp; omega
        simp [readFrom, show ¬ k = x from fun e => he e.symm, show (x == k) = false by simp [he], hn]

/-- A byte of a present chip. -/
theorem flashRead_one {c : FlashChip} (hp : c.present = true) (h : c.content.Pairwise fun p q => p.1 < q.1) (x : Nat) :
    flashRead c x 1 = [(c.content.lookup x).getD 0xFF] := by
  unfold flashRead
  rw [if_pos hp, readFrom_one h]

/-- The entry of an address among the cells of a byte list; an erased byte has none. -/
theorem lookup_cells (l : List Byte) (a x : Nat) :
    ((flashCells l a).lookup x).getD 0xFF = if a ≤ x ∧ x < a + l.length then l.getD (x - a) 0xFF else 0xFF := by
  induction l generalizing a with
  | nil => rw [if_neg (by simp)]; rfl
  | cons b r ih =>
    by_cases he : x = a
    · subst he
      rw [if_pos (by simp)]
      simp only [flashCells]
      split
      · rename_i hb
        rw [ih, if_neg (by omega)]
        simp [hb]
      · simp
    · have e : ((flashCells (b :: r) a).lookup x).getD 0xFF = ((flashCells r (a + 1)).lookup x).getD 0xFF := by
        simp only [flashCells]
        split
        · rfl
        · simp [List.lookup, show (x == a) = false by simp [he]]
      rw [e, ih]
      simp only [List.length_cons]
      by_cases hx : a + 1 ≤ x ∧ x < a + 1 + r.length
      · rw [if_pos hx, if_pos (by omega)]
        rw [show x - a = (x - (a + 1)) + 1 by omega]
        rfl
      · rw [if_neg hx, if_neg (by omega)]

theorem lookup_takeWhile_lt (l : List (Nat × Byte)) (h : l.Pairwise fun p q => p.1 < q.1) (n x : Nat) :
    (l.takeWhile fun p => p.1 < n).lookup x = if x < n then l.lookup x else none := by
  induction l with
  | nil => simp [List.lookup]
  | cons p r ih =>
    obtain ⟨k, b⟩ := p
    simp only [List.takeWhile_cons]
    by_cases hk : k < n
    · simp only [hk, decide_true, if_true, List.lookup]
      by_cases he : x = k
      · subst he; simp [hk]
      · simp [show (x == k) = false by simp [he], ih h.tail]
    · simp only [hk, decide_false, Bool.false_eq_true, if_false]
      split
      · have : ((k, b) :: r).lookup x = none := by
          rw [List.lookup_eq_none_iff]
          intro q hq
          rcases List.mem_cons.1 hq with rfl | hq
          · simp; omega
          · have := List.rel_of_pairwise_cons h hq
            simp only at this
            simp; omega
        rw [this]; rfl
      · rfl

theorem lookup_dropWhile_lt (l : List (Nat × Byte)) (h : l.Pairwise fun p q => p.1 < q.1) (n x : Nat) :
    (l.dropWhile fun p => p.1 < n).lookup x = if n ≤ x then l.lookup x else none := by
  induction l with
  | nil => simp [List.lookup]
  | cons p r ih =>
    obtain ⟨k, b⟩ := p
    simp only [List.dropWhile_cons]
    by_cases hk : k < n
    · simp only [hk, decide_true, if_true, ih h.tail]
      split
      · simp [List.lookup, show (x == k) = false by simp; omega]
      · rfl
    · simp only [hk, decide_false, Bool.false_eq_true, if_false]
      split
      · rfl
      · rw [List.lookup_eq_none_iff]
        intro q hq
        rcases List.mem_cons.1 hq with rfl | hq
        · simp; omega
        · have := List.rel_of_pairwise_cons h hq
          simp only at this
          simp; omega

/-- Read after write: the bytes written, and every other byte as before. -/
theorem flashRead_write {c : FlashChip} (hp : c.present = true) (h : Memory.wf c.content) (a : Nat) (l : List Byte) (x : Nat) :
    flashRead (flashWrite c a l) x 1 = if a ≤ x ∧ x < a + l.length then [l.getD (x - a) 0xFF] else flashRead c x 1 := by
  have hs := h.1
  have hw : (flashWrite c a l).content.Pairwise fun p q => p.1 < q.1 := by
    have := flashWrite_canonical (s := { State.reset with flash := c }) (t := { State.reset with flash := flashWrite c a l }) rfl h
    exact this.1
  have hq : (flashWrite c a l).present = true := by unfold flashWrite; rw [if_pos hp]; exact hp
  rw [flashRead_one hq hw, flashRead_one hp hs]
  unfold flashWrite
  rw [if_pos hp]
  simp only [List.lookup_append, lookup_takeWhile_lt _ hs, lookup_dropWhile_lt _ hs]
  have hc := lookup_cells l a x
  by_cases hx : a ≤ x ∧ x < a + l.length
  · rw [if_pos hx] at hc ⊢
    rw [if_neg (by omega), if_neg (by omega), ← hc]
    simp
  · rw [if_neg hx] at hc ⊢
    have hn : (flashCells l a).lookup x = none := by
      rw [List.lookup_eq_none_iff]
      intro q hq
      have := flashCells_ge hq
      simp; omega
    rw [hn]
    by_cases h1 : x < a
    · rw [if_pos h1, if_neg (by omega)]; simp
    · rw [if_neg h1, if_pos (by omega)]; simp

end Sys2Proof.Machine
end

