-- ==== Sys2Proof/Laws/Gate.lean ====
section
/-! SUPPORT. The Gate: what opening a scope, a failure and the end of sessions do; a COMMAND frame in the form its meanings use. -/

set_option Elab.async false -- one theorem after another: the whole compiles within its memory

namespace Sys2Proof.Machine

/-- A COMMAND frame that the port takes, with the body's answer and state. -/
theorem commandFrame_next {s : State} {f : HostFrame} {code : Byte} {fix : List (Nat × Byte)} {n : Nat} {argOk : Nat → Bool}
    {body : State → List Byte → Byte × State} {st : Byte} {x : State} (u : State) (a : List Byte) (h : CommandReady s f code fix n)
    (hu : sessionActivity s = u) (ha : commandArgs f code fix = a) (hn : argOk n = true) (e : body u a = (st, x))
    (hc : reservedCommand code = false := by decide) (hf : (fix.all fun x => x.1 != 0) = true := by decide) :
    (Host.Outcome.next (commandFrame s f code fix argOk body) : Host.Outcome State Fault Refusal) = .next (replied x f code st) := by
  rw [commandFrame_ready h hn hc hf, hu, ha, e]

/-- EV28 is pending. -/
theorem raiseGate_pending (s : State) (k b : Nat) : (raiseGate s k b).events.pending.getLsbD 28 = true := raise_pending _ 28 _

theorem openSession_opened (u : State) (c : Nat) : Opened u (openSession u c) c := by
  unfold Opened openSession
  dsimp only
  by_cases h : u.gate.sessions[scopeIdx c] = none
  · rw [if_neg (by simp [-Fin.getElem_fin, h])]
    exact ⟨rfl, rfl, fun _ => ⟨raiseGate_pending _ _ _, rfl⟩, fun h' => absurd h h'⟩
  · rw [if_pos (by rw [Option.isSome_iff_ne_none]; exact h)]
    exact ⟨rfl, rfl, fun h' => absurd h' h, fun _ => ⟨rfl, rfl⟩⟩

theorem gateFail_failed (u : State) (c : Nat) : Failed u (gateFail u c) c := by
  unfold Failed gateFail
  refine ⟨rfl, rfl, raiseGate_pending _ _ _, ?_, ?_⟩
  · intro n h hn
    show some _ = some _
    change (sat16 u.gate.failures).toNat = n + 1 at h
    rw [h, lockoutFor, if_neg (by omega), Nat.add_sub_cancel]
  · intro h
    show some _ = some _
    change 12 < (sat16 u.gate.failures).toNat at h
    rw [lockoutFor, if_pos (by omega)]

/-- The head's own end of a remote test that runs is back in service, and the ring is closed again from the next sweep. -/
def remoteFreed (s : State) (t : RemoteTest) : State :=
  let s := { s with course := { s.course with remote := none } }
  closeRingAgain (if t.running then freeRemotePort s t else s) t

theorem abortRemote_live {s : State} {t : RemoteTest} (hr : s.role = .head) (ht : s.course.remote = some t) :
    abortRemote s = raise (originate (remoteFreed s t) (usedPorts (remoteFreed s t)) 0x2A 255 2 0 [t.node, 0, 0, 0]) 29
      (4 + 16 + 256 * t.node.toNat) := by
  unfold abortRemote
  split
  · rename_i t' _ ht'
    obtain rfl : t' = t := Option.some.inj (ht'.symm.trans ht)
    rfl
  · rename_i h
    exact absurd ht (h t hr)

theorem remoteFreed_eq (s : State) (t : RemoteTest) : remoteFreed s t = { s with course := (remoteFreed s t).course } ∧
    (remoteFreed s t).course.remote = none ∧
    ∀ p : Fin 2, (remoteFreed s t).course.ports[p] =
      if t.running = true ∧ t.port = some p then { s.course.ports[p] with control := 0, inject := 0 } else s.course.ports[p] := by
  unfold remoteFreed closeRingAgain freeRemotePort
  dsimp only
  cases t.running with
  | false => exact ⟨rfl, rfl, fun p => by simp⟩
  | true =>
    cases t.port with
    | none => exact ⟨rfl, rfl, fun p => by simp⟩
    | some q => exact ⟨rfl, rfl, fun p => by simp only [if_true, Option.some.injEq, true_and]; rw [vmod_get]⟩

/-- The abort of a remote test changes Course and events, and a port without a test stays without one. -/
theorem abortRemote_eq (s : State) : abortRemote s = { s with course := (abortRemote s).course, events := (abortRemote s).events } ∧
    ∀ p : Fin 2, s.course.ports[p].control = 0 → s.course.ports[p].timed = false →
      (abortRemote s).course.ports[p].control = 0 ∧ (abortRemote s).course.ports[p].timed = false := by
  by_cases h : s.role = .head ∧ ∃ t, s.course.remote = some t
  · obtain ⟨hr, t, ht⟩ := h
    rw [abortRemote_live hr ht]
    obtain ⟨h1, h2, -⟩ := originate_ports (remoteFreed s t) (usedPorts (remoteFreed s t)) 0x2A 255 2 0 [t.node, 0, 0, 0]
    obtain ⟨k1, -, k3⟩ := remoteFreed_eq s t
    generalize originate (remoteFreed s t) (usedPorts (remoteFreed s t)) 0x2A 255 2 0 [t.node, 0, 0, 0] = o at h1 h2 ⊢
    refine ⟨?_, fun p hc hm => ?_⟩
    · obtain ⟨c, hc⟩ : ∃ c, remoteFreed s t = { s with course := c } := ⟨_, k1⟩
      rw [hc] at h1
      rw [h1]
      rfl
    · have e := (h2 p).1
      unfold QueueOnly at e
      show o.course.ports[p].control = 0 ∧ o.course.ports[p].timed = false
      rw [e, k3]
      split
      · exact ⟨rfl, hm⟩
      · exact ⟨hc, hm⟩
  · have e : abortRemote s = s := by
      unfold abortRemote
      split
      · rename_i t hr ht
        exact absurd ⟨hr, t, ht⟩ h
      · rfl
    rw [e]
    exact ⟨rfl, fun p hc hm => ⟨hc, hm⟩⟩

/-- Bit `i` of the open sessions. -/
theorem sessionBits_testBit (s : State) (i : Fin 3) : (sessionBits s).testBit i.val = (s.gate.sessions[i]).isSome := by
  unfold sessionBits
  have h : ∀ a b c : Bool, ∀ i : Fin 3, ((if a = true then 1 else 0) + (if b = true then 2 else 0) + (if c = true then 4 else 0) : Nat).testBit i.val =
      (if i = 0 then a else if i = 1 then b else c) := by decide
  rw [h]
  fin_cases i <;> rfl

/-- The stop of the link tests. -/
theorem stopLinkTests_ports (s : State) (p : Fin 2) : (stopLinkTests s).course.ports[p] = { s.course.ports[p] with control := 0, inject := 0, timed := false } := by
  unfold stopLinkTests
  simp [Fin.getElem_fin]

/-- The state when sessions among the bits `b` have ended, before the event. -/
def sessionsOff (s : State) (b : Nat) : State :=
  let keep (i : Nat) (o : Option Nat) : Option Nat := if b.testBit i then none else o
  let g := s.gate.sessions
  let s := { s with gate := { s.gate with sessions := #v[keep 0 g[0], keep 1 g[1], keep 2 g[2]] } }
  let s := if b.testBit 0 then { s with cal := { s.cal with pending := none } } else s
  if b.testBit 1 then abortRemote (stopLinkTests s) else s

theorem endSessions_off (s : State) (bits k : Nat) (h : sessionBits s &&& bits ≠ 0) :
    endSessions s bits (some k) = raiseGate (sessionsOff s (sessionBits s &&& bits)) k (sessionBits s &&& bits) := by
  unfold endSessions
  dsimp only
  rw [if_neg h]
  rfl

theorem sessionsOff_eq (s : State) (b : Nat) :
    sessionsOff s b = { s with gate := { s.gate with sessions := (sessionsOff s b).gate.sessions }, cal := (sessionsOff s b).cal
                               course := (sessionsOff s b).course, events := (sessionsOff s b).events } ∧
      (∀ i : Fin 3, (sessionsOff s b).gate.sessions[i] = if b.testBit i.val = true then none else s.gate.sessions[i]) ∧
      (sessionsOff s b).cal = (if b.testBit 0 = true then { s.cal with pending := none } else s.cal) ∧
      (b.testBit 1 = false → (sessionsOff s b).course = s.course) ∧
      (b.testBit 1 = true → ∀ p : Fin 2, (sessionsOff s b).course.ports[p].control = 0 ∧ (sessionsOff s b).course.ports[p].timed = false) := by
  have vec : ∀ i : Fin 3, (#v[if b.testBit 0 then none else s.gate.sessions[0], if b.testBit 1 then none else s.gate.sessions[1],
      if b.testBit 2 then none else s.gate.sessions[2]] : Vector (Option Nat) 3)[i] = if b.testBit i.val = true then none else s.gate.sessions[i] := by
    intro i; fin_cases i <;> rfl
  have main : ∀ x : State, x = { s with gate := { s.gate with sessions := x.gate.sessions }, cal := x.cal, course := x.course } →
      (∀ p : Fin 2, x.course.ports[p].control = 0 ∧ x.course.ports[p].timed = false) →
      abortRemote x = { s with gate := { s.gate with sessions := (abortRemote x).gate.sessions }, cal := (abortRemote x).cal
                               course := (abortRemote x).course, events := (abortRemote x).events } ∧
        (abortRemote x).gate.sessions = x.gate.sessions ∧ (abortRemote x).cal = x.cal ∧
        ∀ p : Fin 2, (abortRemote x).course.ports[p].control = 0 ∧ (abortRemote x).course.ports[p].timed = false := by
    intro x hx hp
    obtain ⟨h2, h3⟩ := abortRemote_eq x
    refine ⟨?_, by rw [h2], by rw [h2], fun p => h3 p (hp p).1 (hp p).2⟩
    generalize (abortRemote x).course = c at h2 ⊢
    generalize (abortRemote x).events = e at h2 ⊢
    rw [h2, hx]
  unfold sessionsOff
  dsimp only
  cases h1 : b.testBit 1 with
  | false =>
    cases h0 : b.testBit 0 <;> rw [h0, h1] at vec
    all_goals
      simp only [Bool.false_eq_true, if_false, if_true] at vec ⊢
      refine ⟨?_, vec, ?_, ?_, ?_⟩ <;> first | trivial | (intro h; cases h)
  | true =>
    cases h0 : b.testBit 0 <;> rw [h0, h1] at vec
    · obtain ⟨h2, h3, h4, h5⟩ := main (stopLinkTests { s with gate := { s.gate with sessions := #v[s.gate.sessions[0], none, if b.testBit 2 = true then none else s.gate.sessions[2]] }, cal := s.cal })
        rfl (fun p => by rw [stopLinkTests_ports]; exact ⟨rfl, rfl⟩)
      exact ⟨h2, fun i => (congrArg (fun v : Vector (Option Nat) 3 => v[i]) h3).trans (vec i), h4, fun h => absurd h (by decide), fun _ => h5⟩
    · obtain ⟨h2, h3, h4, h5⟩ := main (stopLinkTests { s with gate := { s.gate with sessions := #v[none, none, if b.testBit 2 = true then none else s.gate.sessions[2]] }, cal := { s.cal with pending := none } })
        rfl (fun p => by rw [stopLinkTests_ports]; exact ⟨rfl, rfl⟩)
      exact ⟨h2, fun i => (congrArg (fun v : Vector (Option Nat) 3 => v[i]) h3).trans (vec i), h4, fun h => absurd h (by decide), fun _ => h5⟩

/-- The open sessions among `bits` end, with EV28. -/
theorem endSessions_ended (u : State) (bits k : Nat) : SessionsEnded u (endSessions u bits (some k)) bits := by
  by_cases hb : sessionBits u &&& bits = 0
  · have e : endSessions u bits (some k) = u := by unfold endSessions; dsimp only; rw [if_pos hb]
    rw [e]
    have z : ∀ i : Fin 3, bits.testBit i.val = true → u.gate.sessions[i] = none := by
      intro i hi
      have := congrArg (Nat.testBit · i.val) hb
      simpa [Nat.testBit_and, hi, sessionBits_testBit, -Fin.getElem_fin] using this
    refine ⟨rfl, rfl, fun i => ?_, fun _ => rfl, fun h => absurd hb h, rfl, fun h h' => absurd (z 0 h) h', fun h h' => absurd (z 1 h) h', fun _ => rfl⟩
    split
    · exact z i ‹_›
    · rfl
  · rw [endSessions_off _ _ _ hb]
    obtain ⟨h1, h2, h3, h4, h5⟩ := sessionsOff_eq u (sessionBits u &&& bits)
    have bt : ∀ i : Fin 3, (sessionBits u &&& bits).testBit i.val = ((u.gate.sessions[i]).isSome && bits.testBit i.val) := by
      intro i; rw [Nat.testBit_and, sessionBits_testBit]
    generalize sessionsOff u (sessionBits u &&& bits) = x at *
    refine ⟨?_, ?_, fun i => ?_, fun h => absurd h hb, fun _ => raiseGate_pending _ _ _, ?_, fun h h' => ?_, fun h h' => ?_, fun h => ?_⟩
    · obtain ⟨v, c, o, e, rfl⟩ : ∃ v c o e, x = { u with gate := { u.gate with sessions := v }, cal := c, course := o, events := e } := ⟨_, _, _, _, h1⟩
      rfl
    · obtain ⟨v, c, o, e, rfl⟩ : ∃ v c o e, x = { u with gate := { u.gate with sessions := v }, cal := c, course := o, events := e } := ⟨_, _, _, _, h1⟩
      rfl
    · show x.gate.sessions[i] = _
      rw [h2, bt]
      cases hs : u.gate.sessions[i] <;> cases bits.testBit i.val <;> rfl
    · show x.cal = { u.cal with pending := x.cal.pending }
      rw [h3]; split <;> rfl
    · show x.cal.pending = none
      rw [h3, if_pos]
      exact (bt 0).trans (Bool.and_eq_true_iff.mpr ⟨Option.isSome_iff_ne_none.mpr h', h⟩)
    · apply h5
      exact (bt 1).trans (Bool.and_eq_true_iff.mpr ⟨Option.isSome_iff_ne_none.mpr h', h⟩)
    · show x.course = _
      apply h4
      exact (bt 1).trans ((congrArg _ h).trans (Bool.and_false _))

end Sys2Proof.Machine
end

