-- ==== Sys2Proof/Laws/Updates.lean ====
section
/-! SUPPORT. The named updates of the state, one lemma per field they write, true by `rfl`. -/

set_option Elab.async false -- one theorem after another: the whole compiles within its memory

namespace Sys2Proof.Machine

@[simp] theorem withSlew_slew (s : State) (r : Option Int) : (withSlew s r).time.slew = r := rfl

@[simp] theorem holdMove_effect (s : State) (m : TimeMove) : (holdMove s m).host.effect = .timeSet m := rfl

@[simp] theorem setNode_nodes (s : State) (n : Node) : (setNode s n).course.nodes = putNode n s.course.nodes := rfl

@[simp] theorem modPod_pod (s : State) (f : Pod → Pod) : (modPod s f).course.pod = f s.course.pod := rfl

@[simp] theorem drawFree_count (s : State) : (drawFree s).2.freeCount = s.freeCount + 1 := rfl

@[simp] theorem putUnits_slew (s : State) (u : Nat) : (putUnits s u).time.slew = s.time.slew := rfl

end Sys2Proof.Machine
end

