-- ==== Sys2Proof/Tests/Slice0.lean ====
section
/-! SUPPORT. Tests: the well-formedness smoke tests, one ill-formed term for each check; fixed-value checks of the
meanings; witnesses for the hypotheses of the statements. -/

set_option Elab.async false -- one theorem after another: the whole compiles within its memory

namespace Sys2Proof.Tests

open Sys2Proof.Machine

/-- A host frame with nothing in it. -/
def emptyFrame : HostFrame := { opcode := 1, flags := 0, address := 0, length := 0, headerCrc := 0, payload := [], payloadCrc := 0 }

/-- A Course frame with nothing in it. -/
def emptyRx : CourseRx :=
  { port := 0, dst := 0, src := 0, seq := 0, len := 0, classVer := 0, credit := 0, hop := 0, payload := [], crc := 0,
    endedEarly := false }

/-- An erased flash. -/
def emptyChip : FlashChip :=
  { present := true, missingByte := 0xFF, content := [], sfdp := [], status05 := [0, 0], status35 := 0 }

theorem test_wf_flash_order :
    (Instr.footingStart (some { emptyChip with content := [(4, 1), (4, 2)] }) 0).wellFormed = false := by decide
theorem test_wf_flash_erased_entry :
    (Instr.footingStart (some { emptyChip with content := [(4, 0xFF)] }) 0).wellFormed = false := by decide
theorem test_wf_flash_beyond :
    (Instr.footingStart (some { emptyChip with content := [(4294967296, 1)] }) 0).wellFormed = false := by decide
theorem test_wf_flash_status :
    (Instr.footingStart (some { emptyChip with status05 := [0] }) 0).wellFormed = false := by decide
theorem test_wf_flash_missing_byte :
    (Instr.footingStart (some { emptyChip with missingByte := 0x55 }) 0).wellFormed = false := by decide
theorem test_wf_flash_good : (Instr.footingStart (some emptyChip) 0).wellFormed = true := by decide
/-- What a Weir latches: nothing. -/
def quiet : WeirObs := { pos := 0, neg := 0, endCode := 0, startCode := 0, spanHit := false, shadow := none, tone := [] }

/-- A boundary at which every Weir latches `o`. -/
def boundary (o : WeirObs) : BoundaryObs :=
  { weirs := Vector.replicate 23 o, excMin := 0, supplies := Vector.replicate 16 (0, 0), lin := [], bad := [] }

theorem test_wf_tone : (Instr.frameBoundary (boundary { quiet with tone := [{ we2 := false, neg := false, t := 1048576000 }] })).wellFormed
    = false := by decide +kernel
theorem test_wf_heater :
    (Instr.heaterLoopTick 0 [{ vEnd := -1, iEnd := 0, vMean := 0, out := 0, limitUs := none }]).wellFormed = false := by decide +kernel
theorem test_wf_heater_limit :
    (Instr.heaterFault 0 [{ vEnd := 1, iEnd := 0, vMean := 0, out := 0, limitUs := some 321 }]).wellFormed = false := by decide +kernel
theorem test_wf_burnout : (Instr.burnoutCheckEnd (.aux 0) (-1)).wellFormed = false := by decide +kernel
theorem test_wf_power : (Instr.thermalEvaluation (-1)).wellFormed = false := by decide
theorem test_wf_course : (Instr.nak { emptyRx with payload := List.replicate 256 0 }).wellFormed = false := by
  simp only [Instr.wellFormed, CourseRx.wellFormed, List.length_replicate]; decide
theorem test_wf_host : (Instr.read { emptyFrame with payload := List.replicate 65536 0 }).wellFormed = false := by
  simp only [Instr.wellFormed, HostFrame.wellFormed, List.length_replicate]; decide

/-- A state with a section of that ID in force. -/
def withSec (id : Byte) (p : List Byte) (s : State) : State :=
  { s with config := some { secs := (id, p) :: (match s.config with | some c => c.secs | none => []) } }
/-- Reset with every supply up and the power-on reset released into a mode: the smallest state in which a mode runs. -/
def up : State :=
  { State.reset with
    phase := .running
    supply := { vdd := true, vdda := true, vddio := true, vin := true, vratio := true, ao := true, coreRunning := true } }

/-- RUN. -/
def run : State := { up with modes := { up.modes with mode := .run } }
/-! Witnesses for StepRunsFrontCommand. -/

theorem witness_StepRunsFrontCommand : ∃ (s : State) (c : Instr) (rest : List Instr), s.pending = c :: rest :=
  ⟨{ up with pending := [.plumbWrap] }, .plumbWrap, [], rfl⟩
theorem witness_StepRunsFrontCommand_empty : up.pending = [] := rfl

/-! Witnesses for EveryCommandAnswers. -/

theorem witness_EveryCommandAnswers : ∃ t, exec .plumbWrap up = .next t := ⟨_, rfl⟩

/-! Witnesses for CommandsKeepQueue. -/

theorem witness_CommandsKeepQueue : ∃ t, exec .plumbWrap up = .next t := ⟨_, rfl⟩

/-! Witnesses for FactoryStoreFixed. -/

theorem witness_FactoryStoreFixed : ∃ t, step up = .next t := ⟨_, rfl⟩

/-! Witnesses for SealedStaysSealed. -/

theorem witness_SealedStaysSealed : ∃ s t : State, s.otp.sealBit = true ∧ step s = .next t :=
  ⟨{ up with otp := { up.otp with sealBit := true } }, _, rfl, rfl⟩

/-! Witnesses for FlashKeepsForm. -/

theorem witness_FlashKeepsForm : ∃ s t : State, StepInvariant s ∧ step s = .next t :=
  ⟨up, _, ⟨⟨List.Pairwise.nil, fun _ h => nomatch h⟩, fun _ h => nomatch h⟩, rfl⟩

/-! Witnesses for ResetMeetsInvariant. -/

theorem witness_ResetMeetsInvariant : State.reset.pending = [] ∧ State.reset.phase = .porHold := ⟨rfl, rfl⟩

/-! Witnesses for RoleFixedAfterSampling. -/

theorem witness_RoleFixedAfterSampling : (∀ rolesel testen, Instr.pinReset ≠ .vddPorRelease rolesel testen) ∧
    (∃ t, exec .pinReset up = .next t) ∧ up.phase ≠ .porHold := ⟨fun _ _ h => (by cases h), ⟨_, rfl⟩, by decide⟩

/-! Witnesses for ModeFromHandoverOnly. -/

theorem witness_ModeFromHandoverOnly : (∀ o, Instr.plumbWrap ≠ .handover o) ∧ ∃ t, exec .plumbWrap up = .next t :=
  ⟨fun _ h => (by cases h), _, rfl⟩

/-! Witnesses for FaultnLowInSafeAndResets. -/

theorem witness_FaultnLow : inSafe { up with modes := { up.modes with mode := .safe } } = true ∧ up.ks.started = false ∧
    isActive { run with ks := { run.ks with started := true } } = true ∧ ({ run with ks := { run.ks with started := true } } : State).ks.started = true := by
  decide +kernel

/-! Witnesses for SuppliesRiseAndRelease. -/

/-- Power-on reset asserted with two supplies up. -/
def lacking (vdd vdda vddio : Bool) : State :=
  { State.reset with supply := { vdd := vdd, vdda := vdda, vddio := vddio } }
theorem witness_SupplyRise_vdd : (lacking false true true).phase = .porHold ∧ (lacking false true true).supply.vdda = true ∧
    (lacking false true true).supply.vddio = true := ⟨rfl, rfl, rfl⟩
theorem witness_SupplyRise_vdda : (lacking true false true).phase = .porHold ∧ (lacking true false true).supply.vdd = true ∧
    (lacking true false true).supply.vddio = true := ⟨rfl, rfl, rfl⟩
theorem witness_SupplyRise_vddio : (lacking true true false).phase = .porHold ∧ (lacking true true false).supply.vdd = true ∧
    (lacking true true false).supply.vdda = true := ⟨rfl, rfl, rfl⟩
theorem witness_SupplyRise_missing : State.reset.phase = .porHold ∧ State.reset.supply.vdda = false ∧
    State.reset.supply.vdd = false ∧ State.reset.supply.ao = false := ⟨rfl, rfl, rfl, rfl⟩
theorem witness_SupplyRise_io : ({ up with phase := .reset .ioSupply } : State).phase = .reset .ioSupply := rfl
theorem witness_VddPorRelease : ∃ s : State, s.phase = .porHold ∧ s.supply.releaseTimer = true ∧ s.supply.releaseFrom + 1600 ≤ s.clk :=
  ⟨{ State.reset with clk := 1600, supply := { releaseTimer := true } }, rfl, rfl, by decide⟩
theorem witness_VddPorRelease_early : State.reset.clk < State.reset.supply.releaseFrom + 1600 := by decide

/-! Witnesses for PowerOnAndAoResets. -/

theorem witness_VddPorAssert : up.phase ≠ .porHold ∧ State.reset.phase = .porHold := ⟨by decide, rfl⟩

/-! Witnesses for WarmResetsStart. -/

/-- A COMMAND frame of a code and arguments, without CRC. -/
def cmd (code : Byte) (args : List Byte) : HostFrame :=
  { opcode := 0x10, flags := 0, address := 0, length := BitVec.ofNat 16 (args.length + 4), headerCrc := 0, payload := [code, 0, 0, 0] ++ args,
    payloadCrc := 0 }
/-- A mode with sessions open. -/
def open3 : State := { up with gate := { up.gate with sessions := #v[some 0, some 0, some 0] } }
theorem witness_WarmReset_watchdog : ∃ s : State, isRunning s = true ∧ s.ks.wdClk = some 0 ∧ 0 + watchdogUs s ≤ s.clk ∧
    s.ks.wdClk.isSome = true ∧ (0x55 : Byte) ≠ s.ks.wdWord :=
  ⟨{ up with clk := 100000000, ks := { up.ks with wdClk := some 0 } }, by decide, rfl, by decide +kernel, by decide, by decide⟩
theorem witness_WarmReset_footing : ∃ s : State, s.phase = .footing ∧ s.boot.startClk + 3000000 ≤ s.clk :=
  ⟨{ up with phase := .footing, clk := 3000000 }, rfl, by decide⟩
theorem witness_WarmReset_host : CommandReady open3 (cmd 0x02 []) 0x02 [] 0 ∧ hasCal (sessionActivity open3) = true := by
  refine ⟨⟨?_, ?_, ?_, ?_, ?_, ?_⟩, ?_⟩ <;> decide +kernel

/-! Witnesses for ResetsEnd. -/

theorem witness_ResetsEnd_pin : ({ up with phase := .reset .pin } : State).phase = .reset .pin := rfl
theorem witness_ResetsEnd_hold : ∃ s : State, s.phase = .reset .thermal ∧ s.modes.resetClk + 100 ≤ s.clk :=
  ⟨{ up with phase := .reset .thermal, clk := 100 }, rfl, by decide⟩
theorem witness_ResetsEnd_early : ∃ s : State, s.phase = .reset .thermal ∧ s.clk < s.modes.resetClk + 100 :=
  ⟨{ up with phase := .reset .thermal }, rfl, by decide⟩
theorem witness_ResetsEnd_io : ∃ s : State, s.phase = .reset .ioSupply ∧ s.supply.vddio = true ∧ s.supply.ioTimer = true ∧
    s.supply.ioFrom + 1600 ≤ s.clk :=
  ⟨{ up with phase := .reset .ioSupply, clk := 1600, supply := { up.supply with ioTimer := true } }, rfl, rfl, rfl, by decide⟩

/-! Witnesses for SupplyMonitors. -/

theorem witness_VinUvlo : isRunning up = true ∧ up.supply.vdd = true ∧ up.supply.vin = true := by decide
theorem witness_VinUvloEnd : railWanted (withSec 7 (List.replicate 64 1) run) = true ∧ run.rail.state = .off := by decide +kernel
theorem witness_Vratio : isRunning (withSec 0x0C (List.replicate 32 1) { up with spill := { up.spill with aout := #v[{ driven := true }, {}] } }) = true ∧
    aoutPresent (withSec 0x0C (List.replicate 32 1) up) 0 = true := by decide +kernel
theorem witness_VinUvlo_handover : isRunning { up with phase := .loaded } = false ∧ up.supply.vdd = true ∧ up.supply.vin = true := by decide
theorem witness_SupplyExcursion : isRunning up = true ∧ (36 : Rat) < 37 ∧ faultActive up 0x16 = false := by decide +kernel
theorem witness_VinUvlo_again : ∃ s : State, s.supply.vin = false ∧ s.rail.lockout = true :=
  ⟨{ State.reset with rail := { State.reset.rail with lockout := true } }, rfl, rfl⟩

/-! Witnesses for FootingLoadsAndHandsOver. -/

/-- A head, or a pod, in Footing. -/
def footing (role : Role) (ok : Bool) : State :=
  { up with phase := .footing, role := role, cornerstone := { up.cornerstone with ok := ok } }
theorem witness_Footing_failed : (footing .head false).phase = .footing ∧ (footing .head false).cornerstone.ok = false := ⟨rfl, rfl⟩
theorem witness_Footing_pod : (footing .pod true).phase = .footing ∧ (footing .pod true).cornerstone.ok = true ∧
    (footing .pod true).role = .pod := ⟨rfl, rfl, rfl⟩
theorem witness_Footing_missing : (footing .head true).phase = .footing ∧ (footing .head true).cornerstone.ok = true ∧
    (footing .head true).role = .head ∧ ({ emptyChip with present := false, missingByte := 0 } : FlashChip).present = false :=
  ⟨rfl, rfl, rfl, rfl⟩
theorem witness_Footing_idle : emptyChip.present = true ∧ bit (u8 emptyChip.status05 0) 0 = false := by decide
theorem witness_Footing_busy : ({ emptyChip with status05 := [1, 0] } : FlashChip).present = true ∧
    bit (u8 ({ emptyChip with status05 := [1, 0] } : FlashChip).status05 0) 0 = true := by decide
theorem witness_FlashWipTimeout : ∃ s : State, s.phase = .footing ∧ s.cornerstone.ok = true ∧ s.role = .head ∧ s.boot.wipClk = some 0 ∧
    0 + 500000 ≤ s.clk :=
  ⟨{ footing .head true with clk := 500000, boot := { up.boot with wipClk := some 0 } }, rfl, rfl, rfl, rfl, by decide⟩
theorem witness_Handover : ({ up with phase := .loaded } : State).phase = .loaded := rfl
theorem witness_BootEnter_safe : ({ up with modes := { up.modes with thermalLatch := true } } : State).modes.thermalLatch = true := rfl
theorem witness_BootEnter_mode : ∃ x : State, x.role = .head ∧ x.modes.thermalLatch = false ∧ x.boot.safeCause = none ∧
    x.config.isSome = true ∧ watchdogLimit x = false :=
  ⟨withSec 2 [0, 1, 2, 6] up, rfl, rfl, rfl, rfl, by decide⟩
theorem witness_BootEnter_pod : ∃ x : State, x.role = .pod ∧ x.modes.thermalLatch = false ∧ x.boot.safeCause = none ∧ x.config.isSome = true ∧
    watchdogLimit x = false ∧ x.course.pod.autonomous = false ∧ x.course.pod.sweepClk ≠ 0 ∧ x.course.pod.headMode = modeCode .watch :=
  ⟨withSec 2 [0, 1, 2, 6] { up with role := .pod, course := { up.course with pod := { up.course.pod with sweepClk := 1, headMode := 1 } } },
    rfl, rfl, rfl, rfl, by decide, rfl, by decide, rfl⟩
theorem witness_BootEnter_waits : ∃ x : State, x.role = .pod ∧ watchdogLimit x = false ∧ x.config.isSome = true ∧ x.course.pod.sweepClk = 0 :=
  ⟨withSec 2 [0, 1, 2, 6] { up with role := .pod }, rfl, by decide, rfl, rfl⟩

/-! Witnesses for ModeRequests. -/

/-- Section 0x02 of a configuration that allows host and automatic changes. -/
def modeSec : List Byte := [0, 1, 2, 6, 0, 0, 0, 1, 10, 0, 0, 0, 3, 0, 0, 0]
/-- A head in a mode under that section. -/
def inMode (m : Mode) : State := withSec 2 modeSec { up with modes := { up.modes with mode := m } }
theorem witness_ModeRun : CommandReady (inMode .watch) (cmd 1 [0, 0, 0, 0]) 0x01 [(4, 0)] 4 ∧
    zeros (commandArgs (cmd 1 [0, 0, 0, 0]) 0x01 [(4, 0)]) 1 3 = true ∧ (sessionActivity (inMode .watch)).modes.mode = .watch ∧
    cfgHostMode (sessionActivity (inMode .watch)) = true := by
  refine ⟨⟨?_, ?_, ?_, ?_, ?_, ?_⟩, ?_⟩ <;> decide +kernel
theorem witness_ModeRun_refused : CommandReady { up with modes := { up.modes with mode := .watch } } (cmd 1 [0, 0, 0, 0]) 0x01 [(4, 0)] 4 ∧
    cfgHostMode (sessionActivity { up with modes := { up.modes with mode := .watch } }) = false := by
  refine ⟨⟨?_, ?_, ?_, ?_, ?_, ?_⟩, ?_⟩ <;> decide +kernel
theorem witness_ModeRun_run : CommandReady run (cmd 1 [0, 0, 0, 0]) 0x01 [(4, 0)] 4 ∧ (sessionActivity run).modes.mode = .run := by
  refine ⟨⟨?_, ?_, ?_, ?_, ?_, ?_⟩, ?_⟩ <;> decide +kernel
theorem witness_ModeRun_safe : CommandReady (inMode .safe) (cmd 1 [0, 0, 0, 0]) 0x01 [(4, 0)] 4 ∧
    (sessionActivity (inMode .safe)).modes.causes &&& ~~~(0x0340 : BitVec 16) = 0 ∧
    ((sessionActivity { inMode .safe with modes := { (inMode .safe).modes with causes := 0x80 } }).modes.causes &&& ~~~(0x0340 : BitVec 16)) ≠ 0 := by
  refine ⟨⟨?_, ?_, ?_, ?_, ?_, ?_⟩, ?_⟩ <;> decide +kernel
theorem witness_ModeWatch : CommandReady (inMode .run) (cmd 1 [1, 0, 0, 0]) 0x01 [(4, 1)] 4 ∧
    cfgHostMode (sessionActivity (inMode .run)) = true ∧ CommandReady run (cmd 1 [1, 0, 0, 0]) 0x01 [(4, 1)] 4 ∧
    cfgHostMode (sessionActivity run) = false := by
  refine ⟨⟨?_, ?_, ?_, ?_, ?_, ?_⟩, ?_, ⟨?_, ?_, ?_, ?_, ?_, ?_⟩, ?_⟩ <;> decide +kernel
theorem witness_ModeWatch_safe : CommandReady (inMode .safe) (cmd 1 [1, 0, 0, 0]) 0x01 [(4, 1)] 4 ∧
    (sessionActivity (inMode .safe)).modes.mode = .safe ∧ (sessionActivity (inMode .safe)).modes.causes &&& ~~~(0x0340 : BitVec 16) = 0 ∧
    CommandReady (inMode .watch) (cmd 1 [1, 0, 0, 0]) 0x01 [(4, 1)] 4 ∧ (sessionActivity (inMode .watch)).modes.mode = .watch := by
  refine ⟨⟨?_, ?_, ?_, ?_, ?_, ?_⟩, ?_, ?_, ⟨?_, ?_, ?_, ?_, ?_, ?_⟩, ?_⟩ <;> decide +kernel
theorem witness_ModeSafe_again : CommandReady (inMode .safe) (cmd 1 [2, 0, 0, 0]) 0x01 [(4, 2)] 4 ∧ inSafe (sessionActivity (inMode .safe)) = true := by
  refine ⟨⟨?_, ?_, ?_, ?_, ?_, ?_⟩, ?_⟩ <;> decide +kernel
theorem witness_ModeSafe : CommandReady run (cmd 1 [2, 0, 0, 0]) 0x01 [(4, 2)] 4 ∧
    zeros (commandArgs (cmd 1 [2, 0, 0, 0]) 0x01 [(4, 2)]) 1 3 = true ∧ isActive (sessionActivity run) = true := by
  refine ⟨⟨?_, ?_, ?_, ?_, ?_, ?_⟩, ?_⟩ <;> decide +kernel
theorem witness_ModeBoundary : ∃ s : State, isActive s = true ∧ allEndHere s = true ∧ s.role = .head ∧ s.modes.hostReq = some .watch :=
  ⟨{ run with sysClk := some run.clk, modes := { run.modes with hostReq := some .watch } }, by decide, by decide +kernel, rfl, rfl⟩
theorem witness_ModeBoundary_between : allEndHere { run with sysClk := none } = false := by decide +kernel
theorem witness_ModeBoundary_pod : ∃ s : State, isRunning s = true ∧ allEndHere s = true ∧ s.role = .pod ∧ s.course.pod.autonomous = false ∧
    s.course.pod.sweepClk ≠ 0 ∧ s.course.pod.headMode = modeCode .watch ∧ s.modes.mode ≠ .watch ∧ s.modes.mode = .safe ∧ s.modes.causes = 0 :=
  ⟨{ up with role := .pod, sysClk := some up.clk, modes := { up.modes with mode := .safe }
             course := { up.course with pod := { up.course.pod with sweepClk := 1, headMode := 1 } } },
    by decide, by decide +kernel, rfl, rfl, by decide, rfl, by decide, rfl, rfl⟩
theorem witness_ModeBoundary_autonomous : ∃ s : State, s.role = .pod ∧ s.course.pod.autonomous = true :=
  ⟨{ run with role := .pod, course := { run.course with pod := { run.course.pod with autonomous := true } } }, rfl, rfl⟩
theorem witness_ModeBoundary_none : pendingMode run = none := by decide
theorem witness_SafeAutoExit_keystone : ∃ s : State, inSafe s = true ∧ s.role = .head ∧ cfgAuto s = true ∧ s.modes.causes = 0 ∧
    s.modes.goneClk = some 0 ∧ 0 + cfgSafeHold s ≤ s.clk ∧ startMode s ≠ .safe :=
  ⟨{ inMode .safe with clk := 100000000, modes := { (inMode .safe).modes with goneClk := some 0 } },
    by decide, rfl, by decide, rfl, rfl, by decide +kernel, by decide⟩
theorem witness_SafeAutoExit : ∃ s : State, inSafe s = true ∧ s.role = .head ∧ cfgAuto s = true ∧ s.modes.causes = 0x0040 ∧
    s.modes.railCauseGone = true ∧ s.modes.goneClk = some 0 ∧ 0 + cfgSafeHold s ≤ s.clk ∧ startMode s ≠ .safe :=
  ⟨{ inMode .safe with clk := 100000000, modes := { (inMode .safe).modes with causes := 0x0040, railCauseGone := true, goneClk := some 0 } },
    by decide, rfl, by decide, rfl, rfl, rfl, by decide +kernel, by decide⟩

/-! Witnesses for BiasStartsSlewsAndRetires. -/

/-- RUN one second after reset, with channel 0 at a stage of its bias. -/
def ecAt (g : BiasStage) (dac : Int) : State :=
  { run with clk := 1000000, ec := vmod run.ec 0 fun c =>
      { c with stage := g, enabled := true, shorted := false, dac := dac, target := 2, rate := 1000, warmUntil := some 5 } }
theorem witness_Bias : isActive (ecAt .cold 0) = true ∧ (ecAt .cold 0).ec[(0 : Fin 8)].stage = .cold ∧
    (ecAt .cold 0).ec[(0 : Fin 8)].stageClk + 1000 ≤ (ecAt .cold 0).clk ∧
    isActive (ecAt .biased 1) = true ∧ (ecAt .biased 1).ec[(0 : Fin 8)].dac < (ecAt .biased 1).ec[(0 : Fin 8)].target ∧
    (ecAt .biased 1).ec[(0 : Fin 8)].stepDue ≤ ((ecAt .biased 1).clk : Rat) ∧
    (ecAt .biased 3).ec[(0 : Fin 8)].target < (ecAt .biased 3).ec[(0 : Fin 8)].dac ∧ (ecAt .biased 2).ec[(0 : Fin 8)].dac = 2 := by
  decide +kernel
theorem witness_Bias_retire : isActive (ecAt .retiring 1) = true ∧ (ecAt .retiring 1).ec[(0 : Fin 8)].stage = .retiring ∧
    (ecAt .retiring (-1)).ec[(0 : Fin 8)].dac < 0 ∧ (ecAt .retiredAtZero 0).ec[(0 : Fin 8)].stage = .retiredAtZero ∧
    isActive (ecAt .retiredAtZero 0) = true ∧ isRunning (ecAt .retiredShorted 0) = true ∧
    (ecAt .retiredShorted 0).ec[(0 : Fin 8)].stage = .retiredShorted ∧
    (ecAt .retiredShorted 0).ec[(0 : Fin 8)].stageClk + 1000 ≤ (ecAt .retiredShorted 0).clk := by decide +kernel
theorem witness_Bias_early : up.clk < up.ec[(0 : Fin 8)].stageClk + 1000 ∧ ∃ s : State, s.ec[(0 : Fin 8)].stage = .biased ∧
    (s.clk : Rat) < s.ec[(0 : Fin 8)].stepDue :=
  ⟨by decide +kernel, { up with ec := vmod up.ec 0 fun c => { c with stage := .biased, stepDue := 7 } }, by decide +kernel⟩
theorem witness_Warmup : (ecAt .biased 0).ec[(0 : Fin 8)].warmUntil = some 5 ∧ 5 ≤ (ecAt .biased 0).clk ∧
    ∃ s : State, s.mox[(0 : Fin 6)].warmUntil = some 5 ∧ s.clk < 5 :=
  ⟨by decide +kernel, by decide +kernel, { up with mox := vmod up.mox 0 fun m => { m with warmUntil := some 5 } }, by decide +kernel⟩
theorem witness_Bias_safe : inSafe up = true := by decide

/-! Witnesses for ComplianceEpisodes. -/

/-- A counter electrode at its voltage limit, and one far from it, for a time. -/
def ceHigh (us : Nat) : CeObs := { volts := 22 / 10, amps := 0, us := us }
def ceLow (us : Nat) : CeObs := { volts := 0, amps := 1 / 10 ^ 6, us := us }
theorem witness_ComplianceEpisodes : ∃ s : State, isRunning s = true ∧ ecPresent s 0 = true ∧ s.ec[(0 : Fin 8)].enabled = true ∧
    s.ec[(0 : Fin 8)].compliance = false ∧ (215 / 100 : Rat) ≤ ratAbs (ceHigh 1000).volts ∧ 1000 ≤ (ceHigh 1000).us :=
  ⟨withSec 4 [0, 0, 0, 0, 1, 0, 0, 0, 0, 0x20, 0, 1] (ecAt .biased 0), by decide +kernel⟩
theorem witness_ComplianceEpisodes_in : ∃ s : State, s.ec[(0 : Fin 8)].compliance = true ∧ ratAbs (ceLow 1000000).volts < (215 / 100 : Rat) ∧
    ratAbs (ceLow 1000000).amps < (250 / 10 ^ 6 : Rat) ∧ 1000000 ≤ (ceLow 1000000).us :=
  ⟨{ up with ec := vmod up.ec 0 fun c => { c with compliance := true } }, by decide +kernel⟩
theorem witness_ComplianceEpisodes_short : (ceHigh 999).us < 1000 ∧ (ceLow 999999).us < 1000000 := by decide

/-! Witnesses for BiasAndSweepCommands. -/

/-- A present channel 0 with a tone of that mode, in a mode. -/
def ecCfg (mode : Byte) (m : Mode) : State :=
  withSec 4 [0, 0, 0, 0, 1, 0, 0, 0, 0, 0x20, 0, 1] (withSec 5 [mode, 10, 1, 1] { open3 with modes := { up.modes with mode := m } })
theorem witness_BiasCommand : CommandReady (ecCfg 0 .run) (cmd 4 (List.replicate 12 0)) 4 [] 12 ∧
    hasCal (sessionActivity (ecCfg 0 .run)) = true ∧ ecPresent (sessionActivity (ecCfg 0 .run)) 0 = true ∧
    biasFitsTone (sessionActivity (ecCfg 0 .run)) 0 0 = true ∧ inSafe (sessionActivity (ecCfg 0 .run)) = false := by
  refine ⟨⟨?_, ?_, ?_, ?_, ?_, ?_⟩, ?_⟩ <;> decide +kernel
theorem witness_BiasCommand_safe : CommandReady (ecCfg 0 .safe) (cmd 4 (List.replicate 12 0)) 4 [] 12 ∧
    inSafe (sessionActivity (ecCfg 0 .safe)) = true ∧ ecPresent (sessionActivity (ecCfg 0 .safe)) 0 = true ∧
    ecPresent (sessionActivity (ecCfg 0 .safe)) 1 = false := by
  refine ⟨⟨?_, ?_, ?_, ?_, ?_, ?_⟩, ?_⟩ <;> decide +kernel
theorem witness_BiasCommand_bad : CommandReady (ecCfg 0 .run) (cmd 4 (8 :: List.replicate 11 0)) 4 [] 12 ∧
    8 ≤ u8 (commandArgs (cmd 4 (8 :: List.replicate 11 0)) 4 []) 0 := by
  refine ⟨⟨?_, ?_, ?_, ?_, ?_, ?_⟩, ?_⟩ <;> decide +kernel
theorem witness_BiasCommand_locked : CommandReady run (cmd 4 (List.replicate 12 0)) 4 [] 12 ∧ hasCal (sessionActivity run) = false := by
  refine ⟨⟨?_, ?_, ?_, ?_, ?_, ?_⟩, ?_⟩ <;> decide +kernel
theorem witness_SweepCommand : CommandReady (ecCfg 2 .run) (cmd 6 [1, 0, 0, 0]) 6 [] 4 ∧
    maskChannels (u8 (commandArgs (cmd 6 [1, 0, 0, 0]) 6 []) 0) = [0] ∧ toneMode (sessionActivity (ecCfg 2 .run)) 0 = 2 ∧
    (sessionActivity (ecCfg 2 .run)).tones[(0 : Fin 8)].sweeping = false ∧ inSafe (sessionActivity (ecCfg 2 .run)) = false := by
  refine ⟨⟨?_, ?_, ?_, ?_, ?_, ?_⟩, ?_⟩ <;> decide +kernel
theorem witness_SweepCommand_bad : CommandReady (ecCfg 1 .run) (cmd 6 [1, 0, 0, 0]) 6 [] 4 ∧ toneMode (sessionActivity (ecCfg 1 .run)) 0 ≠ 2 := by
  refine ⟨⟨?_, ?_, ?_, ?_, ?_, ?_⟩, ?_⟩ <;> decide +kernel
theorem witness_SweepCommand_safe : CommandReady (ecCfg 2 .safe) (cmd 6 [1, 0, 0, 0]) 6 [] 4 ∧ inSafe (sessionActivity (ecCfg 2 .safe)) = true := by
  refine ⟨⟨?_, ?_, ?_, ?_, ?_, ?_⟩, ?_⟩ <;> decide +kernel
theorem witness_SweepCommand_busy : ∃ s : State, CommandReady s (cmd 6 [1, 0, 0, 0]) 6 [] 4 ∧
    (sessionActivity s).tones[(0 : Fin 8)].sweeping = true ∧ toneMode (sessionActivity s) 0 = 2 :=
  ⟨{ ecCfg 2 .run with tones := vmod up.tones 0 fun t => { t with sweeping := true } },
    by refine ⟨⟨?_, ?_, ?_, ?_, ?_, ?_⟩, ?_⟩ <;> decide +kernel⟩

/-! Witnesses for BurnOutAndAuxVisit. -/

/-- AUX0 present with a burn-out check, W22 on, one second into the visit of AUX0. -/
def auxOn : State :=
  withSec 9 [1, 0, 0, 0, 0, 0, 0, 0, 0, 0, 0, 0, 1, 1, 10, 0, 1, 1, 1, 100]
    { run with clk := 1000000, aux := { run.aux with visits := 1 }, weirs := vmod run.weirs 22 fun w => { w with on := true } }
/-- A conversion of an AUX slot. -/
def auxObs (slot : AuxSlot) : AuxObs :=
  { slot := slot, pos := 4, neg := 0, startCode := 2048, endCode := 2049, spanHit := false, shadow := none }
theorem witness_Burn : burnDue auxOn (.aux 0) = true ∧ auxOn.burns[burnIdx (.aux 0)].isOpen = false ∧ visitNow auxOn = some (.input 0) ∧
    auxOn.aux.visitClk + auxGap auxOn + auxDischarge auxOn + burnUs auxOn (.input 0) ≤ auxOn.clk := by decide +kernel
theorem witness_Burn_open : ((burnCfg auxOn (.aux 0)).2.2.2 : Rat) / 100 < 2 ∧ ¬ ((burnCfg auxOn (.aux 0)).2.2.2 : Rat) / 100 < 1 := by
  decide +kernel
theorem witness_Burn_film : ∃ s : State, burnDue s (.film 0) = true ∧ s.weirs[weirOfFilm 0].frameClk = some 0 ∧
    0 + 2 + 100 * u8 (filmBurn s 0) 2 ≤ s.clk :=
  ⟨withSec 5 (List.replicate 208 0 ++ [1, 1, 1, 100]) (withSec 6 [1] { run with
      clk := 1000000, weirs := vmod run.weirs (weirOfFilm 0) fun w => { w with on := true, frameClk := some 0 } }),
    by decide +kernel⟩
theorem witness_AuxVisit : isActive auxOn = true ∧ visitNow auxOn = some (.input 0) ∧ (auxObs (.input 0)).shadow = none ∧
    (auxOn.aux.visitClk : Rat) + visitUs auxOn (.input 0) ≤ (auxOn.clk : Rat) ∧
    visitNow { auxOn with aux := { auxOn.aux with visits := 0 } } = some .exs := by decide +kernel
theorem witness_AuxVisit_exs : ∃ s : State, (s.aux.visitClk : Rat) + visitUs s .exs ≤ (s.clk : Rat) := by
  refine ⟨{ auxOn with clk := 100 * Config.exsTime }, ?_⟩
  have h : (auxGap { auxOn with clk := 100 * Config.exsTime } + auxDischarge { auxOn with clk := 100 * Config.exsTime } +
    auxSettle { auxOn with clk := 100 * Config.exsTime } : Nat) = 0 := by
    show auxGap auxOn + auxDischarge auxOn + auxSettle auxOn = 0
    decide +kernel
  simp only [visitUs, slotBurns, h, slotTime, Bool.false_eq_true, if_false]
  show ((auxOn.aux.visitClk : Nat) : Rat) + _ ≤ _
  rw [show auxOn.aux.visitClk = 0 from rfl]
  push_cast
  linarith
theorem witness_MuxNode : ∃ s : State, visitNow s = some (.input 0) ∧ slotBurns s (.input 0) = false ∧
    s.aux.visitClk + auxGap s ≤ s.clk ∧ s.clk < s.aux.visitClk + auxGap s + auxDischarge s :=
  ⟨withSec 9 [1, 0, 0, 0, 0, 2, 10, 0, 0, 0, 0, 0, 1, 0, 10, 0] { auxOn with clk := 5, aux := { auxOn.aux with visits := 0 } }, by decide +kernel⟩

/-! Witnesses for ElectrodeFrames. -/

/-- Working electrode 0 of a biased channel in RUN, at a boundary of its frames, its VCN known. -/
def weState (on drop : Bool) : State :=
  { withSec 4 [0, 0, 0, 0, 1, 0, 0, 0, 0, 0x3F, 0, 1] (ecAt .biased 2) with
    time := { run.time with counting := true }
    weirs := vmod up.weirs 0 fun x => { x with on := on, dropFrame := drop }, results := [(0, { frameSeq := 1 })] }
theorem witness_Boundary : (∀ w : Fin 23, (boundary quiet).weirs[w].shadow = none) ∧ (boundary quiet).lin = [] ∧ (boundary quiet).bad = [] := by
  decide
theorem witness_Electrode : pathRuns (weState true false) (weirOfWe 0) = true ∧ (weState true false).weirs[weirOfWe 0].on = true ∧
    onGrid (weState true false) (pathUs (weState true false) (weirOfWe 0)) = true ∧
    (weState true false).weirs[weirOfWe 0].frameClk ≠ some (weState true false).clk ∧
    (weState true false).weirs[weirOfWe 0].dropFrame = false ∧ ruleCount (weState true false) = 0 ∧
    boundModel (sec (weState true false) 0x0A) 0 = none ∧ refPending (weState true false) = false ∧
    entryOf (weState true false) (ownVcn (weState true false) 0) = some { frameSeq := 1 } := by decide +kernel
theorem witness_Electrode_range : bit (rangeCtl (weState true false) (weirOfWe 0)) 4 = true ∧
    field (rangeCtl (weState true false) (weirOfWe 0)) 0 2 ≤ field (rangeCtl (weState true false) (weirOfWe 0)) 2 2 := by decide +kernel
theorem witness_Electrode_start : pathRuns (weState false false) (weirOfWe 0) = true ∧ (weState false false).weirs[weirOfWe 0].on = false ∧
    pathRuns (weState true true) (weirOfWe 0) = true ∧ (weState true true).weirs[weirOfWe 0].dropFrame = true := by decide +kernel
theorem witness_Electrode_stays : pathRuns run (weirOfWe 0) = false ∧ onGrid up (pathUs up (weirOfWe 0)) = false := by decide +kernel
/-- A frame without packets ends: raw value 0 in the record of the frame that ended. -/
theorem test_electrode_record :
    (match exec (.frameBoundary (boundary { quiet with endCode := 2048, startCode := 2048 })) (weState true false) with
      | .next t => (entryOf t 0).bind (·.record) |>.map fun k => (k.seq, k.raw, k.value)
      | _ => none) = some (1, 0, 0) := by decide +kernel

/-! Witnesses for FilmAndAuxFrames. -/

/-- Film 0 of a present MOX channel in RUN, at a boundary of its frames. -/
def filmState (on : Bool) : State :=
  { withSec 6 (1 :: List.replicate 479 0) run with
    time := { run.time with counting := true }
    weirs := vmod up.weirs 16 fun x => { x with on := on }, results := [(0x10, { frameSeq := 1 })] }
theorem witness_Film : pathRuns (filmState true) (weirOfFilm 0) = true ∧ (filmState true).weirs[weirOfFilm 0].on = true ∧
    onGrid (filmState true) (pathUs (filmState true) (weirOfFilm 0)) = true ∧
    (filmState true).weirs[weirOfFilm 0].frameClk ≠ some (filmState true).clk ∧
    (filmState true).weirs[weirOfFilm 0].dropFrame = false ∧ (filmState true).mox[(0 : Fin 6)].frameSample = false ∧
    (filmState true).mox[(0 : Fin 6)].override = .none ∧ ruleCount (filmState true) = 0 ∧
    (entryOf (filmState true) (ownVcn (filmState true) 0x10)).isSome = true := by decide +kernel
theorem witness_Film_start : pathRuns (filmState false) (weirOfFilm 0) = true ∧ (filmState false).weirs[weirOfFilm 0].on = false := by
  decide +kernel
theorem witness_Film_off : pathRuns run (weirOfFilm 0) = false := by decide +kernel
theorem witness_AuxFrame : ∃ s : State, pathRuns s 22 = true ∧ onGrid s (pathUs s 22) = true ∧ s.weirs[(22 : Fin 23)].frameClk ≠ some s.clk :=
  ⟨{ auxOn with time := { run.time with counting := true } }, by decide +kernel⟩

/-! Witnesses for SystemFrames. -/

/-- A state at a boundary of every frame and at a whole second. -/
def onBoundary (s : State) : State := { s with time := { s.time with counting := true } }
theorem witness_SystemFrame : isActive (onBoundary run) = true ∧ onGrid (onBoundary run) (frameUs (frameK run run.modes.mode)) = true ∧
    (onBoundary run).sysClk ≠ some run.clk ∧ (onBoundary run).sysOn = false ∧ (onBoundary { run with sysOn := true }).sysOn = true ∧
    run.role = .head ∧ run.sysDrop = false := by decide +kernel
theorem witness_SystemFrame_between : onGrid run (frameUs (frameK run run.modes.mode)) = false := by decide +kernel
theorem witness_Housekeeping : inSafe (onBoundary up) = true ∧ onCount (onBoundary up) 1000000 = true ∧ (onBoundary up).sysClk ≠ some up.clk ∧
    (onBoundary up).sysOn = false ∧ inSafe (onBoundary { up with sysOn := true }) = true ∧ inSafe run = false ∧
    onCount up 1000000 = false := by decide +kernel

/-! Witnesses for HeaterLoopAndProfile. -/

/-- Channel 0 present, the rail on, its heater in a state, a millisecond after its last tick. -/
def heating (m : Mox) : State :=
  withSec 6 ([1, 0, 0, 0, 0, 0, 0x10, 0x27, 0, 0, 0x80, 0x42, 0, 16, 0, 0, 0, 0, 0, 0, 0, 0, 0, 0, 0, 1, 10, 0, 10] ++
      List.replicate 187 0 ++ [2, 0, 1, 0, 0, 0, 0, 0, 1, 0, 0xE8, 3, 1, 0, 0, 0, 3, 0, 100, 0, 1, 0, 0, 0] ++ List.replicate 240 0)
    (withSec 7 [1, 0, 0x88, 0x13, 0, 0, 0, 0, 0xA0, 0x0F]
      { open3 with clk := open3.clk + 1000000, modes := { run.modes with mode := .run }
                   rail := { run.rail with state := .on }, mox := run.mox.set 0 m })
/-- A pulse with those readings at its end. -/
def pulse (v i out : Rat) : HeaterPulse := { vEnd := v, iEnd := i, vMean := v, out := out, limitUs := none }
theorem witness_HeaterLoop : moxHeats (heating { started := true }) 0 = true ∧ heaterPowered (heating { started := true }) 0 = true ∧
    (heating { started := true }).mox[(0 : Fin 6)].override = .none ∧ (heating { started := true }).mox[(0 : Fin 6)].started = true ∧
    (heating { started := true }).mox[(0 : Fin 6)].tickClk + 1000 ≤ (heating { started := true }).clk ∧
    stepKind (heating { started := true }) 0 0 = 1 ∧ stepCount (heating { started := true }) 0 = 2 ∧
    (tickPulses (heating { started := true }) 0 [pulse 2 (1 / 32) 2]).1 = [pulse 2 (1 / 32) 2] ∧
    ratMean ([pulse 2 (1 / 32) 2].filterMap pulseOhm) = some 64 := by decide +kernel
theorem witness_HeaterLoop_target : heaterPowered (heating { override := .target 1000 0 }) 0 = true ∧
    (heating { override := .target 1000 0 }).mox[(0 : Fin 6)].override = .target 1000 0 := by decide +kernel
theorem witness_HeaterLoop_off : heaterPowered (heating { override := .off }) 0 = true ∧ driveOf (heating { override := .off }) 0 = .off ∧
    heaterPowered (heating { fault := some .kelvin }) 0 = false ∧ moxHeats (heating { fault := some .kelvin }) 0 = true := by decide +kernel
theorem witness_HeaterLoop_duty : heaterPowered (heating { started := true, step := 1 }) 0 = true ∧
    stepKind (heating { started := true, step := 1 }) 0 1 = 3 ∧ (heating { started := true, step := 1 }).mox[(0 : Fin 6)].held = false := by
  decide +kernel
theorem witness_ProfileStep : 0 + 1000 * stepTicks (heating { started := true }) 0 0 ≤ (heating { started := true }).clk ∧
    (heating { started := true, commanded := true }).mox[(0 : Fin 6)].commanded = true ∧
    ∃ s : State, moxHeats s 0 = true ∧ s.mox[(0 : Fin 6)].started = true ∧
      s.clk < s.mox[(0 : Fin 6)].stepClk + 1000 * stepTicks s 0 s.mox[(0 : Fin 6)].step :=
  ⟨by decide +kernel, by decide +kernel, heating { started := true, stepClk := 9000000 }, by decide +kernel⟩
theorem witness_HeaterFault : heaterPowered (heating {}) 0 = true ∧ pulseFault (heating {}) 0 [pulse 5 (1 / 1000) 5] = some .openCircuit ∧
    faultActive (heating {}) 0x11 = false ∧ (cfgSafeMask (heating {})).getLsbD 0x11 = false := by decide +kernel
theorem witness_HeaterFault_more : faultActive { heating {} with ks := { up.ks with active := 0x20000 } } 0x11 = true ∧
    heaterPowered { heating {} with ks := { up.ks with active := 0x20000 } } 0 = true := by decide +kernel
/-- A duty of 0.02 has an on-time of 0.1 microseconds: groups of four; of 0.001: the accumulator. -/
theorem test_pulseMode : pulseMode (1 / 50) = .grouped 4 (2 / 5) ∧ pulseMode (1 / 1000) = .density (1 / 200) := by decide +kernel

/-! Witnesses for HeaterCommands. -/

theorem witness_HeaterCommands : CommandReady (heating {}) (cmd 5 [0, 0, 0, 0, 0, 0, 0, 0]) 0x05 [(5, 0)] 8 ∧
    hasCal (sessionActivity (heating {})) = true ∧ moxPresent (sessionActivity (heating {})) 0 = true ∧
    moxHeats (sessionActivity (heating {})) 0 = true ∧ moxPresent (sessionActivity (heating {})) 1 = false := by
  refine ⟨⟨?_, ?_, ?_, ?_, ?_, ?_⟩, ?_⟩ <;> decide +kernel
theorem witness_HeaterCommands_resume : CommandReady (heating {}) (cmd 5 [0, 1, 0, 0, 0, 0, 0, 0]) 0x05 [(5, 1)] 8 ∧
    u8 (commandArgs (cmd 5 [0, 1, 0, 0, 0, 0, 0, 0]) 0x05 [(5, 1)]) 0 = 0 := by
  refine ⟨⟨?_, ?_, ?_, ?_, ?_, ?_⟩, ?_⟩ <;> decide +kernel
theorem witness_HeaterCommands_off : CommandReady (heating {}) (cmd 5 [0, 2, 0, 0, 0, 0, 0, 0]) 0x05 [(5, 2)] 8 ∧
    u16 (commandArgs (cmd 5 [0, 2, 0, 0, 0, 0, 0, 0]) 0x05 [(5, 2)]) 2 = 0 := by
  refine ⟨⟨?_, ?_, ?_, ?_, ?_, ?_⟩, ?_⟩ <;> decide +kernel
theorem witness_HeaterCommands_clear : CommandReady (heating { fault := some .kelvin }) (cmd 5 [0, 3, 0, 0, 0, 0, 0, 0]) 0x05 [(5, 3)] 8 ∧
    moxHeats (sessionActivity (heating { fault := some .kelvin })) 0 = true := by
  refine ⟨⟨?_, ?_, ?_, ?_, ?_, ?_⟩, ?_⟩ <;> decide +kernel
theorem witness_HeaterCommands_locked : CommandReady run (cmd 5 [0, 0, 0, 0, 0, 0, 0, 0]) 0x05 [(5, 0)] 8 ∧ hasCal (sessionActivity run) = false := by
  refine ⟨⟨?_, ?_, ?_, ?_, ?_, ?_⟩, ?_⟩ <;> decide +kernel
theorem witness_HeaterCommands_bad : CommandReady open3 (cmd 5 [6, 0, 0, 0, 0, 0, 0, 0]) 0x05 [(5, 0)] 8 ∧ hasCal (sessionActivity open3) = true := by
  refine ⟨⟨?_, ?_, ?_, ?_, ?_, ?_⟩, ?_⟩ <;> decide +kernel
/-- Channel 0 present, in SAFE. -/
def heatSafe : State := withSec 6 (1 :: List.replicate 479 0) open3
theorem witness_HeaterCommands_mode : CommandReady heatSafe (cmd 5 [0, 0, 0, 0, 0, 0, 0, 0]) 0x05 [(5, 0)] 8 ∧
    hasCal (sessionActivity heatSafe) = true ∧ moxPresent (sessionActivity heatSafe) 0 = true ∧ moxHeats (sessionActivity heatSafe) 0 = false := by
  refine ⟨⟨?_, ?_, ?_, ?_, ?_, ?_⟩, ?_⟩ <;> decide +kernel

/-! Witnesses for RailStartsAndChainSwitches. -/

/-- RUN, a second on, with a rail of 4 A, chain switch 0 enabled, in a rail state. -/
def railAt (r : Rail) : State :=
  withSec 7 [3, 0x24, 0x88, 0x13, 0, 0, 0, 0, 0xA0, 0x0F, 0xE8, 3, 0, 0, 250, 0] { run with clk := 20000000, rail := r }
/-- A check that the phases of a list pass at 200 mA. -/
def checkObs (l : List (Fin 4)) : PhaseCheckObs := Vector.ofFn fun p => if p ∈ l then (200, 200) else (200, 0)
def volts (v : Rat) : RailVolts := { hrs := v, balls := v, us := 10000 }
def switchAt (out : Rat) (cur : Nat) (us : Nat) : SwitchObs := { out := out, rail := 5, cur := cur, us := us }
theorem witness_RailStart : railWanted (railAt {}) = true ∧ (railAt {}).rail.state = .off ∧ railWanted up = false := by decide +kernel
theorem witness_RailPhaseCheck : isRunning (railAt { state := .phaseCheck }) = true ∧
    (railAt { state := .phaseCheck }).rail.state = .phaseCheck ∧ (cfgSafeMask (railAt {})).getLsbD 0x13 = false ∧
    (railAt { state := .phaseCheck }).rail.startClk + 128 ≤ (railAt { state := .phaseCheck }).clk := by decide +kernel
theorem witness_RailPhaseCheck_count :
    ((List.finRange 4).filter fun p => !phasePasses (checkObs [0, 1]) p ||
      (railAt { state := .phaseCheck }).rail.phases[p] == .lost).length = 2 ∧
    ((List.finRange 4).filter fun p => !phasePasses (checkObs [0]) p ||
      (railAt { state := .phaseCheck }).rail.phases[p] == .lost).length = 3 := by decide +kernel
theorem witness_RailSwitch : (railAt { state := .softStart }).rail.state = .softStart ∧ chainEnabled (railAt {}) 0 = true ∧
    ratAbs ((volts 5).hrs - cfgSetpoint (railAt {})) ≤ 3 / 100 * cfgSetpoint (railAt {}) ∧
    chainEnabled (railAt {}) 1 = false ∧ (cfgSafeMask (railAt {})).getLsbD 0x12 = false ∧
    9 / 10 * (switchAt 5 0 0).rail ≤ (switchAt 5 0 0).out ∧ 9 / 10 ≤ switchRamp (railAt {}) 0 := by decide +kernel
theorem witness_RailSwitch_states : ∃ a b : State, a.rail.sw[(0 : Fin 2)].state = .softStart ∧ b.rail.sw[(0 : Fin 2)].state = .failed ∧
    b.rail.state = .on ∧ b.modes.railHold = true ∧ 100 * b.modes.holdClk + 95 * b.modes.holdUs ≤ 100 * b.clk ∧
    b.rail.sw[(0 : Fin 2)].failClk + 100000 * u8 (sec b 7) 16 ≤ b.clk ∧
    a.rail.sw[(0 : Fin 2)].startClk + 1000 * u8 (sec a 7) 5 + 10000 ≤ a.clk :=
  ⟨railAt { sw := #v[{ state := .softStart }, {}] },
    { railAt { state := .on, sw := #v[{ state := .failed }, {}] } with modes := { run.modes with railHold := true } },
    rfl, rfl, rfl, rfl, by decide +kernel, by decide +kernel, by decide +kernel⟩
theorem witness_RailSwitch_limit : ∃ s : State, s.rail.sw[(0 : Fin 2)].state = .on ∧ s.rail.sw[(0 : Fin 2)].limit ≤ switchCurrent (switchAt 4 300 10000) ∧
    s.rail.sw[(1 : Fin 2)].state = .inLimit ∧ switchCurrent (switchAt 4 100 0) < s.rail.sw[(1 : Fin 2)].limit ∧ 10000 ≤ (switchAt 4 300 10000).us :=
  ⟨railAt { state := .on, sw := #v[{ state := .on, limit := 300 }, { state := .inLimit, limit := 300 }] }, by decide +kernel⟩
theorem witness_RailSwitch_early : ∃ s : State, s.clk < s.rail.sw[(0 : Fin 2)].failClk + 100000 * u8 (sec s 7) 16 ∧
    100 * s.clk < 100 * s.modes.holdClk + 95 * s.modes.holdUs :=
  ⟨{ up with rail := { up.rail with sw := #v[{ failClk := 9 }, {}] }, modes := { up.modes with holdClk := 9 } }, by decide +kernel⟩

/-! Witnesses for LoadShedding. -/

/-- The rail on, with two heaters present of which channel 1 is critical. -/
def shedding (l : List Shed) : State :=
  withSec 6 (1 :: List.replicate 35 0 ++ 5 :: List.replicate 443 0)
    (railAt { state := .on, shed := l, chainFrom := some 100, fitsClk := some 0 })
def amps (shunt : Nat) : RailCurrents := { shunt := shunt, sense := Vector.replicate 4 (shunt / 4) }
theorem witness_LoadShedding : railChecks (shedding []) = true ∧ effectiveLimit (shedding []) = 4000 ∧ railChecks up = false ∧
    isRunning (shedding []) = true ∧ (shedding []).rail.tickClk + 1000 ≤ (shedding []).clk ∧
    totalCurrent (shedding []) (amps 4200) = 4200 ∧ totalCurrent (shedding []) (amps 6000) = 5000 := by decide +kernel
theorem witness_LoadShedding_order : nextShed (shedding []) = some (.heater 0) ∧ nextShed (shedding [.heater 0]) = some .chain ∧
    nextShed (shedding [.chain, .heater 0]) = some (.heater 1) ∧ nextShed (shedding [.heater 1, .chain, .heater 0]) = none := by
  decide +kernel
theorem witness_LoadShedding_restore : (shedding [.chain]).rail.shed = [.chain] ∧ shedValue (shedding [.chain]) .chain = 0 ∧
    (shedding []).rail.chainFrom = some 100 ∧ (shedding [.chain]).rail.chainClk + 200000 ≤ (shedding [.chain]).clk ∧
    (shedding [.chain]).rail.fitsClk = some 0 ∧ 0 + 500000 ≤ (shedding [.chain]).clk := by decide +kernel
theorem witness_LoadShedding_early : up.clk < up.rail.chainClk + 200000 ∧ up.rail.shed = [] := by decide

/-! Witnesses for PhaseLadder. -/

/-- Currents of the four phases in mA under a shunt current, on for 200 ns, for 100 cycles. -/
def ladder (shunt : Nat) (sense : Vector Nat 4) : LadderObs :=
  { cur := { shunt := shunt, sense := sense }, on := Vector.replicate 4 200, cycles := Vector.replicate 4 100 }
theorem witness_PhaseLadder : railChecks (railAt { state := .on }) = true ∧ (cfgSafeMask (railAt {})).getLsbD 0x13 = false ∧
    (cfgSafeMask (railAt {})).getLsbD 0x14 = false ∧ phaseCount (railAt {}) .lost ≤ 1 ∧ (railAt {}).rail.dropClk = none ∧
    phaseOpenNow (railAt { state := .on }) (ladder 900 #v[300, 0, 300, 300]) 1 = true ∧
    phaseOpenNow (railAt { state := .on }) (ladder 900 #v[300, 0, 300, 300]) 0 = false := by decide +kernel
theorem witness_PhaseLadder_volts : railOn (railAt { state := .on }) = true ∧ (railAt {}).rail.dropout = false ∧ (railAt {}).rail.onHrail = false ∧
    (volts 4).hrs < 95 / 100 * cfgSetpoint (railAt {}) ∧ 11 / 10 * setpointInForce (railAt {}) < (volts 6).hrs ∧
    (volts 5).hrs < 105 / 100 * setpointInForce (railAt {}) ∧ (railAt { state := .softStart }).rail.state = .softStart ∧ railOn up = false ∧
    max (5 : Rat) 4 / 10 < ratAbs (5 - 4) := by decide +kernel
theorem witness_PhaseLadder_third : phaseCount (railAt { state := .on, phases := #v[.working, .lost, .lost, .working] }) .lost = 2 ∧
    phaseOpenNow (railAt { state := .on, phases := #v[.working, .lost, .lost, .working] }) (ladder 600 #v[600, 0, 0, 0]) 3 = true := by decide +kernel
theorem witness_PhaseSenseFail : ((List.finRange 4).filter fun q => senseFailsNow (railAt {}) (ladder 900 #v[300, 0, 300, 0]) q).length = 4 ∧
    ((List.finRange 4).filter fun q =>
      senseFailsNow (railAt {}) { ladder 900 #v[300, 0, 300, 0] with cycles := #v[0, 64, 0, 63] } q) = [1] ∧
    cfgSenseAct (railAt {}) = false ∧ cfgSenseAct (withSec 7 [0x0B] (railAt {})) = true := by decide +kernel
theorem witness_PhaseRecheck : ∃ s : State, inSafe s = true ∧ s.modes.causes.getLsbD 6 = true ∧ s.rail.state = .off ∧
    s.rail.recheckClk + 10000000 ≤ s.clk ∧ (cfgSafeMask s).getLsbD 0x13 = false :=
  ⟨{ up with clk := 10000000, modes := { up.modes with causes := 0x40 } }, by decide +kernel⟩
theorem witness_PhaseRecheck_counts : ((List.finRange 4).filter (phasePasses (checkObs [1, 2]))).length = 2 ∧
    ((List.finRange 4).filter (phasePasses (checkObs [1]))).length < 2 := by decide +kernel

/-! Witnesses for ThermalMonitor. -/

theorem witness_Thermal : monitorOn run = true ∧ run.modes.thermalLatch = false ∧ rorApplies run = false ∧ rorRuns run = true ∧ rorRuns up = false ∧
    run.thermal.convClk = none ∧ run.thermal.evalClk = none ∧ run.thermal.trimClk = none ∧
    rorApplies (railAt { state := .on }) = true ∧ ratesOf ([((0 : Rat), (0 : Rat))].take 32) = none := by decide +kernel
theorem witness_Thermal_hot : ∃ s : State, monitorOn s = true ∧ 1 ≤ s.thermal.hot[(0 : Fin 8)] ∧ s.thermal.convClk = none ∧
    2400 ≤ sensorValue s (Vector.ofFn fun i : Fin 8 => (((Vector.replicate 8 2400 : Vector Int 8)[i] : Int) : Rat)) 0 :=
  ⟨{ run with thermal := { run.thermal with hot := Vector.replicate 8 1 } }, by decide +kernel⟩
theorem witness_Thermal_cool : ∀ i : Fin 8, 2400 ≤ sensorValue run (Vector.ofFn fun i : Fin 8 => (((Vector.replicate 8 2400 : Vector Int 8)[i] : Int) : Rat)) i →
    run.thermal.hot[i] = 0 := by decide +kernel
theorem witness_Thermal_trip : ∃ s : State, rorApplies s = true ∧ rorRuns s = true ∧ s.thermal.rorCount ≠ 0 ∧ s.thermal.trip = false ∧
    ratesOf (((sensorValue s (s.thermal.conv.map meanOf) 0, sensorValue s (s.thermal.conv.map meanOf) 1) :: s.thermal.hist).take 32) =
      some (125000 / 31, 125000 / 31) ∧ cfgRor s / 16 < 125000 / 31 :=
  ⟨{ railAt { state := .on } with thermal := { hist := List.replicate 31 (0, 0), rorCount := 1, conv := Vector.replicate 8 [16000] } },
    by decide +kernel, by decide +kernel, by decide, rfl, by decide +kernel, by decide +kernel⟩
theorem witness_Thermal_latched : ({ up with modes := { up.modes with thermalLatch := true } } : State).modes.thermalLatch = true := rfl
theorem witness_Thermal_early : ∃ s : State, s.thermal.convClk = some 5 ∧ s.clk < 5 + 1000 ∧ s.thermal.evalClk = some 5 ∧ s.clk < 5 + 8000 :=
  ⟨{ up with clk := 6, thermal := { convClk := some 5, evalClk := some 5 } }, rfl, by decide, rfl, by decide⟩

/-! Witnesses for ThrottleSteps. -/

theorem witness_ThrottleSteps : ∃ s : State, monitorOn s = true ∧ s.thermal.zone = 2 ∧ s.thermal.s ≠ 7 ∧ s.thermal.stepClk + 250000 ≤ s.clk ∧
    s.thermal.evalClk = some 250000 ∧ s.clk < 250000 + 8000 :=
  ⟨{ run with clk := 250001, thermal := { run.thermal with zone := 2, evalClk := some 250000 } }, by decide, rfl, by decide, by decide, rfl, by decide⟩
theorem witness_ThrottleDown : ∃ s : State, monitorOn s = true ∧ s.thermal.zone = 0 ∧ s.thermal.hold = false ∧ s.thermal.s ≠ 0 ∧
    s.thermal.trip = false ∧ s.thermal.stepClk + 2000000 ≤ s.clk :=
  ⟨{ run with clk := 2000000, thermal := { run.thermal with s := 3 } }, by decide, rfl, rfl, by decide, rfl, by decide⟩
theorem witness_RorHold : ∃ s : State, s.thermal.hold = true ∧ s.thermal.trip = false ∧ s.thermal.okClk = some 0 ∧ 0 + 2000000 ≤ s.clk :=
  ⟨{ run with clk := 2000000, thermal := { run.thermal with hold := true, okClk := some 0 } }, rfl, rfl, rfl, by decide⟩
theorem witness_SensorBroken : ∃ s : State, monitorOn s = true ∧ sensorBad s 0 = false ∧ 501 ≤ s.thermal.overCount[(0 : Fin 8)] ∧
    (∀ j : Fin 8, j ≠ 0 → sensorBad s j = false → 501 ≤ s.thermal.overCount[j] →
      ratAbs s.thermal.dev[j] < ratAbs s.thermal.dev[(0 : Fin 8)] ∨ (ratAbs s.thermal.dev[j] = ratAbs s.thermal.dev[(0 : Fin 8)] ∧ 0 < j)) ∧
    s.thermal.releaseClk + 4000000 ≤ s.clk ∧ (cfgSafeMask s).getLsbD 0x15 = false :=
  ⟨{ run with clk := 4000000, thermal := { run.thermal with dev := run.thermal.dev.set 0 200, overCount := run.thermal.overCount.set 0 501 } },
    by decide +kernel⟩

/-! Witnesses for CalibrationCommands. -/

/-- RUN with a model of tag 1 bound to working electrode 0, the Render slots there, and an entry or none. -/
def calState (l : List RenderEntry) (c : Cal) : State :=
  withSec 0x0A ([1, 1, 0, 0] ++ ([1, 0] ++ List.replicate 110 0) ++ [0, 0, 0, 0])
    { open3 with modes := run.modes, cal := { c with render := some { sector := 0, sequence := 1, entries := l } },
                 boot := { up.boot with erase4k := true, slots := #v[none, none, none, none, none, none, some (0x2000, 4096), some (0x3000, 4096)] } }
/-- Its entry. -/
def calEntry0 : RenderEntry := { vcn := 0, tag := 1, zero := true, span := false, era := 0, time := 0, yz := 0, cz := 0, g := 0x3F800000 }
/-- A calibration command of a kind for VCN 0. -/
def calCmd (k : Byte) : HostFrame := cmd 7 [0, 0, k, 0, 0, 0, 0, 0]
theorem witness_Calibration : CommandReady (calState [] {}) (calCmd 0) 0x07 [(6, calCode .zero)] 8 ∧ hasCal (sessionActivity (calState [] {})) = true ∧
    calRefusal (sessionActivity (calState [] {})) .zero 0 false 0 = stOk := by
  refine ⟨⟨?_, ?_, ?_, ?_, ?_, ?_⟩, ?_⟩ <;> decide +kernel
theorem witness_Calibration_kinds : CommandReady (calState [] {}) (calCmd 6) 0x07 [(6, calCode .verify)] 8 ∧
    calRefusal (sessionActivity (calState [] {})) .verify 0 false 0 = stOk ∧ calRefusal (sessionActivity (calState [] {})) .first 0 false 0 = stOk ∧
    calRefusal (sessionActivity (calState [] {})) .span 0 false 0x3F800000 = stOk := by
  refine ⟨⟨?_, ?_, ?_, ?_, ?_, ?_⟩, ?_⟩ <;> decide +kernel
theorem witness_Calibration_second : calRefusal (sessionActivity (calState [] { pending := some (0, 1, 0, 0, 0) })) .second 0 false 0x3F800000 = stOk := by
  decide +kernel
theorem witness_Calibration_refused : CommandReady run (calCmd 0) 0x07 [(6, calCode .zero)] 8 ∧ hasCal (sessionActivity run) = false := by
  refine ⟨⟨?_, ?_, ?_, ?_, ?_, ?_⟩, ?_⟩ <;> decide +kernel
theorem witness_Calibration_safe : CommandReady open3 (calCmd 0) 0x07 [(6, calCode .zero)] 8 ∧ inSafe (sessionActivity open3) = true ∧
    hasCal (sessionActivity open3) = true ∧ calRefusal (sessionActivity open3) .zero 0 false 0 = stNotInMode := by
  refine ⟨⟨?_, ?_, ?_, ?_, ?_, ?_⟩, ?_⟩ <;> decide +kernel
theorem witness_Calibration_clear : CommandReady (calState [calEntry0] {}) (calCmd 4) 0x07 [(6, 4)] 8 ∧
    hasCal (sessionActivity (calState [calEntry0] {})) = true ∧
    calRefusal (sessionActivity (calState [calEntry0] {})) .clear 0 false 0 = stOk ∧
    renderEntries (sessionActivity (calState [calEntry0] {})) = [calEntry0] ∧
    calRefusal (sessionActivity (calState [] {})) .clear 0 false 0 = stOk ∧ renderEntries (sessionActivity (calState [] {})) = [] := by
  refine ⟨⟨?_, ?_, ?_, ?_, ?_, ?_⟩, ?_⟩ <;> decide +kernel
theorem witness_Calibration_abort : CommandReady (calState [] {}) (calCmd 5) 0x07 [(6, 5)] 8 ∧
    calRefusal (sessionActivity (calState [] {})) .abort 0 false 0 = stOk := by
  refine ⟨⟨?_, ?_, ?_, ?_, ?_, ?_⟩, ?_⟩ <;> decide +kernel

/-! Witnesses for CalibrationRunEnds. -/

/-- A window of three records of 0.0 over 60 s. -/
def calRun (k : CalKind) : CalRun :=
  { kind := k, vcn := 0, ref := 0, recs := [(60000000, 0, true), (30000000, 0, true), (0, 0, true)], cross0 := [], cross1 := [], clean := [],
    late := false, write := none, startClk := some 0 }
theorem witness_CalRunEnd : (calState [] { run := some (calRun .zero) }).cal.run = some (calRun .zero) ∧
    (∃ k, (calRun .zero).startClk = some k ∧ k + 60000000 ≤ ({ calState [] { run := some (calRun .zero) } with clk := 60000000 } : State).clk) ∧
    (calJudge (calState [] { run := some (calRun .zero) }) (calRun .zero)).outcome = stOk :=
  ⟨rfl, ⟨0, rfl, by decide⟩, by decide +kernel⟩
theorem witness_PendingZero : ∃ s : State, s.cal.pending = some (0, 1, 0, 0, 0) ∧ 0 + 1800000000 ≤ s.clk :=
  ⟨{ up with clk := 1800000000, cal := { pending := some (0, 1, 0, 0, 0) } }, rfl, by decide⟩
theorem witness_CalRunEnd_kinds : (calJudge (calState [] {}) (calRun .first)).outcome = stOk ∧
    (calJudge (calState [] {}) (calRun .verify)).outcome = stOk ∧ (calJudge (calState [] {}) (calRun .span)).outcome ≠ stOk ∧
    calSpanKind (.span) = true := by decide +kernel
/-- A window of three records of 1.0. -/
def calRun1 (k : CalKind) : CalRun :=
  { calRun k with ref := 0x3F800000, recs := [(60000000, 0x3F800000, true), (30000000, 0x3F800000, true), (0, 0x3F800000, true)] }
theorem witness_CalRunEnd_span : (calJudge (calState [] {}) (calRun1 .span)).outcome = stOk ∧
    (calJudge (calState [] { pending := some (0, 1, 0, 0, 0) }) (calRun1 .second)).outcome = stOk := by decide +kernel
theorem witness_CalRunEnd_none : up.cal.run = none ∧ up.cal.pending = none ∧ (calRun .second).kind = .second := ⟨rfl, rfl, rfl⟩

/-! Witnesses for RenderWrites. -/

theorem le_append (p q : List Byte) (n k : Nat) : le (p ++ q) (p.length + k) n = le q k n := by
  induction n generalizing k with
  | zero => rfl
  | succ n ih =>
    have e : (p ++ q).getD (p.length + k) 0 = q.getD k 0 := by
      simp [List.getD, List.getElem?_append_right]
    simp only [le, u8, e, Nat.add_assoc, ih]
theorem f32At_crc (p : List Byte) (c : BitVec 32) (n : Nat) (h : p.length = n) : f32At (p ++ toLE 4 c.toNat) n = c := by
  subst h
  unfold f32At u32
  rw [show p.length = p.length + 0 from rfl, le_append]
  apply BitVec.eq_of_toNat_eq
  have := c.isLt
  simp [le, u8, toLE]
  omega
/-- The header of a Render sector of sequence 2 without entries. -/
def blankHead : List Byte := [0x59, 0x4E, 0x52, 0x44, 1, 0, 0, 0, 2, 0, 0, 0, 0, 0, 0, 0, 0, 0, 0, 0, 0, 0, 0, 0, 0, 0, 0, 0, 0, 0, 0, 0]
/-- Its first 4092 bytes. -/
def blankPage : List Byte := blankHead ++ List.replicate 4060 0
theorem blank_length : blankPage.length = 4092 := by rw [blankPage, List.length_append, List.length_replicate]; rfl
theorem blank_image : renderImage State.reset 2 [] = blankPage ++ toLE 4 (crc32 blankPage).toNat := rfl
theorem blank_parses : ∃ r, parseRender 1 (blankPage ++ toLE 4 (crc32 blankPage).toNat) = some r := by
  have h1 : (blankPage ++ toLE 4 (crc32 blankPage).toNat).take 4092 = blankPage := List.take_left' blank_length
  have h2 := f32At_crc blankPage (crc32 blankPage) 4092 blank_length
  have hz : ∀ q : List Byte, zeros (blankPage ++ q) 32 4060 = true := by
    intro q
    unfold zeros
    rw [blankPage, List.append_assoc, List.drop_left' (by rfl), List.take_left' List.length_replicate]
    exact List.all_eq_true.2 fun b hb => by rw [List.eq_of_mem_replicate hb]; rfl
  unfold parseRender
  rw [h1, h2]
  generalize toLE 4 (crc32 blankPage).toNat = q
  have hz := hz q
  have e : ∀ o, o < 32 → (blankPage ++ q).getD o 0 = blankHead.getD o 0 := by
    intro o ho
    rw [blankPage, List.append_assoc, List.getD_append _ _ _ _ (by simpa [blankHead] using ho)]
  have e16 : u16 (blankPage ++ q) 6 = 0 := by simp only [u16, le, u8, e 6 (by omega), e 7 (by omega)]; rfl
  have e32 : u32 (blankPage ++ q) 8 = 2 := by simp only [u32, le, u8, e 8 (by omega), e 9 (by omega), e 10 (by omega), e 11 (by omega)]; rfl
  have et : (blankPage ++ q).take 4 = [0x59, 0x4E, 0x52, 0x44] := rfl
  have e4 : u8 (blankPage ++ q) 4 = 1 := rfl
  have e5 : u8 (blankPage ++ q) 5 = 0 := rfl
  have e19 : u8 (blankPage ++ q) 19 = 0 := rfl
  have e24 : zeros (blankPage ++ q) 24 8 = true := rfl
  simp [e16, e32, et, e4, e5, e19, e24, hz, renderEntriesOf]
/-- The image of sector 1 without entries. -/
def blankImage : List Byte := renderImage State.reset 2 []
theorem blankImage_length : blankImage.length = 4096 := by
  show (blankPage ++ toLE 4 (crc32 blankPage).toNat).length = 4096
  rw [List.length_append, blank_length]; rfl
/-- A Render write at a stage, the chip holding the image in the sector being written. -/
def writing (g : RenderStage) : State :=
  { calState [] { run := some { calRun .zero with write := some calEntry0 }, stage := g, sector := 1, image := blankImage } with
    flash := { emptyChip with content := flashCells blankImage 0x3000 } }
theorem writing_canonical (g : RenderStage) : FlashCanonical (writing g) :=
  ⟨flashCells_pairwise _ _, fun _ h => (flashCells_ge h).2.2⟩
theorem witness_RenderWrite : FlashCanonical (writing .erasing) ∧ (writing .erasing).flash.present = true ∧ (writing .erasing).cal.stage = .erasing ∧
    (writing .erasing).clk ≤ (writing .erasing).cal.stageClk + 2000000 :=
  ⟨writing_canonical _, rfl, rfl, by decide⟩
theorem witness_RenderWrite_page : (writing (.programming 3)).cal.stage = .programming 3 ∧ FlashCanonical (writing (.programming 3)) :=
  ⟨rfl, writing_canonical _⟩
theorem witness_RenderWrite_image : (writing (.programming 3)).cal.image.length = 4096 := blankImage_length
theorem writing_reads (g : RenderStage) : flashRead (heldSector (writing g) []).flash (renderOffset (writing g) 1) 4096 = blankImage := by
  have e : (flashCells blankImage 0x3000).dropWhile (fun p => p.1 < 0x3000) = flashCells blankImage 0x3000 := by
    cases h : flashCells blankImage 0x3000 with
    | nil => rfl
    | cons p r =>
      have := (flashCells_ge (l := blankImage) (a := 0x3000) (p := p) (by rw [h]; exact List.mem_cons_self ..)).1
      rw [List.dropWhile_cons_of_neg (by simpa using this)]
  have k := readFrom_cells blankImage 0x3000
  rw [blankImage_length] at k
  unfold flashRead
  rw [if_pos (show (heldSector (writing g) []).flash.present = true from rfl),
    show renderOffset (writing g) 1 = 0x3000 from rfl,
    show (heldSector (writing g) []).flash.content = flashCells blankImage 0x3000 from rfl, e, k]
theorem witness_RenderWrite_readback : ∃ r, parseRender (writing .readback).cal.sector
    (flashRead (heldSector (writing .readback) []).flash (renderOffset (writing .readback) (writing .readback).cal.sector) 4096) = some r := by
  rw [show (writing .readback).cal.sector = 1 from rfl, writing_reads]
  exact blank_parses
theorem witness_RenderWrite_refused : parseRender (calState [] {}).cal.sector
    (flashRead (heldSector (calState [] {}) []).flash (renderOffset (calState [] {}) (calState [] {}).cal.sector) 4096) = none := by
  decide +kernel
theorem witness_RenderWrite_run : (writing .readback).cal.run = some { calRun .zero with write := some calEntry0 } ∧
    (writing .eraseOld).cal.stage = .eraseOld ∧ 0 + 2000000 < ({ writing .erasing with clk := 2000001 } : State).clk := ⟨rfl, rfl, by decide⟩

/-! Witnesses for RuleEvaluations. -/

/-- One rule of a kind and flags on working electrode 0, in a state, a hundred seconds on, at the end of a Plumb second and minute. -/
def ruleAt (kind flags : Byte) (r : Rule) (m : Mode) : State :=
  withSec 0x0B ([1, 0, 1, 100] ++ List.replicate 12 0 ++
      [kind, flags, 0, 0, 0, 0, 0x80, 0x3F, 0, 0, 0, 0x3F, 2, 2, 0x41, 0] ++ List.replicate 16 0)
    { open3 with clk := open3.clk + 100000000, time := { run.time with counting := true }
                 modes := { run.modes with mode := m }, ec := (ecAt .biased 2).ec.map fun c => { c with warmUntil := none }
                 weirs := vmod up.weirs 0 fun w => { w with on := true, frameClk := some 0 }
                 spill := { up.spill with rules := up.spill.rules.set 0 r } }
theorem witness_Rule_judge : ({ state := .clear, first := false } : Rule).first = false ∧ ({ state := .alarmed, first := false } : Rule).state = .alarmed :=
  ⟨rfl, rfl⟩
theorem witness_FastWindow : ∃ s : State, s.weirs[weirOfWe 0].frameClk = some 0 ∧ (s.clk : Rat) - 10 ^ 6 * fastWindow s < (s.clk : Rat) - (0 : Nat) * 125 / 512 ∧
    (s.clk : Rat) - (0 : Nat) * 125 / 512 ≤ (s.clk : Rat) :=
  ⟨ruleAt 1 2 {} .run, by decide +kernel, by decide +kernel, by decide +kernel⟩
theorem witness_FastPath : fastActive (ruleAt 1 2 {} .run) = true ∧ 0 < ruleCount (ruleAt 1 2 {} .run) ∧ ruleFast (ruleAt 1 2 {} .run) 0 = true ∧
    vcnIndex (ruleVcn (ruleAt 1 2 {} .run) 0) = 0 ∧ (ruleAt 1 2 {} .run).ec[ecOf 0].stage = .biased ∧
    (ruleAt 1 2 {} .run).ec[ecOf 0].warmUntil = none ∧ (ruleAt 1 2 {} .run).weirs[weirOfWe 0].on = true ∧
    ((ruleAt 1 2 {} .run).ec[ecOf 0].warmEnd : Rat) + 10 ^ 6 * fastWindow (ruleAt 1 2 {} .run) ≤ ((ruleAt 1 2 {} .run).clk : Rat) ∧
    (cfgSafeMask (ruleAt 1 2 {} .run)).getLsbD 2 = false := by decide +kernel
theorem witness_FastPath_warm : ∃ s : State, fastActive s = true ∧ 0 < ruleCount s ∧ ruleFast s 0 = true ∧ vcnIndex (ruleVcn s 0) = 0 ∧
    s.ec[ecOf 0].warmUntil.isSome = true :=
  ⟨{ ruleAt 1 2 {} .run with ec := (ecAt .biased 2).ec }, by decide +kernel⟩
theorem witness_RateAndMinute : ruleKind (ruleAt 2 0 {} .run) 0 = 2 ∧ ruleKind (ruleAt 3 0 {} .run) 0 = 3 ∧ isRunning (ruleAt 2 0 {} .run) = true ∧
    isActive (ruleAt 2 0 {} .run) = true ∧ 0 < ruleCount (ruleAt 2 0 {} .run) ∧ inSafe (ruleAt 3 0 {} .safe) = true ∧
    onCount (ruleAt 2 0 {} .run) 1000000 = true ∧ onCount (ruleAt 2 0 {} .run) 60000000 = true ∧
    (ruleAt 2 0 {} .run).spill.secondClk = none ∧ (ruleAt 2 0 {} .run).spill.minuteClk = none ∧ onCount up 1000000 = false ∧
    onCount up 60000000 = false ∧
    isRunning { ruleAt 2 0 {} .run with phase := .loaded } = false := by decide +kernel
theorem witness_RateAndMinute_values : (secondMean [(60, 2, 1), (0, 1, 1)] 60).isSome = true ∧ (secondMean [(60, 2, 1), (0, 1, 1)] 0).isSome = true ∧
    (bucketValue 15 (closeMinute 7 { sum := 2, weight := 1 })).isSome = true := by decide +kernel
theorem witness_InvalidTimeout : ruleInvAssert (ruleAt 1 16 {} .run) 0 = true ∧ (ruleAt 1 16 {} .run).spill.rules[(0 : Fin 256)].state ≠ .latched ∧
    (ruleAt 1 16 {} .run).spill.rules[(0 : Fin 256)].state ≠ .invalid ∧ isActive (ruleAt 1 16 {} .run) = true ∧
    (ruleAt 1 16 {} .run).spill.rules[(0 : Fin 256)].evalClk + 1000000 * cfgInvalid (ruleAt 1 16 {} .run) ≤ (ruleAt 1 16 {} .run).clk ∧
    ruleKind (ruleAt 1 16 {} .run) 0 ≠ 5 ∧ ruleKind (ruleAt 5 16 {} .run) 0 = 5 ∧ readsNotYet (ruleAt 5 16 {} .run) 0 = true ∧
    (ruleAt 1 16 { state := .latched } .run).spill.rules[(0 : Fin 256)].state = .latched := by decide +kernel

/-! Witnesses for AcknowledgeAndReadbacks. -/

theorem witness_Acknowledge : CommandReady (ruleAt 1 1 { state := .latched } .run) (cmd 3 [0, 0, 0, 0]) 0x03 [] 4 ∧
    0 < ruleCount (sessionActivity (ruleAt 1 1 { state := .latched } .run)) ∧
    u16 (commandArgs (cmd 3 [0, 0, 0, 0]) 0x03 []) 0 = 0 ∧ CommandReady (ruleAt 1 1 {} .safe) (cmd 3 [0xFF, 0xFF, 0, 0]) 0x03 [] 4 := by
  refine ⟨⟨?_, ?_, ?_, ?_, ?_, ?_⟩, ?_, ?_, ⟨?_, ?_, ?_, ?_, ?_, ?_⟩⟩ <;> decide +kernel
theorem witness_Acknowledge_bad : CommandReady run (cmd 3 [0, 0, 1, 0]) 0x03 [] 4 ∧ u16 (commandArgs (cmd 3 [0, 0, 1, 0]) 0x03 []) 2 ≠ 0 ∧
    ruleCount (sessionActivity run) ≤ u16 (commandArgs (cmd 3 [0, 0, 1, 0]) 0x03 []) 0 := by
  refine ⟨⟨?_, ?_, ?_, ?_, ?_, ?_⟩, ?_⟩ <;> decide +kernel
/-- Ratio output 0 present and slewed, in a state, a second on; its source working electrode 0. -/
def aoutAt (o : Aout) : State :=
  withSec 0x0C ([1, 0, 0, 0, 0, 0, 0, 0, 0, 0, 0x80, 0x3F, 10, 0] ++ List.replicate 18 0)
    { run with clk := 1000000, spill := { run.spill with aout := #v[o, {}] } }
theorem witness_RatioSlew : (aoutAt { driven := true, code := 30000 }).spill.aout[(0 : Fin 2)].driven = true ∧
    (aoutAt { driven := true, code := 30000 }).spill.aout[(0 : Fin 2)].slewClk + 1000 ≤ (aoutAt {}).clk ∧
    inBand 30000 = false ∧ inBand (aoutTarget (aoutAt { driven := true, code := 30000 }) 0) = true ∧ 0 ≤ (aoutAt {}).spill.aout[(0 : Fin 2)].part := by
  decide +kernel
/-- A source record of 0.5 of the output's span, and the supply of the outputs. -/
def aoutLive (o : Aout) : State :=
  let s := aoutAt { o with recordClk := 1000000, holdLow := false }
  { s with supply := { s.supply with vratio := true }
           results := [(0, { frameSeq := 1, record := some { vcn := 0, status := 1, seq := 0, time := 0, value := 0x3F000000, raw := 0, age := 0 } })] }
theorem witness_RatioSlew_slow : inBand (aoutTarget (aoutLive { driven := true, code := 30000 }) 0) = false ∧
    30000 ≤ aoutTarget (aoutLive { driven := true, code := 30000 }) 0 ∧ aoutSlew (aoutLive { driven := true, code := 30000 }) 0 ≠ 0 := by
  decide +kernel
theorem witness_RatioReadback : isRunning (aoutAt { driven := true, code := 30000, differs := true }) = true ∧
    aoutPresent (aoutAt { driven := true }) 0 = true ∧ readbackDiffers 30000 0 = true ∧ readbackDiffers 30000 30000 = false ∧
    (aoutAt { driven := true }).spill.aout[(0 : Fin 2)].readClk + 1000 ≤ (aoutAt { driven := true }).clk ∧
    (cfgSafeMask (aoutAt {})).getLsbD 0x10 = false ∧ up.clk < up.spill.aout[(0 : Fin 2)].slewClk + 1000 := by decide +kernel
theorem witness_AlarmPin : isRunning (ruleAt 1 0 {} .run) = true ∧ pinRead (ruleAt 1 0 {} .run) .alarmA = true ∧ pinRead run .faultn = true ∧
    (ruleAt 1 0 {} .run).spill.pinClk[pinIdx .alarmA] + 1000 ≤ (ruleAt 1 0 {} .run).clk ∧ up.clk < up.spill.pinClk[pinIdx .faultn] + 1000 ∧
    pinLow (ruleAt 1 0 {} .run) .alarmA = false ∧ (cfgSafeMask run).getLsbD 0x0E = false ∧ (cfgSafeMask run).getLsbD 0x0F = false := by
  decide +kernel

/-! Witnesses for MereEvents. -/

/-- Mere running in RUN on an image whose tarn 0 has neuron 0 enabled on a template, tarn 0 in a state, section 0x0D as given. -/
def mereAt (tmpl dsec : List Byte) (y : Tarn) : State :=
  withSec 0x0D dsec { run with
    mere := { run.mere with power := .running, tarns := run.mere.tarns.set 0 y,
                            image := some { secs := [(1, [1, 0]), (0x10, tmpl), (0x20, [0, 1, 0, 0])], epoch := 0, crc := 0, sequence := 0 } } }
/-- An event for neuron 0 of tarn 0. -/
def ev0 (weight : Int) (wake : Bool) : MereEvent := { target := 0, receptor := 0, weight := weight, time := 5, wake := wake }
theorem witness_MereEvent : mereRuns (mereAt [] [] { fifo := [ev0 3 false] }) = true ∧
    (mereAt [] [] { fifo := [ev0 3 false] }).mere.tarns[(0 : Fin 8)].fifo = [ev0 3 false] ∧
    (mereAt [] [] { fifo := [ev0 3 false] }).mere.tarns[(0 : Fin 8)].spikes.length < 16 ∧
    neuronOn (mereAt [] [] { fifo := [ev0 3 false] }) 0 0 = true ∧ (ev0 3 false).wake = false ∧
    (ev0 0 true).wake = true ∧ (ev0 0 true).cancelled = false := by decide +kernel
theorem witness_MereEvent_refused : (ev0 0 true).wake = true ∧ ({ ev0 0 true with cancelled := true } : MereEvent).cancelled ≠ false ∧
    (mereAt [] [] {}).mere.tarns[(0 : Fin 8)].fifo = [] ∧ (mereAt [] [] {}).mere.tarns[(0 : Fin 8)].spikes.length < 16 := by decide +kernel
theorem witness_MereEvent_wake : wakeRequest [3, 0, 16, 0, 32, 0, 0, 0, 0, 0, 0, 0, 1, 0, 0, 0, 0, 0, 0, 1, 0, 0, 0, 0, 0, 16]
    { s1 := 100 } = some 100 ∧ wakeRequest [] {} = none := by decide +kernel

/-! Witnesses for SpikesWakesEncoders. -/

theorem witness_WakeDue :
    let s := mereAt [] [] { wakes := [(0, 7)], neurons := [(0, { wake := some 7 })] }
    mereRuns s = true ∧ earliestWake s.mere.tarns[(0 : Fin 8)].wakes = some (0, 7) ∧ s.mere.tarns[(0 : Fin 8)].fifo.length < 64 ∧
    wakeIsDue s 0 (0, 7) = false ∧ wakeIsDue { s with time := { s.time with count := 7 } } 0 (0, 7) = true ∧
    (mereAt [] [] {}).mere.tarns[(0 : Fin 8)].wakes = [] ∧ 0 ≤ since 5 7 := by decide +kernel
theorem witness_SpikeEmit_none : frontEvents (mereAt [] [] { spikes := [(0, 7)] }) 0 = [] ∧
    (mereAt [] [] { spikes := [(0, 7)] }).mere.tarns[(0 : Fin 8)].spikes ≠ [] := by decide +kernel
/-- A spike of tarn 0 with one event towards tarn 0 left, its queues not empty since the clock began. -/
def emitState : State :=
  { mereAt [] [] { spikes := [(0, 7)], emitting := some [{ entry := 0, word := 0, event := ev0 3 false }] } with clk := 20000 }
theorem witness_SpikeEmit : mereRuns emitState = true ∧ frontEvents emitState 0 = [{ entry := 0, word := 0, event := ev0 3 false }] ∧
    tarnOf (ev0 3 false).target = 0 ∧ granted emitState 0 = some 0 ∧ emitState.mere.tarns[(0 : Fin 8)].fifo.length < 64 ∧
    emitState.mere.tarns[(0 : Fin 8)].spikes ≠ [] ∧ sourceWants emitState 0 0 = true := by decide +kernel
/-- Encoder 0 holds an event towards tarn 0. -/
def encState : State := let s := mereAt [] [] {}; { s with mere := { s.mere with encoders := s.mere.encoders.set 0 { up := some (ev0 3 false) } } }
theorem witness_EncoderDrain : mereRuns encState = true ∧ encState.mere.tarns[(0 : Fin 8)].fifo.length < 64 ∧ granted encState 0 = some 8 ∧
    grantedEnc encState 0 = some 0 ∧ slotFirst encState.mere.encoders[(0 : Fin 64)] = some (true, ev0 3 false) := by decide +kernel
theorem witness_SpikeEmit_waits : granted encState 0 ≠ some 0 := by decide +kernel

/-! Witnesses for ClassRecordsStallsProbe. -/

/-- Two classes bound to neuron 0 with window 1, the VCN of the first known, a second after the last class frame ended. -/
def classState : State :=
  let s := mereAt [] ([0, 0, 0, 0, 0, 2] ++ List.replicate 10 0 ++ [0, 0, 1, 0] ++ List.replicate 12 0 ++ [0, 0, 1, 0] ++ List.replicate 12 0) {}
  { s with time := { s.time with count := 1000000 }, results := [(0x40, { frameSeq := 1 })] }
theorem witness_ClassRecord : mereRuns classState = true ∧ classBound classState 0 = true ∧ classBound classState 5 = false ∧
    0 ≤ sinceEnd classState classState.mere.classes[(0 : Fin 64)] ∧ drainedTo classState (nextEnd classState classState.mere.classes[(0 : Fin 64)]) = true ∧
    entryOf classState (ownVcn classState 0x40) = some { frameSeq := 1 } ∧ ruleCount classState = 0 := by decide +kernel
theorem witness_ClassRecord_early :
    sinceEnd { classState with time := { classState.time with count := 5 } } classState.mere.classes[(0 : Fin 64)] < 0 := by decide +kernel
theorem witness_ClassRecord_lag :
    let s := withSec 0x0D ([0, 0, 0, 0, 0, 2, 0, 0, 1, 0] ++ List.replicate 6 0 ++ [0, 0, 1, 0] ++ List.replicate 28 0)
      { classState with time := { classState.time with count := 2000000 }
                        mere := { classState.mere with tarns := classState.mere.tarns.set 0 { fifo := [ev0 3 false] } } }
    drainedTo s (nextEnd s s.mere.classes[(0 : Fin 64)]) = false ∧ (lagLimit s : Int) ≤ sinceEnd s s.mere.classes[(0 : Fin 64)] ∧
    sinceEnd { s with time := { s.time with count := 63000 } } s.mere.classes[(0 : Fin 64)] < (lagLimit s : Int) := by decide +kernel
theorem witness_MereStall : mereRuns emitState = true ∧ emitState.mere.tarns[(0 : Fin 8)].spikes ≠ [] ∧
    emitState.mere.tarns[(0 : Fin 8)].busyClk + 9500 ≤ emitState.clk ∧
    emitState.mere.tarns[(1 : Fin 8)].fifo = [] ∧ emitState.mere.tarns[(1 : Fin 8)].spikes = [] ∧
    (emitState.mere.stallTimes.filter fun t => emitState.clk ≤ t + 60000000).length < 2 := by decide +kernel
theorem witness_MereStall_third :
    let s : State := { emitState with mere := { emitState.mere with stallTimes := [0, 0] } }
    mereRuns s = true ∧ s.mere.tarns[(0 : Fin 8)].spikes ≠ [] ∧ 2 ≤ (s.mere.stallTimes.filter fun t => s.clk ≤ t + 60000000).length := by decide +kernel
theorem witness_Probe : isRunning { classState with mere := { classState.mere with probeWanted := true } } = true ∧
    ({ classState with mere := { classState.mere with probeWanted := true } } : State).mere.probeWanted = true := by decide +kernel

/-! Witnesses for PpsEdgesAndLoss. -/

/-- RUN with section 0x03 of those flags and a timebase. -/
def timeAt (flags : Byte) (t : Time) : State := withSec 3 ([flags, 1] ++ List.replicate 62 0) { run with time := t }
/-- A timebase with a PPS prediction. -/
def ppsTime : Time := { ppsPredicted := true, ppsInterval := 24576000, ppsGood := 3 }
theorem witness_PpsEdge_ignored : cfgPps run = false ∧ ppsTime.ppsPredicted = true := by decide +kernel
theorem witness_PpsEdge : isRunning (timeAt 8 ppsTime) = true ∧ cfgPps (timeAt 8 ppsTime) = true ∧ (timeAt 8 ppsTime).time.sysclk = true ∧
    ppsGoodEdge ppsTime 24576000 = true ∧ ppsGoodEdge ppsTime 24600000 = false ∧ ppsTime.state ≠ .pps ∧ ppsTime.ppsQualified = false ∧
    3 ≤ ppsTime.ppsGood ∧ bigError ((2000 + cfgPpsDelay (timeAt 8 ppsTime) + 500000000) % 1000000000 - 500000000) = false := by decide +kernel
theorem witness_PpsEdge_step : mayStep (timeAt 8 ppsTime) = true ∧ (timeAt 8 ppsTime).time.slew = none ∧
    bigError ((200000000 + cfgPpsDelay (timeAt 8 ppsTime) + 500000000) % 1000000000 - 500000000) = true := by decide +kernel
theorem witness_PpsMissing :
    let s : State := { timeAt 8 { ppsTime with ppsQualified := true, ppsMissed := 2, ppsDue := 1000000, state := .pps } with clk := 2000000 }
    isRunning s = true ∧ s.time.ppsQualified = true ∧ s.time.ppsDue + 2 ≤ s.clk ∧ 1000000 ≤ s.time.ppsDue ∧
    s.time.ppsClk + intervalUs ((s.time.ppsAdvanced + 1) * s.time.ppsInterval) ≤ s.time.ppsDue ∧ s.time.chainQualified = false := by decide +kernel

/-! Witnesses for HostTimeSet. -/

/-- Sessions open and a timebase. -/
def setTime (t : Time) (e : ReadEffect) : State := { open3 with time := t, host := { open3.host with effect := e } }
theorem witness_TimeSet : CommandReady (setTime { setCount := 5000000 } .none) (cmd 8 []) 0x08 [] 0 ∧
    hasCal (sessionActivity (setTime { setCount := 5000000 } .none)) = true ∧
    (sessionActivity (setTime { setCount := 5000000 } .none)).time.state = .free := by
  refine ⟨⟨?_, ?_, ?_, ?_, ?_, ?_⟩, ?_⟩ <;> decide +kernel
theorem witness_TimeSet_locked : CommandReady run (cmd 8 []) 0x08 [] 0 ∧ hasCal (sessionActivity run) = false := by
  refine ⟨⟨?_, ?_, ?_, ?_, ?_, ?_⟩, ?_⟩ <;> decide +kernel
theorem witness_TimeSet_pps : CommandReady (setTime { state := .pps, valid := true, setCount := 5000000 } .none) (cmd 8 []) 0x08 [] 0 ∧
    wholeSeconds (timeSetError (sessionActivity (setTime { state := .pps, valid := true, setCount := 5000000 } .none))) = 5 ∧
    cfgSteps (sessionActivity (setTime { state := .pps, valid := true } .none)) = false ∧
    wholeSeconds (timeSetError (sessionActivity (setTime { state := .pps, valid := true } .none))) = 0 := by
  refine ⟨⟨?_, ?_, ?_, ?_, ?_, ?_⟩, ?_⟩ <;> decide +kernel
theorem witness_TimeSet_chain : CommandReady (setTime { state := .chain } .none) (cmd 8 []) 0x08 [] 0 ∧
    (sessionActivity (setTime { state := .chain } .none)).time.state = .chain := by
  refine ⟨⟨?_, ?_, ?_, ?_, ?_, ?_⟩, ?_⟩ <;> decide +kernel
theorem witness_TimeMove : (setTime { state := .holdover, valid := true, count := 9 } (.timeSet .slew)).time.state ≠ .pps ∧
    time56 (plumbNow (setTime { count := 9, valid := true } (.timeSet .step))) = 9 ∧
    (setTime { count := 9, valid := true } (.timeSet .step)).time.state ≠ .chain ∧
    (setTime { count := 9 } (.timeSet .step)).log.budget < cfgLogCap (setTime { count := 9 } (.timeSet .step)) ∧
    (setTime { state := .pps } (.timeSet (.seconds 5))).time.state = .pps ∧ (setTime {} (.timeSet .slew)).time.held = [] ∧
    (setTime { held := [.qualified .pps 5] } (.timeSet .slew)).time.held = [.qualified .pps 5] := by decide +kernel

/-! Witnesses for TimebaseEvents. -/

theorem witness_SlewComplete : (timeAt 0 { slew := some 40000, changing := true }).time.slew = some 40000 ∧
    (timeAt 0 { slew := some 65536000001 }).time.slew = some 65536000001 ∧ usUnits < 65536000001 := by decide +kernel
theorem witness_Holdover : isRunning (timeAt 0 { state := .holdover }) = true ∧ (timeAt 0 { state := .holdover }).time.state = .holdover ∧
    (timeAt 0 { state := .holdover }).time.polyClk = none ∧ (timeAt 0 {}).time.slew = none ∧
    (timeAt 0 { count := 0xFFFFFFFFFFFF, counting := true }).time.counting = true := by decide +kernel
theorem witness_RtcclkStop : (timeAt 1 { xtal := true, sysclk := false }).time.xtal = true ∧
    (timeAt 1 { xtal := true, sysclk := false }).time.sysclk = false ∧ (timeAt 1 { xtal := true, xtalStopped := true }).time.xtalStopped = true ∧
    (timeAt 0 {}).time.xtal = false := by decide +kernel
theorem witness_SysclkStop : (timeAt 0 {}).supply.vdd = true ∧ (timeAt 0 {}).time.sysclk = true ∧ (cfgSafeMask (timeAt 0 {})).getLsbD 4 = false ∧
    (cfgSafeMask (timeAt 0 {})).getLsbD 7 = false ∧ isRunning (timeAt 0 {}) = true := by decide +kernel
theorem witness_PpsOut :
    let s := timeAt 16 { state := .host, counting := true, stride := 1, ppsStepped := true, ppsOutClk := some 0 }
    isRunning s = true ∧ cfgPpsOut s = true ∧ onCount s 1000000 = true ∧ s.clk < 0 + 500000 ∧ cfgPpsOut (timeAt 0 {}) = false ∧
    onCount { s with time := { s.time with count := 7 } } 1000000 = false ∧ 0 + cfgPpsWidth s ≤ s.clk := by decide +kernel
theorem witness_PpsOutFall :
    let s := withSec 3 ([16, 1, 0, 0, 0, 0, 0, 0, 100, 0] ++ List.replicate 54 0) { run with time := { ppsOut := true, ppsOutClk := some 5 } }
    s.time.ppsOutClk = some 5 ∧ s.clk < 5 + cfgPpsWidth s := by decide +kernel

/-! Witnesses for SluiceActions. -/

/-- Sessions open, at time 500000 with TIMEVALID, slot 0 in a state. -/
def slotState (x : Slot) : State :=
  withSec 3 ([0, 1] ++ List.replicate 62 0) { open3 with modes := { up.modes with mode := .run }, time := { count := 500000, valid := true }
                                                         sluice := up.sluice.set 0 x }
/-- A one-shot slot of a kind and argument, due at 0. -/
def onceSlot (kind arg : Byte) : Slot := { entry := [kind, 0, arg, 0] ++ List.replicate 12 0, due := some 0 }
theorem witness_SluiceAction : isRunning (slotState (onceSlot 5 0)) = true ∧ (slotState (onceSlot 5 0)).sluice[(0 : Fin 128)].due = some 0 ∧
    slotBusy (slotState (onceSlot 5 0)) (onceSlot 5 0) = false ∧ (slotState (onceSlot 5 0)).time.valid = true ∧ slotKind (onceSlot 5 0) = 5 ∧
    slotTurn (slotState (onceSlot 5 0)) 0 = true ∧ cfgSluiceMode (slotState (onceSlot 1 1)) = false ∧ slotKind (onceSlot 1 1) = 1 ∧
    slotBusy (slotState (onceSlot 1 1)) (onceSlot 1 1) = false ∧ 0 + 10000 < time56 (plumbNow (slotState (onceSlot 5 0))) := by decide +kernel
theorem witness_SluiceBusy : slotBusy { slotState (onceSlot 3 1) with modes := { up.modes with mode := .safe } } (onceSlot 3 1) = true ∧
    ({ onceSlot 5 0 with waiting := true } : Slot).waiting = true ∧ slotPeriodic (onceSlot 5 0) = false ∧
    time56 (plumbNow (slotState (onceSlot 5 0))) ≤ 0 + slotGrace (slotState (onceSlot 5 0)) (onceSlot 5 0) ∧
    0 + slotGrace (slotState (onceSlot 5 0)) (onceSlot 5 0) <
      time56 (plumbNow { slotState (onceSlot 5 0) with time := { count := 5000000, valid := true } }) := by decide +kernel
theorem witness_SluiceTurn :
    let s := { slotState { onceSlot 5 0 with due := some 400000 } with
                 sluice := (slotState { onceSlot 5 0 with due := some 400000 }).sluice.set 1 { onceSlot 5 0 with due := some 400000 } }
    slotTurn s 1 = false ∧ slotTurn s 0 = true ∧ time56 (plumbNow s) < 600000 := by decide +kernel
theorem witness_SluiceSlot : CommandReady (slotState {}) (cmd 9 ([0, 0, 0, 0, 5, 0, 7, 0] ++ List.replicate 12 0)) 0x09 [] 20 ∧
    hasCal (sessionActivity (slotState {})) = true ∧
    u8 (commandArgs (cmd 9 ([0, 0, 0, 0, 5, 0, 7, 0] ++ List.replicate 12 0)) 0x09 []) 0 = 0 ∧
    zeros (commandArgs (cmd 9 ([0, 0, 0, 0, 5, 0, 7, 0] ++ List.replicate 12 0)) 0x09 []) 1 3 = true ∧
    slotOk ((sessionActivity (slotState {})).role == .pod)
      ((commandArgs (cmd 9 ([0, 0, 0, 0, 5, 0, 7, 0] ++ List.replicate 12 0)) 0x09 []).drop 4) = true ∧
    (loadSlot ([5, 0, 7, 0] ++ List.replicate 12 0) 500000 {}).due = some 0 ∧ cfgGrace (slotState {}) = 1000000 := by
  refine ⟨⟨?_, ?_, ?_, ?_, ?_, ?_⟩, ?_⟩ <;> decide +kernel
theorem witness_SluiceSlot_bad : CommandReady (slotState {}) (cmd 9 (List.replicate 20 9)) 0x09 [] 20 ∧
    zeros (commandArgs (cmd 9 (List.replicate 20 9)) 0x09 []) 1 3 = false ∧ CommandReady run (cmd 9 (List.replicate 20 0)) 0x09 [] 20 ∧
    hasCal (sessionActivity run) = false := by
  refine ⟨⟨?_, ?_, ?_, ?_, ?_, ?_⟩, ?_, ⟨?_, ?_, ?_, ?_, ?_, ?_⟩, ?_⟩ <;> decide +kernel

/-! Witnesses for CoursePortsAndRepeating. -/

/-- A Course frame of a type with a good CRC. -/
def rxf (type dst src classVer : Byte) (pay : List Byte) : CourseRx :=
  let r : CourseRx := { port := 0, dst := dst, src := src, seq := 7, len := BitVec.ofNat 8 pay.length, classVer := classVer, credit := 0, hop := 2,
                        payload := pay, crc := 0, endedEarly := false }
  { r with crc := frameCrc type 2 r }
/-- A node of a role in RUN with both ports used and enabled. -/
def chain (role : Role) (c : Course) : State :=
  withSec 0x0E [3, 0, 0, 0] { run with role := role, course := { c with ports := #v[{ c.ports[0] with enabled := true }, { c.ports[1] with enabled := true }] } }
theorem witness_LossOfSignal : (chain .head { ports := #v[{ los := false }, {}] }).course.ports[(0 : Fin 2)].enabled = true ∧
    (chain .head { ports := #v[{ los := false }, {}] }).course.ports[(0 : Fin 2)].los = false ∧
    (chain .pod { ports := #v[{ los := false }, { sent := some (repeated 0x26 (rxf 0x26 9 1 18 [])) }] }).course.ports[otherPort 0].sent =
      some (repeated 0x26 (rxf 0x26 9 1 18 [])) ∧ (repeated 0x26 (rxf 0x26 9 1 18 [])).repeated = true := by decide +kernel
theorem witness_SignalRestored : (chain .head {}).course.ports[(0 : Fin 2)].los = true ∧ isRunning (chain .head {}) = true ∧
    (0 : Fin 2) ∈ usedPorts (chain .head {}) ∧ sends (chain .head {}) 0 = true ∧ run.course.ports[(0 : Fin 2)].enabled = false := by decide +kernel
theorem witness_StoredFrame : sends (chain .pod {}) 0 = true ∧
    (chain .pod { ports := #v[{ txq := [repeated 0x26 (rxf 0x26 9 1 18 [])] }, {}] }).course.ports[(0 : Fin 2)].txq = [repeated 0x26 (rxf 0x26 9 1 18 [])] ∧
    (repeated 0x26 (rxf 0x26 9 1 18 [])).type ≠ 0x14 ∧ ({ repeated 0x14 (rxf 0x14 9 1 18 []) with repeated := false } : CourseFrame).type = 0x14 := by
  decide +kernel
theorem witness_NextOut : nextOut [{ repeated 0x26 (rxf 0x26 9 1 17 []) with repeated := false }, repeated 0x26 (rxf 0x26 9 1 18 [])] =
      some (repeated 0x26 (rxf 0x26 9 1 18 []), [{ repeated 0x26 (rxf 0x26 9 1 17 []) with repeated := false }]) ∧
    nextOut [repeated 0x26 (rxf 0x26 9 1 18 [])] = some (repeated 0x26 (rxf 0x26 9 1 18 []), []) := by decide +kernel
/-- DELAY_REQ of pod 3 with sweep number 1. -/
def delayFrame : CourseFrame := { dst := 0, src := 3, type := 0x15, seq := 9, classVer := 0x11, credit := 0, hop := 0, payload := [1, 0, 0, 0],
                                  stomped := false, repeated := false }
/-- Its wire image, byte by byte from the tables of chapter 15, CRC aside, and the levels of a byte (R569). -/
theorem witness_Wire : (wireBytes delayFrame).take 16 = [0x55, 0x55, 0x55, 0xD3, 0, 3, 0x15, 9, 4, 0x11, 0, 0, 1, 0, 0, 0] ∧
    lineLevels [0x01] = [false, true, true, false, true, false, true, false, true, false, true, false, true, false, true, false] := by decide +kernel
theorem witness_ReservedType : knownType 0x7F = false ∧ wholeFrame (rxf 0x7F 0 1 18 []) = true ∧
    (rxf 0x7F 0 1 18 []).crc = frameCrc 0x7F (rxf 0x7F 0 1 18 []).hop (rxf 0x7F 0 1 18 []) ∧ (rxf 0x7F 0 1 18 []).src ≠ 0 ∧
    (chain .head {}).role = .head ∧ (chain .head {}).course.ports[(0 : Fin 2)].enabled = true := by decide +kernel
theorem witness_Repeat : addressedHere (chain .pod {}) (rxf 0x26 9 1 18 [0x24, 5, 0, 0]) = false ∧
    rxFate (chain .pod {}) 0x26 (rxf 0x26 9 1 18 [0x24, 5, 0, 0]) = .accepted ∧ underTest (chain .pod {}).course.ports[(0 : Fin 2)] = false ∧
    (chain .pod {}).course.ports[otherPort 0].enabled = true := by decide +kernel
theorem witness_Rejected : courseFrame (.nak (rxf 0x26 0 1 18 [])) = some (.head, 0x26, rxf 0x26 0 1 18 []) ∧
    (chain .pod {}).role ≠ .head ∧ rxFate (chain .head {}) 0x26 (rxf 0x26 0 1 18 []) = .format ∧
    isRunning (chain .head {}) = true ∧ (rxf 0x26 0 1 18 []).src ≠ 0 := by decide +kernel

/-! Witnesses for HeadEnumerates. -/

/-- An IDENTITY payload of a pod with unique ID 5: address, phase, stepping, version 1, link counts 1 and 0. -/
def identPay (addr phase : Byte) : List Byte :=
  [5, 0, 0, 0, 0, 0, 0, 0, addr, phase, 0, 1, 0, 1, 1, 0, 0, 0xFF, 0, 0] ++ List.replicate 12 0
theorem witness_DiscoverTimer : (usedPorts (chain .head { ports := #v[{ los := false }, {}] })).any
    (fun p => !(chain .head { ports := #v[{ los := false }, {}] }).course.ports[p].los) = true ∧
    (chain .head {}).course.enum = .idle ∧ (chain .head {}).course.discoverClk + 1000000 ≤ ({ chain .head {} with clk := 1000000 } : State).clk ∧
    (chain .head {}).clk < (chain .head {}).course.discoverClk + 1000000 := by decide +kernel
/-- The pod of identPay at address 3. -/
def pod3 (st : NodeState) : Node := { addr := 3, state := st, uid := 5, assigns := 1 }
theorem witness_Identity : Takes .head (chain .head { enum := .collecting, enumFull := true }) 0x02 (rxf 0x02 0 3 18 (identPay 3 1)) ∧
    (identOf (identPay 3 1)).addr = 3 ∧ runsPhase (identOf (identPay 3 1)) = true ∧ runsPhase (identOf (identPay 3 0)) = false ∧
    (chain .head { nodes := [pod3 .assigned] }).course.nodes.find? (fun m => m.uid == 5 && m.addr == 3) = some (pod3 .assigned) := by
  refine ⟨⟨?_, ?_, ?_, ?_, ?_, ?_⟩, ?_⟩ <;> decide +kernel
theorem witness_Identity_idle : Takes .head (chain .head { nodes := [pod3 .lost] }) 0x02 (rxf 0x02 0 3 18 (identPay 3 0)) ∧
    usedPorts (chain .head { nodes := [pod3 .lost] }) ≠ [] := by refine ⟨⟨?_, ?_, ?_, ?_, ?_, ?_⟩, ?_⟩ <;> decide +kernel
theorem witness_CollectEnd : plans (chain .head { enum := .collecting, found := [{ payload := identPay 0 0 }] }) =
    [{ id := identOf (identPay 0 0), addr := 0, sub := 0, entry := 0xFF }] ∧
    plans { chain .head { enum := .collecting, found := [{ payload := identPay 0 0 }] } with clk := 5000 } =
    [{ id := identOf (identPay 0 0), addr := 0, sub := 0, entry := 0xFF }] ∧
    (chain .head { enum := .collecting }).clk < (chain .head { enum := .collecting }).course.newIdClk + 5000 ∧
    (chain .head { enum := .collecting }).clk < (chain .head { enum := .collecting }).course.collectClk + 100000 := by decide +kernel
/-- A head whose map gives the pod of identPay address 3. -/
def mapHead (c : Course) : State := withSec 0x0E ([3, 1] ++ List.replicate 14 0 ++ [1, 3, 0x21, 1, 5, 0, 0, 0, 0, 0, 0, 0]) (chain .head c)
theorem witness_CollectEnd_mapped : plans (mapHead { enum := .collecting, found := [{ payload := identPay 0 0 }] }) =
    [{ id := identOf (identPay 0 0), addr := 3, sub := 0x21, entry := 0 }] ∧
    disposition (mapHead {}) { id := identOf (identPay 0 0), addr := 3, sub := 0x21, entry := 0 } = 1 := by decide +kernel
theorem witness_AssignRetry : (chain .head { nodes := [pod3 .assigned] }).course.nodes.find? (fun m => m.addr == 3 && m.assigns != 0) =
    some (pod3 .assigned) ∧ (pod3 .assigned).assigns ≤ 3 ∧ (pod3 .assigned).assignClk + 10000 ≤ ({ chain .head {} with clk := 10000 } : State).clk ∧
    (chain .head {}).clk < (pod3 .assigned).assignClk + 10000 ∧ 3 < ({ pod3 .assigned with assigns := 4 } : Node).assigns := by decide +kernel
/-- The head's DISCOVER come round to C1. -/
def cameRound : CourseRx := { (rxf 0x01 255 0 18 ([1, 1, 1, 0] ++ List.replicate 24 0)) with port := 1 }
theorem witness_DiscoverReturn : le cameRound.payload 4 8 = (chain .head {}).cornerstone.uniqueId.toNat ∧ cfgRing (chain .head {}) = true ∧ wholeFrame cameRound = true ∧ cameRound.crc = frameCrc 0x01 cameRound.hop cameRound ∧
    fieldsOk (chain .head {}) 0x01 cameRound = true ∧ sends (chain .head {}) 1 = true ∧ cameRound.src = 0 ∧ cfgRing run = false := by decide +kernel

/-! Witnesses for BootTransfers. -/

theorem witness_BootStatus : Takes .head (chain .head { enum := .booting }) 0x0B (rxf 0x0B 0 3 18 [0, 1, 0, 0]) ∧
    b8 [0, 1, 0, 0] 0 = itemNo (chain .head { enum := .booting }) := by refine ⟨⟨?_, ?_, ?_, ?_, ?_, ?_⟩, ?_⟩ <;> decide +kernel
theorem witness_BootTimeout :
    let s := { chain .head { enum := .booting, bootItems := [(1, 0, [9])], nodes := [pod3 .assigned] } with clk := 10000 }
    s.course.bootClk + 10000 ≤ s.clk ∧ 5 < s.course.bootClk + 10000 ∧ isRunning s = true ∧ s.course.bootItems = [(1, 0, [9])] ∧ bootable (pod3 .assigned) = true ∧ keepsItem s (pod3 .assigned) 1 0 = true ∧
    stillMissing (blockCount [9]) (pod3 .assigned) = [0] ∧ stillMissing (blockCount [9]) { pod3 .assigned with missing := some [] } = [] := by decide +kernel
/-- A pod that waits for its images at address 3, with an item of one block begun. -/
def bootPod (blocks : List (Nat × List Byte)) : State :=
  { (chain .pod { pod := { addr := 3, item := some (0, 1, 1, 1, 0), blocks := blocks } }) with phase := .podWait }
theorem witness_BootPod : Takes .pod (bootPod []) 0x08 (rxf 0x08 255 0 18 ([0, 1, 0, 0, 1, 0, 0, 0, 1, 0, 0, 0] ++ [0, 0, 0, 0])) ∧
    podWaits (bootPod []) = true := by refine ⟨⟨?_, ?_, ?_, ?_, ?_, ?_⟩, ?_⟩ <;> decide +kernel
/-- Block 0. -/
def block0 : CourseRx := let r := { (rxf 0x09 255 0 18 [9]) with seq := 0 }; { r with crc := frameCrc 0x09 2 r }
theorem witness_BootData : Takes .pod (bootPod []) 0x09 block0 ∧ block0.seq.toNat + 256 * block0.credit.toNat = 0 := by
  refine ⟨⟨?_, ?_, ?_, ?_, ?_, ?_⟩, ?_⟩ <;> decide +kernel
theorem witness_BootEnd : Takes .pod (bootPod []) 0x0A (rxf 0x0A 255 0 18 [0, 0, 0, 0]) ∧ missingBlocks (bootPod []).course.pod 1 = [0] ∧
    missingBlocks (bootPod [(0, [9])]).course.pod 1 = [] ∧ itemStands (itemBytes (bootPod [(0, [9])]).course.pod 1) 0 = false := by
  refine ⟨⟨?_, ?_, ?_, ?_, ?_, ?_⟩, ?_⟩ <;> decide +kernel

/-! Witnesses for PodIsDiscoveredAndAssigned. -/

theorem witness_Discover : Takes .pod (chain .pod {}) 0x01 (rxf 0x01 255 0 18 ([1, 1, 1, 0] ++ List.replicate 24 0)) ∧
    sends (chain .pod {}) (otherPort 0) = true ∧ (chain .pod {}).course.pod.addr = 0 ∧ (chain .pod { pod := { addr := 3 } }).course.pod.addr ≠ 0 := by
  refine ⟨⟨?_, ?_, ?_, ?_, ?_, ?_⟩, ?_⟩ <;> decide +kernel
/-- An ASSIGN payload for unique ID 0: address 3, a disposition, sub-image 0x21. -/
def assignPay (disp sub : Byte) : List Byte := [0, 0, 0, 0, 0, 0, 0, 0, 3, disp, sub, 1, 0, 0, 0, 0]
theorem witness_Rename : (0x40, ({} : VcnEntry)) ∈ ({ chain .pod {} with results := [(0x40, {})] } : State).results ∧
    vcnNode 0x40 = (ownNode (chain .pod {})).toNat ∧ vcnNode 0x340 ≠ (ownNode (chain .pod {})).toNat := by decide +kernel
theorem witness_Assign : Takes .pod (chain .pod {}) 0x03 (rxf 0x03 255 0 18 (assignPay 0 0x21)) ∧
    le (assignPay 0 0x21) 0 8 = (chain .pod {}).cornerstone.uniqueId.toNat ∧ u8 (assignPay 0 0x21) 9 = 0 ∧ u8 (assignPay 3 0x21) 9 = 3 ∧
    (chain .pod {}).phase ≠ .porHold ∧ le (identPay 0 0) 0 8 ≠ (chain .pod {}).cornerstone.uniqueId.toNat := by
  refine ⟨⟨?_, ?_, ?_, ?_, ?_, ?_⟩, ?_⟩ <;> decide +kernel

/-! Witnesses for HeadSweepsAndCredits. -/

/-- Pod 3, joined. -/
def joined3 : Node := { addr := 3, state := .joined, uid := 5, demand := 2, everReported := true, link0 := 1 }
/-- Head with pod 3 joined. -/
def sweepHead : State := chain .head { nodes := [joined3] }
/-- The same with sweep 0 in progress. -/
def dataHead : State := chain .head { nodes := [joined3], sweep := 0, sweepOf := some 62500 }
/-- The same a sweep later, on a multiple of S. -/
def sweepNow : State :=
  { chain .head { nodes := [joined3], sweepOf := some 62500 } with clk := 62500, time := { counting := true, count := 62500, stride := 1 } }
theorem witness_SweepTick : sweepNow.role = .head ∧ isActive sweepNow = true ∧ usedPorts sweepNow ≠ [] ∧ sends sweepNow 0 = true ∧
    onTime sweepNow (headS sweepNow) = true ∧ onTime sweepHead (headS sweepHead) = false := by decide +kernel
theorem witness_SweepTick_remote : ∃ x : RemoteTest, x.running = false ∧ x.toStart ≠ 0 :=
  ⟨remoteFor 3 0 1 100 0, rfl, by decide⟩
theorem witness_CreditSend_due : creditDue sweepNow = true ∧ sweepOver sweepNow = true ∧ creditDue sweepHead = false ∧ sweepOver sweepHead = false ∧
    creditDue { sweepNow with course := { sweepNow.course with nodes := [] } } = true := by decide +kernel
theorem witness_CreditSend : joined3 ∈ sweepHead.course.nodes ∧ swept joined3 = true ∧ swept { joined3 with joining := true } = false ∧ nodePrio sweepHead joined3 < 3 ∧
    ((sideNodes sweepHead 0).map needOf).sum ≤ sideFrames sweepHead (sideNodes sweepHead 0).length ∧ joined3 ∈ sideNodes sweepHead 0 := by decide +kernel
/-- A head whose two pods on side 0 are critical (3) and background (4), and ask for too much. -/
def busyHead : State := withSec 0x0E ([3, 2] ++ List.replicate 14 0 ++ [1, 3, 0x21, 0, 5, 0, 0, 0, 0, 0, 0, 0] ++ [1, 4, 0x21, 2, 6, 0, 0, 0, 0, 0, 0, 0])
  (chain .head { sweepOf := some 62500, nodes := [{ joined3 with mapEntry := 0, demand := 200, grant := 127, expected := 300, reported := true },
                           { joined3 with addr := 4, uid := 6, mapEntry := 1, demand := 200 }] })
theorem witness_CreditSend_classes : nodePrio busyHead { joined3 with mapEntry := 0 } = 0 ∧ nodePrio busyHead { joined3 with mapEntry := 1 } = 2 := by
  decide +kernel
theorem witness_SweepEnd : (cfgSafeMask sweepHead).getLsbD 0x17 = false ∧ (cfgSafeMask sweepHead).getLsbD 0x18 = false ∧
    sweepHead.course.ports[(0 : Fin 2)].los = true ∧ (0 : Fin 2) ∈ usedPorts sweepHead ∧ sweepHead.course.break0 ≠ 0 ∧ joined3.reported = false ∧
    sweepHead.course.remote = none ∧ beyondTest sweepHead joined3 = false ∧ sweepHead.course.break1 = 0xFF ∧ sweepHead.ks.oldBreaks = [] ∧
    beyondTest { sweepHead with course := { sweepHead.course with testLink := some (0, 1) } } joined3 = true ∧ sweepHead.course.sweepRing = false := by
  decide +kernel
theorem witness_SweepEnd_order : sweepHead.course.nodes.Pairwise (fun a b => a.addr < b.addr) := List.pairwise_singleton ..

/-! Witnesses for HeadTakesPodFrames. -/

/-- A record of pod 3, 24 bytes. -/
def rec3 : List Byte := [1, 3, 1, 0, 9, 0, 0, 0] ++ List.replicate 16 0
theorem witness_PodFrames : Takes .head sweepHead 0x12 (rxf 0x12 0 3 17 ([0, 0, 0, 0, 0, 0, 0, 0, 1, 2, 2, 0, 0, 0, 0, 0] ++ List.replicate 32 0)) ∧
    JoinedPod sweepHead 3 joined3 := by refine ⟨⟨?_, ?_, ?_, ?_, ?_, ?_⟩, ?_, ?_⟩ <;> decide +kernel
theorem witness_PodFrames_alarm : Takes .head sweepHead 0x14 (rxf 0x14 0 3 16 (List.replicate 36 0)) ∧
    Takes .head sweepHead 0x15 (rxf 0x15 0 3 17 [0, 0, 0, 0]) := by
  refine ⟨⟨?_, ?_, ?_, ?_, ?_, ?_⟩, ⟨?_, ?_, ?_, ?_, ?_, ?_⟩⟩ <;> decide +kernel
/-- A head in RUN whose rule 0 is the REMOTE rule of pod 3, argument 0. -/
def remoteHead : State := withSec 0x0B ([1, 0, 0, 0] ++ List.replicate 12 0 ++ [7, 0, 0, 3] ++ List.replicate 28 0) sweepHead
theorem witness_PodFrames_rule : isActive remoteHead = true ∧ 0 < ruleCount remoteHead ∧ ruleKind remoteHead 0 = 7 ∧
    vcnNode (ruleVcn remoteHead 0) = 3 := by decide +kernel
theorem witness_PodFrames_data : Takes .head dataHead 0x13 (rxf 0x13 0 3 17 ([0, 0, 0, 0, 1, 0, 0, 0] ++ rec3)) ∧
    JoinedPod dataHead 3 joined3 ∧ sweepOpen dataHead [0, 0, 0, 0, 1, 0, 0, 0] = true ∧ ofThisSweep dataHead [0, 0, 0, 0, 1, 0, 0, 0] = true ∧
    sweepOpen { sweepHead with course := { sweepHead.course with sweep := 5 } } [0, 0, 0, 0, 1, 0, 0, 0] = false ∧
    (recordsOf ([0, 0, 0, 0, 1, 0, 0, 0] ++ rec3)).length = 1 ∧
    vcnNode (recordOf rec3).vcn = 3 ∧ heldAlready { sweepHead with results := [(0x301, {})] } (recordOf rec3) = false ∧
    entryOf { sweepHead with results := [(0x301, {})] } (recordOf rec3).vcn = some {} := by
  refine ⟨⟨?_, ?_, ?_, ?_, ?_, ?_⟩, ⟨?_, ?_⟩, ?_⟩ <;> decide +kernel
theorem witness_PodFrames_backlog : Takes .head sweepHead 0x21 (rxf 0x21 0 3 18 ([0, 0, 0, 0, 1, 0, 0, 0] ++ rec3)) ∧
    Takes .head sweepHead 0x23 (rxf 0x23 0 3 18 [0, 0, 0, 0]) ∧ inOrder joined3 0 = false ∧
    inOrder { joined3 with backlogSweep := some 0, backlogNext := 1 } 0 = true := by
  refine ⟨⟨?_, ?_, ?_, ?_, ?_, ?_⟩, ⟨?_, ?_, ?_, ?_, ?_, ?_⟩, ?_⟩ <;> decide +kernel
theorem witness_PodFrames_status : Takes .head sweepHead 0x25 (rxf 0x25 0 3 18 [0x04, 0x30, 4, 0, 1, 0, 0, 0]) ∧
    u16 [0x04, 0x30, 4, 0, 1, 0, 0, 0] 0 = 0x3004 ∧ Takes .head sweepHead 0x26 (rxf 0x26 0 3 18 [0x24, 5, 0, 0]) ∧ u8 [0x24, 5, 0, 0] 0 = 0x24 := by
  refine ⟨⟨?_, ?_, ?_, ?_, ?_, ?_⟩, ?_, ⟨?_, ?_, ?_, ?_, ?_, ?_⟩, ?_⟩ <;> decide +kernel
theorem witness_PodFrames_unknown : courseFrame (.nak (rxf 0x26 0 9 18 [0x24, 5, 0, 0])) = some (.head, 0x26, rxf 0x26 0 9 18 [0x24, 5, 0, 0]) ∧
    Takes .head sweepHead 0x26 (rxf 0x26 0 9 18 [0x24, 5, 0, 0]) ∧ sweepHead.course.nodes.find? (fun n => n.addr == 9) = none := by
  refine ⟨rfl, ⟨?_, ?_, ?_, ?_, ?_, ?_⟩, ?_⟩ <;> decide +kernel

/-! Witnesses for PodSweepsAndServices. -/

/-- A pod at address 3 in sweeps, its C0 side assigned and faced by port 0, with section 0x03 of those flags. -/
def podAt (flags : Byte) (p : Pod) : State :=
  withSec 3 ([flags, 1] ++ List.replicate 62 0) (chain .pod { pod := { p with addr := 3, phase := 1, side := some 0, faces0 := some 0 } })
theorem witness_PodSweepStart : Takes .pod (podAt 0 {}) 0x10 (rxf 0x10 255 0 17 ([1, 0, 0, 0] ++ List.replicate 9 0 ++ [3, 3, 0])) ∧ podSweeps (podAt 0 {}) = true ∧
    cfgChainTime (podAt 0 {}) = false ∧ freshSweep (podAt 0 {}) 1 = true ∧ facing (podAt 0 {}).course.pod 0 = some 0 := by
  refine ⟨⟨?_, ?_, ?_, ?_, ?_, ?_⟩, ?_⟩ <;> decide +kernel
theorem witness_PodMark :
    let s := { podAt 32 { sweep := 1, sweepClk := 1, headTimeValid := true, delays0 := [500] } with
      time := { chainPredicted := true, chainGood := 3, valid := true, state := .free, chainMark := 500 } }
    cfgChainTime s = true ∧ freshSweep s 1 = false ∧ sideDelay s.course.pod 0 = some 500 ∧ s.course.pod.marked = false ∧
      ((time56 (plumbAt ([1, 0, 0, 0] ++ List.replicate 9 0 ++ [3, 3, 0]) 4) : Int) * 1000 + 500 - chainNow s).natAbs ≤ 2000 := by decide +kernel
theorem witness_PodCredit : Takes .pod (podAt 0 { sweepClk := 1 }) 0x11 (rxf 0x11 255 0 17 [3, 1, 0, 0, 2, 3]) ∧
    creditOf [3, 1, 0, 0, 2, 3] 3 = some 0x302 ∧ bit 0x302 9 = true ∧ bit 0x302 7 = false ∧ bit 0x102 9 = false ∧
    sends (podAt 0 { sweepClk := 1 }) 0 = true := by refine ⟨⟨?_, ?_, ?_, ?_, ?_, ?_⟩, ?_⟩ <;> decide +kernel
theorem witness_PodMissed_due :
    let s : State := { podAt 0 { sweepClk := 1 } with clk := 2000000 }
    s.course.pod.sweepClk - 1 + (s.course.pod.missNo + 1) * podS s.course.pod + 1000 ≤ s.clk ∧
    (podAt 0 { sweepClk := 1 }).clk < 1 - 1 + (0 + 1) * podS (podAt 0 { sweepClk := 1 }).course.pod + 1000 ∧
    isRunning { chain .pod {} with phase := .loaded } = false ∧
    Takes .pod { chain .pod {} with phase := .loaded } 0x10 (rxf 0x10 255 0 17 ([1, 0, 0, 0] ++ List.replicate 9 0 ++ [3, 3, 0])) := by
  refine ⟨?_, ?_, ?_, ⟨?_, ?_, ?_, ?_, ?_, ?_⟩⟩ <;> decide +kernel
theorem witness_PodMissed : podSweeps (podAt 0 { sweepClk := 1, missed := 2 }) = true ∧ (podAt 0 { sweepClk := 1, missed := 2 }).course.pod.missed = 2 ∧
    cfgChainTime (podAt 32 { sweepClk := 1 }) = true ∧ podSweeps run = false := by decide +kernel
theorem witness_PodDelay : Takes .pod (podAt 0 { t1 := some 0 }) 0x16 (rxf 0x16 3 0 17 (List.replicate 16 0)) ∧
    f32At (List.replicate 16 0) 12 = (podAt 0 { t1 := some 0 }).course.pod.sweep := by refine ⟨⟨?_, ?_, ?_, ?_, ?_, ?_⟩, ?_⟩ <;> decide +kernel
theorem witness_PodBacklog : Takes .pod (podAt 0 {}) 0x20 { (rxf 0x20 3 0 18 [0, 0, 0, 0]) with
    credit := 1, crc := frameCrc 0x20 2 { (rxf 0x20 3 0 18 [0, 0, 0, 0]) with credit := 1 } } ∧ sends (podAt 0 {}) (sidePort (podAt 0 {}).course.pod 0) = true := by
  refine ⟨⟨?_, ?_, ?_, ?_, ?_, ?_⟩, ?_⟩ <;> decide +kernel
theorem witness_PodRender : Takes .pod (podAt 0 {}) 0x22 (rxf 0x22 3 0 18 [1, 0, 0, 0, 0, 3, 0, 0]) ∧ bit (u8 [1, 0, 0, 0, 0, 3, 0, 0] 5) 0 = true ∧
    bit (u8 [1, 0, 0, 0, 0, 3, 0, 0] 5) 1 = true := by refine ⟨⟨?_, ?_, ?_, ?_, ?_, ?_⟩, ?_⟩ <;> decide +kernel
theorem witness_PodRender_refused : renderRefusal (podAt 0 {}) [1, 0, 0, 0, 0, 3, 0, 0] = none ∧
    renderRefusal (podAt 0 {}) [1, 0, 0, 0, 0, 2, 0, 0] = some stBadArg ∧
    renderRefusal (podAt 0 {}) ([1, 0, 0, 0, 1, 1, 0, 0, 0, 9] ++ List.replicate 22 0) = some stUnknownVcn := by decide +kernel
theorem witness_PodStatus : Takes .pod (podAt 0 {}) 0x24 (rxf 0x24 3 0 18 [0, 0, 4, 0]) ∧
    ¬ 0x10000 < u16 [0, 0, 4, 0] 0 + u16 [0, 0, 4, 0] 2 := by refine ⟨⟨?_, ?_, ?_, ?_, ?_, ?_⟩, ?_⟩ <;> decide +kernel
theorem witness_PodIdle : podSweeps (chain .pod {}) = false ∧ Takes .pod (chain .pod { pod := { addr := 3 } }) 0x24 (rxf 0x24 3 0 18 [0, 0, 4, 0]) := by
  refine ⟨?_, ⟨?_, ?_, ?_, ?_, ?_, ?_⟩⟩ <;> decide +kernel

/-! Witnesses for HostReadsReplayResults. -/

/-- RUN with one known VCN, 0x0000, whose record has sequence 1. -/
def resultState : State := { run with results := [(0, { record := some { vcn := 0, status := 1, seq := 1, time := 5, value := 0, raw := 0, age := 0 } })] }
/-- A frame of a length with a payload. -/
def dataFrm (len : BitVec 16) (pay : List Byte) : HostFrame := { emptyFrame with length := len, payload := pay }
theorem witness_HostChecks : hostAnswers run = true ∧ frameComplete (dataFrm 4 [1, 0, 0, 0]) [1, 0, 0, 0] = true ∧
    crcRequired run = false ∧ isRunning run = true ∧ isRunning { run with phase := .footing } = false ∧ hostAnswers { run with phase := .footing } = true ∧
    hostAnswers State.reset = false ∧ reservedOpcode (dataFrm 4 []).opcode = false ∧ crc16 (headerBytes 0x06 { emptyFrame with flags := 1 } 0) ≠ 0 := by decide +kernel
theorem witness_Reserved_opcode : reservedOpcode 0x07 = true ∧ reservedOpcode emptyFrame.opcode = false ∧
    ({ emptyFrame with opcode := 7 } : HostFrame).flags.getLsbD 0 = false ∧ crcRequired run = false ∧ hostAnswers run = true := by decide +kernel
theorem witness_Reserved_codes :
    let f (l : List Byte) : HostFrame := { emptyFrame with opcode := 0x10, length := BitVec.ofNat 16 l.length, payload := l }
    let ok (l : List Byte) (code : Byte) (fix : List (Nat × Byte)) : Bool :=
      frameComplete (f l) l && (frameCheck open3 0x10 (f l) 0 true (some (rowPayload (f l) code fix)) false false == stOk)
    ok [0x30, 0, 0, 0] 8 [] = true ∧ reservedCommand ((rowPayload (f [0x30, 0, 0, 0]) 8 []).getD 0 0) = true ∧
    ok [1, 0, 0, 0, 3, 0, 0, 0] 1 [(4, 0)] = true ∧ 2 < u8 (rowPayload (f [1, 0, 0, 0, 3, 0, 0, 0]) 1 [(4, 0)]) 4 ∧
    ok [5, 0, 0, 0, 0, 4, 0, 0, 0, 0, 0, 0] 5 [(5, 0)] = true ∧ 3 < u8 (rowPayload (f [5, 0, 0, 0, 0, 4, 0, 0, 0, 0, 0, 0]) 5 [(5, 0)]) 5 ∧
    hasCal (sessionActivity open3) = true := by decide +kernel
theorem witness_Reserved_cal :
    let l : List Byte := [7, 0, 0, 0, 0x28, 0, 7, 0, 0, 0, 0, 0]
    let f : HostFrame := { emptyFrame with opcode := 0x10, length := 12, payload := l }
    let s : State := { open3 with modes := { open3.modes with mode := .run }, results := [(0x28, {})] }
    frameCheck s 0x10 f 0 true (some (rowPayload f 7 [(6, calCode .zero)])) false false = stOk ∧ u8 (rowPayload f 7 [(6, calCode .zero)]) 6 = 7 ∧
    zeros (rowPayload f 7 [(6, calCode .zero)]) 1 3 = true ∧ inSafe (sessionActivity s) = false ∧
    vcnStatus (sessionActivity s) (BitVec.ofNat 16 (u16 (rowPayload f 7 [(6, calCode .zero)]) 4)) = stOk := by decide +kernel
theorem witness_Vendor_locked :
    let f : HostFrame := { emptyFrame with opcode := 0x10, length := 4, payload := [0x30, 0, 0, 0] }
    let s : State := { run with phase := .production }
    hostAnswers s = true ∧ frameComplete f f.payload = true ∧ s.gate.sessions[2] = none ∧
    frameCheck s 0x10 f f.address.toNat (f.address == 0 && 4 ≤ f.length.toNat && f.length.toNat ≤ 256) (some (rowPayload f 8 [])) false true = stOk ∧
    vendorCode ((rowPayload f 8 []).getD 0 8) = true := by decide +kernel
/-- A head with pod 3 parked, and what was delivered of its VCN 0x300. -/
def parkedHead (l : List (Vcn × BitVec 32 × BitVec 16)) : State :=
  { run with role := .head, course := { run.course with nodes := [{ addr := 3, state := .parkedIncompatible }] }, host := { run.host with delivered := l } }
theorem witness_Results_parked : assignedIndex (vcnIndex 0x300) = true ∧ parkedNode (parkedHead []) 0x300 = true ∧ entryOf (parkedHead []) 0x300 = none ∧
    (parkedHead [(0x300, 1, 0)]).host.delivered.lookup 0x300 = some (1, 0) ∧ (parkedHead []).host.delivered.lookup 0x300 = none := by decide +kernel
theorem witness_HostChecks_required : crcRequired (withSec 0x0F (1 :: List.replicate 15 0) run) = true := by decide +kernel
theorem witness_HostChecks_payload :
    let f : HostFrame := { opcode := 6, flags := 1, address := 0, length := 4, headerCrc := crc16 (headerBytes 0x06 { (dataFrm 4 []) with flags := 1 } 0),
                           payload := [1, 0, 0, 0], payloadCrc := 0 }
    crc16 (headerBytes 0x06 f 0) = f.headerCrc ∧ crc16 (framePayload f f.payload) ≠ f.payloadCrc ∧ f.flags &&& 0xFE = 0 := by decide +kernel
theorem witness_Read : frameCheck run 0x01 { (dataFrm 4 []) with address := 0x100 } 0x100 (readLenOk { (dataFrm 4 []) with address := 0x100 }) none
    (identityOnly { (dataFrm 4 []) with address := 0x100 }) false = stOk ∧ frameCheck run 0x01 emptyFrame 0 (readLenOk emptyFrame) none true false ≠ stOk := by
  decide +kernel
theorem witness_Replay : frameCheck run 0x03 emptyFrame 0 (emptyFrame.address == 0 && emptyFrame.length == 0) none false false = stOk ∧
    run.host.stored = none ∧ ({ run with host := { run.host with stored := some [0] } } : State).host.stored = some [0] := by decide +kernel
theorem witness_Results : DataReady resultState 0x04 (dataFrm 2 [0, 0]) true := by refine ⟨?_, ?_, ?_⟩ <;> decide +kernel
theorem witness_Results_entry : assignedIndex (vcnIndex 0) = true ∧ parkedNode resultState 0 = false ∧ nodePresent resultState (vcnNode 0) = true ∧
    (entryOf resultState 0).isSome = true ∧ classHidden resultState 0 = false ∧
    classHidden resultState 0x40 = true ∧ inSafe { resultState with modes := { resultState.modes with mode := .safe } } = true ∧
    housekept resultState 0 = false ∧ assignedIndex 0xFF = false ∧ nodePresent resultState 9 = false := by decide +kernel

/-! Witnesses for LogEventsFrameEnd. -/

theorem witness_Log : DataReady run 0x05 (dataFrm 8 [0, 0, 1, 0, 0, 0, 0, 0]) true ∧ DataReady run 0x05 (dataFrm 8 [2, 0, 1, 0, 0, 0, 0, 0]) true := by
  refine ⟨⟨?_, ?_, ?_⟩, ⟨?_, ?_, ?_⟩⟩ <;> decide +kernel
theorem witness_Events : DataReady run 0x06 (dataFrm 4 [3, 0, 0, 0]) true ∧ DataReady run 0x06 (dataFrm 4 [0, 0, 0, 0]) true := by
  refine ⟨⟨?_, ?_, ?_⟩, ⟨?_, ?_, ?_⟩⟩ <;> decide +kernel
/-- A state whose port still has an effect to make. -/
def withEffect (e : ReadEffect) : State := { resultState with host := { resultState.host with effect := e } }
theorem witness_FrameEnd : (withEffect (.events 1 (some 2))).host.effect = .events 1 (some 2) ∧
    (withEffect (.marks [0] [])).host.effect = .marks [0] [] ∧ (withEffect (.delivered [(0, 1, 0)])).host.effect = .delivered [(0, 1, 0)] ∧
    (entryOf (withEffect (.delivered [(0, 1, 0)])) 0).isSome = true ∧ (∀ m, run.host.effect ≠ .timeSet m) := by
  refine ⟨rfl, rfl, rfl, by decide +kernel, fun m h => by cases h⟩
theorem witness_Reassert : run.events.irqClk + 2 ≤ ({ run with clk := 2 } : State).clk ∧ run.clk < run.events.irqClk + 2 := by decide +kernel
theorem witness_Hirqn : ∃ s : State, isRunning s = true ∧ hirqAsserted s = true :=
  ⟨{ run with events := { run.events with queue := [{ ev := 2, boot := false, arg := 0, time := 0, era := 0 }] } }, by decide, by decide⟩

/-! Witnesses for RegisterWrites. -/

/-- A WRITE frame at an address. -/
def wr (addr : BitVec 16) (pay : List Byte) : HostFrame :=
  { emptyFrame with address := addr, length := BitVec.ofNat 16 pay.length, payload := pay }
theorem witness_Write : WriteReady open3 (wr 0x100 [3]) 0x100 [] ∧ WriteReady open3 (wr 0x440 [1, 2, 3, 4, 5, 6, 7]) 0x440 [] ∧
    WriteReady open3 (wr 0x300 [3]) 0x300 [] ∧ writable 0x300 = false := by refine ⟨⟨?_, ?_, ?_⟩, ⟨?_, ?_, ?_⟩, ⟨?_, ?_, ?_⟩, ?_⟩ <;> decide +kernel
theorem witness_Write_selects : WriteReady open3 (wr 0x600 [3]) 0x600 [] ∧ WriteReady open3 (wr 0x10B0 [3]) 0x10B0 [] ∧
    WriteReady run (wr 0x5000 [3]) 0x5000 [] ∧ diagByte 0x5000 = true ∧ hasDiag (sessionActivity run) = false := by
  refine ⟨⟨?_, ?_, ?_⟩, ⟨?_, ?_, ?_⟩, ⟨?_, ?_, ?_⟩, ?_⟩ <;> decide +kernel
theorem witness_Write_events : WriteReady run (wr 0x200 [1, 0, 0, 0]) 0x200 [] ∧ WriteReady run (wr 0x204 [0xFF, 0xFF, 0xFF, 0xFF]) 0x204 [] ∧
    WriteReady run (wr 0x208 [1, 0, 0, 0]) 0x208 [] := by refine ⟨⟨?_, ?_, ?_⟩, ⟨?_, ?_, ?_⟩, ⟨?_, ?_, ?_⟩⟩ <;> decide +kernel
theorem witness_Write_probe : WriteReady open3 (wr 0x2300 [5, 0]) 0x2300 [] ∧ hasDiag (sessionActivity open3) = true ∧
    WriteReady open3 (wr 0x3102 [1]) 0x3102 [] ∧ injectable 9 = true := by refine ⟨⟨?_, ?_, ?_⟩, ?_, ⟨?_, ?_, ?_⟩, ?_⟩ <;> decide +kernel
theorem witness_Write_inject : ∃ s : State, hasDiag (sessionActivity s) = true ∧ (sessionActivity s).ks.injectCode.toNat = 9 ∧
    faultActive (sessionActivity s) 9 = false :=
  ⟨{ open3 with ks := { open3.ks with injectCode := 9 } }, by decide +kernel, by decide +kernel, by decide +kernel⟩
theorem witness_Write_linkTest : WriteReady open3 (wr 0x5000 [0x19]) (controlAddr 0) [] ∧ WriteReady open3 (wr 0x5021 [4]) (controlAddr 1 + 1) [] ∧
    (sessionActivity open3).course.ports[(0 : Fin 2)].timed = false ∧ remotePort (sessionActivity open3) 0 = false := by
  refine ⟨⟨?_, ?_, ?_⟩, ⟨?_, ?_, ?_⟩, ?_⟩ <;> decide +kernel

/-! Witnesses for AlarmLogAndRemoteReads. -/

theorem witness_AckAlarm : CommandReady run (cmd 0x0A [0, 0, 0, 0]) 0x0A [] 4 ∧
    beforeSeq ((sessionActivity run).log.alarmSeq - 1) (f32At (commandArgs (cmd 0x0A [0, 0, 0, 0]) 0x0A []) 0) = true ∧
    CommandReady run (cmd 0x0A [0xFF, 0xFF, 0xFF, 0xFF]) 0x0A [] 4 ∧
    beforeSeq ((sessionActivity run).log.alarmSeq - 1) (f32At (commandArgs (cmd 0x0A [0xFF, 0xFF, 0xFF, 0xFF]) 0x0A []) 0) = false := by
  refine ⟨⟨?_, ?_, ?_, ?_, ?_, ?_⟩, ?_, ⟨?_, ?_, ?_, ?_, ?_, ?_⟩, ?_⟩ <;> decide +kernel
theorem witness_RemoteRead : CommandReady sweepHead (cmd 0x0B [3, 0, 0, 0x30, 4, 0, 0, 0]) 0x0B [] 8 ∧ (sessionActivity sweepHead).role = .head ∧
    nodeOf (sessionActivity sweepHead) 3 = some joined3 ∧ joined3.state = .joined ∧ (sessionActivity sweepHead).course.noService[joined3.side] < 16 ∧
    (sessionActivity sweepHead).course.rrPending = false ∧ (sessionActivity sweepHead).course.service.length < 16 := by
  refine ⟨⟨?_, ?_, ?_, ?_, ?_, ?_⟩, ?_⟩ <;> decide +kernel
theorem witness_RemoteRead_refused : CommandReady (chain .pod {}) (cmd 0x0B [3, 0, 0, 0x30, 4, 0, 0, 0]) 0x0B [] 8 ∧
    (sessionActivity (chain .pod {})).role = .pod ∧ nodeOf (sessionActivity sweepHead) 9 = none ∧ ({ sweepHead with course := { sweepHead.course with noService := #v[16, 0] } } : State).course.noService[joined3.side] = 16 ∧
    CommandReady sweepHead (cmd 0x0B [0, 0, 0, 0x30, 4, 0, 0, 0]) 0x0B [] 8 := by
  refine ⟨⟨?_, ?_, ?_, ?_, ?_, ?_⟩, ?_, ?_, ?_, ⟨?_, ?_, ?_, ?_, ?_, ?_⟩⟩ <;> decide +kernel

/-! Witnesses for GateScopes. -/

theorem witness_Open : CommandReady run (cmd 0x20 [1, 0, 0, 0]) 0x20 [] 4 ∧ u8 (commandArgs (cmd 0x20 [1, 0, 0, 0]) 0x20 []) 0 = 1 ∧
    (sessionActivity run).otp.sealBit = false ∧ zeros (commandArgs (cmd 0x20 [1, 0, 0, 0]) 0x20 []) 1 3 = true ∧
    CommandReady run (cmd 0x20 [3, 0, 0, 0]) 0x20 [] 4 := by refine ⟨⟨?_, ?_, ?_, ?_, ?_, ?_⟩, ?_, ?_, ?_, ⟨?_, ?_, ?_, ?_, ?_, ?_⟩⟩ <;> decide +kernel
theorem witness_Challenge : CommandReady run (cmd 0x21 [3, 0, 0, 0]) 0x21 [] 4 ∧ u8 (commandArgs (cmd 0x21 [3, 0, 0, 0]) 0x21 []) 0 = 3 ∧
    CommandReady run (cmd 0x21 [1, 0, 0, 0]) 0x21 [] 4 := by refine ⟨⟨?_, ?_, ?_, ?_, ?_, ?_⟩, ?_, ⟨?_, ?_, ?_, ?_, ?_, ?_⟩⟩ <;> decide +kernel
/-- A nonce stands for CAL on a sealed device. -/
def nonceState : State := { run with otp := { sealBit := true, userKey := some (List.replicate 32 7) }, gate := { run.gate with nonce := some (9, 1) } }
theorem witness_Response : CommandReady nonceState (cmd 0x22 ([1, 0, 0, 0] ++ List.replicate 16 0)) 0x22 [] 20 ∧
    liveNonce (sessionActivity nonceState) = some (9, 1) ∧ lockedOut (sessionActivity nonceState) = false := by
  refine ⟨⟨?_, ?_, ?_, ?_, ?_, ?_⟩, ?_⟩ <;> decide +kernel
theorem witness_Response_right (k : List Byte) : (([1, 0, 0, 0] ++ k : List Byte).drop 4 = expectedResponse nonceState 9 1) ↔ k = expectedResponse nonceState 9 1 :=
  Iff.rfl
/-- A configuration with a password. -/
def passState : State := withSec 0x11 ([1, 0, 0, 0] ++ List.replicate 48 0) run
theorem witness_Password : CommandReady passState (cmd 0x23 ([8, 0, 0, 0] ++ List.replicate 8 65 ++ List.replicate 24 0)) 0x23 [] 36 ∧
    cfgPassword (sessionActivity passState) = true ∧ lockedOut (sessionActivity passState) = false := by
  refine ⟨⟨?_, ?_, ?_, ?_, ?_, ?_⟩, ?_⟩ <;> decide +kernel
/-- A session that has been idle for 15 min, a nonce that is over, a lockout that runs. -/
theorem witness_GateTimers : ({ open3 with clk := 900000000 } : State).gate.sessions[(0 : Fin 3)] = some 0 ∧
    ({ nonceState with clk := 60000000 } : State).gate.nonceClk + 60000000 ≤ 60000000 ∧ lockedOut run = false ∧
    lockedOut { run with gate := { run.gate with lockout := some 5 } } = true := by decide +kernel
theorem witness_Relock : CommandReady open3 (cmd 0x24 [7, 0, 0, 0]) 0x24 [] 4 ∧ CommandReady open3 (cmd 0x24 [8, 0, 0, 0]) 0x24 [] 4 := by
  refine ⟨⟨?_, ?_, ?_, ?_, ?_, ?_⟩, ⟨?_, ?_, ?_, ?_, ?_, ?_⟩⟩ <;> decide +kernel

/-! Witnesses for SealAndLinkChecks. -/

/-- A SEAL frame with CRC for unique ID 0. -/
def sealFrame : HostFrame :=
  let f : HostFrame := { (cmd 0x25 ([0, 0, 0, 0] ++ List.replicate 8 0 ++ List.replicate 32 7)) with flags := 1 }
  { f with headerCrc := crc16 (headerBytes 0x10 f 0), payloadCrc := crc16 f.payload }
theorem witness_Seal : CommandReady open3 sealFrame 0x25 [] 44 ∧ hasCal (sessionActivity open3) = true ∧ (sessionActivity open3).gate.sealing = none ∧
    (sessionActivity open3).otp.sealFailed = false := by refine ⟨⟨?_, ?_, ?_, ?_, ?_, ?_⟩, ?_⟩ <;> decide +kernel
theorem witness_Seal_refused : CommandReady open3 (cmd 0x25 ([0, 0, 0, 0] ++ List.replicate 8 0 ++ List.replicate 32 7)) 0x25 [] 44 ∧
    CommandReady open3 (cmd 0x25 (List.replicate 44 2)) 0x25 [] 44 := by refine ⟨⟨?_, ?_, ?_, ?_, ?_, ?_⟩, ⟨?_, ?_, ?_, ?_, ?_, ?_⟩⟩ <;> decide +kernel
theorem witness_SealComplete : ({ open3 with gate := { open3.gate with sealing := some (false, [7]) } } : State).gate.sealing = some (false, [7]) ∧
    open3.gate.sealing = none := ⟨rfl, rfl⟩
/-- Sessions open and section 0x0E with both ports used, section 0x13 with a test limit and an error threshold. -/
def testState (p : Port) : State :=
  withSec 0x13 ([1, 1] ++ List.replicate 30 1) (withSec 0x0E [3, 0, 0, 0] { open3 with course := { open3.course with ports := #v[p, {}] } })
theorem witness_TimedTest : CommandReady (testState {}) (cmd 0x28 [0, 1, 3, 0, 10, 0, 0, 0]) 0x28 [] 8 ∧ hasDiag (sessionActivity (testState {})) = true ∧
    portUsed (sessionActivity (testState {})) 0 = true ∧ 10 ≤ cfgTestMax (sessionActivity (testState {})) ∧ inTest (sessionActivity (testState {})) 0 = false ∧
    inTest (testState { timed := true }) 0 = true := by refine ⟨⟨?_, ?_, ?_, ?_, ?_, ?_⟩, ?_⟩ <;> decide +kernel
theorem witness_Checker : (testState { control := 0x19, locked := true, timed := true }).course.ports[(0 : Fin 2)].control.getLsbD 4 = true ∧
    lockRun (prbsTaps 1) (List.replicate 71 false) = true ∧ onesIn (0xFFFF : BitVec 64) = 16 ∧
    cfgErrorThreshold (testState {}) ≠ 0 ∧ checking (testState { control := 0x19, locked := true }).course.ports[(0 : Fin 2)] = true ∧
    reachesThreshold (testState {}) { control := 0x19, locked := true } 0xFFFFFFFF = true ∧ (testState {}).course.ports[(0 : Fin 2)].control.getLsbD 4 = false := by decide +kernel
theorem witness_StopAll : CommandReady open3 (cmd 0x29 [0, 0, 0, 0]) 0x29 [] 4 ∧ hasDiag (sessionActivity open3) = true ∧
    CommandReady open3 (cmd 0x29 [1, 0, 0, 0]) 0x29 [] 4 := by refine ⟨⟨?_, ?_, ?_, ?_, ?_, ?_⟩, ?_, ⟨?_, ?_, ?_, ?_, ?_, ?_⟩⟩ <;> decide +kernel
theorem witness_HostPortCheck : CommandReady run (cmd 0x2B ([0, 0, 0, 0, 5, 0, 0, 0] ++ List.replicate 8 0)) 0x2B [] 16 ∧
    u32 (commandArgs (cmd 0x2B ([0, 0, 0, 0, 5, 0, 0, 0] ++ List.replicate 8 0)) 0x2B []) 4 % 32768 ≠ 0 := by
  refine ⟨⟨?_, ?_, ?_, ?_, ?_, ?_⟩, ?_⟩ <;> decide +kernel
theorem witness_FlashCheck : CommandReady (testState {}) (cmd 0x2C [0, 0, 0, 0]) 0x2C [] 4 ∧ (sessionActivity (testState {})).config ≠ none ∧
    (sessionActivity (testState {})).cal.stage = .idle ∧ CommandReady run (cmd 0x2C [0, 0, 0, 0]) 0x2C [] 4 ∧ (sessionActivity run).config = none ∧
    ({ run with link := { run.link with flashRunning := true } } : State).link.flashRunning = true := by
  refine ⟨⟨?_, ?_, ?_, ?_, ?_, ?_⟩, ?_, ?_, ⟨?_, ?_, ?_, ?_, ?_, ?_⟩, ?_⟩ <;> decide +kernel

/-! Witnesses for RemoteLinkTests. -/

/-- A head with pod 3 joined, sessions open, a remote test in a state. -/
def remoteAt (x : Option RemoteTest) : State :=
  withSec 0x13 ([1, 1] ++ List.replicate 30 1) { sweepHead with gate := open3.gate, course := { sweepHead.course with remote := x } }
/-- The same with a test that is over and waits for LT_DONE. -/
def doneAt (x : Option RemoteTest) : State := { remoteAt none with course := { (remoteAt none).course with testDone := x } }
/-- The test of pod 3's link to the head. -/
def test3 : RemoteTest := remoteFor 3 0 1 100 0
theorem witness_RemoteTest : CommandReady (remoteAt none) (cmd 0x2A [3, 0, 1, 0, 10, 0, 0, 0]) 0x2A [] 8 ∧ hasDiag (sessionActivity (remoteAt none)) = true ∧
    (sessionActivity (remoteAt none)).course.nodes.find? (fun n => n.addr.toNat == 3) = some joined3 ∧ linkOf joined3 0 = 1 ∧
    nearEnd (sessionActivity (remoteAt none)) 0 1 = some 0 ∧ 10 ≤ cfgTestMax (sessionActivity (remoteAt none)) ∧
    inSafe (sessionActivity (remoteAt none)) = false ∧ (sessionActivity (remoteAt none)).course.remote = none := by
  refine ⟨⟨?_, ?_, ?_, ?_, ?_, ?_⟩, ?_⟩ <;> decide +kernel
theorem witness_RemoteTest_refused : CommandReady (remoteAt (some test3)) (cmd 0x2A [3, 0, 1, 0, 10, 0, 0, 0]) 0x2A [] 8 ∧
    (sessionActivity (remoteAt (some test3))).course.remote ≠ none ∧ nearEnd (sessionActivity (remoteAt none)) 0 7 = none := by
  refine ⟨⟨?_, ?_, ?_, ?_, ?_, ?_⟩, ?_⟩ <;> decide +kernel
theorem witness_RemoteStart : (remoteAt (some { test3 with toStart := 0 })).course.remote = some { test3 with toStart := 0 } ∧
    ({ test3 with toStart := 0 } : RemoteTest).running = false ∧ test3.ackFar = false ∧
    ({ test3 with ackFar := true } : RemoteTest).ackNear = true ∧ test3.startAt ≤ time56 (plumbNow run) ∧ remoteStarts run test3 = false := by decide +kernel
theorem witness_RemoteEnd : (remoteAt (some { test3 with running := true, wasRing := true })).course.remote = some { test3 with running := true, wasRing := true } ∧
    test3.port = some 0 ∧ test3.startClk + 1000 * test3.duration.toNat ≤ 100000 ∧ test3.doneFar = false ∧ test3.doneNear = true := by decide +kernel
/-- An LT_START payload for node 3, side C0, pattern 1. -/
def ltPay : List Byte := [3, 0, 1, 0] ++ List.replicate 8 0 ++ [100, 0, 0, 0]
theorem witness_LtStart : Takes .pod (podAt 0 {}) 0x28 (rxf 0x28 255 0 18 ltPay) ∧ podSweeps (podAt 0 {}) = true ∧
    podEnd (podAt 0 {}) false (b8 ltPay 0) (portNo (u8 ltPay 1)) = some 0 ∧ inTest (podAt 0 {}) 0 = false ∧ cfgNoRemote (podAt 0 {}) = false ∧
    podEnd (podAt 0 {}) false 9 0 = none := by refine ⟨⟨?_, ?_, ?_, ?_, ?_, ?_⟩, ?_⟩ <;> decide +kernel
theorem witness_LtAckDone : Takes .head (remoteAt (some test3)) 0x29 (rxf 0x29 0 3 18 [3, 0, 0, 0]) ∧ JoinedPod (remoteAt (some test3)) 3 joined3 ∧
    Takes .head (doneAt (some test3)) 0x2B (rxf 0x2B 0 3 18 ([3, 1] ++ List.replicate 14 0)) ∧ (doneAt (some test3)).course.testDone = some test3 := by
  refine ⟨⟨?_, ?_, ?_, ?_, ?_, ?_⟩, ⟨?_, ?_⟩, ⟨?_, ?_, ?_, ?_, ?_, ?_⟩, ?_⟩ <;> decide +kernel
theorem witness_LtAbort : Takes .pod (podAt 0 {}) 0x2A (rxf 0x2A 255 0 18 [3, 0, 0, 0]) ∧ test3.node = b8 [3, 0, 0, 0] 0 := by
  refine ⟨⟨?_, ?_, ?_, ?_, ?_, ?_⟩, ?_⟩ <;> decide +kernel

/-! Witnesses for KeystoneDetectors. -/

theorem witness_Vote : isRunning run = true ∧ (cfgSafeMask run).getLsbD 9 = false ∧ (cfgSafeMask run).getLsbD 0x0A = false ∧
    (cfgSafeMask run).getLsbD 0x0B = false ∧ tenOf (((2000, 2000, 0) :: List.replicate 9 (2000, 2000, 0)).take 10) votesA = true ∧ cfgRefin run = false := by
  decide +kernel
theorem witness_Vote_refin : cfgRefin (withSec 0x10 (List.replicate 32 0xFF) run) = true ∨ cfgRefin (withSec 2 (List.replicate 32 0xFF) run) = true := by
  decide +kernel
theorem witness_Clock : run.supply.coreRunning = true ∧ (∀ k : Nat, 4 ≤ k → k ≤ 7 → (cfgSafeMask run).getLsbD k = false) :=
  ⟨rfl, fun k h1 h2 => by
    have : k = 4 ∨ k = 5 ∨ k = 6 ∨ k = 7 := by omega
    rcases this with h | h | h | h <;> subst h <;> decide +kernel⟩
theorem witness_Startup : run.ks.started = false ∧ (cfgSafeMask run).getLsbD 0x1B = false ∧ (cfgSafeMask run).getLsbD 6 = false := by decide +kernel
/-- Code 0x04 active. -/
def faulted : State := { run with ks := { run.ks with active := 16, injected := [9] } }
theorem witness_FaultClear : isRunning faulted = true ∧ faultActive faulted 4 = true ∧ (4 : Fin 28) ∉ faulted.ks.injected ∧ clearable faulted 4 = true ∧
    faulted.ks.injected = [9] ∧ faultActive faulted 5 = false ∧
    ({ faulted with clk := 20000000 } : State).ks.seen[(4 : Fin 28)] + clearUs 4 ≤ 20000000 ∧ faulted.ks.injectClk[(9 : Fin 28)] + 1000000 ≤ 20000000 ∧
    run.modes.handoverClk + clearUs 4 ≤ 20000000 ∧ run.ks.voteClk + 10000 ≤ 20000000 ∧ run.ks.countClk + 1000 ≤ 20000000 ∧ run.ks.patternClk + 10000 ≤ 20000000 := by decide +kernel

/-! Witnesses for CisternScrubAndLog. -/

theorem witness_Scrub_due : scrubDue { run with clk := 1000000 } = true ∧ scrubDue run = false := by decide +kernel
theorem witness_Scrub : isRunning run = true ∧ run.log.scrub + 1 < 196608 ∧ (cfgSafeMask run).getLsbD 8 = false ∧ run.log.general.length < 15360 := by
  decide +kernel
theorem witness_Scrub_last : 196608 ≤ ({ run with log := { run.log with scrub := 196607 } } : State).log.scrub + 1 ∧ run.log.scrubBad = false := by
  decide +kernel
theorem witness_LogSample :
    let s := withSec 0x12 ([0, 10, 0, 0, 0, 0, 0, 0] ++ [0, 0, 10, 0] ++ List.replicate 28 0) resultState
    isRunning s = true ∧ sampleEvery s 0 ≠ 0 ∧ (entryOf s (sampleVcn s 0)).isSome = true ∧ sampleEvery s 1 = 0 ∧ s.log.budget < cfgLogCap s := by decide +kernel

/-! Witnesses for FootingHandoverAndSweepsComplete. -/

theorem witness_Complete_Footing : (footing .pod true).phase = .footing ∧ (footing .pod true).cornerstone.ok = true ∧ (footing .pod true).role = .pod ∧
    (footing .head true).phase = .footing ∧ (footing .head true).role = .head ∧ emptyChip.present = true ∧ bit (u8 emptyChip.status05 0) 0 = false ∧
    ({ footing .head true with clk := 500000, boot := { up.boot with wipClk := some 0 } } : State).boot.wipClk = some 0 ∧
    ({ up with phase := .loaded } : State).phase = .loaded := by decide +kernel
theorem witness_Complete_Sweep : sweepNow.role = .head ∧ isActive sweepNow = true ∧ usedPorts sweepNow ≠ [] ∧ onTime sweepNow (headS sweepNow) = true ∧
    creditDue sweepNow = true ∧ sweepOver sweepNow = true := by decide +kernel

/-! Numbers of the spec's worked examples (the chapter in the name of each). -/

/-- Distance of a binary32 value from a number. -/
def toDiff (x : F32) (r : Rat) : Rat := if toRatD x < r then r - toRatD x else toRatD x - r
/-- 05: frames N and N + 1 of EC0. -/
def frameN : WeirObs :=
  { pos := 218750, neg := 0, startCode := 2056, endCode := 2080, spanHit := false, shadow := none, tone := [] }
theorem test_05_raw_range0 : (weirEnd (weState true false) 0 32 frameN).2.raw = 7000024 ∧ rawField 0 7000024 = 0x006ACFD8 := by decide +kernel
theorem test_05_range_up : nextRange 0x1C (weirEnd (weState true false) 0 32 frameN).2 62500 = 1 := by decide +kernel
/-- The residue at the end of frame N is the start of frame N + 1. -/
def afterN : State := weirTurn (weirEnd (weState true false) 0 32 frameN).1 0 1
theorem test_05_raw_range1 : (weirEnd afterN 0 32 { frameN with pos := 6835, endCode := 2079 }).2.raw = 218750 ∧
    rawField 1 218750 = 0x4003567E := by decide +kernel

/-- 07: heater targets, duty cap and the film's raw field. -/
def mox07 : State := withSec 6 ([1, 0, 0, 0, 0, 0, 0x88, 0x13, 0, 0, 0xC8, 0x42, 0xF0, 0x0A, 0, 0] ++ List.replicate 464 0) run
theorem test_07_targets : heaterR mox07 0 300 = 177 ∧ heaterR mox07 0 150 = 135 ∧ heaterT mox07 0 177 = 300 := by decide +kernel
theorem test_07_duty_cap : dutyCap mox07 0 (some (119 / 10)) = (50 / 119) * (50 / 119) := by decide +kernel
theorem test_07_film_raw : filmRaw 3 1 15625 = 0xC2003D09 := by decide +kernel

/-- 11: STEL at minutes 15 and 16. -/
def stel (n m : Nat) : Rule := { buckets := List.replicate m (0, 4, 1) ++ List.replicate n (0, 1 / 5, 1) }
theorem test_11_stel : bucketValue 15 (stel 12 3) = some (24 / 25) ∧ bucketValue 15 (stel 12 4) = some (182 / 150) := by decide +kernel

/-- 12: the template of the worked example; input A, the first wake. -/
def tmpl12 : List Byte :=
  [3, 0, 20, 0, 5, 0, 1, 0, 1, 0, 20, 0, 10, 0, 0xA0, 0] ++ [0xA0, 0x86, 1, 0] ++ [0, 0, 0, 0] ++ [0, 0xF0, 0, 0, 0, 0, 0, 0] ++ List.replicate 16 0
def inputA : Update := receive tmpl12 { target := 0x211, receptor := 1, weight := 40, time := 1000000, wake := false }
  { x := { tLast := 1000000, tLast40 := 1000000, tR := 0 }, sats := 0 }
theorem test_12_input : inputA.x.s1 = 40960 ∧ wakeDrive tmpl12 inputA.x = 163840 ∧ wakeRequest tmpl12 inputA.x = some 1001000 := by decide +kernel
theorem test_12_first_wake :
    let u := (elapse tmpl12 1001000 1001000 false inputA).1
    (u.x.s0 - 21708).natAbs ≤ 4 ∧ (u.x.s1 - 33534).natAbs ≤ 4 ∧ spikes tmpl12 u = false := by decide +kernel

/-- 06: a continuous tone of 1 mV at code 128 on EC1, 16 frames, with the sums of the worked example. -/
def tone06 : State :=
  { withSec 2 [0, 0, 2, 2] (withSec 5 (List.replicate 24 0 ++ [1, 1, 16, 0, 128, 0] ++ List.replicate 66 0) run) with
    tones := up.tones.set 1 { s := 15309 / 10 ^ 9, c := 8839 / 10 ^ 9 } }
theorem test_06_raw : toneRaw tone06 1 = 0x004F0080 := by decide +kernel
theorem test_06_result : pathUs tone06 (weirOfWe 2) = 62500 ∧ (toDiff (toneResult tone06 1).2.1 40) < 1 / 100 ∧ (toDiff (toneResult tone06 1).2.2 (-30)) < 1 / 100 := by
  decide +kernel

/-- 21: the lockouts. -/
theorem test_21_lockouts : lockoutFor 1 = 1000000 ∧ lockoutFor 2 = 2000000 ∧ lockoutFor 8 = 128000000 ∧ lockoutFor 13 = 3600000000 := by decide
/-- The SHA-256 test vector of FIPS 180-4 (PRESUMED: outside the spec), for the password and the challenge. -/
theorem test_21_sha256 : (sha256 [0x61, 0x62, 0x63]).take 4 = [0xBA, 0x78, 0x16, 0xBF] := by decide +kernel

/-- 04 and 11: the ratio outputs' bands and an end of the normal band. -/
theorem test_11_ratio : normalCode 0 10 0 = 6554 ∧ normalCode 0 10 10 = 58982 ∧ normalCode 0 10 20 = 58982 := by decide +kernel

/-- Binary32 arithmetic at rounding boundaries: ties to even, overflow, a subnormal. -/
theorem test_float : ofRat (1 + 1 / 2 ^ 24) = 0x3F800000 ∧ ofRat (1 + 3 / 2 ^ 24) = 0x3F800002 ∧ fadd 0x7F7FFFFF 0x7F7FFFFF = 0x7F800000 ∧
    ofRat (1 / 2 ^ 149) = 1 := by decide +kernel

end Sys2Proof.Tests
end

namespace Sys2Proof.Machine

/-! The role: which operations keep it (R2). -/

/-- The role as one of the parts of the state that few commands touch: the laws about `State.fixed` then say what keeps it. -/
@[simp] theorem fixed_role (s : State) : s.fixed.role = s.role := rfl

theorem role_of_fixed {s t : State} (h : t.fixed = s.fixed) : t.role = s.role := congrArg Fixed.role h

/-- Every next state of the outcome has the role of `s`. -/
def OutRole (s : State) (o : Host.Outcome State Fault Refusal) : Prop := ∀ t, o = .next t → t.role = s.role

theorem OutRole.next {s t : State} (h : t.fixed.role = s.role) : OutRole s (.next t) := by
  rintro _ ⟨⟩
  exact h

theorem OutRole.of_fixed {s : State} {o : Host.Outcome State Fault Refusal} (h : outFixed o = some s.fixed) : OutRole s o := by
  rintro t rfl
  exact role_of_fixed (Option.some.inj h)

/-! Resets. -/

@[simp] theorem startReset_role (s : State) (k : WarmKind) : (startReset s k).role = s.role := by
  obtain ⟨-, -, -, -, -, -, -, -, -, -, -, -, -, -, -, -, -, -, -, -, -, -, -, -, -, h, -⟩ := startReset_from s k
  exact h

theorem coreReset_role (s : State) : (coreReset s).role = s.role := by
  obtain ⟨_, _, _, _, _, _, _, h⟩ := beforeReset s
  unfold coreReset
  rw [h]

@[simp] theorem powerReset_role (s : State) : (powerReset s).role = s.role :=
  (role_of_fixed (clearAtPower_fixed (coreReset s))).trans (coreReset_role s)

@[simp] theorem watchdogReset_role (s : State) : (watchdogReset s).role = s.role := startReset_role _ _

@[simp] theorem leaveReset_role (s : State) (p : Phase) : (leaveReset s p).role = s.role := rfl

/-! Supplies, pins and reset ends. -/

@[simp] theorem startRelease_role (s : State) : (startRelease s).role = s.role := by
  unfold startRelease
  dsimp only
  split <;> rfl

theorem execSupplyRise_role (rail : MainSupply) (s : State) : OutRole s (execSupplyRise rail s) := .next (by simp)

theorem execAoPowerOn_role (fromVin : Bool) (s : State) : OutRole s (execAoPowerOn fromVin s) := by
  unfold execAoPowerOn
  split <;> exact .next (by simp)

theorem execVddPorAssert_role (rail : VddRail) (s : State) : OutRole s (execVddPorAssert rail s) := by
  have hv : (vddFalls s).role = s.role := role_of_fixed (vddFalls_fixed s)
  unfold execVddPorAssert
  dsimp only
  (repeat' split) <;> refine .next ?_ <;> simp [hv]

theorem execVddioFall_role (s : State) : OutRole s (execVddioFall s) := by
  unfold execVddioFall
  dsimp only
  split <;> exact .next (by simp)

theorem execIoResetRelease_role (s : State) : OutRole s (execIoResetRelease s) := by
  unfold execIoResetRelease
  dsimp only
  split
  · refine .next ?_
    split <;> simp
  · exact .next (by simp)

theorem execVinUvlo_role (s : State) : OutRole s (execVinUvlo s) := by
  unfold execVinUvlo
  dsimp only
  (repeat' split) <;> exact .next (by simp)

theorem execVinUvloEnd_role (s : State) : OutRole s (execVinUvloEnd s) := .next (by simp)

theorem execVddFallAoSwitch_role (s : State) : OutRole s (execVddFallAoSwitch s) := by
  unfold execVddFallAoSwitch
  split <;> exact .next (by simp)

theorem execVratioFall_role (s : State) : OutRole s (execVratioFall s) := by
  unfold execVratioFall
  dsimp only
  split <;> exact .next (by simp)

theorem execVratioRise_role (s : State) : OutRole s (execVratioRise s) := by
  unfold execVratioRise
  dsimp only
  split <;> exact .next (by simp)

theorem execSupplyExcursion_role (supply : Fin 5) (volts : Rat) (us : Nat) (s : State) :
    OutRole s (execSupplyExcursion supply volts us s) := by
  unfold execSupplyExcursion
  split <;> exact .next (by simp)

theorem execPinReset_role (s : State) : OutRole s (execPinReset s) := by
  unfold execPinReset
  dsimp only
  split <;> exact .next (by simp)

theorem execResetnRelease_role (s : State) : OutRole s (execResetnRelease s) := by
  unfold execResetnRelease
  dsimp only
  split <;> exact .next (by simp)

theorem execResetHoldEnd_role (s : State) : OutRole s (execResetHoldEnd s) := by
  unfold execResetHoldEnd
  (repeat' split) <;> exact .next (by simp)

theorem execWatchdogExpiry_role (s : State) : OutRole s (execWatchdogExpiry s) := by
  unfold execWatchdogExpiry
  split <;> exact .next (by simp)

theorem execWatchdogService_role (word : Byte) (s : State) : OutRole s (execWatchdogService word s) := by
  unfold execWatchdogService
  (repeat' split) <;> exact .next (by simp)

theorem execFootingLimit_role (s : State) : OutRole s (execFootingLimit s) := by
  unfold execFootingLimit
  split <;> exact .next (by simp)

theorem execDieTempConversion_role (readings : Vector Int 8) (s : State) : OutRole s (execDieTempConversion readings s) := by
  have h : (takeConversions s readings).role = s.role := role_of_fixed (takeConversions_fixed s readings)
  unfold execDieTempConversion
  dsimp only
  (repeat' split) <;> exact .next (by simp [h])

/-- RESET either answers and changes no more, or answers and begins a command reset. -/
theorem execReset_role (f : HostFrame) (s : State) : OutRole s (execReset f s) := by
  unfold execReset
  extract_lets s' taken
  have h : s'.fixed = s.fixed := commandFrame_fixed _ _ _ _ _ _ (by intro s a; simp)
  split
  · exact .next ((startReset_role s' .command).trans (role_of_fixed h))
  · exact .next (role_of_fixed h)

/-! Images, Render and the seal. -/

theorem footingEnds_role (s : State) (b : Boot) (r : Option RenderCopy) : (footingEnds s b r).role = s.role := rfl

theorem loadImages_role (s : State) (c : FlashChip) (b : Boot) : (loadImages s c b).role = s.role := by
  unfold loadImages
  dsimp only
  split <;> rfl

theorem flashBegins_role (s : State) (b : Boot) : (flashBegins s b).role = s.role := by
  unfold flashBegins
  dsimp only
  generalize (if s.flash.present = true then bit (u8 s.flash.status05 0) 0 else s.flash.missingByte.getLsbD 0) = busy
  cases busy
  · exact loadImages_role ..
  · rfl

theorem footingBegins_role (s : State) (b : Boot) : (footingBegins s b).role = s.role := by
  unfold footingBegins
  split
  · rfl
  · split
    · rfl
    · exact flashBegins_role ..

theorem execFootingStart_role (fitted : Option FlashChip) (duration : BitVec 32) (s : State) :
    OutRole s (execFootingStart fitted duration s) := by
  unfold execFootingStart
  split
  · exact .next rfl
  · exact .next (footingBegins_role ..)

theorem execFlashWipTimeout_role (s : State) : OutRole s (execFlashWipTimeout s) := by
  unfold execFlashWipTimeout
  split <;> exact .next rfl

theorem execHandover_role (o : HandoverObs) (s : State) : OutRole s (execHandover o s) := by
  by_cases h : s.phase = .loaded
  · obtain ⟨t, ht, hf⟩ := execHandover_fixed o s h
    rw [applyConfig_fixed] at hf
    rw [ht]
    exact .next (congrArg Fixed.role hf)
  · unfold execHandover
    rw [if_pos h]
    exact .next rfl

theorem execRenderEraseComplete_role (s : State) : OutRole s (execRenderEraseComplete s) := by
  unfold execRenderEraseComplete
  split
  · refine .next ?_
    split
    · exact (role_of_fixed (renderFail_fixed _)).trans rfl
    · rfl
  · exact .next rfl
  · exact .next rfl

theorem execRenderPageProgramComplete_role (s : State) : OutRole s (execRenderPageProgramComplete s) := by
  unfold execRenderPageProgramComplete
  (repeat' split) <;> exact .next (by simp)

theorem execRenderReadbackComplete_role (diff : List (Nat × Byte)) (s : State) : OutRole s (execRenderReadbackComplete diff s) := by
  have h : (heldSector s diff).role = s.role := rfl
  unfold execRenderReadbackComplete
  split
  · exact .next rfl
  · dsimp only
    split
    · exact .next ((role_of_fixed (by split <;> simp)).trans h)
    · exact .next ((role_of_fixed (renderFail_fixed _)).trans h)

theorem execFaultClear_role (code : Fin 28) (s : State) : OutRole s (execFaultClear code s) := by
  obtain ⟨t, h, k⟩ := execFaultClear_fixed code s
  rw [h]
  exact .next (congrArg Fixed.role k)

theorem execSealComplete_role (keyOk tagOk sealOk : Bool) (s : State) : OutRole s (execSealComplete keyOk tagOk sealOk s) := by
  unfold execSealComplete
  split
  · exact .next rfl
  · dsimp only
    split <;> exact .next (by simp)

/-! Pods. -/

/-- A frame that a pod takes keeps the role where its effect does. -/
theorem podRx_role (s : State) (type : Byte) (r : CourseRx) (body : State → State) (h : ∀ s, (body s).fixed.role = s.role) :
    (podRx s type r body).fixed.role = s.role := by
  unfold podRx
  split
  · unfold rx
    dsimp only
    split
    · rfl
    · split
      · exact (h _).trans (role_of_fixed (by simp))
      · simp
  · rfl

theorem execAssign_role (r : CourseRx) (s : State) : OutRole s (execAssign r s) := by
  unfold execAssign
  refine .next (podRx_role _ _ _ _ fun s => ?_)
  dsimp only
  (repeat' split) <;> simp

@[simp] theorem keepItem_role (s : State) (kind : Byte) (b : List Byte) (crc : BitVec 32) : (keepItem s kind b crc).role = s.role := by
  unfold keepItem
  dsimp only
  split <;> rfl

theorem execBootEnd_role (r : CourseRx) (s : State) : OutRole s (execBootEnd r s) := by
  unfold execBootEnd
  refine .next (podRx_role _ _ _ _ fun s => ?_)
  dsimp only
  (repeat' split) <;> simp

/-- Every command but the release of the power-on reset keeps the role: resets, images and frames by their own laws, all others because
they keep the whole of `State.fixed`. -/
theorem exec_role (c : Instr) (s : State) (h : ∀ rolesel testen, c ≠ .vddPorRelease rolesel testen) : OutRole s (exec c s) := by
  cases c with
  | vddPorRelease rolesel testen => exact absurd rfl (h rolesel testen)
  | vddPorAssert rail => exact execVddPorAssert_role rail s
  | aoReset => exact .next rfl
  | vddioFall => exact execVddioFall_role s
  | ioResetRelease => exact execIoResetRelease_role s
  | vinUvlo => exact execVinUvlo_role s
  | vinUvloEnd => exact execVinUvloEnd_role s
  | vddFallAoSwitch => exact execVddFallAoSwitch_role s
  | vratioFall => exact execVratioFall_role s
  | vratioRise => exact execVratioRise_role s
  | supplyExcursion supply volts us => exact execSupplyExcursion_role supply volts us s
  | supplyRise rail => exact execSupplyRise_role rail s
  | aoPowerOn fromVin => exact execAoPowerOn_role fromVin s
  | pinReset => exact execPinReset_role s
  | resetnRelease => exact execResetnRelease_role s
  | resetHoldEnd => exact execResetHoldEnd_role s
  | watchdogExpiry => exact execWatchdogExpiry_role s
  | watchdogService word => exact execWatchdogService_role word s
  | footingLimit => exact execFootingLimit_role s
  | dieTempConversion readings => exact execDieTempConversion_role readings s
  | reset f => exact execReset_role f s
  | footingStart fitted duration => exact execFootingStart_role fitted duration s
  | flashWipTimeout => exact execFlashWipTimeout_role s
  | handover o => exact execHandover_role o s
  | renderEraseComplete => exact execRenderEraseComplete_role s
  | renderPageProgramComplete => exact execRenderPageProgramComplete_role s
  | renderReadbackComplete diff => exact execRenderReadbackComplete_role diff s
  | faultClear code => exact execFaultClear_role code s
  | sealComplete keyOk tagOk sealOk => exact execSealComplete_role keyOk tagOk sealOk s
  | assign r => exact execAssign_role r s
  | bootEnd r => exact execBootEnd_role r s
  | _ => exact .of_fixed (by simp [exec])

/-- Settles O8, by `exec_role`; a release outside the power-on reset does nothing. -/
theorem roleFixedAfterSampling : Obligations.RoleFixedAfterSampling := by
  refine ⟨fun c s t hc ht => exec_role c s hc t ht, fun s rolesel testen hp => ?_⟩
  exact if_neg fun ⟨h, _⟩ => hp h

end Sys2Proof.Machine

namespace Sys2Proof.Machine

/-! Supplies and the release of the power-on reset (R36, R42 - R44, R67). -/

/-- A state in which one of the main supplies has risen, before a release timer starts. -/
def supplyRisen (rail : MainSupply) (s : State) : State :=
  { s with supply := match rail with
    | .vdd => { s.supply with vdd := true, aoFromVin := false }
    | .vdda => { s.supply with vdda := true }
    | .vddio => { s.supply with vddio := true, ioTimer := s.supply.ioTimer || inReset s.phase, ioFrom := s.clk } }

theorem exec_supplyRise (rail : MainSupply) (s : State) : exec (.supplyRise rail) s = .next (startRelease (supplyRisen rail s)) := by
  cases rail <;> rfl

/-- VDDIO has no timer of its own to start outside a warm reset. -/
theorem supplyRisen_vddio_porHold {s : State} (h : s.phase = .porHold) :
    supplyRisen .vddio s = { s with supply := { s.supply with vddio := true, ioFrom := s.clk } } := by
  simp [supplyRisen, inReset, h]

theorem supplyRisen_vddio_reset {s : State} {k : WarmKind} (h : s.phase = .reset k) :
    supplyRisen .vddio s = { s with supply := { s.supply with vddio := true, ioTimer := true, ioFrom := s.clk } } := by
  simp [supplyRisen, inReset, h]

/-- With the power-on reset asserted and the three supplies up, the release timer starts. -/
theorem startRelease_all {s : State} (h : s.phase = .porHold) (hv : s.supply.vdd = true) (ha : s.supply.vdda = true)
    (hi : s.supply.vddio = true) : startRelease s =
      { s with supply := { s.supply with coreRunning := true, releaseTimer := true, releaseFrom := s.clk } } :=
  if_pos ⟨h, hv, ha, hi⟩

theorem startRelease_vdd_missing {s : State} (h : s.supply.vdd = false) : startRelease s = s :=
  if_neg fun ⟨_, hv, _⟩ => absurd (h.symm.trans hv) (by decide)

theorem startRelease_vdda_missing {s : State} (h : s.supply.vdda = false) : startRelease s = s :=
  if_neg fun ⟨_, _, ha, _⟩ => absurd (h.symm.trans ha) (by decide)

theorem startRelease_of_ne_porHold {s : State} (h : s.phase ≠ .porHold) : startRelease s = s := if_neg fun ⟨hp, _⟩ => h hp

/-- FAULTn is low in every phase that is no mode (R742). -/
theorem faultnLow_of_not_running {s : State} (h : isRunning s = false) : faultnLow s = true := by
  simp [faultnLow, copyDrives, h]

/-- No reset ends in a mode. -/
theorem afterReset_ne_running (s : State) : afterReset s ≠ .running := by
  unfold afterReset
  (repeat' split) <;> decide

/-- FAULTn stays low where a reset ends. -/
theorem faultnLow_leaveReset (s u : State) : faultnLow (leaveReset s (afterReset u)) = true :=
  faultnLow_of_not_running (beq_eq_false_iff_ne.2 (afterReset_ne_running u))

/-- Before the timer has run its 1.6 ms, a release changes nothing. -/
theorem execVddPorRelease_early {s : State} (h : s.clk < s.supply.releaseFrom + releaseUs) (rolesel testen : Bool) :
    execVddPorRelease rolesel testen s = .next s :=
  if_neg fun ⟨_, _, ht⟩ => absurd ht (Nat.not_le.2 h)

/-- Settles O11: `startRelease` on the state with the supply risen, and the release's own equation. -/
theorem suppliesRiseAndRelease : Obligations.SuppliesRiseAndRelease := by
  simp only [Obligations.SuppliesRiseAndRelease, exec_supplyRise]
  refine ⟨fun s hp ha hi => ?vdd, fun s hp hv hi => ?vdda, fun s hp hv ha => ?vddio, fun s hp ha => ⟨?vddFirst, ?vddioFirst⟩,
    fun s hp hv => ?vddaFirst, fun s k hp => ?ioReset, fun s rolesel testen ht => execVddPorRelease_early ht rolesel testen,
    fun s rolesel testen hp ht hc => ?release, fun s fromVin h => ?ao⟩
  case vdd => exact congrArg _ (startRelease_all (s := supplyRisen .vdd s) hp rfl ha hi)
  case vdda => exact congrArg _ (startRelease_all (s := supplyRisen .vdda s) hp hv rfl hi)
  case vddio =>
    rw [supplyRisen_vddio_porHold hp]
    exact congrArg _ (startRelease_all hp hv ha rfl)
  case vddFirst => exact congrArg _ (startRelease_vdda_missing (s := supplyRisen .vdd s) ha)
  case vddioFirst =>
    rw [supplyRisen_vddio_porHold hp]
    exact congrArg _ (startRelease_vdda_missing ha)
  case vddaFirst => exact congrArg _ (startRelease_vdd_missing (s := supplyRisen .vdda s) hv)
  case ioReset =>
    rw [supplyRisen_vddio_reset hp]
    exact congrArg _ (startRelease_of_ne_porHold (by simp [hp]))
  case release =>
    refine ⟨_, if_pos ⟨hp, ht, hc⟩, rfl, rfl, rfl, rfl, rfl, rfl, fun n => ?_, rfl, rfl, faultnLow_leaveReset _ _, rfl⟩
    simp [leaveReset, driveLow]
  case ao => exact if_neg (by simp [h])

end Sys2Proof.Machine

namespace Sys2Proof.Machine

/-! The ended sessions that every complete frame finds (R793). -/

theorem expireSessions_eq (s : State) : expireSessions s = { s with
    gate := (expireSessions s).gate, events := (expireSessions s).events, cal := (expireSessions s).cal, course := (expireSessions s).course } := by
  unfold expireSessions
  exact (endSessions_ended s _ 3).1

@[simp] theorem expireSessions_host (s : State) : (expireSessions s).host = s.host := by rw [expireSessions_eq]

/-- A session that is not open does not open. -/
theorem expireSessions_closed {s : State} {i : Fin 3} (h : s.gate.sessions[i] = none) : (expireSessions s).gate.sessions[i] = none := by
  unfold expireSessions
  obtain ⟨-, -, hs, -⟩ := endSessions_ended s _ 3
  rw [hs i]
  split
  · rfl
  · exact h

theorem sessionActivity_closed {s : State} {i : Fin 3} (h : s.gate.sessions[i] = none) : (sessionActivity s).gate.sessions[i] = none := by
  have := expireSessions_closed h
  simp only [Fin.getElem_fin] at this
  simp [sessionActivity, this]

theorem sessionActivity_phase (s : State) : (sessionActivity s).phase = s.phase := congrArg Fixed.phase (sessionActivity_fixed s)

/-! The checks of R658, in their order. -/

section
variable {s : State} {op : Byte} {f : HostFrame} {addr : Nat} {lenOk identity gate : Bool} {pay : Option (List Byte)}

theorem frameCheck_headerCrc (hc : f.flags.getLsbD 0 = true)
    (hh : crc16 (headerBytes (if reservedOpcode f.opcode then f.opcode else op) f addr) ≠ f.headerCrc) :
    frameCheck s op f addr lenOk pay identity gate = stCrcError := by
  unfold frameCheck
  exact if_pos (by rw [hc, Bool.true_and, bne_iff_ne]; exact hh)

theorem frameCheck_crcMissing (hc : f.flags.getLsbD 0 = false) (hr : crcRequired s = true) :
    frameCheck s op f addr lenOk pay identity gate = stCrcError := by
  unfold frameCheck
  rw [hc, hr]
  rfl

/-- The header's CRC is right where it carries one, and it carries one where CRCs are required (check 1). -/
def HeaderPasses (s : State) (op : Byte) (f : HostFrame) (addr : Nat) : Prop :=
  (f.flags.getLsbD 0 = true → crc16 (headerBytes (if reservedOpcode f.opcode then f.opcode else op) f addr) = f.headerCrc) ∧
    (f.flags.getLsbD 0 = false → crcRequired s = false)

/-- What is left of the checks once the header has passed. -/
theorem frameCheck_header (h : HeaderPasses s op f addr) : frameCheck s op f addr lenOk pay identity gate =
    if reservedOpcode f.opcode || f.flags &&& 0xFE != 0 || !lenOk then stBadArg
    else if !isRunning s && !identity && !(s.phase == .production && gate) then stBusy
    else if f.flags.getLsbD 0 && f.length != 0 && pay.any fun p => crc16 p != f.payloadCrc then stCrcError else stOk := by
  obtain ⟨h1, h2⟩ := h
  unfold frameCheck
  dsimp only
  generalize f.flags.getLsbD 0 = crc at h1 h2 ⊢
  rw [if_neg (by cases crc <;> simp_all), if_neg (by cases crc <;> simp_all)]
  cases pay with
  | none => simp
  | some p => rfl

/-- A frame that passes the checks has passed each of them. -/
theorem frameCheck_ok (h : frameCheck s op f addr lenOk pay identity gate = stOk) :
    HeaderPasses s op f addr ∧ reservedOpcode f.opcode = false ∧ f.flags &&& 0xFE = 0 ∧ lenOk = true ∧
      (isRunning s = true ∨ identity = true ∨ s.phase = .production ∧ gate = true) := by
  have hp : HeaderPasses s op f addr := by
    refine ⟨fun hc => ?_, fun hc => ?_⟩
    · by_contra hh
      exact absurd (h.symm.trans (frameCheck_headerCrc hc hh)) (by decide)
    · by_contra hr
      exact absurd (h.symm.trans (frameCheck_crcMissing hc (by simpa using hr))) (by decide)
  rw [frameCheck_header hp] at h
  split at h
  · exact absurd h (by decide)
  next hform =>
    split at h
    · exact absurd h (by decide)
    next hmode =>
      simp only [Bool.or_eq_true, bne_iff_ne, Bool.not_eq_true', not_or, Bool.not_eq_true, Decidable.not_not] at hform
      obtain ⟨⟨hop, hfl⟩, hlen⟩ := hform
      refine ⟨hp, hop, hfl, by simpa using hlen, ?_⟩
      cases h1 : isRunning s <;> cases h2 : identity <;> simp_all

/-- The Gate mark only relaxes the test for a mode. -/
theorem frameCheck_gate (h : frameCheck s op f addr lenOk pay identity false = stOk) :
    frameCheck s op f addr lenOk pay identity gate = stOk := by
  obtain ⟨hp, -, -, -, hm⟩ := frameCheck_ok h
  rw [frameCheck_header hp] at h ⊢
  rcases hm with hm | hm | ⟨-, hm⟩
  · simpa [hm] using h
  · simpa [hm] using h
  · cases hm

theorem frameCheck_reserved (h : HeaderPasses s op f addr) (hop : reservedOpcode f.opcode = true) :
    frameCheck s op f addr lenOk pay identity gate = stBadArg := by
  rw [frameCheck_header h, hop]
  rfl

theorem frameCheck_form (h : HeaderPasses s op f addr) (hf : f.flags &&& 0xFE ≠ 0 ∨ lenOk = false) :
    frameCheck s op f addr lenOk pay identity gate = stBadArg := by
  rw [frameCheck_header h, if_pos]
  rcases hf with hf | hf
  · rw [bne_iff_ne.2 hf, Bool.or_true, Bool.true_or]
  · rw [hf, Bool.not_false, Bool.or_true]

/-- Once opcode, flags and length have passed, the mode and the payload's CRC decide. -/
theorem frameCheck_formed (h : HeaderPasses s op f addr) (hop : reservedOpcode f.opcode = false) (hf : f.flags &&& 0xFE = 0)
    (hl : lenOk = true) : frameCheck s op f addr lenOk pay identity gate =
      if !isRunning s && !identity && !(s.phase == .production && gate) then stBusy
      else if f.flags.getLsbD 0 && f.length != 0 && pay.any fun p => crc16 p != f.payloadCrc then stCrcError else stOk := by
  rw [frameCheck_header h, hop, hf, hl]
  rfl

end

/-! Frames that do not pass, and frames that the port does not take. -/

section
variable {s : State} {op : Byte} {f : HostFrame} {lenOk : Bool} {body : State → List Byte → Byte × List Byte × ReadEffect}

theorem dataFrame_silent (h : hostAnswers s = false ∨ frameComplete f f.payload = false) : dataFrame s op f lenOk body = s := by
  unfold dataFrame
  exact if_pos (by rcases h with h | h <;> simp [h])

theorem dataFrame_refused {c : Byte} (ha : hostAnswers s = true) (hc : frameComplete f f.payload = true)
    (h : frameCheck s op f f.address.toNat (f.address == 0 && lenOk) (some (framePayload f f.payload)) false false = c)
    (hn : c ≠ stOk := by decide) : dataFrame s op f lenOk body = answer (expireSessions s) f c := by
  unfold dataFrame
  dsimp only
  rw [ha, hc, if_neg (by decide), h, if_pos (bne_iff_ne.2 hn)]

/-- A frame that the port takes: the body's status and data answer it. -/
theorem dataFrame_ready (h : DataReady s op f lenOk) : dataFrame s op f lenOk body =
    respond (expireSessions s) f (body (expireSessions s) (framePayload f f.payload)).1
      (body (expireSessions s) (framePayload f f.payload)).2.1 (body (expireSessions s) (framePayload f f.payload)).2.2 := by
  obtain ⟨ha, hc, h⟩ := h
  unfold dataFrame
  dsimp only
  rw [ha, hc, if_neg (by decide), h, if_neg (by decide)]

end

section
variable {s : State} {f : HostFrame} {addr : Nat} {fix : List (Nat × Byte)} {body : State → Nat → List Byte → Byte × State}

theorem writeFrame_silent (h : hostAnswers s = false ∨ frameComplete f f.payload = false) : writeFrame s f addr fix body = s := by
  unfold writeFrame
  exact if_pos (by rcases h with h | h <;> simp [h])

theorem writeFrame_refused {c : Byte} (ha : hostAnswers s = true) (hc : frameComplete f f.payload = true)
    (h : frameCheck s 0x02 f addr (1 ≤ f.length.toNat && f.length.toNat ≤ 256 && addr + f.length.toNat ≤ 0x10000)
      (some (framePayload f (fixBytes f.payload fix))) false false = c)
    (hn : c ≠ stOk := by decide) : writeFrame s f addr fix body = answer (expireSessions s) f c := by
  unfold writeFrame
  dsimp only
  rw [ha, hc, if_neg (by decide), h, if_pos (bne_iff_ne.2 hn)]

end

/-! COMMAND frames. -/

/-- What a COMMAND frame comes to that passed checks 1 to 4 of R658, `u` the state with its sessions minded and `pay` its payload. -/
def commandTaken (u : State) (f : HostFrame) (code : Byte) (pay : List Byte) (argOk : Nat → Bool) (body : State → List Byte → Byte × State) : State :=
  let got := pay.getD 0 code
  if vendorLocked u got then answer (noteCommand u got stLocked) f stLocked
  else if reservedCommand got || !zeros pay 1 3 || !argOk (pay.drop 4).length then answer (noteCommand u got stBadArg) f stBadArg
  else answer (noteCommand (body u (pay.drop 4)).2 code (body u (pay.drop 4)).1) f (body u (pay.drop 4)).1

section
variable {s u : State} {f : HostFrame} {code : Byte} {fix : List (Nat × Byte)} {argOk : Nat → Bool}
  {body : State → List Byte → Byte × State} {pay : List Byte}

/-- The checks of a COMMAND frame, `gate` whether it is one of the Gate's or a vendor test command's. -/
theorem commandFrame_taken {gate : Bool} (ha : hostAnswers s = true) (hc : frameComplete f f.payload = true)
    (h : frameCheck s 0x10 f f.address.toNat (f.address == 0 && 4 ≤ f.length.toNat && f.length.toNat ≤ 256)
      (some (rowPayload f code fix)) false gate = stOk)
    (hg : gate = true → vendorCode ((rowPayload f code fix).getD 0 code) = true) :
    commandFrame s f code fix argOk body = commandTaken (sessionActivity s) f code (rowPayload f code fix) argOk body := by
  unfold commandFrame
  dsimp only
  rw [ha, hc, if_neg (by decide), if_neg]
  · rfl
  · rw [bne_iff_ne, Decidable.not_not]
    cases gate with
    | false => exact frameCheck_gate h
    | true => rw [hg rfl, Bool.or_true]; exact h

theorem commandFrame_refused {c : Byte} (ha : hostAnswers s = true) (hc : frameComplete f f.payload = true)
    (h : ∀ gate, frameCheck s 0x10 f f.address.toNat (f.address == 0 && 4 ≤ f.length.toNat && f.length.toNat ≤ 256)
      (some (rowPayload f code fix)) false gate = c)
    (hn : c ≠ stOk := by decide) : commandFrame s f code fix argOk body = answer (expireSessions s) f c := by
  unfold commandFrame
  dsimp only
  rw [ha, hc, if_neg (by decide), h, if_pos (bne_iff_ne.2 hn)]

theorem commandTaken_locked (h : vendorLocked u (pay.getD 0 code) = true) :
    commandTaken u f code pay argOk body = answer (noteCommand u (pay.getD 0 code) stLocked) f stLocked := if_pos h

theorem commandTaken_reserved (hv : vendorLocked u (pay.getD 0 code) = false) (h : reservedCommand (pay.getD 0 code) = true) :
    commandTaken u f code pay argOk body = answer (noteCommand u (pay.getD 0 code) stBadArg) f stBadArg := by
  unfold commandTaken
  dsimp only
  rw [hv, if_neg (by decide), h]
  rfl

/-- A command whose body refuses a well-formed frame with BAD_ARG refuses every frame of its code so. -/
theorem commandTaken_badArg (hv : vendorCode code = false) (hc : u8 pay 0 = code.toNat)
    (h : zeros pay 1 3 = true → argOk (pay.drop 4).length = true → body u (pay.drop 4) = (stBadArg, u)) :
    commandTaken u f code pay argOk body = replied u f code stBadArg := by
  have hg : pay.getD 0 code = code := by
    cases pay with
    | nil => rfl
    | cons b l => exact BitVec.eq_of_toNat_eq hc
  have hl : vendorLocked u code = false := by simp [vendorLocked, hv]
  unfold commandTaken
  dsimp only
  rw [hg, hl, if_neg (by decide)]
  split
  · rfl
  next hf =>
    simp only [Bool.or_eq_true, Bool.not_eq_true', not_or, Bool.not_eq_false] at hf
    obtain ⟨⟨-, hz⟩, hn⟩ := hf
    rw [h hz hn]
    rfl

/-- In a mode no vendor test command is LOCKED: it is reserved. -/
theorem vendorLocked_running (h : isRunning s = true) (b : Byte) : vendorLocked (sessionActivity s) b = false := by
  have hp : s.phase = .running := by simpa [isRunning] using h
  simp [vendorLocked, sessionActivity_phase, hp]

theorem vendorLocked_production (hp : s.phase = .production) (ht : s.gate.sessions[2] = none) {b : Byte} (hb : vendorCode b = true) :
    vendorLocked (sessionActivity s) b = true := by
  have hs : (sessionActivity s).gate.sessions[2] = none := sessionActivity_closed (i := 2) ht
  simp [vendorLocked, sessionActivity_phase, hp, hb, hs]

end

/-! The payload of a COMMAND frame. -/

theorem u8_drop (p : List Byte) (n o : Nat) : u8 (p.drop n) o = u8 p (n + o) := by
  simp [u8, List.getD_eq_getElem?_getD]

theorem u16_drop (p : List Byte) (n o : Nat) : u16 (p.drop n) o = u16 p (n + o) := by
  simp [u16, le, u8_drop, Nat.add_assoc]

theorem fixBytes_length (l : List (Nat × Byte)) (p : List Byte) : (fixBytes p l).length = p.length := by
  induction l generalizing p with
  | nil => rfl
  | cons x l ih => rw [fixBytes, ih, setAt, List.length_set]

theorem rowPayload_length (f : HostFrame) (code : Byte) (fix : List (Nat × Byte)) :
    (rowPayload f code fix).length = min f.length.toNat f.payload.length := by
  rw [rowPayload, framePayload, List.length_take, fixBytes_length]

/-! Commands whose effect waits for their own status. -/

section
variable {s t : State} {f : HostFrame} {c : Byte}

/-- A RESET that is refused begins no reset. -/
theorem execReset_refused (h : ∀ body, commandFrame s f 0x02 [] (argCount 0) body = t) (ht : answered t c) (hc : c ≠ stOk) :
    execReset f s = .next t := by
  unfold answered at ht
  unfold execReset
  dsimp only
  rw [h, ht, if_neg (by simp [hc])]

/-- A TIME_SET that is refused moves no time. -/
theorem execTimeSet_refused (h : ∀ body, commandFrame s f 0x08 [] (argCount 0) body = t) (ht : answered t c) (hc : c ≠ stOk) :
    execTimeSet f s = .next t := by
  unfold answered at ht
  unfold execTimeSet
  dsimp only
  rw [h, ht, show (some c == some stOk) = false from beq_eq_false_iff_ne.2 (by simpa using hc), Bool.and_false]

end

/-- Outside SAFE a reserved kind or byte is the first refusal of a calibration command on a known VCN. -/
theorem calRefusal_reserved {s : State} {k : CalKind} {v : Vcn} {b : Bool} {ref : F32} (hs : inSafe s = false) (hv : vcnStatus s v = stOk) :
    calRefusal s k v (true || b) ref = stBadArg := by
  simp [calRefusal, hs, hv]

/-! Reserved codes that a COMMAND frame itself carries (R658, R665). -/

/-- A COMMAND frame has come whole and passed checks 1 to 4 of R658 in a mode. -/
def CommandChecked (s : State) (f : HostFrame) (code : Byte) (fix : List (Nat × Byte)) : Prop :=
  hostAnswers s = true ∧ frameComplete f f.payload = true ∧
    frameCheck s 0x10 f f.address.toNat (f.address == 0 && 4 ≤ f.length.toNat && f.length.toNat ≤ 256)
      (some (rowPayload f code fix)) false false = stOk

section
variable {s : State} {f : HostFrame} {code : Byte} {fix : List (Nat × Byte)}

theorem CommandChecked.running (h : CommandChecked s f code fix) : isRunning s = true := by
  obtain ⟨-, -, hk⟩ := h
  obtain ⟨-, -, -, -, hm⟩ := frameCheck_ok hk
  simpa using hm

theorem CommandChecked.taken (h : CommandChecked s f code fix) (argOk : Nat → Bool) (body : State → List Byte → Byte × State) :
    commandFrame s f code fix argOk body = commandTaken (sessionActivity s) f code (rowPayload f code fix) argOk body := by
  obtain ⟨ha, hc, hk⟩ := h
  exact commandFrame_taken ha hc hk nofun

/-- Its payload has a first byte. -/
theorem CommandChecked.payload_pos (h : CommandChecked s f code fix) : 0 < (rowPayload f code fix).length := by
  obtain ⟨-, hc, hk⟩ := h
  obtain ⟨-, hop, -, hform, -⟩ := frameCheck_ok hk
  simp only [frameComplete, hop, Bool.false_or, decide_eq_true_eq] at hc
  simp only [Bool.and_eq_true, decide_eq_true_eq] at hform
  rw [rowPayload_length]
  omega

theorem execTimeSet_reserved (h : CommandChecked s f 8 []) (hr : reservedCommand ((rowPayload f 8 []).getD 0 0) = true) :
    execTimeSet f s = .next (answer (noteCommand (sessionActivity s) ((rowPayload f 8 []).getD 0 0) stBadArg) f stBadArg) := by
  have hg : (rowPayload f 8 []).getD 0 8 = (rowPayload f 8 []).getD 0 0 := by
    rw [List.getD_eq_getElem _ _ h.payload_pos, List.getD_eq_getElem _ _ h.payload_pos]
  refine execTimeSet_refused (fun body => (h.taken _ body).trans ?_) (answer_answered _ f _) (by decide)
  rw [commandTaken_reserved (vendorLocked_running h.running _) (by rw [hg]; exact hr), hg]

theorem execModeRun_reserved (h : CommandChecked s f 1 [(4, 0)]) (h0 : u8 (rowPayload f 1 [(4, 0)]) 0 = 1)
    (h4 : 2 < u8 (rowPayload f 1 [(4, 0)]) 4) : execModeRun f s = .next (replied (sessionActivity s) f 1 stBadArg) := by
  refine congrArg Host.Outcome.next ((h.taken _ _).trans (commandTaken_badArg (by decide) h0 fun _ _ => if_neg ?_))
  rw [u8_drop, Bool.and_eq_true, decide_eq_true_eq, Nat.add_zero]
  omega

/-- With a CAL session a reserved action is refused; without one, a frame that is malformed anyway. -/
theorem execHeaterSetTarget_reserved (h : CommandChecked s f 5 [(5, 0)]) (h0 : u8 (rowPayload f 5 [(5, 0)]) 0 = 5)
    (h5 : 3 < u8 (rowPayload f 5 [(5, 0)]) 5)
    (hcal : (rowPayload f 5 [(5, 0)]).length ≠ 12 ∨ zeros (rowPayload f 5 [(5, 0)]) 1 3 = false ∨ hasCal (sessionActivity s) = true) :
    execHeaterSetTarget f s = .next (replied (sessionActivity s) f 5 stBadArg) := by
  refine congrArg Host.Outcome.next ((h.taken _ _).trans ?_)
  generalize rowPayload f 5 [(5, 0)] = p at *
  refine commandTaken_badArg (by decide) h0 fun hz hn => ?_
  have hl : p.length = 12 := by
    simp only [argCount, List.length_drop, beq_iff_eq] at hn
    omega
  have hcal : hasCal (sessionActivity s) = true := by simpa [hl, hz] using hcal
  dsimp only
  rw [hcal, if_neg (by decide)]
  split
  · exact if_pos (by simp [u8_drop, h5])
  · rfl

theorem execCalZero_reserved (h : CommandChecked s f 7 [(6, calCode .zero)]) (h0 : u8 (rowPayload f 7 [(6, calCode .zero)]) 0 = 7)
    (h6 : 6 < u8 (rowPayload f 7 [(6, calCode .zero)]) 6) (hs : inSafe (sessionActivity s) = false)
    (hv : vcnStatus (sessionActivity s) (BitVec.ofNat 16 (u16 (rowPayload f 7 [(6, calCode .zero)]) 4)) = stOk) :
    execCalZero f s = .next (replied (sessionActivity s) f 7 stBadArg) := by
  refine congrArg Host.Outcome.next ((h.taken _ _).trans ?_)
  generalize rowPayload f 7 [(6, calCode .zero)] = p at *
  refine commandTaken_badArg (by decide) h0 fun _ _ => ?_
  have h6 : decide (6 < u8 (p.drop 4) 2) = true := by rw [u8_drop]; exact decide_eq_true h6
  rw [← u16_drop p 4 0] at hv
  dsimp only
  rw [h6, calRefusal_reserved hs hv]
  rfl

end

/-! READ and REPLAY. -/

section
variable {s : State} {f : HostFrame}

theorem execRead_refused {c : Byte} (ha : hostAnswers s = true)
    (h : frameCheck s 0x01 f f.address.toNat (readLenOk f) none (identityOnly f) false = c) (hn : c ≠ stOk) :
    execRead f s = .next (answer (expireSessions s) f c) := by
  unfold execRead
  dsimp only
  rw [ha, if_neg (by decide), h, if_pos (bne_iff_ne.2 hn)]

theorem execRead_ready (ha : hostAnswers s = true)
    (h : frameCheck s 0x01 f f.address.toNat (readLenOk f) none (identityOnly f) false = stOk) :
    execRead f s = .next (respond (expireSessions s) f stOk (regBytes (expireSessions s) f.address.toNat f.length.toNat)
      (.marks (marksIn f 21) (marksIn f 22))) := by
  unfold execRead
  dsimp only
  rw [ha, if_neg (by decide), h, if_neg (by decide)]

theorem execReplay_reserved (ha : hostAnswers s = true) (hr : reservedOpcode f.opcode = true) :
    execReplay f s = .next (answer (expireSessions s) f
      (frameCheck s 0x03 f f.address.toNat (f.address == 0 && f.length == 0) none false false)) := by
  unfold execReplay
  dsimp only
  rw [ha, if_neg (by decide), hr, if_pos rfl]

theorem execReplay_refused {c : Byte} (ha : hostAnswers s = true) (hr : reservedOpcode f.opcode = false)
    (h : frameCheck s 0x03 f f.address.toNat (f.address == 0 && f.length == 0) none false false = c) (hn : c ≠ stOk) :
    execReplay f s = .next (replayRefused (expireSessions s) f c) := by
  unfold execReplay
  dsimp only
  rw [ha, if_neg (by decide), hr, if_neg (by decide), h, if_pos (bne_iff_ne.2 hn)]

/-- A REPLAY that passes its checks: the response kept, or a refusal where none is. -/
theorem execReplay_ready (ha : hostAnswers s = true)
    (h : frameCheck s 0x03 f f.address.toNat (f.address == 0 && f.length == 0) none false false = stOk) :
    execReplay f s = .next (match s.host.stored with
      | none => replayRefused (expireSessions s) f stBadArg
      | some r => { expireSessions s with host := { s.host with response := r, effect := .none } }) := by
  obtain ⟨-, hr, -⟩ := frameCheck_ok h
  unfold execReplay
  dsimp only
  rw [ha, if_neg (by decide), hr, if_neg (by decide), h, if_neg (by decide), expireSessions_host]
  cases s.host.stored <;> rfl

/-- A refused REPLAY touches the port alone and keeps the response that was kept. -/
theorem replayRefused_spec (u : State) (f : HostFrame) (c : Byte) :
    replayRefused u f c = { u with host := (replayRefused u f c).host } ∧ (replayRefused u f c).host.stored = u.host.stored ∧
      answered (replayRefused u f c) c :=
  ⟨rfl, rfl, answer_answered u f c⟩

end

/-! HSDO (R654, R655). -/

section
variable {s : State} {n : Fin 129} {i : Nat}

theorem hsdoByte_fill (h : i < n.val) : hsdoByte s n i = 0xFF := if_pos h

theorem hsdoByte_marker : hsdoByte s n n.val = 0xA5 := by simp [hsdoByte]

/-- After the fill bytes and the marker comes the response, byte by byte, and 0xFF after it. -/
theorem hsdoByte_response (k : Nat) : hsdoByte s n (n.val + 1 + k) = s.host.response.getD k 0xFF := by
  unfold hsdoByte
  rw [if_neg (by omega), if_neg (by omega)]
  congr 1
  omega

end

/-! RESULTS (R675 - R677). -/

section
variable {s : State} {v : Vcn}

theorem resultOf_unassigned (h : assignedIndex (vcnIndex v) = false) : resultOf s v = none := by simp [resultOf, h]

theorem resultOf_absent (hp : parkedNode s v = false) (hn : nodePresent s (vcnNode v) = false) : resultOf s v = none := by
  simp [resultOf, hp, hn]

theorem resultOf_parked (ha : assignedIndex (vcnIndex v) = true) (hp : parkedNode s v = true) (he : entryOf s v = none) :
    resultOf s v = some (parkedRecord v (s.host.delivered.lookup v)) := by
  simp [resultOf, ha, hp, he]

theorem resultOf_entry (ha : assignedIndex (vcnIndex v) = true) (hp : parkedNode s v = false) (hn : nodePresent s (vcnNode v) = true)
    {e : VcnEntry} (he : entryOf s v = some e) : resultOf s v = some ((e.record.map (readForm s v e)).getD (emptyRecord v)) := by
  simp [resultOf, ha, hp, hn, he]

theorem setFlag_bit (w : BitVec 16) (n i : Nat) :
    (setFlag w n).getLsbD i = (w.getLsbD i || (decide (i < 16) && decide (n = i))) := by
  rw [setFlag, BitVec.getLsbD_or, BitVec.getLsbD_ofNat, Nat.testBit_two_pow]

theorem clearFlag_self (w : BitVec 16) {n : Nat} (h : n < 16) : (clearFlag w n).getLsbD n = false := by
  simp only [clearFlag, BitVec.getLsbD_and, BitVec.getLsbD_not, BitVec.getLsbD_ofNat, Nat.testBit_two_pow]
  simp [h]

/-- The record of a parked pod: MISSING, with a sequence, and REPEAT exactly where its pair is the one delivered, else FRESH. -/
theorem parkedRecord_spec (v : Vcn) (d : Option (BitVec 32 × BitVec 16)) :
    let q := parkedRecord v d
    q.vcn = v ∧ isValid q.status = false ∧ q.status.getLsbD 7 = true ∧ q.value = qnan ∧ q.seq ≠ 0 ∧
      (q.status.getLsbD 2 = true ↔ d = some (q.seq, q.age)) ∧ (q.status.getLsbD 1 = true ↔ q.status.getLsbD 2 = false) := by
  intro q
  have hseq : q.seq ≠ 0 := by
    show (if BitVec.ofNat 32 (Config.parkedField v 0) = 0 then 1 else BitVec.ofNat 32 (Config.parkedField v 0)) ≠ (0 : BitVec 32)
    split
    · decide
    · assumption
  have hst : q.status = setFlag (setFlag 0 7) (if d = some (q.seq, q.age) then 2 else 1) := rfl
  by_cases hd : d = some (q.seq, q.age)
  · rw [if_pos hd] at hst
    rw [hst]
    exact ⟨rfl, by decide, by decide, rfl, hseq, iff_of_true (by decide) hd, by decide⟩
  · rw [if_neg hd] at hst
    rw [hst]
    exact ⟨rfl, by decide, by decide, rfl, hseq, iff_of_false (by decide) hd, by decide⟩

/-- A class that does not run reads NOTYET, and not VALID, whatever its record says. -/
theorem readForm_hidden {e : VcnEntry} {r : Record} (h : classHidden s v = true) :
    isValid (readForm s v e r).status = false ∧ (readForm s v e r).status.getLsbD 3 = true := by
  simp only [readForm, h, if_true, isValid, setFlag_bit, clearFlag_self _ (show 0 < 16 by decide)]
  simp

/-- Any other record reads as it stands, with FRESH or REPEAT, and in SAFE with STALE unless it is housekeeping's. -/
theorem readForm_shown {e : VcnEntry} {r : Record} (h : classHidden s v = false) : readForm s v e r =
    { r with status := if inSafe s = true ∧ housekept s v = false
      then setFlag (setFlag r.status (if e.delivered = some (r.seq, r.age) then 2 else 1)) 4
      else setFlag r.status (if e.delivered = some (r.seq, r.age) then 2 else 1) } := by
  simp [readForm, h, apply_ite (setFlag r.status)]

end

/-- A frame that itself carries a reserved opcode is answered BAD_ARG by whatever row it is presented to (R658). -/
theorem exec_reservedOpcode {s : State} {f : HostFrame} (ha : hostAnswers s = true) (hop : reservedOpcode f.opcode = true)
    (h1 : f.flags.getLsbD 0 = true → crc16 (headerBytes f.opcode f f.address.toNat) = f.headerCrc)
    (h2 : f.flags.getLsbD 0 = false → crcRequired s = false) :
    ∀ c ∈ [Instr.read f, .replay f, .events f, .results f, .log f, .registerWrite f, .reset f],
      exec c s = .next (answer (expireSessions s) f stBadArg) := by
  have hc : frameComplete f f.payload = true := by simp [frameComplete, hop]
  have hp (op : Byte) : HeaderPasses s op f f.address.toNat := ⟨fun h => by rw [hop]; exact h1 h, h2⟩
  have hd (op : Byte) (lenOk : Bool) (body) : dataFrame s op f lenOk body = answer (expireSessions s) f stBadArg :=
    dataFrame_refused ha hc (frameCheck_reserved (hp op) hop)
  intro c hmem
  fin_cases hmem
  · exact execRead_refused ha (frameCheck_reserved (hp _) hop) (by decide)
  · exact (execReplay_reserved ha hop).trans (by rw [frameCheck_reserved (hp _) hop])
  · exact congrArg _ (hd ..)
  · exact congrArg _ (hd ..)
  · exact congrArg _ (hd ..)
  · exact congrArg _ (writeFrame_refused ha hc (frameCheck_reserved (hp _) hop))
  · exact execReset_refused (fun _ => commandFrame_refused ha hc fun _ => frameCheck_reserved (hp _) hop) (answer_answered _ f _) (by decide)

/-- Settles O51: the checks of R658 by the equations of `frameCheck`, then what each opcode's row does with a frame that passes them. -/
theorem hostReadsReplayResults : Obligations.HostReadsReplayResults := by
  refine ⟨fun s f ha hc hop => ?checks, fun s f ha hop h1 h2 => ?reserved, fun s f code fix ha hc => ?codes,
    fun s f ha hc hp ht => ?vendor, fun s f => ⟨fun h => ?silent, fun h => ?silentPort⟩, fun s f ha => ⟨fun h => ?readRefused, fun h => ?read⟩,
    fun s f ha => ⟨fun h r hr => ?replay, fun h hr => ?replayNone, fun h hop => ?replayRefused⟩, fun s f h => ?results,
    fun s f st data e n i hc => ?hsdo, fun s v => ?resultOf⟩
  case checks =>
    intro crc head s'
    refine ⟨fun h hh => ?_, fun h hr => ?_, fun h1 h2 => ?_⟩
    · exact congrArg _ (dataFrame_refused ha hc (frameCheck_headerCrc h (by rw [hop]; exact hh)))
    · exact congrArg _ (dataFrame_refused ha hc (frameCheck_crcMissing h hr))
    · have hp : HeaderPasses s 0x06 f f.address.toNat := ⟨fun h => by rw [hop]; exact h1 h, h2⟩
      refine ⟨fun h => ?_, fun hf had hl hm => ?_, fun hf had hl hm hcrc hpay => ?_⟩
      · refine congrArg _ (dataFrame_refused ha hc (frameCheck_form hp (h.imp_right fun hf => ?_)))
        rw [Bool.and_eq_false_iff, beq_eq_false_iff_ne, beq_eq_false_iff_ne]
        exact hf
      · refine congrArg _ (dataFrame_refused ha hc ((frameCheck_formed hp hop hf (by simp [had, hl])).trans ?_))
        rw [hm, if_pos (by simp)]
      · refine congrArg _ (dataFrame_refused ha hc ((frameCheck_formed hp hop hf (by simp [had, hl])).trans ?_))
        rw [if_neg (by simp [hm]), if_pos]
        rw [show f.flags.getLsbD 0 = true from hcrc, hl]
        simpa using hpay
  case reserved => exact exec_reservedOpcode ha hop h1 h2
  case codes =>
    intro p u hk
    have h : CommandChecked s f code fix := ⟨ha, hc, hk⟩
    refine ⟨?_, ?_, ?_, ?_⟩ <;> rintro rfl rfl
    · exact execTimeSet_reserved h
    · exact execModeRun_reserved h
    · exact execHeaterSetTarget_reserved h
    · exact fun h0 h6 _ _ hs hv => execCalZero_reserved h h0 h6 hs hv
  case vendor =>
    intro p got hk hv
    have hl : vendorLocked (sessionActivity s) got = true := vendorLocked_production hp ht hv
    exact execTimeSet_refused (fun _ => (commandFrame_taken ha hc hk fun _ => hv).trans (commandTaken_locked hl)) (answer_answered _ f _) (by decide)
  case silent =>
    have hs : hostAnswers s = false ∨ frameComplete f f.payload = false := by
      rcases h with h | ⟨hop, hl⟩
      · exact .inl h
      · exact .inr (by simp [frameComplete, hop, hl])
    exact ⟨congrArg _ (dataFrame_silent hs), congrArg _ (dataFrame_silent hs), congrArg _ (dataFrame_silent hs), congrArg _ (writeFrame_silent hs)⟩
  case silentPort => exact ⟨if_pos (by rw [h]; rfl), if_pos (by rw [h]; rfl)⟩
  case readRefused => exact execRead_refused ha rfl h
  case read => exact ⟨_, execRead_ready ha h, rfl, rfl⟩
  case replay =>
    refine (execReplay_ready ha h).trans ?_
    rw [hr]
  case replayNone =>
    obtain ⟨hu, hs, hb⟩ := replayRefused_spec (expireSessions s) f stBadArg
    refine ⟨_, (execReplay_ready ha h).trans (by rw [hr]), hu, ?_, hb⟩
    rw [hs, expireSessions_host, hr]
  case replayRefused =>
    obtain ⟨hu, hs, hb⟩ := replayRefused_spec (expireSessions s) f (frameCheck s 0x03 f f.address.toNat (f.address == 0 && f.length == 0) none false false)
    exact ⟨_, execReplay_refused ha hop rfl h, hu, by rw [hs, expireSessions_host], hb⟩
  case results => exact ⟨_, congrArg Host.Outcome.next (dataFrame_ready h), rfl, rfl⟩
  case hsdo =>
    have hr : (respond s f st data e).host.response = st :: data := if_neg (by rw [hc]; decide)
    refine ⟨hsdoByte_fill, hsdoByte_marker, ?_, fun k hk => ?_, fun h => ?_⟩
    · exact (hsdoByte_response 0).trans (by rw [hr]; rfl)
    · rw [show n.val + 2 + k = n.val + 1 + (k + 1) by omega, hsdoByte_response, hr, List.getD_cons_succ,
        List.getD_eq_getElem _ _ hk, List.getD_eq_getElem _ _ hk]
    · rw [show i = n.val + 1 + (i - n.val - 1) by omega, hsdoByte_response, hr]
      exact List.getD_eq_default _ _ (by simp; omega)
  case resultOf =>
    refine ⟨resultOf_unassigned, resultOf_absent, fun hv hp he => ⟨_, resultOf_parked hv hp he, parkedRecord_spec _ _⟩,
      fun e hv hp hn he => ⟨fun hr => ?_, fun r hr hh => ?_, fun r hr hh => ?_⟩⟩ <;> have h := resultOf_entry hv hp hn he <;> rw [hr] at h
    · exact h
    · exact h.trans (congrArg some (readForm_shown hh))
    · exact ⟨_, h, readForm_hidden hh⟩

end Sys2Proof.Machine

namespace Sys2Proof.Machine

/-! What the record of a frame leaves alone. Raising an event, a log entry, the rules, the ratio outputs, the encoders, the calibration window and a
pod's pending area write only the parts that `Quiet` does not name; the result store is written through `modEntry` alone. -/

/-- The parts of the state that the record of a frame leaves alone but for the result store's entry: all but free values, calibration, Spillway,
Mere, events and log, and of Course the own address. -/
structure Quiet where
  fixed : Fixed
  sysOn : Bool
  sysDrop : Bool
  sysClk : Option Nat
  modes : Modes
  ec : Vector EcChan 8
  weirs : Vector Weir 23
  tones : Vector Tone 8
  burns : Vector Burn 10
  aux : Aux
  mox : Vector Mox 6
  rail : Rail
  thermal : Thermal
  time : Time
  sluice : Vector Slot 128
  addr : Byte
  host : HostPort
  results : List (Vcn × VcnEntry)
  ks : Keystone
  gate : Gate
  link : LinkTest

/-- Those parts of a state. -/
def State.quiet (s : State) : Quiet :=
  ⟨s.fixed, s.sysOn, s.sysDrop, s.sysClk, s.modes, s.ec, s.weirs, s.tones, s.burns, s.aux, s.mox, s.rail, s.thermal, s.time, s.sluice,
    s.course.pod.addr, s.host, s.results, s.ks, s.gate, s.link⟩

@[simp] theorem quiet_mk (x0 x1 x2 x3 x4 x5 x6 x7 x8 x9 x10 x11 x12 x13 x14 x15 x16 x17 x18 x19 x20 x21 x22 x23 x24 x25 x26 x27 x28 x29 x30 x31 x32 x33 x34 x35 x36 x37) :
    (State.mk x0 x1 x2 x3 x4 x5 x6 x7 x8 x9 x10 x11 x12 x13 x14 x15 x16 x17 x18 x19 x20 x21 x22 x23 x24 x25 x26 x27 x28 x29 x30 x31 x32 x33 x34 x35 x36 x37).quiet =
      ⟨⟨x0, x8, x13, x9, x1, x3, x4, x5, x6, x7, x14, x15⟩, x10, x11, x12, x16, x17, x18, x19, x20, x21, x22, x23, x24, x28, x29, x30.pod.addr,
        x32, x33, x35, x36, x37⟩ := rfl

@[simp] theorem quiet_fold (s : State) :
    (⟨s.fixed, s.sysOn, s.sysDrop, s.sysClk, s.modes, s.ec, s.weirs, s.tones, s.burns, s.aux, s.mox, s.rail, s.thermal, s.time, s.sluice,
      s.course.pod.addr, s.host, s.results, s.ks, s.gate, s.link⟩ : Quiet) = s.quiet := rfl

@[simp] theorem quiet_ite (c : Prop) [Decidable c] (a b : State) : (if c then a else b).quiet = if c then a.quiet else b.quiet := apply_ite _ _ _ _

/-- What steps that each leave `g` alone do to it, one after another: nothing. -/
theorem foldl_keeps {α β γ : Type} (g : β → γ) (f : β → α → β) (h : ∀ s a, g (f s a) = g s) (l : List α) (s : β) : g (l.foldl f s) = g s := by
  induction l generalizing s with
  | nil => rfl
  | cons a l ih => rw [List.foldl_cons, ih, h]

@[simp] theorem foldl_quiet {α : Type} (f : State → α → State) (h : ∀ s a, (f s a).quiet = s.quiet) (l : List α) (s : State) :
    (l.foldl f s).quiet = s.quiet := foldl_keeps _ f h l s

theorem LogOnly.quiet {s t : State} (h : LogOnly s t) : t.quiet = s.quiet := by
  unfold LogOnly at h
  rw [h]
  rfl

theorem PinsOnly.quiet {s t : State} (h : PinsOnly s t) : t.quiet = s.quiet := by
  rw [h.1]
  rfl

/-! Events, log, outputs. -/

@[simp] theorem drawFree_quiet (s : State) : (drawFree s).2.quiet = s.quiet := rfl
@[simp] theorem raise_quiet (s : State) (ev : Fin 32) (arg : Nat) : (raise s ev arg).quiet = s.quiet := rfl
@[simp] theorem logRecord_quiet (s : State) (kind : Byte) (r : Record) : (logRecord s kind r).quiet = s.quiet := (logRecord_log (.refl s) ..).quiet
@[simp] theorem logAlarm_quiet (s : State) (kind node : Byte) (code arg : Nat) (data : List Byte) :
    (logAlarm s kind node code arg data).quiet = s.quiet := (logAlarm_log (.refl s) ..).quiet
@[simp] theorem originate_quiet (s : State) (ports : List (Fin 2)) (type dst : Byte) (cls : Nat) (credit : Byte) (payload : List Byte) :
    (originate s ports type dst cls credit payload).quiet = s.quiet := by
  rw [(originate_ports s ports type dst cls credit payload).1]
  rfl
@[simp] theorem refreshAout_quiet (s : State) (n : Fin 2) : (refreshAout s n).quiet = s.quiet := (refreshAout_pins s n).quiet
@[simp] theorem refreshOutputs_quiet (s : State) : (refreshOutputs s).quiet = s.quiet := (refreshOutputs_pins s).quiet
@[simp] theorem endHold_quiet (s : State) (n : Fin 2) : (endHold s n).quiet = s.quiet := rfl

/-! Spillway. Without a mismatch of the two evaluators a record declares no fault. -/

@[simp] theorem sendAlarm_quiet (s : State) : (sendAlarm s).quiet = s.quiet := by simp [sendAlarm]
@[simp] theorem chainChanged_quiet (s : State) : (chainChanged s).quiet = s.quiet := by simp [chainChanged]
@[simp] theorem ruleOutputs_quiet (s : State) (k : Nat) : (ruleOutputs s k).quiet = s.quiet := by simp [ruleOutputs]
@[simp] theorem setRule_quiet (s : State) (k : Fin 256) (new : RuleState) (first : Bool) : (setRule s k new first).quiet = s.quiet := by
  simp [setRule]
@[simp] theorem evaluate_quiet (s : State) (k : Fin 256) (setm clrm : Bool) (value : F32) : (evaluate s k setm clrm value []).quiet = s.quiet := by
  simp [evaluate, evaluateAs]
@[simp] theorem evalRecord_quiet (s : State) (k : Fin 256) (r : Record) : (evalRecord s k r []).quiet = s.quiet := by
  unfold evalRecord
  (repeat' split) <;> simp
@[simp] theorem accumulate_quiet (s : State) (k : Fin 256) (r : Record) (weight : Rat) : (accumulate s k r weight).quiet = s.quiet := rfl
@[simp] theorem spillRecord_quiet (s : State) (r : Record) (weight : Rat) : (spillRecord s r weight []).1.quiet = s.quiet := by
  have h (ks : List (Fin 256)) : (ks.foldl (fun s k => accumulate s k r weight) s).quiet = s.quiet :=
    foldl_quiet _ (fun s k => accumulate_quiet s k r weight) ks s
  simp [spillRecord, h]

/-! Encoders, calibration window, ratio outputs. -/

@[simp] theorem mereDisturbed_quiet (s : State) (cause : Byte) : (mereDisturbed s cause).quiet = s.quiet := by simp [mereDisturbed]
@[simp] theorem encEmit_quiet (s : State) (e : Fin 64) (isUp : Bool) (ev : MereEvent) : (encEmit s e isUp ev).quiet = s.quiet := by simp [encEmit]
@[simp] theorem encTake_quiet (s : State) (e : Fin 64) (v : F32) : (encTake s e v).quiet = s.quiet := by simp [encTake]
@[simp] theorem encodeRecord_quiet (s : State) (r : Record) : (encodeRecord s r).quiet = s.quiet := by simp [encodeRecord]
@[simp] theorem calCollect_quiet (s : State) (r : Record) : (calCollect s r).quiet = s.quiet := by
  unfold calCollect
  split <;> simp
@[simp] theorem ratioNote_quiet (s : State) (n : Fin 2) : (ratioNote s n).quiet = s.quiet := by simp [ratioNote]
@[simp] theorem ratioMiss_quiet (s : State) (n : Fin 2) : (ratioMiss s n).quiet = s.quiet := by simp [ratioMiss]

@[simp] theorem podTake_addr (p : Pod) (clk : Nat) (r : Record) : (podTake p clk r).addr = p.addr := by
  simp only [podTake, backlogPut]
  (repeat' split) <;> rfl

@[simp] theorem podTake_quiet (s : State) (r : Record) :
    ({ s with course := { s.course with pod := podTake s.course.pod s.clk r } } : State).quiet = s.quiet := by
  show ({ s.quiet with addr := (podTake s.course.pod s.clk r).addr } : Quiet) = s.quiet
  rw [podTake_addr]
  rfl

/-! The result store. -/

/-- Looking a key up in a list of pairs whose values at one key have changed. -/
theorem lookup_modify {α β : Type} [DecidableEq α] (l : List (α × β)) (v u : α) (f : β → β) :
    (l.map fun p => if p.1 = v then (p.1, f p.2) else p).lookup u = if u = v then (l.lookup u).map f else l.lookup u := by
  induction l with
  | nil => simp
  | cons p l ih =>
    obtain ⟨k, b⟩ := p
    have hp : ((if k = v then (k, f b) else (k, b)) : α × β) = (k, if k = v then f b else b) := by split <;> rfl
    rw [List.map_cons, hp, List.lookup_cons, List.lookup_cons, ih]
    by_cases hu : u = k
    · subst hu
      by_cases hv : u = v <;> simp [hv]
    · rw [show (u == k) = false by simpa using hu]

theorem entryOf_modEntry (s : State) (v u : Vcn) (f : VcnEntry → VcnEntry) :
    entryOf (modEntry s v f) u = if u = v then (entryOf s u).map f else entryOf s u := lookup_modify s.results v u f

theorem entryOf_of_results {s t : State} (h : t.results = s.results) (v : Vcn) : entryOf t v = entryOf s v := congrArg (List.lookup v) h

theorem entryOf_of_quiet {s t : State} (h : t.quiet = s.quiet) (v : Vcn) : entryOf t v = entryOf s v :=
  entryOf_of_results (congrArg Quiet.results h) v

/-- A change of an entry only sees the parts of `Quiet`. -/
theorem modEntry_quiet_congr {s t : State} (h : t.quiet = s.quiet) (v : Vcn) (f : VcnEntry → VcnEntry) :
    (modEntry t v f).quiet = (modEntry s v f).quiet := by
  have hr : t.results = s.results := congrArg Quiet.results h
  show ({ t.quiet with results := (modEntry t v f).results } : Quiet) = { s.quiet with results := (modEntry s v f).results }
  rw [h]
  simp [modEntry, hr]

/-- Two changes of one entry, one after the other. -/
theorem modEntry_modEntry (s : State) (v : Vcn) (f g : VcnEntry → VcnEntry) : modEntry (modEntry s v f) v g = modEntry s v (g ∘ f) := by
  simp only [modEntry, List.map_map]
  congr 1
  refine List.map_congr_left fun p _ => ?_
  by_cases h : p.1 = v <;> simp [h]

theorem modEntry_id (s : State) (v : Vcn) : modEntry s v id = s := by
  simp [modEntry]

/-- From `s` to `t` nothing of `Quiet` changes but the store's entry of one VCN. -/
def EntryOnly (v : Vcn) (s t : State) : Prop := ∃ f, t.quiet = (modEntry s v f).quiet

theorem EntryOnly.of_quiet {v : Vcn} {s t : State} (h : t.quiet = s.quiet) : EntryOnly v s t := ⟨id, by rw [modEntry_id, h]⟩

theorem EntryOnly.after {v : Vcn} {s t u : State} (h : t.quiet = s.quiet) (k : EntryOnly v t u) : EntryOnly v s u := by
  obtain ⟨f, k⟩ := k
  exact ⟨f, k.trans (modEntry_quiet_congr h v f)⟩

/-- The entry of another VCN, and every other part of `Quiet`, stays. -/
theorem EntryOnly.quiet {v : Vcn} {s t : State} (h : EntryOnly v s t) : t.quiet = { s.quiet with results := t.results } := by
  obtain ⟨f, h⟩ := h
  rw [show t.results = (modEntry s v f).results from congrArg Quiet.results h, h]
  rfl

theorem EntryOnly.entry {v u : Vcn} {s t : State} (h : EntryOnly v s t) (hu : u ≠ v) : entryOf t u = entryOf s u := by
  obtain ⟨f, h⟩ := h
  rw [entryOf_of_quiet h, entryOf_modEntry, if_neg hu]

/-! The path of a record. -/

@[simp] theorem lateForm_vcn (s : State) (r : Record) : (lateForm s r).vcn = r.vcn := by
  unfold lateForm
  (repeat' split) <;> rfl

@[simp] theorem spillRecord_vcn (s : State) (r : Record) (weight : Rat) (bad : List (Fin 256)) : (spillRecord s r weight bad).2.vcn = r.vcn := by
  simp only [spillRecord]
  (repeat' split) <;> rfl

/-- Without rules Spillway does nothing with a record. -/
theorem spillRecord_of_no_rules {s : State} (h : ruleCount s = 0) (r : Record) (weight : Rat) (bad : List (Fin 256)) :
    spillRecord s r weight bad = (s, r) := by
  have hr : rulesOf s r.vcn = [] := by simp [rulesOf, allRules, h]
  simp [spillRecord, hr]

/-- The entry after a record that is kept: its frames without a record count anew, and it holds the record as Spillway left it. -/
def keptEntry (r k : Record) (e : VcnEntry) : VcnEntry := { putRecord r e with record := some k }

/-- A record that is kept. -/
theorem keepRecord_entry (s : State) (r : Record) :
    ∃ k : Record, (keepRecord s r []).quiet = (modEntry s r.vcn (keptEntry (lateForm s r) k)).quiet ∧
      (ruleCount s = 0 → k = lateForm s r) := by
  have hv := lateForm_vcn s r
  generalize hl : lateForm s r = r1 at hv
  generalize hs : (aoutsOf s r1.vcn).foldl ratioNote (modEntry s r1.vcn (putRecord r1)) = s1
  have h1 : s1.quiet = (modEntry s r.vcn (putRecord r1)).quiet := by rw [← hs, hv]; simp
  generalize hw : (vcnUsAt s1 r1.vcn (nearTime s1 r1.time) : Rat) = w
  have h2 := spillRecord_quiet s1 r1 w
  have hv2 := spillRecord_vcn s1 r1 w []
  refine ⟨(spillRecord s1 r1 w []).2, ?_, fun h0 => ?_⟩
  · generalize hk : spillRecord s1 r1 w [] = p at h2 hv2
    obtain ⟨s2, k⟩ := p
    have h3 : (modEntry s2 k.vcn fun e => { e with record := some k }).quiet = (modEntry s r.vcn (keptEntry r1 k)).quiet := by
      rw [hv2, hv]
      exact (modEntry_quiet_congr (h2.trans h1) _ _).trans (congrArg _ (modEntry_modEntry s r.vcn _ _))
    simp only [keepRecord, hl, hs, hw, hk, quiet_ite, podTake_quiet, calCollect_quiet, encodeRecord_quiet, ite_self, refreshAout_quiet,
      foldl_quiet, implies_true, h3]
  · have hc : ruleCount s1 = 0 := by
      have : s1.config = s.config := congrArg Fixed.config ((congrArg Quiet.fixed h1).trans (modEntry_fixed s _ _))
      simpa [ruleCount, sec, this] using h0
    rw [spillRecord_of_no_rules hc]

end Sys2Proof.Machine

namespace Sys2Proof.Machine

/-! The record of a frame: the entry of its own VCN, and nothing else of `Quiet`. -/

theorem ownVcn_congr {s t : State} (hf : t.fixed = s.fixed) (ha : t.course.pod.addr = s.course.pod.addr) (i : Nat) :
    ownVcn t i = ownVcn s i := by
  simp [ownVcn, ownNode, role_of_fixed hf, ha]

theorem ownVcn_of_quiet {s t : State} (h : t.quiet = s.quiet) (i : Nat) : ownVcn t i = ownVcn s i :=
  ownVcn_congr (congrArg Quiet.fixed h) (congrArg Quiet.addr h) i

/-- Local indices of one byte name different VCNs of the node. -/
theorem ownVcn_inj {s : State} {i j : Nat} (hi : i < 256) (hj : j < 256) (h : ownVcn s i = ownVcn s j) : i = j := by
  have hn : (ownNode s).toNat < 256 := (ownNode s).isLt
  have := congrArg BitVec.toNat h
  simp only [ownVcn, BitVec.toNat_ofNat] at this
  omega

theorem keepRecord_entryOnly (s : State) (r : Record) : EntryOnly r.vcn s (keepRecord s r []) := by
  obtain ⟨k, h, -⟩ := keepRecord_entry s r
  exact ⟨_, h⟩

theorem storeRecord_entryOnly (s : State) (r : Record) : EntryOnly r.vcn s (storeRecord s r []) := by
  unfold storeRecord
  split
  · exact .of_quiet rfl
  · split
    · exact .of_quiet (by simp)
    · exact keepRecord_entryOnly s r

theorem skipVcn_quiet (s : State) (v : Vcn) : (skipVcn s v).quiet = (modEntry s v skipEntry).quiet :=
  foldl_quiet _ (fun s n => ratioMiss_quiet s n) _ _

theorem skipVcn_entryOnly (s : State) (v : Vcn) : EntryOnly v s (skipVcn s v) := ⟨_, skipVcn_quiet s v⟩

/-- The record that a node writes of its own channel at the end of a frame. -/
def frameRecord (s : State) (idx : Nat) (e : VcnEntry) (x : F32) (raw : BitVec 32) (b : StatusBits) : Record :=
  { vcn := ownVcn s idx, status := b.word, seq := e.frameSeq, time := frameEnd s, value := x, raw := raw,
    age := BitVec.ofNat 16 (min 0xFFFF e.skipped) }

theorem ownRecord_known {s : State} {idx : Nat} {e : VcnEntry} (h : entryOf s (ownVcn s idx) = some e) (x : F32) (raw : BitVec 32)
    (b : StatusBits) (bad : List (Fin 256)) : ownRecord s idx x raw b bad = storeRecord s (frameRecord s idx e x raw b) bad := by
  unfold ownRecord
  dsimp only
  rw [h]
  rfl

theorem ownRecord_unknown {s : State} {idx : Nat} (h : entryOf s (ownVcn s idx) = none) (x : F32) (raw : BitVec 32) (b : StatusBits)
    (bad : List (Fin 256)) : ownRecord s idx x raw b bad = s := by
  unfold ownRecord
  dsimp only
  rw [h]

theorem ownRecord_entryOnly (s : State) (idx : Nat) (x : F32) (raw : BitVec 32) (b : StatusBits) :
    EntryOnly (ownVcn s idx) s (ownRecord s idx x raw b []) := by
  cases h : entryOf s (ownVcn s idx) with
  | none => rw [ownRecord_unknown h]; exact .of_quiet rfl
  | some e => rw [ownRecord_known h]; exact storeRecord_entryOnly s (frameRecord s idx e x raw b)

/-- Where the duplicate linearisations agree, a record goes through stages 2 and 3 into the store. -/
theorem emitRecord_agreeing (s : State) (idx : Nat) (x : F32) (raw : BitVec 32) (b : StatusBits) (bad : List (Fin 256)) :
    emitRecord s idx x raw b [] bad = ownRecord s idx (linearise s idx x b).1 raw (linearise s idx x b).2 bad := rfl

theorem emitRecord_entryOnly (s : State) (idx : Nat) (x : F32) (raw : BitVec 32) (b : StatusBits) :
    EntryOnly (ownVcn s idx) s (emitRecord s idx x raw b [] []) := ownRecord_entryOnly s idx _ raw _

/-- A record written after steps that keep `Quiet`. -/
theorem emitRecord_after {s t : State} (h : t.quiet = s.quiet) (idx : Nat) (x : F32) (raw : BitVec 32) (b : StatusBits) :
    EntryOnly (ownVcn s idx) s (emitRecord t idx x raw b [] []) := by
  rw [← ownVcn_of_quiet h idx]
  exact .after h (emitRecord_entryOnly t idx x raw b)

/-- The same of an index written another way. -/
theorem EntryOnly.at {s t : State} {i j : Nat} (h : EntryOnly (ownVcn s i) s t) (e : i = j) : EntryOnly (ownVcn s j) s t := e ▸ h

@[simp] theorem filmValue_quiet (s : State) (n : Fin 6) (r : Rat) : (filmValue s n r).1.quiet = s.quiet := by
  simp only [filmValue]
  (repeat' split) <;> rfl

theorem auxValue_quiet {s : State} {n : Fin 4} {c : AuxConv} {p : State × F32} (h : auxValue s n c = some p) : p.1.quiet = s.quiet := by
  unfold auxValue at h
  split at h
  · obtain ⟨e, -, rfl⟩ := Option.map_eq_some_iff.1 h
    split <;> rfl
  · obtain ⟨e, -, rfl⟩ := Option.map_eq_some_iff.1 h
    rfl
  · cases h
    rfl

section
variable {o : BoundaryObs} (hl : o.lin = []) (hb : o.bad = [])
include hl hb

theorem electrodeRecord_entryOnly (s : State) (w : Fin 16) (e : WeirEnd) (shadowed bad : Bool) :
    EntryOnly (ownVcn s w.val) s (electrodeRecord s w e shadowed bad o) := by
  unfold electrodeRecord
  rw [hl, hb]
  exact emitRecord_entryOnly ..

theorem filmRecord_entryOnly (s : State) (n : Fin 6) (e : WeirEnd) (shadowed bad : Bool) :
    EntryOnly (ownVcn s (0x10 + n.val)) s (filmRecord s n e shadowed bad o) := by
  unfold filmRecord
  rw [hl, hb]
  split
  · exact ownRecord_entryOnly ..
  · exact emitRecord_after (filmValue_quiet ..) ..

theorem heaterRecord_entryOnly (s : State) (n : Fin 6) : EntryOnly (ownVcn s (0x18 + n.val)) s (heaterRecord s n o) := by
  have h : (if s.mox[n].nR = 0 ∨ s.mox[n].nT = 0 then drawFree s else (0, s)).2.quiet = s.quiet := by split <;> rfl
  unfold heaterRecord
  rw [hl, hb]
  exact emitRecord_after h ..

theorem auxRecord_entryOnly (s : State) (n : Fin 4) : EntryOnly (ownVcn s (0x20 + n.val)) s (auxRecord s n o) := by
  unfold auxRecord
  rw [hl, hb]
  split
  · exact skipVcn_entryOnly ..
  · split
    · exact skipVcn_entryOnly ..
    · next h => exact emitRecord_after (auxValue_quiet h) ..

theorem tempRecord_entryOnly (s : State) (i : Fin 8) : EntryOnly (ownVcn s (0x28 + i.val)) s (tempRecord o s i) := by
  unfold tempRecord
  rw [hl, hb]
  exact emitRecord_entryOnly ..

theorem supplyRecord_entryOnly (s : State) (i : Fin 16) : EntryOnly (ownVcn s (0x80 + i.val)) s (supplyRecord o s i) := by
  unfold supplyRecord
  rw [hl, hb]
  exact emitRecord_entryOnly ..

/-- The record of a local index, if any, writes the entry of that index. -/
theorem indexRecord_entryOnly (g : Ending) (s : State) (i : Nat) : EntryOnly (ownVcn s i) s (indexRecord o g s i) := by
  have skip : EntryOnly (ownVcn s i) s (skipOwn s i) := skipVcn_entryOnly ..
  have stay : EntryOnly (ownVcn s i) s s := .of_quiet rfl
  unfold indexRecord
  split
  · split
    · exact skip
    · exact electrodeRecord_entryOnly hl hb ..
    · exact stay
  split
  · next h =>
    dsimp only
    split
    · exact skip
    · split
      · exact (filmRecord_entryOnly hl hb s ⟨i - 0x10, h⟩ ..).at (Nat.add_sub_cancel' (by omega))
      · exact skip
    · exact stay
  split
  · next h =>
    dsimp only
    split
    · exact skip
    · exact (heaterRecord_entryOnly hl hb s ⟨i - 0x18, h.2⟩).at (Nat.add_sub_cancel' (by omega))
    · exact stay
  split
  · next h =>
    dsimp only
    split
    · exact stay
    · split
      · exact skip
      · exact (auxRecord_entryOnly hl hb s ⟨i - 0x20, h.2⟩).at (Nat.add_sub_cancel' (by omega))
      · exact stay
  split
  · next h =>
    split
    · exact skip
    · exact (tempRecord_entryOnly hl hb s ⟨i - 0x28, h.2⟩).at (Nat.add_sub_cancel' (by omega))
    · exact stay
  split
  · dsimp only
    split
    · exact skip
    · exact skip
    · rw [hl, hb]
      exact emitRecord_entryOnly ..
    · exact stay
  split
  · next h =>
    split
    · exact skip
    · exact (supplyRecord_entryOnly hl hb s ⟨i - 0x80, h.2⟩).at (Nat.add_sub_cancel' (by omega))
    · exact stay
  · exact stay

end

end Sys2Proof.Machine

namespace Sys2Proof.Machine

/-! The record of a working electrode's frame, where no model and no rule applies to it. -/

theorem flagBit_first (n : Nat) (c : Bool) : (flagBit n c)[0] = (decide (n = 0) && c) := by
  unfold flagBit
  cases c with
  | false => simp
  | true =>
    rw [if_pos rfl, Bool.and_true, ← BitVec.getLsbD_eq_getElem, BitVec.getLsbD_ofNat]
    simp

theorem isValid_word (b : StatusBits) : isValid b.word = b.valid := by
  simp [isValid, StatusBits.word, flagBit_first]

theorem lateForm_fields (s : State) (r : Record) :
    (lateForm s r).seq = r.seq ∧ (lateForm s r).time = r.time ∧ (lateForm s r).value = r.value ∧ (lateForm s r).raw = r.raw ∧
      (lateForm s r).age = r.age ∧ isValid (lateForm s r).status = isValid r.status := by
  unfold lateForm
  split
  · exact ⟨rfl, rfl, rfl, rfl, rfl, rfl⟩
  · split
    · exact ⟨rfl, rfl, rfl, rfl, rfl, by simp [isValid, setFlag]⟩
    · exact ⟨rfl, rfl, rfl, rfl, rfl, rfl⟩

/-- Without a model and a trim, linearisation passes a finite stage 1 value on and makes any other a NaN that is not VALID (R352, R363). -/
theorem linearise_of_no_model {s : State} {idx : Nat} (ht : trimmedIndex idx = true) (hm : boundModel (sec s 0x0A) idx = none) (x : F32)
    (b : StatusBits) : linearise s idx x b = if isFinite x then (x, b) else (qnan, { b with valid := false }) := by
  unfold linearise
  rw [ht, hm]
  rfl

/-- A record whose sequence is that of the entry's channel is not behind the one held, when that one is less than half a turn older (R673). -/
theorem not_heldLater {e : VcnEntry} {r : Record} (hr : r.seq = e.frameSeq)
    (h : ∀ k, e.record = some k → (e.frameSeq - k.seq).toNat < 2 ^ 31) : heldLater e r = false := by
  unfold heldLater
  split
  · rfl
  · next k hk =>
    have := h k hk
    rw [hr]
    simp only [Bool.and_eq_false_iff, decide_eq_false_iff_not]
    bv_omega

theorem ownRecord_entry {s : State} {idx : Nat} {e : VcnEntry} (he : entryOf s (ownVcn s idx) = some e)
    (h : ∀ k, e.record = some k → (e.frameSeq - k.seq).toNat < 2 ^ 31) (h0 : ruleCount s = 0) (x : F32) (raw : BitVec 32) (b : StatusBits) :
    let k := lateForm s (frameRecord s idx e x raw b)
    entryOf (ownRecord s idx x raw b []) (ownVcn s idx) = some (keptEntry k k e) := by
  intro k
  obtain ⟨k', hk, hk'⟩ := keepRecord_entry s (frameRecord s idx e x raw b)
  have hs : storeRecord s (frameRecord s idx e x raw b) [] = keepRecord s (frameRecord s idx e x raw b) [] := by
    unfold storeRecord
    rw [show entryOf s (frameRecord s idx e x raw b).vcn = some e from he]
    dsimp only
    rw [not_heldLater rfl h]
    rfl
  rw [ownRecord_known he, hs, entryOf_of_quiet hk, entryOf_modEntry,
    if_pos (show ownVcn s idx = (frameRecord s idx e x raw b).vcn from rfl), he, hk' h0]
  rfl

/-- The current of an electrode's frame in ampere, through stage 1 (R185). -/
def electrodeValue (s : State) (w : Fin 16) (r : Fin 4) (raw : Int) : F32 :=
  ofRat (stage1 s (weirOfWe w) ((raw : Rat) * (qCal s w.val r / 32) / ((pathUs s (weirOfWe w) : Rat) / 10 ^ 6)))

theorem trimmedIndex_we (w : Fin 16) : trimmedIndex w.val = true := by
  have := w.isLt
  simp only [trimmedIndex, Bool.or_eq_true, decide_eq_true_eq]
  omega

/-- The status of an electrode's record (R179, R183, R199, R750). -/
def electrodeStatus (s : State) (w : Fin 16) (x : WeirEnd) (shadowed bad : Bool) : StatusBits :=
  let c := s.ec[ecOf w]
  let warm := c.warmUntil.isSome
  let isOpen := c.compliance || c.complianceTail || c.zOpen
  { valid := !warm && !x.ovr && !isOpen && !bad && !pathBad s (weirOfWe w), notYet := warm, overRange := x.ovr, openInput := isOpen,
    shadowed := shadowed }

theorem electrodeRecord_eq (s : State) (w : Fin 16) (x : WeirEnd) (shadowed bad : Bool) (o : BoundaryObs) :
    electrodeRecord s w x shadowed bad o =
      emitRecord s w.val (electrodeValue s w x.range x.raw) (rawField x.range x.raw) (electrodeStatus s w x shadowed bad) o.lin o.bad := rfl

theorem electrodeStatus_valid {s : State} {w : Fin 16} {x : WeirEnd} {shadowed bad : Bool}
    (h : (electrodeStatus s w x shadowed bad).valid = true) :
    s.ec[ecOf w].warmUntil = none ∧ x.ovr = false ∧ s.ec[ecOf w].compliance = false := by
  simp only [electrodeStatus, Bool.and_eq_true, Bool.not_eq_true', Bool.or_eq_false_iff, Option.isSome_eq_false_iff, Option.isNone_iff_eq_none] at h
  obtain ⟨⟨⟨⟨hw, ho⟩, ⟨hc, -⟩, -⟩, -⟩, -⟩ := h
  exact ⟨hw, ho, hc⟩

theorem electrodeRecord_entry {s : State} {w : Fin 16} {o : BoundaryObs} {e : VcnEntry} (hl : o.lin = []) (hb : o.bad = [])
    (he : entryOf s (ownVcn s w.val) = some e) (h : ∀ k, e.record = some k → (e.frameSeq - k.seq).toNat < 2 ^ 31)
    (h0 : ruleCount s = 0) (hm : boundModel (sec s 0x0A) w.val = none) (x : WeirEnd) (shadowed bad : Bool) :
    ∃ (e' : VcnEntry) (k : Record), entryOf (electrodeRecord s w x shadowed bad o) (ownVcn s w.val) = some e' ∧ e'.record = some k ∧
      e'.skipped = 0 ∧ e'.frameSeq = e.frameSeq ∧ k.seq = e.frameSeq ∧ k.time = frameEnd s ∧ k.raw = rawField x.range x.raw ∧
      k.age = BitVec.ofNat 16 (min 0xFFFF e.skipped) ∧
      k.value = (if isFinite (electrodeValue s w x.range x.raw) = true then electrodeValue s w x.range x.raw else qnan) ∧
      (isValid k.status = true → s.ec[ecOf w].warmUntil = none ∧ x.ovr = false ∧ s.ec[ecOf w].compliance = false) := by
  rw [electrodeRecord_eq, hl, hb, emitRecord_agreeing, linearise_of_no_model (trimmedIndex_we w) hm]
  generalize electrodeValue s w x.range x.raw = y
  have hs := electrodeStatus_valid (s := s) (w := w) (x := x) (shadowed := shadowed) (bad := bad)
  generalize electrodeStatus s w x shadowed bad = b at hs
  refine ⟨_, _, ownRecord_entry he h h0 .., rfl, rfl, rfl, ?_⟩
  generalize hp : (if isFinite y = true then (y, b) else (qnan, { b with valid := false })) = p
  obtain ⟨hseq, htime, hvalue, hraw, hage, hvalid⟩ := lateForm_fields s (frameRecord s w.val e p.1 (rawField x.range x.raw) p.2)
  refine ⟨hseq, htime, hraw, hage, hvalue.trans ?_, fun hv => hs ?_⟩
  · rw [← hp]
    split <;> rfl
  · rw [hvalid] at hv
    have hw : p.2.valid = true := (isValid_word p.2).symm.trans hv
    rw [← hp] at hw
    split at hw
    · exact hw
    · cases hw

end Sys2Proof.Machine

namespace Sys2Proof.Machine

/-! What a boundary latches, when the shadow compares nothing: the Weirs whose frames end, and what every path's boundary is. -/

/-- Steps that a relation each allows, one after another. -/
theorem foldl_rel {α β : Type} (R : β → β → Prop) (refl : ∀ b, R b b) (trans : ∀ {a b c}, R a b → R b c → R a c) (f : β → α → β)
    (h : ∀ b a, R b (f b a)) (l : List α) (b : β) : R b (l.foldl f b) := by
  induction l generalizing b with
  | nil => exact refl b
  | cons a l ih => exact trans (h b a) (ih _)

/-- The same where the relation allows every step but that of `w`, which comes once. -/
theorem foldl_once {α β : Type} (R : β → β → Prop) (refl : ∀ b, R b b) (trans : ∀ {a b c}, R a b → R b c → R a c) (f : β → α → β) {w : α}
    {l : List α} (h : ∀ b, ∀ a ∈ l, a ≠ w → R b (f b a)) (hl : l.Nodup) (hw : w ∈ l) (b : β) : ∃ u, R b u ∧ R (f u w) (l.foldl f b) := by
  have rest (k : List α) (hk : ∀ a ∈ k, a ∈ l ∧ a ≠ w) (b : β) : R b (k.foldl f b) := by
    induction k generalizing b with
    | nil => exact refl b
    | cons a k ih =>
      obtain ⟨ha, hn⟩ := hk a List.mem_cons_self
      exact trans (h b a ha hn) (ih (fun c hc => hk c (List.mem_cons_of_mem a hc)) _)
  obtain ⟨l1, l2, rfl⟩ := List.append_of_mem hw
  rw [List.nodup_append] at hl
  obtain ⟨-, hl2, hd⟩ := hl
  rw [List.foldl_append, List.foldl_cons]
  refine ⟨l1.foldl f b, rest l1 (fun a ha => ⟨List.mem_append_left _ ha, hd a ha w List.mem_cons_self⟩) b, rest l2 (fun a ha => ?_) _⟩
  exact ⟨List.mem_append_right _ (List.mem_cons_of_mem w ha), fun e => (List.nodup_cons.1 hl2).1 (e ▸ ha)⟩

/-- From `s` to `t` nothing of `Quiet` changes but Weirs, tones and the sums of the node's own frame. -/
def Latched (s t : State) : Prop :=
  t.quiet = { s.quiet with weirs := t.weirs, tones := t.tones
                           thermal := { s.thermal with frameSum := t.thermal.frameSum, frameN := t.thermal.frameN } }

theorem Latched.refl (s : State) : Latched s s := rfl

theorem Latched.trans {s t u : State} (h : Latched s t) (k : Latched t u) : Latched s u := by
  have ht : t.thermal = { s.thermal with frameSum := t.thermal.frameSum, frameN := t.thermal.frameN } := congrArg Quiet.thermal h
  unfold Latched at *
  rw [k, h, ht]

theorem Latched.of_quiet {s t : State} (h : t.quiet = s.quiet) : Latched s t := by
  have hw : t.weirs = s.weirs := congrArg Quiet.weirs h
  have ht : t.tones = s.tones := congrArg Quiet.tones h
  have hm : t.thermal = s.thermal := congrArg Quiet.thermal h
  unfold Latched
  rw [h, hw, ht, hm]
  rfl

/-! What depends on the configuration and the mode alone. -/

theorem sec_congr {s t : State} (hc : t.config = s.config) : sec t = sec s := by
  funext id
  simp [sec, hc]

theorem pathUs_congr {s t : State} (hc : t.config = s.config) (hm : t.modes.mode = s.modes.mode) (w : Fin 23) : pathUs t w = pathUs s w := by
  simp [pathUs, pathMult, frameK, ecBlock, moxBlock, sec_congr hc, hm]

theorem rangeCtl_congr {s t : State} (hc : t.config = s.config) (w : Fin 23) : rangeCtl t w = rangeCtl s w := by
  simp [rangeCtl, ecBlock, moxBlock, sec_congr hc]

theorem onGrid_congr {s t : State} (h : t.time = s.time) (us : Nat) : onGrid t us = onGrid s us := by
  simp [onGrid, h]

theorem pathRuns_congr {s t : State} (hc : t.config = s.config) (hp : t.phase = s.phase) (hm : t.modes.mode = s.modes.mode) (he : t.ec = s.ec)
    (w : Fin 23) : pathRuns t w = pathRuns s w := by
  have hw : wePresent t = wePresent s := by
    funext e
    simp [wePresent, ecPresent, ecWe2, ecBlock, sec_congr hc]
  have hx : moxHeatsIn t = moxHeatsIn s := by
    funext m n
    simp [moxHeatsIn, moxPresent, moxWatch, cfgMoxOn, moxBlock, sec_congr hc]
  have ha : auxPresent t = auxPresent s := by
    funext n
    simp [auxPresent, auxBlock, sec_congr hc]
  simp [pathRuns, isActive, isRunning, anyAux, hp, hm, he, hw, hx, ha]

/-- What a boundary is to a path, by its Weir and the grid (R15, R181). -/
def turnHere (s : State) (o : BoundaryObs) (w : Fin 23) : PathTurn :=
  let x := s.weirs[w]
  if !pathRuns s w || !boundaryHere s (pathUs s w) x.frameClk then .stays
  else if !x.on then .starts
  else if x.dropFrame then .dropped
  else if w = 22 then .auxEnded
  else .ended (weirEnd s w (if w.val < 16 then 32 else 1) o.weirs[w]).2 (visitedNow s w) false

/-- The Weir of a path once its boundary is latched. -/
def weirHere (s : State) (o : BoundaryObs) (w : Fin 23) : Weir :=
  match turnHere s o w with
  | .ended _ _ _ => (weirEnd s w (if w.val < 16 then 32 else 1) o.weirs[w]).1.weirs[w]
  | _ => s.weirs[w]

/-- The latch of a path beside those of the others: they leave its Weir and what its boundary is to it. -/
def LatchedBeside (w : Fin 23) (a b : State × Vector PathTurn 23) : Prop :=
  Latched a.1 b.1 ∧ b.1.weirs[w] = a.1.weirs[w] ∧ b.2[w] = a.2[w]

theorem turnHere_congr {s t : State} (h : Latched s t) {w : Fin 23} (hw : t.weirs[w] = s.weirs[w]) (o : BoundaryObs) :
    turnHere t o w = turnHere s o w ∧ weirHere t o w = weirHere s o w := by
  have hc : t.config = s.config := congrArg (fun q => q.fixed.config) h
  have hp : t.phase = s.phase := congrArg (fun q => q.fixed.phase) h
  have hk : t.clk = s.clk := congrArg (fun q => q.fixed.clk) h
  have hf : t.cornerstone = s.cornerstone := congrArg (fun q => q.fixed.cornerstone) h
  have hm : t.modes = s.modes := congrArg Quiet.modes h
  have ht : t.time = s.time := congrArg Quiet.time h
  have hks : t.ks = s.ks := congrArg Quiet.ks h
  have he : (weirEnd t w (if w.val < 16 then 32 else 1) o.weirs[w]).2 = (weirEnd s w (if w.val < 16 then 32 else 1) o.weirs[w]).2 ∧
      (weirEnd t w (if w.val < 16 then 32 else 1) o.weirs[w]).1.weirs[w] = (weirEnd s w (if w.val < 16 then 32 else 1) o.weirs[w]).1.weirs[w] := by
    simp only [Fin.getElem_fin] at hw
    simp [weirEnd, hw, qCal, hf]
  have hturn : turnHere t o w = turnHere s o w := by
    unfold turnHere
    rw [pathRuns_congr hc hp (congrArg Modes.mode hm) (congrArg Quiet.ec h), pathUs_congr hc (congrArg Modes.mode hm), hw, he.1]
    simp only [boundaryHere, onGrid_congr ht, hk, visitedNow, hks]
    rfl
  refine ⟨hturn, ?_⟩
  unfold weirHere
  rw [hturn, he.2, hw]

theorem toneFeed_latched (s : State) (w : Fin 16) (r : Fin 4) (ovr : Bool) (l : List TonePacket) :
    Latched s (toneFeed s w r ovr l) ∧ (toneFeed s w r ovr l).weirs = s.weirs := by
  simp only [toneFeed]
  split <;> exact ⟨rfl, rfl⟩

/-- Latching one path: its Weir, and what the boundary is to it. -/
theorem latchPath_effect {o : BoundaryObs} {w : Fin 23} (hs : o.weirs[w].shadow = none) (a : State × Vector PathTurn 23) :
    Latched a.1 (latchPath o a w).1 ∧ (latchPath o a w).1.weirs = a.1.weirs.set w.val (weirHere a.1 o w) ∧
      (latchPath o a w).2 = if (turnHere a.1 o w).isStay then a.2 else a.2.set w.val (turnHere a.1 o w) := by
  obtain ⟨s, v⟩ := a
  have stays : s.weirs.set w.val s.weirs[w] = s.weirs := Vector.set_getElem_self w.isLt
  unfold latchPath weirHere turnHere
  dsimp only
  by_cases h1 : (!pathRuns s w || !boundaryHere s (pathUs s w) s.weirs[w].frameClk) = true
  · rw [if_pos h1, if_pos h1]
    exact ⟨.refl s, stays.symm, rfl⟩
  rw [if_neg h1, if_neg h1]
  by_cases h2 : (!s.weirs[w].on) = true
  · rw [if_pos h2, if_pos h2]
    exact ⟨.refl s, stays.symm, rfl⟩
  rw [if_neg h2, if_neg h2]
  by_cases h3 : s.weirs[w].dropFrame = true
  · rw [if_pos h3, if_pos h3]
    exact ⟨.refl s, stays.symm, rfl⟩
  rw [if_neg h3, if_neg h3]
  by_cases h4 : w = 22
  · rw [if_pos h4, if_pos h4]
    exact ⟨.refl s, stays.symm, rfl⟩
  rw [if_neg h4, if_neg h4, hs]
  simp only [shadowCompare]
  generalize (if w.val < 16 then 32 else 1 : Nat) = div
  have hw : (weirEnd s w div o.weirs[w]).1.weirs = s.weirs.set w.val (weirEnd s w div o.weirs[w]).1.weirs[w] := by
    simp [weirEnd]
  have hl : Latched s (weirEnd s w div o.weirs[w]).1 := rfl
  split
  · exact ⟨hl.trans (toneFeed_latched ..).1, (toneFeed_latched ..).2.trans hw, rfl⟩
  · exact ⟨hl, hw, rfl⟩

theorem LatchedBeside.refl (w : Fin 23) (a : State × Vector PathTurn 23) : LatchedBeside w a a := ⟨.refl _, rfl, rfl⟩

theorem LatchedBeside.trans {w : Fin 23} {a b c : State × Vector PathTurn 23} (h : LatchedBeside w a b) (k : LatchedBeside w b c) :
    LatchedBeside w a c := by
  obtain ⟨h1, h2, h3⟩ := h
  obtain ⟨k1, k2, k3⟩ := k
  exact ⟨h1.trans k1, k2.trans h2, k3.trans h3⟩

theorem latchPath_beside {o : BoundaryObs} {p w : Fin 23} (hs : o.weirs[p].shadow = none) (hp : p ≠ w) (a : State × Vector PathTurn 23) :
    LatchedBeside w a (latchPath o a p) := by
  obtain ⟨h1, h2, h3⟩ := latchPath_effect hs a
  have hv : p.val ≠ w.val := fun e => hp (Fin.ext e)
  refine ⟨h1, ?_, ?_⟩
  · rw [h2]
    exact Vector.getElem_set_ne p.isLt w.isLt hv
  · rw [h3]
    split
    · rfl
    · exact Vector.getElem_set_ne p.isLt w.isLt hv

@[simp] theorem toneClose_quiet (s : State) (ch : Fin 8) : (toneClose s ch).1.quiet = s.quiet := by
  have h : (toneResult s ch).1.quiet = s.quiet := by
    simp only [toneResult]
    split <;> rfl
  simp only [toneClose]
  split
  · rfl
  · exact h

theorem latchTone_quiet (v : Vector PathTurn 23) (a : State × Vector (Option ToneEnd) 8) (ch : Fin 8) : (latchTone v a ch).1.quiet = a.1.quiet := by
  simp only [latchTone]
  split
  · rfl
  · exact toneClose_quiet a.1 ch

theorem frameSums_latched (s : State) (v : Vector Int 8) (n : Nat) :
    Latched s { s with thermal := { s.thermal with frameSum := v, frameN := n } } := rfl

theorem readyMeans_latched (s : State) : Latched s (readyMeans s) ∧ (readyMeans s).weirs = s.weirs := by
  have draws (f : State → Fin 8 → State) (h : ∀ s i, Latched s (f s i) ∧ (f s i).weirs = s.weirs) (l : List (Fin 8)) :
      Latched s (l.foldl f s) ∧ (l.foldl f s).weirs = s.weirs :=
    foldl_rel (fun s t => Latched s t ∧ t.weirs = s.weirs) (fun s => ⟨.refl s, rfl⟩)
      (fun h k => ⟨h.1.trans k.1, k.2.trans h.2⟩) f h l s
  unfold readyMeans
  dsimp only
  split
  · generalize hf : (fun (s : State) (i : Fin 8) => _ : State → Fin 8 → State) = f
    obtain ⟨h1, h2⟩ := draws f (fun s i => by
      rw [← hf]
      exact ⟨(Latched.of_quiet (drawFree_quiet s)).trans (frameSums_latched ..), rfl⟩) (List.finRange 8)
    exact ⟨h1.trans (frameSums_latched ..), h2⟩
  · exact ⟨.refl s, rfl⟩

theorem eq_stays {t : PathTurn} (h : t.isStay = true) : t = .stays := by
  cases t <;> first | rfl | cases h

/-- Everything that ends at a boundary: what it is to a path, and its Weir. -/
theorem latchAll_path {o : BoundaryObs} (hs : ∀ w : Fin 23, o.weirs[w].shadow = none) (s : State) (w : Fin 23) :
    Latched s (latchAll s o).1 ∧ (latchAll s o).1.weirs[w] = weirHere s o w ∧ (latchAll s o).2.paths[w] = turnHere s o w := by
  obtain ⟨u, ⟨hu1, hu2, hu3⟩, hrest⟩ := foldl_once (LatchedBeside w) (.refl w) .trans (latchPath o) (fun a p _ hp => latchPath_beside (hs p) hp a)
    (List.nodup_finRange 23) (List.mem_finRange w) (s, Vector.replicate 23 .stays)
  obtain ⟨h1, h2, h3⟩ := latchPath_effect (hs w) u
  obtain ⟨hturn, hweir⟩ := turnHere_congr hu1 hu2 o
  unfold latchAll
  generalize (List.finRange 23).foldl (latchPath o) (s, Vector.replicate 23 .stays) = p at hrest ⊢
  obtain ⟨hr1, hr2, hr3⟩ := hrest
  have hl : Latched s p.1 := (hu1.trans h1).trans hr1
  have hw : p.1.weirs[w] = weirHere s o w := by
    rw [hr2, h2, hweir]
    exact Vector.getElem_set_self w.isLt
  have hv : p.2[w] = turnHere s o w := by
    rw [hr3, h3, hturn]
    split
    · next h =>
      rw [hu3, eq_stays h]
      exact Vector.getElem_replicate w.isLt
    · exact Vector.getElem_set_self w.isLt
  have hq := foldl_keeps (fun a : State × Vector (Option ToneEnd) 8 => a.1.quiet) (latchTone p.2) (latchTone_quiet p.2) (List.finRange 8)
    (p.1, Vector.replicate 8 none)
  dsimp only at hq ⊢
  generalize (List.finRange 8).foldl (latchTone p.2) (p.1, Vector.replicate 8 none) = q at hq ⊢
  have hqw : q.1.weirs = p.1.weirs := congrArg Quiet.weirs hq
  have hql : Latched s q.1 := hl.trans (.of_quiet hq)
  refine ⟨?_, ?_, hv⟩
  · split
    · exact hql.trans (readyMeans_latched q.1).1
    · exact hql
  · rw [← hw, ← hqw]
    split
    · exact congrArg (·[w]) (readyMeans_latched q.1).2
    · rfl

end Sys2Proof.Machine

namespace Sys2Proof.Machine

/-! What the turn of the frames leaves alone: what follows a frame's end (shadow, tone, burn-out periods, heaters, the node's own frame). -/

/-- A channel without what its tone and its frames write. -/
def EcChan.cell (c : EcChan) : EcChan :=
  { c with complianceTail := false, zOpen := false, zMagOut := false, zPhaseOut := false, zEpisode := false }

/-- The sums of the node's own frame left out. -/
def Thermal.frameless (t : Thermal) : Thermal := { t with frameSum := Vector.replicate 8 0, frameN := 0 }

/-- The parts of the state that the turn of the frames leaves alone but for the Weirs and the store's entries of the frames that turn. -/
structure Core where
  fixed : Fixed
  mode : Mode
  ec : Vector EcChan 8
  weirs : Vector Weir 23
  rail : Rail
  thermal : Thermal
  time : Time
  sluice : Vector Slot 128
  addr : Byte
  host : HostPort
  results : List (Vcn × VcnEntry)
  gate : Gate
  link : LinkTest

/-- Those parts of `Quiet`. -/
def Quiet.core (q : Quiet) : Core :=
  ⟨q.fixed, q.modes.mode, q.ec.map EcChan.cell, q.weirs, q.rail, q.thermal.frameless, q.time, q.sluice, q.addr, q.host, q.results, q.gate, q.link⟩

/-- Those parts of a state. -/
def State.core (s : State) : Core := s.quiet.core

theorem core_of_quiet {s t : State} (h : t.quiet = s.quiet) : t.core = s.core := congrArg Quiet.core h

/-- From `s` to `t` no fault has become active. -/
def NoNewFault (s t : State) : Prop := ∀ i, t.ks.active.getLsbD i = true → s.ks.active.getLsbD i = true

theorem NoNewFault.refl (s : State) : NoNewFault s s := fun _ => id

theorem NoNewFault.of_ks {s t : State} (h : t.ks = s.ks) : NoNewFault s t := fun i => by rw [h]; exact id

theorem NoNewFault.trans {s t u : State} (h : NoNewFault s t) (k : NoNewFault t u) : NoNewFault s u := fun i hi => h i (k i hi)

/-- From `s` to `t` frames turn: of `Core` only Weirs and entries change, none of those of the electrodes that `P` names, and no fault is new. -/
structure Turns (P : Fin 16 → Prop) (s t : State) : Prop where
  core : t.core = { s.core with weirs := t.weirs, results := t.results }
  faults : NoNewFault s t
  weir : ∀ w, P w → t.weirs[weirOfWe w] = s.weirs[weirOfWe w]
  entry : ∀ w : Fin 16, P w → entryOf t (ownVcn s w.val) = entryOf s (ownVcn s w.val)

theorem ownVcn_of_core {s t : State} {w : Vector Weir 23} {r : List (Vcn × VcnEntry)} (h : t.core = { s.core with weirs := w, results := r })
    (i : Nat) : ownVcn t i = ownVcn s i := ownVcn_congr (congrArg Core.fixed h) (congrArg Core.addr h) i

theorem Turns.refl (P : Fin 16 → Prop) (s : State) : Turns P s s := ⟨rfl, .refl s, fun _ _ => rfl, fun _ _ => rfl⟩

theorem Turns.trans {P : Fin 16 → Prop} {s t u : State} (h : Turns P s t) (k : Turns P t u) : Turns P s u where
  core := by rw [k.core, h.core]
  faults := h.faults.trans k.faults
  weir w hw := (k.weir w hw).trans (h.weir w hw)
  entry w hw := by
    have := k.entry w hw
    rw [ownVcn_of_core h.core] at this
    exact this.trans (h.entry w hw)

theorem Turns.mono {P Q : Fin 16 → Prop} {s t : State} (h : Turns P s t) (hQ : ∀ w, Q w → P w) : Turns Q s t :=
  ⟨h.core, h.faults, fun w hw => h.weir w (hQ w hw), fun w hw => h.entry w (hQ w hw)⟩

theorem Turns.of_core {P : Fin 16 → Prop} {s t : State} (h : t.core = s.core) (hk : NoNewFault s t) : Turns P s t where
  core := by
    rw [h, show t.weirs = s.weirs from congrArg Core.weirs h, show t.results = s.results from congrArg Core.results h]
    rfl
  faults := hk
  weir w _ := congrArg (fun c => c.weirs[weirOfWe w]) h
  entry w _ := entryOf_of_results (congrArg Core.results h) _

/-- A step that keeps all of `Core` and Keystone. -/
theorem Turns.of_core_ks {P : Fin 16 → Prop} {s t : State} (h : t.core = s.core) (hk : t.ks = s.ks) : Turns P s t := .of_core h (.of_ks hk)

theorem Turns.of_quiet {P : Fin 16 → Prop} {s t : State} (h : t.quiet = s.quiet) : Turns P s t :=
  .of_core_ks (core_of_quiet h) (congrArg Quiet.ks h)

/-! The shadow's visits end and begin. -/

/-- Clearing a fault touches Keystone and, where the cause of SAFE goes with it, the mode page. -/
theorem clearFault_turns (P : Fin 16 → Prop) (s : State) (code : Fin 28) : Turns P s (clearFault s code) := by
  have hk (t : State) (h : t.ks.active = s.ks.active &&& ~~~(BitVec.ofNat 32 (2 ^ code.val))) : NoNewFault s t := fun i hi => by
    rw [h, BitVec.getLsbD_and, Bool.and_eq_true] at hi
    exact hi.1
  unfold clearFault
  dsimp only
  split
  · unfold noteGone
    split <;> exact .of_core rfl (hk _ rfl)
  · exact .of_core rfl (hk _ rfl)

/-- A change of the visit under way. -/
theorem ks_turns (P : Fin 16 → Prop) (s : State) (k : Keystone) (h : k.active = s.ks.active) : Turns P s { s with ks := k } :=
  .of_core rfl fun i => by rw [show ({ s with ks := k } : State).ks.active = s.ks.active from h]; exact id

theorem visitPassed_turns (P : Fin 16 → Prop) (s : State) (w : Fin 23) : Turns P s (visitPassed s w) := by
  have clears (c : Prop) [Decidable c] (t : State) (code : Fin 28) : Turns P t (if c then clearFault t code else t) := by
    split
    · exact clearFault_turns P t code
    · exact .refl P t
  unfold visitPassed
  extract_lets bad _ u v
  have hu : Turns P s u := ks_turns P s _ rfl
  have hv : Turns P u v := clears ..
  exact (hu.trans hv).trans (clears ..)

theorem endVisit_turns (P : Fin 16 → Prop) (s : State) (w : Fin 23) : Turns P s (endVisit s w) := by
  unfold endVisit
  extract_lets k u _ v _
  have hu : Turns P s u := by
    unfold u
    split
    · exact ks_turns P s _ rfl
    · split
      · exact visitPassed_turns P s w
      · exact .refl P s
  have hv : Turns P s v := hu.trans (ks_turns P u _ rfl)
  split
  · exact hv
  · next p _ =>
    have hp : Turns P s { v with ks := { v.ks with path := p } } := hv.trans (ks_turns P v _ rfl)
    dsimp only
    split
    · exact hp.trans (ks_turns P _ _ rfl)
    · exact hp

theorem shadowTurn_turns (P : Fin 16 → Prop) (s : State) (w : Fin 23) : Turns P s (shadowTurn s w) := by
  unfold shadowTurn
  split
  · split
    · exact ks_turns P s _ rfl
    · exact endVisit_turns P s w
  · split
    · exact .refl P s
    · split
      · exact ks_turns P s _ rfl
      · exact .refl P s

/-! Tones. -/

theorem map_vmod {α β : Type} {n : Nat} (v : Vector α n) (i : Fin n) (f : α → α) (g : α → β) (h : ∀ a, g (f a) = g a) :
    (vmod v i f).map g = v.map g := by
  have hi : g v[i] = (v.map g)[i] := (Vector.getElem_map g i.isLt).symm
  unfold vmod
  rw [Vector.map_set, h, hi]
  exact Vector.set_getElem_self i.isLt

/-- A change of what tone and frames write of a channel. -/
theorem ec_turns (P : Fin 16 → Prop) (s : State) (ch : Fin 8) (f : EcChan → EcChan) (h : ∀ c, (f c).cell = c.cell) :
    Turns P s { s with ec := vmod s.ec ch f } := by
  refine .of_core_ks ?_ rfl
  show ({ s.core with ec := (vmod s.ec ch f).map EcChan.cell } : Core) = s.core
  rw [map_vmod _ _ _ _ h]
  rfl

theorem toneOpen_turns (P : Fin 16 → Prop) (s : State) (ch : Fin 8) (isOpen : Bool) : Turns P s (toneOpen s ch isOpen) := by
  unfold toneOpen
  extract_lets was u
  have hu : Turns P s u := ec_turns P s ch _ fun _ => rfl
  split
  · exact hu.trans (.of_quiet (raise_quiet ..))
  · exact hu

theorem toneBands_turns (P : Fin 16 → Prop) (s : State) (ch : Fin 8) (mag phase : Bool) : Turns P s (toneBands s ch mag phase) := by
  unfold toneBands
  extract_lets was u
  have hu : Turns P s u := ec_turns P s ch _ fun _ => rfl
  split
  · exact hu.trans (.of_quiet (raise_quiet ..))
  · exact hu

theorem toneTurn_turns (P : Fin 16 → Prop) (s : State) (ch : Fin 8) (dropped : Bool) (e : Option ToneEnd) : Turns P s (toneTurn s ch dropped e) := by
  have put (s : State) (t : Vector Tone 8) : Turns P s { s with tones := t } := .of_core_ks rfl rfl
  have finish (e : ToneEnd) : Turns P s (toneFinish s ch e) :=
    (toneOpen_turns P s ch e.openZ).trans ((toneBands_turns P _ ch _ _).trans (put _ _))
  unfold toneTurn
  dsimp only
  split
  · exact .refl P s
  · split
    · split
      · exact put s _
      · exact .refl P s
    · split
      · exact put s _
      · split
        · exact finish _
        · exact put s _

/-! Weirs and frame sequences. -/

/-- The entry of a VCN whose next frame starts (R670). -/
def startEntry (e : VcnEntry) : VcnEntry := { e with frameSeq := nextSeq e.frameSeq }

theorem entryOf_turnVcn (s : State) (idx : Nat) (v : Vcn) :
    entryOf (turnVcn s idx) v = if v = ownVcn s idx then (entryOf s v).map startEntry else entryOf s v :=
  entryOf_modEntry { s with cal := _ } (ownVcn s idx) v startEntry

/-- The frame of an index that is no electrode's that `P` names turns. -/
theorem turnVcn_turns {P : Fin 16 → Prop} (s : State) {idx : Nat} (hi : idx < 256) (h : ∀ w : Fin 16, P w → w.val ≠ idx) :
    Turns P s (turnVcn s idx) where
  core := rfl
  faults := .of_ks rfl
  weir _ _ := rfl
  entry w hw := by
    rw [entryOf_turnVcn, if_neg]
    exact fun e => h w hw (ownVcn_inj (by omega) hi e)

/-- A Weir of a path that is no electrode's that `P` names changes. -/
theorem weirs_turns {P : Fin 16 → Prop} (s : State) (p : Fin 23) (f : Weir → Weir) (h : ∀ w : Fin 16, P w → weirOfWe w ≠ p) :
    Turns P s { s with weirs := vmod s.weirs p f } where
  core := rfl
  faults := .of_ks rfl
  weir w hw := by
    show (vmod s.weirs p f)[weirOfWe w] = s.weirs[weirOfWe w]
    rw [vmod_get, if_neg (Ne.symm (h w hw))]
  entry _ _ := rfl

section
variable {P : Fin 16 → Prop} (s : State) (p : Fin 23) (h : ∀ w : Fin 16, P w → weirOfWe w ≠ p)
include h

theorem weirStart_turns : Turns P s (weirStart s p) := weirs_turns s p _ h
theorem weirTurn_turns (r : Fin 4) : Turns P s (weirTurn s p r) := weirs_turns s p _ h
theorem weirAfterStep_turns : Turns P s (weirAfterStep s p) := (weirs_turns s p _ h).trans (weirs_turns _ p _ h)

end

/-! Electrodes. -/

/-- The Weir of an electrode that turns. -/
def electrodeWeir (s : State) (w : Fin 16) : PathTurn → State
  | .stays | .auxEnded => s
  | .starts => weirStart s (weirOfWe w)
  | .dropped => weirAfterStep s (weirOfWe w)
  | .ended x _ _ => weirTurn s (weirOfWe w) (nextRange (rangeCtl s (weirOfWe w)) x (pathUs s (weirOfWe w)))

/-- The electrode's frame turns here. -/
def electrodeTurns : PathTurn → Bool
  | .stays | .auxEnded => false
  | _ => true

/-- What follows the turn of an electrode's Weir and of its frame sequence leaves every electrode's Weir and entry. -/
theorem electrodeTurn_after (s : State) (w : Fin 16) (t : PathTurn) (e : Option ToneEnd) (h : electrodeTurns t = true) :
    Turns (fun _ => True) (turnVcn (electrodeWeir s w t) w.val) (electrodeTurn s w t e) := by
  unfold electrodeTurn
  extract_lets f ch shared tail close
  have hshared (s : State) : Turns (fun _ => True) (turnVcn s w.val) (shared s) := by
    have hv : Turns (fun _ => True) (turnVcn s w.val) (shadowTurn (turnVcn s w.val) f) := shadowTurn_turns _ _ f
    unfold shared
    dsimp only
    split
    · exact hv.trans ((turnVcn_turns _ (by omega) (by omega)).trans (turnVcn_turns _ (by omega) (by omega)))
    · exact hv
  have htail (s : State) : Turns (fun _ => True) s (tail s) := by
    unfold tail
    split
    · exact ec_turns _ s ch _ fun _ => rfl
    · exact .refl _ s
  have hclose (s : State) (dropped : Bool) : Turns (fun _ => True) s (close s dropped) := by
    unfold close
    split
    · exact (htail s).trans (toneTurn_turns ..)
    · exact .refl _ s
  cases t with
  | stays | auxEnded => cases h
  | starts => exact (hshared _).trans (htail _)
  | dropped => exact (hshared _).trans (hclose _ true)
  | ended x sh bad => exact (hshared _).trans (hclose _ false)

theorem weirOfWe_inj {v w : Fin 16} (h : weirOfWe v = weirOfWe w) : v = w :=
  Fin.ext (congrArg (fun p : Fin 23 => p.val) h)

theorem electrodeWeir_turns (s : State) (w : Fin 16) (t : PathTurn) : Turns (fun v => v ≠ w) s (electrodeWeir s w t) := by
  have other (v : Fin 16) (hv : v ≠ w) : weirOfWe v ≠ weirOfWe w := fun e => hv (weirOfWe_inj e)
  cases t with
  | stays | auxEnded => exact .refl _ s
  | starts => exact weirStart_turns s _ other
  | dropped => exact weirAfterStep_turns s _ other
  | ended x sh bad => exact weirTurn_turns s _ other _

theorem electrodeTurn_stays (s : State) (w : Fin 16) {t : PathTurn} (e : Option ToneEnd) (h : electrodeTurns t = false) :
    electrodeTurn s w t e = s := by
  cases t <;> first | rfl | cases h

/-- The turn of an electrode leaves the other electrodes. -/
theorem electrodeTurn_turns (s : State) (w : Fin 16) (t : PathTurn) (e : Option ToneEnd) :
    Turns (fun v => v ≠ w) s (electrodeTurn s w t e) := by
  cases h : electrodeTurns t with
  | false =>
    rw [electrodeTurn_stays s w e h]
    exact .refl _ s
  | true =>
    have hv : Turns (fun v => v ≠ w) (electrodeWeir s w t) (turnVcn (electrodeWeir s w t) w.val) :=
      turnVcn_turns _ (by omega) fun v hv e => hv (Fin.ext e)
    exact ((electrodeWeir_turns s w t).trans hv).trans ((electrodeTurn_after s w t e h).mono fun _ _ => trivial)

/-! Films and AUX. -/

theorem burnTurn_turns (P : Fin 16 → Prop) (s : State) (i : BurnInput) : Turns P s (burnTurn s i) := .of_core_ks rfl rfl

theorem moxBoundary_turns (P : Fin 16 → Prop) (s : State) (n : Fin 6) : Turns P s (moxBoundary s n) := .of_core_ks rfl rfl

theorem weirOfFilm_ne (n : Fin 6) (w : Fin 16) : weirOfWe w ≠ weirOfFilm n := fun e => by
  have := congrArg Fin.val e
  simp only [weirOfWe, weirOfFilm] at this
  omega

theorem weirOfAux_ne (w : Fin 16) : weirOfWe w ≠ 22 := fun e => by
  have := congrArg Fin.val e
  simp only [weirOfWe] at this
  omega

theorem filmTurn_turns (s : State) (n : Fin 6) (t : PathTurn) : Turns (fun _ => True) s (filmTurn s n t) := by
  have other (w : Fin 16) (_ : True) := weirOfFilm_ne n w
  unfold filmTurn
  extract_lets f shared
  have hshared (s : State) : Turns (fun _ => True) s (shared s) :=
    ((turnVcn_turns s (by omega) (by omega)).trans (turnVcn_turns _ (by omega) (by omega))).trans (shadowTurn_turns _ _ f)
  have hburn (s : State) : Turns (fun _ => True) s (moxBoundary (burnTurn s (.film n)) n) := (burnTurn_turns _ s _).trans (moxBoundary_turns _ _ n)
  cases t with
  | stays | auxEnded => exact .refl _ s
  | starts => exact ((weirStart_turns s f other).trans (hshared _)).trans (moxBoundary_turns _ _ n)
  | dropped => exact ((weirAfterStep_turns s f other).trans (hshared _)).trans (hburn _)
  | ended x sh bad => exact ((weirTurn_turns s f other _).trans (hshared _)).trans (hburn _)

theorem auxCompliance_turns (P : Fin 16 → Prop) (s : State) (hit : Bool) : Turns P s (auxCompliance s hit) := by
  unfold auxCompliance
  split
  · exact .refl P s
  · next n _ =>
    have hu : Turns P s { s with aux := { s.aux with episode := hit } } := .of_core_ks rfl rfl
    dsimp only
    split
    · exact hu.trans (.of_quiet (raise_quiet ..))
    · exact hu

theorem auxPathTurn_turns (s : State) (o : BoundaryObs) (t : PathTurn) : Turns (fun _ => True) s (auxPathTurn s o t) := by
  have other (w : Fin 16) (_ : True) := weirOfAux_ne w
  unfold auxPathTurn
  extract_lets burns shared
  have hburns (s : State) : Turns (fun _ => True) s (burns s) :=
    foldl_rel _ (.refl _) .trans _ (fun s n => burnTurn_turns _ s (.aux n)) (auxInputs s) s
  have hshared (s : State) : Turns (fun _ => True) s (shared s) := by
    have hv : Turns (fun _ => True) s ((auxInputs s).foldl (fun s n => turnVcn s (0x20 + n.val)) s) :=
      foldl_rel _ (.refl _) .trans _ (fun s n => turnVcn_turns s (by omega) (by omega)) (auxInputs s) s
    refine (hv.trans ?_).trans (shadowTurn_turns _ _ 22)
    exact .of_core_ks rfl rfl
  cases t with
  | stays | ended => exact .refl _ s
  | starts => exact (weirStart_turns s 22 other).trans (hshared _)
  | dropped => exact ((weirAfterStep_turns s 22 other).trans (hburns _)).trans (hshared _)
  | auxEnded => exact (((auxCompliance_turns _ s _).trans (hburns _)).trans (weirTurn_turns _ 22 other 3)).trans (hshared _)

/-! A path, the node's own frame, a class frame's episode. -/

theorem pathOf_weirOfWe (w : Fin 16) : pathOf (weirOfWe w) = .electrode w := dif_pos w.isLt

theorem weirOfWe_of_pathOf {p : Fin 23} {w : Fin 16} (h : pathOf p = .electrode w) : weirOfWe w = p := by
  unfold pathOf at h
  split at h
  · cases h
    rfl
  · split at h <;> cases h

theorem pathTurn_turns (o : BoundaryObs) (g : Ending) (s : State) (p : Fin 23) : Turns (fun w => weirOfWe w ≠ p) s (pathTurn o g s p) := by
  unfold pathTurn
  split
  · next w h =>
    rw [← weirOfWe_of_pathOf h]
    exact (electrodeTurn_turns ..).mono fun v hv e => hv (e ▸ rfl)
  · exact (filmTurn_turns ..).mono fun _ _ => trivial
  · exact (auxPathTurn_turns ..).mono fun _ _ => trivial

theorem systemIndices_range : ∀ i ∈ systemIndices, 16 ≤ i ∧ i < 256 := by decide

theorem turnSystem_turns (s : State) : Turns (fun _ => True) s (turnSystem s) := by
  have sums (s : State) : Turns (fun _ => True) s { s with thermal := { s.thermal with frameSum := Vector.replicate 8 0, frameN := 0 } } :=
    .of_core_ks rfl rfl
  have turn (l : List Nat) (hl : ∀ i ∈ l, 16 ≤ i ∧ i < 256) (s : State) : Turns (fun _ => True) s (l.foldl turnVcn s) := by
    induction l generalizing s with
    | nil => exact .refl _ s
    | cons i l ih =>
      obtain ⟨h1, h2⟩ := hl i List.mem_cons_self
      exact (turnVcn_turns s h2 (by omega)).trans (ih (fun j hj => hl j (List.mem_cons_of_mem i hj)) _)
  have starts : Turns (fun _ => True) s { s with sysOn := true, sysDrop := false, sysClk := some s.clk } := .of_core_ks rfl rfl
  exact (starts.trans (turn systemIndices systemIndices_range _)).trans (sums _)

theorem systemEvent_turns (P : Fin 16 → Prop) (s : State) : Turns P s (systemEvent s) := by
  unfold systemEvent
  dsimp only
  (repeat' split) <;> exact .of_quiet rfl

theorem noteSystemFrame_turns (P : Fin 16 → Prop) (s : State) : Turns P s (noteSystemFrame s) := by
  unfold noteSystemFrame
  split <;> exact .of_quiet rfl

theorem ownTurn_turns (g : SystemTurn) (s : State) : Turns (fun _ => True) s (ownTurn g s) := by
  cases g with
  | stays => exact .refl _ s
  | starts | dropped => exact turnSystem_turns s
  | ended => exact ((noteSystemFrame_turns _ s).trans (systemEvent_turns _ _)).trans (turnSystem_turns _)

theorem episodeTurn_turns (s : State) : Turns (fun _ => True) s (episodeTurn s) := by
  unfold episodeTurn
  split
  · exact .of_quiet rfl
  · exact .refl _ s

end Sys2Proof.Machine

namespace Sys2Proof.Machine

/-! A whole FRAME_BOUNDARY in which neither shadow nor duplicates disagree, as one working electrode sees it. -/

/-- From `s` to `t` records are written: of `Quiet` entries alone change, and that of index `i` does not. -/
structure RecordsBeside (i : Nat) (s t : State) : Prop where
  quiet : t.quiet = { s.quiet with results := t.results }
  entry : entryOf t (ownVcn s i) = entryOf s (ownVcn s i)

theorem ownVcn_of_records {s t : State} {r : List (Vcn × VcnEntry)} (h : t.quiet = { s.quiet with results := r }) (i : Nat) :
    ownVcn t i = ownVcn s i := ownVcn_congr (congrArg Quiet.fixed h) (congrArg Quiet.addr h) i

theorem core_of_records {s t : State} {r : List (Vcn × VcnEntry)} (h : t.quiet = { s.quiet with results := r }) :
    t.core = { s.core with results := r } := congrArg Quiet.core h

theorem RecordsBeside.refl (i : Nat) (s : State) : RecordsBeside i s s := ⟨rfl, rfl⟩

theorem RecordsBeside.trans {i : Nat} {s t u : State} (h : RecordsBeside i s t) (k : RecordsBeside i t u) : RecordsBeside i s u where
  quiet := by rw [k.quiet, h.quiet]
  entry := by
    have := k.entry
    rw [ownVcn_of_records h.quiet] at this
    exact this.trans h.entry

theorem RecordsBeside.turns {w : Fin 16} {s t : State} (h : RecordsBeside w.val s t) : Turns (fun x => x = w) s t where
  core := by
    have hw : t.weirs = s.weirs := congrArg Quiet.weirs h.quiet
    rw [core_of_records h.quiet, hw]
    rfl
  faults := .of_ks (congrArg Quiet.ks h.quiet)
  weir _ _ := congrArg (fun q : Quiet => q.weirs[weirOfWe _]) h.quiet
  entry x hx := by
    subst hx
    exact h.entry

theorem EntryOnly.beside {s t : State} {i j : Nat} (h : EntryOnly (ownVcn s j) s t) (hij : i ≠ j) (hi : i < 256) (hj : j < 256) :
    RecordsBeside i s t := ⟨h.quiet, h.entry fun e => hij (ownVcn_inj hi hj e)⟩

/-- The record, if any, of a working electrode. -/
def electrodeEntry (o : BoundaryObs) (s : State) (w : Fin 16) : PathTurn → State
  | .dropped => skipOwn s w.val
  | .ended x sh bad => electrodeRecord s w x sh bad o
  | _ => s

theorem indexRecord_electrode (o : BoundaryObs) (g : Ending) (s : State) (w : Fin 16) :
    indexRecord o g s w.val = electrodeEntry o s w g.paths[weirOfWe w] := by
  unfold indexRecord
  rw [dif_pos w.isLt]
  show (match g.paths[weirOfWe w] with
    | .dropped => skipOwn s w.val
    | .ended e sh bad => electrodeRecord s w e sh bad o
    | _ => s) = _
  generalize g.paths[weirOfWe w] = t
  cases t <;> rfl

/-- The state in which a boundary has written its records and every frame that ends here has turned. -/
def boundaryTurned (s : State) (o : BoundaryObs) : State :=
  let g := (latchAll s o).2
  ownTurn g.system ((List.finRange 23).foldl (pathTurn o g) (episodeTurn (boundaryRecords o g (latchAll s o).1)))

/-- The change of reference that waits for the end of every frame. -/
def boundaryEnd (t : State) : State := if allEndHere t then switchRef t else t

theorem execFrameBoundary_turned (s : State) (o : BoundaryObs) :
    execFrameBoundary o s = .next (settle s (boundaryEnd (boundaryTurned s o))) := by
  unfold execFrameBoundary boundaryTurned
  generalize latchAll s o = a
  obtain ⟨l, g⟩ := a
  dsimp only
  generalize ownTurn g.system _ = t
  rfl

theorem settle_of_noNewFault {s t : State} (h : NoNewFault s t) : settle s t = t := by
  have h0 : t.ks.active &&& ~~~s.ks.active &&& cfgSafeMask t = 0 := by
    refine BitVec.eq_of_getLsbD_eq fun i hi => ?_
    have := h i
    cases ht : t.ks.active.getLsbD i <;> simp_all
  unfold settle
  rw [h0]
  simp

/-- From `s` to `u`, the moment of a record: `Quiet` but for what latching writes and the entries. -/
def RecordTime (s u : State) : Prop :=
  u.quiet = { s.quiet with weirs := u.weirs, tones := u.tones, results := u.results
                           thermal := { s.thermal with frameSum := u.thermal.frameSum, frameN := u.thermal.frameN } }

theorem Latched.recordTime {s t u : State} (h : Latched s t) (k : u.quiet = { t.quiet with results := u.results }) : RecordTime s u := by
  have hw : u.weirs = t.weirs := congrArg Quiet.weirs k
  have ht : u.tones = t.tones := congrArg Quiet.tones k
  have hm : u.thermal = t.thermal := congrArg Quiet.thermal k
  unfold RecordTime
  rw [k, h, hw, ht, hm]

theorem Latched.ownVcn {s t : State} (h : Latched s t) (i : Nat) : ownVcn t i = Machine.ownVcn s i :=
  ownVcn_congr (congrArg Quiet.fixed h) (congrArg Quiet.addr h) i

theorem RecordTime.core {s u : State} (h : RecordTime s u) : u.core = { s.core with weirs := u.weirs, results := u.results } := by
  unfold State.core
  rw [h]
  rfl

theorem RecordTime.ks {s u : State} (h : RecordTime s u) : u.ks = s.ks := congrArg Quiet.ks h

section
variable {s : State} {o : BoundaryObs} (hs : ∀ w : Fin 23, o.weirs[w].shadow = none) (hl : o.lin = []) (hb : o.bad = [])
include hs hl hb

theorem boundaryRecords_time : RecordTime s (boundaryRecords o (latchAll s o).2 (latchAll s o).1) :=
  (latchAll_path hs s 0).1.recordTime <|
    foldl_rel (fun s t : State => t.quiet = { s.quiet with results := t.results }) (fun _ => rfl) (fun h k => by rw [k, h])
      (indexRecord o (latchAll s o).2) (fun s i => (indexRecord_entryOnly hl hb _ s i).quiet) (List.range 0x90) _

/-- A boundary leaves `Core` but for Weirs and entries, and activates no fault. -/
theorem boundaryTurned_turns :
    (boundaryTurned s o).core = { s.core with weirs := (boundaryTurned s o).weirs, results := (boundaryTurned s o).results } ∧
      NoNewFault s (boundaryTurned s o) := by
  have hr := boundaryRecords_time (s := s) hs hl hb
  unfold boundaryTurned
  generalize latchAll s o = a at hr ⊢
  obtain ⟨l, g⟩ := a
  dsimp only at hr ⊢
  generalize boundaryRecords o g l = r at hr ⊢
  have paths (t : State) : Turns (fun _ => False) t ((List.finRange 23).foldl (pathTurn o g) t) :=
    foldl_rel _ (.refl _) .trans _ (fun s p => (pathTurn_turns o g s p).mono fun _ h => h.elim) _ t
  have ht : Turns (fun _ => False) r (ownTurn g.system ((List.finRange 23).foldl (pathTurn o g) (episodeTurn r))) :=
    ((episodeTurn_turns r).mono fun _ _ => trivial).trans ((paths _).trans ((ownTurn_turns _ _).mono fun _ _ => trivial))
  refine ⟨?_, (NoNewFault.of_ks hr.ks).trans ht.faults⟩
  rw [ht.core, hr.core]

theorem exec_frameBoundary : exec (.frameBoundary o) s = .next (boundaryEnd (boundaryTurned s o)) := by
  have he : NoNewFault s (boundaryEnd (boundaryTurned s o)) := by
    have ht := (boundaryTurned_turns (s := s) hs hl hb).2
    generalize boundaryTurned s o = t at ht ⊢
    unfold boundaryEnd
    split <;> exact ht
  have hx : exec (.frameBoundary o) s = execFrameBoundary o s := rfl
  rw [hx, execFrameBoundary_turned, settle_of_noNewFault he]

/-- A boundary as electrode `w` sees it: at its record, in `u`, its Weir is latched and its entry the old one; at its turn, in `v`, its record is
written; and nothing after either touches its Weir or entry. -/
theorem boundaryTurned_electrode (w : Fin 16) : ∃ (u v : State) (e : Option ToneEnd), RecordTime s u ∧
    u.weirs[weirOfWe w] = weirHere s o (weirOfWe w) ∧ entryOf u (ownVcn s w.val) = entryOf s (ownVcn s w.val) ∧
    Turns (fun x => x = w) (electrodeEntry o u w (turnHere s o (weirOfWe w))) v ∧
    Turns (fun x => x = w) (electrodeTurn v w (turnHere s o (weirOfWe w)) e) (boundaryTurned s o) := by
  obtain ⟨hlatch, hweir, hturn⟩ := latchAll_path hs s (weirOfWe w)
  unfold boundaryTurned
  generalize latchAll s o = a at hlatch hweir hturn ⊢
  obtain ⟨l, g⟩ := a
  dsimp only at hlatch hweir hturn ⊢
  obtain ⟨u, hu, hrecords⟩ := foldl_once (RecordsBeside w.val) (.refl _) .trans (indexRecord o g) (w := w.val) (l := List.range 0x90)
    (fun s i hi hw => (indexRecord_entryOnly hl hb g s i).beside (Ne.symm hw) (by omega) (by have := List.mem_range.1 hi; omega))
    List.nodup_range (List.mem_range.2 (by omega)) l
  rw [indexRecord_electrode, hturn] at hrecords
  change RecordsBeside w.val _ (boundaryRecords o g l) at hrecords
  generalize boundaryRecords o g l = r at hrecords ⊢
  obtain ⟨v, hv, hpaths⟩ := foldl_once (Turns fun x => x = w) (.refl _) .trans (pathTurn o g) (w := weirOfWe w) (l := List.finRange 23)
    (fun s p _ hp => (pathTurn_turns o g s p).mono fun x hx e => hp (hx ▸ e.symm)) (List.nodup_finRange 23) (List.mem_finRange _)
    (episodeTurn r)
  have hpath : pathTurn o g v (weirOfWe w) = electrodeTurn v w (turnHere s o (weirOfWe w)) g.tones[ecOf w] := by
    unfold pathTurn
    rw [pathOf_weirOfWe, hturn]
  rw [hpath] at hpaths
  have hr : Turns (fun x => x = w) (electrodeEntry o u w (turnHere s o (weirOfWe w))) r := hrecords.turns
  refine ⟨u, v, g.tones[ecOf w], hlatch.recordTime hu.quiet, ?_, ?_, ?_, ?_⟩
  · rw [← hweir, show u.weirs = l.weirs from congrArg Quiet.weirs hu.quiet]
  · have he := hu.entry
    rw [hlatch.ownVcn] at he
    exact he.trans (entryOf_of_results (congrArg Quiet.results hlatch) _)
  · exact (hr.trans ((episodeTurn_turns r).mono fun _ _ => trivial)).trans hv
  · exact hpaths.trans ((ownTurn_turns _ _).mono fun _ _ => trivial)

end

end Sys2Proof.Machine

namespace Sys2Proof.Machine

/-! The Weir and the entry of a working electrode after a boundary. -/

/-- A Weir whose frame starts at `clk`. -/
def startedWeir (clk : Nat) (x : Weir) : Weir :=
  { x with on := true, frameClk := some clk, dropFrame := false, ts4Sum := 0, ts4N := 0 }

/-- A Weir once its path has turned. -/
def turnedWeir (s : State) (p : Fin 23) (x : Weir) : PathTurn → Weir
  | .stays | .auxEnded => x
  | .starts => startedWeir s.clk x
  | .dropped => startedWeir s.clk { x with residue := none, carry := 0 }
  | .ended e _ _ => startedWeir s.clk { x with range := nextRange (rangeCtl s p) e (pathUs s p) }

theorem electrodeWeir_weir (s : State) (w : Fin 16) (t : PathTurn) :
    (electrodeWeir s w t).weirs[weirOfWe w] = turnedWeir s (weirOfWe w) s.weirs[weirOfWe w] t := by
  have at_ (v : Vector Weir 23) (f : Weir → Weir) : (vmod v (weirOfWe w) f)[weirOfWe w] = f v[weirOfWe w] := by
    rw [vmod_get, if_pos rfl]
  cases t with
  | stays | auxEnded => rfl
  | starts => exact at_ _ _
  | dropped => exact (at_ _ _).trans (congrArg (startedWeir s.clk) (at_ _ _))
  | ended x sh bad => exact at_ _ _

theorem electrodeTurn_weir (s : State) (w : Fin 16) (t : PathTurn) (e : Option ToneEnd) :
    (electrodeTurn s w t e).weirs[weirOfWe w] = turnedWeir s (weirOfWe w) s.weirs[weirOfWe w] t := by
  rw [← electrodeWeir_weir]
  cases h : electrodeTurns t with
  | false => cases t <;> first | rfl | cases h
  | true => exact (electrodeTurn_after s w t e h).weir w trivial

theorem electrodeTurn_entry (s : State) (w : Fin 16) {t : PathTurn} (e : Option ToneEnd) (h : electrodeTurns t = true) :
    entryOf (electrodeTurn s w t e) (ownVcn s w.val) = (entryOf s (ownVcn s w.val)).map startEntry := by
  have hw : ownVcn (electrodeWeir s w t) w.val = ownVcn s w.val := ownVcn_of_core (electrodeWeir_turns s w t).core _
  have hr : (electrodeWeir s w t).results = s.results := by cases t <;> rfl
  have he := (electrodeTurn_after s w t e h).entry w trivial
  have hv : ownVcn (turnVcn (electrodeWeir s w t) w.val) w.val = ownVcn (electrodeWeir s w t) w.val := rfl
  rw [hv, entryOf_turnVcn, if_pos rfl, hw, entryOf_of_results hr] at he
  exact he

theorem turnedWeir_congr {s t : State} (hk : t.clk = s.clk) (hc : t.config = s.config) (hm : t.modes.mode = s.modes.mode) (p : Fin 23) (x : Weir)
    (e : PathTurn) : turnedWeir t p x e = turnedWeir s p x e := by
  cases e <;> simp [turnedWeir, hk, rangeCtl_congr hc, pathUs_congr hc hm]

theorem electrodeEntry_quiet {o : BoundaryObs} (hl : o.lin = []) (hb : o.bad = []) (s : State) (w : Fin 16) (t : PathTurn) :
    (electrodeEntry o s w t).quiet = { s.quiet with results := (electrodeEntry o s w t).results } := by
  cases t with
  | stays | starts | auxEnded => rfl
  | dropped => exact (skipVcn_entryOnly s (ownVcn s w.val)).quiet
  | ended x sh bad => exact (electrodeRecord_entryOnly hl hb s w x sh bad).quiet

section
variable {s : State} {o : BoundaryObs} (hs : ∀ w : Fin 23, o.weirs[w].shadow = none) (hl : o.lin = []) (hb : o.bad = [])
include hs hl hb

theorem boundaryTurned_weir (w : Fin 16) :
    (boundaryTurned s o).weirs[weirOfWe w] = turnedWeir s (weirOfWe w) (weirHere s o (weirOfWe w)) (turnHere s o (weirOfWe w)) := by
  obtain ⟨u, v, e, hu, huw, -, hv, hafter⟩ := boundaryTurned_electrode hs hl hb (s := s) w
  have hq := electrodeEntry_quiet hl hb u w (turnHere s o (weirOfWe w))
  have hvw : v.weirs[weirOfWe w] = weirHere s o (weirOfWe w) :=
    (hv.weir w rfl).trans ((congrArg (fun q : Quiet => q.weirs[weirOfWe w]) hq).trans huw)
  have hcore : v.core = { s.core with weirs := v.weirs, results := v.results } := by
    rw [hv.core, core_of_records hq, hu.core]
  rw [hafter.weir w rfl, electrodeTurn_weir, hvw]
  exact turnedWeir_congr (congrArg (fun c => c.fixed.clk) hcore) (congrArg (fun c => c.fixed.config) hcore) (congrArg Core.mode hcore) ..

theorem boundaryTurned_entry (w : Fin 16) (ht : electrodeTurns (turnHere s o (weirOfWe w)) = true) : ∃ u, RecordTime s u ∧
    u.weirs[weirOfWe w] = weirHere s o (weirOfWe w) ∧ entryOf u (ownVcn s w.val) = entryOf s (ownVcn s w.val) ∧
    entryOf (boundaryTurned s o) (ownVcn s w.val) =
      (entryOf (electrodeEntry o u w (turnHere s o (weirOfWe w))) (ownVcn s w.val)).map startEntry := by
  obtain ⟨u, v, e, hu, huw, hue, hv, hafter⟩ := boundaryTurned_electrode hs hl hb (s := s) w
  have hq := electrodeEntry_quiet hl hb u w (turnHere s o (weirOfWe w))
  have h1 : ownVcn (electrodeEntry o u w (turnHere s o (weirOfWe w))) w.val = ownVcn s w.val :=
    (ownVcn_of_records hq _).trans (ownVcn_of_core hu.core _)
  have h2 : ownVcn v w.val = ownVcn s w.val := (ownVcn_of_core hv.core _).trans h1
  have h3 : ownVcn (electrodeTurn v w (turnHere s o (weirOfWe w)) e) w.val = ownVcn s w.val :=
    (ownVcn_of_core (electrodeTurn_turns v w _ e).core _).trans h2
  have hve := hv.entry w rfl
  have hte := electrodeTurn_entry v w e ht
  have hae := hafter.entry w rfl
  rw [h1] at hve
  rw [h2, hve] at hte
  rw [h3, hte] at hae
  exact ⟨u, hu, huw, hue, hae⟩

end

end Sys2Proof.Machine

namespace Sys2Proof.Machine

/-! ElectrodeFrames. -/

/-! What a boundary is to a path, by the state of its Weir. -/

theorem turnHere_stays {s : State} {p : Fin 23} (o : BoundaryObs)
    (h : pathRuns s p = false ∨ onGrid s (pathUs s p) = false ∨ s.weirs[p].frameClk = some s.clk) : turnHere s o p = .stays := by
  unfold turnHere boundaryHere
  refine if_pos ?_
  rcases h with h | h | h
  · rw [h]
    rfl
  · rw [h]
    simp
  · rw [h]
    simp

section
variable {s : State} {p : Fin 23} (o : BoundaryObs) (hr : pathRuns s p = true) (hg : onGrid s (pathUs s p) = true)
  (hc : s.weirs[p].frameClk ≠ some s.clk)
include hr hg hc

/-- At a boundary of its frames a path's frame does not go on. -/
theorem turnHere_boundary : turnHere s o p =
    if !s.weirs[p].on then .starts else if s.weirs[p].dropFrame then .dropped else if p = 22 then .auxEnded
    else .ended (weirEnd s p (if p.val < 16 then 32 else 1) o.weirs[p]).2 (visitedNow s p) false := by
  unfold turnHere boundaryHere
  refine if_neg ?_
  rw [hr, hg]
  simpa using hc

theorem turnHere_starts (hon : s.weirs[p].on = false) : turnHere s o p = .starts := by
  rw [turnHere_boundary o hr hg hc, hon]
  rfl

theorem turnHere_dropped (hon : s.weirs[p].on = true) (hd : s.weirs[p].dropFrame = true) : turnHere s o p = .dropped := by
  rw [turnHere_boundary o hr hg hc, hon, hd]
  rfl

end

theorem turnHere_ended {s : State} {w : Fin 16} (o : BoundaryObs) (hr : pathRuns s (weirOfWe w) = true)
    (hg : onGrid s (pathUs s (weirOfWe w)) = true) (hc : s.weirs[weirOfWe w].frameClk ≠ some s.clk) (hon : s.weirs[weirOfWe w].on = true)
    (hd : s.weirs[weirOfWe w].dropFrame = false) :
    turnHere s o (weirOfWe w) = .ended (weirEnd s (weirOfWe w) 32 o.weirs[weirOfWe w]).2 (visitedNow s (weirOfWe w)) false := by
  rw [turnHere_boundary o hr hg hc, hon, hd, if_neg (by decide), if_neg (by decide), if_neg (weirOfAux_ne w),
    if_pos (show (weirOfWe w).val < 16 from w.isLt)]

/-- The charge of a frame, in units of Q/32 with the carry of the one before (R181, R182, R184). -/
def frameUnits (x : Weir) (q : WeirObs) : Rat :=
  (((q.pos.toNat : Rat) - (q.neg.toNat : Rat)) * qNom x.range +
      (residueCharge x.range q.endCode - x.residue.getD (residueCharge x.range q.startCode))) / (qNom x.range / 32) +
    x.carry * qNom x.lastRange / qNom x.range

theorem weirEnd_units (s : State) (p : Fin 23) (q : WeirObs) :
    (weirEnd s p 32 q).2.raw = ratRNE (frameUnits s.weirs[p] q) ∧
      (weirEnd s p 32 q).1.weirs[p] = { s.weirs[p] with
        residue := some (residueCharge s.weirs[p].range q.endCode)
        carry := frameUnits s.weirs[p] q - (ratRNE (frameUnits s.weirs[p] q) : Rat), lastRange := s.weirs[p].range } := by
  unfold weirEnd frameUnits
  dsimp only
  rw [Nat.cast_ofNat]
  generalize s.weirs[p] = x
  cases x.residue with
  | none => exact ⟨rfl, Vector.getElem_set_self p.isLt⟩
  | some c => exact ⟨rfl, Vector.getElem_set_self p.isLt⟩

/-! The range of the next frame. -/

theorem spanReached_iff (hit : Bool) (code : BitVec 12) : spanReached hit code = true ↔ hit = true ∨ code = 0 ∨ code = 4095 := by
  simp [spanReached, or_assoc]

theorem nextRange_fixed {ctl : Nat} (h : bit ctl 4 = false) (e : WeirEnd) (us : Nat) : nextRange ctl e us = e.range := by
  unfold nextRange
  rw [h]
  rfl

theorem nextRange_auto {ctl : Nat} (h : bit ctl 4 = true) (hle : field ctl 0 2 ≤ field ctl 2 2) (e : WeirEnd) (us : Nat) :
    field ctl 0 2 ≤ (nextRange ctl e us).val ∧ (nextRange ctl e us).val ≤ field ctl 2 2 ∧
      (e.ovr = true → (nextRange ctl e us).val = field ctl 2 2) := by
  have h4 : field ctl 2 2 < 4 := Nat.mod_lt _ (by decide)
  have hclamp (want : Nat) : (toRange (max (field ctl 0 2) (min (field ctl 2 2) want))).val = max (field ctl 0 2) (min (field ctl 2 2) want) :=
    Nat.mod_eq_of_lt (by omega)
  unfold nextRange
  rw [h]
  simp only [Bool.not_true, Bool.false_eq_true, if_false, hclamp]
  refine ⟨by omega, by omega, fun ho => ?_⟩
  rw [if_pos ho]
  omega

/-! Stage 1 at the moment of a record. -/

/-- While no change of reference waits, stage 1 rests on the Cornerstone, the sensors and the frame's own mean of TS4 (R339). -/
theorem stage1_congr {s t : State} {p : Fin 23} (hf : t.cornerstone = s.cornerstone) (hm : t.thermal.mean = s.thermal.mean)
    (hb : t.thermal.broken = s.thermal.broken) (hsum : t.weirs[p].ts4Sum = s.weirs[p].ts4Sum) (hn : t.weirs[p].ts4N = s.weirs[p].ts4N)
    (ht : refPending t = false) (hs : refPending s = false) : stage1 t p = stage1 s p := by
  have hbad : sensorBad t = sensorBad s := by
    funext i
    simp [sensorBad, hb]
  have hts : frameTs4 t p = frameTs4 s p := by
    simp only [frameTs4, hsum, hn, sensorDegrees, sensorValue, hm, hbad]
  funext x
  simp only [stage1, hf, hts, ht, hs, Bool.false_eq_true, if_false]

theorem refPending_congr {s t : State} (hc : t.config = s.config) (hk : t.ks = s.ks) (ht : t.time = s.time) : refPending t = refPending s := by
  simp [refPending, wantedRef, cfgRefin, sec_congr hc, hk, ht]

theorem frameEnd_congr {s t : State} (hp : t.phase = s.phase) (hm : t.modes = s.modes) (ht : t.time = s.time) : frameEnd t = frameEnd s := by
  simp [frameEnd, inSafe, isRunning, onCount, wholeTime, gridTime, hp, hm, ht]

/-! The change of reference. -/

theorem boundaryEnd_eq (t : State) : boundaryEnd t =
    { t with time := { t.time with refExternal := (boundaryEnd t).time.refExternal, refBandgap := (boundaryEnd t).time.refBandgap } } := by
  unfold boundaryEnd
  split <;> rfl

@[simp] theorem boundaryEnd_weirs (t : State) : (boundaryEnd t).weirs = t.weirs := by
  rw [boundaryEnd_eq]

@[simp] theorem boundaryEnd_entry (t : State) (v : Vcn) : entryOf (boundaryEnd t) v = entryOf t v := by
  rw [boundaryEnd_eq]
  rfl

/-! The four parts of ElectrodeFrames. -/

theorem cell_fields {c d : EcChan} (h : c.cell = d.cell) : c.dac = d.dac ∧ c.target = d.target ∧ c.stage = d.stage ∧ c.shorted = d.shorted ∧
    c.warmUntil = d.warmUntil ∧ c.compliance = d.compliance := by
  simp only [EcChan.cell, EcChan.mk.injEq] at h
  obtain ⟨hdac, -, hshorted, hstage, -, -, htarget, -, hwarm, -, hcompliance, -⟩ := h
  exact ⟨hdac, htarget, hstage, hshorted, hwarm, hcompliance⟩

theorem eq_of_frameless {s t : Thermal} (h : t.frameless = s.frameless) : t = { s with frameSum := t.frameSum, frameN := t.frameN } :=
  congrArg (fun x : Thermal => { x with frameSum := t.frameSum, frameN := t.frameN }) h

section
variable {s : State} {o : BoundaryObs} (hs : ∀ w : Fin 23, o.weirs[w].shadow = none) (hl : o.lin = []) (hb : o.bad = [])
include hs hl hb

/-- What a boundary leaves alone. -/
theorem frameBoundary_frame : ∃ t, exec (.frameBoundary o) s = .next t ∧
    t = { s with freeCount := t.freeCount, sysOn := t.sysOn, sysDrop := t.sysDrop, sysClk := t.sysClk, modes := t.modes, ec := t.ec,
                 weirs := t.weirs, tones := t.tones, burns := t.burns, aux := t.aux, mox := t.mox, thermal := t.thermal, cal := t.cal,
                 spill := t.spill, mere := t.mere, time := t.time, course := t.course, events := t.events, results := t.results,
                 log := t.log, ks := t.ks } ∧
    t.modes.mode = s.modes.mode ∧ t.time = { s.time with refExternal := t.time.refExternal, refBandgap := t.time.refBandgap } ∧
    t.thermal = { s.thermal with frameSum := t.thermal.frameSum, frameN := t.thermal.frameN } ∧
    (∀ n : Fin 8, t.ec[n].dac = s.ec[n].dac ∧ t.ec[n].target = s.ec[n].target ∧ t.ec[n].stage = s.ec[n].stage ∧
      t.ec[n].shorted = s.ec[n].shorted ∧ t.ec[n].warmUntil = s.ec[n].warmUntil ∧ t.ec[n].compliance = s.ec[n].compliance) ∧
    (∀ w : Fin 16, pathRuns s (weirOfWe w) = false ∨ onGrid s (pathUs s (weirOfWe w)) = false ∨
      s.weirs[weirOfWe w].frameClk = some s.clk → t.weirs[weirOfWe w] = s.weirs[weirOfWe w]) := by
  refine ⟨_, exec_frameBoundary hs hl hb, ?_⟩
  have hw (w : Fin 16) := boundaryTurned_weir (s := s) hs hl hb w
  have hc := (boundaryTurned_turns (s := s) hs hl hb).1
  generalize boundaryTurned s o = u at hw hc ⊢
  have hfixed : u.fixed = s.fixed := congrArg Core.fixed hc
  have htime : u.time = s.time := congrArg Core.time hc
  have hrail : u.rail = s.rail := congrArg Core.rail hc
  have hsluice : u.sluice = s.sluice := congrArg Core.sluice hc
  have hhost : u.host = s.host := congrArg Core.host hc
  have hgate : u.gate = s.gate := congrArg Core.gate hc
  have hlink : u.link = s.link := congrArg Core.link hc
  have hthermal : u.thermal.frameless = s.thermal.frameless := congrArg Core.thermal hc
  have hec : u.ec.map EcChan.cell = s.ec.map EcChan.cell := congrArg Core.ec hc
  have hmode : u.modes.mode = s.modes.mode := congrArg Core.mode hc
  simp only [State.fixed, Fixed.mk.injEq] at hfixed
  obtain ⟨hpending, hcornerstone, hflash, hotp, hclk, hresetn, hrole, hphase, htest, hsupply, hboot, hconfig⟩ := hfixed
  rw [boundaryEnd_eq]
  refine ⟨?_, hmode, ?_, ?_, fun n => ?_, fun w hstays => ?_⟩
  · simp only [← hpending, ← hcornerstone, ← hflash, ← hotp, ← hclk, ← hresetn, ← hrole, ← hphase, ← htest, ← hsupply, ← hboot, ← hconfig,
      ← hrail, ← hsluice, ← hhost, ← hgate, ← hlink]
  · simp only [htime]
  · exact eq_of_frameless hthermal
  · have hn : u.ec[n].cell = s.ec[n].cell :=
      (Vector.getElem_map _ n.isLt).symm.trans ((congrArg (·[n]) hec).trans (Vector.getElem_map _ n.isLt))
    exact cell_fields hn
  · have ht := turnHere_stays o hstays
    refine (hw w).trans ?_
    unfold weirHere
    rw [ht]
    rfl

/-- The first boundary of a path that converts from now on. -/
theorem frameBoundary_starts {w : Fin 16} (hr : pathRuns s (weirOfWe w) = true) (hg : onGrid s (pathUs s (weirOfWe w)) = true)
    (hon : s.weirs[weirOfWe w].on = false) (hc : s.weirs[weirOfWe w].frameClk ≠ some s.clk) :
    (boundaryEnd (boundaryTurned s o)).weirs[weirOfWe w] = startedWeir s.clk s.weirs[weirOfWe w] := by
  have ht := turnHere_starts o hr hg hc hon
  rw [boundaryEnd_weirs, boundaryTurned_weir hs hl hb w]
  unfold weirHere
  rw [ht]
  rfl

/-- The boundary at which a frame that a Plumb step has cut ends. -/
theorem frameBoundary_dropped {w : Fin 16} {e : VcnEntry} (hr : pathRuns s (weirOfWe w) = true)
    (hg : onGrid s (pathUs s (weirOfWe w)) = true) (hon : s.weirs[weirOfWe w].on = true) (hc : s.weirs[weirOfWe w].frameClk ≠ some s.clk)
    (hd : s.weirs[weirOfWe w].dropFrame = true) (he : entryOf s (ownVcn s w.val) = some e) :
    entryOf (boundaryEnd (boundaryTurned s o)) (ownVcn s w.val) = some (startEntry (skipEntry e)) ∧
      (boundaryEnd (boundaryTurned s o)).weirs[weirOfWe w] =
        startedWeir s.clk { s.weirs[weirOfWe w] with residue := none, carry := 0 } := by
  have ht := turnHere_dropped o hr hg hc hon hd
  constructor
  · obtain ⟨u, hu, -, hue, hent⟩ := boundaryTurned_entry hs hl hb (s := s) w (by rw [ht]; rfl)
    have hv : ownVcn u w.val = ownVcn s w.val := ownVcn_of_core hu.core _
    have hq : (skipOwn u w.val).quiet = (modEntry u (ownVcn s w.val) skipEntry).quiet := by
      rw [← hv]
      exact skipVcn_quiet ..
    rw [boundaryEnd_entry, hent, ht]
    show (entryOf (skipOwn u w.val) _).map startEntry = _
    rw [entryOf_of_quiet hq, entryOf_modEntry, if_pos rfl, hue, he]
    rfl
  · rw [boundaryEnd_weirs, boundaryTurned_weir hs hl hb w]
    unfold weirHere
    rw [ht]
    rfl

/-- The boundary at which a whole frame ends: the Weir. -/
theorem frameBoundary_ended {w : Fin 16} (hr : pathRuns s (weirOfWe w) = true)
    (hg : onGrid s (pathUs s (weirOfWe w)) = true) (hon : s.weirs[weirOfWe w].on = true) (hc : s.weirs[weirOfWe w].frameClk ≠ some s.clk)
    (hd : s.weirs[weirOfWe w].dropFrame = false) :
    (boundaryEnd (boundaryTurned s o)).weirs[weirOfWe w] = { s.weirs[weirOfWe w] with
      range := nextRange (rangeCtl s (weirOfWe w)) (weirEnd s (weirOfWe w) 32 o.weirs[weirOfWe w]).2 (pathUs s (weirOfWe w))
      residue := some (residueCharge s.weirs[weirOfWe w].range o.weirs[weirOfWe w].endCode)
      carry := frameUnits s.weirs[weirOfWe w] o.weirs[weirOfWe w] - (ratRNE (frameUnits s.weirs[weirOfWe w] o.weirs[weirOfWe w]) : Rat)
      lastRange := s.weirs[weirOfWe w].range, frameClk := some s.clk, ts4Sum := 0, ts4N := 0 } := by
  have ht := turnHere_ended o hr hg hc hon hd
  have hw : weirHere s o (weirOfWe w) = (weirEnd s (weirOfWe w) 32 o.weirs[weirOfWe w]).1.weirs[weirOfWe w] := by
    unfold weirHere
    rw [ht, if_pos (show (weirOfWe w).val < 16 from w.isLt)]
  rw [boundaryEnd_weirs, boundaryTurned_weir hs hl hb w, hw, (weirEnd_units ..).2, ht]
  unfold turnedWeir startedWeir
  rw [← hon, ← hd]

/-- The boundary at which a whole frame ends: its record. -/
theorem frameBoundary_record {w : Fin 16} {e : VcnEntry} (hr : pathRuns s (weirOfWe w) = true)
    (hg : onGrid s (pathUs s (weirOfWe w)) = true) (hon : s.weirs[weirOfWe w].on = true) (hc : s.weirs[weirOfWe w].frameClk ≠ some s.clk)
    (hd : s.weirs[weirOfWe w].dropFrame = false) (he : entryOf s (ownVcn s w.val) = some e)
    (hseq : ∀ k, e.record = some k → (e.frameSeq - k.seq).toNat < 2 ^ 31) (h0 : ruleCount s = 0)
    (hm : boundModel (sec s 0x0A) w.val = none) (href : refPending s = false) :
    let raw := ratRNE (frameUnits s.weirs[weirOfWe w] o.weirs[weirOfWe w])
    let y := electrodeValue s w s.weirs[weirOfWe w].range raw
    ∃ (e' : VcnEntry) (k : Record), entryOf (boundaryEnd (boundaryTurned s o)) (ownVcn s w.val) = some e' ∧ e'.record = some k ∧
      e'.skipped = 0 ∧ e'.frameSeq = nextSeq e.frameSeq ∧ k.seq = e.frameSeq ∧ k.time = frameEnd s ∧
      k.raw = rawField s.weirs[weirOfWe w].range raw ∧ k.age = BitVec.ofNat 16 (min 0xFFFF e.skipped) ∧
      k.value = (if isFinite y = true then y else qnan) ∧
      (isValid k.status = true → s.ec[ecOf w].warmUntil = none ∧
        spanReached o.weirs[weirOfWe w].spanHit o.weirs[weirOfWe w].endCode = false ∧ s.ec[ecOf w].compliance = false) := by
  intro raw y
  have ht := turnHere_ended o hr hg hc hon hd
  obtain ⟨u, hu, huw, hue, hent⟩ := boundaryTurned_entry hs hl hb (s := s) w (by rw [ht]; rfl)
  have hv : ownVcn u w.val = ownVcn s w.val := ownVcn_of_core hu.core _
  have hconfig : u.config = s.config := congrArg (fun q => q.fixed.config) hu
  have hphase : u.phase = s.phase := congrArg (fun q => q.fixed.phase) hu
  have hcorner : u.cornerstone = s.cornerstone := congrArg (fun q => q.fixed.cornerstone) hu
  have hmodes : u.modes = s.modes := congrArg Quiet.modes hu
  have htime : u.time = s.time := congrArg Quiet.time hu
  have hec : u.ec = s.ec := congrArg Quiet.ec hu
  have hmean : u.thermal.mean = s.thermal.mean := congrArg (fun q => q.thermal.mean) hu
  have hbroken : u.thermal.broken = s.thermal.broken := congrArg (fun q => q.thermal.broken) hu
  have hweir : u.weirs[weirOfWe w] = (weirEnd s (weirOfWe w) 32 o.weirs[weirOfWe w]).1.weirs[weirOfWe w] := by
    rw [huw]
    unfold weirHere
    rw [ht, if_pos (show (weirOfWe w).val < 16 from w.isLt)]
  have hts := hweir.trans (weirEnd_units ..).2
  have hy : electrodeValue u w s.weirs[weirOfWe w].range raw = y := by
    have h1 : stage1 u (weirOfWe w) = stage1 s (weirOfWe w) :=
      stage1_congr hcorner hmean hbroken (by rw [hts]) (by rw [hts])
        ((refPending_congr hconfig hu.ks htime).trans href) href
    simp only [y, electrodeValue, h1, qCal, hcorner, pathUs_congr hconfig (congrArg Modes.mode hmodes)]
  obtain ⟨e', k, hent', hrec, hskip, hfseq, hk⟩ := electrodeRecord_entry hl hb (by rw [hv]; exact hue.trans he) hseq
    (by simpa [ruleCount, sec_congr hconfig] using h0) (by simpa [sec_congr hconfig] using hm)
    (weirEnd s (weirOfWe w) 32 o.weirs[weirOfWe w]).2 (visitedNow s (weirOfWe w)) false
  have hrange : (weirEnd s (weirOfWe w) 32 o.weirs[weirOfWe w]).2.range = s.weirs[weirOfWe w].range := rfl
  have hraw : (weirEnd s (weirOfWe w) 32 o.weirs[weirOfWe w]).2.raw = raw := (weirEnd_units ..).1
  rw [hrange, hraw, hy, frameEnd_congr hphase hmodes htime, hec] at hk
  rw [hv] at hent'
  refine ⟨startEntry e', k, ?_, hrec, hskip, congrArg nextSeq hfseq, hk⟩
  rw [boundaryEnd_entry, hent, ht]
  exact congrArg (Option.map startEntry) hent'

end

/-- Settles O22: latching, the records in ascending index and the turns each leave the other paths alone, so that an electrode's Weir and entry
come from its own latch, record and turn; and a boundary without a mismatch activates no fault, so that no SAFE follows. The grid of the frames
counts from the anchor of log 94, as `onGrid` has it. -/
theorem electrodeFrames : Obligations.ElectrodeFrames := by
  unfold Obligations.ElectrodeFrames
  refine ⟨fun s o hs hl hb => frameBoundary_frame hs hl hb, fun s w o hs hl hb hr hg hon hc => ?_,
    fun s w o e hs hl hb hr hg hon hc hd he => ?_, fun s w o hs hl hb hr hg hon hc hd => ?_⟩
  · exact ⟨_, exec_frameBoundary hs hl hb, frameBoundary_starts hs hl hb hr hg hon hc⟩
  · obtain ⟨hentry, hweir⟩ := frameBoundary_dropped hs hl hb hr hg hon hc hd he
    refine ⟨_, _, exec_frameBoundary hs hl hb, hentry, rfl, rfl, rfl, ?_⟩
    rw [hweir]
    exact ⟨rfl, rfl, rfl⟩
  · intro f x q r ctl charge units raw
    refine ⟨_, _, exec_frameBoundary hs hl hb, frameBoundary_ended hs hl hb hr hg hon hc hd, fun ha => nextRange_fixed ha _ _, fun ha hle => ?_,
      fun e he hseq h0 hm href => ?_⟩
    · obtain ⟨hlo, hhi, hover⟩ := nextRange_auto ha hle (weirEnd s f 32 q).2 (pathUs s f)
      exact ⟨hlo, hhi, fun h => hover ((spanReached_iff ..).2 h)⟩
    · obtain ⟨e', k, hentry, hrec, hskip, hfseq, hkseq, htime, hraw, hage, hvalue, hvalid⟩ :=
        frameBoundary_record hs hl hb hr hg hon hc hd he hseq h0 hm href
      refine ⟨e', k, hentry, hrec, hskip, hfseq, hkseq, htime, hraw, hage, hvalue, fun h => ?_⟩
      obtain ⟨hwarm, hspan, hcompliance⟩ := hvalid h
      exact ⟨hwarm, Bool.eq_false_iff.2 fun hit => Bool.eq_false_iff.1 hspan ((spanReached_iff ..).2 (.inl hit)), hcompliance⟩

end Sys2Proof.Machine

namespace Sys2Proof.Machine

/-! The ends of the warm resets (R44, R68, R70, R144). -/

/-- Where a warm reset's own condition is over, the identity page is filled only by a return to production test (R819). -/
theorem leaveReset_resetOver (s : State) : leaveReset s (resetOver s) =
    { s with
      boot := { s.boot with
        startClk := s.clk
        idValid := if s.supply.vddio && !s.supply.ioTimer && !s.resetnLow && s.testMode then s.cornerstone.ok else s.boot.idValid }
      phase := if !s.supply.vddio || s.supply.ioTimer then .reset .ioSupply
        else if s.resetnLow then .waitResetn else if s.testMode then .production else .footing } := by
  unfold leaveReset resetOver ioHolds afterReset
  cases s.supply.vddio <;> cases s.supply.ioTimer <;> cases s.resetnLow <;> cases s.testMode <;> rfl

/-- The same where VDDIO does not hold the device. -/
theorem leaveReset_afterReset (s : State) : leaveReset s (afterReset s) =
    { s with
      boot := { s.boot with startClk := s.clk, idValid := if !s.resetnLow && s.testMode then s.cornerstone.ok else s.boot.idValid }
      phase := if s.resetnLow then .waitResetn else if s.testMode then .production else .footing } := by
  unfold leaveReset afterReset
  cases s.resetnLow <;> cases s.testMode <;> rfl

/-- The watchdog, command and thermal resets last until 100 us after their start. -/
theorem execResetHoldEnd_eq {s : State} (h : s.phase = .reset .watchdog ∨ s.phase = .reset .command ∨ s.phase = .reset .thermal) :
    execResetHoldEnd s = .next (if s.modes.resetClk + 100 ≤ s.clk then leaveReset s (resetOver s) else s) := by
  unfold execResetHoldEnd
  rcases h with h | h | h <;> rw [h]

/-- The end of the IO supply's reset, once its timer has run. -/
theorem execIoResetRelease_over {s : State} (hp : s.phase = .reset .ioSupply) (hv : s.supply.vddio = true) (ht : s.supply.ioTimer = true)
    (hc : s.supply.ioFrom + releaseUs ≤ s.clk) :
    execIoResetRelease s =
      .next (leaveReset { s with supply := { s.supply with ioTimer := false } } (afterReset { s with supply := { s.supply with ioTimer := false } })) := by
  unfold execIoResetRelease
  rw [if_pos (by simp [hp, hv, ht, hc, inReset])]
  exact congrArg _ (if_pos hp)

theorem execWatchdogService_expected {s : State} (hr : isRunning s = true) (hw : s.ks.wdClk.isSome = true) :
    execWatchdogService s.ks.wdWord s =
      .next { s with ks := { s.ks with wdWord := if s.ks.wdWord = 0x5A then 0xA5 else 0x5A, wdClk := some s.clk } } := by
  unfold execWatchdogService
  rw [if_neg (by simp [hr, Option.isSome_iff_ne_none.1 hw]), if_pos rfl]

/-- Settles O14: where VDDIO no longer holds the device, each end is `leaveReset`. -/
theorem resetsEnd : Obligations.ResetsEnd := by
  refine ⟨fun s hp => ?resetn, fun s hp => ⟨fun ht => ?early, fun ht => ?late⟩, fun s hp hv ht hc => ?io,
    fun s hr hw => execWatchdogService_expected hr hw⟩
  case resetn =>
    refine (if_pos hp : execResetnRelease s = _).trans ?_
    rw [leaveReset_resetOver]
    simp
  case early =>
    refine (execResetHoldEnd_eq hp).trans ?_
    rw [if_neg (by omega)]
  case late =>
    refine (execResetHoldEnd_eq hp).trans ?_
    rw [if_pos ht, leaveReset_resetOver]
  case io =>
    refine (execIoResetRelease_over hp hv ht hc).trans ?_
    rw [leaveReset_afterReset]

end Sys2Proof.Machine

namespace Sys2Proof.Machine

/-! The power-on reset (R42, R60, R64). -/

/-- A falling VDD changes what Plumb's count rests on, and stops it unless a declared crystal runs (R60). -/
theorem vddFalls_time (s : State) : vddFalls s = { s with time := (vddFalls s).time } ∧ (vddFalls s).time.count = s.time.count ∧
    (vddFalls s).time.era = s.time.era ∧
    (vddFalls s).time.counting = (s.time.counting && (s.time.xtal && !s.time.xtalStopped)) := by
  unfold vddFalls
  dsimp only
  split
  · next h => exact ⟨rfl, rfl, rfl, by rw [h]; exact (Bool.and_true _).symm⟩
  · next h => exact ⟨rfl, rfl, rfl, by rw [Bool.eq_false_iff.2 h]; exact (Bool.and_false _).symm⟩

/-- The supplies once the power-on reset has asserted for a supply. -/
def porSupply (rail : VddRail) (p : Supply) : Supply :=
  { p with vdd := p.vdd && rail != .vdd, vdda := p.vdda && rail != .vdda, releaseTimer := false, ioTimer := false, coreRunning := false
           above36 := false }

/-- The state at the assertion, before the power-on reset's own effect. -/
def porBegun (rail : VddRail) (s : State) : State :=
  { (if rail = .vdd then vddFalls s else s) with supply := porSupply rail s.supply }

theorem porBegun_time (rail : VddRail) (s : State) :
    porBegun rail s = { s with supply := porSupply rail s.supply, time := (porBegun rail s).time } ∧
      (porBegun rail s).time.count = s.time.count ∧ (porBegun rail s).time.era = s.time.era ∧
      (porBegun rail s).time.counting = (s.time.counting && (rail != .vdd || (s.time.xtal && !s.time.xtalStopped))) := by
  unfold porBegun
  cases rail with
  | vdd =>
    obtain ⟨h1, h2, h3, h4⟩ := vddFalls_time s
    rw [if_pos rfl]
    exact ⟨by rw [h1], h2, h3, h4⟩
  | vdda => exact ⟨rfl, rfl, rfl, (Bool.and_true _).symm⟩

/-- VDD_POR_ASSERT, by the phase: the reset's effect, or within it only the supply's fall. -/
theorem execVddPorAssert_eq (rail : VddRail) (s : State) : execVddPorAssert rail s =
    if s.phase = .porHold then .next (porBegun rail s)
    else .next { powerReset (porBegun rail s) with spill :=
      { (powerReset (porBegun rail s)).spill with aout := (powerReset (porBegun rail s)).spill.aout.map fun o => { o with driven := false } } } := by
  have hp : (if rail = .vdd then vddFalls s else s).phase = s.phase := by
    split
    · rw [(vddFalls_time s).1]
    · rfl
  have hv (p : Supply) : porSupply .vdd p =
      { p with vdd := false, releaseTimer := false, ioTimer := false, coreRunning := false, above36 := false } := by
    simp [porSupply]
  have ha (p : Supply) : porSupply .vdda p =
      { p with vdda := false, releaseTimer := false, ioTimer := false, coreRunning := false, above36 := false } := by
    simp [porSupply]
  unfold execVddPorAssert porBegun
  dsimp only
  rw [hp]
  cases rail with
  | vdd => rw [hv]
  | vdda => rw [ha]

/-- What a power-on reset leaves is said of Plumb's count and era alone. -/
theorem PowerResetFrom.of_time {s t : State} {x : Time} (h : PowerResetFrom { s with time := x } t) (hc : x.count = s.time.count)
    (he : x.era = s.time.era) : PowerResetFrom s t := by
  simpa only [PowerResetFrom, hc, he] using h

/-- Settles O12: the power-on reset's law at the state in which VDD or VDDA has fallen; the AO reset is its own equation. -/
theorem powerOnAndAoResets : Obligations.PowerOnAndAoResets := by
  refine ⟨fun s rail hp => ?assert, fun s rail hp => ?within, fun s => rfl⟩
  case assert =>
    have h := powerReset_from (porBegun rail s)
    obtain ⟨ht, hc, he, -⟩ := porBegun_time rail s
    refine ⟨_, (execVddPorAssert_eq rail s).trans (if_neg hp), ?_, fun n => by simp⟩
    generalize powerReset (porBegun rail s) = t at h ⊢
    rw [ht] at h
    exact h.of_time hc he
  case within =>
    obtain ⟨ht, hc, he, hn⟩ := porBegun_time rail s
    exact ⟨_, (execVddPorAssert_eq rail s).trans (if_pos hp), ht, hc, he, hn, rfl, rfl, rfl⟩

end Sys2Proof.Machine

namespace Sys2Proof.Machine

/-! The starts of the warm resets (R143 - R149, R757, R758). -/

theorem watchdogReset_from (s : State) : WarmResetFrom .watchdog 4 s (watchdogReset s) := startReset_from _ .watchdog

theorem execWatchdogExpiry_over {s : State} {c : Nat} (hr : isRunning s = true) (hw : s.ks.wdClk = some c) (hc : c + watchdogUs s ≤ s.clk) :
    execWatchdogExpiry s = .next (watchdogReset s) :=
  congrArg _ (if_pos (by simp [hr, hw, hc]))

theorem execWatchdogService_wrong {s : State} {word : Byte} (hr : isRunning s = true) (hw : s.ks.wdClk.isSome = true)
    (hx : word ≠ s.ks.wdWord) : execWatchdogService word s = .next (watchdogReset s) := by
  unfold execWatchdogService
  rw [if_neg (by simp [hr, Option.isSome_iff_ne_none.1 hw]), if_neg hx]

theorem execFootingLimit_over {s : State} (hp : s.phase = .footing ∨ s.phase = .loaded) (hc : s.boot.startClk + 3000000 ≤ s.clk) :
    execFootingLimit s = .next (watchdogReset s) :=
  congrArg _ (if_pos ⟨hp, hc⟩)

/-- A RESET that the port takes with a CAL session open: the reset follows the OK that was returned (R145). -/
theorem execReset_ready {s : State} {f : HostFrame} (h : CommandReady s f 0x02 [] 0) (hc : hasCal (sessionActivity s) = true) :
    execReset f s = .next (resetAfterResponse (replied (sessionActivity s) f 0x02 stOk)) := by
  have hr : commandFrame s f 0x02 [] (argCount 0) (fun s _ => if !hasCal s then (stLocked, s) else (stOk, s)) =
      replied (sessionActivity s) f 0x02 stOk := by
    rw [commandFrame_ready h rfl]
    simp [hc]
  obtain ⟨ha, hf, -⟩ := h
  unfold execReset
  dsimp only
  rw [hr, show (replied (sessionActivity s) f 0x02 stOk).host.response.head? = some stOk from replied_answered .., ha, hf]
  rfl

/-- What a warm reset leaves is said of no response. -/
theorem resetAfterResponse_from (s : State) : WarmResetFrom .command 5 s (resetAfterResponse s) := startReset_from s .command

/-- Settles O13: each start is `startReset` of its kind, on the state in which the pin, the supply or the answer stands. -/
theorem warmResetsStart : Obligations.WarmResetsStart := by
  exact ⟨fun s hp => ⟨_, if_neg hp, startReset_from _ .pin⟩, fun s hp => if_pos hp,
    fun s hp => ⟨_, if_neg hp, startReset_from _ .ioSupply⟩, fun s hp => if_pos hp,
    fun s c hr hw hc => ⟨_, execWatchdogExpiry_over hr hw hc, watchdogReset_from s⟩,
    fun s word hr hw hx => ⟨_, execWatchdogService_wrong hr hw hx, watchdogReset_from s⟩,
    fun s hp hc => ⟨_, execFootingLimit_over hp hc, watchdogReset_from s⟩,
    fun s f h hc => ⟨_, execReset_ready h hc, resetAfterResponse_from _, replied_answered (sessionActivity s) f 0x02 stOk⟩⟩

end Sys2Proof.Machine

namespace Sys2Proof.Machine

/-! VIN's monitor: lockout and its end (R62, R318). -/

/-- The state once VIN's lockout has begun: rail, chain power and heaters off; outside a mode one more EV10 waits for handover. -/
def uvloOff (s : State) : State :=
  { s with
    supply := { s.supply with vin := false }
    rail := { (railOff s).rail with kept := s.rail.kept, lockout := true, uvloDue := s.rail.uvloDue + if isRunning s then 0 else 1 }
    thermal := (railOff s).thermal
    mox := s.mox.map dutyOff }

/-- The start of an episode of VIN_UVLO with VDD up. -/
theorem execVinUvlo_start {s : State} (hv : s.supply.vdd = true) (h : s.supply.vin = true ∨ s.rail.lockout = false) :
    execVinUvlo s = .next (if isRunning s then raise (uvloOff s) 10 (0xFF + 256 * 4) else uvloOff s) := by
  have hn : ¬(!s.supply.vin && s.rail.lockout) = true := by
    rcases h with h | h <;> simp [h]
  exact (if_neg hn).trans (if_neg (by simp [hv]))

/-- Within the episode nothing follows. -/
theorem execVinUvlo_again {s : State} (hv : s.supply.vin = false) (hl : s.rail.lockout = true) : execVinUvlo s = .next s :=
  if_pos (by simp [hv, hl])

theorem uvloOff_off (s : State) : (uvloOff s).rail.state = .off ∧ (∀ n : Fin 2, (uvloOff s).rail.sw[n].state = .off) ∧
    ∀ n : Fin 6, (uvloOff s).mox[n].duty = 0 :=
  ⟨rfl, fun n => by simp [uvloOff, railOff], fun n => by simp [uvloOff, dutyOff]⟩

/-- The request of a rail touches rail, rates and, where code 0x14 goes with the restart (R312), the fault it clears; a wanted one begins its
phase check. -/
theorem railBegin_changes (s : State) :
    railBegin s = { s with rail := (railBegin s).rail, thermal := (railBegin s).thermal, ks := (railBegin s).ks, modes := (railBegin s).modes } ∧
      (railBegin s).rail.lockout = s.rail.lockout ∧
      (railWanted s = true → s.rail.state = .off → (railBegin s).rail.state = .phaseCheck) := by
  unfold railBegin
  split
  · extract_lets _ _ u
    split
    · have hc := clearFault_clear u 0x14
      unfold ClearOnly at hc
      rw [hc]
      exact ⟨rfl, rfl, fun _ _ => rfl⟩
    · exact ⟨rfl, rfl, fun _ _ => rfl⟩
  · next h => exact ⟨rfl, rfl, fun hw hs => absurd (by simp [hw, hs]) h⟩

/-! Ratio outputs without VRATIO (R65, R434). -/

/-- From `s` to `t` only Spillway's outputs change, and of a ratio output neither power nor fault mark. -/
def OutputsOnly (s t : State) : Prop :=
  t = { s with spill := t.spill } ∧
    ∀ n : Fin 2, t.spill.aout[n].driven = s.spill.aout[n].driven ∧ t.spill.aout[n].fault = s.spill.aout[n].fault

theorem OutputsOnly.trans {s t u : State} (h : OutputsOnly s t) (k : OutputsOnly t u) : OutputsOnly s u := by
  refine ⟨?_, fun n => ⟨(k.2 n).1.trans (h.2 n).1, (k.2 n).2.trans (h.2 n).2⟩⟩
  have h := h.1
  have k := k.1
  rw [k, h]

theorem PinsOnly.outputs {s t : State} (h : PinsOnly s t) : OutputsOnly s t := by
  obtain ⟨h1, h2⟩ := h
  refine ⟨by rw [h1], fun n => ?_⟩
  obtain ⟨hd, hf, -⟩ := h2 n
  exact ⟨hd, hf⟩

theorem endHold_outputs (s : State) (n : Fin 2) : OutputsOnly s (endHold s n) := by
  refine ⟨rfl, fun m => ?_⟩
  unfold endHold
  dsimp only
  rw [vmod_get]
  split <;> exact ⟨rfl, rfl⟩

theorem aoutsChanged_outputs (s : State) : OutputsOnly s (aoutsChanged s) :=
  ((endHold_outputs s 0).trans (endHold_outputs _ 1)).trans ((refreshAout_pins _ 0).trans (refreshAout_pins _ 1)).outputs

theorem OutputsOnly.supply {s t : State} (h : OutputsOnly s t) : t.supply = s.supply := by rw [h.1]

/-- An output is marked as faulted and, if it was `powered`, in the low fault band, VRATIO being low. -/
structure RatioFaulted (powered : Prop) (s : State) (n : Fin 2) : Prop where
  vratio : s.supply.vratio = false
  fault : s.spill.aout[n].fault = true
  code : powered → s.spill.aout[n].code = lowBand

/-- Without VRATIO the table's row is the low fault band. -/
theorem aoutTarget_of_no_vratio {s : State} (h : s.supply.vratio = false) (n : Fin 2) : aoutTarget s n = lowBand := by
  unfold aoutTarget
  simp [h]

/-- A powered output that is brought to its row without VRATIO steps into the low fault band; the other keeps its code. -/
theorem refreshAout_code {s : State} (h : s.supply.vratio = false) (n m : Fin 2) :
    (refreshAout s n).spill.aout[m].code = if n = m ∧ s.spill.aout[m].driven = true then lowBand else s.spill.aout[m].code := by
  unfold refreshAout
  by_cases hd : s.spill.aout[n].driven = true
  · rw [if_neg (by simp [hd, -Fin.getElem_fin]), aoutTarget_of_no_vratio h]
    dsimp only
    rw [vmod_get]
    by_cases hm : n = m
    · subst hm
      simp [hd, inBand, -Fin.getElem_fin]
    · rw [if_neg hm, if_neg fun e => hm e.1]
  · rw [if_pos (by simpa using hd), if_neg]
    rintro ⟨rfl, e⟩
    exact hd e

/-- Bringing an output to its row leaves a faulted output so. -/
theorem RatioFaulted.refreshAout {p : Prop} {s : State} {m : Fin 2} (h : RatioFaulted p s m) (n : Fin 2) : RatioFaulted p (refreshAout s n) m := by
  obtain ⟨ho, hk⟩ := (refreshAout_pins s n).outputs
  refine ⟨?_, (hk m).2.trans h.fault, fun e => ?_⟩
  · rw [ho]
    exact h.vratio
  · rw [refreshAout_code h.vratio]
    split
    · rfl
    · exact h.code e

theorem RatioFaulted.of_eq {p : Prop} {s t : State} {n : Fin 2} (h : RatioFaulted p s n) (hs : t.supply = s.supply) (ha : t.spill.aout = s.spill.aout) :
    RatioFaulted p t n :=
  ⟨by rw [hs]; exact h.vratio, by rw [ha]; exact h.fault, by rw [ha]; exact h.code⟩

theorem refreshPin_aout (s : State) (pin : Fin 2) : (refreshPin s pin).spill.aout = s.spill.aout := by
  unfold refreshPin writePin
  (repeat' split) <;> rfl

theorem RatioFaulted.refreshOutputs {p : Prop} {s : State} {n : Fin 2} (h : RatioFaulted p s n) : RatioFaulted p (refreshOutputs s) n := by
  have hp : RatioFaulted p (refreshPin (refreshPin s 0) 1) n :=
    h.of_eq (((refreshPin_pins s 0).trans (refreshPin_pins _ 1)).outputs.supply) ((refreshPin_aout _ 1).trans (refreshPin_aout s 0))
  exact (hp.refreshAout 0).refreshAout 1

/-! An entry to SAFE as the ratio outputs see it: only the outputs' own refresh writes Spillway. -/

theorem LogOnly.spill {s t : State} (h : LogOnly s t) : t.spill = s.spill := by
  unfold LogOnly at h
  rw [h]

theorem stopForSafe_spill (s : State) : (stopForSafe s).spill = s.spill := by
  have hd : (dropRequests s).spill = s.spill := by
    unfold dropRequests
    dsimp only
    split <;> rfl
  have hg (s : State) : (gateMere s).spill = s.spill := by
    unfold gateMere
    split <;> rfl
  have hs (s : State) : (staleRecords (stopHeaters (stopConversions s))).spill = s.spill := rfl
  unfold stopForSafe
  rw [hg, hs, hd]

theorem completeMode_spill (s : State) (new : Mode) (cause : Nat) : (completeMode s new cause).spill = s.spill := by
  have hr : (rorEnter s new).spill = s.spill := by
    unfold rorEnter
    split <;> rfl
  unfold completeMode
  exact ((logGeneral_log (.refl _) ..).spill).trans hr

theorem safeRail_spill (s : State) : (safeRail s).spill = s.spill := by
  unfold safeRail
  split
  · rfl
  · dsimp only
    split
    · exact (logGeneral_log (.refl _) ..).spill
    · rfl

theorem dropRun_spill (s : State) : (dropRun s).spill = s.spill := by
  have hc : (calReject s stNotInMode).spill = s.spill := by
    unfold calReject
    split <;> rfl
  unfold dropRun
  dsimp only
  split
  · exact hc
  · rfl

theorem endSessions_spill (s : State) (bits k : Nat) : (endSessions s bits (some k)).spill = s.spill := by
  rw [(endSessions_ended s bits k).1]

theorem RatioFaulted.enterSafe {p : Prop} {s : State} {n : Fin 2} (h : RatioFaulted p s n) (cause : Nat) : RatioFaulted p (enterSafe s cause) n := by
  unfold Machine.enterSafe
  dsimp only
  split
  · exact h
  · have h0 : RatioFaulted p (if cause = 0 then s else addCause s cause) n := by
      split
      · exact h
      · exact h.of_eq rfl rfl
    generalize (if cause = 0 then s else addCause s cause) = a at h0
    split
    · exact h0.of_eq (congrArg Fixed.supply (safeRail_fixed a)) (congrArg Spill.aout (safeRail_spill a))
    · refine (h0.of_eq (congrArg Fixed.supply (by simp : State.fixed _ = State.fixed _)) (congrArg Spill.aout ?_)).refreshOutputs
      rw [endSessions_spill, dropRun_spill, safeRail_spill, completeMode_spill, stopForSafe_spill]

/-- A declared fault leaves a faulted output so, whether SAFE follows or not. -/
theorem RatioFaulted.declareOpen {p : Prop} {s : State} {n : Fin 2} (h : RatioFaulted p s n) (code : Fin 28) (masked : Bool) :
    RatioFaulted p (declareOpen s code masked) n := by
  have hr (s : State) (h : RatioFaulted p s n) (arg evArg : Nat) : RatioFaulted p (recordFault s code arg evArg masked) n := by
    have hf := recordFault_changes s code arg evArg masked
    unfold FaultOnly at hf
    exact h.of_eq (by rw [hf]) (by rw [hf])
  unfold Machine.declareOpen declare declareWith
  dsimp only
  have hd : RatioFaulted p (drawFree s).2 n := h.of_eq rfl rfl
  split
  · exact h.of_eq rfl rfl
  · split
    · exact hd.of_eq rfl rfl
    · split
      · exact (hr _ hd ..).enterSafe 7
      · exact hr _ hd ..

/-- The fault mark of a ratio output that is present follows VRATIO, its power does not. -/
theorem setRatioFaults_present {s : State} {n : Fin 2} (h : aoutPresent s n = true) (b : Bool) :
    (setRatioFaults s b).spill.aout[n].fault = b ∧ (setRatioFaults s b).spill.aout[n].driven = s.spill.aout[n].driven := by
  have hn : (setRatioFaults s b).spill.aout[n] =
      if aoutPresent s n then { s.spill.aout[n] with fault := b, differs := b } else s.spill.aout[n] := by
    fin_cases n <;> rfl
  rw [hn, if_pos h]
  exact ⟨rfl, rfl⟩

/-- VRATIO_FALL with a ratio output present: the outputs' fault states, then code 0x10 (R65). -/
theorem execVratioFall_present {s : State} (hr : isRunning s = true) (ha : aoutPresent s 0 = true ∨ aoutPresent s 1 = true) :
    execVratioFall s = .next (declareOpen (aoutsChanged (refreshOutputs
      (setRatioFaults { s with supply := { s.supply with vratio := false } } true))) 0x10 false) := by
  have hn : ¬(!isRunning s || !(aoutPresent s 0 || aoutPresent s 1)) = true := by
    rcases ha with ha | ha <;> simp [hr, ha]
  exact if_neg hn

theorem execVratioRise_running {s : State} (hr : isRunning s = true) :
    execVratioRise s = .next (noteSeen (aoutsChanged (refreshOutputs
      (setRatioFaults { s with supply := { s.supply with vratio := true } } false))) 0x10) :=
  congrArg Host.Outcome.next (if_pos hr)

/-- Bringing both outputs to their rows, VRATIO being low, puts every powered one into the low fault band. -/
theorem refreshOutputs_code {s : State} (h : s.supply.vratio = false) (n : Fin 2) (hd : s.spill.aout[n].driven = true) :
    (refreshOutputs s).spill.aout[n].code = lowBand := by
  have hp := ((refreshPin_pins s 0).trans (refreshPin_pins _ 1)).outputs
  unfold refreshOutputs
  generalize refreshPin (refreshPin s 0) 1 = p at hp ⊢
  have hv : p.supply.vratio = false := by rw [hp.supply]; exact h
  have h0 := (refreshAout_pins p 0).outputs
  have hd0 := (hp.2 n).1.trans hd
  have hd1 := (h0.2 n).1.trans hd0
  rw [refreshAout_code (by rw [h0.supply]; exact hv), refreshAout_code hv]
  obtain rfl | rfl : n = 0 ∨ n = 1 := by omega
  · rw [if_neg (by simp), if_pos ⟨rfl, hd0⟩]
  · rw [if_pos ⟨rfl, hd1⟩]

theorem RatioFaulted.endHold {p : Prop} {s : State} {m : Fin 2} (h : RatioFaulted p s m) (n : Fin 2) : RatioFaulted p (endHold s n) m := by
  have hn : (Machine.endHold s n).spill.aout[m].code = s.spill.aout[m].code := by
    unfold Machine.endHold
    dsimp only
    rw [vmod_get]
    split <;> rfl
  exact ⟨h.vratio, ((endHold_outputs s n).2 m).2.trans h.fault, fun e => hn.trans (h.code e)⟩

theorem RatioFaulted.aoutsChanged {p : Prop} {s : State} {n : Fin 2} (h : RatioFaulted p s n) : RatioFaulted p (aoutsChanged s) n :=
  (((h.endHold 0).endHold 1).refreshAout 0).refreshAout 1

/-- A present output once VRATIO has fallen and the outputs have been brought to their rows. -/
theorem ratioFaulted_refreshed {s : State} (h : s.supply.vratio = false) {n : Fin 2} (hn : aoutPresent s n = true) :
    RatioFaulted (s.spill.aout[n].driven = true) (refreshOutputs (setRatioFaults s true)) n := by
  have ho := (refreshOutputs_pins (setRatioFaults s true)).outputs
  obtain ⟨hf, hd⟩ := setRatioFaults_present hn true
  exact ⟨by rw [ho.supply]; exact h, (ho.2 n).2.trans hf, fun hp => refreshOutputs_code (s := setRatioFaults s true) h n (hd.trans hp)⟩

/-- The limits of R66, by supply. -/
theorem beyondLimits_of_excursion {n : Fin 5} {v : Rat} {present : Prop}
    (h : (n = 0 ∧ 36 < v) ∨ ((n = 1 ∨ n = 2) ∧ (36 / 10 < v ∨ v < 295 / 100)) ∨ (n = 3 ∧ (36 / 10 < v ∨ v < 162 / 100)) ∨
      (n = 4 ∧ 55 / 10 < v ∧ present)) : beyondLimits n v = true ∧ (n = 4 → present) := by
  rcases h with ⟨rfl, h⟩ | ⟨rfl | rfl, h⟩ | ⟨rfl, h⟩ | ⟨rfl, h, hp⟩
  · exact ⟨decide_eq_true h, fun e => absurd e (by decide)⟩
  · exact ⟨by simpa [beyondLimits] using h, fun e => absurd e (by decide)⟩
  · exact ⟨by simpa [beyondLimits] using h, fun e => absurd e (by decide)⟩
  · exact ⟨by simpa [beyondLimits] using h, fun e => absurd e (by decide)⟩
  · exact ⟨decide_eq_true h, fun _ => hp⟩

theorem execSupplyExcursion_beyond {s : State} {n : Fin 5} {v : Rat} {us : Nat} (hr : isRunning s = true) (hu : 50 ≤ us)
    (hb : beyondLimits n v = true) (ha : n = 4 → aoutPresent s 0 = true ∨ aoutPresent s 1 = true) :
    ∃ p, execSupplyExcursion n v us s = .next (declare { s with supply := p } 0x16 n.val false) := by
  refine ⟨_, if_neg ?_⟩
  have h4 : ¬((n == 4) = true ∧ (!(aoutPresent s 0 || aoutPresent s 1)) = true) := by
    rintro ⟨h, k⟩
    rcases ha (eq_of_beq h) with e | e <;> simp [e] at k
  have hu' : ¬us < 50 := by omega
  simpa [hr, hb, hu'] using h4

/-- Settles O15: VIN's episode and its end by `uvloOff` and `railBegin_changes`, VRATIO by `RatioFaulted`, the excursion by the law of a declared
fault. -/
theorem supplyMonitors : Obligations.SupplyMonitors := by
  refine ⟨fun s hr hv h => ?uvlo, fun s hr hv h => ?uvloOutside, fun s hv hl => execVinUvlo_again hv hl, fun s => ?uvloEnd,
    fun s hv => ?aoSwitch, fun s hr ha => ?fall, fun s hr => ?rise, fun s n v us hr hu h hf => ?excursion⟩
  case uvlo =>
    obtain ⟨h1, h2, h3⟩ := uvloOff_off s
    refine ⟨_, (execVinUvlo_start hv h).trans (congrArg _ (if_pos hr)), rfl, rfl, h1, h2, h3, rfl, raise_pending _ 10 _⟩
  case uvloOutside =>
    obtain ⟨h1, h2, h3⟩ := uvloOff_off s
    refine ⟨_, (execVinUvlo_start hv h).trans (congrArg _ (if_neg (by simp [hr]))), rfl, rfl, h1, h2, h3, rfl, ?_⟩
    simp [uvloOff, hr]
  case uvloEnd =>
    obtain ⟨h1, h2, h3⟩ := railBegin_changes { s with supply := { s.supply with vin := true }, rail := { s.rail with lockout := false } }
    have hs := congrArg State.supply h1
    refine ⟨_, rfl, ?_, hs, h2, fun hw ho => h3 ?_ ho⟩
    · rw [hs]
      exact h1
    · rw [hs] at hw
      exact hw
  case aoSwitch =>
    obtain ⟨h1, h2, h3, h4⟩ := vddFalls_time { s with supply := { s.supply with aoFromVin := true } }
    refine ⟨_, if_neg (by simp [hv]), ?_, ?_, h2, h3, ?_⟩
    · rw [h1]
    · rw [h1]
    · rw [h4, Bool.and_assoc]
  case fall =>
    have hx (n : Fin 2) (hn : aoutPresent s n = true) :=
      ((ratioFaulted_refreshed (s := { s with supply := { s.supply with vratio := false } }) rfl (n := n) hn).aoutsChanged).declareOpen 0x10 false
    refine ⟨_, execVratioFall_present hr ha, ?_, declareOpen_active .., fun n hn => (hx n hn).code, fun n hn => (hx n hn).fault⟩
    rcases ha with ha | ha <;> exact (hx _ ha).vratio
  case rise =>
    obtain ⟨h1, h2⟩ := (refreshOutputs_pins (setRatioFaults { s with supply := { s.supply with vratio := true } } false)).outputs.trans
      (aoutsChanged_outputs _)
    refine ⟨_, execVratioRise_running hr, ?_⟩
    generalize aoutsChanged _ = t at h1 h2 ⊢
    obtain ⟨spill, rfl⟩ : ∃ x, t = { s with supply := { s.supply with vratio := true }, spill := x } := ⟨_, h1⟩
    exact ⟨rfl, rfl, rfl, fun n hn => (h2 n).2.trans (setRatioFaults_present hn false).1⟩
  case excursion =>
    obtain ⟨hb, ha⟩ := beyondLimits_of_excursion h
    obtain ⟨p, hp⟩ := execSupplyExcursion_beyond hr hu hb ha
    obtain ⟨-, h2, h3, -, h4, -⟩ := declareWith_new { s with supply := p } 0x16 n.val 0x16 false hf
    exact ⟨_, hp, declareWith_active .., congrArg Fixed.phase (declare_fixed ..), h2, h3, h4⟩

end Sys2Proof.Machine

namespace Sys2Proof.Machine

/-! The node's own frame and EV05's count: what no record and no path's frame touches. A path's record may raise events and write the log, but the
count of system frames towards EV05 is the system frame's own. -/

/-- The node's own frame, its sums with the thermal monitor's record, and the system frames counted towards EV05. -/
structure OwnFrame where
  sysOn : Bool
  sysDrop : Bool
  sysClk : Option Nat
  thermal : Thermal
  frames : Nat

/-- Those parts of a state. -/
def State.ownFrame (s : State) : OwnFrame := ⟨s.sysOn, s.sysDrop, s.sysClk, s.thermal, s.events.frames⟩

@[simp] theorem ownFrame_mk (x0 x1 x2 x3 x4 x5 x6 x7 x8 x9 x10 x11 x12 x13 x14 x15 x16 x17 x18 x19 x20 x21 x22 x23 x24 x25 x26 x27 x28 x29 x30 x31 x32 x33 x34 x35 x36 x37) :
    (State.mk x0 x1 x2 x3 x4 x5 x6 x7 x8 x9 x10 x11 x12 x13 x14 x15 x16 x17 x18 x19 x20 x21 x22 x23 x24 x25 x26 x27 x28 x29 x30 x31 x32 x33 x34 x35 x36 x37).ownFrame =
      ⟨x10, x11, x12, x24, x31.frames⟩ := rfl

@[simp] theorem ownFrame_fold (s : State) : (⟨s.sysOn, s.sysDrop, s.sysClk, s.thermal, s.events.frames⟩ : OwnFrame) = s.ownFrame := rfl

@[simp] theorem ownFrame_ite (c : Prop) [Decidable c] (a b : State) : (if c then a else b).ownFrame = if c then a.ownFrame else b.ownFrame :=
  apply_ite _ _ _ _

@[simp] theorem foldl_ownFrame {α : Type} (f : State → α → State) (h : ∀ s a, (f s a).ownFrame = s.ownFrame) (l : List α) (s : State) :
    (l.foldl f s).ownFrame = s.ownFrame := foldl_keeps _ f h l s

/-! Events, log, outputs. -/

@[simp] theorem drawFree_ownFrame (s : State) : (drawFree s).2.ownFrame = s.ownFrame := rfl

@[simp] theorem raise_ownFrame (s : State) (ev : Fin 32) (arg : Nat) : (raise s ev arg).ownFrame = s.ownFrame := by
  have queued (e : Events) (q : QueuedEvent) : (queueEvent e q).frames = e.frames := by
    unfold queueEvent
    dsimp only
    (repeat' split) <;> rfl
  have marked : (markEvent s.events ev).frames = s.events.frames := rfl
  unfold raise
  dsimp only
  split <;> simp [queued, marked]

@[simp] theorem logSummary_ownFrame (n : Nat) (s : State) : (logSummary n s).ownFrame = s.ownFrame := by
  induction n generalizing s with
  | zero => rfl
  | succ n ih => simp [logSummary, ih]

@[simp] theorem raiseLogFull_ownFrame (s : State) (arg : Nat) : (raiseLogFull s arg).ownFrame = s.ownFrame := by simp [raiseLogFull]
@[simp] theorem logRing_ownFrame (s : State) (e : LogEntry) : (logRing s e).ownFrame = s.ownFrame := by simp [logRing]
@[simp] theorem logRecord_ownFrame (s : State) (kind : Byte) (r : Record) : (logRecord s kind r).ownFrame = s.ownFrame := logRing_ownFrame ..
@[simp] theorem logAlarm_ownFrame (s : State) (kind node : Byte) (code arg : Nat) (data : List Byte) :
    (logAlarm s kind node code arg data).ownFrame = s.ownFrame := by simp [logAlarm]
@[simp] theorem originate_ownFrame (s : State) (ports : List (Fin 2)) (type dst : Byte) (cls : Nat) (credit : Byte) (payload : List Byte) :
    (originate s ports type dst cls credit payload).ownFrame = s.ownFrame := by
  rw [(originate_ports s ports type dst cls credit payload).1]
  rfl

theorem PinsOnly.ownFrame {s t : State} (h : PinsOnly s t) : t.ownFrame = s.ownFrame := by
  rw [h.1]
  rfl

@[simp] theorem refreshAout_ownFrame (s : State) (n : Fin 2) : (refreshAout s n).ownFrame = s.ownFrame := (refreshAout_pins s n).ownFrame
@[simp] theorem refreshOutputs_ownFrame (s : State) : (refreshOutputs s).ownFrame = s.ownFrame := (refreshOutputs_pins s).ownFrame
@[simp] theorem endHold_ownFrame (s : State) (n : Fin 2) : (endHold s n).ownFrame = s.ownFrame := rfl

/-! Spillway, without a mismatch of the two evaluators. -/

@[simp] theorem sendAlarm_ownFrame (s : State) : (sendAlarm s).ownFrame = s.ownFrame := by simp [sendAlarm]
@[simp] theorem chainChanged_ownFrame (s : State) : (chainChanged s).ownFrame = s.ownFrame := by simp [chainChanged]
@[simp] theorem ruleOutputs_ownFrame (s : State) (k : Nat) : (ruleOutputs s k).ownFrame = s.ownFrame := by simp [ruleOutputs]
@[simp] theorem setRule_ownFrame (s : State) (k : Fin 256) (new : RuleState) (first : Bool) : (setRule s k new first).ownFrame = s.ownFrame := by
  simp [setRule]
@[simp] theorem evaluate_ownFrame (s : State) (k : Fin 256) (setm clrm : Bool) (value : F32) :
    (evaluate s k setm clrm value []).ownFrame = s.ownFrame := by
  simp [evaluate, evaluateAs]
@[simp] theorem evalRecord_ownFrame (s : State) (k : Fin 256) (r : Record) : (evalRecord s k r []).ownFrame = s.ownFrame := by
  unfold evalRecord
  (repeat' split) <;> simp
@[simp] theorem accumulate_ownFrame (s : State) (k : Fin 256) (r : Record) (weight : Rat) : (accumulate s k r weight).ownFrame = s.ownFrame := rfl
@[simp] theorem spillRecord_ownFrame (s : State) (r : Record) (weight : Rat) : (spillRecord s r weight []).1.ownFrame = s.ownFrame := by
  have h (ks : List (Fin 256)) : (ks.foldl (fun s k => accumulate s k r weight) s).ownFrame = s.ownFrame :=
    foldl_ownFrame _ (fun s k => accumulate_ownFrame s k r weight) ks s
  simp [spillRecord, h]

/-! Encoders, calibration window, ratio outputs. -/

@[simp] theorem mereDisturbed_ownFrame (s : State) (cause : Byte) : (mereDisturbed s cause).ownFrame = s.ownFrame := by simp [mereDisturbed]
@[simp] theorem encEmit_ownFrame (s : State) (e : Fin 64) (isUp : Bool) (ev : MereEvent) : (encEmit s e isUp ev).ownFrame = s.ownFrame := by
  simp [encEmit]
@[simp] theorem encTake_ownFrame (s : State) (e : Fin 64) (v : F32) : (encTake s e v).ownFrame = s.ownFrame := by simp [encTake]
@[simp] theorem encodeRecord_ownFrame (s : State) (r : Record) : (encodeRecord s r).ownFrame = s.ownFrame := by simp [encodeRecord]
@[simp] theorem calCollect_ownFrame (s : State) (r : Record) : (calCollect s r).ownFrame = s.ownFrame := by
  unfold calCollect
  split <;> simp
@[simp] theorem ratioNote_ownFrame (s : State) (n : Fin 2) : (ratioNote s n).ownFrame = s.ownFrame := by simp [ratioNote]
@[simp] theorem ratioMiss_ownFrame (s : State) (n : Fin 2) : (ratioMiss s n).ownFrame = s.ownFrame := by simp [ratioMiss]

/-! The path of a record. -/

@[simp] theorem modEntry_ownFrame (s : State) (v : Vcn) (f : VcnEntry → VcnEntry) : (modEntry s v f).ownFrame = s.ownFrame := rfl
@[simp] theorem skipVcn_ownFrame (s : State) (v : Vcn) : (skipVcn s v).ownFrame = s.ownFrame := by simp [skipVcn]
@[simp] theorem keepRecord_ownFrame (s : State) (r : Record) : (keepRecord s r []).ownFrame = s.ownFrame := by simp [keepRecord]
@[simp] theorem storeRecord_ownFrame (s : State) (r : Record) : (storeRecord s r []).ownFrame = s.ownFrame := by
  unfold storeRecord
  (repeat' split) <;> simp
@[simp] theorem ownRecord_ownFrame (s : State) (idx : Nat) (x : F32) (raw : BitVec 32) (b : StatusBits) :
    (ownRecord s idx x raw b []).ownFrame = s.ownFrame := by
  simp only [ownRecord]
  split <;> simp
@[simp] theorem emitRecord_ownFrame (s : State) (idx : Nat) (x : F32) (raw : BitVec 32) (b : StatusBits) :
    (emitRecord s idx x raw b [] []).ownFrame = s.ownFrame := ownRecord_ownFrame ..

@[simp] theorem filmValue_ownFrame (s : State) (n : Fin 6) (r : Rat) : (filmValue s n r).1.ownFrame = s.ownFrame := by
  simp only [filmValue]
  (repeat' split) <;> rfl

theorem auxValue_ownFrame {s : State} {n : Fin 4} {c : AuxConv} {p : State × F32} (h : auxValue s n c = some p) : p.1.ownFrame = s.ownFrame := by
  unfold auxValue at h
  split at h
  · obtain ⟨e, -, rfl⟩ := Option.map_eq_some_iff.1 h
    split <;> rfl
  · obtain ⟨e, -, rfl⟩ := Option.map_eq_some_iff.1 h
    rfl
  · cases h
    rfl

section
variable {o : BoundaryObs} (hl : o.lin = []) (hb : o.bad = [])
include hl hb

theorem filmRecord_ownFrame (s : State) (n : Fin 6) (e : WeirEnd) (shadowed bad : Bool) :
    (filmRecord s n e shadowed bad o).ownFrame = s.ownFrame := by
  unfold filmRecord
  rw [hl, hb]
  split <;> simp

theorem heaterRecord_ownFrame (s : State) (n : Fin 6) : (heaterRecord s n o).ownFrame = s.ownFrame := by
  have h : (if s.mox[n].nR = 0 ∨ s.mox[n].nT = 0 then drawFree s else (0, s)).2.ownFrame = s.ownFrame := by split <;> rfl
  unfold heaterRecord
  rw [hl, hb]
  exact (emitRecord_ownFrame ..).trans h

theorem auxRecord_ownFrame (s : State) (n : Fin 4) : (auxRecord s n o).ownFrame = s.ownFrame := by
  unfold auxRecord
  rw [hl, hb]
  split
  · exact skipVcn_ownFrame ..
  · split
    · exact skipVcn_ownFrame ..
    · next h => exact (emitRecord_ownFrame ..).trans (auxValue_ownFrame h)

/-- The record of a local index, if any, leaves the node's own frame. -/
theorem indexRecord_ownFrame (g : Ending) (s : State) (i : Nat) : (indexRecord o g s i).ownFrame = s.ownFrame := by
  simp only [indexRecord, electrodeRecord, tempRecord, supplyRecord, skipOwn, hl, hb]
  (repeat' split) <;>
    simp only [skipVcn_ownFrame, emitRecord_ownFrame, filmRecord_ownFrame hl hb, heaterRecord_ownFrame hl hb, auxRecord_ownFrame hl hb]

theorem boundaryRecords_ownFrame (g : Ending) (s : State) : (boundaryRecords o g s).ownFrame = s.ownFrame :=
  foldl_ownFrame _ (indexRecord_ownFrame hl hb g) _ s

end

/-! What ends at a boundary, where the shadow compares nothing. -/

theorem latchPath_ownFrame {o : BoundaryObs} {w : Fin 23} (hs : o.weirs[w].shadow = none) (a : State × Vector PathTurn 23) :
    (latchPath o a w).1.ownFrame = a.1.ownFrame := by
  have fed (s : State) (w : Fin 16) (r : Fin 4) (ovr : Bool) (l : List TonePacket) : (toneFeed s w r ovr l).ownFrame = s.ownFrame := by
    simp [toneFeed]
  have ended (s : State) (w : Fin 23) (div : Nat) (q : WeirObs) : (weirEnd s w div q).1.ownFrame = s.ownFrame := rfl
  simp only [latchPath, hs, shadowCompare]
  (repeat' split) <;> simp only [fed, ended]

theorem latchTone_ownFrame (v : Vector PathTurn 23) (a : State × Vector (Option ToneEnd) 8) (ch : Fin 8) :
    (latchTone v a ch).1.ownFrame = a.1.ownFrame := by
  have result (s : State) : (toneResult s ch).1.ownFrame = s.ownFrame := by
    simp only [toneResult]
    split <;> rfl
  simp only [latchTone, toneClose]
  (repeat' split)
  · rfl
  · rfl
  · exact result _

/-! The turn of a path's frames. -/

theorem clearFault_ownFrame (s : State) (code : Fin 28) : (clearFault s code).ownFrame = s.ownFrame := by
  have h := clearFault_clear s code
  unfold ClearOnly at h
  rw [h]
  rfl

@[simp] theorem shadowTurn_ownFrame (s : State) (w : Fin 23) : (shadowTurn s w).ownFrame = s.ownFrame := by
  have passed (s : State) : (visitPassed s w).ownFrame = s.ownFrame := by simp [visitPassed, clearFault_ownFrame]
  have begun (s : State) (p : Fin 23) : (beginVisit s p).ownFrame = s.ownFrame := rfl
  have ended (s : State) : (endVisit s w).ownFrame = s.ownFrame := by
    simp only [endVisit]
    split <;> simp [passed, begun]
  simp [shadowTurn, begun, ended]

@[simp] theorem toneTurn_ownFrame (s : State) (ch : Fin 8) (dropped : Bool) (e : Option ToneEnd) : (toneTurn s ch dropped e).ownFrame = s.ownFrame := by
  unfold toneTurn
  (repeat' split) <;> simp [toneFinish, toneOpen, toneBands, toneNext]

@[simp] theorem turnVcn_ownFrame (s : State) (idx : Nat) : (turnVcn s idx).ownFrame = s.ownFrame := rfl
@[simp] theorem weirStart_ownFrame (s : State) (p : Fin 23) : (weirStart s p).ownFrame = s.ownFrame := rfl
@[simp] theorem weirTurn_ownFrame (s : State) (p : Fin 23) (r : Fin 4) : (weirTurn s p r).ownFrame = s.ownFrame := rfl
@[simp] theorem weirAfterStep_ownFrame (s : State) (p : Fin 23) : (weirAfterStep s p).ownFrame = s.ownFrame := rfl
@[simp] theorem burnTurn_ownFrame (s : State) (i : BurnInput) : (burnTurn s i).ownFrame = s.ownFrame := rfl
@[simp] theorem moxBoundary_ownFrame (s : State) (n : Fin 6) : (moxBoundary s n).ownFrame = s.ownFrame := rfl
@[simp] theorem auxCompliance_ownFrame (s : State) (hit : Bool) : (auxCompliance s hit).ownFrame = s.ownFrame := by
  unfold auxCompliance
  split <;> simp

theorem pathTurn_ownFrame (o : BoundaryObs) (g : Ending) (s : State) (p : Fin 23) : (pathTurn o g s p).ownFrame = s.ownFrame := by
  have burns (s : State) : ((auxInputs s).foldl (fun s n => burnTurn s (.aux n)) s).ownFrame = s.ownFrame :=
    foldl_ownFrame (fun s n => burnTurn s (.aux n)) (fun s n => burnTurn_ownFrame s (.aux n)) _ s
  have turns (s : State) : ((auxInputs s).foldl (fun s n => turnVcn s (0x20 + n.val)) s).ownFrame = s.ownFrame :=
    foldl_ownFrame (fun (s : State) (n : Fin 4) => turnVcn s (0x20 + n.val)) (fun s n => turnVcn_ownFrame s (0x20 + n.val)) _ s
  unfold pathTurn
  split
  · simp only [electrodeTurn]
    split <;> simp
  · simp only [filmTurn]
    split <;> simp
  · simp only [auxPathTurn]
    split <;> simp [burns, turns]

@[simp] theorem episodeTurn_ownFrame (s : State) : (episodeTurn s).ownFrame = s.ownFrame := by simp [episodeTurn, classEpisode]

/-! What the boundary is to the node's own frame, and its turn (R345, R683). -/

theorem systemHere_of_boundary {s : State} (ha : isActive s = true) (hg : onGrid s (frameUs (frameK s s.modes.mode)) = true)
    (hc : s.sysClk ≠ some s.clk) : systemHere s = systemTurn s := by
  simp [systemHere, boundaryHere, ha, hg, hc]

theorem systemHere_stays {s : State} (h : onGrid s (frameUs (frameK s s.modes.mode)) = false ∨ s.sysClk = some s.clk) :
    systemHere s = .stays := by
  unfold systemHere boundaryHere
  refine if_neg ?_
  rcases h with h | h <;> simp [h]

theorem systemTurn_starts {s : State} (h : s.sysOn = false) : systemTurn s = .starts := by simp [systemTurn, h]

theorem systemTurn_ended {s : State} (h : s.sysOn = true) (hd : s.sysDrop = false) : systemTurn s = .ended := by simp [systemTurn, h, hd]

theorem systemTurn_ne_stays (s : State) : systemTurn s ≠ .stays := by
  unfold systemTurn
  (repeat' split) <;> simp

theorem systemTurn_ne_ended {s : State} (h : s.sysOn = false ∨ s.sysDrop = true) : systemTurn s ≠ .ended := by
  unfold systemTurn
  rcases h with h | h
  · simp [h]
  · simp only [h]
    split <;> simp

/-- What latching leaves of `Quiet` decides what the boundary is to the node's own frame. -/
theorem systemHere_congr {s t : State} (h : Latched s t) : systemHere t = systemHere s := by
  have hc : t.config = s.config := congrArg (fun q => q.fixed.config) h
  have hp : t.phase = s.phase := congrArg (fun q => q.fixed.phase) h
  have hk : t.clk = s.clk := congrArg (fun q => q.fixed.clk) h
  have hm : t.modes = s.modes := congrArg Quiet.modes h
  have ht : t.time = s.time := congrArg Quiet.time h
  have h1 : t.sysOn = s.sysOn := congrArg Quiet.sysOn h
  have h2 : t.sysDrop = s.sysDrop := congrArg Quiet.sysDrop h
  have h3 : t.sysClk = s.sysClk := congrArg Quiet.sysClk h
  simp [systemHere, systemTurn, boundaryHere, isActive, isRunning, frameK, sec_congr hc, onGrid_congr ht, hp, hk, hm, h1, h2, h3]

/-- From `s` to `t` means of the node's own frame are drawn, free values (log 8), and nothing else. -/
def DrawsMeans (s t : State) : Prop := t = { s with
  freeCount := t.freeCount, thermal := { s.thermal with frameSum := t.thermal.frameSum, frameN := t.thermal.frameN } }

theorem DrawsMeans.trans {s t u : State} (h : DrawsMeans s t) (k : DrawsMeans t u) : DrawsMeans s u := by
  unfold DrawsMeans at *
  rw [k, h]

theorem drawFree_draws (s : State) : DrawsMeans s (drawFree s).2 := rfl

theorem frameSums_draws (s : State) (v : Vector Int 8) (n : Nat) :
    DrawsMeans s { s with thermal := { s.thermal with frameSum := v, frameN := n } } := rfl

theorem readyMeans_draws (s : State) : DrawsMeans s (readyMeans s) := by
  have draws (f : State → Fin 8 → State) (h : ∀ s i, DrawsMeans s (f s i)) (l : List (Fin 8)) : DrawsMeans s (l.foldl f s) :=
    foldl_rel DrawsMeans (fun _ => rfl) .trans f h l s
  unfold readyMeans
  dsimp only
  split
  · generalize hf : (fun (s : State) (i : Fin 8) => _ : State → Fin 8 → State) = f
    have hd := draws f (fun s i => by rw [← hf]; exact (drawFree_draws s).trans (frameSums_draws ..)) (List.finRange 8)
    generalize (List.finRange 8).foldl f s = t at hd ⊢
    exact hd.trans (frameSums_draws ..)
  · rfl

theorem readyMeans_ownFrame (s : State) : (readyMeans s).ownFrame = { s.ownFrame with thermal := (readyMeans s).thermal } := by
  have h := readyMeans_draws s
  unfold DrawsMeans at h
  rw [h]
  rfl

/-- What latching a boundary leaves of the node's own frame: its means are drawn where it ends without a conversion. -/
theorem latchAll_ownFrame {o : BoundaryObs} (hs : ∀ w : Fin 23, o.weirs[w].shadow = none) (s : State) :
    (latchAll s o).2.system = systemHere s ∧
      (latchAll s o).1.ownFrame = { s.ownFrame with thermal := (latchAll s o).1.thermal } ∧
      (systemHere s ≠ .ended → (latchAll s o).1.ownFrame = s.ownFrame) := by
  have hl := foldl_rel (fun a b : State × Vector PathTurn 23 => Latched a.1 b.1) (fun _ => .refl _) .trans (latchPath o)
    (fun a w => (latchPath_effect (hs w) a).1) (List.finRange 23) (s, Vector.replicate 23 .stays)
  have ho := foldl_keeps (fun a : State × Vector PathTurn 23 => a.1.ownFrame) (latchPath o) (fun a w => latchPath_ownFrame (hs w) a)
    (List.finRange 23) (s, Vector.replicate 23 .stays)
  unfold latchAll
  generalize (List.finRange 23).foldl (latchPath o) (s, Vector.replicate 23 .stays) = p at hl ho ⊢
  have hq := foldl_keeps (fun a : State × Vector (Option ToneEnd) 8 => a.1.quiet) (latchTone p.2) (latchTone_quiet p.2) (List.finRange 8)
    (p.1, Vector.replicate 8 none)
  have hw := foldl_keeps (fun a : State × Vector (Option ToneEnd) 8 => a.1.ownFrame) (latchTone p.2) (latchTone_ownFrame p.2) (List.finRange 8)
    (p.1, Vector.replicate 8 none)
  dsimp only at hl ho hq hw ⊢
  generalize (List.finRange 8).foldl (latchTone p.2) (p.1, Vector.replicate 8 none) = q at hq hw ⊢
  have hsys : systemHere q.1 = systemHere s := systemHere_congr (hl.trans (.of_quiet hq))
  have hown : q.1.ownFrame = s.ownFrame := hw.trans ho
  refine ⟨hsys, ?_, fun hn => ?_⟩
  · split
    · rw [readyMeans_ownFrame, hown]
    · exact hown.trans (congrArg (fun t => { s.ownFrame with thermal := t }) (congrArg OwnFrame.thermal hown).symm)
  · rw [hsys, if_neg hn]
    exact hown

/-- The turn of the node's own frames starts the next one without a conversion. -/
theorem turnSystem_eq (s : State) : turnSystem s = { s with
    sysOn := true, sysDrop := false, sysClk := some s.clk, results := (turnSystem s).results, cal := (turnSystem s).cal
    thermal := { s.thermal with frameSum := Vector.replicate 8 0, frameN := 0 } } := by
  have turns (s : State) := foldl_rel (fun s t : State => t = { s with results := t.results, cal := t.cal }) (fun _ => rfl)
    (fun h k => by rw [k, h]) turnVcn (fun _ _ => rfl) systemIndices s
  unfold turnSystem
  dsimp only
  rw [turns]

/-- EV05's count in the head after a system frame that ends (R683). -/
theorem systemEvent_head {s : State} (h : s.role = .head) :
    (systemEvent s).events.frames = (if cfgEv05Divider s ≤ s.events.frames + 1 then 0 else s.events.frames + 1) ∧
      (cfgEv05Divider s ≤ s.events.frames + 1 → (systemEvent s).events.pending.getLsbD 5 = true) := by
  have hr : ¬s.role = .pod := by simp [h]
  unfold systemEvent
  rw [if_neg hr]
  dsimp only
  split
  · next hd =>
    exact ⟨congrArg OwnFrame.frames (raise_ownFrame { s with events := { s.events with frames := 0 } } 5 0), fun _ => raise_pending _ 5 _⟩
  · next hd => exact ⟨rfl, fun h => absurd h hd⟩

end Sys2Proof.Machine

namespace Sys2Proof.Machine

/-! A boundary as the node's own frame sees it. -/

/-- The state of a boundary whose records are written and whose paths have turned, before the node's own frame does. -/
def pathsTurned (s : State) (o : BoundaryObs) : State :=
  (List.finRange 23).foldl (pathTurn o (latchAll s o).2) (episodeTurn (boundaryRecords o (latchAll s o).2 (latchAll s o).1))

/-- A change of reference waits while the node's own frame is not at its boundary (R544). -/
theorem boundaryEnd_waits {t : State} (h : t.sysClk ≠ some t.clk) : boundaryEnd t = t := if_neg (by simp [allEndHere, h])

/-- A change of reference that has taken place waits no longer. -/
theorem refPending_switchRef (s : State) : refPending (switchRef s) = false := bne_self_eq_false (wantedRef s)

theorem pathsTurned_ownFrame {o : BoundaryObs} (hl : o.lin = []) (hb : o.bad = []) (s : State) :
    (pathsTurned s o).ownFrame = (latchAll s o).1.ownFrame :=
  (foldl_ownFrame _ (pathTurn_ownFrame o _) _ _).trans ((episodeTurn_ownFrame _).trans (boundaryRecords_ownFrame hl hb _ _))

theorem boundaryTurned_own {o : BoundaryObs} (hs : ∀ w : Fin 23, o.weirs[w].shadow = none) (s : State) :
    boundaryTurned s o = ownTurn (systemHere s) (pathsTurned s o) := by
  rw [← (latchAll_ownFrame hs s).1]
  rfl

theorem pathsTurned_fixed (s : State) (o : BoundaryObs) : (pathsTurned s o).fixed = s.fixed := by simp [pathsTurned]

/-- A boundary at which no frame of a path or of the node ends, but for the node's own where `t` says so. -/
def stillEnding (t : SystemTurn) : Ending := { paths := Vector.replicate 23 .stays, tones := Vector.replicate 8 none, system := t }

theorem latchAll_inSafe {s : State} (o : BoundaryObs) (h : inSafe s = true) : latchAll s o = (s, stillEnding .stays) := by
  have ha : isActive s = false := by
    simp only [inSafe, Bool.and_eq_true, beq_iff_eq] at h
    simp [isActive, h.2]
  have hp (w : Fin 23) : latchPath o (s, Vector.replicate 23 .stays) w = (s, Vector.replicate 23 .stays) :=
    if_pos (by simp [pathRuns, ha])
  have ht (ch : Fin 8) : latchTone (Vector.replicate 23 .stays) (s, Vector.replicate 8 none) ch = (s, Vector.replicate 8 none) :=
    if_pos (by simp [ecEnded])
  unfold latchAll
  rw [List.foldl_fixed' hp]
  dsimp only
  rw [List.foldl_fixed' ht]
  simp [systemHere, ha, stillEnding]

theorem boundaryRecords_still (o : BoundaryObs) (s : State) : boundaryRecords o (stillEnding .stays) s = s :=
  List.foldl_fixed' (fun i => by
    unfold indexRecord
    simp [stillEnding]) _

theorem pathTurn_still (o : BoundaryObs) (t : SystemTurn) (s : State) (p : Fin 23) : pathTurn o (stillEnding t) s p = s := by
  unfold pathTurn
  split <;> simp [stillEnding, electrodeTurn, filmTurn, auxPathTurn]

theorem episodeTurn_eq (s : State) : episodeTurn s =
    { s with mere := { s.mere with episode := (episodeTurn s).mere.episode, disturbed := (episodeTurn s).mere.disturbed } } := by
  unfold episodeTurn
  split <;> rfl

/-- A boundary in SAFE ends no frame but those of the classes: no path runs, and the system frame has none (R124). -/
theorem execFrameBoundary_inSafe {s : State} (o : BoundaryObs) (h : inSafe s = true) :
    execFrameBoundary o s = .next (boundaryEnd (episodeTurn s)) := by
  have ht : boundaryTurned s o = episodeTurn s := by
    unfold boundaryTurned
    rw [latchAll_inSafe o h]
    dsimp only
    rw [boundaryRecords_still, List.foldl_fixed' (pathTurn_still o .stays _)]
    rfl
  have hk : (boundaryEnd (episodeTurn s)).ks = s.ks := by
    rw [boundaryEnd_eq, episodeTurn_eq]
  rw [execFrameBoundary_turned, ht, settle_of_noNewFault (.of_ks hk)]

/-! HOUSEKEEPING_FRAME. -/

theorem execHousekeepingFrame_none {s : State} (m : SupplyObs) (h : inSafe s = false ∨ onCount s 1000000 = false) :
    execHousekeepingFrame m s = .next s := by
  refine if_pos ?_
  rcases h with h | h <;> simp [h]

/-- Equal parts of `Quiet` are all of the state but what a record may write. -/
theorem eq_of_quiet {s t : State} (h : t.quiet = s.quiet) : t = { s with
    freeCount := t.freeCount, cal := t.cal, spill := t.spill, mere := t.mere, course := t.course, events := t.events, log := t.log } := by
  cases s
  cases t
  simp only [quiet_mk, Quiet.mk.injEq, Fixed.mk.injEq] at h
  simp [h]

section
variable {s : State} (hi : inSafe s = true) (ho : onCount s 1000000 = true) (hc : s.sysClk ≠ some s.clk)
include hi ho hc

/-- The first second after the entry to SAFE starts a frame. -/
theorem execHousekeepingFrame_first (m : SupplyObs) (hn : s.sysOn = false) : execHousekeepingFrame m s = .next (switchRef (turnSystem s)) := by
  unfold execHousekeepingFrame
  rw [if_neg (by simp [hi, ho, hc]), systemTurn_starts hn]

/-- Every later one ends a frame and starts the next. -/
theorem execHousekeepingFrame_later (m : SupplyObs) (hn : s.sysOn = true) (hd : s.sysDrop = false) :
    execHousekeepingFrame m s = .next (settle s (switchRef (turnSystem (nodeRecords s m)))) := by
  unfold execHousekeepingFrame
  rw [if_neg (by simp [hi, ho, hc]), systemTurn_ended hn hd]

end

theorem boundaryRecords_quiet {o : BoundaryObs} (hl : o.lin = []) (hb : o.bad = []) (g : Ending) (s : State) :
    (boundaryRecords o g s).quiet = { s.quiet with results := (boundaryRecords o g s).results } :=
  foldl_rel (fun s t : State => t.quiet = { s.quiet with results := t.results }) (fun _ => rfl) (fun h k => by rw [k, h])
    (indexRecord o g) (fun s i => (indexRecord_entryOnly hl hb g s i).quiet) (List.range 0x90) s

/-- The records of a housekeeping frame write entries, the sums of the frame and what a record may write; EV05's count stays. -/
theorem nodeRecords_writes (s : State) (m : SupplyObs) :
    (nodeRecords s m).quiet = { s.quiet with results := (nodeRecords s m).results
                                             thermal := { s.thermal with frameSum := (nodeRecords s m).thermal.frameSum
                                                                         frameN := (nodeRecords s m).thermal.frameN } } ∧
      (nodeRecords s m).events.frames = s.events.frames := by
  have hr := boundaryRecords_quiet (o := housekeepingObs m) rfl rfl (stillEnding .ended) (readyMeans s)
  have hf := boundaryRecords_ownFrame (o := housekeepingObs m) rfl rfl (stillEnding .ended) (readyMeans s)
  have hd := readyMeans_draws s
  rw [readyMeans_ownFrame] at hf
  have ht := congrArg OwnFrame.thermal hf
  unfold DrawsMeans at hd
  unfold nodeRecords
  unfold stillEnding at hr hf ht
  generalize boundaryRecords _ _ (readyMeans s) = t at hr hf ht ⊢
  change t.thermal = (readyMeans s).thermal at ht
  refine ⟨?_, congrArg OwnFrame.frames hf⟩
  rw [hr, ht, hd]
  rfl

/-! The node's own frame after its turn. -/

theorem turnSystem_own (s : State) : (turnSystem s).sysOn = true ∧ (turnSystem s).sysDrop = false ∧ (turnSystem s).sysClk = some s.clk ∧
    (turnSystem s).thermal.frameN = 0 ∧ (turnSystem s).events = s.events := by
  rw [turnSystem_eq]
  exact ⟨rfl, rfl, rfl, rfl, rfl⟩

theorem ownTurn_own {g : SystemTurn} (h : g ≠ .stays) (s : State) : (ownTurn g s).sysOn = true ∧ (ownTurn g s).sysDrop = false ∧
    (ownTurn g s).sysClk = some s.clk ∧ (ownTurn g s).thermal.frameN = 0 := by
  have turned (t : State) (hc : t.clk = s.clk) : (turnSystem t).sysOn = true ∧ (turnSystem t).sysDrop = false ∧
      (turnSystem t).sysClk = some s.clk ∧ (turnSystem t).thermal.frameN = 0 := by
    obtain ⟨h1, h2, h3, h4, -⟩ := turnSystem_own t
    exact ⟨h1, h2, hc ▸ h3, h4⟩
  cases g with
  | stays => exact absurd rfl h
  | starts | dropped => exact turned s rfl
  | ended => exact turned _ (congrArg Fixed.clk ((systemEvent_fixed _).trans (noteSystemFrame_fixed s)))

/-- Only a frame that ends counts towards EV05. -/
theorem ownTurn_events {g : SystemTurn} (h : g ≠ .ended) (s : State) : (ownTurn g s).events = s.events := by
  cases g with
  | stays => rfl
  | starts | dropped =>
    obtain ⟨-, -, -, -, he⟩ := turnSystem_own s
    exact he
  | ended => exact absurd rfl h

/-- In the head a system frame that ends counts towards EV05, which comes once every D of them (R683). -/
theorem ownTurn_ended_head {s : State} (h : s.role = .head) :
    (ownTurn .ended s).events.frames = (if cfgEv05Divider s ≤ s.events.frames + 1 then 0 else s.events.frames + 1) ∧
      (cfgEv05Divider s ≤ s.events.frames + 1 → (ownTurn .ended s).events.pending.getLsbD 5 = true) := by
  obtain ⟨-, -, -, -, he⟩ := turnSystem_own (systemEvent (noteSystemFrame s))
  have hf := noteSystemFrame_fixed s
  have hd : cfgEv05Divider (noteSystemFrame s) = cfgEv05Divider s := by
    simp [cfgEv05Divider, sec_congr (congrArg Fixed.config hf)]
  have hn : (noteSystemFrame s).events.frames = s.events.frames := by
    unfold noteSystemFrame
    split <;> rfl
  obtain ⟨h1, h2⟩ := systemEvent_head (s := noteSystemFrame s) ((role_of_fixed hf).trans h)
  rw [hd, hn] at h1 h2
  unfold ownTurn
  rw [he]
  exact ⟨h1, h2⟩

/-- Settles O24: records and paths leave the node's own frame and EV05's count (`pathsTurned_ownFrame`), so that both come from `ownTurn` alone;
in SAFE no path runs, and the records of a housekeeping frame write only what `Quiet` leaves out. -/
theorem systemFrames : Obligations.SystemFrames := by
  refine ⟨fun s o hs hl hb ha hg hc => ?boundary, fun s o hs hl hb h => ?stays, fun s o hi => ?safe, fun s m hi ho hc hn => ?first,
    fun s m hi ho hc hn hd => ?later, fun s m h => execHousekeepingFrame_none m h⟩
  case boundary =>
    obtain ⟨-, hlatch, -⟩ := latchAll_ownFrame hs s
    have hu := (pathsTurned_ownFrame hl hb s).trans hlatch
    have hf := pathsTurned_fixed s o
    refine ⟨_, exec_frameBoundary hs hl hb, ?_⟩
    rw [boundaryEnd_eq, boundaryTurned_own hs, systemHere_of_boundary ha hg hc]
    generalize pathsTurned s o = u at hu hf ⊢
    have hfr : u.events.frames = s.events.frames := congrArg OwnFrame.frames hu
    have hd : cfgEv05Divider u = cfgEv05Divider s := by simp [cfgEv05Divider, sec_congr (congrArg Fixed.config hf)]
    obtain ⟨h1, h2, h3, h4⟩ := ownTurn_own (systemTurn_ne_stays s) u
    refine ⟨h1, h2, h3.trans (congrArg some (congrArg Fixed.clk hf)), h4, fun hr hon hdrop => ?_, fun h => ?_⟩
    · obtain ⟨k1, k2⟩ := ownTurn_ended_head ((role_of_fixed hf).trans hr)
      rw [hd, hfr] at k1 k2
      rw [systemTurn_ended hon hdrop]
      exact ⟨k1, k2⟩
    · exact (congrArg Events.frames (ownTurn_events (systemTurn_ne_ended h) u)).trans hfr
  case stays =>
    have hn := systemHere_stays h
    obtain ⟨-, -, hlatch⟩ := latchAll_ownFrame hs s
    have hu := (pathsTurned_ownFrame hl hb s).trans (hlatch (by simp [hn]))
    refine ⟨_, exec_frameBoundary hs hl hb, ?_⟩
    rw [boundaryEnd_eq, boundaryTurned_own hs, hn]
    generalize pathsTurned s o = u at hu ⊢
    exact ⟨congrArg OwnFrame.sysOn hu, congrArg OwnFrame.sysDrop hu, congrArg OwnFrame.sysClk hu, congrArg OwnFrame.thermal hu,
      congrArg OwnFrame.frames hu⟩
  case safe =>
    refine ⟨_, execFrameBoundary_inSafe o hi, ?_⟩
    have he := episodeTurn_eq s
    have hw (hc : s.sysClk ≠ some s.clk) : (boundaryEnd (episodeTurn s)).time = s.time := by
      rw [boundaryEnd_waits (by rw [he]; exact hc), he]
    generalize episodeTurn s = e at he hw ⊢
    have ht := boundaryEnd_eq e
    generalize boundaryEnd e = t at ht hw ⊢
    obtain ⟨episode, disturbed, rfl⟩ : ∃ x y, e = { s with mere := { s.mere with episode := x, disturbed := y } } := ⟨_, _, he⟩
    obtain ⟨external, bandgap, rfl⟩ : ∃ x y, t = { s with
        mere := { s.mere with episode := episode, disturbed := disturbed }
        time := { s.time with refExternal := x, refBandgap := y } } := ⟨_, _, ht⟩
    exact ⟨rfl, rfl, rfl, hw⟩
  case first =>
    refine ⟨_, execHousekeepingFrame_first hi ho hc m hn, ?_⟩
    have hp := refPending_switchRef (turnSystem s)
    have ht := turnSystem_eq s
    generalize turnSystem s = t at hp ht ⊢
    refine ⟨?_, ?_, ?_, hp⟩ <;> rw [ht] <;> rfl
  case later =>
    refine ⟨_, execHousekeepingFrame_later hi ho hc m hn hd, ?_⟩
    obtain ⟨hq, hfr⟩ := nodeRecords_writes s m
    generalize nodeRecords s m = u at hq hfr ⊢
    obtain ⟨free, cal, spill, mere, course, events, log, results, sum, n, rfl⟩ : ∃ free cal spill mere course events log results sum n, u =
        { s with freeCount := free, cal := cal, spill := spill, mere := mere, course := course, events := events, log := log
                 results := results, thermal := { s.thermal with frameSum := sum, frameN := n } } :=
      ⟨_, _, _, _, _, _, _, _, _, _, eq_of_quiet (s := { s with
        results := u.results, thermal := { s.thermal with frameSum := u.thermal.frameSum, frameN := u.thermal.frameN } }) hq⟩
    have ht := turnSystem_eq { s with
      freeCount := free, cal := cal, spill := spill, mere := mere, course := course, events := events, log := log
      results := results, thermal := { s.thermal with frameSum := sum, frameN := n } }
    generalize turnSystem _ = t at ht ⊢
    have hp := refPending_switchRef t
    have hk : (switchRef t).ks = s.ks := by
      rw [ht]
      rfl
    rw [settle_of_noNewFault (.of_ks hk)]
    refine ⟨?_, ?_, ?_, hp, ?_⟩
    · rw [ht]
      simp [switchRef, hn, hd]
    · rw [ht]
      rfl
    · rw [ht]
      rfl
    · rw [ht]
      exact hfr

end Sys2Proof.Machine

namespace Sys2Proof.Machine

/-! The invariant of the step: the flash in canonical form and the waiting commands well-formed (R76, R366). -/

/-- Every well-formed command keeps queue, factory store, the flash's canonical form and a set seal bit: resets, images, Render writes, the seal and
boot transfers by their own laws, all others because they keep the whole of `State.fixed`. -/
theorem exec_keeps (c : Instr) (s : State) (hc : c.wellFormed = true) : OutKeeps s (exec c s) := by
  cases c with
  | footingStart fitted duration => exact execFootingStart_keeps fitted duration s hc
  | vddPorRelease rolesel testen => exact execVddPorRelease_keeps rolesel testen s
  | vddPorAssert rail => exact execVddPorAssert_keeps rail s
  | aoReset => exact execAoReset_keeps s
  | vddioFall => exact execVddioFall_keeps s
  | ioResetRelease => exact execIoResetRelease_keeps s
  | vinUvlo => exact execVinUvlo_keeps s
  | vinUvloEnd => exact execVinUvloEnd_keeps s
  | vddFallAoSwitch => exact execVddFallAoSwitch_keeps s
  | vratioFall => exact execVratioFall_keeps s
  | vratioRise => exact execVratioRise_keeps s
  | supplyExcursion supply volts us => exact execSupplyExcursion_keeps supply volts us s
  | supplyRise rail => exact execSupplyRise_keeps rail s
  | aoPowerOn fromVin => exact execAoPowerOn_keeps fromVin s
  | pinReset => exact execPinReset_keeps s
  | resetnRelease => exact execResetnRelease_keeps s
  | resetHoldEnd => exact execResetHoldEnd_keeps s
  | watchdogExpiry => exact execWatchdogExpiry_keeps s
  | watchdogService word => exact execWatchdogService_keeps word s
  | footingLimit => exact execFootingLimit_keeps s
  | dieTempConversion readings => exact execDieTempConversion_keeps readings s
  | reset f => exact execReset_keeps f s
  | flashWipTimeout => exact execFlashWipTimeout_keeps s
  | handover o => exact execHandover_keeps o s
  | renderEraseComplete => exact execRenderEraseComplete_keeps s
  | renderPageProgramComplete => exact execRenderPageProgramComplete_keeps s
  | renderReadbackComplete diff => exact execRenderReadbackComplete_keeps diff s
  | faultClear code => exact execFaultClear_keeps code s
  | sealComplete keyOk tagOk sealOk => exact execSealComplete_keeps keyOk tagOk sealOk s
  | assign r => exact execAssign_keeps r s
  | bootEnd r => exact execBootEnd_keeps r s
  | _ => exact .of_fixed (by simp [exec])

/-- What `Keeps` says carries the invariant to the state after. -/
theorem StepInvariant.of_keeps {s t : State} (h : StepInvariant s) (k : Keeps s t) : StepInvariant t := by
  obtain ⟨hflash, hwaiting⟩ := h
  obtain ⟨hpending, -, hcanonical, -⟩ := k
  exact ⟨hcanonical hflash, by rw [hpending]; exact hwaiting⟩

/-- Taking the front command off the queue keeps the invariant. -/
theorem StepInvariant.rest {s : State} {c : Instr} {rest : List Instr} (h : StepInvariant s) (hp : s.pending = c :: rest) :
    StepInvariant { s with pending := rest } :=
  ⟨h.1, fun d hd => h.2 d (hp ▸ List.mem_cons_of_mem c hd)⟩

/-- Settles O6: an empty queue ticks, and the front command, well-formed by the invariant, `Keeps` the rest. -/
theorem flashKeepsForm : Obligations.FlashKeepsForm := by
  intro s t h ht
  unfold step at ht
  split at ht
  next =>
    obtain rfl := Host.Outcome.next.inj ht
    exact h.of_keeps (tick_keeps s)
  next c rest hp =>
    obtain ⟨u, hu, hk⟩ := exec_keeps c { s with pending := rest } (h.2 c (hp ▸ List.mem_cons_self))
    obtain rfl := Host.Outcome.next.inj (hu.symm.trans ht)
    exact (h.rest hp).of_keeps hk

/-- Settles O7: nothing is listed and nothing waits in the reset state. -/
theorem resetMeetsInvariant : Obligations.ResetMeetsInvariant :=
  ⟨⟨⟨.nil, fun _ h => nomatch h⟩, fun _ h => nomatch h⟩, rfl, rfl, rfl, rfl, rfl⟩

end Sys2Proof.Machine

namespace Sys2Proof.Machine

/-! A mode begins, and a configuration comes into force, at handover alone (R71, R99, R128, R146). -/

/-- From `s` to `t` no mode begins, and no configuration comes into force: the one in force stays or goes. -/
structure NoMode (s t : State) : Prop where
  phase : t.phase = .running → s.phase = .running
  config : t.config = s.config ∨ t.config = none

theorem NoMode.refl (s : State) : NoMode s s := ⟨id, .inl rfl⟩

theorem NoMode.trans {s t u : State} (h : NoMode s t) (k : NoMode t u) : NoMode s u := by
  refine ⟨fun hu => h.phase (k.phase hu), ?_⟩
  rcases k.config with hc | hc
  · rw [hc]
    exact h.config
  · exact .inr hc

/-- A state with the same phase and configuration. -/
theorem NoMode.of_fixed {s t : State} (h : t.fixed = s.fixed) : NoMode s t :=
  ⟨fun ht => (congrArg Fixed.phase h).symm.trans ht, .inl (congrArg Fixed.config h)⟩

/-- A state in a phase that is no mode, with no other configuration. -/
theorem NoMode.of_phase {s t : State} (hp : t.phase ≠ .running) (hc : t.config = s.config ∨ t.config = none) : NoMode s t :=
  ⟨fun h => absurd h hp, hc⟩

@[simp] theorem fixed_phase (s : State) : s.fixed.phase = s.phase := rfl

@[simp] theorem fixed_config (s : State) : s.fixed.config = s.config := rfl

/-- A state that differs from `s` in neither phase nor configuration; said of `State.fixed`, whose laws decide it. -/
theorem NoMode.kept {s t : State} (hp : t.fixed.phase = s.phase) (hc : t.fixed.config = s.config) : NoMode s t :=
  ⟨fun h => hp.symm.trans h, .inl hc⟩

/-- `NoMode` holds of every next state of the outcome. -/
def OutNoMode (s : State) (o : Host.Outcome State Fault Refusal) : Prop := ∀ t, o = .next t → NoMode s t

theorem OutNoMode.next {s t : State} (h : NoMode s t) : OutNoMode s (.next t) := by
  rintro _ ⟨⟩
  exact h

theorem OutNoMode.of_fixed {s : State} {o : Host.Outcome State Fault Refusal} (h : outFixed o = some s.fixed) : OutNoMode s o := by
  rintro t rfl
  exact .of_fixed (Option.some.inj h)

/-! Resets. -/

theorem startReset_noMode (s : State) (k : WarmKind) : NoMode s (startReset s k) := by
  obtain ⟨hp, -, -, -, -, -, -, -, -, -, -, -, -, -, -, -, hc, -⟩ := startReset_from s k
  exact .of_phase (by rw [hp]; exact nofun) (.inr hc)

theorem powerReset_noMode (s : State) : NoMode s (powerReset s) := by
  obtain ⟨hp, -, -, -, -, -, -, -, hc, -⟩ := powerReset_from s
  exact .of_phase (by rw [hp]; decide) (.inr hc)

theorem leaveReset_noMode {s : State} {p : Phase} (h : p ≠ .running) : NoMode s (leaveReset s p) := .of_phase h (.inl rfl)

/-- Where a warm reset's own condition is over, VDDIO's reset or what follows it is no mode. -/
theorem resetOver_ne_running (s : State) : resetOver s ≠ .running := by
  unfold resetOver
  split
  · decide
  · exact afterReset_ne_running s

theorem watchdogReset_noMode (s : State) : NoMode s (watchdogReset s) :=
  .trans (.kept (by simp) (by simp)) (startReset_noMode _ _)

/-! Supplies, pins and reset ends. -/

theorem startRelease_noMode (s : State) : NoMode s (startRelease s) := by
  unfold startRelease
  dsimp only
  split <;> exact .kept rfl rfl

theorem execSupplyRise_noMode (rail : MainSupply) (s : State) : OutNoMode s (execSupplyRise rail s) := by
  refine .next (.trans ?_ (startRelease_noMode _))
  exact .kept rfl rfl

theorem execAoPowerOn_noMode (fromVin : Bool) (s : State) : OutNoMode s (execAoPowerOn fromVin s) := by
  unfold execAoPowerOn
  split <;> exact .next (.kept rfl rfl)

theorem execAoReset_noMode (s : State) : OutNoMode s (execAoReset s) := by
  unfold execAoReset
  exact .next (.of_phase (show State.reset.phase ≠ .running by decide) (.inr rfl))

theorem execVddPorAssert_noMode (rail : VddRail) (s : State) : OutNoMode s (execVddPorAssert rail s) := by
  unfold execVddPorAssert
  dsimp only
  generalize hx : (if rail = .vdd then vddFalls s else s) = x
  have h : x.fixed = s.fixed := by rw [← hx]; simp
  have hs (p : Supply) : NoMode s { x with supply := p } := (NoMode.of_fixed h).trans (.kept rfl rfl)
  split
  · exact .next (hs _)
  · exact .next (((hs _).trans (powerReset_noMode _)).trans (.kept rfl rfl))

theorem execVddPorRelease_noMode (rolesel testen : Bool) (s : State) : OutNoMode s (execVddPorRelease rolesel testen s) := by
  unfold execVddPorRelease
  split
  · exact .next (.of_phase (afterReset_ne_running _) (.inl rfl))
  · exact .next (.refl s)

theorem execVddioFall_noMode (s : State) : OutNoMode s (execVddioFall s) := by
  unfold execVddioFall
  dsimp only
  have h (p : Supply) : NoMode s { s with supply := p } := .kept rfl rfl
  split
  · exact .next (h _)
  · exact .next ((h _).trans (startReset_noMode _ _))

theorem execIoResetRelease_noMode (s : State) : OutNoMode s (execIoResetRelease s) := by
  unfold execIoResetRelease
  dsimp only
  have h (p : Supply) : NoMode s { s with supply := p } := .kept rfl rfl
  split
  · refine .next ?_
    split
    · exact (h _).trans (leaveReset_noMode (afterReset_ne_running _))
    · exact h _
  · exact .next (.refl s)

theorem execVinUvlo_noMode (s : State) : OutNoMode s (execVinUvlo s) := by
  unfold execVinUvlo
  dsimp only
  (repeat' split) <;> exact .next (.kept (by simp) (by simp))

theorem execVinUvloEnd_noMode (s : State) : OutNoMode s (execVinUvloEnd s) :=
  .next (.kept (by simp) (by simp))

theorem execVddFallAoSwitch_noMode (s : State) : OutNoMode s (execVddFallAoSwitch s) := by
  unfold execVddFallAoSwitch
  split <;> exact .next (.kept (by simp) (by simp))

theorem execVratioFall_noMode (s : State) : OutNoMode s (execVratioFall s) := by
  unfold execVratioFall
  dsimp only
  split <;> exact .next (.kept (by simp) (by simp))

theorem execVratioRise_noMode (s : State) : OutNoMode s (execVratioRise s) := by
  unfold execVratioRise
  dsimp only
  split <;> exact .next (.kept (by simp) (by simp))

theorem execSupplyExcursion_noMode (supply : Fin 5) (volts : Rat) (us : Nat) (s : State) :
    OutNoMode s (execSupplyExcursion supply volts us s) := by
  unfold execSupplyExcursion
  split <;> exact .next (.kept (by simp) (by simp))

theorem execPinReset_noMode (s : State) : OutNoMode s (execPinReset s) := by
  have h : NoMode s { s with resetnLow := true } := .kept rfl rfl
  unfold execPinReset
  dsimp only
  split
  · exact .next h
  · exact .next (h.trans (startReset_noMode _ _))

theorem execResetnRelease_noMode (s : State) : OutNoMode s (execResetnRelease s) := by
  have h : NoMode s { s with resetnLow := false } := .kept rfl rfl
  unfold execResetnRelease
  dsimp only
  split
  · exact .next (h.trans (leaveReset_noMode (resetOver_ne_running _)))
  · exact .next h

theorem execResetHoldEnd_noMode (s : State) : OutNoMode s (execResetHoldEnd s) := by
  have h : NoMode s (if s.modes.resetClk + 100 ≤ s.clk then leaveReset s (resetOver s) else s) := by
    split
    · exact leaveReset_noMode (resetOver_ne_running s)
    · exact .refl s
  unfold execResetHoldEnd
  split
  · exact .next h
  · exact .next h
  · exact .next h
  · exact .next (.refl s)

theorem execWatchdogExpiry_noMode (s : State) : OutNoMode s (execWatchdogExpiry s) := by
  unfold execWatchdogExpiry
  split
  · exact .next (watchdogReset_noMode s)
  · exact .next (.refl s)

theorem execWatchdogService_noMode (word : Byte) (s : State) : OutNoMode s (execWatchdogService word s) := by
  unfold execWatchdogService
  split
  · exact .next (.refl s)
  · split
    · exact .next (.kept rfl rfl)
    · exact .next (watchdogReset_noMode s)

theorem execFootingLimit_noMode (s : State) : OutNoMode s (execFootingLimit s) := by
  unfold execFootingLimit
  split
  · exact .next (watchdogReset_noMode s)
  · exact .next (.refl s)

theorem execDieTempConversion_noMode (readings : Vector Int 8) (s : State) : OutNoMode s (execDieTempConversion readings s) := by
  have h := takeConversions_fixed s readings
  unfold execDieTempConversion
  dsimp only
  split
  · exact .next (.refl s)
  · split
    · exact .next (.of_fixed h)
    · split
      · exact .next ((NoMode.of_fixed h).trans (startReset_noMode _ _))
      · split
        · exact .next (.of_fixed h)
        · exact .next ((NoMode.of_fixed h).trans (.of_fixed (logGeneral_fixed ..)))

/-- RESET either answers and changes no more, or answers and begins a command reset. -/
theorem execReset_noMode (f : HostFrame) (s : State) : OutNoMode s (execReset f s) := by
  unfold execReset
  extract_lets s' taken
  have h : s'.fixed = s.fixed := commandFrame_fixed _ _ _ _ _ _ (by intro s a; simp)
  split
  · exact .next (((NoMode.of_fixed h).trans (startReset_noMode s' .command)).trans (.kept rfl rfl))
  · exact .next (.of_fixed h)

/-! Images, Render and the seal. -/

theorem footingEnds_noMode (s : State) (b : Boot) (r : Option RenderCopy) : NoMode s (footingEnds s b r) :=
  .of_phase (by decide : Phase.loaded ≠ .running) (.inl rfl)

theorem loadImages_noMode (s : State) (c : FlashChip) (b : Boot) : NoMode s (loadImages s c b) := by
  unfold loadImages
  dsimp only
  split <;> exact footingEnds_noMode ..

theorem flashBegins_noMode (s : State) (b : Boot) : NoMode s (flashBegins s b) := by
  unfold flashBegins
  dsimp only
  generalize (if s.flash.present = true then bit (u8 s.flash.status05 0) 0 else s.flash.missingByte.getLsbD 0) = busy
  cases busy
  · exact loadImages_noMode ..
  · exact .kept rfl rfl

theorem footingBegins_noMode (s : State) (b : Boot) : NoMode s (footingBegins s b) := by
  unfold footingBegins
  split
  · exact footingEnds_noMode ..
  · split
    · exact .of_phase (by decide : Phase.podWait ≠ .running) (.inl rfl)
    · exact flashBegins_noMode ..

theorem execFootingStart_noMode (fitted : Option FlashChip) (duration : BitVec 32) (s : State) :
    OutNoMode s (execFootingStart fitted duration s) := by
  unfold execFootingStart
  split
  · exact .next (.refl s)
  · refine .next (.trans ?_ (footingBegins_noMode ..))
    exact .kept rfl rfl

theorem execFlashWipTimeout_noMode (s : State) : OutNoMode s (execFlashWipTimeout s) := by
  unfold execFlashWipTimeout
  split
  · exact .next (footingEnds_noMode ..)
  · exact .next (.refl s)

/-- A write to the flash on the way to a state. -/
theorem NoMode.flash {s t : State} {c : FlashChip} (h : t.fixed = { s with flash := c }.fixed) : NoMode s t :=
  .trans (t := { s with flash := c }) (.kept rfl rfl) (.of_fixed h)

theorem execRenderEraseComplete_noMode (s : State) : OutNoMode s (execRenderEraseComplete s) := by
  unfold execRenderEraseComplete
  split
  · refine .next ?_
    split
    · exact .flash (renderFail_fixed _)
    · exact .flash (setStage_fixed _ _)
  · exact .next (.flash (setStage_fixed _ _))
  · exact .next (.refl s)

theorem execRenderPageProgramComplete_noMode (s : State) : OutNoMode s (execRenderPageProgramComplete s) := by
  unfold execRenderPageProgramComplete
  split
  · refine .next ?_
    split
    · exact .flash (renderFail_fixed _)
    · exact .flash (setStage_fixed _ _)
  · exact .next (.refl s)

theorem execRenderReadbackComplete_noMode (diff : List (Nat × Byte)) (s : State) : OutNoMode s (execRenderReadbackComplete diff s) := by
  have h : NoMode s (heldSector s diff) := .kept rfl rfl
  unfold execRenderReadbackComplete
  split
  · exact .next (.refl s)
  · dsimp only
    split
    · exact .next (h.trans (.of_fixed (by split <;> simp)))
    · exact .next (h.trans (.of_fixed (renderFail_fixed _)))

theorem execFaultClear_noMode (code : Fin 28) (s : State) : OutNoMode s (execFaultClear code s) := by
  obtain ⟨t, h, k⟩ := execFaultClear_fixed code s
  rw [h]
  exact .next (.kept (congrArg Fixed.phase k) (congrArg Fixed.config k))

theorem execSealComplete_noMode (keyOk tagOk sealOk : Bool) (s : State) : OutNoMode s (execSealComplete keyOk tagOk sealOk s) := by
  unfold execSealComplete
  split
  · exact .next (.refl s)
  · dsimp only
    split <;> exact .next (.kept (by simp) (by simp))

/-! Pods. -/

/-- A frame that a pod takes begins no mode where its effect begins none. -/
theorem podRx_noMode (s : State) (type : Byte) (r : CourseRx) (body : State → State) (h : ∀ s, NoMode s (body s)) :
    NoMode s (podRx s type r body) := by
  unfold podRx
  split
  · unfold rx
    dsimp only
    split
    · exact .refl s
    · split
      · exact (NoMode.of_fixed (by simp)).trans (h _)
      · exact .of_fixed (by simp)
  · exact .refl s

theorem execAssign_noMode (r : CourseRx) (s : State) : OutNoMode s (execAssign r s) := by
  refine .next (podRx_noMode _ _ _ _ fun s => ?_)
  dsimp only
  split
  · exact .refl s
  · split
    · exact .of_fixed (by simp)
    · exact .of_fixed (by simp)
    · exact .of_fixed (by simp)
    · split
      · exact .of_fixed (by simp)
      · refine .trans ?_ (startReset_noMode _ _)
        exact .kept rfl rfl

theorem keepItem_noMode (s : State) (kind : Byte) (b : List Byte) (crc : BitVec 32) : NoMode s (keepItem s kind b crc) := by
  unfold keepItem
  dsimp only
  split
  · exact .of_phase (by decide : Phase.loaded ≠ .running) (.inl rfl)
  · exact .kept rfl rfl

theorem execBootEnd_noMode (r : CourseRx) (s : State) : OutNoMode s (execBootEnd r s) := by
  refine .next (podRx_noMode _ _ _ _ fun s => ?_)
  dsimp only
  split
  · split
    · exact .refl s
    · split
      · exact .of_fixed (originate_fixed ..)
      · split
        · exact (keepItem_noMode s _ _ _).trans (.of_fixed (originate_fixed ..))
        · exact .of_fixed (by simp)
  · exact .refl s

/-- No command but HANDOVER begins a mode: resets, images and frames by their own laws, all others because they keep the whole of
`State.fixed`. -/
theorem exec_noMode (c : Instr) (s : State) (h : ∀ o, c ≠ .handover o) : OutNoMode s (exec c s) := by
  cases c with
  | handover o => exact absurd rfl (h o)
  | vddPorRelease rolesel testen => exact execVddPorRelease_noMode rolesel testen s
  | vddPorAssert rail => exact execVddPorAssert_noMode rail s
  | aoReset => exact execAoReset_noMode s
  | vddioFall => exact execVddioFall_noMode s
  | ioResetRelease => exact execIoResetRelease_noMode s
  | vinUvlo => exact execVinUvlo_noMode s
  | vinUvloEnd => exact execVinUvloEnd_noMode s
  | vddFallAoSwitch => exact execVddFallAoSwitch_noMode s
  | vratioFall => exact execVratioFall_noMode s
  | vratioRise => exact execVratioRise_noMode s
  | supplyExcursion supply volts us => exact execSupplyExcursion_noMode supply volts us s
  | supplyRise rail => exact execSupplyRise_noMode rail s
  | aoPowerOn fromVin => exact execAoPowerOn_noMode fromVin s
  | pinReset => exact execPinReset_noMode s
  | resetnRelease => exact execResetnRelease_noMode s
  | resetHoldEnd => exact execResetHoldEnd_noMode s
  | watchdogExpiry => exact execWatchdogExpiry_noMode s
  | watchdogService word => exact execWatchdogService_noMode word s
  | footingLimit => exact execFootingLimit_noMode s
  | dieTempConversion readings => exact execDieTempConversion_noMode readings s
  | reset f => exact execReset_noMode f s
  | footingStart fitted duration => exact execFootingStart_noMode fitted duration s
  | flashWipTimeout => exact execFlashWipTimeout_noMode s
  | renderEraseComplete => exact execRenderEraseComplete_noMode s
  | renderPageProgramComplete => exact execRenderPageProgramComplete_noMode s
  | renderReadbackComplete diff => exact execRenderReadbackComplete_noMode diff s
  | faultClear code => exact execFaultClear_noMode code s
  | sealComplete keyOk tagOk sealOk => exact execSealComplete_noMode keyOk tagOk sealOk s
  | assign r => exact execAssign_noMode r s
  | bootEnd r => exact execBootEnd_noMode r s
  | _ => exact .of_fixed (by simp [exec])

/-- Settles O9, by `exec_noMode`. -/
theorem modeFromHandoverOnly : Obligations.ModeFromHandoverOnly := by
  intro c s t hc ht
  obtain ⟨hphase, hconfig⟩ := exec_noMode c s hc t ht
  exact ⟨hphase, hconfig⟩

end Sys2Proof.Machine

namespace Sys2Proof.Machine

/-! Footing: the branches of FOOTING_START and FLASH_WIP_TIMEOUT (R70 - R104). -/

theorem execFootingStart_footing {s : State} (h : s.phase = .footing) (fitted : Option FlashChip) (d : BitVec 32) :
    execFootingStart fitted d s = .next (footingBegins { s with flash := fitted.getD s.flash }
      { idValid := s.cornerstone.ok, duration := d, startClk := s.boot.startClk }) := if_neg fun hn => hn h

theorem footingBegins_badCornerstone {s : State} (h : s.cornerstone.ok = false) (b : Boot) :
    footingBegins s b = footingEnds s { b with safeCause := some 1 } none := if_pos (by rw [h]; rfl)

theorem footingBegins_pod {s : State} (h : s.cornerstone.ok = true) (hr : s.role = .pod) (b : Boot) : footingBegins s b = podBegins s b :=
  (if_neg (by rw [h]; decide)).trans (if_pos hr)

theorem footingBegins_head {s : State} (h : s.cornerstone.ok = true) (hr : s.role = .head) (b : Boot) : footingBegins s b = flashBegins s b :=
  (if_neg (by rw [h]; decide)).trans (if_neg (by rw [hr]; decide))

theorem flashBegins_busy {s : State} (hp : s.flash.present = true) (hb : bit (u8 s.flash.status05 0) 0 = true) (b : Boot) :
    flashBegins s b = { s with boot := { b with wipClk := some (s.boot.wipClk.getD s.clk) } } := if_pos ((if_pos hp).trans hb)

theorem flashBegins_idle {s : State} (hp : s.flash.present = true) (hb : bit (u8 s.flash.status05 0) 0 = false) (b : Boot) :
    flashBegins s b = loadImages s s.flash b := if_neg (by rw [if_pos hp, hb]; decide)

/-- Lines that read 0 throughout report no write in progress. -/
theorem flashBegins_missing {s : State} (hp : s.flash.present = false) (hb : s.flash.missingByte = 0x00) (b : Boot) :
    flashBegins s b = loadImages s s.flash b := if_neg (by rw [if_neg (by rw [hp]; decide), hb]; decide)

theorem execFlashWipTimeout_due {s : State} {c : Nat} (hp : s.phase = .footing) (hk : s.cornerstone.ok = true) (hr : s.role = .head)
    (hw : s.boot.wipClk = some c) (hc : c + 500000 ≤ s.clk) :
    execFlashWipTimeout s = .next (footingEnds s { s.boot with safeCause := some 2 } none) := by
  have due : (s.boot.wipClk.any fun c => decide (c + 500000 ≤ s.clk)) = true := by
    rw [hw, Option.any_some]
    exact decide_eq_true hc
  unfold execFlashWipTimeout
  rw [if_pos ⟨hp, hr, hk, due⟩]

/-! What loading the images leaves of the boot report (R73 - R101). -/

/-- `c` was begun as `b` was: the Cornerstone check and the duration are told the same, and no handover has been. -/
structure SameBegin (b c : Boot) : Prop where
  idValid : c.idValid = b.idValid
  reported : c.reported = b.reported
  duration : c.duration = b.duration

theorem SameBegin.refl (b : Boot) : SameBegin b b := ⟨rfl, rfl, rfl⟩

theorem SameBegin.trans {a b c : Boot} (h : SameBegin a b) (k : SameBegin b c) : SameBegin a c :=
  ⟨k.idValid.trans h.idValid, k.reported.trans h.reported, k.duration.trans h.duration⟩

theorem addWarnings_begin (b : Boot) (w : List (BitVec 16)) : SameBegin b (addWarnings b w) := ⟨rfl, rfl, rfl⟩

theorem loadPatch_begin (s : State) (c : FlashChip) (b : Boot) : SameBegin b (loadPatch s c b) := by
  unfold loadPatch
  dsimp only
  split <;> exact ⟨rfl, rfl, rfl⟩

theorem loadConfig_begin (s : State) (c : FlashChip) (b : Boot) : SameBegin b (loadConfig s c b) := by
  unfold loadConfig
  dsimp only
  split <;> exact ⟨rfl, rfl, rfl⟩

theorem loadMere_begin (s : State) (c : FlashChip) (b : Boot) : SameBegin b (loadMere s c b) := by
  unfold loadMere
  dsimp only
  split
  · exact ⟨rfl, rfl, rfl⟩
  · split <;> exact ⟨rfl, rfl, rfl⟩

theorem loadRender_begin (c : FlashChip) (b : Boot) : SameBegin b (loadRender c b).2 := by
  unfold loadRender
  dsimp only
  split
  · exact .refl b
  · exact .refl b
  · exact .refl b
  · dsimp only
    split
    · exact addWarnings_begin ..
    · exact .refl b

/-- The report once SFDP has been read (R77, R83, R117). -/
def sfdpBoot (c : FlashChip) (b : Boot) : Boot :=
  match readSfdp c with
  | none => addWarnings { b with erase4k := true, eraseOp := 0x20 } [6]
  | some f => { b with sfdp := true, density := BitVec.ofNat 8 (Nat.log2 (sfdpDensity f)), erase4k := (eraseCode f).isSome
                       eraseOp := BitVec.ofNat 8 ((eraseCode f).getD 0x20) }

theorem sfdpBoot_begin (c : FlashChip) (b : Boot) : SameBegin b (sfdpBoot c b) := by
  unfold sfdpBoot
  split <;> exact ⟨rfl, rfl, rfl⟩

/-- No anchor block of the flash stands. -/
def NoAnchor (c : FlashChip) : Prop :=
  anchorOk c (readSfdp c) (flashRead c 0 128) = false ∧ anchorOk c (readSfdp c) (flashRead c 0x1000 128) = false

/-- Where no anchor stands, no image is loaded (R84). -/
theorem loadImages_noAnchor {s : State} {c : FlashChip} (h : NoAnchor c) (b : Boot) :
    loadImages s c b = footingEnds s { sfdpBoot c b with safeCause := some 2 } none := by
  unfold loadImages
  dsimp only
  rw [if_pos (by rw [h.1, h.2]; rfl)]
  rfl

/-- Loading ends Footing with a report begun as the one given, whatever the flash holds. -/
theorem loadImages_ends (s : State) (c : FlashChip) (b : Boot) : ∃ b' r, loadImages s c b = footingEnds s b' r ∧ SameBegin b b' := by
  by_cases h : NoAnchor c
  · exact ⟨_, _, loadImages_noAnchor h b, (sfdpBoot_begin c b).trans ⟨rfl, rfl, rfl⟩⟩
  · have hn : ¬(!anchorOk c (readSfdp c) (flashRead c 0 128) && !anchorOk c (readSfdp c) (flashRead c 0x1000 128)) = true := by
      simpa [NoAnchor] using h
    unfold loadImages
    dsimp only
    rw [if_neg hn]
    refine ⟨_, _, rfl, (sfdpBoot_begin c b).trans (.trans ?_ (.trans (loadPatch_begin ..)
      (.trans (loadConfig_begin ..) (.trans (loadRender_begin ..) (loadMere_begin ..)))))⟩
    split <;> exact ⟨rfl, rfl, rfl⟩

/-- An anchor begins with its magic (R85). -/
theorem anchorOk_of_magic {c : FlashChip} {f : Option Sfdp} {b : List Byte} (h : b.take 4 ≠ [0x59, 0x4E, 0x41, 0x4B]) : anchorOk c f b = false := by
  unfold anchorOk
  rw [beq_eq_false_iff_ne.2 h]
  simp

/-- Lines that read 0 throughout hold no anchor. -/
theorem anchorOk_missing {c : FlashChip} (hp : c.present = false) (hb : c.missingByte = 0x00) (a : Nat) :
    anchorOk c (readSfdp c) (flashRead c a 128) = false := by
  refine anchorOk_of_magic ?_
  rw [flashRead, if_neg (by rw [hp]; decide), hb]
  decide

/-! The first mode (R128). -/

theorem rorEnter_modes (s : State) (m : Mode) : (rorEnter s m).modes = s.modes := by
  unfold rorEnter
  split <;> rfl

/-- The mode entered at handover and the causes with it are those of R128. -/
theorem bootEnter_modes (o : HandoverObs) (s : State) :
    (bootEnter o s).modes.mode = bootMode s (bootCauses o s) ∧ (bootEnter o s).modes.causes = bootCauses o s := by
  unfold bootEnter
  dsimp only
  generalize hx : raise (rorEnter _ _) 4 _ = x
  have hm : x.modes.mode = bootMode s (bootCauses o s) := by
    rw [← hx]
    exact congrArg Modes.mode (rorEnter_modes _ _)
  have hc : x.modes.causes = bootCauses o s := by
    rw [← hx]
    exact congrArg Modes.causes (rorEnter_modes _ _)
  have hl : (logGeneral x 0x07 (ownNode x) (modeCode (bootMode s (bootCauses o s))).toNat (lowestCause (bootCauses o s)) []).modes = x.modes := by
    have k := logGeneral_log (.refl x) 0x07 (ownNode x) (modeCode (bootMode s (bootCauses o s))).toNat (lowestCause (bootCauses o s)) []
    unfold LogOnly at k
    rw [k]
  generalize logGeneral x _ _ _ _ _ = y at hl
  split
  · exact ⟨(congrArg Modes.mode hl).trans hm, (congrArg Modes.causes hl).trans hc⟩
  · exact ⟨(congrArg Modes.mode hl).trans hm, (congrArg Modes.causes hl).trans hc⟩

/-- A cause for SAFE at handover. -/
theorem bootCauses_ne_zero {o : HandoverObs} {s : State}
    (h : s.modes.thermalLatch = true ∨ s.boot.safeCause.isSome = true ∨ o.sysclkRunning = false) : bootCauses o s ≠ 0 := by
  have code : ∀ n : Fin 10, BitVec.ofNat 16 (2 ^ n.val) ≠ 0 := by decide
  unfold bootCauses
  simp only [ne_eq, BitVec.ofNat_eq_ofNat, BitVec.or_eq_zero_iff, not_and_or]
  rcases h with h | h | h
  · exact .inl (.inr (by rw [h]; decide))
  · obtain ⟨n, hn⟩ := Option.isSome_iff_exists.1 h
    exact .inl (.inl (.inl (by rw [hn]; exact code n)))
  · exact .inl (.inl (.inr (by rw [h]; decide)))

/-- No cause for SAFE at handover. -/
theorem bootCauses_eq_zero {o : HandoverObs} {s : State} (ht : s.modes.thermalLatch = false) (hs : s.boot.safeCause = none)
    (hc : s.config.isSome = true) (ho : o.sysclkRunning = true) (hw : watchdogLimit s = false) : bootCauses o s = 0 := by
  have hn : s.config.isNone = false := by
    cases hx : s.config <;> simp_all
  unfold bootCauses
  rw [ht, hs, ho, hw]
  simp [hn]

end Sys2Proof.Machine

namespace Sys2Proof.Machine

/-! The parts that HANDOVER and the sweep commands speak of and that lie outside `State.fixed`: said once for every function that those commands go
through, as `State.fixed` is. -/

/-- Whether Keystone's start-up tests are complete, whether a seal was cut short, the cause of the last reset, and the sweep in progress. -/
structure Marks where
  started : Bool
  sealCut : Bool
  resetCause : Byte
  sweep : BitVec 32
  sweepOf : Option Nat
  credited : Bool

/-- Those parts of a state. -/
def State.marks (s : State) : Marks := ⟨s.ks.started, s.gate.sealCut, s.modes.resetCause, s.course.sweep, s.course.sweepOf, s.course.credited⟩

@[simp] theorem marks_mk (x0 x1 x2 x3 x4 x5 x6 x7 x8 x9 x10 x11 x12 x13 x14 x15 x16 x17 x18 x19 x20 x21 x22 x23 x24 x25 x26 x27 x28 x29 x30 x31 x32 x33 x34 x35 x36 x37) :
    (State.mk x0 x1 x2 x3 x4 x5 x6 x7 x8 x9 x10 x11 x12 x13 x14 x15 x16 x17 x18 x19 x20 x21 x22 x23 x24 x25 x26 x27 x28 x29 x30 x31 x32 x33 x34 x35 x36 x37).marks =
      ⟨x35.started, x36.sealCut, x16.resetCause, x30.sweep, x30.sweepOf, x30.credited⟩ := rfl

@[simp] theorem marks_fold (s : State) :
    (⟨s.ks.started, s.gate.sealCut, s.modes.resetCause, s.course.sweep, s.course.sweepOf, s.course.credited⟩ : Marks) = s.marks := rfl

@[simp] theorem marks_ite (c : Prop) [Decidable c] (a b : State) : (if c then a else b).marks = if c then a.marks else b.marks := apply_ite _ _ _ _

@[simp] theorem foldl_marks {α : Type} (f : State → α → State) (h : ∀ s a, (f s a).marks = s.marks) (l : List α) (s : State) :
    (l.foldl f s).marks = s.marks := foldl_keeps _ f h l s

theorem foldl_fst_marks {α β : Type} (f : State × β → α → State × β) (h : ∀ x a, (f x a).1.marks = x.1.marks) (l : List α) (x : State × β) :
    (l.foldl f x).1.marks = x.1.marks := foldl_keeps (fun x => x.1.marks) f h l x

@[simp] theorem drawFree_marks (s : State) : (drawFree s).2.marks = s.marks := by simp [drawFree]
@[simp] theorem raise_marks (s : State) (ev : Fin 32) (arg : Nat) : (raise s ev arg).marks = s.marks := by simp [raise]
@[simp] theorem logSummary_marks (n : Nat) (s : State) : (logSummary n s).marks = s.marks := by
  induction n generalizing s with
  | zero => rfl
  | succ n ih => simp [logSummary, ih]
@[simp] theorem raiseLogFull_marks (s : State) (arg : Nat) : (raiseLogFull s arg).marks = s.marks := by simp [raiseLogFull]
@[simp] theorem logRing_marks (s : State) (e : LogEntry) : (logRing s e).marks = s.marks := by simp [logRing]
@[simp] theorem logGeneral_marks (s : State) (kind : Byte) (node : Byte) (code : Nat) (arg : Nat) (data : List Byte) :
    (logGeneral s kind node code arg data).marks = s.marks := by
  simp [logGeneral]
@[simp] theorem logRecord_marks (s : State) (kind : Byte) (r : Record) : (logRecord s kind r).marks = s.marks := by simp [logRecord]
@[simp] theorem logAlarm_marks (s : State) (kind : Byte) (node : Byte) (code : Nat) (arg : Nat) (data : List Byte) :
    (logAlarm s kind node code arg data).marks = s.marks := by
  simp [logAlarm]
@[simp] theorem modEntry_marks (s : State) (v : Vcn) (f : VcnEntry → VcnEntry) : (modEntry s v f).marks = s.marks := by simp [modEntry]
@[simp] theorem sendOn_marks (s : State) (p : Fin 2) (f : CourseFrame) : (sendOn s p f).marks = s.marks := by simp [sendOn]
@[simp] theorem takeSeq_marks (s : State) (cls : Nat) : (takeSeq s cls).2.marks = s.marks := by simp [takeSeq]
@[simp] theorem originate_marks (s : State) (ports : List (Fin 2)) (type : Byte) (dst : Byte) (cls : Nat) (credit : Byte) (payload : List Byte) :
    (originate s ports type dst cls credit payload).marks = s.marks := by
  simp [originate]
@[simp] theorem writePin_marks (s : State) (pin : Fin 2) (low : Bool) : (writePin s pin low).marks = s.marks := by simp [writePin]
@[simp] theorem refreshPin_marks (s : State) (pin : Fin 2) : (refreshPin s pin).marks = s.marks := by unfold refreshPin; (repeat' split) <;> simp
@[simp] theorem refreshAout_marks (s : State) (n : Fin 2) : (refreshAout s n).marks = s.marks := by simp [refreshAout]
@[simp] theorem endHold_marks (s : State) (n : Fin 2) : (endHold s n).marks = s.marks := by
  simp [endHold]
@[simp] theorem aoutsChanged_marks (s : State) : (aoutsChanged s).marks = s.marks := by
  simp [aoutsChanged]
@[simp] theorem refreshOutputs_marks (s : State) : (refreshOutputs s).marks = s.marks := by simp [refreshOutputs]
@[simp] theorem rorLapse_marks (s : State) : (rorLapse s).marks = s.marks := by
  simp [rorLapse]
@[simp] theorem ratesAnew_marks (s : State) : (ratesAnew s).marks = s.marks := by
  simp [ratesAnew]
@[simp] theorem rorEnter_marks (s : State) (m : Mode) : (rorEnter s m).marks = s.marks := by
  simp [rorEnter]
@[simp] theorem railOff_marks (s : State) : (railOff s).marks = s.marks := by simp [railOff]
@[simp] theorem calReject_marks (s : State) (outcome : Byte) : (calReject s outcome).marks = s.marks := by unfold calReject; split <;> simp
@[simp] theorem raiseGate_marks (s : State) (kind : Nat) (bits : Nat) : (raiseGate s kind bits).marks = s.marks := by simp [raiseGate]
@[simp] theorem freeRemotePort_marks (s : State) (t : RemoteTest) : (freeRemotePort s t).marks = s.marks := by unfold freeRemotePort; split <;> simp
@[simp] theorem closeRingAgain_marks (s : State) (t : RemoteTest) : (closeRingAgain s t).marks = s.marks := by simp [closeRingAgain]
@[simp] theorem abortRemote_marks (s : State) : (abortRemote s).marks = s.marks := by unfold abortRemote; split <;> simp
@[simp] theorem stopLinkTests_marks (s : State) : (stopLinkTests s).marks = s.marks := by simp [stopLinkTests]
@[simp] theorem endSessions_marks (s : State) (bits : Nat) (kind : Option Nat) : (endSessions s bits kind).marks = s.marks := by
  unfold endSessions; split <;> simp
@[simp] theorem completeMode_marks (s : State) (new : Mode) (cause : Nat) : (completeMode s new cause).marks = s.marks := by simp [completeMode]
@[simp] theorem endFrames_marks (s : State) : (endFrames s).marks = s.marks := by simp [endFrames]
@[simp] theorem stopConversions_marks (s : State) : (stopConversions s).marks = s.marks := by simp [stopConversions]
@[simp] theorem skipClasses_marks (s : State) : (skipClasses s).marks = s.marks := by simp [skipClasses]
@[simp] theorem gateMere_marks (s : State) : (gateMere s).marks = s.marks := by unfold gateMere; split <;> simp
@[simp] theorem staleRecords_marks (s : State) : (staleRecords s).marks = s.marks := by simp [staleRecords]
@[simp] theorem skipSlot_marks (s : State) (slot : Fin 128) : (skipSlot s slot).marks = s.marks := by simp [skipSlot]
@[simp] theorem dropRequests_marks (s : State) : (dropRequests s).marks = s.marks := by unfold dropRequests; split <;> simp
@[simp] theorem addCause_marks (s : State) (cause : Nat) : (addCause s cause).marks = s.marks := by simp [addCause]
@[simp] theorem noteGone_marks (s : State) : (noteGone s).marks = s.marks := by
  simp [noteGone]
@[simp] theorem logShed_marks (s : State) (u : Shed) (restore : Bool) (shunt : Nat) : (logShed s u restore shunt).marks = s.marks := by simp [logShed]
@[simp] theorem chainLimits_marks (s : State) : (chainLimits s).marks = s.marks := by
  simp [chainLimits]
@[simp] theorem safeRail_marks (s : State) : (safeRail s).marks = s.marks := by unfold safeRail; (repeat' split) <;> simp
@[simp] theorem stopHeaters_marks (s : State) : (stopHeaters s).marks = s.marks := by simp [stopHeaters]
@[simp] theorem dropRun_marks (s : State) : (dropRun s).marks = s.marks := by simp [dropRun]
@[simp] theorem stopForSafe_marks (s : State) : (stopForSafe s).marks = s.marks := by simp [stopForSafe]
@[simp] theorem enterSafe_marks (s : State) (cause : Nat) : (enterSafe s cause).marks = s.marks := by simp [enterSafe]
@[simp] theorem noteSeen_marks (s : State) (code : Fin 28) : (noteSeen s code).marks = s.marks := by
  simp [noteSeen]
@[simp] theorem recordFault_marks (s : State) (code : Fin 28) (arg : Nat) (evArg : Nat) (masked : Bool) :
    (recordFault s code arg evArg masked).marks = s.marks := by
  simp [recordFault]
@[simp] theorem declareWith_marks (s : State) (code : Fin 28) (arg : Nat) (evArg : Nat) (masked : Bool) :
    (declareWith s code arg evArg masked).marks = s.marks := by
  simp [declareWith]
@[simp] theorem declare_marks (s : State) (code : Fin 28) (arg : Nat) (masked : Bool) : (declare s code arg masked).marks = s.marks := by simp [declare]
@[simp] theorem declareOpen_marks (s : State) (code : Fin 28) (masked : Bool) : (declareOpen s code masked).marks = s.marks := by simp [declareOpen]
@[simp] theorem noteOpen_marks (s : State) (code : Fin 28) (masked : Bool) : (noteOpen s code masked).marks = s.marks := by simp [noteOpen]
@[simp] theorem settle_marks (s t : State) : (settle s t).marks = t.marks := by unfold settle; split <;> simp
@[simp] theorem clearFault_marks (s : State) (code : Fin 28) : (clearFault s code).marks = s.marks := by simp [clearFault]
@[simp] theorem plumbStop_marks (s : State) : (plumbStop s).marks = s.marks := by simp [plumbStop]
@[simp] theorem sendAlarm_marks (s : State) : (sendAlarm s).marks = s.marks := by simp [sendAlarm]
@[simp] theorem chainChanged_marks (s : State) : (chainChanged s).marks = s.marks := by simp [chainChanged]
@[simp] theorem ruleOutputs_marks (s : State) (k : Nat) : (ruleOutputs s k).marks = s.marks := by simp [ruleOutputs]
@[simp] theorem setRule_marks (s : State) (k : Fin 256) (new : RuleState) (first : Bool) : (setRule s k new first).marks = s.marks := by
  simp [setRule]
@[simp] theorem evaluateAs_marks (code : Fin 28) (s : State) (k : Fin 256) (setm : Bool) (clrm : Bool) (value : F32) (mismatch : Bool) :
    (evaluateAs code s k setm clrm value mismatch).marks = s.marks := by
  simp [evaluateAs]
@[simp] theorem evaluate_marks (s : State) (k : Fin 256) (setm : Bool) (clrm : Bool) (value : F32) (bad : List (Fin 256)) :
    (evaluate s k setm clrm value bad).marks = s.marks := by
  simp [evaluate]
@[simp] theorem evalRecord_marks (s : State) (k : Fin 256) (r : Record) (bad : List (Fin 256)) : (evalRecord s k r bad).marks = s.marks := by
  unfold evalRecord; (repeat' split) <;> simp
@[simp] theorem accumulate_marks (s : State) (k : Fin 256) (r : Record) (weight : Rat) : (accumulate s k r weight).marks = s.marks := by
  simp [accumulate]
@[simp] theorem spillRecord_marks (s : State) (r : Record) (weight : Rat) (bad : List (Fin 256)) : (spillRecord s r weight bad).1.marks = s.marks := by
  simp [spillRecord]
@[simp] theorem modKinds_marks (s : State) (kinds : List Nat) (f : Rule → Rule) : (modKinds s kinds f).marks = s.marks := by simp [modKinds]
@[simp] theorem spillStep_marks (s : State) (old : Nat) : (spillStep s old).marks = s.marks := by simp [spillStep]
@[simp] theorem startStance_marks (s : State) (k : Fin 256) : (startStance s k).marks = s.marks := by simp [startStance]
@[simp] theorem startRule_marks (logged : Bool) (s : State) (k : Fin 256) : (startRule logged s k).marks = s.marks := by
  unfold startRule; simp
@[simp] theorem startRules_marks (s : State) (logged : Bool) : (startRules s logged).marks = s.marks := by simp [startRules]
@[simp] theorem mereDisturbed_marks (s : State) (cause : Byte) : (mereDisturbed s cause).marks = s.marks := by simp [mereDisturbed]
@[simp] theorem encEmit_marks (s : State) (e : Fin 64) (isUp : Bool) (ev : MereEvent) : (encEmit s e isUp ev).marks = s.marks := by simp [encEmit]
@[simp] theorem encTake_marks (s : State) (e : Fin 64) (v : F32) : (encTake s e v).marks = s.marks := by simp [encTake]
@[simp] theorem encodeRecord_marks (s : State) (r : Record) : (encodeRecord s r).marks = s.marks := by simp [encodeRecord]
@[simp] theorem calCollect_marks (s : State) (r : Record) : (calCollect s r).marks = s.marks := by unfold calCollect; split <;> simp
@[simp] theorem ratioNote_marks (s : State) (n : Fin 2) : (ratioNote s n).marks = s.marks := by simp only [ratioNote]; split <;> simp
@[simp] theorem ratioMiss_marks (s : State) (n : Fin 2) : (ratioMiss s n).marks = s.marks := by simp [ratioMiss]
@[simp] theorem skipVcn_marks (s : State) (v : Vcn) : (skipVcn s v).marks = s.marks := by simp [skipVcn]
@[simp] theorem startVcn_marks (s : State) (v : Vcn) : (startVcn s v).marks = s.marks := by simp [startVcn]
@[simp] theorem keepRecord_marks (s : State) (r : Record) (bad : List (Fin 256)) : (keepRecord s r bad).marks = s.marks := by
  unfold keepRecord; simp
@[simp] theorem storeRecord_marks (s : State) (r : Record) (bad : List (Fin 256)) : (storeRecord s r bad).marks = s.marks := by
  unfold storeRecord; (repeat' split) <;> simp
@[simp] theorem missingRecord_marks (s : State) (v : Vcn) (e : VcnEntry) : (missingRecord s v e).2.marks = s.marks := by
  simp only [missingRecord]; (repeat' split) <;> simp
@[simp] theorem railBegin_marks (s : State) : (railBegin s).marks = s.marks := by unfold railBegin; (repeat' split) <;> simp
@[simp] theorem railFollow_marks (s : State) : (railFollow s).marks = s.marks := by simp [railFollow]
@[simp] theorem declareEvent_marks (s : State) (code : Fin 28) (arg : Nat) (evArg : Nat) (masked : Bool) :
    (declareEvent s code arg evArg masked).marks = s.marks := by
  simp [declareEvent]
@[simp] theorem switchStart_marks (s : State) (w : Fin 2) : (switchStart s w).marks = s.marks := by simp [switchStart]
@[simp] theorem restartProfile_marks (s : State) (n : Fin 6) : (restartProfile s n).marks = s.marks := by simp [restartProfile]
@[simp] theorem clearClasses_marks (s : State) (forget : Bool) : (clearClasses s forget).marks = s.marks := by simp [clearClasses]
@[simp] theorem startClasses_marks (s : State) : (startClasses s).marks = s.marks := by simp [startClasses]
@[simp] theorem ungateMere_marks (s : State) : (ungateMere s).marks = s.marks := by unfold ungateMere; split <;> simp
@[simp] theorem clearTarns_marks (s : State) : (clearTarns s).marks = s.marks := by simp [clearTarns]
@[simp] theorem stepMere_marks (s : State) (d : Int) : (stepMere s d).marks = s.marks := by simp [stepMere]
@[simp] theorem calNote_marks (s : State) (k : CalKind) (v : Vcn) : (calNote s k v).marks = s.marks := by simp [calNote]
@[simp] theorem calStart_marks (s : State) (k : CalKind) (v : Vcn) (ref : F32) (late : Bool) : (calStart s k v ref late).marks = s.marks := by
  simp [calStart]
@[simp] theorem startSweep_marks (late : Bool) (s : State) (n : Fin 8) : (startSweep late s n).marks = s.marks := by simp [startSweep]
@[simp] theorem modSlot_marks (s : State) (k : Fin 128) (f : Slot → Slot) : (modSlot s k f).marks = s.marks := by simp [modSlot]
theorem slotMode_marks (leave : State → Mode → State) (hl : ∀ s m, (leave s m).marks = s.marks) (s : State) (k : Fin 128) (m : Mode) (p : Byte × State)
    (h : slotMode leave s k m = some p) : p.2.marks = s.marks := by
  unfold slotMode at h
  dsimp only at h
  (repeat' split at h) <;> cases h <;> simp [hl]
theorem slotEffect_marks (leave : State → Mode → State) (hl : ∀ s m, (leave s m).marks = s.marks) (s : State) (k : Fin 128) (x : Slot) (late : Bool)
    (p : Byte × State) (h : slotEffect leave s k x late = some p) : p.2.marks = s.marks := by
  unfold slotEffect at h
  dsimp only at h
  split at h
  · exact slotMode_marks leave hl _ _ _ _ h
  all_goals cases h; simp
@[simp] theorem startSlot_marks (leave : State → Mode → State) (hl : ∀ s m, (leave s m).marks = s.marks) (s : State) (k : Fin 128) (force : Bool) :
    (startSlot leave s k force).marks = s.marks := by
  unfold startSlot
  dsimp only
  split
  · rfl
  · split
    · simp
    · rename_i h
      have := slotEffect_marks leave hl _ _ _ _ _ h
      split <;> simpa using this
@[simp] theorem slotDue_marks (leave : State → Mode → State) (hl : ∀ s m, (leave s m).marks = s.marks) (s : State) (k : Fin 128) (force : Bool) : (slotDue leave s k force).marks = s.marks := by
  unfold slotDue; dsimp only; (repeat' split) <;> simp [hl]
@[simp] theorem expireSlot_marks (s : State) (k : Fin 128) : (expireSlot s k).marks = s.marks := by simp [expireSlot]
@[simp] theorem pastDue_marks (leave : State → Mode → State) (hl : ∀ s m, (leave s m).marks = s.marks) (s : State) (k : Fin 128) : (pastDue leave s k).marks = s.marks := by
  unfold pastDue; dsimp only; (repeat' split) <;> simp [hl]
@[simp] theorem pastDueAll_marks (leave : State → Mode → State) (hl : ∀ s m, (leave s m).marks = s.marks) (s : State) : (pastDueAll leave s).marks = s.marks := by
  simp [pastDueAll, hl]
@[simp] theorem sluiceStep_marks (leave : State → Mode → State) (hl : ∀ s m, (leave s m).marks = s.marks) (s : State) (old : Nat) : (sluiceStep leave s old).marks = s.marks := by
  unfold sluiceStep; dsimp only; split <;> simp [hl]
@[simp] theorem loadSluice_marks (leave : State → Mode → State) (hl : ∀ s m, (leave s m).marks = s.marks) (s : State) : (loadSluice leave s).marks = s.marks := by
  simp [loadSluice, hl]
@[simp] theorem leaveSafe_marks (s : State) (m : Mode) : (leaveSafe s m).marks = s.marks := by simp [leaveSafe]
@[simp] theorem putUnits_marks (s : State) (u : Nat) : (putUnits s u).marks = s.marks := by simp [putUnits]
@[simp] theorem dropFrames_marks (s : State) : (dropFrames s).marks = s.marks := by simp [dropFrames]
@[simp] theorem noteStep_marks (s : State) : (noteStep s).marks = s.marks := by simp [noteStep]
@[simp] theorem stepForward_marks (s : State) (o : Nat) (n : Nat) : (stepForward s o n).marks = s.marks := by simp [stepForward]
@[simp] theorem stepPhase_marks (s : State) (u : Nat) : (stepPhase s u).marks = s.marks := by simp [stepPhase]
@[simp] theorem plumbStepTo_marks (s : State) (u : Nat) : (plumbStepTo s u).marks = s.marks := by simp [plumbStepTo]
@[simp] theorem completeChange_marks (s : State) : (completeChange s).marks = s.marks := by simp [completeChange]
@[simp] theorem withSlew_marks (s : State) (r : Option Int) : (withSlew s r).marks = s.marks := by simp [withSlew]
@[simp] theorem movePhase_marks (s : State) (err : Int) (step : Bool) : (movePhase s err step).marks = s.marks := by simp [movePhase]
@[simp] theorem enterSource_marks (s : State) (st : TimeState) (change : Bool) : (enterSource s st change).marks = s.marks := by simp [enterSource]
@[simp] theorem qualifySource_marks (s : State) (st : TimeState) (err : Int) : (qualifySource s st err).marks = s.marks := by simp [qualifySource]
@[simp] theorem enterHoldover_marks (s : State) : (enterHoldover s).marks = s.marks := by simp [enterHoldover]
@[simp] theorem setValid_marks (s : State) : (setValid s).marks = s.marks := by simp [setValid]
@[simp] theorem takeChain_marks (s : State) (qualifies : Bool) : (takeChain s qualifies).marks = s.marks := by simp [takeChain]
@[simp] theorem loseSource_marks (s : State) : (loseSource s).marks = s.marks := by unfold loseSource; (repeat' split) <;> simp
@[simp] theorem changeSource_marks (s : State) (c : SourceChange) : (changeSource s c).marks = s.marks := by
  unfold changeSource; (repeat' split) <;> simp
@[simp] theorem takeHeld_marks (s : State) (moved : Int) : (takeHeld s moved).marks = s.marks :=
  foldl_marks _ (fun s _ => changeSource_marks s _) _ _
@[simp] theorem originateEach_marks (s : State) (ports : List (Fin 2)) (type : Byte) (dst : Byte) (cls : Nat) (make : State → Fin 2 → List Byte) :
    (originateEach s ports type dst cls make).marks = s.marks := by
  simp [originateEach]
@[simp] theorem lowerVersion_marks (s : State) : (lowerVersion s).marks = s.marks := by
  simp only [lowerVersion]; (repeat' split) <;> simp
@[simp] theorem sendDiscover_marks (s : State) (full : Bool) (ports : List (Fin 2)) : (sendDiscover s full ports).marks = s.marks := by
  simp [sendDiscover]
@[simp] theorem discoverFull_marks (s : State) : (discoverFull s).marks = s.marks := by simp [discoverFull]
@[simp] theorem modNode_marks (s : State) (addr : Nat) (f : Node → Node) : (modNode s addr f).marks = s.marks := by simp [modNode]
@[simp] theorem allocate_marks (s : State) (node : Nat) (g : Nat → List Byte) : (allocate s node g).marks = s.marks := by simp [allocate]
@[simp] theorem setNode_marks (s : State) (n : Node) : (setNode s n).marks = s.marks := by simp [setNode]
@[simp] theorem ringSides_marks (s : State) : (ringSides s).marks = s.marks := by simp [ringSides]
@[simp] theorem takeRoom_marks (s : State) (side : Fin 2) (n : Nat) : (takeRoom s side n).marks = s.marks := by
  simp [takeRoom]
@[simp] theorem sendService_marks (s : State) (n : Node) (type : Byte) (credit : Byte) (p : List Byte) :
    (sendService s n type credit p).marks = s.marks := by
  simp [sendService]
theorem request_marks (s : State) (n : Node) (wire : Nat) (send : State → State) (h : (send s).marks = s.marks) :
    (request s n wire send).marks = s.marks := by
  simp [request, h]
@[simp] theorem sendRender_marks (s : State) (n : Node) : (sendRender s n).marks = s.marks := by
  unfold sendRender; dsimp only
  split
  · exact request_marks _ _ _ _ (foldl_marks _ (fun s _ => sendService_marks ..) _ _)
  · rfl
@[simp] theorem sendOperation_marks (s : State) (op : ServiceOp) : (sendOperation s op).marks = s.marks := by
  unfold sendOperation; dsimp only
  split
  · rfl
  · exact request_marks _ _ _ _ (sendService_marks ..)
@[simp] theorem sendPoll_marks (s : State) (n : Node) : (sendPoll s n).marks = s.marks := by
  simp [sendPoll, request_marks]
@[simp] theorem sendPolls_marks (s : State) : (sendPolls s).marks = s.marks := by
  simp [sendPolls]
@[simp] theorem sendBacklog_marks (x : State × Nat) (n : Node) : (sendBacklog x n).1.marks = x.1.marks := by
  unfold sendBacklog; dsimp only; (repeat' split) <;> simp
@[simp] theorem announceTest_marks (s : State) : (announceTest s).marks = s.marks := by
  simp only [announceTest]; (repeat' split) <;> simp
@[simp] theorem serveSweep_marks (s : State) : (serveSweep s).marks = s.marks := by
  unfold serveSweep
  dsimp only
  rw [foldl_fst_marks _ sendBacklog_marks, foldl_marks _ sendOperation_marks, announceTest_marks, foldl_marks _ sendRender_marks, sendPolls_marks]
  simp only [marks_mk, marks_fold]
@[simp] theorem splitSides_marks (s : State) (t : RemoteTest) : (splitSides s t).marks = s.marks := by simp [splitSides]
@[simp] theorem remoteSweep_marks (s : State) : (remoteSweep s).marks = s.marks := by
  unfold remoteSweep; (repeat' split) <;> simp
@[simp] theorem ringAfterTest_marks (s : State) : (ringAfterTest s).marks = s.marks := by
  simp only [ringAfterTest]; (repeat' split) <;> simp
@[simp] theorem beginSweep_marks (s : State) : (beginSweep s).marks = s.marks := by
  simp only [beginSweep]; (repeat' split) <;> simp
@[simp] theorem writeMissing_marks (bad : List (Fin 256)) (s : State) (node : Nat) : (writeMissing bad s node).marks = s.marks := by
  unfold writeMissing
  refine foldl_marks _ (fun s v => ?_) _ _
  split <;> simp
@[simp] theorem loseNode_marks (s : State) (n : Node) : (loseNode s n).marks = s.marks := by simp [loseNode]
@[simp] theorem endNode_marks (bad : List (Fin 256)) (s : State) (a : Byte) : (endNode bad s a).marks = s.marks := by unfold endNode; (repeat' split) <;> simp
@[simp] theorem reportBreak_marks (s : State) (side : Fin 2) (b : Byte) : (reportBreak s side b).marks = s.marks := by simp [reportBreak]
@[simp] theorem openRing_marks (s : State) : (openRing s).marks = s.marks := by simp [openRing]
@[simp] theorem locateBreaks_marks (s : State) : (locateBreaks s).marks = s.marks := by simp [locateBreaks]
@[simp] theorem overloadEnd_marks (s : State) : (overloadEnd s).marks = s.marks := by simp [overloadEnd]
@[simp] theorem missingDone_marks (s : State) : (missingDone s).marks = s.marks := by unfold missingDone; (repeat' split) <;> simp
@[simp] theorem modPod_marks (s : State) (f : Pod → Pod) : (modPod s f).marks = s.marks := by simp [modPod]
@[simp] theorem checkLogs_marks (o : HandoverObs) (s : State) : (checkLogs o s).marks = s.marks := by simp [checkLogs]
@[simp] theorem bootWarnings_marks (s : State) : (bootWarnings s).marks = s.marks := by simp [bootWarnings]
@[simp] theorem dropSource_marks (s : State) : (dropSource s).marks = s.marks := by simp [dropSource]
@[simp] theorem resumePps_marks (s : State) : (resumePps s).marks = s.marks := by
  unfold resumePps
  dsimp only
  split <;> rfl
@[simp] theorem bootSources_marks (s : State) : (bootSources s).marks = s.marks := by
  simp [bootSources]
@[simp] theorem bootTime_marks (o : HandoverObs) (s : State) : (bootTime o s).marks = s.marks := by simp [bootTime]
@[simp] theorem bootOld_marks (s : State) : (bootOld s).2.marks = s.marks := by unfold bootOld; split <;> simp
@[simp] theorem bootAnalog_marks (s : State) : (bootAnalog s).marks = s.marks := by simp [bootAnalog]
@[simp] theorem bootRail_marks (s : State) : (bootRail s).marks = s.marks := by simp [bootRail]
@[simp] theorem bootRules_marks (s : State) : (bootRules s).marks = s.marks := by simp [bootRules]
@[simp] theorem setRatioFaults_marks (s : State) (b : Bool) : (setRatioFaults s b).marks = s.marks := rfl
@[simp] theorem bootAouts_marks (s : State) : (bootAouts s).marks = s.marks := by
  unfold bootAouts
  dsimp only
  split
  · rfl
  · rw [declareOpen_marks, setRatioFaults_marks]
    rfl
@[simp] theorem bootSpill_marks (s : State) : (bootSpill s).marks = s.marks := by simp [bootSpill]
@[simp] theorem bootResults_marks (s : State) : (bootResults s).marks = s.marks := by
  unfold bootResults
  dsimp only
  split
  · simp
  · refine (foldl_marks _ (fun s a => ?_) _ _).trans (allocate_marks ..)
    split <;> simp
@[simp] theorem bootMere_marks (s : State) : (bootMere s).marks = s.marks := by simp [bootMere]
@[simp] theorem bootCourse_marks (s : State) : (bootCourse s).marks = s.marks := by unfold bootCourse; (repeat' split) <;> simp
@[simp] theorem bootWatchdog_marks (s : State) : (bootWatchdog s).marks = s.marks := by simp [bootWatchdog]

/-! HANDOVER (R72, R758, R776): the state before its last two steps, and what those tell. -/

@[simp] theorem applyConfig_marks (s : State) : (applyConfig s).marks = s.marks := by
  unfold applyConfig
  split <;> rfl

@[simp] theorem bootEnter_marks (o : HandoverObs) (s : State) : (bootEnter o s).marks = s.marks := by
  have entered (y : State) (l : CisternLog) (m : Modes) (h : m.resetCause = y.modes.resetCause) :
      ({ y with phase := .running, log := l, modes := m } : State).marks = y.marks := by
    simp only [State.marks, h]
  unfold bootEnter
  dsimp only
  generalize hx : rorEnter _ _ = x
  have h : x.marks = s.marks := by
    rw [← hx, rorEnter_marks, ← bootOld_marks s]
    exact entered _ _ _ rfl
  split
  · rw [raise_marks]
    simp only [marks_mk, marks_fold, logGeneral_marks, raise_marks, h]
  · rw [logGeneral_marks, raise_marks, h]

theorem bootKeystone_marks (o : HandoverObs) (s : State) : (bootKeystone o s).marks = { s.marks with started := false } := by
  unfold bootKeystone
  dsimp only
  split
  · rfl
  · exact declareOpen_marks _ _ _

/-- The state that HANDOVER has reached when it turns to a watchdog reset and to a seal cut short. -/
def handedOver (o : HandoverObs) (s : State) : State :=
  let s := applyConfig { s with boot := { s.boot with reported := true } }
  let s := bootEnter o (bootTime o (bootWarnings (checkLogs o s)))
  let s := bootResults (bootAnalog s)
  let s := bootRail (bootMere s)
  let s := bootSpill (bootKeystone o s)
  bootCourse (loadSluice leaveSafe s)

theorem execHandover_loaded {s : State} (h : s.phase = .loaded) (o : HandoverObs) :
    execHandover o s = .next (markBoot (bootSeal (bootWatchdog (handedOver o s)))) := if_neg fun hn => hn h

/-- Keystone's start-up tests begin at handover; what the last reset left to tell is still there. -/
theorem handedOver_marks (o : HandoverObs) (s : State) : (handedOver o s).marks = { s.marks with started := false } := by
  unfold handedOver
  dsimp only
  rw [bootCourse_marks, loadSluice_marks _ leaveSafe_marks, bootSpill_marks, bootKeystone_marks, bootRail_marks, bootMere_marks, bootResults_marks,
    bootAnalog_marks, bootEnter_marks, bootTime_marks, bootWarnings_marks, checkLogs_marks, applyConfig_marks]
  rfl

theorem bootSeal_ks (s : State) : (bootSeal s).ks = s.ks := by
  unfold bootSeal
  split <;> rfl

/-- A seal that a reset cut short is told once: EV28 is pending, and the mark is gone. -/
theorem bootSeal_cut {s : State} (h : s.gate.sealCut = true) :
    (bootSeal s).events.pending.getLsbD 28 = true ∧ (bootSeal s).gate.sealCut = false := by
  unfold bootSeal
  rw [if_pos h]
  exact ⟨raiseGate_pending _ _ _, rfl⟩

theorem bootWatchdog_active {s : State} (h : s.modes.resetCause = 4) : faultActive (bootWatchdog s) 0x1A = true := by
  unfold bootWatchdog
  rw [if_pos h]
  exact declareOpen_active _ _ _

/-- FAULTn is low while Keystone's start-up tests are not complete (R743). -/
theorem faultnLow_of_not_started {s : State} (h : s.ks.started = false) : faultnLow s = true := by
  unfold faultnLow copyDrives
  rw [h]
  simp

theorem unstarted_of_marks {s t : State} (h : t.marks = { s.marks with started := false }) :
    t.ks.started = false ∧ t.gate.sealCut = s.gate.sealCut ∧ t.modes.resetCause = s.modes.resetCause :=
  ⟨congrArg Marks.started h, congrArg Marks.sealCut h, congrArg Marks.resetCause h⟩

/-- After HANDOVER: FAULTn low, EV28 for a seal cut short, code 0x1A after a watchdog reset. -/
theorem execHandover_tells {s t : State} {o : HandoverObs} (h : s.phase = .loaded) (ht : execHandover o s = .next t) :
    faultnLow t = true ∧ (s.gate.sealCut = true → t.events.pending.getLsbD 28 = true ∧ t.gate.sealCut = false) ∧
      (s.modes.resetCause = 4 → faultActive t 0x1A = true) := by
  rw [execHandover_loaded h, Host.Outcome.next.injEq] at ht
  subst ht
  obtain ⟨-, -, hcause⟩ := unstarted_of_marks (handedOver_marks o s)
  generalize hx : handedOver o s = x at hcause
  obtain ⟨hstarted, hcut, -⟩ := unstarted_of_marks ((bootWatchdog_marks x).trans (hx ▸ handedOver_marks o s))
  have hactive : s.modes.resetCause = 4 → faultActive (bootWatchdog x) 0x1A = true := fun hr => bootWatchdog_active (hcause.trans hr)
  generalize bootWatchdog x = u at hstarted hcut hactive
  have hk : (markBoot (bootSeal u)).ks = u.ks := bootSeal_ks u
  refine ⟨faultnLow_of_not_started ?_, fun hc => bootSeal_cut (hcut.trans hc), fun hr => ?_⟩
  · rw [hk, hstarted]
  · rw [faultActive, hk]
    exact hactive hr

end Sys2Proof.Machine

namespace Sys2Proof.Machine

/-! Footing that nothing holds up (R73, R76, R104). -/

/-- The phase that FOOTING_START leads to. -/
def readyPhase : Role → Phase
  | .pod => .podWait
  | .head => .loaded

/-- With a good Cornerstone and, in a head, a flash that is fitted and idle, Footing goes through at once. -/
theorem footingBegins_ready {u : State} {b : Boot} (hk : u.cornerstone.ok = true)
    (h : u.role = .pod ∨ (u.flash.present = true ∧ bit (u8 u.flash.status05 0) 0 = false)) :
    (footingBegins u b).phase = readyPhase u.role ∧ (footingBegins u b).boot.idValid = b.idValid ∧
      (footingBegins u b).boot.duration = b.duration ∧ (footingBegins u b).flash = u.flash ∧ (footingBegins u b).pending = u.pending := by
  cases hr : u.role with
  | pod =>
    rw [footingBegins_pod hk hr]
    exact ⟨rfl, rfl, rfl, rfl, rfl⟩
  | head =>
    obtain ⟨hpresent, hidle⟩ := h.resolve_left (by rw [hr]; decide)
    obtain ⟨b', r, hl, hb⟩ := loadImages_ends u u.flash b
    rw [footingBegins_head hk hr, flashBegins_idle hpresent hidle, hl]
    exact ⟨rfl, hb.idValid, hb.duration, rfl, rfl⟩

/-! The sweep of a head: what SWEEP_TICK, CREDIT_SEND and SWEEP_END leave of the sweep in progress (R609, R611, R616, R638). -/

/-- What the length of a sweep depends on: the mode and the configuration. -/
theorem headS_congr {s t : State} (hm : t.modes = s.modes) (hc : t.config = s.config) : headS t = headS s := by
  unfold headS sec
  rw [hm, hc]

theorem ringAfterTest_modes (s : State) : (ringAfterTest s).modes = s.modes := by
  unfold ringAfterTest
  dsimp only
  split <;> rfl

theorem remoteSweep_modes (s : State) : (remoteSweep s).modes = s.modes := by
  unfold remoteSweep
  split
  · rfl
  · dsimp only
    repeat' split
    all_goals rfl

theorem beginSweep_modes (s : State) : (beginSweep s).modes = s.modes := (remoteSweep_modes _).trans (ringAfterTest_modes _)

theorem beginSweep_headS (s : State) : headS (beginSweep s) = headS s :=
  headS_congr (beginSweep_modes s) (congrArg Fixed.config (beginSweep_fixed s))

theorem beginSweep_sweep (s : State) : (beginSweep s).course.sweep = s.course.sweep := congrArg Marks.sweep (beginSweep_marks s)

/-- A command that leaves the fixed parts leaves the queue. -/
theorem pending_of_outFixed {s t : State} {x : Host.Outcome State Fault Refusal} (h : outFixed x = some s.fixed) (ht : x = .next t) :
    t.pending = s.pending := by
  rw [ht, outFixed_next, Option.some.injEq] at h
  exact congrArg Fixed.pending h

/-- The guard of the head's sweep commands. -/
theorem guard_of_head {s : State} {b : Bool} (hr : s.role = .head) (ha : isActive s = true) (hb : b = true) :
    ¬(s.role ≠ .head || !isActive s || !b) = true := by
  rw [hr, ha, hb]
  decide

/-- SWEEP_TICK at a whole multiple of S: the next sweep, of the present length, its credits not sent. -/
theorem execSweepTick_begins {s : State} (hr : s.role = .head) (ha : isActive s = true) (hu : usedPorts s ≠ []) (ho : onTime s (headS s) = true) :
    ∃ t, execSweepTick s = .next t ∧
      t.marks = { s.marks with sweep := s.course.sweep + 1, sweepOf := some (headS s), credited := false } := by
  have hn : ¬(s.role ≠ .head || !isActive s || (usedPorts s).isEmpty || !onTime s (headS s)) = true := by
    rw [hr, ha, ho, List.isEmpty_eq_false_iff.2 hu]
    decide
  unfold execSweepTick
  rw [if_neg hn]
  refine ⟨_, rfl, ?_⟩
  dsimp only
  rw [serveSweep_marks, originateEach_marks, marks_mk]
  dsimp only
  rw [beginSweep_headS, beginSweep_sweep, ← beginSweep_marks s]
  rfl

/-- CREDIT_SEND 1 ms into the sweep: its credits are sent, and with them nothing else of it changes. -/
theorem execCreditSend_credits {s : State} (hr : s.role = .head) (ha : isActive s = true) (hd : creditDue s = true) :
    ∃ t, execCreditSend s = .next t ∧ t.marks = { s.marks with credited := true } := by
  unfold execCreditSend
  dsimp only
  rw [if_neg (guard_of_head hr ha hd)]
  split
  · refine ⟨_, rfl, ?_⟩
    rw [foldl_marks _ fun u p => foldl_marks _ (fun u q => originate_marks ..) _ _]
    rfl
  · exact ⟨_, rfl, rfl⟩

/-- SWEEP_END at the sweep's end: no sweep is in progress. -/
theorem execSweepEnd_ends {s : State} (hr : s.role = .head) (ha : isActive s = true) (ho : sweepOver s = true) (bad : List (Fin 256)) :
    ∃ t, execSweepEnd bad s = .next t ∧ t.marks = { s.marks with sweepOf := none } := by
  unfold execSweepEnd
  rw [if_neg (guard_of_head hr ha ho)]
  refine ⟨_, rfl, ?_⟩
  rw [settle_marks, overloadEnd_marks, missingDone_marks, foldl_marks _ (endNode_marks bad), locateBreaks_marks]
  rfl

/-- Settles O60: the branches of FOOTING_START and FLASH_WIP_TIMEOUT, what HANDOVER tells, and what each sweep command leaves of the sweep in
progress; the queue is among the parts that all of them leave. -/
theorem footingHandoverAndSweepsComplete : Obligations.FootingHandoverAndSweepsComplete := by
  unfold Obligations.FootingHandoverAndSweepsComplete
  refine ⟨fun s fitted d hp hk h => ?footing, fun s c hp hk hr hw hc => ?timeout, fun s o hp => ?handover, fun s hr ha hu ho => ?tick,
    fun s hr ha hd => ?credit, fun s bad hr ha ho => ?sweepEnd⟩
  case footing =>
    obtain ⟨hphase, hid, hduration, hflash, hpending⟩ := footingBegins_ready (u := { s with flash := fitted.getD s.flash })
      (b := { idValid := s.cornerstone.ok, duration := d, startClk := s.boot.startClk }) hk h
    exact ⟨_, execFootingStart_footing hp fitted d, hphase, hid.trans hk, hduration, hflash, hpending⟩
  case timeout => exact ⟨_, execFlashWipTimeout_due hp hk hr hw hc, rfl, rfl, rfl⟩
  case handover =>
    obtain ⟨t, ht, hf⟩ := execHandover_fixed o s hp
    rw [applyConfig_fixed] at hf
    obtain ⟨hlow, hcut, hwatchdog⟩ := execHandover_tells hp ht
    exact ⟨t, ht, congrArg Fixed.phase hf, hlow, congrArg Fixed.pending hf, hcut, hwatchdog⟩
  case tick =>
    obtain ⟨t, ht, hm⟩ := execSweepTick_begins hr ha hu ho
    exact ⟨t, ht, congrArg Marks.sweep hm, congrArg Marks.sweepOf hm, congrArg Marks.credited hm, pending_of_outFixed (execSweepTick_fixed s) ht⟩
  case credit =>
    obtain ⟨t, ht, hm⟩ := execCreditSend_credits hr ha hd
    exact ⟨t, ht, congrArg Marks.credited hm, congrArg Marks.sweep hm, pending_of_outFixed (execCreditSend_fixed s) ht⟩
  case sweepEnd =>
    obtain ⟨t, ht, hm⟩ := execSweepEnd_ends hr ha ho bad
    exact ⟨t, ht, congrArg Marks.sweepOf hm, congrArg Marks.sweep hm, pending_of_outFixed (execSweepEnd_fixed bad s) ht⟩

end Sys2Proof.Machine

namespace Sys2Proof.Machine

/-! The first mode without a cause (R128, R140, log 63). -/

theorem modeOf_modeCode (m : Mode) : modeOf (modeCode m).toNat = some m := by
  cases m <;> rfl

theorem bootMode_cause {s : State} {c : BitVec 16} (h : c ≠ 0) : bootMode s c = .safe := if_pos h

/-- A head enters the mode of the AO record under RESUME, else the start mode. -/
theorem bootMode_head {s : State} (hr : s.role = .head) : bootMode s 0 =
    if cfgResume s = true ∧ s.modes.record = some .run then Mode.run
    else if cfgResume s = true ∧ s.modes.record = some .watch then Mode.watch
    else startMode s := by
  unfold bootMode
  rw [if_neg (fun h => h rfl), if_neg (by rw [hr]; decide)]
  cases hc : cfgResume s with
  | false => rfl
  | true =>
    cases hm : s.modes.record with
    | none => rfl
    | some m => cases m <;> rfl

theorem bootMode_pod {s : State} (hr : s.role = .pod) : bootMode s 0 = (announcedMode s).getD .safe := by
  unfold bootMode
  rw [if_neg (fun h => h rfl), if_pos hr]

/-- The mode that the head has announced to a pod. -/
theorem announcedMode_some {s : State} {m : Mode} (hr : s.role = .pod) (ha : s.course.pod.autonomous = false) (hs : s.course.pod.sweepClk ≠ 0)
    (hm : s.course.pod.headMode = modeCode m) : announcedMode s = some m := by
  unfold announcedMode
  dsimp only
  rw [hr, ha, bne_iff_ne.2 hs, hm]
  exact modeOf_modeCode m

theorem announcedMode_none {s : State} (hs : s.course.pod.sweepClk = 0) : announcedMode s = none := by
  unfold announcedMode
  dsimp only
  rw [hs]
  exact if_neg (by simp)

/-! The anchor accepted (R79, R82, log 18). -/

/-- The widest of quad, dual and single reads that are allowed. -/
def widestRead (quad dual : Bool) : ReadMode := if quad then .quad else if dual then .dual else .single

theorem widestRead_ne_baseline : ∀ quad dual, widestRead quad dual ≠ .baseline := by decide

theorem widestRead_eq_quad : ∀ quad dual, widestRead quad dual = .quad ↔ quad = true := by decide

theorem widestRead_eq_dual : ∀ quad dual, widestRead quad dual = .dual ↔ widestRead quad dual ≠ .quad ∧ dual = true := by decide

/-- Quad reads need the BFPT, the anchor and the quad-enable bit, dual reads the first two. -/
theorem acceptAnchor_readMode (c : FlashChip) (g : Sfdp) (a : List Byte) (b : Boot) : (acceptAnchor c (some g) a b).readMode =
    widestRead (bit (bfptWord g 1) 22 && u8 a 5 % 4 == 2 && quadEnabled c g) (bit (bfptWord g 1) 16 && 1 ≤ u8 a 5 % 4) := rfl

/-- 4-byte addresses need more than 128 Mbit. -/
theorem acceptAnchor_fourByte {c : FlashChip} {g : Sfdp} {a : List Byte} {b : Boot} (h : (acceptAnchor c (some g) a b).fourByte = true) :
    2 ^ 27 < sfdpDensity g := of_decide_eq_true (Bool.and_eq_true_iff.1 h).1

theorem acceptAnchor_fastClock (c : FlashChip) (g : Sfdp) (a : List Byte) (b : Boot) :
    (acceptAnchor c (some g) a b).fastClock = true ↔ bit (u8 a 5) 2 = false := by
  change (true && !bit (u8 a 5) 2) = true ↔ _
  rw [Bool.true_and, Bool.not_eq_true_eq_eq_false]

/-! HANDOVER. -/

theorem podBoot_reported (s : State) : (podBoot s).reported = s.boot.reported := by
  unfold podBoot
  dsimp only
  split <;> rfl

theorem applyConfig_reported (s : State) : (applyConfig s).boot.reported = s.boot.reported := by
  unfold applyConfig
  dsimp only
  split
  · exact podBoot_reported s
  · rfl

theorem applyConfig_config_of_head {s : State} (hr : s.role = .head) : (applyConfig s).config = s.boot.config := by
  unfold applyConfig
  rw [if_neg (by rw [hr]; simp)]

/-- HANDOVER leaves stores, role and supplies; in a head the configuration that Footing has accepted comes into force (R99, R703). -/
theorem execHandover_leaves {s t : State} {o : HandoverObs} (h : s.phase = .loaded) (ht : execHandover o s = .next t) :
    t.phase = .running ∧ t.role = s.role ∧ t.supply = s.supply ∧ t.flash = s.flash ∧ t.otp = s.otp ∧ t.boot.reported = true ∧
      (s.role = .head → t.config = s.boot.config) := by
  obtain ⟨u, hu, hf⟩ := execHandover_fixed o s h
  rw [ht, Host.Outcome.next.injEq] at hu
  subst hu
  have hboot := congrArg (·.boot.reported) hf
  have hconfig := congrArg Fixed.config hf
  rw [applyConfig_fixed] at hf
  exact ⟨congrArg Fixed.phase hf, congrArg Fixed.role hf, congrArg Fixed.supply hf, congrArg Fixed.flash hf, congrArg Fixed.otp hf,
    hboot.trans (applyConfig_reported _), fun hr => hconfig.trans (applyConfig_config_of_head (by exact hr))⟩

/-- Settles O16: the branches of FOOTING_START and FLASH_WIP_TIMEOUT, what HANDOVER leaves and tells, the first mode, and the anchor. -/
theorem footingLoadsAndHandsOver : Obligations.FootingLoadsAndHandsOver := by
  unfold Obligations.FootingLoadsAndHandsOver
  refine ⟨fun s fitted d hp hk => ?badCornerstone, fun s fitted d hp hk hr => ?pod, fun s c d hp hk hr hm hb => ?missing,
    fun s fitted d hp hk hr hm hb => ?busy, fun s fitted d hp hk hr hm hb => ?idle, fun s c hp hk hr hw hc => ?timeout,
    fun s o hp => ?handover, fun x o h => ?cause, fun x o hr hl hs hc ho hw => ?head, fun x o m hr hl hs hc ho hw ha => ?podMode,
    fun c f a b => ?anchor⟩
  case badCornerstone =>
    refine (execFootingStart_footing hp fitted d).trans (congrArg Host.Outcome.next ((footingBegins_badCornerstone (by exact hk) _).trans ?_))
    rw [hk]
    rfl
  case pod =>
    refine (execFootingStart_footing hp fitted d).trans (congrArg Host.Outcome.next ((footingBegins_pod (by exact hk) (by exact hr) _).trans ?_))
    rw [hk]
    rfl
  case missing =>
    refine ⟨_, (execFootingStart_footing hp (some c) d).trans (congrArg Host.Outcome.next ((footingBegins_head (by exact hk) (by exact hr) _).trans
      ((flashBegins_missing (by exact hm) (by exact hb) _).trans (loadImages_noAnchor ⟨anchorOk_missing hm hb _, anchorOk_missing hm hb _⟩ _)))),
      rfl, rfl, (sfdpBoot_begin c _).idValid.trans hk, rfl, rfl⟩
  case busy =>
    refine (execFootingStart_footing hp fitted d).trans (congrArg Host.Outcome.next ((footingBegins_head (by exact hk) (by exact hr) _).trans
      ((flashBegins_busy (by exact hm) (by exact hb) _).trans ?_)))
    rw [hk]
  case idle =>
    obtain ⟨b, r, hl, hbegin⟩ := loadImages_ends { s with flash := fitted.getD s.flash } (fitted.getD s.flash)
      { idValid := s.cornerstone.ok, duration := d, startClk := s.boot.startClk }
    exact ⟨_, (execFootingStart_footing hp fitted d).trans (congrArg Host.Outcome.next ((footingBegins_head (by exact hk) (by exact hr) _).trans
      ((flashBegins_idle (by exact hm) (by exact hb) _).trans hl))), rfl, hbegin.idValid.trans hk, hbegin.reported⟩
  case timeout => exact execFlashWipTimeout_due hp hk hr hw hc
  case handover =>
    obtain ⟨t, ht, -⟩ := execHandover_fixed o s hp
    obtain ⟨hphase, hleaves⟩ := execHandover_leaves hp ht
    exact ⟨t, ht, hphase, (execHandover_tells hp ht).1, hleaves⟩
  case cause => exact (bootEnter_modes o x).1.trans (bootMode_cause (bootCauses_ne_zero h))
  case head =>
    rw [(bootEnter_modes o x).1, bootCauses_eq_zero hl hs hc ho hw]
    exact bootMode_head hr
  case podMode =>
    obtain ⟨hmode, hcauses⟩ := bootEnter_modes o x
    rw [hmode, hcauses, bootCauses_eq_zero hl hs hc ho hw, bootMode_pod hr]
    exact ⟨fun hn hm => by rw [announcedMode_some hr ha hn hm]; rfl, fun hz => by rw [announcedMode_none hz]; exact ⟨rfl, rfl⟩⟩
  case anchor =>
    refine ⟨_, rfl, fun hf => ?_, fun g hf => ?_⟩ <;> subst hf
    · exact ⟨rfl, rfl, rfl⟩
    · refine ⟨acceptAnchor_fastClock c g a b, ?_, ?_, ?_, acceptAnchor_fourByte⟩
      · exact widestRead_ne_baseline _ _
      · rw [acceptAnchor_readMode, widestRead_eq_quad]
        simp [and_assoc]
      · rw [acceptAnchor_readMode, widestRead_eq_dual]
        simp

end Sys2Proof.Machine

namespace Sys2Proof.Machine

/-! What sending leaves (R571, R613): the queues of ports and the sequence counters change, and no frame that waits is lost. -/

/-- From `s` to `t`, frames have been sent and nothing else has been done. -/
structure SendsOnly (s t : State) : Prop where
  rest : t = { s with course := { s.course with ports := t.course.ports, seqs := t.course.seqs } }
  queues : ∀ q : Fin 2, QueueOnly s.course.ports[q] t.course.ports[q] ∧ ∀ g ∈ s.course.ports[q].txq, g ∈ t.course.ports[q].txq

theorem SendsOnly.refl (s : State) : SendsOnly s s := ⟨rfl, fun _ => ⟨rfl, fun _ hg => hg⟩⟩

theorem SendsOnly.trans {s t u : State} (h : SendsOnly s t) (k : SendsOnly t u) : SendsOnly s u where
  rest := by rw [k.rest, h.rest]
  queues q := ⟨(h.queues q).1.trans (k.queues q).1, fun g hg => (k.queues q).2 g ((h.queues q).2 g hg)⟩

theorem SendsOnly.usedPorts {s t : State} (h : SendsOnly s t) : Machine.usedPorts t = Machine.usedPorts s := by
  rw [h.rest]
  rfl

theorem SendsOnly.sends {s t : State} (h : SendsOnly s t) (q : Fin 2) : Machine.sends t q = Machine.sends s q := by
  have hq := (h.queues q).1
  unfold QueueOnly at hq
  unfold Machine.sends
  rw [hq]
  rfl

/-- What waits still waits after more has been sent. -/
theorem SendsOnly.waits {s t : State} (h : SendsOnly s t) {q : Fin 2} {type dst : Byte} {payload : List Byte} (hw : Waits s q type dst payload) :
    Waits t q type dst payload := by
  obtain ⟨f, hf, hwhat⟩ := hw
  exact ⟨f, (h.queues q).2 f hf, hwhat⟩

theorem SendsOnly.of_ports {s t : State} (h : t = { s with course := { s.course with ports := t.course.ports } })
    (hq : ∀ q : Fin 2, QueueOnly s.course.ports[q] t.course.ports[q] ∧ ∀ g ∈ s.course.ports[q].txq, g ∈ t.course.ports[q].txq) : SendsOnly s t := by
  have hseqs : t.course.seqs = s.course.seqs := congrArg (·.course.seqs) h
  exact ⟨h.trans (by rw [hseqs]), hq⟩

theorem sendAll_sendsOnly (f : CourseFrame) (l : List (Fin 2)) (s : State) : SendsOnly s (l.foldl (fun s p => sendOn s p f) s) := by
  obtain ⟨hrest, hqueues, -⟩ := sendAll_ports f l s
  exact .of_ports hrest hqueues

theorem originate_sendsOnly (s : State) (ports : List (Fin 2)) (type dst : Byte) (cls : Nat) (credit : Byte) (payload : List Byte) :
    SendsOnly s (originate s ports type dst cls credit payload) := by
  obtain ⟨hrest, hqueues, -⟩ := originate_ports s ports type dst cls credit payload
  exact ⟨hrest, hqueues⟩

theorem foldl_sendsOnly {α : Type} {f : State → α → State} (h : ∀ s a, SendsOnly s (f s a)) (l : List α) (s : State) : SendsOnly s (l.foldl f s) := by
  induction l generalizing s with
  | nil => exact .refl s
  | cons a l ih => exact (h s a).trans (ih (f s a))

/-- Where every step of a series sends a frame of its own on a used port that sends, every one of the frames waits at the end. -/
theorem foldl_waits {α : Type} {f : State → α → State} {q : Fin 2} {type dst : Byte} {payload : α → List Byte} (h : ∀ s a, SendsOnly s (f s a))
    (hw : ∀ s a, q ∈ usedPorts s → sends s q = true → Waits (f s a) q type dst (payload a)) (l : List α) {s : State} (hq : q ∈ usedPorts s)
    (hs : sends s q = true) : ∀ a ∈ l, Waits (l.foldl f s) q type dst (payload a) := by
  induction l generalizing s with
  | nil => exact fun a ha => nomatch ha
  | cons a l ih =>
    intro b hb
    rcases List.mem_cons.1 hb with rfl | hb
    · exact (foldl_sendsOnly h l _).waits (hw s b hq hs)
    · exact ih (by rw [(h s a).usedPorts]; exact hq) (by rw [(h s a).sends]; exact hs) b hb

theorem sendBlocks_sendsOnly (s : State) (b : List Byte) (idx : List Nat) : SendsOnly s (sendBlocks s b idx) :=
  foldl_sendsOnly (fun _ _ => sendAll_sendsOnly _ _ _) idx s

/-- Every block sent waits on every used port that sends. -/
theorem sendBlocks_waits (b : List Byte) (idx : List Nat) {s : State} {q : Fin 2} (hq : q ∈ usedPorts s) (hs : sends s q = true) :
    ∀ i ∈ idx, Waits (sendBlocks s b idx) q 0x09 255 (blockOf b i) := by
  refine foldl_waits (fun _ _ => sendAll_sendsOnly _ _ _) (fun u i hu hsend => ?_) idx hq hs
  obtain ⟨-, -, hin⟩ := sendAll_ports (newFrame s 0x09 255 2 (BitVec.ofNat 8 (i / 256)) (BitVec.ofNat 8 i) (blockOf b i)) (usedPorts u) u
  exact ⟨_, hin q hu hsend rfl, rfl, rfl, rfl, rfl⟩

/-- What BOOT_END of a round leaves: the round noted and its time, the frame sent. -/
theorem sendBootEnd_sendsOnly (s : State) (round : Nat) :
    SendsOnly { s with course := { s.course with bootRound := round, bootClk := s.clk } } (sendBootEnd s round) := originate_sendsOnly ..

theorem sendBootEnd_waits {s : State} (round : Nat) {q : Fin 2} (hq : q ∈ usedPorts s) (hs : sends s q = true) :
    Waits (sendBootEnd s round) q 0x0A 255 [itemNo s, BitVec.ofNat 8 round, 0, 0] := by
  obtain ⟨-, -, hw⟩ := originate_ports { s with course := { s.course with bootRound := round, bootClk := s.clk } } (usedPorts s) 0x0A 255 2 0
    [itemNo s, BitVec.ofNat 8 round, 0, 0]
  exact hw q hq hs

/-! What enumeration moves of a boot transfer (R594, R597, R642). -/

/-- From `s` to `t` only chain and events have moved; the item stays, no item has come, and the pods keep their addresses and states. -/
structure ItemKept (s t : State) : Prop where
  rest : t = { s with course := t.course, events := t.events }
  item : t.course.bootItem = s.course.bootItem
  items : t.course.bootItems.length ≤ s.course.bootItems.length
  nodes : ∀ n ∈ s.course.nodes, ∃ m ∈ t.course.nodes, m.addr = n.addr ∧ m.state = n.state

theorem ItemKept.trans {s t u : State} (h : ItemKept s t) (k : ItemKept t u) : ItemKept s u where
  rest := by rw [k.rest, h.rest]
  item := k.item.trans h.item
  items := k.items.trans h.items
  nodes n hn := by
    obtain ⟨m, hm, haddr, hstate⟩ := h.nodes n hn
    obtain ⟨x, hx, haddr', hstate'⟩ := k.nodes m hm
    exact ⟨x, hx, haddr'.trans haddr, hstate'.trans hstate⟩

/-- A change of the course that keeps the item, the items and the nodes. -/
theorem ItemKept.of_course {s : State} {c : Course} {e : Events} (hi : c.bootItem = s.course.bootItem)
    (hl : c.bootItems.length ≤ s.course.bootItems.length) (hn : c.nodes = s.course.nodes) : ItemKept s { s with course := c, events := e } :=
  ⟨rfl, hi, hl, fun n h => ⟨n, hn ▸ h, rfl, rfl⟩⟩

theorem ItemKept.refl (s : State) : ItemKept s s := .of_course (e := s.events) rfl le_rfl rfl

theorem SendsOnly.itemKept {s t : State} (h : SendsOnly s t) : ItemKept s t := by
  rw [h.rest]
  exact .of_course (e := s.events) rfl le_rfl rfl

theorem lowerVersion_itemKept (s : State) : ItemKept s (lowerVersion s) := by
  unfold lowerVersion
  split
  · dsimp only
    split
    · exact .of_course (e := s.events) rfl le_rfl rfl
    · exact .of_course rfl le_rfl rfl
  · exact .refl s

theorem sendDiscover_itemKept (s : State) (full : Bool) (ports : List (Fin 2)) : ItemKept s (sendDiscover s full ports) := by
  refine (lowerVersion_itemKept s).trans ?_
  unfold sendDiscover
  dsimp only
  generalize lowerVersion s = u
  refine .trans (t := (takeSeq { u with course := { u.course with discoverClk := u.clk } } 2).2) (.of_course (e := u.events) rfl le_rfl rfl) ?_
  exact (foldl_sendsOnly (fun s p => sendAll_sendsOnly _ [p] s) ports _).itemKept

theorem discoverFull_itemKept (s : State) : ItemKept s (discoverFull s) := by
  unfold discoverFull
  split
  · exact .refl s
  · dsimp only
    refine .trans ?_ (sendDiscover_itemKept _ _ _)
    exact .of_course (e := s.events) rfl le_rfl rfl

theorem enumIdle_itemKept (s : State) : ItemKept s (enumIdle s) := by
  have idle : ItemKept s { s with course := { s.course with enum := .idle, bootItems := [], bootRound := 0 } } :=
    .of_course (e := s.events) rfl (Nat.zero_le _) rfl
  unfold enumIdle
  dsimp only
  split
  · exact idle.trans (discoverFull_itemKept _)
  · exact idle

/-- Notes about the nodes that keep their addresses and states. -/
theorem ItemKept.of_nodes {s : State} {c : Course} {f : Node → Node} (hi : c.bootItem = s.course.bootItem)
    (hl : c.bootItems = s.course.bootItems) (hn : c.nodes = s.course.nodes.map f) (hf : ∀ n, (f n).addr = n.addr ∧ (f n).state = n.state) :
    ItemKept s { s with course := c } :=
  ⟨rfl, hi, by rw [hl], fun n h => ⟨f n, by rw [hn]; exact List.mem_map_of_mem h, hf n⟩⟩

theorem sendBootEnd_itemKept (s : State) (round : Nat) : ItemKept s (sendBootEnd s round) := by
  refine .trans ?_ (sendBootEnd_sendsOnly s round).itemKept
  exact .of_course (e := s.events) rfl le_rfl rfl

theorem sendItem_itemKept (s : State) : ItemKept s (sendItem s) := by
  unfold sendItem
  split
  · exact enumIdle_itemKept s
  · split
    · exact enumIdle_itemKept s
    · refine .trans ?_ (sendBootEnd_itemKept _ _)
      refine .trans ?_ (sendBlocks_sendsOnly _ _ _).itemKept
      refine .trans ?_ (originate_sendsOnly _ _ _ _ _ _ _).itemKept
      refine .of_nodes rfl rfl rfl fun n => ?_
      split <;> exact ⟨rfl, rfl⟩

end Sys2Proof.Machine

namespace Sys2Proof.Machine

/-! The head's rounds (R594 - R597). -/

/-- A pod that keeps the item and misses a block of it. -/
def lacksBlocks (s : State) (kind sub : Byte) (count : Nat) (n : Node) : Bool :=
  bootable n && keepsItem s n kind sub && !(stillMissing count n).isEmpty

/-- The blocks that a pod which keeps the item misses. -/
def neededBlocks (s : State) (kind sub : Byte) (count : Nat) : List Nat :=
  (List.range count).filter fun i => s.course.nodes.any fun n => bootable n && keepsItem s n kind sub && (stillMissing count n).contains i

/-- The pods still incomplete have failed booting. -/
def bootsFailed (s : State) (kind sub : Byte) (count : Nat) : State :=
  { s with course := { s.course with nodes := s.course.nodes.map fun n => if lacksBlocks s kind sub count n then { n with state := .bootFailed } else n } }

/-- The pods still incomplete are asked anew under a round. -/
def asksAnew (s : State) (kind sub : Byte) (count round : Nat) : State :=
  let ask (n : Node) : Node := if lacksBlocks s kind sub count n then { n with bootRound := BitVec.ofNat 8 round, missing := none } else n
  { s with course := { s.course with nodes := s.course.nodes.map ask } }

/-- BOOT_STATUS_TIMEOUT once its 10 ms are over, with an item under way. -/
theorem execBootStatusTimeout_due {s : State} {kind sub : Byte} {b : List Byte} {rest : List (Byte × Byte × List Byte)} (hr : s.role = .head)
    (hrun : isRunning s = true) (he : s.course.enum = .booting) (hi : s.course.bootItems = (kind, sub, b) :: rest)
    (hc : s.course.bootClk + 10000 ≤ s.clk) : execBootStatusTimeout s =
      if (neededBlocks s kind sub (blockCount b)).isEmpty then .next (nextItem s)
      else if 3 ≤ s.course.bootRound then .next (nextItem (bootsFailed s kind sub (blockCount b)))
      else .next (sendBootEnd (sendBlocks (asksAnew s kind sub (blockCount b) (s.course.bootRound + 1)) b (neededBlocks s kind sub (blockCount b)))
        (s.course.bootRound + 1)) := by
  have due : (s.role == .head && isRunning s && s.course.enum == .booting && decide (s.course.bootClk + 10000 ≤ s.clk)) = true := by
    rw [hr, hrun, he, decide_eq_true hc]
    decide
  unfold execBootStatusTimeout
  dsimp only
  rw [due]
  split
  next heq =>
    cases hi.symm.trans heq
    rfl
  next hne => exact absurd hi (hne _ _ _ _ rfl)

theorem execBootStatusTimeout_early {s : State} (h : s.clk < s.course.bootClk + 10000) : execBootStatusTimeout s = .next s := by
  have early : (s.role == .head && isRunning s && s.course.enum == .booting && decide (s.course.bootClk + 10000 ≤ s.clk)) = false := by
    rw [decide_eq_false (Nat.not_le.2 h), Bool.and_false]
  unfold execBootStatusTimeout
  dsimp only
  rw [early]

/-- The next item follows: chain and events alone change, one item fewer waits, and the pods stay. -/
theorem nextItem_itemKept (s : State) :
    ItemKept { s with course := { s.course with bootItems := s.course.bootItems.drop 1, bootItem := s.course.bootItem + 1 } } (nextItem s) :=
  sendItem_itemKept _

theorem nextItem_rest (s : State) : nextItem s = { s with course := (nextItem s).course, events := (nextItem s).events } := (nextItem_itemKept s).rest

theorem nextItem_item (s : State) : (nextItem s).course.bootItem = s.course.bootItem + 1 := (nextItem_itemKept s).item

theorem nextItem_items {s : State} {x : Byte × Byte × List Byte} {rest : List (Byte × Byte × List Byte)} (h : s.course.bootItems = x :: rest) :
    (nextItem s).course.bootItems.length ≤ rest.length := by
  refine (nextItem_itemKept s).items.trans ?_
  rw [h]
  exact le_rfl

theorem nextItem_nodes (s : State) : ∀ n ∈ s.course.nodes, ∃ m ∈ (nextItem s).course.nodes, m.addr = n.addr ∧ m.state = n.state :=
  (nextItem_itemKept s).nodes

/-- Before the next item follows, the pods still incomplete have failed. -/
theorem nextItem_bootsFailed_nodes (s : State) (kind sub : Byte) (count : Nat) : ∀ n ∈ s.course.nodes,
    ∃ m ∈ (nextItem (bootsFailed s kind sub count)).course.nodes,
      m.addr = n.addr ∧ m.state = if lacksBlocks s kind sub count n = true then .bootFailed else n.state := by
  intro n hn
  obtain ⟨m, hm, haddr, hstate⟩ := nextItem_nodes (bootsFailed s kind sub count) _ (List.mem_map_of_mem hn)
  refine ⟨m, hm, haddr.trans ?_, hstate.trans ?_⟩
  · split <;> rfl
  · split <;> rfl

/-- A round that asks anew: the missing blocks and the BOOT_END of the round wait on every used port that sends. -/
theorem resend_waits (s : State) (kind sub : Byte) (b : List Byte) (count round : Nat) (need : List Nat) {q : Fin 2} (hq : q ∈ usedPorts s)
    (hs : sends s q = true) :
    let t := sendBootEnd (sendBlocks (asksAnew s kind sub count round) b need) round
    (∀ i ∈ need, Waits t q 0x09 255 (blockOf b i)) ∧ Waits t q 0x0A 255 [itemNo s, BitVec.ofNat 8 round, 0, 0] := by
  have blocks := sendBlocks_sendsOnly (asksAnew s kind sub count round) b need
  have hq' : q ∈ usedPorts (asksAnew s kind sub count round) := hq
  have hs' : sends (asksAnew s kind sub count round) q = true := hs
  refine ⟨fun i hi => (sendBootEnd_sendsOnly _ round).waits (sendBlocks_waits b need hq' hs' i hi), ?_⟩
  have hno : itemNo (sendBlocks (asksAnew s kind sub count round) b need) = itemNo s :=
    congrArg (fun k => BitVec.ofNat 8 (k % 16)) blocks.itemKept.item
  rw [← hno]
  exact sendBootEnd_waits round (by rw [blocks.usedPorts]; exact hq') (by rw [blocks.sends]; exact hs')

theorem SendsOnly.rest_of_round {s u t : State} {round : Nat} (h : SendsOnly s u)
    (k : SendsOnly { u with course := { u.course with bootRound := round, bootClk := u.clk } } t) :
    t = { s with course := { s.course with ports := t.course.ports, seqs := t.course.seqs, bootRound := round, bootClk := s.clk } } := by
  rw [k.rest, h.rest]

/-- A round that asks anew leaves all but queues, counters, the round and the pods asked. -/
theorem resend_rest (s : State) (kind sub : Byte) (b : List Byte) (count round : Nat) (need : List Nat) :
    let t := sendBootEnd (sendBlocks (asksAnew s kind sub count round) b need) round
    t = { s with course := { (asksAnew s kind sub count round).course with
      ports := t.course.ports, seqs := t.course.seqs, bootRound := round, bootClk := s.clk } } :=
  (sendBlocks_sendsOnly _ _ _).rest_of_round (sendBootEnd_sendsOnly _ _)

/-! What an accepted frame leaves of the state that boot transfers read. -/

theorem received_pod (s : State) (type : Byte) (r : CourseRx) : (received s type r).course.pod = s.course.pod :=
  congrArg (·.course.pod) (received_eq s type r)

theorem received_enum (s : State) (type : Byte) (r : CourseRx) : (received s type r).course.enum = s.course.enum :=
  congrArg (·.course.enum) (received_eq s type r)

theorem received_itemNo (s : State) (type : Byte) (r : CourseRx) : itemNo (received s type r) = itemNo s := by
  rw [received_eq]
  rfl

theorem received_podWaits (s : State) (type : Byte) (r : CourseRx) : podWaits (received s type r) = podWaits s := by
  rw [received_eq]
  rfl

theorem received_phase (s : State) (type : Byte) (r : CourseRx) : (received s type r).phase = s.phase :=
  congrArg (·.phase) (received_eq s type r)

theorem received_boot (s : State) (type : Byte) (r : CourseRx) : (received s type r).boot = s.boot :=
  congrArg (·.boot) (received_eq s type r)

theorem received_clk (s : State) (type : Byte) (r : CourseRx) : (received s type r).clk = s.clk :=
  congrArg (·.clk) (received_eq s type r)

/-- Counting a frame changes neither whether a port is enabled nor whether it is under test. -/
theorem received_sends (s : State) (type : Byte) (r : CourseRx) (q : Fin 2) : sends (received s type r) q = sends s q := by
  have hcount : sends (countPort s r.port 0) q = sends s q := by
    unfold sends countPort
    dsimp only
    rw [vmod_get]
    split <;> rfl
  rw [← hcount]
  unfold received noteSeq
  split <;> rfl

/-! BOOT_STATUS at the head (R595, R596). -/

/-- A pod that is offered the items and has told what it misses. -/
def tellsMissing (r : CourseRx) (n : Node) : Node :=
  if n.addr = r.src ∧ bootable n = true then
    { n with missing := some (if bit (u8 r.payload 1) 0 = true then [] else listedBlocks r.payload) }
  else n

theorem execBootStatus_takes {s : State} {r : CourseRx} (h : Takes .head s 0x0B r) :
    execBootStatus r s = .next (if s.course.enum ≠ .booting || b8 r.payload 0 != itemNo s then received s 0x0B r
      else modNode (received s 0x0B r) r.src.toNat fun n => if bootable n then
        { n with missing := some (if bit (u8 r.payload 1) 0 then [] else listedBlocks r.payload) } else n) := by
  unfold execBootStatus
  rw [headRx_takes h]
  dsimp only
  rw [received_enum, received_itemNo]

theorem modNode_tellsMissing (s : State) (r : CourseRx) :
    (modNode s r.src.toNat fun n => if bootable n then
      { n with missing := some (if bit (u8 r.payload 1) 0 then [] else listedBlocks r.payload) } else n) =
      { s with course := { s.course with nodes := s.course.nodes.map (tellsMissing r) } } := by
  have hn (n : Node) : (if n.addr.toNat == r.src.toNat then (if bootable n then
      { n with missing := some (if bit (u8 r.payload 1) 0 then [] else listedBlocks r.payload) } else n) else n) = tellsMissing r n := by
    unfold tellsMissing
    by_cases ha : n.addr = r.src
    · rw [if_pos (by rw [ha]; exact beq_self_eq_true _)]
      exact if_congr ⟨fun hb => ⟨ha, hb⟩, fun hb => hb.2⟩ rfl rfl
    · rw [if_neg (fun he => ha (BitVec.eq_of_toNat_eq (eq_of_beq he))), if_neg fun hb => ha hb.1]
  unfold modNode
  rw [funext hn]

end Sys2Proof.Machine

namespace Sys2Proof.Machine

/-! The pod's reception (R594, R595, R600, R106). -/

/-- The answer to BOOT_END: the blocks missing, on the port that the frame came in on. -/
def answersBoot (r : CourseRx) (no : Byte) (s : State) (miss : List Nat) : State := originate s [r.port] 0x0B 0 2 0 (bootStatusPayload no miss)

theorem answersBoot_sendsOnly (r : CourseRx) (no : Byte) (s : State) (miss : List Nat) : SendsOnly s (answersBoot r no s miss) :=
  originate_sendsOnly ..

theorem answersBoot_waits {r : CourseRx} {s : State} (hs : sends s r.port = true) (no : Byte) (miss : List Nat) :
    Waits (answersBoot r no s miss) r.port 0x0B 0 (bootStatusPayload no miss) := by
  obtain ⟨-, -, hw⟩ := originate_ports s [r.port] 0x0B 0 2 0 (bootStatusPayload no miss)
  exact hw r.port List.mem_cons_self hs

theorem execBootStart_takes {s : State} {r : CourseRx} (h : Takes .pod s 0x08 r) (hw : podWaits s = true) :
    execBootStart r s = .next (modPod (received s 0x08 r) fun q => { q with
      item := if podKeeps q (b8 r.payload 1) (b8 r.payload 2) = true then
        some (b8 r.payload 0, b8 r.payload 1, u32 r.payload 4, u16 r.payload 8, f32At r.payload 12) else none
      blocks := [] }) := by
  unfold execBootStart
  rw [podRx_takes h]
  dsimp only
  rw [received_podWaits, hw]
  rfl

theorem execBootData_takes {s : State} {r : CourseRx} {no kind : Byte} {len count : Nat} {crc : BitVec 32} (h : Takes .pod s 0x09 r)
    (hw : podWaits s = true) (hi : s.course.pod.item = some (no, kind, len, count, crc)) :
    execBootData r s = .next (if r.seq.toNat + 256 * r.credit.toNat < count &&
          r.payload.length == blockLen len count (r.seq.toNat + 256 * r.credit.toNat) &&
          s.course.pod.blocks.all (fun b => b.1 != r.seq.toNat + 256 * r.credit.toNat) then
        modPod (received s 0x09 r) fun q => { q with blocks := (r.seq.toNat + 256 * r.credit.toNat, r.payload) :: q.blocks }
      else received s 0x09 r) := by
  unfold execBootData
  rw [podRx_takes h]
  dsimp only
  rw [received_podWaits, received_pod, hw, hi]

theorem execBootEnd_takes {s : State} {r : CourseRx} {no kind : Byte} {len count : Nat} {crc : BitVec 32} (h : Takes .pod s 0x0A r)
    (hw : podWaits s = true) (hi : s.course.pod.item = some (no, kind, len, count, crc)) :
    execBootEnd r s = .next (if no != b8 r.payload 0 then received s 0x0A r
      else if !(missingBlocks s.course.pod count).isEmpty then answersBoot r no (received s 0x0A r) (missingBlocks s.course.pod count)
      else if itemStands (itemBytes s.course.pod count) crc then
        answersBoot r no (keepItem (received s 0x0A r) kind (itemBytes s.course.pod count) crc) []
      else answersBoot r no (modPod (received s 0x0A r) fun q => { q with blocks := [] }) (List.range count)) := by
  unfold execBootEnd
  rw [podRx_takes h]
  dsimp only
  rw [received_podWaits, received_pod, hw, hi]
  rfl

/-- Where an item is kept, its own sub-image alone makes the pod ready for handover. -/
theorem keepItem_rest (s : State) (kind : Byte) (b : List Byte) (crc : BitVec 32) :
    keepItem s kind b crc = { s with course := (keepItem s kind b crc).course, phase := if kind = 3 then .loaded else s.phase
                                     boot := if kind = 3 then { s.boot with startClk := s.clk } else s.boot } := by
  unfold keepItem
  by_cases hk : kind = 3
  · simp only [hk, if_true]
    rfl
  · simp only [hk, if_false]
    rfl

/-- What the pod holds of an item that it keeps. -/
def keepsIt (q : Pod) (kind : Byte) (b : List Byte) (crc : BitVec 32) : Pod :=
  { q with items := if q.items.contains (kind, b) then q.items else q.items ++ [(kind, b)]
           subCrc := if kind = 3 then crc else q.subCrc, mereCrc := if kind = 2 then crc else q.mereCrc }

theorem keepItem_course (s : State) (kind : Byte) (b : List Byte) (crc : BitVec 32) :
    (keepItem s kind b crc).course = { s.course with pod := keepsIt s.course.pod kind b crc } := by
  unfold keepItem
  dsimp only
  rw [apply_ite State.course]
  exact ite_self _

theorem mem_keepsIt (q : Pod) (kind : Byte) (b : List Byte) (crc : BitVec 32) : (kind, b) ∈ (keepsIt q kind b crc).items := by
  unfold keepsIt
  dsimp only
  split
  next h => exact List.contains_iff_mem.1 h
  next => exact List.mem_append_right _ List.mem_cons_self

theorem keepItem_sends (s : State) (kind : Byte) (b : List Byte) (crc : BitVec 32) (q : Fin 2) : sends (keepItem s kind b crc) q = sends s q := by
  unfold sends
  rw [keepItem_course]

/-- Sending behind a change of course, phase and boot report. -/
theorem SendsOnly.rest_of_change {s u t : State} {p : Phase} {b : Boot} (h : u = { s with course := u.course, phase := p, boot := b })
    (k : SendsOnly u t) : t = { s with course := t.course, phase := p, boot := b } := by
  rw [k.rest, h]

/-- Sending behind a change of the pod's record. -/
theorem rest_of_pod {s t : State} {f : Pod → Pod} (h : SendsOnly (modPod s f) t) : t = { s with course := t.course } := by
  rw [h.rest]
  rfl

theorem rest_of_course {s t : State} {c : Course} (h : t = { s with course := c }) : t = { s with course := t.course, events := t.events } := by
  rw [h]

theorem SendsOnly.pod {s t : State} (h : SendsOnly s t) : t.course.pod = s.course.pod := congrArg (·.course.pod) h.rest

/-- A complete item that stands: kept and answered. -/
theorem keepItem_answered {s : State} {p : Phase} {o : Boot} {c : Nat} (hp : s.phase = p) (ho : s.boot = o) (hc : s.clk = c) (r : CourseRx)
    (no kind : Byte) (b : List Byte) (crc : BitVec 32) :
    answersBoot r no (keepItem s kind b crc) [] =
      { s with course := (answersBoot r no (keepItem s kind b crc) []).course, phase := if kind = 3 then .loaded else p
               boot := if kind = 3 then { o with startClk := c } else o } := by
  subst hp ho hc
  exact (answersBoot_sendsOnly ..).rest_of_change (keepItem_rest s kind b crc)

theorem keepItem_answered_pod (s : State) (r : CourseRx) (no kind : Byte) (b : List Byte) (crc : BitVec 32) :
    (answersBoot r no (keepItem s kind b crc) []).course.pod = keepsIt s.course.pod kind b crc :=
  (answersBoot_sendsOnly ..).pod.trans (congrArg Course.pod (keepItem_course s kind b crc))

/-- Settles O46: the head's rounds, from what BOOT_STATUS_TIMEOUT resends or fails, and the pod's reception, from what each frame makes of the item
under way. -/
theorem bootTransfers : Obligations.BootTransfers := by
  unfold Obligations.BootTransfers
  refine ⟨fun s r h => ⟨fun he hno => ?told, fun hn => ?ignored⟩, fun s kind sub b rest hr hrun he hi hc => ?timeout,
    fun s h => execBootStatusTimeout_early h, fun s r h hw => ?start,
    fun s r no kind len count crc h hw hi => ⟨fun hlt hlen hnew => ?block, fun hn => ?noBlock⟩,
    fun s r no kind len count crc h hw hi => ⟨fun hno => ?otherItem, fun hno hm => ?missing, fun hno hm hst => ?kept, fun hno hm hst => ?wrong⟩⟩
  case told =>
    refine (execBootStatus_takes h).trans ?_
    rw [if_neg (by rw [he, hno]; simp), modNode_tellsMissing]
    rfl
  case ignored =>
    refine (execBootStatus_takes h).trans ?_
    rw [if_pos (by rcases hn with hn | hn <;> simp [hn])]
  case timeout =>
    have due := execBootStatusTimeout_due hr hrun he hi hc
    intro count lacking need
    change execBootStatusTimeout s = if need.isEmpty then _ else _ at due
    by_cases hneed : need = []
    · rw [if_pos (List.isEmpty_iff.2 hneed)] at due
      exact ⟨_, due, nextItem_rest s, fun _ => ⟨nextItem_item s, nextItem_items hi, nextItem_nodes s⟩, fun hn => absurd hneed hn,
        fun hn => absurd hneed hn⟩
    · rw [if_neg (mt List.isEmpty_iff.1 hneed)] at due
      by_cases hround : 3 ≤ s.course.bootRound
      · rw [if_pos hround] at due
        exact ⟨_, due, nextItem_rest _, fun hn => absurd hn hneed, fun _ hlt => absurd hround (Nat.not_le.2 hlt),
          fun _ _ => ⟨nextItem_item _, nextItem_bootsFailed_nodes s kind sub count⟩⟩
      · rw [if_neg hround] at due
        have hrest := resend_rest s kind sub b count (s.course.bootRound + 1) need
        refine ⟨_, due, ?_, fun hn => absurd hn hneed, fun _ _ => ⟨?_, ?_, ?_, ?_, fun q hq hs => ?_⟩, fun _ hle => absurd hle hround⟩
        · exact rest_of_course hrest
        · exact congrArg (·.course.bootItem) hrest
        · exact congrArg (·.course.bootItems) hrest
        · exact congrArg (·.course.bootRound) hrest
        · exact congrArg (·.course.nodes) hrest
        · exact resend_waits s kind sub b count _ need hq hs
  case start =>
    refine (execBootStart_takes h hw).trans ?_
    rw [modPod, received_pod]
  case block =>
    refine (execBootData_takes h hw hi).trans ?_
    have hall : s.course.pod.blocks.all (fun b => b.1 != r.seq.toNat + 256 * r.credit.toNat) = true :=
      List.all_eq_true.2 fun b hb => bne_iff_ne.2 (hnew b hb)
    rw [if_pos (by rw [hall, decide_eq_true hlt, blockLen, hlen]; simp), modPod, received_pod]
  case noBlock =>
    refine (execBootData_takes h hw hi).trans ?_
    rw [if_neg]
    intro hall
    simp only [Bool.and_eq_true, decide_eq_true_eq, List.all_eq_true, bne_iff_ne] at hall
    obtain ⟨⟨hlt, -⟩, hnew⟩ := hall
    rcases hn with hle | ⟨b, hb, hsame⟩
    · exact absurd hlt (Nat.not_lt.2 hle)
    · exact hnew b hb hsame
  case otherItem =>
    refine (execBootEnd_takes h hw hi).trans ?_
    rw [if_pos (bne_iff_ne.2 hno)]
  case missing =>
    refine (execBootEnd_takes h hw hi).trans ?_
    rw [if_neg (by rw [hno]; simp), if_pos (by rw [List.isEmpty_eq_false_iff.2 hm]; rfl)]
    rfl
  case kept =>
    have hnext := execBootEnd_takes h hw hi
    rw [if_neg (by rw [hno]; simp), if_neg (by rw [hm]; simp), if_pos hst] at hnext
    have hrest := keepItem_answered (received_phase s 0x0A r) (received_boot s 0x0A r) (received_clk s 0x0A r) r no kind
      (itemBytes s.course.pod count) crc
    have hpod := keepItem_answered_pod (received s 0x0A r) r no kind (itemBytes s.course.pod count) crc
    rw [received_pod] at hpod
    refine ⟨_, hnext, hrest, ?_, ?_, ?_, fun hs => answersBoot_waits (by rw [keepItem_sends, received_sends, hs]) no []⟩
    · rw [hpod]
      exact mem_keepsIt ..
    · rw [hpod]
      rfl
    · rw [hpod]
      rfl
  case wrong =>
    have hnext := execBootEnd_takes h hw hi
    rw [if_neg (by rw [hno]; simp), if_neg (by rw [hm]; simp), if_neg (by rw [hst]; decide)] at hnext
    have hsent := answersBoot_sendsOnly r no (modPod (received s 0x0A r) fun q => { q with blocks := [] }) (List.range count)
    refine ⟨_, hnext, rest_of_pod hsent, ?_, fun hs => answersBoot_waits ?_ no _⟩
    · rw [hsent.pod, modPod, received_pod]
    · rw [← hs, ← received_sends s 0x0A r]
      rfl

end Sys2Proof.Machine

namespace Sys2Proof.Machine

/-! FAULTn (R122, R155, R741 - R743), and what it is to be in SAFE, or in RUN or WATCH. -/

theorem isRunning_of_inSafe {s : State} (h : inSafe s = true) : isRunning s = true := (Bool.and_eq_true_iff.1 h).1

theorem mode_of_inSafe {s : State} (h : inSafe s = true) : s.modes.mode = .safe := eq_of_beq (Bool.and_eq_true_iff.1 h).2

theorem isActive_of_inSafe {s : State} (h : inSafe s = true) : isActive s = false := by
  rw [isActive, mode_of_inSafe h]
  exact Bool.and_false _

theorem isRunning_of_isActive {s : State} (h : isActive s = true) : isRunning s = true := (Bool.and_eq_true_iff.1 h).1

theorem mode_of_isActive {s : State} (h : isActive s = true) : s.modes.mode ≠ .safe := bne_iff_ne.1 (Bool.and_eq_true_iff.1 h).2

/-- A copy that drives by itself does so under code 0x03 (log 150), an active code: so every copy drives for the same reasons. -/
theorem copyDrives_iff (s : State) (n : Fin 2) : copyDrives s n = true ↔
    s.ks.active ≠ 0 ∨ s.ks.started = false ∨ isRunning s = false ∨ s.modes.mode = .safe ∨ anyAlarm s 2 = true := by
  have alone : faultActive s 0x03 = true → s.ks.active ≠ 0 := fun h h0 => by
    rw [faultActive, h0] at h
    simp at h
  unfold copyDrives
  simp only [Bool.or_eq_true, Bool.and_eq_true, bne_iff_ne, Bool.not_eq_true', beq_iff_eq, or_assoc]
  exact ⟨fun h => h.elim (fun hc => .inl (alone hc.2)) id, .inr⟩

theorem faultnLow_iff (s : State) : faultnLow s = true ↔ s.ks.kclkLost = true ∨ s.ks.active ≠ 0 ∨ s.ks.started = false ∨
    isRunning s = false ∨ s.modes.mode = .safe ∨ anyAlarm s 2 = true := by
  unfold faultnLow
  rw [Bool.or_eq_true, Bool.or_eq_true, copyDrives_iff, copyDrives_iff, or_assoc, or_self]

/-- Settles O10, from the reasons for which either copy of Keystone drives FAULTn. -/
theorem faultnLowInSafeAndResets : Obligations.FaultnLowInSafeAndResets := by
  unfold Obligations.FaultnLowInSafeAndResets
  refine ⟨fun s h => ?safe, fun s h => ?early, fun s ha hs => ?active⟩
  case safe =>
    rw [faultnLow_iff, mode_of_inSafe h]
    simp
  case early =>
    rcases h with hp | hs
    · exact faultnLow_of_not_running (beq_eq_false_iff_ne.2 hp)
    · exact faultnLow_of_not_started hs
  case active => simp [faultnLow_iff, hs, isRunning_of_isActive ha, mode_of_isActive ha]

end Sys2Proof.Machine

namespace Sys2Proof.Machine

/-! The stages of a bias channel (R170, R174, R176, R179, R203, R850). -/

/-- A channel rewritten to what it was leaves the state as it was. -/
theorem set_ec_self (s : State) (n : Fin 8) : { s with ec := s.ec.set n.val s.ec[n] } = s := by
  rw [Fin.getElem_fin, Vector.set_getElem_self]

theorem stageOver_iff (s : State) (c : EcChan) : stageOver s c = true ↔ c.stageClk + 1000 ≤ s.clk := decide_eq_true_iff

section
variable {s : State} {n : Fin 8}

theorem stageOver_early (h : s.clk < s.ec[n].stageClk + 1000) : stageOver s s.ec[n] = false := by
  rw [stageOver, decide_eq_false_iff_not]
  exact Nat.not_le.2 h

theorem beginWarm_eq (s : State) (sec : Nat) (c : EcChan) : beginWarm s sec c =
    { c with warmUntil := if sec = 0 then none else some (s.clk + 1000000 * sec), warmEnd := if sec = 0 then s.clk else c.warmEnd } := by
  unfold beginWarm
  split <;> rfl

theorem execColdStartSwitchOpen_over (ha : isActive s = true) (hc : s.ec[n].stage = .cold) (ho : s.ec[n].stageClk + 1000 ≤ s.clk) :
    execColdStartSwitchOpen n s = .next { s with
      ec := vmod s.ec n fun c => beginWarm s (ecCold s n) { c with shorted := false, stage := .biased, stepDue := (s.clk : Rat) + stepUs c.rate } } :=
  if_pos (by rw [ha, hc, (stageOver_iff ..).2 ho]; rfl)

theorem execColdStartSwitchOpen_not (h : isActive s = false ∨ stageOver s s.ec[n] = false) : execColdStartSwitchOpen n s = .next s :=
  if_neg (by rcases h with h | h <;> rw [h] <;> simp)

theorem execShortSwitchClose_over (ha : isActive s = true) (hc : s.ec[n].stage = .retiredAtZero) (ho : s.ec[n].stageClk + 1000 ≤ s.clk) :
    execShortSwitchClose n s =
      .next { s with ec := vmod s.ec n fun c => { c with shorted := true, stage := .retiredShorted, stageClk := s.clk } } :=
  if_pos (by rw [ha, hc, (stageOver_iff ..).2 ho]; rfl)

theorem execShortSwitchClose_not (h : isActive s = false ∨ stageOver s s.ec[n] = false) : execShortSwitchClose n s = .next s :=
  if_neg (by rcases h with h | h <;> rw [h] <;> simp)

theorem execPotentiostatDisable_over (hr : isRunning s = true) (hc : s.ec[n].stage = .retiredShorted) (ho : s.ec[n].stageClk + 1000 ≤ s.clk) :
    execPotentiostatDisable n s = .next { s with ec := vmod s.ec n fun c => { c with enabled := false, stage := .off } } :=
  if_pos (by rw [hr, hc, (stageOver_iff ..).2 ho]; rfl)

theorem execPotentiostatDisable_early (h : stageOver s s.ec[n] = false) : execPotentiostatDisable n s = .next s :=
  if_neg (by rw [h]; simp)

theorem execWarmupExpiry_ec (n : Fin 8) {e : Nat} (h : s.ec[n].warmUntil = some e) : execWarmupExpiry (.ec n) s =
    if e ≤ s.clk then .next { s with ec := vmod s.ec n fun c => { c with warmUntil := none, warmEnd := s.clk } } else .next s := by
  unfold execWarmupExpiry
  dsimp only
  rw [h]
  simp only [expired, decide_eq_true_eq]
  rfl

theorem execWarmupExpiry_mox (n : Fin 6) {e : Nat} (h : s.mox[n].warmUntil = some e) : execWarmupExpiry (.mox n) s =
    if e ≤ s.clk then .next { s with mox := vmod s.mox n fun m => { m with warmUntil := none } } else .next s := by
  unfold execWarmupExpiry
  dsimp only
  rw [h]
  simp only [expired, decide_eq_true_eq]

/-! The slew: a step of 2 microvolt each period, and none at the goal. -/

theorem slewStep_early {clk : Nat} {c : EcChan} (h : (clk : Rat) < c.stepDue) (goal : Int) (rate : Nat) : slewStep clk goal rate c = c :=
  if_pos (by simp [h])

theorem slewStep_due {clk : Nat} {c : EcChan} (h : c.stepDue ≤ (clk : Rat)) (goal : Int) (rate : Nat) : slewStep clk goal rate c =
    { c with dac := stepTowards c.dac goal, stepDue := if c.dac = goal then c.stepDue else c.stepDue + stepUs rate } := by
  unfold slewStep
  rw [decide_eq_false (not_lt.2 h), Bool.false_or]
  by_cases hg : c.dac = goal
  · rw [if_pos (beq_iff_eq.2 hg), if_pos hg, hg, stepTowards, if_neg (lt_irrefl goal), if_neg (lt_irrefl goal), ← hg]
  · rw [if_neg (by simp [hg]), if_neg hg]

theorem stepTowards_lt {c g : Int} (h : c < g) : stepTowards c g = c + 1 := if_pos h

theorem stepTowards_gt {c g : Int} (h : g < c) : stepTowards c g = c - 1 := by
  rw [stepTowards, if_neg (not_lt.2 h.le), if_pos h]

theorem stepTowards_self (g : Int) : stepTowards g g = g := by simp [stepTowards]

theorem execBiasSlewStep_inactive (h : isActive s = false) : execBiasSlewStep n s = .next s := if_pos (by rw [h]; rfl)

theorem execBiasSlewStep_biased (ha : isActive s = true) (hb : s.ec[n].stage = .biased) :
    execBiasSlewStep n s = .next { s with ec := vmod s.ec n fun c => slewStep s.clk c.target c.rate c } := by
  unfold execBiasSlewStep
  dsimp only
  rw [ha, hb]
  rfl

/-- A channel that retires after a step: at 0 V its millisecond there begins (R176). -/
def retiredStep (clk : Nat) (c : EcChan) : EcChan :=
  if (slewStep clk 0 retireRate c).dac = 0 then { slewStep clk 0 retireRate c with stage := .retiredAtZero, stageClk := clk }
  else slewStep clk 0 retireRate c

theorem execBiasSlewStep_retiring (ha : isActive s = true) (hb : s.ec[n].stage = .retiring) :
    execBiasSlewStep n s = .next { s with ec := vmod s.ec n (retiredStep s.clk) } := by
  unfold execBiasSlewStep
  dsimp only
  rw [ha, hb]
  rfl

end

/-- At 1000 microvolt/s a step of 2 microvolt takes 2 ms. -/
theorem stepUs_retireRate : stepUs retireRate = 2000 := by norm_num [stepUs, retireRate]

theorem retiredStep_early {clk : Nat} {c : EcChan} (h : (clk : Rat) < c.stepDue) (h0 : c.dac ≠ 0) : retiredStep clk c = c := by
  unfold retiredStep
  rw [slewStep_early h, if_neg h0]

theorem retiredStep_due {clk : Nat} {c : EcChan} (h : c.stepDue ≤ (clk : Rat)) : retiredStep clk c = { c with
    dac := stepTowards c.dac 0, stepDue := if c.dac = 0 then c.stepDue else c.stepDue + 2000
    stage := if stepTowards c.dac 0 = 0 then .retiredAtZero else c.stage, stageClk := if stepTowards c.dac 0 = 0 then clk else c.stageClk } := by
  unfold retiredStep
  rw [slewStep_due h, stepUs_retireRate]
  dsimp only
  by_cases hg : stepTowards c.dac 0 = 0
  · rw [if_pos hg, if_pos hg, if_pos hg]
  · rw [if_neg hg, if_neg hg, if_neg hg]

/-- Settles O18: each command by its own condition, the two slews by one step of the channel. -/
theorem biasStartsSlewsAndRetires : Obligations.BiasStartsSlewsAndRetires := by
  unfold Obligations.BiasStartsSlewsAndRetires
  refine ⟨fun s n ha hc ho => ?opens, fun s n ha hb hd => ?slews, fun s n ha hr hd => ?retires, fun s n hb hd => ?waits,
    fun s n ha hc ho => execShortSwitchClose_over ha hc ho, fun s n hr hc ho => execPotentiostatDisable_over hr hc ho, fun s n h => ?early,
    fun s n e h => ?warmEc, fun s n e h => ?warmMox, fun s n h => ?safe⟩
  case opens =>
    refine (execColdStartSwitchOpen_over ha hc ho).trans ?_
    simp only [beginWarm_eq]
    rfl
  case slews =>
    refine ⟨stepTowards s.ec[n].dac s.ec[n].target, if s.ec[n].dac = s.ec[n].target then s.ec[n].stepDue else s.ec[n].stepDue + stepUs s.ec[n].rate,
      (execBiasSlewStep_biased ha hb).trans ?_, stepTowards_lt, stepTowards_gt, fun h => ⟨by rw [h, stepTowards_self], if_pos h⟩, fun h => if_neg h⟩
    rw [vmod, slewStep_due hd]
    rfl
  case retires =>
    refine ⟨stepTowards s.ec[n].dac 0, if s.ec[n].dac = 0 then s.ec[n].stepDue else s.ec[n].stepDue + 2000,
      if stepTowards s.ec[n].dac 0 = 0 then .retiredAtZero else s.ec[n].stage, if stepTowards s.ec[n].dac 0 = 0 then s.clk else s.ec[n].stageClk,
      (execBiasSlewStep_retiring ha hr).trans ?_, stepTowards_lt, stepTowards_gt, fun h => by rw [h, stepTowards_self], fun h => if_neg h,
      ?_, fun h => if_pos h, fun h => ⟨by rw [if_neg h, hr], if_neg h⟩⟩
    · rw [vmod, retiredStep_due hd]
      rfl
    · rw [hr]
      by_cases hg : stepTowards s.ec[n].dac 0 = 0
      · rw [if_pos hg, hg]
        exact iff_of_true rfl rfl
      · rw [if_neg hg]
        exact iff_of_false (by decide) hg
  case waits =>
    cases ha : isActive s with
    | false => exact execBiasSlewStep_inactive ha
    | true =>
      rcases hb with hb | ⟨hr, h0⟩
      · refine (execBiasSlewStep_biased ha hb).trans ?_
        rw [vmod, slewStep_early hd, set_ec_self]
      · refine (execBiasSlewStep_retiring ha hr).trans ?_
        rw [vmod, retiredStep_early hd h0, set_ec_self]
  case early =>
    exact ⟨execColdStartSwitchOpen_not (.inr (stageOver_early h)), execShortSwitchClose_not (.inr (stageOver_early h)),
      execPotentiostatDisable_early (stageOver_early h)⟩
  case warmEc => exact ⟨fun he => (execWarmupExpiry_ec n h).trans (if_pos he), fun he => (execWarmupExpiry_ec n h).trans (if_neg (Nat.not_le.2 he))⟩
  case warmMox => exact ⟨fun he => (execWarmupExpiry_mox n h).trans (if_pos he), fun he => (execWarmupExpiry_mox n h).trans (if_neg (Nat.not_le.2 he))⟩
  case safe =>
    have ha := isActive_of_inSafe h
    exact ⟨execColdStartSwitchOpen_not (.inl ha), execBiasSlewStep_inactive ha, execShortSwitchClose_not (.inl ha)⟩

end Sys2Proof.Machine

namespace Sys2Proof.Machine

/-! The entry to SAFE, said of the mode page and the rail (R126, R129, R130, R134, R135). -/

theorem LogOnly.modes {s t : State} (h : LogOnly s t) : t.modes = s.modes := by
  unfold LogOnly at h
  rw [h]

theorem LogOnly.rail {s t : State} (h : LogOnly s t) : t.rail = s.rail := by
  unfold LogOnly at h
  rw [h]

/-- The mode page once a transition to `m` for a cause has completed. -/
def modesAfter (s : State) (m : Mode) (cause : Nat) : Modes :=
  { s.modes with mode := m, oldMode := modeCode s.modes.mode, newMode := m, lastCause := BitVec.ofNat 8 cause, lastTime := plumbNow s
                 record := some m }

theorem completeMode_modes (s : State) (m : Mode) (cause : Nat) : (completeMode s m cause).modes = modesAfter s m cause := by
  unfold completeMode
  refine ((logGeneral_log (.refl _) ..).modes).trans ?_
  unfold rorEnter
  split <;> rfl

theorem completeMode_rail (s : State) (m : Mode) (cause : Nat) : (completeMode s m cause).rail = s.rail := by
  unfold completeMode
  refine ((logGeneral_log (.refl _) ..).rail).trans ?_
  unfold rorEnter
  split <;> rfl

/-- A completed transition raises EV04 (R135). -/
theorem completeMode_pending (s : State) (m : Mode) (cause : Nat) : (completeMode s m cause).events.pending.getLsbD 4 = true := by
  unfold completeMode
  exact (logGeneral_stays ⟨fun _ h => h⟩ ..).stays 4 (raise_pending _ 4 _)

theorem dropRequests_changes (s : State) : (dropRequests s).modes = { s.modes with hostReq := none, sluiceReq := none } ∧
    (dropRequests s).rail = s.rail := by
  unfold dropRequests
  dsimp only
  split <;> exact ⟨rfl, rfl⟩

theorem gateMere_changes (s : State) : (gateMere s).modes = s.modes ∧ (gateMere s).rail = s.rail := by
  unfold gateMere
  split <;> exact ⟨rfl, rfl⟩

theorem stopForSafe_modes (s : State) : (stopForSafe s).modes = { s.modes with hostReq := none, sluiceReq := none } :=
  (gateMere_changes _).1.trans (dropRequests_changes s).1

theorem stopForSafe_rail (s : State) : (stopForSafe s).rail = s.rail := (gateMere_changes _).2.trans (dropRequests_changes s).2

theorem dropRun_rail (s : State) : (dropRun s).rail = s.rail := by
  unfold dropRun calReject
  dsimp only
  split
  · split <;> rfl
  · rfl

theorem endSessions_rail (s : State) (bits k : Nat) : (endSessions s bits (some k)).rail = s.rail := by
  rw [(endSessions_ended s bits k).1]

theorem refreshOutputs_rail (s : State) : (refreshOutputs s).rail = s.rail := by
  rw [(refreshOutputs_pins s).1]

/-- In SAFE already: only the cause is added (R134). -/
theorem enterSafe_again {s : State} {cause : Nat} (h : inSafe s = true) (hc : cause ≠ 0) : enterSafe s cause = safeRail (addCause s cause) := by
  have hm : (addCause s cause).modes.mode = .safe := mode_of_inSafe h
  unfold enterSafe
  rw [isRunning_of_inSafe h, if_neg (by decide), if_neg hc]
  exact if_pos hm

/-- From RUN or WATCH: the stops of R130, the transition, and what follows it. -/
theorem enterSafe_entered {s : State} {cause : Nat} (h : isActive s = true) (hc : cause ≠ 0) : enterSafe s cause =
    refreshOutputs (endSessions (dropRun (safeRail (completeMode (stopForSafe (addCause s cause)) .safe cause))) 7 (some 4)) := by
  have hm : (addCause s cause).modes.mode ≠ .safe := mode_of_isActive h
  unfold enterSafe
  rw [isRunning_of_isActive h, if_neg (by decide), if_neg hc]
  exact if_neg hm

/-- The mode page after the entry: SAFE with its cause, the requests dropped (R129, R130, R133). -/
theorem enterSafe_modes {s : State} {cause : Nat} (h : isActive s = true) (hc : cause ≠ 0) : (enterSafe s cause).modes =
    { modesAfter (addCause s cause) .safe cause with hostReq := none, sluiceReq := none } := by
  rw [enterSafe_entered h hc, refreshOutputs_modes, endSessions_modes, dropRun_modes, safeRail_modes, completeMode_modes, modesAfter,
    stopForSafe_modes, plumbNow, (stopForSafe_safe _).1]
  rfl

theorem enterSafe_pending {s : State} {cause : Nat} (h : isActive s = true) (hc : cause ≠ 0) :
    (enterSafe s cause).events.pending.getLsbD 4 = true := by
  rw [enterSafe_entered h hc]
  exact (refreshOutputs_stays (endSessions_stays (dropRun_stays (safeRail_stays ⟨fun _ hn => hn⟩)) _ _)).stays 4 (completeMode_pending ..)

/-- Of the rail, the entry to SAFE is what SAFE makes of it. -/
theorem enterSafe_rail {s : State} (h : isRunning s = true) (cause : Nat) : ∃ x : State, x.rail = s.rail ∧ (enterSafe s cause).rail = (safeRail x).rail := by
  unfold enterSafe
  rw [h, if_neg (by decide)]
  have h0 : (if cause = 0 then s else addCause s cause).rail = s.rail := by split <;> rfl
  generalize (if cause = 0 then s else addCause s cause) = a at h0
  dsimp only
  split
  · exact ⟨a, h0, rfl⟩
  · refine ⟨completeMode (stopForSafe a) .safe cause, ?_, ?_⟩
    · rw [completeMode_rail, stopForSafe_rail, h0]
    · rw [refreshOutputs_rail, endSessions_rail, dropRun_rail]

theorem logShed_log (s : State) (u : Shed) (restore : Bool) (shunt : Nat) : LogOnly s (logShed s u restore shunt) := logGeneral_log (.refl s) ..

/-- The ladder record stays through SAFE (R306). -/
theorem safeRail_phases (s : State) : (safeRail s).rail.phases = s.rail.phases := by
  have kept (x : State) : (chainLimits { x with rail := { x.rail with kept := true, fitsClk := none } }).rail.phases = x.rail.phases := rfl
  unfold safeRail
  split
  · rfl
  · dsimp only
    rw [kept]
    split
    · rw [(logShed_log ..).rail]
    · rfl

theorem enterSafe_phases {s : State} (h : isRunning s = true) (cause : Nat) : (enterSafe s cause).rail.phases = s.rail.phases := by
  obtain ⟨x, hx, hr⟩ := enterSafe_rail h cause
  rw [hr, safeRail_phases, hx]

/-- A rail that is off, and not kept, stays off in SAFE (R126). -/
theorem enterSafe_off {s : State} (h : isRunning s = true) (ho : s.rail.state = .off) (hk : s.rail.kept = false) (cause : Nat) :
    (enterSafe s cause).rail.state = .off := by
  obtain ⟨x, hx, hr⟩ := enterSafe_rail h cause
  have hn : keepsChain x = false := by
    rw [keepsChain, hx, ho, hk]
    exact Bool.and_false _
  rw [hr, safeRail, if_pos (by rw [hn]; rfl)]
  rfl

end Sys2Proof.Machine

namespace Sys2Proof.Machine

/-! The phase check (R285, R300 - R302): each failing phase is lost, and from the third on the rail is off and the device in SAFE. -/

/-- A fault outside the SAFE mask writes its own record alone (R744, R761). -/
theorem declareWith_unmasked {s : State} {code : Fin 28} (h : (cfgSafeMask s).getLsbD code.val = false) (arg evArg : Nat) (masked : Bool) :
    FaultOnly s (declareWith s code arg evArg masked) := by
  have hf := recordFault_changes s code arg evArg masked
  have hc : cfgSafeMask (recordFault s code arg evArg masked) = cfgSafeMask s := by
    unfold FaultOnly at hf
    rw [hf]
    rfl
  unfold declareWith
  split
  · rfl
  · dsimp only
    rw [hc, h, Bool.and_false, if_neg (by decide)]
    exact hf

theorem declareEvent_unmasked {s : State} {code : Fin 28} (h : (cfgSafeMask s).getLsbD code.val = false) (arg evArg : Nat) (masked : Bool) :
    FaultOnly s (declareEvent s code arg evArg masked) := by
  unfold declareEvent
  split
  · exact (raise_log (.refl s) ..).fault
  · exact declareWith_unmasked h ..

/-- The event comes with the declaration, or alone while the code is active. -/
theorem declareEvent_pending (s : State) (code : Fin 28) (arg evArg : Nat) (masked : Bool) :
    (declareEvent s code arg evArg masked).events.pending.getLsbD (faultEvent code).val = true ∧
      PendingStays s (declareEvent s code arg evArg masked) := by
  unfold declareEvent
  split
  · exact ⟨raise_pending .., raise_stays ⟨fun _ h => h⟩ ..⟩
  · next h =>
    obtain ⟨-, -, -, -, hp, hs, -⟩ := declareWith_new s code arg evArg masked (Bool.not_eq_true _ ▸ h)
    exact ⟨hp, hs⟩

/-- The device is in a mode, and a lost phase alone is no reason for SAFE. -/
structure LadderRuns (s : State) : Prop where
  running : isRunning s = true
  unmasked : (cfgSafeMask s).getLsbD 0x13 = false

theorem LadderRuns.of_fixed {s t : State} (h : LadderRuns s) (hf : t.fixed = s.fixed) : LadderRuns t where
  running := by
    rw [isRunning, show t.phase = s.phase from congrArg Fixed.phase hf]
    exact h.running
  unmasked := by
    rw [cfgSafeMask, sec_congr (congrArg Fixed.config hf)]
    exact h.unmasked

/-- `t` differs from `s` in the ladder record and in what a fault writes. -/
def LadderOnly (s t : State) : Prop :=
  t = { s with rail := { s.rail with phases := t.rail.phases }, ks := t.ks, events := t.events, log := t.log }

theorem LadderOnly.trans {s t u : State} (h : LadderOnly s t) (k : LadderOnly t u) : LadderOnly s u := by
  unfold LadderOnly at *
  rw [k, h]

/-- The rail is off, and the device in SAFE with cause 0x06. -/
structure RailDown (t : State) : Prop where
  off : t.rail.state = .off
  safe : inSafe t = true
  cause : t.modes.causes.getLsbD 6 = true

theorem RailDown.ladder {t u : State} (h : RailDown t) (k : LadderOnly t u) : RailDown u := by
  unfold LadderOnly at k
  rw [k]
  exact ⟨h.off, h.safe, h.cause⟩

theorem addCause_bit (s : State) {cause : Nat} (h : cause < 16) : (addCause s cause).modes.causes.getLsbD cause = true := by
  unfold addCause
  rw [BitVec.getLsbD_or, BitVec.getLsbD_ofNat, Nat.testBit_two_pow_self, decide_eq_true h]
  exact Bool.or_true _

/-- Rail and switches off, and the phase checks of R307 begun: the state in which too few phases lead into SAFE. -/
def ladderOff (s : State) : State :=
  { railOff s with modes := { s.modes with railCauseGone := false }, rail := { (railOff s).rail with recheckClk := s.clk } }

theorem railLost_eq (s : State) : railLost s = enterSafe (ladderOff s) 6 := rfl

theorem railLost_changes {s : State} (h : isRunning s = true) : RailDown (railLost s) ∧ (railLost s).rail.phases = s.rail.phases ∧
    PendingStays s (railLost s) := by
  have hr : isRunning (ladderOff s) = true := h
  have hrun : isRunning (railLost s) = true := by
    rw [isRunning, show (railLost s).phase = s.phase from congrArg Fixed.phase (railLost_fixed s)]
    exact h
  refine ⟨⟨enterSafe_off hr rfl rfl 6, ?_, ?_⟩, enterSafe_phases hr 6, enterSafe_stays (s := s) (t := ladderOff s) ⟨fun _ hn => hn⟩ 6⟩
  · rw [inSafe, hrun, railLost_eq, enterSafe_mode _ 6 hr]
    rfl
  · rw [railLost_eq]
    cases ha : isActive (ladderOff s) with
    | true =>
      rw [enterSafe_modes ha (by decide)]
      exact addCause_bit _ (by decide)
    | false =>
      have hi : inSafe (ladderOff s) = true := by
        rw [isActive, hr] at ha
        rw [inSafe, hr]
        simpa using ha
      rw [enterSafe_again hi (by decide), safeRail_modes]
      exact addCause_bit _ (by decide)

/-- The number of phases in a state. -/
theorem phaseCount_eq (s : State) (x : PhaseState) : phaseCount s x = ((List.finRange 4).filter fun p => s.rail.phases[p] == x).length := by
  have h : s.rail.phases.toList = (List.finRange 4).map fun p => s.rail.phases[p] := by
    refine List.ext_getElem (by simp) fun i _ _ => ?_
    rw [List.getElem_map, List.getElem_finRange]
    rfl
  rw [phaseCount, h, List.count, List.countP_map, List.countP_eq_length_filter]
  rfl

theorem phaseCount_mono {s t : State} (h : ∀ p : Fin 4, s.rail.phases[p] = .lost → t.rail.phases[p] = .lost) :
    phaseCount s .lost ≤ phaseCount t .lost := by
  rw [phaseCount_eq, phaseCount_eq, ← List.countP_eq_length_filter, ← List.countP_eq_length_filter]
  exact List.countP_mono_left fun p _ hp => beq_iff_eq.2 (h p (beq_iff_eq.1 hp))

/-- From `s` to `t` the phases of `l` that fail the check have been lost, and what that leads to has happened. -/
structure PhasesChecked (o : PhaseCheckObs) (l : List (Fin 4)) (s t : State) : Prop where
  phases : ∀ p : Fin 4, t.rail.phases[p] = if p ∈ l ∧ phasePasses o p = false then .lost else s.rail.phases[p]
  told : ∀ p ∈ l, phasePasses o p = false → s.rail.phases[p] ≠ .lost → t.events.pending.getLsbD 11 = true
  stays : PendingStays s t
  rest : LadderOnly s t ∨ (RailDown t ∧ 3 ≤ phaseCount t .lost)

theorem PhasesChecked.refl (o : PhaseCheckObs) (s : State) : PhasesChecked o [] s s :=
  ⟨fun p => by simp, fun p hp => absurd hp List.not_mem_nil, ⟨fun _ h => h⟩, .inl rfl⟩

theorem PhasesChecked.lost {o : PhaseCheckObs} {l : List (Fin 4)} {s t : State} (h : PhasesChecked o l s t) {p : Fin 4}
    (hp : s.rail.phases[p] = .lost) : t.rail.phases[p] = .lost := by
  rw [h.phases, hp, ite_self]

theorem PhasesChecked.cons {o : PhaseCheckObs} {p : Fin 4} {l : List (Fin 4)} {s t u : State} (h : PhasesChecked o [p] s t) (k : PhasesChecked o l t u) :
    PhasesChecked o (p :: l) s u where
  phases q := by
    rw [k.phases, h.phases]
    by_cases hq : phasePasses o q = false
    · by_cases hl : q ∈ l <;> simp [hq, hl]
    · simp [hq]
  told q hq hf hn := by
    by_cases ht : t.rail.phases[q] = .lost
    · have hqp : q ∈ [p] := by
        by_contra hc
        rw [h.phases, if_neg (fun hx => hc hx.1)] at ht
        exact hn ht
      exact k.stays.stays 11 (h.told q hqp hf hn)
    · rcases List.mem_cons.1 hq with rfl | hl
      · exact k.stays.stays 11 (h.told _ List.mem_cons_self hf hn)
      · exact k.told q hl hf ht
  stays := h.stays.trans k.stays
  rest := by
    rcases k.rest with hk | hk
    · rcases h.rest with hh | ⟨hd, hc⟩
      · exact .inl (hh.trans hk)
      · exact .inr ⟨hd.ladder hk, hc.trans (phaseCount_mono fun _ => k.lost)⟩
    · exact .inr hk

/-- A phase recorded as lost. -/
def phaseOut (s : State) (p : Fin 4) : State := { s with rail := { s.rail with phases := s.rail.phases.set p.val .lost } }

theorem losePhase_new {s : State} {p : Fin 4} (h : s.rail.phases[p] ≠ .lost) : losePhase s p =
    if 3 ≤ phaseCount (declareEvent (phaseOut s p) 0x13 p.val p.val true) .lost then railLost (declareEvent (phaseOut s p) 0x13 p.val p.val true)
    else declareEvent (phaseOut s p) 0x13 p.val p.val true := if_neg h

/-- A failing phase is lost (R285). -/
theorem losePhase_checked {o : PhaseCheckObs} {s : State} (h : LadderRuns s) {p : Fin 4} (hp : phasePasses o p = false) :
    PhasesChecked o [p] s (losePhase s p) := by
  have one (q : Fin 4) : q ∈ [p] ∧ phasePasses o q = false ↔ q = p := by
    rw [List.mem_singleton]
    exact ⟨And.left, fun e => ⟨e, e ▸ hp⟩⟩
  by_cases hl : s.rail.phases[p] = .lost
  · rw [losePhase, if_pos hl]
    refine ⟨fun q => ?_, fun q hq _ hn => absurd (List.mem_singleton.1 hq ▸ hl) hn, ⟨fun _ h => h⟩, .inl rfl⟩
    by_cases hq : q = p
    · rw [if_pos ((one q).2 hq), hq, hl]
    · rw [if_neg (mt (one q).1 hq)]
  · rw [losePhase_new hl]
    have hx : FaultOnly (phaseOut s p) (declareEvent (phaseOut s p) 0x13 p.val p.val true) := declareEvent_unmasked h.unmasked ..
    obtain ⟨hev, hst⟩ := declareEvent_pending (phaseOut s p) 0x13 p.val p.val true
    generalize declareEvent (phaseOut s p) 0x13 p.val p.val true = x at hx hev hst
    unfold FaultOnly at hx
    have hst : PendingStays s x := ⟨hst.stays⟩
    have hph : ∀ q : Fin 4, x.rail.phases[q] = if q ∈ [p] ∧ phasePasses o q = false then .lost else s.rail.phases[q] := fun q => by
      rw [hx, show (phaseOut s p).rail.phases = vmod s.rail.phases p fun _ => .lost from rfl, vmod_get]
      simp only [(one q).trans eq_comm]
    have hlad : LadderOnly s x := by
      unfold LadderOnly
      rw [hx]
      rfl
    have hrun : isRunning x = true := by
      rw [isRunning, show x.phase = s.phase by rw [hlad]]
      exact h.running
    split
    · next hc =>
      obtain ⟨hd, hp', hs'⟩ := railLost_changes hrun
      refine ⟨fun q => by rw [hp']; exact hph q, fun _ _ _ _ => hs'.stays 11 hev, hst.trans hs', .inr ⟨hd, ?_⟩⟩
      exact hc.trans (phaseCount_mono fun q hq => by rw [hp', hq])
    · exact ⟨hph, fun _ _ _ _ => hev, hst, .inl hlad⟩

theorem foldl_checked (o : PhaseCheckObs) (l : List (Fin 4)) {s : State} (h : LadderRuns s) :
    PhasesChecked o l s (l.foldl (fun s p => if phasePasses o p then s else losePhase s p) s) := by
  induction l generalizing s with
  | nil => exact .refl o s
  | cons p l ih =>
    cases hp : phasePasses o p with
    | true =>
      have hs : PhasesChecked o [p] s s :=
        ⟨fun q => by rw [if_neg (fun hq => by rw [List.mem_singleton.1 hq.1, hp] at hq; exact absurd hq.2 (by decide))],
          fun q hq hf _ => by rw [List.mem_singleton.1 hq, hp] at hf; exact absurd hf (by decide), ⟨fun _ h => h⟩, .inl rfl⟩
      rw [List.foldl_cons, if_pos hp]
      exact hs.cons (ih h)
    | false =>
      rw [List.foldl_cons, if_neg (by rw [hp]; decide)]
      exact (losePhase_checked h hp).cons (ih (h.of_fixed (losePhase_fixed s p)))

theorem failPhases_checked (o : PhaseCheckObs) {s : State} (h : LadderRuns s) : PhasesChecked o (List.finRange 4) s (failPhases s o) :=
  foldl_checked o _ h

/-- After the check, the phases lost are those that fail it and those that were lost before. -/
theorem failPhases_count (o : PhaseCheckObs) {s : State} (h : LadderRuns s) : phaseCount (failPhases s o) .lost =
    ((List.finRange 4).filter fun p => !phasePasses o p || s.rail.phases[p] == .lost).length := by
  rw [phaseCount_eq]
  congr 1
  refine List.filter_congr fun p _ => ?_
  rw [(failPhases_checked o h).phases]
  cases phasePasses o p <;> simp [List.mem_finRange]

end Sys2Proof.Machine

namespace Sys2Proof.Machine

/-! The rail's start, the chain-power switches and the end of the rail hold (R151, R284 - R292, R302). -/

theorem vmod_vmod {α : Type} {n : Nat} (v : Vector α n) (i : Fin n) (f g : α → α) : vmod (vmod v i f) i g = vmod v i fun a => g (f a) := by
  simp [vmod]

/-! RAIL_START. -/

theorem railBegin_wanted {s : State} (hw : railWanted s = true) (ho : s.rail.state = .off) :
    ClearOnly { ratesAnew s with rail := { s.rail with state := .phaseCheck, onHrail := false, startClk := s.clk } } (railBegin s) := by
  unfold railBegin
  rw [if_pos (by rw [hw, ho]; rfl)]
  dsimp only
  split
  · exact clearFault_clear _ 0x14
  · rfl

theorem railBegin_idle {s : State} (h : railWanted s = false ∨ s.rail.state ≠ .off) : railBegin s = s :=
  if_neg (by rcases h with h | h <;> simp [h])

/-! The phase check's end. -/

theorem phasePasses_iff (o : PhaseCheckObs) (p : Fin 4) : phasePasses o p = true ↔
    100 ≤ (o[p]).1 ∧ 4 * ratAbs (((o[p]).2 : Rat) - ((o[p]).1 : Rat)) ≤ ((o[p]).1 : Rat) := by
  unfold phasePasses
  rw [Bool.and_eq_true, decide_eq_true_eq, decide_eq_true_eq]

section
variable {s : State} {o : PhaseCheckObs} (hr : isRunning s = true) (hs : s.rail.state = .phaseCheck) (hc : s.rail.startClk + 128 ≤ s.clk)
include hr hs hc

theorem execRailPhaseCheckEnd_due : execRailPhaseCheckEnd o s = if (failPhases s o).rail.state ≠ .phaseCheck then .next (failPhases s o)
    else if phaseCount (failPhases s o) .lost ≤ 2 then .next { failPhases s o with rail := { (failPhases s o).rail with state := .softStart } }
    else .next (railLost (failPhases s o)) :=
  if_neg (by simp [hr, hs, hc])

/-- With at most two phases lost the soft start begins. -/
theorem execRailPhaseCheckEnd_starts (hm : (cfgSafeMask s).getLsbD 0x13 = false) (hb : phaseCount (failPhases s o) .lost ≤ 2) :
    LadderOnly s (failPhases s o) ∧ execRailPhaseCheckEnd o s =
      .next { failPhases s o with rail := { (failPhases s o).rail with state := .softStart } } := by
  have hl : LadderOnly s (failPhases s o) := (failPhases_checked o ⟨hr, hm⟩).rest.resolve_right fun hd => absurd hd.2 (by omega)
  have hst : (failPhases s o).rail.state = .phaseCheck := by
    unfold LadderOnly at hl
    rw [hl]
    exact hs
  refine ⟨hl, ?_⟩
  rw [execRailPhaseCheckEnd_due hr hs hc, if_neg (not_not.2 hst), if_pos hb]

/-- With three or more lost, rail off and SAFE. -/
theorem execRailPhaseCheckEnd_fails (hm : (cfgSafeMask s).getLsbD 0x13 = false) (hb : 3 ≤ phaseCount (failPhases s o) .lost) :
    ∃ t, execRailPhaseCheckEnd o s = .next t ∧ RailDown t := by
  rw [execRailPhaseCheckEnd_due hr hs hc]
  rcases (failPhases_checked o ⟨hr, hm⟩).rest with hl | ⟨hd, -⟩
  · unfold LadderOnly at hl
    have hst : (failPhases s o).rail.state = .phaseCheck := by
      rw [hl]
      exact hs
    have hrun : isRunning (failPhases s o) = true := by
      rw [hl]
      exact hr
    rw [if_neg (not_not.2 hst), if_neg (by omega)]
    exact ⟨_, rfl, (railLost_changes hrun).1⟩
  · rw [if_pos (by rw [hd.off]; decide)]
    exact ⟨_, rfl, hd⟩

end

/-! The soft start's end. -/

/-- A switch at the beginning of its soft start, under the limit in force. -/
def switchBegun (s : State) (w : Fin 2) (c : ChainSwitch) : ChainSwitch :=
  { c with state := .softStart, startClk := s.clk, limit := if s.rail.shed.contains .chain then cfgChainFloor s else cfgChainLimit s w }

theorem switchStart_eq (s : State) (w : Fin 2) : switchStart s w = { s with rail := { s.rail with sw := vmod s.rail.sw w (switchBegun s w) } } := rfl

/-- A switch begins its soft start if it is enabled. -/
def startEnabled (s : State) (w : Fin 2) : State := if chainEnabled s w then switchStart s w else s

theorem startEnabled_changes (s : State) (w : Fin 2) : startEnabled s w = { s with rail := { s.rail with sw := (startEnabled s w).rail.sw } } ∧
    ∀ k : Fin 2, (startEnabled s w).rail.sw[k] = if w = k ∧ chainEnabled s k = true then switchBegun s k s.rail.sw[k] else s.rail.sw[k] := by
  unfold startEnabled
  cases he : chainEnabled s w with
  | true =>
    refine ⟨rfl, fun k => (vmod_get ..).trans ?_⟩
    by_cases hk : w = k
    · subst hk
      exact (if_pos rfl).trans (if_pos ⟨rfl, he⟩).symm
    · exact (if_neg hk).trans (if_neg (mt And.left hk)).symm
  | false => exact ⟨rfl, fun k => (if_neg fun h => absurd (h.1 ▸ h.2) (by rw [he]; decide)).symm⟩

theorem railUp_changes (s : State) : railUp s = { s with rail := { s.rail with state := .on, sw := (railUp s).rail.sw } } ∧
    ∀ w : Fin 2, (railUp s).rail.sw[w] = if chainEnabled s w = true then switchBegun s w s.rail.sw[w] else s.rail.sw[w] := by
  rw [show railUp s = startEnabled (startEnabled { s with rail := { s.rail with state := .on } } 0) 1 from rfl]
  obtain ⟨h0, g0⟩ := startEnabled_changes { s with rail := { s.rail with state := .on } } 0
  generalize startEnabled { s with rail := { s.rail with state := .on } } 0 = x at h0 g0
  obtain ⟨h1, g1⟩ := startEnabled_changes x 1
  generalize startEnabled x 1 = y at h1 g1
  have he : ∀ w, chainEnabled x w = chainEnabled s w := fun w => by rw [h0]; rfl
  have hb : ∀ w, switchBegun x w = switchBegun s w := fun w => by rw [h0]; rfl
  refine ⟨by rw [h1, h0], fun w => ?_⟩
  rw [g1, he, hb, g0]
  change _ = if chainEnabled s w = true then switchBegun s w s.rail.sw[w] else s.rail.sw[w]
  match w with
  | 0 => rw [if_neg (by simp)]; exact if_congr (and_iff_right rfl) rfl rfl
  | 1 => rw [if_neg (c := (0 : Fin 2) = 1 ∧ _) (by simp)]; exact if_congr (and_iff_right rfl) rfl rfl

theorem execRailSoftStartDone_near {s : State} {o : RailVolts} (hr : isRunning s = true) (hs : s.rail.state = .softStart)
    (hc : s.rail.startClk + 2000 ≤ s.clk) (hn : ratAbs (o.hrs - cfgSetpoint s) ≤ 3 / 100 * cfgSetpoint s) :
    execRailSoftStartDone o s = .next (railUp s) := by
  unfold execRailSoftStartDone
  rw [decide_eq_true hn]
  exact if_pos (by simp [hr, hs, hc])

theorem execRailSoftStartDone_not {s : State} {o : RailVolts} (h : isRunning s = false ∨ s.rail.state ≠ .softStart ∨ s.clk < s.rail.startClk + 2000 ∨
    (3 / 100 * cfgSetpoint s < ratAbs (o.hrs - cfgSetpoint s) ∧ s.clk < s.rail.startClk + 12000)) : execRailSoftStartDone o s = .next s := by
  refine if_neg fun hall => ?_
  simp only [Bool.and_eq_true, beq_iff_eq, decide_eq_true_eq] at hall
  obtain ⟨⟨hr, hs⟩, hc⟩ := hall
  have h2 : s.rail.startClk + 2000 ≤ s.clk := le_trans (Nat.add_le_add_left (by split <;> decide) _) hc
  rcases h with h | h | h | ⟨hf, h⟩
  · rw [hr] at h
    exact absurd h (by decide)
  · exact h hs
  · omega
  · rw [if_neg (not_le.2 hf)] at hc
    omega

/-! The switches. -/

/-- A cleared code is no longer active. -/
theorem clearFault_inactive (s : State) (code : Fin 28) : faultActive (clearFault s code) code = false := by
  have hk : (clearFault s code).ks.active = s.ks.active &&& ~~~(BitVec.ofNat 32 (2 ^ code.val)) := by
    unfold clearFault
    dsimp only
    split
    · unfold noteGone
      split <;> rfl
    · rfl
  have hc : code.val < 32 := by omega
  rw [faultActive, hk, BitVec.getLsbD_and, BitVec.getLsbD_not, BitVec.getLsbD_ofNat, Nat.testBit_two_pow_self, decide_eq_true hc]
  simp

section
variable {s : State} {w : Fin 2} {o : SwitchObs} (hr : isRunning s = true)

/-- The switch comes on, and code 0x12 goes when no enabled switch is left that is not. -/
def switchedOn (s : State) (w : Fin 2) : State :=
  if faultActive s 0x12 && !(s.ks.injected.contains 0x12) && switchesOn (setSwitch s w .on) then clearFault (setSwitch s w .on) 0x12
  else setSwitch s w .on

theorem switchedOn_clear (s : State) (w : Fin 2) : ClearOnly (setSwitch s w .on) (switchedOn s w) := by
  unfold switchedOn
  split
  · exact clearFault_clear ..
  · rfl

theorem switchedOn_inactive {s : State} {w : Fin 2} (ho : switchesOn (setSwitch s w .on) = true) (hi : s.ks.injected.contains 0x12 = false) :
    faultActive (switchedOn s w) 0x12 = false := by
  unfold switchedOn
  rw [ho, hi, Bool.not_false, Bool.and_true, Bool.and_true]
  split
  · exact clearFault_inactive ..
  · next h => exact Bool.not_eq_true _ ▸ h

theorem switchesOn_of_on {s : State} (h : ∀ k : Fin 2, chainEnabled s k = true → s.rail.sw[k].state = .on) : switchesOn s = true := by
  refine List.all_eq_true.2 fun k _ => ?_
  cases hk : chainEnabled s k with
  | true => rw [h k hk]; rfl
  | false => rfl

include hr

theorem execChainSwitchOn_reached (hs : s.rail.sw[w].state = .softStart) (hv : 9 / 10 * o.rail ≤ o.out) (ht : 9 / 10 ≤ switchRamp s w) :
    execChainSwitchOn w o s = .next (switchedOn s w) := by
  unfold execChainSwitchOn
  dsimp only
  rw [hs]
  exact if_neg (by simp [hr, switchReached, hv, not_lt.2 ht])

theorem execChainSwitchOn_limited (hs : s.rail.sw[w].state = .inLimit) (hi : switchCurrent o < s.rail.sw[w].limit) :
    execChainSwitchOn w o s = .next (setSwitch s w .on) := by
  unfold execChainSwitchOn
  dsimp only
  rw [hs, hr, decide_eq_true hi]
  rfl

/-- The two ways to fail: no 90 % of HRAIL in time, and 10 ms at the limit (R292). -/
theorem execChainSwitchFail_fails (h : (s.rail.sw[w].state = .softStart ∧ o.out < 9 / 10 * o.rail ∧
      s.rail.sw[w].startClk + 1000 * u8 (sec s 7) 5 + 10000 ≤ s.clk) ∨
    ((s.rail.sw[w].state = .on ∨ s.rail.sw[w].state = .inLimit) ∧ s.rail.sw[w].limit ≤ switchCurrent o ∧ 10000 ≤ o.us)) :
    execChainSwitchFail w o s = .next (failSwitch s w) := by
  unfold execChainSwitchFail
  dsimp only
  rw [hr, if_neg (by decide)]
  rcases h with ⟨hs, hv, hc⟩ | ⟨hs, hl, hu⟩
  · rw [hs]
    exact congrArg Host.Outcome.next (if_pos (by rw [switchReached, decide_eq_false (not_le.2 hv), cfgSoftStart, decide_eq_true hc]; rfl))
  · have hx : (if switchCurrent o < s.rail.sw[w].limit then s else if 10000 ≤ o.us then failSwitch s w else setSwitch s w .inLimit) = failSwitch s w := by
      rw [if_neg (not_lt.2 hl), if_pos hu]
    rcases hs with hs | hs <;> rw [hs] <;> exact congrArg _ hx

theorem execChainSwitchFail_limits (hs : s.rail.sw[w].state = .on) (hl : s.rail.sw[w].limit ≤ switchCurrent o) (hu : o.us < 10000) :
    execChainSwitchFail w o s = .next (setSwitch s w .inLimit) := by
  unfold execChainSwitchFail
  dsimp only
  rw [hr, if_neg (by decide), hs]
  refine congrArg Host.Outcome.next ?_
  rw [if_neg (not_lt.2 hl), if_neg (not_le.2 hu)]

theorem execChainSwitchRetry_due (hs : s.rail.sw[w].state = .failed) (ho : s.rail.state = .on)
    (hc : s.rail.sw[w].failClk + 100000 * u8 (sec s 7) 16 ≤ s.clk) : execChainSwitchRetry w s =
      .next { s with rail := { s.rail with sw := vmod s.rail.sw w fun c => switchBegun s w { c with retries := sat16 c.retries } } } := by
  unfold execChainSwitchRetry
  refine (if_pos (by rw [hr, hs, ho, cfgRetry, decide_eq_true hc]; rfl)).trans ?_
  dsimp only
  rw [switchStart_eq, vmod_vmod]
  rfl

end

theorem execChainSwitchRetry_not {s : State} {w : Fin 2} (h : isRunning s = false ∨ s.clk < s.rail.sw[w].failClk + 100000 * u8 (sec s 7) 16) :
    execChainSwitchRetry w s = .next s := by
  unfold execChainSwitchRetry
  refine if_neg fun hall => ?_
  simp only [Bool.and_eq_true, decide_eq_true_eq] at hall
  obtain ⟨⟨⟨hr, -⟩, -⟩, hc⟩ := hall
  rw [cfgRetry] at hc
  rcases h with h | h
  · rw [hr] at h
    exact absurd h (by decide)
  · omega

/-- A fault outside the SAFE mask for whose record the spec states no argument: a free value goes with it (log 8). -/
theorem declareOpen_unmasked {s : State} {code : Fin 28} (h : (cfgSafeMask s).getLsbD code.val = false) (masked : Bool) :
    declareOpen s code masked = { s with
      freeCount := (declareOpen s code masked).freeCount, ks := (declareOpen s code masked).ks, events := (declareOpen s code masked).events
      log := (declareOpen s code masked).log } := by
  unfold declareOpen
  split
  · rfl
  · have hx := declareWith_unmasked (s := (drawFree s).2) (code := code) h ((drawFree s).1.toNat % 65536) code.val masked
    unfold FaultOnly at hx
    dsimp only
    rw [declare, hx]
    rfl

theorem declareOpen_pending {s : State} {code : Fin 28} (h : faultActive s code = false) (masked : Bool) :
    (declareOpen s code masked).events.pending.getLsbD (faultEvent code).val = true := by
  unfold declareOpen
  rw [if_neg (by rw [h]; decide)]
  obtain ⟨-, -, -, -, hp, -⟩ := declareWith_new (drawFree s).2 code ((drawFree s).1.toNat % 65536) code.val masked h
  exact hp

/-- A switch that has failed. -/
def switchOut (s : State) (w : Fin 2) : State :=
  { s with rail := { s.rail with sw := vmod s.rail.sw w fun c => { c with state := .failed, failClk := s.clk } } }

theorem failSwitch_eq (s : State) (w : Fin 2) : failSwitch s w = declareOpen (switchOut s w) 0x12 false := rfl

/-- Settles O27: each command by its own condition; the phase check by the phases that have failed once all four are judged. -/
theorem railStartsAndChainSwitches : Obligations.RailStartsAndChainSwitches := by
  unfold Obligations.RailStartsAndChainSwitches
  refine ⟨fun s hw ho => ?start, fun s h => congrArg _ (railBegin_idle h), phasePasses_iff, fun s o hr hs hc hm => ?check,
    fun s o hr hs hc hn => ?up, fun s o h => execRailSoftStartDone_not h, fun s w o hr hs hv ht => ?on,
    fun s w o hr hs hi => execChainSwitchOn_limited hr hs hi, fun o => ⟨fun h => if_pos h, fun h => if_neg (not_lt.2 h)⟩, fun s w o hr h hm => ?fail,
    fun s w o hr hs hl hu => execChainSwitchFail_limits hr hs hl hu, fun s w hr hs ho hc => execChainSwitchRetry_due hr hs ho hc,
    fun s w h => execChainSwitchRetry_not h, fun s hh hc => ?hold, fun s hc => if_neg ?early⟩
  case start =>
    have h := railBegin_wanted hw ho
    unfold ClearOnly at h
    exact ⟨_, rfl, by rw [h]; rfl⟩
  case check =>
    have hch := failPhases_checked o ⟨hr, hm⟩
    have hn := failPhases_count o ⟨hr, hm⟩
    refine ⟨fun hb => ?_, fun hb => ?_⟩
    · obtain ⟨hl, hx⟩ := execRailPhaseCheckEnd_starts hr hs hc hm (hn.trans_le hb)
      refine ⟨_, hx, ?_, rfl, fun p => ?_, fun ⟨p, hf, hp⟩ => hch.told p (List.mem_finRange p) hf hp⟩
      · unfold LadderOnly at hl
        rw [hl]
      · refine (hch.phases p).trans ?_
        cases phasePasses o p <;> simp [List.mem_finRange]
    · obtain ⟨t, hx, hd⟩ := execRailPhaseCheckEnd_fails hr hs hc hm (hb.trans_eq hn.symm)
      exact ⟨t, hx, hd.off, hd.safe, hd.cause⟩
  case up =>
    obtain ⟨hu, hw⟩ := railUp_changes s
    refine ⟨_, execRailSoftStartDone_near hr hs hc hn, ?_, ?_, ?_, ?_, fun w => ⟨fun he => ?_, fun he => ?_⟩⟩
    · rw [hu]
    · rw [hu]
    · rw [hu]
    · rw [hu]
    · rw [hw, if_pos he]
      rfl
    · rw [hw, if_neg (by rw [he]; decide)]
  case on =>
    have hcl := switchedOn_clear s w
    unfold ClearOnly at hcl
    have hrail : (switchedOn s w).rail = (setSwitch s w .on).rail := by rw [hcl]
    refine ⟨_, execChainSwitchOn_reached hr hs hv ht, ?_, fun hall hinj => switchedOn_inactive (switchesOn_of_on fun k hk => ?_) hinj⟩
    · rw [hcl]
      rfl
    · rw [← hrail]
      exact hall k hk
  case fail =>
    have hf := declareOpen_unmasked (s := switchOut s w) (code := 0x12) hm false
    exact ⟨_, (execChainSwitchFail_fails hr h).trans (congrArg _ (failSwitch_eq s w)), hf, declareOpen_active ..,
      fun hn => declareOpen_pending (s := switchOut s w) (code := 0x12) hn false⟩
  case hold =>
    refine ⟨_, if_pos (by rw [hh, decide_eq_true hc]; rfl), rfl, rfl, fun w => ?_, rfl, rfl⟩
    simp [railOff]
  case early =>
    rw [Bool.and_eq_true, decide_eq_true_eq]
    exact fun h => absurd h.2 (Nat.not_le.2 hc)

end Sys2Proof.Machine

namespace Sys2Proof.Machine

/-! Sluice (R132, R546 - R553): when an action may start, and what its start does. -/

/-! When. -/

theorem slotHeld_iff (s : State) (x : Slot) : slotHeld s x = false ↔ slotPeriodic x = true ∨ s.time.valid = true := by
  unfold slotHeld
  cases slotPeriodic x <;> cases s.time.valid <;> decide

section
variable {s : State} {x : Slot} {d : Nat} (hd : x.due = some d)
include hd

theorem slotReady_iff : slotReady s x = true ↔ x.waiting = false ∧ slotHeld s x = false ∧ d ≤ time56 (plumbNow s) := by
  simp only [slotReady, hd, Option.any_some, Bool.and_eq_true, Bool.not_eq_true', decide_eq_true_eq, and_assoc]

theorem graceOver_iff : graceOver s x = false ↔ time56 (plumbNow s) ≤ d + slotGrace s x := by
  unfold graceOver
  rw [hd, Option.any_some, decide_eq_false_iff_not, not_lt]

theorem slotFree_iff : slotFree s x = true ↔ x.waiting = true ∧ time56 (plumbNow s) ≤ d + slotGrace s x ∧ slotBusy s x = false := by
  rw [slotFree, Bool.and_eq_true, Bool.and_eq_true, Bool.not_eq_true', Bool.not_eq_true', graceOver_iff hd, and_assoc]

end

theorem slotTurn_iff (s : State) (k : Fin 128) : slotTurn s k = true ↔
    ∀ j : Fin 128, j < k → slotReady s s.sluice[j] = true ∨ slotFree s s.sluice[j] = true → s.sluice[j].due ≠ s.sluice[k].due := by
  simp only [slotTurn, List.all_eq_true, List.mem_finRange, true_implies, Bool.or_eq_true, Bool.not_eq_true', decide_eq_true_eq, bne_iff_ne]
  refine forall_congr' fun j => ?_
  rw [← Bool.not_eq_true, Bool.or_eq_true, or_assoc, or_iff_not_imp_left, not_le, or_iff_not_imp_left, not_not]

/-! What an advance does. -/

theorem advanceSlot_once {x : Slot} (h : slotPeriodic x = false) (ran : Bool) (now d : Nat) : advanceSlot ran now d x =
    { x with lastDue := if ran = true then some d else x.lastDue, waiting := false, forced := false, due := none } :=
  if_neg (by rw [show slotPeriodic { x with lastDue := _, waiting := false, forced := false } = slotPeriodic x from rfl, h]; decide)

theorem advanceSlot_frame (ran : Bool) (now d : Nat) (x : Slot) :
    (advanceSlot ran now d x).lastDue = (if ran = true then some d else x.lastDue) ∧ (advanceSlot ran now d x).waiting = false := by
  unfold advanceSlot
  generalize (if ran = true then some d else x.lastDue) = last
  dsimp only
  split <;> exact ⟨rfl, rfl⟩

/-! What a start does: its action, and its own slot. -/

/-- From `s` to `u` the action of a slot has had its effect, with a status. -/
structure ActionDone (s : State) (x : Slot) (st : Byte) (u : State) : Prop where
  rest : u = { s with mox := u.mox, tones := u.tones, cal := u.cal, log := u.log, events := u.events }
  mox : slotKind x ≠ 2 → u.mox = s.mox
  tones : slotKind x ≠ 3 → u.tones = s.tones
  cal : slotKind x ≠ 4 → u.cal = s.cal
  ok : slotKind x ≠ 4 → st = stOk
  mark : slotKind x = 5 → LogOnly s u

theorem foldl_restartProfile_mox (l : List (Fin 6)) (s : State) : l.foldl restartProfile s = { s with mox := (l.foldl restartProfile s).mox } :=
  foldl_rel (fun s t => t = { s with mox := t.mox }) (fun _ => rfl) (fun h k => by rw [k, h]) restartProfile (fun _ _ => rfl) l s

theorem foldl_startSweep_tones (late : Bool) (l : List (Fin 8)) (s : State) :
    l.foldl (startSweep late) s = { s with tones := (l.foldl (startSweep late) s).tones } :=
  foldl_rel (fun s t => t = { s with tones := t.tones }) (fun _ => rfl) (fun h k => by rw [k, h]) (startSweep late) (fun _ _ => rfl) l s

/-- Every action but a mode change starts. -/
theorem slotEffect_done (leave : State → Mode → State) (s : State) (k : Fin 128) {x : Slot} (h : slotKind x ≠ 1) (late : Bool) :
    ∃ st u, slotEffect leave s k x late = some (st, u) ∧ ActionDone s x st u := by
  unfold slotEffect
  split
  · next h1 => exact absurd h1 h
  · next h2 =>
    have hf := foldl_restartProfile_mox (maskHeaters s (slotArg x)) s
    generalize (maskHeaters s (slotArg x)).foldl restartProfile s = u at hf
    exact ⟨stOk, u, rfl, by rw [hf], fun hn => absurd h2 hn, fun _ => by rw [hf], fun _ => by rw [hf], fun _ => rfl,
      fun h5 => absurd (h2.symm.trans h5) (by decide)⟩
  · next h3 =>
    have hf := foldl_startSweep_tones late (maskSweeps s (slotArg x)) s
    generalize (maskSweeps s (slotArg x)).foldl (startSweep late) s = u at hf
    exact ⟨stOk, u, rfl, by rw [hf], fun _ => by rw [hf], fun hn => absurd h3 hn, fun _ => by rw [hf], fun _ => rfl,
      fun h5 => absurd (h3.symm.trans h5) (by decide)⟩
  · next h4 =>
    dsimp only
    split
    · exact ⟨_, _, rfl, rfl, fun _ => rfl, fun _ => rfl, fun hn => absurd h4 hn, fun hn => absurd h4 hn,
        fun h5 => absurd (h4.symm.trans h5) (by decide)⟩
    · exact ⟨_, _, rfl, rfl, fun _ => rfl, fun _ => rfl, fun hn => absurd h4 hn, fun hn => absurd h4 hn,
        fun h5 => absurd (h4.symm.trans h5) (by decide)⟩
  · have hl := logGeneral_log (.refl s) 0x0B (ownNode s) k.val (slotArg x) []
    generalize logGeneral s 0x0B (ownNode s) k.val (slotArg x) [] = u at hl
    have hl' := hl
    unfold LogOnly at hl
    exact ⟨stOk, u, rfl, by rw [hl], fun _ => by rw [hl], fun _ => by rw [hl], fun _ => by rw [hl], fun _ => rfl, fun _ => hl'⟩

/-- A slot with a run of its action counted, started at `now`, late or not, with the status of the action. -/
def runCounted (now : Nat) (late : Bool) (st : Byte) (x : Slot) : Slot :=
  { x with
    runs := sat16 x.runs, lates := if late = true then sat16 x.lates else x.lates, lastStart := now
    lastStatus := if st = stOk ∧ late = true then stLateRun else st }

/-- A slot whose action has run: counted, and on to its next occurrence. -/
def slotRan (now d : Nat) (late : Bool) (st : Byte) (x : Slot) : Slot := advanceSlot true now d (runCounted now late st x)

/-- An action starts late where it is forced so, or more than 10 ms after its due time (R548, R550). -/
def startsLate (s : State) (d : Nat) (force : Bool) : Bool := force || decide (d + 10000 < time56 (plumbNow s))

section
variable {s : State} {k : Fin 128} {d : Nat}

/-- The state after a start whose action has led to `u`. -/
def slotStarted (u : State) (k : Fin 128) (now d : Nat) (late : Bool) (st : Byte) : State :=
  if late = true then raise (modSlot u k (slotRan now d late st)) 18 k.val else modSlot u k (slotRan now d late st)

theorem slotStarted_changes (u : State) (k : Fin 128) (now d : Nat) (late : Bool) (st : Byte) :
    slotStarted u k now d late st = { u with sluice := vmod u.sluice k (slotRan now d late st), events := (slotStarted u k now d late st).events } ∧
      (late = true → (slotStarted u k now d late st).events.pending.getLsbD 18 = true) := by
  unfold slotStarted
  cases late with
  | true => exact ⟨rfl, fun _ => raise_pending _ 18 _⟩
  | false => exact ⟨rfl, fun h => absurd h (by decide)⟩

variable (hd : s.sluice[k].due = some d)
include hd

theorem startSlot_some {leave : State → Mode → State} {force : Bool} {st : Byte} {u : State}
    (he : slotEffect leave s k s.sluice[k] (startsLate s d force) = some (st, u)) :
    startSlot leave s k force = slotStarted u k (time56 (plumbNow s)) d (startsLate s d force) st := by
  unfold startsLate at he
  unfold startSlot slotStarted startsLate slotRan runCounted
  dsimp only
  rw [hd]
  dsimp only
  rw [he]
  simp only [Bool.and_eq_true, decide_eq_true_eq]

theorem startSlot_none {leave : State → Mode → State} {force : Bool} (he : slotEffect leave s k s.sluice[k] (startsLate s d force) = none) :
    startSlot leave s k force = modSlot (skipSlot s k) k (advanceSlot false (time56 (plumbNow s)) d) := by
  unfold startsLate at he
  unfold startSlot
  dsimp only
  rw [hd]
  dsimp only
  rw [he]

/-- Every action but a mode change starts: its run is counted, and of everything else only its own resource changes. -/
theorem startSlot_starts (h : slotKind s.sluice[k] ≠ 1) (force : Bool) : ∃ st u, ActionDone s s.sluice[k] st u ∧
    startSlot leaveSafe s k force = slotStarted u k (time56 (plumbNow s)) d (startsLate s d force) st := by
  obtain ⟨st, u, he, hu⟩ := slotEffect_done leaveSafe s k h (startsLate s d force)
  exact ⟨st, u, hu, startSlot_some hd he⟩

/-- A mode action that the configuration forbids is skipped (R132). -/
theorem startSlot_forbidden (h : slotKind s.sluice[k] = 1) (hc : cfgSluiceMode s = false) (force : Bool) :
    startSlot leaveSafe s k force = modSlot (skipSlot s k) k (advanceSlot false (time56 (plumbNow s)) d) := by
  refine startSlot_none hd ?_
  rw [slotEffect, h]
  exact if_pos (by rw [hc]; rfl)

end

/-- An action skipped: counted in its slot, which goes on to its next occurrence, with EV19. -/
theorem skipped_changes (s : State) (k : Fin 128) (now d : Nat) :
    modSlot (skipSlot s k) k (advanceSlot false now d) =
        { s with sluice := vmod s.sluice k fun x => advanceSlot false now d { x with skipped := sat16 x.skipped }
                 events := (modSlot (skipSlot s k) k (advanceSlot false now d)).events } ∧
      (modSlot (skipSlot s k) k (advanceSlot false now d)).events.pending.getLsbD 19 = true := by
  refine ⟨?_, raise_pending _ 19 _⟩
  unfold modSlot skipSlot raise
  dsimp only
  rw [vmod_vmod]

end Sys2Proof.Machine

namespace Sys2Proof.Machine

/-! The Sluice commands (R546 - R553, R558, R559). -/

section
variable {s : State} {k : Fin 128}

/-! SLUICE_ACTION_DUE and SLUICE_RETRY. -/

theorem execSluiceActionDue_not (h : slotReady s s.sluice[k] = false ∨ slotTurn s k = false) : execSluiceActionDue k s = .next s :=
  if_pos (by rcases h with h | h <;> rw [h] <;> simp)

theorem execSluiceRetry_not (h : slotFree s s.sluice[k] = false ∨ slotTurn s k = false) : execSluiceRetry k s = .next s :=
  if_pos (by rcases h with h | h <;> rw [h] <;> simp)

theorem execSluiceActionDue_now (hr : isRunning s = true) (h : slotReady s s.sluice[k] = true) (ht : slotTurn s k = true) :
    execSluiceActionDue k s = .next (slotDue leaveSafe s k false) := if_neg (by rw [hr, h, ht]; decide)

theorem execSluiceRetry_now (hr : isRunning s = true) (h : slotFree s s.sluice[k] = true) (ht : slotTurn s k = true) :
    execSluiceRetry k s = .next (startSlot leaveSafe s k s.sluice[k].forced) := if_neg (by rw [hr, h, ht]; decide)

/-- A slot due and not held, with its resource busy, waits (R549). -/
theorem slotDue_busy {d : Nat} (hd : s.sluice[k].due = some d) (hh : slotHeld s s.sluice[k] = false) (hb : slotBusy s s.sluice[k] = true) (force : Bool) :
    slotDue leaveSafe s k force = modSlot s k fun y => { y with waiting := true, forced := force } := by
  unfold slotDue
  dsimp only
  rw [hd, hh, hb]
  rfl

theorem slotDue_free {d : Nat} (hd : s.sluice[k].due = some d) (hh : slotHeld s s.sluice[k] = false) (hb : slotBusy s s.sluice[k] = false) (force : Bool) :
    slotDue leaveSafe s k force = startSlot leaveSafe s k force := by
  unfold slotDue
  dsimp only
  rw [hd, hh, hb]
  rfl

/-- The two commands that start an action, each in its own case. -/
theorem exec_startsSlot {c : Instr} {force : Bool} {d : Nat} (hr : isRunning s = true) (hd : s.sluice[k].due = some d)
    (hb : slotBusy s s.sluice[k] = false) (hh : slotHeld s s.sluice[k] = false) (ht : slotTurn s k = true)
    (hc : (c = .sluiceActionDue k ∧ force = false ∧ s.sluice[k].waiting = false ∧ d ≤ time56 (plumbNow s)) ∨
      (c = .sluiceRetry k ∧ force = s.sluice[k].forced ∧ s.sluice[k].waiting = true ∧ time56 (plumbNow s) ≤ d + slotGrace s s.sluice[k])) :
    exec c s = .next (startSlot leaveSafe s k force) := by
  rcases hc with ⟨rfl, rfl, hw, hn⟩ | ⟨rfl, rfl, hw, hn⟩
  · exact (execSluiceActionDue_now hr ((slotReady_iff hd).2 ⟨hw, hh, hn⟩) ht).trans (congrArg _ (slotDue_free hd hh hb false))
  · exact execSluiceRetry_now hr ((slotFree_iff hd).2 ⟨hw, hn, hb⟩) ht

/-- A one-shot log mark found past due runs at once, late (R550). -/
theorem slotDue_lateMark {d : Nat} (hd : s.sluice[k].due = some d) (hv : s.time.valid = true)
    (h5 : slotKind s.sluice[k] = 5) : (slotDue leaveSafe s k true).sluice[k] = slotRan (time56 (plumbNow s)) d true stOk s.sluice[k] ∧
      (slotDue leaveSafe s k true).events.pending.getLsbD 18 = true := by
  have hb : slotBusy s s.sluice[k] = false := by
    rw [slotBusy, h5]
    rfl
  obtain ⟨st, u, hdone, hs⟩ := startSlot_starts hd (by rw [h5]; decide) true
  obtain ⟨hch, hev⟩ := slotStarted_changes u k (time56 (plumbNow s)) d (startsLate s d true) st
  have hst : st = stOk := hdone.ok (by rw [h5]; decide)
  have hsl : u.sluice = s.sluice := by rw [hdone.rest]
  rw [slotDue_free hd ((slotHeld_iff ..).2 (.inr hv)) hb, hs]
  refine ⟨?_, hev rfl⟩
  rw [hch, hst, hsl]
  exact (vmod_get ..).trans (if_pos rfl)

/-- A one-shot that has run late is due no more. -/
theorem slotRan_lateOnce {x : Slot} (hp : slotPeriodic x = false) (now d : Nat) : (slotRan now d true stOk x).due = none ∧
    (slotRan now d true stOk x).runs = sat16 x.runs ∧ (slotRan now d true stOk x).lastStatus = stLateRun := by
  rw [slotRan, advanceSlot_once (x := runCounted now true stOk x) hp]
  exact ⟨rfl, rfl, rfl⟩

/-! SLUICE_GRACE_EXPIRY. -/

theorem execSluiceGraceExpiry_waiting {d : Nat} (hr : isRunning s = true) (hd : s.sluice[k].due = some d) (hw : s.sluice[k].waiting = true) :
    execSluiceGraceExpiry k s = .next (if d + slotGrace s s.sluice[k] ≤ time56 (plumbNow s) then
      modSlot (skipSlot s k) k (advanceSlot false (time56 (plumbNow s)) d) else s) := by
  unfold execSluiceGraceExpiry
  dsimp only
  rw [hr, hw, hd]
  rfl

end

/-! SLUICE_SLOT. -/

/-- The slot command's own refusals and effect. -/
def sluiceBody (s : State) (a : List Byte) : Byte × State :=
  if !hasCal s then (stLocked, s)
  else if h : u8 a 0 < 128 then
    if !zeros a 1 3 || !slotOk (s.role == .pod) (a.drop 4) then (stBadArg, s) else writeSlot s ⟨u8 a 0, h⟩ (a.drop 4)
  else (stBadArg, s)

theorem execSluiceSlot_ready {s : State} {f : HostFrame} (h : CommandReady s f 0x09 [] 20) {st : Byte} {x : State}
    (e : sluiceBody (sessionActivity s) (commandArgs f 0x09 []) = (st, x)) : execSluiceSlot f s = .next (replied x f 0x09 st) :=
  commandFrame_next _ _ h rfl rfl rfl e

section
variable {u : State} {a : List Byte}

theorem sluiceBody_locked (h : hasCal u = false) : sluiceBody u a = (stLocked, u) := if_pos (by rw [h]; rfl)

theorem sluiceBody_badArg (h : hasCal u = true) (hb : 128 ≤ u8 a 0 ∨ zeros a 1 3 = false ∨ slotOk (u.role == .pod) (a.drop 4) = false) :
    sluiceBody u a = (stBadArg, u) := by
  unfold sluiceBody
  rw [if_neg (by rw [h]; decide)]
  split
  · next hlt =>
    rcases hb with hb | hb | hb
    · omega
    · exact if_pos (by rw [hb]; rfl)
    · exact if_pos (by rw [hb]; exact Bool.or_true _)
  · rfl

theorem sluiceBody_writes {k : Fin 128} (h : hasCal u = true) (hk : u8 a 0 = k.val) (hz : zeros a 1 3 = true)
    (ho : slotOk (u.role == .pod) (a.drop 4) = true) : sluiceBody u a = writeSlot u k (a.drop 4) := by
  obtain ⟨n, hn⟩ := k
  have hk : u8 a 0 = n := hk
  subst hk
  unfold sluiceBody
  rw [if_neg (by rw [h]; decide), dif_pos hn, if_neg (by rw [hz, ho]; decide)]

end

/-- The slot that an entry makes of a slot by command (R558). -/
def commandedSlot (u : State) (k : Fin 128) (e : List Byte) : Slot := { (loadSlot e (time56 (plumbNow u)) u.sluice[k]) with byCommand := true }

section
variable {u : State} {k : Fin 128} {e : List Byte}

/-- An entry that is periodic, held, or not past due waits for its time. -/
theorem writeSlot_waits (h : slotPeriodic (commandedSlot u k e) = true ∨ u.time.valid = false ∨ (commandedSlot u k e).due = none ∨
      ∃ d, (commandedSlot u k e).due = some d ∧ time56 (plumbNow u) ≤ d) :
    writeSlot u k e = (stOk, { u with sluice := vmod u.sluice k fun _ => commandedSlot u k e }) := by
  unfold writeSlot
  dsimp only
  split
  · next d hp hd =>
    change (slotPeriodic (commandedSlot u k e) || !u.time.valid) = false at hp
    change (commandedSlot u k e).due = some d at hd
    rw [Bool.or_eq_false_iff, Bool.not_eq_false'] at hp
    obtain ⟨hp, hv⟩ := hp
    rcases h with h | h | h | ⟨d', h, hn⟩
    · rw [hp] at h
      exact absurd h (by decide)
    · rw [hv] at h
      exact absurd h (by decide)
    · rw [hd] at h
      exact absurd h (by simp)
    · rw [hd, Option.some.injEq] at h
      exact if_pos (h ▸ hn)
  · rfl

variable {d : Nat} (hp : slotPeriodic (commandedSlot u k e) = false) (hv : u.time.valid = true) (hd : (commandedSlot u k e).due = some d)
include hp hv hd

/-- A one-shot with TIMEVALID by how late its time is (R558, R559). -/
theorem writeSlot_once : writeSlot u k e =
    if time56 (plumbNow u) ≤ d then (stOk, { u with sluice := vmod u.sluice k fun _ => commandedSlot u k e })
    else if d + cfgGrace u < time56 (plumbNow u) then (stExpired, u)
    else (stLateRun, slotDue leaveSafe (modSlot u k fun _ => commandedSlot u k e) k true) := by
  change (match slotPeriodic (commandedSlot u k e) || !u.time.valid, (commandedSlot u k e).due with
    | false, some d => _
    | _, _ => _) = _
  rw [hp, hv, hd]
  rfl

theorem writeSlot_expired (h : d + cfgGrace u < time56 (plumbNow u)) : writeSlot u k e = (stExpired, u) := by
  rw [writeSlot_once hp hv hd, if_neg (by omega), if_pos h]

theorem writeSlot_late (h : d < time56 (plumbNow u)) (hg : time56 (plumbNow u) ≤ d + cfgGrace u) : writeSlot u k e =
    (stLateRun, slotDue leaveSafe (modSlot u k fun _ => commandedSlot u k e) k true) := by
  rw [writeSlot_once hp hv hd, if_neg (by omega), if_neg (by omega)]

end

/-- Settles O43: the gates of the three commands, one lemma for every start and one for every skip. -/
theorem sluiceActions : Obligations.SluiceActions := by
  unfold Obligations.SluiceActions
  refine ⟨fun s k d hr hd => ?slot, fun s x => rfl, slotTurn_iff, fun x now d => ?advance, fun s f h => ?command⟩
  case slot =>
    intro x now ran
    have hheld : slotPeriodic x = true ∨ s.time.valid = true → slotHeld s x = false := (slotHeld_iff s x).2
    refine ⟨fun _ hp hv => ?held, fun h => ?early, fun hw hh hn ht hb => ?waits, fun hw hb => ?busy, fun c force hb hh ht hc => ?starts,
      fun _ h => ?late, fun hw h => ?grace, fun hw h => ?expires⟩
    case held =>
      refine execSluiceActionDue_not (.inl (Bool.eq_false_iff.2 fun hy => ?_))
      obtain ⟨-, hy, -⟩ := (slotReady_iff hd).1 hy
      exact absurd ((slotHeld_iff s x).1 hy) (by simp [hp, hv])
    case early =>
      refine execSluiceActionDue_not (h.imp_left fun hn => Bool.eq_false_iff.2 fun hy => ?_)
      obtain ⟨-, -, hy⟩ := (slotReady_iff hd).1 hy
      exact absurd hy (not_le.2 hn)
    case waits =>
      exact (execSluiceActionDue_now hr ((slotReady_iff hd).2 ⟨hw, hheld hh, hn⟩) ht).trans (congrArg _ (slotDue_busy hd (hheld hh) hb false))
    case busy =>
      refine ⟨execSluiceRetry_not (.inl (Bool.eq_false_iff.2 fun hy => ?_)), execSluiceActionDue_not (.inl (Bool.eq_false_iff.2 fun hy => ?_))⟩
      · obtain ⟨-, -, hy⟩ := (slotFree_iff hd).1 hy
        exact absurd (hb.symm.trans hy) (by decide)
      · obtain ⟨hy, -⟩ := (slotReady_iff hd).1 hy
        exact absurd (hw.symm.trans hy) (by decide)
    case starts =>
      have hx := exec_startsSlot hr hd hb (hheld hh) ht hc
      refine ⟨fun h1 => ?_, fun h1 hm => ?_⟩
      · obtain ⟨st, u, hu, hs⟩ := startSlot_starts hd h1 force
        obtain ⟨hch, hev⟩ := slotStarted_changes u k now d (startsLate s d force) st
        have hs : exec c s = .next (slotStarted u k now d (startsLate s d force) st) := hx.trans (congrArg _ hs)
        generalize slotStarted u k now d (startsLate s d force) st = t at hch hev hs
        have hrest := hu.rest
        have hsl : u.sluice = s.sluice := by rw [hrest]
        rw [hsl] at hch
        refine ⟨t, st, hs, ?_, fun j hj => ?_, hu.ok, hev, ?_, ?_, ?_, ?_, ?_, fun h2 => ?_, fun h3 => ?_, fun h4 => ?_, fun h5 => ?_⟩
        · rw [hch]
          exact (vmod_get ..).trans (if_pos rfl)
        · rw [hch]
          exact (vmod_get ..).trans (if_neg (Ne.symm hj))
        · rw [hch, hrest]
        · rw [hch, hrest]
        · rw [hch, hrest]
        · rw [hch, hrest]
        · rw [hch, hrest]
        · rw [hch]
          exact hu.mox h2
        · rw [hch]
          exact hu.tones h3
        · rw [hch]
          exact hu.cal h4
        · have hl := hu.mark h5
          unfold LogOnly at hl
          rw [hch, hl]
      · obtain ⟨hch, hev⟩ := skipped_changes s k now d
        refine ⟨_, hx.trans (congrArg _ (startSlot_forbidden hd h1 hm force)), ?_, ?_, hev⟩
        · rw [hch]
        · rw [hch]
          exact (vmod_get ..).trans (if_pos rfl)
    case late =>
      refine execSluiceRetry_not (h.imp_left fun hn => Bool.eq_false_iff.2 fun hy => ?_)
      obtain ⟨-, hy, -⟩ := (slotFree_iff hd).1 hy
      exact absurd hy (not_le.2 hn)
    case grace => exact (execSluiceGraceExpiry_waiting hr hd hw).trans (congrArg _ (if_neg (not_le.2 h)))
    case expires =>
      obtain ⟨hch, hev⟩ := skipped_changes s k now d
      refine ⟨_, (execSluiceGraceExpiry_waiting hr hd hw).trans (congrArg _ (if_pos h)), ?_, ?_, fun j hj => ?_, hev⟩
      · rw [hch]
      · rw [hch]
        exact (vmod_get ..).trans (if_pos rfl)
      · rw [hch]
        exact (vmod_get ..).trans (if_neg (Ne.symm hj))
  case advance =>
    refine ⟨(advanceSlot_frame ..).1, (advanceSlot_frame ..).1, fun ran => ⟨(advanceSlot_frame ..).2, fun h => ?_⟩⟩
    rw [advanceSlot_once h]
  case command =>
    intro u a e now
    refine ⟨fun hc => execSluiceSlot_ready h (sluiceBody_locked hc), fun hc hb => execSluiceSlot_ready h (sluiceBody_badArg hc hb),
      fun k hc hk hz ho => ?_⟩
    have hbody : sluiceBody u a = writeSlot u k e := sluiceBody_writes hc hk hz ho
    intro x
    refine ⟨fun hw => execSluiceSlot_ready h (hbody.trans (writeSlot_waits hw)),
      fun d hp hv hd hl => execSluiceSlot_ready h (hbody.trans (writeSlot_expired hp hv hd hl)), fun d hp hv hd hl hg => ?_⟩
    refine ⟨_, execSluiceSlot_ready h (hbody.trans (writeSlot_late hp hv hd hl hg)), ?_⟩
    have hslot : (modSlot u k fun _ => x).sluice[k] = x := (vmod_get ..).trans (if_pos rfl)
    have hdue : (modSlot u k fun _ => x).sluice[k].due = some d := by rw [hslot, hd]
    refine ⟨fun hb => ?_, fun h5 => ?_⟩
    · refine (slotDue_busy hdue ((slotHeld_iff ..).2 (.inr hv)) ?_ true).trans ?_
      · rw [hslot]
        exact hb
      · rw [modSlot, modSlot, vmod_vmod]
    · obtain ⟨hy, hev⟩ := slotDue_lateMark hdue hv (by rw [hslot]; exact h5)
      obtain ⟨hn, hr, hst⟩ := slotRan_lateOnce hp (time56 (plumbNow (modSlot u k fun _ => x))) d
      rw [hslot] at hy
      exact ⟨(congrArg Slot.due hy).trans hn, (congrArg Slot.runs hy).trans hr, (congrArg Slot.lastStatus hy).trans hst, hev⟩

end Sys2Proof.Machine

namespace Sys2Proof.Machine

/-! The transitions into RUN and WATCH, said of the mode page and of EV04 (R129, R131, R135, R138). -/

/-- What follows a transition leaves its page, but for causes that a fault cleared with it takes along, and its event. -/
structure PageKept (s t : State) : Prop where
  modes : t.modes = { s.modes with causes := t.modes.causes, goneClk := t.modes.goneClk }
  causes : s.modes.causes = 0 → t.modes.causes = 0
  stays : PendingStays s t

theorem PageKept.of_eq {s t : State} (hm : t.modes = s.modes) (he : PendingStays s t) : PageKept s t := ⟨by rw [hm], fun h => hm ▸ h, he⟩

theorem PageKept.of_events {s t : State} (hm : t.modes = s.modes) (he : t.events = s.events) : PageKept s t :=
  .of_eq hm ⟨fun _ h => by rw [he]; exact h⟩

theorem PageKept.refl (s : State) : PageKept s s := .of_events rfl rfl

theorem PageKept.trans {s t u : State} (h : PageKept s t) (k : PageKept t u) : PageKept s u where
  modes := by
    have k := k.modes
    rw [k, h.modes]
  causes hs := k.causes (h.causes hs)
  stays := h.stays.trans k.stays

/-- One more function in a chain. -/
theorem PageKept.then {s t : State} (h : PageKept s t) {f : State → State} (k : ∀ x, PageKept x (f x)) : PageKept s (f t) := h.trans (k t)

theorem refreshOutputs_page (s : State) : PageKept s (refreshOutputs s) := .of_eq (refreshOutputs_modes s) (refreshOutputs_stays ⟨fun _ h => h⟩)

theorem aoutsChanged_page (s : State) : PageKept s (aoutsChanged s) := by
  have h := (aoutsChanged_outputs s).1
  exact .of_events (by rw [h]) (by rw [h])

theorem clearFault_page (s : State) (code : Fin 28) : PageKept s (clearFault s code) := by
  have h := clearFault_clear s code
  unfold ClearOnly at h
  refine ⟨by rw [h], fun hc => ?_, ⟨fun n hn => by rw [h]; exact hn⟩⟩
  unfold clearFault
  dsimp only
  rw [hc, if_neg fun hx => absurd hx.2 (by decide)]
  exact hc

theorem railBegin_page (s : State) : PageKept s (railBegin s) := by
  unfold railBegin
  split
  · extract_lets _ _ u
    have hu : PageKept s u := .of_events rfl rfl
    split
    · exact hu.trans (clearFault_page u 0x14)
    · exact hu
  · exact .refl s

theorem railFollow_page (s : State) : PageKept s (railFollow s) := by
  unfold railFollow
  split
  · exact (show PageKept s { s with rail := { s.rail with kept := inSafe s && s.rail.kept } } from .of_events rfl rfl).then railBegin_page
  · exact .of_events rfl rfl

theorem gateMere_page (s : State) : PageKept s (gateMere s) := by
  unfold gateMere
  split
  · exact .of_events rfl rfl
  · exact .refl s

theorem clearClasses_page (s : State) (forget : Bool) : PageKept s (clearClasses s forget) := by
  unfold clearClasses
  exact .of_events rfl rfl

theorem startClasses_page (s : State) : PageKept s (startClasses s) := by
  unfold startClasses
  refine foldl_rel PageKept .refl .trans _ (fun x c => ?_) _ s
  split
  · exact .of_events rfl rfl
  · exact .refl x

theorem ungateMere_page (s : State) : PageKept s (ungateMere s) := by
  unfold ungateMere
  split
  · refine .trans (.trans ?_ (clearClasses_page _ false)) (startClasses_page _)
    exact .of_events rfl rfl
  · exact .refl s

theorem chainChanged_page (s : State) : PageKept s (chainChanged s) := by
  refine .of_events (congrArg Quiet.modes (chainChanged_quiet s)) ?_
  unfold chainChanged sendAlarm
  dsimp only
  split
  · rfl
  · rw [originate_events]

theorem startRule_page (logged : Bool) (s : State) (k : Fin 256) : PageKept s (startRule logged s k) := by
  have hs : PageKept s (startStance s k) := by
    unfold startStance
    dsimp only
    split
    · exact .refl s
    · exact .of_events rfl rfl
  unfold startRule
  extract_lets old t new u
  split
  · exact hs
  · have hu : PageKept s u := hs.trans (.of_eq (LogOnly.modes (logAlarm_log (.refl t) ..)) (logAlarm_stays ⟨fun _ h => h⟩ ..))
    split
    · exact hu.then chainChanged_page
    · exact hu

theorem startRules_page (s : State) (logged : Bool) : PageKept s (startRules s logged) :=
  (foldl_rel PageKept .refl .trans _ (startRule_page logged) _ s).then refreshOutputs_page

/-- A transition has completed: its mode, its record for the next reset, EV04. -/
structure Entered (t : State) (m : Mode) : Prop where
  mode : t.modes.mode = m
  record : t.modes.record = some m
  event : t.events.pending.getLsbD 4 = true

theorem completeMode_entered (s : State) (m : Mode) (cause : Nat) : Entered (completeMode s m cause) m :=
  ⟨by rw [completeMode_modes]; rfl, by rw [completeMode_modes]; rfl, completeMode_pending ..⟩

theorem Entered.kept {s t : State} {m : Mode} (h : Entered s m) (k : PageKept s t) : Entered t m :=
  ⟨by rw [k.modes]; exact h.mode, by rw [k.modes]; exact h.record, k.stays.stays 4 h.event⟩

/-! The exit from SAFE. -/

theorem leaveSafe_page (s : State) (m : Mode) : ∃ x : State, x.modes = { s.modes with causes := 0, railCauseGone := false, goneClk := none } ∧
    PageKept (completeMode x m 0) (leaveSafe s m) := by
  unfold leaveSafe
  extract_lets _ _ _ _ left done warm ruled mere
  have hr : PageKept done ruled := (show PageKept done warm from .of_events rfl rfl).trans (startRules_page warm true)
  have hm : PageKept done mere := by
    unfold mere
    split
    · exact hr.then ungateMere_page
    · exact hr
  exact ⟨left, rfl, ((hm.then railFollow_page).then refreshOutputs_page).then aoutsChanged_page⟩

theorem leaveSafe_entered (s : State) (m : Mode) : Entered (leaveSafe s m) m ∧ (leaveSafe s m).modes.causes = 0 := by
  obtain ⟨x, hx, hp⟩ := leaveSafe_page s m
  exact ⟨(completeMode_entered ..).kept hp, hp.causes (by rw [completeMode_modes, modesAfter, hx])⟩

/-! The change between RUN and WATCH. -/

theorem skipVcn_modes (s : State) (v : Vcn) : (skipVcn s v).modes = s.modes := congrArg Quiet.modes (skipVcn_quiet s v)

theorem stopFilm_modes (s : State) (n : Fin 6) : (stopFilm s n).modes = s.modes := by
  have hd (x : State) (w : Fin 23) : (dropVisit x w).modes = x.modes := by
    unfold dropVisit
    split <;> rfl
  unfold stopFilm
  dsimp only
  rw [hd]
  change (ite _ s (ite _ _ _)).modes = s.modes
  split
  · rfl
  · split
    · rfl
    · rw [skipVcn_modes, skipVcn_modes]

theorem filmsToWatch_modes (s : State) : (filmsToWatch s).modes = s.modes := by
  refine foldl_keeps State.modes _ (fun x n => ?_) _ s
  split
  · exact stopFilm_modes x n
  · rfl

theorem changeMode_page (s : State) (m : Mode) : ∃ x : State, x.modes = s.modes ∧ PageKept (completeMode x m 0) (changeMode s m) := by
  unfold changeMode
  extract_lets _ films _ done mere
  have hf : films.modes = s.modes := by
    unfold films
    split
    · exact filmsToWatch_modes _
    · rfl
  have hm : PageKept done mere := by
    unfold mere
    split
    · exact ungateMere_page done
    · exact gateMere_page done
  exact ⟨{ films with time := { films.time with anchor := gridTime films } }, hf, (hm.then railFollow_page).then refreshOutputs_page⟩

theorem changeMode_entered (s : State) (m : Mode) : Entered (changeMode s m) m ∧ (changeMode s m).modes.hostReq = s.modes.hostReq ∧
    (changeMode s m).modes.oldMode = modeCode s.modes.mode := by
  obtain ⟨x, hx, hk⟩ := changeMode_page s m
  have hp := hk.modes
  rw [completeMode_modes, modesAfter, hx] at hp
  exact ⟨(completeMode_entered ..).kept hk, by rw [hp], by rw [hp]⟩

end Sys2Proof.Machine

namespace Sys2Proof.Machine

/-! The mode commands (R134, R136, R137). -/

/-- The byte a row fixes behind the command code stands first among the arguments. -/
theorem commandArgs_fixed {f : HostFrame} {code b : Byte} {n : Nat} (h : (commandArgs f code [(4, b)]).length = n) (hn : 0 < n) :
    u8 (commandArgs f code [(4, b)]) 0 = b.toNat := by
  unfold commandArgs commandPayload framePayload at *
  rw [List.length_drop, List.length_take] at h
  have hl : 4 < (fixBytes f.payload [(0, code), (4, b)]).length := by omega
  have hf : 4 < f.length.toNat := by omega
  rw [u8_drop, u8, List.getD_eq_getElem _ _ (by rw [List.length_take]; omega), List.getElem_take]
  simp [fixBytes, setAt]

/-- A mode command that the port takes, with its reserved bytes 0. -/
theorem modeCommand_ready {s : State} {f : HostFrame} {m : Mode} (h : CommandReady s f 0x01 [(4, modeCode m)] 4)
    (hz : zeros (commandArgs f 0x01 [(4, modeCode m)]) 1 3 = true) (body : State → Byte × State) :
    modeCommand s f m body = replied (body (sessionActivity s)).2 f 0x01 (body (sessionActivity s)).1 := by
  have hc : (modeCode m).toNat < 3 := by cases m <;> decide
  have hm : u8 (commandArgs f 0x01 [(4, modeCode m)]) 0 < 3 := by
    obtain ⟨-, -, -, -, -, hn⟩ := h
    rw [commandArgs_fixed hn (by decide)]
    exact hc
  unfold modeCommand
  rw [commandFrame_ready h rfl (hf := rfl), if_pos (by rw [hz, decide_eq_true hm]; rfl)]

section
variable {u : State} {m : Mode}

theorem hostMode_same (hm : u.modes.mode = m) (hs : m ≠ .safe) :
    hostMode u m = (stOk, { u with modes := { u.modes with hostReq := none } }) := by
  unfold hostMode
  rw [if_neg (by rw [hm]; exact hs), if_pos hm]

theorem hostMode_other (hm : u.modes.mode ≠ m) (hs : u.modes.mode ≠ .safe) : hostMode u m =
    if cfgHostMode u = true then (stOk, { u with modes := { u.modes with hostReq := some m } }) else (stNotInMode, u) := by
  unfold hostMode
  rw [if_neg hs, if_neg hm]
  cases cfgHostMode u <;> rfl

/-- The causes that a request for RUN or WATCH leaves (R136, R137): all but 0x06, 0x08 and 0x09. -/
def causesLeft (u : State) : State := { u with modes := { u.modes with causes := u.modes.causes &&& ~~~(0x0340 : BitVec 16) } }

theorem hostMode_safe (hs : u.modes.mode = .safe) : hostMode u m =
    if u.modes.causes &&& ~~~(0x0340 : BitVec 16) = 0 then (stOk, leaveSafe (causesLeft u) m) else (stNotInMode, causesLeft u) := if_pos hs

end

/-- A request for a mode `m`, `o` being the other one beside SAFE. -/
theorem modeRequest {s : State} {f : HostFrame} {m o : Mode} (hm : m ≠ .safe) (ho : o ≠ .safe) (hmo : o ≠ m)
    (h : CommandReady s f 0x01 [(4, modeCode m)] 4) (hz : zeros (commandArgs f 0x01 [(4, modeCode m)]) 1 3 = true) :
    let u := sessionActivity s
    let t := modeCommand s f m fun s => hostMode s m
    (u.modes.mode = o → cfgHostMode u = true → t = replied { u with modes := { u.modes with hostReq := some m } } f 0x01 stOk) ∧
    (u.modes.mode = o → cfgHostMode u = false → t = replied u f 0x01 stNotInMode) ∧
    (u.modes.mode = m → t = replied { u with modes := { u.modes with hostReq := none } } f 0x01 stOk) ∧
    (u.modes.mode = .safe → u.modes.causes &&& ~~~(0x0340 : BitVec 16) ≠ 0 → t = replied (causesLeft u) f 0x01 stNotInMode) ∧
    (u.modes.mode = .safe → u.modes.causes &&& ~~~(0x0340 : BitVec 16) = 0 →
      t.modes.mode = m ∧ t.modes.record = some m ∧ t.modes.causes = 0 ∧ t.events.pending.getLsbD 4 = true ∧ answered t stOk) := by
  intro u t
  have ht : t = replied (hostMode u m).2 f 0x01 (hostMode u m).1 := modeCommand_ready h hz _
  rw [ht]
  refine ⟨fun hu hc => ?_, fun hu hc => ?_, fun hu => ?_, fun hu hc => ?_, fun hu hc => ?_⟩
  · rw [hostMode_other (hu ▸ hmo) (hu ▸ ho), if_pos hc]
  · rw [hostMode_other (hu ▸ hmo) (hu ▸ ho), if_neg (by rw [hc]; decide)]
  · rw [hostMode_same hu hm]
  · rw [hostMode_safe hu, if_neg hc]
  · obtain ⟨he, hn⟩ := leaveSafe_entered (causesLeft u) m
    rw [hostMode_safe hu, if_pos hc]
    generalize leaveSafe (causesLeft u) m = x at he hn ⊢
    exact ⟨he.mode, he.record, hn, he.event, replied_answered ..⟩

/-! MODE_SAFE: of the events, the log of a chain restored for SAFE raises EV27 and EV31 alone. -/

/-- `t` has event `n` pending exactly if `s` has. -/
def EventSame (n : Nat) (s t : State) : Prop := t.events.pending.getLsbD n = s.events.pending.getLsbD n

theorem markEvent_other (e : Events) {ev : Fin 32} {n : Nat} (h : n ≠ ev.val) : (markEvent e ev).pending.getLsbD n = e.pending.getLsbD n := by
  unfold markEvent
  dsimp only
  rw [BitVec.getLsbD_or, BitVec.getLsbD_ofNat, Nat.testBit_two_pow_of_ne h.symm, Bool.and_false, Bool.or_false]

theorem raise_other (s : State) {ev : Fin 32} {n : Nat} (h : n ≠ ev.val) (h31 : n ≠ 31) (arg : Nat) : EventSame n s (raise s ev arg) := by
  have hq (e : Events) (q : QueuedEvent) : (queueEvent e q).pending.getLsbD n = e.pending.getLsbD n := by
    unfold queueEvent
    split
    · rfl
    · dsimp only
      split
      · rfl
      · exact markEvent_other _ h31
  unfold EventSame raise
  dsimp only
  split
  · exact (hq _ _).trans (markEvent_other _ h)
  · exact markEvent_other _ h

section
variable {n : Nat} (h27 : n ≠ 27) (h31 : n ≠ 31)
include h27 h31

theorem logSummary_other (k : Nat) (s : State) : EventSame n s (logSummary k s) := by
  induction k generalizing s with
  | zero => rfl
  | succ k ih =>
    unfold logSummary
    dsimp only
    split
    · exact (ih _).trans (raise_other _ (ev := 27) h27 h31 0)
    · rfl

theorem logRing_other (s : State) (e : LogEntry) : EventSame n s (logRing s e) := by
  unfold logRing
  split
  · rfl
  · dsimp only
    split
    · exact (logSummary_other h27 h31 2 _).trans (raise_other _ (ev := 27) h27 h31 0)
    · rfl

theorem safeRail_other (s : State) : EventSame n s (safeRail s) := by
  unfold safeRail
  split
  · rfl
  · extract_lets _ x
    have hx : EventSame n s x := by
      unfold x
      split
      · exact logRing_other h27 h31 _ _
      · rfl
    exact hx

end

/-! MODE_BOUNDARY (R131 - R133, R140 - R142). -/

theorem announcedMode_head {s : State} (h : s.role = .head) : announcedMode s = none := by
  unfold announcedMode
  dsimp only
  rw [h]
  rfl

theorem announcedMode_autonomous {s : State} (h : s.course.pod.autonomous = true) : announcedMode s = none := by
  unfold announcedMode
  dsimp only
  rw [h]
  exact if_neg (by simp)

theorem pendingMode_autonomous {s : State} (hr : s.role = .pod) (ha : s.course.pod.autonomous = true) : pendingMode s = none := by
  unfold pendingMode
  rw [announcedMode_autonomous ha, isAutonomous, hr, ha]
  split <;> rfl

theorem pendingMode_announced {s : State} {m : Mode} (ha : announcedMode s = some m) (hm : s.modes.mode ≠ m)
    (hc : s.modes.mode = .safe → s.modes.causes = 0) : pendingMode s = some m := by
  unfold pendingMode
  rw [ha, if_neg]
  · exact if_neg (Ne.symm hm)
  · rw [Bool.and_eq_true, bne_iff_ne]
    exact fun h => h.2 (hc (mode_of_inSafe h.1))

theorem pendingMode_host {s : State} {m : Mode} (hr : s.role = .head) (ha : isActive s = true) (hm : s.modes.hostReq = some m) :
    pendingMode s = some m := by
  have hs : inSafe s = false := Bool.eq_false_iff.2 fun h => mode_of_isActive ha (mode_of_inSafe h)
  unfold pendingMode
  rw [hs, announcedMode_head hr, isAutonomous, hr, hm]
  rfl

theorem execModeBoundary_idle {s : State} (h : allEndHere s = false ∨ pendingMode s = none) : execModeBoundary s = .next s := by
  unfold execModeBoundary
  split
  · rfl
  · next hn =>
    rcases h with h | h
    · rw [h] at hn
      exact absurd (Bool.or_true _) hn
    · rw [h]

/-- The requests are taken at a boundary; a Sluice request that loses is skipped (R133). -/
def requestsTaken (s : State) : State :=
  let lost := s.modes.sluiceReq.isSome && (s.modes.hostReq.isSome || (announcedMode s).isSome)
  let s := match s.modes.sluiceReq with
    | some (_, k) => if lost then skipSlot s k else s
    | none => s
  { s with modes := { s.modes with hostReq := none, sluiceReq := none } }

theorem requestsTaken_page (s : State) : (requestsTaken s).modes = { s.modes with hostReq := none, sluiceReq := none } ∧
    inSafe (requestsTaken s) = inSafe s := by
  unfold requestsTaken
  dsimp only
  split
  · split <;> exact ⟨rfl, rfl⟩
  · exact ⟨rfl, rfl⟩

theorem execModeBoundary_moves {s : State} {m : Mode} (hr : isRunning s = true) (he : allEndHere s = true) (hp : pendingMode s = some m) (hm : m ≠ .safe) :
    execModeBoundary s = .next (if inSafe s = true then leaveSafe (requestsTaken s) m else changeMode (requestsTaken s) m) := by
  rw [← (requestsTaken_page s).2]
  unfold execModeBoundary
  rw [hr, he, if_neg (by decide), hp]
  cases m with
  | safe => exact absurd rfl hm
  | run => rfl
  | watch => rfl

theorem execModeBoundary_entered {s : State} {m : Mode} (hr : isRunning s = true) (he : allEndHere s = true) (hp : pendingMode s = some m)
    (hm : m ≠ .safe) : ∃ t, execModeBoundary s = .next t ∧ Entered t m := by
  refine ⟨_, execModeBoundary_moves hr he hp hm, ?_⟩
  split
  · exact (leaveSafe_entered ..).1
  · exact (changeMode_entered ..).1

/-! SAFE_AUTO_EXIT (R138). -/

/-- A cause 0x06 that is gone holds SAFE no longer; the head then takes its start mode. -/
theorem execSafeAutoExit_leaves {s : State} {c : Nat} (hs : inSafe s = true) (hr : s.role = .head) (ha : cfgAuto s = true)
    (hc : s.modes.causes = 0 ∨ (s.modes.causes = 0x0040 ∧ s.modes.railCauseGone = true)) (hg : s.modes.goneClk = some c)
    (ht : c + cfgSafeHold s ≤ s.clk) (hm : startMode s ≠ .safe) : execSafeAutoExit s = .next (leaveSafe s (startMode s)) := by
  have hx : exitMode s = startMode s := by rw [exitMode, announcedMode_head hr]; rfl
  have left : (if s.modes.railCauseGone = true then s.modes.causes &&& ~~~(0x0040 : BitVec 16) else s.modes.causes) = 0 := by
    rcases hc with hc | ⟨hc, hn⟩
    · rw [hc]
      split <;> rfl
    · rw [hc, hn]
      rfl
  unfold execSafeAutoExit
  dsimp only
  rw [left, hs, ha, hg, hx, Option.map_some, Option.getD_some, decide_eq_true ht, bne_iff_ne.2 hm]
  rfl

/-- Settles O17: a request by the mode it meets, a boundary by the mode pending, and the exit from SAFE. -/
theorem modeRequests : Obligations.ModeRequests := by
  unfold Obligations.ModeRequests
  refine ⟨fun s f h hz => ?run, fun s f h hz => ?watch, fun s f h hz => ?safe, fun s h => execModeBoundary_idle h,
    fun s hr ha => execModeBoundary_idle (.inr (pendingMode_autonomous hr ha)), fun s m hr he hp ha hs hm hn hd hc => ?pod,
    fun s m ha he hr hq hm => ?head, fun s c hs hr ha hc hg ht hm => ?exit⟩
  case run =>
    obtain ⟨h1, h2, h3, h4, h5⟩ := modeRequest (m := .run) (o := .watch) (by decide) (by decide) (by decide) h hz
    exact ⟨fun hu hc => congrArg _ (h1 hu hc), fun hu hc => congrArg _ (h2 hu hc), fun hu => congrArg _ (h3 hu), fun hu hc => congrArg _ (h4 hu hc),
      fun hu hc => ⟨_, rfl, h5 hu hc⟩⟩
  case watch =>
    obtain ⟨h1, h2, h3, h4, h5⟩ := modeRequest (m := .watch) (o := .run) (by decide) (by decide) (by decide) h hz
    exact ⟨fun hu hc => congrArg _ (h1 hu hc), fun hu hc => congrArg _ (h2 hu hc), fun hu => congrArg _ (h3 hu), fun hu hc => congrArg _ (h4 hu hc),
      fun hu hc => ⟨_, rfl, h5 hu hc⟩⟩
  case safe =>
    intro u
    have hx : execModeSafe f s = .next (replied (enterSafe u 8) f 0x01 stOk) :=
      congrArg _ (modeCommand_ready (m := .safe) h hz fun s => (stOk, enterSafe s 8))
    refine ⟨fun ha => ⟨_, hx, ?_⟩, fun hs => ⟨_, hx, ?_⟩⟩
    · have hm : (replied (enterSafe u 8) f 0x01 stOk).modes = { modesAfter (addCause u 8) .safe 8 with hostReq := none, sluiceReq := none } :=
        enterSafe_modes ha (by decide)
      rw [hm]
      exact ⟨rfl, addCause_bit u (by decide), rfl, enterSafe_pending ha (by decide), rfl, replied_answered ..⟩
    · have he := enterSafe_again (cause := 8) hs (by decide)
      have hm : (replied (enterSafe u 8) f 0x01 stOk).modes = (addCause u 8).modes := (congrArg State.modes he).trans (safeRail_modes _)
      rw [hm]
      refine ⟨mode_of_inSafe hs, rfl, rfl, ?_, replied_answered ..⟩
      exact (congrArg (fun x : State => x.events.pending.getLsbD 4) he).trans (safeRail_other (by decide) (by decide) (addCause u 8))
  case pod =>
    obtain ⟨t, hx, ht⟩ := execModeBoundary_entered hr he (pendingMode_announced (announcedMode_some hp ha hs hm) hd hc) hn
    exact ⟨t, hx, ht.mode, ht.record, ht.event⟩
  case head =>
    have hn : inSafe s = false := Bool.eq_false_iff.2 fun h => mode_of_isActive ha (mode_of_inSafe h)
    have hx := execModeBoundary_moves (isRunning_of_isActive ha) he (pendingMode_host hr ha hq) hm
    rw [if_neg (by rw [hn]; decide)] at hx
    obtain ⟨ht, hreq, hold⟩ := changeMode_entered (requestsTaken s) m
    have hp := (requestsTaken_page s).1
    exact ⟨_, hx, ht.mode, ht.record, hreq.trans (by rw [hp]), hold.trans (by rw [hp]), ht.event⟩
  case exit =>
    obtain ⟨he, hn⟩ := leaveSafe_entered s (startMode s)
    exact ⟨_, execSafeAutoExit_leaves hs hr ha hc hg ht hm, he.mode, hn, he.event⟩

end Sys2Proof.Machine

namespace Sys2Proof.Machine

/-! Compliance (R199, R200). -/

/-- A VCN of the node holds the node's number above its local index. -/
theorem ownVcn_toNat (s : State) {i : Nat} (h : i < 256) : (ownVcn s i).toNat = 256 * (ownNode s).toNat + i := by
  have := (ownNode s).isLt
  rw [ownVcn, BitVec.toNat_ofNat]
  omega

theorem ceAtLimit_iff (o : CeObs) :
    ceAtLimit o = true ↔ (215 / 100 : Rat) ≤ ratAbs o.volts ∨ (250 / 10 ^ 6 : Rat) ≤ ratAbs o.amps := by
  simp [ceAtLimit]

section
variable {s : State} {n : Fin 8} {o : CeObs}

/-- A millisecond at the limit puts a present, enabled channel into compliance. -/
theorem execComplianceEnter_begins (hr : isRunning s = true) (hp : ecPresent s n = true) (he : s.ec[n].enabled = true)
    (hc : s.ec[n].compliance = false) (hl : ceAtLimit o = true) (hu : 1000 ≤ o.us) :
    execComplianceEnter n o s = .next (raise { s with
      ec := vmod s.ec n fun c => { c with compliance := true }
      tones := vmod s.tones n fun t => { t with open_ := t.open_ || t.active } } 9 (ownVcn s (2 * n.val)).toNat) :=
  if_neg (by simpa [hr, hp, hl, hu] using And.intro he hc)

theorem execComplianceEnter_none (h : s.ec[n].compliance = true ∨ ecPresent s n = false ∨ o.us < 1000) :
    execComplianceEnter n o s = .next s := by
  refine if_pos ?_
  rcases h with h | h | h
  · simp [show s.ec[n.val].compliance = true from h]
  · simp [h]
  · simp [h]

theorem execComplianceExit_ends (hc : s.ec[n].compliance = true) (hl : ceAtLimit o = false) (hu : 1000000 ≤ o.us) :
    execComplianceExit n o s = .next { s with ec := vmod s.ec n fun c =>
      { c with compliance := false, complianceTail := s.weirs[(⟨2 * n.val, by omega⟩ : Fin 23)].on } } :=
  if_pos (by simpa [hl, hu] using hc)

theorem execComplianceExit_none (hu : o.us < 1000000) : execComplianceExit n o s = .next s :=
  if_neg (by simp [hu])

end

/-- Settles O19: the guards of the two commands are the statement's hypotheses, and EV09 carries the VCN of the channel's WE1. -/
theorem complianceEpisodes : Obligations.ComplianceEpisodes := by
  refine ⟨fun s n o hr hp he hc hl hu => ?enter, fun s n o h => execComplianceEnter_none h, fun s n o hc hv ha hu => ?exit,
    fun s n o hu => execComplianceExit_none hu⟩
  case enter =>
    rw [← ownVcn_toNat s (by omega)]
    exact execComplianceEnter_begins hr hp he hc ((ceAtLimit_iff o).2 hl) hu
  case exit =>
    refine execComplianceExit_ends hc (Bool.eq_false_iff.2 fun h => ?_) hu
    rcases (ceAtLimit_iff o).1 h with h | h
    · exact absurd h (not_le.2 hv)
    · exact absurd h (not_le.2 ha)

end Sys2Proof.Machine

namespace Sys2Proof.Machine

/-! BIAS and IMPEDANCE_SWEEP (R196, R197, R214, R220, R234). -/

/-- The bias command's own refusals and effect. -/
def biasBody (s : State) (a : List Byte) : Byte × State :=
  let t := signed 32 (u32 a 4)
  if !hasCal s then (stLocked, s)
  else if h : u8 a 0 < 8 then
    let n : Fin 8 := ⟨u8 a 0, h⟩
    if !ecPresent s n || !zeros a 1 3 || !inZ (-500000) 500000 t || 100000 < u32 a 8 || !biasFitsTone s n t then (stBadArg, s)
    else if inSafe s then (stNotInMode, s)
    else (stOk, setBias s n t (u32 a 8))
  else (stBadArg, s)

theorem execBias_ready {s : State} {f : HostFrame} (h : CommandReady s f 0x04 [] 12) {st : Byte} {x : State}
    (e : biasBody (sessionActivity s) (commandArgs f 0x04 []) = (st, x)) : execBias f s = .next (replied x f 0x04 st) :=
  commandFrame_next _ _ h rfl rfl rfl e

section
variable {u : State} {a : List Byte}

theorem biasBody_locked (h : hasCal u = false) : biasBody u a = (stLocked, u) := if_pos (by rw [h]; rfl)

/-- The refusals that the argument bytes alone decide. -/
theorem biasBody_badArg (h : hasCal u = true)
    (hb : 8 ≤ u8 a 0 ∨ zeros a 1 3 = false ∨ signed 32 (u32 a 4) < -500000 ∨ 500000 < signed 32 (u32 a 4) ∨ 100000 < u32 a 8) :
    biasBody u a = (stBadArg, u) := by
  unfold biasBody
  dsimp only
  rw [if_neg (by rw [h]; decide)]
  split
  · next hlt =>
    refine if_pos ?_
    rcases hb with hb | hb | hb | hb | hb
    · omega
    · simp [hb]
    · simp [inZ, not_le.2 hb]
    · simp [inZ, not_le.2 hb]
    · simp [hb]
  · rfl

section
variable {n : Fin 8} (h : hasCal u = true) (hn : u8 a 0 = n.val)
include h hn

/-- With a session and a channel number, what remains is said of the channel. -/
theorem biasBody_channel : biasBody u a =
    if !ecPresent u n || !zeros a 1 3 || !inZ (-500000) 500000 (signed 32 (u32 a 4)) || 100000 < u32 a 8 ||
        !biasFitsTone u n (signed 32 (u32 a 4)) then (stBadArg, u)
    else if inSafe u then (stNotInMode, u)
    else (stOk, setBias u n (signed 32 (u32 a 4)) (u32 a 8)) := by
  obtain ⟨k, hk⟩ := n
  have hn : u8 a 0 = k := hn
  subst hn
  unfold biasBody
  dsimp only
  rw [if_neg (by rw [h]; decide), dif_pos hk]

/-- The refusals for want of the channel or for its tone (R214). -/
theorem biasBody_channel_badArg (hb : ecPresent u n = false ∨ biasFitsTone u n (signed 32 (u32 a 4)) = false) :
    biasBody u a = (stBadArg, u) := by
  rw [biasBody_channel h hn]
  refine if_pos ?_
  rcases hb with hb | hb <;> simp [hb]

theorem biasBody_accepted (hz : zeros a 1 3 = true) (hlo : -500000 ≤ signed 32 (u32 a 4)) (hhi : signed 32 (u32 a 4) ≤ 500000)
    (hr : u32 a 8 ≤ 100000) (hp : ecPresent u n = true) (hf : biasFitsTone u n (signed 32 (u32 a 4)) = true) :
    biasBody u a = if inSafe u then (stNotInMode, u) else (stOk, setBias u n (signed 32 (u32 a 4)) (u32 a 8)) := by
  rw [biasBody_channel h hn]
  exact if_neg (by simp [inZ, hz, hlo, hhi, hr, hp, hf])

end

end

/-- The sweep command's own refusals and effect. -/
def sweepBody (s : State) (a : List Byte) : Byte × State :=
  let l := maskChannels (u8 a 0)
  if l.isEmpty || !zeros a 1 3 || l.any (fun n => toneMode s n != 2) then (stBadArg, s)
  else if l.all fun n => s.tones[n].sweeping then (stBusy, s)
  else if inSafe s then (stNotInMode, s)
  else (stOk, (l.filter fun n => !s.tones[n].sweeping).foldl (startSweep false) s)

theorem execImpedanceSweep_ready {s : State} {f : HostFrame} (h : CommandReady s f 0x06 [] 4) {st : Byte} {x : State}
    (e : sweepBody (sessionActivity s) (commandArgs f 0x06 []) = (st, x)) : execImpedanceSweep f s = .next (replied x f 0x06 st) :=
  commandFrame_next _ _ h rfl rfl rfl e

/-- A channel whose sweep starts (R220). -/
def sweptTone (late : Bool) (t : Tone) : Tone := { toneOff t with sweeping := true, late := late }

/-- Sweeps that start on channels change their tones, and nothing else. -/
theorem startSweeps_tones (late : Bool) (l : List (Fin 8)) (s : State) :
    l.foldl (startSweep late) s = { s with tones := (l.foldl (startSweep late) s).tones } ∧
      ∀ n : Fin 8, (l.foldl (startSweep late) s).tones[n] = if n ∈ l then sweptTone late s.tones[n] else s.tones[n] := by
  induction l generalizing s with
  | nil => exact ⟨rfl, fun n => rfl⟩
  | cons a l ih =>
    obtain ⟨hs, ht⟩ := ih (startSweep late s a)
    rw [List.foldl_cons]
    refine ⟨hs.trans rfl, fun n => ?_⟩
    have ha : (startSweep late s a).tones[n] = if a = n then sweptTone late s.tones[n] else s.tones[n] :=
      vmod_get s.tones a n (sweptTone late)
    rw [ht n, ha]
    by_cases hn : a = n
    · subst hn
      simp [sweptTone, toneOff]
    · simp [hn, Ne.symm hn]

section
variable {u : State} {a : List Byte}

theorem sweepBody_badArg (h : maskChannels (u8 a 0) = [] ∨ zeros a 1 3 = false ∨ ∃ n ∈ maskChannels (u8 a 0), toneMode u n ≠ 2) :
    sweepBody u a = (stBadArg, u) := by
  refine if_pos ?_
  rcases h with h | h | ⟨n, hn, hm⟩
  · simp [h]
  · simp [h]
  · have : (maskChannels (u8 a 0)).any (fun n => toneMode u n != 2) = true := List.any_eq_true.2 ⟨n, hn, by simpa using hm⟩
    rw [this, Bool.or_true]

section
variable (hl : maskChannels (u8 a 0) ≠ []) (hz : zeros a 1 3 = true) (hm : ∀ n ∈ maskChannels (u8 a 0), toneMode u n = 2)
include hl hz hm

/-- A mask of channels in sweep mode, with its reserved bytes 0. -/
theorem sweepBody_named : sweepBody u a =
    if (maskChannels (u8 a 0)).all fun n => u.tones[n].sweeping then (stBusy, u)
    else if inSafe u then (stNotInMode, u)
    else (stOk, ((maskChannels (u8 a 0)).filter fun n => !u.tones[n].sweeping).foldl (startSweep false) u) := by
  refine if_neg ?_
  have : (maskChannels (u8 a 0)).any (fun n => toneMode u n != 2) = false := List.any_eq_false.2 fun n hn => by simp [hm n hn]
  rw [this, hz, List.isEmpty_eq_false_iff.2 hl]
  decide

theorem sweepBody_busy (h : ∀ n ∈ maskChannels (u8 a 0), u.tones[n].sweeping = true) : sweepBody u a = (stBusy, u) := by
  rw [sweepBody_named hl hz hm]
  exact if_pos (List.all_eq_true.2 h)

theorem sweepBody_idle (h : ∃ n ∈ maskChannels (u8 a 0), u.tones[n].sweeping = false) : sweepBody u a =
    if inSafe u then (stNotInMode, u)
    else (stOk, ((maskChannels (u8 a 0)).filter fun n => !u.tones[n].sweeping).foldl (startSweep false) u) := by
  obtain ⟨n, hn, hs⟩ := h
  rw [sweepBody_named hl hz hm]
  refine if_neg fun h => ?_
  rw [List.all_eq_true.1 h n hn] at hs
  cases hs

end

end

/-- Settles O20: each command's answer is its body's, whose refusals stand in the order of the statement; the idle channels of a mask start their
sweeps one after another, each changing its own tone alone. -/
theorem biasAndSweepCommands : Obligations.BiasAndSweepCommands := by
  refine ⟨fun s f h => ?bias, fun s f h => ?sweep⟩
  case bias =>
    intro u a t
    refine ⟨fun hc => execBias_ready h (biasBody_locked hc), fun hc hb => execBias_ready h (biasBody_badArg hc hb),
      fun n hc hn hb => execBias_ready h (biasBody_channel_badArg hc hn hb), fun n hc hn hz hlo hhi hr hp hf => ?_⟩
    have hx := biasBody_accepted hc hn hz hlo hhi hr hp hf
    refine ⟨fun hs => execBias_ready h (hx.trans (if_pos hs)), fun hs => ?_⟩
    exact execBias_ready h (hx.trans (if_neg (by rw [hs]; decide)))
  case sweep =>
    intro u a l
    refine ⟨fun hb => execImpedanceSweep_ready h (sweepBody_badArg hb),
      fun hl hz hm hb => execImpedanceSweep_ready h (sweepBody_busy hl hz hm hb),
      fun hl hz hm hi hs => execImpedanceSweep_ready h ((sweepBody_idle hl hz hm hi).trans (if_pos hs)), fun hl hz hm hi hs => ?_⟩
    obtain ⟨hstate, htones⟩ := startSweeps_tones false (l.filter fun n => !u.tones[n].sweeping) u
    have hx := (sweepBody_idle hl hz hm hi).trans (if_neg (by rw [hs]; decide))
    refine ⟨_, execImpedanceSweep_ready h (hx.trans (congrArg (Prod.mk stOk) hstate)), fun n => ?_⟩
    rw [htones n]
    by_cases hn : n ∈ l ∧ u.tones[n].sweeping = false
    · rw [if_pos hn, if_pos (by simpa using hn)]
      exact ⟨rfl, rfl, rfl⟩
    · rw [if_neg hn, if_neg (by simpa using hn)]

end Sys2Proof.Machine

namespace Sys2Proof.Machine

/-! Burn-out checks and AUX visits (R183, R222 - R230). -/

/-- A check made with a verdict `isOpen`. -/
def burnChecked (s : State) (i : BurnInput) (isOpen : Bool) : State :=
  { s with burns := vmod s.burns (burnIdx i) fun b => { b with active := true, isOpen := isOpen } }

/-- The voltage at the ball is above the open threshold of the input (R223). -/
def burnOpen (s : State) (i : BurnInput) (v : Rat) : Bool := decide (((burnCfg s i).2.2.2 : Rat) / 100 < v)

section
variable {s : State}

/-- The check of an AUX input disconnects it for the gap of its second steps 1 and 2 (R226). -/
theorem execBurnoutCheckEnd_aux {n : Fin 4} {v : Rat} (hd : burnDue s (.aux n) = true) (hv : visitNow s = some (.input n))
    (ht : s.aux.visitClk + auxGap s + auxDischarge s + burnUs s (.input n) ≤ s.clk) :
    execBurnoutCheckEnd (.aux n) v s =
      let t : State := { burnChecked s (.aux n) (burnOpen s (.aux n) v) with aux := { s.aux with connected := none } }
      .next (if burnOpen s (.aux n) v && !s.burns[burnIdx (.aux n)].isOpen then raise t 9 (ownVcn s (0x20 + n.val)).toNat else t) :=
  if_neg (by simp [hd, hv, ht])

theorem execBurnoutCheckEnd_film {n : Fin 6} {c : Nat} {v : Rat} (hd : burnDue s (.film n) = true)
    (hc : s.weirs[weirOfFilm n].frameClk = some c) (ht : c + 2 + 100 * u8 (filmBurn s n) 2 ≤ s.clk) :
    execBurnoutCheckEnd (.film n) v s =
      let t := burnChecked s (.film n) (burnOpen s (.film n) v)
      .next (if burnOpen s (.film n) v && !s.burns[burnIdx (.film n)].isOpen then raise t 9 (ownVcn s (0x10 + n.val)).toNat else t) := by
  have hg : ¬(!burnDue s (.film n) ||
      !(s.weirs[weirOfFilm n].frameClk.map fun c => decide (c + 2 + 100 * u8 (filmBurn s n) 2 ≤ s.clk)).getD false) = true := by
    rw [hd, hc]
    simpa using ht
  exact if_neg hg

/-- EV09 comes with the check that begins an episode, and with no other. -/
theorem episode_raise {α : Type} {isOpen was : Bool} (x y : α) :
    (isOpen = true → was = false → (if isOpen && !was then x else y) = x) ∧
      (isOpen = false ∨ was = true → (if isOpen && !was then x else y) = y) := by
  cases isOpen <;> cases was <;> simp

end

/-- The raw value of an AUX conversion in units of Q/32 (R228). -/
def auxRaw (o : AuxObs) : Int := ratRNE (((o.pos.toNat : Rat) - (o.neg.toNat : Rat)) * 32 +
  (((o.endCode.toNat : Rat) - 2048) - ((o.startCode.toNat : Rat) - 2048)))

theorem auxConvert_eq (s : State) (o : AuxObs) : auxConvert s o =
    (auxRaw o, 5 / 4 + (auxRaw o : Rat) * (qCal s 22 3 / 32) * s.cornerstone.rAux / slotTime s o.slot) := by
  have hcharge (p e b q : Rat) (hq : q ≠ 0) :
      (p * q + ((e - 2048) * q / 32 - (b - 2048) * q / 32)) / (q / 32) = p * 32 + ((e - 2048) - (b - 2048)) := by
    field_simp
  unfold auxConvert auxRaw residueCharge
  dsimp only
  rw [hcharge _ _ _ (qNom 3) (by norm_num [qNom])]

/-- The AUX state after the visit of a slot, where W23 compares nothing: its conversion stored, the next visit begun. -/
def auxVisited (s : State) (o : AuxObs) : AuxSlot → Aux
  | .exs => { s.aux with
      connected := some 4, visits := s.aux.visits + 1, visitClk := s.clk
      exs := some (5 / 4 + (auxRaw o : Rat) * (qCal s 22 3 / 32) * s.cornerstone.rAux / ((Config.exsTime : Rat) / 10000))
      exsOvr := spanReached o.spanHit o.endCode, exsBad := false }
  | .input n => { s.aux with
      connected := some ⟨n.val, by omega⟩, visits := s.aux.visits + 1, visitClk := s.clk
      conv := s.aux.conv.set n.val (some
        { volts := 5 / 4 + (auxRaw o : Rat) * (qCal s 22 3 / 32) * s.cornerstone.rAux / auxTime s n, raw := auxRaw o
          ovr := spanReached o.spanHit o.endCode, shadowed := visitedNow s 22, bad := false }) }

section
variable {s : State} {o : AuxObs} {k : AuxSlot} (ha : isActive s = true) (hv : visitNow s = some k) (hk : o.slot = k) (hn : o.shadow = none)
  (ht : (s.aux.visitClk : Rat) + visitUs s k ≤ (s.clk : Rat))
include ha hv hk hn ht

/-- The end of the visit in progress: nothing that is compared can activate a fault. -/
theorem execAuxVisit_ends : execAuxVisit o s = .next { s with aux := auxVisited s o k } := by
  have hg : ¬(!isActive s || visitNow s != some o.slot || decide ((s.clk : Rat) < (s.aux.visitClk : Rat) + visitUs s o.slot)) = true := by
    simp [ha, hv, hk, ht]
  have hc : shadowCompare s 22 3 (auxCharge s o) (spanReached o.spanHit o.endCode) o.shadow = (s, false) := by rw [hn]; rfl
  have settled (a : Aux) : settle s { s with aux := a } = { s with aux := a } := settle_of_noNewFault (.of_ks rfl)
  unfold execAuxVisit
  rw [if_neg hg, auxConvert_eq]
  dsimp only
  rw [hc, hk]
  cases k with
  | exs => exact congrArg _ (settled _)
  | input n => exact congrArg _ (settled _)

end

section
variable {s : State} {k : AuxSlot} (hv : visitNow s = some k) (hb : slotBurns s k = false)
include hv hb

/-- The mux node of a visit without a check, by the time since the visit began (R226). -/
theorem muxNode_steps : muxNode s =
    if s.clk - s.aux.visitClk < auxGap s then .open_
    else if s.clk - s.aux.visitClk < auxGap s + auxDischarge s then .mid
    else .ball (slotBall k) := by
  unfold muxNode
  rw [hv]
  dsimp only
  rw [hb, Bool.not_false, Bool.true_or, if_pos rfl]

end

/-- Settles O21: the guards of the commands are the statement's hypotheses; a visit that nothing shadows activates no fault, so that `settle` leaves
its state, and Q cancels in the raw value. -/
theorem burnOutAndAuxVisit : Obligations.BurnOutAndAuxVisit := by
  refine ⟨fun s n v hd hv ht => ?aux, fun s n c v hd hc ht => ?film, fun s n o ha hv hk hn ht => ?input, fun s o ha hv hk hn ht => ?exs,
    fun s k hv hb => ?mux⟩
  case aux =>
    have hx := execBurnoutCheckEnd_aux (v := v) hd hv ht
    exact ⟨fun ho hw => hx.trans (congrArg _ ((episode_raise _ _).1 ho hw)), fun h => hx.trans (congrArg _ ((episode_raise _ _).2 h))⟩
  case film =>
    have hx := execBurnoutCheckEnd_film (v := v) hd hc ht
    exact ⟨fun ho hw => hx.trans (congrArg _ ((episode_raise _ _).1 ho hw)), fun h => hx.trans (congrArg _ ((episode_raise _ _).2 h))⟩
  case input => exact ⟨_, execAuxVisit_ends ha hv hk hn ht, rfl, rfl, rfl, rfl, rfl⟩
  case exs => exact execAuxVisit_ends ha hv hk hn ht
  case mux =>
    rw [muxNode_steps hv hb]
    refine ⟨fun h1 h2 => if_pos (by omega), fun h1 h2 => ?_, fun h => ?_⟩
    · rw [if_neg (by omega), if_pos (by omega)]
    · rw [if_neg (by omega), if_neg (by omega)]

end Sys2Proof.Machine

namespace Sys2Proof.Machine

/-! The chain-shed indication that a pod follows (R295): frames of the chain alone move it, so that a heater is shed after a boundary as it was
before. -/

/-- Whether the chain has shed this pod's heaters. -/
def State.podShed (s : State) : Bool := s.course.pod.chainShed

@[simp] theorem podShed_mk (x0 x1 x2 x3 x4 x5 x6 x7 x8 x9 x10 x11 x12 x13 x14 x15 x16 x17 x18 x19 x20 x21 x22 x23 x24 x25 x26 x27 x28 x29 x30 x31 x32 x33 x34 x35 x36 x37) :
    (State.mk x0 x1 x2 x3 x4 x5 x6 x7 x8 x9 x10 x11 x12 x13 x14 x15 x16 x17 x18 x19 x20 x21 x22 x23 x24 x25 x26 x27 x28 x29 x30 x31 x32 x33 x34 x35 x36 x37).podShed =
      x30.pod.chainShed := rfl

@[simp] theorem podShed_fold (s : State) : s.course.pod.chainShed = s.podShed := rfl

@[simp] theorem podShed_ite (c : Prop) [Decidable c] (a b : State) : (if c then a else b).podShed = if c then a.podShed else b.podShed :=
  apply_ite _ _ _ _

@[simp] theorem foldl_podShed {α : Type} (f : State → α → State) (h : ∀ s a, (f s a).podShed = s.podShed) (l : List α) (s : State) :
    (l.foldl f s).podShed = s.podShed := foldl_keeps _ f h l s

theorem LogOnly.podShed {s t : State} (h : LogOnly s t) : t.podShed = s.podShed := by
  unfold LogOnly at h
  rw [h]
  rfl

theorem PinsOnly.podShed {s t : State} (h : PinsOnly s t) : t.podShed = s.podShed := by
  rw [h.1]
  rfl

/-! Events, log, outputs, and Spillway without a mismatch of the two evaluators. -/

@[simp] theorem drawFree_podShed (s : State) : (drawFree s).2.podShed = s.podShed := rfl
@[simp] theorem raise_podShed (s : State) (ev : Fin 32) (arg : Nat) : (raise s ev arg).podShed = s.podShed := rfl
@[simp] theorem logRecord_podShed (s : State) (kind : Byte) (r : Record) : (logRecord s kind r).podShed = s.podShed :=
  (logRecord_log (.refl s) ..).podShed
@[simp] theorem logAlarm_podShed (s : State) (kind node : Byte) (code arg : Nat) (data : List Byte) :
    (logAlarm s kind node code arg data).podShed = s.podShed := (logAlarm_log (.refl s) ..).podShed
@[simp] theorem originate_podShed (s : State) (ports : List (Fin 2)) (type dst : Byte) (cls : Nat) (credit : Byte) (payload : List Byte) :
    (originate s ports type dst cls credit payload).podShed = s.podShed := by
  rw [(originate_ports s ports type dst cls credit payload).1]
  rfl
@[simp] theorem refreshAout_podShed (s : State) (n : Fin 2) : (refreshAout s n).podShed = s.podShed := (refreshAout_pins s n).podShed
@[simp] theorem refreshOutputs_podShed (s : State) : (refreshOutputs s).podShed = s.podShed := (refreshOutputs_pins s).podShed
@[simp] theorem endHold_podShed (s : State) (n : Fin 2) : (endHold s n).podShed = s.podShed := rfl
@[simp] theorem sendAlarm_podShed (s : State) : (sendAlarm s).podShed = s.podShed := by simp [sendAlarm]
@[simp] theorem chainChanged_podShed (s : State) : (chainChanged s).podShed = s.podShed := by simp [chainChanged]
@[simp] theorem ruleOutputs_podShed (s : State) (k : Nat) : (ruleOutputs s k).podShed = s.podShed := by simp [ruleOutputs]
@[simp] theorem setRule_podShed (s : State) (k : Fin 256) (new : RuleState) (first : Bool) : (setRule s k new first).podShed = s.podShed := by
  simp [setRule]
@[simp] theorem evaluate_podShed (s : State) (k : Fin 256) (setm clrm : Bool) (value : F32) :
    (evaluate s k setm clrm value []).podShed = s.podShed := by
  simp [evaluate, evaluateAs]
@[simp] theorem evalRecord_podShed (s : State) (k : Fin 256) (r : Record) : (evalRecord s k r []).podShed = s.podShed := by
  unfold evalRecord
  (repeat' split) <;> simp
@[simp] theorem accumulate_podShed (s : State) (k : Fin 256) (r : Record) (weight : Rat) : (accumulate s k r weight).podShed = s.podShed := rfl
@[simp] theorem spillRecord_podShed (s : State) (r : Record) (weight : Rat) : (spillRecord s r weight []).1.podShed = s.podShed := by
  have h (ks : List (Fin 256)) : (ks.foldl (fun s k => accumulate s k r weight) s).podShed = s.podShed :=
    foldl_podShed _ (fun s k => accumulate_podShed s k r weight) ks s
  simp [spillRecord, h]

/-! Encoders, calibration window, ratio outputs, a pod's pending area. -/

@[simp] theorem mereDisturbed_podShed (s : State) (cause : Byte) : (mereDisturbed s cause).podShed = s.podShed := by simp [mereDisturbed]
@[simp] theorem encEmit_podShed (s : State) (e : Fin 64) (isUp : Bool) (ev : MereEvent) : (encEmit s e isUp ev).podShed = s.podShed := by
  simp [encEmit]
@[simp] theorem encTake_podShed (s : State) (e : Fin 64) (v : F32) : (encTake s e v).podShed = s.podShed := by simp [encTake]
@[simp] theorem encodeRecord_podShed (s : State) (r : Record) : (encodeRecord s r).podShed = s.podShed := by simp [encodeRecord]
@[simp] theorem calCollect_podShed (s : State) (r : Record) : (calCollect s r).podShed = s.podShed := by
  unfold calCollect
  split <;> simp
@[simp] theorem ratioNote_podShed (s : State) (n : Fin 2) : (ratioNote s n).podShed = s.podShed := by simp [ratioNote]
@[simp] theorem ratioMiss_podShed (s : State) (n : Fin 2) : (ratioMiss s n).podShed = s.podShed := by simp [ratioMiss]
@[simp] theorem podTake_chainShed (p : Pod) (clk : Nat) (r : Record) : (podTake p clk r).chainShed = p.chainShed := by
  simp only [podTake, backlogPut]
  (repeat' split) <;> rfl

/-! The path of a record. -/

@[simp] theorem modEntry_podShed (s : State) (v : Vcn) (f : VcnEntry → VcnEntry) : (modEntry s v f).podShed = s.podShed := rfl
@[simp] theorem skipVcn_podShed (s : State) (v : Vcn) : (skipVcn s v).podShed = s.podShed := by simp [skipVcn]
@[simp] theorem keepRecord_podShed (s : State) (r : Record) : (keepRecord s r []).podShed = s.podShed := by simp [keepRecord]
@[simp] theorem storeRecord_podShed (s : State) (r : Record) : (storeRecord s r []).podShed = s.podShed := by
  unfold storeRecord
  (repeat' split) <;> simp
@[simp] theorem ownRecord_podShed (s : State) (idx : Nat) (x : F32) (raw : BitVec 32) (b : StatusBits) :
    (ownRecord s idx x raw b []).podShed = s.podShed := by
  simp only [ownRecord]
  split <;> simp
@[simp] theorem emitRecord_podShed (s : State) (idx : Nat) (x : F32) (raw : BitVec 32) (b : StatusBits) :
    (emitRecord s idx x raw b [] []).podShed = s.podShed := ownRecord_podShed ..

@[simp] theorem filmValue_podShed (s : State) (n : Fin 6) (r : Rat) : (filmValue s n r).1.podShed = s.podShed := by
  simp only [filmValue]
  (repeat' split) <;> rfl

theorem auxValue_podShed {s : State} {n : Fin 4} {c : AuxConv} {p : State × F32} (h : auxValue s n c = some p) : p.1.podShed = s.podShed := by
  unfold auxValue at h
  split at h
  · obtain ⟨e, -, rfl⟩ := Option.map_eq_some_iff.1 h
    split <;> rfl
  · obtain ⟨e, -, rfl⟩ := Option.map_eq_some_iff.1 h
    rfl
  · cases h
    rfl

section
variable {o : BoundaryObs} (hl : o.lin = []) (hb : o.bad = [])
include hl hb

theorem filmRecord_podShed (s : State) (n : Fin 6) (e : WeirEnd) (shadowed bad : Bool) :
    (filmRecord s n e shadowed bad o).podShed = s.podShed := by
  unfold filmRecord
  rw [hl, hb]
  split <;> simp

theorem heaterRecord_podShed (s : State) (n : Fin 6) : (heaterRecord s n o).podShed = s.podShed := by
  have h : (if s.mox[n].nR = 0 ∨ s.mox[n].nT = 0 then drawFree s else (0, s)).2.podShed = s.podShed := by split <;> rfl
  unfold heaterRecord
  rw [hl, hb]
  exact (emitRecord_podShed ..).trans h

theorem auxRecord_podShed (s : State) (n : Fin 4) : (auxRecord s n o).podShed = s.podShed := by
  unfold auxRecord
  rw [hl, hb]
  split
  · exact skipVcn_podShed ..
  · split
    · exact skipVcn_podShed ..
    · next h => exact (emitRecord_podShed ..).trans (auxValue_podShed h)

theorem indexRecord_podShed (g : Ending) (s : State) (i : Nat) : (indexRecord o g s i).podShed = s.podShed := by
  simp only [indexRecord, electrodeRecord, tempRecord, supplyRecord, skipOwn, hl, hb]
  (repeat' split) <;>
    simp only [skipVcn_podShed, emitRecord_podShed, filmRecord_podShed hl hb, heaterRecord_podShed hl hb, auxRecord_podShed hl hb]

end

/-! What ends at a boundary, where the shadow compares nothing. -/

theorem latchPath_podShed {o : BoundaryObs} {w : Fin 23} (hs : o.weirs[w].shadow = none) (a : State × Vector PathTurn 23) :
    (latchPath o a w).1.podShed = a.1.podShed := by
  have fed (s : State) (w : Fin 16) (r : Fin 4) (ovr : Bool) (l : List TonePacket) : (toneFeed s w r ovr l).podShed = s.podShed := by
    simp [toneFeed]
  have ended (s : State) (w : Fin 23) (div : Nat) (q : WeirObs) : (weirEnd s w div q).1.podShed = s.podShed := rfl
  simp only [latchPath, hs, shadowCompare]
  (repeat' split) <;> simp only [fed, ended]

theorem latchTone_podShed (v : Vector PathTurn 23) (a : State × Vector (Option ToneEnd) 8) (ch : Fin 8) :
    (latchTone v a ch).1.podShed = a.1.podShed := by
  have result (s : State) : (toneResult s ch).1.podShed = s.podShed := by
    simp only [toneResult]
    split <;> rfl
  simp only [latchTone, toneClose]
  (repeat' split)
  · rfl
  · rfl
  · exact result _

theorem latchAll_podShed {o : BoundaryObs} (hs : ∀ w : Fin 23, o.weirs[w].shadow = none) (s : State) : (latchAll s o).1.podShed = s.podShed := by
  have hp := foldl_keeps (fun a : State × Vector PathTurn 23 => a.1.podShed) (latchPath o) (fun a w => latchPath_podShed (hs w) a)
    (List.finRange 23) (s, Vector.replicate 23 .stays)
  unfold latchAll
  generalize (List.finRange 23).foldl (latchPath o) (s, Vector.replicate 23 .stays) = p at hp ⊢
  have hq := foldl_keeps (fun a : State × Vector (Option ToneEnd) 8 => a.1.podShed) (latchTone p.2) (latchTone_podShed p.2) (List.finRange 8)
    (p.1, Vector.replicate 8 none)
  dsimp only at hp hq ⊢
  generalize (List.finRange 8).foldl (latchTone p.2) (p.1, Vector.replicate 8 none) = q at hq ⊢
  have hm : (readyMeans q.1).podShed = q.1.podShed := by
    have hd := readyMeans_draws q.1
    unfold DrawsMeans at hd
    rw [hd]
    rfl
  rw [podShed_ite, hm, ite_self, hq, hp]

/-- At a boundary the records leave the indication. -/
theorem boundaryRecords_podShed {o : BoundaryObs} (hs : ∀ w : Fin 23, o.weirs[w].shadow = none) (hl : o.lin = []) (hb : o.bad = []) (s : State) :
    (boundaryRecords o (latchAll s o).2 (latchAll s o).1).podShed = s.podShed :=
  (foldl_podShed _ (indexRecord_podShed hl hb _) _ _).trans (latchAll_podShed hs s)

end Sys2Proof.Machine

namespace Sys2Proof.Machine

/-! What the turn of the other paths leaves of a film's path and of the AUX path. -/

/-- What the turn of a film or of AUX writes, and Course, which sheds a pod's heaters. -/
structure PathParts where
  weirs : Vector Weir 23
  aux : Aux
  mox : Vector Mox 6
  results : List (Vcn × VcnEntry)
  course : Course

/-- Those parts of a state. -/
def State.pathParts (s : State) : PathParts := ⟨s.weirs, s.aux, s.mox, s.results, s.course⟩

@[simp] theorem pathParts_mk (x0 x1 x2 x3 x4 x5 x6 x7 x8 x9 x10 x11 x12 x13 x14 x15 x16 x17 x18 x19 x20 x21 x22 x23 x24 x25 x26 x27 x28 x29 x30 x31 x32 x33 x34 x35 x36 x37) :
    (State.mk x0 x1 x2 x3 x4 x5 x6 x7 x8 x9 x10 x11 x12 x13 x14 x15 x16 x17 x18 x19 x20 x21 x22 x23 x24 x25 x26 x27 x28 x29 x30 x31 x32 x33 x34 x35 x36 x37).pathParts =
      ⟨x18, x21, x22, x33, x30⟩ := rfl

@[simp] theorem pathParts_fold (s : State) : (⟨s.weirs, s.aux, s.mox, s.results, s.course⟩ : PathParts) = s.pathParts := rfl

@[simp] theorem pathParts_ite (c : Prop) [Decidable c] (a b : State) : (if c then a else b).pathParts = if c then a.pathParts else b.pathParts :=
  apply_ite _ _ _ _

@[simp] theorem raise_pathParts (s : State) (ev : Fin 32) (arg : Nat) : (raise s ev arg).pathParts = s.pathParts := rfl

@[simp] theorem clearFault_pathParts (s : State) (code : Fin 28) : (clearFault s code).pathParts = s.pathParts := by
  have h := clearFault_clear s code
  unfold ClearOnly at h
  rw [h]
  rfl

@[simp] theorem shadowTurn_pathParts (s : State) (w : Fin 23) : (shadowTurn s w).pathParts = s.pathParts := by
  have passed (s : State) : (visitPassed s w).pathParts = s.pathParts := by simp [visitPassed]
  have begun (s : State) (p : Fin 23) : (beginVisit s p).pathParts = s.pathParts := rfl
  have ended (s : State) : (endVisit s w).pathParts = s.pathParts := by
    simp only [endVisit]
    split <;> simp [passed, begun]
  simp [shadowTurn, begun, ended]

@[simp] theorem toneTurn_pathParts (s : State) (ch : Fin 8) (dropped : Bool) (e : Option ToneEnd) :
    (toneTurn s ch dropped e).pathParts = s.pathParts := by
  unfold toneTurn
  (repeat' split) <;> simp [toneFinish, toneOpen, toneBands, toneNext]

@[simp] theorem episodeTurn_pathParts (s : State) : (episodeTurn s).pathParts = s.pathParts := by simp [episodeTurn, classEpisode]

@[simp] theorem noteSystemFrame_pathParts (s : State) : (noteSystemFrame s).pathParts = s.pathParts := by
  unfold noteSystemFrame
  split <;> rfl

@[simp] theorem systemEvent_pathParts (s : State) : (systemEvent s).pathParts = s.pathParts := by
  unfold systemEvent
  dsimp only
  (repeat' split) <;> rfl

/-- From `s` to `t` frames turn, but not that of path `p`: its Weir stays, of a film also its heater and entry, of AUX also its visits. Course stays,
and with it the chain-shed indication. -/
structure PathStays (p : Fin 23) (s t : State) : Prop where
  core : t.core = { s.core with weirs := t.weirs, results := t.results }
  weir : t.weirs[p] = s.weirs[p]
  mox : ∀ n, weirOfFilm n = p → t.mox[n] = s.mox[n]
  entry : ∀ n : Fin 6, weirOfFilm n = p → entryOf t (ownVcn s (0x10 + n.val)) = entryOf s (ownVcn s (0x10 + n.val))
  aux : p = 22 → t.aux = s.aux
  course : t.course = s.course

theorem PathStays.refl (p : Fin 23) (s : State) : PathStays p s s := ⟨rfl, rfl, fun _ _ => rfl, fun _ _ => rfl, fun _ => rfl, rfl⟩

theorem PathStays.trans {p : Fin 23} {s t u : State} (h : PathStays p s t) (k : PathStays p t u) : PathStays p s u where
  core := by rw [k.core, h.core]
  weir := k.weir.trans h.weir
  mox n hn := (k.mox n hn).trans (h.mox n hn)
  entry n hn := by
    have := k.entry n hn
    rw [ownVcn_of_core h.core] at this
    exact this.trans (h.entry n hn)
  aux hp := (k.aux hp).trans (h.aux hp)
  course := k.course.trans h.course

/-- A step that keeps all of those parts. -/
theorem PathStays.of_parts {p : Fin 23} {s t : State} (h : Turns (fun _ => False) s t) (k : t.pathParts = s.pathParts) : PathStays p s t where
  core := h.core
  weir := congrArg (fun x : PathParts => x.weirs[p]) k
  mox n _ := congrArg (fun x : PathParts => x.mox[n]) k
  entry n _ := entryOf_of_results (congrArg PathParts.results k) _
  aux _ := congrArg PathParts.aux k
  course := congrArg PathParts.course k

/-- The frame of an index that is not film `p`'s turns. -/
theorem turnVcn_pathStays {p : Fin 23} (s : State) {idx : Nat} (hi : idx < 256) (h : ∀ n : Fin 6, weirOfFilm n = p → 0x10 + n.val ≠ idx) :
    PathStays p s (turnVcn s idx) where
  core := rfl
  weir := rfl
  mox _ _ := rfl
  entry n hn := by
    rw [entryOf_turnVcn, if_neg]
    exact fun e => h n hn (ownVcn_inj (by omega) hi e)
  aux _ := rfl
  course := rfl

section
variable {p q : Fin 23} (s : State) (h : q ≠ p)
include h

/-- The Weir of another path changes. -/
theorem weirs_pathStays (f : Weir → Weir) : PathStays p s { s with weirs := vmod s.weirs q f } where
  core := rfl
  weir := by
    show (vmod s.weirs q f)[p] = s.weirs[p]
    rw [vmod_get, if_neg h]
  mox _ _ := rfl
  entry _ _ := rfl
  aux _ := rfl
  course := rfl

theorem weirStart_pathStays : PathStays p s (weirStart s q) := weirs_pathStays s h _
theorem weirTurn_pathStays (r : Fin 4) : PathStays p s (weirTurn s q r) := weirs_pathStays s h _
theorem weirAfterStep_pathStays : PathStays p s (weirAfterStep s q) := (weirs_pathStays s h _).trans (weirs_pathStays _ h _)

end

theorem shadowTurn_pathStays (p : Fin 23) (s : State) (w : Fin 23) : PathStays p s (shadowTurn s w) :=
  .of_parts (shadowTurn_turns _ s w) (shadowTurn_pathParts s w)

theorem burnTurn_pathStays (p : Fin 23) (s : State) (i : BurnInput) : PathStays p s (burnTurn s i) := .of_parts (burnTurn_turns _ s i) rfl

theorem weirOfFilm_inj {m n : Fin 6} (h : weirOfFilm m = weirOfFilm n) : m = n := by
  have := congrArg Fin.val h
  simp only [weirOfFilm] at this
  exact Fin.ext (by omega)

theorem weirOfFilm_ne_aux (n : Fin 6) : weirOfFilm n ≠ 22 := fun e => by
  have := congrArg Fin.val e
  simp only [weirOfFilm] at this
  omega

/-! The turn of each kind of path, as another path sees it. -/

/-- An electrode turns. -/
theorem electrodeTurn_pathStays {p : Fin 23} (s : State) (w : Fin 16) (t : PathTurn) (e : Option ToneEnd) (h : weirOfWe w ≠ p) :
    PathStays p s (electrodeTurn s w t e) := by
  unfold electrodeTurn
  extract_lets f ch shared tail close
  have hshared (s : State) : PathStays p s (shared s) := by
    have hv : PathStays p s (shadowTurn (turnVcn s w.val) f) := (turnVcn_pathStays s (by omega) (by omega)).trans (shadowTurn_pathStays p _ f)
    unfold shared
    dsimp only
    split
    · exact hv.trans ((turnVcn_pathStays _ (by omega) (by omega)).trans (turnVcn_pathStays _ (by omega) (by omega)))
    · exact hv
  have htail (s : State) : PathStays p s (tail s) := by
    unfold tail
    split
    · exact .of_parts (ec_turns _ s ch _ fun _ => rfl) rfl
    · exact .refl p s
  have hclose (s : State) (dropped : Bool) : PathStays p s (close s dropped) := by
    unfold close
    split
    · exact (htail s).trans (.of_parts (toneTurn_turns ..) (toneTurn_pathParts ..))
    · exact .refl p s
  cases t with
  | stays | auxEnded => exact .refl p s
  | starts => exact ((weirStart_pathStays s h).trans (hshared _)).trans (htail _)
  | dropped => exact ((weirAfterStep_pathStays s h).trans (hshared _)).trans (hclose _ true)
  | ended x sh bad => exact ((weirTurn_pathStays s h _).trans (hshared _)).trans (hclose _ false)

/-- A film's heater at its boundary. -/
theorem moxBoundary_pathStays {p : Fin 23} (s : State) (m : Fin 6) (h : weirOfFilm m ≠ p) : PathStays p s (moxBoundary s m) where
  core := rfl
  weir := rfl
  mox n hn := by
    have hv : m.val ≠ n.val := fun e => h (by rw [Fin.ext e, hn])
    exact Vector.getElem_set_ne m.isLt n.isLt hv
  entry _ _ := rfl
  aux _ := rfl
  course := rfl

/-- What follows the turn of a film's Weir, without its heater's side. -/
def filmShared (s : State) (m : Fin 6) : State := shadowTurn (turnVcn (turnVcn s (0x10 + m.val)) (0x18 + m.val)) (weirOfFilm m)

/-- Another film turns. -/
theorem filmTurn_pathStays {p : Fin 23} (s : State) (m : Fin 6) (t : PathTurn) (h : weirOfFilm m ≠ p) : PathStays p s (filmTurn s m t) := by
  have hne (n : Fin 6) (hn : weirOfFilm n = p) : n.val ≠ m.val := fun e => h (by rw [← Fin.ext e, hn])
  have hshared (s : State) : PathStays p s (filmShared s m) := by
    refine ((turnVcn_pathStays s (by omega) fun n hn => ?_).trans (turnVcn_pathStays _ (by omega) fun n hn => ?_)).trans
      (shadowTurn_pathStays p _ _)
    · have := hne n hn
      omega
    · omega
  have hburn (s : State) : PathStays p s (moxBoundary (burnTurn s (.film m)) m) :=
    (burnTurn_pathStays p s _).trans (moxBoundary_pathStays _ m h)
  cases t with
  | stays | auxEnded => exact .refl p s
  | starts => exact ((weirStart_pathStays s h).trans (hshared _)).trans (moxBoundary_pathStays _ m h)
  | dropped => exact ((weirAfterStep_pathStays s h).trans (hshared _)).trans (hburn _)
  | ended x sh bad => exact ((weirTurn_pathStays s h _).trans (hshared _)).trans (hburn _)

/-- A change of AUX is none of a film's. -/
theorem aux_pathStays {p : Fin 23} (s : State) (a : Aux) (h : 22 ≠ p) : PathStays p s { s with aux := a } :=
  ⟨rfl, rfl, fun _ _ => rfl, fun _ _ => rfl, fun e => absurd e.symm h, rfl⟩

/-- The burn-out periods of every AUX input count. -/
def auxBurns (s : State) : State := (auxInputs s).foldl (fun s n => burnTurn s (.aux n)) s

theorem auxBurns_pathStays (p : Fin 23) (s : State) : PathStays p s (auxBurns s) :=
  foldl_rel _ (.refl p) .trans _ (fun s n => burnTurn_pathStays p s (.aux n)) _ s

theorem auxCompliance_pathStays {p : Fin 23} (s : State) (hit : Bool) (h : 22 ≠ p) : PathStays p s (auxCompliance s hit) := by
  unfold auxCompliance
  split
  · exact .refl p s
  · have hu := aux_pathStays s { s.aux with episode := hit } h
    dsimp only
    split
    · exact hu.trans (.of_parts (.of_quiet (raise_quiet ..)) (raise_pathParts ..))
    · exact hu

/-- The frame sequences of the AUX inputs turn. -/
def auxSequences (s : State) : State := (auxInputs s).foldl (fun s n => turnVcn s (0x20 + n.val)) s

theorem auxSequences_pathStays (p : Fin 23) (s : State) : PathStays p s (auxSequences s) :=
  foldl_rel _ (.refl p) .trans _ (fun s n => turnVcn_pathStays s (by omega) (by omega)) _ s

/-- The next AUX frame: no input counts as converted, EXS is to be converted anew, and the first visit begins (R226, R230). -/
def auxAnew (s : State) : Aux := { s.aux with exs := none, conv := Vector.replicate 4 none, visits := 0, visitClk := s.clk }

/-- What follows the turn of AUX's Weir. -/
def auxShared (s : State) : State := shadowTurn { auxSequences s with aux := auxAnew (auxSequences s) } 22

theorem auxPathTurn_eq (s : State) (o : BoundaryObs) (t : PathTurn) : auxPathTurn s o t = match t with
    | .stays | .ended _ _ _ => s
    | .starts => auxShared (weirStart s 22)
    | .dropped => auxShared (auxBurns (weirAfterStep s 22))
    | .auxEnded => auxShared (weirTurn (auxBurns (auxCompliance s (atCompliance s o))) 22 3) := by
  cases t <;> rfl

/-- AUX turns, as a film sees it. -/
theorem auxPathTurn_pathStays {p : Fin 23} (s : State) (o : BoundaryObs) (t : PathTurn) (h : 22 ≠ p) : PathStays p s (auxPathTurn s o t) := by
  have hshared (s : State) : PathStays p s (auxShared s) :=
    ((auxSequences_pathStays p s).trans (aux_pathStays _ _ h)).trans (shadowTurn_pathStays p _ 22)
  rw [auxPathTurn_eq]
  cases t with
  | stays | ended => exact .refl p s
  | starts => exact (weirStart_pathStays s h).trans (hshared _)
  | dropped => exact ((weirAfterStep_pathStays s h).trans (auxBurns_pathStays p _)).trans (hshared _)
  | auxEnded => exact (((auxCompliance_pathStays s _ h).trans (auxBurns_pathStays p _)).trans (weirTurn_pathStays _ h 3)).trans (hshared _)

theorem pathOf_weirOfFilm (n : Fin 6) : pathOf (weirOfFilm n) = .film n := by
  unfold pathOf weirOfFilm
  rw [dif_neg (by simp), dif_pos (by show 16 + n.val < 22; omega)]
  exact congrArg Path.film (Fin.ext (by simp))

theorem weirOfFilm_of_pathOf {p : Fin 23} {n : Fin 6} (h : pathOf p = .film n) : weirOfFilm n = p := by
  unfold pathOf at h
  split at h
  · cases h
  · split at h
    · cases h
      exact Fin.ext (Nat.add_sub_cancel' (by omega))
    · cases h

theorem aux_of_pathOf {p : Fin 23} (h : pathOf p = .aux) : 22 = p := by
  unfold pathOf at h
  split at h
  · cases h
  · split at h
    · cases h
    · exact Fin.ext (by show 22 = p.val; omega)

theorem pathTurn_pathStays (o : BoundaryObs) (g : Ending) (s : State) {p q : Fin 23} (h : q ≠ p) : PathStays p s (pathTurn o g s q) := by
  unfold pathTurn
  split
  · next w hw => exact electrodeTurn_pathStays s w _ _ (weirOfWe_of_pathOf hw ▸ h)
  · next n hn => exact filmTurn_pathStays s n _ (weirOfFilm_of_pathOf hn ▸ h)
  · next ha => exact auxPathTurn_pathStays s o _ (aux_of_pathOf ha ▸ h)

/-! The node's own frame. -/

theorem systemIndices_above : ∀ i ∈ systemIndices, 0x28 ≤ i ∧ i < 256 := by decide

theorem turnSystem_pathStays (p : Fin 23) (s : State) : PathStays p s (turnSystem s) := by
  have turn (l : List Nat) (hl : ∀ i ∈ l, 0x28 ≤ i ∧ i < 256) (s : State) : PathStays p s (l.foldl turnVcn s) := by
    induction l generalizing s with
    | nil => exact .refl p s
    | cons i l ih =>
      obtain ⟨h1, h2⟩ := hl i List.mem_cons_self
      exact (turnVcn_pathStays s h2 (by omega)).trans (ih (fun j hj => hl j (List.mem_cons_of_mem i hj)) _)
  have starts : PathStays p s { s with sysOn := true, sysDrop := false, sysClk := some s.clk } := .of_parts (.of_core_ks rfl rfl) rfl
  have sums (s : State) : PathStays p s { s with thermal := { s.thermal with frameSum := Vector.replicate 8 0, frameN := 0 } } :=
    .of_parts (.of_core_ks rfl rfl) rfl
  exact (starts.trans (turn systemIndices systemIndices_above _)).trans (sums _)

theorem ownTurn_pathStays (p : Fin 23) (g : SystemTurn) (s : State) : PathStays p s (ownTurn g s) := by
  cases g with
  | stays => exact .refl p s
  | starts | dropped => exact turnSystem_pathStays p s
  | ended =>
    exact ((PathStays.of_parts (noteSystemFrame_turns _ s) (by simp)).trans (.of_parts (systemEvent_turns _ _) (by simp))).trans
      (turnSystem_pathStays p _)

theorem episodeTurn_pathStays (p : Fin 23) (s : State) : PathStays p s (episodeTurn s) :=
  .of_parts ((episodeTurn_turns s).mono fun _ h => h.elim) (episodeTurn_pathParts s)

end Sys2Proof.Machine

namespace Sys2Proof.Machine

/-! A film's own turn, and that of AUX. -/

/-- What a film frame gathers for its heater record (R262, R269). -/
structure HeaterFrame where
  good : Bool
  sumR : Rat
  nR : Nat
  sumDuty : Rat
  sumT : Rat
  nT : Nat

/-- That part of a heater. -/
def Mox.frame (m : Mox) : HeaterFrame := ⟨m.frameGood, m.sumR, m.nR, m.sumDuty, m.sumT, m.nT⟩

/-- A frame that holds no measurement yet. -/
def HeaterFrame.empty (good : Bool) : HeaterFrame := ⟨good, 0, 0, 0, 0, 0⟩

theorem startProfile_frame (s : State) (n : Fin 6) (m : Mox) : (startProfile s n m).frame = m.frame := rfl

theorem stepAt_frame (s : State) (n : Fin 6) (m : Mox) (k : Nat) : (stepAt s n m k).frame = m.frame := by
  unfold stepAt
  dsimp only
  split <;> rfl

/-- A film frame boundary empties the heater's frame, whatever the profile does there. -/
theorem moxBoundary_frame (s : State) (n : Fin 6) : (moxBoundary s n).mox[n].frame = .empty (!moxShed s n) := by
  unfold moxBoundary
  extract_lets m0 m1 m2 m3
  have h1 : m1.frame = .empty (!moxShed s n) := rfl
  have h2 : m2.frame = m1.frame := by
    unfold m2
    split
    · exact startProfile_frame ..
    · split
      · exact startProfile_frame ..
      · split
        · exact stepAt_frame ..
        · rfl
  have h3 : m3.frame = m2.frame := by
    unfold m3
    split <;> rfl
  have hm : (s.mox.set n.val m3)[n] = m3 := Vector.getElem_set_self n.isLt
  rw [hm, h3, h2, h1]

theorem moxShed_congr {s t : State} (hf : t.fixed = s.fixed) (hr : t.rail = s.rail) (hc : t.podShed = s.podShed) (n : Fin 6) :
    moxShed t n = moxShed s n := by
  simp [moxShed, railPresent, moxCrit, moxBlock, sec_congr (congrArg Fixed.config hf), hr, role_of_fixed hf, hc]

/-- The Weir of a film that turns. -/
def filmWeir (s : State) (n : Fin 6) : PathTurn → State
  | .stays | .auxEnded => s
  | .starts => weirStart s (weirOfFilm n)
  | .dropped => weirAfterStep s (weirOfFilm n)
  | .ended x _ _ => weirTurn s (weirOfFilm n) (nextRange (rangeCtl s (weirOfFilm n)) x (pathUs s (weirOfFilm n)))

theorem filmWeir_weir (s : State) (n : Fin 6) (t : PathTurn) :
    (filmWeir s n t).weirs[weirOfFilm n] = turnedWeir s (weirOfFilm n) s.weirs[weirOfFilm n] t := by
  have at_ (v : Vector Weir 23) (f : Weir → Weir) : (vmod v (weirOfFilm n) f)[weirOfFilm n] = f v[weirOfFilm n] := by
    rw [vmod_get, if_pos rfl]
  cases t with
  | stays | auxEnded => rfl
  | starts => exact at_ _ _
  | dropped => exact (at_ _ _).trans (congrArg (startedWeir s.clk) (at_ _ _))
  | ended x sh bad => exact at_ _ _

/-- A film's frame turns at the events at which an electrode's does: its Weir as theirs, its heater's frame emptied, its sequence gone on. -/
theorem filmTurn_own (s : State) (n : Fin 6) {t : PathTurn} (h : electrodeTurns t = true) :
    (filmTurn s n t).weirs[weirOfFilm n] = turnedWeir s (weirOfFilm n) s.weirs[weirOfFilm n] t ∧
      (filmTurn s n t).mox[n].frame = .empty (!moxShed s n) ∧
      entryOf (filmTurn s n t) (ownVcn s (0x10 + n.val)) = (entryOf s (ownVcn s (0x10 + n.val))).map startEntry := by
  have hw : (filmWeir s n t).mox = s.mox ∧ (filmWeir s n t).results = s.results ∧ (filmWeir s n t).course = s.course ∧
      (filmWeir s n t).fixed = s.fixed ∧ (filmWeir s n t).rail = s.rail := by
    cases t <;> exact ⟨rfl, rfl, rfl, rfl, rfl⟩
  have hweir := filmWeir_weir s n t
  obtain ⟨u, hu, hx⟩ : ∃ u : State, (u.pathParts = (filmShared (filmWeir s n t) n).pathParts ∧
      u.core = (filmShared (filmWeir s n t) n).core) ∧ filmTurn s n t = moxBoundary u n := by
    cases t with
    | stays | auxEnded => cases h
    | starts => exact ⟨_, ⟨rfl, rfl⟩, rfl⟩
    | dropped | ended => exact ⟨burnTurn _ (.film n), ⟨rfl, rfl⟩, rfl⟩
  generalize filmWeir s n t = w at hw hweir hu
  obtain ⟨-, hresults, hcourse, hfixed, hrail⟩ := hw
  obtain ⟨hparts, hcore⟩ := hu
  have hown : ownVcn w (0x10 + n.val) = ownVcn s (0x10 + n.val) := ownVcn_congr hfixed (congrArg (·.pod.addr) hcourse) _
  unfold filmShared at hparts hcore
  rw [shadowTurn_pathParts] at hparts
  rw [(shadowTurn_turns (fun _ => False) _ _).core] at hcore
  rw [hx]
  refine ⟨?_, ?_, ?_⟩
  · rw [← hweir]
    exact congrArg (fun x : PathParts => x.weirs[weirOfFilm n]) hparts
  · rw [moxBoundary_frame, moxShed_congr ((congrArg Core.fixed hcore).trans hfixed) ((congrArg Core.rail hcore).trans hrail)
      (congrArg (fun x : PathParts => x.course.pod.chainShed) hparts |>.trans (congrArg (·.pod.chainShed) hcourse))]
  · have hr : (moxBoundary u n).results = (turnVcn (turnVcn w (0x10 + n.val)) (0x18 + n.val)).results := congrArg PathParts.results hparts
    have hne : ownVcn s (0x10 + n.val) ≠ ownVcn (turnVcn w (0x10 + n.val)) (0x18 + n.val) := fun e => by
      have := ownVcn_inj (s := w) (by omega) (by omega) (hown.trans e)
      omega
    rw [entryOf_of_results hr, entryOf_turnVcn, if_neg hne, entryOf_turnVcn, if_pos hown.symm, entryOf_of_results hresults]

/-- W22 converts from now on: no input counts as converted, EXS is to be converted anew, and the first visit begins (R226, R230). -/
structure AuxBegins (clk : Nat) (s : State) : Prop where
  weir : s.weirs[(22 : Fin 23)].on = true ∧ s.weirs[(22 : Fin 23)].dropFrame = false ∧ s.weirs[(22 : Fin 23)].frameClk = some clk
  visits : s.aux.exs = none ∧ s.aux.conv = Vector.replicate 4 none ∧ s.aux.visits = 0 ∧ s.aux.visitClk = clk

theorem AuxBegins.stays {clk : Nat} {s t : State} (h : AuxBegins clk s) (k : PathStays 22 s t) : AuxBegins clk t where
  weir := by
    rw [k.weir]
    exact h.weir
  visits := by
    rw [k.aux rfl]
    exact h.visits

theorem auxShared_begins {s : State} {clk : Nat} (hk : s.clk = clk)
    (h : s.weirs[(22 : Fin 23)].on = true ∧ s.weirs[(22 : Fin 23)].dropFrame = false ∧ s.weirs[(22 : Fin 23)].frameClk = some clk) :
    AuxBegins clk (auxShared s) := by
  have hs := auxSequences_pathStays 22 s
  have hclk : (auxSequences s).clk = clk := (congrArg (fun c => c.fixed.clk) hs.core).trans hk
  refine AuxBegins.stays ⟨?_, rfl, rfl, rfl, hclk⟩ (shadowTurn_pathStays 22 { auxSequences s with aux := auxAnew (auxSequences s) } 22)
  rw [show ({ auxSequences s with aux := auxAnew (auxSequences s) } : State).weirs = (auxSequences s).weirs from rfl, hs.weir]
  exact h

/-- AUX at its boundary: a first frame, one after a Plumb step, or one after a whole frame begins in the same way. -/
theorem auxPathTurn_begins (s : State) (o : BoundaryObs) {t : PathTurn} (h : t = .starts ∨ t = .dropped ∨ t = .auxEnded) :
    AuxBegins s.clk (auxPathTurn s o t) := by
  have at_ (v : Vector Weir 23) (f : Weir → Weir) : (vmod v 22 f)[(22 : Fin 23)] = f v[(22 : Fin 23)] := by rw [vmod_get, if_pos rfl]
  have burns (s : State) : (auxBurns s).weirs[(22 : Fin 23)] = s.weirs[(22 : Fin 23)] ∧ (auxBurns s).clk = s.clk :=
    ⟨(auxBurns_pathStays 22 s).weir, congrArg (fun c => c.fixed.clk) (auxBurns_pathStays 22 s).core⟩
  rw [auxPathTurn_eq]
  rcases h with rfl | rfl | rfl
  · refine auxShared_begins rfl ?_
    rw [weirStart, at_]
    exact ⟨rfl, rfl, rfl⟩
  · refine auxShared_begins (burns _).2 ?_
    rw [(burns _).1, weirAfterStep, weirStart, at_]
    exact ⟨rfl, rfl, rfl⟩
  · have hk : (auxBurns (auxCompliance s (atCompliance s o))).clk = s.clk :=
      (burns _).2.trans (congrArg (fun c => c.fixed.clk) (auxCompliance_turns (fun _ => False) s _).core)
    refine auxShared_begins hk ?_
    rw [weirTurn, at_, hk]
    exact ⟨rfl, rfl, rfl⟩

end Sys2Proof.Machine

namespace Sys2Proof.Machine

/-! A boundary as a film's path and AUX see it. -/

theorem RecordTime.moxes {s u : State} (h : RecordTime s u) : u.mox = s.mox := congrArg Quiet.mox h

theorem RecordTime.auxes {s u : State} (h : RecordTime s u) : u.aux = s.aux := congrArg Quiet.aux h

/-- The state of a boundary whose records are written. -/
def recordsWritten (s : State) (o : BoundaryObs) : State := boundaryRecords o (latchAll s o).2 (latchAll s o).1

/-- After the records each path turns once, and nothing else touches a film's path or AUX. -/
theorem boundaryTurned_path (s : State) (o : BoundaryObs) (p : Fin 23) : ∃ v, PathStays p (recordsWritten s o) v ∧
    PathStays p (pathTurn o (latchAll s o).2 v p) (boundaryTurned s o) := by
  unfold boundaryTurned recordsWritten
  generalize latchAll s o = a
  obtain ⟨l, g⟩ := a
  dsimp only
  generalize boundaryRecords o g l = r
  obtain ⟨v, hv, hpaths⟩ := foldl_once (PathStays p) (.refl p) .trans (pathTurn o g) (w := p) (l := List.finRange 23)
    (fun s q _ hq => pathTurn_pathStays o g s hq) (List.nodup_finRange 23) (List.mem_finRange p) (episodeTurn r)
  exact ⟨v, (episodeTurn_pathStays p _).trans hv, hpaths.trans (ownTurn_pathStays p _ _)⟩

section
variable {s : State} {o : BoundaryObs} (hs : ∀ w : Fin 23, o.weirs[w].shadow = none) (hl : o.lin = []) (hb : o.bad = [])
include hs hl hb

theorem recordsWritten_time : RecordTime s (recordsWritten s o) := boundaryRecords_time hs hl hb

theorem recordsWritten_podShed : (recordsWritten s o).podShed = s.podShed := boundaryRecords_podShed hs hl hb s

theorem recordsWritten_weir (p : Fin 23) : (recordsWritten s o).weirs[p] = weirHere s o p := by
  obtain ⟨-, hweir, -⟩ := latchAll_path hs s p
  have hq := boundaryRecords_quiet hl hb (latchAll s o).2 (latchAll s o).1
  unfold recordsWritten
  rw [← hweir]
  generalize boundaryRecords o (latchAll s o).2 (latchAll s o).1 = r at hq ⊢
  generalize (latchAll s o).1 = l at hq ⊢
  exact congrArg (fun q : Quiet => q.weirs[p]) hq

/-- A film whose frame goes on. -/
theorem boundaryTurned_film_stays {n : Fin 6} (ht : turnHere s o (weirOfFilm n) = .stays) :
    (boundaryTurned s o).weirs[weirOfFilm n] = s.weirs[weirOfFilm n] ∧ (boundaryTurned s o).mox[n] = s.mox[n] := by
  obtain ⟨-, -, hturn⟩ := latchAll_path hs s (weirOfFilm n)
  obtain ⟨v, hv, hafter⟩ := boundaryTurned_path s o (weirOfFilm n)
  have hpath : pathTurn o (latchAll s o).2 v (weirOfFilm n) = v := by
    unfold pathTurn
    rw [pathOf_weirOfFilm, hturn, ht]
    rfl
  rw [hpath] at hafter
  have hk := hv.trans hafter
  refine ⟨hk.weir.trans ((recordsWritten_weir hs hl hb _).trans ?_), (hk.mox n rfl).trans ?_⟩
  · unfold weirHere
    rw [ht]
  · rw [(recordsWritten_time hs hl hb).moxes]

/-- A film whose frame turns: its Weir, what its heater gathers, and its entry. -/
theorem boundaryTurned_film {n : Fin 6} (ht : electrodeTurns (turnHere s o (weirOfFilm n)) = true) :
    (boundaryTurned s o).weirs[weirOfFilm n] =
        turnedWeir s (weirOfFilm n) (weirHere s o (weirOfFilm n)) (turnHere s o (weirOfFilm n)) ∧
      (boundaryTurned s o).mox[n].frame = .empty (!moxShed s n) ∧
      entryOf (boundaryTurned s o) (ownVcn s (0x10 + n.val)) = (entryOf (recordsWritten s o) (ownVcn s (0x10 + n.val))).map startEntry := by
  obtain ⟨-, -, hturn⟩ := latchAll_path hs s (weirOfFilm n)
  obtain ⟨v, hv, hafter⟩ := boundaryTurned_path s o (weirOfFilm n)
  have hr := recordsWritten_time (s := s) hs hl hb
  have hrs := recordsWritten_podShed (s := s) hs hl hb
  have hrw := recordsWritten_weir (s := s) hs hl hb (weirOfFilm n)
  generalize recordsWritten s o = r at hv hr hrs hrw ⊢
  have hpath : pathTurn o (latchAll s o).2 v (weirOfFilm n) = filmTurn v n (turnHere s o (weirOfFilm n)) := by
    unfold pathTurn
    rw [pathOf_weirOfFilm, hturn]
  rw [hpath] at hafter
  obtain ⟨hweir, hframe, hentry⟩ := filmTurn_own v n ht
  have hcore : v.core = { s.core with weirs := v.weirs, results := v.results } := by rw [hv.core, hr.core]
  have hfixed : v.fixed = s.fixed := congrArg Core.fixed hcore
  have hshed : v.podShed = s.podShed := (congrArg (·.pod.chainShed) hv.course).trans hrs
  have hvr : ownVcn r (0x10 + n.val) = ownVcn s (0x10 + n.val) := ownVcn_of_core hr.core _
  have hvv : ownVcn v (0x10 + n.val) = ownVcn s (0x10 + n.val) := ownVcn_of_core hcore _
  have hvt : ownVcn (filmTurn v n (turnHere s o (weirOfFilm n))) (0x10 + n.val) = ownVcn s (0x10 + n.val) :=
    (ownVcn_of_core (filmTurn_turns v n _).core _).trans hvv
  have hve := hv.entry n rfl
  have hae := hafter.entry n rfl
  rw [hvr] at hve
  rw [hvv, hve] at hentry
  rw [hvt, hentry] at hae
  refine ⟨?_, ?_, hae⟩
  · rw [hafter.weir, hweir, hv.weir, hrw]
    exact turnedWeir_congr (congrArg Fixed.clk hfixed) (congrArg Fixed.config hfixed) (congrArg Core.mode hcore) ..
  · rw [hafter.mox n rfl, hframe, moxShed_congr hfixed (congrArg Core.rail hcore) hshed]

/-- AUX at its boundary. -/
theorem boundaryTurned_aux (ht : turnHere s o 22 = .starts ∨ turnHere s o 22 = .dropped ∨ turnHere s o 22 = .auxEnded) :
    AuxBegins s.clk (boundaryTurned s o) := by
  obtain ⟨-, -, hturn⟩ := latchAll_path hs s 22
  obtain ⟨v, hv, hafter⟩ := boundaryTurned_path s o 22
  have hpath : pathTurn o (latchAll s o).2 v 22 = auxPathTurn v o (turnHere s o 22) := by
    unfold pathTurn
    rw [show pathOf 22 = .aux from rfl, hturn]
  have hk : v.clk = s.clk := by
    rw [show v.clk = v.core.fixed.clk from rfl, hv.core, (recordsWritten_time hs hl hb).core]
    rfl
  rw [hpath] at hafter
  rw [← hk]
  exact (auxPathTurn_begins v o ht).stays hafter

end

/-! The record of a film's frame. -/

/-- The record, if any, of a film. -/
def filmEntry (o : BoundaryObs) (s : State) (n : Fin 6) : PathTurn → State
  | .dropped => skipOwn s (0x10 + n.val)
  | .ended x sh bad => if s.mox[n].frameSample || s.mox[n].override != .none then filmRecord s n x sh bad o else skipOwn s (0x10 + n.val)
  | _ => s

theorem indexRecord_film (o : BoundaryObs) (g : Ending) (s : State) (n : Fin 6) :
    indexRecord o g s (0x10 + n.val) = filmEntry o s n g.paths[weirOfFilm n] := by
  have hn : (⟨0x10 + n.val - 0x10, by omega⟩ : Fin 6) = n := Fin.ext (by simp)
  unfold indexRecord
  rw [dif_neg (by omega), dif_pos (by omega)]
  simp only [hn]
  generalize g.paths[weirOfFilm n] = t
  cases t <;> rfl

/-- Outside a SAMPLE step and without a commanded target a film frame that ends writes no record (R258). -/
theorem recordsWritten_film {s : State} {o : BoundaryObs} (hs : ∀ w : Fin 23, o.weirs[w].shadow = none) (hl : o.lin = []) (hb : o.bad = [])
    {n : Fin 6} {x : WeirEnd} {sh bad : Bool} (ht : turnHere s o (weirOfFilm n) = .ended x sh bad) (hf : s.mox[n].frameSample = false)
    (ho : s.mox[n].override = .none) :
    entryOf (recordsWritten s o) (ownVcn s (0x10 + n.val)) = (entryOf s (ownVcn s (0x10 + n.val))).map skipEntry := by
  obtain ⟨hlatch, -, hturn⟩ := latchAll_path hs s (weirOfFilm n)
  unfold recordsWritten
  generalize latchAll s o = a at hlatch hturn ⊢
  obtain ⟨l, g⟩ := a
  dsimp only at hlatch hturn ⊢
  obtain ⟨u, hu, hrecords⟩ := foldl_once (RecordsBeside (0x10 + n.val)) (.refl _) .trans (indexRecord o g) (w := 0x10 + n.val)
    (l := List.range 0x90)
    (fun s i hi hw => (indexRecord_entryOnly hl hb g s i).beside (Ne.symm hw) (by omega) (by have := List.mem_range.1 hi; omega))
    List.nodup_range (List.mem_range.2 (by omega)) l
  have hmox : u.mox = s.mox := (congrArg Quiet.mox hu.quiet).trans (congrArg Quiet.mox hlatch)
  have hi : indexRecord o g u (0x10 + n.val) = skipOwn u (0x10 + n.val) := by
    rw [indexRecord_film, hturn, ht]
    refine if_neg ?_
    rw [hmox, hf, ho]
    decide
  have hul : ownVcn u (0x10 + n.val) = ownVcn s (0x10 + n.val) := (ownVcn_of_records hu.quiet _).trans (hlatch.ownVcn _)
  have hq := skipVcn_quiet u (ownVcn u (0x10 + n.val))
  have hx : ownVcn (skipOwn u (0x10 + n.val)) (0x10 + n.val) = ownVcn s (0x10 + n.val) :=
    (ownVcn_of_quiet (t := skipOwn u (0x10 + n.val)) hq _).trans hul
  rw [hi] at hrecords
  have he := hrecords.entry
  rw [hx] at he
  have hue := hu.entry
  rw [hlatch.ownVcn, entryOf_of_results (congrArg Quiet.results hlatch)] at hue
  have hk : entryOf (skipOwn u (0x10 + n.val)) (ownVcn s (0x10 + n.val)) = (entryOf u (ownVcn s (0x10 + n.val))).map skipEntry := by
    rw [show skipOwn u (0x10 + n.val) = skipVcn u (ownVcn u (0x10 + n.val)) from rfl, entryOf_of_quiet hq, entryOf_modEntry, hul, if_pos rfl]
  exact he.trans (hk.trans (congrArg _ hue))

end Sys2Proof.Machine

namespace Sys2Proof.Machine

/-! FilmAndAuxFrames. -/

@[simp] theorem boundaryEnd_mox (t : State) : (boundaryEnd t).mox = t.mox := by
  rw [boundaryEnd_eq]

@[simp] theorem boundaryEnd_aux (t : State) : (boundaryEnd t).aux = t.aux := by
  rw [boundaryEnd_eq]

theorem turnHere_film_ended {s : State} {n : Fin 6} (o : BoundaryObs) (hr : pathRuns s (weirOfFilm n) = true)
    (hg : onGrid s (pathUs s (weirOfFilm n)) = true) (hc : s.weirs[weirOfFilm n].frameClk ≠ some s.clk)
    (hon : s.weirs[weirOfFilm n].on = true) (hd : s.weirs[weirOfFilm n].dropFrame = false) :
    turnHere s o (weirOfFilm n) = .ended (weirEnd s (weirOfFilm n) 1 o.weirs[weirOfFilm n]).2 (visitedNow s (weirOfFilm n)) false := by
  rw [turnHere_boundary o hr hg hc, hon, hd, if_neg (by decide), if_neg (by decide), if_neg (weirOfFilm_ne_aux n),
    if_neg (show ¬(weirOfFilm n).val < 16 by simp [weirOfFilm])]

theorem turnHere_aux {s : State} (o : BoundaryObs) (hr : pathRuns s 22 = true) (hg : onGrid s (pathUs s 22) = true)
    (hc : s.weirs[(22 : Fin 23)].frameClk ≠ some s.clk) :
    turnHere s o 22 = .starts ∨ turnHere s o 22 = .dropped ∨ turnHere s o 22 = .auxEnded := by
  rw [turnHere_boundary o hr hg hc, if_pos (rfl : (22 : Fin 23) = 22)]
  split
  · exact .inl rfl
  · split
    · exact .inr (.inl rfl)
    · exact .inr (.inr rfl)

/-- The charge of a film frame, in units of Q with the carry of the one before (R181, R184). -/
def filmUnits (x : Weir) (q : WeirObs) : Rat :=
  (((q.pos.toNat : Rat) - (q.neg.toNat : Rat)) * qNom x.range +
      (residueCharge x.range q.endCode - x.residue.getD (residueCharge x.range q.startCode))) / qNom x.range +
    x.carry * qNom x.lastRange / qNom x.range

theorem weirEnd_film (s : State) (p : Fin 23) (q : WeirObs) : (weirEnd s p 1 q).1.weirs[p] = { s.weirs[p] with
    residue := some (residueCharge s.weirs[p].range q.endCode)
    carry := filmUnits s.weirs[p] q - (ratRNE (filmUnits s.weirs[p] q) : Rat), lastRange := s.weirs[p].range } := by
  unfold weirEnd filmUnits
  dsimp only
  rw [Nat.cast_one, div_one]
  generalize s.weirs[p] = x
  cases x.residue with
  | none => exact Vector.getElem_set_self p.isLt
  | some c => exact Vector.getElem_set_self p.isLt

/-- The parts of a heater's frame. -/
theorem frame_empty {m : Mox} {good : Bool} (h : m.frame = .empty good) :
    m.nR = 0 ∧ m.nT = 0 ∧ m.sumR = 0 ∧ m.sumDuty = 0 ∧ m.sumT = 0 ∧ m.frameGood = good := by
  simp only [Mox.frame, HeaterFrame.empty, HeaterFrame.mk.injEq] at h
  obtain ⟨hgood, hsumR, hnR, hsumDuty, hsumT, hnT⟩ := h
  exact ⟨hnR, hnT, hsumR, hsumDuty, hsumT, hgood⟩

/-- Settles O23: records and the turns of the other paths leave a film's Weir, heater and entry, and AUX's visits (`boundaryTurned_path`), so that
they come from its own latch, record and turn; a heater is shed after the boundary as it was before (`moxShed_congr`). -/
theorem filmAndAuxFrames : Obligations.FilmAndAuxFrames := by
  refine ⟨fun s n o hs hl hb hr hg hon hc => ?starts, fun s n o hs hl hb hr hg hon hc hd => ?ended, fun s n o hs hl hb h => ?stays,
    fun s o hs hl hb hr hg hc => ?aux⟩
  case starts =>
    have ht := turnHere_starts o hr hg hc hon
    obtain ⟨hweir, hframe, -⟩ := boundaryTurned_film hs hl hb (by rw [ht]; rfl)
    obtain ⟨hnR, hnT, hsumR, hsumDuty, hsumT, -⟩ := frame_empty hframe
    refine ⟨_, exec_frameBoundary hs hl hb, ?_⟩
    rw [boundaryEnd_weirs, boundaryEnd_mox, hweir, ht]
    refine ⟨?_, hnR, hnT, hsumR, hsumDuty, hsumT⟩
    unfold weirHere
    rw [ht]
    rfl
  case ended =>
    intro f x q r charge units
    have ht := turnHere_film_ended o hr hg hc hon hd
    obtain ⟨hweir, hframe, hentry⟩ := boundaryTurned_film hs hl hb (by rw [ht]; rfl)
    obtain ⟨hnR, hnT, hsumR, hsumDuty, hsumT, hgood⟩ := frame_empty hframe
    have hw : weirHere s o f = (weirEnd s f 1 q).1.weirs[f] := by
      unfold weirHere
      rw [ht, if_neg (show ¬f.val < 16 by simp [f, weirOfFilm])]
    refine ⟨_, nextRange (rangeCtl s f) (weirEnd s f 1 q).2 (pathUs s f), exec_frameBoundary hs hl hb, ?_, fun ha => nextRange_fixed ha _ _, ?_⟩
    · rw [boundaryEnd_weirs, hweir, hw, weirEnd_film, ht]
      unfold turnedWeir startedWeir
      rw [← hon, ← hd]
      rfl
    · rw [boundaryEnd_mox]
      refine ⟨hnR, hnT, hsumR, hsumDuty, hsumT, by rw [hgood, Bool.not_eq_true'], fun e he hf ho _ => ?_⟩
      refine ⟨startEntry (skipEntry e), ?_, rfl, rfl, rfl⟩
      rw [boundaryEnd_entry, hentry, recordsWritten_film hs hl hb ht hf ho, he]
      rfl
  case stays =>
    have ht := turnHere_stays o (h.imp_right .inl)
    obtain ⟨hweir, hmox⟩ := boundaryTurned_film_stays hs hl hb ht
    refine ⟨_, exec_frameBoundary hs hl hb, ?_⟩
    rw [boundaryEnd_weirs, boundaryEnd_mox]
    exact ⟨hweir, hmox⟩
  case aux =>
    obtain ⟨⟨hon, hdrop, hclk⟩, hexs, hconv, hvisits, hvisitClk⟩ := boundaryTurned_aux hs hl hb (turnHere_aux o hr hg hc)
    refine ⟨_, exec_frameBoundary hs hl hb, ?_⟩
    rw [boundaryEnd_weirs, boundaryEnd_aux]
    refine ⟨hon, hdrop, hclk, hexs, fun n => ?_, hvisits, hvisitClk⟩
    rw [hconv]
    exact Vector.getElem_replicate n.isLt

end Sys2Proof.Machine

namespace Sys2Proof.Machine

/-! The driver's pulses (R241, R242). -/

theorem leastPulse_pos : 0 < leastPulse := by norm_num [leastPulse]

/-- The whole part, and one more unless it is enough, is the ceiling. -/
theorem floor_or_next_eq_ceil (x : Rat) {y : Rat} (hy : 0 < y) :
    (if x ≤ ((ratFloor (x / y)).toNat : Rat) * y then (ratFloor (x / y)).toNat else (ratFloor (x / y)).toNat + 1) = ⌈x / y⌉₊ := by
  have hfloor : (ratFloor (x / y)).toNat = ⌊x / y⌋₊ := by
    rw [ratFloor, ← Rat.floor_def]
    rfl
  rw [hfloor]
  split
  · next h => exact le_antisymm (Nat.floor_le_ceil _) (Nat.ceil_le.2 ((div_le_iff₀ hy).2 h))
  · next h => exact le_antisymm (Nat.lt_ceil.2 ((lt_div_iff₀ hy).2 (not_le.1 h))) (Nat.ceil_le_floor_add_one _)

/-- A short pulse is grouped until it is long enough, in groups of at most 64 (R242). -/
theorem pulseMode_short {d : Rat} (h0 : 0 < 5 * d) (h : 5 * d < leastPulse) :
    pulseMode d = if ⌈leastPulse / (5 * d)⌉₊ ≤ 64 then .grouped ⌈leastPulse / (5 * d)⌉₊ (⌈leastPulse / (5 * d)⌉₊ * (5 * d))
      else .density (5 * d) := by
  unfold pulseMode
  dsimp only
  rw [if_neg (not_le.2 h0), if_neg (not_le.2 h), floor_or_next_eq_ceil _ h0]

theorem pulseMode_none {d : Rat} (h : d ≤ 0) : pulseMode d = .none := if_pos (by linarith)

theorem pulseMode_plain {d : Rat} (h : leastPulse ≤ 5 * d) : pulseMode d = .plain (5 * d) := by
  have hon : ¬5 * d ≤ 0 := not_le.2 (lt_of_lt_of_le leastPulse_pos h)
  unfold pulseMode
  dsimp only
  rw [if_neg hon, if_pos h]

theorem pulseMode_grouped {d : Rat} (h0 : 0 < d) (h : 5 * d < leastPulse) (hg : leastPulse ≤ 64 * (5 * d)) :
    ∃ n : Nat, 2 ≤ n ∧ n ≤ 64 ∧ pulseMode d = .grouped n (n * (5 * d)) ∧ leastPulse ≤ (n : Rat) * (5 * d) ∧
      ((n : Rat) - 1) * (5 * d) < leastPulse := by
  have hon : 0 < 5 * d := by linarith
  have hx : 0 ≤ leastPulse / (5 * d) := div_nonneg leastPulse_pos.le hon.le
  have hle : ⌈leastPulse / (5 * d)⌉₊ ≤ 64 := Nat.ceil_le.2 ((div_le_iff₀ hon).2 hg)
  refine ⟨⌈leastPulse / (5 * d)⌉₊, Nat.lt_ceil.2 ?_, hle, by rw [pulseMode_short hon h, if_pos hle], ?_, ?_⟩
  · rw [Nat.cast_one, lt_div_iff₀ hon]
    linarith
  · exact (div_le_iff₀ hon).1 (Nat.le_ceil _)
  · exact (lt_div_iff₀ hon).1 (by linarith [Nat.ceil_lt_add_one hx])

theorem pulseMode_density {d : Rat} (h0 : 0 < d) (hg : 64 * (5 * d) < leastPulse) : pulseMode d = .density (5 * d) := by
  have hon : 0 < 5 * d := by linarith
  rw [pulseMode_short hon (by linarith), if_neg]
  rw [Nat.ceil_le, div_le_iff₀ hon]
  exact not_le.2 hg

/-- A channel's pulses change its phase and its accumulator. -/
theorem runPulses_mox (m : Mox) : (runPulses m).2.2 = { m with pulseAcc := (runPulses m).2.2.pulseAcc, period := (runPulses m).2.2.period } := by
  unfold runPulses
  cases pulseMode m.duty <;> rfl

section
variable {s : State} {n : Fin 6} {l : List HeaterPulse}

theorem tickPulses_unpowered (h : heaterPowered s n = false) : (tickPulses s n l).1 = [] := by
  unfold tickPulses
  dsimp only
  rw [h]
  rfl

theorem tickPulses_powered (h : heaterPowered s n = true) : (tickPulses s n l).1 =
    if s.mox[n].duty = 0 && driveOf s n == .regulate then l else l.take (runPulses s.mox[n]).1 := by
  unfold tickPulses
  dsimp only
  rw [h]
  rfl

theorem tickPulses_nil : (tickPulses s n []).1 = [] := by
  cases h : heaterPowered s n with
  | false => exact tickPulses_unpowered h
  | true => rw [tickPulses_powered h, List.take_nil, ite_self]

/-- The pulses of a tick leave of a channel all but where its driver stands. -/
theorem tickPulses_mox : (tickPulses s n l).2 = { s.mox[n] with
    pulseAcc := (tickPulses s n l).2.pulseAcc, period := (tickPulses s n l).2.period, lastPulse := (tickPulses s n l).2.lastPulse } := by
  unfold tickPulses
  dsimp only
  split
  · rfl
  · have h := runPulses_mox s.mox[n]
    generalize runPulses s.mox[n] = r at h
    obtain ⟨k, w, m⟩ := r
    dsimp only at h ⊢
    split <;> rw [h]

end

/-! The loop (R245 - R255). -/

/-- What the loop of a heater works on and shows, and what a tick leaves (R245 - R250, R269). -/
structure HeaterLoop where
  vOn : Option Rat
  target : Option Rat
  integ : Rat
  duty : Rat
  inReg : Bool
  capped : Bool
  fault : Option HeaterFaultKind
  step : Nat

/-- That part of a heater. -/
def Mox.loop (m : Mox) : HeaterLoop := ⟨m.vOn, m.target, m.integ, m.duty, m.inReg, m.capped, m.fault, m.step⟩

section
variable (s : State) (n : Fin 6) (m : Mox) (r : Option Rat)

theorem regulate_frame : (regulate s n m r).frame = m.frame := by
  unfold regulate
  split <;> rfl

theorem nextDuty_frame : (nextDuty s n m r).frame = m.frame := by
  unfold nextDuty
  dsimp only
  split
  · rfl
  · rfl
  · split
    · exact regulate_frame ..
    · rfl

/-- A target moves with its ramp; nothing else of the channel does. -/
theorem tickTarget_eq : tickTarget s n r = { s.mox[n] with
    ticks := (s.clk - s.mox[n].stepClk) / 1000, target := (tickTarget s n r).target, rampFrom := (tickTarget s n r).rampFrom } := by
  unfold tickTarget
  dsimp only
  split
  · rfl
  · rfl
  · split
    · rfl
    · split
      · rfl
      · split <;> rfl
      · rfl

theorem tallyTick_loop (d : Rat) (dark : Bool) : (tallyTick s n m r d dark).loop = m.loop := by
  cases r <;> rfl

/-- A measured tick counts, with its duty. -/
theorem tallyTick_measured (r d : Rat) (dark : Bool) : (tallyTick s n m (some r) d dark).frame =
    ⟨m.frameGood && m.inReg && !moxShed s n && !dark, m.sumR + r, m.nR + 1, m.sumDuty + d, m.sumT + heaterT s n r, m.nT + 1⟩ := rfl

end

section
variable (s : State) (n : Fin 6) (l : List HeaterPulse)

/-- R_meas of the tick that ends. -/
def tickR : Option Rat := ratMean ((tickPulses s n l).1.filterMap pulseOhm)

/-- The channel with V_on of the tick that ends. -/
def measured : Mox :=
  { (tickPulses s n l).2 with vOn := (ratMean ((tickPulses s n l).1.map (·.vMean))).or (tickPulses s n l).2.vOn }

/-- The device with it. -/
def measuredState : State := { s with mox := s.mox.set n.val (measured s n l) }

/-- The channel with its target, for which the duty is worked out. -/
def aimed : Mox := tickTarget (measuredState s n l) n ((tickR s n l).map (heaterT s n))

/-- The channel with the duty of the next tick. -/
def driven : Mox := nextDuty (measuredState s n l) n (aimed s n l) (tickR s n l)

/-- The channel after the tick. -/
def loopTicked : Mox :=
  tallyTick s n { driven s n l with
      pulseAcc := match pulseMode (driven s n l).duty with
        | .density _ => (driven s n l).pulseAcc
        | _ => 0
      tickClk := s.clk - (s.clk - s.mox[n].tickClk) % 1000, fresh := false, prevTarget := none, commanded := false }
    (tickR s n l) s.mox[n].duty ((driveOf s n).demands && s.rail.state != .on)

theorem measured_eq : measured s n l = { s.mox[n] with
    pulseAcc := (measured s n l).pulseAcc, period := (measured s n l).period, lastPulse := (measured s n l).lastPulse
    vOn := (ratMean ((tickPulses s n l).1.map (·.vMean))).or s.mox[n].vOn } := by
  unfold measured
  rw [tickPulses_mox]

theorem measuredState_mox : (measuredState s n l).mox[n] = measured s n l := Vector.getElem_set_self n.isLt

theorem measuredState_drive : driveOf (measuredState s n l) n = driveOf s n := by
  unfold driveOf
  rw [measuredState_mox, measured_eq]
  rfl

theorem measuredState_powered : heaterPowered (measuredState s n l) n = heaterPowered s n := by
  unfold heaterPowered
  rw [measuredState_mox, measured_eq]
  rfl

/-- Up to its target the channel that is driven is the channel measured. -/
theorem aimed_eq : aimed s n l = { s.mox[n] with
    pulseAcc := (measured s n l).pulseAcc, period := (measured s n l).period, lastPulse := (measured s n l).lastPulse
    vOn := (ratMean ((tickPulses s n l).1.map (·.vMean))).or s.mox[n].vOn
    ticks := (s.clk - s.mox[n].stepClk) / 1000, target := (aimed s n l).target, rampFrom := (aimed s n l).rampFrom } := by
  have h := tickTarget_eq (measuredState s n l) n ((tickR s n l).map (heaterT s n))
  rw [measuredState_mox, measured_eq] at h
  exact h

theorem aimed_frame : (aimed s n l).frame = s.mox[n].frame := by
  rw [aimed_eq]
  rfl

theorem aimed_loop : (aimed s n l).loop = { s.mox[n].loop with
    vOn := (ratMean ((tickPulses s n l).1.map (·.vMean))).or s.mox[n].vOn, target := (aimed s n l).target } := by
  rw [aimed_eq]
  rfl

theorem loopTicked_loop : (loopTicked s n l).loop = (driven s n l).loop := tallyTick_loop ..

theorem driven_frame : (driven s n l).frame = s.mox[n].frame := (nextDuty_frame ..).trans (aimed_frame ..)

end

section
variable {s : State} {n : Fin 6} {l : List HeaterPulse}

/-- A tick with a measurement adds it, its temperature and the duty it ran at to the film frame's sums (R262). -/
theorem loopTicked_measured {r : Rat} (hr : tickR s n l = some r) : ∃ good, (loopTicked s n l).frame =
    ⟨good, s.mox[n].sumR + r, s.mox[n].nR + 1, s.mox[n].sumDuty + s.mox[n].duty, s.mox[n].sumT + heaterT s n r, s.mox[n].nT + 1⟩ := by
  have h := driven_frame s n l
  simp only [Mox.frame, HeaterFrame.mk.injEq] at h
  obtain ⟨-, hsumR, hnR, hsumDuty, hsumT, hnT⟩ := h
  unfold loopTicked
  rw [hr, tallyTick_measured]
  dsimp only
  rw [hsumR, hnR, hsumDuty, hsumT, hnT]
  exact ⟨_, rfl⟩

theorem loopTicked_unmeasured (hr : tickR s n l = none) : (loopTicked s n l).nR = s.mox[n].nR := by
  unfold loopTicked
  rw [hr]
  exact congrArg HeaterFrame.nR (driven_frame s n l)

theorem tickR_unpowered (h : heaterPowered s n = false) : tickR s n l = none := by
  rw [tickR, tickPulses_unpowered h]
  rfl

/-! The three drives. -/

theorem driven_off (hd : driveOf s n = .off) : driven s n l =
    { aimed s n l with duty := 0, integ := if heaterPowered s n then 0 else (aimed s n l).integ, inReg := true, capped := false } := by
  unfold driven nextDuty
  rw [measuredState_drive, hd, measuredState_powered]

theorem driven_duty {d : Rat} (hd : driveOf s n = .duty d) : driven s n l =
    { aimed s n l with
      duty := if heaterPowered s n then min d (dutyCap s n (aimed s n l).vOn) else 0, inReg := true, capped := false } := by
  unfold driven nextDuty
  rw [measuredState_drive, hd, measuredState_powered]
  rfl

theorem driven_regulate (hd : driveOf s n = .regulate) : driven s n l =
    if heaterPowered s n then regulate s n (aimed s n l) (tickR s n l)
    else { aimed s n l with duty := 0, inReg := false, capped := false } := by
  unfold driven nextDuty
  rw [measuredState_drive, hd, measuredState_powered]
  rfl

theorem regulate_measured {m : Mox} {r goal : Rat} (ht : m.target = some goal) :
    (regulate s n m (some r)).loop =
      let tr := heaterR s n goal
      let cap := dutyCap s n m.vOn
      let e := (tr - r) / tr
      let i := clamp0 cap (m.integ + e / (moxTi s n : Rat))
      { m.loop with target := some goal, integ := i, duty := clamp0 cap (moxKp s n * e + i), inReg := decide (ratAbs (r - tr) ≤ moxBand s n * tr)
                    capped := decide (clamp0 cap (moxKp s n * e + i) = cap) && decide (0 < e) } := by
  unfold regulate
  rw [ht]
  rfl

/-- The channel regulates on a target that does not move: a commanded one at rate 0, or that of a STEP (R250, R274). -/
def RegulatesAt (s : State) (n : Fin 6) (goal : Rat) : Prop :=
  (∃ t : Int, s.mox[n].override = .target t 0 ∧ goal = (t : Rat) / 10) ∨
    (s.mox[n].override = .none ∧ s.mox[n].started = true ∧ s.mox[n].ignored = false ∧ stepKind s n s.mox[n].step = 1 ∧
      goal = stepTarget s n s.mox[n].step)

theorem RegulatesAt.drive {goal : Rat} (h : RegulatesAt s n goal) : driveOf s n = .regulate := by
  unfold driveOf
  dsimp only
  rcases h with ⟨t, ho, -⟩ | ⟨ho, hs, -, hk, -⟩
  · rw [ho]
  · rw [ho, hs, hk]
    rfl

theorem tickTarget_regulatesAt {goal : Rat} (h : RegulatesAt s n goal) (r : Option Rat) : (tickTarget s n r).target = some goal := by
  unfold tickTarget
  rcases h with ⟨t, ho, hg⟩ | ⟨ho, hs, hi, hk, hg⟩
  · dsimp only
    rw [ho, hg]
    rfl
  · dsimp only
    rw [ho, hs, hi, hk, hg]
    rfl

theorem RegulatesAt.measured {goal : Rat} (h : RegulatesAt s n goal) : RegulatesAt (measuredState s n l) n goal := by
  unfold RegulatesAt
  rw [measuredState_mox, measured_eq]
  exact h

theorem RegulatesAt.aimed {goal : Rat} (h : RegulatesAt s n goal) : (aimed s n l).target = some goal :=
  tickTarget_regulatesAt h.measured _

theorem driveOf_dutyStep (ho : s.mox[n].override = .none) (hs : s.mox[n].started = true) (hi : s.mox[n].ignored = false)
    (hk : stepKind s n s.mox[n].step = 3) : driveOf s n = .duty (stepDuty s n s.mox[n].step) := by
  unfold driveOf
  dsimp only
  rw [ho, hs, hk, hi]
  rfl

/-! HEATER_LOOP_TICK. -/

theorem execHeaterLoopTick_due (hm : moxHeats s n = true) (hc : s.mox[n].tickClk + 1000 ≤ s.clk) :
    execHeaterLoopTick n l s = .next { s with mox := s.mox.set n.val (loopTicked s n l) } := by
  unfold execHeaterLoopTick
  dsimp only
  exact if_neg (by simpa [hm] using hc)

theorem execHeaterLoopTick_not_due (h : moxHeats s n = false ∨ s.clk < s.mox[n].tickClk + 1000) :
    execHeaterLoopTick n l s = .next s := by
  refine if_pos ?_
  rcases h with h | h
  · rw [h]
    rfl
  · rw [decide_eq_true h, Bool.or_true]

/-- What a regulated tick shows and hands on (R245 - R249). -/
theorem loopTicked_regulated {r v goal : Rat} (hp : heaterPowered s n = true) (hr : tickR s n l = some r)
    (hv : ratMean ((tickPulses s n l).1.map (·.vMean)) = some v) (hg : RegulatesAt s n goal) :
    (loopTicked s n l).loop =
      let tr := heaterR s n goal
      let cap := dutyCap s n (some v)
      let e := (tr - r) / tr
      let i := clamp0 cap (s.mox[n].integ + e / (moxTi s n : Rat))
      ⟨some v, some goal, i, clamp0 cap (moxKp s n * e + i), decide (ratAbs (r - tr) ≤ moxBand s n * tr),
        decide (clamp0 cap (moxKp s n * e + i) = cap) && decide (0 < e), s.mox[n].fault, s.mox[n].step⟩ := by
  have ha := aimed_loop s n l
  rw [hv, hg.aimed] at ha
  have hvOn : (aimed s n l).vOn = some v := congrArg HeaterLoop.vOn ha
  have hinteg : (aimed s n l).integ = s.mox[n].integ := congrArg HeaterLoop.integ ha
  rw [loopTicked_loop, driven_regulate hg.drive, if_pos hp, hr, regulate_measured hg.aimed, hvOn, hinteg, ha]
  rfl

/-- Without power the duty is 0, and a regulated tick is not in regulation (R248, R267, R277). -/
theorem loopTicked_unpowered (hp : heaterPowered s n = false) : (loopTicked s n l).duty = 0 ∧
    ((loopTicked s n l).inReg = true ↔ driveOf s n ≠ .regulate) ∧ (loopTicked s n l).fault = s.mox[n].fault := by
  have hloop := loopTicked_loop s n l
  have hfault : (aimed s n l).fault = s.mox[n].fault := congrArg HeaterLoop.fault (aimed_loop s n l)
  have hpow : ¬heaterPowered s n = true := by
    rw [hp]
    decide
  cases hd : driveOf s n with
  | off =>
    rw [driven_off hd] at hloop
    exact ⟨congrArg HeaterLoop.duty hloop, iff_of_true (congrArg HeaterLoop.inReg hloop) (by decide),
      (congrArg HeaterLoop.fault hloop).trans hfault⟩
  | duty d =>
    rw [driven_duty hd, if_neg hpow] at hloop
    exact ⟨congrArg HeaterLoop.duty hloop, iff_of_true (congrArg HeaterLoop.inReg hloop) Drive.noConfusion,
      (congrArg HeaterLoop.fault hloop).trans hfault⟩
  | regulate =>
    rw [driven_regulate hd, if_neg hpow] at hloop
    exact ⟨congrArg HeaterLoop.duty hloop, iff_of_false (Bool.eq_false_iff.1 (congrArg HeaterLoop.inReg hloop)) (not_not.2 rfl),
      (congrArg HeaterLoop.fault hloop).trans hfault⟩

theorem loopTicked_off (hp : heaterPowered s n = true) (hd : driveOf s n = .off) :
    (loopTicked s n l).duty = 0 ∧ (loopTicked s n l).integ = 0 ∧ (loopTicked s n l).inReg = true := by
  have hloop := loopTicked_loop s n l
  rw [driven_off hd, if_pos hp] at hloop
  exact ⟨congrArg HeaterLoop.duty hloop, congrArg HeaterLoop.integ hloop, congrArg HeaterLoop.inReg hloop⟩

/-- A fixed duty drives as far as the cap lets it, with V_on of this tick if it measured (R246, R250). -/
theorem loopTicked_duty {d : Rat} (hp : heaterPowered s n = true) (hd : driveOf s n = .duty d) :
    (loopTicked s n l).vOn = (ratMean ((tickPulses s n l).1.map (·.vMean))).or s.mox[n].vOn ∧
      (loopTicked s n l).duty = min d (dutyCap s n (loopTicked s n l).vOn) ∧ (loopTicked s n l).inReg = true := by
  have hloop := loopTicked_loop s n l
  rw [driven_duty hd, if_pos hp] at hloop
  have hvOn : (loopTicked s n l).vOn = (aimed s n l).vOn := congrArg HeaterLoop.vOn hloop
  refine ⟨hvOn.trans (congrArg HeaterLoop.vOn (aimed_loop s n l)), ?_, congrArg HeaterLoop.inReg hloop⟩
  rw [hvOn]
  exact congrArg HeaterLoop.duty hloop

end

end Sys2Proof.Machine

namespace Sys2Proof.Machine

/-! PROFILE_STEP_END (R250 - R253, R279). -/

/-- The channel at the end of its step, where another follows: the step entered, its target left alone under an override. -/
def stepped (s : State) (n : Fin 6) : Mox :=
  let m := s.mox[n]
  let m' := enterStep s n m (m.step + 1) (m.stepClk + 1000 * stepTicks s n m.step)
  if m.override = .none then m' else { m' with target := m.target }

section
variable {s : State} {n : Fin 6}

theorem execProfileStepEnd_early (h : s.clk < s.mox[n].stepClk + 1000 * stepTicks s n s.mox[n].step) : execProfileStepEnd n s = .next s :=
  if_pos (by rw [decide_eq_true h, Bool.or_true])

section
variable (hm : moxHeats s n = true) (hs : s.mox[n].started = true) (hh : s.mox[n].held = false)
  (hd : s.mox[n].stepClk + 1000 * stepTicks s n s.mox[n].step ≤ s.clk)
include hm hs hh hd

theorem execProfileStepEnd_due : execProfileStepEnd n s =
    if s.mox[n].step + 1 < stepCount s n then .next { s with mox := s.mox.set n.val (stepped s n) }
    else .next { s with mox := vmod s.mox n fun m => { m with held := true, loopWait := profileLoops s n } } :=
  if_neg (by rw [hm, hs, hh, decide_eq_false (not_lt.2 hd)]; decide)

end

/-- A step entered: what its moment and a command in its tick decide. -/
theorem stepped_enters : (stepped s n).step = s.mox[n].step + 1 ∧
    (stepped s n).stepClk = s.mox[n].stepClk + 1000 * stepTicks s n s.mox[n].step ∧ (stepped s n).ticks = 0 ∧ (stepped s n).held = false ∧
    (stepped s n).duty = s.mox[n].duty ∧ (stepped s n).ignored = s.mox[n].commanded := by
  unfold stepped
  dsimp only
  split <;> exact ⟨rfl, rfl, rfl, rfl, rfl, rfl⟩

theorem stepped_target (ho : s.mox[n].override = .none) (hc : s.mox[n].commanded = false)
    (hk : stepKind s n (s.mox[n].step + 1) = 1) : (stepped s n).target = some (stepTarget s n (s.mox[n].step + 1)) := by
  unfold stepped enterStep
  dsimp only
  rw [if_pos ho, hc, if_neg (by decide), if_pos hk]

/-- A command, before or in the tick, has the step's target ignored (R274, R279). -/
theorem stepped_ignores (h : s.mox[n].override ≠ .none ∨ s.mox[n].commanded = true) : (stepped s n).target = s.mox[n].target := by
  unfold stepped enterStep
  dsimp only
  split
  · next ho => exact if_pos (h.resolve_left (not_not.2 ho))
  · rfl

end

/-! HEATER_FAULT (R268, R269). -/

section
variable {s : State} {n : Fin 6} {l : List HeaterPulse}

/-- Every pulse of the millisecond meets the condition of a fault kind. -/
def AllFail (s : State) (n : Fin 6) (l : List HeaterPulse) (k : HeaterFaultKind) : Prop := ∀ p ∈ l, pulseFails s n p k = true

theorem allFail_iff (k : HeaterFaultKind) : (l.all fun p => pulseFails s n p k) = true ↔ AllFail s n l k := List.all_eq_true

/-- The lowest code of those that are there. -/
theorem find_lowestKind (b : HeaterFaultKind → Bool) :
    let found := [HeaterFaultKind.openCircuit, .shortCircuit, .kelvin].find? b
    (found = some .openCircuit ↔ b .openCircuit = true) ∧
      (found = some .shortCircuit ↔ b .shortCircuit = true ∧ ¬b .openCircuit = true) ∧
      (found = some .kelvin ↔ b .kelvin = true ∧ ¬b .openCircuit = true ∧ ¬b .shortCircuit = true) := by
  simp only [List.find?]
  cases b .openCircuit <;> cases b .shortCircuit <;> cases b .kelvin <;> decide

/-- The fault of a millisecond is the lowest code that every one of its pulses shows. -/
theorem pulseFault_iff (h : l ≠ []) : (pulseFault s n l = some .openCircuit ↔ AllFail s n l .openCircuit) ∧
    (pulseFault s n l = some .shortCircuit ↔ AllFail s n l .shortCircuit ∧ ¬AllFail s n l .openCircuit) ∧
    (pulseFault s n l = some .kelvin ↔ AllFail s n l .kelvin ∧ ¬AllFail s n l .openCircuit ∧ ¬AllFail s n l .shortCircuit) := by
  have hk := find_lowestKind fun k => l.all fun p => pulseFails s n p k
  rw [pulseFault, if_neg (by rw [List.isEmpty_eq_false_iff.2 h]; decide)]
  simpa only [allFail_iff] using hk

theorem pulseOhm_any (p : HeaterPulse) (q : Rat → Bool) : (pulseOhm p).any q = true ↔ p.iEnd ≠ 0 ∧ q (p.vEnd / p.iEnd) = true := by
  unfold pulseOhm
  split
  · next h => exact iff_of_false Bool.false_ne_true fun hq => hq.1 h
  · next h => exact (and_iff_right h).symm

theorem pulseFails_openCircuit (p : HeaterPulse) : pulseFails s n p .openCircuit = true ↔
    (p.iEnd ≠ 0 ∧ moxOpenOhm s n < p.vEnd / p.iEnd) ∨ (p.iEnd < 2 / 1000 ∧ 1 < p.vEnd) := by
  rw [pulseFails, Bool.or_eq_true, pulseOhm_any, decide_eq_true_eq, decide_eq_true_eq]

theorem pulseFails_shortCircuit (p : HeaterPulse) : pulseFails s n p .shortCircuit = true ↔
    p.iEnd ≠ 0 ∧ p.vEnd / p.iEnd < moxShortOhm s n := by
  rw [pulseFails, pulseOhm_any, decide_eq_true_eq]

theorem pulseFails_kelvin (p : HeaterPulse) : pulseFails s n p .kelvin = true ↔ 1 + p.out / 10 < ratAbs (p.vEnd - p.out) :=
  decide_eq_true_iff

/-- The channel latched off by a fault. -/
def latchedOff (s : State) (n : Fin 6) (k : HeaterFaultKind) : State :=
  { s with mox := vmod s.mox n fun m => { m with fault := some k, duty := 0, pulseAcc := 0, period := 0 } }

theorem execHeaterFault_found {k : HeaterFaultKind} (hp : heaterPowered s n = true) (hf : pulseFault s n l = some k) :
    execHeaterFault n l s =
      .next (declareEvent (latchedOff s n k) 0x11 (n.val + 256 * heaterFaultCode k) (n.val + 256 * heaterFaultCode k) false) := by
  unfold execHeaterFault
  rw [if_pos hp, hf]
  rfl

theorem execHeaterFault_none (h : heaterPowered s n = false ∨ pulseFault s n l = none) : execHeaterFault n l s = .next s := by
  have hn : (if heaterPowered s n then pulseFault s n l else none) = none := by
    rcases h with h | h <;> rw [h]
    · rfl
    · exact ite_self _
  unfold execHeaterFault
  rw [hn]

/-- A declaration leaves its code active; the record of a new one carries its argument. -/
theorem declareEvent_new {s : State} {code : Fin 28} (h : faultActive s code = false) (arg evArg : Nat) (masked : Bool) :
    faultActive (declareEvent s code arg evArg masked) code = true ∧
      (declareEvent s code arg evArg masked).ks.records[s.ks.index] = faultEntry s code arg masked := by
  unfold declareEvent
  rw [if_neg (by rw [h]; decide)]
  obtain ⟨-, hrec, -⟩ := declareWith_new s code arg evArg masked h
  refine ⟨declareWith_active .., ?_⟩
  rw [hrec]
  exact Vector.getElem_set_self s.ks.index.isLt

end

/-- Settles O25: the numbers of pulses by the ceiling of 0.4 microseconds over the on-time; a tick keeps of a channel what its drive does not name
(`aimed_eq`, `loopTicked_loop`), so that each drive's equation gives its clause. -/
theorem heaterLoopAndProfile : Obligations.HeaterLoopAndProfile := by
  refine ⟨fun d => ⟨pulseMode_none, pulseMode_plain, pulseMode_grouped, pulseMode_density⟩, fun s n l => ?pulses,
    fun s n l r v goal hm hp hc hr hv hg => ?regulated, fun s n l hm hc hp => ?unpowered, fun s n l hm hc hp hd => ?off,
    fun s n l hm hc hp ho hs hi hk => ?duty, fun s n l h => execHeaterLoopTick_not_due h, fun s n hm hs hh => ?step, fun s n l hl => ?kinds,
    fun s n l k hp hf ha hmask => ?fault, fun s n l k hp hf ha => ?again, fun s n l h => execHeaterFault_none h⟩
  case pulses =>
    refine ⟨tickPulses_unpowered, fun hp hz hd => ?_, fun hp h => ?_⟩
    · exact (tickPulses_powered hp).trans (if_pos (by rw [hz, hd]; rfl))
    · have hn : ¬(s.mox[n].duty = 0 && driveOf s n == .regulate) = true := by
        rw [Bool.and_eq_true, decide_eq_true_eq, beq_iff_eq]
        exact fun hall => h.elim (· hall.1) (· hall.2)
      rw [tickPulses_powered hp, if_neg hn]
      unfold runPulses
      cases pulseMode s.mox[n].duty <;> rfl
  case regulated =>
    have hloop := loopTicked_regulated hp hr hv hg
    obtain ⟨good, hframe⟩ := loopTicked_measured hr
    simp only [Mox.loop, HeaterLoop.mk.injEq] at hloop
    obtain ⟨hvOn, htarget, hinteg, hduty, hreg, hcapped, hfault, hstep⟩ := hloop
    simp only [Mox.frame, HeaterFrame.mk.injEq] at hframe
    obtain ⟨-, hsumR, hnR, hsumDuty, -, hnT⟩ := hframe
    refine ⟨_, execHeaterLoopTick_due hm hc, htarget, hvOn, hinteg, hduty, ?_, ?_, hnR, hsumR, hnT, hsumDuty, hfault, hstep⟩
    · rw [hreg, decide_eq_true_eq]
    · rw [hcapped, hduty, Bool.and_eq_true, decide_eq_true_eq, decide_eq_true_eq]
  case unpowered =>
    obtain ⟨hduty, hreg, hfault⟩ := loopTicked_unpowered (l := l) hp
    exact ⟨_, execHeaterLoopTick_due hm hc, hduty, hreg, loopTicked_unmeasured (tickR_unpowered hp), hfault⟩
  case off => exact ⟨_, execHeaterLoopTick_due hm hc, loopTicked_off hp hd⟩
  case duty =>
    obtain ⟨hvOn, hduty, hreg⟩ := loopTicked_duty (l := l) hp (driveOf_dutyStep ho hs hi hk)
    refine ⟨_, execHeaterLoopTick_due hm hc, hduty, hreg, fun hl => ?_, fun v hv => ?_⟩
    · rw [hvOn, hl, tickPulses_nil]
      rfl
    · rw [hvOn, hv]
      rfl
  case step =>
    intro due
    refine ⟨fun h => execProfileStepEnd_early h, fun hd hn => ?_, fun hd hn => ?_⟩
    · obtain ⟨hstep, hclk, hticks, hheld, hduty, hignored⟩ := stepped_enters (s := s) (n := n)
      exact ⟨_, (execProfileStepEnd_due hm hs hh hd).trans (if_pos hn), hstep, hclk, hticks, hheld, hduty, stepped_target, stepped_ignores,
        by rw [hignored]⟩
    · exact (execProfileStepEnd_due hm hs hh hd).trans (if_neg (not_lt.2 hn))
  case kinds =>
    intro isOpen isShort kelvin
    have hopen : AllFail s n l .openCircuit ↔ isOpen := forall₂_congr fun p _ => pulseFails_openCircuit p
    have hshort : AllFail s n l .shortCircuit ↔ isShort := forall₂_congr fun p _ => pulseFails_shortCircuit p
    have hkelvin : AllFail s n l .kelvin ↔ kelvin := forall₂_congr fun p _ => pulseFails_kelvin p
    rw [← hopen, ← hshort, ← hkelvin]
    exact pulseFault_iff hl
  case fault =>
    have hn : faultActive (latchedOff s n k) 0x11 = false := ha
    obtain ⟨hactive, hrecord⟩ := declareEvent_new hn (n.val + 256 * heaterFaultCode k) (n.val + 256 * heaterFaultCode k) false
    have hchanges := declareEvent_unmasked (s := latchedOff s n k) (code := 0x11) hmask (n.val + 256 * heaterFaultCode k)
      (n.val + 256 * heaterFaultCode k) false
    have hpending := (declareEvent_pending (latchedOff s n k) 0x11 (n.val + 256 * heaterFaultCode k)
      (n.val + 256 * heaterFaultCode k) false).1
    refine ⟨_, execHeaterFault_found hp hf, ?_, ?_, hactive, hpending, congrArg FaultRecord.arg hrecord⟩
    · rw [hchanges]
      rfl
    · rw [hchanges]
      rfl
  case again => exact (execHeaterFault_found hp hf).trans (congrArg _ (if_pos ha))

end Sys2Proof.Machine

namespace Sys2Proof.Machine

/-! The heater command (R269, R273 - R275, R279). -/

/-- The arguments of a heater command name no channel of the device, or what they ask is out of range. -/
def heaterArgsBad (s : State) (n : Fin 6) (action : Byte) (a : List Byte) : Bool :=
  let t := signed 16 (u16 a 2)
  !moxPresent s n || 3 < u8 a 1 || u16 a 6 ≠ 0 || (action ≠ 0 && u16 a 2 ≠ 0) || t < -400 || 6000 < t

theorem heaterArgsBad_iff (s : State) (n : Fin 6) (action : Byte) (a : List Byte) : heaterArgsBad s n action a = true ↔
    moxPresent s n = false ∨ 3 < u8 a 1 ∨ u16 a 6 ≠ 0 ∨ (action ≠ 0 ∧ u16 a 2 ≠ 0) ∨ signed 16 (u16 a 2) < -400 ∨
      6000 < signed 16 (u16 a 2) := by
  simp only [heaterArgsBad, Bool.or_eq_true, Bool.and_eq_true, Bool.not_eq_true', decide_eq_true_eq, or_assoc]

/-- The heater command's own refusals and effect. -/
def heaterBody (action : Byte) (body : State → Fin 6 → List Byte → State) (s : State) (a : List Byte) : Byte × State :=
  if !hasCal s then (stLocked, s)
  else if h : u8 a 0 < 6 then
    if heaterArgsBad s ⟨u8 a 0, h⟩ action a then (stBadArg, s)
    else if !moxHeats s ⟨u8 a 0, h⟩ then (stNotInMode, s)
    else (stOk, body s ⟨u8 a 0, h⟩ a)
  else (stBadArg, s)

theorem heaterCommand_ready {s : State} {f : HostFrame} {action : Byte} {body : State → Fin 6 → List Byte → State}
    (h : CommandReady s f 0x05 [(5, action)] 8) {st : Byte} {x : State}
    (e : heaterBody action body (sessionActivity s) (commandArgs f 0x05 [(5, action)]) = (st, x)) :
    (Host.Outcome.next (heaterCommand s f action body) : Host.Outcome State Fault Refusal) = .next (replied x f 0x05 st) :=
  commandFrame_next _ _ h rfl rfl rfl e rfl rfl

/-- The row's action stands in the second argument byte. -/
theorem heaterAction {s : State} {f : HostFrame} {action : Byte} (h : CommandReady s f 0x05 [(5, action)] 8) :
    u8 (commandArgs f 0x05 [(5, action)]) 1 = action.toNat := by
  obtain ⟨-, -, -, -, -, hlen⟩ := h
  simp only [commandArgs, commandPayload, framePayload, fixBytes, setAt, List.length_drop, List.length_take, List.length_set] at hlen
  have hf : 5 < f.length.toNat := by omega
  have hp : 5 < f.payload.length := by omega
  simp [commandArgs, commandPayload, framePayload, fixBytes, setAt, u8, List.getD_eq_getElem?_getD, hf, hp]

section
variable {u : State} {a : List Byte} {action : Byte} {body : State → Fin 6 → List Byte → State}

theorem heaterBody_locked (h : hasCal u = false) : heaterBody action body u a = (stLocked, u) := if_pos (by rw [h]; rfl)

/-- The refusals that the argument bytes alone decide. -/
theorem heaterBody_badArg (h : hasCal u = true)
    (hb : 6 ≤ u8 a 0 ∨ u16 a 6 ≠ 0 ∨ (action ≠ 0 ∧ u16 a 2 ≠ 0) ∨ signed 16 (u16 a 2) < -400 ∨ 6000 < signed 16 (u16 a 2)) :
    heaterBody action body u a = (stBadArg, u) := by
  unfold heaterBody
  rw [if_neg (by rw [h]; decide)]
  split
  · next hlt => exact if_pos ((heaterArgsBad_iff ..).2 (.inr (.inr (hb.resolve_left (not_le.2 hlt)))))
  · rfl

section
variable {n : Fin 6} (h : hasCal u = true) (hn : u8 a 0 = n.val)
include h hn

/-- With a session and a channel number, what remains is said of the channel. -/
theorem heaterBody_channel : heaterBody action body u a =
    if heaterArgsBad u n action a then (stBadArg, u)
    else if !moxHeats u n then (stNotInMode, u)
    else (stOk, body u n a) := by
  obtain ⟨k, hk⟩ := n
  have hn : u8 a 0 = k := hn
  subst hn
  unfold heaterBody
  rw [if_neg (by rw [h]; decide), dif_pos hk]

theorem heaterBody_absent (hp : moxPresent u n = false) : heaterBody action body u a = (stBadArg, u) := by
  rw [heaterBody_channel h hn]
  exact if_pos ((heaterArgsBad_iff ..).2 (.inl hp))

theorem heaterBody_formed (hp : moxPresent u n = true) (h1 : u8 a 1 ≤ 3) (h6 : u16 a 6 = 0) (h2 : action = 0 ∨ u16 a 2 = 0)
    (hlo : -400 ≤ signed 16 (u16 a 2)) (hhi : signed 16 (u16 a 2) ≤ 6000) :
    heaterBody action body u a = if !moxHeats u n then (stNotInMode, u) else (stOk, body u n a) := by
  rw [heaterBody_channel h hn]
  refine if_neg fun hbad => ?_
  rcases (heaterArgsBad_iff ..).1 hbad with hb | hb | hb | ⟨ha, ht⟩ | hb | hb
  · rw [hp] at hb
    cases hb
  · omega
  · exact hb h6
  · exact h2.elim ha ht
  · omega
  · omega

end

end

/-! The four actions. -/

/-- The actions of the heater command (R273). -/
inductive HeaterAction where
  | setTarget | resume | off | clearFault

namespace HeaterAction

/-- The action's byte. -/
def code : HeaterAction → Byte
  | setTarget => 0
  | resume => 1
  | off => 2
  | clearFault => 3

/-- The action's command. -/
def instr : HeaterAction → HostFrame → Instr
  | setTarget => .heaterSetTarget
  | resume => .heaterResume
  | off => .heaterOff
  | clearFault => .heaterClearFault

/-- What the action does to the device. -/
def effect : HeaterAction → State → Fin 6 → List Byte → State
  | setTarget => fun s n a => { s with mox := vmod s.mox n fun m =>
      { commandTick m with override := .target (signed 16 (u16 a 2)) (u16 a 4), restart := false } }
  | resume => fun s n _ => restartProfile s n
  | off => fun s n _ => { s with mox := vmod s.mox n fun m => { commandTick m with override := .off, restart := false } }
  | clearFault => fun s n _ => restartProfile (dropHeaterFault s n) n

theorem code_le (k : HeaterAction) : k.code.toNat ≤ 3 := by
  cases k <;> decide

theorem exec_instr (k : HeaterAction) (f : HostFrame) (s : State) : exec (k.instr f) s = .next (heaterCommand s f k.code k.effect) := by
  cases k <;> rfl

section
variable {s : State} {f : HostFrame} {k : HeaterAction} (h : CommandReady s f 0x05 [(5, k.code)] 8)
include h

/-- The answer of a heater command is its body's. -/
theorem exec_ready {st : Byte} {x : State}
    (e : heaterBody k.code k.effect (sessionActivity s) (commandArgs f 0x05 [(5, k.code)]) = (st, x)) :
    exec (k.instr f) s = .next (replied x f 0x05 st) :=
  (k.exec_instr f s).trans (heaterCommand_ready h e)

variable {n : Fin 6} (hc : hasCal (sessionActivity s) = true) (hn : u8 (commandArgs f 0x05 [(5, k.code)]) 0 = n.val)
  (hp : moxPresent (sessionActivity s) n = true) (h6 : u16 (commandArgs f 0x05 [(5, k.code)]) 6 = 0)
  (h2 : k.code = 0 ∨ u16 (commandArgs f 0x05 [(5, k.code)]) 2 = 0)
  (hlo : -400 ≤ signed 16 (u16 (commandArgs f 0x05 [(5, k.code)]) 2)) (hhi : signed 16 (u16 (commandArgs f 0x05 [(5, k.code)]) 2) ≤ 6000)
include hc hn hp h6 h2 hlo hhi

theorem exec_notInMode (hm : moxHeats (sessionActivity s) n = false) :
    exec (k.instr f) s = .next (replied (sessionActivity s) f 0x05 stNotInMode) := by
  refine exec_ready h ?_
  rw [heaterBody_formed hc hn hp ((heaterAction h).trans_le k.code_le) h6 h2 hlo hhi, hm]
  rfl

theorem exec_accepted (hm : moxHeats (sessionActivity s) n = true) :
    exec (k.instr f) s = .next (replied (k.effect (sessionActivity s) n (commandArgs f 0x05 [(5, k.code)])) f 0x05 stOk) := by
  refine exec_ready h ?_
  rw [heaterBody_formed hc hn hp ((heaterAction h).trans_le k.code_le) h6 h2 hlo hhi, hm]
  rfl

omit h2 hlo hhi in
/-- A command that carries no target. -/
theorem exec_untargeted (h0 : u16 (commandArgs f 0x05 [(5, k.code)]) 2 = 0) (hm : moxHeats (sessionActivity s) n = true) :
    exec (k.instr f) s = .next (replied (k.effect (sessionActivity s) n (commandArgs f 0x05 [(5, k.code)])) f 0x05 stOk) :=
  exec_accepted h hc hn hp h6 (.inr h0) (by rw [h0]; decide) (by rw [h0]; decide) hm

end

end HeaterAction

/-! HEATER_CLEAR_FAULT. -/

theorem unlatched_iff (v : Vector Mox 6) : v.toList.all (fun m => m.fault.isNone) = true ↔ ¬∃ k : Fin 6, v[k].fault.isSome = true := by
  refine ⟨fun h ⟨k, hk⟩ => ?_, fun h => List.all_eq_true.2 fun m hm => ?_⟩
  · have hn := List.all_eq_true.1 h v[k] (Vector.mem_toList_iff.2 (Vector.getElem_mem k.isLt))
    rw [Option.isNone_iff_eq_none.1 hn] at hk
    cases hk
  · obtain ⟨i, hi, rfl⟩ := Vector.mem_iff_getElem.1 (Vector.mem_toList_iff.1 hm)
    exact Option.isNone_iff_eq_none.2 (Option.not_isSome_iff_eq_none.1 fun hs => h ⟨⟨i, hi⟩, hs⟩)

/-- The channel's latch is gone. -/
def unlatched (s : State) (n : Fin 6) : State := { s with mox := vmod s.mox n fun m => { m with fault := none } }

section
variable {s : State} {n : Fin 6}

theorem dropHeaterFault_none (h : s.mox[n].fault = none) : dropHeaterFault s n = s := if_pos (by rw [h]; rfl)

theorem dropHeaterFault_latched (h : s.mox[n].fault.isSome = true) : dropHeaterFault s n =
    if faultActive s 0x11 && (unlatched s n).mox.toList.all (fun m => m.fault.isNone) && !(s.ks.injected.contains 0x11) then
      clearFault (unlatched s n) 0x11
    else unlatched s n :=
  if_neg (by rw [Option.isNone_iff_eq_none]; exact Option.isSome_iff_ne_none.1 h)

/-- The latch goes, and with it at most code 0x11. -/
theorem dropHeaterFault_clear (s : State) (n : Fin 6) : ClearOnly (unlatched s n) (dropHeaterFault s n) := by
  cases h : s.mox[n].fault with
  | none =>
    have hm : (vmod s.mox n fun m => { m with fault := none }) = s.mox := by
      rw [vmod, ← h]
      exact Vector.set_getElem_self n.isLt
    rw [dropHeaterFault_none h, unlatched, hm]
    rfl
  | some k =>
    rw [dropHeaterFault_latched (by rw [h]; rfl)]
    split
    · exact clearFault_clear ..
    · rfl

theorem dropHeaterFault_mox (s : State) (n : Fin 6) : (dropHeaterFault s n).mox = (unlatched s n).mox := by
  rw [dropHeaterFault_clear]

/-- Code 0x11 goes with the last latch, unless it is injected. -/
theorem dropHeaterFault_last (h : s.mox[n].fault.isSome = true) (ha : faultActive (dropHeaterFault s n) 0x11 = true) :
    (∃ k : Fin 6, (unlatched s n).mox[k].fault.isSome = true) ∨ s.ks.injected.contains 0x11 = true := by
  rw [dropHeaterFault_latched h] at ha
  split at ha
  · rw [clearFault_inactive] at ha
    cases ha
  · next hc =>
    have ha : faultActive s 0x11 = true := ha
    simp only [ha, Bool.true_and, Bool.and_eq_true, unlatched_iff, Bool.not_eq_true', Bool.not_eq_false, not_and] at hc
    exact or_iff_not_imp_left.2 hc

/-- While a latch stays, or where there was none, Keystone stays. -/
theorem dropHeaterFault_kept (h : (∃ k : Fin 6, (unlatched s n).mox[k].fault.isSome = true) ∨ s.mox[n].fault = none) :
    (dropHeaterFault s n).ks = s.ks ∧ (dropHeaterFault s n).modes = s.modes := by
  cases hf : s.mox[n].fault with
  | none =>
    rw [dropHeaterFault_none hf]
    exact ⟨rfl, rfl⟩
  | some k =>
    have hl := h.resolve_right (by rw [hf]; exact Option.some_ne_none k)
    rw [dropHeaterFault_latched (by rw [hf]; rfl), if_neg]
    · exact ⟨rfl, rfl⟩
    · simp only [Bool.and_eq_true, unlatched_iff]
      exact fun hall => hall.1.2 hl

/-- HEATER_CLEAR_FAULT's effect: the latch goes, and the profile restarts. -/
def faultCleared (s : State) (n : Fin 6) : State := restartProfile (dropHeaterFault s n) n

theorem faultCleared_changes (s : State) (n : Fin 6) : faultCleared s n =
    { s with mox := (faultCleared s n).mox, ks := (faultCleared s n).ks, modes := (faultCleared s n).modes } := by
  have h := dropHeaterFault_clear s n
  unfold faultCleared restartProfile
  unfold ClearOnly at h
  rw [h]
  rfl

theorem faultCleared_mox (s : State) (n : Fin 6) : (faultCleared s n).mox =
    vmod s.mox n fun m => { commandTick m with fault := none, restart := true } := by
  unfold faultCleared restartProfile
  rw [dropHeaterFault_mox]
  exact vmod_vmod s.mox n (fun m => { m with fault := none }) fun m => { commandTick m with restart := true }

/-- The restart leaves every latch as the fault's end left it. -/
theorem faultCleared_latches (s : State) (n k : Fin 6) : (faultCleared s n).mox[k].fault = (unlatched s n).mox[k].fault := by
  rw [faultCleared_mox, unlatched, vmod_get, vmod_get]
  split <;> rfl

end

/-- Settles O26: every heater command is the heater command of its action, whose refusals stand in the order of the statement; a latch that goes
takes code 0x11 with it when it was the last. -/
theorem heaterCommands : Obligations.HeaterCommands := by
  refine ⟨fun s f act c hact h => ?refused, fun s f n h => ?target, fun s f n h => ?resume, fun s f n h => ?off, fun s f n h => ?clear⟩
  case refused =>
    obtain ⟨k, rfl, rfl⟩ : ∃ k : HeaterAction, act = k.code ∧ c = k.instr := by
      rcases hact with ⟨ha, hc⟩ | ⟨ha, hc⟩ | ⟨ha, hc⟩ | ⟨ha, hc⟩
      · exact ⟨.setTarget, ha, hc⟩
      · exact ⟨.resume, ha, hc⟩
      · exact ⟨.off, ha, hc⟩
      · exact ⟨.clearFault, ha, hc⟩
    exact ⟨fun hc => HeaterAction.exec_ready h (heaterBody_locked hc), fun hc hb => HeaterAction.exec_ready h (heaterBody_badArg hc hb),
      fun n hc hn => ⟨fun hp => HeaterAction.exec_ready h (heaterBody_absent hc hn hp),
        fun hp hm h6 h2 hlo hhi => HeaterAction.exec_notInMode h hc hn hp h6 h2 hlo hhi hm⟩⟩
  case target =>
    intro u a hc hn hp hm h6 hlo hhi
    exact HeaterAction.exec_accepted (k := .setTarget) h hc hn hp h6 (.inl rfl) hlo hhi hm
  case resume =>
    intro u a hc hn hp hm h6 h2
    exact HeaterAction.exec_untargeted (k := .resume) h hc hn hp h6 h2 hm
  case off =>
    intro u a hc hn hp hm h6 h2
    exact HeaterAction.exec_untargeted (k := .off) h hc hn hp h6 h2 hm
  case clear =>
    intro u a hc hn hp hm h6 h2
    refine ⟨faultCleared u n, HeaterAction.exec_untargeted (k := .clearFault) h hc hn hp h6 h2 hm, faultCleared_changes u n,
      faultCleared_mox u n, fun hf ha => ?_, fun hk => ?_⟩
    · simp only [faultCleared_latches]
      exact dropHeaterFault_last hf ha
    · simp only [faultCleared_latches] at hk
      exact dropHeaterFault_kept hk

end Sys2Proof.Machine

namespace Sys2Proof.Machine

/-! Load shedding (R287, R288, R293 - R298, R316). -/

/-! The effective limit and the current. -/

theorem thermalLimit_nonneg (s : State) : 0 ≤ thermalLimit s := by
  have hs : (s.thermal.s.val : Rat) ≤ 8 := by exact_mod_cast s.thermal.s.isLt.le
  unfold thermalLimit
  exact div_nonneg (mul_nonneg (Nat.cast_nonneg _) (sub_nonneg.2 hs)) (by decide)

theorem ladderLimit_nonneg {s : State} {x : Rat} (h : ladderLimit s = some x) : 0 ≤ x := by
  unfold ladderLimit at h
  dsimp only at h
  split at h
  · exact absurd h (by simp)
  · rw [← Option.some.inj h]
    positivity

theorem effectiveLimit_nonneg (s : State) : 0 ≤ effectiveLimit s := by
  have hl : (0 : Rat) ≤ min (cfgRailLimit s : Rat) (thermalLimit s) := le_min (Nat.cast_nonneg _) (thermalLimit_nonneg s)
  unfold effectiveLimit
  split
  · exact le_rfl
  · dsimp only
    split
    · exact hl
    · next h => exact le_min hl (ladderLimit_nonneg h)

/-- The effective limit reads the configuration, the ladder record and the throttle step. -/
theorem effectiveLimit_congr {s t : State} (hc : t.config = s.config) (hp : t.rail.phases = s.rail.phases) (ht : t.thermal = s.thermal) :
    effectiveLimit t = effectiveLimit s := by
  have hrail : railPresent t = railPresent s := by rw [railPresent, sec_congr hc, railPresent]
  have hconf : cfgRailLimit t = cfgRailLimit s := by rw [cfgRailLimit, sec_congr hc, cfgRailLimit]
  have htherm : thermalLimit t = thermalLimit s := by rw [thermalLimit, hconf, ht, thermalLimit]
  have hcount : phaseCount t = phaseCount s := by
    funext x
    rw [phaseCount, hp, phaseCount]
  have hladder : ladderLimit t = ladderLimit s := by rw [ladderLimit, hcount, ladderLimit]
  rw [effectiveLimit, hrail, hconf, htherm, hladder, effectiveLimit]

/-- The next of the shed order is a matter of the configuration, the role and what is shed already. -/
theorem nextShed_congr {s t : State} (hc : t.config = s.config) (hr : t.role = s.role) (hs : t.rail.shed = s.rail.shed) : nextShed t = nextShed s := by
  have hchain : chainEnabled t = chainEnabled s := by
    funext w
    rw [chainEnabled, hr, sec_congr hc, chainEnabled]
  have hblock : moxBlock t = moxBlock s := by
    funext n
    rw [moxBlock, sec_congr hc, moxBlock]
  have hpresent : moxPresent t = moxPresent s := by
    funext n
    rw [moxPresent, hblock, moxPresent]
  have hcrit : moxCrit t = moxCrit s := by
    funext n
    rw [moxCrit, hblock, moxCrit]
  have hcand : shedCandidate t = shedCandidate s := by
    funext u
    rw [shedCandidate, hchain, hpresent, hcrit, hs, shedCandidate]
  have hunit : cfgShedUnit t = cfgShedUnit s := by
    funext i
    rw [cfgShedUnit, sec_congr hc, cfgShedUnit]
  rw [nextShed, hcand, hunit, nextShed]

/-- In a mode the analogue total limit is that of the effective limit in force (R288). -/
theorem totalCurrent_running {s : State} (h : isRunning s = true) (c : RailCurrents) : totalCurrent s c =
    min (5 * (ratFloor (effectiveLimit s)).toNat / 4) (if s.rail.shuntFailed then (senseSum s c).toNat else c.shunt) := by
  rw [totalCurrent, analogLimit, limitInForce, if_pos h]

/-- Above the effective limit nothing can be restored. -/
theorem restoreFits_above {s : State} {i : Nat} (h : effectiveLimit s < (i : Rat)) : restoreFits s i = false := by
  unfold restoreFits
  split
  · rfl
  · next u _ _ =>
    have hv : (0 : Rat) ≤ (shedValue s u : Rat) := Nat.cast_nonneg _
    have h0 := effectiveLimit_nonneg s
    exact decide_eq_false (by linarith)

/-- The digital checks run in a mode. -/
theorem railChecks_iff (s : State) : railChecks s = true ↔ isRunning s = true ∧ s.rail.state = .on := by
  rw [railChecks, Bool.and_eq_true, beq_iff_eq]

/-! The limits of the switches (R289, R295). -/

theorem chainLimits_changes (s : State) : chainLimits s = { s with rail := { s.rail with
    sw := (chainLimits s).rail.sw, chainShed := s.rail.shed.contains .chain && s.role == .head } } := rfl

theorem chainLimits_enabled {s : State} {w : Fin 2} (h : chainEnabled s w = true) : (chainLimits s).rail.sw[w] =
    { s.rail.sw[w] with limit := if s.rail.shed.contains .chain then cfgChainFloor s else cfgChainLimit s w } := by
  match w with
  | 0 => exact if_pos h
  | 1 => exact if_pos h

theorem chainLimits_floor {s : State} {w : Fin 2} (h : chainEnabled s w = true) (hs : s.rail.shed.contains .chain = true) :
    (chainLimits s).rail.sw[w] = { s.rail.sw[w] with limit := cfgChainFloor s } := by
  rw [chainLimits_enabled h, hs]
  rfl

theorem chainLimits_full {s : State} {w : Fin 2} (h : chainEnabled s w = true) (hs : s.rail.shed.contains .chain = false) :
    (chainLimits s).rail.sw[w] = { s.rail.sw[w] with limit := cfgChainLimit s w } := by
  rw [chainLimits_enabled h, hs]
  rfl

theorem chainLimits_disabled {s : State} {w : Fin 2} (h : chainEnabled s w = false) :
    (chainLimits s).rail.sw[w] = { s.rail.sw[w] with state := .off } := by
  match w with
  | 0 => exact if_neg (by rw [h]; decide)
  | 1 => exact if_neg (by rw [h]; decide)

/-! RAIL_SHED_TICK (R293, R296, R316). -/

/-- The shed values once a tick has measured the heater shed at the tick before (R296). -/
def measuredValues (s : State) (i : Nat) : Vector Nat 6 :=
  match s.rail.measuring with
  | some (n, before) => s.rail.heaterValue.set n.val (before - i)
  | none => s.rail.heaterValue

/-- The state a tick judges: the value measured, the current and the moment noted. -/
def tickTaken (s : State) (i : Nat) : State :=
  { s with rail := { s.rail with measuring := none, heaterValue := measuredValues s i, lastShunt := i, tickClk := s.clk } }

theorem effectiveLimit_tickTaken (s : State) (i : Nat) : effectiveLimit (tickTaken s i) = effectiveLimit s := effectiveLimit_congr rfl rfl rfl

theorem nextShed_tickTaken (s : State) (i : Nat) : nextShed (tickTaken s i) = nextShed s := nextShed_congr rfl rfl rfl

theorem closeMeasure_eq (s : State) (i : Nat) :
    closeMeasure s i = { s with rail := { s.rail with measuring := none, heaterValue := measuredValues s i } } := by
  cases h : s.rail.measuring with
  | none =>
    have hs : s = { s with rail := { s.rail with measuring := none } } := by rw [← h]
    rw [closeMeasure, measuredValues, h]
    exact hs
  | some m => rw [closeMeasure, measuredValues, h]

/-- The time of R297 begins, goes on, or ends with what a tick finds. -/
def fitsNoted (s : State) (i : Nat) : State :=
  { s with rail := { s.rail with fitsClk := if restoreFits s i then s.rail.fitsClk.or (some s.clk) else none } }

theorem execRailShedTick_due {s : State} (c : RailCurrents) (h : railChecks s = true) (hc : s.rail.tickClk + 1000 ≤ s.clk) :
    execRailShedTick c s = .next (fitsNoted (shedTick (tickTaken s (totalCurrent s c)) (totalCurrent s c)) (totalCurrent s c)) := by
  unfold execRailShedTick
  rw [h, if_neg (by simp [hc])]
  dsimp only
  rw [closeMeasure_eq]
  rfl

theorem execRailShedTick_not {s : State} (c : RailCurrents) (h : railChecks s = false ∨ s.clk < s.rail.tickClk + 1000) :
    execRailShedTick c s = .next s :=
  if_pos (by rcases h with h | h <;> simp [h])

theorem shedTick_within {s : State} {i : Nat} (h : (i : Rat) ≤ effectiveLimit s) : shedTick s i = { s with rail := { s.rail with analog := false } } :=
  if_pos h

section
variable {s : State} {i : Nat} (h : effectiveLimit s < (i : Rat))
include h

theorem shedTick_sheds {u : Shed} (hu : nextShed s = some u) : shedTick s i = shedOne s u i := by
  rw [shedTick, if_neg (not_le.2 h), hu]

/-- With everything shed the flag of the analogue limit is set, and logged when it was not. -/
theorem shedTick_limits (hu : nextShed s = none) : LogOnly { s with rail := { s.rail with analog := true } } (shedTick s i) := by
  rw [shedTick, if_neg (not_le.2 h), hu]
  dsimp only
  split
  · next ha =>
    rw [← ha]
    exact .refl s
  · exact logGeneral_log (.refl _) ..

end

/-- A heater shed, the measurement of its value begun. -/
def heaterShed (s : State) (n : Fin 6) (i : Nat) : State :=
  spoilFilm { s with rail := { s.rail with shed := .heater n :: s.rail.shed, fitsClk := none, measuring := some (n, i) } } n

theorem shedOne_heater (s : State) (n : Fin 6) (i : Nat) : LogOnly (heaterShed s n i) (shedOne s (.heater n) i) := by
  unfold shedOne
  exact logShed_log ..

theorem effectiveLimit_heaterShed (s : State) (n : Fin 6) (i : Nat) : effectiveLimit (heaterShed s n i) = effectiveLimit s :=
  effectiveLimit_congr rfl rfl rfl

/-- The chain shed, the measurement of its value begun. -/
def chainOut (s : State) (i : Nat) : State :=
  { s with rail := { s.rail with shed := .chain :: s.rail.shed, fitsClk := none, chainFrom := some i, chainClk := s.clk } }

theorem chainOut_contains (s : State) (i : Nat) : (chainOut s i).rail.shed.contains .chain = true :=
  List.contains_iff_mem.2 List.mem_cons_self

theorem effectiveLimit_chainOut (s : State) (i : Nat) : effectiveLimit (chainLimits (chainOut s i)) = effectiveLimit s :=
  effectiveLimit_congr rfl rfl rfl

theorem shedOne_chain (s : State) (i : Nat) : LogOnly (chainLimits (chainOut s i)) (shedOne s .chain i) := by
  unfold shedOne
  exact logShed_log ..

section
variable {s : State} {c : RailCurrents} (h : railChecks s = true) (hc : s.rail.tickClk + 1000 ≤ s.clk)
  (hl : effectiveLimit s < (totalCurrent s c : Rat))
include h hc hl

/-- A tick above the limit that leaves `x` but for the log ends with no time of R297 under way. -/
theorem execRailShedTick_above {x : State} (hx : LogOnly x (shedTick (tickTaken s (totalCurrent s c)) (totalCurrent s c)))
    (he : effectiveLimit x = effectiveLimit s) :
    ∃ t, execRailShedTick c s = .next t ∧ LogOnly { x with rail := { x.rail with fitsClk := none } } t := by
  refine ⟨_, execRailShedTick_due c h hc, ?_⟩
  generalize shedTick (tickTaken s (totalCurrent s c)) (totalCurrent s c) = y at hx
  unfold LogOnly at hx
  have hy : effectiveLimit y = effectiveLimit x := effectiveLimit_congr (by rw [hx]) (by rw [hx]) (by rw [hx])
  rw [fitsNoted, restoreFits_above (hy.trans he ▸ hl), hx]
  rfl

/-- The tick sheds the next of the order (R293). -/
theorem execRailShedTick_sheds {u : Shed} (hu : nextShed s = some u) {x : State}
    (hx : LogOnly x (shedOne (tickTaken s (totalCurrent s c)) u (totalCurrent s c))) (he : effectiveLimit x = effectiveLimit s) :
    ∃ t, execRailShedTick c s = .next t ∧ LogOnly { x with rail := { x.rail with fitsClk := none } } t := by
  refine execRailShedTick_above h hc hl ?_ he
  rw [shedTick_sheds (by rw [effectiveLimit_tickTaken]; exact hl) (by rw [nextShed_tickTaken]; exact hu)]
  exact hx

/-- With nothing left to shed the analogue limit holds the current (R316). -/
theorem execRailShedTick_limits (hu : nextShed s = none) : ∃ t, execRailShedTick c s = .next t ∧
    t = { s with rail := { s.rail with measuring := none, heaterValue := measuredValues s (totalCurrent s c), lastShunt := totalCurrent s c
                                       tickClk := s.clk, fitsClk := none, analog := true },
                 log := t.log, events := t.events } := by
  obtain ⟨t, ht, hx⟩ := execRailShedTick_above h hc hl
    (shedTick_limits (by rw [effectiveLimit_tickTaken]; exact hl) (by rw [nextShed_tickTaken]; exact hu)) (effectiveLimit_congr rfl rfl rfl)
  exact ⟨t, ht, Eq.trans hx rfl⟩

theorem execRailShedTick_heater {n : Fin 6} (hu : nextShed s = some (.heater n)) : ∃ t, execRailShedTick c s = .next t ∧
    t = { s with rail := { s.rail with measuring := some (n, totalCurrent s c), heaterValue := measuredValues s (totalCurrent s c)
                                       lastShunt := totalCurrent s c, tickClk := s.clk, fitsClk := none, shed := .heater n :: s.rail.shed },
                 mox := vmod s.mox n fun m => { m with frameGood := false }, log := t.log, events := t.events } := by
  obtain ⟨t, ht, hx⟩ := execRailShedTick_sheds h hc hl hu (shedOne_heater ..) ((effectiveLimit_heaterShed ..).trans (effectiveLimit_tickTaken ..))
  exact ⟨t, ht, Eq.trans hx rfl⟩

/-- The chain shed at the tick: its switches at the floor, and the head's indication set (R295). -/
theorem execRailShedTick_chain (hu : nextShed s = some .chain) : ∃ t, execRailShedTick c s = .next t ∧
    t = { s with rail := { s.rail with measuring := none, heaterValue := measuredValues s (totalCurrent s c), lastShunt := totalCurrent s c
                                       tickClk := s.clk, fitsClk := none, shed := .chain :: s.rail.shed, chainFrom := some (totalCurrent s c)
                                       chainClk := s.clk, chainShed := s.role == .head, sw := t.rail.sw },
                 log := t.log, events := t.events } ∧
    ∀ w : Fin 2, (chainEnabled s w = true → t.rail.sw[w] = { s.rail.sw[w] with limit := cfgChainFloor s }) ∧
      (chainEnabled s w = false → t.rail.sw[w] = { s.rail.sw[w] with state := .off }) := by
  obtain ⟨t, ht, hx⟩ := execRailShedTick_sheds h hc hl hu (shedOne_chain ..) ((effectiveLimit_chainOut ..).trans (effectiveLimit_tickTaken ..))
  have hsw := congrArg Rail.sw hx.rail
  have hin := chainOut_contains (tickTaken s (totalCurrent s c)) (totalCurrent s c)
  refine ⟨t, ht, ?_, fun w => ?_⟩
  · rw [chainLimits_changes, hin, Bool.true_and] at hx
    unfold LogOnly at hx
    rw [hx]
    rfl
  · rw [hsw]
    exact ⟨fun he => chainLimits_floor (s := chainOut _ _) he hin, fun he => chainLimits_disabled (s := chainOut _ _) he⟩

end

/-! CHAIN_SHED_VALUE (R296). -/

theorem execChainShedValue_due {s : State} {c : RailCurrents} {before : Nat} (hf : s.rail.chainFrom = some before) (h : railChecks s = true)
    (hc : s.rail.chainClk + 200000 ≤ s.clk) :
    execChainShedValue c s = .next { s with rail := { s.rail with chainFrom := none, chainValue := before - totalCurrent s c } } := by
  unfold execChainShedValue
  simp only [hf]
  rw [if_neg (by simp [h, hc])]

theorem execChainShedValue_early {s : State} (c : RailCurrents) (hc : s.clk < s.rail.chainClk + 200000) : execChainShedValue c s = .next s := by
  unfold execChainShedValue
  split
  · rfl
  · rw [if_pos (by simp [hc])]

/-! RAIL_RESTORE (R297). -/

/-- The latest shed has fitted for 500 ms. -/
def fitsLong (s : State) : Bool := (s.rail.fitsClk.map fun k => decide (k + 500000 ≤ s.clk)).getD false

theorem fitsLong_some {s : State} {k : Nat} (h : s.rail.fitsClk = some k) : fitsLong s = decide (k + 500000 ≤ s.clk) := by
  rw [fitsLong, h, Option.map_some, Option.getD_some]

theorem execRailRestore_eq (s : State) (c : RailCurrents) : execRailRestore c s =
    if railChecks s && fitsLong s && restoreFits s (totalCurrent s c) then .next (restoreOne s (totalCurrent s c)) else .next s := rfl

theorem execRailRestore_due {s : State} {c : RailCurrents} {u : Shed} {l : List Shed} {k : Nat} (h : railChecks s = true) (hs : s.rail.shed = u :: l)
    (hk : s.rail.fitsClk = some k) (hc : k + 500000 ≤ s.clk) (hf : (totalCurrent s c : Rat) + (shedValue s u : Rat) ≤ 9 / 10 * effectiveLimit s) :
    execRailRestore c s = .next (restoreOne s (totalCurrent s c)) := by
  have hr : restoreFits s (totalCurrent s c) = true := by
    rw [restoreFits, hs]
    exact decide_eq_true hf
  rw [execRailRestore_eq, h, fitsLong_some hk, decide_eq_true hc, hr]
  rfl

theorem execRailRestore_not {s : State} (c : RailCurrents)
    (h : s.rail.shed = [] ∨ s.rail.fitsClk = none ∨ ∃ k, s.rail.fitsClk = some k ∧ s.clk < k + 500000) : execRailRestore c s = .next s := by
  have hno : fitsLong s = false ∨ restoreFits s (totalCurrent s c) = false := by
    rcases h with h | h | ⟨k, hk, hc⟩
    · exact .inr (by rw [restoreFits, h])
    · exact .inl (by rw [fitsLong, h]; rfl)
    · exact .inl (by rw [fitsLong_some hk, decide_eq_false (Nat.not_le.2 hc)])
  rw [execRailRestore_eq, if_neg]
  rcases hno with h | h <;> simp [h]

theorem restoreOne_heater {s : State} {n : Fin 6} {l : List Shed} (h : s.rail.shed = .heater n :: l) (i : Nat) :
    LogOnly { s with rail := { s.rail with shed := l, fitsClk := none } } (restoreOne s i) := by
  rw [restoreOne, h]
  exact logShed_log ..

theorem restoreOne_chain {s : State} {l : List Shed} (h : s.rail.shed = .chain :: l) (i : Nat) :
    LogOnly (chainLimits { s with rail := { s.rail with shed := l, fitsClk := none, chainFrom := none } }) (restoreOne s i) := by
  rw [restoreOne, h]
  exact logShed_log ..

/-- The chain restored: its switches at their limits of section 0x07 and the indication gone, unless it still stands in the list (R295, R297). -/
theorem restoreOne_chain_limits {s : State} {l : List Shed} (h : s.rail.shed = .chain :: l) (hn : l.contains .chain = false) (i : Nat) :
    (restoreOne s i).rail.chainShed = false ∧ (restoreOne s i).rail.chainFrom = none ∧
      ∀ w : Fin 2, chainEnabled s w = true → (restoreOne s i).rail.sw[w] = { s.rail.sw[w] with limit := cfgChainLimit s w } := by
  have hr := (restoreOne_chain h i).rail
  refine ⟨?_, ?_, fun w he => ?_⟩
  · rw [hr, chainLimits_changes]
    change (l.contains .chain && _) = false
    rw [hn, Bool.false_and]
  · rw [hr]
    rfl
  · rw [congrArg Rail.sw hr]
    exact chainLimits_full (s := { s with rail := { s.rail with shed := l, fitsClk := none, chainFrom := none } }) he hn

/-- Settles O28: a tick is judged by the effective limit and the next of the shed order; value and restore by their moments. -/
theorem loadShedding : Obligations.LoadShedding := by
  unfold Obligations.LoadShedding
  refine ⟨fun s c hr => ⟨fun hf => ?shunt, fun hf => ?senses⟩, fun s c h hc => ⟨fun hi => ?within, fun n hi hu => ?heater, fun hi hu => ?chain,
    fun hi hu => ?limits⟩, fun s c h => execRailShedTick_not c h, fun s c before hf h hc => execChainShedValue_due hf h hc,
    fun s c hc => execChainShedValue_early c hc, fun s c u l k h hs hk hc hf => ?restore, fun s c h => execRailRestore_not c h⟩
  case shunt => rw [totalCurrent_running hr, hf, if_neg (by decide)]
  case senses => rw [totalCurrent_running hr, hf, if_pos rfl]
  case within =>
    refine (execRailShedTick_due c h hc).trans ?_
    rw [shedTick_within (by rw [effectiveLimit_tickTaken]; exact hi)]
    rfl
  case heater => exact execRailShedTick_heater h hc hi hu
  case chain => exact execRailShedTick_chain h hc hi hu
  case limits => exact execRailShedTick_limits h hc hi hu
  case restore =>
    refine ⟨_, execRailRestore_due h hs hk hc hf, ?_⟩
    cases u with
    | heater n =>
      have hl := restoreOne_heater hs (totalCurrent s c)
      have hr := hl.rail
      refine ⟨?_, ?_, fun _ => hr, fun hu => absurd hu (by simp)⟩
      · unfold LogOnly at hl
        rw [hl]
      · rw [hr]
    | chain =>
      have hl := restoreOne_chain hs (totalCurrent s c)
      refine ⟨?_, ?_, fun hu => absurd rfl hu, fun _ hn => restoreOne_chain_limits hs hn _⟩
      · unfold LogOnly at hl
        rw [hl]
        rfl
      · rw [hl.rail]
        rfl

end Sys2Proof.Machine

namespace Sys2Proof.Machine

/-! The fault ladder of the phases (R299 - R307, R314). -/

/-! What the currents say of a phase. -/

/-- The mean phase current, the on-time and the run of cycles that the open condition asks for (R299). -/
def OpenLong (s : State) (o : LadderObs) (p : Fin 4) : Prop := 100 ≤ meanCurrent s o.cur ∧ 100 < phaseOn s o p ∧ 16 ≤ o.cycles[p]

section
variable {s : State} {o : LadderObs} {p : Fin 4}

/-- By its own sense and its derived current, with the shunt failed by its own sense alone (R299, R304). -/
theorem phaseOpenNow_working (h : s.rail.phases[p] = .working) : phaseOpenNow s o p = true ↔
    ((ownSense s o.cur p : Rat) < meanCurrent s o.cur / 10 ∧
      (s.rail.shuntFailed = true ∨ (derivedCurrent s o.cur p : Rat) < meanCurrent s o.cur / 10)) ∧ OpenLong s o p := by
  unfold phaseOpenNow OpenLong
  rw [h]
  simp only [Bool.and_eq_true, Bool.or_eq_true, decide_eq_true_eq, and_assoc]

/-- By the derived current alone (R305). -/
theorem phaseOpenNow_estimate (h : s.rail.phases[p] = .estimate) : phaseOpenNow s o p = true ↔
    (derivedCurrent s o.cur p : Rat) < meanCurrent s o.cur / 10 ∧ OpenLong s o p := by
  unfold phaseOpenNow OpenLong
  rw [h]
  simp only [Bool.and_eq_true, decide_eq_true_eq, and_assoc]

theorem phaseOpenNow_lost (h : s.rail.phases[p] = .lost) : phaseOpenNow s o p = false := by
  unfold phaseOpenNow
  rw [h]
  rfl

theorem senseFailsNow_iff : senseFailsNow s o p = true ↔ s.rail.phases[p] = .working ∧ 100 ≤ meanCurrent s o.cur ∧
    meanCurrent s o.cur / 4 < ratAbs ((ownSense s o.cur p : Rat) - (derivedCurrent s o.cur p : Rat)) ∧ 64 ≤ o.cycles[p] := by
  unfold senseFailsNow
  simp only [Bool.and_eq_true, beq_iff_eq, decide_eq_true_eq, and_assoc, Int.cast_sub]

end

/-! Counting phases. -/

/-- Every phase works, is estimated or is lost. -/
theorem phaseCount_total (s : State) : phaseCount s .working + phaseCount s .estimate + phaseCount s .lost = 4 := by
  have h (l : List PhaseState) : l.count .working + l.count .estimate + l.count .lost = l.length := by
    induction l with
    | nil => rfl
    | cons x l ih => cases x <;> simp <;> omega
  exact (h _).trans s.rail.phases.length_toList

/-- The phases left stand 120 degrees apart with one lost and 180 with two (R300, R301). -/
theorem interleave_of_lost {s : State} : (phaseCount s .lost = 1 → interleave s = some 120) ∧ (phaseCount s .lost = 2 → interleave s = some 180) := by
  have h := phaseCount_total s
  refine ⟨fun hl => ?_, fun hl => ?_⟩
  · rw [interleave, show phaseCount s .working + phaseCount s .estimate = 3 by omega]
    rfl
  · rw [interleave, show phaseCount s .working + phaseCount s .estimate = 2 by omega]
    rfl

/-- A phase that is lost adds one to those lost. -/
theorem phaseCount_set_lost {s t : State} {p : Fin 4} (h : s.rail.phases[p] ≠ .lost) (ht : t.rail.phases = s.rail.phases.set p.val .lost) :
    phaseCount t .lost = phaseCount s .lost + 1 := by
  have hp : (s.rail.phases[p] == PhaseState.lost) = false := beq_eq_false_iff_ne.2 h
  rw [phaseCount, ht, Vector.toList_set, List.count_set (by simp)]
  simp only [Vector.getElem_toList]
  rw [show (s.rail.phases[p.val] == PhaseState.lost) = false from hp]
  rfl

/-! A phase is lost (R300 - R302). -/

/-- The code is active after its declaration, or was before. -/
theorem declareEvent_active (s : State) (code : Fin 28) (arg evArg : Nat) (masked : Bool) :
    faultActive (declareEvent s code arg evArg masked) code = true := by
  unfold declareEvent
  split
  · assumption
  · exact declareWith_active ..

/-- A phase recorded as lost, with its event and its code. -/
def phaseTold (s : State) (p : Fin 4) : State := declareEvent (phaseOut s p) 0x13 p.val p.val true

/-- What the loss of a phase writes where code 0x13 is no reason for SAFE. -/
structure PhaseTold (s : State) (p : Fin 4) (t : State) : Prop where
  ladder : t = { s with rail := { s.rail with phases := s.rail.phases.set p.val .lost }, ks := t.ks, events := t.events, log := t.log }
  pending : t.events.pending.getLsbD 11 = true
  active : faultActive t 0x13 = true
  stays : PendingStays s t

theorem phaseTold_changes {s : State} (h : (cfgSafeMask s).getLsbD 0x13 = false) (p : Fin 4) : PhaseTold s p (phaseTold s p) := by
  have hf : FaultOnly (phaseOut s p) (phaseTold s p) := declareEvent_unmasked h ..
  obtain ⟨hp, hs⟩ := declareEvent_pending (phaseOut s p) 0x13 p.val p.val true
  unfold FaultOnly at hf
  exact ⟨by rw [hf]; rfl, hp, declareEvent_active .., ⟨hs.stays⟩⟩

theorem PhaseTold.phases {s t : State} {p : Fin 4} (h : PhaseTold s p t) : t.rail.phases = s.rail.phases.set p.val .lost := by
  rw [h.ladder]

/-- The first and the second phase lost leave the rail as it is (R300, R301). -/
theorem losePhase_few {s : State} {p : Fin 4} (h : s.rail.phases[p] ≠ .lost) (hm : (cfgSafeMask s).getLsbD 0x13 = false)
    (hc : phaseCount s .lost ≤ 1) : losePhase s p = phaseTold s p := by
  have hn := phaseCount_set_lost h (phaseTold_changes hm p).phases
  exact (losePhase_new h).trans (if_neg (by change ¬3 ≤ phaseCount (phaseTold s p) _; omega))

/-- The third turns the rail off (R302). -/
theorem losePhase_third {s : State} {p : Fin 4} (h : s.rail.phases[p] ≠ .lost) (hm : (cfgSafeMask s).getLsbD 0x13 = false)
    (hc : 2 ≤ phaseCount s .lost) : losePhase s p = railLost (phaseTold s p) := by
  have hn := phaseCount_set_lost h (phaseTold_changes hm p).phases
  exact (losePhase_new h).trans (if_pos (by change 3 ≤ phaseCount (phaseTold s p) _; omega))

/-- SAFE with cause 0x06 opens both switches (R126, R302). -/
theorem railLost_switches {s : State} (h : isRunning s = true) (w : Fin 2) : (railLost s).rail.sw[w].state = .off := by
  obtain ⟨x, hx, hr⟩ := enterSafe_rail (s := ladderOff s) h 6
  have hn : keepsChain x = false := by
    rw [keepsChain, hx]
    exact Bool.and_false _
  rw [railLost_eq, congrArg Rail.sw hr, safeRail, if_pos (by rw [hn]; rfl)]
  exact congrArg ChainSwitch.state (Vector.getElem_map ..)

/-- After the third lost phase: rail and switches off, SAFE with its cause, the phase recorded and told. -/
structure LadderDown (p : Fin 4) (s t : State) : Prop where
  down : RailDown t
  switches : ∀ w : Fin 2, t.rail.sw[w].state = .off
  lost : t.rail.phases[p] = .lost
  pending : t.events.pending.getLsbD 11 = true
  stays : PendingStays s t

theorem losePhase_down {s : State} {p : Fin 4} (hr : isRunning s = true) (h : s.rail.phases[p] ≠ .lost)
    (hm : (cfgSafeMask s).getLsbD 0x13 = false) (hc : 2 ≤ phaseCount s .lost) : LadderDown p s (losePhase s p) := by
  have ht := phaseTold_changes hm p
  have hrun : isRunning (phaseTold s p) = true := by
    rw [ht.ladder]
    exact hr
  obtain ⟨hd, hp, hs⟩ := railLost_changes hrun
  rw [losePhase_third h hm hc]
  refine ⟨hd, railLost_switches hrun, ?_, hs.stays 11 ht.pending, ht.stays.trans hs⟩
  rw [hp, ht.phases]
  exact Vector.getElem_set_self ..

/-! PHASE_OPEN (R299 - R302, R314). -/

/-- The second phase of a cycle waits for the next one. -/
def dropFree (s : State) : Bool := (s.rail.dropClk.map fun k => decide (k + 2 ≤ s.clk)).getD true

/-- The cycle of the drop is noted. -/
def dropNoted (s : State) : State := { s with rail := { s.rail with dropClk := some s.clk } }

theorem execPhaseOpen_eq (p : Fin 4) (o : LadderObs) (s : State) : execPhaseOpen p o s =
    if railChecks s && (Fin.find? (phaseOpenNow s o)) == some p && dropFree s then
      .next (losePhase (dropNoted s) p) else .next s := by
  rw [Fin.find?_eq_find?_finRange]
  rfl

theorem dropFree_some {s : State} {k : Nat} (h : s.rail.dropClk = some k) : dropFree s = decide (k + 2 ≤ s.clk) := by
  rw [dropFree, h, Option.map_some, Option.getD_some]

theorem dropFree_of_le {s : State} (h : ∀ k, s.rail.dropClk = some k → k + 2 ≤ s.clk) : dropFree s = true := by
  cases hk : s.rail.dropClk with
  | none => rw [dropFree, hk]; rfl
  | some k => rw [dropFree_some hk, decide_eq_true (h k hk)]

theorem execPhaseOpen_drops {s : State} {p : Fin 4} {o : LadderObs} (h : railChecks s = true) (ho : phaseOpenNow s o p = true)
    (hq : ∀ q : Fin 4, q < p → phaseOpenNow s o q = false) (hd : ∀ k, s.rail.dropClk = some k → k + 2 ≤ s.clk) :
    execPhaseOpen p o s = .next (losePhase (dropNoted s) p) := by
  rw [execPhaseOpen_eq, h, Fin.find?_eq_some_iff.2 ⟨ho, hq⟩, dropFree_of_le hd, if_pos (by simp)]

theorem execPhaseOpen_not {s : State} {p : Fin 4} {o : LadderObs} (h : phaseOpenNow s o p = false ∨ (∃ q : Fin 4, q < p ∧ phaseOpenNow s o q = true) ∨
    ∃ k, s.rail.dropClk = some k ∧ s.clk < k + 2) : execPhaseOpen p o s = .next s := by
  rw [execPhaseOpen_eq, if_neg fun hall => ?_]
  simp only [Bool.and_eq_true, beq_iff_eq, Fin.find?_eq_some_iff] at hall
  obtain ⟨⟨-, ho, hfirst⟩, hd⟩ := hall
  rcases h with h | ⟨q, hq, h⟩ | ⟨k, hk, h⟩
  · exact absurd ho (by rw [h]; decide)
  · exact absurd h (by rw [hfirst q hq]; decide)
  · rw [dropFree_some hk, decide_eq_true_eq] at hd
    omega

/-! PHASE_SENSE_FAIL (R303, R304). -/

/-- One sense declared failed. -/
def senseTold (s : State) (p : Fin 4) : State := declareEvent { s with rail := { s.rail with senseSeen := true } } 0x14 p.val p.val true

theorem execPhaseSenseFail_one {s : State} {o : LadderObs} {p : Fin 4} (h : railChecks s = true)
    (hf : (List.finRange 4).filter (senseFailsNow s o) = [p]) : execPhaseSenseFail o s =
    if cfgSenseAct (senseTold s p) then .next (losePhase (senseTold s p) p)
    else .next { senseTold s p with rail := { (senseTold s p).rail with phases := (senseTold s p).rail.phases.set p.val .estimate } } := by
  unfold execPhaseSenseFail
  rw [h, hf]
  rfl

theorem execPhaseSenseFail_shunt {s : State} {o : LadderObs} (h : railChecks s = true)
    (hf : 2 ≤ ((List.finRange 4).filter (senseFailsNow s o)).length) : execPhaseSenseFail o s =
    .next (declareEvent { s with rail := { s.rail with shuntFailed := true, senseSeen := true } } 0x14 4 4 true) := by
  unfold execPhaseSenseFail
  rw [h]
  match (List.finRange 4).filter (senseFailsNow s o), hf with
  | _ :: _ :: _, _ => rfl

theorem senseTold_changes {s : State} (h : (cfgSafeMask s).getLsbD 0x14 = false) (p : Fin 4) :
    FaultOnly { s with rail := { s.rail with senseSeen := true } } (senseTold s p) := declareEvent_unmasked h ..

theorem senseTold_pending (s : State) (p : Fin 4) : (senseTold s p).events.pending.getLsbD 12 = true :=
  (declareEvent_pending { s with rail := { s.rail with senseSeen := true } } 0x14 p.val p.val true).1

/-- The phase estimated in place of its sense (R303). -/
theorem execPhaseSenseFail_estimates {s : State} {o : LadderObs} {p : Fin 4} (h : railChecks s = true)
    (hf : (List.finRange 4).filter (senseFailsNow s o) = [p]) (hm : (cfgSafeMask s).getLsbD 0x14 = false) (ha : cfgSenseAct s = false) :
    ∃ t, execPhaseSenseFail o s = .next t ∧
      t = { s with rail := { s.rail with phases := s.rail.phases.set p.val .estimate, senseSeen := true }, ks := t.ks, events := t.events, log := t.log } ∧
      t.events.pending.getLsbD 12 = true ∧ faultActive t 0x14 = true := by
  have hx := senseTold_changes hm p
  have hp := senseTold_pending s p
  have hk : faultActive (senseTold s p) 0x14 = true := declareEvent_active ..
  rw [execPhaseSenseFail_one h hf]
  generalize senseTold s p = x at hx hp hk
  unfold FaultOnly at hx
  have hact : cfgSenseAct x = false := by
    rw [hx]
    exact ha
  rw [hact, if_neg (by decide)]
  refine ⟨_, rfl, ?_, hp, hk⟩
  rw [hx]

/-- Under SENSEACT the phase is dropped (R303): the first and second leave the rail on. -/
theorem execPhaseSenseFail_drops {s : State} {o : LadderObs} {p : Fin 4} (h : railChecks s = true)
    (hf : (List.finRange 4).filter (senseFailsNow s o) = [p]) (hm : (cfgSafeMask s).getLsbD 0x14 = false) (ha : cfgSenseAct s = true)
    (hl : (cfgSafeMask s).getLsbD 0x13 = false) :
    ∃ t, execPhaseSenseFail o s = .next t ∧ t.rail.phases[p] = .lost ∧ t.events.pending.getLsbD 12 = true ∧
      t.events.pending.getLsbD 11 = true ∧ (phaseCount s .lost ≤ 1 → t.rail.state = .on) := by
  obtain ⟨hr, ho⟩ := (railChecks_iff s).1 h
  have hfail : senseFailsNow s o p = true := (List.mem_filter.1 (hf ▸ List.mem_singleton_self p)).2
  obtain ⟨hw, -⟩ := senseFailsNow_iff.1 hfail
  have hx := senseTold_changes hm p
  have hp := senseTold_pending s p
  rw [execPhaseSenseFail_one h hf]
  generalize senseTold s p = x at hx hp
  unfold FaultOnly at hx
  have hact : cfgSenseAct x = true := by
    rw [hx]
    exact ha
  have hmask : (cfgSafeMask x).getLsbD 0x13 = false := by
    rw [hx]
    exact hl
  have hrun : isRunning x = true := by
    rw [hx]
    exact hr
  have hphases : x.rail.phases = s.rail.phases := by rw [hx]
  have hstate : x.rail.state = .on := by
    rw [hx]
    exact ho
  have hne : x.rail.phases[p] ≠ .lost := by
    rw [hphases, hw]
    decide
  have hcount : phaseCount x .lost = phaseCount s .lost := by rw [phaseCount, hphases, phaseCount]
  rw [hact, if_pos rfl]
  refine ⟨_, rfl, ?_⟩
  by_cases hc : phaseCount s .lost ≤ 1
  · have ht := phaseTold_changes hmask p
    rw [losePhase_few hne hmask (hcount.trans_le hc)]
    refine ⟨?_, ht.stays.stays 12 hp, ht.pending, fun _ => ?_⟩
    · rw [ht.phases]
      exact Vector.getElem_set_self ..
    · rw [ht.ladder]
      exact hstate
  · have hd := losePhase_down hrun hne hmask (by omega)
    exact ⟨hd.lost, hd.stays.stays 12 hp, hd.pending, fun hle => absurd hle hc⟩

/-! PHASE_RECHECK (R307). -/

/-- The moment of the check is noted. -/
def recheckBegun (s : State) : State := { s with rail := { s.rail with recheckClk := s.clk } }

theorem execPhaseRecheck_due {s : State} (o : PhaseCheckObs) (hs : inSafe s = true) (hc : s.modes.causes.getLsbD 6 = true) (ho : s.rail.state = .off)
    (ht : s.rail.recheckClk + 10000000 ≤ s.clk) : execPhaseRecheck o s =
    .next (if 2 ≤ ((List.finRange 4).filter (phasePasses o)).length then phasesReturn (recheckBegun s) o else phasesStayLost (recheckBegun s) o) := by
  have hoff : railOn s = false := by rw [railOn, ho]; rfl
  unfold execPhaseRecheck
  rw [isRunning_of_inSafe hs, hc, hoff, decide_eq_false (Nat.not_lt.2 ht)]
  rfl

theorem execPhaseRecheck_not {s : State} (o : PhaseCheckObs) (h : s.modes.causes.getLsbD 6 = false ∨ s.clk < s.rail.recheckClk + 10000000) :
    execPhaseRecheck o s = .next s := by
  unfold execPhaseRecheck
  rw [if_pos]
  rcases h with h | h
  · rw [h, Bool.not_false, Bool.or_true, Bool.true_or, Bool.true_or]
  · rw [decide_eq_true h, Bool.or_true]

/-- An entry to SAFE says nothing of the rail's cause. -/
theorem enterSafe_causeGone (s : State) {cause : Nat} (hc : cause ≠ 0) : (enterSafe s cause).modes.railCauseGone = s.modes.railCauseGone := by
  cases hr : isRunning s with
  | false =>
    unfold enterSafe
    rw [hr]
    rfl
  | true =>
    cases ha : isActive s with
    | true =>
      rw [enterSafe_modes ha hc]
      rfl
    | false =>
      have hi : inSafe s = true := by
        rw [isActive, hr] at ha
        rw [inSafe, hr]
        simpa using ha
      rw [enterSafe_again hi hc, safeRail_modes]
      rfl

/-- Losing a phase never reports the rail's cause as gone. -/
theorem losePhase_causeGone {s : State} (h : LadderRuns s) (p : Fin 4) (hg : s.modes.railCauseGone = false) :
    (losePhase s p).modes.railCauseGone = false := by
  by_cases hl : s.rail.phases[p] = .lost
  · rw [losePhase, if_pos hl]
    exact hg
  · by_cases hc : phaseCount s .lost ≤ 1
    · rw [losePhase_few hl h.unmasked hc, (phaseTold_changes h.unmasked p).ladder]
      exact hg
    · rw [losePhase_third hl h.unmasked (by omega), railLost_eq, enterSafe_causeGone _ (by decide)]
      rfl

theorem foldl_causeGone (o : PhaseCheckObs) (l : List (Fin 4)) {s : State} (h : LadderRuns s) (hg : s.modes.railCauseGone = false) :
    (l.foldl (fun s p => if phasePasses o p then s else losePhase s p) s).modes.railCauseGone = false := by
  induction l generalizing s with
  | nil => exact hg
  | cons p l ih =>
    rw [List.foldl_cons]
    split
    · exact ih h hg
    · exact ih (h.of_fixed (losePhase_fixed s p)) (losePhase_causeGone h p hg)

/-- Fewer than two phases pass: the rail stays off, and the cause present. -/
theorem phasesStayLost_changes {s : State} (o : PhaseCheckObs) (h : LadderRuns s) (hd : RailDown s) :
    (phasesStayLost s o).modes.railCauseGone = false ∧ RailDown (phasesStayLost s o) ∧
      ∀ p : Fin 4, (phasesStayLost s o).rail.phases[p] = if phasePasses o p then s.rail.phases[p] else .lost := by
  have hb : LadderRuns { s with modes := { s.modes with railCauseGone := false, goneClk := none } } := ⟨h.running, h.unmasked⟩
  have hch := foldl_checked o (List.finRange 4) hb
  refine ⟨foldl_causeGone o (List.finRange 4) hb rfl, ?_, fun p => (hch.phases p).trans ?_⟩
  · rcases hch.rest with hl | ⟨hd', -⟩
    · exact RailDown.ladder (t := { s with modes := { s.modes with railCauseGone := false, goneClk := none } }) ⟨hd.off, hd.safe, hd.cause⟩ hl
    · exact hd'
  · cases phasePasses o p <;> simp [List.mem_finRange]

/-- The passing phases work again. -/
def passersWork (s : State) (o : PhaseCheckObs) : State :=
  { s with rail := { s.rail with phases := Vector.ofFn fun p : Fin 4 => if phasePasses o p then PhaseState.working else s.rail.phases[p] } }

/-- With two or more passing, the others are lost and the rail's cause is left alone. -/
theorem failPhases_returned {s : State} {o : PhaseCheckObs} (h : LadderRuns s) (hp : 2 ≤ ((List.finRange 4).filter (phasePasses o)).length) :
    LadderOnly s (failPhases (passersWork s o) o) ∧
      ∀ p : Fin 4, (failPhases (passersWork s o) o).rail.phases[p] = if phasePasses o p then .working else .lost := by
  have hb : LadderRuns (passersWork s o) := ⟨h.running, h.unmasked⟩
  have hch := failPhases_checked o hb
  have hphases (p : Fin 4) : (failPhases (passersWork s o) o).rail.phases[p] = if phasePasses o p then .working else .lost := by
    rw [hch.phases, show (passersWork s o).rail.phases[p] = if phasePasses o p then .working else s.rail.phases[p] from Vector.getElem_ofFn ..]
    cases phasePasses o p <;> simp [List.mem_finRange]
  have hcount : phaseCount (failPhases (passersWork s o) o) .lost ≤ 2 := by
    have hsplit := List.length_eq_countP_add_countP (phasePasses o) (l := List.finRange 4)
    rw [List.length_finRange, List.countP_eq_length_filter, List.countP_eq_length_filter] at hsplit
    have hlost : phaseCount (failPhases (passersWork s o) o) .lost = ((List.finRange 4).filter fun p => decide ¬phasePasses o p = true).length := by
      rw [phaseCount_eq]
      congr 1
      refine List.filter_congr fun p _ => ?_
      rw [hphases]
      cases phasePasses o p <;> rfl
    omega
  have hl := hch.rest.resolve_right fun hd => absurd hd.2 (by omega)
  exact ⟨(show LadderOnly s (passersWork s o) from rfl).trans hl, hphases⟩

theorem noteGone_changes (s : State) : noteGone s = { s with modes := { s.modes with goneClk := (noteGone s).modes.goneClk } } := by
  unfold noteGone
  split <;> rfl

/-- Clearing a fault takes no other cause than 0x07 along (R761). -/
theorem clearFault_cause6 (s : State) (code : Fin 28) : (clearFault s code).modes.causes.getLsbD 6 = s.modes.causes.getLsbD 6 := by
  unfold clearFault
  dsimp only
  split
  · rw [noteGone_changes]
    simp
  · rfl

/-- The cause reported as no longer present (R138). -/
def causeReported (s : State) : State := noteGone { s with modes := { s.modes with railCauseGone := true } }

theorem causeReported_changes (s : State) : causeReported s =
    { s with modes := { s.modes with railCauseGone := true, goneClk := (causeReported s).modes.goneClk } } := noteGone_changes _

theorem phasesReturn_eq (s : State) (o : PhaseCheckObs) : phasesReturn s o =
    if phaseCount (causeReported (failPhases (passersWork s o) o)) .lost = 0 ∧ faultActive (causeReported (failPhases (passersWork s o) o)) 0x13 ∧
        !((causeReported (failPhases (passersWork s o) o)).ks.injected.contains 0x13) then
      clearFault (causeReported (failPhases (passersWork s o) o)) 0x13
    else causeReported (failPhases (passersWork s o) o) := rfl

/-- Code 0x13 goes with the last lost phase. -/
theorem phasesReturn_clear (s : State) (o : PhaseCheckObs) : ClearOnly (causeReported (failPhases (passersWork s o) o)) (phasesReturn s o) ∧
    (phasesReturn s o).modes.causes.getLsbD 6 = (causeReported (failPhases (passersWork s o) o)).modes.causes.getLsbD 6 := by
  rw [phasesReturn_eq]
  split
  · exact ⟨clearFault_clear .., clearFault_cause6 ..⟩
  · exact ⟨rfl, rfl⟩

/-- The rail's ladder after two or more phases have returned: the cause counts as gone, and stays in the word until the exit. -/
theorem phasesReturn_changes {s : State} {o : PhaseCheckObs} (h : LadderRuns s) (hp : 2 ≤ ((List.finRange 4).filter (phasePasses o)).length) :
    phasesReturn s o = { s with rail := { s.rail with phases := (phasesReturn s o).rail.phases }, modes := (phasesReturn s o).modes
                                ks := (phasesReturn s o).ks, events := (phasesReturn s o).events, log := (phasesReturn s o).log } ∧
    (phasesReturn s o).modes.railCauseGone = true ∧ (phasesReturn s o).modes.causes.getLsbD 6 = s.modes.causes.getLsbD 6 ∧
    ∀ p : Fin 4, (phasesReturn s o).rail.phases[p] = if phasePasses o p then .working else .lost := by
  obtain ⟨hl, hphases⟩ := failPhases_returned h hp
  obtain ⟨hc, hbit⟩ := phasesReturn_clear s o
  have hg := causeReported_changes (failPhases (passersWork s o) o)
  generalize failPhases (passersWork s o) o = u at hl hphases hc hbit hg
  generalize causeReported u = x at hc hbit hg
  generalize phasesReturn s o = t at hc hbit
  unfold ClearOnly at hc
  unfold LadderOnly at hl
  refine ⟨by rw [hc, hg, hl], ?_, ?_, fun p => ?_⟩
  · rw [hc, hg]
  · rw [hbit, hg, hl]
  · rw [show t.rail = u.rail by rw [hc, hg]]
    exact hphases p

/-! Voltages (R311 - R313). -/

/-- DROPOUT set and logged. -/
def dropoutTold (s : State) : State := logGeneral { s with rail := { s.rail with dropout := true } } 0x0D (ownNode s) 0 0 []

theorem dropoutTold_log (s : State) : LogOnly { s with rail := { s.rail with dropout := true } } (dropoutTold s) := logGeneral_log (.refl _) ..

section
variable {s : State} {o : RailVolts} (hr : isRunning s = true) (hd : s.rail.dropout = false) (hv : o.hrs < 95 / 100 * cfgSetpoint s)
  (hu : 10000 ≤ o.us)
include hr hd hv hu

theorem execDropout_on (hs : s.rail.state = .on) : execDropout o s = .next (dropoutTold s) := by
  have ht : (dropoutTold s).rail.state = .on := by
    rw [(dropoutTold_log s).rail]
    exact hs
  unfold execDropout
  rw [hr, hs, hd, decide_eq_true hv, decide_eq_true hu]
  exact congrArg Host.Outcome.next (if_pos ht)

theorem execDropout_softStart (hs : s.rail.state = .softStart) : execDropout o s = .next (railUp (dropoutTold s)) := by
  have ht : (dropoutTold s).rail.state ≠ .on := by
    rw [(dropoutTold_log s).rail]
    exact fun h => absurd (hs.symm.trans h) (by decide)
  unfold execDropout
  rw [hr, hs, hd, decide_eq_true hv, decide_eq_true hu]
  exact congrArg Host.Outcome.next (if_neg ht)

end

theorem execHrsMismatch_moves {s : State} {o : RailVolts} (h : railChecks s = true) (hb : s.rail.onHrail = false)
    (hv : max o.hrs o.balls / 10 < ratAbs (o.hrs - o.balls)) (hu : 128 ≤ o.us) :
    execHrsMismatch o s = .next (declareEvent { s with rail := { s.rail with onHrail := true } } 0x14 5 5 true) := by
  unfold execHrsMismatch
  rw [h, hb, decide_eq_true hv, decide_eq_true hu]
  rfl

theorem execRailOvervoltage_set {s : State} {o : RailVolts} (h : railOn s = true) (hv : 11 / 10 * setpointInForce s < o.hrs) :
    execRailOvervoltage o s = .next { s with rail := { s.rail with overvoltage := true } } := by
  unfold execRailOvervoltage
  rw [h, decide_eq_true hv]
  rfl

theorem execRailOvervoltage_not {s : State} {o : RailVolts} (h : railOn s = false ∨ o.hrs ≤ 11 / 10 * setpointInForce s) :
    execRailOvervoltage o s = .next s := by
  unfold execRailOvervoltage
  rcases h with h | h
  · rw [h, Bool.false_and]
    rfl
  · rw [decide_eq_false (not_lt.2 h), Bool.and_false]
    rfl

theorem execRailOvervoltageEnd_eq (o : RailVolts) (s : State) : execRailOvervoltageEnd o s =
    if o.hrs < 105 / 100 * setpointInForce s then .next { s with rail := { s.rail with overvoltage := false } } else .next s := by
  unfold execRailOvervoltageEnd
  by_cases h : o.hrs < 105 / 100 * setpointInForce s
  · rw [if_pos h, if_pos (decide_eq_true h)]
  · rw [if_neg h, if_neg (by rw [decide_eq_false h]; decide)]

/-- Settles O29: each step of the ladder by what the loss of a phase, the report of a sense or the phase check writes; the voltages by their limits. -/
theorem phaseLadder : Obligations.PhaseLadder := by
  unfold Obligations.PhaseLadder
  refine ⟨fun s o p => ⟨fun hw hf => ?openBoth, fun hw hf => ?openOwn, phaseOpenNow_estimate, phaseOpenNow_lost, fun hw => ?sense⟩,
    fun s p o h ho hq hd hm => ⟨fun hc => ?opens, fun hc => ?opensThird⟩, fun s p o h => execPhaseOpen_not h,
    fun s o p h hm hf => ⟨fun ha => execPhaseSenseFail_estimates h hf hm ha, fun ha hl => execPhaseSenseFail_drops h hf hm ha hl⟩,
    fun s o h hm hf => ?shunt, fun s o hs hc ho ht hm => ⟨fun hp => ?stay, fun hp => ?returned⟩, fun s o h => execPhaseRecheck_not o h,
    fun s o h hd hv hu => ?dropOn, fun s o hr hs hd hv hu => ?dropSoft, fun s o h hb hv hu hm => ?mismatch, fun s => rfl,
    fun s o h hv => execRailOvervoltage_set h hv, fun s o h => execRailOvervoltage_not h, fun s o => ⟨fun h => ?below, fun h => ?belowNot⟩⟩
  case openBoth =>
    refine (phaseOpenNow_working hw).trans ?_
    rw [hf]
    simp [OpenLong, and_assoc]
  case openOwn =>
    refine (phaseOpenNow_working hw).trans ?_
    rw [hf]
    simp [OpenLong]
  case sense => exact senseFailsNow_iff.trans (and_iff_right hw)
  case opens =>
    have hne : s.rail.phases[p] ≠ .lost := fun hl => absurd ho (by rw [phaseOpenNow_lost hl]; decide)
    have ht := phaseTold_changes (s := dropNoted s) hm p
    have hn := phaseCount_set_lost hne ht.phases
    exact ⟨_, (execPhaseOpen_drops h ho hq hd).trans (congrArg _ (losePhase_few hne hm hc)), ht.ladder, ht.pending, ht.active,
      fun h0 => interleave_of_lost.1 (hn.trans (by rw [h0])), fun h1 => interleave_of_lost.2 (hn.trans (by rw [h1]))⟩
  case opensThird =>
    have hne : s.rail.phases[p] ≠ .lost := fun hl => absurd ho (by rw [phaseOpenNow_lost hl]; decide)
    have hl := losePhase_down (s := dropNoted s) ((railChecks_iff s).1 h).1 hne hm hc
    exact ⟨_, execPhaseOpen_drops h ho hq hd, hl.down.safe, hl.down.cause, hl.down.off, hl.switches, hl.lost, hl.pending⟩
  case shunt =>
    have hf' := declareEvent_unmasked (s := { s with rail := { s.rail with shuntFailed := true, senseSeen := true } }) (code := 0x14) hm 4 4 true
    refine ⟨_, execPhaseSenseFail_shunt h hf, ?_, (declareEvent_pending _ 0x14 4 4 true).1, declareEvent_active ..⟩
    unfold FaultOnly at hf'
    rw [hf']
  case stay =>
    have hl : LadderRuns (recheckBegun s) := ⟨isRunning_of_inSafe hs, hm⟩
    obtain ⟨hg, hd, hphases⟩ := phasesStayLost_changes o hl ⟨ho, hs, hc⟩
    exact ⟨_, (execPhaseRecheck_due o hs hc ho ht).trans (congrArg _ (if_neg (by omega))), hg, hd.safe, hd.cause, hd.off, hphases⟩
  case returned =>
    have hl : LadderRuns (recheckBegun s) := ⟨isRunning_of_inSafe hs, hm⟩
    obtain ⟨hx, hg, hbit, hphases⟩ := phasesReturn_changes hl hp
    exact ⟨_, (execPhaseRecheck_due o hs hc ho ht).trans (congrArg _ (if_pos hp)), hx, hg, hbit.trans hc, hphases⟩
  case dropOn =>
    obtain ⟨hr, hs⟩ := (railChecks_iff s).1 h
    exact ⟨_, execDropout_on hr hd hv hu hs, dropoutTold_log s⟩
  case dropSoft =>
    have hl := dropoutTold_log s
    obtain ⟨hup, -⟩ := railUp_changes (dropoutTold s)
    have hrail : (railUp (dropoutTold s)).rail = { s.rail with dropout := true, state := .on, sw := (railUp (dropoutTold s)).rail.sw } := by
      rw [hup, hl.rail]
    refine ⟨_, execDropout_softStart hr hd hv hu hs, ?_, ?_, ?_, ?_, ?_⟩
    · unfold LogOnly at hl
      rw [hup, hl]
    · rw [hrail]
    · rw [hrail]
    · rw [hrail]
    · rw [hrail]
  case mismatch =>
    have hf := declareEvent_unmasked (s := { s with rail := { s.rail with onHrail := true } }) (code := 0x14) hm 5 5 true
    refine ⟨_, execHrsMismatch_moves h hb hv hu, ?_, (declareEvent_pending _ 0x14 5 5 true).1, declareEvent_active ..⟩
    unfold FaultOnly at hf
    rw [hf]
  case below => exact (execRailOvervoltageEnd_eq o s).trans (if_pos h)
  case belowNot => exact (execRailOvervoltageEnd_eq o s).trans (if_neg (not_lt.2 h))

end Sys2Proof.Machine

namespace Sys2Proof.Machine

/-! The throttle step, its timers and the periods of the thermal monitor (R319, R320, R329 - R331, R338). -/

theorem LogOnly.thermal {s t : State} (h : LogOnly s t) : t.thermal = s.thermal := by
  unfold LogOnly at h
  rw [h]

/-- A period is over when it has passed since the last time, if there was one. -/
theorem periodDue_iff {s : State} {last : Option Nat} {us : Nat} : periodDue s last us = true ↔ ∀ c, last = some c → c + us ≤ s.clk := by
  cases last <;> simp [periodDue]

theorem periodDue_early {s : State} {last : Option Nat} {us c : Nat} (hl : last = some c) (hc : s.clk < c + us) : periodDue s last us = false := by
  subst hl
  exact decide_eq_false (Nat.not_le.2 hc)

/-- The guard of the monitor's periodic commands: a period that is over lets the command act. -/
theorem monitorGuard_due {s : State} {last : Option Nat} {us : Nat} (hm : monitorOn s = true) (hd : ∀ c, last = some c → c + us ≤ s.clk) :
    ¬(!monitorOn s || !periodDue s last us) = true := by
  rw [hm, periodDue_iff.2 hd]
  decide

/-- Within the period the command does nothing. -/
theorem monitorGuard_early {s : State} {last : Option Nat} {us c : Nat} (hl : last = some c) (hc : s.clk < c + us) :
    (!monitorOn s || !periodDue s last us) = true := by
  rw [periodDue_early hl hc]
  exact Bool.or_true _

/-- The state with another throttle step. -/
def withStep (s : State) (n : Fin 8) : State := { s with thermal := { s.thermal with s := n } }

theorem setThrottle_same {s : State} {n : Fin 8} (h : n = s.thermal.s) : setThrottle s n = s := if_pos h

/-- Beside the step, a change of it writes the log and the events alone. -/
theorem setThrottle_log (s : State) (n : Fin 8) : LogOnly (withStep s n) (setThrottle s n) := by
  unfold setThrottle
  split
  · next h =>
    subst h
    rfl
  · exact logGeneral_log (raise_log (.refl (withStep s n)) ..) ..

theorem setThrottle_stays (s : State) (n : Fin 8) : PendingStays s (setThrottle s n) := by
  unfold setThrottle
  split
  · exact ⟨fun _ h => h⟩
  · refine logGeneral_stays (raise_stays ?_ ..) ..
    exact ⟨fun _ h => h⟩

/-- A change of the step raises EV13 (R331). -/
theorem setThrottle_pending {s : State} {n : Fin 8} (h : n ≠ s.thermal.s) : (setThrottle s n).events.pending.getLsbD 13 = true := by
  rw [setThrottle, if_neg h]
  exact (logGeneral_stays ⟨fun _ h => h⟩ ..).stays 13 (raise_pending (withStep s n) 13 n.val)

theorem stepUp_ne {n : Fin 8} (h : n ≠ 7) : stepUp n ≠ n := by
  revert n
  decide

theorem step_sub_one_ne {n : Fin 8} (h : n ≠ 0) : n - 1 ≠ n := by
  revert n
  decide

theorem upDue_iff {s : State} : upDue s = true ↔ s.thermal.zone = 2 ∧ s.thermal.stepClk + 250000 ≤ s.clk := by
  simp [upDue]

/-! THROTTLE_UP, THROTTLE_DOWN and ROR_HOLD_END (R329, R330, R334). -/

theorem execThrottleUp_due {s : State} (hm : monitorOn s = true) (hu : upDue s = true) (he : periodDue s s.thermal.evalClk 8000 = false) :
    execThrottleUp s = .next (setThrottle (timerTaken s) (stepUp s.thermal.s)) := by
  unfold execThrottleUp
  rw [hm, hu, he]
  rfl

theorem execThrottleUp_not {s : State} (h : upDue s = false) : execThrottleUp s = .next s := by
  unfold execThrottleUp
  rw [h, Bool.and_false]
  rfl

/-- The next step down is due: 2 s at the lower level since the last one, with a step to take back and no hold (R330, R334). -/
structure DownDue (s : State) : Prop where
  zone : s.thermal.zone = 0
  hold : s.thermal.hold = false
  step : s.thermal.s ≠ 0
  time : s.thermal.stepClk + 2000000 ≤ s.clk

theorem execThrottleDown_due {s : State} (hm : monitorOn s = true) (h : DownDue s) :
    execThrottleDown s = .next (setThrottle (timerTaken s) (s.thermal.s - 1)) :=
  congrArg _ (if_pos (by simp [hm, h.zone, h.hold, h.step, h.time]))

theorem execThrottleDown_not {s : State} (h : ¬DownDue s) : execThrottleDown s = .next s := by
  refine congrArg _ (if_neg fun hall => h ?_)
  simp only [Bool.and_eq_true, beq_iff_eq, decide_eq_true_eq, Bool.not_eq_true', bne_iff_ne] at hall
  obtain ⟨⟨⟨-, hz, ht⟩, hh⟩, hs⟩ := hall
  exact ⟨hz, hh, hs, ht⟩

/-- Both rates have been at or below the limit for 2 s (R334). -/
def ratesOkLong (s : State) : Bool := (s.thermal.okClk.map fun c => decide (c + 2000000 ≤ s.clk)).getD false

theorem ratesOkLong_some {s : State} {c : Nat} (h : s.thermal.okClk = some c) : ratesOkLong s = decide (c + 2000000 ≤ s.clk) := by
  rw [ratesOkLong, h, Option.map_some, Option.getD_some]

theorem execRorHoldEnd_eq (s : State) : execRorHoldEnd s =
    .next (if s.thermal.hold && !s.thermal.trip && ratesOkLong s then { s with thermal := { s.thermal with hold := false } } else s) := rfl

/-! SENSOR_BROKEN (R323, R326, R347 - R349). -/

theorem brokenNow_iff {s : State} {i : Fin 8} : brokenNow s i = true ↔ sensorBad s i = false ∧ 501 ≤ s.thermal.overCount[i] := by
  simp [brokenNow]

/-- No sensor that meets the condition with it deviates by more. -/
def LargestDev (s : State) (i : Fin 8) : Prop := ∀ j : Fin 8, brokenNow s j = true → ratAbs s.thermal.dev[j] ≤ ratAbs s.thermal.dev[i]

theorem brokenSensor_eq_some {s : State} {i : Fin 8} : brokenSensor s = some i ↔
    (brokenNow s i = true ∧ LargestDev s i) ∧ ∀ j < i, ¬(brokenNow s j = true ∧ LargestDev s j) := by
  unfold brokenSensor LargestDev
  rw [← Fin.find?_eq_find?_finRange, Fin.find?_eq_some_iff]
  simp [← Bool.not_eq_true, imp_iff_not_or]

/-- The sensor of the largest deviation is the one, on a tie the lowest number (R323). -/
theorem brokenSensor_of_largest {s : State} {i : Fin 8} (hi : brokenNow s i = true)
    (h : ∀ j : Fin 8, j ≠ i → brokenNow s j = true →
      ratAbs s.thermal.dev[j] < ratAbs s.thermal.dev[i] ∨ (ratAbs s.thermal.dev[j] = ratAbs s.thermal.dev[i] ∧ i < j)) :
    brokenSensor s = some i := by
  refine brokenSensor_eq_some.2 ⟨⟨hi, fun j hj => ?_⟩, fun j hji ⟨hj, hl⟩ => ?_⟩
  · rcases eq_or_ne j i with rfl | hne
    · exact le_rfl
    · exact (h j hne hj).elim le_of_lt fun he => he.1.le
  · rcases h j hji.ne hj with hlt | ⟨-, hij⟩
    · exact absurd (hl i hi) (not_le.2 hlt)
    · exact absurd hij hji.not_gt

theorem execSensorBroken_not {s : State} {i : Fin 8} (h : brokenNow s i = false ∨ s.clk < s.thermal.releaseClk + 4000000) :
    execSensorBroken i s = .next s := by
  refine if_pos ?_
  simp only [Bool.or_eq_true, Bool.not_eq_true', bne_iff_ne, decide_eq_true_eq]
  rcases h with h | h
  · refine .inl (.inr fun hs => ?_)
    obtain ⟨⟨hb, -⟩, -⟩ := brokenSensor_eq_some.1 hs
    exact absurd (h.symm.trans hb) (by decide)
  · exact .inr h

theorem sensorValue_congr {s t : State} (h : t.thermal.broken = s.thermal.broken) : sensorValue t = sensorValue s := by
  have hb : sensorBad t = sensorBad s := funext fun i => congrArg (fun b => BitVec.getLsbD b i.val) h
  funext v i
  simp only [sensorValue, hb]

theorem reportedMax_congr {s t : State} (h : t.thermal.broken = s.thermal.broken) : reportedMax t = reportedMax s := by
  funext v
  simp only [reportedMax, sensorValue_congr h]

/-! The zone of the maximum (R329, R330). -/

/-- The maximum lies in its zone; the timer starts anew where it has just come there. -/
theorem zoneStep_changes (s : State) : (zoneStep s).1 =
    { s with thermal := { s.thermal with zone := thermalZone s s.thermal.max, stepClk := (zoneStep s).1.thermal.stepClk } } := by
  unfold zoneStep
  dsimp only
  split
  · next h =>
    rw [h]
  · rfl

/-- The step of the first evaluation above the threshold. -/
theorem zoneStep_up {s : State} : (zoneStep s).2 = true ↔ thermalZone s s.thermal.max = 2 ∧ s.thermal.zone ≠ 2 := by
  unfold zoneStep
  dsimp only
  split
  · next h => simp [h]
  · next h =>
    simp only [beq_iff_eq]
    exact ⟨fun hz => ⟨hz, fun hs => h (hz.trans hs.symm)⟩, And.left⟩

/-- The maximum has stayed in its zone: nothing changes. -/
theorem zoneStep_same {s : State} (h : thermalZone s s.thermal.max = s.thermal.zone) : zoneStep s = (s, false) := if_pos h

/-! A sensor is declared broken. -/

/-- The sensor in the broken mask, its run of hot conversions begun anew, the counts as R323 leaves them. -/
def sensorMasked (s : State) (i : Fin 8) : State :=
  { s with thermal := { s.thermal with
      broken := s.thermal.broken ||| BitVec.ofNat 8 (2 ^ i.val), overCount := countsAfresh s, dev := s.thermal.dev.set i.val 0
      hot := s.thermal.hot.set i.val 0 } }

/-- The reported maximum of the means held. -/
def maximumTaken (s : State) : State :=
  { s with thermal := { s.thermal with max := (reportedMax s s.thermal.mean).1, source := (reportedMax s s.thermal.mean).2 } }

/-- The zone after a declaration, with the step of R348 where the maximum now lies above the threshold for the first time. -/
def zoneAfterBroken (s : State) : State := if (zoneStep s).2 then brokenStep (zoneStep s).1 else (zoneStep s).1

/-- The throttle step after a declaration that leads to a maximum (R347, R348). -/
def stepAfterBroken (s : State) (m : Rat) : Fin 8 :=
  if thermalZone s m = 2 ∧ s.thermal.zone ≠ 2 ∧ (s.thermal.tripRaised = false ∨ s.thermal.evalClk ≠ some s.clk) then
    stepUp s.thermal.s
  else s.thermal.s

/-- The declaration itself, with the fault it reports (R326). -/
def sensorDeclared (s : State) (i : Fin 8) : State := declareOpen (sensorMasked s i) 0x15 true

/-- The state after a declaration: its fault, its maximum and the zone of it. -/
def afterBroken (s : State) (i : Fin 8) : State := zoneAfterBroken (maximumTaken (sensorDeclared s i))

theorem execSensorBroken_declares {s : State} {i : Fin 8} (hm : monitorOn s = true) (hs : brokenSensor s = some i)
    (ht : s.thermal.releaseClk + 4000000 ≤ s.clk) :
    execSensorBroken i s = .next (afterBroken s i) :=
  if_neg (by simp [hm, hs, ht])

theorem sensorMasked_bad (s : State) (i j : Fin 8) : sensorBad (sensorMasked s i) j = (sensorBad s j || decide (j = i)) := by
  simp only [sensorBad, sensorMasked, BitVec.getLsbD_or, BitVec.getLsbD_ofNat, j.isLt, decide_true, Bool.true_and, Nat.testBit_two_pow]
  simp [Fin.ext_iff, eq_comm]

/-- The step of R348 is taken but where a trip has raised s to 4 at this very evaluation. -/
theorem brokenStep_eq (s : State) : brokenStep s =
    setThrottle s (if s.thermal.tripRaised = false ∨ s.thermal.evalClk ≠ some s.clk then stepUp s.thermal.s else s.thermal.s) := by
  unfold brokenStep
  by_cases h : s.thermal.tripRaised = false ∨ s.thermal.evalClk ≠ some s.clk
  · rw [if_pos h, if_neg (by simpa [imp_iff_not_or] using h)]
  · rw [if_neg h, if_pos (by simpa using h), setThrottle_same rfl]

theorem zoneAfterBroken_eq (s : State) : zoneAfterBroken s = setThrottle (zoneStep s).1 (stepAfterBroken s s.thermal.max) := by
  have hz := zoneStep_changes s
  unfold zoneAfterBroken stepAfterBroken
  by_cases hu : (zoneStep s).2 = true
  · obtain ⟨h2, hn⟩ := zoneStep_up.1 hu
    rw [if_pos hu, brokenStep_eq, hz]
    simp only [h2, hn, ne_eq, not_false_eq_true, true_and]
  · rw [if_neg hu, if_neg fun ⟨h2, hn, _⟩ => hu (zoneStep_up.2 ⟨h2, hn⟩), setThrottle_same (by rw [hz])]

theorem zoneAfterBroken_log (s : State) :
    LogOnly (withStep (zoneStep s).1 (stepAfterBroken s s.thermal.max)) (zoneAfterBroken s) ∧ PendingStays s (zoneAfterBroken s) := by
  rw [zoneAfterBroken_eq]
  refine ⟨setThrottle_log .., .trans ⟨fun _ hn => ?_⟩ (setThrottle_stays ..)⟩
  rw [zoneStep_changes]
  exact hn

/-- What a declaration makes of the monitor; of the rest only the fault, its free value, events and log are written. -/
structure Declared (s : State) (i : Fin 8) (t : State) : Prop where
  rest : t = { s with freeCount := t.freeCount, thermal := t.thermal, ks := t.ks, events := t.events, log := t.log }
  thermal : t.thermal = { (sensorMasked s i).thermal with
    max := (reportedMax t s.thermal.mean).1, source := t.thermal.source, zone := t.thermal.zone, stepClk := t.thermal.stepClk
    s := stepAfterBroken s t.thermal.max }
  active : faultActive t 0x15 = true
  stays : PendingStays (sensorDeclared s i) t

theorem sensorDeclared_changes {s : State} (h : (cfgSafeMask s).getLsbD 0x15 = false) (i : Fin 8) : sensorDeclared s i =
    { sensorMasked s i with freeCount := (sensorDeclared s i).freeCount, ks := (sensorDeclared s i).ks, events := (sensorDeclared s i).events
                            log := (sensorDeclared s i).log } :=
  declareOpen_unmasked (s := sensorMasked s i) (code := 0x15) h true

/-- A code that was not active raises EV03 (R326). -/
theorem sensorDeclared_pending {s : State} (h : faultActive s 0x15 = false) (i : Fin 8) :
    (sensorDeclared s i).events.pending.getLsbD 3 = true :=
  declareOpen_pending (s := sensorMasked s i) (code := 0x15) h true

theorem afterBroken_declared {s : State} (h : (cfgSafeMask s).getLsbD 0x15 = false) (i : Fin 8) : Declared s i (afterBroken s i) := by
  have hd := sensorDeclared_changes h i
  have hactive : faultActive (sensorDeclared s i) 0x15 = true := declareOpen_active ..
  obtain ⟨hl, hs⟩ : LogOnly _ (afterBroken s i) ∧ PendingStays _ (afterBroken s i) := zoneAfterBroken_log (maximumTaken (sensorDeclared s i))
  generalize afterBroken s i = t at hl hs
  have hz := zoneStep_changes (maximumTaken (sensorDeclared s i))
  generalize hd' : sensorDeclared s i = d at hd hactive hl hs hz
  have hstep : stepAfterBroken (maximumTaken d) = stepAfterBroken s := by
    rw [hd]
    rfl
  unfold LogOnly at hl
  rw [hz, hstep] at hl
  have hmax : reportedMax t = reportedMax d := reportedMax_congr (by rw [hl]; rfl)
  refine ⟨?_, ?_, ?_, by rw [hd']; exact ⟨hs.stays⟩⟩
  · rw [hl, hd]
    rfl
  · rw [hmax, hl, hd]
    rfl
  · rw [faultActive, show t.ks = d.ks by rw [hl]; rfl]
    exact hactive

/-- Settles O31: each command by the condition it acts on; a declaration by what the fault, the maximum and its zone write one after another. -/
theorem throttleSteps : Obligations.ThrottleSteps := by
  unfold Obligations.ThrottleSteps
  refine ⟨fun s c hm hz ht he hc => ?up, fun s h => execThrottleUp_not ?upNot, fun s hm hz ht hh hs => ?down, fun s h => execThrottleDown_not ?downNot,
    fun s c hh ht hk hc => ?holdEnd, fun s h => ?holdStays, fun s i hm hb ho hd ht hmask => ?broken, fun s i h => execSensorBroken_not ?brokenNot⟩
  case up =>
    have hl := setThrottle_log (timerTaken s) (stepUp s.thermal.s)
    refine ⟨_, execThrottleUp_due hm (upDue_iff.2 ⟨hz, ht⟩) (periodDue_early he hc), hl, fun h7 => ?_, fun h7 => ?_⟩
    · exact setThrottle_pending (s := timerTaken s) (stepUp_ne h7)
    · rw [setThrottle_same (s := timerTaken s) (show stepUp s.thermal.s = s.thermal.s by rw [h7]; rfl)]
      exact ⟨rfl, rfl⟩
  case upNot =>
    rw [← Bool.not_eq_true, upDue_iff]
    rintro ⟨hz, ht⟩
    rcases h with h | h
    · exact h hz
    · omega
  case down =>
    exact ⟨_, execThrottleDown_due hm ⟨hz, hh, hs, ht⟩, setThrottle_log .., setThrottle_pending (s := timerTaken s) (step_sub_one_ne hs)⟩
  case downNot =>
    rintro ⟨hz, hh, hs, ht⟩
    rcases h with h | h | h | h
    · exact h hz
    · exact absurd (hh.symm.trans h) (by decide)
    · exact hs h
    · omega
  case holdEnd =>
    rw [show exec .rorHoldEnd s = execRorHoldEnd s from rfl, execRorHoldEnd_eq, hh, ht, ratesOkLong_some hk, decide_eq_true hc]
    rfl
  case holdStays =>
    have hno : s.thermal.hold = false ∨ s.thermal.trip = true ∨ ratesOkLong s = false := by
      rcases h with h | h | h | ⟨c, hk, hc⟩
      · exact .inl h
      · exact .inr (.inl h)
      · exact .inr (.inr (by rw [ratesOkLong, h]; rfl))
      · exact .inr (.inr (by rw [ratesOkLong_some hk, decide_eq_false (Nat.not_le.2 hc)]))
    refine (execRorHoldEnd_eq s).trans (congrArg Host.Outcome.next (if_neg ?_))
    rcases hno with h | h | h <;> simp [h]
  case broken =>
    have hi : brokenNow s i = true := brokenNow_iff.2 ⟨hb, ho⟩
    have hs : brokenSensor s = some i := brokenSensor_of_largest hi fun j hj hn => hd j hj (brokenNow_iff.1 hn).1 (brokenNow_iff.1 hn).2
    have h := afterBroken_declared hmask i
    have hbad (j : Fin 8) : sensorBad (afterBroken s i) j = (sensorBad s j || decide (j = i)) := by
      rw [← sensorMasked_bad, sensorBad, h.thermal]
      rfl
    refine ⟨_, execSensorBroken_declares hm hs ht, h.rest, ?_, fun j hj => ?_, ?_, h.active, fun hn => ?_, congrArg Thermal.max h.thermal, fun j => ?_,
      congrArg Thermal.s h.thermal⟩
    · rw [hbad]
      simp
    · rw [hbad]
      simp [hj]
    · rw [h.thermal]
      exact Vector.getElem_set_self ..
    · exact h.stays.stays 3 (sensorDeclared_pending hn i)
    · rw [h.thermal]
      simp [sensorMasked, countsAfresh, brokenNow_iff]
  case brokenNot => 
    refine h.imp_left fun h => ?_
    rw [← Bool.not_eq_true, brokenNow_iff]
    exact fun hb => absurd hb.2 (Nat.not_le.2 h)

end Sys2Proof.Machine

namespace Sys2Proof.Machine

/-! DIE_TEMP_CONVERSION (R319, R336, R337, R339). -/

/-- One set of conversions as values. -/
def readingValues (x : Vector Int 8) : Vector Rat 8 := Vector.ofFn fun i : Fin 8 => ((x[i] : Int) : Rat)

/-- The paths' frames with TS4 added to their means (R339). -/
def ts4Added (s : State) (x : Vector Int 8) : Vector Weir 23 :=
  s.weirs.map fun y => { y with ts4Sum := y.ts4Sum + sensorValue s (readingValues x) 4, ts4N := y.ts4N + 1 }

section
variable (s : State) (x : Vector Int 8)

theorem takeConversions_changes : takeConversions s x = { s with thermal := (takeConversions s x).thermal, weirs := ts4Added s x } := rfl

theorem takeConversions_hot (i : Fin 8) : (takeConversions s x).thermal.hot[i] =
    if 2400 ≤ sensorValue s (readingValues x) i then min 2 (s.thermal.hot[i] + 1) else 0 := by
  simp only [takeConversions, Fin.getElem_fin, Vector.getElem_ofFn]
  rfl

theorem takeConversions_conv (i : Fin 8) : (takeConversions s x).thermal.conv[i] = (x[i] :: s.thermal.conv[i]).take 8 := by
  simp [takeConversions]

theorem takeConversions_frameSum (i : Fin 8) : (takeConversions s x).thermal.frameSum[i] = s.thermal.frameSum[i] + x[i] := by
  simp [takeConversions]

end

theorem crossing_eq_none {t : Thermal} : crossing t = none ↔ ∀ i : Fin 8, t.hot[i] < 2 := by
  simp [crossing]

theorem hot_of_crossing {t : Thermal} {i : Fin 8} (h : crossing t = some i) : 2 ≤ t.hot[i] := by
  simpa using List.find?_some h

/-- A crossing ends no episode (R337). -/
theorem takeConversions_episode {s : State} {x : Vector Int 8} {i : Fin 8} (h : crossing (takeConversions s x).thermal = some i) :
    (takeConversions s x).thermal.episode = s.thermal.episode := by
  have hhot := hot_of_crossing h
  have hall : ((List.finRange 8).all fun j => (takeConversions s x).thermal.hot[j] == 0) = false :=
    List.all_eq_false.2 ⟨i, List.mem_finRange i, by rw [beq_iff_eq]; omega⟩
  have hcool : (takeConversions s x).thermal.cool = 0 := if_neg (ne_true_of_eq_false hall)
  change (s.thermal.episode && decide ((takeConversions s x).thermal.cool < 2)) = s.thermal.episode
  rw [hcool]
  exact Bool.and_true _

/-- The first hot conversions of some sensors are no crossing. -/
theorem crossing_first {s : State} {x : Vector Int 8} (h : ∀ i : Fin 8, 2400 ≤ sensorValue s (readingValues x) i → s.thermal.hot[i] = 0) :
    crossing (takeConversions s x).thermal = none := by
  refine crossing_eq_none.2 fun i => ?_
  rw [takeConversions_hot]
  split
  · next hi => rw [h i hi]; decide
  · decide

/-- A hot conversion after a hot one is a crossing. -/
theorem crossing_second {s : State} {x : Vector Int 8} (h : ∃ i : Fin 8, 2400 ≤ sensorValue s (readingValues x) i ∧ 1 ≤ s.thermal.hot[i]) :
    ∃ i, crossing (takeConversions s x).thermal = some i := by
  obtain ⟨i, hi, h⟩ := h
  refine Option.ne_none_iff_exists'.1 fun hn => ?_
  have := crossing_eq_none.1 hn i
  rw [takeConversions_hot, if_pos hi] at this
  omega

/-- An episode of R337 has begun. -/
def episodeBegun (s : State) : State := { s with thermal := { s.thermal with episode := true } }

section
variable {s : State} {x : Vector Int 8} (hm : monitorOn s = true) (hd : ∀ c, s.thermal.convClk = some c → c + 1000 ≤ s.clk)
include hm hd

theorem execDieTempConversion_quiet (h : crossing (takeConversions s x).thermal = none) :
    execDieTempConversion x s = .next (takeConversions s x) := by
  unfold execDieTempConversion
  rw [if_neg (monitorGuard_due hm hd)]
  dsimp only
  rw [h]

variable {i : Fin 8} (h : crossing (takeConversions s x).thermal = some i)
include h

/-- Without the latch a crossing starts a thermal reset (R336). -/
theorem execDieTempConversion_resets (hl : s.modes.thermalLatch = false) :
    execDieTempConversion x s = .next (startReset (takeConversions s x) .thermal) := by
  unfold execDieTempConversion
  rw [if_neg (monitorGuard_due hm hd)]
  dsimp only
  rw [h]
  exact if_pos (by rw [takeConversions_changes, hl]; rfl)

/-- Under the latch a crossing of an episode already begun changes nothing more (R337). -/
theorem execDieTempConversion_goesOn (hl : s.modes.thermalLatch = true) (he : s.thermal.episode = true) :
    execDieTempConversion x s = .next (takeConversions s x) := by
  unfold execDieTempConversion
  rw [if_neg (monitorGuard_due hm hd)]
  dsimp only
  rw [h]
  dsimp only
  rw [if_neg (by rw [takeConversions_changes, hl]; decide)]
  exact if_pos ((takeConversions_episode h).trans he)

/-- Under the latch the first crossing begins an episode and adds one log entry (R337). -/
theorem execDieTempConversion_logs (hl : s.modes.thermalLatch = true) (he : s.thermal.episode = false) :
    execDieTempConversion x s = .next (logGeneral (episodeBegun (takeConversions s x)) 0x0E
      (ownNode (episodeBegun (takeConversions s x))) i.val 0 (toLE 2 (x[i] % 65536).toNat)) := by
  unfold execDieTempConversion
  rw [if_neg (monitorGuard_due hm hd)]
  dsimp only
  rw [h]
  dsimp only
  rw [if_neg (by rw [takeConversions_changes, hl]; decide)]
  exact if_neg (ne_true_of_eq_false ((takeConversions_episode h).trans he))

end

/-- A thermal reset sets the thermal latch (R336). -/
theorem startReset_thermalLatch (s : State) : (startReset s .thermal).modes.thermalLatch = true := by
  unfold startReset startWarm coreReset
  obtain ⟨g, x, c, k, e, o, n, hb⟩ := beforeReset (noteWarm s (keepRail s .thermal (limitInForce s)) .thermal)
  rw [hb]
  exact Bool.or_true _

end Sys2Proof.Machine

namespace Sys2Proof.Machine

/-! THERMAL_EVALUATION: the step of the zone (R320, R321, R329). -/

/-- The zone steps up here: at the first evaluation above the threshold, or when a step falls due at it. -/
theorem zoneSteps_iff {s : State} : ((zoneStep s).2 || (!(zoneStep s).2 && upDue (zoneStep s).1)) = true ↔
    thermalZone s s.thermal.max = 2 ∧ (s.thermal.zone ≠ 2 ∨ s.thermal.stepClk + 250000 ≤ s.clk) := by
  by_cases hz : thermalZone s s.thermal.max = s.thermal.zone
  · rw [zoneStep_same hz, hz]
    simp only [Bool.false_or, Bool.not_false, Bool.true_and, upDue_iff]
    exact and_congr_right fun h2 => (or_iff_right (not_not_intro h2)).symm
  · have hzone : (zoneStep s).1.thermal.zone = thermalZone s s.thermal.max := by rw [zoneStep_changes]
    simp only [Bool.or_eq_true, Bool.and_eq_true, zoneStep_up, upDue_iff, hzone]
    refine ⟨?_, fun ⟨h2, _⟩ => .inl ⟨h2, fun hs => hz (h2.trans hs.symm)⟩⟩
    rintro (⟨h2, hn⟩ | ⟨-, h2, -⟩)
    · exact ⟨h2, .inl hn⟩
    · exact ⟨h2, .inl fun hs => hz (h2.trans hs.symm)⟩

/-- The throttle step that the zone of a maximum gives at an evaluation. -/
def stepOfZone (s : State) (m : Rat) : Fin 8 :=
  if thermalZone s m = 2 ∧ (s.thermal.zone ≠ 2 ∨ s.thermal.stepClk + 250000 ≤ s.clk) then stepUp s.thermal.s else s.thermal.s

/-- An evaluation whose moment is noted. -/
def evaluationBegun (s : State) : State := { s with thermal := { s.thermal with evalClk := some s.clk } }

/-- The state with its means, deviations, maximum and zone. -/
def zoned (s : State) (p : Rat) : State := (evaluateZone (evaluationBegun s) p).1

/-- The maximum of the means of the conversions held. -/
def maximumNow (s : State) : Rat × Fin 8 := reportedMax s (s.thermal.conv.map meanOf)

theorem zoned_changes (s : State) (p : Rat) : zoned s p =
    { s with thermal := { s.thermal with
        mean := s.thermal.conv.map meanOf, dev := (zoned s p).thermal.dev, overCount := (zoned s p).thermal.overCount
        max := (maximumNow s).1, source := (maximumNow s).2, zone := thermalZone s (maximumNow s).1, evalClk := some s.clk
        stepClk := (zoned s p).thermal.stepClk } } := by
  have hz := zoneStep_changes (evaluateSensors (evaluationBegun s) p)
  unfold zoned evaluateZone
  generalize zoneStep (evaluateSensors (evaluationBegun s) p) = r at hz
  obtain ⟨x, first⟩ := r
  dsimp only at hz ⊢
  split <;> rw [hz] <;> rfl

theorem evaluateZone_step (s : State) (p : Rat) : (evaluateZone (evaluationBegun s) p).2 = stepOfZone s (maximumNow s).1 := by
  have hz := zoneStep_changes (evaluateSensors (evaluationBegun s) p)
  have hi := zoneSteps_iff (s := evaluateSensors (evaluationBegun s) p)
  unfold evaluateZone
  generalize zoneStep (evaluateSensors (evaluationBegun s) p) = r at hz hi
  obtain ⟨x, first⟩ := r
  dsimp only at hz hi ⊢
  have hs : x.thermal.s = s.thermal.s := by
    rw [hz]
    rfl
  rw [hs]
  exact if_congr hi rfl rfl

/-! The rates of an evaluation (R332 - R335). -/

/-- The values of TS0 and TS1 at this evaluation and the ones before, latest first. -/
def rateMeans (s : State) : List (Rat × Rat) := ((sensorValue s s.thermal.mean 0, sensorValue s s.thermal.mean 1) :: s.thermal.hist).take 32

/-- The monitor with the rates of an evaluation. -/
def ratesTaken (s : State) (r : Rat × Rat) : Thermal := { s.thermal with hist := rateMeans s, rate := r }

/-- A rate lies above the limit. -/
def RateAbove (s : State) (r : Rat × Rat) : Prop := cfgRor s / 16 < r.1 ∨ cfgRor s / 16 < r.2

theorem rorEvaluate_idle {s : State} (h : rorRuns s = false) : rorEvaluate s = (s.thermal, none) := if_pos (by rw [h]; rfl)

section
variable {s : State} (h : rorRuns s = true)
include h

/-- Before 248 ms of means exist there are no rates (R335). -/
theorem rorEvaluate_short (hr : ratesOf (rateMeans s) = none) : rorEvaluate s = (ratesTaken s (0, 0), none) := by
  unfold rateMeans at hr
  unfold rorEvaluate
  rw [if_neg (by rw [h]; decide)]
  dsimp only
  rw [hr]
  rfl

variable {r : Rat × Rat} (hr : ratesOf (rateMeans s) = some r)
include hr

/-- Both rates at or below the limit end a trip (R333). -/
theorem rorEvaluate_below (hb : ¬RateAbove s r) : rorEvaluate s =
    ({ ratesTaken s r with rorCount := 0, trip := false, okClk := s.thermal.okClk.or (some s.clk) }, none) := by
  unfold rateMeans at hr
  unfold rorEvaluate
  rw [if_neg (by rw [h]; decide)]
  dsimp only
  rw [hr]
  exact if_pos (by simpa [RateAbove] using hb)

/-- A rate above the limit begins a trip at the second evaluation running, where the limit applies (R333, R335). -/
theorem rorEvaluate_above (ha : RateAbove s r) : rorEvaluate s =
    if !rorApplies s then ({ ratesTaken s r with okClk := none }, none)
    else if s.thermal.rorCount = 0 ∨ s.thermal.trip then ({ ratesTaken s r with okClk := none, rorCount := 1 }, none)
    else ({ ratesTaken s r with okClk := none, trip := true, hold := true, trips := sat16 s.thermal.trips },
      some (if cfgRor s / 16 < r.1 then 0 else 1)) := by
  unfold rateMeans at hr
  unfold rorEvaluate
  rw [if_neg (by rw [h]; decide)]
  dsimp only
  rw [hr]
  refine if_neg fun ⟨h1, h2⟩ => ?_
  exact ha.elim (not_lt.2 h1) (not_lt.2 h2)

theorem rorEvaluate_rates : (rorEvaluate s).1.rate = r ∧ (rorEvaluate s).1.hist = rateMeans s := by
  by_cases ha : RateAbove s r
  · rw [rorEvaluate_above h hr ha]
    (repeat' split) <;> exact ⟨rfl, rfl⟩
  · rw [rorEvaluate_below h hr ha]
    exact ⟨rfl, rfl⟩

theorem rorEvaluate_unlimited (ha : RateAbove s r) (hl : rorApplies s = false) :
    rorEvaluate s = ({ ratesTaken s r with okClk := none }, none) := by
  rw [rorEvaluate_above h hr ha, hl]
  rfl

theorem rorEvaluate_trips (ha : RateAbove s r) (hl : rorApplies s = true) (hc : s.thermal.rorCount ≠ 0) (ht : s.thermal.trip = false) :
    rorEvaluate s = ({ ratesTaken s r with okClk := none, trip := true, hold := true, trips := sat16 s.thermal.trips },
      some (if cfgRor s / 16 < r.1 then 0 else 1)) := by
  rw [rorEvaluate_above h hr ha, hl, if_neg (by decide), if_neg (by simp [hc, ht])]

end

/-- The rate-of-rise part leaves the sensors, the maximum, the step and its timers. -/
def RatesOnly (t u : Thermal) : Prop :=
  u = { t with hist := u.hist, rate := u.rate, rorCount := u.rorCount, trip := u.trip, hold := u.hold, trips := u.trips, okClk := u.okClk }

theorem rorEvaluate_changes (s : State) : RatesOnly s.thermal (rorEvaluate s).1 := by
  cases h : rorRuns s with
  | false =>
    rw [rorEvaluate_idle h]
    rfl
  | true =>
    cases hr : ratesOf (rateMeans s) with
    | none =>
      rw [rorEvaluate_short h hr]
      rfl
    | some r =>
      by_cases ha : RateAbove s r
      · rw [rorEvaluate_above h hr ha]
        (repeat' split) <;> rfl
      · rw [rorEvaluate_below h hr ha]
        rfl

/-! The step of an evaluation, with its trip (R331, R333, R347). -/

/-- The throttle step where the zone gives `n`: at a trip the larger of it and 4. -/
def stepOfRates (s : State) (n : Fin 8) : Fin 8 := if (rorEvaluate s).2.isSome then max n 4 else n

/-- The monitor after the rates. -/
def ratedThermal (s : State) (n : Fin 8) : Thermal :=
  { (rorEvaluate s).1 with tripRaised := (rorEvaluate s).2.isSome && (rorEvaluate s).1.s < 4, s := stepOfRates s n }

theorem evaluateRates_log (s : State) (n : Fin 8) : LogOnly { s with thermal := ratedThermal s n } (evaluateRates s n) := by
  unfold evaluateRates ratedThermal stepOfRates
  generalize rorEvaluate s = q
  obtain ⟨t, trip⟩ := q
  cases trip with
  | none => exact setThrottle_log ..
  | some i => exact raise_log (setThrottle_log ..) ..

/-- A changed step raises EV13, with or without a trip. -/
theorem evaluateRates_pending {s : State} {n : Fin 8} (h : stepOfRates s n ≠ s.thermal.s) :
    (evaluateRates s n).events.pending.getLsbD 13 = true := by
  have hs : (rorEvaluate s).1.s = s.thermal.s := by rw [rorEvaluate_changes s]
  rw [← hs] at h
  unfold stepOfRates at h
  unfold evaluateRates
  generalize rorEvaluate s = q at h
  obtain ⟨t, trip⟩ := q
  cases trip with
  | none => exact setThrottle_pending h
  | some i => exact (raise_stays ⟨fun _ hn => hn⟩ ..).stays 13 (setThrottle_pending h)

/-- A trip raises EV14. -/
theorem evaluateRates_trip {s : State} {i : Nat} (h : (rorEvaluate s).2 = some i) (n : Fin 8) :
    (evaluateRates s n).events.pending.getLsbD 14 = true := by
  unfold evaluateRates
  generalize rorEvaluate s = q at h
  obtain ⟨t, trip⟩ := q
  cases h
  exact raise_pending _ 14 i

/-- A step up is never taken back by a trip. -/
theorem stepOfRates_ne {s : State} {n m : Fin 8} (hn : n = stepUp m ∨ n = m) (h : n ≠ m) : stepOfRates s n ≠ m := by
  unfold stepOfRates
  generalize (rorEvaluate s).2.isSome = b
  revert b n m
  decide

/-- Without a trip the step is the zone's. -/
theorem ratedThermal_quiet {s : State} {t : Thermal} (h : rorEvaluate s = (t, none)) (n : Fin 8) :
    ratedThermal s n = { t with tripRaised := false, s := n } := by
  rw [ratedThermal, stepOfRates, h]
  rfl

theorem ratedThermal_trip {s : State} {t : Thermal} {i : Nat} (h : rorEvaluate s = (t, some i)) (n : Fin 8) :
    ratedThermal s n = { t with tripRaised := decide (t.s < 4), s := max n 4 } := by
  rw [ratedThermal, stepOfRates, h]
  rfl

/-- What the rates and a trip are judged by, beside the means, stands as before the evaluation. -/
structure SameRates (s z : State) : Prop where
  runs : rorRuns z = rorRuns s
  applies : rorApplies z = rorApplies s
  limit : cfgRor z = cfgRor s
  step : z.thermal.s = s.thermal.s
  rate : z.thermal.rate = s.thermal.rate
  count : z.thermal.rorCount = s.thermal.rorCount
  trip : z.thermal.trip = s.thermal.trip
  hold : z.thermal.hold = s.thermal.hold
  trips : z.thermal.trips = s.thermal.trips

theorem zoned_sameRates (s : State) (p : Rat) : SameRates s (zoned s p) := by
  rw [zoned_changes]
  exact ⟨rfl, rfl, rfl, rfl, rfl, rfl, rfl, rfl, rfl⟩

theorem rateMeans_zoned (s : State) (p : Rat) : rateMeans (zoned s p) =
    ((sensorValue s (s.thermal.conv.map meanOf) 0, sensorValue s (s.thermal.conv.map meanOf) 1) :: s.thermal.hist).take 32 := by
  rw [zoned_changes]
  rfl

/-- The state after an evaluation. -/
def evaluated (s : State) (p : Rat) : State := evaluateRates (zoned s p) (stepOfZone s (maximumNow s).1)

theorem evaluated_thermal (s : State) (p : Rat) : (evaluated s p).thermal = ratedThermal (zoned s p) (stepOfZone s (maximumNow s).1) :=
  (evaluateRates_log ..).thermal

/-- What an evaluation makes of the sensors and the maximum; of the rest it writes events and log alone. -/
structure SensorsEvaluated (s t : State) : Prop where
  rest : t = { s with thermal := t.thermal, events := t.events, log := t.log }
  conv : t.thermal.conv = s.thermal.conv
  broken : t.thermal.broken = s.thermal.broken
  mean : t.thermal.mean = s.thermal.conv.map meanOf
  moment : t.thermal.evalClk = some s.clk
  max : t.thermal.max = (maximumNow s).1
  source : t.thermal.source = (maximumNow s).2
  zone : t.thermal.zone = thermalZone s (maximumNow s).1

theorem evaluated_sensors (s : State) (p : Rat) : SensorsEvaluated s (evaluated s p) := by
  have hl := evaluateRates_log (zoned s p) (stepOfZone s (maximumNow s).1)
  have ht := evaluated_thermal s p
  have hr := rorEvaluate_changes (zoned s p)
  unfold LogOnly at hl
  unfold RatesOnly at hr
  rw [ratedThermal, hr, zoned_changes] at ht
  refine ⟨?_, ?_, ?_, ?_, ?_, ?_, ?_, ?_⟩
  · rw [evaluated, hl, zoned_changes]
  all_goals rw [ht]

theorem execThermalEvaluation_due {s : State} {p : Rat} (hm : monitorOn s = true) (hd : ∀ c, s.thermal.evalClk = some c → c + 8000 ≤ s.clk) :
    execThermalEvaluation p s = .next (evaluated s p) := by
  rw [evaluated, ← evaluateZone_step s p]
  exact if_neg (monitorGuard_due hm hd)

/-- A step of the zone raises EV13 (R331). -/
theorem evaluated_pending {s : State} (p : Rat) (h : stepOfZone s (maximumNow s).1 ≠ s.thermal.s) :
    (evaluated s p).events.pending.getLsbD 13 = true := by
  have hn : stepOfZone s (maximumNow s).1 = stepUp s.thermal.s ∨ stepOfZone s (maximumNow s).1 = s.thermal.s := ite_eq_or_eq ..
  refine evaluateRates_pending ?_
  rw [(zoned_sameRates s p).step]
  exact stepOfRates_ne hn h

/-- Settles O30: conversions by the crossings they make, an evaluation by its zone and then by what the rates say. -/
theorem thermalMonitor : Obligations.ThermalMonitor := by
  unfold Obligations.ThermalMonitor
  refine ⟨fun s x hm hd => ⟨fun h => ?cool, fun hhot => ⟨fun hl => ?resets, fun hl => ?latched⟩⟩,
    fun s x c hk hc => if_pos (monitorGuard_early hk hc), fun s p hm hd => ?evaluation, fun s p c hk hc => if_pos (monitorGuard_early hk hc),
    fun s hm hd => if_neg (monitorGuard_due hm hd)⟩
  case cool =>
    refine ⟨_, execDieTempConversion_quiet hm hd (crossing_first h), rfl, rfl, rfl, rfl, rfl, fun i => ⟨takeConversions_conv s x i,
      takeConversions_frameSum s x i, (takeConversions_hot s x i).trans ?_⟩⟩
    refine if_ctx_congr Iff.rfl (fun hi => ?_) fun _ => rfl
    rw [h i hi]
    rfl
  case resets =>
    obtain ⟨i, hi⟩ := crossing_second hhot
    exact ⟨_, execDieTempConversion_resets hm hd hi hl, startReset_from (takeConversions s x) .thermal, startReset_thermalLatch _⟩
  case latched =>
    obtain ⟨i, hi⟩ := crossing_second hhot
    cases he : s.thermal.episode with
    | true => exact ⟨_, execDieTempConversion_goesOn hm hd hi hl he, rfl, rfl, (takeConversions_episode hi).trans he, fun _ => ⟨rfl, rfl⟩⟩
    | false =>
      have h := logGeneral_log (.refl (episodeBegun (takeConversions s x))) 0x0E (ownNode (episodeBegun (takeConversions s x))) i.val 0
        (toLE 2 (x[i] % 65536).toNat)
      have ht := h.thermal
      refine ⟨_, execDieTempConversion_logs hm hd hi hl he, ?_, (congrArg Thermal.s ht).trans rfl, congrArg Thermal.episode ht, fun hn => absurd hn (by decide)⟩
      rw [ht]
      exact h
  case evaluation =>
    have he := evaluated_sensors s p
    have ht := evaluated_thermal s p
    have hz := zoned_sameRates s p
    refine ⟨_, execThermalEvaluation_due hm hd, he.rest, he.conv, he.broken, he.mean, he.moment, ?_, ?_, ?_⟩
    · rw [he.max, he.source, he.mean]
      rfl
    · rw [he.zone, he.max]
    rw [he.max, he.mean, ← rateMeans_zoned s p]
    refine ⟨evaluated_pending p, fun hr => ?_, fun hr hn => ?_, fun r hr hs => ?_⟩
    · rw [ht, ratedThermal_quiet (rorEvaluate_idle (hz.runs.trans hr))]
      exact ⟨rfl, hz.rate, hz.trip, hz.hold⟩
    · rw [ht, ratedThermal_quiet (rorEvaluate_short (hz.runs.trans hr) hn)]
      exact ⟨rfl, rfl, rfl⟩
    · have hr := hz.runs.trans hr
      rw [ht, ← hz.limit]
      refine ⟨(rorEvaluate_rates hr hs).1, (rorEvaluate_rates hr hs).2, fun hb => ?_, fun ha hl => ?_, fun ha hl hc htrip => ?_⟩
      · rw [ratedThermal_quiet (rorEvaluate_below hr hs (by simpa [RateAbove] using hb))]
        exact ⟨rfl, rfl, hz.trips⟩
      · rw [ratedThermal_quiet (rorEvaluate_unlimited hr hs ha (hz.applies.trans hl))]
        exact ⟨rfl, hz.trip⟩
      · have hq := rorEvaluate_trips hr hs ha (hz.applies.trans hl) (hz.count.trans_ne hc) (hz.trip.trans htrip)
        rw [ratedThermal_trip hq]
        refine ⟨rfl, rfl, rfl, congrArg sat16 hz.trips, evaluateRates_trip (congrArg Prod.snd hq) _, fun hne => ?_⟩
        refine evaluateRates_pending ?_
        rw [hz.step, stepOfRates, hq]
        exact hne

end Sys2Proof.Machine

namespace Sys2Proof.Machine

/-! The calibration commands (R380, R385, R386, R392). -/

/-- What a calibration command does once it is accepted. -/
def calEffect : CalKind → State → Vcn → F32 → State
  | .clear => fun s v _ =>
    if (renderEntries s).all fun e => e.vcn != v then s
    else renderBegin (calStart s .clear v 0 false) ((renderEntries s).filter fun e => e.vcn != v)
  | .abort => fun s _ _ =>
    { s with cal := { s.cal with pending := none, run := if s.cal.stage != .idle || s.cal.waiting then s.cal.run else none } }
  | k => fun s v r => calStart s k v r false

/-- The calibration command's own refusals and effect. -/
def calBody (k : CalKind) (s : State) (a : List Byte) : Byte × State :=
  let v : Vcn := BitVec.ofNat 16 (u16 a 0)
  let reserved := 6 < u8 a 2
  if k != .verify && !reserved && !hasCal s then (stLocked, s)
  else
    let c := calRefusal s k v (reserved || u8 a 3 != 0) (f32At a 4)
    if c != stOk then (c, s) else (stOk, calEffect k s v (f32At a 4))

theorem calCommand_ready {s : State} {f : HostFrame} {k : CalKind} (h : CommandReady s f 0x07 [(6, calCode k)] 8) {st : Byte} {x : State}
    (e : calBody k (sessionActivity s) (commandArgs f 0x07 [(6, calCode k)]) = (st, x)) :
    (Host.Outcome.next (calCommand s f k (calEffect k)) : Host.Outcome State Fault Refusal) = .next (replied x f 0x07 st) :=
  commandFrame_next _ _ h rfl rfl rfl e rfl rfl

theorem calCode_le (k : CalKind) : (calCode k).toNat ≤ 6 := by cases k <;> decide

/-- The row's kind stands in the third argument byte: it is none of the reserved ones. -/
theorem calKind_named {s : State} {f : HostFrame} {k : CalKind} (h : CommandReady s f 0x07 [(6, calCode k)] 8) :
    ¬ 6 < u8 (commandArgs f 0x07 [(6, calCode k)]) 2 := by
  obtain ⟨-, -, -, -, -, hlen⟩ := h
  simp only [commandArgs, commandPayload, framePayload, fixBytes, setAt, List.length_drop, List.length_take, List.length_set] at hlen
  have hf : 6 < f.length.toNat := by omega
  have hp : 6 < f.payload.length := by omega
  simp [commandArgs, commandPayload, framePayload, fixBytes, setAt, u8, List.getD_eq_getElem?_getD, hf, hp, calCode_le]

section
variable {k : CalKind} {u : State} {a : List Byte} (ha : ¬ 6 < u8 a 2)
include ha

theorem calBody_locked (hk : k ≠ .verify) (h : hasCal u = false) : calBody k u a = (stLocked, u) :=
  if_pos (by simp [hk, ha, h])

/-- With the session that its kind needs, the answer is that of R385. -/
theorem calBody_unlocked (h : k = .verify ∨ hasCal u = true) : calBody k u a =
    if calRefusal u k (BitVec.ofNat 16 (u16 a 0)) (u8 a 3 != 0) (f32At a 4) != stOk then
      (calRefusal u k (BitVec.ofNat 16 (u16 a 0)) (u8 a 3 != 0) (f32At a 4), u)
    else (stOk, calEffect k u (BitVec.ofNat 16 (u16 a 0)) (f32At a 4)) := by
  unfold calBody
  dsimp only
  rw [if_neg (by rcases h with h | h <;> simp [h]), decide_eq_false ha, Bool.false_or]

theorem calBody_refused (h : k = .verify ∨ hasCal u = true)
    (hr : calRefusal u k (BitVec.ofNat 16 (u16 a 0)) (u8 a 3 != 0) (f32At a 4) ≠ stOk) :
    calBody k u a = (calRefusal u k (BitVec.ofNat 16 (u16 a 0)) (u8 a 3 != 0) (f32At a 4), u) :=
  (calBody_unlocked ha h).trans (if_pos (bne_iff_ne.2 hr))

theorem calBody_accepted (h : k = .verify ∨ hasCal u = true)
    (hr : calRefusal u k (BitVec.ofNat 16 (u16 a 0)) (u8 a 3 != 0) (f32At a 4) = stOk) :
    calBody k u a = (stOk, calEffect k u (BitVec.ofNat 16 (u16 a 0)) (f32At a 4)) :=
  (calBody_unlocked ha h).trans (if_neg (by rw [hr]; decide))

end

theorem calRefusal_safe {s : State} (h : inSafe s = true) (k : CalKind) (v : Vcn) (b : Bool) (ref : F32) :
    calRefusal s k v b ref = stNotInMode := if_pos h

/-- Every kind but clear and abort starts a run. -/
theorem calEffect_starts {k : CalKind} (hc : k ≠ .clear) (ha : k ≠ .abort) (s : State) (v : Vcn) (r : F32) :
    calEffect k s v r = calStart s k v r false := by
  cases k with
  | clear => exact absurd rfl hc
  | abort => exact absurd rfl ha
  | _ => rfl

theorem calEffect_clear_absent {s : State} {v : Vcn} (h : ∀ e ∈ renderEntries s, e.vcn ≠ v) (r : F32) : calEffect .clear s v r = s :=
  if_pos (List.all_eq_true.2 fun e he => bne_iff_ne.2 (h e he))

theorem calEffect_clear_entry {s : State} {v : Vcn} (h : ∃ e ∈ renderEntries s, e.vcn = v) (r : F32) :
    calEffect .clear s v r = renderBegin (calStart s .clear v 0 false) ((renderEntries s).filter fun e => e.vcn != v) := by
  obtain ⟨e, he, hv⟩ := h
  exact if_neg fun hall => absurd hv (bne_iff_ne.1 (List.all_eq_true.1 hall e he))

theorem calEffect_abort (s : State) (v : Vcn) (r : F32) : calEffect .abort s v r = { s with cal := { s.cal with
    pending := none, run := if s.cal.stage ≠ .idle ∨ s.cal.waiting = true then s.cal.run else none } } := by
  have h : ((s.cal.stage != .idle || s.cal.waiting) = true) = (s.cal.stage ≠ .idle ∨ s.cal.waiting = true) := by simp
  simp only [calEffect, h]

/-- From `s` to `t` a Render write of the entries `l` begins, or waits for a flash check (R369, R816). -/
structure WriteBegins (s t : State) (l : List RenderEntry) : Prop where
  rest : t = { s with cal := t.cal }
  render : t.cal.render = s.cal.render
  pending : t.cal.pending = s.cal.pending
  waiting : t.cal.waiting = s.link.flashRunning
  stage : t.cal.stage = if s.link.flashRunning then .idle else .erasing
  image : ∃ q : BitVec 32, t.cal.image = renderImage s q l

/-- A run that starts leaves what a sector's image tells beside the entries: the time and the configuration. -/
theorem calStart_image (s : State) (k : CalKind) (v : Vcn) (ref : F32) (late : Bool) (q : BitVec 32) (l : List RenderEntry) :
    renderImage (calStart s k v ref late) q l = renderImage s q l := by
  unfold renderImage
  rfl

/-- The write of a run that starts at once (R392). -/
theorem calStart_begins (s : State) (k : CalKind) (v : Vcn) (ref : F32) (late : Bool) (l : List RenderEntry) :
    WriteBegins s (renderBegin (calStart s k v ref late) l) l :=
  ⟨rfl, rfl, rfl, rfl, rfl, _, calStart_image s k v ref late _ l⟩

/-- The command of each row runs its own kind. -/
theorem exec_calCommand {k : CalKind} {c : HostFrame → Instr}
    (h : (k = .zero ∧ c = Instr.calZero) ∨ (k = .span ∧ c = Instr.calSpan) ∨ (k = .first ∧ c = Instr.calTwoPointFirst) ∨
      (k = .second ∧ c = Instr.calTwoPointSecond) ∨ (k = .verify ∧ c = Instr.calVerifyZero) ∨ (k = .clear ∧ c = Instr.calClear) ∨
      (k = .abort ∧ c = Instr.calAbort)) (f : HostFrame) (s : State) : exec (c f) s = .next (calCommand s f k (calEffect k)) := by
  rcases h with ⟨rfl, rfl⟩ | ⟨rfl, rfl⟩ | ⟨rfl, rfl⟩ | ⟨rfl, rfl⟩ | ⟨rfl, rfl⟩ | ⟨rfl, rfl⟩ | ⟨rfl, rfl⟩ <;> rfl

/-- Settles O32: each row is the calibration command of its kind, whose refusals stand in the order of R385; then its effect. -/
theorem calibrationCommands : Obligations.CalibrationCommands := by
  unfold Obligations.CalibrationCommands
  refine ⟨fun s f k c hrow h => ?all, fun s f h => ?clear, fun s f h => ?abort⟩
  case all =>
    have hkind := calKind_named h
    intro u a v
    rw [exec_calCommand hrow f s]
    refine ⟨fun hk hc => calCommand_ready h (calBody_locked hkind hk hc), fun hs => ⟨fun hsafe => ?_, fun hr => ?_, fun hr hc ha => ?_⟩⟩
    · have hr := calRefusal_safe hsafe k v (u8 a 3 != 0) (f32At a 4)
      rw [calCommand_ready h (calBody_refused hkind hs (by rw [hr]; decide)), hr]
    · exact calCommand_ready h (calBody_refused hkind hs hr)
    · have hx := calCommand_ready h (calBody_accepted hkind hs hr)
      rw [calEffect_starts hc ha] at hx
      exact ⟨_, hx, rfl, rfl, rfl, rfl, rfl, rfl, rfl, rfl, rfl⟩
  case clear =>
    rw [show (4 : Byte) = calCode .clear from rfl] at h ⊢
    intro u a v hs hr
    have hx : calBody .clear u a = (stOk, calEffect .clear u v (f32At a 4)) := calBody_accepted (calKind_named h) (.inr hs) hr
    refine ⟨fun hn => calCommand_ready h (hx.trans (congrArg (Prod.mk stOk) (calEffect_clear_absent hn _))), fun he => ?_⟩
    refine ⟨_, calCommand_ready h (hx.trans (congrArg (Prod.mk stOk) (calEffect_clear_entry he _))), ?_⟩
    have hw := calStart_begins u .clear v 0 false ((renderEntries u).filter fun e => e.vcn != v)
    exact ⟨hw.rest, hw.render, hw.pending, hw.waiting, hw.stage, hw.image⟩
  case abort =>
    rw [show (5 : Byte) = calCode .abort from rfl] at h ⊢
    intro u a hs hr
    have hx := calBody_accepted (calKind_named h) (.inr hs) hr
    rw [calEffect_abort] at hx
    exact calCommand_ready h hx

end Sys2Proof.Machine

namespace Sys2Proof.Machine

/-! Render writes (R364, R365, R369, R371, R379, R387). -/

/-- The state with the sector being written erased. -/
def sectorErased (s : State) : State :=
  { s with flash := flashWrite s.flash (renderOffset s s.cal.sector) (List.replicate 4096 0xFF) }

/-- The state with a page of the image programmed. -/
def pageProgrammed (s : State) (p : Nat) : State :=
  { s with flash := flashWrite s.flash (renderOffset s s.cal.sector + 256 * p) ((s.cal.image.drop (256 * p)).take 256) }

theorem execRenderEraseComplete_inTime {s : State} (h : s.cal.stage = .erasing) (hclk : s.clk ≤ s.cal.stageClk + 2000000) :
    execRenderEraseComplete s = .next (setStage (sectorErased s) (.programming 0)) := by
  rw [execRenderEraseComplete, h]
  exact congrArg _ (if_neg (mt of_decide_eq_true (Nat.not_lt.2 hclk)))

theorem execRenderEraseComplete_late {s : State} (h : s.cal.stage = .erasing) (hclk : s.cal.stageClk + 2000000 < s.clk) :
    execRenderEraseComplete s = .next (renderFail (sectorErased s)) := by
  rw [execRenderEraseComplete, h]
  exact congrArg _ (if_pos (decide_eq_true hclk))

theorem execRenderEraseComplete_eraseOld {s : State} (h : s.cal.stage = .eraseOld) : execRenderEraseComplete s = .next (setStage
    { s with flash := flashWrite s.flash (renderOffset s (s.cal.sector + 1)) (List.replicate 4096 0xFF) } .idle) := by
  rw [execRenderEraseComplete, h]

theorem execRenderPageProgramComplete_inTime {s : State} {p : Nat} (h : s.cal.stage = .programming p)
    (hclk : s.clk ≤ s.cal.stageClk + 2000000) : execRenderPageProgramComplete s =
      .next (setStage (pageProgrammed s p) (if 15 ≤ p then .readback else .programming (p + 1))) := by
  rw [execRenderPageProgramComplete, h]
  exact congrArg _ (if_neg (mt of_decide_eq_true (Nat.not_lt.2 hclk)))

theorem execRenderPageProgramComplete_late {s : State} {p : Nat} (h : s.cal.stage = .programming p)
    (hclk : s.cal.stageClk + 2000000 < s.clk) : execRenderPageProgramComplete s = .next (renderFail (pageProgrammed s p)) := by
  rw [execRenderPageProgramComplete, h]
  exact congrArg _ (if_pos (decide_eq_true hclk))

theorem sectorErased_reads {s : State} (h : FlashCanonical s) (hp : s.flash.present = true) (a : Nat) :
    flashRead (sectorErased s).flash a 1 =
      if renderOffset s s.cal.sector ≤ a ∧ a < renderOffset s s.cal.sector + 4096 then [0xFF] else flashRead s.flash a 1 := by
  refine (flashRead_write hp h _ _ a).trans ?_
  rw [List.length_replicate]
  refine if_ctx_congr Iff.rfl (fun ha => ?_) fun _ => rfl
  rw [List.getD_replicate _ (by omega)]

/-- The bytes of a page are the image's. -/
theorem image_page {l : List Byte} (hl : l.length = 4096) {p i : Nat} (hp : p ≤ 15) (hi : i < 256) :
    ((l.drop (256 * p)).take 256).getD i 0xFF = l.getD (256 * p + i) 0 := by
  rw [List.getD_eq_getElem _ _ (by rw [List.length_take, List.length_drop]; omega), List.getD_eq_getElem _ _ (by omega),
    List.getElem_take, List.getElem_drop]

theorem pageProgrammed_reads {s : State} {p : Nat} (h : FlashCanonical s) (hp : s.flash.present = true) (hl : s.cal.image.length = 4096)
    (h15 : p ≤ 15) (a : Nat) : flashRead (pageProgrammed s p).flash a 1 =
      if renderOffset s s.cal.sector + 256 * p ≤ a ∧ a < renderOffset s s.cal.sector + 256 * p + 256 then
        [s.cal.image.getD (256 * p + (a - (renderOffset s s.cal.sector + 256 * p))) 0] else flashRead s.flash a 1 := by
  refine (flashRead_write hp h _ _ a).trans ?_
  rw [show ((s.cal.image.drop (256 * p)).take 256).length = 256 by rw [List.length_take, List.length_drop]; omega]
  refine if_ctx_congr Iff.rfl (fun ha => ?_) fun _ => rfl
  rw [image_page hl h15 (by omega)]

/-! A write that fails. -/

/-- The write under way has failed (R371, R387): the copy in use stays, the run ends with BUSY and EV07. -/
structure WriteFails (s t : State) : Prop where
  rest : t = { s with cal := t.cal, events := t.events }
  render : t.cal.render = s.cal.render
  run : t.cal.run = none
  outcome : t.cal.outcome = stBusy
  failed : t.cal.writeFailed = true
  stage : t.cal.stage = .idle
  told : t.events.pending.getLsbD 7 = true

theorem renderFail_fails {s : State} {c : CalRun} (h : s.cal.run = some c) : WriteFails s (renderFail s) := by
  unfold renderFail calReject
  dsimp only
  rw [h]
  exact ⟨rfl, rfl, rfl, rfl, rfl, rfl, raise_pending _ 7 _⟩

theorem execRenderWriteTimeout_early {s : State} (h : s.clk < s.cal.stageClk + 2000000) : execRenderWriteTimeout s = .next s := if_pos h

theorem execRenderWriteTimeout_writing {s : State} (h : s.cal.stageClk + 2000000 ≤ s.clk)
    (hg : s.cal.stage = .erasing ∨ ∃ p, s.cal.stage = .programming p) : execRenderWriteTimeout s = .next (renderFail s) := by
  rw [execRenderWriteTimeout, if_neg (Nat.not_lt.2 h)]
  rcases hg with hg | ⟨p, hg⟩ <;> rw [hg]

theorem execRenderWriteTimeout_eraseOld {s : State} (h : s.cal.stageClk + 2000000 ≤ s.clk) (hg : s.cal.stage = .eraseOld) :
    execRenderWriteTimeout s = .next { s with cal := { s.cal with stage := .idle } } := by
  rw [execRenderWriteTimeout, if_neg (Nat.not_lt.2 h), hg]

/-! The copy just written comes into use. -/

theorem lookup_keepOld_new {l : List (Vcn × Option RenderEntry)} {v : Vcn} (h : l.lookup v = none) (o : Option RenderEntry) :
    (keepOld l v o).lookup v = some o := by
  rw [keepOld, h]
  exact List.lookup_cons_self

theorem lookup_keepOld_kept {l : List (Vcn × Option RenderEntry)} {v : Vcn} {e : Option RenderEntry} (h : l.lookup v = some e)
    (o : Option RenderEntry) : (keepOld l v o).lookup v = some e := by
  rw [keepOld, h]
  exact h

/-- From `s` to `t` the copy `r` has come into use for the VCN `v` (R364, R365). -/
structure Installs (s t : State) (r : RenderCopy) (v : Vcn) : Prop where
  rest : t = { s with cal := t.cal, course := t.course }
  render : t.cal.render = some r
  pending : t.cal.pending = s.cal.pending
  old : vcnNode v = 0 → channelOn s (vcnIndex v) = true → t.cal.old = keepOld s.cal.old v ((renderEntries s).find? fun e => e.vcn == v)
  pods : ∀ n ∈ t.course.nodes, n.addr.toNat = vcnNode v → n.renderPending = true

theorem renderInstall_installs (s : State) (r : RenderCopy) (v : Vcn) : Installs s (renderInstall s r v) r v where
  rest := by
    unfold renderInstall
    dsimp only
    split <;> rfl
  render := rfl
  pending := by
    unfold renderInstall
    dsimp only
    split <;> rfl
  old hn hc := by
    unfold renderInstall
    dsimp only
    rw [if_pos (by simp [hn, hc])]
  pods n hn ha := by
    obtain ⟨m, -, rfl⟩ := List.mem_map.1 hn
    split at ha
    next hm => rw [if_pos hm]
    next hm => exact absurd (beq_iff_eq.2 ha) hm

/-- A write has come to its end: the copy `r` is in use, the run has ended with OK, and the old sector may still be erased. -/
def writeEnds (s : State) (r : RenderCopy) (c : CalRun) (g : RenderStage) : State :=
  { renderInstall s r c.vcn with cal := { (renderInstall s r c.vcn).cal with
      stage := g, stageClk := (renderInstall s r c.vcn).clk, image := [], run := none, outcome := stOk } }

theorem writeEnds_installs (s : State) (r : RenderCopy) (c : CalRun) (g : RenderStage) : Installs s (writeEnds s r c g) r c.vcn := by
  obtain ⟨hrest, hrender, hpending, hold, hpods⟩ := renderInstall_installs s r c.vcn
  refine ⟨?_, hrender, hpending, hold, hpods⟩
  unfold writeEnds
  rw [hrest]

section
variable {s : State} {c : CalRun} {d : List (Nat × Byte)} (hg : s.cal.stage = .readback) (hc : s.cal.run = some c)
include hg hc

theorem execRenderReadbackComplete_stands {r : RenderCopy}
    (h : parseRender s.cal.sector (flashRead (heldSector s d).flash (renderOffset s s.cal.sector) 4096) = some r) :
    ∃ g, execRenderReadbackComplete d s = .next (if c.kind = .clear then writeEnds (heldSector s d) r c g
      else raise (writeEnds (heldSector s d) r c g) 6 c.vcn.toNat) := by
  unfold execRenderReadbackComplete
  rw [if_neg (not_not.2 hg)]
  dsimp only
  rw [show (heldSector s d).cal.run = some c from hc, show parseRender (heldSector s d).cal.sector (flashRead (heldSector s d).flash
    (renderOffset (heldSector s d) (heldSector s d).cal.sector) 4096) = some r from h]
  exact ⟨_, rfl⟩

theorem execRenderReadbackComplete_fails
    (h : parseRender s.cal.sector (flashRead (heldSector s d).flash (renderOffset s s.cal.sector) 4096) = none) :
    execRenderReadbackComplete d s = .next (renderFail (heldSector s d)) := by
  unfold execRenderReadbackComplete
  rw [if_neg (not_not.2 hg)]
  dsimp only
  rw [show (heldSector s d).cal.run = some c from hc, show parseRender (heldSector s d).cal.sector (flashRead (heldSector s d).flash
    (renderOffset (heldSector s d) (heldSector s d).cal.sector) 4096) = none from h]

end

/-- Settles O34: each completion by the stage it ends and whether it came within 2 s; the flash read after the write that it made. -/
theorem renderWrites : Obligations.RenderWrites := by
  unfold Obligations.RenderWrites
  refine ⟨fun s hf hp hg hclk => ?erased, fun s p hf hp hg hl h15 hclk => ?page, fun s c d r hg hc hr => ?stands,
    fun s c d hc => ⟨fun hg hr => ?refused, fun hg hclk => ?timeout, fun hclk => ⟨fun hg => ?lateErase, fun p hg => ?latePage⟩⟩,
    fun s hg => ⟨⟨_, execRenderEraseComplete_eraseOld hg, rfl⟩, fun hclk => execRenderWriteTimeout_eraseOld hclk hg⟩,
    fun s h => execRenderWriteTimeout_early h⟩
  case erased =>
    exact ⟨_, execRenderEraseComplete_inTime hg hclk, rfl, flashWrite_canonical rfl hf, sectorErased_reads hf hp⟩
  case page =>
    exact ⟨_, execRenderPageProgramComplete_inTime hg hclk, rfl, flashWrite_canonical rfl hf, pageProgrammed_reads hf hp hl h15⟩
  case stands =>
    obtain ⟨g, hnext⟩ := execRenderReadbackComplete_stands hg hc hr
    obtain ⟨hrest, hrender, hpending, hold, hpods⟩ := writeEnds_installs (heldSector s d) r c g
    have hkeeps : vcnNode c.vcn = 0 → channelOn s (vcnIndex c.vcn) = true →
        (s.cal.old.lookup c.vcn = none →
          (writeEnds (heldSector s d) r c g).cal.old.lookup c.vcn = some ((renderEntries s).find? fun e => e.vcn == c.vcn)) ∧
        (∀ e, s.cal.old.lookup c.vcn = some e → (writeEnds (heldSector s d) r c g).cal.old.lookup c.vcn = some e) := by
      intro hn hon
      rw [hold hn hon]
      exact ⟨fun h => lookup_keepOld_new h _, fun e h => lookup_keepOld_kept h _⟩
    by_cases hk : c.kind = .clear
    · rw [if_pos hk] at hnext
      refine ⟨_, hnext, ?_, hrender, rfl, rfl, hpending, fun h => absurd hk h, fun _ => ?_, hkeeps, hpods⟩
      · rw [hrest]
        rfl
      · rw [hrest]
        rfl
    · rw [if_neg hk] at hnext
      refine ⟨_, hnext, ?_, hrender, rfl, rfl, hpending, fun _ => raise_pending _ 6 _, fun h => absurd h hk, hkeeps, hpods⟩
      rw [raise, hrest]
      rfl
  case refused =>
    obtain ⟨hrest, hrender, hrun, hout, hfail, hstage, htold⟩ := renderFail_fails (s := heldSector s d) hc
    exact ⟨_, execRenderReadbackComplete_fails hg hc hr, hrest, hrender, hrun, hout, hfail, hstage, htold⟩
  case timeout =>
    obtain ⟨hrest, hrender, hrun, hout, hfail, hstage, htold⟩ := renderFail_fails hc
    exact ⟨_, execRenderWriteTimeout_writing hclk hg, hrest, hrender, hrun, hout, hfail, hstage, htold⟩
  case lateErase =>
    have hw := renderFail_fails (s := sectorErased s) hc
    exact ⟨_, execRenderEraseComplete_late hg hclk, hw.render, hw.run, hw.outcome, hw.failed, hw.told⟩
  case latePage =>
    have hw := renderFail_fails (s := pageProgrammed s p) hc
    exact ⟨_, execRenderPageProgramComplete_late hg hclk, hw.render, hw.run, hw.outcome, hw.failed, hw.told⟩

end Sys2Proof.Machine

namespace Sys2Proof.Machine

/-! What an accepted frame leaves of what a pod's sweep services read. -/

theorem received_podSweeps (s : State) (type : Byte) (r : CourseRx) : podSweeps (received s type r) = podSweeps s := by
  rw [received_eq]
  rfl

theorem received_isRunning (s : State) (type : Byte) (r : CourseRx) : isRunning (received s type r) = isRunning s := by
  rw [received_eq]
  rfl

theorem received_cfgChainTime (s : State) (type : Byte) (r : CourseRx) : cfgChainTime (received s type r) = cfgChainTime s := by
  rw [received_eq]
  rfl

theorem received_freshSweep (s : State) (type : Byte) (r : CourseRx) (n : BitVec 32) : freshSweep (received s type r) n = freshSweep s n := by
  rw [received_eq]
  rfl

theorem received_renderRefusal (s : State) (type : Byte) (r : CourseRx) (p : List Byte) :
    renderRefusal (received s type r) p = renderRefusal s p := by
  rw [received_eq]
  rfl

theorem received_time (s : State) (type : Byte) (r : CourseRx) : (received s type r).time = s.time :=
  congrArg (·.time) (received_eq s type r)

theorem received_mox (s : State) (type : Byte) (r : CourseRx) : (received s type r).mox = s.mox :=
  congrArg (·.mox) (received_eq s type r)

theorem received_cal (s : State) (type : Byte) (r : CourseRx) : (received s type r).cal = s.cal :=
  congrArg (·.cal) (received_eq s type r)

/-- A port that a node takes a frame from also sends. -/
theorem Takes.sends {role : Role} {s : State} {type : Byte} {r : CourseRx} (h : Takes role s type r) : Machine.sends s r.port = true := by
  obtain ⟨-, hp, hu, -⟩ := h
  rw [Machine.sends, hp, hu]
  rfl

/-! The due sweep of the records that wait (R614): the records themselves stay. -/

theorem dueIn_record (n : BitVec 32) (c : Nat) (x : PodRecord) : (dueIn n c x).record = x.record := by
  unfold dueIn
  split <;> rfl

theorem settleDue_rest (p : Pod) (k : Nat) : settleDue p k = { p with pending := (settleDue p k).pending } := by
  unfold settleDue
  split <;> rfl

theorem settleDue_records (p : Pod) (k : Nat) : (settleDue p k).pending.map (·.record) = p.pending.map (·.record) := by
  unfold settleDue
  split
  · rfl
  · rw [List.map_map]
    exact List.map_congr_left fun x _ => dueIn_record ..

/-! The ALARM frame (R426): the pod notes it, and it is sent. -/

/-- From `s` to `t` a pod has sent an ALARM frame, or none. -/
structure AlarmOnly (s t : State) : Prop where
  rest : t = { s with course := { s.course with
    ports := t.course.ports, seqs := t.course.seqs
    pod := { s.course.pod with alarmWanted := t.course.pod.alarmWanted, alarmSent := t.course.pod.alarmSent } } }
  sends : ∀ q : Fin 2, Machine.sends t q = Machine.sends s q

theorem AlarmOnly.course {s t : State} (h : AlarmOnly s t) : t = { s with course := t.course } := by
  rw [h.rest]

theorem AlarmOnly.pod {s t : State} (h : AlarmOnly s t) : t.course.pod =
    { s.course.pod with alarmWanted := t.course.pod.alarmWanted, alarmSent := t.course.pod.alarmSent } := congrArg (·.course.pod) h.rest

theorem AlarmOnly.refl (s : State) : AlarmOnly s s := ⟨rfl, fun _ => rfl⟩

theorem sendAlarm_only (s : State) : AlarmOnly s (sendAlarm s) := by
  unfold sendAlarm
  dsimp only
  split
  · exact .refl s
  · have h := originate_sendsOnly { s with course := { s.course with pod := { s.course.pod with alarmWanted := false, alarmSent := true } } }
      [0, 1] 0x14 0 0 0 ([s.course.pod.alarmCount, 0, 0, 0] ++
        chainBitmap { s with course := { s.course with pod := { s.course.pod with alarmWanted := false, alarmSent := true } } })
    refine ⟨?_, fun q => h.sends q⟩
    rw [h.pod]
    exact h.rest

/-- The ALARM frame that still waits for its sweep. -/
def alarmIfWanted (s : State) : State := if s.course.pod.alarmWanted then sendAlarm s else s

theorem alarmIfWanted_only (s : State) : AlarmOnly s (alarmIfWanted s) := by
  unfold alarmIfWanted
  split
  · exact sendAlarm_only s
  · exact .refl s

/-! The chain-shed indication (R262, R295, R298): log entries and films in progress. -/

/-- From `s` to `t` log and events have moved, and films in progress may have been spoilt. -/
structure FilmsOnly (s t : State) : Prop where
  rest : t = { s with log := t.log, events := t.events, mox := t.mox }
  mox : ∀ n : Fin 6, t.mox[n] = { s.mox[n] with frameGood := t.mox[n].frameGood }

theorem FilmsOnly.refl (s : State) : FilmsOnly s s := ⟨rfl, fun _ => rfl⟩

theorem FilmsOnly.trans {s t u : State} (h : FilmsOnly s t) (k : FilmsOnly t u) : FilmsOnly s u where
  rest := by rw [k.rest, h.rest]
  mox n := by rw [k.mox n, h.mox n]

theorem FilmsOnly.of_log {s t : State} (h : LogOnly s t) : FilmsOnly s t := by
  unfold LogOnly at h
  have hm : t.mox = s.mox := congrArg (·.mox) h
  refine ⟨?_, fun n => ?_⟩
  · rw [hm]
    exact h
  · rw [hm]

theorem spoilFilm_films (s : State) (n : Fin 6) : FilmsOnly s (spoilFilm s n) := by
  refine ⟨rfl, fun m => ?_⟩
  have h : (spoilFilm s n).mox[m] = if n = m then { s.mox[m] with frameGood := false } else s.mox[m] := vmod_get ..
  rw [h]
  split <;> rfl

theorem foldl_films {α : Type} {f : State → α → State} (h : ∀ s a, FilmsOnly s (f s a)) (l : List α) (s : State) : FilmsOnly s (l.foldl f s) := by
  induction l generalizing s with
  | nil => exact .refl s
  | cons a l ih => exact (h s a).trans (ih (f s a))

/-- The pod holds the indication that it has received; what follows from a change of it touches films, log and events. -/
theorem setChainShed_films (s : State) (b : Bool) : FilmsOnly (modPod s fun p => { p with chainShed := b }) (setChainShed s b) := by
  unfold setChainShed
  split
  next h =>
    subst h
    exact .refl s
  next =>
    refine foldl_films (fun s n => ?_) _ _
    split
    · exact (spoilFilm_films s n).trans (.of_log (logShed_log ..))
    · exact .of_log (logShed_log ..)

end Sys2Proof.Machine

namespace Sys2Proof.Machine

/-! SWEEP_START at a pod in sweeps (R295, R620, R621, R426). -/

/-- What a pod holds once the first SWEEP_START copy of a sweep has come at time `clk`. -/
def sweepPod (q : Pod) (clk : Nat) (p : List Byte) : Pod :=
  { settleDue q q.missNo with
    sweep := f32At p 0, sweepClk := clk + 1, headMode := b8 p 11, rate := b8 p 13, headTimeValid := bit (u8 p 12) 1
    ringClosed := bit (u8 p 12) 2, missed := 0, missNo := 0, autonomous := false, phase := 1, marked := false, alarmSent := false, t1 := none
    delayAsked := false, chainShed := bit (u8 p 12) 0 }

/-- From `s` to `t` a pod has taken the first SWEEP_START copy of a sweep. -/
structure SweepTaken (s t : State) (p : List Byte) : Prop where
  rest : t = { s with course := t.course, log := t.log, events := t.events, mox := t.mox }
  mox : ∀ n : Fin 6, t.mox[n] = { s.mox[n] with frameGood := t.mox[n].frameGood }
  pod : t.course.pod = { sweepPod s.course.pod s.clk p with alarmWanted := t.course.pod.alarmWanted, alarmSent := t.course.pod.alarmSent }
  sends : ∀ q : Fin 2, Machine.sends t q = Machine.sends s q

theorem newSweep_noChain {s : State} (h : cfgChainTime s = false) (p : List Byte) : newSweep s p = alarmIfWanted (setChainShed
    (modPod s fun q => { sweepPod q s.clk p with chainShed := s.course.pod.chainShed }) (bit (u8 p 12) 0)) := by
  have hs : (settleDue s.course.pod s.course.pod.missNo).chainShed = s.course.pod.chainShed := by rw [settleDue_rest]
  have hg : (s.course.pod.sweepClk != 0 && !s.course.pod.marked && cfgChainTime s) = false := by rw [h, Bool.and_false]
  unfold newSweep
  dsimp only
  rw [hg, ← hs]
  rfl

theorem newSweep_taken {s : State} (h : cfgChainTime s = false) (p : List Byte) : SweepTaken s (newSweep s p) p := by
  rw [newSweep_noChain h]
  have hf := setChainShed_films (modPod s fun q => { sweepPod q s.clk p with chainShed := s.course.pod.chainShed }) (bit (u8 p 12) 0)
  generalize setChainShed _ _ = x at hf
  have hcourse : x.course = { s.course with pod := sweepPod s.course.pod s.clk p } := congrArg (·.course) hf.rest
  have ha := alarmIfWanted_only x
  refine ⟨?_, fun n => ?_, ?_, fun q => ?_⟩
  · rw [ha.rest, hf.rest]
    rfl
  · rw [show (alarmIfWanted x).mox = x.mox from congrArg (·.mox) ha.rest]
    exact hf.mox n
  · refine (congrArg (·.course.pod) ha.rest).trans ?_
    rw [hcourse]
  · rw [ha.sends, sends, hcourse]
    rfl

theorem takeMark_noChain {s : State} (h : cfgChainTime s = false) (r : CourseRx) : takeMark s r = s := by
  unfold takeMark
  dsimp only
  split
  · rfl
  · rw [if_pos (by rw [h]; simp)]

/-- The pod that the sweep names, reached on the port of its assigned side, asks for its delay once (R621). -/
def asksDelay (r : CourseRx) (s : State) : State :=
  if b8 r.payload 14 = s.course.pod.addr && facing s.course.pod (s.course.pod.side.getD 0) == some r.port && !s.course.pod.delayAsked then
    originate (modPod s fun q => { q with delayAsked := true }) [r.port] 0x15 0 1 0 (toLE 4 (u32 r.payload 0))
  else s

theorem asksDelay_rest (r : CourseRx) (s : State) : asksDelay r s = { s with course := (asksDelay r s).course } := by
  unfold asksDelay
  split
  · exact rest_of_pod (originate_sendsOnly ..)
  · rfl

theorem asksDelay_pod (r : CourseRx) (s : State) :
    (asksDelay r s).course.pod = { s.course.pod with delayAsked := (asksDelay r s).course.pod.delayAsked } := by
  unfold asksDelay
  split
  · rw [(originate_sendsOnly ..).pod]
    rfl
  · rfl

theorem asksDelay_named {r : CourseRx} {s : State} (hn : b8 r.payload 14 = s.course.pod.addr)
    (hf : facing s.course.pod (s.course.pod.side.getD 0) = some r.port) (hd : s.course.pod.delayAsked = false) (hs : sends s r.port = true) :
    (asksDelay r s).course.pod.delayAsked = true ∧ Waits (asksDelay r s) r.port 0x15 0 (toLE 4 (u32 r.payload 0)) := by
  have h : asksDelay r s = originate (modPod s fun q => { q with delayAsked := true }) [r.port] 0x15 0 1 0 (toLE 4 (u32 r.payload 0)) :=
    if_pos (by simp [hn, hf, hd])
  obtain ⟨-, -, hw⟩ := originate_ports (modPod s fun q => { q with delayAsked := true }) [r.port] 0x15 0 1 0 (toLE 4 (u32 r.payload 0))
  rw [h]
  exact ⟨by rw [(originate_sendsOnly ..).pod]; rfl, hw r.port List.mem_cons_self hs⟩

theorem execSweepStart_takes {s : State} {r : CourseRx} (h : Takes .pod s 0x10 r) : execSweepStart r s = .next (
    if !podSweeps s then noteHead (received s 0x10 r) r.payload
    else asksDelay r (takeMark (if freshSweep s (f32At r.payload 0) then newSweep (received s 0x10 r) r.payload else received s 0x10 r) r)) := by
  unfold execSweepStart
  rw [podRx_takes h]
  dsimp only
  rw [received_podSweeps, received_freshSweep]
  rfl

theorem execSweepStart_idle {s : State} {r : CourseRx} (h : Takes .pod s 0x10 r) (hw : podSweeps s = false) :
    execSweepStart r s = .next (noteHead (received s 0x10 r) r.payload) := by
  rw [execSweepStart_takes h, hw]
  rfl

theorem podSweeps_stopped {s : State} (h : isRunning s = false) : podSweeps s = false := by
  simp [podSweeps, h]

theorem noteHead_running {s : State} (h : isRunning s = true) (p : List Byte) : noteHead s p = s := if_pos h

theorem noteHead_stopped {s : State} (h : isRunning s = false) (p : List Byte) : noteHead s p = modPod s fun q => { q with
    sweep := f32At p 0, sweepClk := s.clk + 1, headMode := b8 p 11, rate := b8 p 13, missed := 0 } := if_neg (by rw [h]; decide)

section
variable {s : State} {r : CourseRx} (h : Takes .pod s 0x10 r) (hw : podSweeps s = true)
include h hw

theorem execSweepStart_fresh (hc : cfgChainTime s = false) (hf : freshSweep s (f32At r.payload 0) = true) :
    ∃ x, SweepTaken (received s 0x10 r) x r.payload ∧ execSweepStart r s = .next (asksDelay r x) := by
  have hn := newSweep_taken ((received_cfgChainTime s 0x10 r).trans hc) r.payload
  refine ⟨_, hn, ?_⟩
  have hcx : cfgChainTime (newSweep (received s 0x10 r) r.payload) = false := by
    rw [hn.rest]
    exact (received_cfgChainTime s 0x10 r).trans hc
  rw [execSweepStart_takes h, hw, hf]
  refine congrArg (fun x => Host.Outcome.next (asksDelay r x)) ?_
  exact takeMark_noChain hcx r

end

end Sys2Proof.Machine

namespace Sys2Proof.Machine

/-! The time mark of a sweep (R532): the fourth good one in a row. -/

/-- The state with a fourth good mark in a row, the chain qualified. -/
def fourthMark (s : State) (mark : Int) : State :=
  { s with time := { (noteMark s.time s.clk mark) with chainGood := 4, chainGoodErr := mark - plumbNs s, chainQualified := true } }

theorem chainNow_fourthMark (s : State) (mark : Int) : chainNow (fourthMark s mark) = mark := by
  have hr : ratRNE ((s.clk - s.clk : Nat) * 1000 * (fourthMark s mark).time.chainRatio) = 0 := by
    rw [Nat.sub_self, Nat.cast_zero, zero_mul, zero_mul]
    rfl
  show mark + ratRNE ((s.clk - s.clk : Nat) * 1000 * (fourthMark s mark).time.chainRatio) = mark
  rw [hr, add_zero]

/-- A change of source that no time set holds up (R557). -/
theorem sourceChanged_now {s : State} (h : ∀ m, s.host.effect ≠ .timeSet m) (c : SourceChange) : sourceChanged s c = changeSource s c := by
  unfold sourceChanged
  split
  next m hm => exact absurd hm (h m)
  next => rfl

theorem chainMark_fourth {s : State} {mark : Int} (hp : s.time.chainPredicted = true) (hq : s.time.chainQualified = false)
    (hg : s.time.chainGood = 3) (hc : s.time.state ≠ .chain) (hpps : s.time.state ≠ .pps) (he : ∀ m, s.host.effect ≠ .timeSet m)
    (hm : (mark - chainNow s).natAbs ≤ 2000) : chainMark s mark true = takeChain (fourthMark s mark) true := by
  have hgood : goodMark s mark = true := by rw [goodMark, hp, decide_eq_true hm]; rfl
  have hnot : (decide (s.time.state = .chain) && (true && goodMark s mark)) = false := by rw [decide_eq_false hc]; rfl
  unfold chainMark
  dsimp only
  rw [hnot, hgood, hg, hq, if_neg (by decide)]
  exact (sourceChanged_now (s := fourthMark s mark) he _).trans (if_neg hpps)

/-- Within 10 ms Plumb moves to a source without a step (R534, R535). -/
theorem movePhase_slews {err : Int} (h : err.natAbs ≤ 10000000) (s : State) (step : Bool) : movePhase s err step =
    if err.natAbs ≤ 1000 then completeChange (withSlew s none) else withSlew s (some (nsUnits * err)) := by
  have hb : bigError err = false := decide_eq_false (Nat.not_lt.2 h)
  unfold movePhase
  dsimp only
  rw [hb, Bool.and_false]
  rfl

/-- From `s` to `t` chain time has come into force with a phase error of at most 10 ms. -/
structure ChainTaken (s t : State) (err : Int) : Prop where
  rest : t = { s with time := t.time, events := t.events }
  state : t.time.state = .chain
  valid : t.time.valid = s.time.valid
  qualified : t.time.chainQualified = s.time.chainQualified
  phaseErr : t.time.phaseErr = s.time.chainGoodErr
  slew : t.time.slew = if err.natAbs ≤ 1000 then none else some (nsUnits * err)

/-- The page shows the error of the latest good mark (R849). -/
def chainErrNoted (s : State) : State := { s with time := { s.time with phaseErr := s.time.chainGoodErr } }

/-- A change of source in progress is complete, with its event. -/
theorem completeChange_rest (s : State) : completeChange s =
    { s with time := { s.time with changing := false }, events := (completeChange s).events } := by
  unfold completeChange
  split
  next => rfl
  next h =>
    have hf : s.time.changing = false := by simpa using h
    rw [← hf]

theorem qualifySource_chain {err : Int} (h : err.natAbs ≤ 10000000) (s : State) :
    ChainTaken s (qualifySource (chainErrNoted s) .chain err) err := by
  rw [qualifySource, movePhase_slews h]
  split
  next hs =>
    rw [completeChange_rest]
    unfold withSlew enterSource chainErrNoted
    exact ⟨rfl, rfl, rfl, rfl, rfl, (if_pos hs).symm⟩
  next hs => exact ⟨rfl, rfl, rfl, rfl, rfl, (if_neg hs).symm⟩

theorem setValid_valid {s : State} (h : s.time.valid = true) : setValid s = s := if_pos h

theorem takeChain_slews {s : State} (hv : s.time.valid = true) {err : Int} (he : chainNow s - plumbNs s = err) (hb : err.natAbs ≤ 10000000) :
    ChainTaken s (takeChain s true) err := by
  have hq := qualifySource_chain hb s
  have ht : takeChain s true = setValid (qualifySource (chainErrNoted s) .chain err) := by
    unfold takeChain
    dsimp only
    rw [if_pos rfl, he]
    rfl
  rw [ht, setValid_valid (hq.valid.trans hv)]
  exact hq

/-- The sweep's mark has been taken. -/
def markNoted (s : State) : State := modPod s fun p => { p with marked := true }

/-- The time that the mark of a SWEEP_START stands for at a pod with that delay, in ns. -/
def markNs (r : CourseRx) (delay : Int) : Int := (time56 (plumbAt r.payload 4) : Int) * 1000 + delay

theorem takeMark_first {s : State} {r : CourseRx} {d : Fin 2} {delay : Int} (hc : cfgChainTime s = true) (hd : s.course.pod.side = some d)
    (hf : facing s.course.pod d = some r.port) (hm : s.course.pod.marked = false) (hl : sideDelay s.course.pod d = some delay) :
    takeMark s r = chainMark (markNoted s) (markNs r delay) s.course.pod.headTimeValid := by
  unfold takeMark
  dsimp only
  rw [hd]
  dsimp only
  rw [hm, hf, hc, hl, if_neg (by simp)]
  rfl

/-- The mark of a frame is the fourth good one in a row of its pod's side, TIMEVALID is set, and Plumb runs on a lesser source, at most 10 ms off. -/
structure FourthGood (s : State) (r : CourseRx) (d : Fin 2) (delay : Int) : Prop where
  chainTime : cfgChainTime s = true
  side : s.course.pod.side = some d
  faces : facing s.course.pod d = some r.port
  unmarked : s.course.pod.marked = false
  headValid : s.course.pod.headTimeValid = true
  delayed : sideDelay s.course.pod d = some delay
  predicted : s.time.chainPredicted = true
  unqualified : s.time.chainQualified = false
  good : s.time.chainGood = 3
  valid : s.time.valid = true
  notPps : s.time.state ≠ .pps
  notChain : s.time.state ≠ .chain
  unheld : ∀ m, s.host.effect ≠ .timeSet m
  near : (markNs r delay - chainNow s).natAbs ≤ 2000
  small : (markNs r delay - plumbNs s).natAbs ≤ 10000000

/-- The fourth good mark in a row qualifies the chain, and Plumb goes over to it. -/
theorem takeMark_qualifies {s : State} {r : CourseRx} {d : Fin 2} {delay : Int} (h : FourthGood s r d delay) :
    ChainTaken (fourthMark (markNoted s) (markNs r delay)) (takeMark s r) (markNs r delay - plumbNs s) := by
  rw [takeMark_first h.chainTime h.side h.faces h.unmarked h.delayed, h.headValid,
    chainMark_fourth (s := markNoted s) h.predicted h.unqualified h.good h.notChain h.notPps h.unheld h.near]
  refine takeChain_slews (s := fourthMark (markNoted s) _) h.valid ?_ h.small
  rw [chainNow_fourthMark]
  rfl

/-- Counting the frame moves none of this. -/
theorem FourthGood.received {s : State} {r : CourseRx} {d : Fin 2} {delay : Int} (h : FourthGood s r d delay) (type : Byte) :
    FourthGood (Machine.received s type r) r d delay := by
  obtain ⟨hc, hd, hf, hm, hv, hl, hp, hq, hg, hvalid, hpps, hchain, he, hnear, hb⟩ := h
  rw [received_eq]
  exact ⟨hc, hd, hf, hm, hv, hl, hp, hq, hg, hvalid, hpps, hchain, he, hnear, hb⟩

end Sys2Proof.Machine

namespace Sys2Proof.Machine

/-! CREDIT at a pod in sweeps (R614 - R616, R626, R628). -/

/-- The records sent and not acknowledged, once the entry `e` of the CREDIT has come: the first one of a sweep may acknowledge them. -/
def keptRecs (q : Pod) (e : Nat) : List PodRecord := if q.ackSweep = some q.sweep ∨ bit e 8 = false then q.sentRecs else []

/-- The state after a CREDIT entry's acknowledgement. -/
def acknowledged (s : State) (e : Nat) : State :=
  modPod s fun q => { q with ackSweep := some q.sweep, sentRecs := keptRecs q e }

theorem modPod_same {s : State} {f : Pod → Pod} (h : f s.course.pod = s.course.pod) : modPod s f = s := by
  rw [modPod, h]

theorem modPod_congr {s : State} {f g : Pod → Pod} (h : f s.course.pod = g s.course.pod) : modPod s f = modPod s g := by
  rw [modPod, h, modPod]

theorem acknowledged_eq (s : State) (e : Nat) : acknowledged s e =
    if s.course.pod.ackSweep != some s.course.pod.sweep then
      modPod s fun q => { q with ackSweep := some q.sweep, sentRecs := if bit e 8 then [] else q.sentRecs }
    else s := by
  unfold acknowledged
  by_cases h : s.course.pod.ackSweep = some s.course.pod.sweep
  · rw [if_neg (by simp [h])]
    refine modPod_same ?_
    rw [keptRecs, if_pos (.inl h), ← h]
  · rw [if_pos (bne_iff_ne.2 h)]
    refine modPod_congr ?_
    rw [keptRecs]
    cases hb : bit e 8 with
    | false => rw [if_pos (.inr rfl), if_neg (by decide)]
    | true => rw [if_neg (by simp [h]), if_pos rfl]

/-- The pod as it is granted: its side is the one that the CREDIT names. -/
def creditedPod (q : Pod) (e : Nat) (p : List Byte) : Pod :=
  { q with ackSweep := some q.sweep, sentRecs := keptRecs q e, side := some (if u8 p 2 = 0 then 0 else 1) }

theorem acknowledged_sided (s : State) (e : Nat) (p : List Byte) :
    (modPod (acknowledged s e) fun q => { q with side := some (if u8 p 2 = 0 then 0 else 1) }) = modPod s fun q => creditedPod q e p := rfl

theorem execCredit_takes {s : State} {r : CourseRx} {e : Nat} (h : Takes .pod s 0x11 r) (hw : podSweeps s = true)
    (hc : s.course.pod.sweepClk ≠ 0) (he : creditOf r.payload s.course.pod.addr = some e) :
    execCredit r s = .next (if !bit e 9 then acknowledged (received s 0x11 r) e
      else sendGranted (modPod (received s 0x11 r) fun q => creditedPod q e r.payload) r.port (e % 128) (bit e 7)) := by
  unfold execCredit
  rw [podRx_takes h]
  dsimp only
  rw [received_podSweeps, received_pod, hw, he, show (true && s.course.pod.sweepClk != 0) = true by simpa using hc]
  dsimp only
  rw [← acknowledged_sided, acknowledged_eq, received_pod]

/-! What a granted pod sends. -/

/-- The records that the pod sends again, but for those that DEC discards. -/
def resends (q : Pod) (dec : Bool) : List PodRecord := q.sentRecs.filter fun x => !(dec && decDrops q.sweep x)

/-- The records of the pending area, their due sweep settled, but for those that DEC discards. -/
def waitingRecs (q : Pod) (dec : Bool) : List PodRecord := (settleDue q 0).pending.filter fun x => !(dec && decDrops q.sweep x)

/-- Those of them that are due, the oldest first. -/
def readyRecs (q : Pod) (dec : Bool) : List PodRecord := dueOrder q.sweep ((waitingRecs q dec).filter fun x => x.due.isSome)

/-- The data frames of a grant. -/
def grantChunks (q : Pod) (grant : Nat) (dec : Bool) : List (List Outgoing) :=
  chunks9 grant ((resends q dec).map (·, true) ++ (readyRecs q dec).map (·, false))

/-- The records that a grant leaves in the pending area. -/
def leftOver (q : Pod) (grant : Nat) (dec : Bool) : List PodRecord :=
  (resends q dec ++ readyRecs q dec).drop (9 * (grantChunks q grant dec).length) ++ (waitingRecs q dec).filter fun x => x.due.isNone

/-- A report of a sweep to the head waits on a port. -/
def ReportWaits (t : State) (port : Fin 2) (sweep : BitVec 32) : Prop :=
  ∃ f ∈ t.course.ports[port].txq, f.type = 0x12 ∧ f.dst = 0 ∧ f.payload.take 4 = toLE 4 sweep.toNat

/-- From `s` to `t` a pod has sent what a grant lets it send: its report, and data frames. -/
structure Grants (s t : State) (arrival : Fin 2) (grant : Nat) (dec : Bool) : Prop where
  rest : t = { s with course := t.course }
  pod : t.course.pod = { s.course.pod with
    dec := dec, pending := leftOver s.course.pod grant dec, decimated := t.course.pod.decimated
    sentRecs := (grantChunks s.course.pod grant dec).flatten.map (·.1), wasAuto := false }
  report : sends s (sidePort s.course.pod arrival) = true → ReportWaits t (sidePort s.course.pod arrival) s.course.pod.sweep

theorem sendData_sendsOnly (port : Fin 2) (n : BitVec 32) (dec : Bool) (after : Nat) (l : List (List Outgoing)) (s : State) :
    SendsOnly s (sendData s port n dec after l) := by
  induction l generalizing s with
  | nil => exact .refl s
  | cons c l ih => exact (originate_sendsOnly ..).trans (ih _)

/-- A report begins with the number of its sweep. -/
theorem reportPayload_take (s : State) (n : BitVec 32) (following left dropped oldest : Nat) :
    (reportPayload s n following left dropped oldest).take 4 = toLE 4 n.toNat := by
  unfold reportPayload
  simp only [List.append_assoc]
  exact List.take_left' rfl

/-- The pod as it is granted: what goes out is taken from the pending area, what DEC discards is counted. -/
def grantTaken (s : State) (grant : Nat) (dec : Bool) (gone : Nat) : State :=
  modPod s fun q => { q with dec := dec, pending := leftOver s.course.pod grant dec, decimated := sat16Add q.decimated gone }

/-- A grant is answered with data frames, the report, and data frames again. -/
theorem sendGranted_sends (s : State) (arrival : Fin 2) (grant : Nat) (dec : Bool) : ∃ gone after before following left oldest data,
    sendGranted s arrival grant dec =
      let port := sidePort s.course.pod arrival
      let n := s.course.pod.sweep
      let b := sendData (grantTaken s grant dec gone) port n dec after before
      modPod (sendData (originate b [port] 0x12 0 1 0 (reportPayload b n following left gone oldest)) port n dec 0 data)
        fun q => { q with sentRecs := (grantChunks s.course.pod grant dec).flatten.map (·.1), wasAuto := false } :=
  ⟨_, _, _, _, _, _, _, rfl⟩

theorem sendGranted_grants (s : State) (arrival : Fin 2) (grant : Nat) (dec : Bool) : Grants s (sendGranted s arrival grant dec) arrival grant dec := by
  obtain ⟨gone, after, before, following, left, oldest, data, h⟩ := sendGranted_sends s arrival grant dec
  rw [h]
  dsimp only
  have hb := sendData_sendsOnly (sidePort s.course.pod arrival) s.course.pod.sweep dec after before (grantTaken s grant dec gone)
  generalize sendData (grantTaken s grant dec gone) _ _ _ _ _ = b at hb
  have hc := originate_sendsOnly b [sidePort s.course.pod arrival] 0x12 0 1 0 (reportPayload b s.course.pod.sweep following left gone oldest)
  obtain ⟨-, -, hw⟩ := originate_ports b [sidePort s.course.pod arrival] 0x12 0 1 0 (reportPayload b s.course.pod.sweep following left gone oldest)
  generalize originate b _ _ _ _ _ _ = c at hc hw
  have hd := sendData_sendsOnly (sidePort s.course.pod arrival) s.course.pod.sweep dec 0 data c
  generalize sendData c _ _ _ _ _ = d at hd
  have hall := hb.trans (hc.trans hd)
  refine ⟨?_, ?_, fun hs => ?_⟩
  · rw [modPod, hall.rest]
    rfl
  · rw [modPod_pod, hall.pod]
    rfl
  · have hsent : sends b (sidePort s.course.pod arrival) = true := by
      rw [hb.sends]
      exact hs
    obtain ⟨f, hf, htype, hdst, hpayload, -⟩ := hd.waits (hw _ List.mem_cons_self hsent)
    exact ⟨f, hf, htype, hdst, by rw [hpayload, reportPayload_take]⟩

/-! The records of a grant. -/

theorem chunks9_flatten {α : Type} (k : Nat) (l : List α) : (chunks9 k l).flatten = l.take (9 * (chunks9 k l).length) := by
  induction k generalizing l with
  | zero => rfl
  | succ k ih =>
    unfold chunks9
    split
    next h => rw [List.isEmpty_iff.1 h]; rfl
    next => rw [List.flatten_cons, ih, List.length_cons, Nat.mul_succ, Nat.add_comm _ 9, List.take_add]

theorem chunks9_length (k : Nat) {α : Type} (l : List α) : (chunks9 k l).length ≤ k := by
  induction k generalizing l with
  | zero => exact Nat.le_refl 0
  | succ k ih =>
    unfold chunks9
    split
    · exact Nat.zero_le _
    · exact Nat.succ_le_succ (ih _)

theorem insertDue_perm (n : BitVec 32) (x : PodRecord) (l : List PodRecord) : (insertDue n x l).Perm (x :: l) := by
  induction l with
  | nil => exact .refl _
  | cons y l ih =>
    unfold insertDue
    split
    · exact .refl _
    · exact (ih.cons y).trans (.swap x y l)

theorem dueOrder_perm (n : BitVec 32) (l : List PodRecord) : (dueOrder n l).Perm l := by
  induction l with
  | nil => exact .refl _
  | cons x l ih => exact (insertDue_perm n x _).trans (ih.cons x)

/-- The records sent are the first of those to send again and those due. -/
theorem grantChunks_records (q : Pod) (grant : Nat) (dec : Bool) : (grantChunks q grant dec).flatten.map (·.1) =
    (resends q dec ++ readyRecs q dec).take (9 * (grantChunks q grant dec).length) := by
  have hf (b : Bool) (l : List PodRecord) : (l.map fun x => (x, b)).map (·.1) = l := by
    rw [List.map_map]
    exact List.map_id l
  rw [grantChunks, chunks9_flatten, List.map_take, List.map_append, hf, hf]

theorem grantChunks_length (q : Pod) (grant : Nat) (dec : Bool) : ((grantChunks q grant dec).flatten.map (·.1)).length ≤ 9 * grant := by
  have h := chunks9_length grant ((resends q dec).map (·, true) ++ (readyRecs q dec).map (·, false))
  rw [grantChunks_records, List.length_take]
  exact (Nat.min_le_left ..).trans (Nat.mul_le_mul_left 9 h)

/-- Without DEC a grant moves records between the two areas and loses none. -/
theorem grant_moves (q : Pod) (grant : Nat) : (leftOver q grant false ++ (grantChunks q grant false).flatten.map (·.1)).Perm
    ((settleDue q 0).pending ++ q.sentRecs) := by
  have hall : waitingRecs q false = (settleDue q 0).pending := List.filter_eq_self.2 fun _ _ => rfl
  have hagain : resends q false = q.sentRecs := List.filter_eq_self.2 fun _ _ => rfl
  have hready : (readyRecs q false ++ (waitingRecs q false).filter fun x => x.due.isNone).Perm (settleDue q 0).pending := by
    have hnone : (fun x : PodRecord => x.due.isNone) = fun x => !x.due.isSome := funext fun x => by cases x.due <;> rfl
    refine ((dueOrder_perm ..).append_right _).trans ?_
    rw [hall, hnone]
    exact List.filter_append_perm _ _
  rw [grantChunks_records, leftOver, hagain]
  generalize 9 * (grantChunks q grant false).length = k
  generalize (waitingRecs q false).filter (fun x => x.due.isNone) = later at hready ⊢
  refine List.perm_append_comm.trans ?_
  rw [← List.append_assoc, List.take_append_drop, List.append_assoc]
  exact (hready.append_left _).trans List.perm_append_comm

theorem grant_keeps (q : Pod) (grant : Nat) :
    ((leftOver q grant false ++ (grantChunks q grant false).flatten.map (·.1)).map (·.record)).Perm ((q.pending ++ q.sentRecs).map (·.record)) := by
  refine ((grant_moves q grant).map _).trans ?_
  rw [List.map_append, settleDue_records, ← List.map_append]

end Sys2Proof.Machine

namespace Sys2Proof.Machine

/-! SWEEP_MISSED (R532, R640, R641). -/

/-- A sweep without a mark, where the chain gives the time. -/
def missesMark (s : State) : State := if cfgChainTime s then chainMiss s else s

/-- The marks that a missed sweep lacks: its own, and that of a sweep before it that has brought none. -/
def missedMarks (s : State) : State := missesMark (if s.course.pod.marked then s else missesMark s)

/-- What a pod `q` holds once the sweep has been counted as missed; `p` the pod before it. -/
def missedPod (p q : Pod) : Pod :=
  { settleDue q q.missNo with
    missed := min 3 (p.missed + 1), missNo := p.missNo + 1, alarmSent := false, marked := true, renderOpen := false }

/-- The pod becomes autonomous: its records move into the backlog. -/
def goesAutonomous (q : Pod) : Pod :=
  (q.sentRecs ++ q.pending).foldl (fun q x => backlogPut q x.record)
    { q with autonomous := true, wasAuto := true, phase := 2, pending := [], sentRecs := [] }

/-- The state once the sweep has been counted as missed. -/
def sweepCounted (s : State) : State := alarmIfWanted (modPod (missedMarks s) (missedPod s.course.pod))

section
variable {s : State} (hr : s.role = .pod) (hw : podSweeps s = true) (hc : s.course.pod.sweepClk ≠ 0)
  (hdue : s.course.pod.sweepClk - 1 + (s.course.pod.missNo + 1) * podS s.course.pod + 1000 ≤ s.clk)
include hr hw hc hdue

theorem execSweepMissed_due : execSweepMissed s =
    if min 3 (s.course.pod.missed + 1) < 3 || s.course.pod.autonomous then .next (sweepCounted s)
    else .next (modPod (sweepCounted s) goesAutonomous) := by
  have ho : sweepOverdue s = true := decide_eq_true hdue
  unfold execSweepMissed
  dsimp only
  rw [if_neg (by rw [hw, ho]; simp [hr, hc])]
  rfl

/-- Before the third missed sweep in a row, and once it is autonomous, a pod only counts. -/
theorem execSweepMissed_counts (h : s.course.pod.missed < 2 ∨ s.course.pod.autonomous = true) : execSweepMissed s = .next (sweepCounted s) := by
  refine (execSweepMissed_due hr hw hc hdue).trans (if_pos ?_)
  rcases h with h | h
  · rw [decide_eq_true (by omega), Bool.true_or]
  · rw [h, Bool.or_true]

theorem execSweepMissed_third (hm : 2 ≤ s.course.pod.missed) (ha : s.course.pod.autonomous = false) :
    execSweepMissed s = .next (modPod (sweepCounted s) goesAutonomous) := by
  refine (execSweepMissed_due hr hw hc hdue).trans (if_neg ?_)
  rw [ha, Bool.or_false, decide_eq_true_eq]
  omega

end

theorem execSweepMissed_idle {s : State} (h : s.role = .head ∨ podSweeps s = false ∨ s.course.pod.sweepClk = 0 ∨
    s.clk < s.course.pod.sweepClk - 1 + (s.course.pod.missNo + 1) * podS s.course.pod + 1000) : execSweepMissed s = .next s := by
  refine if_pos ?_
  rcases h with h | h | h | h
  · simp [h]
  · simp [h]
  · simp [h]
  · simp [sweepOverdue, Nat.not_le.2 h]

theorem missedMarks_noChain {s : State} (h : cfgChainTime s = false) : missedMarks s = s := by
  have hm : missesMark s = s := if_neg (by rw [h]; decide)
  rw [missedMarks, hm, ite_self, hm]

/-- A pod `p` that has counted a sweep as missed is `q`: it keeps its records. -/
structure CountedPod (p q : Pod) : Prop where
  missed : q.missed = min 3 (p.missed + 1)
  missNo : q.missNo = p.missNo + 1
  records : q.pending.map (·.record) = p.pending.map (·.record)
  sentRecs : q.sentRecs = p.sentRecs
  backlog : q.backlog = p.backlog
  autonomous : q.autonomous = p.autonomous

theorem missedPod_counted (q : Pod) : CountedPod q (missedPod q q) := by
  refine ⟨rfl, rfl, settleDue_records .., ?_, ?_, ?_⟩
  all_goals rw [missedPod, settleDue_rest]

theorem sweepCounted_alarm {s : State} (h : cfgChainTime s = false) : AlarmOnly (modPod s (missedPod s.course.pod)) (sweepCounted s) := by
  have ha := alarmIfWanted_only (modPod s (missedPod s.course.pod))
  rw [sweepCounted, missedMarks_noChain h]
  exact ha

/-- Without chain time a missed sweep changes the pod, and the frames that it sends. -/
theorem sweepCounted_rest {s : State} (h : cfgChainTime s = false) : sweepCounted s = { s with course := (sweepCounted s).course } := by
  rw [(sweepCounted_alarm h).course]
  rfl

theorem sweepCounted_pod {s : State} (h : cfgChainTime s = false) : CountedPod s.course.pod (sweepCounted s).course.pod := by
  obtain ⟨hmissed, hno, hrecords, hsent, hbacklog, hauto⟩ := missedPod_counted s.course.pod
  rw [(sweepCounted_alarm h).pod]
  exact ⟨hmissed, hno, hrecords, hsent, hbacklog, hauto⟩

/-- From `p` to `q` only the backlog and its loss count have changed. -/
def BacklogOnly (p q : Pod) : Prop := q = { p with backlog := q.backlog, lostBacklog := q.lostBacklog }

theorem BacklogOnly.trans {p q r : Pod} (h : BacklogOnly p q) (k : BacklogOnly q r) : BacklogOnly p r := by
  unfold BacklogOnly at *
  rw [k, h]

theorem backlogPut_only (q : Pod) (x : Record) : BacklogOnly q (backlogPut q x) := by
  unfold backlogPut
  split <;> rfl

theorem backlogPuts_only (l : List PodRecord) (q : Pod) : BacklogOnly q (l.foldl (fun q x => backlogPut q x.record) q) := by
  induction l generalizing q with
  | nil => rfl
  | cons x l ih => exact (backlogPut_only q x.record).trans (ih _)

/-- Where the backlog has room for them all, the records stand behind those that it held. -/
theorem backlogPuts_backlog (l : List PodRecord) (q : Pod) (h : q.backlog.length + l.length ≤ 4096) :
    (l.foldl (fun q x => backlogPut q x.record) q).backlog = q.backlog ++ l.map (·.record) := by
  induction l generalizing q with
  | nil => rw [List.map_nil, List.append_nil]; rfl
  | cons x l ih =>
    rw [List.length_cons] at h
    have hx : backlogPut q x.record = { q with backlog := q.backlog ++ [x.record] } := if_pos (by omega)
    rw [List.foldl_cons, hx, ih _ (by rw [List.length_append, List.length_singleton]; omega), List.map_cons, List.append_assoc]
    rfl

theorem goesAutonomous_rest (q : Pod) : goesAutonomous q = { q with
    autonomous := true, wasAuto := true, phase := 2, pending := [], sentRecs := []
    backlog := (goesAutonomous q).backlog, lostBacklog := (goesAutonomous q).lostBacklog } := backlogPuts_only ..

/-- The records sent and those that wait stand behind the backlog that a pod `p` held before the sweep was counted. -/
theorem goesAutonomous_backlog {p q : Pod} (h : CountedPod p q) (hroom : p.backlog.length + p.sentRecs.length + p.pending.length ≤ 4096) :
    (goesAutonomous q).backlog = p.backlog ++ (p.sentRecs ++ p.pending).map (·.record) := by
  have hlength : q.pending.length = p.pending.length := by rw [← List.length_map (·.record), h.records, List.length_map]
  have hputs : (goesAutonomous q).backlog = q.backlog ++ (q.sentRecs ++ q.pending).map (·.record) :=
    backlogPuts_backlog _ _ (by rw [List.length_append, hlength, h.sentRecs, h.backlog, ← Nat.add_assoc]; exact hroom)
  rw [hputs, List.map_append, List.map_append, h.records, h.sentRecs, h.backlog]

/-! A missed sweep as Plumb sees it. -/

/-- The chain is the source no more (R532, R561). -/
structure ChainLost (t : State) : Prop where
  state : t.time.state = .holdover
  qualified : t.time.chainQualified = false
  told : t.events.pending.getLsbD 17 = true

theorem completeChange_stays (s : State) : PendingStays s (completeChange s) := by
  unfold completeChange
  split
  · exact raise_stays (s := s) (t := { s with time := { s.time with changing := false } }) ⟨fun _ h => h⟩ 16 0
  · exact ⟨fun _ h => h⟩

theorem enterHoldover_lost {s : State} (h : s.time.chainQualified = false) : ChainLost (enterHoldover s) := by
  unfold enterHoldover
  refine ⟨?_, ?_, (completeChange_stays _).stays 17 (raise_pending _ 17 0)⟩
  · rw [completeChange_rest]
    rfl
  · rw [completeChange_rest]
    exact h

/-- The chain after the third sweep in a row without a mark: it qualifies no more. -/
def chainDropped (s : State) : State :=
  { s with time := { s.time with chainMissed := 3, chainQualified := false, chainGood := 0, chainPredicted := false } }

theorem loseSource_chain {s : State} (h : s.time.state = .chain) : loseSource s = enterHoldover s := by
  rw [loseSource, h]

theorem chainMiss_third {s : State} (hq : s.time.chainQualified = true) (hm : s.time.chainMissed = 2) (hs : s.time.state = .chain)
    (he : ∀ m, s.host.effect ≠ .timeSet m) : chainMiss s = enterHoldover (chainDropped s) := by
  unfold chainMiss
  dsimp only
  rw [hq, hm, if_neg (by decide)]
  exact (sourceChanged_now (s := chainDropped s) he _).trans ((if_pos hs).trans (loseSource_chain hs))

theorem chainMiss_lost {s : State} (hq : s.time.chainQualified = true) (hm : s.time.chainMissed = 2) (hs : s.time.state = .chain)
    (he : ∀ m, s.host.effect ≠ .timeSet m) : ChainLost (chainMiss s) := by
  rw [chainMiss_third hq hm hs he]
  exact enterHoldover_lost rfl

theorem chainMiss_stays_lost {s : State} (h : ChainLost s) : ChainLost (chainMiss s) := by
  unfold chainMiss
  dsimp only
  rw [if_pos (by simp [h.qualified])]
  exact ⟨h.state, h.qualified, h.told⟩

theorem missedMarks_lost {s : State} (hc : cfgChainTime s = true) (hq : s.time.chainQualified = true) (hm : s.time.chainMissed = 2)
    (hs : s.time.state = .chain) (he : ∀ m, s.host.effect ≠ .timeSet m) : ChainLost (missedMarks s) := by
  have hone : missesMark s = chainMiss s := if_pos hc
  have hlost := chainMiss_lost hq hm hs he
  rw [missedMarks, hone]
  split
  · rw [hone]
    exact hlost
  · unfold missesMark
    split
    · exact chainMiss_stays_lost hlost
    · exact hlost

theorem sweepCounted_lost {s : State} (h : ChainLost (missedMarks s)) : ChainLost (sweepCounted s) := by
  rw [sweepCounted, (alarmIfWanted_only (modPod (missedMarks s) (missedPod s.course.pod))).course]
  exact ⟨h.state, h.qualified, h.told⟩

end Sys2Proof.Machine

namespace Sys2Proof.Machine

/-! DELAY_RESP (R621). -/

theorem execDelayResp_stale {s : State} {r : CourseRx} (h : Takes .pod s 0x16 r)
    (hn : s.course.pod.t1 = none ∨ f32At r.payload 12 ≠ s.course.pod.sweep) : execDelayResp r s = .next (received s 0x16 r) := by
  unfold execDelayResp
  rw [podRx_takes h]
  dsimp only
  rw [received_pod]
  cases ht : s.course.pod.t1 with
  | none => rfl
  | some t1 =>
    rcases hn with hn | hn
    · rw [ht] at hn
      cases hn
    · dsimp only
      rw [if_pos (by simp [hn])]

/-- The one-way delay that a DELAY_RESP tells, in ns: half of the way out and back without the stay at the head. -/
def delayNs (s : State) (t1 : Count48) (p : List Byte) : Int :=
  ((s.time.count - t1).toInt - (BitVec.ofNat 48 (le p 6 6) - BitVec.ofNat 48 (le p 0 6)).toInt) * 500

theorem execDelayResp_measures {s : State} {r : CourseRx} {t1 : Count48} (h : Takes .pod s 0x16 r) (hw : podSweeps s = true)
    (ht : s.course.pod.t1 = some t1) (hn : f32At r.payload 12 = s.course.pod.sweep) :
    execDelayResp r s = .next (modPod (received s 0x16 r) fun q => if q.side.getD 0 = 0
      then { q with t1 := none, delays0 := (delayNs s t1 r.payload :: q.delays0).take 4 }
      else { q with t1 := none, delays1 := (delayNs s t1 r.payload :: q.delays1).take 4 }) := by
  unfold execDelayResp
  rw [podRx_takes h]
  dsimp only
  rw [received_pod, ht, received_podSweeps, hw, received_time]
  dsimp only
  rw [if_neg (by simp [hn])]
  rfl

/-! BACKLOG_REQ (R643). -/

/-- The pod has dropped the backlog records that are acknowledged. -/
def backlogDropped (s : State) (n : Nat) : State := modPod s fun q => { q with backlog := q.backlog.drop n }

theorem backlogDropped_received (s : State) (type : Byte) (r : CourseRx) (n : Nat) :
    (backlogDropped (received s type r) n).course.pod = { s.course.pod with backlog := s.course.pod.backlog.drop n } := by
  rw [backlogDropped, modPod_pod, received_pod]

theorem backlogDropped_sends (s : State) (n : Nat) (q : Fin 2) : sends (backlogDropped s n) q = sends s q := rfl

theorem sendBacklogData_sendsOnly (port : Fin 2) (l : List (List Record)) (s : State) : SendsOnly s (sendBacklogData s port l) := by
  induction l generalizing s with
  | nil => exact .refl s
  | cons c l ih => exact (originate_sendsOnly ..).trans (ih _)

/-- A backlog that is not empty is sent from its first nine records on. -/
theorem sendBacklogData_first {s : State} {port : Fin 2} (hs : sends s port = true) {l : List Record} (hl : l ≠ []) {k : Nat} (hk : k ≠ 0) :
    ∃ f ∈ (sendBacklogData s port ((chunks9 456 l).take k)).course.ports[port].txq, f.type = 0x21 ∧ u8 f.payload 4 = min 9 l.length := by
  obtain ⟨k, rfl⟩ := Nat.exists_eq_add_one_of_ne_zero hk
  have hc : (chunks9 456 l).take (k + 1) = l.take 9 :: (chunks9 455 (l.drop 9)).take k := by
    rw [show chunks9 456 l = l.take 9 :: chunks9 455 (l.drop 9) from if_neg (by simpa using hl), List.take_succ_cons]
  rw [hc]
  unfold sendBacklogData
  dsimp only
  generalize hp : toLE 4 s.course.pod.sweep.toNat ++ [BitVec.ofNat 8 (l.take 9).length, 0, 0, 0] ++ _ = p
  have hp4 : u8 p 4 = min 9 l.length := by
    have hlt : min 9 l.length < 2 ^ 8 := by omega
    rw [← hp, List.append_assoc, List.length_take]
    exact (BitVec.toNat_ofNat ..).trans (Nat.mod_eq_of_lt hlt)
  obtain ⟨-, -, hw⟩ := originate_ports s [port] 0x21 0 2 (BitVec.ofNat 8 ((chunks9 455 (l.drop 9)).take k).length) p
  obtain ⟨f, hf, htype, -, hpay, -⟩ := (sendBacklogData_sendsOnly ..).waits (hw port List.mem_cons_self hs)
  exact ⟨f, hf, htype, by rw [hpay, hp4]⟩

theorem execBacklogReq_takes {s : State} {r : CourseRx} (h : Takes .pod s 0x20 r) : execBacklogReq r s = .next (
    if !podSweeps s then received s 0x20 r
    else sendBacklogData (backlogDropped (received s 0x20 r) (u16 r.payload 0)) (sidePort s.course.pod r.port)
      ((chunks9 456 (s.course.pod.backlog.drop (u16 r.payload 0))).take r.credit.toNat)) := by
  unfold execBacklogReq
  rw [podRx_takes h]
  dsimp only
  rw [received_podSweeps, modPod_pod, received_pod]
  rfl

/-! RENDER_ENTRIES (R364, R365, R632). -/

theorem renderRefusal_badArg {s : State} {p : List Byte} (hb : bit (u8 p 5) 0 = false)
    (h : s.course.pod.renderOpen = false ∨ s.course.pod.renderSeq ≠ f32At p 0) : renderRefusal s p = some stBadArg :=
  if_pos (by rcases h with h | h <;> simp [hb, h])

/-- A part of an open transfer, or its first, is refused for its entries alone. -/
theorem renderRefusal_open {s : State} {p : List Byte}
    (h : bit (u8 p 5) 0 = true ∨ (s.course.pod.renderOpen = true ∧ s.course.pod.renderSeq = f32At p 0)) :
    renderRefusal s p = if (entriesOf p).any fun e => vcnNode e.vcn != s.course.pod.addr.toNat || !assignedIndex (vcnIndex e.vcn)
      then some stUnknownVcn else none :=
  if_neg (by
    rcases h with h | ⟨ho, hs⟩
    · simp [h]
    · simp [ho, hs])

theorem renderRefusal_none_iff {s : State} {p : List Byte}
    (h : bit (u8 p 5) 0 = true ∨ (s.course.pod.renderOpen = true ∧ s.course.pod.renderSeq = f32At p 0)) :
    renderRefusal s p = none ↔ ∀ e ∈ entriesOf p, vcnNode e.vcn = s.course.pod.addr.toNat ∧ assignedIndex (vcnIndex e.vcn) = true := by
  rw [renderRefusal_open h]
  simp

theorem renderRefusal_unknown {s : State} {p : List Byte}
    (h : bit (u8 p 5) 0 = true ∨ (s.course.pod.renderOpen = true ∧ s.course.pod.renderSeq = f32At p 0)) (hn : renderRefusal s p ≠ none) :
    renderRefusal s p = some stUnknownVcn := by
  rw [renderRefusal_open h] at hn ⊢
  split at hn
  next ha => exact if_pos ha
  next => exact absurd rfl hn

/-- The entries of a transfer so far. -/
def builtEntries (q : Pod) (p : List Byte) : List RenderEntry := (if bit (u8 p 5) 0 = true then [] else q.renderBuild) ++ entriesOf p

/-- The state with a part of a transfer of Render entries taken. -/
def renderTaken (s : State) (p : List Byte) : State :=
  modPod s fun q => { q with renderSeq := f32At p 0, renderBuild := builtEntries q p, renderOpen := !bit (u8 p 5) 1 }

theorem execRenderEntries_refused {s : State} {r : CourseRx} {c : Byte} (h : Takes .pod s 0x22 r) (hw : podSweeps s = true)
    (hc : renderRefusal s r.payload = some c) : execRenderEntries r s = .next (originate
      (modPod (received s 0x22 r) fun q => { q with renderOpen := false }) [sidePort s.course.pod r.port] 0x26 0 2 0 [0x22, c, 0, 0]) := by
  unfold execRenderEntries
  rw [podRx_takes h]
  dsimp only
  rw [received_podSweeps, hw, received_renderRefusal, hc, received_pod]
  rfl

theorem execRenderEntries_taken {s : State} {r : CourseRx} (h : Takes .pod s 0x22 r) (hw : podSweeps s = true)
    (hc : renderRefusal s r.payload = none) : execRenderEntries r s = .next (if bit (u8 r.payload 5) 1 then
      originate (installRender (renderTaken (received s 0x22 r) r.payload) (builtEntries s.course.pod r.payload))
        [sidePort s.course.pod r.port] 0x23 0 2 0 (toLE 4 (f32At r.payload 0).toNat)
      else renderTaken (received s 0x22 r) r.payload) := by
  unfold execRenderEntries
  rw [podRx_takes h]
  dsimp only
  rw [received_podSweeps, hw, received_renderRefusal, hc, received_pod, renderTaken]
  unfold modPod
  rw [received_pod]
  rfl

/-- New entries come into force: beside the pod's record, the entries that frames in progress keep. -/
theorem installRender_rest (s : State) (l : List RenderEntry) : installRender s l =
    { s with course := { s.course with pod := { s.course.pod with render := l } }, cal := { s.cal with old := (installRender s l).cal.old } } := rfl

theorem installRender_sends (s : State) (p : List Byte) (l : List RenderEntry) (q : Fin 2) :
    sends (installRender (renderTaken s p) l) q = sends s q := rfl

theorem rest_of_render {s u t : State} {p : List Byte} {l : List RenderEntry} (hu : u = { s with course := u.course })
    (ht : SendsOnly (installRender (renderTaken u p) l) t) : t = { s with course := t.course, cal := t.cal } := by
  have hx : t = { u with course := t.course, cal := t.cal } := by
    rw [ht.rest]
    rfl
  generalize t.course = c, t.cal = k at hx ⊢
  generalize u.course = d at hu
  subst hx hu
  rfl

theorem cal_of_render {u t : State} {p : List Byte} {l : List RenderEntry} (ht : SendsOnly (installRender (renderTaken u p) l) t) :
    t.cal = { u.cal with old := t.cal.old } := by
  rw [ht.rest]
  rfl

/-! STATUS_REQ (R632). -/

theorem execStatusReq_takes {s : State} {r : CourseRx} (h : Takes .pod s 0x24 r) : execStatusReq r s = .next (
    if !podSweeps s then received s 0x24 r
    else if 0x10000 < u16 r.payload 0 + u16 r.payload 2 then
      originate (received s 0x24 r) [sidePort s.course.pod r.port] 0x26 0 2 0 [0x24, stBadArg, 0, 0]
    else originate (received s 0x24 r) [sidePort s.course.pod r.port] 0x25 0 2 0
      (toLE 2 (u16 r.payload 0) ++ toLE 2 (u16 r.payload 2) ++ regBytes (received s 0x24 r) (u16 r.payload 0) (u16 r.payload 2))) := by
  unfold execStatusReq
  rw [podRx_takes h]
  dsimp only
  rw [received_podSweeps, received_pod]

end Sys2Proof.Machine

namespace Sys2Proof.Machine

/-! The services in terms of the state before the frame. -/

theorem modPod_received (s : State) (type : Byte) (r : CourseRx) (f : Pod → Pod) : modPod (received s type r) f =
    { received s type r with course := { (received s type r).course with pod := f s.course.pod } } := by
  rw [modPod, received_pod]

theorem rest_of_received {s t : State} {type : Byte} {r : CourseRx} (h : t = { received s type r with course := t.course }) :
    t = { s with course := t.course } := by
  rw [h, received_eq]

theorem rest_of_received_pod {s t : State} {type : Byte} {r : CourseRx} {f : Pod → Pod}
    (h : t = { modPod (received s type r) f with course := t.course }) : t = { s with course := t.course } := by
  refine rest_of_received (type := type) (r := r) (h.trans ?_)
  generalize t.course = c
  rfl

/-- A mark taken, with what follows from it, and then a frame sent. -/
theorem rest_of_mark {s u x t : State} {m : Int} (hu : u = { s with course := u.course })
    (hx : x = { fourthMark (markNoted u) m with time := x.time, events := x.events }) (ht : t = { x with course := t.course }) :
    t = { s with course := t.course, time := t.time, events := t.events } := by
  rw [show t.time = x.time from congrArg (·.time) ht, show t.events = x.events from congrArg (·.events) ht]
  generalize t.course = c at ht ⊢
  generalize x.time = time, x.events = events at hx ⊢
  generalize u.course = course at hu
  subst ht hx hu
  rfl

theorem received_rest (s : State) (type : Byte) (r : CourseRx) : received s type r = { s with course := (received s type r).course } := by
  rw [received_eq]

theorem received_plumbNs (s : State) (type : Byte) (r : CourseRx) : plumbNs (received s type r) = plumbNs s := by
  rw [received_eq]
  rfl

theorem sweepPod_kept (q : Pod) (clk : Nat) (p : List Byte) : (sweepPod q clk p).backlog = q.backlog ∧ (sweepPod q clk p).addr = q.addr ∧
    (∀ d, facing (sweepPod q clk p) d = facing q d) ∧ (sweepPod q clk p).side = q.side := by
  rw [sweepPod, settleDue_rest]
  exact ⟨rfl, rfl, fun _ => rfl, rfl⟩

section
variable {s : State} {r : CourseRx}

/-- A fresh SWEEP_START without chain time. -/
theorem sweepStart_fresh (h : Takes .pod s 0x10 r) (hw : podSweeps s = true) (hc : cfgChainTime s = false)
    (hf : freshSweep s (f32At r.payload 0) = true) : ∃ x, SweepTaken s x r.payload ∧ execSweepStart r s = .next (asksDelay r x) := by
  obtain ⟨x, hx, hnext⟩ := execSweepStart_fresh h hw hc hf
  refine ⟨x, ⟨?_, ?_, ?_, fun q => (hx.sends q).trans (received_sends ..)⟩, hnext⟩
  · rw [hx.rest, received_eq]
  · rw [← received_mox s 0x10 r]
    exact hx.mox
  · rw [← received_pod s 0x10 r, ← received_clk s 0x10 r]
    exact hx.pod

/-- A further copy of a SWEEP_START brings its mark. -/
theorem sweepStart_copy (h : Takes .pod s 0x10 r) (hw : podSweeps s = true) (hf : freshSweep s (f32At r.payload 0) = false) :
    execSweepStart r s = .next (asksDelay r (takeMark (received s 0x10 r) r)) := by
  rw [execSweepStart_takes h, hw, hf]
  rfl

theorem sweepStart_marks {d : Fin 2} {delay : Int} (h : Takes .pod s 0x10 r) (hw : podSweeps s = true)
    (hf : freshSweep s (f32At r.payload 0) = false) (hm : FourthGood s r d delay) :
    ∃ x, ChainTaken (fourthMark (markNoted (received s 0x10 r)) (markNs r delay)) x (markNs r delay - plumbNs s) ∧
      execSweepStart r s = .next (asksDelay r x) := by
  refine ⟨_, ?_, sweepStart_copy h hw hf⟩
  rw [← received_plumbNs s 0x10 r]
  exact takeMark_qualifies (hm.received 0x10)

theorem execCredit_idle (h : Takes .pod s 0x11 r) (hw : podSweeps s = false) : execCredit r s = .next (received s 0x11 r) := by
  unfold execCredit
  rw [podRx_takes h]
  dsimp only
  rw [received_podSweeps, hw, Bool.false_and]

theorem execRenderEntries_idle (h : Takes .pod s 0x22 r) (hw : podSweeps s = false) : execRenderEntries r s = .next (received s 0x22 r) := by
  unfold execRenderEntries
  rw [podRx_takes h]
  dsimp only
  rw [received_podSweeps, hw]
  rfl

end

/-- Settles O50: each frame by what it does to the pod, the frames it sends kept apart; a missed sweep by its number, and by what it is to the
chain. -/
theorem podSweepsAndServices : Obligations.PodSweepsAndServices := by
  unfold Obligations.PodSweepsAndServices
  refine ⟨fun s r h => ⟨fun hw hrun => ?other, fun hrun => ?early, fun hw hc hf => ?start,
      fun d delay hw hc hf hd hface hm hv hl hp hq hg hvalid hpps hchain he => fun hnear hb => ?mark⟩,
    fun s r e h hw hclk he => ⟨fun hb => ?acknowledged, fun hb => ?granted⟩,
    fun s hr hw hclk hdue => ⟨fun hc => ?missed, fun hc hq hm hs he => ?lost⟩,
    fun s h => execSweepMissed_idle h,
    fun s r h => ⟨fun hn => execDelayResp_stale h hn, fun t1 hw ht hn => ?delay⟩,
    fun s r h hw => ?backlog,
    fun s r h hw => ⟨fun c hc => ?refused, fun hb ho => renderRefusal_badArg hb ho,
      fun ho => ⟨renderRefusal_none_iff ho, fun hn => renderRefusal_unknown ho hn⟩, fun hc => ⟨fun hb => ?part, fun hb => ?last⟩⟩,
    fun s r h hw => ?status,
    fun s r hw => ⟨fun h => execCredit_idle h hw, fun h => ?noBacklog, fun h => execRenderEntries_idle h hw, fun h => ?noStatus⟩⟩
  case other =>
    refine (execSweepStart_idle h hw).trans ?_
    rw [noteHead_running ((received_isRunning s 0x10 r).trans hrun)]
  case early =>
    refine (execSweepStart_idle h (podSweeps_stopped hrun)).trans ?_
    rw [noteHead_stopped ((received_isRunning s 0x10 r).trans hrun), received_clk, modPod_received]
  case start =>
    obtain ⟨x, hx, hnext⟩ := sweepStart_fresh h hw hc hf
    obtain ⟨hbacklog, haddr, hfacing, hside⟩ := sweepPod_kept s.course.pod s.clk r.payload
    have hpod := asksDelay_pod r x
    rw [hx.pod] at hpod
    refine ⟨_, hnext, ?_, fun n => ?_, ?_, fun hn hface => ?_⟩
    · rw [asksDelay_rest, hx.rest]
    · rw [asksDelay_rest]
      exact hx.mox n
    · rw [hpod]
      exact ⟨rfl, rfl, rfl, rfl, rfl, rfl, rfl, rfl, rfl, rfl, rfl, settleDue_records .., hbacklog⟩
    · have hask : x.course.pod.delayAsked = false := congrArg Pod.delayAsked hx.pod
      refine asksDelay_named ?_ ?_ hask ((hx.sends _).trans h.sends)
      · rw [hx.pod]
        exact hn.trans haddr.symm
      · rw [hx.pod]
        exact (hfacing _).trans (by rw [hside]; exact hface)
  case mark =>
    obtain ⟨x, hx, hnext⟩ := sweepStart_marks h hw hf ⟨hc, hd, hface, hm, hv, hl, hp, hq, hg, hvalid, hpps, hchain, he, hnear, hb⟩
    have htime : (asksDelay r x).time = x.time := congrArg (·.time) (asksDelay_rest r x)
    refine ⟨_, hnext, ?_, ?_, ?_, ?_, ?_, ?_⟩
    · exact rest_of_mark (received_rest ..) hx.rest (asksDelay_rest ..)
    · rw [htime, hx.state]
    · rw [htime, hx.qualified]
      rfl
    · rw [htime, hx.phaseErr]
      exact congrArg (markNs r delay - ·) (received_plumbNs s 0x10 r)
    · rw [htime, hx.slew]
      rfl
    · rw [asksDelay_pod, hx.rest]
      rfl
  case acknowledged =>
    refine (execCredit_takes h hw hclk he).trans ?_
    rw [hb, Bool.not_false, if_pos rfl, acknowledged, modPod_received]
    rfl
  case granted =>
    have hnext := execCredit_takes h hw hclk he
    rw [hb, Bool.not_true, if_neg (by decide)] at hnext
    obtain ⟨hrest, hpod, hreport⟩ := sendGranted_grants (modPod (received s 0x11 r) fun q => creditedPod q e r.payload) r.port (e % 128) (bit e 7)
    rw [modPod_pod, received_pod] at hpod hreport
    refine ⟨_, hnext, rest_of_received_pod hrest, ?_, ?_, ?_, ?_, fun hdec => ?_, ?_⟩
    · exact congrArg Pod.side hpod
    · exact congrArg Pod.dec hpod
    · exact (congrArg Pod.backlog hpod).trans rfl
    · rw [congrArg Pod.sentRecs hpod]
      exact grantChunks_length ..
    · rw [congrArg Pod.sentRecs hpod, congrArg Pod.pending hpod, hdec]
      exact grant_keeps (creditedPod s.course.pod e r.payload) (e % 128)
    · intro port hs
      have hport : port = sidePort (creditedPod s.course.pod e r.payload) r.port :=
        (congrArg (sidePort · r.port) hpod).trans rfl
      rw [hport] at hs
      show ReportWaits _ port _
      rw [hport]
      exact hreport ((received_sends ..).trans hs)
  case missed =>
    have hrest := sweepCounted_rest hc
    have hpod := sweepCounted_pod hc
    by_cases hk : s.course.pod.missed < 2 ∨ s.course.pod.autonomous = true
    · refine ⟨_, execSweepMissed_counts hr hw hclk hdue hk, hrest, hpod.missed, hpod.missNo,
        fun _ => ⟨hpod.records, hpod.sentRecs, hpod.backlog, hpod.autonomous⟩, fun h2 hn => ?_⟩
      rw [hn] at hk
      exact absurd hk (not_or.2 ⟨Nat.not_lt.2 h2, Bool.false_ne_true⟩)
    · obtain ⟨h2, hn⟩ : 2 ≤ s.course.pod.missed ∧ s.course.pod.autonomous = false := by
        rw [← Nat.not_lt, ← Bool.not_eq_true, ← not_or]
        exact hk
      have hgoes := goesAutonomous_rest (sweepCounted s).course.pod
      refine ⟨_, execSweepMissed_third hr hw hclk hdue h2 hn, ?_, ?_, ?_, fun h => absurd h hk,
        fun _ _ => ⟨?_, ?_, ?_, ?_, goesAutonomous_backlog hpod⟩⟩
      · rw [modPod, hrest]
      · exact (congrArg Pod.missed hgoes).trans hpod.missed
      · exact (congrArg Pod.missNo hgoes).trans hpod.missNo
      · exact congrArg Pod.autonomous hgoes
      · exact congrArg Pod.phase hgoes
      · exact congrArg Pod.pending hgoes
      · exact congrArg Pod.sentRecs hgoes
  case lost =>
    have hlost := sweepCounted_lost (missedMarks_lost hc hq hm hs he)
    have hnext := execSweepMissed_due hr hw hclk hdue
    split at hnext
    · exact ⟨_, hnext, hlost.state, hlost.qualified, hlost.told⟩
    · exact ⟨_, hnext, hlost.state, hlost.qualified, hlost.told⟩
  case delay =>
    refine (execDelayResp_measures h hw ht hn).trans ?_
    rw [modPod_received]
    rfl
  case backlog =>
    have hnext := execBacklogReq_takes h
    rw [hw, Bool.not_true, if_neg (by decide)] at hnext
    have hsent := sendBacklogData_sendsOnly (sidePort s.course.pod r.port)
      ((chunks9 456 (s.course.pod.backlog.drop (u16 r.payload 0))).take r.credit.toNat) (backlogDropped (received s 0x20 r) (u16 r.payload 0))
    have hpod := hsent.pod.trans (backlogDropped_received ..)
    refine ⟨_, hnext, rest_of_received (rest_of_pod hsent), hpod, fun hl hcredit hs => ?_⟩
    have hkept := congrArg Pod.backlog hpod
    rw [hkept] at hl ⊢
    exact sendBacklogData_first ((backlogDropped_sends ..).trans ((received_sends ..).trans hs)) hl fun h0 => hcredit (BitVec.eq_of_toNat_eq h0)
  case refused =>
    refine (execRenderEntries_refused h hw hc).trans ?_
    rw [modPod_received]
  case part =>
    refine (execRenderEntries_taken h hw hc).trans ?_
    rw [hb, if_neg (by decide), renderTaken, modPod_received, hb]
    rfl
  case last =>
    have hnext := execRenderEntries_taken h hw hc
    rw [hb, if_pos rfl] at hnext
    have hsent := originate_sendsOnly (installRender (renderTaken (received s 0x22 r) r.payload) (builtEntries s.course.pod r.payload))
      [sidePort s.course.pod r.port] 0x23 0 2 0 (toLE 4 (f32At r.payload 0).toNat)
    obtain ⟨-, -, hw⟩ := originate_ports (installRender (renderTaken (received s 0x22 r) r.payload) (builtEntries s.course.pod r.payload))
      [sidePort s.course.pod r.port] 0x23 0 2 0 (toLE 4 (f32At r.payload 0).toNat)
    refine ⟨_, hnext, ?_, ?_, ?_, fun hs => hw _ List.mem_cons_self ((installRender_sends ..).trans ((received_sends ..).trans hs))⟩
    · exact rest_of_render (received_rest ..) hsent
    · rw [hsent.pod, installRender_rest]
      dsimp only
      rw [renderTaken, modPod_pod, received_pod, hb]
      rfl
    · rw [← received_cal s 0x22 r]
      exact cal_of_render hsent
  case status =>
    exact (execStatusReq_takes h).trans (by rw [hw]; rfl)
  case noBacklog => exact (execBacklogReq_takes h).trans (by rw [hw]; rfl)
  case noStatus => exact (execStatusReq_takes h).trans (by rw [hw]; rfl)

end Sys2Proof.Machine

namespace Sys2Proof.Machine

/-! A rule takes a new state (R407, R421 - R426): its own record, the outputs, events, log and, of Course, a pod's ALARM frame move. -/

/-- From `s` to `t` rules and outputs of Spillway have moved, with the events, the log and the ALARM frame that follow them. -/
def RulesOnly (s t : State) : Prop :=
  t = { s with spill := t.spill, events := t.events, log := t.log
               course := { s.course with ports := t.course.ports, seqs := t.course.seqs, pod := t.course.pod } }

theorem RulesOnly.refl (s : State) : RulesOnly s s := rfl

theorem RulesOnly.trans {s t u : State} (h : RulesOnly s t) (k : RulesOnly t u) : RulesOnly s u := by
  unfold RulesOnly at *
  rw [k, h]

theorem LogOnly.rulesOnly {s t : State} (h : LogOnly s t) : RulesOnly s t := by
  unfold RulesOnly LogOnly at *
  rw [h]

theorem PinsOnly.rulesOnly {s t : State} (h : PinsOnly s t) : RulesOnly s t := by
  unfold RulesOnly
  rw [h.1]

theorem AlarmOnly.rulesOnly {s t : State} (h : AlarmOnly s t) : RulesOnly s t := by
  unfold RulesOnly
  rw [h.rest]

theorem RulesOnly.course {s t : State} (h : RulesOnly s t) :
    t = { s with spill := t.spill, events := t.events, log := t.log, course := t.course } := by
  rw [h]

/-- Rules move from a state that differs in Course alone. -/
theorem RulesOnly.after_course {s d t : State} (h : RulesOnly d t) (hd : d = { s with course := d.course }) :
    t = { s with course := t.course, spill := t.spill, events := t.events, log := t.log } := by
  unfold RulesOnly at h
  rw [h, hd]

theorem RulesOnly.nodes {s t : State} (h : RulesOnly s t) : t.course.nodes = s.course.nodes := congrArg (·.course.nodes) h

/-- From `s` to `t` the outputs have followed the rules, and no rule has moved. -/
structure OutputsFollow (s t : State) : Prop where
  only : RulesOnly s t
  rules : t.spill.rules = s.spill.rules

theorem OutputsFollow.refl (s : State) : OutputsFollow s s := ⟨.refl s, rfl⟩

theorem OutputsFollow.trans {s t u : State} (h : OutputsFollow s t) (k : OutputsFollow t u) : OutputsFollow s u :=
  ⟨h.only.trans k.only, k.rules.trans h.rules⟩

theorem OutputsFollow.of_log {s t : State} (h : LogOnly s t) : OutputsFollow s t := ⟨h.rulesOnly, congrArg Spill.rules h.spill⟩

theorem OutputsFollow.of_alarm {s t : State} (h : AlarmOnly s t) : OutputsFollow s t := ⟨h.rulesOnly, congrArg (·.spill.rules) h.rest⟩

theorem OutputsFollow.of_pins {s t : State} (h : PinsOnly s t) : OutputsFollow s t := ⟨h.rulesOnly, congrArg (·.spill.rules) h.1⟩

theorem endHold_follows (s : State) (n : Fin 2) : OutputsFollow s (endHold s n) := ⟨rfl, rfl⟩

theorem chainChanged_follows (s : State) : OutputsFollow s (chainChanged s) :=
  .trans (t := { s with course := { s.course with
    pod := { s.course.pod with alarmCount := s.course.pod.alarmCount + 1, alarmWanted := true } } }) ⟨rfl, rfl⟩ (.of_alarm (sendAlarm_only _))

/-- One step of several that the outputs follow, where it is taken. -/
theorem OutputsFollow.step {s t u : State} {c : Prop} [Decidable c] (h : OutputsFollow s t) (k : OutputsFollow t u) :
    OutputsFollow s (if c then u else t) := by
  split
  · exact h.trans k
  · exact h

theorem ruleOutputs_follows (s : State) (k : Nat) : OutputsFollow s (ruleOutputs s k) := by
  unfold ruleOutputs
  extract_lets t u v
  have ht : OutputsFollow s t := (OutputsFollow.refl s).step (endHold_follows s 0)
  have hu : OutputsFollow s u := ht.step (endHold_follows t 1)
  have hv : OutputsFollow s v := hu.step (chainChanged_follows u)
  exact hv.trans (.of_pins (refreshOutputs_pins v))

/-- From `s` to `t` rule `k` alone has moved, into the state `new`. -/
structure RuleMoves (k : Fin 256) (new : RuleState) (s t : State) : Prop where
  only : RulesOnly s t
  state : t.spill.rules[k].state = new
  others : ∀ j : Fin 256, j ≠ k → t.spill.rules[j] = s.spill.rules[j]

/-- The rule before its outputs have followed. -/
theorem RuleMoves.of_set {s t : State} {k : Fin 256} {r : Rule} (h : OutputsFollow { s with spill := { s.spill with rules := s.spill.rules.set k.val r } } t) :
    RuleMoves k r.state s t where
  only := (show RulesOnly s { s with spill := { s.spill with rules := s.spill.rules.set k.val r } } from rfl).trans h.only
  state := by
    rw [h.rules]
    exact congrArg Rule.state (Vector.getElem_set_self k.isLt)
  others j hj := by
    rw [h.rules]
    exact Vector.getElem_set_ne k.isLt j.isLt fun e => hj (Fin.ext e.symm)

theorem setRule_moves (s : State) (k : Fin 256) (new : RuleState) (first : Bool) : RuleMoves k new s (setRule s k new first) := by
  unfold setRule
  extract_lets r was now r' spill t u ev v w
  split
  · next h => exact ⟨.refl s, h, fun _ _ => rfl⟩
  · refine RuleMoves.of_set (r := r') ?_
    have hu : OutputsFollow t u := .of_log (logAlarm_log (.refl t) ..)
    have hv : OutputsFollow t v := hu.step (.of_log (raise_log (.refl u) ..))
    have hw : OutputsFollow t w := hv.step (.of_log (raise_log (.refl v) ..))
    exact hw.step (ruleOutputs_follows w k.val)

/-- From `s` to `t` other rules than `k` may have moved. -/
structure RuleStays (k : Fin 256) (s t : State) : Prop where
  only : RulesOnly s t
  rule : t.spill.rules[k] = s.spill.rules[k]

theorem RuleStays.refl (k : Fin 256) (s : State) : RuleStays k s s := ⟨.refl s, rfl⟩

theorem RuleStays.trans {k : Fin 256} {s t u : State} (h : RuleStays k s t) (h' : RuleStays k t u) : RuleStays k s u :=
  ⟨h.only.trans h'.only, h'.rule.trans h.rule⟩

theorem RuleMoves.stays {k j : Fin 256} {new : RuleState} {s t : State} (h : RuleMoves k new s t) (hj : k ≠ j) : RuleStays j s t :=
  ⟨h.only, h.others j hj.symm⟩

theorem mem_allRules {s : State} {k : Fin 256} : k ∈ allRules s ↔ k.val < ruleCount s := by
  simp [allRules]

theorem allRules_nodup (s : State) : (allRules s).Nodup := (List.nodup_finRange 256).filter _

/-- Steps for several rules, each of which moves its own: a rule among them takes the state that its own step gives it. -/
theorem foldl_ruleMoves {f : State → Fin 256 → State} {new : State → Fin 256 → RuleState} (h : ∀ s k, RuleMoves k (new s k) s (f s k))
    (hn : ∀ {s t k}, RuleStays k s t → new t k = new s k) {l : List (Fin 256)} (hl : l.Nodup) (s : State) :
    RulesOnly s (l.foldl f s) ∧ ∀ k ∈ l, (l.foldl f s).spill.rules[k].state = new s k := by
  refine ⟨foldl_rel RulesOnly .refl .trans f (fun s k => (h s k).only) l s, fun k hk => ?_⟩
  obtain ⟨u, hu, ht⟩ := foldl_once (RuleStays k) (.refl k) .trans f (fun s j _ hj => (h s j).stays hj) hl hk s
  rw [ht.rule, (h u k).state, hn hu]

end Sys2Proof.Machine

namespace Sys2Proof.Machine

/-! ACKNOWLEDGE_RULE (R413, R414, R443). -/

/-- The state of a rule once it is acknowledged. -/
def ackedState (s : State) (k : Fin 256) : RuleState :=
  match s.spill.rules[k].state with
  | .latched => .clear
  | .alarmed => if ruleLatch s k.val = true then .acked else .alarmed
  | g => g

theorem acknowledge_moves (s : State) (k : Fin 256) : RuleMoves k (ackedState s k) s (acknowledge s k) := by
  have stays (h : s.spill.rules[k].state = ackedState s k) : RuleMoves k (ackedState s k) s s := ⟨.refl s, h, fun _ _ => rfl⟩
  unfold acknowledge
  split
  · next h =>
    rw [show ackedState s k = .clear by simp only [ackedState, h]]
    exact setRule_moves ..
  · next h =>
    split
    · next hl =>
      rw [show ackedState s k = .acked by simp only [ackedState, h, hl, if_true]]
      exact setRule_moves ..
    · next hl => exact stays (by simp only [ackedState, h, hl]; rfl)
  · next hl ha =>
    refine stays ?_
    unfold ackedState
    split
    · next h => exact absurd h hl
    · next h => exact absurd h ha
    · rfl

theorem RuleStays.ackedState {k : Fin 256} {s t : State} (h : RuleStays k s t) : Machine.ackedState t k = Machine.ackedState s k := by
  have hl : ruleLatch t k.val = ruleLatch s k.val := by
    rw [h.only]
    rfl
  unfold Machine.ackedState
  rw [h.rule, hl]

/-- All rules acknowledged. -/
theorem acknowledgeAll_moves (s : State) : RulesOnly s ((allRules s).foldl acknowledge s) ∧
    ∀ k : Fin 256, k.val < ruleCount s → ((allRules s).foldl acknowledge s).spill.rules[k].state = ackedState s k := by
  obtain ⟨hs, hk⟩ := foldl_ruleMoves acknowledge_moves RuleStays.ackedState (allRules_nodup s) s
  exact ⟨hs, fun k h => hk k (mem_allRules.2 h)⟩

/-- The command's own refusals and effect. -/
def acknowledgeBody (s : State) (a : List Byte) : Byte × State :=
  if u16 a 2 ≠ 0 then (stBadArg, s)
  else if u16 a 0 = 0xFFFF then (stOk, (allRules s).foldl acknowledge s)
  else if h : u16 a 0 < 256 then
    if u16 a 0 < ruleCount s then (stOk, acknowledge s ⟨u16 a 0, h⟩) else (stBadArg, s)
  else (stBadArg, s)

theorem execAcknowledgeRule_ready {s : State} {f : HostFrame} (h : CommandReady s f 0x03 [] 4) {st : Byte} {x : State}
    (e : acknowledgeBody (sessionActivity s) (commandArgs f 0x03 []) = (st, x)) : execAcknowledgeRule f s = .next (replied x f 0x03 st) :=
  commandFrame_next _ _ h rfl rfl rfl e

section
variable {u : State} {a : List Byte}

theorem acknowledgeBody_badArg (h : u16 a 2 ≠ 0 ∨ (u16 a 0 ≠ 0xFFFF ∧ (256 ≤ u16 a 0 ∨ ruleCount u ≤ u16 a 0))) :
    acknowledgeBody u a = (stBadArg, u) := by
  unfold acknowledgeBody
  split
  · rfl
  · next h2 =>
    obtain ⟨hall, hn⟩ := h.resolve_left h2
    rw [if_neg hall]
    split
    · next hlt => exact if_neg (Nat.not_lt.2 (hn.resolve_left (Nat.not_le.2 hlt)))
    · rfl

theorem acknowledgeBody_one {k : Fin 256} (h2 : u16 a 2 = 0) (h0 : u16 a 0 = k.val) (hk : k.val < ruleCount u) :
    acknowledgeBody u a = (stOk, acknowledge u k) := by
  unfold acknowledgeBody
  simp only [h2, h0, ne_eq, not_true_eq_false, if_false, k.isLt, dite_true, hk, if_true]
  exact if_neg (by omega)

theorem acknowledgeBody_all (h2 : u16 a 2 = 0) (h0 : u16 a 0 = 0xFFFF) : acknowledgeBody u a = (stOk, (allRules u).foldl acknowledge u) := by
  unfold acknowledgeBody
  rw [if_neg (not_not_intro h2), if_pos h0]

end

end Sys2Proof.Machine

namespace Sys2Proof.Machine

/-! A ratio output comes to its row of the table (R435, R436). -/

/-- An output with the code of its row as its goal: there at once, or on the way (R436). -/
def Aout.toRow (c : BitVec 16) (rate : Nat) (o : Aout) : Aout :=
  if inBand c || inBand o.code || rate = 0 then { o with code := c, goal := c, part := 0 } else { o with goal := c }

theorem refreshAout_driven {s : State} {n : Fin 2} (h : s.spill.aout[n].driven = true) : refreshAout s n =
    { s with spill := { s.spill with aout := vmod s.spill.aout n (Aout.toRow (aoutTarget s n) (aoutSlew s n)) } } :=
  if_neg (by rw [h]; decide)

theorem Aout.toRow_steps {c : BitVec 16} {rate : Nat} {o : Aout} (h : inBand c = true ∨ inBand o.code = true ∨ rate = 0) :
    o.toRow c rate = { o with code := c, goal := c, part := 0 } :=
  if_pos (by simpa [or_assoc] using h)

theorem Aout.toRow_slews {c : BitVec 16} {rate : Nat} {o : Aout} (hc : inBand c = false) (ho : inBand o.code = false) (hr : rate ≠ 0) :
    o.toRow c rate = { o with goal := c } :=
  if_neg (by simp [hc, ho, hr])

theorem inBand_lowBand : inBand lowBand = true := by decide

/-- The table's row of a faulted output is the low fault band (R434, R437). -/
theorem aoutTarget_of_fault {s : State} {n : Fin 2} (h : s.spill.aout[n].fault = true) : aoutTarget s n = lowBand := by
  unfold aoutTarget
  dsimp only
  rw [h, if_pos (by simp)]

/-- Codes that a move may cover by now, the part of one kept before among them (R436). -/
def slewRoom (rate : Nat) (o : Aout) : Rat := o.part + ((rate * 65536 : Nat) : Rat) / 10 ^ 6

theorem slewRoom_nonneg {rate : Nat} {o : Aout} (h : 0 ≤ o.part) : 0 ≤ slewRoom rate o := by
  unfold slewRoom
  positivity

/-- The whole codes of that room lie within it. -/
theorem slewRoom_floor {rate : Nat} {o : Aout} (h : 0 ≤ o.part) : (((ratFloor (slewRoom rate o)).toNat : Nat) : Rat) ≤ slewRoom rate o := by
  have hn : (ratFloor (slewRoom rate o)).toNat = ⌊slewRoom rate o⌋₊ := by
    rw [ratFloor, ← Rat.floor_def]
    rfl
  rw [hn]
  exact Nat.floor_le (slewRoom_nonneg h)

/-- The code lies between the old one and the goal, and the move within the room. -/
structure MovesTowards (old goal code : BitVec 16) (room : Rat) : Prop where
  up : old ≤ goal → old ≤ code ∧ code ≤ goal
  down : goal ≤ old → goal ≤ code ∧ code ≤ old
  within : ratAbs ((code.toNat : Rat) - (old.toNat : Rat)) ≤ room

theorem ratAbs_eq_abs (r : Rat) : ratAbs r = |r| := by
  unfold ratAbs
  split
  · next h => exact (abs_of_neg h).symm
  · next h => exact (abs_of_nonneg (not_lt.1 h)).symm

theorem MovesTowards.stay (c : BitVec 16) {room : Rat} (h : 0 ≤ room) : MovesTowards c c c room :=
  ⟨fun h => ⟨h, h⟩, fun h => ⟨h, h⟩, by rw [ratAbs_eq_abs, sub_self, abs_zero]; exact h⟩

/-- A move up by `d` codes. -/
theorem MovesTowards.of_up {old goal code : BitVec 16} {d : Nat} {room : Rat} (hc : code.toNat = old.toNat + d) (hg : code.toNat ≤ goal.toNat)
    (hd : (d : Rat) ≤ room) (hlt : old < goal) : MovesTowards old goal code room where
  up _ := by simp only [BitVec.le_def]; omega
  down h := absurd hlt (BitVec.not_lt.2 h)
  within := by
    rw [ratAbs_eq_abs, hc, Nat.cast_add, add_sub_cancel_left, Nat.abs_cast]
    exact hd

/-- A move down by `d` codes. -/
theorem MovesTowards.of_down {old goal code : BitVec 16} {d : Nat} {room : Rat} (hc : code.toNat + d = old.toNat) (hg : goal.toNat ≤ code.toNat)
    (hd : (d : Rat) ≤ room) (hlt : goal < old) : MovesTowards old goal code room where
  up h := absurd hlt (BitVec.not_lt.2 h)
  down _ := by simp only [BitVec.le_def]; omega
  within := by
    rw [ratAbs_eq_abs, ← hc, Nat.cast_add, sub_add_cancel_left, abs_neg, Nat.abs_cast]
    exact hd

/-- A millisecond's move (R436): to the goal where it lies within the whole codes of the room, else by all of them. -/
theorem slewOut_moves {rate : Nat} {o : Aout} (hp : 0 ≤ o.part) (hne : o.code ≠ o.goal) :
    MovesTowards o.code o.goal (slewOut rate o).code (slewRoom rate o) := by
  have hroom := slewRoom_floor (rate := rate) hp
  unfold slewOut
  extract_lets room n up dist
  change ((n : Nat) : Rat) ≤ slewRoom rate o at hroom
  have hreach : dist ≤ n → (dist : Rat) ≤ slewRoom rate o := fun h => (Nat.cast_le.2 h).trans hroom
  by_cases hup : o.code < o.goal
  · have hd : dist = (o.goal - o.code).toNat := if_pos hup
    have hsub : (o.goal - o.code).toNat = o.goal.toNat - o.code.toNat := by bv_omega
    have hlt := BitVec.lt_def.1 hup
    have hg := o.goal.isLt
    split
    · next h => exact .of_up (d := dist) (by dsimp only; omega) le_rfl (hreach h) hup
    · next h =>
      have hcode : (o.code + BitVec.ofNat 16 n).toNat = o.code.toNat + n := by
        rw [BitVec.toNat_add, BitVec.toNat_ofNat]
        omega
      exact .of_up (d := n) hcode (by dsimp only; omega) hroom hup
  · have hdown : o.goal < o.code := by bv_omega
    have hd : dist = (o.code - o.goal).toNat := if_neg hup
    have hsub : (o.code - o.goal).toNat = o.code.toNat - o.goal.toNat := by bv_omega
    have hlt := BitVec.lt_def.1 hdown
    have hg := o.code.isLt
    split
    · next h => exact .of_down (d := dist) (by dsimp only; omega) le_rfl (hreach h) hdown
    · next h =>
      have hcode : (o.code - BitVec.ofNat 16 n).toNat = o.code.toNat - n := by
        rw [BitVec.toNat_sub, BitVec.toNat_ofNat]
        omega
      exact .of_down (d := n) (by dsimp only; omega) (by dsimp only; omega) hroom hdown

theorem slewOut_rest (rate : Nat) (o : Aout) : slewOut rate o = { o with code := (slewOut rate o).code, part := (slewOut rate o).part } := by
  unfold slewOut
  extract_lets room n up dist
  split <;> rfl

end Sys2Proof.Machine

namespace Sys2Proof.Machine

/-! RATIO_SLEW_TICK (R435, R436). -/

/-- The output of a tick at its row, before the millisecond's move. -/
def tickedRow (s : State) (n : Fin 2) : Aout :=
  Aout.toRow (aoutTarget s n) (aoutSlew s n) { s.spill.aout[n] with slewClk := gridClk s s.spill.aout[n].slewClk 1000 }

/-- The output after the tick. -/
def tickedOut (s : State) (n : Fin 2) : Aout :=
  if (tickedRow s n).code = (tickedRow s n).goal then tickedRow s n else slewOut (aoutSlew s n) (tickedRow s n)

/-- The tick has been noted at the output. -/
def tickNoted (s : State) (n : Fin 2) : State :=
  { s with spill := { s.spill with aout := vmod s.spill.aout n fun o => { o with slewClk := gridClk s s.spill.aout[n].slewClk 1000 } } }

theorem tickNoted_out (s : State) (n : Fin 2) :
    (tickNoted s n).spill.aout[n] = { s.spill.aout[n] with slewClk := gridClk s s.spill.aout[n].slewClk 1000 } :=
  (vmod_get ..).trans (if_pos rfl)

theorem tickNoted_target (s : State) (n : Fin 2) : aoutTarget (tickNoted s n) n = aoutTarget s n := by
  unfold aoutTarget sourceSilent
  rw [tickNoted_out]
  rfl

theorem refreshAout_tickNoted {s : State} {n : Fin 2} (h : s.spill.aout[n].driven = true) :
    refreshAout (tickNoted s n) n = { s with spill := { s.spill with aout := s.spill.aout.set n.val (tickedRow s n) } } := by
  rw [refreshAout_driven (by rw [tickNoted_out]; exact h), tickNoted_target, vmod, tickNoted_out]
  simp only [tickNoted, vmod, Vector.set_set]
  rfl

theorem Aout.toRow_driven (c : BitVec 16) (rate : Nat) (o : Aout) : (o.toRow c rate).driven = o.driven := by
  unfold Aout.toRow
  split <;> rfl

/-- A driven output that is not at its goal moves for a millisecond. -/
def outMoved (u : State) (n : Fin 2) : State :=
  let o := u.spill.aout[n]
  if !o.driven || o.code == o.goal then u
  else { u with spill := { u.spill with aout := u.spill.aout.set n.val (slewOut (aoutSlew u n) o) } }

theorem execRatioSlewTick_due {s : State} {n : Fin 2} (h : s.spill.aout[n].driven = true) (hclk : s.spill.aout[n].slewClk + 1000 ≤ s.clk) :
    execRatioSlewTick n s = .next { s with spill := { s.spill with aout := s.spill.aout.set n.val (tickedOut s n) } } := by
  have hrow := refreshAout_tickNoted h
  have hget : (refreshAout (tickNoted s n) n).spill.aout[n] = tickedRow s n := by
    rw [hrow]
    exact Vector.getElem_set_self n.isLt
  have hdriven : (tickedRow s n).driven = true := (Aout.toRow_driven ..).trans h
  have hslew : aoutSlew (refreshAout (tickNoted s n) n) n = aoutSlew s n := by
    rw [hrow]
    rfl
  have hnext : execRatioSlewTick n s = .next (outMoved (refreshAout (tickNoted s n) n) n) :=
    (if_neg (Nat.not_lt.2 hclk)).trans (apply_ite Host.Outcome.next _ _ _).symm
  rw [hnext, outMoved, hget, hslew, hdriven, hrow, Bool.not_true, Bool.false_or]
  unfold tickedOut
  simp only [beq_iff_eq, Vector.set_set]
  split <;> rfl

theorem execRatioSlewTick_early {s : State} {n : Fin 2} (h : s.clk < s.spill.aout[n].slewClk + 1000) : execRatioSlewTick n s = .next s := if_pos h

theorem tickedRow_rest (s : State) (n : Fin 2) : tickedRow s n = { s.spill.aout[n] with
    code := (tickedRow s n).code, goal := aoutTarget s n, part := (tickedRow s n).part
    slewClk := gridClk s s.spill.aout[n].slewClk 1000 } := by
  unfold tickedRow Aout.toRow
  split <;> rfl

theorem tickedOut_rest (s : State) (n : Fin 2) : tickedOut s n = { s.spill.aout[n] with
    code := (tickedOut s n).code, goal := aoutTarget s n, part := (tickedOut s n).part
    slewClk := gridClk s s.spill.aout[n].slewClk 1000 } := by
  unfold tickedOut
  split
  · exact tickedRow_rest s n
  · rw [slewOut_rest, tickedRow_rest]

/-- Into or out of a fault band, or without a rate, the output steps (R435, R436). -/
theorem tickedOut_steps {s : State} {n : Fin 2}
    (h : inBand (aoutTarget s n) = true ∨ inBand s.spill.aout[n].code = true ∨ aoutSlew s n = 0) : (tickedOut s n).code = aoutTarget s n := by
  have hrow : tickedRow s n = _ := Aout.toRow_steps h
  unfold tickedOut
  rw [hrow, if_pos rfl]

/-- Within the normal band the output moves towards its goal, no farther than the rate allows (R436). -/
theorem tickedOut_slews {s : State} {n : Fin 2} (hc : inBand (aoutTarget s n) = false) (ho : inBand s.spill.aout[n].code = false)
    (hr : aoutSlew s n ≠ 0) (hp : 0 ≤ s.spill.aout[n].part) :
    MovesTowards s.spill.aout[n].code (aoutTarget s n) (tickedOut s n).code (slewRoom (aoutSlew s n) s.spill.aout[n]) := by
  have hrow : tickedRow s n = _ := Aout.toRow_slews hc ho hr
  unfold tickedOut
  rw [hrow]
  split
  · next h =>
    dsimp only at h
    rw [← h]
    exact .stay _ (slewRoom_nonneg hp)
  · next h => exact slewOut_moves (o := { s.spill.aout[n] with goal := aoutTarget s n, slewClk := gridClk s s.spill.aout[n].slewClk 1000 }) hp h

end Sys2Proof.Machine

namespace Sys2Proof.Machine

/-! RATIO_READBACK (R437). -/

/-- The output with a readback noted. -/
def readBack (s : State) (c : BitVec 16) (fault : Bool) (o : Aout) : Aout :=
  { o with readback := c, differs := readbackDiffers o.code c, fault := fault, readClk := gridClk s o.readClk 1000 }

/-- The readback has been noted at the output. -/
def readNoted (s : State) (n : Fin 2) (c : BitVec 16) (fault : Bool) : State :=
  { s with spill := { s.spill with aout := vmod s.spill.aout n (readBack s c fault) } }

theorem execRatioReadback_early {s : State} {n : Fin 2} {c : BitVec 16} (h : s.clk < s.spill.aout[n].readClk + 1000) :
    execRatioReadback n c s = .next s :=
  if_pos (by simp [h, -Fin.getElem_fin])

section
variable {s : State} {n : Fin 2} {c : BitVec 16} (hr : isRunning s = true) (hp : aoutPresent s n = true) (hd : s.spill.aout[n].driven = true)
  (hclk : s.spill.aout[n].readClk + 1000 ≤ s.clk)
include hr hp hd hclk

theorem execRatioReadback_due : execRatioReadback n c s =
    let bad := readbackDiffers s.spill.aout[n].code c
    let fault := s.spill.aout[n].fault || (bad && s.spill.aout[n].differs)
    if fault && !s.spill.aout[n].fault then .next (declareOpen (refreshAout (endHold (readNoted s n c fault) n) n) 0x10 false)
    else .next (if bad && fault then noteSeen (readNoted s n c fault) 0x10 else readNoted s n c fault) :=
  if_neg (by simp [hr, hp, hd, hclk, -Fin.getElem_fin])

/-- No difference, or a first one: it is noted. -/
theorem execRatioReadback_notes (h : readbackDiffers s.spill.aout[n].code c = false ∨ (s.spill.aout[n].differs = false ∧ s.spill.aout[n].fault = false)) :
    execRatioReadback n c s = .next (readNoted s n c s.spill.aout[n].fault) := by
  rw [execRatioReadback_due hr hp hd hclk]
  rcases h with hb | ⟨hdiff, hf⟩
  · simp [hb, -Fin.getElem_fin]
  · simp [hdiff, hf, -Fin.getElem_fin]

/-- The second difference running faults the output. -/
theorem execRatioReadback_faults (hb : readbackDiffers s.spill.aout[n].code c = true) (hdiff : s.spill.aout[n].differs = true)
    (hf : s.spill.aout[n].fault = false) :
    execRatioReadback n c s = .next (declareOpen (refreshAout (endHold (readNoted s n c true) n) n) 0x10 false) := by
  rw [execRatioReadback_due hr hp hd hclk]
  simp [hb, hdiff, hf, -Fin.getElem_fin]

end

theorem endHold_out (s : State) (n : Fin 2) : (endHold s n).spill.aout[n] = { s.spill.aout[n] with holdLow := false } :=
  (vmod_get ..).trans (if_pos rfl)

theorem readNoted_out (s : State) (n : Fin 2) (c : BitVec 16) (fault : Bool) :
    (readNoted s n c fault).spill.aout[n] = readBack s c fault s.spill.aout[n] := (vmod_get ..).trans (if_pos rfl)

/-- A driven output that is faulted goes to the low fault band at once. -/
theorem refreshAout_faulted {s : State} {n : Fin 2} (hd : s.spill.aout[n].driven = true) (hf : s.spill.aout[n].fault = true) :
    (refreshAout s n).spill.aout[n] = { s.spill.aout[n] with code := lowBand, goal := lowBand, part := 0 } := by
  rw [refreshAout_driven hd, aoutTarget_of_fault hf]
  exact (vmod_get ..).trans ((if_pos rfl).trans (Aout.toRow_steps (.inl inBand_lowBand)))

/-- The output once it is faulted, in a device whose SAFE mask leaves code 0x10 out. -/
theorem readFault_changes {s : State} {n : Fin 2} (c : BitVec 16) (hd : s.spill.aout[n].driven = true) (hm : (cfgSafeMask s).getLsbD 0x10 = false) :
    let t := declareOpen (refreshAout (endHold (readNoted s n c true) n) n) 0x10 false
    t = { s with freeCount := t.freeCount, spill := t.spill, ks := t.ks, events := t.events, log := t.log } ∧
      t.spill.aout[n].fault = true ∧ t.spill.aout[n].code = lowBand := by
  have hout : (endHold (readNoted s n c true) n).spill.aout[n] = { readBack s c true s.spill.aout[n] with holdLow := false } := by
    rw [endHold_out, readNoted_out]
  have hlow := refreshAout_faulted (s := endHold (readNoted s n c true) n) (n := n) (by rw [hout]; exact hd) (by rw [hout]; rfl)
  have hpins := (refreshAout_pins (endHold (readNoted s n c true) n) n).1
  generalize refreshAout (endHold (readNoted s n c true) n) n = u at hlow hpins
  have hu : u = { s with spill := u.spill } := by
    rw [hpins]
    rfl
  have hmask : (cfgSafeMask u).getLsbD ((0x10 : Fin 28)).val = false := by
    rw [hu]
    exact hm
  intro t
  have ht : t = { u with freeCount := t.freeCount, ks := t.ks, events := t.events, log := t.log } := declareOpen_unmasked hmask false
  have hspill : t.spill = u.spill := congrArg (·.spill) ht
  refine ⟨?_, ?_, ?_⟩
  · rw [hspill]
    rw [hu] at ht
    exact ht
  · rw [hspill, hlow, hout]
    rfl
  · rw [hspill, hlow]

/-! ALARM_PIN_READBACK (R428, R768, R842). -/

/-- A ball has been read back: its level and whether it differs from the drive are noted. -/
def pinNoted (s : State) (p : AlarmPin) (low : Bool) : State :=
  let q := { s.spill with pinClk := s.spill.pinClk.set (pinIdx p).val (gridClk s s.spill.pinClk[pinIdx p] 1000) }
  { s with spill := match p with
    | .alarmA => { q with aReadLow := low, aFault := low != pinLow s p }
    | .alarmB => { q with bReadLow := low, bFault := low != pinLow s p }
    | .faultn => { q with fFault := low != pinLow s p } }

/-- The fault code of a ball. -/
def pinFault (p : AlarmPin) : Fin 28 := if p = .faultn then 0x0F else 0x0E

theorem execAlarmPinReadback_early {s : State} {p : AlarmPin} {low : Bool} (h : s.clk < s.spill.pinClk[pinIdx p] + 1000) :
    execAlarmPinReadback p low s = .next s :=
  if_pos (by simp [h, -Fin.getElem_fin])

theorem execAlarmPinReadback_due {s : State} {p : AlarmPin} {low : Bool} (hr : isRunning s = true) (hp : pinRead s p = true)
    (hclk : s.spill.pinClk[pinIdx p] + 1000 ≤ s.clk) : execAlarmPinReadback p low s =
    if low = pinLow s p then .next (pinNoted s p low) else .next (declareOpen (pinNoted s p low) (pinFault p) false) := by
  unfold execAlarmPinReadback
  dsimp only
  rw [if_neg (by simp [hr, hp, hclk, -Fin.getElem_fin])]
  by_cases h : low = pinLow s p
  · rw [if_pos h, if_pos (by simp [h])]
    rfl
  · rw [if_neg h, if_neg (by simpa using h)]
    rfl

/-- What a readback notes: of Spillway, the readback alone. -/
theorem pinNoted_rest (s : State) (p : AlarmPin) (low : Bool) : pinNoted s p low = { s with spill := (pinNoted s p low).spill } ∧
    (pinNoted s p low).spill = { s.spill with
      aReadLow := (pinNoted s p low).spill.aReadLow, bReadLow := (pinNoted s p low).spill.bReadLow, aFault := (pinNoted s p low).spill.aFault
      bFault := (pinNoted s p low).spill.bFault, fFault := (pinNoted s p low).spill.fFault, pinClk := (pinNoted s p low).spill.pinClk } := by
  cases p <;> exact ⟨rfl, rfl⟩

/-- A ball that differs is faulted. -/
structure PinFaulted (s t : State) (p : AlarmPin) : Prop where
  rest : t = { s with freeCount := t.freeCount, spill := t.spill, ks := t.ks, events := t.events, log := t.log }
  spill : t.spill = (pinNoted s p (!pinLow s p)).spill
  active : faultActive t (pinFault p) = true

theorem pinFault_declared {s : State} {p : AlarmPin} (hm : (cfgSafeMask s).getLsbD (pinFault p).val = false) :
    PinFaulted s (declareOpen (pinNoted s p (!pinLow s p)) (pinFault p) false) p := by
  obtain ⟨hrest, -⟩ := pinNoted_rest s p (!pinLow s p)
  have hmask : (cfgSafeMask (pinNoted s p (!pinLow s p))).getLsbD (pinFault p).val = false := by
    rw [hrest]
    exact hm
  have h := declareOpen_unmasked hmask false
  have hspill := congrArg (·.spill) h
  refine ⟨?_, hspill, declareOpen_active ..⟩
  rw [hspill]
  rw [hrest] at h
  exact h

end Sys2Proof.Machine

namespace Sys2Proof.Machine

/-- Settles O36: an acknowledged rule moves alone; an output ticks to its row; a readback is noted or faults. -/
theorem acknowledgeAndReadbacks : Obligations.AcknowledgeAndReadbacks := by
  unfold Obligations.AcknowledgeAndReadbacks
  refine ⟨fun s f h => ?ack, fun s n hd hclk => ?slew, fun s n c hr hp hd hclk => ?readback, fun s n h => execRatioSlewTick_early h,
    fun s n c h => execRatioReadback_early h, fun s p low hr hp hclk => ?pin, fun s p low h => execAlarmPinReadback_early h⟩
  case ack =>
    refine ⟨fun hb => execAcknowledgeRule_ready h (acknowledgeBody_badArg hb), fun k h2 h0 hk => ?_, fun h2 h0 => ?_⟩
    · obtain ⟨honly, hstate, hothers⟩ := acknowledge_moves (sessionActivity s) k
      exact ⟨_, execAcknowledgeRule_ready h (acknowledgeBody_one h2 h0 hk), honly.course, hstate, hothers⟩
    · obtain ⟨honly, hstate⟩ := acknowledgeAll_moves (sessionActivity s)
      exact ⟨_, execAcknowledgeRule_ready h (acknowledgeBody_all h2 h0), honly.course, hstate⟩
  case slew =>
    refine ⟨_, execRatioSlewTick_due hd hclk, tickedOut_rest s n, tickedOut_steps, fun hc ho hr hpart => ?_⟩
    obtain ⟨hup, hdown, hwithin⟩ := tickedOut_slews hc ho hr hpart
    exact ⟨hup, hdown, hwithin⟩
  case readback =>
    refine ⟨fun h => execRatioReadback_notes hr hp hd hclk h, fun hb hdiff hf hm => ?_⟩
    obtain ⟨hrest, hfault, hcode⟩ := readFault_changes c hd hm
    exact ⟨_, execRatioReadback_faults hr hp hd hclk hb hdiff hf, hrest, hfault, hcode, declareOpen_active ..⟩
  case pin =>
    have hnext := execAlarmPinReadback_due (low := low) hr hp hclk
    refine ⟨fun hl => ?_, fun hl hE hF => ?_⟩
    · rw [if_pos hl] at hnext
      obtain ⟨hrest, hspill⟩ := pinNoted_rest s p low
      have hbad : (low != pinLow s p) = false := by simp [hl]
      refine ⟨_, hnext, hrest, hspill, ?_, ?_, ?_⟩
      · rintro rfl
        exact ⟨hbad, rfl⟩
      · rintro rfl
        exact ⟨hbad, rfl⟩
      · rintro rfl
        exact hbad
    · rw [if_neg hl] at hnext
      have hlow : low = !pinLow s p := Bool.eq_not.2 hl
      subst hlow
      have hm : (cfgSafeMask s).getLsbD (pinFault p).val = false := by
        unfold pinFault
        split
        · exact hF
        · exact hE
      have hbad : ((!pinLow s p) != pinLow s p) = true := by simp
      obtain ⟨hrest, hspill, hactive⟩ := pinFault_declared hm
      refine ⟨_, hnext, hrest, ?_, ?_, ?_⟩
      · rintro rfl
        exact ⟨(congrArg Spill.aFault hspill).trans hbad, hactive⟩
      · rintro rfl
        exact ⟨(congrArg Spill.bFault hspill).trans hbad, hactive⟩
      · rintro rfl
        exact ⟨(congrArg Spill.fFault hspill).trans hbad, hactive⟩

end Sys2Proof.Machine

namespace Sys2Proof.Machine

/-! Evaluations of a rule (R396 - R398, R405, R406), where the two evaluators agree. -/

/-- The state of a rule after an evaluation on the value `v`. -/
def judgedState (s : State) (k : Fin 256) (setm clrm : Bool) (v : F32) : RuleState :=
  (judge { s.spill.rules[k] with last := v } (ruleLatch s k.val) (ruleSetCount s k.val) (ruleClearCount s k.val) setm clrm).1

/-- The time of an evaluation does not enter its result. -/
theorem judge_evalClk (r : Rule) (latch : Bool) (ds dc : Nat) (setm clrm : Bool) (c : Nat) :
    (judge { r with evalClk := c } latch ds dc setm clrm).1 = (judge r latch ds dc setm clrm).1 := by
  unfold judge
  dsimp only
  split
  · rfl
  · split
    · split
      · rfl
      · split <;> rfl
    · rfl

/-- Rule `k` is written before it takes its state. -/
theorem RuleMoves.after_set {s t : State} {k : Fin 256} {new : RuleState} {r : Rule}
    (h : RuleMoves k new { s with spill := { s.spill with rules := s.spill.rules.set k.val r } } t) : RuleMoves k new s t where
  only := (show RulesOnly s { s with spill := { s.spill with rules := s.spill.rules.set k.val r } } from rfl).trans h.only
  state := h.state
  others j hj := (h.others j hj).trans (Vector.getElem_set_ne k.isLt j.isLt fun e => hj (Fin.ext e.symm))

/-- The outcome of an evaluation now: the state, and the rule with its counters. -/
def judgedNow (s : State) (k : Fin 256) (setm clrm : Bool) (v : F32) : RuleState × Rule :=
  judge { s.spill.rules[k] with last := v, evalClk := s.clk } (ruleLatch s k.val) (ruleSetCount s k.val) (ruleClearCount s k.val) setm clrm

theorem judgedNow_state (s : State) (k : Fin 256) (setm clrm : Bool) (v : F32) : (judgedNow s k setm clrm v).1 = judgedState s k setm clrm v :=
  judge_evalClk { s.spill.rules[k] with last := v } ..

theorem evaluate_agreeing (s : State) (k : Fin 256) (setm clrm : Bool) (v : F32) : evaluate s k setm clrm v [] =
    setRule { s with spill := { s.spill with rules := s.spill.rules.set k.val (judgedNow s k setm clrm v).2 } } k (judgedNow s k setm clrm v).1
      s.spill.rules[k].first := by
  unfold evaluate evaluateAs
  rw [List.contains_nil, Bool.or_false, Bool.not_false, Bool.and_true]
  rfl

theorem evaluate_moves (s : State) (k : Fin 256) (setm clrm : Bool) (v : F32) :
    RuleMoves k (judgedState s k setm clrm v) s (evaluate s k setm clrm v []) := by
  rw [← judgedNow_state, evaluate_agreeing]
  exact .after_set (setRule_moves ..)

theorem RuleStays.judgedState {k : Fin 256} {s t : State} (h : RuleStays k s t) (setm clrm : Bool) (v : F32) :
    Machine.judgedState t k setm clrm v = Machine.judgedState s k setm clrm v := by
  have hl : ruleLatch t k.val = ruleLatch s k.val ∧ ruleSetCount t k.val = ruleSetCount s k.val ∧ ruleClearCount t k.val = ruleClearCount s k.val := by
    rw [h.only]
    exact ⟨rfl, rfl, rfl⟩
  obtain ⟨hlatch, hset, hclear⟩ := hl
  unfold Machine.judgedState
  rw [h.rule, hlatch, hset, hclear]

/-! The REMOTE rules of a node (R405). -/

/-- The state of a REMOTE rule after its evaluation on a bitmap. -/
def remoteState (s : State) (b : List Byte) (k : Fin 256) : RuleState :=
  judgedState s k (bitmapBit b (ruleArg s k.val)) (!bitmapBit b (ruleArg s k.val)) (flag32 (bitmapBit b (ruleArg s k.val)))

theorem RuleStays.remoteState {k : Fin 256} {s t : State} (h : RuleStays k s t) (b : List Byte) :
    Machine.remoteState t b k = Machine.remoteState s b k := by
  have harg : ruleArg t k.val = ruleArg s k.val := by
    rw [h.only]
    rfl
  unfold Machine.remoteState
  rw [harg, h.judgedState]

/-- From `s` to `t` the REMOTE rules that name a node have been evaluated on its bitmap. -/
structure RemoteEvaluated (s t : State) (node : Nat) (b : List Byte) : Prop where
  only : RulesOnly s t
  state : ∀ k : Fin 256, isActive s = true → k.val < ruleCount s → ruleKind s k.val = 7 → vcnNode (ruleVcn s k.val) = node →
    t.spill.rules[k].state = Machine.remoteState s b k

theorem remoteRules_evaluated (s : State) (node : Nat) (b : List Byte) : RemoteEvaluated s (remoteRules s node b []) node b := by
  unfold remoteRules
  by_cases ha : isActive s = true
  · rw [if_neg (by rw [ha]; decide)]
    obtain ⟨honly, hstate⟩ := foldl_ruleMoves (new := fun s k => remoteState s b k) (fun s k => evaluate_moves s k _ _ _)
      (fun h => h.remoteState b) ((allRules_nodup s).filter fun k => ruleKind s k.val == 7 && vcnNode (ruleVcn s k.val) == node) s
    refine ⟨honly, fun k _ hk h7 hv => hstate k (List.mem_filter.2 ⟨mem_allRules.2 hk, ?_⟩)⟩
    rw [h7, hv]
    simp
  · rw [if_pos (by simpa using ha)]
    exact ⟨.refl s, fun k hk => absurd hk ha⟩

end Sys2Proof.Machine

namespace Sys2Proof.Machine

/-! The frames of pods at the head: who sent them (R642). -/

section
variable {s : State} {r : CourseRx} {body : State → Node → State}

theorem fromJoined_unknown (h : s.course.nodes.find? (fun n => n.addr == r.src) = none) : fromJoined s r body = s := by
  unfold fromJoined
  rw [h]

theorem fromJoined_lost {n : Node} (h : s.course.nodes.find? (fun n => n.addr == r.src) = some n) (hl : n.state = .lost) :
    fromJoined s r body = wantFull s := by
  unfold fromJoined
  rw [h]
  dsimp only
  rw [hl]

theorem fromJoined_joined {n : Node} (h : JoinedPod s r.src n) : fromJoined s r body = body s n := by
  obtain ⟨hfind, hjoined⟩ := h
  unfold fromJoined
  rw [hfind]
  dsimp only
  rw [hjoined]

end

theorem received_nodes (s : State) (type : Byte) (r : CourseRx) : (received s type r).course.nodes = s.course.nodes :=
  congrArg (·.course.nodes) (received_eq s type r)

theorem received_ks (s : State) (type : Byte) (r : CourseRx) : (received s type r).ks = s.ks := congrArg (·.ks) (received_eq s type r)

theorem received_usedPorts (s : State) (type : Byte) (r : CourseRx) : usedPorts (received s type r) = usedPorts s := by
  rw [received_eq]
  rfl

theorem JoinedPod.received {s : State} {a : Byte} {n : Node} (h : JoinedPod s a n) (type : Byte) (r : CourseRx) :
    JoinedPod (Machine.received s type r) a n := ⟨by rw [received_nodes]; exact h.1, h.2⟩

theorem JoinedPod.addr {s : State} {a : Byte} {n : Node} (h : JoinedPod s a n) : n.addr = a := by
  have hn := List.find?_some h.1
  exact eq_of_beq hn

theorem JoinedPod.mem {s : State} {a : Byte} {n : Node} (h : JoinedPod s a n) : n ∈ s.course.nodes := List.mem_of_find?_eq_some h.1

/-- A frame that the head takes from a joined pod reaches its body in the state once it is counted. -/
theorem headRx_joined {s : State} {type : Byte} {r : CourseRx} {n : Node} {body : State → Node → State} (h : Takes .head s type r)
    (hn : JoinedPod s r.src n) : (headRx s type r fun s => fromJoined s r body) = body (received s type r) n :=
  (headRx_takes h).trans (fromJoined_joined (hn.received type r))

/-- The frames of pods other than IDENTITY and BOOT_STATUS: what they do depends on what the head knows of the pod; where rules are evaluated, SAFE may
follow. -/
theorem exec_podFrame {c : Instr} {type : Byte} {r : CourseRx} (h : courseFrame c = some (.head, type, r)) (h2 : type ≠ 0x02) (hB : type ≠ 0x0B)
    (s : State) : ∃ body : State → Node → State, exec c s = .next (headRx s type r fun s => fromJoined s r body) ∨
      exec c s = .next (settle s (headRx s type r fun s => fromJoined s r body)) := by
  unfold courseFrame at h
  split at h <;> cases h
  case h_1 => exact absurd rfl h2
  case h_2 => exact absurd rfl hB
  case h_3 => exact ⟨_, .inr rfl⟩
  case h_4 => exact ⟨_, .inr rfl⟩
  case h_5 => exact ⟨_, .inr rfl⟩
  case h_6 => exact ⟨_, .inl rfl⟩
  case h_7 => exact ⟨_, .inl rfl⟩
  case h_8 => exact ⟨_, .inl rfl⟩
  case h_9 => exact ⟨_, .inl rfl⟩
  case h_10 => exact ⟨_, .inl rfl⟩
  case h_11 => exact ⟨_, .inl rfl⟩
  case h_12 => exact ⟨_, .inl rfl⟩

theorem settle_of_ks {s t : State} (h : t.ks = s.ks) : settle s t = t := settle_of_noNewFault (.of_ks h)

/-- Such a frame declares no fault where the head does not know the pod, or has lost it. -/
theorem exec_podFrame_takes {c : Instr} {type : Byte} {r : CourseRx} (h : courseFrame c = some (.head, type, r)) (h2 : type ≠ 0x02) (hB : type ≠ 0x0B)
    {s t : State} (hs : Takes .head s type r) (ht : ∀ body : State → Node → State, fromJoined (received s type r) r body = t) (hk : t.ks = s.ks) :
    exec c s = .next t := by
  obtain ⟨body, hnext | hnext⟩ := exec_podFrame h h2 hB s
  · rw [hnext, headRx_takes hs, ht]
  · rw [hnext, headRx_takes hs, ht, settle_of_ks hk]

/-! A DISCOVER with FULL (R588, R642). -/

/-- From `s` to `t` a FULL enumeration has begun, or has been noted: of Course the enumeration and what sending moves, and EV30. -/
def DiscoverOnly (s t : State) : Prop :=
  t = { s with events := t.events, course := { s.course with
    ports := t.course.ports, seqs := t.course.seqs, version := t.course.version, discoverClk := t.course.discoverClk
    fullWanted := t.course.fullWanted, enum := t.course.enum, enumFull := t.course.enumFull, found := t.course.found
    conflicts := t.course.conflicts, collectClk := t.course.collectClk, newIdClk := t.course.newIdClk, ringBack := t.course.ringBack } }

theorem DiscoverOnly.refl (s : State) : DiscoverOnly s s := rfl

theorem DiscoverOnly.trans {s t u : State} (h : DiscoverOnly s t) (k : DiscoverOnly t u) : DiscoverOnly s u := by
  unfold DiscoverOnly at *
  rw [k, h]

theorem DiscoverOnly.after_course {s u t : State} (h : DiscoverOnly u t) (hu : u = { s with course := u.course }) :
    t = { s with course := t.course, events := t.events } := by
  unfold DiscoverOnly at h
  rw [h, hu]

theorem DiscoverOnly.nodes {s t : State} (h : DiscoverOnly s t) : t.course.nodes = s.course.nodes := congrArg (·.course.nodes) h

/-- What a DISCOVER sent leaves alone: the enumeration it belongs to. -/
structure DiscoverSent (s t : State) : Prop where
  only : DiscoverOnly s t
  enum : t.course.enum = s.course.enum
  full : t.course.enumFull = s.course.enumFull

theorem lowerVersion_sent (s : State) : DiscoverSent s (lowerVersion s) := by
  unfold lowerVersion
  split
  · dsimp only
    split <;> exact ⟨rfl, rfl, rfl⟩
  · exact ⟨rfl, rfl, rfl⟩

theorem DiscoverSent.trans {s t u : State} (h : DiscoverSent s t) (k : DiscoverSent t u) : DiscoverSent s u :=
  ⟨h.only.trans k.only, k.enum.trans h.enum, k.full.trans h.full⟩

theorem SendsOnly.discoverSent {s t : State} (h : SendsOnly s t) : DiscoverSent s t where
  only := by
    unfold DiscoverOnly
    rw [h.rest]
  enum := congrArg (·.course.enum) h.rest
  full := congrArg (·.course.enumFull) h.rest

theorem sendDiscover_sent (s : State) (full : Bool) (ports : List (Fin 2)) : DiscoverSent s (sendDiscover s full ports) := by
  unfold sendDiscover
  extract_lets u
  refine (lowerVersion_sent s).trans (.trans (t := (takeSeq { u with course := { u.course with discoverClk := u.clk } } 2).2) ⟨rfl, rfl, rfl⟩ ?_)
  exact (foldl_sendsOnly (fun t p => sendAll_sendsOnly _ [p] t) ports _).discoverSent

/-- A FULL enumeration collects; its DISCOVER has not gone out yet. -/
def collecting (s : State) : State :=
  { s with course := { s.course with
    fullWanted := false, enum := .collecting, enumFull := true, found := [], conflicts := [], collectClk := s.clk, newIdClk := s.clk
    ringBack := false } }

theorem discoverFull_used {s : State} (h : usedPorts s ≠ []) : discoverFull s = sendDiscover (collecting s) true (usedPorts s) :=
  if_neg (by simpa using h)

theorem discoverFull_only (s : State) : DiscoverOnly s (discoverFull s) := by
  by_cases h : usedPorts s = []
  · rw [discoverFull, if_pos (by simpa using h)]
    exact .refl s
  · rw [discoverFull_used h]
    exact .trans (t := collecting s) rfl (sendDiscover_sent ..).only

theorem discoverFull_begins {s : State} (h : usedPorts s ≠ []) : (discoverFull s).course.enum = .collecting ∧ (discoverFull s).course.enumFull = true := by
  obtain ⟨-, henum, hfull⟩ := sendDiscover_sent (collecting s) true (usedPorts s)
  rw [discoverFull_used h]
  exact ⟨henum, hfull⟩

theorem wantFull_only (s : State) : DiscoverOnly s (wantFull s) := by
  unfold wantFull
  split
  · exact discoverFull_only s
  · split
    · exact .refl s
    · exact discoverFull_only s
  · rfl

theorem wantFull_idle {s : State} (h : s.course.enum = .idle) : wantFull s = discoverFull s := by
  unfold wantFull
  rw [h]

/-- A DISCOVER with FULL goes out at once, or after the boot transfer under way. -/
theorem wantFull_wanted {s : State} (h : usedPorts s ≠ []) :
    if s.course.enum = .booting then (wantFull s).course.fullWanted = true else (wantFull s).course.enum = .collecting := by
  cases he : s.course.enum with
  | idle =>
    rw [if_neg (by decide), wantFull_idle he]
    exact (discoverFull_begins h).1
  | collecting =>
    rw [if_neg (by decide), wantFull, he]
    dsimp only
    split
    · exact he
    · exact (discoverFull_begins h).1
  | booting => rw [if_pos rfl, wantFull, he]

end Sys2Proof.Machine

namespace Sys2Proof.Machine

/-! The record of a pod's node changes (R615, R616, R634). -/

/-- The pod's record is among those changed. -/
theorem modNode_mem {s : State} {n : Node} (h : n ∈ s.course.nodes) (f : Node → Node) : f n ∈ (modNode s n.addr.toNat f).course.nodes :=
  List.mem_map.2 ⟨n, h, if_pos (beq_self_eq_true _)⟩

/-- The records of an address, which stands for its number. -/
theorem modNode_addr (s : State) (a : Byte) (f : Node → Node) : modNode s a.toNat f =
    { s with course := { s.course with nodes := s.course.nodes.map fun m => if m.addr = a then f m else m } } := by
  have hf (m : Node) : (if m.addr.toNat == a.toNat then f m else m) = if m.addr = a then f m else m := by
    by_cases h : m.addr = a
    · rw [if_pos h, if_pos (by rw [h]; exact beq_self_eq_true _)]
    · rw [if_neg h, if_neg fun he => h (BitVec.eq_of_toNat_eq (eq_of_beq he))]
  unfold modNode
  rw [funext hf]

theorem modNode_after {s u : State} (hu : u = { s with course := u.course }) (addr : Nat) (f : Node → Node) :
    modNode u addr f = { s with course := (modNode u addr f).course } := by
  rw [modNode, hu]

theorem putNode_mem (n : Node) (l : List Node) : n ∈ putNode n l := by
  induction l with
  | nil => exact List.mem_singleton.2 rfl
  | cons m l ih =>
    unfold putNode
    split
    · exact List.mem_cons_self
    · split
      · exact List.mem_cons_self
      · exact List.mem_cons_of_mem m ih

/-! What an accepted frame leaves of what the head's sweeps read. -/

theorem received_isActive (s : State) (type : Byte) (r : CourseRx) : isActive (received s type r) = isActive s := by
  rw [received_eq]
  rfl

theorem received_ofThisSweep (s : State) (type : Byte) (r : CourseRx) (p : List Byte) : ofThisSweep (received s type r) p = ofThisSweep s p := by
  rw [received_eq]
  rfl

theorem received_sweepOpen (s : State) (type : Byte) (r : CourseRx) (p : List Byte) : sweepOpen (received s type r) p = sweepOpen s p := by
  rw [received_eq]
  rfl

theorem received_clearsBreak (s : State) (type : Byte) (r : CourseRx) (n : Node) (l0 l1 : Bool) :
    clearsBreak (received s type r) n l0 l1 = clearsBreak s n l0 l1 := by
  rw [received_eq]
  rfl

theorem received_spill (s : State) (type : Byte) (r : CourseRx) : (received s type r).spill = s.spill :=
  congrArg (·.spill) (received_eq s type r)

theorem ofThisSweep_iff (s : State) (p : List Byte) : ofThisSweep s p = true ↔ f32At p 0 = s.course.sweep ∧ s.course.sweepOf ≠ none := by
  simp [ofThisSweep, Option.isSome_iff_ne_none]

theorem sweepOpen_iff (s : State) (p : List Byte) : sweepOpen s p = true ↔ (s.course.sweep - f32At p 0).toNat ≤ 1 := decide_eq_true_iff

/-! SWEEP_REPORT (R616, R634, R642, R643). -/

/-- The pod's record with the fields of its report. -/
def reportNode (s : State) (p : List Byte) (n : Node) : Node :=
  { noteMode s n (b8 p 4) with
    los0 := bit (u8 p 5) 0, los1 := bit (u8 p 5) 1, causes := BitVec.ofNat 16 (u16 p 6), expected := if ofThisSweep s p then u8 p 8 else n.expected
    reported := n.reported || ofThisSweep s p, everReported := true, demand := u8 p 9, fullDemand := u8 p 10, age := b8 p 11
    backlog := BitVec.ofNat 16 (u16 p 12), throttle := b8 p 14, bitmap := p.drop 16 }

/-- The record as it is kept, and the free values drawn for what no frame tells (log 36). -/
def keptReport (s : State) (p : List Byte) (n : Node) : Node × State :=
  untoldCounts s (settleBacklog (f32At p 0) (u16 p 12) (reportNode s p n))

/-- The report is in the node's record, its overload case noted. -/
def reportTaken (s : State) (p : List Byte) (n : Node) : State :=
  reportOverload (setNode (keptReport s p n).2 (keptReport s p n).1) n (keptReport s p n).1

/-- The REMOTE rules have followed the report's bitmap. -/
def reportJudged (s : State) (p : List Byte) (n : Node) : State := remoteRules (reportTaken s p n) n.addr.toNat (p.drop 16) []

theorem noteMode_rest (s : State) (n : Node) (m : Byte) : noteMode s n m = { n with mode := m, modeLog := (noteMode s n m).modeLog } := by
  unfold noteMode
  split
  · next h => rw [← h.1]
  · rfl

theorem settleBacklog_rest (sweep : BitVec 32) (count : Nat) (n : Node) : settleBacklog sweep count n = { n with
    backlogSweep := (settleBacklog sweep count n).backlogSweep, backlogNext := (settleBacklog sweep count n).backlogNext
    backlogTold := (settleBacklog sweep count n).backlogTold, backlogGot := (settleBacklog sweep count n).backlogGot } := by
  unfold settleBacklog
  split <;> rfl

theorem untoldCounts_node (s : State) (n : Node) : (untoldCounts s n).1 = { n with
    counts := (untoldCounts s n).1.counts, warnings := (untoldCounts s n).1.warnings, outcomes := (untoldCounts s n).1.outcomes } := by
  simp only [untoldCounts, countNode]

/-- What the head keeps of a report, of the sweep in progress or not. -/
structure HoldsReport (now : Bool) (p : List Byte) (n m : Node) : Prop where
  addr : m.addr = n.addr
  reported : m.reported = (n.reported || now)
  everReported : m.everReported = true
  mode : m.mode = b8 p 4
  los0 : m.los0 = bit (u8 p 5) 0
  los1 : m.los1 = bit (u8 p 5) 1
  causes : m.causes = BitVec.ofNat 16 (u16 p 6)
  expected : now = true → m.expected = u8 p 8
  demand : m.demand = u8 p 9
  fullDemand : m.fullDemand = u8 p 10
  age : m.age = b8 p 11
  backlog : m.backlog = BitVec.ofNat 16 (u16 p 12)
  throttle : m.throttle = b8 p 14
  bitmap : m.bitmap = p.drop 16
  state : m.state = n.state

theorem keptReport_holds (s : State) (p : List Byte) (n : Node) : HoldsReport (ofThisSweep s p) p n (keptReport s p n).1 := by
  rw [keptReport, untoldCounts_node, settleBacklog_rest, reportNode, noteMode_rest]
  exact ⟨rfl, rfl, rfl, rfl, rfl, rfl, rfl, fun h => if_pos h, rfl, rfl, rfl, rfl, rfl, rfl, rfl⟩

theorem reportTaken_rest (s : State) (p : List Byte) (n : Node) : reportTaken s p n = { s with
    freeCount := (keptReport s p n).2.freeCount
    course := { s.course with nodes := putNode (keptReport s p n).1 s.course.nodes, overloadNow := (reportTaken s p n).course.overloadNow } } := by
  unfold reportTaken reportOverload
  split <;> rfl

/-- What a report changes: free values, Course, and what the rules that follow move. -/
theorem reportJudged_rest (s : State) (p : List Byte) (n : Node) : reportJudged s p n = { s with
    freeCount := (reportJudged s p n).freeCount, course := (reportJudged s p n).course, spill := (reportJudged s p n).spill
    events := (reportJudged s p n).events, log := (reportJudged s p n).log } := by
  have honly : RulesOnly (reportTaken s p n) (reportJudged s p n) := (remoteRules_evaluated _ _ _).only
  have hrest := honly.course
  rw [reportTaken_rest s p n] at hrest
  rw [hrest]

theorem reportJudged_nodes (s : State) (p : List Byte) (n : Node) :
    (reportJudged s p n).course.nodes = putNode (keptReport s p n).1 s.course.nodes := by
  have honly : RulesOnly (reportTaken s p n) (reportJudged s p n) := (remoteRules_evaluated _ _ _).only
  rw [honly.nodes, reportTaken_rest]

/-- The REMOTE rules that name the pod have followed its bitmap. -/
theorem reportJudged_state {s : State} {p : List Byte} {n : Node} {k : Fin 256} (ha : isActive s = true) (hk : k.val < ruleCount s)
    (h7 : ruleKind s k.val = 7) (hv : vcnNode (ruleVcn s k.val) = n.addr.toNat) :
    (reportJudged s p n).spill.rules[k].state = remoteState s (p.drop 16) k := by
  have hstate := (remoteRules_evaluated (reportTaken s p n) n.addr.toNat (p.drop 16)).state k
  change _ → _ → _ → _ → (reportJudged s p n).spill.rules[k].state = _ at hstate
  generalize reportJudged s p n = t at hstate ⊢
  rw [reportTaken_rest] at hstate
  exact hstate ha hk h7 hv

/-- The enumeration and the used ports are those of before the report. -/
theorem reportJudged_enum (s : State) (p : List Byte) (n : Node) : (reportJudged s p n).course.enum = s.course.enum := by
  have honly : RulesOnly (reportTaken s p n) (reportJudged s p n) := (remoteRules_evaluated _ _ _).only
  rw [congrArg (·.course.enum) honly, reportTaken_rest]

theorem reportJudged_usedPorts (s : State) (p : List Byte) (n : Node) : usedPorts (reportJudged s p n) = usedPorts s := by
  rw [reportJudged_rest]
  rfl

/-- A report that clears a break also brings a FULL enumeration (R588). -/
def reportDone (s : State) (p : List Byte) (n : Node) : State :=
  if clearsBreak s n (bit (u8 p 5) 0) (bit (u8 p 5) 1) then wantFull (reportJudged s p n) else reportJudged s p n

theorem execSweepReport_takes {s : State} {r : CourseRx} {n : Node} (h : Takes .head s 0x12 r) (hn : JoinedPod s r.src n) :
    execSweepReport r [] s = .next (settle s (reportDone (received s 0x12 r) r.payload n)) :=
  congrArg (fun t => Host.Outcome.next (settle s t)) (headRx_joined h hn)

theorem reportDone_only (s : State) (p : List Byte) (n : Node) : DiscoverOnly (reportJudged s p n) (reportDone s p n) := by
  unfold reportDone
  split
  · exact wantFull_only _
  · exact .refl _

theorem reportDone_rest {s u : State} (hu : u = { s with course := u.course }) (p : List Byte) (n : Node) : reportDone u p n = { s with
    freeCount := (reportDone u p n).freeCount, course := (reportDone u p n).course, spill := (reportDone u p n).spill
    events := (reportDone u p n).events, log := (reportDone u p n).log } := by
  have hdone := reportDone_only u p n
  have hjudged := reportJudged_rest u p n
  unfold DiscoverOnly at hdone
  rw [hdone, hjudged, hu]

theorem reportDone_spill (s : State) (p : List Byte) (n : Node) : (reportDone s p n).spill = (reportJudged s p n).spill :=
  congrArg (·.spill) (reportDone_only s p n)

/-- The record kept is among those of the head. -/
theorem reportDone_mem (s : State) (p : List Byte) (n : Node) : (keptReport s p n).1 ∈ (reportDone s p n).course.nodes := by
  rw [(reportDone_only s p n).nodes, reportJudged_nodes]
  exact putNode_mem ..

theorem reportDone_wanted {s : State} {p : List Byte} {n : Node} (hbreak : clearsBreak s n (bit (u8 p 5) 0) (bit (u8 p 5) 1) = true)
    (hused : usedPorts s ≠ []) :
    if s.course.enum = .booting then (reportDone s p n).course.fullWanted = true else (reportDone s p n).course.enum = .collecting := by
  have hwanted := wantFull_wanted (s := reportJudged s p n) (by rw [reportJudged_usedPorts]; exact hused)
  rw [reportJudged_enum] at hwanted
  rw [reportDone, if_pos hbreak]
  exact hwanted

/-! ALARM (R426, R634). -/

/-- The pod's record with the bitmap of its ALARM. -/
def alarmTaken (s : State) (p : List Byte) (n : Node) : State := modNode s n.addr.toNat fun n => { n with bitmap := p.drop 4 }

/-- The REMOTE rules have followed. -/
def alarmJudged (s : State) (p : List Byte) (n : Node) : State := remoteRules (alarmTaken s p n) n.addr.toNat (p.drop 4) []

theorem execAlarm_takes {s : State} {r : CourseRx} {n : Node} (h : Takes .head s 0x14 r) (hn : JoinedPod s r.src n) :
    execAlarm r [] s = .next (settle s (alarmJudged (received s 0x14 r) r.payload n)) :=
  congrArg (fun t => Host.Outcome.next (settle s t)) (headRx_joined h hn)

theorem alarmJudged_rest {s u : State} (hu : u = { s with course := u.course }) (p : List Byte) (n : Node) : alarmJudged u p n = { s with
    course := (alarmJudged u p n).course, spill := (alarmJudged u p n).spill, events := (alarmJudged u p n).events
    log := (alarmJudged u p n).log } :=
  (remoteRules_evaluated (alarmTaken u p n) n.addr.toNat (p.drop 4)).only.after_course (modNode_after hu ..)

theorem alarmJudged_nodes (s : State) (p : List Byte) (n : Node) : (alarmJudged s p n).course.nodes = (alarmTaken s p n).course.nodes :=
  (remoteRules_evaluated (alarmTaken s p n) n.addr.toNat (p.drop 4)).only.nodes

theorem alarmJudged_state {s : State} {p : List Byte} {n : Node} {k : Fin 256} (ha : isActive s = true) (hk : k.val < ruleCount s)
    (h7 : ruleKind s k.val = 7) (hv : vcnNode (ruleVcn s k.val) = n.addr.toNat) :
    (alarmJudged s p n).spill.rules[k].state = remoteState s (p.drop 4) k :=
  (remoteRules_evaluated (alarmTaken s p n) n.addr.toNat (p.drop 4)).state k ha hk h7 hv

/-- The rules of a state once a frame is counted. -/
theorem received_remoteState (s : State) (type : Byte) (r : CourseRx) (b : List Byte) (k : Fin 256) :
    remoteState (received s type r) b k = remoteState s b k := by
  rw [received_eq]
  rfl

theorem received_rule (s : State) (type : Byte) (r : CourseRx) (k : Nat) : ruleCount (received s type r) = ruleCount s ∧
    ruleKind (received s type r) k = ruleKind s k ∧ ruleVcn (received s type r) k = ruleVcn s k := by
  rw [received_eq]
  exact ⟨rfl, rfl, rfl⟩

end Sys2Proof.Machine

namespace Sys2Proof.Machine

/-! The path of a pod's record at the head (R673, R719): what it may write. -/

/-- From `s` to `t` a record has taken its path: the store, Spillway, the calibration window, events and log, of Course a pod's ALARM frame. -/
def RecordOnly (s t : State) : Prop :=
  t = { s with results := t.results, spill := t.spill, cal := t.cal, events := t.events, log := t.log
               course := { s.course with ports := t.course.ports, seqs := t.course.seqs, pod := t.course.pod } }

theorem RecordOnly.refl (s : State) : RecordOnly s s := rfl

theorem RecordOnly.trans {s t u : State} (h : RecordOnly s t) (k : RecordOnly t u) : RecordOnly s u := by
  unfold RecordOnly at *
  rw [k, h]

theorem RulesOnly.recordOnly {s t : State} (h : RulesOnly s t) : RecordOnly s t := by
  unfold RecordOnly
  rw [h]

theorem RecordOnly.nodes {s t : State} (h : RecordOnly s t) : t.course.nodes = s.course.nodes := congrArg (·.course.nodes) h

theorem RecordOnly.ks {s t : State} (h : RecordOnly s t) : t.ks = s.ks := congrArg (·.ks) h

theorem RulesOnly.results {s t : State} (h : RulesOnly s t) : t.results = s.results := congrArg (·.results) h

theorem ratioNote_rules (s : State) (n : Fin 2) : RulesOnly s (ratioNote s n) := by
  unfold ratioNote
  dsimp only
  split <;> rfl

theorem refreshAout_rules (s : State) (n : Fin 2) : RulesOnly s (refreshAout s n) := (refreshAout_pins s n).rulesOnly

theorem evalRecord_rules (s : State) (k : Fin 256) (r : Record) : RulesOnly s (evalRecord s k r []) := by
  unfold evalRecord
  split
  · exact .refl s
  · dsimp only
    split
    · exact (evaluate_moves ..).only
    · exact (evaluate_moves ..).only
    · exact (evaluate_moves ..).only

/-- A record that may have taken LATE or INBAND on its way. -/
structure SameRecord (r k : Record) : Prop where
  rest : k = { r with status := k.status }
  status : ∀ i, i ≠ 11 → i ≠ 12 → k.status.getLsbD i = r.status.getLsbD i

theorem SameRecord.refl (r : Record) : SameRecord r r := ⟨rfl, fun _ _ _ => rfl⟩

theorem SameRecord.trans {r k l : Record} (h : SameRecord r k) (h' : SameRecord k l) : SameRecord r l where
  rest := by rw [h'.rest, h.rest]
  status i h11 h12 := (h'.status i h11 h12).trans (h.status i h11 h12)

/-- One of the two flags is set. -/
theorem SameRecord.of_flag (r : Record) {n : Nat} (hn : n = 11 ∨ n = 12) : SameRecord r { r with status := setFlag r.status n } where
  rest := rfl
  status i h11 h12 := by
    have hi : n ≠ i := by omega
    rw [setFlag_bit, decide_eq_false hi, Bool.and_false, Bool.or_false]

theorem lateForm_same (s : State) (r : Record) : SameRecord r (lateForm s r) := by
  unfold lateForm
  split
  · exact .refl r
  · split
    · exact .of_flag r (.inr rfl)
    · exact .refl r

theorem accumulate_rules (s : State) (k : Fin 256) (r : Record) (w : Rat) : RulesOnly s (accumulate s k r w) := rfl

theorem spillRecord_rules (s : State) (r : Record) (w : Rat) : RulesOnly s (spillRecord s r w []).1 ∧ SameRecord r (spillRecord s r w []).2 := by
  unfold spillRecord
  split
  · exact ⟨.refl s, .refl r⟩
  · extract_lets ks u t
    have hu : RulesOnly s u := by
      unfold u
      split
      · exact foldl_rel RulesOnly .refl .trans _ (fun s k => accumulate_rules s k r w) ks s
      · exact .refl s
    have ht : RulesOnly s t := hu.trans (foldl_rel RulesOnly .refl .trans _ (fun s k => evalRecord_rules s k r) ks u)
    split
    · exact ⟨ht, .of_flag r (.inl rfl)⟩
    · exact ⟨ht, .refl r⟩

theorem calCollect_record (s : State) (r : Record) : RecordOnly s (calCollect s r) := by
  unfold calCollect
  split
  · exact .refl s
  · dsimp only
    split <;> rfl

theorem calCollect_results (s : State) (r : Record) : (calCollect s r).results = s.results := congrArg Quiet.results (calCollect_quiet s r)

/-- The encoders take records of the own node alone (R489). -/
theorem encodeRecord_other {s : State} {r : Record} (hs : s.role = .head) (hr : vcnNode r.vcn ≠ 0) : encodeRecord s r = s := by
  have hn : ownNode s = 0 := by
    unfold ownNode
    rw [hs]
  refine if_pos ?_
  rw [hn]
  simp [hr]

section
variable (s : State) (r : Record)

/-- The record stands in the store, and the outputs of its VCN have noted it. -/
def recordPut : State := (aoutsOf s (lateForm s r).vcn).foldl ratioNote (modEntry s (lateForm s r).vcn (putRecord (lateForm s r)))

/-- Spillway has taken it. -/
def recordSpilled : State × Record :=
  spillRecord (recordPut s r) (lateForm s r) (vcnUsAt (recordPut s r) (lateForm s r).vcn (nearTime (recordPut s r) (lateForm s r).time) : Rat) []

/-- It stands in the store as Spillway left it, and the outputs have followed. -/
def recordKept : State :=
  (aoutsOf s (lateForm s r).vcn).foldl refreshAout
    (modEntry (recordSpilled s r).1 (recordSpilled s r).2.vcn fun e => { e with record := some (recordSpilled s r).2 })

theorem keepRecord_head (hs : s.role = .head) (hr : vcnNode r.vcn ≠ 0) :
    keepRecord s r [] = calCollect (recordKept s r) (recordSpilled s r).2 ∧ RecordOnly s (recordKept s r) ∧ SameRecord r (recordSpilled s r).2 ∧
      (recordKept s r).results = (modEntry (modEntry s r.vcn (putRecord (lateForm s r))) r.vcn fun e =>
        { e with record := some (recordSpilled s r).2 }).results := by
  have hput : RulesOnly (modEntry s r.vcn (putRecord (lateForm s r))) (recordPut s r) := by
    unfold recordPut
    rw [lateForm_vcn]
    exact foldl_rel RulesOnly .refl .trans _ ratioNote_rules _ _
  obtain ⟨hspill, hsame⟩ := spillRecord_rules (recordPut s r) (lateForm s r)
    (vcnUsAt (recordPut s r) (lateForm s r).vcn (nearTime (recordPut s r) (lateForm s r).time) : Rat)
  change RulesOnly (recordPut s r) (recordSpilled s r).1 at hspill
  change SameRecord (lateForm s r) (recordSpilled s r).2 at hsame
  have hvcn : (recordSpilled s r).2.vcn = r.vcn := (congrArg Record.vcn hsame.rest).trans (lateForm_vcn s r)
  have hkept : RulesOnly (modEntry (recordSpilled s r).1 r.vcn fun e => { e with record := some (recordSpilled s r).2 }) (recordKept s r) := by
    unfold recordKept
    rw [hvcn]
    exact foldl_rel RulesOnly .refl .trans _ refreshAout_rules _ _
  have honly : RecordOnly s (recordKept s r) :=
    .trans (t := modEntry s r.vcn (putRecord (lateForm s r))) rfl (hput.recordOnly.trans (hspill.recordOnly.trans
      (.trans (t := modEntry (recordSpilled s r).1 r.vcn fun e => { e with record := some (recordSpilled s r).2 }) rfl hkept.recordOnly)))
  have hrole : (recordKept s r).role = .head := (congrArg (·.role) honly).trans hs
  refine ⟨?_, honly, (lateForm_same s r).trans hsame, ?_⟩
  · have hcal : (calCollect (recordKept s r) (recordSpilled s r).2).role = .head := (congrArg (·.role) (calCollect_record ..)).trans hrole
    have hpath : keepRecord s r [] = (if ((calCollect (encodeRecord (recordKept s r) (recordSpilled s r).2) (recordSpilled s r).2).role == .pod) = true
        then _ else calCollect (encodeRecord (recordKept s r) (recordSpilled s r).2) (recordSpilled s r).2) := rfl
    rw [hpath, encodeRecord_other hrole (by rw [hvcn]; exact hr), hcal]
    rfl
  · rw [hkept.results]
    exact congrArg (List.map _) (hspill.results.trans hput.results)

end

theorem keepRecord_only {s : State} {r : Record} (hs : s.role = .head) (hr : vcnNode r.vcn ≠ 0) : RecordOnly s (keepRecord s r []) := by
  obtain ⟨heq, honly, -, -⟩ := keepRecord_head s r hs hr
  rw [heq]
  exact honly.trans (calCollect_record ..)

/-- The entry of a known VCN holds the record kept. -/
theorem keepRecord_holds {s : State} {r : Record} {e : VcnEntry} (hs : s.role = .head) (hr : vcnNode r.vcn ≠ 0) (he : entryOf s r.vcn = some e) :
    ∃ e' k, entryOf (keepRecord s r []) r.vcn = some e' ∧ e'.record = some k ∧ SameRecord r k := by
  obtain ⟨heq, -, hsame, hresults⟩ := keepRecord_head s r hs hr
  refine ⟨{ putRecord (lateForm s r) e with record := some (recordSpilled s r).2 }, _, ?_, rfl, hsame⟩
  rw [heq, entryOf_of_results ((calCollect_results ..).trans hresults), entryOf_modEntry, if_pos rfl, entryOf_modEntry, if_pos rfl, he]
  rfl

theorem storeRecord_only {s : State} {r : Record} (hs : s.role = .head) (hr : vcnNode r.vcn ≠ 0) : RecordOnly s (storeRecord s r []) := by
  unfold storeRecord
  split
  · exact .refl s
  · split
    · exact (logRecord_log (.refl s) ..).rulesOnly.recordOnly.trans (calCollect_record ..)
    · exact keepRecord_only hs hr

/-! SWEEP_DATA (R615 - R617, R647, R673). -/

/-- A record as it arrives: DELAYED after its sweep. -/
def arrived (late : Bool) (x : Record) : Record := if late then { x with status := setFlag x.status 5 } else x

theorem arrived_rest (late : Bool) (x : Record) : arrived late x = { x with status := (arrived late x).status } := by
  unfold arrived
  split <;> rfl

theorem arrived_vcn (late : Bool) (x : Record) : (arrived late x).vcn = x.vcn := by
  rw [arrived_rest]

theorem arrived_delayed (late : Bool) (x : Record) : (arrived late x).status.getLsbD 5 = (x.status.getLsbD 5 || late) := by
  cases late with
  | false => exact (Bool.or_false _).symm
  | true =>
    show (setFlag x.status 5).getLsbD 5 = _
    rw [setFlag_bit]
    simp

theorem heldLater_arrived (e : VcnEntry) (late : Bool) (x : Record) : heldLater e (arrived late x) = heldLater e x := by
  rw [arrived_rest]
  rfl

theorem takeRecord_held {s : State} {x : Record} (h : heldAlready s x = true) (node : Nat) (late : Bool) (bad : List (Fin 256)) :
    takeRecord node late bad s x = s := if_pos (by rw [h, Bool.or_true])

theorem takeRecord_new {s : State} {x : Record} (h : heldAlready s x = false) (late : Bool) (bad : List (Fin 256)) :
    takeRecord (vcnNode x.vcn) late bad s x = storeRecord s (arrived late x) bad := if_neg (by simp [h])

theorem takeRecord_only {s : State} (hs : s.role = .head) {node : Nat} (hn : node ≠ 0) (late : Bool) (x : Record) :
    RecordOnly s (takeRecord node late [] s x) := by
  unfold takeRecord
  split
  · exact .refl s
  · next h =>
    have hnode : vcnNode x.vcn = node := by
      by_contra hne
      exact h (by simp [hne])
    refine storeRecord_only (r := arrived late x) hs ?_
    rw [arrived_vcn, hnode]
    exact hn

/-- A new record of a known VCN, none later being held, is stored. -/
theorem takeRecord_stores {s : State} {x : Record} {e : VcnEntry} (hs : s.role = .head) (hn : vcnNode x.vcn ≠ 0) (he : entryOf s x.vcn = some e)
    (hnew : heldAlready s x = false) (hlater : heldLater e x = false) (late : Bool) :
    ∃ e' k, entryOf (takeRecord (vcnNode x.vcn) late [] s x) x.vcn = some e' ∧ e'.record = some k ∧ SameRecord (arrived late x) k := by
  have hkeeps : storeRecord s (arrived late x) [] = keepRecord s (arrived late x) [] := by
    unfold storeRecord
    rw [arrived_vcn, he]
    exact if_neg (by rw [heldLater_arrived, hlater]; decide)
  rw [takeRecord_new hnew, hkeeps, ← arrived_vcn late x]
  exact keepRecord_holds hs (by rw [arrived_vcn]; exact hn) (by rw [arrived_vcn]; exact he)

/-- A data frame is counted in its pod's record (R625, R700). -/
def frameCounted (s : State) (p : List Byte) (n : Node) : Node :=
  let late := !ofThisSweep s p
  let delayed := ((recordsOf p).filter fun x => x.status.getLsbD 5 || late).length
  let n := countNode n 0 delayed
  let n := if bit (u8 p 5) 0 then countNode n 2 (recordsOf p).length else n
  if late then n else if bit (u8 p 5) 0 && !n.reported then { n with resent := n.resent + 1 } else { n with got := n.got + 1 }

/-- A frame of the sweep counts as one announced, or, resent before the report, as one resent. -/
theorem frameCounted_counts (s : State) (p : List Byte) (n : Node) :
    let before := bit (u8 p 5) 0 && !n.reported
    (frameCounted s p n).addr = n.addr ∧
      (frameCounted s p n).got = (if ofThisSweep s p = true ∧ before = false then n.got + 1 else n.got) ∧
      (frameCounted s p n).resent = (if ofThisSweep s p = true ∧ before = true then n.resent + 1 else n.resent) := by
  unfold frameCounted countNode
  cases ofThisSweep s p with
  | false => cases bit (u8 p 5) 0 <;> exact ⟨rfl, rfl, rfl⟩
  | true =>
    cases bit (u8 p 5) 0 with
    | false => exact ⟨rfl, rfl, rfl⟩
    | true => cases n.reported <;> simp

/-- The frame is counted, its records are not taken yet. -/
def dataCounted (s : State) (p : List Byte) (n : Node) : State := modNode s n.addr.toNat (frameCounted s p)

theorem Takes.src_ne {s : State} {type : Byte} {r : CourseRx} (h : Takes .head s type r) : r.src ≠ 0 := by
  obtain ⟨-, -, -, -, -, hhead⟩ := h
  exact (hhead rfl).2

theorem execSweepData_takes {s : State} {r : CourseRx} {n : Node} (h : Takes .head s 0x13 r) (hn : JoinedPod s r.src n) :
    execSweepData r [] s = .next (settle s (if sweepOpen s r.payload then
      (recordsOf r.payload).foldl (takeRecord n.addr.toNat (!ofThisSweep s r.payload) []) (dataCounted (received s 0x13 r) r.payload n)
      else received s 0x13 r)) := by
  rw [← received_sweepOpen s 0x13 r, ← received_ofThisSweep s 0x13 r]
  refine (congrArg (fun t => Host.Outcome.next (settle s t)) (headRx_joined h hn)).trans ?_
  dsimp only
  cases sweepOpen (received s 0x13 r) r.payload with
  | false => rfl
  | true => rfl

theorem received_role (s : State) (type : Byte) (r : CourseRx) : (received s type r).role = s.role := congrArg (·.role) (received_eq s type r)

theorem received_results (s : State) (type : Byte) (r : CourseRx) : (received s type r).results = s.results :=
  congrArg (·.results) (received_eq s type r)

theorem heldAlready_of_results {s t : State} (h : t.results = s.results) (x : Record) : heldAlready t x = heldAlready s x := by
  unfold heldAlready
  rw [entryOf_of_results h]

/-- The record held is the one that arrived. -/
theorem SameRecord.of_arrived {late : Bool} {x k : Record} (h : SameRecord (arrived late x) k) : k.seq = x.seq ∧ k.time = x.time ∧ k.value = x.value ∧
    k.raw = x.raw ∧ k.age = x.age ∧ k.status.getLsbD 5 = (x.status.getLsbD 5 || late) := by
  have hrest : k = { x with status := k.status } := by rw [h.rest, arrived_rest]
  exact ⟨congrArg (·.seq) hrest, congrArg (·.time) hrest, congrArg (·.value) hrest, congrArg (·.raw) hrest, congrArg (·.age) hrest,
    (h.status 5 (by decide) (by decide)).trans (arrived_delayed late x)⟩

/-- A record's path from a state that differs in Course alone. -/
theorem RecordOnly.after_course {s d t : State} (h : RecordOnly d t) (hd : d = { s with course := d.course }) : t = { s with
    course := t.course, results := t.results, spill := t.spill, mere := t.mere, cal := t.cal, events := t.events, log := t.log } := by
  unfold RecordOnly at h
  rw [h, hd]

end Sys2Proof.Machine

namespace Sys2Proof.Machine

/-! DELAY_REQ and BACKLOG_DATA (R621, R643, R645). -/

theorem execDelayReq_takes {s : State} {r : CourseRx} {n : Node} (h : Takes .head s 0x15 r) (hn : JoinedPod s r.src n) :
    execDelayReq r s = .next (originate (modNode (received s 0x15 r) n.addr.toNat fun n => { n with delayWanted := false }) [r.port] 0x16 n.addr 1 0
      (countBytes s ++ countBytes s ++ r.payload)) := by
  have htime : countBytes (received s 0x15 r) = countBytes s := by rw [countBytes, received_time, countBytes]
  rw [← htime]
  exact congrArg Host.Outcome.next (headRx_joined h hn)

theorem inOrder_iff (n : Node) (credit : Byte) : inOrder n credit = true ↔ n.backlogSweep ≠ none ∧ n.backlogNext = credit.toNat + 1 := by
  simp [inOrder, Option.isSome_iff_ne_none]

/-- The pod's record once a frame of its backlog is counted. -/
def backlogCounted (r : CourseRx) (n : Node) : Node :=
  takeBacklog (recordsOf r.payload).length r.credit (countNode n 6 (recordsOf r.payload).length)

/-- A record of the backlog goes to the log, marked DELAYED. -/
def logBacklog (s : State) (x : Record) : State := logRecord s 0x05 { x with status := setFlag x.status 5 }

theorem execBacklogData_takes {s : State} {r : CourseRx} {n : Node} (h : Takes .head s 0x21 r) (hn : JoinedPod s r.src n) :
    execBacklogData r s = .next (if inOrder n r.credit then
      (recordsOf r.payload).foldl logBacklog (modNode (received s 0x21 r) n.addr.toNat (backlogCounted r)) else received s 0x21 r) := by
  refine (congrArg Host.Outcome.next (headRx_joined h hn)).trans ?_
  dsimp only
  cases inOrder n r.credit with
  | false => rfl
  | true => rfl

theorem logBacklog_foldl (l : List Record) (s : State) : LogOnly s (l.foldl logBacklog s) :=
  foldl_rel LogOnly .refl .trans _ (fun s _ => logRecord_log (.refl s) ..) l s

theorem LogOnly.after_course {s d t : State} (h : LogOnly d t) (hd : d = { s with course := d.course }) :
    t = { s with course := t.course, log := t.log, events := t.events } := by
  unfold LogOnly at h
  rw [h, hd]

theorem LogOnly.nodes {s t : State} (h : LogOnly s t) : t.course.nodes = s.course.nodes := congrArg (·.course.nodes) h

theorem received_logCap (s : State) (type : Byte) (r : CourseRx) : cfgLogCap (received s type r) = cfgLogCap s := by
  rw [received_eq]
  rfl

theorem received_log (s : State) (type : Byte) (r : CourseRx) : (received s type r).log = s.log := congrArg (·.log) (received_eq s type r)

/-- While the ring has room an entry is appended, under its own number. -/
theorem logRing_appends {s : State} (hcap : s.log.budget < cfgLogCap s) (hroom : s.log.general.length < 15359) (hgoes : s.log.stopped = false)
    (e : LogEntry) : (logRing s e).log.general = s.log.general ++ [{ e with seq := s.log.generalSeq }] := by
  have hput : ringPut (cfgLogStop s) s.log e = ({ ringAppend s.log e with budget := s.log.budget + 1 }, false) := by
    unfold ringPut
    split
    · exact if_pos ⟨hroom, by rw [hgoes]; rfl⟩
    · exact if_pos (by omega)
  unfold logRing
  rw [if_neg (by omega), hput]
  rfl

/-! RENDER_ACK (R405, R632). -/

/-- The copy confirmed is the one in use. -/
def confirmsCopy (s : State) (p : List Byte) : Prop := f32At p 0 = (s.cal.render.map (·.sequence)).getD 0

/-- The pod's record once it has confirmed its entries: they count from now on (log 113). -/
def renderConfirmed (s : State) (a : Byte) (n : Node) : Node :=
  { n with renderPending := false
           trims := ((time56 (plumbNow s), (renderEntries s).filter fun e => vcnNode e.vcn == a.toNat) :: n.trims).take 64 }

theorem execRenderAck_confirms {s : State} {r : CourseRx} {n : Node} (h : Takes .head s 0x23 r) (hn : JoinedPod s r.src n)
    (hc : confirmsCopy s r.payload) : execRenderAck r s = .next (modNode (received s 0x23 r) n.addr.toNat (renderConfirmed s n.addr)) := by
  have hentries : renderConfirmed (received s 0x23 r) = renderConfirmed s := by
    rw [received_eq]
    rfl
  rw [← hentries]
  refine (congrArg Host.Outcome.next (headRx_joined h hn)).trans (congrArg Host.Outcome.next (if_pos ?_))
  rw [received_cal]
  exact hc

theorem execRenderAck_old {s : State} {r : CourseRx} {n : Node} (h : Takes .head s 0x23 r) (hn : JoinedPod s r.src n)
    (hc : ¬ confirmsCopy s r.payload) : execRenderAck r s = .next (received s 0x23 r) := by
  refine (congrArg Host.Outcome.next (headRx_joined h hn)).trans (congrArg Host.Outcome.next (if_neg ?_))
  rw [received_cal]
  exact hc

/-! STATUS_RESP and NAK (R668, R673, R760). -/

/-- What an accepted frame leaves of the services of the head. -/
theorem received_services (s : State) (type : Byte) (r : CourseRx) : (received s type r).course.remote = s.course.remote ∧
    (received s type r).course.service = s.course.service ∧ (received s type r).course.rrPending = s.course.rrPending ∧
    (received s type r).course.rrNode = s.course.rrNode ∧ (received s type r).course.rrDone = s.course.rrDone ∧
    (received s type r).course.rrStatus = s.course.rrStatus := by
  rw [received_eq]
  exact ⟨rfl, rfl, rfl, rfl, rfl, rfl⟩

theorem endRemoteRead_after {s u : State} (hu : u = { s with course := u.course }) (a st : Byte) (data : List Byte) :
    endRemoteRead u a st data = { s with course := (endRemoteRead u a st data).course } := by
  rw [endRemoteRead, hu]


/-- A STATUS_RESP of the pod `a` answers the remote read under way. -/
def answersRead (s : State) (a : Byte) (p : List Byte) : Bool :=
  s.course.rrPending && s.course.rrNode == a && s.course.rrAddr.toNat == u16 p 0 && s.course.rrLen.toNat == u16 p 2

theorem execStatusResp_takes {s : State} {r : CourseRx} {n : Node} (h : Takes .head s 0x25 r) (hn : JoinedPod s r.src n) :
    execStatusResp r s = .next (if answersRead s r.src r.payload then endRemoteRead (received s 0x25 r) r.src stOk (r.payload.drop 4)
      else if u16 r.payload 0 = 0x3004 && u16 r.payload 2 = 4 then pollWord (received s 0x25 r) n (f32At r.payload 4) else received s 0x25 r) := by
  have hours : answersRead (received s 0x25 r) r.src r.payload = answersRead s r.src r.payload := by
    rw [received_eq]
    rfl
  rw [← hours]
  simp only [← hn.addr]
  exact congrArg Host.Outcome.next (headRx_joined h hn)

/-- The fault word of a poll is in the pod's record, and the pod among those with a fault or not. -/
def wordTaken (s : State) (n : Node) (w : BitVec 32) : State :=
  let others := s.ks.podFaults.filter fun a => a != n.addr
  let t := modNode s n.addr.toNat fun n => { n with faultWord := w }
  { t with ks := { t.ks with podFaults := if w = 0 then others else others ++ [n.addr] } }

theorem pollWord_eq (s : State) (n : Node) (w : BitVec 32) : pollWord s n w =
    if w ≠ 0 then declareWith (wordTaken s n w) 0x19 n.addr.toNat 0x19 false
    else if faultActive (wordTaken s n w) 0x19 && (s.ks.podFaults.filter fun a => a != n.addr) == [] then clearFault (wordTaken s n w) 0x19
    else wordTaken s n w := rfl

/-- What a poll's answer changes besides the pod's record, code 0x19 being unmasked. -/
def PollOnly (s t : State) : Prop := t = { s with ks := t.ks, events := t.events, log := t.log, modes := t.modes }

theorem pollWord_only {s : State} (h : (cfgSafeMask s).getLsbD 0x19 = false) (n : Node) (w : BitVec 32) :
    PollOnly (wordTaken s n w) (pollWord s n w) := by
  rw [pollWord_eq]
  split
  · have hf := declareWith_unmasked (s := wordTaken s n w) (code := 0x19) h n.addr.toNat 0x19 false
    unfold FaultOnly at hf
    rw [PollOnly, hf]
  · split
    · have hc := clearFault_clear (wordTaken s n w) 0x19
      unfold ClearOnly at hc
      rw [PollOnly, hc]
    · rfl

theorem pollWord_active {w : BitVec 32} (hw : w ≠ 0) (s : State) (n : Node) : faultActive (pollWord s n w) 0x19 = true := by
  rw [pollWord_eq, if_pos hw]
  exact declareWith_active ..

theorem PollOnly.after_word {s u t : State} {n : Node} {w : BitVec 32} (h : PollOnly (wordTaken u n w) t) (hu : u = { s with course := u.course }) :
    t = { s with course := t.course, ks := t.ks, events := t.events, log := t.log, modes := t.modes } := by
  unfold PollOnly at h
  rw [h, wordTaken, modNode, hu]

theorem PollOnly.nodes {s t : State} (h : PollOnly s t) : t.course.nodes = s.course.nodes := congrArg (·.course.nodes) h

theorem received_safeMask (s : State) (type : Byte) (r : CourseRx) : cfgSafeMask (received s type r) = cfgSafeMask s := by
  rw [received_eq]
  rfl

/-- The NAK is counted in the pod's record. -/
def nakCounted (s : State) (n : Node) : State := modNode s n.addr.toNat fun n => countNode n 5 1

/-- Without a remote test a NAK can end a remote read alone. -/
theorem execNak_takes {s : State} {r : CourseRx} {n : Node} (h : Takes .head s 0x26 r) (hn : JoinedPod s r.src n) (hr : s.course.remote = none) :
    execNak r s = .next (if u8 r.payload 0 = 0x24 ∧ s.course.rrPending = true ∧ s.course.rrNode = r.src then
      endRemoteRead (nakCounted (received s 0x26 r) n) r.src (b8 r.payload 1) [] else nakCounted (received s 0x26 r) n) := by
  obtain ⟨hremote, -, hpending, hnode, -, -⟩ := received_services s 0x26 r
  refine (congrArg Host.Outcome.next (headRx_joined h hn)).trans (congrArg Host.Outcome.next ?_)
  change (match u8 r.payload 0 with
    | 0x24 => if (received s 0x26 r).course.rrPending && (received s 0x26 r).course.rrNode == n.addr then
        endRemoteRead (nakCounted (received s 0x26 r) n) n.addr (b8 r.payload 1) [] else nakCounted (received s 0x26 r) n
    | 0x28 => if (received s 0x26 r).course.remote.any fun t : RemoteTest => t.node == n.addr || t.near == n.addr then
        abortRemote (nakCounted (received s 0x26 r) n) else nakCounted (received s 0x26 r) n
    | _ => nakCounted (received s 0x26 r) n) = _
  rw [hpending, hnode, hremote, hr, hn.addr]
  split
  · next h24 => simp only [h24, true_and, Bool.and_eq_true, beq_iff_eq]
  · next h28 => exact (if_neg (by rw [h28]; simp)).symm
  · next h24 _ => exact (if_neg fun hc => h24 hc.1).symm

/-! POD_FAULT_POLL (R630, R760). -/

theorem execPodFaultPoll_polls {s : State} {a : BitVec 8} {n : Node} (hr : s.role = .head) (ha : isActive s = true)
    (hn : s.course.nodes.find? (fun m => m.addr == a && m.state == .joined) = some n) :
    execPodFaultPoll a s = .next (sendPoll (presentRoom s) n) := by
  unfold execPodFaultPoll
  rw [hr, ha, hn]
  rfl

/-- The poll is noted as wanted. -/
def pollNoted (s : State) (n : Node) : State := modNode s n.addr.toNat fun n => { n with pollWanted := true }

/-- Its request has been sent. -/
def pollSent (s : State) (n : Node) : State :=
  modNode (sendService (pollNoted s n) n 0x24 0 [0x04, 0x30, 4, 0]) n.addr.toNat fun n => { n with pollWanted := false }

theorem sendPoll_fits {s : State} {n : Node} (h : exchangeNs n (wireNs 4 + wireNs 8) ≤ roomOf s n.side) :
    sendPoll s n = takeRoom (pollSent s n) n.side (exchangeNs n (wireNs 4 + wireNs 8)) := if_pos h

theorem sendPoll_waits {s : State} {n : Node} (h : ¬ exchangeNs n (wireNs 4 + wireNs 8) ≤ roomOf s n.side) : sendPoll s n = pollNoted s n := if_neg h

theorem pollSent_rest (s : State) (n : Node) : pollSent s n = { s with course := (pollSent s n).course } := by
  unfold pollSent sendService modNode
  rw [(originate_sendsOnly ..).rest]
  rfl

theorem sendPoll_rest (s : State) (n : Node) : sendPoll s n = { s with course := (sendPoll s n).course } := by
  by_cases h : exchangeNs n (wireNs 4 + wireNs 8) ≤ roomOf s n.side
  · rw [sendPoll_fits h, takeRoom, pollSent_rest]
  · rw [sendPoll_waits h]
    rfl

/-- The pod's poll is no longer wanted. -/
theorem pollSent_mem {s : State} {n : Node} (h : n ∈ s.course.nodes) : { n with pollWanted := false } ∈ (pollSent s n).course.nodes := by
  have hsent : (sendService (pollNoted s n) n 0x24 0 [0x04, 0x30, 4, 0]).course.nodes = (pollNoted s n).course.nodes :=
    congrArg (·.course.nodes) (originate_sendsOnly ..).rest
  exact modNode_mem (n := { n with pollWanted := true }) (by rw [hsent]; exact modNode_mem h _) fun n => { n with pollWanted := false }

/-- What a frame sent on one port does to the queues. -/
theorem originate_one_ports (s : State) (p : Fin 2) (type dst : Byte) (cls : Nat) (credit : Byte) (payload : List Byte) :
    (originate s [p] type dst cls credit payload).course.ports =
      let f := newFrame (takeSeq s cls).2 type dst cls credit (takeSeq s cls).1 payload
      if s.course.ports[p].enabled && (f.repeated || f.type == 0x14 || !underTest s.course.ports[p]) then
        vmod s.course.ports p fun q => { q with txq := insertFrame q.txq f } else s.course.ports := by
  unfold originate
  simp only [List.foldl, sendOn]
  split
  · next h => exact (if_pos h).symm
  · next h => exact (if_neg h).symm

/-- The pods' records and the room left do not enter the frame. -/
theorem pollSent_ports (s : State) (n : Node) :
    (pollSent (presentRoom s) n).course.ports = (originate s [n.side] 0x24 n.addr 2 0 [0x04, 0x30, 4, 0]).course.ports := by
  have hsent : (pollSent (presentRoom s) n).course.ports =
      (originate (pollNoted (presentRoom s) n) [n.side] 0x24 n.addr 2 0 [0x04, 0x30, 4, 0]).course.ports := rfl
  rw [hsent, originate_one_ports, originate_one_ports]
  rfl

end Sys2Proof.Machine

namespace Sys2Proof.Machine

/-- Settles O49, one case per frame: what the head does with it in the state that has counted it. -/
theorem headTakesPodFrames : Obligations.HeadTakesPodFrames := by
  unfold Obligations.HeadTakesPodFrames
  refine ⟨fun c s type r h h2 hB hs => ?strangers, fun s r n h hn => ?report, fun s r n h hn => ?alarm,
    fun s r n x e h hn hx hopen hv he => ?data, fun s r n h hn hopen => ?oldData, fun s p => ⟨ofThisSweep_iff s p, sweepOpen_iff s p⟩,
    fun s r n h hn => ?delay, fun s r n h hn => ?backlog, fun s r n h hn => ?render, fun s r n h hn => ?status, fun s r n h hn hr => ?nak,
    fun s a n hr ha hn => ?poll⟩
  case strangers =>
    have hnodes := received_nodes s type r
    refine ⟨fun hnone => exec_podFrame_takes h h2 hB hs (fun _ => fromJoined_unknown (by rw [hnodes]; exact hnone)) (received_ks s type r),
      fun n hsome hlost hidle hused => ?_⟩
    have hwant : wantFull (received s type r) = discoverFull (received s type r) := wantFull_idle ((received_enum s type r).trans hidle)
    have honly := discoverFull_only (received s type r)
    refine ⟨discoverFull (received s type r), exec_podFrame_takes h h2 hB hs
      (fun _ => (fromJoined_lost (by rw [hnodes]; exact hsome) hlost).trans hwant) ((congrArg (·.ks) honly).trans (received_ks s type r)), ?_,
      discoverFull_begins (by rw [received_usedPorts]; exact hused)⟩
    exact honly.after_course (received_rest s type r)
  case report =>
    have hrest := reportDone_rest (received_rest s 0x12 r) r.payload n
    have hkept := keptReport_holds (received s 0x12 r) r.payload n
    rw [received_ofThisSweep] at hkept
    refine ⟨_, (execSweepReport_takes h hn).trans (congrArg _ (settle_of_ks (congrArg (·.ks) hrest))), hrest,
      ⟨_, reportDone_mem (received s 0x12 r) r.payload n, ?_⟩, fun k ha hk h7 hv => ?_, fun hbreak hused => ?_⟩
    · exact ⟨hkept.addr.trans hn.addr, hkept.reported, hkept.everReported, hkept.mode, hkept.los0, hkept.los1, hkept.causes, hkept.expected,
        hkept.demand, hkept.fullDemand, hkept.age, hkept.backlog, hkept.throttle, hkept.bitmap, hkept.state.trans hn.2⟩
    · obtain ⟨hcount, hkind, hvcn⟩ := received_rule s 0x12 r k.val
      rw [reportDone_spill, reportJudged_state (by rw [received_isActive]; exact ha) (by rw [hcount]; exact hk) (by rw [hkind]; exact h7)
        (by rw [hvcn]; exact hv), received_remoteState]
      rfl
    · rw [← received_enum s 0x12 r]
      exact reportDone_wanted (by rw [received_clearsBreak]; exact hbreak) (by rw [received_usedPorts]; exact hused)
  case alarm =>
    have hrest := alarmJudged_rest (received_rest s 0x14 r) r.payload n
    refine ⟨_, (execAlarm_takes h hn).trans (congrArg _ (settle_of_ks (congrArg (·.ks) hrest))), hrest,
      ⟨{ n with bitmap := r.payload.drop 4 }, ?_, hn.addr, rfl⟩, fun k ha hk h7 hv => ?_⟩
    · rw [alarmJudged_nodes]
      exact modNode_mem (hn.received 0x14 r).mem _
    · obtain ⟨hcount, hkind, hvcn⟩ := received_rule s 0x14 r k.val
      rw [alarmJudged_state (by rw [received_isActive]; exact ha) (by rw [hcount]; exact hk) (by rw [hkind]; exact h7) (by rw [hvcn]; exact hv),
        received_remoteState]
      rfl
  case data =>
    have hrole : (dataCounted (received s 0x13 r) r.payload n).role = .head := (received_role s 0x13 r).trans h.1
    have haddr : n.addr.toNat ≠ 0 := by
      rw [hn.addr]
      exact fun h0 => h.src_ne (BitVec.eq_of_toNat_eq h0)
    have hresults : (dataCounted (received s 0x13 r) r.payload n).results = s.results := received_results s 0x13 r
    obtain ⟨hsame, hgot, hresent⟩ := frameCounted_counts (received s 0x13 r) r.payload n
    rw [received_ofThisSweep] at hgot hresent
    have honly := takeRecord_only hrole haddr (!ofThisSweep s r.payload) x
    refine ⟨_, (execSweepData_takes h hn).trans (congrArg _ ((congrArg (settle s) (if_pos hopen)).trans ?_)),
      honly.after_course (modNode_after (received_rest s 0x13 r) ..),
      ⟨frameCounted (received s 0x13 r) r.payload n, ?_, hsame.trans hn.addr, hgot, hresent⟩,
      fun hnew hlater => ?_, fun hheld => ?_⟩
    · rw [hx]
      exact settle_of_ks (honly.ks.trans (received_ks s 0x13 r))
    · rw [honly.nodes]
      exact modNode_mem (hn.received 0x13 r).mem _
    · rw [← hv] at haddr ⊢
      obtain ⟨e', q, he', hq, hsame⟩ := takeRecord_stores (late := !ofThisSweep s r.payload) hrole haddr ((entryOf_of_results hresults _).trans he)
        ((heldAlready_of_results hresults x).trans hnew) hlater
      exact ⟨e', q, he', hq, hsame.of_arrived⟩
    · rw [takeRecord_held ((heldAlready_of_results hresults x).trans hheld)]
      exact ⟨hresults, received_spill s 0x13 r⟩
  case oldData =>
    refine (execSweepData_takes h hn).trans (congrArg _ ?_)
    rw [if_neg (by rw [hopen]; decide), settle_of_ks (received_ks s 0x13 r)]
  case delay =>
    refine (execDelayReq_takes h hn).trans (congrArg _ ?_)
    rw [modNode_addr, hn.addr]
    rfl
  case backlog =>
    refine ⟨inOrder_iff n r.credit, fun ho => ?_, fun ho => ?_⟩
    · exact (execBacklogData_takes h hn).trans (congrArg _ (if_neg (by rw [ho]; decide)))
    · have hlog := logBacklog_foldl (recordsOf r.payload) (modNode (received s 0x21 r) n.addr.toNat (backlogCounted r))
      refine ⟨_, (execBacklogData_takes h hn).trans (congrArg _ (if_pos ho)), hlog.after_course (modNode_after (received_rest s 0x21 r) ..),
        ⟨backlogCounted r n, ?_, hn.addr, rfl, rfl, rfl⟩, fun hk hcap hroom hgoes => ?_⟩
      · rw [hlog.nodes]
        exact modNode_mem (hn.received 0x21 r).mem _
      · obtain ⟨x, hx⟩ := List.length_eq_one_iff.1 hk
        have hrings : (received s 0x21 r).log = s.log := received_log s 0x21 r
        rw [← hrings] at hcap hroom hgoes ⊢
        rw [← received_logCap s 0x21 r] at hcap
        rw [hx]
        exact ⟨_, logRing_appends (s := modNode (received s 0x21 r) n.addr.toNat (backlogCounted r)) hcap hroom hgoes _, rfl⟩
  case render =>
    refine ⟨fun hc => (execRenderAck_confirms h hn hc).trans (congrArg _ ?_), fun hc => execRenderAck_old h hn hc⟩
    rw [modNode_addr, hn.addr]
    rfl
  case status =>
    have hexec := execStatusResp_takes h hn
    refine ⟨fun ho => hexec.trans (congrArg _ ((if_pos ho).trans ?_)), fun ho h0 h2 hm => ?_, fun ho h0 => ?_⟩
    · obtain ⟨-, hservice, -⟩ := received_services s 0x25 r
      rw [← hservice]
      rfl
    · have honly := pollWord_only (s := received s 0x25 r) (by rw [received_safeMask]; exact hm) n (f32At r.payload 4)
      refine ⟨_, hexec.trans (congrArg _ ((if_neg (by rw [answersRead, ho]; decide)).trans (if_pos (by simp [h0, h2])))),
        honly.after_word (received_rest s 0x25 r), ⟨{ n with faultWord := f32At r.payload 4 }, ?_, hn.addr, rfl⟩, fun hw => pollWord_active hw ..⟩
      rw [honly.nodes]
      exact modNode_mem (hn.received 0x25 r).mem _
    · exact hexec.trans (congrArg _ ((if_neg (by rw [answersRead, ho]; decide)).trans (if_neg (by simp [h0]))))
  case nak =>
    have hmem := modNode_mem (hn.received 0x26 r).mem fun n => countNode n 5 1
    have hexec := execNak_takes h hn hr
    have hcounted : nakCounted (received s 0x26 r) n = { s with course := (nakCounted (received s 0x26 r) n).course } :=
      modNode_after (received_rest s 0x26 r) ..
    obtain ⟨-, -, -, -, hdone, hstatus⟩ := received_services s 0x26 r
    by_cases hc : u8 r.payload 0 = 0x24 ∧ s.course.rrPending = true ∧ s.course.rrNode = r.src
    · obtain ⟨h24, hpending, hnode⟩ := hc
      refine ⟨_, hexec.trans (congrArg _ (if_pos ⟨h24, hpending, hnode⟩)), endRemoteRead_after hcounted .., ⟨_, hmem, hn.addr, rfl⟩,
        fun _ _ _ => ⟨rfl, rfl, rfl⟩, ?_⟩
      rintro (hnone | hother)
      · exact absurd (hpending.symm.trans hnone) (by decide)
      · exact absurd h24 hother
    · exact ⟨_, hexec.trans (congrArg _ (if_neg hc)), hcounted, ⟨_, hmem, hn.addr, rfl⟩, fun h24 hp ha => absurd ⟨h24, hp, ha⟩ hc,
        fun _ => ⟨hdone, hstatus⟩⟩
  case poll =>
    have hfound := List.find?_some hn
    simp only [Bool.and_eq_true, beq_iff_eq] at hfound
    obtain ⟨haddr, -⟩ := hfound
    have hmem := List.mem_of_find?_eq_some hn
    refine ⟨_, execPodFaultPoll_polls hr ha hn, sendPoll_rest (presentRoom s) n, fun hfits => ?_, fun hfits => ?_⟩
    · rw [sendPoll_fits hfits, ← haddr]
      exact ⟨pollSent_ports s n, _, pollSent_mem hmem, rfl, rfl⟩
    · rw [sendPoll_waits hfits]
      exact ⟨rfl, _, modNode_mem hmem _, haddr, rfl⟩

end Sys2Proof.Machine

namespace Sys2Proof.Machine

/-! Every command answers, and no step touches queue, factory store or a set seal bit (R370, R775, R776, log 1, log 2). -/

/-- From `s` to `t`: the queue and the factory store are unchanged and a set seal bit stays set. It is what `Keeps` says but for the flash, which
FOOTING_START may find replaced by one not in canonical form. -/
def KeepsStores (s t : State) : Prop :=
  t.pending = s.pending ∧ t.cornerstone = s.cornerstone ∧ (s.otp.sealBit = true → t.otp.sealBit = true)

theorem Keeps.stores {s t : State} (h : Keeps s t) : KeepsStores s t :=
  let ⟨hpending, hfactory, _, hseal⟩ := h
  ⟨hpending, hfactory, hseal⟩

/-- Every command answers a next state, well-formed or not: of the commands that the outside may present malformed, only FOOTING_START, RESET, ASSIGN
and BOOT_END change more than `State.fixed` leaves. -/
theorem exec_keepsStores (c : Instr) (s : State) : ∃ t, exec c s = .next t ∧ KeepsStores s t := by
  by_cases hc : c.wellFormed = true
  · obtain ⟨t, ht, hk⟩ := exec_keeps c s hc
    exact ⟨t, ht, hk.stores⟩
  cases c
  case footingStart fitted duration =>
    obtain ⟨t, ht, hpending, hfactory, hotp⟩ := execFootingStart_store fitted duration s
    exact ⟨t, ht, hpending, hfactory, fun h => hotp ▸ h⟩
  all_goals refine (?_ : OutKeeps s _).imp fun t ⟨ht, hk⟩ => ⟨ht, hk.stores⟩
  case reset f => exact execReset_keeps f s
  case assign r => exact execAssign_keeps r s
  case bootEnd r => exact execBootEnd_keeps r s
  all_goals simp only [Instr.wellFormed, not_true_eq_false] at hc
  all_goals exact .of_fixed (by simp [exec])

theorem step_pending_cons {s : State} {c : Instr} {rest : List Instr} (h : s.pending = c :: rest) : step s = exec c { s with pending := rest } := by
  unfold step
  split
  next hnil => cases h.symm.trans hnil
  next d l hd =>
    obtain ⟨rfl, rfl⟩ := List.cons.inj (h.symm.trans hd)
    rfl

theorem step_pending_nil {s : State} (h : s.pending = []) : step s = .next (tick s) := by
  unfold step
  split
  next => rfl
  next d l hd => cases h.symm.trans hd

/-- A step of either kind, a tick or a command, keeps the factory store and a set seal bit. -/
theorem step_keepsStores {s t : State} (h : step s = .next t) :
    t.cornerstone = s.cornerstone ∧ (s.otp.sealBit = true → t.otp.sealBit = true) := by
  cases hp : s.pending with
  | nil =>
    obtain rfl := Host.Outcome.next.inj ((step_pending_nil hp).symm.trans h)
    obtain ⟨-, hfactory, hseal⟩ := (tick_keeps s).stores
    exact ⟨hfactory, hseal⟩
  | cons c rest =>
    obtain ⟨u, hu, -, hfactory, hseal⟩ := exec_keepsStores c { s with pending := rest }
    obtain rfl := Host.Outcome.next.inj (hu.symm.trans ((step_pending_cons hp).symm.trans h))
    exact ⟨hfactory, hseal⟩

/-- Settles O1, by the two equations of `step`. -/
theorem stepRunsFrontCommand : Obligations.StepRunsFrontCommand :=
  ⟨fun _ _ _ => step_pending_cons, fun _ => step_pending_nil⟩

/-- Settles O2, by `exec_keepsStores`. -/
theorem everyCommandAnswers : Obligations.EveryCommandAnswers := fun c s =>
  let ⟨t, ht, _⟩ := exec_keepsStores c s
  ⟨t, ht⟩

/-- Settles O3, by `exec_keepsStores`. -/
theorem commandsKeepQueue : Obligations.CommandsKeepQueue := by
  intro c s t ht
  obtain ⟨u, hu, hpending, -⟩ := exec_keepsStores c s
  obtain rfl := Host.Outcome.next.inj (hu.symm.trans ht)
  exact hpending

/-- Settles O4, by `step_keepsStores`. -/
theorem factoryStoreFixed : Obligations.FactoryStoreFixed := fun _ _ ht => (step_keepsStores ht).1

/-- Settles O5, by `step_keepsStores`. -/
theorem sealedStaysSealed : Obligations.SealedStaysSealed := fun _ _ hs ht => (step_keepsStores ht).2 hs

end Sys2Proof.Machine

namespace Sys2Proof.Machine

/-! The Gate (R770, R771, R778 - R787, R791, R792): each command by the branch of its body that the statement names. -/

/-- What RESPONSE with the arguments `a` does with the nonce `n` that stands for scope `sc`: another scope is BAD_ARG, then the lockout, then the
response itself (R780 - R784). -/
def nonceAnswered (u : State) (a : List Byte) (n : BitVec 128) (sc : Byte) : Byte × State :=
  if zeros a 1 3 = false ∨ u8 a 0 = 0 ∨ 3 < u8 a 0 ∨ sc.toNat ≠ u8 a 0 then (stBadArg, consumeNonce u)
  else if lockedOut u = true then (stLocked, consumeNonce u)
  else if a.drop 4 = expectedResponse u n (u8 a 0) then (stOk, gatePass (consumeNonce u) (u8 a 0))
  else (stLocked, gateFail (consumeNonce u) (u8 a 0))

theorem execSessionInactivity_old {s : State} {i : Fin 3} {c : Nat} (hc : s.gate.sessions[i] = some c) (hold : c + 900000000 ≤ s.clk) :
    execSessionInactivity i s = .next (endSessions s (2 ^ i.val) (some 3)) := by
  unfold execSessionInactivity
  rw [hc, Option.any_some, decide_eq_true hold, if_pos rfl]

theorem execSessionInactivity_young {s : State} {i : Fin 3} (h : ∀ c, s.gate.sessions[i] = some c → s.clk < c + 900000000) :
    execSessionInactivity i s = .next s := by
  unfold execSessionInactivity
  rw [if_neg]
  rw [Option.any_eq_true]
  rintro ⟨c, hc, hold⟩
  exact absurd (of_decide_eq_true hold) (not_le.2 (h c hc))

theorem consumeNonce_locked {u : State} (h : lockedOut u = true) : consumeNonce u = u := if_pos h

theorem consumeNonce_free {u : State} (h : lockedOut u = false) : consumeNonce u = { u with gate := { u.gate with nonce := none } } :=
  if_neg (by simp [h])

theorem sessionActivity_clk (s : State) : (sessionActivity s).clk = s.clk := congrArg Fixed.clk (sessionActivity_fixed s)

section
variable {s : State} {f : HostFrame}

theorem execResponse_noNonce (h : CommandReady s f 0x22 [] 20) (hn : liveNonce (sessionActivity s) = none) :
    exec (.response f) s = .next (replied (sessionActivity s) f 0x22 stBadArg) :=
  commandFrame_next _ _ h rfl rfl rfl (by simp only [hn])

theorem execResponse_nonce (h : CommandReady s f 0x22 [] 20) {n : BitVec 128} {sc st : Byte} {x : State}
    (hn : liveNonce (sessionActivity s) = some (n, sc)) (e : nonceAnswered (sessionActivity s) (commandArgs f 0x22 []) n sc = (st, x)) :
    exec (.response f) s = .next (replied x f 0x22 st) := by
  refine commandFrame_next _ _ h rfl rfl rfl (.trans ?_ e)
  have hscope : (!zeros (commandArgs f 0x22 []) 1 3 || !scopeOk (u8 (commandArgs f 0x22 []) 0) || sc.toNat != u8 (commandArgs f 0x22 []) 0) = true ↔
      zeros (commandArgs f 0x22 []) 1 3 = false ∨ u8 (commandArgs f 0x22 []) 0 = 0 ∨ 3 < u8 (commandArgs f 0x22 []) 0 ∨
        sc.toNat ≠ u8 (commandArgs f 0x22 []) 0 := by
    simp only [scopeOk, Bool.or_eq_true, Bool.not_eq_true', Bool.and_eq_false_iff, decide_eq_false_iff_not, bne_iff_ne, or_assoc, not_le, Nat.lt_one_iff]
  simp only [hn, nonceAnswered, hscope, beq_iff_eq]

/-- PASSWORD (R778, R782 - R786): its form, the lockout, then the password itself. -/
theorem execPassword_next (h : CommandReady s f 0x23 [] 36) {st : Byte} {x : State} :
    let u := sessionActivity s
    let a := commandArgs f 0x23 []
    let n := u8 a 0
    (if zeros a 1 3 = false ∨ n < 8 ∨ 32 < n ∨ zeros a (4 + n) (32 - n) = false ∨ cfgPassword u = false then (stBadArg, u)
      else if lockedOut u = true then (stLocked, u)
      else if sha256 (cfgSalt u ++ (a.drop 4).take n) = cfgHash u then (stOk, gatePass u 1)
      else (stLocked, gateFail u 1)) = (st, x) → exec (.password f) s = .next (replied x f 0x23 st) := by
  intro u a n e
  refine commandFrame_next u a h rfl rfl rfl (.trans ?_ e)
  simp only [Bool.or_eq_true, Bool.not_eq_true', decide_eq_true_eq, or_assoc, beq_iff_eq, n]

end

/-- Settles O55: each command by the branch of its body that the statement names; opening, a failure and the end of sessions by their laws. -/
theorem gateScopes : Obligations.GateScopes := by
  unfold Obligations.GateScopes
  refine ⟨fun s f h => ?opens, fun s f h => ?challenges, fun s f h => ?responds, fun s f h => ?password, fun s f h => ?relock, fun s i => ?inactivity,
    fun s => ?nonce, fun s => rfl⟩
  case opens =>
    intro u a
    refine ⟨fun hbad => commandFrame_next u a h rfl rfl rfl (if_pos ?_),
      fun hz hc hs => ⟨_, commandFrame_next u a h rfl rfl rfl (if_neg ?_), openSession_opened ..⟩⟩
    · simpa [or_assoc] using hbad
    · rcases hc with hc | hc <;> simp [hz, hs, hc]
  case challenges =>
    intro u a c
    rw [← sessionActivity_clk s]
    refine ⟨fun hbad => commandFrame_next u a h rfl rfl rfl (if_pos ?_),
      fun hz h1 h3 hs => commandFrame_next u a h rfl rfl rfl (if_neg ?_)⟩
    · rcases hbad with hz | hc | hc | ⟨hc, hs⟩
      · simp [hz]
      · simp [scopeOk, show u8 a 0 = 0 from hc]
      · simp [scopeOk, show ¬ u8 a 0 ≤ 3 from not_le.2 hc]
      · simp [show u8 a 0 ≠ 3 from hc, hs]
    · have hscope : scopeOk (u8 a 0) = true := by simp [scopeOk, show 1 ≤ u8 a 0 from h1, show u8 a 0 ≤ 3 from h3]
      rcases hs with hs | hs
      · rw [hz, hscope, show u8 a 0 = 3 from hs]
        simp
      · simp [hz, hscope, hs]
  case responds =>
    intro u a c
    refine ⟨execResponse_noNonce h, fun n sc hn hbad => ⟨fun hl => ?_, fun hl => ?_⟩, fun n sc hn hz h1 h3 => ?_⟩
    · exact execResponse_nonce h hn ((if_pos hbad).trans (by rw [consumeNonce_locked hl]))
    · exact execResponse_nonce h hn ((if_pos hbad).trans (by rw [consumeNonce_free hl]))
    have hform : sc.toNat = c → ¬(zeros a 1 3 = false ∨ c = 0 ∨ 3 < c ∨ sc.toNat ≠ c) := by
      rintro hsc (hf | hf | hf | hf)
      · exact absurd (hz.symm.trans hf) (by decide)
      · omega
      · omega
      · exact hf hsc
    refine ⟨fun hsc hl => ?_, fun hsc hl hgood => ?_, fun hsc hl hbad => ?_⟩
    · exact execResponse_nonce h hn ((if_neg (hform hsc)).trans ((if_pos hl).trans (by rw [consumeNonce_locked hl])))
    · refine ⟨_, execResponse_nonce h hn ((if_neg (hform hsc)).trans ((if_neg (Bool.eq_false_iff.1 hl)).trans (if_pos hgood))), ?_⟩
      rw [gatePass, consumeNonce_free hl]
      exact openSession_opened ..
    · refine ⟨_, execResponse_nonce h hn ((if_neg (hform hsc)).trans ((if_neg (Bool.eq_false_iff.1 hl)).trans (if_neg hbad))), ?_⟩
      rw [consumeNonce_free hl]
      exact gateFail_failed ..
  case password =>
    intro u a n bad good
    refine ⟨fun hb => execPassword_next h (if_pos hb), fun hb hl => execPassword_next h ((if_neg hb).trans (if_pos hl)), fun hb hl hg => ?_, fun hb hl hg => ?_⟩
    · exact ⟨_, execPassword_next h ((if_neg hb).trans ((if_neg (Bool.eq_false_iff.1 hl)).trans (if_pos hg))), openSession_opened ..⟩
    · exact ⟨_, execPassword_next h ((if_neg hb).trans ((if_neg (Bool.eq_false_iff.1 hl)).trans (if_neg hg))), gateFail_failed ..⟩
  case relock =>
    intro u a
    refine ⟨fun hbad => commandFrame_next u a h rfl rfl rfl (if_pos ?_),
      fun hm hz => ⟨_, commandFrame_next u a h rfl rfl rfl (if_neg ?_), endSessions_ended ..⟩⟩
    · simpa using hbad
    · simp [hm, hz]
  case inactivity =>
    exact ⟨fun c hc hold => ⟨_, execSessionInactivity_old hc hold, endSessions_ended ..⟩, execSessionInactivity_young⟩
  case nonce =>
    refine congrArg Host.Outcome.next ?_
    by_cases hlate : s.clk < s.gate.nonceClk + 60000000
    · rw [if_pos hlate, if_neg (not_le.2 hlate)]
    · rw [if_neg hlate, if_pos (not_lt.1 hlate)]

end Sys2Proof.Machine

namespace Sys2Proof.Machine

/-! One port of a vector changed, and a port's control byte, error count and test (R798, R799, R803, R812). -/

/-- Only the value at the place matters to a change there. -/
theorem vmod_congr {α : Type} {n : Nat} {v : Vector α n} {i : Fin n} {f g : α → α} (h : f v[i] = g v[i]) : vmod v i f = vmod v i g := by
  unfold vmod
  rw [h]

theorem vmod_self {α : Type} {n : Nat} {v : Vector α n} {i : Fin n} {f : α → α} (h : f v[i] = v[i]) : vmod v i f = v := by
  unfold vmod
  rw [h]
  simp

/-- The state in which port `p` alone has changed. -/
def portChanged (s : State) (p : Fin 2) (f : Port → Port) : State := { s with course := { s.course with ports := vmod s.course.ports p f } }

theorem portChanged_congr {s : State} {p : Fin 2} {f g : Port → Port} (h : f s.course.ports[p] = g s.course.ports[p]) :
    portChanged s p f = portChanged s p g := by
  unfold portChanged
  rw [vmod_congr h]

theorem portChanged_self {s : State} {p : Fin 2} {f : Port → Port} (h : f s.course.ports[p] = s.course.ports[p]) : portChanged s p f = s := by
  unfold portChanged
  rw [vmod_self h]

/-- The control byte of a port: the state after it, with the value that was drawn for a generator's first register. -/
theorem setControl_eq (s : State) (p : Fin 2) (c : Byte) : setControl s p c = { s with
    freeCount := s.freeCount + 1
    course := { s.course with ports := vmod s.course.ports p (putControl c (Config.freeWord s.freeCount).toNat) } } := rfl

/-- What a control byte leaves of a port: counts start afresh where the checker begins, nothing that waits or is enabled changes. -/
theorem putControl_port (c : Byte) (w : Nat) (q : Port) :
    (putControl c w q).control = c ∧ (putControl c w q).enabled = q.enabled ∧ (putControl c w q).txq = q.txq ∧ (putControl c w q).inject = q.inject ∧
      (putControl c w q).timed = (q.timed && (c.getLsbD 3 || c.getLsbD 4)) := by
  unfold putControl
  dsimp only
  split <;> split <;> exact ⟨rfl, rfl, rfl, rfl, rfl⟩

theorem putControl_checkerStarts {c : Byte} {q : Port} (w : Nat) (hc : c.getLsbD 4 = true) (hq : q.control.getLsbD 4 = false) :
    (putControl c w q).errors = 0 ∧ (putControl c w q).bits = 0 ∧ (putControl c w q).locked = false ∧ (putControl c w q).threshold = false := by
  unfold putControl
  dsimp only
  rw [if_pos (show (c.getLsbD 4 && (!q.control.getLsbD 4 || q.control.toNat % 8 != c.toNat % 8)) = true by rw [hc, hq]; rfl)]
  split <;> exact ⟨rfl, rfl, rfl, rfl⟩

theorem putControl_checkerOff {c : Byte} (w : Nat) (q : Port) (hc : c.getLsbD 4 = false) :
    (putControl c w q).errors = q.errors ∧ (putControl c w q).bits = q.bits := by
  unfold putControl
  dsimp only
  rw [if_neg (show ¬(c.getLsbD 4 && (!q.control.getLsbD 4 || q.control.toNat % 8 != c.toNat % 8)) = true by rw [hc, Bool.false_and]; exact Bool.false_ne_true)]
  split <;> exact ⟨rfl, rfl⟩

/-- Control 0 ends what the port was in, and leaves its counts. -/
theorem putControl_zero (w : Nat) (q : Port) : putControl 0 w q = { q with control := 0, timed := false } := by
  unfold putControl
  dsimp only
  rw [if_neg (by simp), if_neg (by simp)]
  simp

/-- A port whose checker counts `e` errors more, which `m` says reach the threshold. -/
def errorsAdded (s : State) (e : BitVec 32) (q : Port) : Port :=
  { q with errors := if checking q = true then q.errors + e else q.errors, threshold := q.threshold || reachesThreshold s q e }

theorem errorsAdded_idle {s : State} {q : Port} (e : BitVec 32) (h : checking q = false) : errorsAdded s e q = q := by
  simp [errorsAdded, reachesThreshold, h]

/-- Errors that a checker reports: its port's count, and EV29 with the one that reaches the threshold. -/
theorem addErrors_changes (s : State) (p : Fin 2) (e : BitVec 32) :
    addErrors s p e = { s with course := { s.course with ports := vmod s.course.ports p (errorsAdded s e) }, events := (addErrors s p e).events } ∧
      (reachesThreshold s s.course.ports[p] e = true → (addErrors s p e).events.pending.getLsbD 29 = true) ∧
      (reachesThreshold s s.course.ports[p] e = false → (addErrors s p e).events = s.events) := by
  cases hc : checking s.course.ports[p] with
  | false =>
    have hsame : addErrors s p e = s := if_pos (by rw [hc]; rfl)
    have hnot : reachesThreshold s s.course.ports[p] e = false := by simp only [reachesThreshold, hc, Bool.false_and]
    rw [hsame, vmod_self (errorsAdded_idle e hc)]
    exact ⟨rfl, fun h => absurd (hnot.symm.trans h) (by decide), fun _ => rfl⟩
  | true =>
    have hports : vmod s.course.ports p (errorsAdded s e) = vmod s.course.ports p fun q =>
        { q with errors := q.errors + e, threshold := q.threshold || reachesThreshold s s.course.ports[p] e } :=
      vmod_congr (by rw [errorsAdded, if_pos hc])
    rw [hports]
    cases hm : reachesThreshold s s.course.ports[p] e with
    | true =>
      have hadd : addErrors s p e = raise { s with course := { s.course with ports := vmod s.course.ports p fun q =>
          { q with errors := q.errors + e, threshold := q.threshold || true } } } 29 (8 + p.val) := by
        unfold addErrors
        dsimp only
        rw [if_neg (by rw [hc]; decide), hm, if_pos rfl]
      rw [hadd]
      exact ⟨rfl, fun _ => raise_pending _ 29 _, fun h => absurd h (by decide)⟩
    | false =>
      have hadd : addErrors s p e = { s with course := { s.course with ports := vmod s.course.ports p fun q =>
          { q with errors := q.errors + e, threshold := q.threshold || false } } } := by
        unfold addErrors
        dsimp only
        rw [if_neg (by rw [hc]; decide), hm, if_neg (by decide)]
      rw [hadd]
      exact ⟨rfl, fun h => absurd h (by decide), fun _ => rfl⟩

/-- What the abort of a remote test leaves of a port: its test is over if it was the head's own end, and frames are queued. -/
theorem abortRemote_port (s : State) (p : Fin 2) :
    QueueOnly s.course.ports[p] (abortRemote s).course.ports[p] ∨
      QueueOnly { s.course.ports[p] with control := 0, inject := 0 } (abortRemote s).course.ports[p] := by
  by_cases h : s.role = .head ∧ ∃ t, s.course.remote = some t
  · obtain ⟨hr, t, ht⟩ := h
    rw [abortRemote_live hr ht]
    obtain ⟨-, hqueues, -⟩ := originate_ports (remoteFreed s t) (usedPorts (remoteFreed s t)) 0x2A 255 2 0 [t.node, 0, 0, 0]
    obtain ⟨hq, -⟩ := hqueues p
    obtain ⟨-, -, hfreed⟩ := remoteFreed_eq s t
    rw [hfreed p] at hq
    split at hq
    · exact .inr hq
    · exact .inl hq
  · refine .inl ?_
    have hsame : abortRemote s = s := by
      unfold abortRemote
      split
      next t hr ht => exact absurd ⟨hr, t, ht⟩ h
      next => rfl
    rw [hsame]
    exact .refl _

/-- A head's remote test that is aborted: none is left, the head's own end is free, EV29 tells, and LT_ABORT goes out. -/
theorem abortRemote_head {s : State} {x : RemoteTest} (hr : s.role = .head) (hx : s.course.remote = some x) :
    (abortRemote s).course.remote = none ∧ (abortRemote s).events.pending.getLsbD 29 = true := by
  rw [abortRemote_live hr hx]
  obtain ⟨hrest, -⟩ := originate_ports (remoteFreed s x) (usedPorts (remoteFreed s x)) 0x2A 255 2 0 [x.node, 0, 0, 0]
  obtain ⟨-, hnone, -⟩ := remoteFreed_eq s x
  have hkept := congrArg (fun y : State => y.course.remote) hrest
  exact ⟨hkept.trans hnone, raise_pending _ 29 _⟩

end Sys2Proof.Machine

namespace Sys2Proof.Machine

/-! The seal, timed local tests, the checker, the host port check and the flash check (R774 - R776, R798, R803 - R805, R815 - R817). -/

/-- The key is all 0x00 or all 0xFF. -/
theorem keyAllowed_false (k : List Byte) : keyAllowed k = false ↔ (∀ b ∈ k, b = 0) ∨ ∀ b ∈ k, b = 0xFF := by
  unfold keyAllowed
  rw [Bool.and_eq_false_iff, Bool.not_eq_false', Bool.not_eq_false', List.all_eq_true, List.all_eq_true]
  simp only [beq_iff_eq]

/-- SEAL_COMPLETE writes key, tags-required bit and seal bit up to the first that does not read back (R775, R776). -/
theorem execSealComplete_some {s : State} {tag : Bool} {key : List Byte} (hs : s.gate.sealing = some (tag, key)) (k g b : Bool) :
    exec (.sealComplete k g b) s = .next (
      if k = true ∧ g = true ∧ b = true
      then raiseGate { s with gate := { s.gate with sealing := none }
                              otp := { s.otp with userKey := some key, tagsRequired := tag, sealBit := true } } 6 0
      else raiseGate { s with gate := { s.gate with sealing := none }
                              otp := { s.otp with userKey := if k = true then some key else s.otp.userKey
                                                  tagsRequired := if k = true ∧ g = true then tag else s.otp.tagsRequired
                                                  sealFailed := true } } 7 0) := by
  show execSealComplete k g b s = _
  unfold execSealComplete
  rw [hs]
  cases k with
  | false => rfl
  | true =>
    cases g with
    | false => rfl
    | true => cases b <;> rfl

/-- Bit `i` of a word whose low part is below `2 ^ n`, for `i` below `n`. -/
theorem getLsbD_ofNat_low {n i d low : Nat} (hi : i < n) (hn : n ≤ 32) (hlow : low < 2 ^ n) :
    (BitVec.ofNat 32 (low + 2 ^ n * d)).getLsbD i = low.testBit i := by
  rw [BitVec.getLsbD_ofNat, decide_eq_true (lt_of_lt_of_le hi hn), Bool.true_and, add_comm, Nat.testBit_two_pow_mul_add _ hlow, if_pos hi]

/-- The low byte of the flash check word: of four checks and the modes up to `m`, the modes tried above the checks that passed among them (R816). -/
def checkBits (m : ReadMode) (good : Fin 4 → Bool) : Nat :=
  flags8 ((List.finRange 4).map good) % (2 ^ (readModeNo m + 1) - 1 + 1) + 16 * (2 ^ (readModeNo m + 1) - 1)

theorem checkBits_table : ∀ (m : ReadMode) (a b c d : Bool) (k : Fin 4), checkBits m ![a, b, c, d] < 2 ^ 16 ∧
    (checkBits m ![a, b, c, d]).testBit (4 + k.val) = decide (k.val ≤ readModeNo m) ∧
    (checkBits m ![a, b, c, d]).testBit k.val = (decide (k.val ≤ readModeNo m) && (![a, b, c, d] : Fin 4 → Bool) k) := by
  intro m
  cases m <;> decide

theorem checkBits_eq (m : ReadMode) (good : Fin 4 → Bool) (k : Fin 4) : checkBits m good < 2 ^ 16 ∧
    (checkBits m good).testBit (4 + k.val) = decide (k.val ≤ readModeNo m) ∧
    (checkBits m good).testBit k.val = (decide (k.val ≤ readModeNo m) && good k) := by
  have hgood : good = ![good 0, good 1, good 2, good 3] := by
    funext i
    fin_cases i <;> rfl
  rw [hgood]
  exact checkBits_table ..

/-- FLASH_CHECK_COMPLETE writes its word, raises EV29, and lets a waiting Render write begin. -/
theorem execFlashCheckComplete_running {s : State} (h : s.link.flashRunning = true) (reads : Vector (List (Nat × Byte)) 4) (d : BitVec 16) :
    exec (.flashCheckComplete reads d) s = .next (raise (startWaitingWrite { s with link := { s.link with
      flashRunning := false
      flashCheck := BitVec.ofNat 32 (checkBits s.boot.readMode (fun m => imageCrcOk (copyAsRead s reads[m])) + 2 ^ 16 * d.toNat) } }) 29 3) := by
  show execFlashCheckComplete reads d s = _
  unfold execFlashCheckComplete
  rw [if_neg (by rw [h]; decide)]
  rfl

theorem startWaitingWrite_cal (s : State) : startWaitingWrite s = { s with
    cal := if s.cal.waiting = true then { s.cal with waiting := false, stage := .erasing, stageClk := s.clk } else s.cal } := by
  unfold startWaitingWrite
  split <;> rfl

/-- The timed test of a port that ends: its errors counted, its control 0, EV29. -/
theorem execTimedTestEnd_over {s : State} {p : Fin 2} (ht : s.course.ports[p].timed = true) (hd : s.course.ports[p].timedEnd ≤ s.clk)
    (e : BitVec 32) : exec (.timedTestEnd p e) s = .next (raise (setControl (addErrors s p e) p 0) 29 p.val) := by
  refine if_pos ?_
  rw [ht, decide_eq_true hd]
  rfl

theorem execTimedTestEnd_not {s : State} {p : Fin 2} (h : s.course.ports[p].timed = false ∨ s.clk < s.course.ports[p].timedEnd)
    (e : BitVec 32) : exec (.timedTestEnd p e) s = .next s := by
  refine if_neg ?_
  rw [Bool.and_eq_true, decide_eq_true_eq]
  rintro ⟨ht, hd⟩
  rcases h with h | h
  · exact absurd (h.symm.trans ht) (by decide)
  · exact absurd hd (not_le.2 h)

/-- The timed test of a port begins: its control is set, and its end noted (R804). -/
theorem timedStarted_eq (u : State) (p : Fin 2) (c : Byte) (d : Nat) :
    (let s := setControl u p c
     { s with course := { s.course with ports := vmod s.course.ports p fun q => { q with timed := true, timedEnd := s.clk + 1000 * d } } } : State) =
    { u with freeCount := u.freeCount + 1, course := { u.course with ports := vmod u.course.ports p fun _ =>
      { (putControl c (Config.freeWord u.freeCount).toNat u.course.ports[p]) with timed := true, timedEnd := u.clk + 1000 * d } } } := by
  dsimp only
  rw [setControl_eq]
  dsimp only
  rw [vmod_vmod]
  rfl

/-- A pattern in the low bits leaves the checker's bit of the control byte as the mode of the command says. -/
theorem patternOf_checkerBit {n m : Nat} (u : State) (hm : 2 ≤ m) (hm3 : m ≤ 3) :
    (patternOf u n ||| BitVec.ofNat 8 (8 * m)).getLsbD 4 = true := by
  rw [BitVec.getLsbD_or]
  have hbit : ∀ k : Fin 4, 2 ≤ k.val → (BitVec.ofNat 8 (8 * k.val)).getLsbD 4 = true := by decide
  rw [hbit ⟨m, by omega⟩ hm, Bool.or_true]

/-- A port that is in no test has no checker on. -/
theorem checker_off_of_not_inTest {u : State} {p : Fin 2} (h : inTest u p = false) : u.course.ports[p].control.getLsbD 4 = false := by
  unfold inTest underTest at h
  rw [Bool.or_eq_false_iff, Bool.or_eq_false_iff] at h
  obtain ⟨⟨-, h⟩, -⟩ := h
  exact h

/-- All tests stopped: of a port only what waits there can have changed besides. -/
theorem testsStopped_port (u : State) (p : Fin 2) :
    QueueOnly { u.course.ports[p] with control := 0, inject := 0, timed := false } (abortRemote (stopLinkTests u)).course.ports[p] := by
  have h := abortRemote_port (stopLinkTests u) p
  rw [stopLinkTests_ports] at h
  exact h.elim id id

/-- Settles O56: each command by the branch of its body that the statement names; a port by what its control byte, its errors and the stop of the
tests write. -/
theorem sealAndLinkChecks : Obligations.SealAndLinkChecks := by
  unfold Obligations.SealAndLinkChecks
  refine ⟨fun s f h => ?seals, fun s tag key k g b hs => ?sealed, fun s k g b hs => ?unsealed, fun s f h => ?timed, fun s p e => ?port, fun s f h => ?stops,
    fun s f n h16 h252 h => ?hostCheck, fun s f h => ?flash, fun s reads d => ?flashDone⟩
  case seals =>
    intro u a key bad unmet
    have hbad : (1 < u8 a 0 || !zeros a 1 3) = true ↔ bad := by simp [bad]
    have hunmet : (u.otp.sealBit || u.gate.sealing.isSome || !hasCal u || !f.flags.getLsbD 0 ||
        (a.drop 4).take 8 != toLE 8 u.cornerstone.uniqueId.toNat || !keyAllowed key) = true ↔ unmet := by
      simp only [Bool.or_eq_true, Bool.not_eq_true', bne_iff_ne, Option.isSome_iff_ne_none, keyAllowed_false, or_assoc, unmet]
    refine ⟨fun hb => commandFrame_next u a h rfl rfl rfl (if_pos (hbad.2 hb)),
      fun hb hu => commandFrame_next u a h rfl rfl rfl ((if_neg (mt hbad.1 hb)).trans (if_pos (hunmet.2 hu))), fun hb hu => ?_⟩
    have hpast {st : Byte} {x : State} (e : (if u.otp.sealFailed = true then (stCapacity, u)
        else (stOk, { u with gate := { u.gate with sealing := some (u8 a 0 == 1, key) } })) = (st, x)) :
        exec (.sealDevice f) s = .next (replied x f 0x25 st) :=
      commandFrame_next u a h rfl rfl rfl ((if_neg (mt hbad.1 hb)).trans ((if_neg (mt hunmet.1 hu)).trans e))
    by_cases hf : u.otp.sealFailed = true
    · rw [if_pos hf]
      exact hpast (if_pos hf)
    · rw [if_neg hf]
      exact hpast (if_neg hf)
  case sealed =>
    refine ⟨_, execSealComplete_some hs k g b, ?_⟩
    cases k with
    | false => exact ⟨rfl, rfl, raiseGate_pending _ _ _, rfl, rfl, fun hk => absurd hk (by decide), fun _ => ⟨rfl, rfl⟩⟩
    | true =>
      cases g with
      | false => exact ⟨rfl, rfl, raiseGate_pending _ _ _, rfl, rfl, fun _ hg => absurd hg (by decide), fun _ => ⟨rfl, rfl⟩⟩
      | true =>
        cases b with
        | false => exact ⟨rfl, rfl, raiseGate_pending _ _ _, rfl, rfl, fun _ _ hb => absurd hb (by decide), fun _ => ⟨rfl, rfl⟩⟩
        | true => exact ⟨rfl, rfl, raiseGate_pending _ _ _, rfl, rfl, fun _ _ _ => ⟨rfl, rfl⟩, fun hf => absurd hf (by decide)⟩
  case unsealed =>
    show execSealComplete k g b s = _
    unfold execSealComplete
    rw [hs]
  case timed =>
    intro u a p bad
    have hbad : (1 < u8 a 0 || 3 < u8 a 1 || u8 a 2 = 0 || 3 < u8 a 2 || u8 a 3 != 0 || u32 a 4 = 0 || cfgTestMax u < u32 a 4 || !portUsed u p) = true ↔ bad := by
      simp only [Bool.or_eq_true, Bool.not_eq_true', bne_iff_ne, decide_eq_true_eq, or_assoc, bad]
    have hopen (hd : hasDiag u = true) : ¬(!hasDiag u) = true := by simp [hd]
    refine ⟨fun hd => commandFrame_next u a h rfl rfl rfl (if_pos (by rw [hd]; rfl)),
      fun hd hb => commandFrame_next u a h rfl rfl rfl ((if_neg (hopen hd)).trans (if_pos (hbad.2 hb))),
      fun hd hb ht => commandFrame_next u a h rfl rfl rfl ((if_neg (hopen hd)).trans ((if_neg (mt hbad.1 hb)).trans (if_pos ht))), fun hd hb ht => ?_⟩
    refine ⟨_, commandFrame_next u a h rfl rfl rfl ((if_neg (hopen hd)).trans ((if_neg (mt hbad.1 hb)).trans ((if_neg (by rw [ht]; decide)).trans
      (congrArg (Prod.mk stOk) (timedStarted_eq u p _ _))))), ?_⟩
    obtain ⟨hcontrol, henabled, -⟩ := putControl_port (patternOf u (u8 a 1) ||| BitVec.ofNat 8 (8 * u8 a 2)) (Config.freeWord u.freeCount).toNat u.course.ports[p]
    refine ⟨rfl, congrArg (· + _) (sessionActivity_clk s), hcontrol, henabled, fun h2 => ?_⟩
    have h3 : u8 a 2 ≤ 3 := by
      simp only [bad, not_or, not_lt] at hb
      obtain ⟨-, -, -, h3, -⟩ := hb
      exact h3
    obtain ⟨herrors, hbits, hlocked, -⟩ := putControl_checkerStarts (Config.freeWord u.freeCount).toNat (patternOf_checkerBit u h2 h3)
      (checker_off_of_not_inTest ht)
    exact ⟨herrors, hbits, hlocked⟩
  case port =>
    obtain ⟨hadded, hevent, hquiet⟩ := addErrors_changes s p e
    refine ⟨fun ht hd => ?ends, fun hn => execTimedTestEnd_not hn e, fun rx hc => ?locks, fun w hc hw => ?loses, fun w hn => ?keeps, fun hc ht hz hl => ?reaches,
      fun hc => ?off, fun hn => ?below⟩
    case ends =>
      refine ⟨_, execTimedTestEnd_over ht hd e, ?_, ?_, raise_pending _ 29 _⟩
      · rw [hadded]
        rfl
      · show (setControl (addErrors s p e) p 0).course = _
        rw [hadded, setControl_eq]
        dsimp only
        rw [vmod_vmod]
        simp only [putControl_zero]
        rfl
    case locks =>
      intro m
      refine ⟨fun hl => ?_, fun hl => ?_⟩
      · have hlock : (s.course.ports[p].control.getLsbD 4 && lockRun m rx) = true := by rw [hc, hl]; rfl
        refine congrArg Host.Outcome.next (portChanged_congr (s := s) (p := p) ?_)
        exact if_pos hlock
      · have hlock : ¬(s.course.ports[p].control.getLsbD 4 && lockRun m rx) = true := by rw [hl, Bool.and_false]; decide
        refine congrArg Host.Outcome.next (portChanged_self (s := s) (p := p) ?_)
        exact if_neg hlock
    case loses =>
      have hguard : (s.course.ports[p].control.getLsbD 4 && s.course.ports[p].locked && 16 ≤ onesIn w) = true := by
        rw [show (s.course.ports[p].control.getLsbD 4 && s.course.ports[p].locked) = true from hc, decide_eq_true hw]
        rfl
      refine ⟨_, if_pos hguard, ?_, ?_, hevent, hquiet⟩
      · rw [hadded]
      · rw [hadded]
        dsimp only
        rw [vmod_vmod]
        refine congrArg (fun v => { s.course with ports := v }) (vmod_congr ?_)
        rw [errorsAdded, if_pos hc]
    case keeps =>
      refine if_neg ?_
      rw [Bool.and_eq_true, Bool.and_eq_true, decide_eq_true_eq]
      rintro ⟨⟨-, hl⟩, hw⟩
      exact hn.elim (fun hn => absurd (hn.symm.trans hl) (by decide)) fun hn => absurd hw (not_le.2 hn)
    case reaches =>
      have hm : reachesThreshold s s.course.ports[p] e = true := by
        unfold reachesThreshold
        rw [hc, ht, decide_eq_true hl, bne_iff_ne.2 hz]
        rfl
      refine ⟨_, congrArg Host.Outcome.next (if_pos hm), ?_, ?_, hevent hm⟩
      · rw [hadded]
      · rw [hadded]
        refine congrArg (fun v => { s.course with ports := v }) (vmod_congr ?_)
        rw [errorsAdded, if_pos hc, hm, Bool.or_true]
    case off =>
      refine ⟨fun rx => ?_, fun w => if_neg ?_, congrArg Host.Outcome.next (if_neg ?_)⟩
      · have hoff : ¬(s.course.ports[p].control.getLsbD 4 && lockRun (prbsTaps (s.course.ports[p].control.toNat % 8)) rx) = true := by
          rw [hc, Bool.false_and]
          decide
        refine congrArg Host.Outcome.next (portChanged_self (s := s) (p := p) ?_)
        exact if_neg hoff
      · rw [hc, Bool.false_and, Bool.false_and]
        decide
      · unfold reachesThreshold checking
        rw [hc, Bool.false_and, Bool.false_and, Bool.false_and, Bool.false_and]
        decide
    case below =>
      refine congrArg Host.Outcome.next (if_neg ?_)
      unfold reachesThreshold checking
      simp only [Bool.and_eq_true, Bool.not_eq_true', bne_iff_ne, decide_eq_true_eq]
      rintro ⟨⟨⟨⟨-, hl⟩, ht⟩, hz⟩, he⟩
      rcases hn with hn | hn | hn | hn
      · exact absurd (hn.symm.trans ht) (by decide)
      · exact absurd (hn.symm.trans hl) (by decide)
      · exact hz hn
      · exact absurd he (not_le.2 hn)
  case stops =>
    intro u a
    have hopen (hd : hasDiag u = true) : ¬(!hasDiag u) = true := by simp [hd]
    refine ⟨fun hd => commandFrame_next u a h rfl rfl rfl (if_pos (by rw [hd]; rfl)),
      fun hd hz => commandFrame_next u a h rfl rfl rfl ((if_neg (hopen hd)).trans (if_pos (by rw [hz]; rfl))), fun hd hz => ?_⟩
    refine ⟨_, commandFrame_next u a h rfl rfl rfl ((if_neg (hopen hd)).trans (if_neg (by rw [hz]; decide))), (abortRemote_eq (stopLinkTests u)).1,
      fun p => ?_, fun r hr hx => abortRemote_head (s := stopLinkTests u) hr hx⟩
    have hport := testsStopped_port u p
    unfold QueueOnly at hport
    rw [hport]
    exact ⟨rfl, rfl, rfl, rfl⟩
  case hostCheck =>
    intro u a seed
    have hn : (fun n => decide (16 ≤ n) && decide (n ≤ 252)) n = true := by
      simp only [h16, h252, decide_true, Bool.and_self]
    refine ⟨fun hbad => commandFrame_next u a h rfl rfl hn (if_pos ?_), fun hz hs => commandFrame_next u a h rfl rfl hn (if_neg ?_)⟩
    · rw [Bool.or_eq_true, Bool.not_eq_true', decide_eq_true_eq]
      exact hbad
    · rw [hz, Bool.not_true, Bool.false_or, decide_eq_true_eq]
      exact hs
  case flash =>
    intro u a
    have hform (hz : zeros a 0 4 = true) : ¬(!zeros a 0 4) = true := by simp [hz]
    have hmode : (u.role != .head || u.config.isNone) = true ↔ u.role = .pod ∨ u.config = none := by
      cases u.role <;> simp
    have hbusy : (u.cal.stage != .idle || u.link.flashRunning) = true ↔ u.cal.stage ≠ .idle ∨ u.link.flashRunning = true := by
      rw [Bool.or_eq_true, bne_iff_ne]
    refine ⟨fun hz => commandFrame_next u a h rfl rfl rfl (if_pos (by rw [hz]; rfl)),
      fun hz hm => commandFrame_next u a h rfl rfl rfl ((if_neg (hform hz)).trans (if_pos (hmode.2 hm))), fun hz hr hc => ?_⟩
    have hhead : ¬(u.role != .head || u.config.isNone) = true := fun hm => (hmode.1 hm).elim (fun hp => absurd (hr.symm.trans hp) (by decide)) hc
    split
    next hb => exact commandFrame_next u a h rfl rfl rfl ((if_neg (hform hz)).trans ((if_neg hhead).trans (if_pos (hbusy.2 hb))))
    next hb => exact commandFrame_next u a h rfl rfl rfl ((if_neg (hform hz)).trans ((if_neg hhead).trans (if_neg (mt hbusy.1 hb))))
  case flashDone =>
    refine ⟨fun hr => if_pos (by rw [hr]; rfl), fun hr => ⟨_, execFlashCheckComplete_running hr reads d, ?_⟩⟩
    rw [startWaitingWrite_cal]
    refine ⟨rfl, rfl, raise_pending _ 29 _, rfl, ?_, fun k => ?_⟩
    · show (BitVec.ofNat 32 (checkBits s.boot.readMode (fun m => imageCrcOk (copyAsRead s reads[m])) + 2 ^ 16 * d.toNat)).toNat / 65536 = d.toNat
      obtain ⟨hlow, -⟩ := checkBits_eq s.boot.readMode (fun m => imageCrcOk (copyAsRead s reads[m])) 0
      have hd := d.isLt
      rw [BitVec.toNat_ofNat]
      omega
    · obtain ⟨hlow, htried, hgood⟩ := checkBits_eq s.boot.readMode (fun m => imageCrcOk (copyAsRead s reads[m])) k
      have hk := k.isLt
      exact ⟨(getLsbD_ofNat_low (by omega) (by decide) hlow).trans htried, (getLsbD_ofNat_low (by omega) (by decide) hlow).trans hgood⟩

end Sys2Proof.Machine

namespace Sys2Proof.Machine

/-! Remote link tests (R806 - R814): the command, the ends that start and stop, and the frames between head and pods. -/

/-- What REMOTE_LINK_TEST with the arguments `a` does with the node that it names (R669, R806, R807). -/
def linkTestOn (u : State) (a : List Byte) (n : Node) : Byte × State :=
  let side := portNo (u8 a 1)
  let l := linkOf n side
  if n.state = .parkedIncompatible then (stIncompatible, u)
  else if n.state ≠ .joined ∨ (l ≠ 0 ∧ nearEnd u side l = none) then (stUnknownVcn, u)
  else if u.course.remote ≠ none then (stBusy, u)
  else if 1 < u8 a 1 ∨ 3 < u8 a 2 ∨ u8 a 3 ≠ 0 ∨ l = 0 ∨ u32 a 4 = 0 ∨ cfgTestMax u < u32 a 4 then (stBadArg, u)
  else (stOk, { u with course := { u.course with
    remote := some (remoteFor n.addr side (patternOf u (u8 a 2)) (f32At a 4) ((nearEnd u side l).getD 0)) } })

section
variable {s : State} {f : HostFrame} (h : CommandReady s f 0x2A [] 8)
include h

theorem execRemoteLinkTest_locked (hd : hasDiag (sessionActivity s) = false) :
    exec (.remoteLinkTest f) s = .next (replied (sessionActivity s) f 0x2A stLocked) :=
  commandFrame_next _ _ h rfl rfl rfl (if_pos (by rw [hd]; rfl))

theorem execRemoteLinkTest_notInMode (hd : hasDiag (sessionActivity s) = true)
    (hm : (sessionActivity s).role = .pod ∨ inSafe (sessionActivity s) = true) :
    exec (.remoteLinkTest f) s = .next (replied (sessionActivity s) f 0x2A stNotInMode) := by
  refine commandFrame_next _ _ h rfl rfl rfl ((if_neg (by rw [hd]; decide)).trans (if_pos ?_))
  rw [Bool.or_eq_true]
  exact hm.imp_left fun hp => by rw [hp]; rfl

variable (hd : hasDiag (sessionActivity s) = true) (hr : (sessionActivity s).role = .head) (hsafe : inSafe (sessionActivity s) = false)
include hd hr hsafe

theorem execRemoteLinkTest_unknown
    (hn : (sessionActivity s).course.nodes.find? (fun n => n.addr.toNat == u8 (commandArgs f 0x2A []) 0) = none) :
    exec (.remoteLinkTest f) s = .next (replied (sessionActivity s) f 0x2A stUnknownVcn) := by
  refine commandFrame_next _ _ h rfl rfl rfl ((if_neg (by rw [hd]; decide)).trans ((if_neg ?_).trans ?_))
  · rw [hr, hsafe]
    decide
  · simp only [hn]

theorem execRemoteLinkTest_node {n : Node} {st : Byte} {x : State}
    (hn : (sessionActivity s).course.nodes.find? (fun n => n.addr.toNat == u8 (commandArgs f 0x2A []) 0) = some n)
    (e : linkTestOn (sessionActivity s) (commandArgs f 0x2A []) n = (st, x)) :
    exec (.remoteLinkTest f) s = .next (replied x f 0x2A st) := by
  refine commandFrame_next _ _ h rfl rfl rfl ((if_neg (by rw [hd]; decide)).trans ((if_neg ?_).trans (.trans ?_ e)))
  · rw [hr, hsafe]
    decide
  · simp only [hn, linkTestOn, Bool.or_eq_true, Bool.and_eq_true, bne_iff_ne, decide_eq_true_eq, Option.isNone_iff_eq_none,
      Option.isSome_iff_ne_none, or_assoc]

end

/-- What the stop of an end writes: its port's control and counts, and the event of a threshold reached. -/
theorem stopEnd_changes (s : State) (t : RemoteTest) (e : BitVec 32) :
    stopEnd s t e = { s with freeCount := (stopEnd s t e).freeCount, course := { s.course with ports := (stopEnd s t e).course.ports }
                             events := (stopEnd s t e).events } ∧
      (∀ p : Fin 2, t.port = some p → (stopEnd s t e).course.ports[p].control = 0 ∧
        (stopEnd s t e).course.ports[p].errors = if checking s.course.ports[p] = true then s.course.ports[p].errors + e else s.course.ports[p].errors) ∧
      (∀ q : Fin 2, (stopEnd s t e).course.ports[q].txq = s.course.ports[q].txq) ∧
      ((∀ p, t.port = some p → reachesThreshold s s.course.ports[p] e = false) → (stopEnd s t e).events = s.events) := by
  unfold stopEnd
  cases t.port with
  | none => exact ⟨rfl, fun p hp => (Option.some_ne_none p hp.symm).elim, fun _ => rfl, fun _ => rfl⟩
  | some p =>
    obtain ⟨hadded, -, hquiet⟩ := addErrors_changes s p e
    have hport (q : Fin 2) : (setControl (addErrors s p e) p 0).course.ports[q] =
        if p = q then { (errorsAdded s e s.course.ports[q]) with control := 0, timed := false } else s.course.ports[q] := by
      rw [setControl_eq, hadded]
      dsimp only
      rw [vmod_vmod, vmod_get, putControl_zero]
    refine ⟨?_, ?_, fun q => ?_, fun hno => ?_⟩
    · dsimp only
      rw [setControl_eq, hadded]
    · rintro q hq
      obtain rfl := Option.some.inj hq
      dsimp only
      rw [hport, if_pos rfl]
      exact ⟨rfl, rfl⟩
    · dsimp only
      rw [hport]
      split <;> rfl
    · exact hquiet (hno p rfl)

/-- The start of an end: its port's control, nothing of the other port. -/
theorem runEnd_changes (s : State) (t : RemoteTest) :
    runEnd s t = { s with freeCount := (runEnd s t).freeCount, course := { s.course with ports := (runEnd s t).course.ports } } ∧
      ∀ p : Fin 2, (t.port = some p → (runEnd s t).course.ports[p].control = bothOn t.pattern ∧ (runEnd s t).course.ports[p].timed = false) ∧
        (t.port ≠ some p → (runEnd s t).course.ports[p] = s.course.ports[p]) := by
  unfold runEnd
  cases t.port with
  | none => exact ⟨rfl, fun p => ⟨fun hp => (Option.some_ne_none p hp.symm).elim, fun _ => rfl⟩⟩
  | some p =>
    refine ⟨rfl, fun q => ⟨fun hq => ?_, fun hq => ?_⟩⟩
    · obtain rfl := Option.some.inj hq
      dsimp only
      rw [setControl_eq]
      dsimp only
      rw [vmod_vmod, vmod_get, if_pos rfl]
      obtain ⟨hcontrol, -, -, -, htimed⟩ := putControl_port (bothOn t.pattern) (Config.freeWord s.freeCount).toNat { s.course.ports[p] with timed := false }
      exact ⟨hcontrol, htimed⟩
    · dsimp only
      rw [setControl_eq]
      dsimp only
      rw [vmod_vmod, vmod_get, if_neg fun hp => hq (congrArg some hp)]

/-- A frame counted changes only the counts of its port. -/
theorem received_port (s : State) (type : Byte) (r : CourseRx) (q : Fin 2) :
    ∃ c, (received s type r).course.ports[q] = { s.course.ports[q] with counts := c } := by
  have hcount : ∃ c, (countPort s r.port 0).course.ports[q] = { s.course.ports[q] with counts := c } := by
    unfold countPort
    dsimp only
    rw [vmod_get]
    split
    · exact ⟨_, rfl⟩
    · exact ⟨_, rfl⟩
  unfold received noteSeq
  split
  · exact hcount
  · exact hcount

theorem received_inTest (s : State) (type : Byte) (r : CourseRx) (q : Fin 2) : inTest (received s type r) q = inTest s q := by
  obtain ⟨c, hc⟩ := received_port s type r q
  unfold inTest
  rw [hc]
  rfl

/-- A 32-bit value behind four bytes is read back. -/
theorem f32At_four (a b c d : Byte) (v : BitVec 32) (l : List Byte) : f32At ([a, b, c, d] ++ toLE 4 v.toNat ++ l) 4 = v := by
  apply BitVec.eq_of_toNat_eq
  have hv := v.isLt
  simp only [f32At, u32, le, u8, toLE, List.cons_append, List.nil_append, List.getD_cons_succ, List.getD_cons_zero, BitVec.toNat_ofNat]
  omega

/-- The remote test at its end: the end of the link that this node is, if it is one, is back in service, and the test is over. -/
def testEnded (s : State) (x : RemoteTest) (e : BitVec 32) : State :=
  { stopEnd s x e with course := { (stopEnd s x e).course with remote := none } }

section
variable {s : State} {x : RemoteTest} (hx : s.course.remote = some x)
include hx

theorem execRemoteTestEnd_early {e : BitVec 32} (hl : s.clk < x.startClk + 1000 * x.duration.toNat) : exec (.remoteTestEnd e) s = .next s := by
  show execRemoteTestEnd e s = _
  unfold execRemoteTestEnd
  rw [hx]
  exact if_pos (by rw [decide_eq_true hl, Bool.or_true])

theorem execRemoteTestEnd_head (hrun : x.running = true) (e : BitVec 32) (hl : x.startClk + 1000 * x.duration.toNat ≤ s.clk)
    (hr : s.role = .head) :
    exec (.remoteTestEnd e) s = .next (remoteDone { testEnded s x e with course := { (testEnded s x e).course with
      ringAgain := (stopEnd s x e).course.ringAgain || x.wasRing, testDone := some { x with running := false, toStart := 0 } } }) := by
  show execRemoteTestEnd e s = _
  unfold execRemoteTestEnd
  rw [hx]
  refine (if_neg (by rw [hrun, decide_eq_false (not_lt.2 hl)]; decide)).trans ?_
  dsimp only
  split
  next => rfl
  next hp => exact absurd (hp.symm.trans ((congrArg State.role (stopEnd_changes s x e).1).trans hr)) (by decide)

theorem execRemoteTestEnd_pod (hrun : x.running = true) (e : BitVec 32) (hl : x.startClk + 1000 * x.duration.toNat ≤ s.clk)
    (hr : s.role = .pod) :
    exec (.remoteTestEnd e) s = .next (if (testEnded s x e).course.pod.phase = 3 then testEnded s x e
      else originate (testEnded s x e) [sidePort (testEnded s x e).course.pod 0] 0x2B 0 2 0 (ltDonePayload (testEnded s x e) x)) := by
  show execRemoteTestEnd e s = _
  unfold execRemoteTestEnd
  rw [hx]
  refine (if_neg (by rw [hrun, decide_eq_false (not_lt.2 hl)]; decide)).trans ?_
  dsimp only
  split
  next hh => exact absurd (hh.symm.trans ((congrArg State.role (stopEnd_changes s x e).1).trans hr)) (by decide)
  next => rfl

theorem execRemoteTestStart_next (hrun : x.running = false) (hdue : remoteStarts s x = true) : exec .remoteTestStart s = .next (
    if s.role = .head ∧ (x.ackFar && x.ackNear) = false then abortRemote s
    else runEnd { s with course := { s.course with remote := some { x with running := true, startClk := s.clk }, testLink := cutOff s x } }
      { x with running := true, startClk := s.clk }) := by
  show execRemoteTestStart s = _
  unfold execRemoteTestStart
  rw [hx]
  dsimp only
  rw [if_neg (by rw [hrun, hdue]; decide)]
  by_cases ha : s.role = .head ∧ (x.ackFar && x.ackNear) = false
  · obtain ⟨hr, hn⟩ := ha
    rw [if_pos (by rw [hr, hn]; decide), if_pos ⟨hr, hn⟩]
  · rw [if_neg, if_neg ha]
    · rfl
    · rw [Bool.and_eq_true, decide_eq_true_eq, Bool.not_eq_true']
      exact ha

theorem execRemoteTestStart_not (h : x.running = true ∨ remoteStarts s x = false) : exec .remoteTestStart s = .next s := by
  show execRemoteTestStart s = _
  unfold execRemoteTestStart
  rw [hx]
  refine if_pos ?_
  rcases h with h | h <;> rw [h]
  · rfl
  · exact Bool.or_true _

/-- The head gives up a test that has not started: LT_ABORT waits on every used port that sends. -/
theorem abortRemote_waits (hr : s.role = .head) (hrun : x.running = false) {p : Fin 2} (hp : p ∈ usedPorts s) (hs : sends s p = true) :
    Waits (abortRemote s) p 0x2A 255 [x.node, 0, 0, 0] := by
  rw [abortRemote_live hr hx]
  have hfreed : remoteFreed s x = closeRingAgain { s with course := { s.course with remote := none } } x := by
    unfold remoteFreed
    rw [hrun]
    rfl
  obtain ⟨-, -, hwaits⟩ := originate_ports (remoteFreed s x) (usedPorts (remoteFreed s x)) 0x2A 255 2 0 [x.node, 0, 0, 0]
  exact hwaits p (by rw [hfreed]; exact hp) (by rw [hfreed]; exact hs)

end

/-- The LT_DONE of a pod at an end names the test and its error count. -/
theorem ltDonePayload_end {s : State} {x : RemoteTest} {p : Fin 2} (hp : x.port = some p) :
    b8 (ltDonePayload s x) 0 = x.node ∧ f32At (ltDonePayload s x) 4 = s.course.ports[p].errors := by
  unfold ltDonePayload
  rw [hp]
  dsimp only
  rw [List.append_assoc]
  exact ⟨rfl, f32At_four ..⟩

/-- A test whose both ends are done is over, with EV29. -/
theorem remoteDone_both {s : State} {x : RemoteTest} (hx : s.course.testDone = some x) (h : (x.doneFar && x.doneNear) = true) :
    remoteDone s = raise { s with course := { s.course with testDone := none } } 29 (4 + 256 * x.node.toNat) := by
  unfold remoteDone
  rw [hx]
  exact if_pos h

theorem remoteDone_waits {s : State} {x : RemoteTest} (hx : s.course.testDone = some x) (h : (x.doneFar && x.doneNear) = false) :
    remoteDone s = s := by
  unfold remoteDone
  rw [hx]
  exact if_neg (by rw [h]; decide)

theorem received_podEnd (s : State) (type : Byte) (r : CourseRx) (near : Bool) (d : Byte) (side : Fin 2) :
    podEnd (received s type r) near d side = podEnd s near d side := by
  rw [received_eq]
  rfl

theorem received_cfgNoRemote (s : State) (type : Byte) (r : CourseRx) : cfgNoRemote (received s type r) = cfgNoRemote s := by
  rw [received_eq]
  rfl

theorem received_remote (s : State) (type : Byte) (r : CourseRx) : (received s type r).course.remote = s.course.remote :=
  congrArg (·.course.remote) (received_eq s type r)

theorem received_testDone (s : State) (type : Byte) (r : CourseRx) : (received s type r).course.testDone = s.course.testDone :=
  congrArg (·.course.testDone) (received_eq s type r)

/-- LT_START at a pod that is an end of the link (R808, R812, R814). -/
theorem execLtStart_end {s : State} {near : Bool} {r : CourseRx} {q : Fin 2} (ht : Takes .pod s 0x28 r) (hsw : podSweeps s = true)
    (hq : podEnd s near (b8 r.payload 0) (portNo (u8 r.payload 1)) = some q) :
    let p := r.payload
    let u := received s 0x28 r
    let nak (c : Byte) : State := originate u [sidePort s.course.pod r.port] 0x26 0 2 0 [0x28, c, 0, 0]
    exec (.ltStart near r) s = .next (
      if cfgNoRemote s = true then nak stLocked
      else if u8 p 2 = 0 ∨ 3 < u8 p 2 then nak stBadArg
      else if inTest s q = true then nak stBusy
      else originate { u with course := { u.course with remote := some { (remoteFor (b8 p 0) (portNo (u8 p 1)) (b8 p 2) (f32At p 12) 0) with
        port := some q, startAt := le p 4 6 + 2 ^ 48 * u8 p 10 } } } [sidePort s.course.pod r.port] 0x29 0 2 0 [b8 p 0, 0, 0, 0]) := by
  intro p u nak
  refine congrArg Host.Outcome.next ((podRx_takes ht).trans ?_)
  dsimp only
  rw [received_podSweeps, hsw, received_podEnd, hq]
  dsimp only
  rw [received_cfgNoRemote, received_inTest, received_pod]
  simp only [Bool.or_eq_true, decide_eq_true_eq]
  rfl

theorem execLtStart_noEnd {s : State} {near : Bool} {r : CourseRx} (ht : Takes .pod s 0x28 r)
    (hno : podSweeps s = false ∨ podEnd s near (b8 r.payload 0) (portNo (u8 r.payload 1)) = none) :
    exec (.ltStart near r) s = .next (received s 0x28 r) := by
  refine congrArg Host.Outcome.next ((podRx_takes ht).trans ?_)
  dsimp only
  split
  next q hsw hq =>
    rw [received_podSweeps] at hsw
    rw [received_podEnd] at hq
    exact hno.elim (fun hn => absurd (hn.symm.trans hsw) (by decide)) fun hn => absurd (hn.symm.trans hq) (by simp)
  next => rfl

/-- Settles O57: the command by what its node answers, start and end by what they write to the port that is an end, the frames by the test they name. -/
theorem remoteLinkTests : Obligations.RemoteLinkTests := by
  unfold Obligations.RemoteLinkTests
  refine ⟨fun s f h => ?command, fun s x hx hrun hhead hpod => ?starts, fun s hx => ?none, fun s x e hx hrun => ?ends, fun s x hx => execRemoteTestStart_not hx,
    fun s near r q ht hsw => ?ltStart, fun s near r ht hno => ?ltStartNot, fun s r n x hn hnode => ?answers, fun s r ht => ?ltAbort⟩
  case command =>
    intro u a side answers
    refine ⟨execRemoteLinkTest_locked h, execRemoteLinkTest_notInMode h, fun hd hr hsafe => ⟨fun hno => ?_, fun n hn => ?_⟩⟩
    · refine execRemoteLinkTest_unknown h hd hr hsafe (List.find?_eq_none.2 fun n hn => ?_)
      exact fun heq => hno n hn (eq_of_beq heq)
    intro l bad
    have hcheck {st : Byte} {x : State} := execRemoteLinkTest_node h hd hr hsafe (st := st) (x := x) hn
    refine ⟨fun hp => hcheck (if_pos hp), fun hp hj => hcheck ((if_neg hp).trans (if_pos (.inl hj))), fun hj hl hnear => ?_, fun hj hl hbusy => ?_,
      fun hj hl hfree hbad => ?_, fun near hj hnear hfree hbad => ?_⟩
    all_goals
      have hp : n.state ≠ .parkedIncompatible := by
        rw [hj]
        decide
    · exact hcheck ((if_neg hp).trans (if_pos (.inr ⟨hl, hnear⟩)))
    · have hknown : ¬(n.state ≠ .joined ∨ (l ≠ 0 ∧ nearEnd u side l = none)) := by
        rintro (hn | ⟨hl0, hnone⟩)
        · exact hn hj
        · exact hl.elim hl0 (absurd hnone)
      exact hcheck ((if_neg hp).trans ((if_neg hknown).trans (if_pos hbusy)))
    · have hknown : ¬(n.state ≠ .joined ∨ (l ≠ 0 ∧ nearEnd u side l = none)) := by
        rintro (hn | ⟨hl0, hnone⟩)
        · exact hn hj
        · exact hl.elim hl0 (absurd hnone)
      exact hcheck ((if_neg hp).trans ((if_neg hknown).trans ((if_neg (not_not.2 hfree)).trans (if_pos hbad))))
    · have hknown : ¬(n.state ≠ .joined ∨ (l ≠ 0 ∧ nearEnd u side l = none)) := by
        rintro (hn | ⟨-, hnone⟩)
        · exact hn hj
        · exact absurd (hnear.symm.trans hnone) (by simp)
      refine hcheck ((if_neg hp).trans ((if_neg hknown).trans ((if_neg (not_not.2 hfree)).trans ((if_neg hbad).trans ?_))))
      show (stOk, { u with course := { u.course with
        remote := some (remoteFor n.addr side (patternOf u (u8 a 2)) (f32At a 4) ((nearEnd u side l).getD 0)) } }) = _
      rw [hnear]
      rfl
  case starts =>
    have hdue : remoteStarts s x = true := by
      unfold remoteStarts
      cases hr : s.role with
      | head => exact beq_iff_eq.2 (hhead hr)
      | pod => exact decide_eq_true (hpod hr)
    have hnext := execRemoteTestStart_next hx hrun hdue
    refine ⟨fun hr hack => ?_, fun hgo => ?_⟩
    · have hgives : s.role = .head ∧ (x.ackFar && x.ackNear) = false := ⟨hr, Bool.and_eq_false_iff.2 hack⟩
      rw [if_pos hgives] at hnext
      obtain ⟨hnone, hevent⟩ := abortRemote_head hr hx
      exact ⟨_, hnext, (abortRemote_eq s).1, hnone, hevent, fun p hp hs _ => abortRemote_waits hx hr hrun hp hs⟩
    · have hruns : ¬(s.role = .head ∧ (x.ackFar && x.ackNear) = false) := by
        rintro ⟨hr, ha⟩
        rcases hgo with hp | ⟨hfar, hnear⟩
        · exact absurd (hr.symm.trans hp) (by decide)
        · rw [hfar, hnear] at ha
          exact absurd ha (by decide)
      rw [if_neg hruns] at hnext
      obtain ⟨hrest, hports⟩ := runEnd_changes { s with course := { s.course with
        remote := some { x with running := true, startClk := s.clk }, testLink := cutOff s x } } { x with running := true, startClk := s.clk }
      refine ⟨_, hnext, ?_, ?_, ?_, hports⟩
      all_goals rw [hrest]
  case none =>
    refine ⟨?_, fun e => ?_⟩
    · show execRemoteTestStart s = _
      unfold execRemoteTestStart
      rw [hx]
    · show execRemoteTestEnd e s = _
      unfold execRemoteTestEnd
      rw [hx]
  case ends =>
    refine ⟨execRemoteTestEnd_early hx, fun hl => ?_⟩
    obtain ⟨hrest, hend, hqueue, hquiet⟩ := stopEnd_changes s x e
    have hover : testEnded s x e = { s with freeCount := (stopEnd s x e).freeCount, events := (stopEnd s x e).events
                                            course := { s.course with ports := (stopEnd s x e).course.ports, remote := none } } := by
      unfold testEnded
      rw [hrest]
    obtain hr | hr : s.role = .head ∨ s.role = .pod := by cases s.role <;> decide
    · have hnext := execRemoteTestEnd_head hx hrun e hl hr
      have hring : (stopEnd s x e).course.ringAgain = s.course.ringAgain := by rw [hrest]
      rw [hring] at hnext
      have hno (P : Prop) : s.role = .pod → P := fun hp => absurd (hr.symm.trans hp) (by decide)
      cases hboth : x.doneFar && x.doneNear with
      | true =>
        rw [remoteDone_both (x := { x with running := false, toStart := 0 }) rfl hboth] at hnext
        refine ⟨_, hnext, ?_, fun p hp => hend p hp, rfl, ?_, hno _, hno _, fun _ => rfl, fun _ _ _ => ⟨rfl, raise_pending _ 29 _⟩, fun _ hmiss => ?_⟩
        · rw [hover]
          rfl
        · rw [hover]
          rfl
        · rw [Bool.and_eq_true] at hboth
          obtain ⟨hfar, hnear⟩ := hboth
          exact hmiss.elim (fun hm => absurd (hm.symm.trans hfar) (by decide)) fun hm => absurd (hm.symm.trans hnear) (by decide)
      | false =>
        rw [remoteDone_waits (x := { x with running := false, toStart := 0 }) rfl hboth] at hnext
        refine ⟨_, hnext, ?_, fun p hp => hend p hp, rfl, ?_, hno _, hno _, fun _ => rfl, fun _ hfar hnear => ?_, fun _ _ => ⟨rfl, fun hno => ?_⟩⟩
        · rw [hover]
        · rw [hover]
        · rw [hfar, hnear] at hboth
          exact absurd hboth (by decide)
        · exact hquiet hno
    · have hnext := execRemoteTestEnd_pod hx hrun e hl hr
      have hpod : (testEnded s x e).course.pod = s.course.pod := by rw [hover]
      rw [hpod] at hnext
      have hno (P : Prop) : s.role = .head → P := fun hh => absurd (hr.symm.trans hh) (by decide)
      by_cases h3 : s.course.pod.phase = 3
      · rw [if_pos h3] at hnext
        refine ⟨_, hnext, ?_, fun p hp => hend p hp, rfl, ?_, fun _ hne => absurd h3 hne, fun _ _ => hqueue, hno _, hno _, hno _⟩
        all_goals rw [hover]
      · rw [if_neg h3] at hnext
        have hsent := originate_sendsOnly (testEnded s x e) [sidePort s.course.pod 0] 0x2B 0 2 0 (ltDonePayload (testEnded s x e) x)
        obtain ⟨-, -, hwaits⟩ := originate_ports (testEnded s x e) [sidePort s.course.pod 0] 0x2B 0 2 0 (ltDonePayload (testEnded s x e) x)
        generalize originate (testEnded s x e) [sidePort s.course.pod 0] 0x2B 0 2 0 (ltDonePayload (testEnded s x e) x) = t at hnext hsent hwaits
        have hport (p : Fin 2) : t.course.ports[p].control = (testEnded s x e).course.ports[p].control ∧
            t.course.ports[p].errors = (testEnded s x e).course.ports[p].errors := by
          have hq := (hsent.queues p).1
          unfold QueueOnly at hq
          rw [hq]
          exact ⟨rfl, rfl⟩
        refine ⟨t, hnext, ?_, fun p hp => ?_, ?_, ?_, fun _ _ p hp hsends => ?_, fun _ hne => absurd hne h3, hno _, hno _, hno _⟩
        · rw [hsent.rest, hover]
        · obtain ⟨hcontrol, herrors⟩ := hport p
          rw [hcontrol, herrors]
          exact hend p hp
        · rw [hsent.rest, hover]
        · rw [hsent.rest, hover]
        · rw [hsent.sends] at hsends
          obtain ⟨g, hg, htype, hdst, hpayload, -⟩ := hwaits _ List.mem_cons_self hsends
          obtain ⟨hname, hcount⟩ := ltDonePayload_end (s := testEnded s x e) hp
          rw [(hport p).2]
          exact ⟨g, hg, htype, hdst, by rw [hpayload, hname], by rw [hpayload, hcount]⟩
  case ltStart =>
    intro p u hq nak
    have hnext := execLtStart_end ht hsw hq
    have hform (hlow : 1 ≤ u8 p 2) (hhigh : u8 p 2 ≤ 3) : ¬(u8 p 2 = 0 ∨ 3 < u8 p 2) := by omega
    have htests (hno : cfgNoRemote s = false) : ¬cfgNoRemote s = true := Bool.eq_false_iff.1 hno
    refine ⟨fun hno => hnext.trans (congrArg _ (if_pos hno)), fun hno hbad => hnext.trans (congrArg _ ((if_neg (htests hno)).trans (if_pos hbad))),
      fun hno hlow hhigh hbusy => ?_, fun hno hlow hhigh hbusy => ?_⟩
    · exact hnext.trans (congrArg _ ((if_neg (htests hno)).trans ((if_neg (hform hlow hhigh)).trans (if_pos hbusy))))
    · exact hnext.trans (congrArg _ ((if_neg (htests hno)).trans ((if_neg (hform hlow hhigh)).trans (if_neg (Bool.eq_false_iff.1 hbusy)))))
  case ltStartNot => exact execLtStart_noEnd ht hno
  case answers =>
    have hmine : (b8 r.payload 0 == x.node) = true := beq_iff_eq.2 hnode
    refine ⟨fun ht hx hrun => ?_, fun ht => ?_⟩
    · refine congrArg Host.Outcome.next ((headRx_joined ht hn).trans ?_)
      dsimp only
      rw [received_remote, hx]
      exact if_neg (by rw [hrun, bne, hmine]; decide)
    intro u y
    have hdone (t : State) (e : (if s.course.testDone.any (fun t => b8 r.payload 0 == t.node) = true
          then remoteDone { u with course := { u.course with testDone := s.course.testDone.map (noteDone n.addr) } }
        else if s.course.remote.any (fun t => t.running && b8 r.payload 0 == t.node) = true
          then { u with course := { u.course with remote := s.course.remote.map (noteDone n.addr) } }
        else u) = t) : exec (.ltDone r) s = .next t := by
      refine congrArg Host.Outcome.next ((headRx_joined ht hn).trans (.trans ?_ e))
      dsimp only
      rw [received_testDone, received_remote]
    refine ⟨fun hx hmiss => ?_, fun hx hboth => ?_, fun hnone hx hrun => ?_⟩
    · refine hdone _ ?_
      rw [hx]
      exact (if_pos hmine).trans (remoteDone_waits (x := y) rfl hmiss)
    · have hover := remoteDone_both (s := { u with course := { u.course with testDone := some y } }) (x := y) rfl hboth
      refine ⟨_, hdone _ (.trans ?_ hover), rfl, raise_pending _ 29 _⟩
      rw [hx]
      exact if_pos hmine
    · refine hdone _ ?_
      rw [hnone, hx]
      exact (if_neg Bool.false_ne_true).trans (if_pos (by rw [Option.any_some, hrun, hmine]; rfl))
  case ltAbort =>
    intro u
    refine ⟨fun x p hx hnode hp => ?_, fun hx => ?_⟩
    · refine congrArg Host.Outcome.next ((podRx_takes ht).trans ?_)
      dsimp only
      rw [received_remote, hx]
      refine (if_pos hnode).trans ?_
      unfold freeRemotePort
      rw [hp]
    · refine congrArg Host.Outcome.next ((podRx_takes ht).trans ?_)
      dsimp only
      rw [received_remote, hx]

end Sys2Proof.Machine

namespace Sys2Proof.Machine

/-! WRITE (R664, R697, R699): what a request reaches, and what it leaves of the fields that it does not. -/

/-! Little-endian values. -/

theorem le_congr {p q : List Byte} {o k n : Nat} (h : ∀ i < n, p.getD (o + i) 0 = q.getD (k + i) 0) : le p o n = le q k n := by
  induction n generalizing o k with
  | zero => rfl
  | succ n ih =>
    have h0 : p.getD o 0 = q.getD k 0 := h 0 (Nat.succ_pos n)
    have hrest : le p (o + 1) n = le q (k + 1) n := ih fun i hi => by
      rw [Nat.add_assoc, Nat.add_assoc, Nat.add_comm 1 i]
      exact h (i + 1) (Nat.succ_lt_succ hi)
    simp only [le, u8, h0, hrest]

/-- Bytes beyond the end count as 0. -/
theorem le_short {p : List Byte} {o n m : Nat} (hn : p.length ≤ o + n) (hm : n ≤ m) : le p o m = le p o n := by
  induction m generalizing o n with
  | zero => rw [Nat.le_zero.1 hm]
  | succ m ih =>
    cases n with
    | zero =>
      have h0 : u8 p o = 0 := by rw [u8, List.getD_eq_default _ _ (by simpa using hn)]; rfl
      simp only [le, h0, ih (o := o + 1) (n := 0) (by omega) (Nat.zero_le m)]
    | succ n => simp only [le, ih (o := o + 1) (n := n) (by omega) (Nat.le_of_succ_le_succ hm)]

/-- The bytes of a value, read back. -/
theorem le_bytesOf (n v : Nat) (p : List Byte) (o : Nat) (h : ∀ i < n, p.getD (o + i) 0 = BitVec.ofNat 8 (v / 256 ^ i)) : le p o n = v % 256 ^ n := by
  induction n generalizing v o with
  | zero => simp [le, Nat.mod_one]
  | succ n ih =>
    have h0 : u8 p o = v % 256 := by rw [u8, show p.getD o 0 = _ from h 0 (Nat.succ_pos n)]; simp
    have hrest : le p (o + 1) n = v / 256 % 256 ^ n := ih (v / 256) (o + 1) fun i hi => by
      rw [Nat.add_assoc, Nat.add_comm 1 i, h (i + 1) (Nat.succ_lt_succ hi), pow_succ', Nat.div_div_eq_div_mul]
    simp only [le]
    rw [h0, hrest, pow_succ', Nat.mod_mul]

/-! Fields that a request misses, and fields that it covers. -/

/-- The request reaches none of the `n` bytes from `a` on. -/
def WriteReq.Misses (w : WriteReq) (a n : Nat) : Prop := a + n ≤ w.addr ∨ w.addr + w.pay.length ≤ a

theorem WriteReq.misses_iff {addr a n : Nat} {p : List Byte} : WriteReq.Misses ⟨addr, p⟩ a n ↔ a + n ≤ addr ∨ addr + p.length ≤ a := Iff.rfl

section
variable {w : WriteReq} {a n : Nat}

theorem WriteReq.covers_iff (w : WriteReq) (a : Nat) : w.covers a = true ↔ w.addr ≤ a ∧ a < w.addr + w.pay.length := by
  simp [WriteReq.covers]

theorem WriteReq.Misses.covers (h : w.Misses a n) {b : Nat} (hb : a ≤ b) (hn : b < a + n) : w.covers b = false := by
  rw [Bool.eq_false_iff, ne_eq, w.covers_iff]
  unfold WriteReq.Misses at h
  omega

theorem WriteReq.Misses.touches (h : w.Misses a n) : w.touches a n = false := by
  rw [Bool.eq_false_iff]
  intro ht
  obtain ⟨i, hi, hc⟩ := List.any_eq_true.1 ht
  rw [h.covers (Nat.le_add_right a i) (Nat.add_lt_add_left (List.mem_range.1 hi) a)] at hc
  exact absurd hc (by decide)

/-- A field that a request misses holds what it held. -/
theorem WriteReq.Misses.merged (h : w.Misses a n) {old : Nat} (hold : old < 256 ^ n) : w.merged a n old = old := by
  refine (le_bytesOf n old _ 0 fun i hi => ?_).trans (Nat.mod_eq_of_lt hold)
  rw [Nat.zero_add, List.getD_eq_getElem?_getD, List.getElem?_map, List.getElem?_range hi]
  dsimp only [Option.map_some, Option.getD_some]
  rw [h.covers (Nat.le_add_right a i) (Nat.add_lt_add_left hi a), if_neg (by decide)]

/-- A field that a request covers holds what is written there. -/
theorem WriteReq.merged_covered (ha : w.addr ≤ a) (hn : a + n ≤ w.addr + w.pay.length) (old : Nat) :
    w.merged a n old = le w.pay (a - w.addr) n := by
  refine le_congr fun i hi => ?_
  rw [Nat.zero_add, List.getD_eq_getElem?_getD, List.getElem?_map, List.getElem?_range hi]
  dsimp only [Option.map_some, Option.getD_some]
  rw [if_pos ((w.covers_iff _).2 ⟨by omega, by omega⟩), WriteReq.byte, Nat.sub_add_comm ha]

/-- The field at which a request begins. -/
theorem WriteReq.merged_first (a : Nat) {p : List Byte} (hn : n ≤ p.length) (old : Nat) : WriteReq.merged ⟨a, p⟩ a n old = le p 0 n := by
  rw [WriteReq.merged_covered (le_refl _) (Nat.add_le_add_left hn _), Nat.sub_self]

/-- A field of zeros of which a request covers the first bytes. -/
theorem WriteReq.merged_zero (w : WriteReq) (hn : w.pay.length ≤ n) : w.merged w.addr n 0 = le w.pay 0 w.pay.length := by
  refine Eq.trans (le_congr (q := w.pay) (k := 0) fun i hi => ?_) (le_short (Nat.zero_add _ ▸ le_refl _) hn)
  rw [Nat.zero_add, List.getD_eq_getElem?_getD, List.getElem?_map, List.getElem?_range hi]
  dsimp only [Option.map_some, Option.getD_some]
  by_cases hc : i < w.pay.length
  · rw [if_pos ((w.covers_iff _).2 ⟨Nat.le_add_right _ _, Nat.add_lt_add_left hc _⟩), WriteReq.byte, Nat.add_sub_cancel_left]
  · rw [if_neg (mt (w.covers_iff _).1 (by omega)), List.getD_eq_default _ _ (not_lt.1 hc), Nat.zero_div]
    rfl

end

/-! What is written where nothing of a group is covered. -/

section
variable {w : WriteReq} (s : State)

theorem writeEvents_missed (h : w.Misses 0x200 12) : writeEvents s w = s := by
  have hp : w.merged 0x200 4 0 = 0 := WriteReq.Misses.merged (by unfold WriteReq.Misses at *; omega) (by decide)
  have hq : w.merged 0x204 4 s.events.queueMask.toNat = s.events.queueMask.toNat :=
    WriteReq.Misses.merged (by unfold WriteReq.Misses at *; omega) s.events.queueMask.isLt
  have hi : w.merged 0x208 4 s.events.irqMask.toNat = s.events.irqMask.toNat :=
    WriteReq.Misses.merged (by unfold WriteReq.Misses at *; omega) s.events.irqMask.isLt
  have hkept : s.events.pending &&& ~~~(BitVec.ofNat 32 0) = s.events.pending := BitVec.and_allOnes
  unfold writeEvents
  dsimp only
  rw [hp, hq, hi, hkept, BitVec.ofNat_toNat, BitVec.ofNat_toNat, BitVec.setWidth_eq, BitVec.setWidth_eq]

theorem writeSelects_missed (hv : w.Misses 0x100 1) (hb : w.Misses 0x600 1) (hs : w.Misses 0x10B0 1) (ht : w.Misses 0x440 7) : writeSelects s w = s := by
  have hc : w.merged 0x440 6 s.time.setCount.toNat = s.time.setCount.toNat :=
    WriteReq.Misses.merged (by unfold WriteReq.Misses at *; omega) s.time.setCount.isLt
  have he : w.merged 0x446 1 s.time.setEra.toNat = s.time.setEra.toNat :=
    WriteReq.Misses.merged (by unfold WriteReq.Misses at *; omega) s.time.setEra.isLt
  unfold writeSelects
  dsimp only
  rw [hv.merged s.host.view.isLt, hb.merged s.host.bank.isLt, hs.merged s.host.select.isLt, hc, he]
  simp only [BitVec.ofNat_toNat, BitVec.setWidth_eq]

theorem writeProbe_missed (h : w.Misses 0x2300 2) : writeProbe s w = s := if_neg (by rw [h.touches]; decide)

theorem writeInject_missed (hc : w.Misses 0x3100 2) (ht : w.Misses 0x3102 1) : writeInject s w = s := by
  unfold writeInject
  dsimp only
  rw [hc.merged s.ks.injectCode.isLt, ht.covers (le_refl _) (by decide), if_neg (by decide), BitVec.ofNat_toNat, BitVec.setWidth_eq]

theorem writePort_missed {p : Fin 2} (h : w.Misses (controlAddr p) 2) : writePort s w p = s := by
  unfold writePort
  rw [h.covers (le_refl _) (by omega), h.covers (Nat.le_add_right _ 1) (by omega), Bool.false_and, if_neg (by decide), if_neg (by decide)]

end

/-! A request as a whole. -/

/-- The registers after a request that is in range. -/
def registersWritten (s : State) (w : WriteReq) : State :=
  writePort (writePort (writeInject (writeProbe (writeSelects (writeEvents s w) w) w) w) w 0) w 1

/-- What becomes of a request whose bytes are writable, in a scope that is open. -/
def requestAnswered (s : State) (w : WriteReq) : Byte × State :=
  if writeInRange s w = false then (stBadArg, s) else if writeState s w ≠ stOk then (writeState s w, s) else (stOk, registersWritten s w)

section
variable {u : State} {addr : Nat} {p : List Byte}

theorem writeRegs_notWritable (h : ∃ i, i < p.length ∧ writable (addr + i) = false) : writeRegs u addr p = (stBadArg, u) := by
  obtain ⟨i, hi, hw⟩ := h
  refine if_pos ?_
  rw [Bool.not_eq_true', List.all_eq_false]
  exact ⟨_, List.mem_map_of_mem (List.mem_range.2 hi), by rw [hw]; decide⟩

variable (hw : ∀ i, i < p.length → writable (addr + i) = true)
include hw

theorem allWritable : ¬(!((List.range p.length).map (addr + ·)).all writable) = true := by
  have hall : ((List.range p.length).map (addr + ·)).all writable = true := by
    rw [List.all_eq_true]
    intro x hx
    obtain ⟨i, hi, rfl⟩ := List.mem_map.1 hx
    exact hw i (List.mem_range.1 hi)
  rw [hall]
  decide

theorem writeRegs_locked (hd : ∃ i, i < p.length ∧ diagByte (addr + i) = true) (hs : hasDiag u = false) : writeRegs u addr p = (stLocked, u) := by
  obtain ⟨i, hi, hb⟩ := hd
  refine (if_neg (allWritable hw)).trans (if_pos ?_)
  rw [hs, Bool.not_false, Bool.and_true, List.any_eq_true]
  exact ⟨_, List.mem_map_of_mem (List.mem_range.2 hi), hb⟩

theorem writeRegs_open (hd : (∀ i, i < p.length → diagByte (addr + i) = false) ∨ hasDiag u = true) :
    writeRegs u addr p = requestAnswered u { addr := addr, pay := p } := by
  refine (if_neg (allWritable hw)).trans ((if_neg ?_).trans ?_)
  · rw [Bool.and_eq_true, Bool.not_eq_true', List.any_eq_true]
    rintro ⟨⟨x, hx, hb⟩, hs⟩
    obtain ⟨i, hi, rfl⟩ := List.mem_map.1 hx
    rcases hd with hd | hd
    · exact absurd ((hd i (List.mem_range.1 hi)).symm.trans hb) (by decide)
    · exact absurd (hd.symm.trans hs) (by decide)
  · simp only [requestAnswered, Bool.not_eq_true', bne_iff_ne]
    rfl

end

/-! Requests of one group. -/

theorem WriteReq.touches_eq (w : WriteReq) (a n : Nat) :
    w.touches a n = (decide (0 < n) && decide (0 < w.pay.length) && decide (w.addr < a + n) && decide (a < w.addr + w.pay.length)) := by
  rw [Bool.eq_iff_iff, WriteReq.touches, List.any_eq_true]
  simp only [List.mem_range, w.covers_iff, Bool.and_eq_true, decide_eq_true_eq]
  constructor
  · rintro ⟨i, hi, hlow, hhigh⟩
    omega
  · rintro ⟨⟨⟨hn, hl⟩, hlow⟩, hhigh⟩
    by_cases h : w.addr ≤ a
    · exact ⟨0, hn, h, hhigh⟩
    · exact ⟨w.addr - a, by omega, by omega, by omega⟩

/-- A request below the port blocks meets no port. -/
theorem writeState_missed {w : WriteReq} (s : State) (h : w.addr + w.pay.length ≤ 0x5000) : writeState s w = stOk := by
  have h0 : w.Misses (controlAddr 0) 2 := .inr h
  have h1 : w.Misses (controlAddr 1) 2 := .inr (le_trans h (by decide))
  have hc0 : w.covers (controlAddr 0) = false := h0.covers (le_refl _) (by omega)
  have hi0 : w.covers (controlAddr 0 + 1) = false := h0.covers (Nat.le_add_right _ 1) (by omega)
  have hc1 : w.covers (controlAddr 1) = false := h1.covers (le_refl _) (by omega)
  have hi1 : w.covers (controlAddr 1 + 1) = false := h1.covers (Nat.le_add_right _ 1) (by omega)
  simp only [writeState, hc0, hi0, hc1, hi1, Bool.false_and, Bool.or_self, Bool.false_eq_true, if_false]

section
variable {w : WriteReq} (s : State)

theorem registersWritten_low (h : w.addr + w.pay.length ≤ 0x5000) :
    registersWritten s w = writeInject (writeProbe (writeSelects (writeEvents s w) w) w) w := by
  have h0 : w.Misses (controlAddr 0) 2 := .inr h
  have h1 : w.Misses (controlAddr 1) 2 := .inr (le_trans h (by decide))
  unfold registersWritten
  rw [writePort_missed _ h0, writePort_missed _ h1]

/-- A select or the time-set registers. -/
theorem registersWritten_select (hl : w.addr + w.pay.length ≤ 0x2300) (he : w.Misses 0x200 12) : registersWritten s w = writeSelects s w := by
  rw [registersWritten_low s (by omega), writeEvents_missed s he, writeProbe_missed _ (.inr hl), writeInject_missed _ (.inr (by omega)) (.inr (by omega))]

theorem registersWritten_event (hlow : 0x200 ≤ w.addr) (hhigh : w.addr + w.pay.length ≤ 0x20C) : registersWritten s w = writeEvents s w := by
  rw [registersWritten_low s (by omega), writeSelects_missed, writeProbe_missed _ (.inr (by omega)),
    writeInject_missed _ (.inr (by omega)) (.inr (by omega))]
  · exact .inl (by omega)
  · exact .inr (by omega)
  · exact .inr (by omega)
  · exact .inr (by omega)

theorem registersWritten_probe (hlow : 0x2300 ≤ w.addr) (hhigh : w.addr + w.pay.length ≤ 0x2302) : registersWritten s w = writeProbe s w := by
  rw [registersWritten_low s (by omega), writeEvents_missed, writeSelects_missed, writeInject_missed _ (.inr (by omega)) (.inr (by omega))]
  all_goals exact .inl (by omega)

theorem registersWritten_inject (hlow : 0x3100 ≤ w.addr) (hhigh : w.addr + w.pay.length ≤ 0x3103) : registersWritten s w = writeInject s w := by
  rw [registersWritten_low s (by omega), writeEvents_missed, writeSelects_missed, writeProbe_missed]
  all_goals exact .inl (by omega)

theorem registersWritten_port (hlow : 0x5000 ≤ w.addr) : registersWritten s w = writePort (writePort s w 0) w 1 := by
  unfold registersWritten
  rw [writeEvents_missed, writeSelects_missed, writeProbe_missed, writeInject_missed]
  all_goals exact .inl (by omega)

end

/-- The request for port `n` leaves the other port. -/
theorem registersWritten_onPort {w : WriteReq} (s : State) (n : Fin 2) (hlow : controlAddr n ≤ w.addr)
    (hhigh : w.addr + w.pay.length ≤ controlAddr n + 2) : registersWritten s w = writePort s w n := by
  rw [registersWritten_port s (le_trans (Nat.le_add_right _ _) hlow)]
  fin_cases n
  · refine writePort_missed _ (.inr (le_trans hhigh ?_))
    decide
  · rw [writePort_missed s (p := 0)]
    · rfl
    · exact .inl (le_trans (by decide) hlow)

/-! The ranges of single fields. -/

theorem WriteReq.covers_eq (w : WriteReq) (a : Nat) : w.covers a = decide (w.addr ≤ a ∧ a < w.addr + w.pay.length) := by
  rw [Bool.eq_iff_iff, w.covers_iff, decide_eq_true_eq]

theorem WriteReq.byte_first (a : Nat) (p : List Byte) : WriteReq.byte ⟨a, p⟩ a = p.getD 0 0 := by rw [WriteReq.byte, Nat.sub_self]

section
variable {u : State} {p : List Byte}

theorem inRange_view (hl : p.length = 1) : writeInRange u ⟨0x100, p⟩ = decide (u8 p 0 ≤ 0x11) := by
  simp only [writeInRange, WriteReq.covers_eq, WriteReq.touches_eq, controlAddr, hl]
  simp [WriteReq.byte_first, u8]

theorem inRange_bank (hl : p.length = 1) : writeInRange u ⟨0x600, p⟩ = decide (u8 p 0 ≤ 7) := by
  simp only [writeInRange, WriteReq.covers_eq, WriteReq.touches_eq, controlAddr, hl]
  simp [WriteReq.byte_first, u8]

theorem inRange_select (hl : p.length = 1) : writeInRange u ⟨0x10B0, p⟩ = decide (u8 p 0 ≤ 250) := by
  simp only [writeInRange, WriteReq.covers_eq, WriteReq.touches_eq, controlAddr, hl]
  simp [WriteReq.byte_first, u8]

theorem inRange_timeSet (hl : p.length = 7) : writeInRange u ⟨0x440, p⟩ = true := by
  simp only [writeInRange, WriteReq.covers_eq, WriteReq.touches_eq, controlAddr, hl]
  simp

theorem inRange_pending (hl : p.length ≤ 4) : writeInRange u ⟨0x200, p⟩ = true := by
  have hbelow (a : Nat) (ha : a < 0x200 ∨ 0x204 ≤ a) : WriteReq.covers ⟨0x200, p⟩ a = false := by
    rw [WriteReq.covers_eq, decide_eq_false_iff_not]
    dsimp only
    omega
  have htouch (a n : Nat) (ha : 0x204 ≤ a) : WriteReq.touches ⟨0x200, p⟩ a n = false := by
    rw [WriteReq.touches_eq, Bool.and_eq_false_iff, decide_eq_false_iff_not]
    right
    dsimp only
    omega
  simp only [writeInRange, controlAddr]
  simp [hbelow, htouch]

theorem inRange_masks {a : Nat} (hl : p.length = 4) (ha : a = 0x204 ∨ a = 0x208) : writeInRange u ⟨a, p⟩ =
    (BitVec.ofNat 32 (WriteReq.merged ⟨a, p⟩ 0x208 4 u.events.irqMask.toNat) &&&
      ~~~(BitVec.ofNat 32 (WriteReq.merged ⟨a, p⟩ 0x204 4 u.events.queueMask.toNat)) &&& 0x7FFFFFFF == 0) := by
  rcases ha with rfl | rfl
  all_goals
    simp only [writeInRange, WriteReq.covers_eq, WriteReq.touches_eq, controlAddr, hl]
    simp

theorem inRange_probe (hl : p.length = 2) : writeInRange u ⟨0x2300, p⟩ = decide (u16 p 0 ≤ 0x7FF) := by
  have hmerged : WriteReq.merged ⟨0x2300, p⟩ 0x2300 2 u.mere.probe.toNat = u16 p 0 := WriteReq.merged_first _ hl.ge _
  simp only [writeInRange, WriteReq.covers_eq, WriteReq.touches_eq, controlAddr, hl]
  simp [hmerged]

theorem inRange_inject (hl : p.length = 1) : writeInRange u ⟨0x3102, p⟩ = (u8 p 0 == 1 && injectable u.ks.injectCode.toNat) := by
  have hmerged := WriteReq.Misses.merged (w := ⟨0x3102, p⟩) (a := 0x3100) (n := 2) (.inl (le_refl _)) u.ks.injectCode.isLt
  simp only [writeInRange, WriteReq.covers_eq, WriteReq.touches_eq, controlAddr, hl]
  simp [hmerged, WriteReq.byte_first, u8]

theorem inRange_control (n : Fin 2) (hl : p.length = 1) : writeInRange u ⟨controlAddr n, p⟩ = decide (u8 p 0 % 8 ≤ 3) := by
  fin_cases n
  all_goals
    simp only [writeInRange, WriteReq.covers_eq, WriteReq.touches_eq, controlAddr, hl]
    simp [WriteReq.byte_first, u8]

theorem inRange_injections (n : Fin 2) (hl : p.length = 1) : writeInRange u ⟨controlAddr n + 1, p⟩ = (u8 p 0 != 0) := by
  fin_cases n
  all_goals
    simp only [writeInRange, WriteReq.covers_eq, WriteReq.touches_eq, controlAddr, hl]
    simp [WriteReq.byte_first, u8]

end

/-! The states of single fields. -/

section
variable (u : State) (p : List Byte) (n : Fin 2)

theorem writeState_control (hl : p.length = 1) : writeState u ⟨controlAddr n, p⟩ =
    if ((p.getD 0 0 &&& 0x1F).getLsbD 3 || (p.getD 0 0 &&& 0x1F).getLsbD 4) && (u.course.ports[n].timed || remotePort u n) then stBusy else stOk := by
  fin_cases n
  all_goals
    simp only [writeState, controlAfter, WriteReq.covers_eq, controlAddr, hl]
    simp [WriteReq.byte_first]

theorem writeState_injections (hl : p.length = 1) : writeState u ⟨controlAddr n + 1, p⟩ =
    if u.course.ports[n].control.getLsbD 3 = false then stNotInMode else stOk := by
  fin_cases n
  all_goals
    simp only [writeState, controlAfter, WriteReq.covers_eq, controlAddr, hl]
    simp

theorem writePort_control (hl : p.length = 1) (hr : remotePort u n = false) :
    writePort u ⟨controlAddr n, p⟩ n = setControl u n (p.getD 0 0 &&& 0x1F) := by
  have hc : WriteReq.covers ⟨controlAddr n, p⟩ (controlAddr n) = true := (WriteReq.covers_iff _ _).2 ⟨le_refl _, by rw [hl]; exact Nat.lt_succ_self _⟩
  have hi : WriteReq.covers ⟨controlAddr n, p⟩ (controlAddr n + 1) = false :=
    Bool.eq_false_iff.2 fun h => absurd ((WriteReq.covers_iff _ _).1 h).2 (by rw [hl]; exact lt_irrefl _)
  unfold writePort controlAfter
  simp only [hc, hi, hr, WriteReq.byte, Nat.sub_self, Bool.not_false, Bool.and_self, if_true, Bool.false_eq_true, if_false]

theorem writePort_injections (hl : p.length = 1) : writePort u ⟨controlAddr n + 1, p⟩ n =
    portChanged u n fun q => { q with inject := BitVec.ofNat 8 (min 255 (q.inject.toNat + (p.getD 0 0).toNat)) } := by
  have hc : WriteReq.covers ⟨controlAddr n + 1, p⟩ (controlAddr n) = false :=
    Bool.eq_false_iff.2 fun h => absurd ((WriteReq.covers_iff _ _).1 h).1 (Nat.not_succ_le_self _)
  have hi : WriteReq.covers ⟨controlAddr n + 1, p⟩ (controlAddr n + 1) = true := (WriteReq.covers_iff _ _).2 ⟨le_refl _, by rw [hl]; exact Nat.lt_succ_self _⟩
  unfold writePort
  simp only [hc, hi, WriteReq.byte, Nat.sub_self, Bool.false_and, if_true, Bool.false_eq_true, if_false]
  rfl

end

/-! What single fields hold after a request in range. -/

theorem le_one (p : List Byte) (o : Nat) : le p o 1 = (p.getD o 0).toNat := by simp [le, u8]

theorem le_lt (p : List Byte) (o n : Nat) : le p o n < 256 ^ n := by
  induction n generalizing o with
  | zero => exact Nat.one_pos
  | succ n ih =>
    have hb : u8 p o < 256 := (p.getD o 0).isLt
    have hrest := ih (o + 1)
    rw [le, pow_succ]
    omega

theorem writeSelects_of {u : State} {w : WriteReq} {v b x e : Byte} {c : Count48} (hv : w.merged 0x100 1 u.host.view.toNat = v.toNat)
    (hb : w.merged 0x600 1 u.host.bank.toNat = b.toNat) (hx : w.merged 0x10B0 1 u.host.select.toNat = x.toNat)
    (hc : w.merged 0x440 6 u.time.setCount.toNat = c.toNat) (he : w.merged 0x446 1 u.time.setEra.toNat = e.toNat) :
    writeSelects u w = { u with host := { u.host with view := v, bank := b, select := x }, time := { u.time with setCount := c, setEra := e } } := by
  unfold writeSelects
  dsimp only
  rw [hv, hb, hx, hc, he]
  simp only [BitVec.ofNat_toNat, BitVec.setWidth_eq]

section
variable (u : State) {p : List Byte}

theorem writeSelects_view (hl : p.length = 1) : writeSelects u ⟨0x100, p⟩ = { u with host := { u.host with view := p.getD 0 0 } } := by
  have hv : WriteReq.merged ⟨0x100, p⟩ 0x100 1 u.host.view.toNat = (p.getD 0 0).toNat := (WriteReq.merged_first _ hl.ge _).trans (le_one p 0)
  refine writeSelects_of hv (WriteReq.Misses.merged ?_ u.host.bank.isLt) (WriteReq.Misses.merged ?_ u.host.select.isLt)
    (WriteReq.Misses.merged ?_ u.time.setCount.isLt) (WriteReq.Misses.merged ?_ u.time.setEra.isLt)
  all_goals
    rw [WriteReq.misses_iff, hl]
    decide

theorem writeSelects_bank (hl : p.length = 1) : writeSelects u ⟨0x600, p⟩ = { u with host := { u.host with bank := p.getD 0 0 } } := by
  have hb : WriteReq.merged ⟨0x600, p⟩ 0x600 1 u.host.bank.toNat = (p.getD 0 0).toNat := (WriteReq.merged_first _ hl.ge _).trans (le_one p 0)
  refine writeSelects_of (WriteReq.Misses.merged ?_ u.host.view.isLt) hb (WriteReq.Misses.merged ?_ u.host.select.isLt)
    (WriteReq.Misses.merged ?_ u.time.setCount.isLt) (WriteReq.Misses.merged ?_ u.time.setEra.isLt)
  all_goals
    rw [WriteReq.misses_iff, hl]
    decide

theorem writeSelects_select (hl : p.length = 1) : writeSelects u ⟨0x10B0, p⟩ = { u with host := { u.host with select := p.getD 0 0 } } := by
  have hx : WriteReq.merged ⟨0x10B0, p⟩ 0x10B0 1 u.host.select.toNat = (p.getD 0 0).toNat := (WriteReq.merged_first _ hl.ge _).trans (le_one p 0)
  refine writeSelects_of (WriteReq.Misses.merged ?_ u.host.view.isLt) (WriteReq.Misses.merged ?_ u.host.bank.isLt) hx
    (WriteReq.Misses.merged ?_ u.time.setCount.isLt) (WriteReq.Misses.merged ?_ u.time.setEra.isLt)
  all_goals
    rw [WriteReq.misses_iff, hl]
    decide

theorem writeSelects_timeSet (hl : p.length = 7) : writeSelects u ⟨0x440, p⟩ =
    { u with time := { u.time with setCount := BitVec.ofNat 48 (le p 0 6), setEra := p.getD 6 0 } } := by
  have hc : WriteReq.merged ⟨0x440, p⟩ 0x440 6 u.time.setCount.toNat = (BitVec.ofNat 48 (le p 0 6)).toNat := by
    rw [WriteReq.merged_first _ (by rw [hl]; decide), BitVec.toNat_ofNat]
    exact (Nat.mod_eq_of_lt (le_lt p 0 6)).symm
  have he : WriteReq.merged ⟨0x440, p⟩ 0x446 1 u.time.setEra.toNat = (p.getD 6 0).toNat := by
    rw [WriteReq.merged_covered (show 0x440 ≤ 0x446 by decide) (by rw [hl])]
    exact le_one p 6
  refine writeSelects_of (WriteReq.Misses.merged ?_ u.host.view.isLt) (WriteReq.Misses.merged ?_ u.host.bank.isLt)
    (WriteReq.Misses.merged ?_ u.host.select.isLt) hc he
  all_goals
    rw [WriteReq.misses_iff, hl]
    decide

theorem writeEvents_of {w : WriteReq} {q m : BitVec 32} {n : Nat} (hp : w.merged 0x200 4 0 = n) (hq : w.merged 0x204 4 u.events.queueMask.toNat = q.toNat)
    (hm : w.merged 0x208 4 u.events.irqMask.toNat = m.toNat) : writeEvents u w = { u with events := { u.events with
      pending := u.events.pending &&& ~~~(BitVec.ofNat 32 n), queueMask := q, irqMask := m } } := by
  unfold writeEvents
  dsimp only
  rw [hp, hq, hm]
  simp only [BitVec.ofNat_toNat, BitVec.setWidth_eq]

end

theorem requestAnswered_refused {u : State} {w : WriteReq} (h : writeInRange u w = false) : requestAnswered u w = (stBadArg, u) := if_pos h

theorem requestAnswered_state {u : State} {w : WriteReq} (h : writeInRange u w = true) (hs : writeState u w ≠ stOk) :
    requestAnswered u w = (writeState u w, u) := (if_neg (by rw [h]; decide)).trans (if_pos hs)

theorem requestAnswered_ok {u : State} {w : WriteReq} (h : writeInRange u w = true) (hs : writeState u w = stOk) :
    requestAnswered u w = (stOk, registersWritten u w) := (if_neg (by rw [h]; decide)).trans (if_neg (not_not.2 hs))

/-- A WRITE that the port takes, with what becomes of its request. -/
theorem writeFrame_next {s : State} {f : HostFrame} {addr : Nat} {st : Byte} {x : State} (h : WriteReady s f addr [])
    (e : writeRegs (sessionActivity s) addr (framePayload f f.payload) = (st, x)) :
    (Host.Outcome.next (writeFrame s f addr [] writeRegs) : Host.Outcome State Fault Refusal) = .next (answer x f st) := by
  rw [writeFrame_ready h, show fixBytes f.payload [] = f.payload from rfl, e]

/-- The reserved bits of a control byte do not enter its pattern (R6). -/
theorem control_pattern : ∀ c : Byte, (c &&& 0x1F).toNat % 8 = c.toNat % 8 := by decide

/-- A fault injected as the trigger is written (R762): as a real one, but for its masking action and SAFE. -/
theorem injectFault_new {u : State} {k : Fin 28} (h : faultActive u k = false) :
    injectFault u k = { u with freeCount := (injectFault u k).freeCount, ks := (injectFault u k).ks, events := (injectFault u k).events
                               log := (injectFault u k).log } ∧
      faultActive (injectFault u k) k = true ∧ (injectFault u k).ks.injected = u.ks.injected ++ [k] ∧
      (injectFault u k).events.pending.getLsbD (faultEvent k).val = true ∧ (injectFault u k).ks.index = u.ks.index + 1 := by
  have hinject : ∃ arg evArg masked, injectFault u k =
      (let x := recordFault (drawFree u).2 k arg evArg masked
       { x with ks := { x.ks with injected := x.ks.injected ++ [k], injectClk := x.ks.injectClk.set k.val x.clk } } : State) :=
    ⟨_, _, _, if_neg (by rw [h]; decide)⟩
  obtain ⟨arg, evArg, masked, hinject⟩ := hinject
  obtain ⟨hlog, hevent, -⟩ := recordFault_new (drawFree u).2 k arg evArg masked h
  generalize recordFault (drawFree u).2 k arg evArg masked = y at hinject hlog hevent
  unfold LogOnly at hlog
  have hks : y.ks = ksWith u.ks u.clk k (faultEntry (drawFree u).2 k arg masked) := congrArg State.ks hlog
  rw [hinject]
  dsimp only
  refine ⟨?_, ?_, ?_, hevent, ?_⟩
  · rw [hlog]
    rfl
  · show y.ks.active.getLsbD k.val = true
    rw [hks]
    have hk := k.isLt
    simp only [ksWith, BitVec.getLsbD_or, BitVec.getLsbD_ofNat, Nat.testBit_two_pow_self, Bool.and_true, Bool.or_eq_true, decide_eq_true_eq]
    exact .inr (by omega)
  · rw [hks]
    rfl
  · rw [hks]
    rfl

end Sys2Proof.Machine

namespace Sys2Proof.Machine

/-! RegisterWrites, row by row (R664, R684, R688, R704, R706, R709, R762, R799, R802, R808). -/

/-- The bytes of a request that begins at a writable field of that length are writable. -/
theorem one_writable {a : Nat} {p : List Byte} (ha : writable a = true) (hl : p.length = 1) : ∀ i, i < p.length → writable (a + i) = true := by
  intro i hi
  obtain rfl : i = 0 := by omega
  exact ha

theorem one_notDiag {a : Nat} {p : List Byte} (ha : diagByte a = false) (hl : p.length = 1) : ∀ i, i < p.length → diagByte (a + i) = false := by
  intro i hi
  obtain rfl : i = 0 := by omega
  exact ha

section
variable {u : State} {p : List Byte}

/-- Requests for a single field of scope DIAG. -/
theorem writeRegs_diagLocked {a : Nat} (hw : ∀ i, i < p.length → writable (a + i) = true) (hd : diagByte a = true) (hl : 0 < p.length)
    (hs : hasDiag u = false) : writeRegs u a p = (stLocked, u) := writeRegs_locked hw ⟨0, hl, hd⟩ hs

theorem writeRegs_view (hl : p.length = 1) : writeRegs u 0x100 p =
    if u8 p 0 ≤ 0x11 then (stOk, { u with host := { u.host with view := p.getD 0 0 } }) else (stBadArg, u) := by
  rw [writeRegs_open (one_writable (by decide) hl) (.inl (one_notDiag (by decide) hl))]
  have hr := inRange_view (u := u) hl
  split
  next h =>
    rw [requestAnswered_ok (hr.trans (decide_eq_true h)) (writeState_missed u (by dsimp only; omega)),
      registersWritten_select u (by dsimp only; omega) (by rw [WriteReq.misses_iff, hl]; decide), writeSelects_view u hl]
  next h => exact requestAnswered_refused (hr.trans (decide_eq_false h))

theorem writeRegs_bank (hl : p.length = 1) : writeRegs u 0x600 p =
    if u8 p 0 ≤ 7 then (stOk, { u with host := { u.host with bank := p.getD 0 0 } }) else (stBadArg, u) := by
  rw [writeRegs_open (one_writable (by decide) hl) (.inl (one_notDiag (by decide) hl))]
  have hr := inRange_bank (u := u) hl
  split
  next h =>
    rw [requestAnswered_ok (hr.trans (decide_eq_true h)) (writeState_missed u (by dsimp only; omega)),
      registersWritten_select u (by dsimp only; omega) (by rw [WriteReq.misses_iff, hl]; decide), writeSelects_bank u hl]
  next h => exact requestAnswered_refused (hr.trans (decide_eq_false h))

theorem writeRegs_select (hl : p.length = 1) : writeRegs u 0x10B0 p =
    if u8 p 0 ≤ 250 then (stOk, { u with host := { u.host with select := p.getD 0 0 } }) else (stBadArg, u) := by
  rw [writeRegs_open (one_writable (by decide) hl) (.inl (one_notDiag (by decide) hl))]
  have hr := inRange_select (u := u) hl
  split
  next h =>
    rw [requestAnswered_ok (hr.trans (decide_eq_true h)) (writeState_missed u (by dsimp only; omega)),
      registersWritten_select u (by dsimp only; omega) (by rw [WriteReq.misses_iff, hl]; decide), writeSelects_select u hl]
  next h => exact requestAnswered_refused (hr.trans (decide_eq_false h))

theorem writeRegs_timeSet (hl : p.length = 7) : writeRegs u 0x440 p =
    (stOk, { u with time := { u.time with setCount := BitVec.ofNat 48 (le p 0 6), setEra := p.getD 6 0 } }) := by
  have hw : ∀ i, i < p.length → writable (0x440 + i) = true := by rw [hl]; decide
  have hd : ∀ i, i < p.length → diagByte (0x440 + i) = false := by rw [hl]; decide
  rw [writeRegs_open hw (.inl hd), requestAnswered_ok (inRange_timeSet hl) (writeState_missed u (by dsimp only; omega)),
    registersWritten_select u (by dsimp only; omega) (by rw [WriteReq.misses_iff, hl]; decide), writeSelects_timeSet u hl]

theorem writeRegs_pending (hl : p.length ≤ 4) : writeRegs u 0x200 p = (stOk, { u with events := { u.events with
    pending := u.events.pending &&& ~~~(BitVec.ofNat 32 (le p 0 p.length)) } }) := by
  have hfour : ∀ i : Fin 4, writable (0x200 + i.val) = true ∧ diagByte (0x200 + i.val) = false := by decide
  have hw : ∀ i, i < p.length → writable (0x200 + i) = true := fun i hi => (hfour ⟨i, by omega⟩).1
  have hd : ∀ i, i < p.length → diagByte (0x200 + i) = false := fun i hi => (hfour ⟨i, by omega⟩).2
  have hhigh : 0x200 + p.length ≤ 0x20C := by omega
  rw [writeRegs_open hw (.inl hd), requestAnswered_ok (inRange_pending hl) (writeState_missed u (le_trans hhigh (by decide))),
    registersWritten_event u (le_refl _) hhigh]
  exact congrArg (Prod.mk stOk) (writeEvents_of u (WriteReq.merged_zero ⟨0x200, p⟩ hl)
    (WriteReq.Misses.merged (.inr (by dsimp only; omega)) u.events.queueMask.isLt)
    (WriteReq.Misses.merged (.inr (by dsimp only; omega)) u.events.irqMask.isLt))

/-- The bytes of the event masks lie in no scope. -/
theorem mask_bytes {a : Nat} (ha : a = 0x204 ∨ a = 0x208) (hl : p.length = 4) :
    (∀ i, i < p.length → writable (a + i) = true) ∧ ∀ i, i < p.length → diagByte (a + i) = false := by
  rw [hl]
  rcases ha with rfl | rfl <;> decide

theorem u32_toNat (p : List Byte) : (BitVec.ofNat 32 (u32 p 0)).toNat = u32 p 0 := by
  rw [BitVec.toNat_ofNat]
  exact Nat.mod_eq_of_lt (le_lt p 0 4)

theorem writeRegs_queueMask (hl : p.length = 4) : writeRegs u 0x204 p =
    if u.events.irqMask &&& ~~~(BitVec.ofNat 32 (u32 p 0)) &&& 0x7FFFFFFF = 0
    then (stOk, { u with events := { u.events with queueMask := BitVec.ofNat 32 (u32 p 0) } }) else (stBadArg, u) := by
  obtain ⟨hw, hd⟩ := mask_bytes (.inl rfl) hl
  have hq : WriteReq.merged ⟨0x204, p⟩ 0x204 4 u.events.queueMask.toNat = u32 p 0 := WriteReq.merged_first _ hl.ge _
  have hm : WriteReq.merged ⟨0x204, p⟩ 0x208 4 u.events.irqMask.toNat = u.events.irqMask.toNat :=
    WriteReq.Misses.merged (by rw [WriteReq.misses_iff, hl]; decide) u.events.irqMask.isLt
  have hp : WriteReq.merged ⟨0x204, p⟩ 0x200 4 0 = 0 := WriteReq.Misses.merged (by rw [WriteReq.misses_iff, hl]; decide) (by decide)
  have hr := inRange_masks (u := u) hl (.inl rfl)
  rw [hq, hm, BitVec.ofNat_toNat, BitVec.setWidth_eq] at hr
  rw [writeRegs_open hw (.inl hd)]
  split
  next h =>
    rw [requestAnswered_ok (hr.trans (beq_iff_eq.2 h)) (writeState_missed u (by dsimp only; omega)),
      registersWritten_event u (by dsimp only; omega) (by dsimp only; omega), writeEvents_of u hp (hq.trans (u32_toNat p).symm) hm]
    have hkept : u.events.pending &&& ~~~(BitVec.ofNat 32 0) = u.events.pending := BitVec.and_allOnes
    rw [hkept]
  next h => exact requestAnswered_refused (hr.trans (beq_eq_false_iff_ne.2 h))

theorem writeRegs_irqMask (hl : p.length = 4) : writeRegs u 0x208 p =
    if BitVec.ofNat 32 (u32 p 0) &&& ~~~u.events.queueMask &&& 0x7FFFFFFF = 0
    then (stOk, { u with events := { u.events with irqMask := BitVec.ofNat 32 (u32 p 0) } }) else (stBadArg, u) := by
  obtain ⟨hw, hd⟩ := mask_bytes (.inr rfl) hl
  have hm : WriteReq.merged ⟨0x208, p⟩ 0x208 4 u.events.irqMask.toNat = u32 p 0 := WriteReq.merged_first _ hl.ge _
  have hq : WriteReq.merged ⟨0x208, p⟩ 0x204 4 u.events.queueMask.toNat = u.events.queueMask.toNat :=
    WriteReq.Misses.merged (by rw [WriteReq.misses_iff, hl]; decide) u.events.queueMask.isLt
  have hp : WriteReq.merged ⟨0x208, p⟩ 0x200 4 0 = 0 := WriteReq.Misses.merged (by rw [WriteReq.misses_iff, hl]; decide) (by decide)
  have hr := inRange_masks (u := u) hl (.inr rfl)
  rw [hq, hm, BitVec.ofNat_toNat (x := u.events.queueMask), BitVec.setWidth_eq] at hr
  rw [writeRegs_open hw (.inl hd)]
  split
  next h =>
    rw [requestAnswered_ok (hr.trans (beq_iff_eq.2 h)) (writeState_missed u (by dsimp only; omega)),
      registersWritten_event u (by dsimp only; omega) (by dsimp only; omega), writeEvents_of u hp hq (hm.trans (u32_toNat p).symm)]
    have hkept : u.events.pending &&& ~~~(BitVec.ofNat 32 0) = u.events.pending := BitVec.and_allOnes
    rw [hkept]
  next h => exact requestAnswered_refused (hr.trans (beq_eq_false_iff_ne.2 h))

theorem writeRegs_probe (hl : p.length = 2) : writeRegs u 0x2300 p =
    if hasDiag u = false then (stLocked, u)
    else if 0x7FF < u16 p 0 then (stBadArg, u)
    else (stOk, { u with mere := { u.mere with probe := BitVec.ofNat 16 (u16 p 0), snapshot := none, probeWanted := true } }) := by
  have hw : ∀ i, i < p.length → writable (0x2300 + i) = true := by rw [hl]; decide
  have hr := inRange_probe (u := u) hl
  split
  next hs => exact writeRegs_diagLocked hw (by decide) (by omega) hs
  next hs =>
    rw [writeRegs_open hw (.inr (by simpa using hs))]
    split
    next h => exact requestAnswered_refused (hr.trans (decide_eq_false (not_le.2 h)))
    next h =>
      rw [requestAnswered_ok (hr.trans (decide_eq_true (not_lt.1 h))) (writeState_missed u (by dsimp only; omega)),
        registersWritten_probe u (le_refl _) (by rw [hl])]
      have hm : WriteReq.merged ⟨0x2300, p⟩ 0x2300 2 u.mere.probe.toNat = u16 p 0 := WriteReq.merged_first _ hl.ge _
      refine congrArg (Prod.mk stOk) ((if_pos ?_).trans (by rw [hm]))
      rw [WriteReq.touches_eq, hl]
      rfl

end

section
variable {u : State} {p : List Byte} (hl : p.length = 1)
include hl

theorem writeRegs_injectLocked (hs : hasDiag u = false) : writeRegs u 0x3102 p = (stLocked, u) :=
  writeRegs_diagLocked (one_writable (by decide) hl) (by decide) (by omega) hs

theorem writeRegs_injectRefused (hs : hasDiag u = true) (h : u8 p 0 ≠ 1 ∨ injectable u.ks.injectCode.toNat = false) :
    writeRegs u 0x3102 p = (stBadArg, u) := by
  rw [writeRegs_open (one_writable (by decide) hl) (.inr hs)]
  refine requestAnswered_refused ((inRange_inject hl).trans ?_)
  rcases h with h | h
  · rw [beq_eq_false_iff_ne.2 h, Bool.false_and]
  · rw [h, Bool.and_false]

theorem writeRegs_injected (hs : hasDiag u = true) (h1 : u8 p 0 = 1) (hi : injectable u.ks.injectCode.toNat = true) (k : Fin 28)
    (hk : u.ks.injectCode.toNat = k.val) : writeRegs u 0x3102 p = (stOk, injectFault u k) := by
  rw [writeRegs_open (one_writable (by decide) hl) (.inr hs), requestAnswered_ok ((inRange_inject hl).trans (by rw [h1, hi]; rfl))
    (writeState_missed u (by dsimp only; omega)), registersWritten_inject u (by dsimp only; omega) (by rw [hl])]
  refine congrArg (Prod.mk stOk) ?_
  have hm : WriteReq.merged ⟨0x3102, p⟩ 0x3100 2 u.ks.injectCode.toNat = u.ks.injectCode.toNat :=
    WriteReq.Misses.merged (.inl (le_refl _)) u.ks.injectCode.isLt
  have hc : WriteReq.covers ⟨0x3102, p⟩ 0x3102 = true := (WriteReq.covers_iff _ _).2 ⟨le_refl _, by rw [hl]; exact Nat.lt_succ_self _⟩
  unfold writeInject
  dsimp only
  rw [hm, hc, if_pos rfl, BitVec.ofNat_toNat, BitVec.setWidth_eq, dif_pos (by rw [hk]; exact k.isLt)]
  have hcode : (⟨u.ks.injectCode.toNat, by rw [hk]; exact k.isLt⟩ : Fin 28) = k := Fin.ext hk
  rw [hcode]

variable (n : Fin 2)

theorem control_writable : ∀ i, i < p.length → writable (controlAddr n + i) = true :=
  one_writable (by fin_cases n <;> decide) hl

theorem injections_writable : ∀ i, i < p.length → writable (controlAddr n + 1 + i) = true :=
  one_writable (by fin_cases n <;> decide) hl

theorem writeRegs_controlLocked (hs : hasDiag u = false) : writeRegs u (controlAddr n) p = (stLocked, u) :=
  writeRegs_diagLocked (control_writable hl n) (by fin_cases n <;> decide) (by omega) hs

theorem writeRegs_injectionsLocked (hs : hasDiag u = false) : writeRegs u (controlAddr n + 1) p = (stLocked, u) :=
  writeRegs_diagLocked (injections_writable hl n) (by fin_cases n <;> decide) (by omega) hs

/-- A control byte whose scope is open: its pattern, then the port's test, then the byte itself. -/
theorem writeRegs_control (hs : hasDiag u = true) : writeRegs u (controlAddr n) p =
    if 3 < (p.getD 0 0 &&& 0x1F).toNat % 8 then (stBadArg, u)
    else if (((p.getD 0 0 &&& 0x1F).getLsbD 3 || (p.getD 0 0 &&& 0x1F).getLsbD 4) && (u.course.ports[n].timed || remotePort u n)) = true
      then (stBusy, u)
    else (stOk, writePort u ⟨controlAddr n, p⟩ n) := by
  rw [writeRegs_open (control_writable hl n) (.inr hs), control_pattern]
  have hr := inRange_control (u := u) n hl
  have hst := writeState_control u p n hl
  split
  next h => exact requestAnswered_refused (hr.trans (decide_eq_false (not_le.2 h)))
  next h =>
    have hr := hr.trans (decide_eq_true (not_lt.1 h))
    split
    next hb =>
      rw [if_pos hb] at hst
      rw [requestAnswered_state hr (by rw [hst]; decide), hst]
    next hb =>
      rw [if_neg hb] at hst
      rw [requestAnswered_ok hr hst, registersWritten_onPort u n (le_refl _) (by dsimp only; omega)]

theorem writeRegs_injections (hs : hasDiag u = true) : writeRegs u (controlAddr n + 1) p =
    if p.getD 0 0 = 0 then (stBadArg, u)
    else if u.course.ports[n].control.getLsbD 3 = false then (stNotInMode, u)
    else (stOk, portChanged u n fun q => { q with inject := BitVec.ofNat 8 (min 255 (q.inject.toNat + (p.getD 0 0).toNat)) }) := by
  rw [writeRegs_open (injections_writable hl n) (.inr hs)]
  have hr := inRange_injections (u := u) n hl
  have hst := writeState_injections u p n hl
  split
  next h => exact requestAnswered_refused (hr.trans (by rw [u8, h]; rfl))
  next h =>
    have hr := hr.trans (bne_iff_ne.2 fun h0 => h (BitVec.eq_of_toNat_eq h0))
    split
    next hg =>
      rw [if_pos hg] at hst
      rw [requestAnswered_state hr (by rw [hst]; decide), hst]
    next hg =>
      rw [if_neg hg] at hst
      rw [requestAnswered_ok hr hst, registersWritten_onPort u n (Nat.le_succ _) (by rw [hl]), writePort_injections u p n hl]

end

/-- Settles O53: each row is a WRITE at its address, whose request is refused or applied whole. -/
theorem registerWrites : Obligations.RegisterWrites := by
  unfold Obligations.RegisterWrites
  refine ⟨fun s f h => ?anyAddress, fun s f => ?single, fun s n f => ?ports⟩
  case anyAddress =>
    intro u p a
    refine ⟨fun hw => writeFrame_next h (writeRegs_notWritable hw), fun hw hd hs => writeFrame_next h (writeRegs_locked hw hd hs), fun ha hl => ?_,
      fun ha hl => ?_, fun ha hl => ?_, fun ha hl => ?_⟩
    all_goals
      have ha : f.address.toNat = _ := ha
      refine (congrArg Host.Outcome.next (congrArg (fun a => writeFrame s f a [] writeRegs) ha)).trans ?_
      rw [ha] at h
    · split
      next hr => exact writeFrame_next h ((writeRegs_view hl).trans (if_pos hr))
      next hr => exact writeFrame_next h ((writeRegs_view hl).trans (if_neg hr))
    · split
      next hr => exact writeFrame_next h ((writeRegs_bank hl).trans (if_pos hr))
      next hr => exact writeFrame_next h ((writeRegs_bank hl).trans (if_neg hr))
    · split
      next hr => exact writeFrame_next h ((writeRegs_select hl).trans (if_pos hr))
      next hr => exact writeFrame_next h ((writeRegs_select hl).trans (if_neg hr))
    · exact writeFrame_next h (writeRegs_timeSet hl)
  case single =>
    intro u p
    refine ⟨fun h hl => writeFrame_next h (writeRegs_pending hl), fun h hl => ?_, fun h hl => ?_, fun h hl => ?_, fun h hl => ?_⟩
    · intro q
      split
      next hr => exact writeFrame_next h ((writeRegs_queueMask hl).trans (if_pos hr))
      next hr => exact writeFrame_next h ((writeRegs_queueMask hl).trans (if_neg hr))
    · intro q
      split
      next hr => exact writeFrame_next h ((writeRegs_irqMask hl).trans (if_pos hr))
      next hr => exact writeFrame_next h ((writeRegs_irqMask hl).trans (if_neg hr))
    · have hprobe := writeRegs_probe (u := u) hl
      split
      next hs => exact writeFrame_next h (hprobe.trans (if_pos hs))
      next hs =>
        split
        next hr => exact writeFrame_next h (hprobe.trans ((if_neg hs).trans (if_pos hr)))
        next hr => exact writeFrame_next h (hprobe.trans ((if_neg hs).trans (if_neg hr)))
    · intro c
      exact ⟨fun hs => writeFrame_next h (writeRegs_injectLocked hl hs), fun hs hbad => writeFrame_next h (writeRegs_injectRefused hl hs hbad),
        fun k hs h1 hi hk hnew => ⟨_, writeFrame_next h (writeRegs_injected hl hs h1 hi k hk), injectFault_new hnew⟩⟩
  case ports =>
    intro u p port c
    refine ⟨fun h hl => ?_, fun h hl => ?_⟩
    · intro c
      have hcontrol (hs : hasDiag u = true) := writeRegs_control (u := u) hl n hs
      refine ⟨fun hs => writeFrame_next h (writeRegs_controlLocked hl n hs), fun hs hp => writeFrame_next h ((hcontrol hs).trans (if_pos hp)),
        fun hs hp hon hin => ?_, fun hs hp hout hr => ?_⟩
      · refine writeFrame_next h ((hcontrol hs).trans ((if_neg (not_lt.2 hp)).trans (if_pos ?_)))
        rw [Bool.and_eq_true, Bool.or_eq_true, Bool.or_eq_true]
        exact ⟨hon, hin⟩
      · have hfree : ¬((c.getLsbD 3 || c.getLsbD 4) && (port.timed || remotePort u n)) = true := by
          rcases hout with ht | ⟨h3, h4⟩
          · rw [ht, hr, Bool.or_false, Bool.and_false]
            decide
          · rw [h3, h4, Bool.or_false, Bool.false_and]
            decide
        obtain ⟨hset, henabled, htxq, hinject, -⟩ := putControl_port c (Config.freeWord u.freeCount).toNat port
        refine ⟨putControl c (Config.freeWord u.freeCount).toNat port, ?_, hset, henabled, htxq, hinject, fun h4 hoff => putControl_checkerStarts _ h4 hoff,
          fun h4 => putControl_checkerOff _ _ h4⟩
        refine writeFrame_next h ((hcontrol hs).trans ((if_neg (not_lt.2 hp)).trans ((if_neg hfree).trans ?_)))
        rw [writePort_control u p n hl hr]
        rfl
    · have hinject (hs : hasDiag u = true) := writeRegs_injections (u := u) hl n hs
      exact ⟨fun hs => writeFrame_next h (writeRegs_injectionsLocked hl n hs), fun hs hz => writeFrame_next h ((hinject hs).trans (if_pos hz)),
        fun hs hz hg => writeFrame_next h ((hinject hs).trans ((if_neg hz).trans (if_pos hg))),
        fun hs hz hg => writeFrame_next h ((hinject hs).trans ((if_neg hz).trans (if_neg (by rw [hg]; decide))))⟩

end Sys2Proof.Machine

namespace Sys2Proof.Machine

/-! Alarm acknowledgement (R727, R728) and remote register reads (R631, R667 - R669). -/

theorem nodeOf_some {s : State} {d : Nat} {n : Node} (h : nodeOf s d = some n) : n ∈ s.course.nodes ∧ n.addr.toNat = d :=
  ⟨List.mem_of_find?_eq_some h, eq_of_beq (List.find?_some (p := fun n : Node => n.addr.toNat == d) h)⟩

/-- An operation that the head refuses counts at its node, and changes nothing else of the nodes' states. -/
theorem refused_counts {s : State} {d : Nat} {n : Node} (h : nodeOf s d = some n) :
    refused s d = { s with course := { s.course with nodes := (refused s d).course.nodes } } ∧
      ∃ m ∈ (refused s d).course.nodes, m.addr = n.addr ∧ m.counts[(4 : Fin 9)] = sat16Add n.counts[(4 : Fin 9)] 1 := by
  obtain ⟨hmem, rfl⟩ := nodeOf_some h
  refine ⟨rfl, countNode n 4 1, modNode_mem hmem _, rfl, ?_⟩
  exact (vmod_get n.counts 4 4 _).trans (if_pos rfl)

/-- What REMOTE_REGISTER_READ with the arguments `a` does at the node it names. -/
def remoteReadOn (u : State) (a : List Byte) (x : Node) : Byte × State :=
  if x.state = .parkedIncompatible then (stIncompatible, u)
  else if x.state ≠ .joined then (stUnknownVcn, u)
  else if u.course.rrPending = true ∨ 16 ≤ u.course.service.length then (stBusy, refused u (u8 a 0))
  else if 16 ≤ u.course.noService[x.side] then (stCapacity, refused { u with course := { u.course with overloadNow := true } } (u8 a 0))
  else (stOk, { u with course := { u.course with
    service := u.course.service ++ [.statusRead x.addr (BitVec.ofNat 16 (u16 a 2)) (BitVec.ofNat 16 (u16 a 4))]
    rrNode := x.addr, rrDone := false, rrPending := true, rrStatus := 0, rrAddr := BitVec.ofNat 16 (u16 a 2)
    rrLen := BitVec.ofNat 16 (u16 a 4), rrData := [] } })

/-- The arguments of a remote read that no node can take. -/
def BadRemoteRead (a : List Byte) : Prop := u8 a 0 = 0 ∨ u8 a 0 = 255 ∨ u8 a 1 ≠ 0 ∨ u16 a 4 = 0 ∨ 232 < u16 a 4 ∨ u16 a 6 ≠ 0

section
variable {s : State} {f : HostFrame} (h : CommandReady s f 0x0B [] 8)
include h

theorem execRemoteRegisterRead_pod (hr : (sessionActivity s).role = .pod) :
    exec (.remoteRegisterRead f) s = .next (replied (sessionActivity s) f 0x0B stNotInMode) :=
  commandFrame_next _ _ h rfl rfl rfl (if_pos (by rw [hr]; rfl))

variable (hr : (sessionActivity s).role = .head)
include hr

theorem execRemoteRegisterRead_bad (hb : BadRemoteRead (commandArgs f 0x0B [])) :
    exec (.remoteRegisterRead f) s = .next (replied (sessionActivity s) f 0x0B stBadArg) := by
  refine commandFrame_next _ _ h rfl rfl rfl ((if_neg (by rw [hr]; decide)).trans (if_pos ?_))
  simp only [Bool.or_eq_true, decide_eq_true_eq, bne_iff_ne, or_assoc]
  exact hb

variable (hb : ¬ BadRemoteRead (commandArgs f 0x0B []))
include hb

theorem execRemoteRegisterRead_unknown (hn : nodeOf (sessionActivity s) (u8 (commandArgs f 0x0B []) 0) = none) :
    exec (.remoteRegisterRead f) s = .next (replied (sessionActivity s) f 0x0B stUnknownVcn) := by
  refine commandFrame_next _ _ h rfl rfl rfl ((if_neg (by rw [hr]; decide)).trans ((if_neg ?_).trans ?_))
  · simp only [Bool.or_eq_true, decide_eq_true_eq, bne_iff_ne, or_assoc]
    exact hb
  · simp only [hn]

theorem execRemoteRegisterRead_node {n : Node} {st : Byte} {x : State}
    (hn : nodeOf (sessionActivity s) (u8 (commandArgs f 0x0B []) 0) = some n)
    (e : remoteReadOn (sessionActivity s) (commandArgs f 0x0B []) n = (st, x)) :
    exec (.remoteRegisterRead f) s = .next (replied x f 0x0B st) := by
  refine commandFrame_next _ _ h rfl rfl rfl ((if_neg (by rw [hr]; decide)).trans ((if_neg ?_).trans (.trans ?_ e)))
  · simp only [Bool.or_eq_true, decide_eq_true_eq, bne_iff_ne, or_assoc]
    exact hb
  · simp only [hn, remoteReadOn, Bool.or_eq_true, bne_iff_ne, decide_eq_true_eq]

end

/-- Settles O54: the acknowledged entries, then the refusals of a remote read in the order of `remoteReadOn`. -/
theorem alarmLogAndRemoteReads : Obligations.AlarmLogAndRemoteReads := by
  refine ⟨fun s f h => ⟨fun hb => ?_, fun hb => ?_⟩, fun s f h => ⟨execRemoteRegisterRead_pod h, execRemoteRegisterRead_bad h, fun hr hb => ?remote⟩⟩
  · exact commandFrame_next _ _ h rfl rfl rfl (if_pos hb)
  · exact ⟨_, commandFrame_next _ _ h rfl rfl rfl (if_neg (by rw [hb]; exact Bool.false_ne_true)), rfl⟩
  case remote =>
    refine ⟨execRemoteRegisterRead_unknown h hr hb, fun n hn => ?_⟩
    have node {st x} := execRemoteRegisterRead_node (st := st) (x := x) h hr hb hn
    refine ⟨fun hp => node (if_pos hp), fun hp hj => node ((if_neg hp).trans (if_pos hj)), fun hj hbusy => ?_, fun hj hrr hl hs => ?_, fun hj hrr hl hs => ?_⟩
    all_goals
      have hp : n.state ≠ .parkedIncompatible := by rw [hj]; decide
      have joined {st x} e := node (st := st) (x := x) ((if_neg hp).trans ((if_neg (not_not.2 hj)).trans e))
    · obtain ⟨hu, hcount⟩ := refused_counts hn
      exact ⟨_, joined (if_pos hbusy), hu, hcount⟩
    all_goals
      have hfree : ¬((sessionActivity s).course.rrPending = true ∨ 16 ≤ (sessionActivity s).course.service.length) :=
        not_or.2 ⟨by rw [hrr]; exact Bool.false_ne_true, not_le.2 hl⟩
    · obtain ⟨hu, hcount⟩ := refused_counts
        (s := { sessionActivity s with course := { (sessionActivity s).course with overloadNow := true } }) hn
      exact ⟨_, joined ((if_neg hfree).trans (if_pos hs)), hu, hcount⟩
    · exact joined ((if_neg hfree).trans (if_neg (not_le.2 hs)))

end Sys2Proof.Machine

namespace Sys2Proof.Machine

/-! LOG and EVENTS (R679, R681, R682). -/

/-- The entries that a LOG read returns. -/
def logGot (l : List LogEntry) (start : BitVec 32) (n : Nat) : List LogEntry := (l.filter fun e => !(beforeSeq e.seq start)).take n

theorem logGot_from {l : List LogEntry} {start : BitVec 32} {n : Nat} {e : LogEntry} (h : e ∈ logGot l start n) : beforeSeq e.seq start = false := by
  have hf := (List.mem_filter.1 (List.mem_of_mem_take h)).2
  simpa using hf

/-- Behind the eight bytes of its header stand the entries. -/
theorem logData_drop (l : List LogEntry) (start : BitVec 32) (n : Nat) : (logData l start n).drop 8 = (logGot l start n).flatMap logBytes := rfl

theorem logData_count (l : List LogEntry) (start : BitVec 32) (n : Nat) : u16 (logData l start n) 4 = (logGot l start n).length % 65536 := by
  show (BitVec.ofNat 8 (logGot l start n).length).toNat + 256 * ((BitVec.ofNat 8 ((logGot l start n).length / 256)).toNat + 256 * 0) = _
  rw [BitVec.toNat_ofNat, BitVec.toNat_ofNat]
  omega

/-- Bit 0 of the header's flags: entries before the one asked for on are gone. -/
theorem logData_gap (l : List LogEntry) (start : BitVec 32) (n : Nat) :
    bit (u8 (logData l start n) 6) 0 = true ↔ ∃ e, l.head? = some e ∧ beforeSeq start e.seq = true := by
  have hbit (gap fin : Bool) : bit (BitVec.ofNat 8 (flags8 [gap, fin])).toNat 0 = gap := by cases gap <;> cases fin <;> rfl
  refine (Bool.eq_iff_iff.1 (hbit _ _)).trans ?_
  cases l.head? with
  | none => simp
  | some e => simp

section
variable {s : State} {f : HostFrame}

/-- A frame that the port takes and whose body answers `st`, `data` and the effect `e`. -/
theorem dataFrame_answered {op : Byte} {lenOk : Bool} {body : State → List Byte → Byte × List Byte × ReadEffect} (h : DataReady s op f lenOk)
    {st : Byte} {data : List Byte} {e : ReadEffect} (hb : body (expireSessions s) (framePayload f f.payload) = (st, data, e)) :
    (Host.Outcome.next (dataFrame s op f lenOk body) : Host.Outcome State Fault Refusal) = .next (respond (expireSessions s) f st data e) := by
  rw [dataFrame_ready h, hb]

theorem execLog_refused (h : DataReady s 0x05 f (f.length == 8))
    (hb : 1 < u8 (framePayload f f.payload) 0 ∨ u8 (framePayload f f.payload) 1 ≠ 0 ∨ u16 (framePayload f f.payload) 2 = 0 ∨
      127 < u16 (framePayload f f.payload) 2) : exec (.log f) s = .next (answer (expireSessions s) f stBadArg) := by
  refine dataFrame_answered h (if_pos ?_)
  simpa only [Bool.or_eq_true, decide_eq_true_eq, bne_iff_ne, or_assoc] using hb

theorem execLog_taken (h : DataReady s 0x05 f (f.length == 8)) (h0 : u8 (framePayload f f.payload) 0 ≤ 1)
    (h1 : u8 (framePayload f f.payload) 1 = 0) (h2 : 1 ≤ u16 (framePayload f f.payload) 2) (h3 : u16 (framePayload f f.payload) 2 ≤ 127) :
    exec (.log f) s = .next (respond (expireSessions s) f stOk (logData
      (if u8 (framePayload f f.payload) 0 = 0 then (expireSessions s).log.general else (expireSessions s).log.alarm)
      (f32At (framePayload f f.payload) 4) (u16 (framePayload f f.payload) 2)) .none) := by
  refine dataFrame_answered h (if_neg ?_)
  simp only [Bool.or_eq_true, decide_eq_true_eq, bne_iff_ne]
  omega

theorem execEvents_refused (h : DataReady s 0x06 f (f.length == 4))
    (hb : u8 (framePayload f f.payload) 0 = 0 ∨ 32 < u8 (framePayload f f.payload) 0 ∨ zeros (framePayload f f.payload) 1 3 = false) :
    exec (.events f) s = .next (answer (expireSessions s) f stBadArg) := by
  refine dataFrame_answered h (if_pos ?_)
  simpa only [Bool.or_eq_true, decide_eq_true_eq, Bool.not_eq_true', or_assoc] using hb

theorem execEvents_taken (h : DataReady s 0x06 f (f.length == 4)) (h1 : 1 ≤ u8 (framePayload f f.payload) 0)
    (h2 : u8 (framePayload f f.payload) 0 ≤ 32) (h3 : zeros (framePayload f f.payload) 1 3 = true) :
    let m := u8 (framePayload f f.payload) 0
    let e := (expireSessions s).events
    let n := min m e.queue.length
    let ovf := e.overflow && n == e.queue.length && n < m
    exec (.events f) s = .next (respond (expireSessions s) f stOk
      ([BitVec.ofNat 8 (if ovf = true then n + 1 else n), if ovf = true then 1 else 0] ++ toLE 2 (e.queue.length - n) ++
        ((e.queue.take n).flatMap (fun q => eventBytes q.ev.val q.boot q.arg (q.time, q.era)) ++
          if ovf = true then eventBytes 31 false e.lost e.overflowAt else []))
      (.events n (if ovf = true then some e.lost else none))) := by
  refine dataFrame_answered h (if_neg ?_)
  rw [h3]
  simp only [Bool.or_eq_true, decide_eq_true_eq, Bool.not_true, Bool.false_eq_true, or_false]
  omega

end

/-! The end of a frame (R661). -/

section
variable {s : State}

theorem execHostFrameEnd_cut (h : ∀ m, s.host.effect ≠ .timeSet m) :
    exec (.hostFrameEnd false) s = .next { s with host := { s.host with response := [], effect := .none } } := by
  show execHostFrameEnd false s = _
  unfold execHostFrameEnd
  dsimp only
  split
  next m hm => exact absurd hm (h m)
  next => rfl

theorem execHostFrameEnd_complete {e : ReadEffect} (he : s.host.effect = e) (h : ∀ m, e ≠ .timeSet m) :
    exec (.hostFrameEnd true) s = .next (readEffect { s with host := { s.host with response := [], effect := .none } } e) := by
  subst he
  show execHostFrameEnd true s = _
  unfold execHostFrameEnd
  dsimp only
  split
  next m hm => exact absurd hm (h m)
  next => exact congrArg Host.Outcome.next (if_pos rfl)

/-- Events that EV31 told of leave the lost count, and the overflow ends at 0. -/
theorem takeEvents_lost (n : Nat) (k : BitVec 16) : takeEvents s n (some k) = { s with events := { s.events with
    queue := s.events.queue.drop n, irqHold := true, irqClk := s.clk, lost := BitVec.ofNat 16 (s.events.lost.toNat - k.toNat),
    overflow := s.events.overflow && s.events.lost.toNat - k.toNat != 0 } } := by
  have hlost : (BitVec.ofNat 16 (s.events.lost.toNat - k.toNat) != 0) = (s.events.lost.toNat - k.toNat != 0) := by
    have hlt := s.events.lost.isLt
    rw [Bool.eq_iff_iff, bne_iff_ne, bne_iff_ne, not_iff_not, ← BitVec.toNat_inj, BitVec.toNat_ofNat, Nat.mod_eq_of_lt (by omega)]
    rfl
  unfold takeEvents
  dsimp only
  rw [hlost]

/-- A change made to some tarns, which twice is the same as once, is made to exactly these. -/
theorem modTarn_foldl {g : Tarn → Tarn} (hg : ∀ y, g (g y) = g y) (l : List (Fin 8)) (s : State) :
    (l.foldl (fun s t => modTarn s t g) s) =
        { s with mere := { s.mere with tarns := (l.foldl (fun s t => modTarn s t g) s).mere.tarns } } ∧
      ∀ k : Fin 8, (l.foldl (fun s t => modTarn s t g) s).mere.tarns[k] = if k ∈ l then g s.mere.tarns[k] else s.mere.tarns[k] := by
  induction l generalizing s with
  | nil => exact ⟨rfl, fun k => rfl⟩
  | cons t l ih =>
    obtain ⟨hs, ht⟩ := ih (modTarn s t g)
    refine ⟨hs, fun k => (ht k).trans ?_⟩
    have hk : (modTarn s t g).mere.tarns[k] = if t = k then g s.mere.tarns[k] else s.mere.tarns[k] := vmod_get ..
    rw [hk]
    by_cases h1 : t = k
    · rw [if_pos h1, hg, if_pos (List.mem_cons.2 (.inl h1.symm)), ite_self]
    · rw [if_neg h1]
      exact if_congr (by rw [List.mem_cons, or_iff_right (Ne.symm h1)]) rfl rfl

theorem clearMarks_tarns (s : State) (a b : List (Fin 8)) :
    clearMarks s a b = { s with mere := { s.mere with tarns := (clearMarks s a b).mere.tarns } } ∧
      ∀ k : Fin 8, (clearMarks s a b).mere.tarns[k] = { s.mere.tarns[k] with fifoMark := if k ∈ a then 0 else s.mere.tarns[k].fifoMark
                                                                             spikeMark := if k ∈ b then 0 else s.mere.tarns[k].spikeMark } := by
  obtain ⟨hfifo, hf⟩ := modTarn_foldl (g := fun y => { y with fifoMark := 0 }) (fun _ => rfl) a s
  obtain ⟨hspike, hk⟩ := modTarn_foldl (g := fun y => { y with spikeMark := 0 }) (fun _ => rfl) b
    (a.foldl (fun s t => modTarn s t fun y => { y with fifoMark := 0 }) s)
  refine ⟨?_, fun k => (hk k).trans ?_⟩
  · unfold clearMarks
    dsimp only
    rw [hspike, hfifo]
  · rw [hf]
    split <;> split <;> rfl

/-- A pair delivered of a VCN with an entry stands in that entry alone. -/
theorem putDelivered_entry {v : Vcn} {q : BitVec 32 × BitVec 16} {e : VcnEntry} (he : entryOf s v = some e) :
    putDelivered s (v, q) = { s with results := (putDelivered s (v, q)).results } ∧
      entryOf (putDelivered s (v, q)) v = some { e with delivered := some q } ∧ ∀ w, w ≠ v → entryOf (putDelivered s (v, q)) w = entryOf s w := by
  have hput : putDelivered s (v, q) = modEntry s v fun e => { e with delivered := some q } := if_pos (by rw [he]; rfl)
  rw [hput]
  refine ⟨rfl, ?_, fun w hw => (entryOf_modEntry ..).trans (if_neg hw)⟩
  rw [entryOf_modEntry, if_pos rfl, he]
  rfl

theorem putDelivered_beside {v : Vcn} {q : BitVec 32 × BitVec 16} (he : entryOf s v = none) : putDelivered s (v, q) =
    { s with host := { s.host with delivered := (v, q) :: s.host.delivered.filter fun y => y.1 != v } } :=
  if_neg (by rw [he]; exact Bool.false_ne_true)

/-! HIRQn (R684 - R686). -/

theorem hirqnReassert_after (h : s.events.irqClk + 2 ≤ s.clk) : exec .hirqnReassert s = .next { s with events := { s.events with irqHold := false } } :=
  if_neg (by rw [Bool.and_eq_true, decide_eq_true_eq]; exact fun hc => absurd hc.2 (not_lt.2 h))

theorem hirqnReassert_before (h : s.clk < s.events.irqClk + 2) : exec .hirqnReassert s = .next s := by
  cases hh : s.events.irqHold with
  | true => exact if_pos (by rw [hh, decide_eq_true h]; rfl)
  | false =>
    refine (if_neg (by rw [hh]; exact Bool.false_ne_true)).trans (congrArg Host.Outcome.next ?_)
    rw [← hh]

theorem hirqAsserted_iff (s : State) : hirqAsserted s = true ↔ isRunning s = true ∧ s.events.irqHold = false ∧
    ((∃ q ∈ s.events.queue, s.events.irqMask.getLsbD q.ev.val = true) ∨ (s.events.overflow = true ∧ s.events.irqMask.getLsbD 31 = true)) := by
  simp only [hirqAsserted, Bool.and_eq_true, Bool.or_eq_true, Bool.not_eq_true', List.any_eq_true, and_assoc]

theorem hirqLevel_asserted (h : hirqAsserted s = true) : hirqLevel s = some false := if_pos h

theorem hirqLevel_deasserted (h : hirqAsserted s = false) :
    hirqLevel s = if isRunning s = true ∧ cfgPushPull s = true then some true else none := by
  refine (if_neg (by rw [h]; exact Bool.false_ne_true)).trans (if_congr ?_ rfl rfl)
  exact Bool.and_eq_true_iff

end

/-- Settles O52: the rows of LOG and EVENTS, then each read effect at the end of the frame. -/
theorem logEventsFrameEnd : Obligations.LogEventsFrameEnd := by
  refine ⟨fun s f h => ⟨execLog_refused h, execLog_taken h⟩, fun l start n => ?_, fun s f h => ⟨execEvents_refused h, execEvents_taken h⟩,
    fun s complete => ⟨?cut, ?complete⟩, fun s => hirqnReassert_after, fun s => hirqnReassert_before, hirqAsserted_iff,
    fun s => ⟨hirqLevel_asserted, hirqLevel_deasserted⟩⟩
  · exact ⟨logGot l start n, (List.take_sublist _ _).trans List.filter_sublist, List.length_take_le _ _, fun _ => logGot_from,
      logData_drop l start n, logData_count l start n, logData_gap l start n⟩
  case cut =>
    rintro rfl h
    exact execHostFrameEnd_cut h
  case complete =>
    rintro rfl
    refine ⟨fun he => ?_, fun n he => ?_, fun n k he => ?_, fun v q a e he hv => ?_, fun v q a he hv => ?_, fun a b he => ?_⟩ <;>
      have hend := execHostFrameEnd_complete he fun m => by exact nofun
    · exact hend
    · exact hend
    · exact hend.trans (congrArg Host.Outcome.next (takeEvents_lost n k))
    · obtain ⟨ht, hentry, hother⟩ := putDelivered_entry (s := { s with host := { s.host with response := [], effect := .none } }) (q := (q, a)) hv
      exact ⟨_, hend, ht, hentry, hother⟩
    · exact hend.trans (congrArg Host.Outcome.next (putDelivered_beside hv))
    · obtain ⟨ht, htarns⟩ := clearMarks_tarns { s with host := { s.host with response := [], effect := .none } } a b
      exact ⟨_, hend, ht, htarns⟩

end Sys2Proof.Machine

namespace Sys2Proof.Machine

/-! The ECC counts and the scrubber's place (R715 - R717): a fault declared and an entry to SAFE write the log, but not these. -/

/-- Corrected and uncorrectable errors, the scrubber's word, a double-bit error in its pass, the start of the pass. -/
def CisternLog.ecc (l : CisternLog) : BitVec 16 × Byte × Nat × Bool × Nat := (l.corrected, l.uncorrectable, l.scrub, l.scrubBad, l.scrubClk)

@[simp] theorem ringWrap_ecc (l : CisternLog) (e : LogEntry) : (ringWrap l e).1.ecc = l.ecc := by
  unfold ringWrap
  cases l.overwrites with
  | none => rfl
  | some n =>
    dsimp only
    split <;> rfl

theorem ringPutSummary_ecc (stop : Bool) (l : CisternLog) (e : LogEntry) :
    (ringPutSummary stop l e).1.ecc = l.ecc := by
  unfold ringPutSummary
  split
  · rfl
  · split
    · rfl
    · exact ringWrap_ecc l e

theorem ringPut_ecc (stop : Bool) (l : CisternLog) (e : LogEntry) : (ringPut stop l e).1.ecc = l.ecc := by
  unfold ringPut
  split
  · split <;> rfl
  · split
    · rfl
    · exact ringWrap_ecc l e

theorem logSummary_ecc (n : Nat) (s : State) : (logSummary n s).log.ecc = s.log.ecc := by
  induction n generalizing s with
  | zero => rfl
  | succ n ih =>
    unfold logSummary
    dsimp only
    split
    · exact (ih _).trans (ringPutSummary_ecc ..)
    · exact ringPutSummary_ecc ..

theorem logRing_ecc (s : State) (e : LogEntry) : (logRing s e).log.ecc = s.log.ecc := by
  unfold logRing
  split
  · rfl
  · dsimp only
    split
    · exact (logSummary_ecc ..).trans (ringPut_ecc ..)
    · exact ringPut_ecc ..

theorem logAlarm_ecc (s : State) (kind node : Byte) (code arg : Nat) (data : List Byte) :
    (logAlarm s kind node code arg data).log.ecc = s.log.ecc := by
  unfold logAlarm
  dsimp only
  split
  · rfl
  · split
    · exact (logSummary_ecc ..).trans (logRing_ecc ..)
    · exact logRing_ecc ..

theorem recordFault_ecc (s : State) (code : Fin 28) (arg evArg : Nat) (masked : Bool) :
    (recordFault s code arg evArg masked).log.ecc = s.log.ecc := by
  unfold recordFault
  dsimp only
  split
  · rfl
  · exact logAlarm_ecc ..

theorem noteOpen_ecc (s : State) (code : Fin 28) (masked : Bool) : (noteOpen s code masked).log.ecc = s.log.ecc := by
  unfold noteOpen
  split
  · rfl
  · exact recordFault_ecc ..

theorem safeRail_ecc (s : State) : (safeRail s).log.ecc = s.log.ecc := by
  unfold safeRail
  split
  · rfl
  · dsimp only
    split
    · exact logRing_ecc ..
    · rfl

theorem completeMode_ecc (s : State) (new : Mode) (cause : Nat) :
    (completeMode s new cause).log.ecc = s.log.ecc := by
  unfold completeMode
  refine (logRing_ecc ..).trans ?_
  unfold rorEnter
  split <;> rfl

theorem dropRequests_log (s : State) : (dropRequests s).log = s.log := by
  unfold dropRequests
  dsimp only
  split <;> rfl

theorem gateMere_log (s : State) : (gateMere s).log = s.log := by
  unfold gateMere
  split <;> rfl

theorem stopForSafe_log (s : State) : (stopForSafe s).log = s.log := (gateMere_log _).trans (dropRequests_log s)

theorem dropRun_log (s : State) : (dropRun s).log = s.log := by
  unfold dropRun calReject
  dsimp only
  split
  · split <;> rfl
  · rfl

theorem endSessions_log (s : State) (bits : Nat) (kind : Option Nat) : (endSessions s bits kind).log = s.log := by
  have h := congrArg State.log (endSessions_sessions s bits)
  unfold endSessions at *
  dsimp only at *
  cases kind with
  | none => exact h
  | some k =>
    split
    · rfl
    · rename_i hb
      rw [if_neg hb] at h
      exact h

theorem enterSafe_ecc (s : State) (cause : Nat) : (enterSafe s cause).log.ecc = s.log.ecc := by
  unfold enterSafe
  dsimp only
  split
  · rfl
  · have h0 : (if cause = 0 then s else addCause s cause).log = s.log := by split <;> rfl
    generalize (if cause = 0 then s else addCause s cause) = a at h0
    rw [← h0]
    split
    · exact safeRail_ecc a
    · have hpins := congrArg State.log (refreshOutputs_pins (endSessions (dropRun (safeRail (completeMode (stopForSafe a) .safe cause))) 7 (some 4))).1
      rw [hpins, endSessions_log, dropRun_log, safeRail_ecc, completeMode_ecc, stopForSafe_log]

theorem settle_ecc (s t : State) : (settle s t).log.ecc = t.log.ecc := by
  unfold settle
  split
  · exact enterSafe_ecc t 7
  · rfl

theorem settle_uncorrectable (s t : State) : (settle s t).log.uncorrectable = t.log.uncorrectable := congrArg (·.2.1) (settle_ecc s t)

/-- A double-bit error is counted as uncorrectable, and its pass is not clean. -/
theorem noteEcc_ecc (s : State) (p : CisternPlace) : (noteEcc s (.double p)).log.ecc =
    (s.log.corrected, sat8 s.log.uncorrectable, s.log.scrub, true, s.log.scrubClk) := noteOpen_ecc ..

theorem noteEcc_uncorrectable (s : State) (p : CisternPlace) : (noteEcc s (.double p)).log.uncorrectable = sat8 s.log.uncorrectable :=
  congrArg (·.2.1) (noteEcc_ecc s p)

end Sys2Proof.Machine

namespace Sys2Proof.Machine

/-! The neuron records of a tarn (R459). -/

theorem lookup_putSorted (l : List (Nat × Neuron)) (n m : Nat) (x : Neuron) :
    (putSorted l n x).lookup m = if m = n then some x else l.lookup m := by
  have hfront (r : List (Nat × Neuron)) : List.lookup m ((n, x) :: r) = if m = n then some x else r.lookup m := by
    rw [List.lookup_cons]
    by_cases h : m = n
    · rw [if_pos h, beq_iff_eq.2 h]
    · rw [if_neg h, beq_eq_false_iff_ne.2 h]
  induction l with
  | nil => exact hfront []
  | cons p l ih =>
    obtain ⟨k, y⟩ := p
    unfold putSorted
    split
    · exact hfront _
    · split
      next h =>
        subst h
        rw [hfront]
        by_cases hm : m = n
        · rw [if_pos hm, if_pos hm]
        · rw [if_neg hm, if_neg hm, List.lookup_cons, beq_eq_false_iff_ne.2 hm]
      next h =>
        rw [List.lookup_cons, List.lookup_cons, ih]
        by_cases hm : m = k
        · rw [beq_iff_eq.2 hm]
          exact (if_neg (by omega)).symm
        · rw [beq_eq_false_iff_ne.2 hm]

theorem lookup_filter_ne (l : List (Nat × Neuron)) (n m : Nat) :
    (l.filter fun p => p.1 != n).lookup m = if m = n then none else l.lookup m := by
  induction l with
  | nil => simp
  | cons p l ih =>
    obtain ⟨k, y⟩ := p
    rw [List.filter_cons, List.lookup_cons]
    by_cases hk : k = n
    · rw [if_neg (by simpa using hk), ih]
      by_cases hm : m = n
      · rw [if_pos hm, if_pos hm]
      · rw [if_neg hm, if_neg hm, beq_eq_false_iff_ne.2 (by omega)]
    · rw [if_pos (by simpa using hk), List.lookup_cons, ih]
      by_cases hm : m = k
      · rw [beq_iff_eq.2 hm]
        exact (if_neg (by omega)).symm
      · rw [beq_eq_false_iff_ne.2 hm]

theorem modTarn_self (s : State) (k : Fin 8) (f : Tarn → Tarn) : (modTarn s k f).mere.tarns[k] = f s.mere.tarns[k] :=
  (vmod_get ..).trans (if_pos rfl)

theorem modTarn_other (s : State) {j k : Fin 8} (h : j ≠ k) (f : Tarn → Tarn) : (modTarn s k f).mere.tarns[j] = s.mere.tarns[j] :=
  (vmod_get ..).trans (if_neg h.symm)

theorem getNeuron_congr (s t : State) {k : Fin 8} (h : t.mere.tarns[k].neurons = s.mere.tarns[k].neurons) (hs : t.mere.start = s.mere.start) (n : Nat) :
    getNeuron t k n = getNeuron s k n := by
  unfold getNeuron
  rw [h, hs]

theorem setNeuron_self (s : State) (k : Fin 8) (n : Nat) (x : Neuron) : (setNeuron s k n x).mere.tarns[k] = { s.mere.tarns[k] with
    neurons := if x = startNeuron s.mere.start then s.mere.tarns[k].neurons.filter fun p => p.1 != n else putSorted s.mere.tarns[k].neurons n x } :=
  (vmod_get ..).trans (if_pos rfl)

theorem getNeuron_setNeuron (s : State) (k : Fin 8) (n m : Nat) (x : Neuron) :
    getNeuron (setNeuron s k n x) k m = if m = n then x else getNeuron s k m := by
  unfold getNeuron
  rw [setNeuron_self]
  dsimp only
  split
  next h =>
    rw [lookup_filter_ne]
    split
    · exact h.symm
    · rfl
  next =>
    rw [lookup_putSorted]
    split
    · rfl
    · rfl

/-! What stays apart from one tarn. -/

/-- From `s` to `t` Mere goes on in the tarn `k`: nothing else changes but the classes, the aggregate, the lag's times and the episode of EV25. -/
structure TarnStep (k : Fin 8) (s t : State) : Prop where
  state : t = { s with mere := t.mere, events := t.events }
  mere : t.mere = { s.mere with tarns := t.mere.tarns, classes := t.mere.classes, aggregate := t.mere.aggregate, lagSpans := t.mere.lagSpans,
                                episode := t.mere.episode, disturbed := t.mere.disturbed, cause := t.mere.cause }
  others : ∀ j : Fin 8, j ≠ k → t.mere.tarns[j] = s.mere.tarns[j]

theorem TarnStep.trans {k : Fin 8} {s t u : State} (h : TarnStep k s t) (g : TarnStep k t u) : TarnStep k s u where
  state := by rw [g.state, h.state]
  mere := by rw [g.mere, h.mere]
  others j hj := (g.others j hj).trans (h.others j hj)

theorem TarnStep.refl (k : Fin 8) (s : State) : TarnStep k s s := ⟨rfl, rfl, fun _ _ => rfl⟩

theorem TarnStep.of_modTarn (s : State) (k : Fin 8) (f : Tarn → Tarn) : TarnStep k s (modTarn s k f) := ⟨rfl, rfl, fun _ hj => modTarn_other s hj f⟩

theorem TarnStep.clk {k : Fin 8} {s t : State} (h : TarnStep k s t) : t.clk = s.clk := by rw [h.state]

theorem TarnStep.time {k : Fin 8} {s t : State} (h : TarnStep k s t) : t.time = s.time := by rw [h.state]

theorem TarnStep.start {k : Fin 8} {s t : State} (h : TarnStep k s t) : t.mere.start = s.mere.start := by rw [h.mere]

theorem TarnStep.templateOf {k : Fin 8} {s t : State} (h : TarnStep k s t) (n : Nat) : templateOf t k n = Machine.templateOf s k n := by
  have hi : t.mere.image = s.mere.image := by rw [h.mere]
  unfold Machine.templateOf neuronWord netSec
  rw [hi]

/-- The lag of the tarn `k` begins or ends, and nothing else of the tarn changes. -/
structure LagOnly (k : Fin 8) (s t : State) : Prop extends TarnStep k s t where
  tarn : t.mere.tarns[k] = { s.mere.tarns[k] with lagging := t.mere.tarns[k].lagging }
  classes : t.mere.classes = s.mere.classes
  aggregate : t.mere.aggregate = s.mere.aggregate

theorem LagOnly.refl (k : Fin 8) (s : State) : LagOnly k s s := ⟨.refl k s, rfl, rfl, rfl⟩

theorem endLag_lagOnly (s : State) (k : Fin 8) : LagOnly k s (endLag s k) := by
  unfold endLag
  split
  · exact .refl k s
  next a _ =>
    dsimp only
    exact ⟨⟨rfl, rfl, fun j hj => modTarn_other _ hj _⟩, by rw [modTarn_self], rfl, rfl⟩

theorem mereDisturbed_mere (s : State) (cause : Byte) :
    mereDisturbed s cause = { s with mere := (mereDisturbed s cause).mere, events := (mereDisturbed s cause).events } ∧
      (mereDisturbed s cause).mere = { s.mere with episode := (mereDisturbed s cause).mere.episode, disturbed := (mereDisturbed s cause).mere.disturbed
                                                   cause := (mereDisturbed s cause).mere.cause } := by
  unfold mereDisturbed
  dsimp only
  split <;> exact ⟨rfl, rfl⟩

theorem noteLag_lagOnly (s : State) (k : Fin 8) (lags : Bool) : LagOnly k s (noteLag s k lags) := by
  cases lags with
  | false => exact endLag_lagOnly s k
  | true =>
    unfold noteLag
    rw [if_pos rfl]
    generalize hu : (modTarn s k fun y => { y with lagging := some (y.lagging.getD s.time.count) }) = u
    have hstep : TarnStep k s u := hu ▸ .of_modTarn ..
    have htarn : u.mere.tarns[k] = { s.mere.tarns[k] with lagging := u.mere.tarns[k].lagging } := by rw [← hu, modTarn_self]
    have hclasses : u.mere.classes = s.mere.classes := by rw [← hu]; rfl
    have haggregate : u.mere.aggregate = s.mere.aggregate := by rw [← hu]; rfl
    obtain ⟨hstate, hmere⟩ := mereDisturbed_mere u 2
    refine ⟨hstep.trans ⟨hstate, hmere.trans (by rw [hmere]), fun j _ => by rw [hmere]⟩, ?_, ?_, ?_⟩ <;> rw [hmere]
    · exact htarn
    · exact hclasses
    · exact haggregate

/-- A tarn has completed an event. -/
theorem eventDone_spec (s : State) (k : Fin 8) : TarnStep k s (eventDone s k) ∧
    (eventDone s k).mere.tarns[k] = { s.mere.tarns[k] with busyClk := s.clk, lagging := (eventDone s k).mere.tarns[k].lagging } ∧
    (eventDone s k).mere.classes = s.mere.classes ∧ (eventDone s k).mere.aggregate = s.mere.aggregate := by
  unfold eventDone
  dsimp only
  split
  · have h := endLag_lagOnly (modTarn s k fun y => { y with busyClk := s.clk }) k
    refine ⟨(TarnStep.of_modTarn ..).trans h.toTarnStep, ?_, h.classes, h.aggregate⟩
    rw [h.tarn, modTarn_self]
  · refine ⟨.of_modTarn .., ?_, rfl, rfl⟩
    rw [modTarn_self]

/-! The wake queue (R465, R468, R469). -/

/-- From `s` to `t` only wakes of the tarn `k` come and go. -/
structure WakesOnly (k : Fin 8) (s t : State) : Prop where
  state : t = { s with mere := { s.mere with tarns := t.mere.tarns } }
  others : ∀ j : Fin 8, j ≠ k → t.mere.tarns[j] = s.mere.tarns[j]
  tarn : t.mere.tarns[k] = { s.mere.tarns[k] with neurons := t.mere.tarns[k].neurons, fifo := t.mere.tarns[k].fifo, wakes := t.mere.tarns[k].wakes
                                                  wakeDrops := t.mere.tarns[k].wakeDrops }
  neuron : ∀ n, { getNeuron t k n with wake := none } = { getNeuron s k n with wake := none }

theorem WakesOnly.refl (k : Fin 8) (s : State) : WakesOnly k s s := ⟨rfl, fun _ _ => rfl, rfl, fun _ => rfl⟩

theorem WakesOnly.trans {k : Fin 8} {s t u : State} (h : WakesOnly k s t) (g : WakesOnly k t u) : WakesOnly k s u where
  state := by rw [g.state, h.state]
  others j hj := (g.others j hj).trans (h.others j hj)
  tarn := by rw [g.tarn, h.tarn]
  neuron n := (g.neuron n).trans (h.neuron n)

theorem WakesOnly.step {k : Fin 8} {s t : State} (h : WakesOnly k s t) : TarnStep k s t :=
  ⟨h.state.trans (by rw [h.state]), by rw [h.state], h.others⟩

/-- A neuron's pending wake changes with the tarn's queues. -/
theorem WakesOnly.of_wake (s : State) (k : Fin 8) (n : Nat) (w : Option (BitVec 32)) (f : Tarn → Tarn)
    (hf : ∀ y, f y = { y with fifo := (f y).fifo, wakes := (f y).wakes, wakeDrops := (f y).wakeDrops }) :
    WakesOnly k s (modTarn (setNeuron s k n { getNeuron s k n with wake := w }) k f) where
  state := rfl
  others j hj := (modTarn_other _ hj _).trans (modTarn_other s hj _)
  tarn := by
    rw [modTarn_self, setNeuron_self, hf]
  neuron m := by
    have hn : getNeuron (modTarn (setNeuron s k n { getNeuron s k n with wake := w }) k f) k m =
        getNeuron (setNeuron s k n { getNeuron s k n with wake := w }) k m := by
      refine getNeuron_congr _ _ ?_ (by rfl) m
      rw [modTarn_self, hf]
    rw [hn, getNeuron_setNeuron]
    split
    next h => rw [h]
    next => rfl

theorem dropWake_wakesOnly (s : State) (k : Fin 8) (n : Nat) : WakesOnly k s (dropWake s k n) := WakesOnly.of_wake _ _ _ _ _ fun _ => rfl

theorem dropWake_tarn (s : State) (k : Fin 8) (n : Nat) :
    (dropWake s k n).mere.tarns[k].wakes = (s.mere.tarns[k].wakes.filter fun w => w.1 != n) ∧
      (dropWake s k n).mere.tarns[k].fifo = s.mere.tarns[k].fifo.map fun e => if wakeOf n e then { e with cancelled := true } else e := by
  unfold dropWake
  dsimp only
  rw [modTarn_self, setNeuron_self]
  exact ⟨rfl, rfl⟩

theorem dropWake_neuron (s : State) (k : Fin 8) (n : Nat) : getNeuron (dropWake s k n) k n = { getNeuron s k n with wake := none } := by
  refine (getNeuron_congr (setNeuron s k n { getNeuron s k n with wake := none }) (dropWake s k n) ?_ rfl n).trans ?_
  · unfold dropWake
    dsimp only
    rw [modTarn_self]
  · rw [getNeuron_setNeuron, if_pos rfl]

/-- The wake of a neuron put in the queue. -/
def wakePut (s : State) (k : Fin 8) (n : Nat) (due : BitVec 32) : State :=
  modTarn (setNeuron s k n { getNeuron s k n with wake := some due }) k fun y => { y with wakes := y.wakes ++ [(n, due)] }

/-- A wake dropped is counted. -/
def wakeLost (s : State) (k : Fin 8) : State := modTarn s k fun y => { y with wakeDrops := sat16 y.wakeDrops }

theorem wakePut_wakesOnly (s : State) (k : Fin 8) (n : Nat) (due : BitVec 32) : WakesOnly k s (wakePut s k n due) :=
  WakesOnly.of_wake _ _ _ _ _ fun _ => rfl

theorem wakePut_neuron (s : State) (k : Fin 8) (n : Nat) (due : BitVec 32) : (getNeuron (wakePut s k n due) k n).wake = some due := by
  have h : getNeuron (wakePut s k n due) k n = getNeuron (setNeuron s k n { getNeuron s k n with wake := some due }) k n := by
    refine getNeuron_congr _ _ ?_ (by rfl) n
    unfold wakePut
    rw [modTarn_self]
  rw [h, getNeuron_setNeuron, if_pos rfl]

theorem wakePut_tarn (s : State) (k : Fin 8) (n : Nat) (due : BitVec 32) :
    (wakePut s k n due).mere.tarns[k].wakes = s.mere.tarns[k].wakes ++ [(n, due)] ∧ (wakePut s k n due).mere.tarns[k].fifo = s.mere.tarns[k].fifo := by
  unfold wakePut
  rw [modTarn_self, setNeuron_self]
  exact ⟨rfl, rfl⟩

theorem wakeLost_wakesOnly (s : State) (k : Fin 8) : WakesOnly k s (wakeLost s k) where
  state := rfl
  others j hj := modTarn_other s hj _
  tarn := by unfold wakeLost; rw [modTarn_self]
  neuron n := by rw [getNeuron_congr s (wakeLost s k) (by unfold wakeLost; rw [modTarn_self]) rfl n]

theorem queueWake_room {s : State} {k : Fin 8} {n : Nat} {due : BitVec 32} (h : s.mere.tarns[k].wakes.length < 32) :
    queueWake s k n due = wakePut s k n due := if_pos h

section
variable {s : State} {k : Fin 8} {n : Nat} {due : BitVec 32} (h : ¬ s.mere.tarns[k].wakes.length < 32)
include h

theorem queueWake_none (hm : latestWake s.mere.tarns[k].wakes = none) : queueWake s k n due = s := by
  unfold queueWake
  simp only [if_neg h, hm]

/-- A full queue: a later wake gives way. -/
theorem queueWake_later {m : Nat × BitVec 32} (hm : latestWake s.mere.tarns[k].wakes = some m) (hd : 0 < since due m.2) :
    queueWake s k n due = wakePut (wakeLost (dropWake s k m.1) k) k n due := by
  unfold queueWake
  simp only [if_neg h, hm, if_pos hd]
  rfl

/-- A full queue without a later wake: the new one is lost. -/
theorem queueWake_lost {m : Nat × BitVec 32} (hm : latestWake s.mere.tarns[k].wakes = some m) (hd : ¬ 0 < since due m.2) :
    queueWake s k n due = wakeLost s k := by
  unfold queueWake
  simp only [if_neg h, hm, if_neg hd]
  rfl

end

theorem queueWake_wakesOnly (s : State) (k : Fin 8) (n : Nat) (due : BitVec 32) : WakesOnly k s (queueWake s k n due) := by
  by_cases h : s.mere.tarns[k].wakes.length < 32
  · rw [queueWake_room h]
    exact wakePut_wakesOnly ..
  · cases hm : latestWake s.mere.tarns[k].wakes with
    | none =>
      rw [queueWake_none h hm]
      exact .refl k s
    | some m =>
      by_cases hd : 0 < since due m.2
      · rw [queueWake_later h hm hd]
        exact ((dropWake_wakesOnly ..).trans (wakeLost_wakesOnly ..)).trans (wakePut_wakesOnly ..)
      · rw [queueWake_lost h hm hd]
        exact wakeLost_wakesOnly ..

/-! The update keeps the pending wake (R460). -/

theorem Update.put_wake (u : Update) (i : Nat) (v : Int) : (u.put i v).x.wake = u.x.wake := by
  show (u.x.put i (sat24 v)).wake = _
  unfold Neuron.put
  split <;> rfl

theorem stepVar_wake (b : List Byte) (d i : Nat) (u : Update) : (stepVar b d i u).x.wake = u.x.wake := by
  have hput (x : Neuron) (v : Int) : (x.put i v).wake = x.wake := by
    unfold Neuron.put
    split <;> rfl
  unfold stepVar
  dsimp only
  rw [hput]
  split
  · exact Update.put_wake ..
  · rfl

theorem stepNeuron_wake (b : List Byte) (d : Nat) (u : Update) : (stepNeuron b d u).x.wake = u.x.wake := by
  unfold stepNeuron
  dsimp only
  rw [stepVar_wake, stepVar_wake, stepVar_wake]

theorem advance_wake (b : List Byte) (d : Nat) (u : Update) : (advance b d u).x.wake = u.x.wake := by
  unfold advance
  dsimp only
  split
  · exact stepNeuron_wake ..
  · split
    · rfl
    · exact stepNeuron_wake ..

theorem elapse_wake (b : List Byte) (now40 : BitVec 40) (t : BitVec 32) (held : Bool) (u : Update) : (elapse b now40 t held u).1.x.wake = u.x.wake := by
  unfold elapse
  dsimp only
  split
  · rfl
  · exact advance_wake ..

theorem receive_wake (b : List Byte) (e : MereEvent) (u : Update) : (receive b e u).x.wake = u.x.wake := by
  unfold receive
  dsimp only
  split
  · rfl
  · exact Update.put_wake ..

theorem spikeNeuron_wake (b : List Byte) (u : Update) : (spikeNeuron b u).x.wake = u.x.wake := by
  unfold spikeNeuron
  dsimp only
  rw [Update.put_wake, Update.put_wake, Update.put_wake]

/-! One event applied (R454, R460). -/

section
variable (s : State) (k : Fin 8) (n : Nat) (e : MereEvent)

/-- The neuron brought to the event's time, without a pending wake. -/
def eventElapsed : Update × Bool × Bool :=
  elapse (templateOf s k n) (s.time.count.truncate 40) e.time e.held { x := { getNeuron s k n with wake := none }, sats := 0 }

/-- The event received. -/
def eventReceived : Update := receive (templateOf s k n) e (eventElapsed s k n e).1

/-- The record after the event: with the reset values of its spike, where it spikes. -/
def eventUpdate : Update :=
  if spikes (templateOf s k n) (eventReceived s k n e) = true then spikeNeuron (templateOf s k n) (eventReceived s k n e) else eventReceived s k n e

/-- The update written back, its counts with it. -/
def eventStored : State :=
  modTarn (setNeuron (dropWake s k n) k n (eventUpdate s k n e).x) k fun y => { y with
    outOfOrder := if (eventElapsed s k n e).2.1 = true then sat16 y.outOfOrder else y.outOfOrder
    longGaps := if (eventElapsed s k n e).2.2 = true then sat16 y.longGaps else y.longGaps
    saturations := sat16Add y.saturations (eventUpdate s k n e).sats }

/-- A spike joins the queue. -/
def spikeQueued (n : Nat) (t : BitVec 32) (y : Tarn) : Tarn :=
  { y with spikes := y.spikes ++ [(n, t)], spikeCount := y.spikeCount + 1, spikeMark := max y.spikeMark (y.spikes.length + 1) }

/-- The spike, where there is one, in the queue and in the classes. -/
def eventFired : State :=
  if spikes (templateOf s k n) (eventReceived s k n e) = true then
    countSpike (modTarn (eventStored s k n e) k (spikeQueued n (eventReceived s k n e).x.tLast)) (256 * k.val + n) (eventReceived s k n e).x.tLast
  else eventStored s k n e

theorem eventFired_spiked (h : spikes (templateOf s k n) (eventReceived s k n e) = true) : eventFired s k n e =
    countSpike (modTarn (eventStored s k n e) k (spikeQueued n (eventReceived s k n e).x.tLast)) (256 * k.val + n) (eventReceived s k n e).x.tLast :=
  if_pos h

theorem eventFired_silent (h : spikes (templateOf s k n) (eventReceived s k n e) = false) : eventFired s k n e = eventStored s k n e :=
  if_neg (by rw [h]; exact Bool.false_ne_true)

theorem applyUpdate_eq : applyUpdate s k n e = (wakeRequest (templateOf s k n) (eventUpdate s k n e).x).elim (eventFired s k n e)
    fun d => queueWake (eventFired s k n e) k n d := by
  unfold applyUpdate
  dsimp only
  rw [dropWake_neuron]
  show (match wakeRequest (templateOf s k n) (eventUpdate s k n e).x with
    | none => eventFired s k n e
    | some d => queueWake (eventFired s k n e) k n d) = _
  cases wakeRequest (templateOf s k n) (eventUpdate s k n e).x <;> rfl

theorem applyUpdate_quiet (h : wakeRequest (templateOf s k n) (eventUpdate s k n e).x = none) : applyUpdate s k n e = eventFired s k n e := by
  rw [applyUpdate_eq, h]
  rfl

theorem applyUpdate_wakes {d : BitVec 32} (h : wakeRequest (templateOf s k n) (eventUpdate s k n e).x = some d) :
    applyUpdate s k n e = queueWake (eventFired s k n e) k n d := by
  rw [applyUpdate_eq, h]
  rfl

theorem eventUpdate_wake : (eventUpdate s k n e).x.wake = none := by
  have hgot : (eventReceived s k n e).x.wake = none := (receive_wake ..).trans (elapse_wake ..)
  unfold eventUpdate
  split
  · exact (spikeNeuron_wake ..).trans hgot
  · exact hgot

/-- A spike enters the classes, and nothing else. -/
theorem countSpike_classes (id : Nat) (t : BitVec 32) :
    countSpike s id t = { s with mere := { s.mere with classes := (countSpike s id t).mere.classes } } := by
  unfold countSpike
  generalize List.finRange 64 = l
  induction l generalizing s with
  | nil => rfl
  | cons c l ih =>
    rw [List.foldl_cons, ih]
    split <;> rfl

theorem eventStored_step : TarnStep k s (eventStored s k n e) := by
  refine (dropWake_wakesOnly s k n).step.trans (.trans (t := setNeuron (dropWake s k n) k n (eventUpdate s k n e).x) ?_ (.of_modTarn ..))
  exact .of_modTarn ..

theorem eventStored_tarn : (eventStored s k n e).mere.tarns[k].wakes = (s.mere.tarns[k].wakes.filter fun w => w.1 != n) ∧
    (eventStored s k n e).mere.tarns[k].fifo = (s.mere.tarns[k].fifo.map fun e => if wakeOf n e then { e with cancelled := true } else e) ∧
    (eventStored s k n e).mere.tarns[k].spikes = s.mere.tarns[k].spikes ∧ (eventStored s k n e).mere.tarns[k].applied = s.mere.tarns[k].applied := by
  obtain ⟨hw, hf⟩ := dropWake_tarn s k n
  have ht := (dropWake_wakesOnly s k n).tarn
  unfold eventStored
  rw [modTarn_self, setNeuron_self]
  exact ⟨hw, hf, by rw [ht], by rw [ht]⟩

theorem eventStored_neuron : getNeuron (eventStored s k n e) k n = (eventUpdate s k n e).x := by
  refine (getNeuron_congr (setNeuron (dropWake s k n) k n (eventUpdate s k n e).x) (eventStored s k n e) ?_ rfl n).trans ?_
  · unfold eventStored
    rw [modTarn_self]
  · rw [getNeuron_setNeuron, if_pos rfl]

theorem eventStored_mere : (eventStored s k n e).mere.classes = s.mere.classes ∧ (eventStored s k n e).mere.aggregate = s.mere.aggregate := ⟨rfl, rfl⟩

/-- A spike joins the queue; the rest of the tarn but its counts is as the update left it. -/
theorem eventFired_spec : TarnStep k s (eventFired s k n e) ∧
    getNeuron (eventFired s k n e) k n = (eventUpdate s k n e).x ∧
    (eventFired s k n e).mere.tarns[k].wakes = (s.mere.tarns[k].wakes.filter fun w => w.1 != n) ∧
    (eventFired s k n e).mere.tarns[k].fifo = (s.mere.tarns[k].fifo.map fun e => if wakeOf n e then { e with cancelled := true } else e) ∧
    (eventFired s k n e).mere.tarns[k].spikes = s.mere.tarns[k].spikes ++
      (if spikes (templateOf s k n) (eventReceived s k n e) = true then [(n, (eventReceived s k n e).x.tLast)] else []) ∧
    (eventFired s k n e).mere.tarns[k].applied = s.mere.tarns[k].applied ∧ (eventFired s k n e).mere.aggregate = s.mere.aggregate ∧
    (spikes (templateOf s k n) (eventReceived s k n e) = false → (eventFired s k n e).mere.classes = s.mere.classes) := by
  obtain ⟨hwakes, hfifo, hspikes, happlied⟩ := eventStored_tarn s k n e
  obtain ⟨hclasses, haggregate⟩ := eventStored_mere s k n e
  have hstep := eventStored_step s k n e
  have hneuron := eventStored_neuron s k n e
  unfold eventFired
  split
  next hs =>
    generalize ht : (eventReceived s k n e).x.tLast = t
    have hclasses := countSpike_classes (modTarn (eventStored s k n e) k (spikeQueued n t)) (256 * k.val + n) t
    generalize countSpike (modTarn (eventStored s k n e) k (spikeQueued n t)) (256 * k.val + n) t = u at hclasses ⊢
    have htarns : u.mere.tarns = (modTarn (eventStored s k n e) k (spikeQueued n t)).mere.tarns := by rw [hclasses]
    have htarn : u.mere.tarns[k] = spikeQueued n t (eventStored s k n e).mere.tarns[k] := by rw [htarns, modTarn_self]
    refine ⟨(hstep.trans (.of_modTarn _ k (spikeQueued n t))).trans ⟨by rw [hclasses], by rw [hclasses], fun j _ => by rw [htarns]⟩, ?_, ?_, ?_, ?_, ?_, ?_,
      fun h => absurd (hs.symm.trans h) (by decide)⟩
    · rw [← hneuron]
      exact getNeuron_congr _ _ (by rw [htarn]; rfl) (by rw [hclasses]; rfl) n
    · rw [htarn]
      exact hwakes
    · rw [htarn]
      exact hfifo
    · rw [htarn]
      exact congrArg (· ++ [(n, t)]) hspikes
    · rw [htarn]
      exact happlied
    · rw [hclasses]
      exact haggregate
  next hs =>
    refine ⟨hstep, hneuron, hwakes, hfifo, by rw [hspikes, List.append_nil], happlied, haggregate, fun _ => hclasses⟩

/-- What an event applied does: the record, the spike queue, the counts, and the wake that the update requests where the queue has room. -/
theorem applyUpdate_spec : TarnStep k s (applyUpdate s k n e) ∧
    { getNeuron (applyUpdate s k n e) k n with wake := none } = (eventUpdate s k n e).x ∧
    (applyUpdate s k n e).mere.tarns[k].spikes = s.mere.tarns[k].spikes ++
      (if spikes (templateOf s k n) (eventReceived s k n e) = true then [(n, (eventReceived s k n e).x.tLast)] else []) ∧
    (spikes (templateOf s k n) (eventReceived s k n e) = false → (applyUpdate s k n e).mere.classes = s.mere.classes) ∧
    (applyUpdate s k n e).mere.aggregate = s.mere.aggregate ∧ (applyUpdate s k n e).mere.tarns[k].applied = s.mere.tarns[k].applied := by
  obtain ⟨hstep, hneuron, -, -, hspikes, happlied, haggregate, hclasses⟩ := eventFired_spec s k n e
  have hw : WakesOnly k (eventFired s k n e) (applyUpdate s k n e) := by
    rw [applyUpdate_eq]
    cases wakeRequest (templateOf s k n) (eventUpdate s k n e).x with
    | none => exact .refl ..
    | some d => exact queueWake_wakesOnly ..
  refine ⟨hstep.trans hw.step, ?_, ?_, fun h => ?_, ?_, ?_⟩
  · rw [hw.neuron, hneuron, ← eventUpdate_wake s k n e]
  · rw [hw.tarn]
    exact hspikes
  · rw [hw.state]
    exact hclasses h
  · rw [hw.state]
    exact haggregate
  · rw [hw.tarn]
    exact happlied

theorem applyUpdate_unasked (h : wakeRequest (templateOf s k n) (eventUpdate s k n e).x = none) :
    (applyUpdate s k n e).mere.tarns[k].fifo = (s.mere.tarns[k].fifo.map fun e => if wakeOf n e then { e with cancelled := true } else e) ∧
      (applyUpdate s k n e).mere.tarns[k].wakes = (s.mere.tarns[k].wakes.filter fun w => w.1 != n) ∧
      (getNeuron (applyUpdate s k n e) k n).wake = none := by
  obtain ⟨-, hneuron, hwakes, hfifo, -⟩ := eventFired_spec s k n e
  rw [applyUpdate_quiet s k n e h]
  exact ⟨hfifo, hwakes, by rw [hneuron, eventUpdate_wake]⟩

theorem applyUpdate_asked {d : BitVec 32} (h : wakeRequest (templateOf s k n) (eventUpdate s k n e).x = some d)
    (hroom : (s.mere.tarns[k].wakes.filter fun w => w.1 != n).length < 32) :
    (applyUpdate s k n e).mere.tarns[k].fifo = (s.mere.tarns[k].fifo.map fun e => if wakeOf n e then { e with cancelled := true } else e) ∧
      (applyUpdate s k n e).mere.tarns[k].wakes = (s.mere.tarns[k].wakes.filter fun w => w.1 != n) ++ [(n, d)] ∧
      (getNeuron (applyUpdate s k n e) k n).wake = some d := by
  obtain ⟨-, -, hwakes, hfifo, -⟩ := eventFired_spec s k n e
  rw [applyUpdate_wakes s k n e h, queueWake_room (by rw [hwakes]; exact hroom)]
  obtain ⟨hw, hf⟩ := wakePut_tarn (eventFired s k n e) k n d
  exact ⟨hf.trans hfifo, hw.trans (by rw [hwakes]), wakePut_neuron ..⟩

/-! The log has no part in it. -/

variable (l : CisternLog)

theorem countSpike_log (id : Nat) (t : BitVec 32) : countSpike { s with log := l } id t = { countSpike s id t with log := l } := by
  unfold countSpike
  generalize List.finRange 64 = cs
  induction cs generalizing s with
  | nil => rfl
  | cons c cs ih =>
    rw [List.foldl_cons, List.foldl_cons, ← ih]
    refine congrArg (fun x => List.foldl _ x cs) ?_
    show (if (classBound s c.val && classNeuron s c.val == id) = true then _ else _) = State.mk .. 
    split <;> rfl

theorem queueWake_log (d : BitVec 32) : queueWake { s with log := l } k n d = { queueWake s k n d with log := l } := by
  by_cases h : s.mere.tarns[k].wakes.length < 32
  · rw [queueWake_room h, queueWake_room (s := { s with log := l }) h]
    rfl
  · cases hm : latestWake s.mere.tarns[k].wakes with
    | none => rw [queueWake_none h hm, queueWake_none (s := { s with log := l }) h hm]
    | some m =>
      by_cases hd : 0 < since d m.2
      · rw [queueWake_later h hm hd, queueWake_later (s := { s with log := l }) h hm hd]
        rfl
      · rw [queueWake_lost h hm hd, queueWake_lost (s := { s with log := l }) h hm hd]
        rfl

theorem eventReceived_log : eventReceived { s with log := l } k n e = eventReceived s k n e := rfl

theorem eventUpdate_log : eventUpdate { s with log := l } k n e = eventUpdate s k n e := rfl

theorem templateOf_log : templateOf { s with log := l } k n = templateOf s k n := rfl

theorem eventStored_log : eventStored { s with log := l } k n e = { eventStored s k n e with log := l } := rfl

theorem eventFired_log : eventFired { s with log := l } k n e = { eventFired s k n e with log := l } := by
  have hlog : spikes (templateOf { s with log := l } k n) (eventReceived { s with log := l } k n e) =
      spikes (templateOf s k n) (eventReceived s k n e) := by rw [templateOf_log, eventReceived_log]
  cases hs : spikes (templateOf s k n) (eventReceived s k n e) with
  | true =>
    rw [eventFired_spiked s k n e hs, eventFired_spiked { s with log := l } k n e (hlog.trans hs), eventReceived_log, eventStored_log]
    generalize eventStored s k n e = x
    exact countSpike_log (modTarn x k _) l _ _
  | false => rw [eventFired_silent s k n e hs, eventFired_silent { s with log := l } k n e (hlog.trans hs), eventStored_log]

theorem applyUpdate_log : applyUpdate { s with log := l } k n e = { applyUpdate s k n e with log := l } := by
  have hlog : wakeRequest (templateOf { s with log := l } k n) (eventUpdate { s with log := l } k n e).x =
      wakeRequest (templateOf s k n) (eventUpdate s k n e).x := by rw [templateOf_log, eventUpdate_log]
  cases hw : wakeRequest (templateOf s k n) (eventUpdate s k n e).x with
  | none => rw [applyUpdate_quiet s k n e hw, applyUpdate_quiet { s with log := l } k n e (hlog.trans hw), eventFired_log]
  | some d => rw [applyUpdate_wakes s k n e hw, applyUpdate_wakes { s with log := l } k n e (hlog.trans hw), eventFired_log, queueWake_log]

theorem eventDone_log : eventDone { s with log := l } k = { eventDone s k with log := l } := by
  have hend (t : State) : endLag { t with log := l } k = { endLag t k with log := l } := by
    unfold endLag
    show (match t.mere.tarns[k].lagging with | none => _ | some a => _) = _
    cases t.mere.tarns[k].lagging <;> rfl
  unfold eventDone
  dsimp only
  show (if (modTarn s k _).mere.tarns[k].fifo.isEmpty = true then _ else _) = _
  split
  · exact hend (modTarn s k fun y => { y with busyClk := s.clk })
  · rfl

end

/-! MERE_EVENT_APPLY. -/

/-- An event is applied alike where the tarn's records are the same. -/
theorem eventReceived_congr {k : Fin 8} {s t : State} (h : TarnStep k s t) (hn : t.mere.tarns[k].neurons = s.mere.tarns[k].neurons) (n : Nat)
    (e : MereEvent) : eventReceived t k n e = eventReceived s k n e := by
  unfold eventReceived eventElapsed
  rw [h.templateOf, h.time, getNeuron_congr s t hn h.start]

theorem eventUpdate_congr {k : Fin 8} {s t : State} (h : TarnStep k s t) (hn : t.mere.tarns[k].neurons = s.mere.tarns[k].neurons) (n : Nat)
    (e : MereEvent) : eventUpdate t k n e = eventUpdate s k n e := by
  unfold eventUpdate
  rw [h.templateOf, eventReceived_congr h hn]

section
variable (s : State) (k : Fin 8) (e : MereEvent) (rest : List MereEvent)

/-- The front event has left the FIFO, and the tarn's lag is noted. -/
def eventLeft : State := noteLag (modTarn s k fun y => { y with fifo := rest }) k (eventLags s e)

/-- The event is taken, by an ENABLED neuron or as a wake not cancelled (R454, R484). -/
def eventTakes : Bool := if e.wake = true then !e.cancelled else neuronOn s k (e.target.toNat % 256)

/-- A synaptic event taken is counted. -/
def eventCounted (t : State) : State := if e.wake = true then t else countApplied t k

theorem eventLeft_spec : TarnStep k s (eventLeft s k e rest) ∧
    (eventLeft s k e rest).mere.tarns[k] = { s.mere.tarns[k] with fifo := rest, lagging := (eventLeft s k e rest).mere.tarns[k].lagging } ∧
    (eventLeft s k e rest).mere.classes = s.mere.classes ∧ (eventLeft s k e rest).mere.aggregate = s.mere.aggregate := by
  have h := noteLag_lagOnly (modTarn s k fun y => { y with fifo := rest }) k (eventLags s e)
  refine ⟨(TarnStep.of_modTarn ..).trans h.toTarnStep, ?_, h.classes, h.aggregate⟩
  unfold eventLeft
  rw [h.tarn, modTarn_self]

theorem eventCounted_spec (t : State) : TarnStep k t (eventCounted k e t) ∧
    (eventCounted k e t).mere.tarns[k] = { t.mere.tarns[k] with applied := if e.wake = true then t.mere.tarns[k].applied else t.mere.tarns[k].applied + 1 } ∧
    (eventCounted k e t).mere.classes = t.mere.classes ∧
    (eventCounted k e t).mere.aggregate = if e.wake = true then t.mere.aggregate else t.mere.aggregate + 1 := by
  unfold eventCounted
  split
  · exact ⟨.refl k t, rfl, rfl, rfl⟩
  · refine ⟨⟨rfl, rfl, fun j hj => modTarn_other t hj _⟩, ?_, rfl, rfl⟩
    exact modTarn_self t k _

theorem eventCounted_log (t : State) (l : CisternLog) : eventCounted k e { t with log := l } = { eventCounted k e t with log := l } := by
  unfold eventCounted
  split <;> rfl

/-- The state after an event that is taken. -/
def eventApplied (t : State) : State := eventDone (applyUpdate (eventCounted k e t) k (e.target.toNat % 256) e) k

theorem eventApplied_log (t : State) (l : CisternLog) : eventApplied k e { t with log := l } = { eventApplied k e t with log := l } := by
  unfold eventApplied
  rw [eventCounted_log, applyUpdate_log, eventDone_log]

theorem loseNeuron_log (t : State) (n : Nat) : (loseNeuron t k n).log = t.log := by
  show (dropWake t k n).log = t.log
  rw [(dropWake_wakesOnly t k n).state]

/-- An error that is not in the neuron's record is not this read's. -/
theorem readNeuron_elsewhere (t : State) {n : Nat} {p : CisternPlace} (h : ∀ m : Fin 256, m.val = n → p ≠ .neuron k m) :
    readNeuron t k n (.double p) = t := by
  cases p with
  | neuron j m => exact if_neg fun hm => h m hm.2 (by rw [hm.1])
  | _ => rfl

theorem eventApplied_step (t : State) : TarnStep k t (eventApplied k e t) :=
  ((eventCounted_spec k e t).1.trans (applyUpdate_spec ..).1).trans (eventDone_spec ..).1

variable {s k e rest} (hr : mereRuns s = true) (hf : s.mere.tarns[k].fifo = e :: rest) (hs : s.mere.tarns[k].spikes.length < 16)

theorem mereEventApply_waits {err : EccObs} (h : s.mere.tarns[k].fifo = [] ∨ 16 ≤ s.mere.tarns[k].spikes.length ∨ mereRuns s = false) :
    exec (.mereEventApply k err) s = .next s := by
  show execMereEventApply k err s = _
  unfold execMereEventApply
  dsimp only
  cases hfifo : s.mere.tarns[k].fifo with
  | nil => rfl
  | cons e rest =>
    refine if_pos ?_
    rw [Bool.or_eq_true, Bool.not_eq_true', decide_eq_true_eq]
    rcases h with h | h | h
    · exact absurd (h.symm.trans hfifo) (List.cons_ne_nil e rest).symm
    · exact .inr h
    · exact .inl h

include hr hf hs

theorem mereEventApply_front (err : EccObs) : exec (.mereEventApply k err) s =
    if eventTakes s k e = true
      then .next (settle s (eventApplied k e (readNeuron (eventLeft s k e rest) k (e.target.toNat % 256) err)))
      else .next (eventDone (eventLeft s k e rest) k) := by
  have hgo : ¬((!mereRuns s || decide (16 ≤ s.mere.tarns[k].spikes.length)) = true) := by
    rw [hr, decide_eq_false (not_le.2 hs)]
    decide
  show execMereEventApply k err s = _
  unfold execMereEventApply
  simp only [hf, if_neg hgo]
  show (if (!eventTakes s k e) = true then Host.Outcome.next (eventDone (eventLeft s k e rest) k)
    else .next (settle s (eventApplied k e (readNeuron (eventLeft s k e rest) k (e.target.toNat % 256) err)))) = _
  cases eventTakes s k e <;> rfl

theorem mereEventApply_passed (h : eventTakes s k e = false) (err : EccObs) :
    exec (.mereEventApply k err) s = .next (eventDone (eventLeft s k e rest) k) :=
  (mereEventApply_front hr hf hs err).trans (if_neg (by rw [h]; exact Bool.false_ne_true))

theorem mereEventApply_taken (h : eventTakes s k e = true) (err : EccObs) : exec (.mereEventApply k err) s =
    .next (settle s (eventApplied k e (readNeuron (eventLeft s k e rest) k (e.target.toNat % 256) err))) :=
  (mereEventApply_front hr hf hs err).trans (if_pos h)

omit hr hf hs in
/-- What an error-free read settles to: no fault is new. -/
theorem eventApplied_settled : settle s (eventApplied k e (eventLeft s k e rest)) = eventApplied k e (eventLeft s k e rest) := by
  have hstep := (eventLeft_spec s k e rest).1.trans (eventApplied_step k e _)
  exact settle_of_ks (by rw [hstep.state])

/-- A read that finds no error in the record. -/
theorem mereEventApply_clean (h : eventTakes s k e = true) {err : EccObs}
    (he : readNeuron (eventLeft s k e rest) k (e.target.toNat % 256) err = eventLeft s k e rest) :
    exec (.mereEventApply k err) s = .next (eventApplied k e (eventLeft s k e rest)) := by
  rw [mereEventApply_taken hr hf hs h, he, eventApplied_settled]

theorem mereEventApply_single (h : eventTakes s k e = true) : exec (.mereEventApply k .single) s = .next
    { eventApplied k e (eventLeft s k e rest) with
      log := { (eventApplied k e (eventLeft s k e rest)).log with corrected := sat16 s.log.corrected } } := by
  have hstep := (eventLeft_spec s k e rest).1.trans (eventApplied_step k e _)
  have hleft := (eventLeft_spec s k e rest).1.state
  have hlog : (eventLeft s k e rest).log = s.log := by rw [hleft]
  have hlog' : (eventApplied k e (eventLeft s k e rest)).log = s.log := by rw [hstep.state]
  rw [mereEventApply_taken hr hf hs h]
  show Host.Outcome.next (settle s (eventApplied k e { eventLeft s k e rest with
    log := { (eventLeft s k e rest).log with corrected := sat16 (eventLeft s k e rest).log.corrected } })) = _
  rw [eventApplied_log, hlog, hlog']
  exact congrArg Host.Outcome.next (settle_of_ks (by rw [hstep.state]))

/-- A double-bit error in the record is counted as uncorrectable. -/
theorem mereEventApply_double (h : eventTakes s k e = true) {m : Fin 256} (hm : m.val = e.target.toNat % 256) :
    ∃ w, exec (.mereEventApply k (.double (.neuron k m))) s = .next w ∧ w.log.uncorrectable = sat8 s.log.uncorrectable := by
  refine ⟨_, mereEventApply_taken hr hf hs h _, ?_⟩
  have hread : readNeuron (eventLeft s k e rest) k (e.target.toNat % 256) (.double (.neuron k m)) =
      loseNeuron (noteEcc (eventLeft s k e rest) (.double (.neuron k m))) k (e.target.toNat % 256) := if_pos ⟨rfl, hm⟩
  have hstep (t : State) : (eventApplied k e t).log = t.log := by rw [(eventApplied_step k e t).state]
  have hleft : (eventLeft s k e rest).log = s.log := by rw [(eventLeft_spec s k e rest).1.state]
  rw [settle_uncorrectable, hread, hstep, loseNeuron_log, noteEcc_uncorrectable, hleft]

end

/-- The tarn after an event that is taken. -/
theorem eventApplied_tarn (k : Fin 8) (e : MereEvent) (t : State) :
    (eventApplied k e t).mere.tarns[k].busyClk = t.clk ∧
    (eventApplied k e t).mere.tarns[k].fifo = (applyUpdate (eventCounted k e t) k (e.target.toNat % 256) e).mere.tarns[k].fifo ∧
    (eventApplied k e t).mere.tarns[k].wakes = (applyUpdate (eventCounted k e t) k (e.target.toNat % 256) e).mere.tarns[k].wakes ∧
    (eventApplied k e t).mere.tarns[k].spikes = (applyUpdate (eventCounted k e t) k (e.target.toNat % 256) e).mere.tarns[k].spikes ∧
    (eventApplied k e t).mere.tarns[k].applied = (applyUpdate (eventCounted k e t) k (e.target.toNat % 256) e).mere.tarns[k].applied ∧
    (∀ n, getNeuron (eventApplied k e t) k n = getNeuron (applyUpdate (eventCounted k e t) k (e.target.toNat % 256) e) k n) ∧
    (eventApplied k e t).mere.classes = (applyUpdate (eventCounted k e t) k (e.target.toNat % 256) e).mere.classes ∧
    (eventApplied k e t).mere.aggregate = (applyUpdate (eventCounted k e t) k (e.target.toNat % 256) e).mere.aggregate := by
  have hclk := ((eventCounted_spec k e t).1.trans (applyUpdate_spec _ k (e.target.toNat % 256) e).1).clk
  unfold eventApplied
  generalize applyUpdate (eventCounted k e t) k (e.target.toNat % 256) e = a at hclk ⊢
  obtain ⟨hstep, htarn, hclasses, haggregate⟩ := eventDone_spec a k
  exact ⟨by rw [htarn, hclk], by rw [htarn], by rw [htarn], by rw [htarn], by rw [htarn], getNeuron_congr a _ (by rw [htarn]) hstep.start, hclasses, haggregate⟩

/-- The tarn after an event that is not taken. -/
theorem eventPassed_spec (s : State) (k : Fin 8) (e : MereEvent) (rest : List MereEvent) :
    TarnStep k s (eventDone (eventLeft s k e rest) k) ∧
    (eventDone (eventLeft s k e rest) k).mere.tarns[k] =
      { s.mere.tarns[k] with fifo := rest, busyClk := s.clk, lagging := (eventDone (eventLeft s k e rest) k).mere.tarns[k].lagging } ∧
    (eventDone (eventLeft s k e rest) k).mere.classes = s.mere.classes ∧
    (eventDone (eventLeft s k e rest) k).mere.aggregate = s.mere.aggregate := by
  obtain ⟨hstep, htarn, hclasses, haggregate⟩ := eventLeft_spec s k e rest
  generalize eventLeft s k e rest = u at *
  obtain ⟨hdone, hdtarn, hdclasses, hdaggregate⟩ := eventDone_spec u k
  refine ⟨hstep.trans hdone, ?_, hdclasses.trans hclasses, hdaggregate.trans haggregate⟩
  rw [hdtarn, htarn, hstep.clk]

/-- Settles O37: the front event leaves the FIFO, and one that is taken goes through `applyUpdate`. -/
theorem mereEvents : Obligations.MereEvents := by
  refine ⟨fun s k err h => mereEventApply_waits h, fun s k e rest hr hf hs => ?_⟩
  intro n takes b x came got u others left
  have htakes : takes ↔ eventTakes s k e = true := by
    show (if e.wake = true then e.cancelled = false else neuronOn s k n = true) ↔ (if e.wake = true then !e.cancelled else neuronOn s k n) = true
    split
    · rw [Bool.not_eq_true']
    · rfl
  obtain ⟨hstep, htarn, hclasses, haggregate⟩ := eventLeft_spec s k e rest
  by_cases h : takes
  · have ht := htakes.1 h
    obtain ⟨hcstep, hctarn, hcclasses, hcaggregate⟩ := eventCounted_spec k e (eventLeft s k e rest)
    have htaken {err} := mereEventApply_clean hr hf hs ht (err := err)
    have happlied := hstep.trans (eventApplied_step k e (eventLeft s k e rest))
    obtain ⟨hbusy, hfifo, hwakes, hspikes, hcount, hneuron, hdclasses, hdaggregate⟩ := eventApplied_tarn k e (eventLeft s k e rest)
    generalize hc : eventCounted k e (eventLeft s k e rest) = c at *
    have hneurons : c.mere.tarns[k].neurons = s.mere.tarns[k].neurons := by rw [hctarn, htarn]
    have hgot : eventReceived c k n e = got := eventReceived_congr (hstep.trans hcstep) hneurons n e
    have hu : eventUpdate c k n e = u := eventUpdate_congr (hstep.trans hcstep) hneurons n e
    have hb : templateOf c k n = b := (hstep.trans hcstep).templateOf n
    have hothers : (c.mere.tarns[k].wakes.filter fun w => w.1 != n) = others := by rw [hctarn, htarn]
    have hleft : (c.mere.tarns[k].fifo.map fun f => if wakeOf n f = true then { f with cancelled := true } else f) = left := by rw [hctarn, htarn]
    obtain ⟨-, haneuron, haspikes, haclasses, haaggregate, haapplied⟩ := applyUpdate_spec c k n e
    have hunasked := applyUpdate_unasked c k n e
    have hasked (d : BitVec 32) := applyUpdate_asked c k n e (d := d)
    rw [hb, hu, hothers, hleft] at hunasked hasked
    rw [hgot, hb] at haspikes haclasses
    clear_value others left got u b
    refine ⟨_, htaken rfl, happlied.state, happlied.mere, hbusy.trans hstep.clk, happlied.others, fun _ => ⟨?_, ?_, fun hq => ?_, fun hq => ?_,
      fun d hq hroom => ?_, ?_, ?_, mereEventApply_single hr hf hs ht, fun m hm => mereEventApply_double hr hf hs ht hm⟩, fun hn => absurd h hn,
      fun p hp => htaken (readNeuron_elsewhere k _ hp)⟩
    · rw [hneuron, haneuron, hu]
    · rw [hspikes, haspikes, hctarn, htarn]
    · exact hdclasses.trans ((haclasses hq).trans (hcclasses.trans hclasses))
    · obtain ⟨h1, h2, h3⟩ := hunasked hq
      exact ⟨hfifo.trans h1, hwakes.trans h2, by rw [hneuron, h3]⟩
    · obtain ⟨h1, h2, h3⟩ := hasked d hq hroom
      exact ⟨hfifo.trans h1, hwakes.trans h2, by rw [hneuron, h3]⟩
    · exact hdaggregate.trans (haaggregate.trans (hcaggregate.trans (by rw [haggregate])))
    · rw [hcount, haapplied, hctarn, htarn]
  · have ht : eventTakes s k e = false := by simpa using fun hh => h (htakes.2 hh)
    have hpassed := mereEventApply_passed hr hf hs ht
    obtain ⟨hdone, hdtarn, hdclasses, hdaggregate⟩ := eventPassed_spec s k e rest
    generalize eventDone (eventLeft s k e rest) k = t at *
    exact ⟨t, hpassed .clean, hdone.state, hdone.mere, by rw [hdtarn], hdone.others, fun hn => absurd hn h,
      fun _ => ⟨hdtarn, hdclasses, hdaggregate, hpassed⟩, fun p _ => hpassed (.double p)⟩

end Sys2Proof.Machine

namespace Sys2Proof.Machine

/-! Wakes that fall due (R468, R478). -/

theorem isEmpty_and_iff {α β : Type} (l : List α) (m : List β) : (l.isEmpty && m.isEmpty) = true ↔ l = [] ∧ m = [] := by
  rw [Bool.and_eq_true, List.isEmpty_iff, List.isEmpty_iff]

/-- An event put into a FIFO, over a change of the tarn that comes before it. -/
theorem fifoPut_modTarn (s : State) (k : Fin 8) (f : Tarn → Tarn) (e : MereEvent) : fifoPut (modTarn s k f) k e = modTarn s k fun y => { f y with
    fifo := (f y).fifo ++ [e], fifoMark := max (f y).fifoMark ((f y).fifo.length + 1)
    busyClk := if (f y).fifo = [] ∧ (f y).spikes = [] then s.clk else (f y).busyClk } := by
  unfold fifoPut modTarn
  dsimp only
  rw [vmod_vmod]
  simp only [isEmpty_and_iff]

theorem fifoRoom_iff {s : State} {k : Fin 8} : fifoRoom s k = true ↔ s.mere.tarns[k].fifo.length < 64 := decide_eq_true_iff

section
variable {s : State} {k : Fin 8} {n : Nat} {due : BitVec 32} (hw : earliestWake s.mere.tarns[k].wakes = some (n, due))
include hw

theorem wakeDue_early (h : wakeIsDue s k (n, due) = false) : exec (.wakeDue k) s = .next s := by
  show execWakeDue k s = _
  unfold execWakeDue
  simp only [hw]
  exact if_pos (by rw [h, Bool.not_false, Bool.or_true])

theorem wakeDue_due (hr : mereRuns s = true) (hroom : s.mere.tarns[k].fifo.length < 64) (h : wakeIsDue s k (n, due) = true) :
    exec (.wakeDue k) s = .next (modTarn s k fun y => { y with
      wakes := y.wakes.filter fun w => w.1 != n
      fifo := y.fifo ++ [{ target := BitVec.ofNat 11 (256 * k.val + n), receptor := 0, weight := 0, time := due, wake := true,
                           held := decide (2 ^ 31 ≤ wakeAge s k (n, due)) }]
      fifoMark := max y.fifoMark (y.fifo.length + 1)
      busyClk := if y.fifo = [] ∧ y.spikes = [] then s.clk else y.busyClk }) := by
  have hgo : ¬((!mereRuns s || !fifoRoom s k || !wakeIsDue s k (n, due)) = true) := by
    rw [hr, fifoRoom_iff.2 hroom, h]
    decide
  show execWakeDue k s = _
  unfold execWakeDue
  simp only [hw, if_neg hgo, fifoPut_modTarn]

end

theorem wakeDue_waits {s : State} {k : Fin 8} (h : s.mere.tarns[k].wakes = [] ∨ 64 ≤ s.mere.tarns[k].fifo.length) : exec (.wakeDue k) s = .next s := by
  show execWakeDue k s = _
  unfold execWakeDue
  split
  · rfl
  next n due hw =>
    rcases h with h | h
    · rw [h] at hw
      exact absurd hw (by exact nofun)
    · have hfull : fifoRoom s k = false := decide_eq_false (not_lt.2 h)
      exact if_pos (by rw [hfull, Bool.not_false, Bool.or_true, Bool.true_or])

/-- Of times less than 2^31 after one moment, the signed difference is the difference of the distances. -/
theorem since_sub {b x y : BitVec 32} (hx : 0 ≤ since b x) (hy : 0 ≤ since b y) : since x y = since b y - since b x := by
  unfold since at *
  have hsplit : y - x = (y - b) - (x - b) := by bv_omega
  have hxlt := BitVec.toInt_lt (x := x - b)
  have hylt := BitVec.toInt_lt (x := y - b)
  rw [hsplit, BitVec.toInt_sub, Int.bmod_eq_of_le] <;> omega

/-- The earliest wake is one of the queue, and none of it is earlier. -/
theorem earliestWake_least {l : List (Nat × BitVec 32)} {m : Nat × BitVec 32} {b : BitVec 32} (h : earliestWake l = some m)
    (hb : ∀ w ∈ l, 0 ≤ since b w.2) : m ∈ l ∧ ∀ w ∈ l, since b m.2 ≤ since b w.2 := by
  induction l generalizing m with
  | nil => exact absurd h (by exact nofun)
  | cons w l ih =>
    have hw := hb w List.mem_cons_self
    unfold earliestWake at h
    cases hl : earliestWake l with
    | none =>
      obtain rfl : w = m := by simpa [hl] using h
      have hnil : l = [] := by
        cases l with
        | nil => rfl
        | cons v r =>
          unfold earliestWake at hl
          cases hr : earliestWake r with
          | none => simp [hr] at hl
          | some u =>
            simp only [hr] at hl
            split at hl <;> exact absurd hl (by exact nofun)
      subst hnil
      exact ⟨List.mem_cons_self, fun v hv => by rw [List.mem_singleton.1 hv]⟩
    | some u =>
      obtain ⟨hmem, hleast⟩ := ih hl fun v hv => hb v (List.mem_cons_of_mem _ hv)
      have hu := hb u (List.mem_cons_of_mem _ hmem)
      have hsub := since_sub hw hu
      simp only [hl] at h
      split at h
      next hlt =>
        obtain rfl := Option.some.inj h
        refine ⟨List.mem_cons_of_mem _ hmem, fun v hv => ?_⟩
        rcases List.mem_cons.1 hv with rfl | hv
        · omega
        · exact hleast v hv
      next hge =>
        obtain rfl := Option.some.inj h
        refine ⟨List.mem_cons_self, fun v hv => ?_⟩
        rcases List.mem_cons.1 hv with rfl | hv
        · exact le_refl _
        · have := hleast v hv
          omega

/-! What a spike emits and whose turn it is, are Mere's matter alone. -/

section
variable {s t : State} (h : t.mere = s.mere)
include h

theorem listEvents_mere (k : Fin 8) (entry : Nat) (time : BitVec 32) (fuel i : Nat) :
    listEvents t k entry time fuel i = listEvents s k entry time fuel i := by
  induction fuel generalizing i with
  | zero => rfl
  | succ fuel ih =>
    unfold listEvents netSec
    simp only [h, ih]

theorem destEvents_mere (k : Fin 8) (n : Nat) (time : BitVec 32) (fuel e : Nat) : destEvents t k n time fuel e = destEvents s k n time fuel e := by
  have hdest (e : Nat) : destEntry t k n e = destEntry s k n e := by
    unfold destEntry netSec
    rw [h]
  have hdense (e target : Nat) : denseEvents t k n e target time = denseEvents s k n e target time := by
    unfold denseEvents netSec
    rw [h]
  induction fuel generalizing e with
  | zero => rfl
  | succ fuel ih =>
    unfold destEvents
    simp only [hdest, hdense, listEvents_mere h, ih, h]

theorem frontEvents_mere (k : Fin 8) : frontEvents t k = frontEvents s k := by
  unfold frontEvents
  simp only [h, destEvents_mere h]

theorem sourceWants_mere (g : Fin 8) (i : Nat) : sourceWants t g i = sourceWants s g i := by
  have henc : encWants t g = encWants s g := by
    funext x
    unfold encWants
    rw [h]
  unfold sourceWants
  simp only [frontEvents_mere h, henc]

theorem granted_mere (g : Fin 8) : granted t g = granted s g := by
  have hsource : sourceWants t g = sourceWants s g := funext (sourceWants_mere h g)
  unfold granted
  rw [hsource, h]

end

/-! Spikes through Mortar (R473 - R475). -/

section
variable {s : State} {k : Fin 8}

theorem spikeEmit_runs (hr : mereRuns s = true) (hs : s.mere.tarns[k].spikes ≠ []) (err : EccObs) :
    exec (.spikeEmit k err) s = .next (settle s (emitFront (readSynapses s k err) k)) := by
  refine if_neg ?_
  rw [hr, Bool.not_true, Bool.false_or, List.isEmpty_iff]
  exact hs

theorem emitFront_empty (h : frontEvents s k = []) : emitFront s k = modTarn s k (spikeDone s.clk []) := by
  unfold emitFront
  simp only [h]

section
variable {e : ReadEvent} {rest : List ReadEvent} (h : frontEvents s k = e :: rest)
include h

theorem emitFront_granted (hg : granted s (tarnOf e.event.target) = some k.val) (hroom : s.mere.tarns[tarnOf e.event.target].fifo.length < 64) :
    emitFront s k = grantTo (modTarn s k (spikeDone s.clk rest)) (tarnOf e.event.target) k.val e.event := by
  have hgo : (fifoRoom s (tarnOf e.event.target) && granted s (tarnOf e.event.target) == some k.val) = true := by
    rw [fifoRoom_iff.2 hroom, Bool.true_and, beq_iff_eq]
    exact hg
  unfold emitFront
  simp only [h, if_pos hgo]

theorem emitFront_waits (hw : granted s (tarnOf e.event.target) ≠ some k.val ∨ 64 ≤ s.mere.tarns[tarnOf e.event.target].fifo.length) :
    emitFront s k = s := by
  have hstop : ¬((fifoRoom s (tarnOf e.event.target) && granted s (tarnOf e.event.target) == some k.val) = true) := by
    rw [Bool.and_eq_true, fifoRoom_iff, beq_iff_eq]
    rintro ⟨hroom, hg⟩
    rcases hw with hw | hw
    · exact hw hg
    · omega
  unfold emitFront
  simp only [h, if_neg hstop]

end

/-- An event granted joins its target's FIFO; the tarns of source and target alone change. -/
theorem grantTo_tarns (s : State) (k g : Fin 8) (f : Tarn → Tarn) (src : Nat) (e : MereEvent)
    (hf : ∀ y, f y = { y with emitting := (f y).emitting, spikes := (f y).spikes, heldSpikes := (f y).heldSpikes, busyClk := (f y).busyClk }) :
    let t := grantTo (modTarn s k f) g src e
    t = { s with mere := { s.mere with tarns := t.mere.tarns } } ∧ t.mere.tarns[g].fifo = s.mere.tarns[g].fifo ++ [e] ∧ t.mere.tarns[g].grant = src ∧
      t.mere.tarns[k].emitting = (f s.mere.tarns[k]).emitting ∧ t.mere.tarns[k].spikes = (f s.mere.tarns[k]).spikes ∧
      ∀ j : Fin 8, t.mere.tarns[j] = { s.mere.tarns[j] with
        fifo := t.mere.tarns[j].fifo, fifoMark := t.mere.tarns[j].fifoMark, grant := t.mere.tarns[j].grant,
        emitting := t.mere.tarns[j].emitting, spikes := t.mere.tarns[j].spikes, heldSpikes := t.mere.tarns[j].heldSpikes, busyClk := t.mere.tarns[j].busyClk } ∧
        (j ≠ g → j ≠ k → t.mere.tarns[j] = s.mere.tarns[j]) := by
  intro t
  have hput : t = modTarn (modTarn s k f) g _ := fifoPut_modTarn ..
  generalize hmid : modTarn s k f = m at hput
  have hm (j : Fin 8) : m.mere.tarns[j] = if k = j then f s.mere.tarns[j] else s.mere.tarns[j] := by
    rw [← hmid]
    exact vmod_get ..
  have hfrom (j : Fin 8) : m.mere.tarns[j] = { s.mere.tarns[j] with emitting := m.mere.tarns[j].emitting, spikes := m.mere.tarns[j].spikes
                                                                    heldSpikes := m.mere.tarns[j].heldSpikes, busyClk := m.mere.tarns[j].busyClk } := by
    rw [hm]
    split
    · exact hf _
    · rfl
  have ht (j : Fin 8) : t.mere.tarns[j] = if g = j then { m.mere.tarns[j] with
      grant := src, fifo := m.mere.tarns[j].fifo ++ [e], fifoMark := max m.mere.tarns[j].fifoMark (m.mere.tarns[j].fifo.length + 1)
      busyClk := if m.mere.tarns[j].fifo = [] ∧ m.mere.tarns[j].spikes = [] then m.clk else m.mere.tarns[j].busyClk } else m.mere.tarns[j] := by
    rw [hput]
    exact vmod_get ..
  refine ⟨?_, ?_, ?_, ?_, ?_, fun j => ⟨?_, fun hg hk => ?_⟩⟩
  · rw [hput, ← hmid]
    rfl
  · rw [ht, if_pos rfl, hfrom]
  · rw [ht, if_pos rfl]
  · rw [ht]
    split <;> rw [hm, if_pos rfl]
  · rw [ht]
    split <;> rw [hm, if_pos rfl]
  · rw [ht]
    split <;> rw [hfrom j]
  · rw [ht, if_neg hg.symm, hm, if_neg hk.symm]

theorem spikeDone_fields (clk : Nat) (rest : List ReadEvent) (y : Tarn) :
    spikeDone clk rest y = { y with emitting := (spikeDone clk rest y).emitting, spikes := (spikeDone clk rest y).spikes
                                    heldSpikes := (spikeDone clk rest y).heldSpikes, busyClk := (spikeDone clk rest y).busyClk } ∧
      (spikeDone clk rest y).emitting = (if rest = [] then none else some rest) ∧
      (spikeDone clk rest y).spikes = (if rest = [] then y.spikes.drop 1 else y.spikes) := by
  cases rest with
  | nil => exact ⟨rfl, rfl, rfl⟩
  | cons r l => exact ⟨rfl, rfl, rfl⟩

end

/-! Grants (R475, R495). -/

theorem granted_some {s : State} {g : Fin 8} {i : Nat} (h : granted s g = some i) : i < 9 ∧ sourceWants s g i = true := by
  obtain ⟨j, -, rfl⟩ := List.mem_map.1 (List.mem_of_find?_eq_some h)
  exact ⟨Nat.mod_lt _ (by decide), List.find?_some h⟩

theorem granted_isSome {s : State} {g : Fin 8} {i : Nat} (hw : sourceWants s g i = true) (hi : i < 9) : (granted s g).isSome = true := by
  unfold granted
  rw [List.find?_isSome]
  refine ⟨i, List.mem_map.2 ⟨(i + 8 + 8 * s.mere.tarns[g].grant) % 9, List.mem_range.2 (Nat.mod_lt _ (by decide)), ?_⟩, hw⟩
  omega

theorem encoderSlotDrain_granted {s : State} {g : Fin 8} {x : Fin 64} {isUp : Bool} {e : MereEvent} (hr : mereRuns s = true)
    (hroom : s.mere.tarns[g].fifo.length < 64) (hg : granted s g = some 8) (hx : grantedEnc s g = some x)
    (hs : slotFirst s.mere.encoders[x] = some (isUp, e)) : exec (.encoderSlotDrain g) s = .next { s with mere := { s.mere with
      encoders := vmod s.mere.encoders x fun y => if isUp = true then { y with up := none } else { y with down := none }
      tarns := vmod s.mere.tarns g fun y => { y with
        encGrant := x.val, grant := 8, fifo := y.fifo ++ [e], fifoMark := max y.fifoMark (y.fifo.length + 1)
        busyClk := if y.fifo = [] ∧ y.spikes = [] then s.clk else y.busyClk } } } := by
  have hgo : ¬((!mereRuns s || !fifoRoom s g || granted s g != some 8) = true) := by
    rw [hr, fifoRoom_iff.2 hroom, hg]
    decide
  show execEncoderSlotDrain g s = _
  unfold execEncoderSlotDrain
  simp only [if_neg hgo, hx, hs]
  unfold grantTo
  rw [fifoPut_modTarn]
  unfold modTarn
  dsimp only
  rw [vmod_vmod]

/-- Settles O38: each command by the equations of its guards. -/
theorem spikesWakesEncoders : Obligations.SpikesWakesEncoders := by
  refine ⟨fun s k n due hr hroom hw => ⟨wakeDue_due hw hr hroom, wakeDue_early hw⟩, fun s k => wakeDue_waits, fun s k n due => decide_eq_true_iff,
    fun l n due b h hb => earliestWake_least h hb, fun s k hr hs h => ?empty, fun s k e rest hr hs h => ⟨fun hg hroom => ?granted, fun hw => ?waits⟩,
    fun s g x isUp e hr hroom hg hx hs => encoderSlotDrain_granted hr hroom hg hx hs, fun s g i => ⟨granted_some, granted_isSome⟩⟩
  case empty =>
    refine (spikeEmit_runs hr hs .clean).trans (congrArg Host.Outcome.next ?_)
    show settle s (emitFront s k) = _
    rw [emitFront_empty h]
    exact settle_of_ks (t := modTarn s k (spikeDone s.clk [])) rfl
  case granted =>
    have hdone := spikeDone_fields s.clk rest
    obtain ⟨ht, hfifo, hgrant, hemitting, hspikes, htarns⟩ :=
      grantTo_tarns s k (tarnOf e.event.target) (spikeDone s.clk rest) k.val e.event fun y => (hdone y).1
    refine ⟨_, ?_, ht, hfifo, hgrant, hemitting.trans (hdone _).2.1, hspikes.trans (hdone _).2.2, htarns, ?_⟩
    · refine (spikeEmit_runs hr hs .clean).trans (congrArg Host.Outcome.next ?_)
      show settle s (emitFront s k) = _
      rw [emitFront_granted h hg hroom, settle_of_ks (by rw [ht])]
    · refine (spikeEmit_runs hr hs .single).trans (congrArg Host.Outcome.next ?_)
      have hfront (l : CisternLog) := (frontEvents_mere (t := { s with log := l }) (s := s) rfl k).trans h
      have hgrant (l : CisternLog) := (granted_mere (t := { s with log := l }) (s := s) rfl _).trans hg
      refine (congrArg (settle s) (emitFront_granted (hfront { s.log with corrected := sat16 s.log.corrected }) (hgrant _) hroom)).trans ?_
      exact settle_of_ks (t := { grantTo (modTarn s k (spikeDone s.clk rest)) (tarnOf e.event.target) k.val e.event with
        log := { s.log with corrected := sat16 s.log.corrected } }) rfl
  case waits =>
    refine (spikeEmit_runs hr hs .clean).trans (congrArg Host.Outcome.next ?_)
    show settle s (emitFront s k) = _
    rw [emitFront_waits h hw, settle_of_ks rfl]

end Sys2Proof.Machine

namespace Sys2Proof.Machine

/-! The path of a record of this node (R673): what it may write. -/

/-- From `s` to `t` a record has taken its path: the store, Spillway, the calibration window, the encoders, Course, events and log. -/
structure PathOnly (s t : State) : Prop where
  state : t = { s with mere := t.mere, results := t.results, spill := t.spill, events := t.events, log := t.log, course := t.course, cal := t.cal }
  tarns : t.mere.tarns = s.mere.tarns
  classes : t.mere.classes = s.mere.classes

theorem PathOnly.refl (s : State) : PathOnly s s := ⟨rfl, rfl, rfl⟩

theorem PathOnly.trans {s t u : State} (h : PathOnly s t) (g : PathOnly t u) : PathOnly s u where
  state := by rw [g.state, h.state]
  tarns := g.tarns.trans h.tarns
  classes := g.classes.trans h.classes

theorem RecordOnly.path {s t : State} (h : RecordOnly s t) : PathOnly s t := by
  unfold RecordOnly at h
  exact ⟨by rw [h], by rw [h], by rw [h]⟩

theorem modEntry_path (s : State) (v : Vcn) (f : VcnEntry → VcnEntry) : PathOnly s (modEntry s v f) := ⟨rfl, rfl, rfl⟩

theorem raise_path (s : State) (ev : Fin 32) (arg : Nat) : PathOnly s (raise s ev arg) := ⟨rfl, rfl, rfl⟩

theorem mereDisturbed_path (s : State) (cause : Byte) : PathOnly s (mereDisturbed s cause) := by
  obtain ⟨hstate, hmere⟩ := mereDisturbed_mere s cause
  exact ⟨by rw [hstate], by rw [hmere], by rw [hmere]⟩

/-- An encoder's slot is written. -/
theorem encoders_path (s : State) (x : Vector Encoder 64) : PathOnly s { s with mere := { s.mere with encoders := x } } := ⟨rfl, rfl, rfl⟩

theorem encEmit_path (s : State) (e : Fin 64) (isUp : Bool) (ev : MereEvent) : PathOnly s (encEmit s e isUp ev) := by
  unfold encEmit
  extract_lets x full x1 x2 m u
  have hslot : PathOnly s u := encoders_path s _
  split
  · exact (hslot.trans (t := u) (u := { u with mere := { u.mere with lastCoalesce := some (u.time.count, u.time.era) } }) ⟨rfl, rfl, rfl⟩).trans
      (mereDisturbed_path ..)
  · exact hslot

theorem encTake_path (s : State) (e : Fin 64) (v : F32) : PathOnly s (encTake s e v) := by
  have hsend (x : Vector Encoder 64) (isUp : Bool) (w : Int) (ev : MereEvent) : PathOnly s
      (if w = 0 then { s with mere := { s.mere with encoders := x } } else encEmit { s with mere := { s.mere with encoders := x } } e isUp ev) := by
    split
    · exact encoders_path s x
    · exact (encoders_path s x).trans (encEmit_path ..)
  unfold encTake
  extract_lets p x l cap d h dv ku put kd send
  split
  · exact encoders_path ..
  · split
    · exact hsend ..
    · split
      · exact hsend ..
      · exact .refl s

theorem encodeRecord_path (s : State) (r : Record) : PathOnly s (encodeRecord s r) := by
  unfold encodeRecord
  split
  · exact .refl s
  · refine foldl_rel PathOnly .refl .trans _ (fun s e => ?_) _ s
    split
    · exact encTake_path ..
    · exact .refl s

theorem keepRecord_path (s : State) (r : Record) : PathOnly s (keepRecord s r []) := by
  have hput : PathOnly s (recordPut s r) :=
    (modEntry_path s ..).trans (foldl_rel RulesOnly .refl .trans _ ratioNote_rules _ _).recordOnly.path
  have hspill : PathOnly s (recordSpilled s r).1 := hput.trans (spillRecord_rules ..).1.recordOnly.path
  have hkept : PathOnly s (recordKept s r) :=
    (hspill.trans (modEntry_path ..)).trans (foldl_rel RulesOnly .refl .trans _ refreshAout_rules _ _).recordOnly.path
  have hcal : PathOnly s (calCollect (encodeRecord (recordKept s r) (recordSpilled s r).2) (recordSpilled s r).2) :=
    (hkept.trans (encodeRecord_path ..)).trans (calCollect_record ..).path
  show PathOnly s (if ((calCollect (encodeRecord (recordKept s r) (recordSpilled s r).2) (recordSpilled s r).2).role == .pod) = true then _ else _)
  split
  · exact hcal.trans ⟨rfl, rfl, rfl⟩
  · exact hcal

theorem storeRecord_path (s : State) (r : Record) : PathOnly s (storeRecord s r []) := by
  unfold storeRecord
  split
  · exact .refl s
  · split
    · exact ((logRecord_log (.refl s) ..).rulesOnly.recordOnly.trans (calCollect_record ..)).path
    · exact keepRecord_path s r

/-- Where no rule is loaded, a record that is not behind the one held stands in the store as it is, but for LATE. -/
theorem storeRecord_entry {s : State} {r : Record} {e : VcnEntry} (he : entryOf s r.vcn = some e) (hl : heldLater e r = false)
    (h0 : ruleCount s = 0) : entryOf (storeRecord s r []) r.vcn = some (keptEntry (lateForm s r) (lateForm s r) e) := by
  obtain ⟨k, hk, hk'⟩ := keepRecord_entry s r
  have hs : storeRecord s r [] = keepRecord s r [] := by
    unfold storeRecord
    rw [he]
    exact if_neg (by rw [hl]; exact Bool.false_ne_true)
  rw [hs, entryOf_of_quiet hk, entryOf_modEntry, if_pos rfl, he, hk' h0]
  rfl

/-! CLASS_RECORD_WRITE (R497 - R505). -/

section
variable (s : State) (c : Fin 64)

/-- The class once its earliest frame is a bucket. -/
def classTurned : MereClass :=
  let x := s.mere.classes[c]
  let f := nextFrame s x
  { x with frames := x.frames.drop 1, buckets := ((f.spikes, f.us) :: x.buckets).take 64, frameEnd := nextEnd s x, ended := min 64 (x.ended + 1), fresh := true }

/-- The buckets of the class's window, and their spikes and time. -/
def windowBuckets : List (Nat × Nat) := (classTurned s c).buckets.take (classWindow s c.val)

def windowSpikes : Nat := ((windowBuckets s c).map (·.1)).sum

def windowUs : Nat := ((windowBuckets s c).map (·.2)).sum + (classWindow s c.val - (windowBuckets s c).length) * classUs s

/-- The rate over the window (R499). -/
def windowRate : F32 := ofRat ((windowSpikes s c : Rat) * 10 ^ 6 / (windowUs s c : Rat))

/-- The asserted state that follows (R500). -/
def windowOn : Bool :=
  if fle (classOn s c.val) (windowRate s c) = true then true
  else if fle (windowRate s c) (classOff s c.val) = true then false else s.mere.classes[c].asserted

/-- The state with the frame as a bucket. -/
def frameTurned : State := { s with mere := { s.mere with classes := s.mere.classes.set c.val (classTurned s c) } }

theorem frameTurned_class : (frameTurned s c).mere.classes[c] = classTurned s c := Vector.getElem_set_self ..

/-- The record of the class. -/
theorem classRecord_turned (e : VcnEntry) (late : Bool) :
    (classRecord (frameTurned s c) c e late).1 = { s with mere := { s.mere with
        classes := s.mere.classes.set c.val { (classTurned s c) with asserted := windowOn s c } } } ∧
      (classRecord (frameTurned s c) c e late).2.vcn = ownVcn s (0x40 + c.val) ∧
      (classRecord (frameTurned s c) c e late).2.seq = e.frameSeq ∧
      (classRecord (frameTurned s c) c e late).2.time = (classTurned s c).frameEnd ∧
      (classRecord (frameTurned s c) c e late).2.value = windowRate s c ∧
      (classRecord (frameTurned s c) c e late).2.raw = BitVec.ofNat 32 ((if windowOn s c = true then 2 ^ 31 else 0) + min (windowSpikes s c) 16777215) ∧
      (isValid (classRecord (frameTurned s c) c e late).2.status = true ↔ classWindow s c.val ≤ (classTurned s c).ended) := by
  have hclass := frameTurned_class s c
  unfold classRecord
  dsimp only
  rw [hclass]
  refine ⟨?_, rfl, rfl, rfl, rfl, rfl, ?_⟩
  · show { s with mere := { s.mere with classes := (s.mere.classes.set c.val (classTurned s c)).set c.val { (classTurned s c) with
      asserted := windowOn s c } } } = _
    rw [Vector.set_set]
  · rw [isValid_word]
    show (!decide ((classTurned s c).ended < classWindow s c.val)) = true ↔ _
    rw [Bool.not_eq_true', decide_eq_false_iff_not, not_lt]

end

section
variable {s : State} {c : Fin 64}

theorem classChanged_path (s : State) (c : Nat) : PathOnly s (classChanged s c) := by
  unfold classChanged
  split
  · exact raise_path ..
  · exact .refl s

theorem classChanged_results (s : State) (c : Nat) : (classChanged s c).results = s.results := by
  unfold classChanged
  split <;> rfl

theorem writeClass_unknown (he : entryOf s (ownVcn s (0x40 + c.val)) = none) (atLimit : Bool) (bad : List (Fin 256)) :
    writeClass c atLimit bad s = frameTurned s c := by
  have hf : entryOf (frameTurned s c) (ownVcn (frameTurned s c) (0x40 + c.val)) = none := he
  unfold writeClass
  show (match entryOf (frameTurned s c) (ownVcn (frameTurned s c) (0x40 + c.val)) with | none => frameTurned s c | some e => _) = _
  rw [hf]

/-- The record of a known VCN written, with EV24 where the class changes its state. -/
theorem writeClass_known {e : VcnEntry} (he : entryOf s (ownVcn s (0x40 + c.val)) = some e) (atLimit : Bool) (bad : List (Fin 256)) :
    ∃ late, writeClass c atLimit bad s =
      if ((classRecord (frameTurned s c) c e late).2.raw.msb != s.mere.classes[c].asserted) = true
        then classChanged (storeRecord (classRecord (frameTurned s c) c e late).1 (classRecord (frameTurned s c) c e late).2 bad) c.val
        else storeRecord (classRecord (frameTurned s c) c e late).1 (classRecord (frameTurned s c) c e late).2 bad := by
  have hf : entryOf (frameTurned s c) (ownVcn (frameTurned s c) (0x40 + c.val)) = some e := he
  refine ⟨atLimit || (nextFrame s s.mere.classes[c]).late, ?_⟩
  unfold writeClass
  show (match entryOf (frameTurned s c) (ownVcn (frameTurned s c) (0x40 + c.val)) with
    | none => frameTurned s c
    | some e => if ((classRecord (frameTurned s c) c e (atLimit || (nextFrame s s.mere.classes[c]).late)).2.raw.msb != s.mere.classes[c].asserted) = true
        then classChanged (storeRecord (classRecord (frameTurned s c) c e (atLimit || (nextFrame s s.mere.classes[c]).late)).1
          (classRecord (frameTurned s c) c e (atLimit || (nextFrame s s.mere.classes[c]).late)).2 bad) c.val
        else storeRecord (classRecord (frameTurned s c) c e (atLimit || (nextFrame s s.mere.classes[c]).late)).1
          (classRecord (frameTurned s c) c e (atLimit || (nextFrame s s.mere.classes[c]).late)).2 bad) = _
  rw [hf]

/-- A class record written: its class has turned, and nothing of the tarns and the other classes changes. -/
theorem writeClass_class (s : State) (c : Fin 64) (atLimit : Bool) : ∃ on, PathOnly
    { s with mere := { s.mere with classes := s.mere.classes.set c.val { (classTurned s c) with asserted := on } } } (writeClass c atLimit [] s) := by
  cases he : entryOf s (ownVcn s (0x40 + c.val)) with
  | none =>
    rw [writeClass_unknown he]
    exact ⟨_, .refl (frameTurned s c)⟩
  | some e =>
    obtain ⟨late, hw⟩ := writeClass_known he atLimit []
    obtain ⟨hs, -⟩ := classRecord_turned s c e late
    refine ⟨windowOn s c, ?_⟩
    rw [hw, hs]
    split
    · exact (storeRecord_path ..).trans (classChanged_path ..)
    · exact storeRecord_path ..

/-- The record of a known VCN, where no rule is loaded. -/
theorem writeClass_record {e : VcnEntry} (he : entryOf s (ownVcn s (0x40 + c.val)) = some e)
    (hq : ∀ h, e.record = some h → (e.frameSeq - h.seq).toNat < 2 ^ 31) (h0 : ruleCount s = 0) (atLimit : Bool) :
    (writeClass c atLimit [] s).mere.classes[c] = { (classTurned s c) with asserted := windowOn s c } ∧
    ∃ (e' : VcnEntry) (q : Record), entryOf (writeClass c atLimit [] s) (ownVcn s (0x40 + c.val)) = some e' ∧ e'.record = some q ∧
      e'.frameSeq = e.frameSeq ∧ e'.skipped = 0 ∧ q.seq = e.frameSeq ∧ q.time = (classTurned s c).frameEnd ∧ q.value = windowRate s c ∧
      q.raw = BitVec.ofNat 32 ((if windowOn s c = true then 2 ^ 31 else 0) + min (windowSpikes s c) 16777215) ∧
      (isValid q.status = true ↔ classWindow s c.val ≤ (classTurned s c).ended) := by
  obtain ⟨late, hw⟩ := writeClass_known he atLimit []
  obtain ⟨hs, hvcn, hseq, htime, hvalue, hraw, hvalid⟩ := classRecord_turned s c e late
  generalize classRecord (frameTurned s c) c e late = p at *
  obtain ⟨u, r⟩ := p
  change u = _ at hs
  have hu : entryOf u r.vcn = some e := by
    rw [hvcn, hs]
    exact he
  have hrules : ruleCount u = 0 := by
    rw [hs]
    exact h0
  have hlater : heldLater e r = false := not_heldLater hseq hq
  have hstored := storeRecord_entry hu hlater hrules
  rw [hvcn] at hstored
  have hclass : (storeRecord u r []).mere.classes[c] = { (classTurned s c) with asserted := windowOn s c } := by
    rw [(storeRecord_path u r).classes, hs]
    exact Vector.getElem_set_self ..
  obtain ⟨hlseq, hltime, hlvalue, hlraw, -, hlvalid⟩ := lateForm_fields u r
  have hentry : entryOf (writeClass c atLimit [] s) (ownVcn s (0x40 + c.val)) = some (keptEntry (lateForm u r) (lateForm u r) e) := by
    rw [hw]
    split
    · exact (entryOf_of_results (classChanged_results ..) _).trans hstored
    · exact hstored
  refine ⟨?_, _, lateForm u r, hentry, rfl, rfl, rfl, hlseq.trans hseq, hltime.trans htime, hlvalue.trans hvalue, hlraw.trans hraw, ?_⟩
  · rw [hw]
    split
    · exact (congrArg (fun x : Vector MereClass 64 => x[c]) (classChanged_path (storeRecord u r []) c.val).classes).trans hclass
    · exact hclass
  · rw [hlvalid]
    exact hvalid

theorem classRecordWrite_waits {bad : List (Fin 256)} (h : classBound s c.val = false ∨ sinceEnd s s.mere.classes[c] < 0 ∨
    (drainedTo s (nextEnd s s.mere.classes[c]) = false ∧ sinceEnd s s.mere.classes[c] < lagLimit s)) :
    exec (.classRecordWrite c bad) s = .next s := by
  refine if_pos ?_
  simp only [Bool.or_eq_true, Bool.not_eq_true', Bool.and_eq_true, decide_eq_true_eq]
  tauto

theorem classRecordWrite_writes (hr : mereRuns s = true) (hb : classBound s c.val = true) (he : 0 ≤ sinceEnd s s.mere.classes[c])
    (hd : drainedTo s (nextEnd s s.mere.classes[c]) = true ∨ (lagLimit s : Int) ≤ sinceEnd s s.mere.classes[c]) (bad : List (Fin 256)) :
    exec (.classRecordWrite c bad) s = .next (settle s
      (startVcn (writeClass c (!drainedTo s (nextEnd s s.mere.classes[c])) bad s) (ownVcn s (0x40 + c.val)))) := by
  refine if_neg ?_
  rw [Bool.or_eq_true, Bool.or_eq_true, Bool.or_eq_true, Bool.and_eq_true, Bool.not_eq_true', Bool.not_eq_true', Bool.not_eq_true', decide_eq_true_eq,
    decide_eq_true_eq, hr, hb]
  rintro (((h | h) | h) | ⟨hopen, hlimit⟩)
  · exact absurd h (by decide)
  · exact absurd h (by decide)
  · omega
  · rcases hd with hd | hd
    · exact Bool.false_ne_true (hopen.symm.trans hd)
    · omega

end

end Sys2Proof.Machine

namespace Sys2Proof.Machine

/-! MERE_STALL (R503, R506 - R508, R515). -/

/-- A class frame taken away is a frame of its VCN without a record. -/
def SkipsOnly (s t : State) : Prop := t = { s with results := t.results, spill := t.spill }

theorem SkipsOnly.trans {s t u : State} (h : SkipsOnly s t) (g : SkipsOnly t u) : SkipsOnly s u := by
  unfold SkipsOnly at *
  rw [g, h]

theorem ratioMiss_skips (s : State) (n : Fin 2) : SkipsOnly s (ratioMiss s n) := by
  have h := (refreshAout_pins { s with spill := { s.spill with aout := vmod s.spill.aout n fun o => { o with missing := min 3 (o.missing + 1) } } } n).1
  unfold SkipsOnly ratioMiss
  rw [h]

theorem skipStart_skips (s : State) (v w : Vcn) : SkipsOnly s (startVcn (skipVcn s v) w) :=
  .trans (t := skipVcn s v) (.trans (t := modEntry s v skipEntry) rfl (foldl_rel SkipsOnly (fun _ => rfl) .trans _ ratioMiss_skips _ _)) rfl

theorem dropClassFrames_skips (s : State) : SkipsOnly s (dropClassFrames s) := by
  refine foldl_rel SkipsOnly (fun _ => rfl) .trans _ (fun s c => ?_) _ s
  split
  · exact foldl_rel SkipsOnly (fun _ => rfl) .trans _ (fun s _ => skipStart_skips s _ _) _ s
  · rfl

/-- From `s` to `t` lags of tarns end. -/
structure LagsEnd (s t : State) : Prop where
  state : t = { s with mere := { s.mere with tarns := t.mere.tarns, lagSpans := t.mere.lagSpans } }
  tarn : ∀ j : Fin 8, t.mere.tarns[j] = { s.mere.tarns[j] with lagging := t.mere.tarns[j].lagging }

theorem endLags_ends (s : State) : LagsEnd s (endLags s) := by
  refine foldl_rel LagsEnd (fun _ => ⟨rfl, fun _ => rfl⟩) (fun h g => ⟨by rw [g.state, h.state], fun j => by rw [g.tarn, h.tarn]⟩) _ (fun s k => ?_) _ s
  unfold endLag
  split
  · exact ⟨rfl, fun _ => rfl⟩
  next a _ =>
    refine ⟨rfl, fun j => ?_⟩
    by_cases hj : j = k
    · subst hj
      rw [modTarn_self]
    · rw [modTarn_other _ hj]

/-- From `s` to `t` events are raised. -/
def EventsOnly (s t : State) : Prop := t = { s with events := t.events } ∧ PendingStays s t

theorem classChanged_events (s : State) (c : Nat) : EventsOnly s (classChanged s c) := by
  unfold classChanged
  split
  · exact ⟨rfl, raise_stays ⟨fun _ h => h⟩ 24 _⟩
  · exact ⟨rfl, ⟨fun _ h => h⟩⟩

theorem EventsOnly.trans {s t u : State} (h : EventsOnly s t) (g : EventsOnly t u) : EventsOnly s u :=
  ⟨by rw [g.1, h.1], h.2.trans g.2⟩

theorem classBound_config {s t : State} (h : t.config = s.config) (c : Nat) : classBound t c = classBound s c := by
  unfold classBound classCount sec
  rw [h]

theorem classEvent_config {s t : State} (h : t.config = s.config) (c : Nat) : classEvent t c = classEvent s c := by
  unfold classEvent classEntry encCount sec
  rw [h]

/-- An asserted class of the list, bound and with EVENT, has EV24. -/
theorem dropAsserted_fold (l : List (Fin 64)) (s : State) :
    EventsOnly s (l.foldl (fun s c => if s.mere.classes[c].asserted then classChanged s c.val else s) s) ∧
      ∀ c ∈ l, s.mere.classes[c].asserted = true → classBound s c.val = true → classEvent s c.val = true →
        (l.foldl (fun s c => if s.mere.classes[c].asserted then classChanged s c.val else s) s).events.pending.getLsbD 24 = true := by
  induction l generalizing s with
  | nil => exact ⟨⟨rfl, ⟨fun _ h => h⟩⟩, fun c hc => absurd hc (by simp)⟩
  | cons d l ih =>
    rw [List.foldl_cons]
    have hstep : EventsOnly s (if s.mere.classes[d].asserted then classChanged s d.val else s) := by
      split
      · exact classChanged_events ..
      · exact ⟨rfl, ⟨fun _ h => h⟩⟩
    have hpending (ha : s.mere.classes[d].asserted = true) (hb : classBound s d.val = true) (he : classEvent s d.val = true) :
        (if s.mere.classes[d].asserted then classChanged s d.val else s).events.pending.getLsbD 24 = true := by
      rw [if_pos ha]
      unfold classChanged
      rw [hb, he, if_pos (by decide)]
      exact raise_pending s 24 _
    generalize (if s.mere.classes[d].asserted then classChanged s d.val else s) = t at *
    obtain ⟨hrest, hlater⟩ := ih t
    have hmere : t.mere = s.mere := by rw [hstep.1]
    have hconfig : t.config = s.config := by rw [hstep.1]
    refine ⟨hstep.trans hrest, fun c hc ha hb he => ?_⟩
    rcases List.mem_cons.1 hc with rfl | hc
    · exact hrest.2.stays 24 (hpending ha hb he)
    · exact hlater c hc (by rw [hmere]; exact ha) ((classBound_config hconfig _).trans hb) ((classEvent_config hconfig _).trans he)

theorem dropAsserted_events (s : State) : EventsOnly s (dropAsserted s) ∧ ∀ c : Fin 64, s.mere.classes[c].asserted = true →
    classBound s c.val = true → classEvent s c.val = true → (dropAsserted s).events.pending.getLsbD 24 = true := by
  have hmem : ∀ c : Fin 64, c ∈ List.finRange 64 := List.mem_finRange
  unfold dropAsserted
  generalize List.finRange 64 = l at hmem ⊢
  exact ⟨(dropAsserted_fold l s).1, fun c => (dropAsserted_fold l s).2 c (hmem c)⟩

/-- A tarn without its neurons, queues and wakes. -/
def tarnCleared (y : Tarn) : Tarn :=
  { y with neurons := [], fifo := [], spikes := [], heldSpikes := 0, emitting := none, wakes := [], lagging := none }

/-- An encoder without its level and events. -/
def encoderCleared (x : Encoder) : Encoder := { x with init := false, up := none, down := none }

/-- Mere as a stall reset leaves it, before the reset is counted. -/
def stallCleared (s : State) : State := clearClasses (clearTarns (dropAsserted (dropClassFrames (endLags s)))) true

theorem lastFrameEnd_congr {s t : State} (hc : t.config = s.config) (hm : t.modes = s.modes) (ht : t.time = s.time) :
    lastFrameEnd t = lastFrameEnd s := by
  unfold lastFrameEnd frameRun classUs classMult frameK sec
  rw [ht, hc, hm]

/-- Tarns, classes and encoders cleared. -/
theorem clearClasses_clearTarns (d : State) : clearClasses (clearTarns d) true = { d with mere := { d.mere with
    start := d.time.count, tarns := d.mere.tarns.map tarnCleared, classes := Vector.replicate 64 { frameEnd := lastFrameEnd d }
    encoders := d.mere.encoders.map encoderCleared } } := by
  have hclasses : d.mere.classes.map (fun x : MereClass => ({ asserted := x.asserted && !true, frameEnd := lastFrameEnd (clearTarns d) } : MereClass)) =
      Vector.replicate 64 { frameEnd := lastFrameEnd d } := by
    refine Vector.ext fun c hc => ?_
    rw [Vector.getElem_map, Vector.getElem_replicate, lastFrameEnd_congr (s := d) (t := clearTarns d) rfl rfl rfl, Bool.not_true, Bool.and_false]
  rw [← hclasses]
  rfl

/-- What a stall reset leaves of Mere. -/
theorem stallCleared_spec (s : State) :
    stallCleared s = { s with mere := (stallCleared s).mere, events := (stallCleared s).events, results := (stallCleared s).results
                              spill := (stallCleared s).spill } ∧
      (stallCleared s).mere = { s.mere with
        start := s.time.count, tarns := s.mere.tarns.map tarnCleared, lagSpans := (stallCleared s).mere.lagSpans
        classes := Vector.replicate 64 { frameEnd := lastFrameEnd s }, encoders := s.mere.encoders.map encoderCleared } ∧
      ∀ c : Fin 64, s.mere.classes[c].asserted = true → classBound s c.val = true → classEvent s c.val = true →
        (stallCleared s).events.pending.getLsbD 24 = true := by
  have hcleared := clearClasses_clearTarns (dropAsserted (dropClassFrames (endLags s)))
  have hlags := endLags_ends s
  have hskips := dropClassFrames_skips (endLags s)
  obtain ⟨⟨hevents, -⟩, hpending⟩ := dropAsserted_events (dropClassFrames (endLags s))
  unfold stallCleared
  rw [hcleared]
  generalize endLags s = a at *
  generalize dropClassFrames a = b at *
  generalize dropAsserted b = d at *
  have hbmere : b.mere = a.mere := by rw [hskips]
  have hdmere : d.mere = a.mere := by rw [hevents, hskips]
  have hdtime : d.time = s.time := by rw [hevents, hskips, hlags.state]
  have hconfig : b.config = s.config := by rw [hskips, hlags.state]
  refine ⟨?_, ?_, fun c ha hb he => ?_⟩
  · dsimp only
    rw [hevents, hskips, hlags.state]
  · have htarns : a.mere.tarns.map tarnCleared = s.mere.tarns.map tarnCleared := by
      refine Vector.ext fun j hj => ?_
      have ht := hlags.tarn ⟨j, hj⟩
      simp only [Fin.getElem_fin] at ht
      rw [Vector.getElem_map, Vector.getElem_map, ht]
      rfl
    have hend : lastFrameEnd d = lastFrameEnd s :=
      lastFrameEnd_congr (by rw [hevents, hskips, hlags.state]) (by rw [hevents, hskips, hlags.state]) hdtime
    dsimp only
    rw [hdtime, hend, hdmere, htarns, hlags.state]
  · have hclass : a.mere.classes = s.mere.classes := by rw [hlags.state]
    exact hpending c (by rw [hbmere, hclass]; exact ha) ((classBound_config hconfig _).trans hb) ((classEvent_config hconfig _).trans he)

section
variable {s : State} {k : Fin 8}

theorem mereStall_waits (h : (s.mere.tarns[k].fifo = [] ∧ s.mere.tarns[k].spikes = []) ∨ s.clk < s.mere.tarns[k].busyClk + 9500) :
    exec (.mereStall k) s = .next s := by
  have hs : tarnStalled s s.mere.tarns[k] = false := by
    unfold tarnStalled
    rcases h with h | h
    · rw [(isEmpty_and_iff _ _).2 h]
      rfl
    · rw [decide_eq_false (not_le.2 h), Bool.and_false]
  exact if_pos (by rw [hs, Bool.not_false, Bool.or_true])

theorem tarnStalled_true (hq : s.mere.tarns[k].fifo ≠ [] ∨ s.mere.tarns[k].spikes ≠ []) (hb : s.mere.tarns[k].busyClk + 9500 ≤ s.clk) :
    tarnStalled s s.mere.tarns[k] = true := by
  unfold tarnStalled
  rw [decide_eq_true hb, Bool.and_true, Bool.not_eq_true', Bool.eq_false_iff]
  intro he
  obtain ⟨hfifo, hspikes⟩ := (isEmpty_and_iff _ _).1 he
  exact hq.elim (fun h => h hfifo) fun h => h hspikes

/-- The stall resets of the last 60 s. -/
def recentStalls (s : State) : List Nat := s.mere.stallTimes.filter fun t => s.clk ≤ t + 60000000

theorem mereStall_cleared (hr : mereRuns s = true) (hs : tarnStalled s s.mere.tarns[k] = true) : exec (.mereStall k) s =
    if 2 ≤ (recentStalls s).length
      then .next (raise { skipClasses (stallCleared s) with mere := { (skipClasses (stallCleared s)).mere with power := .offStall, stallTimes := [] } } 26
        (skipClasses (stallCleared s)).mere.stallResets.toNat)
      else .next (raise { stallCleared s with mere := { (stallCleared s).mere with
        stallResets := sat16 (stallCleared s).mere.stallResets, stallTimes := (stallCleared s).clk :: recentStalls s } } 26
        (sat16 (stallCleared s).mere.stallResets).toNat) :=
  if_neg (by rw [hr, hs]; decide)

end

/-- Settles O39: a class turns its frame and its record takes its path; a stall clears Mere whole. -/
theorem classRecordsStallsProbe : Obligations.ClassRecordsStallsProbe := by
  refine ⟨fun s c hr hb => ?record, fun s c bad => classRecordWrite_waits, fun s k hr hq hb => ?stall, fun s k => mereStall_waits, fun s hr hw => ?probe⟩
  case record =>
    intro x he hd f n win total us value on
    have hexec := classRecordWrite_writes hr hb he hd []
    generalize (!drainedTo s (nextEnd s s.mere.classes[c])) = atLimit at hexec
    obtain ⟨asserted, hpath⟩ := writeClass_class s c atLimit
    have hrec {e : VcnEntry} := writeClass_record (s := s) (c := c) (e := e) (atLimit := atLimit)
    generalize writeClass c atLimit [] s = w at *
    have hclass : w.mere.classes[c] = { (classTurned s c) with asserted := asserted } := by
      rw [hpath.classes]
      exact Vector.getElem_set_self ..
    have hsettle : settle s (startVcn w (ownVcn s (0x40 + c.val))) = startVcn w (ownVcn s (0x40 + c.val)) :=
      settle_of_ks (show w.ks = s.ks by rw [hpath.state])
    refine ⟨startVcn w (ownVcn s (0x40 + c.val)), hexec.trans (congrArg Host.Outcome.next hsettle), ?_, ?_, fun d hne => ?_, hpath.tarns,
      fun e hk hq h0 => ?_⟩
    · exact ((hpath.trans (modEntry_path ..)).state.trans rfl)
    · have ha : asserted = w.mere.classes[c].asserted := by rw [hclass]
      exact hclass.trans (congrArg (fun a : Bool => { (classTurned s c) with asserted := a }) ha)
    · show w.mere.classes[d] = s.mere.classes[d]
      rw [hpath.classes]
      exact Vector.getElem_set_ne c.isLt d.isLt fun h => hne (Fin.ext h.symm)
    · obtain ⟨hon, e', q, hentry, hq', hseq, hskip, hqseq, htime, hvalue, hraw, hvalid⟩ := hrec hk hq h0
      refine ⟨{ e' with frameSeq := nextSeq e'.frameSeq }, q, ?_, hq', by rw [hseq], hskip, hqseq, ?_, hvalue, hraw, ?_, hvalid⟩
      · exact (entryOf_modEntry ..).trans ((if_pos rfl).trans (by rw [hentry]; rfl))
      · show q.time = w.mere.classes[c].frameEnd
        rw [htime, hon]
      · show w.mere.classes[c].asserted = _
        rw [hon]
        rfl
  case stall =>
    intro recent
    have hexec := mereStall_cleared hr (tarnStalled_true hq hb)
    obtain ⟨hu, hmere, hpending⟩ := stallCleared_spec s
    generalize stallCleared s = u at *
    have hpower : s.mere.power = .running := by
      have h := (Bool.and_eq_true_iff.1 hr).2
      exact eq_of_beq h
    have htarns (j : Fin 8) : u.mere.tarns[j] = tarnCleared s.mere.tarns[j] := by
      rw [hmere]
      exact Vector.getElem_map ..
    have hclasses (c : Fin 64) : u.mere.classes[c] = { frameEnd := lastFrameEnd s } := by
      rw [hmere]
      exact Vector.getElem_replicate ..
    have hencoders (c : Fin 64) : u.mere.encoders[c] = encoderCleared s.mere.encoders[c] := by
      rw [hmere]
      exact Vector.getElem_map ..
    have hstart : u.mere.start = s.time.count := by rw [hmere]
    have himage : u.mere.image = s.mere.image := by rw [hmere]
    have hresets : u.mere.stallResets = s.mere.stallResets := by rw [hmere]
    have hrunning : u.mere.power = .running := by rw [hmere]; exact hpower
    have hclk : u.clk = s.clk := by rw [hu]
    have hevent (v : State) (hv : v.events = u.events) (n : Nat) (c : Fin 64) (ha : s.mere.classes[c].asserted = true)
        (hbound : classBound s c.val = true) (he : classEvent s c.val = true) : (raise v 26 n).events.pending.getLsbD 24 = true :=
      (raise_stays (s := v) ⟨fun _ h => h⟩ 26 n).stays 24 (by rw [hv]; exact hpending c ha hbound he)
    by_cases h2 : 2 ≤ recent.length
    · refine ⟨_, hexec.trans (if_pos h2), ?_, htarns, fun c => ⟨hclasses c, hencoders c, hevent _ rfl _ c⟩, hstart, himage, raise_pending _ 26 _,
        fun h => absurd h2 (not_le.2 h), fun _ => ⟨rfl, hresets⟩⟩
      show ({ u with results := _, mere := _, events := _ } : State) = _
      rw [hu]
      rfl
    · refine ⟨_, hexec.trans (if_neg h2), ?_, htarns, fun c => ⟨hclasses c, hencoders c, hevent _ rfl _ c⟩, hstart, himage, raise_pending _ 26 _,
        fun _ => ⟨hrunning, congrArg sat16 hresets, congrArg (· :: recent) hclk⟩, fun h => absurd h h2⟩
      show ({ u with mere := _, events := _ } : State) = _
      rw [hu]
      rfl
  case probe =>
    intro k n
    refine if_neg ?_
    rw [hr, hw]
    decide

end Sys2Proof.Machine

namespace Sys2Proof.Machine

/-! Keystone's detectors (O58). A fault outside the SAFE mask writes its own record alone, and codes only become active. -/

/-- `t` differs from `s` by declared faults outside the SAFE mask: no code ends. -/
structure FaultsAdded (s t : State) : Prop where
  only : t = { s with freeCount := t.freeCount, events := t.events, log := t.log
                      ks := { s.ks with active := t.ks.active, records := t.ks.records, index := t.ks.index, count := t.ks.count, seen := t.ks.seen } }
  stays : ∀ j, faultActive s j = true → faultActive t j = true

theorem FaultsAdded.refl (s : State) : FaultsAdded s s := ⟨rfl, fun _ h => h⟩

theorem FaultsAdded.trans {s t u : State} (h : FaultsAdded s t) (k : FaultsAdded t u) : FaultsAdded s u where
  only := by
    have h1 := h.only
    have k1 := k.only
    rw [k1, h1]
  stays := fun j x => k.stays j (h.stays j x)

theorem FaultsAdded.cfgSafeMask {s t : State} (h : FaultsAdded s t) : cfgSafeMask t = cfgSafeMask s := by
  rw [h.only]
  rfl

theorem noteSeen_added (s : State) (code : Fin 28) : FaultsAdded s (noteSeen s code) := ⟨rfl, fun _ h => h⟩

theorem recordFault_added {s : State} {code : Fin 28} (hn : faultActive s code = false) (arg evArg : Nat) (masked : Bool) :
    FaultsAdded s (recordFault s code arg evArg masked) := by
  obtain ⟨h, -, -⟩ := recordFault_new s code arg evArg masked hn
  unfold LogOnly at h
  generalize recordFault s code arg evArg masked = r at h
  refine ⟨by rw [h]; rfl, fun j hj => ?_⟩
  rw [faultActive, h]
  change (s.ks.active ||| BitVec.ofNat 32 (2 ^ code.val)).getLsbD j.val = true
  rw [BitVec.getLsbD_or, show s.ks.active.getLsbD j.val = true from hj, Bool.true_or]

theorem declareOpen_added {s : State} {code : Fin 28} (hm : (cfgSafeMask s).getLsbD code.val = false) (masked : Bool) :
    FaultsAdded s (declareOpen s code masked) := by
  cases hn : faultActive s code with
  | true =>
    rw [declareOpen, if_pos hn]
    exact noteSeen_added s code
  | false =>
    have hx := recordFault_added (s := (drawFree s).2) (code := code) hn ((drawFree s).1.toNat % 65536) code.val masked
    have hd : declareOpen s code masked = recordFault (drawFree s).2 code ((drawFree s).1.toNat % 65536) code.val masked := by
      unfold declareOpen
      rw [if_neg (by rw [hn]; decide)]
      dsimp only
      rw [declare, declareWith, if_neg (show ¬faultActive (drawFree s).2 code = true from by rw [show faultActive (drawFree s).2 code = false from hn]; decide)]
      dsimp only
      rw [hx.cfgSafeMask, show Machine.cfgSafeMask (drawFree s).2 = Machine.cfgSafeMask s from rfl, hm, Bool.and_false, if_neg (by decide)]
    rw [hd]
    exact FaultsAdded.trans (t := (drawFree s).2) ⟨rfl, fun _ h => h⟩ hx

/-- A fault declared on a condition. -/
theorem declareOpen_if {s : State} {code : Fin 28} (hm : (cfgSafeMask s).getLsbD code.val = false) (c masked : Bool) :
    FaultsAdded s (if c = true then declareOpen s code masked else s) ∧
      (c = true → faultActive (if c = true then declareOpen s code masked else s) code = true) := by
  cases c with
  | true => exact ⟨declareOpen_added hm masked, fun _ => declareOpen_active ..⟩
  | false => exact ⟨.refl s, fun h => absurd h (by decide)⟩

/-! A code that clears. -/

theorem clearFault_ks (s : State) (code : Fin 28) : (clearFault s code).ks = { s.ks with
    active := s.ks.active &&& ~~~(BitVec.ofNat 32 (2 ^ code.val))
    records := s.ks.records.map fun e => if e.code = BitVec.ofNat 16 code.val then { e with active := false } else e } := by
  unfold clearFault
  dsimp only
  split
  · unfold noteGone
    split <;> rfl
  · rfl

theorem clearFault_other (s : State) {code j : Fin 28} (h : j ≠ code) : faultActive (clearFault s code) j = faultActive s j := by
  have hj : j.val < 32 := by omega
  have hne : code.val ≠ j.val := fun x => h (Fin.ext x.symm)
  rw [faultActive, clearFault_ks, BitVec.getLsbD_and, BitVec.getLsbD_not, BitVec.getLsbD_ofNat, Nat.testBit_two_pow_of_ne hne, decide_eq_true hj]
  exact Bool.and_true _

theorem clearFault_records (s : State) (code : Fin 28) (i : Fin 16) (h : (clearFault s code).ks.records[i].active = true) :
    (clearFault s code).ks.records[i].code ≠ BitVec.ofNat 16 code.val := by
  rw [clearFault_ks] at h ⊢
  simp only [Fin.getElem_fin, Vector.getElem_map] at h ⊢
  split at h
  · exact nomatch h
  · next hc => rw [if_neg hc]; exact hc

theorem clearFault_only (s : State) (code : Fin 28) :
    clearFault s code = { s with ks := (clearFault s code).ks, modes := (clearFault s code).modes } := by
  have h := clearFault_clear s code
  unfold ClearOnly at h
  rw [h]

/-! The reference vote (R751 - R753). -/

/-- The votes with one more measurement, and the references outvoted. -/
def voteNoted (s : State) (v : Int × Int × Int) : State :=
  let l := (v :: s.ks.votes).take 10
  { s with ks := { s.ks with votes := l, outA := s.ks.outA || tenOf l votesA, outB := s.ks.outB || tenOf l votesB, outC := s.ks.outC || tenOf l votesC } }

theorem takeVote_noted {s : State} (v : Int × Int × Int) (h9 : (cfgSafeMask s).getLsbD 9 = false) (hA : (cfgSafeMask s).getLsbD 0x0A = false) :
    FaultsAdded (voteNoted s v) (takeVote s v) ∧
      (tenOf ((v :: s.ks.votes).take 10) votesA = true ∨ tenOf ((v :: s.ks.votes).take 10) votesB = true ∨
        tenOf ((v :: s.ks.votes).take 10) votesC = true →
        faultActive (takeVote s v) 9 = true) := by
  have hs : FaultsAdded (voteNoted s v) (if moved v.1 = true then noteSeen (voteNoted s v) 0x0A else voteNoted s v) := by
    split
    · exact noteSeen_added _ _
    · exact .refl _
  have hm : ∀ {k : Nat} {x : State}, FaultsAdded (voteNoted s v) x → (cfgSafeMask s).getLsbD k = false → (cfgSafeMask x).getLsbD k = false :=
    fun hx hk => by rw [hx.cfgSafeMask]; exact hk
  unfold takeVote
  dsimp only
  have h9' := declareOpen_if (code := 9) (hm hs h9)
    (tenOf ((v :: s.ks.votes).take 10) votesA || tenOf ((v :: s.ks.votes).take 10) votesB || tenOf ((v :: s.ks.votes).take 10) votesC) true
  refine ⟨hs.trans (h9'.1.trans (declareOpen_if ?_ _ false).1), fun h => (declareOpen_if ?_ _ false).1.stays 9 (h9'.2 ?_)⟩
  · exact hm (hs.trans h9'.1) hA
  · exact hm (hs.trans h9'.1) hA
  · simpa [or_assoc] using h

/-- REFIN judged: lost when it is bad, back when it is lost and has been good for `n` = 100 measurements. -/
def refinJudged (s : State) (bad : Bool) (n : Nat) : State :=
  let s := { s with ks := { s.ks with refinIn := n } }
  if bad then declareOpen { s with ks := { s.ks with refinLost := true } } 0x0B true
  else if s.ks.refinLost && n = 100 then
    let s := { s with ks := { s.ks with refinLost := false } }
    if s.ks.injected.contains 0x0B then s else clearFault s 0x0B
  else s

/-- REFIN is lost with code 0x0B when it is bad, and no other code is touched (R753). -/
theorem refinJudged_spec {s : State} (hm : (cfgSafeMask s).getLsbD 0x0B = false) (bad : Bool) (n : Nat) :
    refinJudged s bad n = { s with
      freeCount := (refinJudged s bad n).freeCount, ks := (refinJudged s bad n).ks, events := (refinJudged s bad n).events
      log := (refinJudged s bad n).log, modes := (refinJudged s bad n).modes } ∧
    ((refinJudged s bad n).ks.votes = s.ks.votes ∧ (refinJudged s bad n).ks.outA = s.ks.outA ∧ (refinJudged s bad n).ks.outB = s.ks.outB ∧
      (refinJudged s bad n).ks.outC = s.ks.outC) ∧
    (∀ j : Fin 28, j ≠ 0x0B → faultActive s j = true → faultActive (refinJudged s bad n) j = true) ∧
    (bad = true → (refinJudged s bad n).ks.refinLost = true ∧ faultActive (refinJudged s bad n) 0x0B = true) := by
  unfold refinJudged
  dsimp only
  cases bad with
  | true =>
    rw [if_pos rfl]
    generalize hx : ({ s with ks := { s.ks with refinIn := n, refinLost := true } } : State) = x
    have hd := declareOpen_added (s := x) (code := 0x0B) (by rw [← hx]; exact hm) true
    refine ⟨?_, ?_, fun j _ hj => hd.stays j (by rw [← hx]; exact hj), fun _ => ⟨?_, declareOpen_active ..⟩⟩
    all_goals
      have ho := hd.only
      generalize declareOpen x 0x0B true = y at ho
      rw [ho, ← hx]
    exact ⟨rfl, rfl, rfl, rfl⟩
  | false =>
    rw [if_neg (by decide)]
    split
    · split
      · exact ⟨rfl, ⟨rfl, rfl, rfl, rfl⟩, fun _ _ h => h, nofun⟩
      · refine ⟨?_, ?_, fun j hj h => (clearFault_other _ hj).trans h, nofun⟩
        · have ho := clearFault_only { s with ks := { s.ks with refinIn := n, refinLost := false } } 0x0B
          generalize clearFault _ _ = y at ho ⊢
          rw [ho]
        · rw [clearFault_ks]
          exact ⟨rfl, rfl, rfl, rfl⟩
    · exact ⟨rfl, ⟨rfl, rfl, rfl, rfl⟩, fun _ _ h => h, nofun⟩

theorem takeRefin_eq (s : State) (ppm mv : Int) : ∃ n, takeRefin s ppm mv =
    refinJudged s (!(decide (2450000 ≤ mv) && decide (mv ≤ 2550000)) || decide (2000 < ppm.natAbs)) n := ⟨_, rfl⟩

/-- The clocks judged by the ratios of one window (R754): which of the codes 0x04 - 0x07 are declared. -/
structure ClockCodes where
  sysclk : Bool
  rtcclk : Bool
  kclk : Bool
  ratio : Bool

/-- The codes are declared one after another. -/
def clocksDeclared (s : State) (x : ClockCodes) : State :=
  let s := if x.sysclk then declareOpen s 0x04 false else s
  let s := if x.rtcclk then declareOpen s 0x05 false else s
  let s := if x.kclk then declareOpen s 0x06 false else s
  if x.ratio then declareOpen s 0x07 false else s

theorem clocksDeclared_spec {s : State} (hm : ∀ k : Nat, 4 ≤ k → k ≤ 7 → (cfgSafeMask s).getLsbD k = false) (x : ClockCodes) :
    FaultsAdded s (clocksDeclared s x) ∧ (x.sysclk = true → faultActive (clocksDeclared s x) 4 = true) ∧
      (x.rtcclk = true → faultActive (clocksDeclared s x) 5 = true) ∧ (x.kclk = true → faultActive (clocksDeclared s x) 6 = true) ∧
      (x.ratio = true → faultActive (clocksDeclared s x) 7 = true) := by
  have hu : ∀ {u : State} (k : Fin 28), FaultsAdded s u → 4 ≤ k.val → k.val ≤ 7 → (cfgSafeMask u).getLsbD k.val = false :=
    fun k hu h4 h7 => by rw [hu.cfgSafeMask]; exact hm _ h4 h7
  have h4 := declareOpen_if (hu 4 (.refl s) (by decide) (by decide)) x.sysclk false
  have h5 := declareOpen_if (hu 5 h4.1 (by decide) (by decide)) x.rtcclk false
  have h6 := declareOpen_if (hu 6 (h4.1.trans h5.1) (by decide) (by decide)) x.kclk false
  have h7 := declareOpen_if (hu 7 (h4.1.trans (h5.1.trans h6.1)) (by decide) (by decide)) x.ratio false
  exact ⟨h4.1.trans (h5.1.trans (h6.1.trans h7.1)), fun h => h7.1.stays _ (h6.1.stays _ (h5.1.stays _ (h4.2 h))),
    fun h => h7.1.stays _ (h6.1.stays _ (h5.2 h)), fun h => h7.1.stays _ (h6.2 h), h7.2⟩

/-- A window counted: the moment of the count, and the hold on FAULTn that ends when KCLK counts (R742). -/
def windowCounted (s : State) (far : Bool) : State :=
  { s with ks := { s.ks with countClk := gridClk s s.ks.countClk 1000, kclkLost := far && s.ks.kclkLost } }

theorem execClockCrossCount_due {s : State} (o : ClockObs) (hc : s.supply.coreRunning = true) (hd : s.ks.countClk + 1000 ≤ s.clk) :
    execClockCrossCount o s = .next (clocksDeclared (windowCounted s (decide (60000 < o.kOverSNominal.natAbs)))
      { sysclk := s.time.xtal && drifted o.kOverS && drifted o.sOverR
        rtcclk := s.time.xtal && drifted o.kOverR && drifted o.sOverR
        kclk := decide (60000 < o.kOverSNominal.natAbs) || (s.time.xtal && drifted o.kOverS && drifted o.kOverR)
        ratio := !s.time.xtal && drifted o.kOverS && !decide (60000 < o.kOverSNominal.natAbs) }) := by
  unfold execClockCrossCount
  rw [if_neg (by simp [hc, hd])]
  refine congrArg Host.Outcome.next ?_
  dsimp only
  cases decide (60000 < o.kOverSNominal.natAbs) <;> rfl

/-! Test patterns (R755). -/

/-- Which copy drives FAULTn by itself is a free value (log 150). -/
def copiesFreed (s : State) : State :=
  { s with freeCount := s.freeCount + 1
           ks := { s.ks with copyLow := #v[(Config.freeWord s.freeCount).getLsbD 0, (Config.freeWord s.freeCount).getLsbD 1] } }

theorem copiesDiffer_eq (s : State) : copiesDiffer s = declareOpen (copiesFreed s) 3 false := rfl

theorem copiesDiffer_spec {s : State} (hm : (cfgSafeMask s).getLsbD 3 = false) :
    copiesDiffer s = { s with freeCount := (copiesDiffer s).freeCount, ks := (copiesDiffer s).ks, events := (copiesDiffer s).events
                              log := (copiesDiffer s).log } ∧
      (∀ j, faultActive s j = true → faultActive (copiesDiffer s) j = true) ∧ faultActive (copiesDiffer s) 3 = true ∧
      (copiesDiffer s).ks.patternClk = s.ks.patternClk := by
  have hd := declareOpen_added (s := copiesFreed s) (code := 3) hm false
  rw [copiesDiffer_eq]
  refine ⟨?_, hd.stays, declareOpen_active .., ?_⟩
  all_goals
    have ho := hd.only
    generalize declareOpen (copiesFreed s) 3 false = y at ho
    rw [ho]
    rfl

/-- The pattern of this moment is over. -/
def patternRun (s : State) : State := { s with ks := { s.ks with patternClk := gridClk s s.ks.patternClk 10000 } }

/-- The failing units of the three are declared. -/
def unitsDeclared (s : State) (fails : BitVec 3) : State :=
  let s := if fails.getLsbD 0 then declareOpen s 0x01 false else s
  let s := if fails.getLsbD 1 then declareOpen s 0x02 false else s
  if fails.getLsbD 2 then copiesDiffer s else s

theorem execTestPattern_due {s : State} (fails : BitVec 3) (hr : isRunning s = true) (hd : s.ks.patternClk + 10000 ≤ s.clk) :
    execTestPattern fails s = .next (unitsDeclared (patternRun s) fails) := by
  unfold execTestPattern
  rw [if_neg (by simp [hr, hd])]
  rfl

theorem unitsDeclared_spec {s : State} (hm : ∀ k : Nat, 1 ≤ k → k ≤ 3 → (cfgSafeMask s).getLsbD k = false) (fails : BitVec 3) :
    unitsDeclared s fails = { s with freeCount := (unitsDeclared s fails).freeCount, ks := (unitsDeclared s fails).ks
                                     events := (unitsDeclared s fails).events, log := (unitsDeclared s fails).log } ∧
      (fails.getLsbD 0 = true → faultActive (unitsDeclared s fails) 1 = true) ∧
      (fails.getLsbD 1 = true → faultActive (unitsDeclared s fails) 2 = true) ∧
      (fails.getLsbD 2 = true → faultActive (unitsDeclared s fails) 3 = true) ∧ (unitsDeclared s fails).ks.patternClk = s.ks.patternClk := by
  have h1 := declareOpen_if (code := 1) (hm 1 (by decide) (by decide)) (fails.getLsbD 0) false
  have h2 := declareOpen_if (code := 2) (by rw [h1.1.cfgSafeMask]; exact hm 2 (by decide) (by decide)) (fails.getLsbD 1) false
  have hx := h1.1.trans h2.1
  have h3 := copiesDiffer_spec (by rw [hx.cfgSafeMask]; exact hm 3 (by decide) (by decide))
  unfold unitsDeclared
  dsimp only
  generalize (if fails.getLsbD 1 = true then declareOpen _ 2 false else _) = x at hx h2 h3 ⊢
  have hp : x.ks.patternClk = s.ks.patternClk := by rw [hx.only]
  split
  · obtain ⟨h3, hs, ha, hc⟩ := h3
    refine ⟨?_, fun h => hs _ (h2.1.stays _ (h1.2 h)), fun h => hs _ (h2.2 h), fun _ => ha, hc.trans hp⟩
    generalize copiesDiffer x = y at h3
    rw [h3, hx.only]
  · next hn => exact ⟨by rw [hx.only], fun h => h2.1.stays _ (h1.2 h), h2.2, fun h => absurd h hn, hp⟩

/-! Start-up tests and the clearing of codes. -/

theorem execFaultClear_due {s : State} {k : Fin 28} (hr : isRunning s = true) (ha : faultActive s k = true) (hi : k ∉ s.ks.injected)
    (hc : clearable s k = true) (h1 : s.ks.seen[k] + clearUs k ≤ s.clk) (h2 : s.modes.handoverClk + clearUs k ≤ s.clk) :
    execFaultClear k s = .next (clearFault (clearedState s k) k) := by
  have hd : clearDue s k = true := decide_eq_true (by omega)
  unfold execFaultClear
  exact if_neg (by simp [hr, ha, hi, hc, hd])

theorem execFaultClear_not {s : State} {k : Fin 28} (h : faultActive s k = false ∨ k ∈ s.ks.injected ∨ clearable s k = false ∨
    s.clk < s.ks.seen[k] + clearUs k ∨ s.clk < s.modes.handoverClk + clearUs k) : execFaultClear k s = .next s := by
  have hd : s.clk < s.ks.seen[k] + clearUs k ∨ s.clk < s.modes.handoverClk + clearUs k → clearDue s k = false :=
    fun h => decide_eq_false (by omega)
  unfold execFaultClear
  refine if_pos ?_
  rcases h with h | h | h | h
  · simp [h]
  · simp [h]
  · simp [h]
  · simp [hd h]

/-- What ends with a code besides its bit: no more than a copy's hold, the supply flag or the ratio outputs, each with its own code. -/
theorem clearedState_spec (s : State) (k : Fin 28) :
    clearedState s k = { s with ks := { s.ks with copyLow := (clearedState s k).ks.copyLow }, supply := (clearedState s k).supply
                                spill := (clearedState s k).spill } ∧
      (k ≠ 0x10 → (clearedState s k).spill = s.spill) ∧ (k ≠ 0x16 → (clearedState s k).supply = s.supply) := by
  unfold clearedState
  split
  · exact ⟨rfl, fun _ => rfl, fun _ => rfl⟩
  · next hk =>
    have ho := (aoutsChanged_outputs { s with spill := { s.spill with aout := s.spill.aout.map fun o => { o with fault := false } } }).1
    generalize aoutsChanged _ = y at ho
    exact ⟨by rw [ho], fun h => absurd (Fin.ext hk) h, fun _ => by rw [ho]⟩
  · next hk => exact ⟨rfl, fun _ => rfl, fun h => absurd (Fin.ext hk) h⟩
  · exact ⟨rfl, fun _ => rfl, fun _ => rfl⟩

/-- A code that clears with its condition: its bit and its records' flags, and what goes with it. -/
theorem clearFault_cleared (s : State) (k : Fin 28) :
    let t := clearFault (clearedState s k) k
    t = { s with ks := t.ks, modes := t.modes, supply := t.supply, spill := t.spill } ∧ (∀ j : Fin 28, j ≠ k → faultActive t j = faultActive s j) ∧
      t.ks.count = s.ks.count ∧ (k ≠ 0x10 → t.spill = s.spill) ∧ (k ≠ 0x16 → t.supply = s.supply) := by
  obtain ⟨hc, hsp, hsu⟩ := clearedState_spec s k
  have ho := clearFault_only (clearedState s k) k
  have hk := clearFault_ks (clearedState s k) k
  have hj : ∀ j : Fin 28, j ≠ k → faultActive (clearFault (clearedState s k) k) j = faultActive s j := fun j hj => by
    rw [clearFault_other _ hj, hc]
    rfl
  dsimp only
  generalize clearFault (clearedState s k) k = t at ho hk hj ⊢
  generalize clearedState s k = u at hc hsp hsu ho hk
  refine ⟨by rw [ho, hc], hj, by rw [hk, hc], fun h => ?_, fun h => ?_⟩
  · rw [ho]
    exact hsp h
  · rw [ho]
    exact hsu h

/-- The measurement of this moment is taken. -/
def voteDue (s : State) : State := { s with ks := { s.ks with voteClk := gridClk s s.ks.voteClk 10000 } }

theorem execReferenceVote_due {s : State} (o : VoteObs) (hr : isRunning s = true) (hd : s.ks.voteClk + 10000 ≤ s.clk) :
    execReferenceVote o s = .next (if cfgRefin (takeVote (voteDue s) (o.ab, o.ac, o.bc)) then
      takeRefin (takeVote (voteDue s) (o.ab, o.ac, o.bc)) o.refinPpm o.refinMicrovolt else takeVote (voteDue s) (o.ab, o.ac, o.bc)) := by
  unfold execReferenceVote
  exact if_neg (by simp [hr, hd])

/-- The tests of this start are done. -/
def testsDone (s : State) : State := { s with ks := { s.ks with started := true } }

theorem execStartupTestsComplete_due {s : State} (hr : isRunning s = true) (hs : s.ks.started = false) :
    execStartupTestsComplete none s = .next (if faultActive (testsDone s) 0x1B then clearFault (testsDone s) 0x1B else testsDone s) ∧
      ∀ n, execStartupTestsComplete (some n) s = .next (declareWith (testsDone s) 0x1B (n.val + 1) 0x1B false) := by
  unfold execStartupTestsComplete
  exact ⟨if_neg (by simp [hr, hs]), fun n => if_neg (by simp [hr, hs])⟩

theorem execInjectionExpiry_due {s : State} {k : Fin 28} {l : List (Fin 28)} (hl : s.ks.injected = k :: l) (hr : isRunning s = true)
    (hd : s.ks.injectClk[k] + 1000000 ≤ s.clk) : execInjectionExpiry s = .next (clearFault { s with ks := { s.ks with injected := l } } k) := by
  unfold execInjectionExpiry
  rw [hl]
  refine if_neg ?_
  rw [hr, decide_eq_false (not_lt.2 hd)]
  decide

theorem execInjectionExpiry_not {s : State}
    (h : ∀ k l, s.ks.injected = k :: l → isRunning s = false ∨ s.clk < s.ks.injectClk[k] + 1000000) : execInjectionExpiry s = .next s := by
  unfold execInjectionExpiry
  split
  · rfl
  · next k l hl =>
    refine if_pos ?_
    rcases h k l hl with h | h
    · rw [h]
      rfl
    · rw [decide_eq_true h]
      exact Bool.or_true _

/-- Settles O58: each detector by the state it leaves before the codes are declared, and by what declaring them adds. -/
theorem keystoneDetectors : Obligations.KeystoneDetectors := by
  unfold Obligations.KeystoneDetectors
  refine ⟨fun s o hr h9 hA hB hd => ?vote, fun s o hc hm hd => ?count, fun s hc hm => ?loss, fun s fails hr hm hd => ?pattern,
    fun s o c fails => ⟨fun h => if_pos (by simp [h]), fun h => if_pos (by simp [h]), fun h => if_pos (by simp [h])⟩,
    fun s failed hr hs hm => ?tests, fun s k hr ha hi hc h1 h2 => ?clear, fun s k h => execFaultClear_not h,
    fun s k l hl hr hd => ?expiry, fun s h => execInjectionExpiry_not h⟩
  case vote =>
    obtain ⟨hv, h9'⟩ := takeVote_noted (s := voteDue s) (o.ab, o.ac, o.bc) h9 hA
    have hb : 2000 < o.refinPpm.natAbs ∨ o.refinMicrovolt < 2450000 ∨ 2550000 < o.refinMicrovolt →
        (!(decide (2450000 ≤ o.refinMicrovolt) && decide (o.refinMicrovolt ≤ 2550000)) || decide (2000 < o.refinPpm.natAbs)) = true :=
      fun h => by simp; omega
    refine ⟨_, execReferenceVote_due o hr hd, ?_⟩
    generalize takeVote (voteDue s) (o.ab, o.ac, o.bc) = u at hv h9' ⊢
    have hcfg : cfgRefin u = cfgRefin s := by
      rw [hv.only]
      rfl
    have hu := hv.only
    rw [hcfg]
    cases hc : cfgRefin s with
    | false =>
      rw [if_neg (by decide)]
      exact ⟨by rw [hu]; rfl, by rw [hu]; rfl, by rw [hu]; rfl, by rw [hu]; rfl, by rw [hu]; rfl, h9', nofun, fun _ => by rw [hu]; rfl⟩
    | true =>
      rw [if_pos rfl]
      obtain ⟨n, hn⟩ := takeRefin_eq u o.refinPpm o.refinMicrovolt
      rw [hn]
      obtain ⟨ho, ⟨hv1, hvA, hvB, hvC⟩, hs, hl⟩ := refinJudged_spec (s := u) (by rw [hv.cfgSafeMask]; exact hB) _ n
      refine ⟨?_, ?_, ?_, ?_, ?_, fun h => hs 9 (by decide) (h9' h), fun _ h => hl (hb h), nofun⟩
      · generalize refinJudged u _ n = t at ho ⊢
        rw [ho, hu]
        rfl
      · rw [hv1, hu]; rfl
      · rw [hvA, hu]; rfl
      · rw [hvB, hu]; rfl
      · rw [hvC, hu]; rfl
  case count =>
    have hx := clocksDeclared_spec (s := windowCounted s (decide (60000 < o.kOverSNominal.natAbs))) hm
    refine ⟨_, execClockCrossCount_due o hc hd, ?_⟩
    generalize hcodes : ClockCodes.mk _ _ _ _ = x
    obtain ⟨hf, h4, h5, h6, h7⟩ := hx x
    have hl : (clocksDeclared (windowCounted s (decide (60000 < o.kOverSNominal.natAbs))) x).ks.kclkLost =
        (decide (60000 < o.kOverSNominal.natAbs) && s.ks.kclkLost) := by
      rw [hf.only]
      rfl
    refine ⟨?_, fun h => ?_, fun h => ⟨?_, h6 ?_⟩, fun hx => ⟨fun h => h4 ?_, fun h => h5 ?_, fun h => h6 ?_⟩, fun hx h1 h2 => h7 ?_, fun h1 h2 h3 => ?_⟩
    · rw [hf.only]
      rfl
    · rw [hl, decide_eq_false h]
      rfl
    · rw [hl, decide_eq_true h]
      exact Bool.true_and _
    · simp [← hcodes, h]
    · simp [← hcodes, hx, drifted, h.1, h.2]
    · simp [← hcodes, hx, drifted, h.1, h.2]
    · simp [← hcodes, hx, drifted, h.1, h.2]
    · rw [← hcodes]
      simp only [hx, drifted, decide_eq_true h1, decide_eq_false h2]
      decide
    · have hn : x = { sysclk := false, rtcclk := false, kclk := false, ratio := false } := by
        rw [← hcodes]
        simp only [drifted, decide_eq_false h1, decide_eq_false h2, decide_eq_false h3, Bool.and_false, Bool.false_and, Bool.or_false]
      rw [hn]
      rfl
  case loss =>
    have hx := declareOpen_added (s := { s with ks := { s.ks with kclkLost := true } }) (code := 6) hm false
    refine ⟨_, if_neg (by rw [hc]; decide), ?_⟩
    have ha := declareOpen_active { s with ks := { s.ks with kclkLost := true } } 6 false
    have ho := hx.only
    generalize declareOpen _ 6 false = t at ho ha ⊢
    have hk : t.ks.kclkLost = true := by rw [ho]
    exact ⟨by rw [ho], hk, by rw [faultnLow, hk]; rfl, ha⟩
  case pattern =>
    have hx := unitsDeclared_spec (s := patternRun s) hm fails
    refine ⟨_, execTestPattern_due fails hr hd, ?_⟩
    obtain ⟨ho, h0, h1, h2, hp⟩ := hx
    refine ⟨?_, h0, h1, h2, hp, fun hz => ?_⟩
    · generalize unitsDeclared (patternRun s) fails = t at ho
      rw [ho]
      rfl
    · subst hz
      rfl
  case tests =>
    obtain ⟨hpass, hfail⟩ := execStartupTestsComplete_due hr hs
    cases failed with
    | none =>
      refine ⟨_, hpass, ?_⟩
      split
      · have hk := clearFault_ks (testsDone s) 0x1B
        have ho := clearFault_only (testsDone s) 0x1B
        refine ⟨?_, by rw [hk]; rfl, fun _ => clearFault_inactive .., nofun⟩
        generalize clearFault (testsDone s) 0x1B = t at ho ⊢
        rw [ho]
        rfl
      · next ha => exact ⟨rfl, rfl, fun _ => Bool.not_eq_true _ ▸ ha, nofun⟩
    | some n =>
      have hf := declareWith_unmasked (s := testsDone s) (code := 0x1B) hm (n.val + 1) 0x1B false
      unfold FaultOnly at hf
      refine ⟨_, hfail n, ?_, ?_, nofun, fun m hm' => ⟨declareWith_active .., fun hn => ?_⟩⟩
      · generalize declareWith _ 0x1B _ _ _ = t at hf ⊢
        rw [hf]
        rfl
      · generalize declareWith _ 0x1B _ _ _ = t at hf ⊢
        rw [hf]
        rfl
      · obtain ⟨-, hrec, -⟩ := declareWith_new (testsDone s) 0x1B (n.val + 1) 0x1B false hn
        obtain rfl : n = m := Option.some.inj hm'
        rw [hrec]
        simp [faultEntry, testsDone]
  case clear =>
    obtain ⟨h, hj, hn, hsp, hsu⟩ := clearFault_cleared s k
    exact ⟨_, execFaultClear_due hr ha hi hc h1 h2, h, clearFault_inactive .., hj, hn, fun i h => clearFault_records _ k i h, hsp, hsu⟩
  case expiry =>
    have ho := clearFault_only { s with ks := { s.ks with injected := l } } k
    have hk := clearFault_ks { s with ks := { s.ks with injected := l } } k
    refine ⟨_, execInjectionExpiry_due hl hr hd, ?_, by rw [hk], clearFault_inactive .., fun j hj => clearFault_other _ hj⟩
    generalize clearFault _ k = t at ho ⊢
    rw [ho]

end Sys2Proof.Machine

namespace Sys2Proof.Machine

/-! Cistern's scrubber, summaries and samples (O59). -/

/-- Codes that became active from `s` to `t`, all outside the SAFE mask, bring no SAFE. -/
theorem settle_unmasked {s t : State} (h : ∀ i, t.ks.active.getLsbD i = true → s.ks.active.getLsbD i = true ∨ (cfgSafeMask t).getLsbD i = false) :
    settle s t = t := by
  have h0 : t.ks.active &&& ~~~s.ks.active &&& cfgSafeMask t = 0 := by
    refine BitVec.eq_of_getLsbD_eq fun i hi => ?_
    have := h i
    cases ht : t.ks.active.getLsbD i <;> simp_all
    rcases this with h | h <;> simp [h]
  unfold settle
  rw [h0]
  simp

/-! What a double-bit error writes before its place is handled. -/

/-- From `s` to `t` a double-bit error is counted and code 0x08 is active; no other code changes. -/
structure DoubleNoted (s t : State) : Prop where
  only : t = { s with freeCount := t.freeCount, events := t.events, log := t.log, ks := t.ks }
  ecc : t.log.ecc = (s.log.corrected, sat8 s.log.uncorrectable, s.log.scrub, true, s.log.scrubClk)
  active : faultActive t 8 = true
  codes : ∀ i, t.ks.active.getLsbD i = true → s.ks.active.getLsbD i = true ∨ i = 8

/-- A fault recorded makes its own code active alone. -/
theorem noteOpen_recorded (s : State) (code : Fin 28) (masked : Bool) :
    noteOpen s code masked = { s with freeCount := (noteOpen s code masked).freeCount, events := (noteOpen s code masked).events
                                      log := (noteOpen s code masked).log, ks := (noteOpen s code masked).ks } ∧
      (noteOpen s code masked).ks.active = s.ks.active ||| BitVec.ofNat 32 (2 ^ code.val) := by
  cases h : faultActive s code with
  | true =>
    rw [noteOpen, if_pos h]
    refine ⟨rfl, BitVec.eq_of_getLsbD_eq fun i hi => ?_⟩
    change s.ks.active.getLsbD i = _
    rw [BitVec.getLsbD_or, BitVec.getLsbD_ofNat]
    by_cases hc : i = code.val
    · rw [hc, show s.ks.active.getLsbD code.val = true from h, Bool.true_or]
    · rw [Nat.testBit_two_pow_of_ne (Ne.symm hc), Bool.and_false, Bool.or_false]
  | false =>
    obtain ⟨hr, -, -⟩ := recordFault_new (drawFree s).2 code ((drawFree s).1.toNat % 65536) code.val masked h
    have hn : noteOpen s code masked = recordFault (drawFree s).2 code ((drawFree s).1.toNat % 65536) code.val masked :=
      if_neg (by rw [h]; decide)
    rw [hn]
    unfold LogOnly at hr
    generalize recordFault _ _ _ _ _ = t at hr
    exact ⟨by rw [hr]; rfl, by rw [hr]; rfl⟩

theorem noteEcc_double (s : State) (p : CisternPlace) : DoubleNoted s (noteEcc s (.double p)) := by
  obtain ⟨ho, ha⟩ := noteOpen_recorded { s with log := { s.log with uncorrectable := sat8 s.log.uncorrectable, scrubBad := true } } 8 false
  have he := noteEcc_ecc s p
  change noteEcc s (.double p) = _ at ho
  change (noteEcc s (.double p)).ks.active = _ at ha
  generalize noteEcc s (.double p) = t at ho ha he
  refine ⟨by rw [ho], he, ?_, fun i hi => ?_⟩
  · rw [faultActive, ha]
    simp
  · rw [ha, BitVec.getLsbD_or, BitVec.getLsbD_ofNat, Bool.or_eq_true] at hi
    refine hi.imp_right fun h => ?_
    by_contra hn
    rw [Nat.testBit_two_pow_of_ne (show (8 : Fin 28).val ≠ i from Ne.symm hn), Bool.and_false] at h
    exact absurd h (by decide)

/-- `t` differs from `s` in Mere alone. -/
def MereOnly (s t : State) : Prop := t = { s with mere := t.mere }

theorem MereOnly.trans {s t u : State} (h : MereOnly s t) (k : MereOnly t u) : MereOnly s u := by
  unfold MereOnly at *
  rw [k, h]

theorem modTarn_mereOnly (s : State) (k : Fin 8) (f : Tarn → Tarn) : MereOnly s (modTarn s k f) := rfl

theorem setNeuron_mereOnly (s : State) (k : Fin 8) (n : Nat) (x : Neuron) : MereOnly s (setNeuron s k n x) := rfl

theorem loseNeuron_mereOnly (s : State) (k : Fin 8) (n : Nat) : MereOnly s (loseNeuron s k n) :=
  (((setNeuron_mereOnly s k n _).trans (modTarn_mereOnly _ k _)).trans (setNeuron_mereOnly _ k n _)).trans (modTarn_mereOnly _ k _)

/-- From `s` to `t` a double-bit error is handled by its place: neither the faults nor the ECC counts change. -/
structure DoubleHandled (s t : State) : Prop where
  only : t = { s with freeCount := t.freeCount, events := t.events, log := t.log, mere := t.mere, results := t.results, course := t.course }
  ecc : t.log.ecc = s.log.ecc

theorem MereOnly.handled {s t : State} (h : MereOnly s t) : DoubleHandled s t := by
  unfold MereOnly at h
  exact ⟨by rw [h], by rw [h]⟩

theorem raiseLogFull_handled (s : State) {l : CisternLog} (hl : l.ecc = s.log.ecc) (arg : Nat) :
    DoubleHandled s (raiseLogFull { s with log := l } arg) := by
  have ho : LogOnly s (raiseLogFull { s with log := l } arg) := logSummary_log (raise_log ((LogOnly.refl s).log l) ..) 2
  have he : (raiseLogFull { s with log := l } arg).log.ecc = s.log.ecc := (logSummary_ecc ..).trans hl
  unfold LogOnly at ho
  generalize raiseLogFull _ arg = t at ho he
  exact ⟨by rw [ho], he⟩

theorem handleDouble_handled (s : State) (p : CisternPlace) : DoubleHandled s (handleDouble s p) := by
  cases p with
  | neuron k n => exact (loseNeuron_mereOnly s k n.val).handled
  | destEntry k n e => exact (modTarn_mereOnly s k _).handled
  | synapse k w => exact (modTarn_mereOnly s k _).handled
  | template k j => exact ⟨rfl, rfl⟩
  | decayTable k j i => exact ⟨rfl, rfl⟩
  | logEntry alarm seq => cases alarm <;> exact ⟨rfl, rfl⟩
  | logDescriptor alarm =>
    cases alarm
    · exact raiseLogFull_handled s (l := clearGeneral s.log) rfl 0
    · exact raiseLogFull_handled s (l := clearAlarm s.log) rfl 1
  | result v => exact ⟨rfl, rfl⟩
  | backlog i =>
    have hb : handleDouble s (.backlog i) = if i.val < s.course.pod.backlog.length then
      modPod s fun p => { p with backlog := p.backlog.eraseIdx i.val, lostBacklog := sat16 p.lostBacklog } else s := rfl
    rw [hb]
    split <;> exact ⟨rfl, rfl⟩
  | frameBuffer q => exact ⟨rfl, rfl⟩

/-! The scrubber's pass (R716). -/

/-- The scrubber's word in a pass with a double-bit error: no code ends with it. -/
theorem scrubNext_bad {s : State} (h : s.log.scrubBad = true) : ∃ l, scrubNext s = { s with log := l } ∧ l.uncorrectable = s.log.uncorrectable ∧
    (s.log.scrub + 1 < 196608 → l.scrub = s.log.scrub + 1 ∧ l.scrubBad = true) := by
  unfold scrubNext
  dsimp only
  rw [show cisternWords = 196608 from rfl, h]
  split
  · exact ⟨_, rfl, rfl, fun _ => ⟨rfl, rfl⟩⟩
  · next hn => exact ⟨_, rfl, rfl, fun hl => absurd hl hn⟩

theorem scrubNext_within {s : State} (h : s.log.scrub + 1 < 196608) : scrubNext s = { s with log := { s.log with scrub := s.log.scrub + 1 } } := if_pos h

/-- The pass starts anew. -/
def passDone (s : State) : State := { s with log := { s.log with scrub := 0, scrubBad := false, scrubClk := s.log.scrubClk + 8000000 } }

theorem scrubNext_last {s : State} (h : 196608 ≤ s.log.scrub + 1) : scrubNext s =
    if !s.log.scrubBad && faultActive s 0x08 && !(s.ks.injected.contains 0x08) then clearFault (passDone s) 0x08 else passDone s :=
  if_neg (not_lt.2 h)

theorem execScrubTick_runs {s : State} (hr : isRunning s = true) (err : EccObs) :
    execScrubTick err s = .next (settle s (if scrubDue s then scrubNext (handleEcc s err) else handleEcc s err)) := by
  unfold execScrubTick
  rw [hr]
  rfl

/-- The state a double-bit error leaves, but for the scrubber's place. -/
def doubleDone (s : State) (p : CisternPlace) : State := handleDouble (noteEcc s (.double p)) p

theorem doubleDone_spec (s : State) (p : CisternPlace) :
    doubleDone s p = { s with
      freeCount := (doubleDone s p).freeCount, ks := (doubleDone s p).ks, events := (doubleDone s p).events, log := (doubleDone s p).log
      mere := (doubleDone s p).mere, results := (doubleDone s p).results, course := (doubleDone s p).course } ∧
    (doubleDone s p).log.ecc = (s.log.corrected, sat8 s.log.uncorrectable, s.log.scrub, true, s.log.scrubClk) ∧
    faultActive (doubleDone s p) 8 = true ∧
    ∀ i, (doubleDone s p).ks.active.getLsbD i = true → s.ks.active.getLsbD i = true ∨ i = 8 := by
  have hn := noteEcc_double s p
  have hh := handleDouble_handled (noteEcc s (.double p)) p
  unfold doubleDone
  generalize handleDouble _ p = t at hh ⊢
  generalize noteEcc s (.double p) = u at hn hh
  have hk : t.ks = u.ks := by rw [hh.only]
  refine ⟨by rw [hh.only, hn.only], hh.ecc.trans hn.ecc, ?_, ?_⟩
  · rw [faultActive, hk]
    exact hn.active
  · rw [hk]
    exact hn.codes

/-- A double-bit error in a mode: what its place leaves, and the scrubber's place when a word was due. -/
theorem scrubTick_double {s : State} (hr : isRunning s = true) (hm : (cfgSafeMask s).getLsbD 8 = false) (p : CisternPlace) :
    ∃ l, exec (.scrubTick (.double p)) s = .next { doubleDone s p with log := l } ∧ l.uncorrectable = sat8 s.log.uncorrectable ∧
      (scrubDue s = false → l.scrub = s.log.scrub ∧ l.scrubBad = true) ∧
      (scrubDue s = true → s.log.scrub + 1 < 196608 → l.scrub = s.log.scrub + 1 ∧ l.scrubBad = true) := by
  obtain ⟨ho, he, -, hc⟩ := doubleDone_spec s p
  have hsettle : ∀ l, settle s { doubleDone s p with log := l } = { doubleDone s p with log := l } := fun l => by
    refine settle_unmasked fun i hi => (hc i hi).imp_right fun h => ?_
    rw [h, show cfgSafeMask { doubleDone s p with log := l } = cfgSafeMask s by rw [ho]; rfl]
    exact hm
  have hu := congrArg (·.2.1) he
  have hs := congrArg (·.2.2.1) he
  have hb := congrArg (·.2.2.2.1) he
  have hx : exec (.scrubTick (.double p)) s = .next (settle s (if scrubDue s then scrubNext (doubleDone s p) else doubleDone s p)) :=
    execScrubTick_runs hr _
  cases hd : scrubDue s with
  | false =>
    rw [hd, if_neg (by decide)] at hx
    exact ⟨(doubleDone s p).log, hx.trans (congrArg _ (hsettle _)), hu, fun _ => ⟨hs, hb⟩, nofun⟩
  | true =>
    obtain ⟨l, hl, hlu, hln⟩ := scrubNext_bad hb
    rw [hd, if_pos rfl, hl, hsettle] at hx
    refine ⟨l, hx, hlu.trans hu, nofun, fun _ hlt => ?_⟩
    have hs' : (doubleDone s p).log.scrub = s.log.scrub := hs
    rw [hs'] at hln
    exact hln hlt

/-! What is lost with each place. -/

theorem loseNeuron_neuron (s : State) (k : Fin 8) (n : Nat) : getNeuron (loseNeuron s k n) k n = startNeuron s.time.count ∧
    (loseNeuron s k n).mere.tarns[k].longGaps = sat16 s.mere.tarns[k].longGaps := by
  unfold loseNeuron
  dsimp only
  refine ⟨?_, ?_⟩
  · refine (getNeuron_congr (setNeuron (dropWake s k n) k n (startNeuron s.time.count)) _ (by rw [modTarn_self]) (by rfl) n).trans ?_
    rw [getNeuron_setNeuron, if_pos rfl]
  · rw [modTarn_self, setNeuron_self, dropWake, modTarn_self, setNeuron_self]

theorem loseDest_bad (s : State) (k : Fin 8) (n e : Nat) : ∀ i ∈ wordPair e, (n, i) ∈ (loseDest s k n e).mere.tarns[k].badDest := by
  intro i hi
  unfold loseDest
  rw [modTarn_self]
  dsimp only
  have hm : (n, i) ∈ (wordPair e).map (fun i => (n, i)) ++ s.mere.tarns[k].badDest :=
    List.mem_append_left _ (List.mem_map.2 ⟨i, hi, rfl⟩)
  split <;> exact hm

theorem loseSynapse_bad (s : State) (k : Fin 8) (w : Nat) : ∀ i ∈ wordPair w, i ∈ (loseSynapse s k w).mere.tarns[k].badSyn := by
  intro i hi
  unfold loseSynapse
  rw [modTarn_self]
  exact List.mem_append_left _ hi

/-! Summaries and samples (R729, R731). -/

theorem logSummary_room {s : State} (h : s.log.general.length < 15360) (n : Nat) : logSummary (n + 1) s = { s with log := { s.log with
    general := s.log.general ++ [{ (summaryEntry s) with seq := s.log.generalSeq }], generalSeq := s.log.generalSeq + 1 } } := by
  have hp : ringPutSummary (cfgLogStop s) s.log (summaryEntry s) = (ringAppend s.log (summaryEntry s), false) := if_pos h
  unfold logSummary
  rw [hp]
  rfl

/-- While the ring has room an entry is appended, and counted in the minute's budget. -/
theorem logRing_room {s : State} (hcap : s.log.budget < cfgLogCap s) (hroom : s.log.general.length < 15359) (hgoes : s.log.stopped = false)
    (e : LogEntry) : logRing s e = { s with log := { ringAppend s.log e with budget := s.log.budget + 1 } } := by
  have hput : ringPut (cfgLogStop s) s.log e = ({ ringAppend s.log e with budget := s.log.budget + 1 }, false) := by
    unfold ringPut
    split
    · exact if_pos ⟨hroom, by rw [hgoes]; rfl⟩
    · exact if_pos (by omega)
  unfold logRing
  rw [if_neg (by omega), hput]
  rfl

theorem logRing_capped {s : State} (h : cfgLogCap s ≤ s.log.budget) (e : LogEntry) :
    logRing s e = { s with log := { s.log with rateLost := sat32 s.log.rateLost } } := if_pos h

section
variable {s : State} {i : Fin 8}

/-- A sample that is due, of a record that is there. -/
theorem logSample_due (hr : isRunning s = true) (hz : sampleEvery s i ≠ 0) (hc : onCount s (1000000 * sampleEvery s i) = true) {e : VcnEntry}
    (he : entryOf s (sampleVcn s i) = some e) {r : Record} (hrec : e.record = some r) :
    exec (.logSample i) s = if e.sampled = some r.seq then .next s
      else .next (logRecord (modEntry s (sampleVcn s i) fun e => { e with sampled := some r.seq }) 0x03 r) := by
  show execLogSample i s = _
  unfold execLogSample
  dsimp only
  rw [if_neg (by simp [hr, hz, hc]), he]
  dsimp only
  rw [hrec]

theorem logSample_not (h : sampleEvery s i = 0 ∨ onCount s (1000000 * sampleEvery s i) = false ∨ entryOf s (sampleVcn s i) = none) :
    exec (.logSample i) s = .next s := by
  show execLogSample i s = _
  unfold execLogSample
  dsimp only
  split
  · rfl
  · next hn =>
    rcases h with h | h | h
    · simp [h] at hn
    · simp [h] at hn
    · rw [h]

end

/-- Settles O59: the scrubber by what the read finds and whether a word is due; the log by the room and the budget that are left. -/
theorem cisternScrubAndLog : Obligations.CisternScrubAndLog := by
  unfold Obligations.CisternScrubAndLog
  refine ⟨fun s hr hd hl => ⟨?clean, ?single⟩, fun s hr hd hl => ?last, fun s hr hd => ⟨?cleanNot, ?singleNot⟩, fun s p hr hm => ?double,
    fun s o hr => ?off, fun s hr hc hroom => ?summary, fun s i e r hr hz hc he hrec => ⟨fun h => ?old, fun h => ?new⟩,
    fun s i h => logSample_not h, fun s hc => ?early⟩
  case clean =>
    refine (execScrubTick_runs hr .clean).trans ?_
    rw [hd, if_pos rfl]
    exact congrArg _ ((congrArg (settle s) (scrubNext_within hl)).trans (settle_of_noNewFault (.of_ks rfl)))
  case single =>
    refine (execScrubTick_runs hr .single).trans ?_
    rw [hd, if_pos rfl]
    exact congrArg _ ((congrArg (settle s) (scrubNext_within (s := handleEcc s .single) hl)).trans (settle_of_noNewFault (.of_ks rfl)))
  case cleanNot =>
    refine (execScrubTick_runs hr .clean).trans ?_
    rw [hd, if_neg (by decide)]
    exact congrArg _ (settle_of_noNewFault (.refl s))
  case singleNot =>
    refine (execScrubTick_runs hr .single).trans ?_
    rw [hd, if_neg (by decide)]
    exact congrArg _ (settle_of_noNewFault (.of_ks rfl))
  case last =>
    have hx := execScrubTick_runs hr .clean
    rw [hd, if_pos rfl, show handleEcc s .clean = s from rfl, scrubNext_last hl] at hx
    split at hx
    · next h =>
      have ho := clearFault_only (passDone s) 8
      have hn : NoNewFault s (clearFault (passDone s) 8) := fun j hj => by
        rw [clearFault_ks, BitVec.getLsbD_and, Bool.and_eq_true] at hj
        exact hj.1
      rw [settle_of_noNewFault hn] at hx
      refine ⟨_, hx, ?_, fun _ _ => clearFault_inactive .., fun hb => ?_⟩
      · generalize clearFault (passDone s) 8 = t at ho
        rw [ho]
        rfl
      · rw [hb] at h
        exact nomatch h
    · next h =>
      rw [settle_of_noNewFault (s := s) (t := passDone s) (.of_ks rfl)] at hx
      refine ⟨_, hx, rfl, fun hb hi => ?_, fun _ => rfl⟩
      cases ha : faultActive s 8 with
      | false => exact ha
      | true => exact absurd (by simp [hb, ha, hi]) h
  case double =>
    obtain ⟨ho, -, ha, -⟩ := doubleDone_spec s p
    obtain ⟨l, hx, hu, hn, hd⟩ := scrubTick_double hr hm p
    have hn' := (noteEcc_double s p).only
    have hmere : (noteEcc s (.double p)).mere = s.mere := by rw [hn']
    have hres : ∀ v, entryOf (noteEcc s (.double p)) v = entryOf s v := entryOf_of_results (by rw [hn'])
    have hpod : (noteEcc s (.double p)).course = s.course := by rw [hn']
    refine ⟨_, hx, ?_, hu, ha, hn, hd, ?_, ?_, ?_, ?_, ?_, ?_, ?_⟩
    · generalize doubleDone s p = t at ho
      rw [ho]
    · rintro k j rfl
      exact hmere
    · rintro k j i rfl
      exact hmere
    · rintro k n rfl
      obtain ⟨h1, h2⟩ := loseNeuron_neuron (noteEcc s (.double (.neuron k n))) k n.val
      rw [hmere] at h2
      rw [show (noteEcc s (.double (.neuron k n))).time = s.time by rw [hn']] at h1
      exact ⟨h1, h2⟩
    · rintro k n e rfl
      exact loseDest_bad _ k n.val e.val
    · rintro k w rfl
      exact loseSynapse_bad _ k w.val
    · rintro v e rfl he
      refine (entryOf_modEntry (noteEcc s (.double (.result v))) v v fun e => { e with record := none, delivered := none }).trans ?_
      rw [if_pos rfl, hres, he]
      rfl
    · rintro i rfl hi
      have hb : doubleDone s (.backlog i) = modPod (noteEcc s (.double (.backlog i))) fun p =>
          { p with backlog := p.backlog.eraseIdx i.val, lostBacklog := sat16 p.lostBacklog } := if_pos (by rw [hpod]; exact hi)
      rw [hb]
      dsimp only [modPod]
      rw [hpod]
      exact ⟨rfl, rfl⟩
  case off => exact if_pos (by rw [hr]; rfl)
  case summary =>
    refine congrArg Host.Outcome.next ?_
    rw [hr, hc, logSummary_room hroom]
    rfl
  case old => rw [logSample_due hr hz hc he hrec, if_pos h]
  case new =>
    have hx := logSample_due hr hz hc he hrec
    rw [if_neg h] at hx
    generalize hm : modEntry s (sampleVcn s i) (fun e => { e with sampled := some r.seq }) = m at hx
    have hme : entryOf m (sampleVcn s i) = some { e with sampled := some r.seq } := by
      rw [← hm, entryOf_modEntry, if_pos rfl, he]
      rfl
    have hmo : m = { s with results := m.results } := by
      rw [← hm]
      rfl
    have hlog : m.log = s.log := by rw [hmo]
    have hcap : cfgLogCap m = cfgLogCap s := by
      rw [hmo]
      rfl
    have hl : LogOnly m (logRecord m 0x03 r) := logRing_log (.refl m) _
    refine ⟨_, hx, ?_, ?_, fun hb hroom hgoes => ?_, fun hb => ?_⟩
    · unfold LogOnly at hl
      generalize logRecord m 0x03 r = t at hl
      rw [hl, hmo]
    · exact (entryOf_of_results (congrArg (·.results) hl) _).trans hme
    · rw [logRecord, logRing_room (by rw [hlog, hcap]; exact hb) (by rw [hlog]; exact hroom) (by rw [hlog]; exact hgoes)]
      dsimp only [ringAppend]
      rw [hlog]
      exact ⟨_, rfl, rfl, rfl, rfl⟩
    · rw [logRecord, logRing_capped (by rw [hlog, hcap]; exact hb)]
      dsimp only
      rw [hlog]
  case early =>
    refine congrArg Host.Outcome.next (if_neg ?_)
    rw [hc, Bool.and_false]
    decide

end Sys2Proof.Machine

namespace Sys2Proof.Machine

/-! Repeating at a pod (R579 - R582). -/

theorem otherPort_ne (p : Fin 2) : otherPort p ≠ p := by
  revert p
  decide

/-- From `s` to `t` only the other port of the two changes: a frame that came in on `p` is repeated. -/
structure RepeatsFrom (p : Fin 2) (s t : State) : Prop where
  only : t = { s with course := { s.course with ports := t.course.ports } }
  port : t.course.ports[p] = s.course.ports[p]

theorem RepeatsFrom.refl (p : Fin 2) (s : State) : RepeatsFrom p s s := ⟨rfl, rfl⟩

theorem repeatFrame_from (s : State) (type : Byte) (busy : Bool) (r : CourseRx) : RepeatsFrom r.port s (repeatFrame s type busy r) := by
  have hv (f : Port → Port) : (vmod s.course.ports (otherPort r.port) f)[r.port] = s.course.ports[r.port] :=
    (vmod_get ..).trans (if_neg (otherPort_ne r.port))
  unfold repeatFrame
  dsimp only
  split
  · exact .refl _ s
  · split
    · exact .refl _ s
    · split
      · unfold storeFrame
        split
        · refine ⟨rfl, ?_⟩
          dsimp only [countPort]
          rw [vmod_vmod]
          exact hv _
        · exact .refl _ s
      · exact ⟨rfl, hv _⟩

theorem RepeatsFrom.takes {s t : State} {type : Byte} {r : CourseRx} (hr : RepeatsFrom r.port s t) (h : Takes .pod s type r) : Takes .pod t type r := by
  obtain ⟨h1, h2, h3, h4, h5, -⟩ := h
  have ho := hr.only
  refine ⟨?_, by rw [hr.port]; exact h2, by rw [hr.port]; exact h3, ?_, ?_, nofun⟩
  · rw [ho]; exact h1
  · rw [ho]; exact h4
  · rw [ho]; exact h5

/-- An accepted frame has a good CRC and has not ended early. -/
theorem rxFate_accepted {s : State} {type : Byte} {r : CourseRx} (h : rxFate s type r = .accepted) : r.crc = frameCrc type r.hop r := by
  unfold rxFate at h
  split at h
  · cases h
  · split at h
    · cases h
    · split at h
      · cases h
      · split at h
        · cases h
        · next hc => exact not_not.1 hc

/-- A frame repeated after it was accepted is not stomped. -/
theorem repeated_of_accepted {s : State} {type : Byte} {r : CourseRx} (h : rxFate s type r = .accepted) : (repeated type r).stomped = false := by
  have hc := rxFate_accepted h
  rw [repeated]
  simp [hc]

/-- A frame that finds the other transmitter busy is stored whole, as far as the buffers have room (R582). -/
theorem repeatFrame_stored {s : State} {type : Byte} {busy : Bool} {r : CourseRx} (h : Takes .pod s type r) (hs : sends s (otherPort r.port) = true)
    (hb : busy = true) (hroom : storedBytes s + 16 + r.payload.length ≤ 32768) :
    repeated type r ∈ (repeatFrame s type busy r).course.ports[otherPort r.port].txq := by
  obtain ⟨h1, h2, h3, -⟩ := h
  unfold sends at hs
  rw [Bool.and_eq_true, Bool.not_eq_true'] at hs
  have hx : repeatFrame s type busy r = storeFrame s (otherPort r.port) (repeated type r) := by
    unfold repeatFrame
    dsimp only
    rw [h1, h2, h3, hs.1, hs.2, hb]
    rfl
  rw [hx, storeFrame, if_pos (show storedBytes s + 16 + (repeated type r).payload.length ≤ 32768 from hroom)]
  dsimp only [countPort]
  rw [vmod_vmod, vmod_get, if_pos rfl]
  exact insertFrame_self _ _

/-- With that transmitter free the frame leaves at once. -/
theorem repeatFrame_sent {s : State} {type : Byte} {busy : Bool} {r : CourseRx} (h : Takes .pod s type r) (hs : sends s (otherPort r.port) = true)
    (hq : s.course.ports[otherPort r.port].txq.any (·.repeated) = false) (hb : busy = false) :
    (repeatFrame s type busy r).course.ports[otherPort r.port].sent = some (repeated type r) := by
  obtain ⟨h1, h2, h3, -⟩ := h
  unfold sends at hs
  rw [Bool.and_eq_true, Bool.not_eq_true'] at hs
  have hx : repeatFrame s type busy r = transmit s (otherPort r.port) (repeated type r) := by
    unfold repeatFrame
    dsimp only
    rw [h1, h2, h3, hs.1, hs.2, hb, hq]
    rfl
  rw [hx, transmit]
  dsimp only
  rw [vmod_get, if_pos rfl]

/-! DISCOVER at a pod (R585, R587, R598). -/

/-- The pod's place in the chain as a DISCOVER tells it. -/
def podDiscovered (s : State) (r : CourseRx) : State :=
  let p := r.payload
  { s with course := { s.course with
      version := b8 p 2
      pod := if bit (u8 p 0) 1 = true then { s.course.pod with link1 := sat8 r.hop, faces1 := some r.port }
        else { s.course.pod with link0 := sat8 r.hop, faces0 := some r.port } } }

theorem podDiscovered_addr (s : State) (r : CourseRx) : (podDiscovered s r).course.pod.addr = s.course.pod.addr := by
  unfold podDiscovered
  dsimp only
  split <;> rfl

/-- The state in which a pod notes a DISCOVER: the frame repeated and counted. -/
def discoverTaken (s : State) (r : CourseRx) : State := received (repeatFrame s 0x01 (sendingOn s (otherPort r.port)) r) 0x01 r

theorem execDiscover_takes {s : State} {r : CourseRx} (h : Takes .pod s 0x01 r) :
    execDiscover r s = .next (if bit (u8 r.payload 0) 0 = true ∨ s.course.pod.addr = 0 then sendIdentity (podDiscovered (discoverTaken s r) r) r.port
      else podDiscovered (discoverTaken s r) r) := by
  have hf := repeatFrame_from s 0x01 (sendingOn s (otherPort r.port)) r
  have ha : (discoverTaken s r).course.pod.addr = s.course.pod.addr := by
    rw [discoverTaken, received_pod, hf.only]
  have hbody (u : State) : (if (bit (u8 r.payload 0) 0 || decide ((podDiscovered u r).course.pod.addr = 0)) = true then
      sendIdentity (podDiscovered u r) r.port else podDiscovered u r) =
      if bit (u8 r.payload 0) 0 = true ∨ u.course.pod.addr = 0 then sendIdentity (podDiscovered u r) r.port else podDiscovered u r := by
    exact if_congr (by rw [podDiscovered_addr, Bool.or_eq_true, decide_eq_true_eq]) rfl rfl
  rw [← ha]
  unfold execDiscover
  dsimp only
  rw [podRx_takes (hf.takes h)]
  exact congrArg Host.Outcome.next (hbody _)

theorem discoverTaken_course (s : State) (r : CourseRx) : discoverTaken s r = { s with course := (discoverTaken s r).course } ∧
    (discoverTaken s r).course.pod = s.course.pod := by
  have hf := (repeatFrame_from s 0x01 (sendingOn s (otherPort r.port)) r).only
  unfold discoverTaken
  rw [received_pod]
  generalize repeatFrame _ _ _ _ = u at hf
  refine ⟨?_, by rw [hf]⟩
  rw [received_eq, hf]

theorem discoverTaken_other (s : State) (r : CourseRx) : ∃ c, (discoverTaken s r).course.ports[otherPort r.port] =
    { (repeatFrame s 0x01 (sendingOn s (otherPort r.port)) r).course.ports[otherPort r.port] with counts := c } := received_port ..

theorem discoverTaken_port (s : State) (r : CourseRx) : ∃ c, (discoverTaken s r).course.ports[r.port] = { s.course.ports[r.port] with counts := c } := by
  obtain ⟨c, hc⟩ := received_port (repeatFrame s 0x01 (sendingOn s (otherPort r.port)) r) 0x01 r r.port
  rw [(repeatFrame_from ..).port] at hc
  exact ⟨c, hc⟩

/-- An IDENTITY sent on one port leaves the other, and waits on its own if that sends. -/
theorem sendIdentity_spec (s : State) (p : Fin 2) :
    sendIdentity s p = { s with course := { s.course with ports := (sendIdentity s p).course.ports, seqs := (sendIdentity s p).course.seqs } } ∧
      (∀ q, q ≠ p → (sendIdentity s p).course.ports[q] = s.course.ports[q]) ∧
      (sends s p = true → Waits (sendIdentity s p) p 0x02 0 (identityPayload (sendIdentity s p))) := by
  obtain ⟨ho, -, hw⟩ := originate_ports s [p] 0x02 0 2 0 (identityPayload s)
  refine ⟨ho, fun q hq => ?_, fun hs => ?_⟩
  · unfold sendIdentity
    rw [originate_one_ports]
    dsimp only
    split
    · exact (vmod_get ..).trans (if_neg hq.symm)
    · rfl
  · have hi : identityPayload (sendIdentity s p) = identityPayload s := by
      have ho' : sendIdentity s p = _ := ho
      rw [ho']
      rfl
    rw [hi]
    exact hw p List.mem_cons_self hs

/-! ASSIGN (R17, R593, R606). -/

/-- A VCN of this node under its new address; another node's stays. -/
def movedVcn (s : State) (a : Byte) (v : Vcn) : Vcn := if vcnNode v = (ownNode s).toNat then BitVec.ofNat 16 (256 * a.toNat + vcnIndex v) else v

theorem renameVcns_eq (s : State) (a : Byte) : renameVcns s a = { s with
    results := s.results.map fun p => (movedVcn s a p.1, { p.2 with record := p.2.record.map fun q => { q with vcn := movedVcn s a q.vcn } })
    cal := { s.cal with old := s.cal.old.map fun p => (movedVcn s a p.1, p.2.map fun e => { e with vcn := movedVcn s a e.vcn }) }
    course := { s.course with pod := { s.course.pod with
      addr := a, render := s.course.pod.render.map fun e => { e with vcn := movedVcn s a e.vcn }
      pending := s.course.pod.pending.map fun x => { x with record := { x.record with vcn := movedVcn s a x.record.vcn } }
      sentRecs := s.course.pod.sentRecs.map fun x => { x with record := { x.record with vcn := movedVcn s a x.record.vcn } }
      backlog := s.course.pod.backlog.map fun q => { q with vcn := movedVcn s a q.vcn } } } } := rfl

theorem movedVcn_own {s : State} {v : Vcn} (h : vcnNode v = (ownNode s).toNat) (a : Byte) :
    movedVcn s a v = BitVec.ofNat 16 (256 * a.toNat + vcnIndex v) := if_pos h

theorem movedVcn_other {s : State} {v : Vcn} (h : vcnNode v ≠ (ownNode s).toNat) (a : Byte) : movedVcn s a v = v := if_neg h

theorem vcn_ofNat (a : Byte) (v : Vcn) : vcnNode (BitVec.ofNat 16 (256 * a.toNat + vcnIndex v)) = a.toNat ∧
    vcnIndex (BitVec.ofNat 16 (256 * a.toNat + vcnIndex v)) = vcnIndex v := by
  have ha := a.isLt
  unfold vcnNode vcnIndex
  rw [BitVec.toNat_ofNat]
  omega

/-- The VCNs move in a state that has come by chain frames as in the one before. -/
theorem renameVcns_course {s t : State} (h : t = { s with course := t.course }) (hp : t.course.pod = s.course.pod) (a : Byte) :
    renameVcns t a = { t with results := (renameVcns s a).results, cal := (renameVcns s a).cal
                              course := { t.course with pod := (renameVcns s a).course.pod } } := by
  generalize t.course = c at h hp
  subst h
  have hm : movedVcn { s with course := c } a = movedVcn s a := by
    funext v
    unfold movedVcn ownNode
    dsimp only
    rw [hp]
  rw [renameVcns_eq, renameVcns_eq, hm]
  dsimp only
  rw [hp]

/-- The chain version an ASSIGN tells. -/
def assignNoted (s : State) (r : CourseRx) : State :=
  { received s 0x03 r with course := { (received s 0x03 r).course with version := b8 r.payload 11 } }

theorem execAssign_other {s : State} {r : CourseRx} (h : Takes .pod s 0x03 r) (hu : le r.payload 0 8 ≠ s.cornerstone.uniqueId.toNat) :
    execAssign r s = .next (received s 0x03 r) := by
  unfold execAssign
  rw [podRx_takes h]
  refine congrArg Host.Outcome.next (if_pos ?_)
  rw [received_eq]
  exact hu

/-- What an ASSIGN of this pod's unique ID does by its disposition. -/
def assigned (s : State) (r : CourseRx) : State :=
  match u8 r.payload 9 with
  | 0 => sendIdentity (modPod (renameVcns s (b8 r.payload 8)) fun q =>
      { q with phase := if q.phase = 3 then (if isRunning s then 1 else 0) else q.phase, sub := b8 r.payload 10 }) r.port
  | 1 => sendIdentity (modPod (renameVcns s (b8 r.payload 8)) fun q => { q with phase := 3 }) r.port
  | 2 => modPod (renameVcns s 0) fun q => { q with phase := 3 }
  | _ => if s.phase = .porHold then s else startReset s .command

theorem execAssign_own {s : State} {r : CourseRx} (h : Takes .pod s 0x03 r) (hu : le r.payload 0 8 = s.cornerstone.uniqueId.toNat) :
    execAssign r s = .next (assigned (assignNoted s r) r) := by
  have hc : (received s 0x03 r).cornerstone = s.cornerstone := by rw [received_eq]
  unfold execAssign
  rw [podRx_takes h]
  refine congrArg Host.Outcome.next (if_neg ?_)
  rw [hc]
  exact fun hn => hn hu

theorem assignNoted_course (s : State) (r : CourseRx) : assignNoted s r = { s with course := (assignNoted s r).course } := by
  unfold assignNoted
  rw [received_eq]

theorem assignNoted_pod (s : State) (r : CourseRx) : (assignNoted s r).course.pod = s.course.pod := received_pod s 0x03 r

/-- A pod whose VCNs move: of its other stores only its own record changes. -/
theorem podMoved (s : State) (r : CourseRx) (a : Byte) (f : Pod → Pod) :
    modPod (renameVcns (assignNoted s r) a) f = { assignNoted s r with
      results := (renameVcns s a).results, cal := (renameVcns s a).cal
      course := { (assignNoted s r).course with pod := f (renameVcns s a).course.pod } } := by
  rw [renameVcns_course (assignNoted_course s r) (assignNoted_pod s r) a]
  rfl

/-- A pod that takes an address: its record, its VCNs, and the IDENTITY that confirms it. -/
theorem addressTaken (s : State) (r : CourseRx) (a : Byte) (f : Pod → Pod) (hs : sends s r.port = true) :
    let t := sendIdentity (modPod (renameVcns (assignNoted s r) a) f) r.port
    t = { s with course := t.course, results := (renameVcns s a).results, cal := (renameVcns s a).cal } ∧ t.course.version = b8 r.payload 11 ∧
      t.course.pod = f (renameVcns s a).course.pod ∧ Waits t r.port 0x02 0 (identityPayload t) := by
  have hn := assignNoted_course s r
  have hv : (assignNoted s r).course.version = b8 r.payload 11 := rfl
  have hsends : sends (assignNoted s r) r.port = true := (received_sends s 0x03 r r.port).trans hs
  rw [podMoved]
  dsimp only
  generalize assignNoted s r = n at hn hv hsends ⊢
  generalize renameVcns s a = w
  generalize hm : ({ n with results := w.results, cal := w.cal, course := { n.course with pod := f w.course.pod } } : State) = m
  obtain ⟨ho, -, hw⟩ := sendIdentity_spec m r.port
  have hms : sends m r.port = true := by rw [← hm]; exact hsends
  have hpod : m.course.pod = f w.course.pod := by rw [← hm]
  have hver : m.course.version = b8 r.payload 11 := by rw [← hm]; exact hv
  have hrest : m = { s with course := m.course, results := w.results, cal := w.cal } := by rw [← hm, hn]
  refine ⟨?_, ?_, ?_, hw hms⟩
  · generalize sendIdentity m r.port = t at ho
    rw [ho, hrest]
  · rw [ho]
    exact hver
  · rw [ho]
    exact hpod

/-- A DISCOVER taken: the place it tells, the IDENTITY that answers it, and the frame repeated. -/
theorem discover_spec {s : State} {r : CourseRx} (h : Takes .pod s 0x01 r) :
    let p := r.payload
    ∃ t, exec (.discover r) s = .next t ∧ t = { s with course := t.course } ∧ t.course.version = b8 p 2 ∧
      t.course.pod = (if bit (u8 p 0) 1 = true then { s.course.pod with link1 := sat8 r.hop, faces1 := some r.port }
        else { s.course.pod with link0 := sat8 r.hop, faces0 := some r.port }) ∧
      (bit (u8 p 0) 0 = true ∨ s.course.pod.addr = 0 → Waits t r.port 0x02 0 (identityPayload t)) ∧
      (bit (u8 p 0) 0 = false → s.course.pod.addr ≠ 0 → t.course.ports[r.port].txq = s.course.ports[r.port].txq) ∧
      (sends s (otherPort r.port) = true → s.course.ports[otherPort r.port].busyUntil > s.clk → storedBytes s + 16 + p.length ≤ 32768 →
        ∃ f ∈ t.course.ports[otherPort r.port].txq, f.type = 0x01 ∧ f.hop = sat8 r.hop ∧ f.payload = p ∧ f.seq = r.seq ∧ f.repeated = true) ∧
      (sends s (otherPort r.port) = true → s.course.ports[otherPort r.port].txq = [] → s.course.ports[otherPort r.port].busyUntil ≤ s.clk →
        ∃ f : CourseFrame, t.course.ports[otherPort r.port].sent = some f ∧ f.type = 0x01 ∧ f.hop = sat8 r.hop ∧ f.payload = p ∧ f.src = r.src ∧
          f.seq = r.seq ∧ f.dst = r.dst ∧ f.stomped = false ∧ f.repeated = true) := by
  obtain ⟨hrole, hen, htest, hfate, -⟩ := id h
  have hsend : sends s r.port = true := by rw [sends, hen, htest]; rfl
  obtain ⟨hu, hpod⟩ := discoverTaken_course s r
  obtain ⟨co, hco⟩ := discoverTaken_other s r
  obtain ⟨cp, hcp⟩ := discoverTaken_port s r
  have hv : podDiscovered (discoverTaken s r) r = { s with course := (podDiscovered (discoverTaken s r) r).course } := by
    rw [hu]
    rfl
  have hvpod : (podDiscovered (discoverTaken s r) r).course.pod = (if bit (u8 r.payload 0) 1 = true then
      { s.course.pod with link1 := sat8 r.hop, faces1 := some r.port } else { s.course.pod with link0 := sat8 r.hop, faces0 := some r.port }) := by
    rw [podDiscovered]
    dsimp only
    rw [hpod]
  have hvo : (podDiscovered (discoverTaken s r) r).course.ports[otherPort r.port] =
      { (repeatFrame s 0x01 (sendingOn s (otherPort r.port)) r).course.ports[otherPort r.port] with counts := co } := hco
  have hvp : (podDiscovered (discoverTaken s r) r).course.ports[r.port] = { s.course.ports[r.port] with counts := cp } := hcp
  have hver : (podDiscovered (discoverTaken s r) r).course.version = b8 r.payload 2 := rfl
  have hvs : sends (podDiscovered (discoverTaken s r) r) r.port = true := by
    rw [sends, hvp]
    exact hsend
  have hx := execDiscover_takes h
  have hf := repeated_of_accepted hfate
  generalize podDiscovered (discoverTaken s r) r = v at hv hvpod hvo hvp hver hvs hx
  obtain ⟨ho, hother, hw⟩ := sendIdentity_spec v r.port
  refine ⟨_, hx, ?_, ?_, ?_, fun hc => ?_, fun h0 ha => ?_, fun hs hb hroom => ⟨repeated 0x01 r, ?_, rfl, rfl, rfl, rfl, rfl⟩,
    fun hs hq hb => ⟨repeated 0x01 r, ?_, rfl, rfl, rfl, rfl, rfl, rfl, hf, rfl⟩⟩
  · split
    · generalize sendIdentity v r.port = t at ho
      rw [ho, hv]
    · exact hv
  · split
    · rw [ho]
      exact hver
    · exact hver
  · split
    · rw [ho]
      exact hvpod
    · exact hvpod
  · rw [if_pos hc]
    exact hw hvs
  · rw [if_neg (by rintro (h | h); exacts [absurd (h0.symm.trans h) (by decide), ha h]), hvp]
  · have hm := repeatFrame_stored h hs (busy := sendingOn s (otherPort r.port)) (decide_eq_true hb) hroom
    split
    · rw [hother _ (otherPort_ne _), hvo]
      exact hm
    · rw [hvo]
      exact hm
  · have hm := repeatFrame_sent h hs (busy := sendingOn s (otherPort r.port)) (by rw [hq]; rfl) (decide_eq_false (not_lt.2 hb))
    split
    · rw [hother _ (otherPort_ne _), hvo]
      exact hm
    · rw [hvo]
      exact hm

/-- An ASSIGN that takes the address away leaves a pod parked without one. -/
theorem assigned_removed {s : State} {r : CourseRx} (h9 : u8 r.payload 9 = 2) : assigned (assignNoted s r) r = { assignNoted s r with
    results := (renameVcns s 0).results, cal := (renameVcns s 0).cal
    course := { (assignNoted s r).course with pod := { (renameVcns s 0).course.pod with addr := 0, phase := 3 } } } := by
  rw [assigned, h9]
  exact podMoved s r 0 _

/-- An ASSIGN that commands a reset. -/
theorem assigned_reset {s : State} {r : CourseRx} (h9 : u8 r.payload 9 = 3) (hp : s.phase ≠ .porHold) :
    assigned (assignNoted s r) r = startReset (assignNoted s r) .command := by
  have hphase : (assignNoted s r).phase ≠ .porHold := by
    rw [assignNoted_course]
    exact hp
  rw [assigned, h9]
  exact if_neg hphase

/-- Settles O47: a DISCOVER by the repeated frame and the place told; an ASSIGN by its disposition; the VCNs by the map over each store. -/
theorem podIsDiscoveredAndAssigned : Obligations.PodIsDiscoveredAndAssigned := by
  unfold Obligations.PodIsDiscoveredAndAssigned
  refine ⟨fun s r h => discover_spec h, fun s r h => ⟨fun hu => execAssign_other h hu, fun hu => ?assign⟩, fun s a v e he => ⟨fun hv => ?own, fun hv => ?other⟩,
    fun s a v hv => ?stores⟩
  case assign =>
    obtain ⟨-, hen, htest, -⟩ := id h
    have hsend : sends s r.port = true := by rw [sends, hen, htest]; rfl
    have hrun : isRunning (assignNoted s r) = isRunning s := by
      rw [assignNoted_course]
      rfl
    have hx := execAssign_own h hu
    refine ⟨fun h9 => ?_, fun h9 => ?_, fun h9 => hx.trans (congrArg _ (assigned_removed h9)),
      fun h9 hp => ⟨_, hx.trans (congrArg _ (assigned_reset h9 hp)), startReset_from (assignNoted s r) .command⟩⟩
    · rw [assigned, h9, hrun] at hx
      exact ⟨_, hx, addressTaken s r _ _ hsend⟩
    · rw [assigned, h9] at hx
      exact ⟨_, hx, addressTaken s r _ _ hsend⟩
  case own =>
    obtain ⟨hn, hi⟩ := vcn_ofNat a v
    refine ⟨movedVcn s a v, _, List.mem_map.2 ⟨(v, e), he, rfl⟩, ?_, ?_, rfl, fun q hq hqv => ?_⟩
    · rw [movedVcn_own hv]
      exact hn
    · rw [movedVcn_own hv]
      exact hi
    · dsimp only
      rw [hq, ← hqv]
      rfl
  case other =>
    refine ⟨{ e with record := e.record.map fun q => { q with vcn := movedVcn s a q.vcn } }, List.mem_map.2 ⟨(v, e), he, ?_⟩, rfl⟩
    exact Prod.ext (movedVcn_other hv a) rfl
  case stores =>
    have hw := movedVcn_own hv a
    refine ⟨rfl, fun q hq hqv => ?_, fun e he hev => ?_, fun e he => ?_, rfl⟩
    · rw [← hw, ← hqv]
      exact List.mem_map.2 ⟨q, hq, rfl⟩
    · rw [← hw, ← hev]
      exact List.mem_map.2 ⟨e, he, rfl⟩
    · rw [← hw]
      exact ⟨_, List.mem_map.2 ⟨(v, e), he, rfl⟩⟩

end Sys2Proof.Machine

namespace Sys2Proof.Machine

/-! What waits on a port, and its order (R612, R613). -/

theorem nextOut_none_iff (l : List CourseFrame) : nextOut l = none ↔ l = [] := by
  unfold nextOut
  rw [Option.map_eq_none_iff, List.find?_eq_none]
  refine ⟨fun h => ?_, fun h => by rw [h]; exact nofun⟩
  by_contra hl
  have hno : l.any (·.repeated) = false := by
    refine List.any_eq_false.2 fun f hf hr => h f hf ?_
    unfold mayLeave
    rw [hr]
    rfl
  obtain ⟨f, hf⟩ := List.exists_mem_of_ne_nil l hl
  refine h f hf ?_
  unfold mayLeave
  rw [hno]
  exact Bool.or_true _

/-- A frame may leave: it is stored, an ALARM, or no stored one waits. -/
theorem mayLeave_iff (l : List CourseFrame) (f : CourseFrame) :
    mayLeave l f = true ↔ f.repeated = true ∨ f.classVer.toNat % 4 = 0 ∨ ∀ g ∈ l, g.repeated = false := by
  unfold mayLeave
  simp [or_assoc]

theorem nextOut_some {l k : List CourseFrame} {f : CourseFrame} (h : nextOut l = some (f, k)) : l.Perm (f :: k) ∧ mayLeave l f = true := by
  unfold nextOut at h
  rw [Option.map_eq_some_iff] at h
  obtain ⟨g, hg, hk⟩ := h
  obtain ⟨rfl, rfl⟩ := Prod.mk.inj hk
  exact ⟨List.perm_cons_erase (List.mem_of_find?_eq_some hg), List.find?_some hg⟩

theorem nextOut_cons {k : List CourseFrame} {f : CourseFrame} (h : mayLeave (f :: k) f = true) : nextOut (f :: k) = some (f, k) := by
  unfold nextOut
  rw [List.find?_cons_of_pos h, Option.map_some, List.erase_cons_head]

/-- A frame goes behind those of its rank or a lower one, and before the next higher one. -/
theorem insertFrame_split (l : List CourseFrame) (f : CourseFrame) : ∃ a b, l = a ++ b ∧ insertFrame l f = a ++ f :: b ∧
    (∀ g ∈ a, sendRank g ≤ sendRank f) ∧ ∀ g, b.head? = some g → sendRank f < sendRank g := by
  induction l with
  | nil => exact ⟨[], [], rfl, rfl, nofun, nofun⟩
  | cons g l ih =>
    unfold insertFrame
    split
    · next h =>
      obtain ⟨a, b, hl, hi, ha, hb⟩ := ih
      refine ⟨g :: a, b, by rw [hl]; rfl, by rw [hi]; rfl, fun x hx => ?_, hb⟩
      rcases List.mem_cons.1 hx with rfl | hx
      · exact h
      · exact ha x hx
    · next h => exact ⟨[], g :: l, rfl, rfl, nofun, fun x hx => Option.some.inj hx ▸ Nat.lt_of_not_le h⟩

/-! What a frame carries of the moment it leaves at (R426, R611, R621). -/

theorem atSending_repeated {f : CourseFrame} (h : f.repeated = true) (s : State) : atSending s f = f := if_pos h

theorem atSending_own {f : CourseFrame} (h : f.repeated = false) (s : State) : atSending s f = match f.type.toNat with
    | 0x14 => { f with payload := f.payload.take 4 ++ chainBitmap s }
    | 0x10 => { f with payload := f.payload.take 4 ++ plumbBytes (plumbNow s) ++ f.payload.drop 11 }
    | 0x16 => { f with payload := f.payload.take 6 ++ countBytes s ++ f.payload.drop 12 }
    | _ => f := if_neg (by rw [h]; decide)

theorem atSending_plain {f : CourseFrame} (h : (f.type ≠ 0x14 ∧ f.type ≠ 0x10 ∧ f.type ≠ 0x16) ∨ f.repeated = true) (s : State) : atSending s f = f := by
  cases hr : f.repeated with
  | true => exact atSending_repeated hr s
  | false =>
    obtain ⟨h1, h2, h3⟩ := h.resolve_right (by rw [hr]; decide)
    rw [atSending_own hr]
    split
    · next ht => exact absurd (BitVec.eq_of_toNat_eq ht) h1
    · next ht => exact absurd (BitVec.eq_of_toNat_eq ht) h2
    · next ht => exact absurd (BitVec.eq_of_toNat_eq ht) h3
    · rfl

theorem storedFrameSend_next {s : State} {p : Fin 2} {f : CourseFrame} {l : List CourseFrame} (hs : sends s p = true)
    (hn : nextOut s.course.ports[p].txq = some (f, l)) : exec (.storedFrameSend p) s = .next (noteDeparture { s with course := { s.course with
      ports := vmod s.course.ports p fun q => { q with sent := some (atSending s f), txq := l, busyUntil := s.clk + frameWireUs (atSending s f) } } } f) := by
  have hv : vmod (s.course.ports.set p.val { s.course.ports[p] with txq := l }) p (fun q =>
      { q with sent := some (atSending s f), busyUntil := s.clk + frameWireUs (atSending s f) }) =
      vmod s.course.ports p fun q => { q with sent := some (atSending s f), txq := l, busyUntil := s.clk + frameWireUs (atSending s f) } :=
    vmod_vmod s.course.ports p (fun q => { q with txq := l }) _
  unfold sends at hs
  show execStoredFrameSend p s = _
  unfold execStoredFrameSend
  dsimp only
  rw [hs, hn]
  dsimp only [transmit]
  rw [hv]

/-! The line (R569, R570, R581). -/

theorem lineBits_halves (l : List Bool) : lineBits (l.flatMap halves) = some l := by
  induction l with
  | nil => rfl
  | cons b l ih => cases b <;> exact congrArg (Option.map _) ih

theorem lineLevels_halves (l : List Byte) : lineLevels l = (l.flatMap fun b => (List.range 8).map b.getLsbD).flatMap halves := by
  unfold lineLevels
  rw [List.flatMap_assoc]
  congr 1

theorem lineLevels_length (l : List Byte) : (lineLevels l).length = 16 * l.length := by
  induction l with
  | nil => rfl
  | cons b l ih =>
    have hb : ((List.range 8).flatMap fun i => halves (b.getLsbD i)).length = 16 := by
      have hh (x : Bool) : (halves x).length = 2 := by cases x <;> rfl
      simp [List.length_flatMap, hh]
    rw [lineLevels, List.flatMap_cons, List.length_append, hb, List.length_cons]
    have := ih
    rw [lineLevels] at this
    omega

/-- What a receiver has of a frame that this node sends. -/
def heard (p : Fin 2) (f : CourseFrame) : CourseRx :=
  { port := p, dst := f.dst, src := f.src, seq := f.seq, len := f.lenByte.getD (BitVec.ofNat 8 f.payload.length), classVer := f.classVer
    credit := f.credit, hop := f.hop, payload := f.payload, crc := sentCrc f, endedEarly := false }

theorem toLE_getD (n v i : Nat) (h : i < n) : (toLE n v).getD i 0 = BitVec.ofNat 8 (v / 256 ^ i) := by
  induction n generalizing v i with
  | zero => exact absurd h (Nat.not_lt_zero i)
  | succ n ih =>
    unfold toLE
    cases i with
    | zero => simp
    | succ i => rw [List.getD_cons_succ, ih (v / 256) i (Nat.lt_of_succ_lt_succ h), pow_succ', Nat.div_div_eq_div_mul]

/-- A 32-bit value behind a payload is read back. -/
theorem f32At_behind (p : List Byte) (c : BitVec 32) : f32At (p ++ toLE 4 c.toNat) p.length = c := by
  have hle : le (p ++ toLE 4 c.toNat) p.length 4 = c.toNat % 256 ^ 4 := le_bytesOf 4 c.toNat _ _ fun i hi => by
    rw [List.getD_append_right _ _ _ _ (by omega), Nat.add_sub_cancel_left, toLE_getD 4 _ i hi]
  apply BitVec.eq_of_toNat_eq
  rw [f32At, u32, hle, BitVec.toNat_ofNat]
  have := c.isLt
  omega

theorem ofWire_wireBytes (f : CourseFrame) (p : Fin 2) : ofWire p (wireBytes f) = some (f.type, heard p f) := by
  have hb : wireBytes f = 0x55 :: 0x55 :: 0x55 :: 0xD3 :: f.dst :: f.src :: f.type :: f.seq :: f.lenByte.getD (BitVec.ofNat 8 f.payload.length) ::
      f.classVer :: f.credit :: f.hop :: (f.payload ++ toLE 4 (sentCrc f).toNat) := by
    simp [wireBytes, courseHeader]
  have hl : (f.payload ++ toLE 4 (sentCrc f).toNat).length = f.payload.length + 4 := List.length_append
  rw [hb, ofWire]
  dsimp only [List.drop, List.take]
  rw [hl]
  refine (if_neg (by simp)).trans ?_
  rw [show f.payload.length + 4 - 4 = f.payload.length from rfl, f32At_behind, List.take_left]
  rfl

theorem heard_crc (p : Fin 2) (f : CourseFrame) : (heard p f).crc =
    if f.stomped = true then frameCrc f.type f.hop (heard p f) ^^^ 0xFFFFFFFF else frameCrc f.type f.hop (heard p f) := rfl

theorem heard_whole {f : CourseFrame} (p : Fin 2) (hl : f.payload.length ≤ 240) (hn : f.lenByte = none) : wholeFrame (heard p f) = true := by
  have h8 : (BitVec.ofNat 8 f.payload.length).toNat = f.payload.length := by
    rw [BitVec.toNat_ofNat]
    omega
  unfold wholeFrame heard
  dsimp only
  rw [hn, Option.getD_none, h8]
  simpa using hl

theorem heard_upstream {f : CourseFrame} (p : Fin 2) (hs : f.stomped = true) (s : State) : rxFate s f.type (heard p f) = .upstream := by
  have hc : stompedCrc f.type (heard p f) = true := by
    unfold stompedCrc
    rw [heard_crc, if_pos hs]
    exact beq_self_eq_true _
  unfold rxFate
  rw [if_neg (by exact nofun), if_pos hc]

end Sys2Proof.Machine

namespace Sys2Proof.Machine

/-! A DISCOVER goes out (R575, R585, R588). -/

theorem discoverPayload_congr {s t : State} (hc : t.cornerstone = s.cornerstone) (hg : t.config = s.config) (hv : t.course.version = s.course.version)
    (full : Bool) (p : Fin 2) : discoverPayload t full p = discoverPayload s full p := by
  have hs : sec t 1 = sec s 1 := congrFun (sec_congr hg) 1
  unfold discoverPayload containerCode configId
  rw [hc, hv, hs]

theorem SendsOnly.discoverPayload {s t : State} (h : SendsOnly s t) (full : Bool) (p : Fin 2) :
    Machine.discoverPayload t full p = Machine.discoverPayload s full p :=
  discoverPayload_congr (congrArg State.cornerstone h.rest) (congrArg State.config h.rest) (congrArg (·.course.version) h.rest) full p

/-- A DISCOVER on each port of a list. -/
def discoverOn (full : Bool) (q : Byte) (s : State) (p : Fin 2) : State := sendOn s p (newFrame s 0x01 255 2 0 q (discoverPayload s full p))

theorem sendOn_sendsOnly (s : State) (p : Fin 2) (f : CourseFrame) : SendsOnly s (sendOn s p f) := by
  obtain ⟨hr, hq⟩ := sendOn_ports s p f
  exact .of_ports hr hq

theorem sendOn_other (s : State) {p q : Fin 2} (h : q ≠ p) (f : CourseFrame) : (sendOn s p f).course.ports[q] = s.course.ports[q] := by
  unfold sendOn
  dsimp only
  split
  · exact (vmod_get ..).trans (if_neg h.symm)
  · rfl

theorem discoverOn_all (full : Bool) (q : Byte) (ports : List (Fin 2)) (s : State) :
    (∀ p ∈ ports, sends s p = true → Waits (ports.foldl (discoverOn full q) s) p 0x01 255 (discoverPayload s full p)) ∧
      ∀ p, p ∉ ports → (ports.foldl (discoverOn full q) s).course.ports[p] = s.course.ports[p] := by
  induction ports generalizing s with
  | nil => exact ⟨nofun, fun _ _ => rfl⟩
  | cons a l ih =>
    have hs := sendOn_sendsOnly s a (newFrame s 0x01 255 2 0 q (discoverPayload s full a))
    obtain ⟨hw, ho⟩ := ih (discoverOn full q s a)
    refine ⟨fun p hp hsend => ?_, fun p hp => ?_⟩
    · by_cases hpl : p ∈ l
      · have := hw p hpl ((hs.sends p).trans hsend)
        rw [show discoverPayload (discoverOn full q s a) full p = discoverPayload s full p from hs.discoverPayload full p] at this
        exact this
      · obtain rfl : p = a := (List.mem_cons.1 hp).resolve_right hpl
        obtain ⟨-, -, hin⟩ := sendAll_ports (newFrame s 0x01 255 2 0 q (discoverPayload s full p)) [p] s
        refine (foldl_sendsOnly (f := discoverOn full q) (fun u b => sendOn_sendsOnly u b _) l _).waits
          ⟨_, hin p List.mem_cons_self hsend rfl, rfl, rfl, rfl, rfl⟩
    · rw [List.mem_cons, not_or] at hp
      exact (ho p hp.2).trans (sendOn_other s hp.1 _)

theorem lowerVersion_ports (s : State) : (lowerVersion s).course.ports = s.course.ports := by
  unfold lowerVersion
  split
  · dsimp only
    split <;> rfl
  · rfl

/-- The DISCOVER that a version already lowered sends. -/
theorem sendDiscover_waits (s : State) (full : Bool) (ports : List (Fin 2)) :
    (∀ p ∈ ports, sends s p = true → Waits (sendDiscover s full ports) p 0x01 255 (discoverPayload (lowerVersion s) full p)) ∧
      (∀ p, p ∉ ports → (sendDiscover s full ports).course.ports[p] = s.course.ports[p]) ∧
      ∀ p : Fin 2, QueueOnly s.course.ports[p] (sendDiscover s full ports).course.ports[p] := by
  have hports := lowerVersion_ports s
  unfold sendDiscover
  generalize lowerVersion s = u at hports ⊢
  obtain ⟨hw, ho⟩ := discoverOn_all full (takeSeq { u with course := { u.course with discoverClk := u.clk } } 2).1 ports
    (takeSeq { u with course := { u.course with discoverClk := u.clk } } 2).2
  have hq := (foldl_sendsOnly (f := discoverOn full (takeSeq { u with course := { u.course with discoverClk := u.clk } } 2).1)
    (fun u b => sendOn_sendsOnly u b _) ports (takeSeq { u with course := { u.course with discoverClk := u.clk } } 2).2).queues
  refine ⟨fun p hp hs => hw p hp ?_, fun p hp => (ho p hp).trans ?_, fun p => ?_⟩
  · unfold sends at hs ⊢
    rw [← hports] at hs
    exact hs
  · exact congrArg (·[p]) hports
  · rw [← hports]
    exact (hq p).1

theorem lowerVersion_version (s : State) : (lowerVersion s).course.version = if s.course.lowest < s.course.version then s.course.lowest else s.course.version := by
  unfold lowerVersion
  split
  · dsimp only
    split <;> rfl
  · rfl

/-! Loss and return of signal (R572, R583, R642). -/

/-- The loss noted and counted. -/
def lossNoted (s : State) (p : Fin 2) : State :=
  { s with course := { s.course with ports := vmod s.course.ports p fun q => { q with los := true, counts := vmod q.counts 5 sat16 } } }

theorem lossOfSignal_next {s : State} {p : Fin 2} (he : s.course.ports[p].enabled = true) (hl : s.course.ports[p].los = false) (rep : Bool) :
    exec (.lossOfSignal p rep) s = .next (if s.role = .pod && rep && (s.course.ports[otherPort p].sent.any fun f => f.repeated) then
      { lossNoted s p with course := { (lossNoted s p).course with
        ports := vmod (lossNoted s p).course.ports (otherPort p) fun q => { q with sent := q.sent.map fun f => { f with cut := true } } } }
      else lossNoted s p) := by
  have hp : countPort { s with course := { s.course with ports := vmod s.course.ports p fun q => { q with los := true } } } p 5 = lossNoted s p := by
    unfold countPort
    dsimp only
    rw [vmod_vmod]
    rfl
  have ho : (lossNoted s p).course.ports[otherPort p] = s.course.ports[otherPort p] := (vmod_get ..).trans (if_neg (otherPort_ne p).symm)
  show execLossOfSignal p rep s = _
  unfold execLossOfSignal
  dsimp only
  rw [if_neg (by rw [he, hl]; decide), hp, ho]
  exact (apply_ite Host.Outcome.next _ _ _).symm

/-- The signal is back. -/
def signalBack (s : State) (p : Fin 2) : State :=
  { s with course := { s.course with ports := vmod s.course.ports p fun q => { q with los := false } } }

theorem signalRestored_next {s : State} {p : Fin 2} (he : s.course.ports[p].enabled = true) (hl : s.course.ports[p].los = true) :
    exec (.signalRestored p) s = .next (if s.role = .head && isRunning s then wantFull (signalBack s p) else signalBack s p) := by
  show execSignalRestored p s = _
  unfold execSignalRestored
  dsimp only
  rw [if_neg (by rw [he, hl]; decide)]
  rfl

theorem wantFull_booting {s : State} (h : s.course.enum = .booting) : wantFull s = { s with course := { s.course with fullWanted := true } } := by
  unfold wantFull
  rw [h]

theorem wantFull_collecting {s : State} (h : s.course.enum = .collecting) : wantFull s = if s.course.enumFull then s else discoverFull s := by
  unfold wantFull
  rw [h]

/-! Frames that no other row takes in (R573, R579 - R582, R602). -/

theorem podSent_known : ∀ t : Byte, knownType t = false → podSent t = false ∧ (t == 1) = false := by decide

/-- A good CRC is not a stomped one. -/
theorem stompedCrc_good {type : Byte} {r : CourseRx} (hc : r.crc = frameCrc type r.hop r) : stompedCrc type r = false := by
  unfold stompedCrc
  rw [← hc]
  refine beq_eq_false_iff_ne.2 fun h => ?_
  have h0 := congrArg (fun x => (r.crc ^^^ x).getLsbD 0) h
  simp at h0

/-- A whole frame with a good CRC of a type that is not known is a format error. -/
theorem rxFate_reserved {s : State} {type : Byte} {r : CourseRx} (hk : knownType type = false) (hw : wholeFrame r = true)
    (hc : r.crc = frameCrc type r.hop r) : rxFate s type r = .format := by
  have hst := stompedCrc_good hc
  have hf : fieldsOk s type r = false := by
    unfold fieldsOk
    rw [hk]
    rfl
  have he : r.endedEarly = false := by
    unfold wholeFrame at hw
    simp only [Bool.and_eq_true, Bool.not_eq_true'] at hw
    exact hw.1.1
  unfold rxFate
  rw [if_neg (by rw [he]; decide), if_neg (by rw [hst]; decide), if_neg (by rw [hw]; decide), if_neg (fun h => h hc), if_pos (by rw [hf]; rfl)]

theorem cutThroughRepeat_reserved {s : State} {type : Byte} {r : CourseRx} (busy : Bool) (hr : s.role = .head) (hrun : isRunning s = true)
    (he : s.course.ports[r.port].enabled = true) (hk : knownType type = false) (hw : wholeFrame r = true) (hc : r.crc = frameCrc type r.hop r) :
    exec (.cutThroughRepeat type busy r) s = .next (countPort s r.port 3) := by
  have hrep : repeatFrame s type busy r = s := if_pos (by rw [hr]; rfl)
  obtain ⟨hp, h1⟩ := podSent_known type hk
  have hown : ownRow s type r = false := by
    unfold ownRow
    rw [hr]
    dsimp only
    split
    · exact h1
    · exact hp
  show execCutThroughRepeat type busy r s = _
  unfold execCutThroughRepeat
  dsimp only
  rw [hrep, rxFate_reserved hk hw hc, hown, he, hr, hrun]
  rfl

section
variable {s : State} {type : Byte} {busy : Bool} {r : CourseRx} (hr : s.role = .pod) (he : s.course.ports[r.port].enabled = true)
  (hu : underTest s.course.ports[r.port] = false)
include hr he hu

/-- A pod repeats a good frame for another node and does nothing else. -/
theorem cutThroughRepeat_elsewhere (ha : addressedHere s r = false) (hf : rxFate s type r = .accepted) :
    exec (.cutThroughRepeat type busy r) s = .next (repeatFrame s type busy r) := by
  have hown : ownRow s type r = false := by
    unfold ownRow
    rw [hr]
    dsimp only
    rw [ha, Bool.and_false]
  show execCutThroughRepeat type busy r s = _
  unfold execCutThroughRepeat
  dsimp only
  rw [hf, hown, he, hr, hu]
  rfl

theorem repeatFrame_enabled (ho : s.course.ports[otherPort r.port].enabled = true) : repeatFrame s type busy r =
    if underTest s.course.ports[otherPort r.port] && inR 1 250 r.dst.toNat then s
    else if busy || underTest s.course.ports[otherPort r.port] || s.course.ports[otherPort r.port].txq.any (·.repeated) then
      storeFrame s (otherPort r.port) (repeated type r)
    else transmit s (otherPort r.port) (repeated type r) := by
  unfold repeatFrame
  exact if_neg (by simp only [hr, he, hu, ho]; decide)

end

/-- What is repeated of an accepted frame. -/
theorem repeated_accepted {s : State} {type : Byte} {r : CourseRx} (hf : rxFate s type r = .accepted) : repeated type r =
    { dst := r.dst, src := r.src, type := type, seq := r.seq, classVer := r.classVer, credit := r.credit, hop := sat8 r.hop, payload := r.payload
      stomped := false, repeated := true, cut := false, lenByte := some r.len } := by
  have hc := rxFate_accepted hf
  have he : r.endedEarly = false := by
    cases h : r.endedEarly with
    | false => rfl
    | true =>
      rw [rxFate, if_pos h] at hf
      cases hf
  unfold repeated
  rw [he, hc]
  simp

theorem storeFrame_room {s : State} {p : Fin 2} {f : CourseFrame} (h : storedBytes s + 16 + f.payload.length ≤ 32768) : storeFrame s p f =
    { s with course := { s.course with ports := vmod s.course.ports p fun q => { q with txq := insertFrame q.txq f, counts := vmod q.counts 6 sat16 } } } := by
  unfold storeFrame
  rw [if_pos h]
  dsimp only [countPort]
  rw [vmod_vmod]

/-! Frames that arrive (R573, R576, R581, R602). -/

/-- A frame arrives at the node of a role. -/
def roleRx (role : Role) (s : State) (type : Byte) (r : CourseRx) (body : State → State) : State :=
  match role with
  | .head => headRx s type r body
  | .pod => podRx s type r body

/-- Each Course frame but DISCOVER reaches its node through the receiver of its role; where rules are evaluated, SAFE may follow. -/
theorem exec_courseFrame {c : Instr} {role : Role} {type : Byte} {r : CourseRx} (h : courseFrame c = some (role, type, r)) (s : State) :
    ∃ body : State → State, exec c s = .next (roleRx role s type r body) ∨ exec c s = .next (settle s (roleRx role s type r body)) := by
  unfold courseFrame at h
  split at h <;> cases h
  case h_3 | h_4 | h_5 => exact ⟨_, .inr rfl⟩
  all_goals exact ⟨_, .inl rfl⟩

theorem roleRx_away {role : Role} {s : State} {type : Byte} {r : CourseRx} {body : State → State}
    (h : s.role ≠ role ∨ s.course.ports[r.port].enabled = false ∨ (role = .head ∧ (isRunning s = false ∨ r.src = 0))) :
    roleRx role s type r body = s := by
  have hoff : s.course.ports[r.port].enabled = false → rx s type r body = s := fun he => if_pos (by rw [he]; rfl)
  cases role with
  | head =>
    refine ite_eq_right_iff.2 fun hc => ?_
    simp only [Bool.and_eq_true, decide_eq_true_eq, bne_iff_ne, ne_eq] at hc
    rcases h with h | h | ⟨-, h | h⟩
    · exact absurd hc.1.1 h
    · exact hoff h
    · rw [hc.1.2] at h
      cases h
    · exact absurd h hc.2
  | pod =>
    refine ite_eq_right_iff.2 fun hc => ?_
    rcases h with h | h | ⟨h, -⟩
    · exact absurd hc h
    · exact hoff h
    · cases h

theorem roleRx_fails {role : Role} {s : State} {type : Byte} {r : CourseRx} {body : State → State} (hr : s.role = role)
    (he : s.course.ports[r.port].enabled = true) (hh : role = .head → isRunning s = true ∧ r.src ≠ 0) (hf : rxFate s type r ≠ .accepted) :
    roleRx role s type r body = countPort s r.port (fateCount (rxFate s type r)) := by
  have hrx : rx s type r body = countPort s r.port (fateCount (rxFate s type r)) := by
    unfold rx
    dsimp only
    rw [if_neg (by rw [he]; decide), if_neg (by simp [hf])]
    unfold countFate
    split
    · next h => exact absurd h hf
    · rfl
  cases role with
  | head =>
    obtain ⟨h1, h2⟩ := hh rfl
    exact (if_pos (by rw [hr, h1]; simpa using h2)).trans hrx
  | pod => exact (if_pos hr).trans hrx

/-! A frame originated on one port (R571, R574, R575). -/

/-- The frame this node originates next in a class. -/
def ownFrameOf (s : State) (type dst credit : Byte) (cls : Fin 3) (pay : List Byte) : CourseFrame :=
  { dst := dst, src := ownAddr s, type := type, seq := s.course.seqs[cls]
    classVer := BitVec.ofNat 8 (cls.val + 16 * (if type.toNat ≤ 3 ∧ type ≠ 0 then 1 else s.course.version.toNat))
    credit := credit, hop := 0, payload := pay, stomped := false, repeated := false }

theorem enumType_iff (type : Byte) : (type = 1 ∨ type = 2 ∨ type = 3) ↔ type.toNat ≤ 3 ∧ type ≠ 0 := by
  constructor
  · rintro (rfl | rfl | rfl) <;> decide
  · rintro ⟨h3, h0⟩
    have hn : type.toNat ≠ 0 := fun h => h0 (BitVec.eq_of_toNat_eq h)
    have : type.toNat = 1 ∨ type.toNat = 2 ∨ type.toNat = 3 := by omega
    exact this.imp BitVec.eq_of_toNat_eq (Or.imp BitVec.eq_of_toNat_eq BitVec.eq_of_toNat_eq)

theorem takeSeq_class (s : State) (cls : Fin 3) :
    takeSeq s cls.val = (s.course.seqs[cls], { s with course := { s.course with seqs := vmod s.course.seqs cls (· + 1) } }) := by
  match cls with
  | 0 => rfl
  | 1 => rfl
  | 2 => rfl

theorem originate_one {s : State} {p : Fin 2} (hs : sends s p = true) (type dst credit : Byte) (cls : Fin 3) (pay : List Byte) :
    originate s [p] type dst cls.val credit pay = { s with course := { s.course with
      seqs := vmod s.course.seqs cls (· + 1)
      ports := vmod s.course.ports p fun q => { q with txq := insertFrame q.txq (ownFrameOf s type dst credit cls pay) } } } := by
  have hv : (if type = 1 ∨ type = 2 ∨ type = 3 then 1 else s.course.version.toNat) = if type.toNat ≤ 3 ∧ type ≠ 0 then 1 else s.course.version.toNat :=
    if_congr (enumType_iff type) rfl rfl
  have hf : newFrame (takeSeq s cls.val).2 type dst cls.val credit (takeSeq s cls.val).1 pay = ownFrameOf s type dst credit cls pay := by
    rw [takeSeq_class]
    unfold ownFrameOf
    rw [← hv]
    rfl
  unfold sends at hs
  rw [Bool.and_eq_true, Bool.not_eq_true'] at hs
  unfold originate
  dsimp only [List.foldl]
  rw [hf, takeSeq_class, sendOn]
  refine if_pos ?_
  show (s.course.ports[p].enabled && (false || type == 0x14 || !underTest s.course.ports[p])) = true
  rw [hs.1, hs.2]
  simp

/-- Settles O44: each command by the one state it leaves; the wire by reading back what was written; what arrives by the receiver of its role. -/
theorem coursePortsAndRepeating : Obligations.CoursePortsAndRepeating := by
  unfold Obligations.CoursePortsAndRepeating
  refine ⟨fun s p rep he hl => ⟨fun h => ?quiet, fun f hrep hr hf hfr => ?cut⟩, fun s p he hl => ⟨fun h => ?back, fun hr hrun hp => ?wanted⟩,
    lowerVersion_version, fun s p rep he => ?off, fun s p f l hs hn => ⟨?leaves, fun h => atSending_plain h s, fun h hr => ?alarm, fun h hr => ?start,
    fun h hr => ?resp⟩, fun l => ⟨nextOut_none_iff l, fun f k h => ?next, fun f k hl h => ?first⟩,
    fun f p hl => ⟨ofWire_wireBytes f p, heard_whole p hl, fun h => ?good, heard_upstream p⟩,
    fun l => ⟨lineLevels_length l, by rw [lineLevels_halves]; exact lineBits_halves _⟩,
    fun s type busy r hr hrun he hk hw hc => cutThroughRepeat_reserved busy hr hrun he hk hw hc,
    fun s type busy r hr he hu ho ha hf => ⟨fun hb ht hq => ?now, fun hb hroom ht => ?stored, fun ht h1 h2 => ?reach⟩,
    fun s p type dst credit cls pay hs => ⟨originate_one hs type dst credit cls pay, insertFrame_split _ _⟩,
    fun c s role type r hc => ⟨fun h => ?away, fun hr he hh hf => ?fails⟩⟩
  case quiet =>
    rw [lossOfSignal_next he hl]
    refine congrArg Host.Outcome.next (if_neg fun hc => ?_)
    simp only [Bool.and_eq_true, decide_eq_true_eq] at hc
    rcases h with h | h
    · exact absurd (h.symm.trans hc.1.2) (by decide)
    · exact absurd (h.symm.trans hc.1.1) (by decide)
  case cut =>
    have hx := lossOfSignal_next he hl rep
    rw [if_pos (by rw [hr, hrep, hf]; exact hfr)] at hx
    refine ⟨_, hx, rfl, ?_, ?_⟩
    · dsimp only
      rw [vmod_get, if_neg (otherPort_ne p)]
      exact (vmod_get ..).trans (if_pos rfl)
    · have ho : (lossNoted s p).course.ports[otherPort p] = s.course.ports[otherPort p] := (vmod_get ..).trans (if_neg (otherPort_ne p).symm)
      dsimp only
      rw [vmod_get, if_pos rfl, ho, hf]
      rfl
  case back =>
    rw [signalRestored_next he hl]
    refine congrArg Host.Outcome.next (if_neg fun hc => ?_)
    simp only [Bool.and_eq_true, decide_eq_true_eq] at hc
    rcases h with h | h
    · exact absurd (h.symm.trans hc.1) (by decide)
    · exact absurd (h.symm.trans hc.2) (by decide)
  case wanted =>
    have hx := signalRestored_next he hl
    rw [if_pos (by rw [hr, hrun]; rfl)] at hx
    have hlos : (signalBack s p).course.ports[p].los = false := by
      unfold signalBack
      dsimp only
      rw [vmod_get, if_pos rfl]
    have hsends (q : Fin 2) : sends (signalBack s p) q = sends s q := by
      unfold sends signalBack
      dsimp only
      rw [vmod_get]
      split <;> rfl
    have hused : usedPorts (signalBack s p) ≠ [] := List.ne_nil_of_mem (show p ∈ usedPorts (signalBack s p) from hp)
    obtain ⟨hw, -, hq⟩ := sendDiscover_waits (collecting (signalBack s p)) true (usedPorts s)
    have hfull : discoverFull (signalBack s p) = sendDiscover (collecting (signalBack s p)) true (usedPorts s) := discoverFull_used hused
    have hpay (q : Fin 2) : discoverPayload (lowerVersion (collecting (signalBack s p))) true q = discoverPayload (lowerVersion s) true q := by
      refine discoverPayload_congr ?_ ?_ ?_ true q
      · rw [(lowerVersion_sent (collecting (signalBack s p))).only, (lowerVersion_sent s).only]
        rfl
      · rw [(lowerVersion_sent (collecting (signalBack s p))).only, (lowerVersion_sent s).only]
        rfl
      · rw [lowerVersion_version, lowerVersion_version]
        rfl
    have hfulllos : (discoverFull (signalBack s p)).course.ports[p].los = false := by
      rw [hfull, hq p]
      exact hlos
    have hbegin := discoverFull_begins hused
    refine ⟨_, hx, (wantFull_only _).after_course rfl, ?_, (wantFull_only _).nodes, fun hc => ?_, fun hc hf => ?_, fun hb => ?_⟩
    · unfold wantFull
      split
      · exact hfulllos
      · split
        · exact hlos
        · exact hfulllos
      · exact hlos
    · have hwf : wantFull (signalBack s p) = discoverFull (signalBack s p) := by
        rcases hc with h | ⟨h, hf⟩
        · exact wantFull_idle h
        · exact (wantFull_collecting (s := signalBack s p) h).trans (if_neg (by rw [show (signalBack s p).course.enumFull = false from hf]; decide))
      rw [hwf]
      refine ⟨hbegin.1, hbegin.2, fun q hq' hs => ?_⟩
      have := hw q hq' ((hsends q).trans hs)
      rw [hpay] at this
      rw [hfull]
      exact this
    · have hwf : wantFull (signalBack s p) = signalBack s p := (wantFull_collecting (s := signalBack s p) hc).trans (if_pos hf)
      rw [hwf]
      exact ⟨hc, hf, rfl⟩
    · rw [wantFull_booting (s := signalBack s p) hb]
      exact ⟨hb, rfl, rfl⟩
  case off =>
    refine ⟨if_pos (by rw [he]; rfl), if_pos (by rw [he]; rfl), ?_⟩
    show execStoredFrameSend p s = _
    unfold execStoredFrameSend
    dsimp only
    rw [he]
    rfl
  case leaves =>
    refine ⟨_, storedFrameSend_next hs hn, ?_⟩
    unfold noteDeparture
    cases hrep : f.repeated with
    | true =>
      rw [if_neg (by simp), if_neg (by simp)]
      exact ⟨rfl, rfl⟩
    | false =>
      by_cases ht : f.type = 0x15
      · rw [if_pos ⟨ht, by decide⟩, if_pos ⟨ht, rfl⟩]
        exact ⟨rfl, rfl⟩
      · rw [if_neg fun h => ht h.1, if_neg fun h => ht h.1]
        exact ⟨rfl, rfl⟩
  case alarm =>
    rw [atSending_own hr, h]
    rfl
  case start =>
    rw [atSending_own hr, h]
    rfl
  case resp =>
    rw [atSending_own hr, h]
    rfl
  case next =>
    obtain ⟨hp, hm⟩ := nextOut_some h
    exact ⟨hp, (mayLeave_iff l f).1 hm⟩
  case first =>
    subst hl
    exact nextOut_cons ((mayLeave_iff _ f).2 h)
  case good =>
    exact (heard_crc p f).trans (if_neg (by rw [h]; decide))
  case now =>
    rw [cutThroughRepeat_elsewhere hr he hu ha hf, repeatFrame_enabled hr he hu ho, ht, hb, repeated_accepted hf]
    have hn : s.course.ports[otherPort r.port].txq.any (·.repeated) = false := List.any_eq_false.2 fun g hg => by rw [hq g hg]; decide
    rw [hn]
    rfl
  case stored =>
    have hnot : (underTest s.course.ports[otherPort r.port] && inR 1 250 r.dst.toNat) = false := by
      rcases ht with h | h | h
      · rw [h]
        rfl
      · rw [h]
        exact Bool.and_false _
      · rw [h]
        exact Bool.and_false _
    rw [cutThroughRepeat_elsewhere hr he hu ha hf, repeatFrame_enabled hr he hu ho, hnot, hb]
    refine congrArg Host.Outcome.next ((storeFrame_room hroom).trans ?_)
    rw [repeated_accepted hf]
  case reach =>
    rw [cutThroughRepeat_elsewhere hr he hu ha hf, repeatFrame_enabled hr he hu ho]
    refine congrArg Host.Outcome.next (if_pos ?_)
    rw [ht, inR, decide_eq_true h1, decide_eq_true h2]
    rfl
  case away =>
    obtain ⟨body, hx | hx⟩ := exec_courseFrame hc s
    · rw [hx, roleRx_away h]
    · rw [hx, roleRx_away h, settle_of_noNewFault (.refl s)]
  case fails =>
    obtain ⟨body, hx | hx⟩ := exec_courseFrame hc s
    · rw [hx, roleRx_fails hr he hh hf]
      rfl
    · rw [hx, roleRx_fails hr he hh hf, settle_of_ks (by rfl)]
      rfl

end Sys2Proof.Machine

namespace Sys2Proof.Machine

/-! Enumeration at the head: discovery, identities, retries, the closed ring (R585 - R593, R603, R618). -/

/-- The collection of a DISCOVER without FULL begins. -/
def collectionBegun (s : State) : State :=
  { s with course := { s.course with enum := .collecting, enumFull := false, found := [], collectClk := s.clk, newIdClk := s.clk } }

/-- The used ports that have signal. -/
def litPorts (s : State) : List (Fin 2) := (usedPorts s).filter fun p => !s.course.ports[p].los

theorem discoverTimer_due {s : State} (hr : s.role = .head) (hrun : isRunning s = true) (he : s.course.enum = .idle)
    (hp : (usedPorts s).any (fun p => !s.course.ports[p].los) = true) (hc : s.course.discoverClk + 1000000 ≤ s.clk) :
    exec .discoverTimer s = .next (sendDiscover (collectionBegun s) false (litPorts s)) := by
  have hne : (litPorts s).isEmpty = false := by
    rw [litPorts, List.isEmpty_eq_false_iff, ne_eq, List.filter_eq_nil_iff]
    intro h
    obtain ⟨p, hp, hl⟩ := List.any_eq_true.1 hp
    exact h p hp hl
  show execDiscoverTimer s = _
  unfold execDiscoverTimer
  refine if_neg ?_
  change ¬(_ || _ || _ || (litPorts s).isEmpty || _) = true
  rw [hne]
  simp [hr, hrun, he, hc]

theorem discoverTimer_not {s : State} (h : s.role = .pod ∨ s.course.enum ≠ .idle ∨ s.clk < s.course.discoverClk + 1000000) :
    exec .discoverTimer s = .next s := by
  show execDiscoverTimer s = _
  unfold execDiscoverTimer
  refine if_pos ?_
  rcases h with h | h | h <;> simp [h]

/-! DISCOVER_RETURN (R573, R584, R589). -/

/-- A frame in order at the head: whole, its CRC good, its fields as they must be, its port in service. -/
theorem rxFate_good {s : State} {type : Byte} {r : CourseRx} (hw : wholeFrame r = true) (hc : r.crc = frameCrc type r.hop r)
    (hf : fieldsOk s type r = true) : rxFate s type r = .duplicate ∨ rxFate s type r = .accepted := by
  have he : r.endedEarly = false := by
    unfold wholeFrame at hw
    simp only [Bool.and_eq_true, Bool.not_eq_true'] at hw
    exact hw.1.1
  unfold rxFate
  rw [if_neg (by rw [he]; decide), if_neg (by rw [stompedCrc_good hc]; decide), if_neg (by rw [hw]; decide), if_neg (fun h => h hc),
    if_neg (by rw [hf]; decide)]
  split
  · exact .inl rfl
  · exact .inr rfl

/-- The frame is the head's own DISCOVER from C0, come round to C1. -/
def ownReturn (s : State) (r : CourseRx) : Bool :=
  cfgRing s && r.port == 1 && !bit (u8 r.payload 0) 1 && le r.payload 4 8 == s.cornerstone.uniqueId.toNat

section
variable {s : State} {r : CourseRx} (hr : s.role = .head) (hrun : isRunning s = true) (hsrc : r.src = 0)
include hr hrun hsrc

/-- A frame in order: the ring closes with the head's own, and any other is discarded. -/
theorem discoverReturn_good (hw : wholeFrame r = true) (hc : r.crc = frameCrc 0x01 r.hop r) (hf : fieldsOk s 0x01 r = true)
    (ht : underTest s.course.ports[r.port] = false) : exec (.discoverReturn r) s = .next (
      if s.course.ports[r.port].enabled = true ∧ ownReturn s r = true then
        (let t := { s with course := { s.course with ringClosed := true, ringBack := true, n := r.hop } }
        if s.course.ringClosed then t else ringSides t)
      else s) := by
  have hgood : (wholeFrame r && r.crc == frameCrc 0x01 r.hop r && fieldsOk s 0x01 r && !underTest s.course.ports[r.port]) = true := by
    rw [hw, hf, ht, hc, beq_self_eq_true]
    rfl
  show execDiscoverReturn r s = _
  unfold execDiscoverReturn
  dsimp only
  rw [hgood]
  cases he : s.course.ports[r.port].enabled with
  | false => exact (if_pos (by simp)).trans (congrArg _ (if_neg (fun h => absurd h.1 (by decide))).symm)
  | true =>
    refine (if_neg (by simp [hr, hrun, hsrc])).trans ((if_neg (by decide)).trans ?_)
    change (if (!ownReturn s r) = true then _ else _) = _
    cases ownReturn s r with
    | false => rfl
    | true => rfl

/-- A frame that is not in order is counted. -/
theorem discoverReturn_bad (he : s.course.ports[r.port].enabled = true) (ha : rxFate s 0x01 r ≠ .accepted) (hd : rxFate s 0x01 r ≠ .duplicate) :
    exec (.discoverReturn r) s = .next (countPort s r.port (fateCount (rxFate s 0x01 r))) := by
  have hgood : (wholeFrame r && r.crc == frameCrc 0x01 r.hop r && fieldsOk s 0x01 r && !underTest s.course.ports[r.port]) = false := by
    rw [Bool.eq_false_iff]
    intro h
    simp only [Bool.and_eq_true, beq_iff_eq] at h
    obtain ⟨⟨⟨hw, hc⟩, hf⟩, -⟩ := h
    exact (rxFate_good hw hc hf).elim hd ha
  have hcount : countFate s 0x01 r = countPort s r.port (fateCount (rxFate s 0x01 r)) := by
    unfold countFate
    split
    · next h => exact absurd h ha
    · rfl
  show execDiscoverReturn r s = _
  unfold execDiscoverReturn
  dsimp only
  rw [hgood, he, hr, hrun, hsrc]
  refine (if_neg (by decide)).trans ((if_pos rfl).trans (congrArg _ ((if_neg ?_).trans hcount)))
  exact fun h => hd (eq_of_beq h)

end

theorem onRingSide_eq (n : Node) : onRingSide n =
    { n with side := if n.link1 ≠ 0 ∧ (n.link0 = 0 ∨ n.link1 < n.link0) then 1 else 0
             delayWanted := n.delayWanted || n.side != if n.link1 ≠ 0 ∧ (n.link0 = 0 ∨ n.link1 < n.link0) then 1 else 0 } := by
  have hside : sideFor true n.link0 n.link1 = if n.link1 ≠ 0 ∧ (n.link0 = 0 ∨ n.link1 < n.link0) then 1 else 0 := by
    unfold sideFor
    by_cases h1 : n.link1 = 0
    · rw [if_pos h1, if_neg fun h => h.1 h1]
    · rw [if_neg h1]
      by_cases h0 : n.link0 = 0
      · rw [if_pos h0, if_pos ⟨h1, .inl h0⟩]
      · rw [if_neg h0]
        exact if_congr (by rw [Bool.true_and, decide_eq_true_eq]; exact ⟨fun h => ⟨h1, .inr h⟩, fun h => h.2.resolve_left h0⟩) rfl rfl
  unfold onRingSide
  rw [hside]

/-! ASSIGN_RETRY (R593). -/

theorem assignRetry_found {s : State} {a : Byte} {n : Node} (hr : s.role = .head) (hrun : isRunning s = true)
    (hn : s.course.nodes.find? (fun m => m.addr == a && m.assigns != 0) = some n) : exec (.assignRetry a) s =
      if s.clk < n.assignClk + 10000 then .next s
      else if n.assigns ≤ 3 then .next (sendAssign (setNode s { n with assigns := n.assigns + 1 }) n.uid n.addr
        (if n.state = .parkedIncompatible then 1 else 0) n.sub)
      else .next (setNode s { n with assigns := 0, state := .absent }) := by
  show execAssignRetry a s = _
  unfold execAssignRetry
  rw [hr, hrun, hn]
  rfl

theorem assignRetry_none {s : State} {a : Byte} (h : ∀ m ∈ s.course.nodes, m.addr = a → m.assigns = 0) : exec (.assignRetry a) s = .next s := by
  have hn : s.course.nodes.find? (fun m => m.addr == a && m.assigns != 0) = none := by
    rw [List.find?_eq_none]
    intro m hm hc
    simp only [Bool.and_eq_true, beq_iff_eq, bne_iff_ne, ne_eq] at hc
    exact hc.2 (h m hm hc.1)
  show execAssignRetry a s = _
  unfold execAssignRetry
  rw [hn]
  split
  · next h => cases h
  · rfl

/-! IDENTITY (R577, R590, R593, R603). -/

/-- The lowest version named, and, while a collection may take it, the IDENTITY collected. -/
def identityNoted (s : State) (r : CourseRx) : State :=
  let i := identOf r.payload
  let s := noteVersion s i.version
  if s.course.enum = .collecting && (s.course.enumFull || i.addr == 0) then collectIdentity s r.port r.payload else s

/-- What an IDENTITY does to the pod of the table that it names. -/
def identityTold (s : State) (i : Ident) (n : Node) : State :=
  let m := { (identNode i n) with assigns := 0, assignNew := false }
  let s := setNode s m
  match n.state with
  | .assigned | .booting => if runsPhase i then joinNode s m else setNode s { m with state := .booting }
  | .bootFailed => if runsPhase i then joinNode s m else s
  | .lost => wantFull s
  | _ => s

theorem execIdentity_takes {s : State} {r : CourseRx} (h : Takes .head s 0x02 r) :
    exec (.identity r) s = .next (
      match (identityNoted (received s 0x02 r) r).course.nodes.find? fun n =>
        n.uid == (identOf r.payload).uid && n.addr == (identOf r.payload).addr && (identOf r.payload).addr != 0 with
      | none => identityNoted (received s 0x02 r) r
      | some n => identityTold (identityNoted (received s 0x02 r) r) (identOf r.payload) n) := by
  show execIdentity r s = _
  unfold execIdentity
  rw [headRx_takes h]
  rfl

/-- Out of a collection only the version is noted. -/
theorem identityNoted_idle {s : State} (he : s.course.enum ≠ .collecting) (r : CourseRx) :
    identityNoted s r = noteVersion s (identOf r.payload).version :=
  if_neg (by rw [decide_eq_false (show ¬(noteVersion s (identOf r.payload).version).course.enum = .collecting from he)]; exact Bool.false_ne_true)

theorem collectIdentity_nodes (s : State) (p : Fin 2) (l : List Byte) : (collectIdentity s p l).course.nodes = s.course.nodes ∧
    (collectIdentity s p l).course.enum = s.course.enum ∧ (collectIdentity s p l).course.enumFull = s.course.enumFull := by
  unfold collectIdentity
  dsimp only
  split <;> exact ⟨rfl, rfl, rfl⟩

theorem identityNoted_nodes (s : State) (r : CourseRx) : (identityNoted s r).course.nodes = s.course.nodes ∧
    (identityNoted s r).course.enum = s.course.enum ∧ (identityNoted s r).course.enumFull = s.course.enumFull := by
  unfold identityNoted
  dsimp only
  split
  · exact collectIdentity_nodes ..
  · exact ⟨rfl, rfl, rfl⟩

/-- A unique ID not yet collected is. -/
theorem identityNoted_found {s : State} {r : CourseRx} (he : s.course.enum = .collecting) (hf : s.course.enumFull = true)
    (hn : ∀ q ∈ s.course.found, q.payload.take 8 ≠ r.payload.take 8) :
    (identityNoted s r).course.found = s.course.found ++ [putFound { payload := r.payload } r.port r.payload] := by
  have hc : identityNoted s r = collectIdentity (noteVersion s (identOf r.payload).version) r.port r.payload := by
    refine if_pos ?_
    change (decide (s.course.enum = .collecting) && (s.course.enumFull || _)) = true
    rw [hf, decide_eq_true he]
    rfl
  have hany : (s.course.found.any fun x => x.payload.take 8 == r.payload.take 8) = false :=
    List.any_eq_false.2 fun q hq h => hn q hq (eq_of_beq h)
  rw [hc]
  unfold collectIdentity
  dsimp only
  change (ite ((s.course.found.any fun x => x.payload.take 8 == r.payload.take 8) = true) _ _ : State).course.found = _
  rw [hany, if_neg (by decide)]
  rfl

/-- From `s` to `t` a pod has joined: the collection goes on untouched. -/
structure JoinsOnly (s t : State) : Prop where
  rest : t = { s with course := t.course, events := t.events, results := t.results, ks := t.ks, modes := t.modes }
  found : t.course.found = s.course.found

theorem JoinsOnly.trans {s t u : State} (h : JoinsOnly s t) (k : JoinsOnly t u) : JoinsOnly s u where
  rest := by rw [k.rest, h.rest]
  found := k.found.trans h.found

theorem setNode_joins (s : State) (n : Node) : JoinsOnly s (setNode s n) := ⟨rfl, rfl⟩

theorem allocate_joins (s : State) (node : Nat) (g : Nat → List Byte) : JoinsOnly s (allocate s node g) ∧
    (allocate s node g).course.nodes = s.course.nodes ∧ PendingStays s (allocate s node g) := by
  unfold allocate
  dsimp only
  split
  · refine ⟨⟨rfl, rfl⟩, rfl, raise_stays ?_ 30 0⟩
    exact ⟨fun _ h => h⟩
  · exact ⟨⟨rfl, rfl⟩, rfl, ⟨fun _ h => h⟩⟩

/-- A pod that joins: its record says so, and EV22 is pending. -/
theorem joinNode_spec (s : State) (n : Node) : JoinsOnly s (joinNode s n) ∧ (joinNode s n).events.pending.getLsbD 22 = true ∧
    ∃ m ∈ (joinNode s n).course.nodes, m.addr = n.addr ∧ m.uid = n.uid ∧ m.assigns = n.assigns ∧ m.phase = n.phase ∧ m.state = .joined := by
  unfold joinNode
  extract_lets n' s1 s2 s3 _ s4
  obtain ⟨hj, hn, hs⟩ := allocate_joins s2 n.addr.toNat (nodeSec s2 n.addr.toNat)
  have h12 : JoinsOnly s s2 := (setNode_joins s n').trans ⟨rfl, rfl⟩
  have hp : s3.events.pending.getLsbD 22 = true := hs.stays 22 (raise_pending s1 22 _)
  have hm : n' ∈ s3.course.nodes := hn ▸ putNode_mem n' s.course.nodes
  have h4 : JoinsOnly s s4 := (h12.trans hj).trans ⟨rfl, rfl⟩
  split
  · have hc := clearFault_only s4 0x17
    refine ⟨h4.trans ⟨?_, ?_⟩, ?_, n', ?_, rfl, rfl, rfl, rfl, rfl⟩
    all_goals
      generalize clearFault s4 0x17 = t at hc
      rw [hc]
    · exact hp
    · exact hm
  · exact ⟨h4, hp, n', hm, rfl, rfl, rfl, rfl, rfl⟩

/-- While a FULL collection runs, nothing an IDENTITY tells of the table touches what is collected. -/
theorem identityTold_found {s : State} (he : s.course.enum = .collecting) (hf : s.course.enumFull = true) (i : Ident) (n : Node) :
    (identityTold s i n).course.found = s.course.found := by
  unfold identityTold
  extract_lets _ m u
  split
  · split
    · exact (joinNode_spec u m).1.found
    · rfl
  · split
    · exact (joinNode_spec u m).1.found
    · rfl
  · split
    · exact (joinNode_spec u m).1.found
    · rfl
  · exact congrArg (·.course.found) ((wantFull_collecting (s := u) he).trans (if_pos hf))
  · rfl

/-- The pod that an IDENTITY names joins when it runs, and stays booting before. -/
theorem identityTold_confirms {s : State} {i : Ident} {n : Node} (hn : n.state = .assigned ∨ n.state = .booting) :
    JoinsOnly s (identityTold s i n) ∧ ∃ m ∈ (identityTold s i n).course.nodes, m.addr = n.addr ∧ m.uid = i.uid ∧ m.assigns = 0 ∧ m.phase = i.phase ∧
      (runsPhase i = true → m.state = .joined ∧ (identityTold s i n).events.pending.getLsbD 22 = true) ∧ (runsPhase i = false → m.state = .booting) := by
  have hx : identityTold s i n =
      if runsPhase i then joinNode (setNode s { (identNode i n) with assigns := 0, assignNew := false }) { (identNode i n) with assigns := 0, assignNew := false }
      else setNode (setNode s { (identNode i n) with assigns := 0, assignNew := false })
        { (identNode i n) with assigns := 0, assignNew := false, state := .booting } := by
    unfold identityTold
    rcases hn with h | h <;> rw [h]
  rw [hx]
  cases hr : runsPhase i with
  | true =>
    rw [if_pos rfl]
    obtain ⟨hj, hp, m, hm, haddr, huid, has, hph, hst⟩ := joinNode_spec (setNode s { (identNode i n) with assigns := 0, assignNew := false })
      { (identNode i n) with assigns := 0, assignNew := false }
    exact ⟨(setNode_joins s _).trans hj, m, hm, haddr, huid, has, hph, fun _ => ⟨hst, hp⟩, nofun⟩
  | false =>
    rw [if_neg (by decide)]
    exact ⟨(setNode_joins s _).trans (setNode_joins _ _), _, putNode_mem .., rfl, rfl, rfl, rfl, nofun, fun _ => rfl⟩

/-- A lost pod that answers brings a DISCOVER with FULL. -/
theorem identityTold_lost {s : State} {i : Ident} {n : Node} (hn : n.state = .lost) :
    identityTold s i n = wantFull (setNode s { (identNode i n) with assigns := 0, assignNew := false }) := by
  unfold identityTold
  rw [hn]

theorem noteVersion_received (s : State) (r : CourseRx) (v : Byte) :
    noteVersion (received s 0x02 r) v = { s with course := (noteVersion (received s 0x02 r) v).course } := by
  unfold noteVersion
  rw [received_eq]

section
variable {s : State} {r : CourseRx} (h : Takes .head s 0x02 r)
include h

theorem identity_collected (he : s.course.enum = .collecting) (hf : s.course.enumFull = true)
    (hn : ∀ q ∈ s.course.found, q.payload.take 8 ≠ r.payload.take 8) : ∃ t, exec (.identity r) s = .next t ∧
      t.course.found = s.course.found ++ [putFound { payload := r.payload } r.port r.payload] := by
  have hc : (received s 0x02 r).course.found = s.course.found := congrArg (·.course.found) (received_eq s 0x02 r)
  have he' : (received s 0x02 r).course.enum = .collecting := (received_enum ..).trans he
  have hf' : (received s 0x02 r).course.enumFull = true := (congrArg (·.course.enumFull) (received_eq s 0x02 r)).trans hf
  have hfound := identityNoted_found he' hf' (by rw [hc]; exact hn)
  obtain ⟨-, hve, hvf⟩ := identityNoted_nodes (received s 0x02 r) r
  rw [hc] at hfound
  refine ⟨_, execIdentity_takes h, ?_⟩
  split
  · exact hfound
  · exact (identityTold_found (hve.trans he') (hvf.trans hf') ..).trans hfound

/-- The node an IDENTITY names, as the head looks it up. -/
theorem identity_idle (he : s.course.enum ≠ .collecting) : exec (.identity r) s = .next (
    match s.course.nodes.find? fun n => n.uid == (identOf r.payload).uid && n.addr == (identOf r.payload).addr && (identOf r.payload).addr != 0 with
    | none => noteVersion (received s 0x02 r) (identOf r.payload).version
    | some n => identityTold (noteVersion (received s 0x02 r) (identOf r.payload).version) (identOf r.payload) n) := by
  have he' : (received s 0x02 r).course.enum ≠ .collecting := by rw [received_enum]; exact he
  have hx := execIdentity_takes h
  rw [identityNoted_idle he', show (noteVersion (received s 0x02 r) (identOf r.payload).version).course.nodes = s.course.nodes from received_nodes ..] at hx
  exact hx

theorem identity_unknown (he : s.course.enum ≠ .collecting)
    (hn : ∀ n ∈ s.course.nodes, n.uid ≠ (identOf r.payload).uid ∨ n.addr ≠ (identOf r.payload).addr) :
    exec (.identity r) s = .next (noteVersion (received s 0x02 r) (identOf r.payload).version) := by
  have hnone : (s.course.nodes.find? fun n =>
      n.uid == (identOf r.payload).uid && n.addr == (identOf r.payload).addr && (identOf r.payload).addr != 0) = none := by
    rw [List.find?_eq_none]
    intro n hm hc
    simp only [Bool.and_eq_true, beq_iff_eq] at hc
    exact (hn n hm).elim (fun hu => hu hc.1.1) (fun ha => ha hc.1.2)
  rw [identity_idle h he, hnone]

theorem identity_known (he : s.course.enum ≠ .collecting) {n : Node} (h0 : (identOf r.payload).addr ≠ 0)
    (hn : s.course.nodes.find? (fun m => m.uid == (identOf r.payload).uid && m.addr == (identOf r.payload).addr) = some n) :
    exec (.identity r) s = .next (identityTold (noteVersion (received s 0x02 r) (identOf r.payload).version) (identOf r.payload) n) := by
  have h1 : ((identOf r.payload).addr != 0) = true := by simpa using h0
  have hx := identity_idle h he
  simp only [h1, Bool.and_true] at hx
  rw [hn] at hx
  exact hx

theorem identity_confirms (he : s.course.enum ≠ .collecting) {n : Node} (h0 : (identOf r.payload).addr ≠ 0)
    (hn : s.course.nodes.find? (fun m => m.uid == (identOf r.payload).uid && m.addr == (identOf r.payload).addr) = some n)
    (hst : n.state = .assigned ∨ n.state = .booting) : ∃ (t : State) (m : Node), exec (.identity r) s = .next t ∧
      t = { s with course := t.course, events := t.events, results := t.results, ks := t.ks, modes := t.modes } ∧
      m ∈ t.course.nodes ∧ m.addr = (identOf r.payload).addr ∧ m.uid = (identOf r.payload).uid ∧ m.assigns = 0 ∧ m.phase = (identOf r.payload).phase ∧
      (runsPhase (identOf r.payload) = true → m.state = .joined ∧ t.events.pending.getLsbD 22 = true) ∧
      (runsPhase (identOf r.payload) = false → m.state = .booting) := by
  have haddr : n.addr = (identOf r.payload).addr := by
    have := List.find?_some hn
    simp only [Bool.and_eq_true, beq_iff_eq] at this
    exact this.2
  have hnoted := noteVersion_received s r (identOf r.payload).version
  have hx := identity_known h he h0 hn
  generalize noteVersion (received s 0x02 r) (identOf r.payload).version = v at hnoted hx
  obtain ⟨hj, m, hm, ha, hrest⟩ := identityTold_confirms (s := v) (i := identOf r.payload) hst
  refine ⟨_, m, hx, ?_, hm, ha.trans haddr, hrest⟩
  generalize identityTold v _ n = t at hj
  rw [hj.rest, hnoted]

theorem identity_lost {n : Node} (h0 : (identOf r.payload).addr ≠ 0)
    (hn : s.course.nodes.find? (fun m => m.uid == (identOf r.payload).uid && m.addr == (identOf r.payload).addr) = some n) (hst : n.state = .lost)
    (he : s.course.enum = .idle) (hu : usedPorts s ≠ []) : ∃ t, exec (.identity r) s = .next t ∧ t = { s with course := t.course, events := t.events } ∧
      t.course.enum = .collecting ∧ t.course.enumFull = true := by
  have hnoted := noteVersion_received s r (identOf r.payload).version
  have hx := identity_known h (by rw [he]; decide) h0 hn
  have hve : (noteVersion (received s 0x02 r) (identOf r.payload).version).course.enum = .idle := (received_enum ..).trans he
  have hvu : usedPorts (noteVersion (received s 0x02 r) (identOf r.payload).version) = usedPorts s := received_usedPorts s 0x02 r
  generalize noteVersion (received s 0x02 r) (identOf r.payload).version = v at hnoted hx hve hvu
  rw [identityTold_lost hst] at hx
  generalize ({ (identNode (identOf r.payload) n) with assigns := 0, assignNew := false } : Node) = m at hx
  have hu' : usedPorts (setNode v m) ≠ [] := by
    rw [show usedPorts (setNode v m) = usedPorts v from rfl, hvu]
    exact hu
  rw [wantFull_idle (s := setNode v m) hve] at hx
  have ho := (discoverFull_only (setNode v m)).after_course (s := s) (by rw [setNode, hnoted])
  exact ⟨_, hx, ho, discoverFull_begins hu'⟩

end

end Sys2Proof.Machine

namespace Sys2Proof.Machine

/-! The plans carried out (R589 - R594, R603 - R605, R618). -/

/-- A record goes on as the same pod's. -/
def SameNode (n m : Node) : Prop := m.addr = n.addr ∧ m.uid = n.uid ∧ m.sub = n.sub ∧ m.state = n.state

theorem SameNode.refl (n : Node) : SameNode n n := ⟨rfl, rfl, rfl, rfl⟩

theorem SameNode.trans {n m k : Node} (h : SameNode n m) (g : SameNode m k) : SameNode n k := by
  obtain ⟨a, b, c, d⟩ := h
  obtain ⟨a', b', c', d'⟩ := g
  exact ⟨a'.trans a, b'.trans b, c'.trans c, d'.trans d⟩

/-- From `s` to `t` the chain has gone on: every frame still waits, the pods stay in the table, and no event is lost. -/
structure ChainGoes (s t : State) : Prop where
  rest : t = { s with course := t.course, events := t.events }
  queues : ∀ q : Fin 2, ∀ g ∈ s.course.ports[q].txq, g ∈ t.course.ports[q].txq
  nodes : ∃ f : Node → Node, t.course.nodes = s.course.nodes.map f ∧ ∀ n, SameNode n (f n)
  unmapped : t.course.unmapped = s.course.unmapped
  stays : PendingStays s t

theorem ChainGoes.refl (s : State) : ChainGoes s s :=
  ⟨rfl, fun _ _ h => h, ⟨id, (List.map_id _).symm, SameNode.refl⟩, rfl, ⟨fun _ h => h⟩⟩

theorem ChainGoes.trans {s t u : State} (h : ChainGoes s t) (k : ChainGoes t u) : ChainGoes s u where
  rest := by
    have h1 := h.rest
    have k1 := k.rest
    rw [k1, h1]
  queues q g hg := k.queues q g (h.queues q g hg)
  nodes := by
    obtain ⟨f, hf, hs⟩ := h.nodes
    obtain ⟨g, hg, hs'⟩ := k.nodes
    exact ⟨g ∘ f, by rw [hg, hf, List.map_map], fun n => (hs n).trans (hs' (f n))⟩
  unmapped := k.unmapped.trans h.unmapped
  stays := h.stays.trans k.stays

theorem ChainGoes.mem {s t : State} (h : ChainGoes s t) {n : Node} (hn : n ∈ s.course.nodes) : ∃ m ∈ t.course.nodes, SameNode n m := by
  obtain ⟨f, hf, hs⟩ := h.nodes
  exact ⟨f n, by rw [hf]; exact List.mem_map_of_mem hn, hs n⟩

theorem ChainGoes.uids {s t : State} (h : ChainGoes s t) {u : BitVec 64} (hn : ∀ n ∈ s.course.nodes, n.uid ≠ u) : ∀ n ∈ t.course.nodes, n.uid ≠ u := by
  obtain ⟨f, hf, hs⟩ := h.nodes
  intro m hm
  rw [hf] at hm
  obtain ⟨n, hn', rfl⟩ := List.mem_map.1 hm
  rw [(hs n).2.1]
  exact hn n hn'

/-- A change of the course alone that keeps ports and unmapped pods. -/
theorem ChainGoes.of_course {s : State} {c : Course} {f : Node → Node} (hp : c.ports = s.course.ports) (hu : c.unmapped = s.course.unmapped)
    (hn : c.nodes = s.course.nodes.map f) (hf : ∀ n, SameNode n (f n)) : ChainGoes s { s with course := c } :=
  ⟨rfl, fun q g hg => by rw [show ({ s with course := c } : State).course.ports = s.course.ports from hp]; exact hg, ⟨f, hn, hf⟩, hu, ⟨fun _ h => h⟩⟩

/-- A change that leaves the table. -/
theorem ChainGoes.of_table {s : State} {c : Course} (hp : c.ports = s.course.ports) (hu : c.unmapped = s.course.unmapped)
    (hn : c.nodes = s.course.nodes) : ChainGoes s { s with course := c } :=
  .of_course (f := id) hp hu (hn.trans (List.map_id _).symm) SameNode.refl

theorem SendsOnly.chain {s t : State} (h : SendsOnly s t) : ChainGoes s t where
  rest := by
    have h1 := h.rest
    rw [h1]
  queues q := (h.queues q).2
  nodes := ⟨id, (congrArg (·.course.nodes) h.rest).trans (List.map_id _).symm, SameNode.refl⟩
  unmapped := congrArg (·.course.unmapped) h.rest
  stays := ⟨fun n hn => by rw [h.rest]; exact hn⟩

theorem raise_chain (s : State) (ev : Fin 32) (arg : Nat) : ChainGoes s (raise s ev arg) :=
  ⟨rfl, fun _ _ h => h, ⟨id, (List.map_id _).symm, SameNode.refl⟩, rfl, raise_stays ⟨fun _ h => h⟩ ev arg⟩

theorem modNode_chain (s : State) (a : Nat) {f : Node → Node} (hf : ∀ n, SameNode n (f n)) : ChainGoes s (modNode s a f) := by
  refine .of_course rfl rfl rfl fun n => ?_
  split
  · exact hf n
  · exact .refl n

theorem sendAssign_chain (s : State) (uid : BitVec 64) (addr disp sub : Byte) : ChainGoes s (sendAssign s uid addr disp sub) :=
  (originate_sendsOnly s (usedPorts s) 0x03 255 2 0 (assignPayload s uid addr disp sub)).chain.trans (modNode_chain _ _ fun _ => ⟨rfl, rfl, rfl, rfl⟩)

theorem ringSides_chain (s : State) : ChainGoes s (ringSides s) := .of_course (f := onRingSide) rfl rfl rfl fun _ => ⟨rfl, rfl, rfl, rfl⟩

theorem lowerVersion_chain (s : State) : ChainGoes s (lowerVersion s) := by
  unfold lowerVersion
  split
  · dsimp only
    split
    · exact .of_table rfl rfl rfl
    · exact .trans (t := { s with course := { s.course with version := s.course.lowest } }) (.of_table rfl rfl rfl) (raise_chain _ 30 0)
  · exact .refl s

theorem sendDiscover_chain (s : State) (full : Bool) (ports : List (Fin 2)) : ChainGoes s (sendDiscover s full ports) := by
  refine (lowerVersion_chain s).trans ?_
  unfold sendDiscover
  extract_lets u
  refine .trans (t := { u with course := { u.course with discoverClk := u.clk } }) (.of_table rfl rfl rfl) ?_
  refine .trans (t := (takeSeq { u with course := { u.course with discoverClk := u.clk } } 2).2) (.of_table rfl rfl rfl) ?_
  exact (foldl_sendsOnly (fun t p => sendAll_sendsOnly _ [p] t) ports _).chain

theorem discoverFull_chain (s : State) : ChainGoes s (discoverFull s) := by
  by_cases h : usedPorts s = []
  · rw [discoverFull, if_pos (by simpa using h)]
    exact .refl s
  · rw [discoverFull_used h]
    exact .trans (t := collecting s) (.of_table rfl rfl rfl) (sendDiscover_chain ..)

/-! The boot transfer that follows (R594). -/

theorem sendDiscover_found (s : State) (full : Bool) (ports : List (Fin 2)) : (sendDiscover s full ports).course.found = s.course.found := by
  have hl : (lowerVersion s).course.found = s.course.found := by
    unfold lowerVersion
    split
    · dsimp only
      split <;> rfl
    · rfl
  rw [← hl]
  unfold sendDiscover
  extract_lets u
  exact congrArg (·.course.found) (foldl_sendsOnly (fun t p => sendAll_sendsOnly _ [p] t) ports _).rest

/-- What the end of an enumeration, or the first item of a boot transfer, leaves of the enumeration. -/
structure EnumLeft (s t : State) : Prop where
  chain : ChainGoes s t
  found : s.course.found = [] → t.course.found = []
  idles : s.course.fullWanted = false → t.course.enum ≠ .collecting

theorem discoverFull_found {s : State} (h : s.course.found = []) : (discoverFull s).course.found = [] := by
  by_cases hu : usedPorts s = []
  · rw [discoverFull, if_pos (by simpa using hu)]
    exact h
  · rw [discoverFull_used hu]
    exact sendDiscover_found ..

theorem enumIdle_left (s : State) : EnumLeft s (enumIdle s) := by
  have hi : ChainGoes s { s with course := { s.course with enum := .idle, bootItems := [], bootRound := 0 } } := .of_table rfl rfl rfl
  unfold enumIdle
  dsimp only
  split
  · next h => exact ⟨hi.trans (discoverFull_chain _), fun hf => discoverFull_found hf, fun h0 => absurd h (by rw [h0]; decide)⟩
  · exact ⟨hi, id, fun _ => nofun⟩

/-- The pods that are offered an item have not told yet what they miss. -/
def itemOffered (s : State) : State :=
  { s with course := { s.course with enum := .booting, nodes := s.course.nodes.map fun n => if bootable n then { n with missing := none } else n } }

/-- The first item waiting goes out whole. -/
def firstItemSent (s : State) (kind sub : Byte) (b : List Byte) : State :=
  let t := originate (itemOffered s) (usedPorts (itemOffered s)) 0x08 255 2 0
    ([itemNo (itemOffered s), kind, sub, 0] ++ toLE 4 b.length ++ toLE 2 (blockCount b) ++ [0, 0] ++ toLE 4 (containerCrc b).toNat)
  sendBootEnd (sendBlocks t b (List.range (blockCount b))) 0

theorem firstItemSent_left (s : State) (kind sub : Byte) (b : List Byte) : EnumLeft s (firstItemSent s kind sub b) := by
  have ho : ChainGoes s (itemOffered s) := .of_course (f := fun n => if bootable n then { n with missing := none } else n) rfl rfl rfl fun n => by
    split <;> exact ⟨rfl, rfl, rfl, rfl⟩
  have hs := (originate_sendsOnly (itemOffered s) (usedPorts (itemOffered s)) 0x08 255 2 0
    ([itemNo (itemOffered s), kind, sub, 0] ++ toLE 4 b.length ++ toLE 2 (blockCount b) ++ [0, 0] ++ toLE 4 (containerCrc b).toNat)).trans
    (sendBlocks_sendsOnly _ b (List.range (blockCount b)))
  have he := sendBootEnd_sendsOnly (sendBlocks (originate (itemOffered s) (usedPorts (itemOffered s)) 0x08 255 2 0
    ([itemNo (itemOffered s), kind, sub, 0] ++ toLE 4 b.length ++ toLE 2 (blockCount b) ++ [0, 0] ++ toLE 4 (containerCrc b).toNat)) b
      (List.range (blockCount b))) 0
  unfold firstItemSent
  dsimp only
  generalize sendBlocks _ b _ = u at hs he
  have hround : ChainGoes u { u with course := { u.course with bootRound := 0, bootClk := u.clk } } := .of_table rfl rfl rfl
  generalize sendBootEnd u 0 = t at he
  have hf : t.course.found = s.course.found := by
    rw [he.rest, hs.rest]
    rfl
  have hb : t.course.enum = .booting := by
    rw [he.rest, hs.rest]
    rfl
  exact ⟨ho.trans (hs.chain.trans (hround.trans he.chain)), fun h => hf.trans h, fun _ => by rw [hb]; decide⟩

theorem sendItem_left (s : State) : EnumLeft s (sendItem s) := by
  unfold sendItem
  split
  · exact enumIdle_left s
  · split
    · exact enumIdle_left s
    · exact firstItemSent_left ..

/-! One plan (R590 - R593, R603). -/

theorem missingRecord_free (s : State) (v : Vcn) (e : VcnEntry) : (missingRecord s v e).2 = { s with freeCount := (missingRecord s v e).2.freeCount } := by
  unfold missingRecord
  dsimp only
  split <;> rfl

theorem parkVcns_results (s : State) (a : Byte) :
    parkVcns s a = { s with results := (parkVcns s a).results, freeCount := (parkVcns s a).freeCount } := by
  unfold parkVcns
  refine foldl_rel (R := fun t u : State => u = { t with results := u.results, freeCount := u.freeCount }) (fun _ => rfl) (fun h k => by rw [k, h])
    _ (fun t v => ?_) _ s
  dsimp only
  split
  · rfl
  · next e he =>
    have hm := missingRecord_free t v e
    generalize missingRecord t v e = x at hm
    unfold modEntry
    rw [hm]

theorem disposition_congr {s t : State} (hb : t.boot = s.boot) (hc : t.config = s.config) (p : Plan) : disposition t p = disposition s p := by
  have hs (b : Byte) : subBytes t b = subBytes s b := by
    unfold subBytes
    rw [hb, hc]
  unfold disposition compatible imagesMatch mereCrcFor
  rw [hs, hb]

/-- An ASSIGN waits on every used port that sends. -/
theorem sendAssign_waits {s : State} {q : Fin 2} (hq : q ∈ usedPorts s) (hs : sends s q = true) (uid : BitVec 64) (addr disp sub : Byte) :
    ∃ f ∈ (sendAssign s uid addr disp sub).course.ports[q].txq, f.type = 0x03 ∧ f.payload.take 8 = toLE 8 uid.toNat ∧ f.payload.getD 8 0 = addr := by
  obtain ⟨-, -, hw⟩ := originate_ports s (usedPorts s) 0x03 255 2 0 (assignPayload s uid addr disp sub)
  obtain ⟨f, hf, ht, -, hp, -⟩ := hw q hq hs
  refine ⟨f, hf, ht, ?_, ?_⟩
  · rw [hp]
    rfl
  · rw [hp]
    rfl

/-- What carrying out a plan leaves: the ASSIGN sent, and the pod unmapped, or in the table under its address. -/
structure PlanDone (s : State) (p : Plan) (t : State) : Prop where
  rest : t = { s with course := t.course, events := t.events, results := t.results, freeCount := t.freeCount }
  wanted : t.course.fullWanted = s.course.fullWanted
  ring : t.course.ringClosed = s.course.ringClosed
  sent : ∀ q ∈ usedPorts s, sends s q = true → ∃ f ∈ t.course.ports[q].txq, f.type = 0x03 ∧ f.payload.take 8 = toLE 8 p.id.uid.toNat ∧
    f.payload.getD 8 0 = p.addr
  parks : p.addr = 0 → p.id.uid ∈ t.course.unmapped ∧ (∀ n ∈ t.course.nodes, n.uid ≠ p.id.uid) ∧
    (p.id.uid ∉ s.course.unmapped → t.events.pending.getLsbD 30 = true)
  enters : p.addr ≠ 0 → ∃ n ∈ t.course.nodes, SameNode (planNode s p) n

theorem sendAssign_kept (s : State) (uid : BitVec 64) (addr disp sub : Byte) :
    (sendAssign s uid addr disp sub).course.fullWanted = s.course.fullWanted ∧ (sendAssign s uid addr disp sub).course.ringClosed = s.course.ringClosed := by
  have h := (originate_sendsOnly s (usedPorts s) 0x03 255 2 0 (assignPayload s uid addr disp sub)).rest
  exact ⟨congrArg (·.course.fullWanted) h, congrArg (·.course.ringClosed) h⟩

/-- A pod without an address is out of the table and among the unmapped. -/
def podUnmapped (s : State) (p : Plan) : State :=
  { s with course := { s.course with
    unmapped := if s.course.unmapped.contains p.id.uid then s.course.unmapped else s.course.unmapped ++ [p.id.uid]
    nodes := s.course.nodes.filter fun n => n.uid != p.id.uid } }

theorem applyPlan_unmapped {s : State} {p : Plan} (h : p.addr = 0) : applyPlan s p =
    sendAssign (if s.course.unmapped.contains p.id.uid then podUnmapped s p else raise (podUnmapped s p) 30 0) p.id.uid 0 2 0 := if_pos h

theorem applyPlan_parks {s : State} {p : Plan} (h : p.addr = 0) : PlanDone s p (applyPlan s p) := by
  rw [applyPlan_unmapped h]
  have hx : ChainGoes (podUnmapped s p) (if s.course.unmapped.contains p.id.uid then podUnmapped s p else raise (podUnmapped s p) 30 0) ∧
      (p.id.uid ∉ s.course.unmapped →
        (if s.course.unmapped.contains p.id.uid then podUnmapped s p else raise (podUnmapped s p) 30 0).events.pending.getLsbD 30 = true) ∧
      (if s.course.unmapped.contains p.id.uid then podUnmapped s p else raise (podUnmapped s p) 30 0).course = (podUnmapped s p).course := by
    split
    · next hc => exact ⟨.refl _, fun hn => absurd (List.contains_iff_mem.1 hc) hn, rfl⟩
    · exact ⟨raise_chain .., fun _ => raise_pending .., rfl⟩
  generalize (if s.course.unmapped.contains p.id.uid then podUnmapped s p else raise (podUnmapped s p) 30 0) = x at hx ⊢
  obtain ⟨hc, hp, hcourse⟩ := hx
  have ha := sendAssign_chain x p.id.uid 0 2 0
  obtain ⟨hw, hring⟩ := sendAssign_kept x p.id.uid 0 2 0
  have hall := hc.trans ha
  have hused : usedPorts x = usedPorts s := by
    rw [hc.rest]
    rfl
  have hsends (q : Fin 2) : sends x q = sends s q := by
    unfold sends
    rw [hcourse]
    rfl
  refine ⟨?_, hw.trans (by rw [hcourse]; rfl), hring.trans (by rw [hcourse]; rfl), fun q hq hs => ?_, fun _ => ⟨?_, hall.uids fun n hn => ?_,
    fun hn => ha.stays.stays 30 (hp hn)⟩, fun h0 => absurd h h0⟩
  · generalize sendAssign x p.id.uid 0 2 0 = t at hall
    rw [hall.rest]
    rfl
  · obtain ⟨f, hf, ht, hu, h8⟩ := sendAssign_waits (s := x) (by rw [hused]; exact hq) ((hsends q).trans hs) p.id.uid 0 2 0
    exact ⟨f, hf, ht, hu, h8.trans h.symm⟩
  · rw [hall.unmapped, podUnmapped]
    dsimp only
    split
    · next hc => exact List.contains_iff_mem.1 hc
    · exact List.mem_append_right _ List.mem_cons_self
  · have := (List.mem_filter.1 hn).2
    simpa using this

/-- A pod with an address is in the table under it. -/
def podEntered (s : State) (p : Plan) : State :=
  { s with course := { s.course with nodes := putNode (planNode s p) (s.course.nodes.filter fun m => m.uid != p.id.uid) } }

/-- The VCNs of a pod newly parked read MISSING, with EV30. -/
def podParked (s : State) (p : Plan) : State :=
  if disposition s p = 1 && !(s.course.nodes.any fun n => n.uid == p.id.uid && n.state == .parkedIncompatible) then
    raise (parkVcns (podEntered s p) p.addr) 30 0
  else podEntered s p

theorem applyPlan_entered {s : State} {p : Plan} (h : p.addr ≠ 0) :
    applyPlan s p = sendAssign (podParked s p) p.id.uid p.addr (disposition s p) p.sub := if_neg h

theorem podParked_results (s : State) (p : Plan) :
    podParked s p = { podEntered s p with events := (podParked s p).events, results := (podParked s p).results, freeCount := (podParked s p).freeCount } := by
  unfold podParked
  split
  · have hp := parkVcns_results (podEntered s p) p.addr
    generalize parkVcns _ p.addr = x at hp
    rw [hp]
    rfl
  · rfl

theorem applyPlan_enters {s : State} {p : Plan} (h : p.addr ≠ 0) : PlanDone s p (applyPlan s p) := by
  rw [applyPlan_entered h]
  have hx := podParked_results s p
  generalize podParked s p = x at hx
  have hcourse : x.course = (podEntered s p).course := by rw [hx]
  have ha := sendAssign_chain x p.id.uid p.addr (disposition s p) p.sub
  obtain ⟨hw, hring⟩ := sendAssign_kept x p.id.uid p.addr (disposition s p) p.sub
  have hused : usedPorts x = usedPorts s := by
    rw [hx]
    rfl
  have hsends (q : Fin 2) : sends x q = sends s q := by
    unfold sends
    rw [hcourse]
    rfl
  refine ⟨?_, hw.trans (by rw [hcourse]; rfl), hring.trans (by rw [hcourse]; rfl), fun q hq hs => ?_, fun h0 => absurd h0 h, fun _ => ?_⟩
  · generalize sendAssign x p.id.uid p.addr (disposition s p) p.sub = t at ha
    rw [ha.rest, hx]
    rfl
  · exact sendAssign_waits (by rw [hused]; exact hq) ((hsends q).trans hs) ..
  · exact ha.mem (n := planNode s p) (by rw [hcourse]; exact putNode_mem ..)

theorem applyPlan_done (s : State) (p : Plan) : PlanDone s p (applyPlan s p) := by
  by_cases h : p.addr = 0
  · exact applyPlan_parks h
  · exact applyPlan_enters h

/-- The record under a plan. -/
theorem planNode_spec (s : State) (p : Plan) : (planNode s p).addr = p.addr ∧ (planNode s p).uid = p.id.uid ∧ (planNode s p).sub = p.sub ∧
    (disposition s p = 1 → (planNode s p).state = .parkedIncompatible) ∧ (disposition s p = 3 → (planNode s p).state = .found) ∧
    (disposition s p = 0 → (planNode s p).state = .assigned ∨ ((planNode s p).state = .joined ∧ runsPhase p.id = true)) := by
  unfold planNode
  extract_lets old blank n n'
  have haddr : n'.addr = p.addr := by
    show (old.getD blank).addr = p.addr
    cases ho : old with
    | none =>
      show blank.addr = p.addr
      unfold blank
      split <;> rfl
    | some m =>
      have := List.find?_some ho
      simp only [Bool.and_eq_true, beq_iff_eq] at this
      exact this.2
  split
  · next hd => exact ⟨haddr, rfl, rfl, fun _ => rfl, fun h => absurd (hd.symm.trans (congrArg _ h)) (by decide), fun h => absurd (hd.symm.trans (congrArg _ h)) (by decide)⟩
  · next hd => exact ⟨haddr, rfl, rfl, fun h => absurd (hd.symm.trans (congrArg _ h)) (by decide), fun _ => rfl, fun h => absurd (hd.symm.trans (congrArg _ h)) (by decide)⟩
  · next h1 h3 =>
    refine ⟨haddr, rfl, rfl, fun h => absurd (congrArg BitVec.toNat h) h1, fun h => absurd (congrArg BitVec.toNat h) h3, fun _ => ?_⟩
    dsimp only
    split
    · next hj =>
      simp only [Bool.and_eq_true] at hj
      exact .inr ⟨rfl, hj.2⟩
    · exact .inl rfl

/-! ENUMERATION_COLLECT_END. -/

section
variable {s t : State} (hc : t.config = s.config)
include hc

theorem mapEntries_congr : mapEntries t = mapEntries s := by
  unfold mapEntries
  rw [sec_congr hc]

theorem uidEntry_congr : uidEntry t = uidEntry s := by
  funext i
  unfold uidEntry
  rw [mapEntries_congr hc]

theorem posEntry_congr : posEntry t = posEntry s := by
  funext i
  unfold posEntry
  rw [mapEntries_congr hc]

theorem cfgAdopt_congr : cfgAdopt t = cfgAdopt s := by
  unfold cfgAdopt
  rw [sec_congr hc]

theorem mayKeep_congr : mayKeep t = mayKeep s := by
  funext i
  unfold mayKeep
  rw [uidEntry_congr hc, posEntry_congr hc, cfgAdopt_congr hc]

theorem firm_congr : firm t = firm s := by
  funext i
  unfold firm
  rw [mayKeep_congr hc, posEntry_congr hc]

theorem planOther_congr (x : Taken) (i : Ident) : planOther t x i = planOther s x i := by
  unfold planOther freeAddress
  rw [firm_congr hc, posEntry_congr hc, cfgAdopt_congr hc, mapEntries_congr hc, sec_congr hc]

theorem planAll_congr (firm table used : List Byte) (l : List Ident) : planAll t firm table used l = planAll s firm table used l := by
  induction l generalizing used with
  | nil => rfl
  | cons i r ih =>
    unfold planAll
    dsimp only
    rw [uidEntry_congr hc, mayKeep_congr hc]
    split
    · rw [ih]
    · rw [planOther_congr hc, ih]

end

/-- The plans go by the configuration, the collection and the table. -/
theorem plans_judgeRing (s : State) : plans (judgeRing s) = plans s := by
  obtain ⟨ring, n, hj⟩ : ∃ ring n, judgeRing s = { s with course := { s.course with ringClosed := ring, n := n } } := by
    unfold judgeRing
    split
    · exact ⟨_, _, rfl⟩
    · exact ⟨s.course.ringClosed, s.course.n, rfl⟩
  have hc : (judgeRing s).config = s.config := by rw [hj]
  have hp : planAll (judgeRing s) = planAll s := by
    funext a b c d
    exact planAll_congr hc a b c d
  unfold plans
  rw [uidEntry_congr hc, firm_congr hc, hp, hj]

/-- The collection is over: the ring judged, the version set by the enumeration of the handover, the unmapped pods that stay so. -/
def collectionOver (s : State) : State :=
  let ps := plans s
  let s := judgeRing s
  let s := if s.course.enumFirst then lowerVersion s else s
  let stay := if s.course.enumFull then s.course.unmapped.filter fun u => ps.any fun p => p.id.uid == u && p.addr == 0
    else s.course.unmapped.filter fun u => !ps.any fun p => p.id.uid == u && p.addr != 0
  { s with course := { s.course with unmapped := stay, enumFirst := false, enumFull := false } }

/-- What follows the plans: the sides of a closed ring, and the boot items. -/
def collectionLeft (full : Bool) (s : State) : State :=
  let s := if full && s.course.ringClosed then ringSides s else s
  sendItem { s with course := { s.course with found := [], bootItems := bootList s, bootItem := 0 } }

theorem collectEnd_due {s : State} (hr : s.role = .head) (hrun : isRunning s = true) (he : s.course.enum = .collecting)
    (hc : s.course.newIdClk + 5000 ≤ s.clk ∨ s.course.collectClk + 100000 ≤ s.clk) :
    exec .enumerationCollectEnd s = .next (collectionLeft (if s.course.enumFirst then lowerVersion (judgeRing s) else judgeRing s).course.enumFull
      ((plans s).foldl applyPlan (collectionOver s))) := by
  have hcol : collected s = true := by
    unfold collected
    rcases hc with h | h
    · rw [decide_eq_true h]
      rfl
    · rw [decide_eq_true h]
      exact Bool.or_true _
  have hfirst : (judgeRing s).course.enumFirst = s.course.enumFirst := by
    unfold judgeRing
    split <;> rfl
  show execEnumerationCollectEnd s = _
  unfold execEnumerationCollectEnd
  refine (if_neg (by simp [hr, hrun, he, hcol])).trans ?_
  dsimp only
  rw [plans_judgeRing, ← hfirst]
  rfl

theorem collectEnd_not {s : State} (h : s.course.enum ≠ .collecting ∨ (s.clk < s.course.newIdClk + 5000 ∧ s.clk < s.course.collectClk + 100000)) :
    exec .enumerationCollectEnd s = .next s := by
  show execEnumerationCollectEnd s = _
  unfold execEnumerationCollectEnd
  refine if_pos ?_
  rcases h with h | ⟨h1, h2⟩
  · simp [h]
  · simp [collected, h1, h2]

/-- Before the plans the table, the ports and the wish for a FULL enumeration stand as they did. -/
structure CollectionOver (s t : State) : Prop where
  rest : t = { s with course := t.course, events := t.events }
  ports : t.course.ports = s.course.ports
  wanted : t.course.fullWanted = s.course.fullWanted
  unmapped : ∀ u ∈ t.course.unmapped, u ∈ s.course.unmapped

theorem collectionOver_spec (s : State) : CollectionOver s (collectionOver s) := by
  have hj : ∃ ring n, judgeRing s = { s with course := { s.course with ringClosed := ring, n := n } } := by
    unfold judgeRing
    split
    · exact ⟨_, _, rfl⟩
    · exact ⟨s.course.ringClosed, s.course.n, rfl⟩
  have hl : ∀ u : State, lowerVersion u = { u with events := (lowerVersion u).events, course := { u.course with version := (lowerVersion u).course.version } } :=
    fun u => by
      unfold lowerVersion
      split
      · dsimp only
        split <;> rfl
      · rfl
  obtain ⟨ring, n, hj⟩ := hj
  have hv : ∃ e v, (if (judgeRing s).course.enumFirst then lowerVersion (judgeRing s) else judgeRing s) =
      { s with events := e, course := { s.course with ringClosed := ring, n := n, version := v } } := by
    rw [hj]
    split
    · exact ⟨_, _, hl _⟩
    · exact ⟨s.events, s.course.version, rfl⟩
  obtain ⟨e, v, hv⟩ := hv
  unfold collectionOver
  dsimp only
  rw [hv]
  refine ⟨rfl, rfl, rfl, fun u hu => ?_⟩
  dsimp only at hu
  split at hu
  · exact (List.mem_filter.1 hu).1
  · exact (List.mem_filter.1 hu).1

theorem collectionLeft_spec (full : Bool) (s : State) : ChainGoes s (collectionLeft full s) ∧ (collectionLeft full s).course.found = [] ∧
    (s.course.fullWanted = false → (collectionLeft full s).course.enum ≠ .collecting) := by
  have hring : ChainGoes s (if full && s.course.ringClosed then ringSides s else s) ∧
      (if full && s.course.ringClosed then ringSides s else s).course.fullWanted = s.course.fullWanted := by
    split
    · exact ⟨ringSides_chain s, rfl⟩
    · exact ⟨.refl s, rfl⟩
  unfold collectionLeft
  dsimp only
  generalize (if full && s.course.ringClosed then ringSides s else s) = u at hring
  obtain ⟨hc, hw⟩ := hring
  obtain ⟨hchain, hfound, hidle⟩ := sendItem_left { u with course := { u.course with found := [], bootItems := bootList u, bootItem := 0 } }
  exact ⟨hc.trans (.trans (t := { u with course := { u.course with found := [], bootItems := bootList u, bootItem := 0 } }) (.of_table rfl rfl rfl) hchain), hfound rfl, fun h => hidle (hw.trans h)⟩

/-- The end of a collection with one plan. -/
theorem collectEnd_onePlan {s : State} {p : Plan} (hr : s.role = .head) (hrun : isRunning s = true) (he : s.course.enum = .collecting) (hp : plans s = [p])
    (hc : s.course.newIdClk + 5000 ≤ s.clk ∨ s.course.collectClk + 100000 ≤ s.clk) :
    ∃ t, exec .enumerationCollectEnd s = .next t ∧
      t = { s with course := t.course, events := t.events, results := t.results, freeCount := t.freeCount } ∧
      (s.course.fullWanted = false → t.course.enum ≠ .collecting) ∧ t.course.found = [] ∧
      (∀ q ∈ usedPorts s, sends s q = true → ∃ f ∈ t.course.ports[q].txq, f.type = 0x03 ∧ f.payload.take 8 = toLE 8 p.id.uid.toNat ∧
        f.payload.getD 8 0 = p.addr) ∧
      (p.addr = 0 → p.id.uid ∈ t.course.unmapped ∧ (∀ n ∈ t.course.nodes, n.uid ≠ p.id.uid) ∧
        (p.id.uid ∉ s.course.unmapped → t.events.pending.getLsbD 30 = true)) ∧
      (p.addr ≠ 0 → ∃ n ∈ t.course.nodes, n.addr = p.addr ∧ n.uid = p.id.uid ∧ n.sub = p.sub ∧
        (disposition s p = 1 → n.state = .parkedIncompatible) ∧ (disposition s p = 3 → n.state = .found) ∧
        (disposition s p = 0 → n.state = .assigned ∨ (n.state = .joined ∧ runsPhase p.id = true))) := by
  have hx := collectEnd_due hr hrun he hc
  have ho := collectionOver_spec s
  rw [hp] at hx
  dsimp only [List.foldl] at hx
  generalize collectionOver s = o at ho hx
  have hd : disposition o p = disposition s p := disposition_congr (by rw [ho.rest]) (by rw [ho.rest]) p
  have hused : usedPorts o = usedPorts s := by
    rw [ho.rest]
    rfl
  have hsends (q : Fin 2) : sends o q = sends s q := by
    unfold sends
    rw [ho.ports]
  have hdone := applyPlan_done o p
  obtain ⟨haddr, huid, hsub, h1, h3, h0⟩ := planNode_spec o p
  rw [hd] at h1 h3 h0
  generalize applyPlan o p = d at hdone hx
  generalize (if s.course.enumFirst then lowerVersion (judgeRing s) else judgeRing s).course.enumFull = full at hx
  obtain ⟨hchain, hfound, hidle⟩ := collectionLeft_spec full d
  generalize collectionLeft full d = t at hchain hfound hidle hx
  refine ⟨t, hx, ?_, fun h => hidle (hdone.wanted.trans (ho.wanted.trans h)), hfound, fun q hq hs => ?_, fun hz => ?_, fun hz => ?_⟩
  · rw [hchain.rest, hdone.rest, ho.rest]
  · obtain ⟨f, hf, hrest⟩ := hdone.sent q (by rw [hused]; exact hq) ((hsends q).trans hs)
    exact ⟨f, hchain.queues q f hf, hrest⟩
  · obtain ⟨hin, hout, hev⟩ := hdone.parks hz
    exact ⟨by rw [hchain.unmapped]; exact hin, hchain.uids hout, fun hn => hchain.stays.stays 30 (hev fun h => hn (ho.unmapped _ h))⟩
  · obtain ⟨n, hn, hsame⟩ := hdone.enters hz
    obtain ⟨m, hm, hsame'⟩ := hchain.mem hn
    obtain ⟨ha, hu, hb, hst⟩ := hsame.trans hsame'
    exact ⟨m, hm, ha.trans haddr, hu.trans huid, hb.trans hsub, fun h => hst.trans (h1 h), fun h => hst.trans (h3 h), fun h => by rw [hst]; exact h0 h⟩

/-- Settles O45: the collection by what is noted, the table by the record a plan or an IDENTITY puts, the ring by its own frame. -/
theorem headEnumerates : Obligations.HeadEnumerates := by
  unfold Obligations.HeadEnumerates
  refine ⟨fun s hr hrun he hp hc => ?discover, fun s h => discoverTimer_not h, fun s r h => ⟨identity_collected h, identity_unknown h, fun n h0 hn he =>
    ⟨identity_confirms h he h0 hn, fun hst hi hu => identity_lost h h0 hn hst hi hu⟩⟩, fun s p hr hrun he hp hc => collectEnd_onePlan hr hrun he hp hc,
    fun s h => collectEnd_not h, fun s a n hr hrun hn => ⟨fun h => ?early, fun h h3 => ?again, fun h h3 => ?absent⟩, fun s a h => assignRetry_none h,
    fun s r hr hrun hsrc => ⟨fun hring hport hbit huid hw hc hf hs => ?closes, fun hno hw hc hf ht => ?other, fun he ha hd => discoverReturn_bad hr hrun hsrc he ha hd⟩⟩
  case discover =>
    obtain ⟨hw, ho, -⟩ := sendDiscover_waits (collectionBegun s) false (litPorts s)
    have hsent := sendDiscover_sent (collectionBegun s) false (litPorts s)
    have hpay (p : Fin 2) : discoverPayload (lowerVersion (collectionBegun s)) false p = discoverPayload (lowerVersion s) false p := by
      refine discoverPayload_congr ?_ ?_ ?_ false p
      · rw [(lowerVersion_sent (collectionBegun s)).only, (lowerVersion_sent s).only]
        rfl
      · rw [(lowerVersion_sent (collectionBegun s)).only, (lowerVersion_sent s).only]
        rfl
      · rw [lowerVersion_version, lowerVersion_version]
        rfl
    refine ⟨_, discoverTimer_due hr hrun he hp hc, hsent.only.after_course rfl, hsent.enum, hsent.full, sendDiscover_found .., hsent.only.nodes,
      fun p => ⟨fun hu hl hs => ?_, fun h => ho p fun hm => ?_⟩⟩
    · rw [← hpay]
      exact hw p (List.mem_filter.2 ⟨hu, by rw [hl]; rfl⟩) hs
    · obtain ⟨hu, hl⟩ := List.mem_filter.1 hm
      rcases h with h | h
      · exact h hu
      · rw [h] at hl
        cases hl
  case early => rw [assignRetry_found hr hrun hn, if_pos h]
  case again => rw [assignRetry_found hr hrun hn, if_neg (by omega), if_pos h3]
  case absent => rw [assignRetry_found hr hrun hn, if_neg (by omega), if_neg (by omega)]
  case closes =>
    unfold sends at hs
    rw [← hport, Bool.and_eq_true, Bool.not_eq_true'] at hs
    have hown : ownReturn s r = true := by
      rw [ownReturn, hring, hport, hbit, huid, beq_self_eq_true, beq_self_eq_true]
      rfl
    have hx := discoverReturn_good hr hrun hsrc hw hc hf hs.2
    rw [if_pos ⟨hs.1, hown⟩] at hx
    refine ⟨_, hx, ?_, fun h => ?_, fun h => ?_⟩
    · split <;> rfl
    · rw [if_pos h]
    · rw [if_neg (by rw [h]; decide)]
      exact List.map_congr_left fun n _ => onRingSide_eq n
  case other =>
    have hown : ownReturn s r = false := by
      unfold ownReturn
      rcases hno with h | h | h | h
      · rw [h]
        rfl
      · rw [h]
        simp
      · rw [h]
        simp
      · rw [beq_eq_false_iff_ne.2 h]
        exact Bool.and_false _
    rw [discoverReturn_good hr hrun hsrc hw hc hf ht, hown, if_neg (fun h => absurd h.2 (by decide))]

end Sys2Proof.Machine

namespace Sys2Proof.Machine

/-! The timebase's events (O42). -/

theorem completeChange_pending {s : State} (h : s.time.changing = true) : (completeChange s).events.pending.getLsbD 16 = true := by
  rw [completeChange, if_pos h]
  exact raise_pending _ 16 0

theorem completeChange_idle {s : State} (h : s.time.changing = false) : completeChange s = s := by
  rw [completeChange, if_neg (by rw [h]; decide)]

theorem slewComplete_small {s : State} {r : Int} (h : s.time.slew = some r) (hr : r.natAbs ≤ usUnits) :
    exec .slewComplete s = .next (completeChange (withSlew s none)) := by
  show execSlewComplete s = _
  rw [execSlewComplete, h]
  exact congrArg Host.Outcome.next (if_pos hr)

theorem slewComplete_large {s : State} {r : Int} (h : s.time.slew = some r) (hr : usUnits < r.natAbs) : exec .slewComplete s = .next s := by
  show execSlewComplete s = _
  rw [execSlewComplete, h]
  exact congrArg Host.Outcome.next (if_neg (Nat.not_le.2 hr))

theorem slewComplete_none {s : State} (h : s.time.slew = none) : exec .slewComplete s = .next s := by
  show execSlewComplete s = _
  rw [execSlewComplete, h]

/-- The last slew within 1 microsecond: its end completes a change of source. -/
theorem slewEnded_spec (s : State) : ∃ t, completeChange (withSlew s none) = t ∧
    t = { s with time := { s.time with slew := none, changing := false }, events := t.events } ∧
      (s.time.changing = true → t.events.pending.getLsbD 16 = true) ∧ (s.time.changing = false → t.events = s.events) := by
  refine ⟨_, rfl, ?_, fun h => completeChange_pending h, fun h => ?_⟩
  · rw [completeChange_rest]
    rfl
  · rw [completeChange_idle (s := withSlew s none) h]
    rfl

/-- Whether holdover's next correction is due. -/
def correctionDue (s : State) : Bool := (s.time.polyClk.map fun c => decide (c + 8000 ≤ s.clk)).getD true

theorem execHoldoverCorrection_eq (s : State) : exec .holdoverCorrection s =
    if (isRunning s && s.time.state == .holdover && correctionDue s) = true then
      .next { s with time := { s.time with poly := polyCorrection s, polyClk := some s.clk } } else .next s := rfl

theorem correctionDue_of_waited {s : State} (h : ∀ c, s.time.polyClk = some c → c + 8000 ≤ s.clk) : correctionDue s = true := by
  unfold correctionDue
  cases hc : s.time.polyClk with
  | none => rfl
  | some c => exact decide_eq_true (h c hc)

theorem correctionDue_of_early {s : State} {c : Nat} (h : s.time.polyClk = some c) (hc : s.clk < c + 8000) : correctionDue s = false := by
  unfold correctionDue
  rw [h]
  exact decide_eq_false (Nat.not_le.2 hc)

theorem execHoldoverCorrection_not {s : State} (h : s.time.state ≠ .holdover ∨ ∃ c, s.time.polyClk = some c ∧ s.clk < c + 8000) :
    exec .holdoverCorrection s = .next s := by
  rw [execHoldoverCorrection_eq]
  refine if_neg ?_
  rcases h with h | ⟨c, hc, hlt⟩
  · simp [h]
  · simp [correctionDue_of_early hc hlt]

theorem execRtcclkStop_declared {s : State} (h : s.time.xtal = true) : exec .rtcclkStop s =
    .next (if s.time.sysclk = true then { s with time := { s.time with xtalStopped := true } }
      else plumbStop { s with time := { s.time with xtalStopped := true } }) := by
  show execRtcclkStop s = _
  rw [execRtcclkStop, if_neg (by rw [h]; decide)]

/-- SYSCLK no longer runs. -/
def sysclkLost (s : State) : State :=
  if (s.time.xtal && !s.time.xtalStopped) = true then { s with time := { s.time with sysclk := false } }
  else plumbStop { s with time := { s.time with sysclk := false } }

theorem execSysclkStop_lost {s : State} (hv : s.supply.vdd = true) (hs : s.time.sysclk = true) : exec .sysclkStop s =
    .next (if isRunning s = true then declareOpen (sysclkLost s) (if s.time.xtal = true then 0x04 else 0x07) false else sysclkLost s) := by
  have ht : (sysclkLost s).time.xtal = s.time.xtal ∧ isRunning (sysclkLost s) = isRunning s := by
    unfold sysclkLost
    split <;> exact ⟨rfl, rfl⟩
  show execSysclkStop s = _
  rw [execSysclkStop, if_neg (by simp [hv, hs]), ← ht.1, ← ht.2]
  rfl

/-- Losing SYSCLK changes Plumb alone; Plumb counts on only with a declared crystal that runs. -/
theorem sysclkLost_spec (s : State) : sysclkLost s = { s with time := (sysclkLost s).time } ∧
    (s.time.xtal = true → s.time.xtalStopped = false → (sysclkLost s).time = { s.time with sysclk := false }) ∧
    (s.time.xtal = false ∨ s.time.xtalStopped = true → (sysclkLost s).time.sysclk = false ∧ (sysclkLost s).time.counting = false ∧
      (sysclkLost s).time.valid = false ∧ (sysclkLost s).time.state = .free ∧ (sysclkLost s).time.count = s.time.count) := by
  unfold sysclkLost
  split
  next h =>
    refine ⟨rfl, fun _ _ => rfl, fun hn => ?_⟩
    rcases hn with hn | hn <;> simp [hn] at h
  next h => exact ⟨rfl, fun hx hr => absurd (by simp [hx, hr]) h, fun _ => ⟨rfl, rfl, rfl, rfl, rfl⟩⟩

theorem sysclkStop_spec {s : State} (hv : s.supply.vdd = true) (hs : s.time.sysclk = true) (h4 : (cfgSafeMask s).getLsbD 4 = false)
    (h7 : (cfgSafeMask s).getLsbD 7 = false) : ∃ t, exec .sysclkStop s = .next t ∧
      t = { s with freeCount := t.freeCount, time := t.time, ks := t.ks, events := t.events, log := t.log } ∧ t.time = (sysclkLost s).time ∧
      (isRunning s = true → faultActive t (if s.time.xtal = true then 0x04 else 0x07) = true) ∧ (isRunning s = false → t.ks = s.ks) := by
  obtain ⟨hl, -, -⟩ := sysclkLost_spec s
  have hm : (cfgSafeMask (sysclkLost s)).getLsbD (if s.time.xtal = true then (0x04 : Fin 28) else 0x07).val = false := by
    rw [show cfgSafeMask (sysclkLost s) = cfgSafeMask s by rw [hl]; rfl]
    split
    · exact h4
    · exact h7
  rw [execSysclkStop_lost hv hs]
  generalize sysclkLost s = u at hl hm
  cases hr : isRunning s with
  | true =>
    have hd := (declareOpen_added hm false).only
    refine ⟨_, rfl, ?_, ?_, fun _ => declareOpen_active .., nofun⟩
    · rw [if_pos rfl]
      generalize declareOpen u _ false = t at hd
      rw [hd, hl]
    · rw [if_pos rfl, hd]
  | false =>
    refine ⟨_, rfl, ?_, rfl, nofun, fun _ => ?_⟩
    · rw [if_neg (by decide), hl]
    · rw [if_neg (by decide), hl]

/-- Plumb has stepped, and the pulse would come within 500 ms of the one before (R543). -/
def pulseLeftOut (s : State) : Bool := s.time.ppsStepped && match s.time.ppsOutClk with
  | some c => decide (s.clk < c + 500000)
  | none => false

theorem execPpsOutPulse_eq (s : State) : exec .ppsOutPulse s =
    if (!isRunning s || !cfgPpsOut s || s.time.state == .free || !onCount s 1000000 || pulseLeftOut s) = true then .next s
    else .next { s with time := { s.time with ppsOut := true, ppsOutClk := some s.clk, ppsStepped := false } } := rfl

theorem pulseLeftOut_of_waited {s : State} (h : s.time.ppsStepped = false ∨ ∀ c, s.time.ppsOutClk = some c → c + 500000 ≤ s.clk) :
    pulseLeftOut s = false := by
  unfold pulseLeftOut
  rcases h with h | h
  · rw [h, Bool.false_and]
  · cases hc : s.time.ppsOutClk with
    | none => exact Bool.and_false _
    | some c => exact (congrArg (s.time.ppsStepped && ·) (decide_eq_false (Nat.not_lt.2 (h c hc)))).trans (Bool.and_false _)

theorem pulseLeftOut_of_stepped {s : State} {c : Nat} (hs : s.time.ppsStepped = true) (hc : s.time.ppsOutClk = some c)
    (hl : s.clk < c + 500000) : pulseLeftOut s = true := by
  unfold pulseLeftOut
  rw [hs, hc]
  exact decide_eq_true hl

theorem execPpsOutPulse_not {s : State} (h : cfgPpsOut s = false ∨ s.time.state = .free ∨ onCount s 1000000 = false ∨ pulseLeftOut s = true) :
    exec .ppsOutPulse s = .next s := by
  rw [execPpsOutPulse_eq]
  refine if_pos ?_
  rcases h with h | h | h | h <;> simp [h]

/-- Whether PPS_OUT has been high for its width (R542). -/
def pulseOver (s : State) : Bool := (s.time.ppsOutClk.map fun c => decide (c + cfgPpsWidth s ≤ s.clk)).getD true

theorem execPpsOutFall_eq (s : State) : exec .ppsOutFall s = .next (if pulseOver s = true then { s with time := { s.time with ppsOut := false } } else s) := rfl

theorem pulseOver_of_waited {s : State} (h : ∀ c, s.time.ppsOutClk = some c → c + cfgPpsWidth s ≤ s.clk) : pulseOver s = true := by
  unfold pulseOver
  cases hc : s.time.ppsOutClk with
  | none => rfl
  | some c => exact decide_eq_true (h c hc)

theorem pulseOver_of_early {s : State} {c : Nat} (hc : s.time.ppsOutClk = some c) (h : s.clk < c + cfgPpsWidth s) : pulseOver s = false := by
  unfold pulseOver
  rw [hc]
  exact decide_eq_false (Nat.not_le.2 h)

/-- Settles O42, event by event from their equations. -/
theorem timebaseEvents : Obligations.TimebaseEvents := by
  unfold Obligations.TimebaseEvents
  refine ⟨fun s r h => ⟨fun hr => ?_, slewComplete_large h⟩, fun s => slewComplete_none, fun s hr hs hd => ?_, fun s => execHoldoverCorrection_not,
    fun s hc hn => ?_, fun s hn => ?_, fun s hx hs => ?_, fun s hx hs => ?_, fun s hx => ?_, fun s hv hs h4 h7 => ?_,
    fun s hr hc hf ho => ⟨fun hw => ?_, fun c hst hcl hlt => ?_⟩, fun s h => ?_, fun s h => ?_, fun s c hc h => ?_⟩
  · rw [slewComplete_small h hr]
    obtain ⟨t, rfl, hs⟩ := slewEnded_spec s
    exact ⟨_, rfl, hs⟩
  · rw [execHoldoverCorrection_eq, if_pos (by simp [hr, hs, correctionDue_of_waited hd])]
  · show execPlumbWrap s = _
    rw [execPlumbWrap, if_pos (by simp [hc, hn])]
  · show execPlumbWrap s = _
    exact if_neg fun h => hn (beq_iff_eq.1 (Bool.and_eq_true _ _ ▸ h).2)
  · rw [execRtcclkStop_declared hx, if_neg (by rw [hs]; decide)]
    exact ⟨_, rfl, rfl, rfl, rfl, rfl, rfl, rfl, rfl, rfl⟩
  · rw [execRtcclkStop_declared hx, if_pos hs]
  · show execRtcclkStop s = _
    rw [execRtcclkStop, if_pos (by rw [hx]; rfl)]
  · obtain ⟨t, ht, ho, he, hf, hk⟩ := sysclkStop_spec hv hs h4 h7
    obtain ⟨-, hx, hn⟩ := sysclkLost_spec s
    refine ⟨t, ht, ho, ?_, ?_, hf, hk⟩
    · rw [he]; exact hx
    · rw [he]; exact hn
  · rw [execPpsOutPulse_eq, if_neg (by simp [hr, hc, hf, ho, pulseLeftOut_of_waited hw])]
  · exact execPpsOutPulse_not (.inr (.inr (.inr (pulseLeftOut_of_stepped hst hcl hlt))))
  · exact execPpsOutPulse_not (by tauto)
  · rw [execPpsOutFall_eq, if_pos (pulseOver_of_waited h)]
  · rw [execPpsOutFall_eq, if_neg (by rw [pulseOver_of_early hc h]; decide)]

end Sys2Proof.Machine

namespace Sys2Proof.Machine

/-! What slots found past due, and the exit from SAFE that they may bring, leave of Plumb and of the pending events (R138, R547 - R552): the frames'
anchor alone starts anew. -/

/-- From `s` to `t` Plumb keeps all but the anchor of the frames, and no pending event is lost. -/
structure TimeGoes (s t : State) : Prop where
  time : t.time = { s.time with anchor := t.time.anchor }
  stays : PendingStays s t

theorem TimeGoes.refl (s : State) : TimeGoes s s := ⟨rfl, ⟨fun _ h => h⟩⟩

theorem TimeGoes.trans {s t u : State} (h : TimeGoes s t) (k : TimeGoes t u) : TimeGoes s u where
  time := by
    have k := k.time
    rw [k, h.time]
  stays := h.stays.trans k.stays

theorem TimeGoes.then {s t : State} (h : TimeGoes s t) {f : State → State} (k : ∀ x, TimeGoes x (f x)) : TimeGoes s (f t) := h.trans (k t)

theorem TimeGoes.of_stays {s t : State} (ht : t.time = s.time) (h : PendingStays s t) : TimeGoes s t := ⟨by rw [ht], h⟩

theorem TimeGoes.of_events {s t : State} (ht : t.time = s.time) (he : t.events = s.events) : TimeGoes s t :=
  .of_stays ht ⟨fun _ h => by rw [he]; exact h⟩

theorem logGeneral_goes (s : State) (kind node : Byte) (code arg : Nat) (data : List Byte) : TimeGoes s (logGeneral s kind node code arg data) :=
  .of_stays (congrArg Quiet.time (logGeneral_log (.refl s) kind node code arg data).quiet) (logGeneral_stays ⟨fun _ h => h⟩ ..)

theorem raise_goes (s : State) (ev : Fin 32) (arg : Nat) : TimeGoes s (raise s ev arg) := .of_stays rfl (raise_stays ⟨fun _ h => h⟩ ev arg)

theorem modSlot_goes (s : State) (k : Fin 128) (f : Slot → Slot) : TimeGoes s (modSlot s k f) := .of_events rfl rfl

theorem skipSlot_goes (s : State) (k : Fin 128) : TimeGoes s (skipSlot s k) :=
  .trans (t := modSlot s k fun x => { x with skipped := sat16 x.skipped }) (modSlot_goes ..) (raise_goes _ 19 k.val)

theorem expireSlot_goes (s : State) (k : Fin 128) : TimeGoes s (expireSlot s k) := by
  unfold expireSlot
  exact ((logGeneral_goes s ..).trans (modSlot_goes ..)).trans (raise_goes ..)

theorem enterSafe_goes (s : State) (cause : Nat) : TimeGoes s (enterSafe s cause) :=
  .of_stays (by rw [(enterSafe_changes s cause).1]) (enterSafe_stays ⟨fun _ h => h⟩ cause)

theorem completeMode_goes (s : State) (m : Mode) (cause : Nat) : TimeGoes s (completeMode s m cause) :=
  .of_stays (by rw [(completeMode_safe s m cause).1]) (completeMode_stays ⟨fun _ h => h⟩ m cause)

theorem ungateMere_time (s : State) : (ungateMere s).time = s.time := by
  unfold ungateMere startClasses clearClasses
  split
  · refine foldl_keeps State.time _ (fun x c => ?_) _ _
    split <;> rfl
  · rfl

theorem railBegin_time (s : State) : (railBegin s).time = s.time := by
  unfold railBegin
  extract_lets _ _ u
  have hc : (clearFault u 0x14).time = u.time := by rw [show clearFault u 0x14 = _ from clearFault_clear u 0x14]
  split
  · split
    · exact hc
    · rfl
  · rfl

theorem railFollow_time (s : State) : (railFollow s).time = s.time := by
  unfold railFollow
  split
  · exact railBegin_time _
  · rfl

theorem startRule_time (logged : Bool) (s : State) (k : Fin 256) : (startRule logged s k).time = s.time := by
  have hs : (startStance s k).time = s.time := by
    unfold startStance
    dsimp only
    split <;> rfl
  have hc (x : State) : (chainChanged x).time = x.time := congrArg Quiet.time (chainChanged_quiet x)
  unfold startRule
  extract_lets old t new u
  have hu : u.time = s.time := (congrArg Quiet.time (logAlarm_log (.refl t) ..).quiet).trans hs
  split
  · exact hs
  · split
    · exact (hc u).trans hu
    · exact hu

theorem startRules_time (s : State) (logged : Bool) : (startRules s logged).time = s.time :=
  (congrArg Quiet.time (refreshOutputs_quiet _)).trans (foldl_keeps State.time _ (startRule_time logged) _ s)

/-- The exit from SAFE. -/
theorem leaveSafe_goes (s : State) (m : Mode) : TimeGoes s (leaveSafe s m) := by
  have hr (x : State) : TimeGoes x (startRules x true) := .of_stays (startRules_time x true) (startRules_page x true).stays
  have hm (x : State) : TimeGoes x (ungateMere x) := .of_stays (ungateMere_time x) (ungateMere_page x).stays
  have hf (x : State) : TimeGoes x (railFollow x) := .of_stays (railFollow_time x) (railFollow_page x).stays
  have ho (x : State) : TimeGoes x (refreshOutputs x) := .of_stays (congrArg Quiet.time (refreshOutputs_quiet x)) (refreshOutputs_page x).stays
  have ha (x : State) : TimeGoes x (aoutsChanged x) := .of_stays (by rw [(aoutsChanged_outputs x).1]) (aoutsChanged_page x).stays
  unfold leaveSafe
  extract_lets _ _ _ left done warm ruled mere
  have hl : TimeGoes s left := ⟨rfl, ⟨fun _ h => h⟩⟩
  have hw : TimeGoes s warm := (hl.trans (completeMode_goes left m 0)).trans (.of_events rfl rfl)
  have hu : TimeGoes s mere := by
    unfold mere
    split
    · exact (hw.then hr).then hm
    · exact hw.then hr
  exact ((hu.then hf).then ho).then ha

/-! The slots of Sluice. -/

theorem slotMode_goes {s u : State} {k : Fin 128} {m : Mode} {st : Byte} (h : slotMode leaveSafe s k m = some (st, u)) : TimeGoes s u := by
  unfold slotMode at h
  dsimp only at h
  split at h
  · exact nomatch h
  split at h
  · obtain ⟨-, rfl⟩ := Prod.mk.inj (Option.some.inj h)
    split
    · exact .of_events rfl rfl
    · exact enterSafe_goes ..
  split at h
  · split at h
    · obtain ⟨-, rfl⟩ := Prod.mk.inj (Option.some.inj h)
      refine .trans ?_ (leaveSafe_goes ..)
      exact .of_events rfl rfl
    · obtain ⟨-, rfl⟩ := Prod.mk.inj (Option.some.inj h)
      exact .of_events rfl rfl
  split at h
  · obtain ⟨-, rfl⟩ := Prod.mk.inj (Option.some.inj h)
    exact .of_events rfl rfl
  · obtain ⟨-, rfl⟩ := Prod.mk.inj (Option.some.inj h)
    exact .of_events rfl rfl

theorem calVerify_goes (s : State) (v : Vcn) (c : Byte) (late : Bool) :
    TimeGoes s (if c = stOk then (stOk, calStart s .verify v 0 late) else (c, s)).2 := by
  split
  · exact .of_events rfl rfl
  · exact .refl s

theorem slotEffect_goes {s u : State} {k : Fin 128} {x : Slot} {late : Bool} {st : Byte} (h : slotEffect leaveSafe s k x late = some (st, u)) :
    TimeGoes s u := by
  unfold slotEffect at h
  split at h
  · exact slotMode_goes h
  · obtain ⟨-, rfl⟩ := Prod.mk.inj (Option.some.inj h)
    exact foldl_rel TimeGoes .refl .trans restartProfile (fun _ _ => .of_events rfl rfl) _ s
  · obtain ⟨-, rfl⟩ := Prod.mk.inj (Option.some.inj h)
    exact foldl_rel TimeGoes .refl .trans (startSweep late) (fun _ _ => .of_events rfl rfl) _ s
  · have hv := calVerify_goes s (BitVec.ofNat 16 (slotArg x)) (calRefusal s .verify (BitVec.ofNat 16 (slotArg x)) false 0) late
    rw [Option.some.inj h] at hv
    exact hv
  · obtain ⟨-, rfl⟩ := Prod.mk.inj (Option.some.inj h)
    exact logGeneral_goes ..

theorem startSlot_goes (s : State) (k : Fin 128) (force : Bool) : TimeGoes s (startSlot leaveSafe s k force) := by
  unfold startSlot
  extract_lets x now
  split
  · exact .refl s
  · extract_lets late
    split
    · exact (skipSlot_goes s k).trans (modSlot_goes ..)
    next st u he =>
      extract_lets v
      have hv : TimeGoes s v := (slotEffect_goes he).trans (modSlot_goes ..)
      split
      · exact hv.trans (raise_goes ..)
      · exact hv

theorem slotDue_goes (s : State) (k : Fin 128) (force : Bool) : TimeGoes s (slotDue leaveSafe s k force) := by
  unfold slotDue
  dsimp only
  split
  · exact .refl s
  · split
    · exact modSlot_goes ..
    · exact startSlot_goes ..

theorem pastDue_goes (s : State) (k : Fin 128) : TimeGoes s (pastDue leaveSafe s k) := by
  unfold pastDue
  dsimp only
  split
  · exact .refl s
  · split
    · exact .refl s
    · split
      · exact slotDue_goes ..
      · exact expireSlot_goes ..

theorem pastDueAll_goes (s : State) : TimeGoes s (pastDueAll leaveSafe s) := foldl_rel TimeGoes .refl .trans _ pastDue_goes _ s

theorem sluiceStep_goes (s : State) (old : Nat) : TimeGoes s (sluiceStep leaveSafe s old) := by
  unfold sluiceStep
  extract_lets now f u
  have hu : TimeGoes s u := .of_events rfl rfl
  split
  · exact hu.then pastDueAll_goes
  · exact hu

/-- TIMEVALID is set. -/
def validated (s : State) : State := { s with time := { s.time with valid := true } }

theorem setValid_goes (s : State) : TimeGoes (validated s) (setValid s) := by
  unfold setValid
  split
  next h =>
    refine .of_events ?_ rfl
    show s.time = { s.time with valid := true }
    rw [← h]
  · exact pastDueAll_goes _

/-! Plumb's steps. -/

/-- Plumb's phase has moved and shows it; nothing has followed yet. -/
def phaseMoved (s : State) (u : Nat) : State := noteStep (putUnits s u)

theorem dropFrames_goes (s : State) : TimeGoes s (dropFrames s) := by
  have h := foldl_rel SkipsOnly (fun _ => rfl) .trans (fun s v => startVcn (skipVcn s v) v) (fun s v => skipStart_skips s v v)
    ((s.results.map (·.1)).filter fun v => vcnNode v == (ownNode s).toNat && channelOn s (vcnIndex v)) s
  unfold SkipsOnly at h
  unfold dropFrames
  extract_lets own t
  have ht : t = _ := h
  exact .of_events (show t.time = s.time by rw [ht]) (show t.events = s.events by rw [ht])

theorem stepForward_goes (s : State) (o n : Nat) : TimeGoes s (stepForward s o n) := by
  unfold stepForward
  split
  · exact .of_events rfl rfl
  · exact .refl s

theorem stepMere_time (s : State) (d : Int) : (stepMere s d).time = s.time := rfl

theorem stepMere_events (s : State) (d : Int) : (stepMere s d).events = s.events := rfl

theorem dropFrames_moved {s x : State} (ht : x.time = s.time) (he : x.events = s.events) (u : Nat) :
    TimeGoes (phaseMoved s u) (dropFrames (noteStep (putUnits x u))) := by
  refine .trans (t := phaseMoved x u) (.of_events ?_ he) (dropFrames_goes _)
  unfold phaseMoved noteStep putUnits plumbNow
  rw [ht]

theorem stepPhase_goes (s : State) (u : Nat) : TimeGoes (phaseMoved s u) (stepPhase s u) := by
  unfold stepPhase
  exact dropFrames_moved (stepMere_time s _) (stepMere_events s _) u

theorem plumbStepTo_goes (s : State) (u : Nat) : TimeGoes (phaseMoved s u) (plumbStepTo s u) := by
  unfold plumbStepTo
  exact (((stepPhase_goes s u).trans (stepForward_goes ..)).trans (logGeneral_goes ..)).trans (sluiceStep_goes ..)

end Sys2Proof.Machine

namespace Sys2Proof.Machine

/-! PPS (O40): edges, the fourth good one in a row, missing pulses and the loss (R528 - R536). -/

/-! Moves of Plumb's phase. -/

theorem movePhase_near {err : Int} (h : err.natAbs ≤ 1000) (s : State) (step : Bool) : movePhase s err step = completeChange (withSlew s none) :=
  if_pos h

theorem movePhase_slew {err : Int} {step : Bool} (h : 1000 < err.natAbs) (hb : (step && bigError err) = false) (s : State) :
    movePhase s err step = withSlew s (some (nsUnits * err)) :=
  (if_neg (Nat.not_le.2 h)).trans (if_neg (by rw [hb]; decide))

theorem movePhase_step {err : Int} {step : Bool} (hs : step = true) (hb : bigError err = true) (s : State) :
    movePhase s err step = completeChange (plumbStepTo (withSlew s none) (movedUnits (withSlew s none) (nsUnits * err))) := by
  have hl : 1000 < err.natAbs := lt_trans (by decide) (of_decide_eq_true hb)
  exact (if_neg (Nat.not_le.2 hl)).trans (if_pos (by rw [hs, hb]; rfl))

theorem completeChange_goes {s t : State} (h : TimeGoes s t) : TimeGoes { s with time := { s.time with changing := false } } (completeChange t) where
  time := by
    rw [completeChange_rest]
    dsimp only
    rw [h.time]
  stays := ⟨fun n hn => (completeChange_stays t).stays n (h.stays.stays n hn)⟩

/-! Plumb's time in units. -/

theorem time56_plumb56 {n : Nat} (h : n < 2 ^ 56) : time56 (plumb56 n) = n := by
  unfold time56 plumb56
  simp only [BitVec.toNat_ofNat]
  omega

theorem plumbUnits_phaseMoved {s : State} {u : Nat} (h : u < plumbRange) : plumbUnits (phaseMoved s u) = u := by
  have hp : plumbUnits (phaseMoved s u) = time56 (plumb56 (u / usUnits)) * usUnits + u % usUnits := rfl
  rw [hp, time56_plumb56 (Nat.div_lt_of_lt_mul (by rwa [Nat.mul_comm]))]
  exact Nat.div_add_mod' u usUnits

theorem movedUnits_lt (s : State) (d : Int) : movedUnits s d < plumbRange := by
  unfold movedUnits
  have hp : (0 : Int) < (plumbRange : Int) := by decide
  have := Int.emod_lt_of_pos ((plumbUnits s : Int) + d) hp
  have := Int.emod_nonneg ((plumbUnits s : Int) + d) hp.ne'
  omega

theorem TimeGoes.units {s t : State} (h : TimeGoes s t) : plumbUnits t = plumbUnits s := by
  unfold plumbUnits plumbNow
  rw [h.time]

/-! Edges. -/

/-- The interval that an edge shows, in SYSCLK cycles. -/
def edgeInterval (s : State) (c : Nat) : Nat :=
  if ppsSecond (c / (s.time.ppsAdvanced + 1)) = true then c / (s.time.ppsAdvanced + 1)
  else if s.time.ppsInterval = 0 then 24576000 else s.time.ppsInterval

/-- An edge is ignored. -/
def edgeIgnored (s : State) (c : Nat) (conforming : Bool) : Bool :=
  !isRunning s || !cfgPps s || !s.time.sysclk || !conforming || ((s.time.ppsPredicted || s.time.ppsInterval != 0) && decide (c < 12288000))

/-- An edge that is not good, or the first. -/
def edgeJudged (s : State) (c : Nat) : State := { s with time := { s.time with
  ppsInterval := edgeInterval s c, ppsAdvanced := 0, ppsPredicted := !s.time.ppsPredicted, ppsGood := 0, ppsClk := s.clk
  ppsDue := if s.time.ppsPredicted = true ∨ stillAwaited s = true then s.time.ppsDue else s.clk + intervalUs (edgeInterval s c)
  badPps := if s.time.ppsPredicted = true then sat16 s.time.badPps else s.time.badPps } }

/-- A good edge counted. -/
def edgeCounted (s : State) (c : Nat) : State := { s with time := { s.time with
  ppsInterval := edgeInterval s c, ppsAdvanced := 0, ppsClk := s.clk, ppsDue := s.clk + intervalUs (edgeInterval s c)
  ppsGood := min 4 (s.time.ppsGood + 1), ppsMissed := 0, goodPps := sat16 s.time.goodPps } }

/-- A good edge in state PPS gives the phase error and a correction (R533). -/
def edgeCorrected (s : State) (c : Nat) (err learned : Int) : State :=
  { s with time := { (edgeCounted s c).time with phaseErr := err, learned := learned } }

/-- A good edge noted, in force or not. -/
def edgeNoted (s : State) (c : Nat) (err : Int) : State :=
  if s.time.state = .pps then edgeCorrected (drawFree s).2 c err (((drawFree s).1.toNat % 26214401 : Nat) - 13107200) else edgeCounted s c

/-- The edge qualifies PPS. -/
def ppsQualifies (s : State) : State := { s with time := { s.time with ppsQualified := true } }

theorem execPpsEdge_ignored {s : State} {c : Nat} {e : Int} {conf : Bool} (h : edgeIgnored s c conf = true) :
    exec (.ppsEdge c e conf) s = .next s := if_pos h

section
variable {s : State} {c : Nat} {raw : Int} (h : edgeIgnored s c true = false)
include h

theorem execPpsEdge_judged (hg : ppsGoodEdge s.time c = false) : exec (.ppsEdge c raw true) s = .next (edgeJudged s c) := by
  refine (if_neg fun hi => absurd (h.symm.trans hi) (by decide)).trans ((if_pos (by rw [hg]; rfl)).trans ?_)
  unfold edgeJudged edgeInterval
  cases s.time.ppsPredicted <;> cases stillAwaited s <;> rfl

theorem execPpsEdge_noted (hg : ppsGoodEdge s.time c = true) : exec (.ppsEdge c raw true) s =
    .next (if (s.time.ppsQualified || decide (min 4 (s.time.ppsGood + 1) < 4)) = true then edgeNoted s c (ppsError s raw)
      else sourceChanged (ppsQualifies (edgeNoted s c (ppsError s raw))) (.qualified .pps (ppsError s raw))) := by
  refine (if_neg fun hi => absurd (h.symm.trans hi) (by decide)).trans ((if_neg (by rw [hg]; decide)).trans ?_)
  unfold edgeNoted
  by_cases hs : s.time.state = .pps
  · have hb : (s.time.state == .pps) = true := beq_iff_eq.2 hs
    rw [if_pos hs]
    dsimp only
    rw [hb]
    exact (apply_ite Host.Outcome.next ..).symm
  · have hb : (s.time.state == .pps) = false := beq_eq_false_iff_ne.2 hs
    rw [if_neg hs]
    dsimp only
    rw [hb]
    exact (apply_ite Host.Outcome.next ..).symm

theorem execPpsEdge_counted (hg : ppsGoodEdge s.time c = true) (hs : s.time.state ≠ .pps) (hq : s.time.ppsQualified = true ∨ s.time.ppsGood < 3) :
    exec (.ppsEdge c raw true) s = .next (edgeCounted s c) := by
  rw [execPpsEdge_noted h hg, if_pos, edgeNoted, if_neg hs]
  rcases hq with hq | hq
  · rw [hq, Bool.true_or]
  · rw [decide_eq_true (show min 4 (s.time.ppsGood + 1) < 4 by omega), Bool.or_true]

theorem execPpsEdge_qualifies (hg : ppsGoodEdge s.time c = true) (hs : s.time.state ≠ .pps) (hq : s.time.ppsQualified = false)
    (hk : 3 ≤ s.time.ppsGood) : exec (.ppsEdge c raw true) s =
      .next (sourceChanged (ppsQualifies (edgeCounted s c)) (.qualified .pps (ppsError s raw))) := by
  rw [execPpsEdge_noted h hg, if_neg, edgeNoted, if_neg hs]
  rw [hq, decide_eq_false (show ¬min 4 (s.time.ppsGood + 1) < 4 by omega)]
  decide

end

/-! PPS qualified. -/

/-- From `x` to `t` Plumb's phase has moved by a slew, or needs none. -/
structure Slewed (x t : State) (err : Int) : Prop where
  only : t = { x with time := t.time, events := t.events }
  time : t.time = { x.time with slew := if err.natAbs ≤ 1000 then none else some (nsUnits * err)
                                changing := if err.natAbs ≤ 1000 then false else x.time.changing }
  near : err.natAbs ≤ 1000 → x.time.changing = true → t.events.pending.getLsbD 16 = true
  idle : err.natAbs ≤ 1000 → x.time.changing = false → t.events = x.events
  far : 1000 < err.natAbs → t.events = x.events

theorem movePhase_slewed (x : State) {err : Int} {step : Bool} (hb : (step && bigError err) = false) : Slewed x (movePhase x err step) err := by
  by_cases hn : err.natAbs ≤ 1000
  · rw [movePhase_near hn]
    refine ⟨?_, ?_, fun _ h => completeChange_pending h, fun _ h => ?_, fun h => absurd hn (Nat.not_le.2 h)⟩
    · rw [completeChange_rest]
      rfl
    · rw [completeChange_rest, if_pos hn, if_pos hn]
      rfl
    · rw [completeChange_idle (s := withSlew x none) h]
      rfl
  · rw [movePhase_slew (Nat.not_le.1 hn) hb]
    refine ⟨rfl, ?_, fun h => absurd h hn, fun h => absurd h hn, fun _ => rfl⟩
    rw [if_neg hn, if_neg hn]
    rfl

/-- From `x` to `t` Plumb has stepped to a time in units, and a change of source is complete. -/
structure Stepped (x t : State) (u : Nat) : Prop where
  time : t.time = { x.time with count := (plumb56 (u / usUnits)).1, era := (plumb56 (u / usUnits)).2, frac := u % usUnits, stride := 1
                                steps := sat16 x.time.steps, lastStep := plumb56 (u / usUnits), slew := none, ppsStepped := true
                                changing := false, anchor := t.time.anchor }
  pending : x.time.changing = true → t.events.pending.getLsbD 16 = true

theorem completeStep_stepped (x : State) (u : Nat) : Stepped x (completeChange (plumbStepTo x u)) u := by
  have hg := plumbStepTo_goes x u
  refine ⟨(completeChange_goes hg).time, fun h => completeChange_pending ?_⟩
  rw [hg.time]
  exact h

theorem Stepped.units {x t : State} {u : Nat} (h : Stepped x t u) (hu : u < plumbRange) : plumbUnits t = u := by
  have ht : plumbUnits t = plumbUnits (phaseMoved x u) := by
    unfold plumbUnits plumbNow
    rw [h.time]
    rfl
  exact ht.trans (plumbUnits_phaseMoved hu)

theorem movePhase_stepped (x : State) {err : Int} (hb : bigError err = true) :
    Stepped (withSlew x none) (movePhase x err true) (movedUnits x (nsUnits * err)) := by
  rw [movePhase_step rfl hb]
  exact completeStep_stepped (withSlew x none) _

/-- PPS has qualified and comes into force; Plumb has not moved yet. -/
def ppsEntered (s : State) (c : Nat) (err : Int) : State :=
  enterSource { (edgeCounted s c) with time := { (edgeCounted s c).time with ppsQualified := true, phaseErr := err } } .pps true

theorem changeSource_pps {s : State} (hs : s.time.state ≠ .pps) (c : Nat) (err : Int) :
    changeSource (ppsQualifies (edgeCounted s c)) (.qualified .pps err) =
      movePhase (ppsEntered s c err) err (mayStep s && s.time.slew.isNone) := if_neg hs

/-- Plumb goes over to PPS without a step. -/
theorem Slewed.entersPps {s t : State} {c : Nat} {err : Int} (h : Slewed (ppsEntered s c err) t err) :
    t = { s with time := t.time, events := t.events } ∧ t.time.state = .pps ∧ t.time.ppsQualified = true ∧ t.time.phaseErr = err ∧
      t.time.count = s.time.count ∧ t.time.valid = s.time.valid ∧
      (err.natAbs ≤ 1000 → t.time.slew = none ∧ t.events.pending.getLsbD 16 = true) ∧
      (1000 < err.natAbs → t.time.slew = some (nsUnits * err) ∧ t.time.changing = true ∧ t.events = s.events) := by
  obtain ⟨ho, ht, hn, -, hf⟩ := h
  refine ⟨ho, by rw [ht]; rfl, by rw [ht]; rfl, by rw [ht]; rfl, by rw [ht]; rfl, by rw [ht]; rfl, fun h => ⟨?_, hn h rfl⟩,
    fun h => ⟨?_, ?_, hf h⟩⟩ <;> rw [ht]
  · exact if_pos h
  · exact if_neg (Nat.not_le.2 h)
  · exact if_neg (Nat.not_le.2 h)

/-- Plumb steps to PPS. -/
theorem Stepped.entersPps {s t : State} {c : Nat} {err : Int} (h : Stepped (withSlew (ppsEntered s c err) none) t (movedUnits s (nsUnits * err))) :
    t.time.state = .pps ∧ t.time.ppsQualified = true ∧ t.time.slew = none ∧ t.time.steps = sat16 s.time.steps ∧
      plumbUnits t = movedUnits s (nsUnits * err) ∧ t.events.pending.getLsbD 16 = true := by
  have ht := h.time
  exact ⟨by rw [ht]; rfl, by rw [ht]; rfl, by rw [ht], by rw [ht]; rfl, h.units (movedUnits_lt ..), h.pending rfl⟩

/-! PPS missing and lost. -/

/-- PPS is lost at the third missing pulse in a row. -/
def ppsLost (s : State) : State := { s with time := { s.time with
  missingPps := sat16 s.time.missingPps, ppsMissed := 0, ppsAdvanced := 0, ppsQualified := false, ppsGood := 0, ppsPredicted := false } }

theorem execPpsMissing_not {s : State} (h : s.time.ppsQualified = false ∨ s.clk < s.time.ppsDue + 2) : exec .ppsMissing s = .next s := by
  refine if_pos ?_
  rcases h with h | h
  · rw [h]
    simp
  · rw [show ppsOverdue s = false from decide_eq_false (Nat.not_le.2 h)]
    simp

section
variable {s : State} (hr : isRunning s = true) (hq : s.time.ppsQualified = true) (hd : s.time.ppsDue + 2 ≤ s.clk)
include hr hq hd

theorem execPpsMissing_overdue : exec .ppsMissing s =
    if s.time.ppsMissed + 1 < 3 then
      .next { s with time := { (advancePps s.time) with missingPps := sat16 s.time.missingPps, ppsMissed := s.time.ppsMissed + 1 } }
    else .next (sourceChanged (ppsLost s) (.lost .pps)) :=
  if_neg (by rw [hr, hq, show ppsOverdue s = true from decide_eq_true hd]; decide)

theorem execPpsMissing_counts (hm : s.time.ppsMissed < 2) : exec .ppsMissing s =
    .next { s with time := { (advancePps s.time) with missingPps := sat16 s.time.missingPps, ppsMissed := s.time.ppsMissed + 1 } } := by
  rw [execPpsMissing_overdue hr hq hd, if_pos (Nat.succ_lt_succ hm)]

theorem execPpsMissing_third (hm : 2 ≤ s.time.ppsMissed) : exec .ppsMissing s = .next (sourceChanged (ppsLost s) (.lost .pps)) := by
  rw [execPpsMissing_overdue hr hq hd, if_neg (by omega)]

end

/-- Where the prediction has not moved since, it advances by one interval. -/
theorem advancePps_steady {t : Time} (hp : t.ppsPredicted = true) (hd : t.ppsClk + intervalUs ((t.ppsAdvanced + 1) * t.ppsInterval) ≤ t.ppsDue) :
    advancePps t = { t with ppsDue := t.ppsDue + intervalUs t.ppsInterval, ppsAdvanced := t.ppsAdvanced + 1 } := by
  unfold advancePps
  dsimp only
  rw [hp, if_neg (by rw [decide_eq_false (by omega)]; decide)]
  rfl

theorem enterHoldover_eq (s : State) : enterHoldover s =
    { s with time := { s.time with state := .holdover, slew := none, changing := false, holdoverClk := some s.clk }, events := (enterHoldover s).events } := by
  unfold enterHoldover
  rw [completeChange_rest]
  rfl

theorem enterHoldover_pending (s : State) :
    (enterHoldover s).events.pending.getLsbD 16 = true ∧ (enterHoldover s).events.pending.getLsbD 17 = true := by
  unfold enterHoldover
  exact ⟨completeChange_pending rfl, (completeChange_stays _).stays 17 (raise_pending _ 17 0)⟩

/-- Chain time stands in for the source lost: Plumb slews to it (R532, R534). -/
def chainEntered (s : State) : State := enterSource { s with time := { s.time with phaseErr := s.time.chainGoodErr } } .chain true

theorem takeChain_stands (s : State) : takeChain s false = setValid (movePhase (chainEntered s) (chainNow s - plumbNs s) false) := by
  unfold takeChain chainEntered
  dsimp only
  rw [if_neg (by decide)]

theorem plumbNs_ppsLost (s : State) : plumbNs (ppsLost s) = plumbNs s := by
  have h : plumbUnits (ppsLost s) = plumbUnits s := by
    unfold plumbUnits plumbNow ppsLost
    rfl
  rw [plumbNs, plumbNs, h]

theorem chainNow_ppsLost (s : State) : chainNow (ppsLost s) = chainNow s := by
  unfold chainNow ppsLost
  rfl

/-- What every course of a loss leaves of PPS itself. -/
structure PpsGone (s t : State) : Prop where
  qualified : t.time.ppsQualified = false
  predicted : t.time.ppsPredicted = false
  missing : t.time.missingPps = sat16 s.time.missingPps

theorem sourceChanged_held {s : State} {m : TimeMove} (h : s.host.effect = .timeSet m) (c : SourceChange) :
    sourceChanged s c = { s with time := { s.time with held := s.time.held ++ [c] } } := by
  rw [sourceChanged, h]

/-- A change of source that changes nothing of the source in force is held or passes by. -/
theorem sourceChanged_idle {s : State} {c : SourceChange} (h : changeSource s c = s) :
    ∃ l, sourceChanged s c = { s with time := { s.time with held := l } } := by
  cases he : s.host.effect with
  | timeSet m => exact ⟨_, sourceChanged_held he c⟩
  | _ => exact ⟨s.time.held, (sourceChanged_now (fun m h => nomatch he.symm.trans h) c).trans h⟩

theorem takeChain_gone (s : State) : PpsGone s (takeChain (ppsLost s) false) := by
  have h := setValid_goes (movePhase (chainEntered (ppsLost s)) (chainNow (ppsLost s) - plumbNs (ppsLost s)) false)
  have hs := movePhase_slewed (chainEntered (ppsLost s)) (err := chainNow (ppsLost s) - plumbNs (ppsLost s)) (step := false) rfl
  rw [takeChain_stands]
  generalize movePhase _ _ false = x at h hs ⊢
  have ht := h.time
  unfold validated at ht
  rw [hs.time] at ht
  exact ⟨by rw [ht]; rfl, by rw [ht]; rfl, by rw [ht]; rfl⟩

theorem ppsLost_gone (s : State) : PpsGone s (sourceChanged (ppsLost s) (.lost .pps)) := by
  have hh (s : State) : PpsGone s (enterHoldover (ppsLost s)) := by
    have he := enterHoldover_eq (ppsLost s)
    exact ⟨by rw [he]; rfl, by rw [he]; rfl, by rw [he]; rfl⟩
  cases he : s.host.effect with
  | timeSet m =>
    rw [sourceChanged_held (s := ppsLost s) he]
    exact ⟨rfl, rfl, rfl⟩
  | _ =>
    rw [sourceChanged_now (s := ppsLost s) (fun m h => nomatch he.symm.trans h), changeSource]
    split
    next hs =>
      rw [loseSource, hs]
      dsimp only
      split
      · exact takeChain_gone s
      · exact hh s
    · exact ⟨rfl, rfl, rfl⟩

/-- Without a time set that waits, the loss of PPS in force brings in the next source. -/
theorem ppsLost_inForce {s : State} (hs : s.time.state = .pps) (he : ∀ m, s.host.effect ≠ .timeSet m) :
    sourceChanged (ppsLost s) (.lost .pps) = if s.time.chainQualified = true then takeChain (ppsLost s) false else enterHoldover (ppsLost s) := by
  rw [sourceChanged_now (s := ppsLost s) he]
  refine (if_pos hs).trans ?_
  rw [loseSource, show (ppsLost s).time.state = .pps from hs]
  rfl

theorem ppsLost_chain {s : State} (hs : s.time.state = .pps) (he : ∀ m, s.host.effect ≠ .timeSet m) (hc : s.time.chainQualified = true)
    (hv : s.time.valid = true) : Slewed (chainEntered (ppsLost s)) (sourceChanged (ppsLost s) (.lost .pps)) (chainNow s - plumbNs s) := by
  have hm := movePhase_slewed (chainEntered (ppsLost s)) (err := chainNow s - plumbNs s) (step := false) rfl
  rw [ppsLost_inForce hs he, if_pos hc, takeChain_stands, chainNow_ppsLost, plumbNs_ppsLost, setValid_valid (by rw [hm.time]; exact hv)]
  exact hm

/-- Settles O40: the edges by their equations, the changes of source by what a slew and a step do. -/
theorem ppsEdgesAndLoss : Obligations.PpsEdgesAndLoss := by
  unfold Obligations.PpsEdgesAndLoss
  refine ⟨fun s c e conf h => execPpsEdge_ignored ?_, fun s c raw hr hp hk he => ?_, fun s hr hq hd => ⟨fun hm hp hl => ?_, ?_, fun hm => ?_⟩,
    fun s => execPpsMissing_not⟩
  · unfold edgeIgnored
    rcases h with h | h | ⟨h | h, hc⟩ <;> simp [*]
  · have hi : edgeIgnored s c true = false := by
      unfold edgeIgnored
      rw [hr, hp, hk]
      by_cases hx : s.time.ppsPredicted = true ∨ s.time.ppsInterval ≠ 0
      · rw [decide_eq_false (Nat.not_lt.2 (he hx)), Bool.and_false]
        rfl
      · simp only [not_or, not_not, Bool.not_eq_true] at hx
        simp [hx]
    intro n interval err
    refine ⟨execPpsEdge_judged hi, execPpsEdge_counted hi, fun hg hs => ?_, fun hg hs hq hk he hm => ?_, fun hg hs hq hk he hm hb hl => ?_,
      fun hg hs hq hk he => ?_⟩
    · rw [execPpsEdge_noted hi hg, edgeNoted, if_pos hs]
      have hw := Nat.mod_lt (drawFree s).1.toNat (show 0 < 26214401 by decide)
      split
      · exact ⟨_, rfl, rfl, hs, rfl, rfl, by dsimp only [edgeCorrected]; omega, by dsimp only [edgeCorrected]; omega, rfl⟩
      · obtain ⟨l, hl⟩ := sourceChanged_idle (s := ppsQualifies (edgeCorrected (drawFree s).2 c (ppsError s raw) (((drawFree s).1.toNat % 26214401 : Nat) - 13107200)))
          (c := .qualified .pps (ppsError s raw)) (if_pos hs)
        rw [hl]
        exact ⟨_, rfl, rfl, hs, rfl, rfl, by dsimp only [ppsQualifies, edgeCorrected]; omega, by dsimp only [ppsQualifies, edgeCorrected]; omega, rfl⟩
    · rw [execPpsEdge_qualifies hi hg hs hq hk, sourceChanged_now (s := ppsQualifies (edgeCounted s c)) he, changeSource_pps hs]
      refine ⟨_, rfl, (movePhase_slewed _ ?_).entersPps⟩
      rcases hm with hm | hm | hm
      · rw [hm, Bool.false_and, Bool.false_and]
      · exact (congrArg _ hm).trans (Bool.and_false _)
      · rw [show s.time.slew.isNone = false by rw [← Option.not_isSome, hm]; rfl, Bool.and_false, Bool.false_and]
    · rw [execPpsEdge_qualifies hi hg hs hq hk, sourceChanged_now (s := ppsQualifies (edgeCounted s c)) he, changeSource_pps hs, hm, hl]
      exact ⟨_, rfl, (movePhase_stepped _ hb).entersPps⟩
    · obtain ⟨m, he⟩ := he
      rw [execPpsEdge_qualifies hi hg hs hq hk, sourceChanged_held (s := ppsQualifies (edgeCounted s c)) he]
      exact ⟨_, rfl, rfl, rfl, rfl, rfl, rfl, rfl⟩
  · rw [execPpsMissing_counts hr hq hd hm, advancePps_steady hp hl]
  · exact execPpsMissing_counts hr hq hd
  · obtain ⟨hg1, hg2, hg3⟩ := ppsLost_gone s
    refine ⟨_, execPpsMissing_third hr hq hd hm, hg1, hg2, hg3, fun hs => ?_, fun he => ?_, fun hs he hc => ?_, fun hs he hc hv => ?_⟩
    · obtain ⟨l, hl⟩ := sourceChanged_idle (s := ppsLost s) (c := .lost .pps) (if_neg hs)
      rw [hl]
      exact ⟨rfl, rfl⟩
    · obtain ⟨m, he⟩ := he
      rw [sourceChanged_held (s := ppsLost s) he]
      exact ⟨rfl, rfl, rfl⟩
    · rw [ppsLost_inForce hs he, if_neg (by rw [hc]; decide)]
      have h := enterHoldover_eq (ppsLost s)
      exact ⟨by rw [h]; rfl, by rw [h], by rw [h], enterHoldover_pending _⟩
    · have h := ppsLost_chain hs he hc hv
      have ht := h.time
      exact ⟨h.only, by rw [ht]; rfl, by rw [ht]; rfl, by rw [ht]⟩

end Sys2Proof.Machine

namespace Sys2Proof.Machine

/-! The host's time set (O41): TIME_SET, the move at the rise of HCSn, and a step back (R527, R534 - R540, R557, R563). -/

/-! The request. -/

theorem expireSessions_time (s : State) : (expireSessions s).time = s.time := by
  rw [expireSessions_eq]

theorem sessionActivity_time (s : State) : (sessionActivity s).time = s.time := expireSessions_time s

theorem timeSetError_of_time {s t : State} (h : t.time = s.time) : timeSetError t = timeSetError s := by
  unfold timeSetError plumbUnits plumbNow
  rw [h]

theorem chooseTimeSet_congr {s t : State} (h : t.time = s.time) (hc : t.config = s.config) : chooseTimeSet t = chooseTimeSet s := by
  have hs : cfgSteps t = cfgSteps s := congrArg (fun x => bit (u8 x 0) 2) (congrFun (sec_congr hc) 3)
  unfold chooseTimeSet mayStep
  rw [timeSetError_of_time h, h, hs]

theorem chooseTimeSet_activity (s : State) : chooseTimeSet (sessionActivity s) = chooseTimeSet s :=
  chooseTimeSet_congr (sessionActivity_time s) (congrArg Fixed.config (sessionActivity_fixed s))

section
variable {s : State} {f : HostFrame} (h : CommandReady s f 0x08 [] 0)
include h

theorem execTimeSet_answer {st : Byte}
    (hb : (if (!hasCal (sessionActivity s)) = true then (stLocked, sessionActivity s)
      else if (chooseTimeSet (sessionActivity s)).isNone = true then (stNotInMode, sessionActivity s) else (stOk, sessionActivity s)) = (st, sessionActivity s)) :
    exec (.timeSet f) s = .next (match (some st == some stOk), chooseTimeSet (sessionActivity s) with
      | true, some m => holdMove (replied (sessionActivity s) f 0x08 st) m
      | _, _ => replied (sessionActivity s) f 0x08 st) := by
  obtain ⟨ha, hc, -⟩ := id h
  have hx := commandFrame_ready (argOk := argCount 0) (body := fun s _ =>
    if !hasCal s then (stLocked, s) else if (chooseTimeSet s).isNone then (stNotInMode, s) else (stOk, s)) h rfl
  rw [hb] at hx
  have hd : (replied (sessionActivity s) f 0x08 st).host.response.head? = some st := answer_answered _ f st
  show execTimeSet f s = _
  unfold execTimeSet
  dsimp only
  rw [hx, hd, ha, hc, chooseTimeSet_activity]
  cases (some st == some stOk) <;> cases chooseTimeSet s <;> rfl

theorem execTimeSet_locked (hl : hasCal (sessionActivity s) = false) :
    exec (.timeSet f) s = .next (replied (sessionActivity s) f 0x08 stLocked) := by
  rw [execTimeSet_answer h (st := stLocked) (by rw [hl]; rfl)]
  cases chooseTimeSet (sessionActivity s) <;> rfl

theorem execTimeSet_refuses (hl : hasCal (sessionActivity s) = true) (hm : chooseTimeSet (sessionActivity s) = none) :
    exec (.timeSet f) s = .next (replied (sessionActivity s) f 0x08 stNotInMode) := by
  rw [execTimeSet_answer h (st := stNotInMode) (by rw [hl, hm]; rfl), hm]
  rfl

theorem execTimeSet_holds (hl : hasCal (sessionActivity s) = true) {m : TimeMove} (hm : chooseTimeSet (sessionActivity s) = some m) :
    exec (.timeSet f) s = .next (holdMove (replied (sessionActivity s) f 0x08 stOk) m) := by
  rw [execTimeSet_answer h (st := stOk) (by rw [hl, hm]; rfl), hm]
  rfl

end

section
variable {u : State}

theorem chooseTimeSet_chain (h : u.time.state = .chain) : chooseTimeSet u = none := by
  rw [chooseTimeSet, h]

theorem chooseTimeSet_pps (h : u.time.state = .pps) : chooseTimeSet u =
    if wholeSeconds (timeSetError u) ≠ 0 ∧ cfgSteps u = false ∧ u.time.valid = true then none else some (.seconds (wholeSeconds (timeSetError u))) := by
  rw [chooseTimeSet, h]
  exact if_congr (by simp [and_assoc]) rfl rfl

theorem chooseTimeSet_other (hc : u.time.state ≠ .chain) (hp : u.time.state ≠ .pps) : chooseTimeSet u =
    some (if 10000000 < (timeSetError u).natAbs ∧ (cfgSteps u = true ∨ (u.time.valid = false ∧ u.time.state = .free)) then .step else .slew) := by
  unfold chooseTimeSet
  dsimp only
  split
  next h => exact absurd h hc
  next h => exact absurd h hp
  next => exact congrArg some (if_congr (by simp [bigError, mayStep]) rfl rfl)

end

/-! The rise of HCSn. -/

/-- HCSn has risen: the port's response and effect are gone. -/
def frameOver (s : State) : State := { s with host := { s.host with response := [], effect := .none } }

theorem execHostFrameEnd_timeSet {s : State} {m : TimeMove} (h : s.host.effect = .timeSet m) (complete : Bool) :
    exec (.hostFrameEnd complete) s = .next (applyTimeSet (frameOver s) m) := by
  show execHostFrameEnd complete s = _
  rw [execHostFrameEnd, h]
  rfl

theorem takeHeld_none {s : State} (h : s.time.held = []) (moved : Int) : takeHeld s moved = s := by
  unfold takeHeld
  rw [h]
  show { s with time := { s.time with held := [] } } = s
  rw [← h]

theorem applyTimeSet_unheld {s : State} {m : TimeMove} (h : (moveTime s m).time.held = []) : applyTimeSet s m = moveTime s m := takeHeld_none h _

/-- A source that has qualified while the time set waited comes into force after it (R557). -/
theorem applyTimeSet_pps {s : State} {m : TimeMove} {e : Int} (h : (moveTime s m).time.held = [.qualified .pps e]) (hs : (moveTime s m).time.state ≠ .pps) :
    ∃ (x : State) (err : Int) (step : Bool), applyTimeSet s m = movePhase x err step ∧ x.time.state = .pps ∧
      x.time.valid = (moveTime s m).time.valid ∧ x.time.held = [] := by
  have ha : applyTimeSet s m = takeHeld (moveTime s m) (plumbNs (moveTime s m) - plumbNs s) := rfl
  rw [ha]
  unfold takeHeld
  rw [h]
  generalize plumbNs (moveTime s m) - plumbNs s = moved
  generalize moveTime s m = x at h hs
  exact ⟨_, _, _, if_neg hs, rfl, rfl, rfl⟩

/-- Plumb's phase alone moves: its source, TIMEVALID and what is held stay. -/
theorem movePhase_keeps (x : State) (err : Int) (step : Bool) : (movePhase x err step).time.state = x.time.state ∧
    (movePhase x err step).time.valid = x.time.valid ∧ (movePhase x err step).time.held = x.time.held := by
  cases hb : step && bigError err with
  | false =>
    have ht := (movePhase_slewed x hb).time
    exact ⟨by rw [ht], by rw [ht], by rw [ht]⟩
  | true =>
    obtain ⟨rfl, hb⟩ := (Bool.and_eq_true ..).mp hb
    have ht := (movePhase_stepped x hb).time
    exact ⟨by rw [ht]; rfl, by rw [ht]; rfl, by rw [ht]; rfl⟩

/-- The moves of a time set, by the error against the time-set registers. -/
theorem moveTime_slew (s : State) : moveTime s .slew = setValid (movePhase (hostSource s (timeSetError s)) (timeSetError s) false) := by
  unfold moveTime timeSetError
  dsimp only

theorem moveTime_step (s : State) : moveTime s .step =
    setValid (completeChange (plumbStepTo (hostSource s (timeSetError s)) (time56 (s.time.setCount, s.time.setEra) * usUnits))) := by
  unfold moveTime timeSetError
  dsimp only

theorem moveTime_seconds (s : State) (e : Int) : moveTime s (.seconds e) = setValid (if e = 0 then s else setSeconds s e) := by
  unfold moveTime
  dsimp only

/-! What a move leaves. -/

/-- From `s` to `t` the host has become the source with TIMEVALID set. -/
structure HostTakes (s t : State) : Prop where
  state : t.time.state = .host
  valid : t.time.valid = true
  held : t.time.held = s.time.held

theorem setValid_validTime (s : State) : (setValid s).time = { s.time with valid := true, anchor := (setValid s).time.anchor } := (setValid_goes s).time

theorem setValid_pending {s : State} {n : Nat} (h : s.events.pending.getLsbD n = true) : (setValid s).events.pending.getLsbD n = true :=
  (setValid_goes s).stays.stays n h

/-- The change of source that the host's becoming it is. -/
theorem hostSource_changing {s : State} (h : s.time.state ≠ .host) (err : Int) : (hostSource s err).time.changing = true := by
  show (s.time.state != .host || s.time.changing) = true
  rw [bne_iff_ne.2 h, Bool.true_or]

theorem moveTime_slewed (s : State) : HostTakes s (moveTime s .slew) ∧ (moveTime s .slew).time.phaseErr = timeSetError s ∧
    (moveTime s .slew).time.slew = (if (timeSetError s).natAbs ≤ 1000 then none else some (nsUnits * timeSetError s)) ∧
    (moveTime s .slew).time.count = s.time.count ∧
    (s.time.valid = true → moveTime s .slew = { s with time := (moveTime s .slew).time, events := (moveTime s .slew).events }) ∧
    (s.time.state ≠ .host → (timeSetError s).natAbs ≤ 1000 → (moveTime s .slew).events.pending.getLsbD 16 = true) := by
  rw [moveTime_slew]
  generalize timeSetError s = err
  have hs := movePhase_slewed (hostSource s err) (err := err) (step := false) rfl
  generalize movePhase (hostSource s err) err false = x at hs ⊢
  have ht := setValid_validTime x
  rw [hs.time] at ht
  refine ⟨⟨by rw [ht]; rfl, by rw [ht], by rw [ht]; rfl⟩, by rw [ht]; rfl, by rw [ht], by rw [ht]; rfl, fun hv => ?_, fun hn he => ?_⟩
  · rw [setValid_valid (by rw [hs.time]; exact hv)]
    exact hs.only
  · exact setValid_pending (hs.near he (hostSource_changing hn err))

theorem plumb56_time56 (p : Count48 × Byte) : plumb56 (time56 p) = p := by
  obtain ⟨c, e⟩ := p
  have hc := c.isLt
  have he := e.isLt
  unfold plumb56 time56
  refine Prod.ext (BitVec.eq_of_toNat_eq ?_) (BitVec.eq_of_toNat_eq ?_) <;> simp only [BitVec.toNat_ofNat]
  · omega
  · rw [show (e.toNat * 2 ^ 48 + c.toNat) / 2 ^ 48 = e.toNat by omega]
    exact Nat.mod_eq_of_lt he

theorem time56_lt (p : Count48 × Byte) : time56 p < 2 ^ 56 := by
  have hc := p.1.isLt
  have he := p.2.isLt
  unfold time56
  omega

theorem usUnits_pos : 0 < usUnits := by decide

theorem setUnits_div (s : State) : time56 (s.time.setCount, s.time.setEra) * usUnits / usUnits = time56 (s.time.setCount, s.time.setEra) :=
  Nat.mul_div_cancel _ usUnits_pos

theorem setUnits_mod (s : State) : time56 (s.time.setCount, s.time.setEra) * usUnits % usUnits = 0 := Nat.mul_mod_left ..

/-- Plumb after a step to the registers' time. -/
theorem moveTime_stepped (s : State) : HostTakes s (moveTime s .step) ∧ (moveTime s .step).time.count = s.time.setCount ∧
    (moveTime s .step).time.era = s.time.setEra ∧ (moveTime s .step).time.frac = 0 ∧ (moveTime s .step).time.slew = none ∧
    (moveTime s .step).time.steps = sat16 s.time.steps ∧ (moveTime s .step).time.lastStep = (s.time.setCount, s.time.setEra) ∧
    (s.time.state ≠ .host → (moveTime s .step).events.pending.getLsbD 16 = true) := by
  have hs := completeStep_stepped (hostSource s (timeSetError s)) (time56 (s.time.setCount, s.time.setEra) * usUnits)
  have hu := hs.time
  rw [setUnits_div, setUnits_mod, plumb56_time56] at hu
  rw [moveTime_step]
  generalize completeChange _ = x at hs hu ⊢
  have ht := setValid_validTime x
  rw [hu] at ht
  exact ⟨⟨by rw [ht]; rfl, by rw [ht], by rw [ht]; rfl⟩, by rw [ht], by rw [ht], by rw [ht], by rw [ht], by rw [ht]; rfl, by rw [ht],
    fun hn => setValid_pending (hs.pending (hostSource_changing hn _))⟩

theorem moveTime_zero (s : State) : moveTime s (.seconds 0) = setValid s := moveTime_seconds s 0

/-- A step beside which the slew in progress goes on. -/
theorem slewedStep_time (s : State) (u : Nat) (r : Option Int) : (withSlew (plumbStepTo s u) r).time = { (phaseMoved s u).time with
    slew := r, anchor := (plumbStepTo s u).time.anchor } := by
  have h := (plumbStepTo_goes s u).time
  unfold withSlew
  dsimp only
  rw [h]

theorem moveTime_whole (s : State) {e : Int} (he : e ≠ 0) : (moveTime s (.seconds e)).time.state = s.time.state ∧
    (moveTime s (.seconds e)).time.valid = true ∧ (moveTime s (.seconds e)).time.held = s.time.held ∧
    plumbUnits (moveTime s (.seconds e)) = movedUnits s (e * (1000000 * usUnits : Nat)) ∧
    (moveTime s (.seconds e)).time.slew = s.time.slew ∧ (moveTime s (.seconds e)).time.steps = sat16 s.time.steps := by
  have hu := movedUnits_lt s (e * (1000000 * usUnits : Nat))
  rw [moveTime_seconds, if_neg he, setSeconds]
  generalize movedUnits s _ = u at hu ⊢
  have hs := slewedStep_time s u s.time.slew
  generalize withSlew (plumbStepTo s u) s.time.slew = x at hs ⊢
  have ht := setValid_validTime x
  rw [hs] at ht
  refine ⟨by rw [ht]; rfl, by rw [ht], by rw [ht]; rfl, ?_, by rw [ht], by rw [ht]; rfl⟩
  have hp : plumbUnits (setValid x) = plumbUnits (phaseMoved s u) := by
    unfold plumbUnits plumbNow
    rw [ht]
  exact hp.trans (plumbUnits_phaseMoved hu)

/-! A step back (R539, R540, R551). -/

/-- A path drops the frame in progress. -/
def droppedFrame (w : Weir) : Weir := { w with dropFrame := w.on, residue := none, carry := 0 }

/-- The frames in progress of all paths, the system frame and the visit under way are dropped. -/
def framesDropped (s : State) : State := { s with
  weirs := s.weirs.map droppedFrame, sysDrop := s.sysOn, ks := { s.ks with visiting := false, visitBad := false, compared := false } }

theorem dropFrames_only (s : State) : dropFrames s =
    { (framesDropped s) with results := (dropFrames s).results, spill := (dropFrames s).spill } := by
  have h := foldl_rel SkipsOnly (fun _ => rfl) .trans (fun s v => startVcn (skipVcn s v) v) (fun s v => skipStart_skips s v v)
    ((s.results.map (·.1)).filter fun v => vcnNode v == (ownNode s).toNat && channelOn s (vcnIndex v)) s
  have hd : dropFrames s = framesDropped (((s.results.map (·.1)).filter fun v => vcnNode v == (ownNode s).toNat && channelOn s (vcnIndex v)).foldl
    (fun s v => startVcn (skipVcn s v) v) s) := rfl
  rw [hd]
  generalize List.foldl _ s _ = t at h ⊢
  unfold SkipsOnly at h
  rw [h]
  rfl

/-- From `x` to `t` Plumb has stepped, and the frames in progress are dropped. -/
def PhaseStepped (x t : State) : Prop :=
  t = { x with time := t.time, results := t.results, spill := t.spill, weirs := x.weirs.map droppedFrame, sysDrop := x.sysOn, mere := t.mere
               ks := { x.ks with visiting := false, visitBad := false, compared := false } }

theorem framesStepped {x y : State} (hm : y = { x with mere := y.mere }) (u : Nat) : PhaseStepped x (dropFrames (noteStep (putUnits y u))) := by
  have hp : noteStep (putUnits y u) = { y with time := (noteStep (putUnits y u)).time } := rfl
  generalize noteStep (putUnits y u) = z at hp ⊢
  have hd := dropFrames_only z
  unfold PhaseStepped
  generalize dropFrames z = t at hd ⊢
  rw [hd, hp, hm]
  rfl

theorem stepMere_only (s : State) (d : Int) : stepMere s d = { s with mere := (stepMere s d).mere } := rfl

theorem stepPhase_stepped (x : State) (u : Nat) : PhaseStepped x (stepPhase x u) := by
  unfold stepPhase
  exact framesStepped (stepMere_only x _) u

theorem sluiceStep_back (leave : State → Mode → State) {s : State} {old : Nat} (h : time56 (plumbNow s) ≤ old) :
    sluiceStep leave s old = { s with sluice := (sluiceStep leave s old).sluice } ∧
      ∀ k : Fin 128, slotPeriodic s.sluice[k] = false → (sluiceStep leave s old).sluice[k] = s.sluice[k] := by
  unfold sluiceStep
  extract_lets now f u
  rw [if_neg (Nat.not_lt.2 h)]
  refine ⟨rfl, fun k hk => ?_⟩
  show (s.sluice.map f)[k.val] = s.sluice[k.val]
  rw [Vector.getElem_map]
  exact if_pos (by rw [show slotPeriodic s.sluice[k.val] = false from hk]; simp)

/-- From `x` to `t` Plumb has stepped back. -/
structure SteppedBack (x t : State) : Prop where
  only : t = { x with time := t.time, events := t.events, results := t.results, spill := t.spill, weirs := x.weirs.map droppedFrame
                      sysDrop := x.sysOn, mere := t.mere, sluice := t.sluice, log := t.log
                      ks := { x.ks with visiting := false, visitBad := false, compared := false } }
  slots : ∀ k : Fin 128, slotPeriodic x.sluice[k] = false → t.sluice[k] = x.sluice[k]
  logged : x.log.budget < cfgLogCap x → x.log.general.length < 15359 → x.log.stopped = false →
    ∃ e, t.log.general = x.log.general ++ [e] ∧ e.kind = 0x0A

theorem logGeneral_logged {s : State} (hcap : s.log.budget < cfgLogCap s) (hroom : s.log.general.length < 15359) (hgoes : s.log.stopped = false)
    (kind node : Byte) (code arg : Nat) (data : List Byte) :
    ∃ e, (logGeneral s kind node code arg data).log.general = s.log.general ++ [e] ∧ e.kind = kind := by
  unfold logGeneral
  rw [logRing_room hcap hroom hgoes]
  exact ⟨_, rfl, rfl⟩

theorem TimeGoes.plumb {s t : State} (h : TimeGoes s t) : plumbNow t = plumbNow s := by
  unfold plumbNow
  rw [h.time]

theorem plumbNow_phaseMoved (s : State) (u : Nat) : plumbNow (phaseMoved s u) = plumb56 (u / usUnits) := rfl

theorem stepForward_back {s : State} {o n : Nat} (h : n ≤ o) : stepForward s o n = s := if_neg (Nat.not_lt.2 h)

/-- The parts of a state that a step back moves. -/
theorem PhaseStepped.logged {x y z t : State} (hp : PhaseStepped x y) (hl : LogOnly y z) (ho : t = { z with sluice := t.sluice }) :
    t = { x with time := t.time, events := t.events, results := t.results, spill := t.spill, weirs := x.weirs.map droppedFrame
                 sysDrop := x.sysOn, mere := t.mere, sluice := t.sluice, log := t.log
                 ks := { x.ks with visiting := false, visitBad := false, compared := false } } := by
  unfold PhaseStepped at hp
  unfold LogOnly at hl
  generalize x.weirs.map droppedFrame = weirs at hp ⊢
  generalize y.time = a1, y.results = a2, y.spill = a3, y.mere = a4 at hp
  subst hp
  generalize z.log = b1, z.events = b2 at hl
  subst hl
  generalize t.sluice = c1 at ho
  subst ho
  rfl

theorem slotsStepped {x y : State} (hp : PhaseStepped x y) {now : Nat} (hn : time56 (plumbNow y) ≤ now) (node : Byte) (data : List Byte) :
    SteppedBack x (sluiceStep leaveSafe (logGeneral y 0x0A node 0 0 data) now) := by
  have hl := logGeneral_log (.refl y) 0x0A node 0 0 data
  have hg := fun h1 h2 h3 => logGeneral_logged (s := y) h1 h2 h3 0x0A node 0 0 data
  generalize logGeneral y 0x0A node 0 0 data = z at hl hg ⊢
  have hz : plumbNow z = plumbNow y := by
    unfold plumbNow
    rw [show z.time = y.time from congrArg Quiet.time hl.quiet]
  obtain ⟨ho, hs⟩ := sluiceStep_back leaveSafe (s := z) (old := now) (by rw [hz]; exact hn)
  generalize sluiceStep leaveSafe z now = t at ho hs ⊢
  have hall := hp.logged hl ho
  unfold LogOnly at hl
  unfold PhaseStepped at hp
  refine ⟨hall, fun k hk => ?_, fun h1 h2 h3 => ?_⟩
  · have hx : z.sluice = x.sluice := by rw [hl, hp]
    rw [hs k (by rw [hx]; exact hk), hx]
  · have hx : y.log = x.log ∧ cfgLogCap y = cfgLogCap x := by
      rw [hp]
      exact ⟨rfl, rfl⟩
    rw [hx.1, hx.2] at hg
    rw [ho]
    exact hg h1 h2 h3

theorem plumbStepTo_back {x : State} {u : Nat} (hu : u / usUnits < 2 ^ 56) (hb : u / usUnits ≤ time56 (plumbNow x)) :
    SteppedBack x (plumbStepTo x u) := by
  have hn : time56 (plumbNow (stepPhase x u)) = u / usUnits := by
    rw [(stepPhase_goes x u).plumb, plumbNow_phaseMoved, time56_plumb56 hu]
  have hf := stepForward_back (s := stepPhase x u) (le_trans (Nat.mod_le _ (2 ^ 56)) hb)
  unfold plumbStepTo
  dsimp only
  rw [hf]
  exact slotsStepped (stepPhase_stepped x u) (hn.trans_le hb) _ _

theorem SteppedBack.source {s t : State} {err : Int} (h : SteppedBack (hostSource s err) t) : SteppedBack s t where
  only := by
    have ho := h.only
    generalize t.time = a1, t.events = a2, t.results = a3, t.spill = a4, t.mere = a5, t.sluice = a6, t.log = a7 at ho ⊢
    rw [ho]
    rfl
  slots := h.slots
  logged := h.logged

theorem SteppedBack.completes {x t : State} (h : SteppedBack x t) : SteppedBack x (completeChange t) where
  only := by
    have ho := h.only
    rw [completeChange_rest]
    generalize (completeChange t).events = e
    dsimp only
    generalize t.time = a1, t.events = a2, t.results = a3, t.spill = a4, t.mere = a5, t.sluice = a6, t.log = a7 at ho ⊢
    rw [ho]
  slots := by
    rw [completeChange_rest]
    exact h.slots
  logged := by
    rw [completeChange_rest]
    exact h.logged

theorem moveTime_back {s : State} (hv : s.time.valid = true) (hb : time56 (s.time.setCount, s.time.setEra) < time56 (plumbNow s)) :
    SteppedBack s (moveTime s .step) := by
  have hs := completeStep_stepped (hostSource s (timeSetError s)) (time56 (s.time.setCount, s.time.setEra) * usUnits)
  have hx := plumbStepTo_back (x := hostSource s (timeSetError s)) (u := time56 (s.time.setCount, s.time.setEra) * usUnits)
    (by rw [setUnits_div]; exact time56_lt _) (by rw [setUnits_div]; exact hb.le)
  rw [moveTime_step, setValid_valid (by rw [hs.time]; exact hv)]
  exact hx.completes.source

/-- What a step back at the end of a frame changes. -/
theorem SteppedBack.frame {s t : State} (h : SteppedBack (frameOver s) t) :
    t = { s with time := t.time, events := t.events, host := t.host, results := t.results, spill := t.spill, weirs := t.weirs,
                 sysDrop := s.sysOn, mere := t.mere, sluice := t.sluice, log := t.log,
                 ks := { s.ks with visiting := false, visitBad := false, compared := false } } ∧
      ∀ n : Fin 23, t.weirs[n] = { s.weirs[n] with dropFrame := s.weirs[n].on, residue := none, carry := 0 } := by
  obtain ⟨ho, -, -⟩ := h
  have hw : t.weirs = s.weirs.map droppedFrame := by rw [ho]; rfl
  refine ⟨?_, fun n => ?_⟩
  · rw [hw]
    generalize t.time = a1, t.events = a2, t.results = a3, t.spill = a4, t.mere = a5, t.sluice = a6, t.log = a7 at ho ⊢
    rw [ho]
    rfl
  · rw [hw]
    exact Vector.getElem_map ..

/-- Settles O41: the request by the answers of TIME_SET, the rise of HCSn by the move chosen. -/
theorem hostTimeSet : Obligations.HostTimeSet := by
  unfold Obligations.HostTimeSet
  refine ⟨fun s f h => ?_, fun s c he hh hp hc => ?_, fun s c he hh hp hc => ?_, fun s c e he hh hp => ?_, fun s c m e he hh hp hc hm => ?_⟩
  · intro u err
    refine ⟨execTimeSet_locked h, fun hl hs => execTimeSet_refuses h hl (chooseTimeSet_chain hs), fun hl hs hw hst hv => execTimeSet_refuses h hl ?_,
      fun hl hs hw => execTimeSet_holds h hl ?_, fun hl hs hp => execTimeSet_holds h hl (chooseTimeSet_other hs hp)⟩
    · exact (chooseTimeSet_pps hs).trans (if_pos ⟨hw, hst, hv⟩)
    · refine (chooseTimeSet_pps hs).trans (if_neg fun ⟨h1, h2, h3⟩ => ?_)
      rcases hw with hw | hw | hw
      · exact h1 hw
      · exact absurd (h2.symm.trans hw) (by decide)
      · exact absurd (h3.symm.trans hw) (by decide)
  · obtain ⟨ht, h1, h2, h3, h4, h5⟩ := moveTime_slewed (frameOver s)
    rw [execHostFrameEnd_timeSet he, applyTimeSet_unheld (ht.held.trans hh)]
    exact ⟨_, rfl, ht.state, ht.valid, h1, h2, h3, h4, h5⟩
  · obtain ⟨ht, h1, h2, h3, h4, h5, h6, h7⟩ := moveTime_stepped (frameOver s)
    rw [execHostFrameEnd_timeSet he, applyTimeSet_unheld (ht.held.trans hh)]
    refine ⟨_, rfl, ht.state, ht.valid, h1, h2, h3, h4, h5, h6, h7, fun hb hv => ?_⟩
    have hx := moveTime_back (s := frameOver s) hv hb
    obtain ⟨ho, hw⟩ := hx.frame
    exact ⟨ho, hw, hx.slots, hx.logged⟩
  · by_cases h0 : e = 0
    · subst h0
      have ht := setValid_validTime (frameOver s)
      rw [execHostFrameEnd_timeSet he, applyTimeSet_unheld (by rw [moveTime_zero, ht]; exact hh), moveTime_zero]
      refine ⟨_, rfl, by rw [ht]; exact hp, by rw [ht], fun _ => ⟨by rw [ht]; rfl, by rw [ht]; rfl, fun hv => setValid_valid hv⟩, fun h => absurd rfl h⟩
    · obtain ⟨h1, h2, h3, h4, h5, h6⟩ := moveTime_whole (frameOver s) h0
      rw [execHostFrameEnd_timeSet he, applyTimeSet_unheld (h3.trans hh)]
      exact ⟨_, rfl, h1.trans hp, h2, fun h => absurd h h0, fun _ => ⟨h4, h5, h6⟩⟩
  · have ht : HostTakes (frameOver s) (moveTime (frameOver s) m) := by
      rcases hm with rfl | rfl
      · exact (moveTime_stepped _).1
      · exact (moveTime_slewed _).1
    obtain ⟨x, err, step, hx, h1, h2, h3⟩ := applyTimeSet_pps (s := frameOver s) (m := m) (ht.held.trans hh) (by rw [ht.state]; decide)
    obtain ⟨k1, k2, k3⟩ := movePhase_keeps x err step
    rw [execHostFrameEnd_timeSet he, hx]
    exact ⟨_, rfl, k1.trans h1, (k2.trans h2).trans ht.valid, k3.trans h3⟩

end Sys2Proof.Machine

namespace Sys2Proof.Machine

/-! SWEEP_TICK (O48): what a sweep's start leaves (R609, R611, R622, R630, R639, R807, R809). -/

/-! Service requests. -/

/-- A record on which service requests have been noted. -/
def Asked (n m : Node) : Prop := m = { n with
  pollWanted := m.pollWanted, backlogSweep := m.backlogSweep, backlogBase := m.backlogBase, backlogTold := m.backlogTold, backlogNext := m.backlogNext }

theorem Asked.refl (n : Node) : Asked n n := rfl

theorem Asked.trans {n m k : Node} (h : Asked n m) (g : Asked m k) : Asked n k := by
  unfold Asked at *
  rw [g, h]

/-- From `s` to `t` service requests have gone out: every frame still waits, and the pods' records note the requests. -/
structure Serves (s t : State) : Prop where
  rest : t = { s with course := { s.course with
    ports := t.course.ports, seqs := t.course.seqs, nodes := t.course.nodes, room := t.course.room, noService := t.course.noService } }
  queues : ∀ q : Fin 2, ∀ g ∈ s.course.ports[q].txq, g ∈ t.course.ports[q].txq
  nodes : ∃ f : Node → Node, t.course.nodes = s.course.nodes.map f ∧ ∀ n, Asked n (f n)

theorem Serves.of_nodes {s t : State} (hr : t = { s with course := { s.course with room := t.course.room, noService := t.course.noService } }) : Serves s t where
  rest := by rw [hr]
  queues q g hg := by rw [hr]; exact hg
  nodes := ⟨id, by rw [hr, List.map_id], Asked.refl⟩

theorem Serves.refl (s : State) : Serves s s := .of_nodes rfl

theorem Serves.trans {s t u : State} (h : Serves s t) (k : Serves t u) : Serves s u where
  rest := by
    have k1 := k.rest
    rw [k1, h.rest]
  queues q g hg := k.queues q g (h.queues q g hg)
  nodes := by
    obtain ⟨f, hf, hs⟩ := h.nodes
    obtain ⟨g, hg, hs'⟩ := k.nodes
    exact ⟨g ∘ f, by rw [hg, hf, List.map_map], fun n => (hs n).trans (hs' (f n))⟩

theorem SendsOnly.serves {s t : State} (h : SendsOnly s t) : Serves s t where
  rest := by rw [h.rest]
  queues q := (h.queues q).2
  nodes := ⟨id, by rw [h.rest, List.map_id], Asked.refl⟩

theorem modNode_serves (s : State) (a : Nat) {f : Node → Node} (hf : ∀ n, Asked n (f n)) : Serves s (modNode s a f) where
  rest := rfl
  queues _ _ hg := hg
  nodes := ⟨_, rfl, fun n => by
    split
    · exact hf n
    · exact .refl n⟩

theorem takeRoom_serves (s : State) (side : Fin 2) (n : Nat) : Serves s (takeRoom s side n) := .of_nodes rfl

theorem sendService_serves (s : State) (n : Node) (type credit : Byte) (p : List Byte) : Serves s (sendService s n type credit p) :=
  (originate_sendsOnly ..).serves

theorem request_serves {s : State} {n : Node} {wire : Nat} {send : State → State} (h : Serves s (send s)) : Serves s (request s n wire send) := by
  unfold request
  dsimp only
  split
  · exact h.trans (takeRoom_serves ..)
  · exact .refl s

theorem sendRender_serves (s : State) (n : Node) : Serves s (sendRender s n) := by
  unfold sendRender
  dsimp only
  split
  · exact request_serves (foldl_rel Serves .refl .trans _ (fun _ _ => sendService_serves ..) _ s)
  · exact .refl s

theorem sendOperation_serves (s : State) (op : ServiceOp) : Serves s (sendOperation s op) := by
  unfold sendOperation
  split
  split
  · exact .refl s
  · exact request_serves (sendService_serves ..)

theorem sendPoll_serves (s : State) (n : Node) : Serves s (sendPoll s n) := by
  unfold sendPoll
  extract_lets u
  have hu : Serves s u := modNode_serves s _ fun _ => rfl
  exact hu.trans (request_serves ((sendService_serves ..).trans (modNode_serves _ _ fun _ => rfl)))

theorem sendBacklog_serves (x : State × Nat) (n : Node) : Serves x.1 (sendBacklog x n).1 := by
  obtain ⟨s, budget⟩ := x
  unfold sendBacklog
  dsimp only
  split
  · exact .refl s
  · split
    · exact .refl s
    · refine .trans (.trans (sendService_serves ..) (modNode_serves _ _ ?_)) (takeRoom_serves ..)
      exact fun _ => rfl

theorem announceTest_serves (s : State) : Serves s (announceTest s) := by
  unfold announceTest
  split
  · exact .refl s
  · dsimp only
    split
    · exact .refl s
    · exact (originate_sendsOnly ..).serves.trans (foldl_rel Serves .refl .trans _ (fun _ _ => takeRoom_serves ..) _ _)

theorem serveSweep_serves (s : State) : Serves s (serveSweep s) := by
  unfold serveSweep
  extract_lets _ u c v polled rendered asked
  have hv : Serves s v := .of_nodes rfl
  have hp : Serves s polled := hv.trans (foldl_rel Serves .refl .trans _ sendPoll_serves _ v)
  have hr : Serves s rendered := hp.trans (foldl_rel Serves .refl .trans _ sendRender_serves _ polled)
  have ha : Serves s asked := hr.trans ((announceTest_serves rendered).trans (foldl_rel Serves .refl .trans _ sendOperation_serves _ _))
  exact ha.trans (foldl_rel (fun x y : State × Nat => Serves x.1 y.1) (fun x => .refl x.1) (fun h k => h.trans k) _ sendBacklog_serves _ (asked, _))

theorem Serves.waits {s t : State} (h : Serves s t) {q : Fin 2} {type dst : Byte} {payload : List Byte} (hw : Waits s q type dst payload) :
    Waits t q type dst payload := by
  obtain ⟨f, hf, hwhat⟩ := hw
  exact ⟨f, h.queues q f hf, hwhat⟩

/-! A frame on each port. -/

/-- Of a frame that sending does not change, one waits on every port of the list that sends. -/
theorem originateEach_spec {type dst : Byte} {cls : Nat} {make : State → Fin 2 → List Byte} (h : ∀ s t, SendsOnly s t → ∀ p, make t p = make s p)
    (l : List (Fin 2)) (s : State) : SendsOnly s (originateEach s l type dst cls make) ∧
      ∀ p ∈ l, sends s p = true → Waits (originateEach s l type dst cls make) p type dst (make s p) := by
  induction l generalizing s with
  | nil => exact ⟨.refl s, fun p hp => nomatch hp⟩
  | cons a l ih =>
    have ha := originate_sendsOnly s [a] type dst cls 0 (make s a)
    obtain ⟨hl, hw⟩ := ih (originate s [a] type dst cls 0 (make s a))
    refine ⟨ha.trans hl, fun p hp hs => ?_⟩
    rcases List.mem_cons.1 hp with rfl | hp
    · obtain ⟨-, -, hin⟩ := originate_ports s [p] type dst cls 0 (make s p)
      exact hl.waits (hin p (List.mem_singleton_self p) hs)
    · rw [← h _ _ ha p]
      exact hw p hp (by rw [ha.sends]; exact hs)

/-! The start of a sweep. -/

/-- A record of a sweep that starts: what has joined takes part. -/
def Begun (n m : Node) : Prop := m = { n with side := m.side, delayWanted := m.delayWanted, joining := false }

/-- From `s` to `t` the sweep has begun on the table of pods. -/
structure SweepBegun (s t : State) : Prop where
  rest : t = { s with course := { s.course with
    nodes := t.course.nodes, testLink := t.course.testLink, ringAgain := t.course.ringAgain, ringClosed := t.course.ringClosed, remote := t.course.remote } }
  nodes : ∃ f : Node → Node, t.course.nodes = s.course.nodes.map f ∧ ∀ n, Begun n (f n)
  ring : s.course.remote = none → s.course.ringAgain = false → t.course.ringClosed = s.course.ringClosed
  test : ∀ x, s.course.remote = some x → x.running = false → x.toStart ≠ 0 →
    ∃ w, t.course.remote = some { x with toStart := x.toStart - 1, wasRing := w } ∧
      (x.toStart = 1 → x.ackFar = true → x.ackNear = true → s.course.ringClosed = true → w = true ∧ t.course.ringClosed = false)

/-- The pods that have joined take part, and a test that is over has left the chain. -/
def joinedStart (s : State) : State := { s with course := { s.course with
  nodes := s.course.nodes.map fun n => { n with joining := false }
  testLink := if s.course.remote.any (·.running) then s.course.testLink else none } }

theorem beginSweep_eq (s : State) : beginSweep s = remoteSweep (ringAfterTest (joinedStart s)) := rfl

/-- A pod that at most moves to the other side. -/
def MayMove (n m : Node) : Prop := m = { n with side := m.side, delayWanted := m.delayWanted }

/-- What the ring's closing again after a test changes. -/
theorem ringAfterTest_spec (s : State) : ringAfterTest s = { s with course := { s.course with
      nodes := (ringAfterTest s).course.nodes, ringAgain := false, ringClosed := (ringAfterTest s).course.ringClosed } } ∧
    (∃ f : Node → Node, (ringAfterTest s).course.nodes = s.course.nodes.map f ∧ ∀ n, MayMove n (f n)) ∧
    (s.course.ringAgain = false → (ringAfterTest s).course.ringClosed = s.course.ringClosed) ∧
    (s.course.ringClosed = true → (ringAfterTest s).course.ringClosed = true) := by
  unfold ringAfterTest
  dsimp only
  split
  next h =>
    exact ⟨rfl, ⟨onRingSide, rfl, fun _ => rfl⟩, fun hn => absurd h (by rw [hn]; simp), fun _ => rfl⟩
  · exact ⟨rfl, ⟨id, (List.map_id _).symm, fun _ => rfl⟩, fun _ => rfl, id⟩

theorem remoteSweep_idle {s : State} (h : ∀ x, s.course.remote = some x → x.running = true ∨ x.toStart = 0) : remoteSweep s = s := by
  unfold remoteSweep
  split
  · rfl
  next x hx => exact if_pos (by simpa using h x hx)

/-- A scheduled test one sweep nearer. -/
def testNearer (s : State) (x : RemoteTest) (w : Bool) : State :=
  { s with course := { s.course with remote := some { x with toStart := x.toStart - 1, wasRing := w } } }

theorem remoteSweep_nearer {s : State} {x : RemoteTest} (hx : s.course.remote = some x) (hr : x.running = false) (ht : x.toStart ≠ 0) :
    remoteSweep s = let w := x.toStart == 1 && x.ackFar && x.ackNear && s.course.ringClosed
      if w = true then splitSides (testNearer s x w) { x with toStart := x.toStart - 1, wasRing := w } else testNearer s x w := by
  unfold remoteSweep
  rw [hx]
  exact if_neg (by simp [hr, ht])

/-- What a scheduled test's coming nearer changes. -/
structure TestNearer (s t : State) : Prop where
  rest : t = { s with course := { s.course with nodes := t.course.nodes, ringClosed := t.course.ringClosed, remote := t.course.remote } }
  nodes : ∃ f : Node → Node, t.course.nodes = s.course.nodes.map f ∧ ∀ n, MayMove n (f n)
  ring : s.course.remote = none → t.course.ringClosed = s.course.ringClosed
  test : ∀ x, s.course.remote = some x → x.running = false → x.toStart ≠ 0 →
    ∃ w, t.course.remote = some { x with toStart := x.toStart - 1, wasRing := w } ∧
      (x.toStart = 1 → x.ackFar = true → x.ackNear = true → s.course.ringClosed = true → w = true ∧ t.course.ringClosed = false)

theorem remoteSweep_spec (s : State) : TestNearer s (remoteSweep s) := by
  by_cases h : ∀ x, s.course.remote = some x → x.running = true ∨ x.toStart = 0
  · rw [remoteSweep_idle h]
    refine ⟨rfl, ⟨id, (List.map_id _).symm, fun _ => rfl⟩, fun _ => rfl, fun x hx hr ht => ?_⟩
    rcases h x hx with h | h
    · exact absurd (hr.symm.trans h) (by decide)
    · exact absurd h ht
  · push Not at h
    obtain ⟨x, hx, hr, ht⟩ := h
    rw [remoteSweep_nearer hx (by simpa using hr) ht]
    generalize hw : (x.toStart == 1 && x.ackFar && x.ackNear && s.course.ringClosed) = w
    cases w with
    | true =>
      refine ⟨rfl, ⟨_, rfl, fun _ => rfl⟩, fun h => (nomatch hx.symm.trans h), fun y hy _ _ => ?_⟩
      obtain rfl := Option.some.inj (hx.symm.trans hy)
      exact ⟨true, rfl, fun _ _ _ _ => ⟨rfl, rfl⟩⟩
    | false =>
      refine ⟨rfl, ⟨id, (List.map_id _).symm, fun _ => rfl⟩, fun h => (nomatch hx.symm.trans h), fun y hy _ _ => ?_⟩
      obtain rfl := Option.some.inj (hx.symm.trans hy)
      refine ⟨false, rfl, fun h1 h2 h3 h4 => ?_⟩
      rw [h1, h2, h3, h4] at hw
      exact absurd hw (by decide)

theorem beginSweep_begun (s : State) : SweepBegun s (beginSweep s) := by
  have hj : (joinedStart s).course.nodes = s.course.nodes.map fun n => { n with joining := false } := rfl
  obtain ⟨h1, ⟨f1, hf1, hs1⟩, hr1, hc1⟩ := ringAfterTest_spec (joinedStart s)
  obtain ⟨h2, ⟨f2, hf2, hs2⟩, hr2, ht2⟩ : TestNearer _ _ := remoteSweep_spec (ringAfterTest (joinedStart s))
  have hremote : (ringAfterTest (joinedStart s)).course.remote = s.course.remote := by
    rw [h1]
    rfl
  rw [beginSweep_eq]
  generalize ringAfterTest (joinedStart s) = u at *
  refine ⟨?_, ⟨fun n => f2 (f1 { n with joining := false }), ?_, fun n => ?_⟩, fun hn ha => ?_, fun x hx hrun hto => ?_⟩
  · rw [h2]
    generalize (remoteSweep u).course.nodes = a, (remoteSweep u).course.ringClosed = b, (remoteSweep u).course.remote = c
    rw [h1]
    rfl
  · rw [hf2, hf1, hj, List.map_map, List.map_map]
    rfl
  · have h1 := hs1 { n with joining := false }
    have h2 := hs2 (f1 { n with joining := false })
    unfold MayMove at h1 h2
    unfold Begun
    dsimp only
    rw [h2, h1]
  · exact (hr2 (hremote.trans hn)).trans (hr1 ha)
  · obtain ⟨w, hw, hring⟩ := ht2 x (hremote.trans hx) hrun hto
    exact ⟨w, hw, fun a b c d => hring a b c (hc1 d)⟩

/-! The delay slot (R622). -/

/-- One step of the search for the node that has waited longest. -/
def waitsLonger (b : Option Node) (n : Node) : Option Node :=
  match b with
  | none => some n
  | some m => if m.delayAge < n.delayAge then some n else b

theorem longestUnnamed_eq (l : List Node) : longestUnnamed l = l.foldl waitsLonger none := rfl

theorem foldl_waitsLonger (l : List Node) (b n : Node) (h : l.foldl waitsLonger (some b) = some n) :
    (n = b ∨ n ∈ l) ∧ b.delayAge ≤ n.delayAge ∧ ∀ m ∈ l, m.delayAge ≤ n.delayAge := by
  induction l generalizing b with
  | nil =>
    obtain rfl := Option.some.inj h
    exact ⟨.inl rfl, le_rfl, fun m hm => nomatch hm⟩
  | cons a l ih =>
    rw [List.foldl_cons, waitsLonger] at h
    split at h
    next hlt =>
      obtain ⟨h1, h2, h3⟩ := ih a h
      refine ⟨.inr (List.mem_cons.2 h1), by omega, fun m hm => ?_⟩
      rcases List.mem_cons.1 hm with rfl | hm
      · exact h2
      · exact h3 m hm
    next hge =>
      obtain ⟨h1, h2, h3⟩ := ih b h
      refine ⟨h1.imp_right (List.mem_cons_of_mem a), h2, fun m hm => ?_⟩
      rcases List.mem_cons.1 hm with rfl | hm
      · omega
      · exact h3 m hm

theorem longestUnnamed_spec {l : List Node} {n : Node} (h : longestUnnamed l = some n) : n ∈ l ∧ ∀ m ∈ l, m.delayAge ≤ n.delayAge := by
  rw [longestUnnamed_eq] at h
  cases l with
  | nil => nomatch h
  | cons a l =>
    obtain ⟨h1, h2, h3⟩ := foldl_waitsLonger l a n h
    refine ⟨List.mem_cons.2 h1, fun m hm => ?_⟩
    rcases List.mem_cons.1 hm with rfl | hm
    · exact h2
    · exact h3 m hm

/-- The joined pods, those whose 250 sweeps are up, those that have moved or joined. -/
def joinedNodes (s : State) : List Node := s.course.nodes.filter fun n => n.state == .joined
def dueNodes (s : State) : List Node := (joinedNodes s).filter fun n => 249 ≤ n.delayAge
def wantedNodes (s : State) : List Node := (joinedNodes s).filter (·.delayWanted)

theorem delayNode_eq (s : State) : delayNode s = ((longestUnnamed (if !(dueNodes s).isEmpty then dueNodes s
    else if !(wantedNodes s).isEmpty then wantedNodes s else joinedNodes s)).map (·.addr)).getD 0 := rfl

theorem mem_joinedNodes {s : State} {n : Node} : n ∈ joinedNodes s ↔ n ∈ s.course.nodes ∧ n.state = .joined := by
  unfold joinedNodes
  rw [List.mem_filter, beq_iff_eq]

theorem mem_dueNodes {s : State} {n : Node} : n ∈ dueNodes s ↔ (n ∈ s.course.nodes ∧ n.state = .joined) ∧ 249 ≤ n.delayAge := by
  unfold dueNodes
  rw [List.mem_filter, mem_joinedNodes, decide_eq_true_eq]

theorem mem_wantedNodes {s : State} {n : Node} : n ∈ wantedNodes s ↔ (n ∈ s.course.nodes ∧ n.state = .joined) ∧ n.delayWanted = true := by
  unfold wantedNodes
  rw [List.mem_filter, mem_joinedNodes]

/-- The pod of the delay slot stands before every other one in the order of R622. -/
theorem delayNode_spec {s : State} {a : Byte} (h : delayNode s = a) (ha : a ≠ 0) : ∃ n ∈ s.course.nodes, n.addr = a ∧ n.state = .joined ∧
    (∀ m ∈ s.course.nodes, m.state = .joined → 249 ≤ m.delayAge → 249 ≤ n.delayAge ∧ m.delayAge ≤ n.delayAge) ∧
    (∀ m ∈ s.course.nodes, m.state = .joined → m.delayWanted = true → n.delayWanted = true ∨ 249 ≤ n.delayAge) := by
  rw [delayNode_eq] at h
  cases hl : longestUnnamed (if !(dueNodes s).isEmpty then dueNodes s else if !(wantedNodes s).isEmpty then wantedNodes s else joinedNodes s) with
  | none =>
    rw [hl] at h
    exact absurd h.symm ha
  | some n =>
    rw [hl] at h
    obtain ⟨hn, hmax⟩ := longestUnnamed_spec hl
    cases hd : (dueNodes s).isEmpty with
    | false =>
      rw [hd, if_pos (by decide)] at hn hmax
      obtain ⟨⟨hmem, hj⟩, h249⟩ := mem_dueNodes.1 hn
      exact ⟨n, hmem, h, hj, fun m hm hmj hmd => ⟨h249, hmax m (mem_dueNodes.2 ⟨⟨hm, hmj⟩, hmd⟩)⟩, fun _ _ _ _ => .inr h249⟩
    | true =>
      have hnone : ∀ m ∈ s.course.nodes, m.state = .joined → ¬249 ≤ m.delayAge := fun m hm hmj hmd => by
        have := mem_dueNodes.2 ⟨⟨hm, hmj⟩, hmd⟩
        rw [List.isEmpty_iff.1 hd] at this
        exact nomatch this
      rw [hd, if_neg (by decide)] at hn
      cases hw : (wantedNodes s).isEmpty with
      | false =>
        rw [hw, if_pos (by decide)] at hn
        obtain ⟨⟨hmem, hj⟩, hdw⟩ := mem_wantedNodes.1 hn
        exact ⟨n, hmem, h, hj, fun m hm hmj hmd => absurd hmd (hnone m hm hmj), fun _ _ _ _ => .inl hdw⟩
      | true =>
        rw [hw, if_neg (by decide)] at hn
        obtain ⟨hmem, hj⟩ := mem_joinedNodes.1 hn
        refine ⟨n, hmem, h, hj, fun m hm hmj hmd => absurd hmd (hnone m hm hmj), fun m hm hmj hmw => ?_⟩
        have := mem_wantedNodes.2 ⟨⟨hm, hmj⟩, hmw⟩
        rw [List.isEmpty_iff.1 hw] at this
        exact nomatch this

/-! SWEEP_TICK. -/

/-- The sweep's number, its pod of the delay slot and its ring are fixed. -/
def sweepNumbered (s : State) : State := { beginSweep s with course := { (beginSweep s).course with
  sweep := (beginSweep s).course.sweep + 1, sweepRing := (beginSweep s).course.ringClosed
  nodes := (beginSweep s).course.nodes.map (named (delayNode (beginSweep s)))
  sweepOf := some (headS (beginSweep s)), tickClk := (beginSweep s).clk, credited := false } }

/-- Its SWEEP_START frames wait. -/
def sweepStarted (s : State) : State :=
  originateEach (sweepNumbered s) (usedPorts (sweepNumbered s)) 0x10 255 1 fun u _ => sweepStartPayload u (delayNode (beginSweep s))

theorem execSweepTick_due {s : State} (hr : s.role = .head) (ha : isActive s = true) (hu : usedPorts s ≠ []) (ht : onTime s (headS s) = true) :
    exec .sweepTick s = .next (serveSweep (sweepStarted s)) := by
  refine if_neg ?_
  simp [hr, ha, hu, ht]

theorem execSweepTick_not {s : State} (h : s.role = .pod ∨ isActive s = false ∨ usedPorts s = [] ∨ onTime s (headS s) = false) :
    exec .sweepTick s = .next s := by
  refine if_pos ?_
  rcases h with h | h | h | h <;> simp [h]

theorem creditDue_iff (s : State) : creditDue s = true ↔ s.course.sweepOf ≠ none ∧ s.course.credited = false ∧ s.course.tickClk + 1000 ≤ s.clk := by
  simp [creditDue, and_assoc, Option.isSome_iff_ne_none]

theorem sweepOver_iff (s : State) : sweepOver s = true ↔ ∃ us, s.course.sweepOf = some us ∧ onTime s us = true ∧ s.course.tickClk < s.clk := by
  unfold sweepOver
  cases h : s.course.sweepOf <;> simp

theorem execSweepEnd_not {s : State} {bad : List (Fin 256)} (h : s.role = .pod ∨ isActive s = false ∨ sweepOver s = false) :
    exec (.sweepEnd bad) s = .next s := by
  refine if_pos ?_
  rcases h with h | h | h <;> simp [h]

theorem execCreditSend_not {s : State} (h : s.role = .pod ∨ isActive s = false ∨ creditDue s = false) : exec .creditSend s = .next s := by
  refine if_pos ?_
  rcases h with h | h | h <;> simp [h]

/-- What a SWEEP_START tells: the sweep, Plumb, the modes and the ring. -/
theorem sweepStartPayload_congr {s t : State} {c : Course} (ht : t = { s with course := c }) (hs : c.sweep = s.course.sweep)
    (hr : c.ringClosed = s.course.ringClosed) (d : Byte) : sweepStartPayload t d = sweepStartPayload s d := by
  subst ht
  unfold sweepStartPayload
  dsimp only
  rw [hs, hr]
  rfl

theorem sweepStarted_spec (s : State) : SendsOnly (sweepNumbered s) (sweepStarted s) ∧ ∀ p ∈ usedPorts s, sends s p = true →
    Waits (sweepStarted s) p 0x10 255 (sweepStartPayload (sweepNumbered s) (delayNode (beginSweep s))) := by
  obtain ⟨h, hw⟩ := originateEach_spec (type := 0x10) (dst := 255) (cls := 1) (make := fun u _ => sweepStartPayload u (delayNode (beginSweep s)))
    (fun u t hu p => sweepStartPayload_congr hu.rest rfl rfl _) (usedPorts (sweepNumbered s)) (sweepNumbered s)
  have hb := (beginSweep_begun s).rest
  have hused : usedPorts (sweepNumbered s) = usedPorts s := by
    unfold sweepNumbered
    rw [hb]
    rfl
  have hsends (p : Fin 2) : sends (sweepNumbered s) p = sends s p := by
    unfold sweepNumbered
    rw [hb]
    rfl
  exact ⟨h, fun p hp hs => hw p (by rw [hused]; exact hp) (by rw [hsends]; exact hs)⟩

theorem named_spec (d : Byte) (n : Node) : named d n = { n with delayWanted := (named d n).delayWanted, delayAge := (named d n).delayAge } ∧
    (n.addr = d → (named d n).delayWanted = false ∧ (named d n).delayAge = 0) ∧ (n.addr ≠ d → (named d n).delayAge = n.delayAge + 1) := by
  unfold named
  split
  next h => exact ⟨rfl, fun _ => ⟨rfl, rfl⟩, fun hn => absurd h hn⟩
  next h => exact ⟨rfl, fun hn => absurd hn h, fun _ => rfl⟩

/-- From `s` to `t` SWEEP_TICK has started a sweep that names `d`. -/
structure SweepTicked (s t : State) (d : Byte) : Prop where
  rest : t = { s with course := t.course }
  of : t.course.sweepOf = some (headS s)
  clk : t.course.tickClk = s.clk
  credited : t.course.credited = false
  sweep : t.course.sweep = s.course.sweep + 1
  ring : t.course.sweepRing = t.course.ringClosed
  closed : s.course.remote = none → s.course.ringAgain = false → t.course.ringClosed = s.course.ringClosed
  waits : ∀ p ∈ usedPorts s, sends s p = true → Waits t p 0x10 255 (sweepStartPayload t d)
  nodes : ∀ n ∈ s.course.nodes, ∃ m ∈ t.course.nodes, m.addr = n.addr ∧ m.uid = n.uid ∧ m.state = n.state ∧ m.joining = false ∧
    (n.addr = d → m.delayWanted = false ∧ m.delayAge = 0) ∧ (n.addr ≠ d → m.delayAge = n.delayAge + 1)
  test : ∀ x, s.course.remote = some x → x.running = false → x.toStart ≠ 0 →
    ∃ w, t.course.remote = some { x with toStart := x.toStart - 1, wasRing := w } ∧
      (x.toStart = 1 → x.ackFar = true → x.ackNear = true → s.course.ringClosed = true → w = true ∧ t.course.ringClosed = false)

/-- Frames, room and the notes on service requests apart, `t` is the numbered sweep. -/
theorem serveSweep_rest (s : State) : ∃ c : Course, serveSweep (sweepStarted s) = { (sweepNumbered s) with course := c } ∧
    c = { (sweepNumbered s).course with ports := c.ports, seqs := c.seqs, nodes := c.nodes, room := c.room, noService := c.noService } := by
  have hv := (serveSweep_serves (sweepStarted s)).rest
  have hs := (sweepStarted_spec s).1.rest
  generalize serveSweep (sweepStarted s) = t at hv ⊢
  generalize sweepStarted s = u at hv hs
  rw [hs] at hv
  exact ⟨t.course, by rw [hv], by rw [hv]⟩

theorem serveSweep_nodes (s : State) {n : Node} (hn : n ∈ s.course.nodes) : ∃ m k, m ∈ (serveSweep (sweepStarted s)).course.nodes ∧
    Begun n k ∧ Asked (named (delayNode (beginSweep s)) k) m := by
  obtain ⟨g, hg, ha⟩ := (serveSweep_serves (sweepStarted s)).nodes
  have hs := (sweepStarted_spec s).1.rest
  obtain ⟨f, hf, hb⟩ := (beginSweep_begun s).nodes
  have hu : (sweepStarted s).course.nodes = (s.course.nodes.map f).map (named (delayNode (beginSweep s))) := by
    rw [hs, ← hf]
    rfl
  refine ⟨g (named (delayNode (beginSweep s)) (f n)), f n, ?_, hb n, ha _⟩
  rw [hg, hu]
  exact List.mem_map_of_mem (List.mem_map_of_mem (List.mem_map_of_mem hn))

theorem sweepTick_spec (s : State) : SweepTicked s (serveSweep (sweepStarted s)) (delayNode (beginSweep s)) := by
  have hb := beginSweep_begun s
  have hrest : sweepNumbered s = { s with course := (sweepNumbered s).course } := by
    unfold sweepNumbered
    rw [hb.rest]
  have hmode : headS (beginSweep s) = headS s ∧ (beginSweep s).clk = s.clk ∧ (beginSweep s).course.sweep = s.course.sweep := by
    rw [hb.rest]
    exact ⟨rfl, rfl, rfl⟩
  obtain ⟨hS, hclk, hsweep⟩ := hmode
  obtain ⟨c, hc, hcc⟩ := serveSweep_rest s
  have hcourse : (serveSweep (sweepStarted s)).course = c := by rw [hc]
  have hw := (sweepStarted_spec s).2
  have hq := serveSweep_serves (sweepStarted s)
  refine ⟨?_, ?_, ?_, ?_, ?_, ?_, fun hn hra => ?_, fun p hp hs => ?_, fun n hn => ?_, fun x hx hrun hto => ?_⟩
  · rw [hcourse, hc, hrest]
  · rw [hcourse, hcc, ← hS]
    rfl
  · rw [hcourse, hcc, ← hclk]
    rfl
  · rw [hcourse, hcc]
    rfl
  · rw [hcourse, hcc, ← hsweep]
    rfl
  · rw [hcourse, hcc]
    rfl
  · rw [hcourse, hcc, ← hb.ring hn hra]
    rfl
  · rw [sweepStartPayload_congr hc (by rw [hcc]) (by rw [hcc])]
    exact hq.waits (hw p hp hs)
  · obtain ⟨m, k, hm, hk, ha⟩ := serveSweep_nodes s hn
    obtain ⟨hn1, hn2, hn3⟩ := named_spec (delayNode (beginSweep s)) k
    have haddr : k.addr = n.addr := by rw [hk]
    have hage : k.delayAge = n.delayAge := by rw [hk]
    refine ⟨m, hm, ?_, ?_, ?_, ?_, fun hd => ?_, fun hd => ?_⟩
    · rw [ha, hn1, hk]
    · rw [ha, hn1, hk]
    · rw [ha, hn1, hk]
    · rw [ha, hn1, hk]
    · rw [ha]
      exact hn2 (haddr.trans hd)
    · rw [ha, ← hage]
      exact hn3 fun h => hd (haddr.symm.trans h)
  · obtain ⟨w, hw, hring⟩ := hb.test x hx hrun hto
    refine ⟨w, ?_, fun h1 h2 h3 h4 => ?_⟩
    · rw [hcourse, hcc, ← hw]
      rfl
    · obtain ⟨hw1, hw2⟩ := hring h1 h2 h3 h4
      refine ⟨hw1, ?_⟩
      rw [hcourse, hcc, ← hw2]
      rfl

end Sys2Proof.Machine

namespace Sys2Proof.Machine

/-! The grants of a sweep (R624, R625): what the loop over a class, a class and a side give out. -/

/-! Lists of (address, grant). -/

theorem lookup_of_nodup {α β : Type} [DecidableEq α] {l : List (α × β)} (h : (l.map (·.1)).Nodup) {e : α × β} (he : e ∈ l) : l.lookup e.1 = some e.2 := by
  induction l with
  | nil => nomatch he
  | cons p l ih =>
    rw [List.map_cons] at h
    obtain ⟨hp, hl⟩ := List.nodup_cons.1 h
    rcases List.mem_cons.1 he with rfl | he
    · exact List.lookup_cons_self
    · have hne : (e.1 == p.1) = false := beq_eq_false_iff_ne.2 fun heq => hp (heq ▸ List.mem_map_of_mem he)
      rw [List.lookup_cons, hne]
      exact ih hl he

theorem grantOf_mem {l : List (Byte × Nat)} (h : (l.map (·.1)).Nodup) {e : Byte × Nat} (he : e ∈ l) : grantOf l e.1 = e.2 := by
  rw [grantOf, lookup_of_nodup h he]
  rfl

theorem lookup_none {l : List (Byte × Nat)} {a : Byte} (h : a ∉ l.map (·.1)) : l.lookup a = none := by
  rw [List.lookup_eq_none_iff]
  intro e he
  simp only [bne_iff_ne, ne_eq]
  exact fun heq => h (heq ▸ List.mem_map_of_mem he)

theorem lookup_some {l : List (Byte × Nat)} (h : (l.map (·.1)).Nodup) {a : Byte} (ha : a ∈ l.map (·.1)) : l.lookup a = some (grantOf l a) := by
  obtain ⟨e, he, rfl⟩ := List.mem_map.1 ha
  rw [lookup_of_nodup h he, grantOf_mem h he]

/-- Of several lists of which each has the address with one grant or not at all, and one has it, the join has it so. -/
theorem lookup_flatten {ls : List (List (Byte × Nat))} {a : Byte} {k : Nat} (h : ∀ l ∈ ls, l.lookup a = none ∨ l.lookup a = some k)
    (hk : ∃ l ∈ ls, l.lookup a = some k) : ls.flatten.lookup a = some k := by
  induction ls with
  | nil => obtain ⟨l, hl, -⟩ := hk; nomatch hl
  | cons m ls ih =>
    rw [List.flatten_cons, List.lookup_append]
    rcases h m List.mem_cons_self with hm | hm
    · rw [hm, Option.none_or]
      refine ih (fun l hl => h l (List.mem_cons_of_mem m hl)) ?_
      obtain ⟨l, hl, hlk⟩ := hk
      rcases List.mem_cons.1 hl with rfl | hl
      · exact nomatch hm.symm.trans hlk
      · exact ⟨l, hl, hlk⟩
    · rw [hm, Option.some_or]

/-! The loop of R625: entries of (address, need, grant). -/

/-- One frame more for an address. -/
def serveOne (a : Byte) (l : List (Byte × Nat × Nat)) : List (Byte × Nat × Nat) := l.map fun e => if e.1 == a then (e.1, e.2.1, e.2.2 + 1) else e

theorem serveNext_some {last a : Byte} {l : List (Byte × Nat × Nat)} (h : serveNext last l = some a) : ∃ e ∈ l, e.1 = a ∧ e.2.2 < e.2.1 := by
  unfold serveNext at h
  dsimp only at h
  split at h
  next e he =>
    have hp := List.find?_some he
    rw [Bool.and_eq_true, decide_eq_true_eq, decide_eq_true_eq] at hp
    exact ⟨e, List.mem_of_find?_eq_some he, Option.some.inj h, hp.2⟩
  next =>
    obtain ⟨e, he, rfl⟩ := Option.map_eq_some_iff.1 h
    exact ⟨e, List.mem_of_find?_eq_some he, rfl, of_decide_eq_true (List.find?_some (p := fun e : Byte × Nat × Nat => decide (e.2.2 < e.2.1)) he)⟩

/-- What stays in the loop: addresses and needs, and no grant above its need. -/
structure Served (l r : List (Byte × Nat × Nat)) (free : Nat) : Prop where
  keys : r.map (fun e => (e.1, e.2.1)) = l.map fun e => (e.1, e.2.1)
  need : ∀ e ∈ r, e.2.2 ≤ e.2.1
  sum : (r.map (·.2.2)).sum ≤ (l.map (·.2.2)).sum + free

theorem keys_of_pairs {l r : List (Byte × Nat × Nat)} (h : r.map (fun e => (e.1, e.2.1)) = l.map fun e => (e.1, e.2.1)) :
    r.map (·.1) = l.map (·.1) := by
  have := congrArg (List.map Prod.fst) h
  simpa only [List.map_map, Function.comp_def] using this

theorem serveOne_other {l : List (Byte × Nat × Nat)} {a : Byte} (h : a ∉ l.map (·.1)) : serveOne a l = l := by
  refine (List.map_congr_left fun e he => ?_).trans (List.map_id l)
  rw [if_neg]
  · rfl
  · rw [beq_iff_eq]
    exact fun heq => h (heq ▸ List.mem_map_of_mem he)

theorem serveOne_sum {l : List (Byte × Nat × Nat)} (hn : (l.map (·.1)).Nodup) (a : Byte) : ((serveOne a l).map (·.2.2)).sum ≤ (l.map (·.2.2)).sum + 1 := by
  induction l with
  | nil => exact Nat.zero_le _
  | cons e l ih =>
    rw [List.map_cons] at hn
    obtain ⟨he, hl⟩ := List.nodup_cons.1 hn
    by_cases ha : e.1 = a
    · have hs : serveOne a (e :: l) = (e.1, e.2.1, e.2.2 + 1) :: serveOne a l := by
        unfold serveOne
        rw [List.map_cons, if_pos (by rw [ha]; exact beq_self_eq_true a)]
      rw [hs, serveOne_other (ha ▸ he)]
      simp only [List.map_cons, List.sum_cons]
      omega
    · have hs : serveOne a (e :: l) = e :: serveOne a l := by
        unfold serveOne
        rw [List.map_cons, if_neg (by rw [beq_iff_eq]; exact ha)]
      rw [hs]
      simp only [List.map_cons, List.sum_cons]
      have := ih hl
      omega

theorem serveOne_served {l : List (Byte × Nat × Nat)} (hn : (l.map (·.1)).Nodup) (hl : ∀ e ∈ l, e.2.2 ≤ e.2.1) {a : Byte}
    (ha : ∃ e ∈ l, e.1 = a ∧ e.2.2 < e.2.1) : Served l (serveOne a l) 1 where
  keys := by
    unfold serveOne
    rw [List.map_map]
    refine List.map_congr_left fun e _ => ?_
    dsimp only [Function.comp]
    split <;> rfl
  need e' he' := by
    obtain ⟨e, he, rfl⟩ := List.mem_map.1 he'
    split
    next heq =>
      obtain ⟨b, hb, hba, hlt⟩ := ha
      have hbe : b = e := List.inj_on_of_nodup_map hn hb he (hba.trans (beq_iff_eq.1 heq).symm)
      rw [hbe] at hlt
      exact hlt
    · exact hl e he
  sum := serveOne_sum hn a

theorem serveClass_served (free : Nat) {l : List (Byte × Nat × Nat)} (hn : (l.map (·.1)).Nodup) (hl : ∀ e ∈ l, e.2.2 ≤ e.2.1) (last : Byte) :
    Served l (serveClass free last l).1 free := by
  induction free generalizing l last with
  | zero => exact ⟨rfl, hl, le_rfl⟩
  | succ k ih =>
    rw [serveClass]
    split
    · exact ⟨rfl, hl, Nat.le_add_right ..⟩
    next a ha =>
      obtain ⟨h1, h2, h3⟩ := serveOne_served hn hl (serveNext_some ha)
      obtain ⟨g1, g2, g3⟩ := ih (l := serveOne a l) (by rw [keys_of_pairs h1]; exact hn) h2 a
      exact ⟨g1.trans h1, g2, by
        show (((serveClass k a (serveOne a l)).1).map (·.2.2)).sum ≤ _
        omega⟩

/-! A class. -/

/-- The pods of a class on a side. -/
def classNodes (s : State) (side : Fin 2) (cls : Fin 3) : List Node := (sideNodes s side).filter fun n => nodePrio s n == cls.val

/-- The grants `G` of the pods `N` out of `free` frames, of which `left` are left. -/
structure ClassGranted (N : List Node) (free left : Nat) (G : List (Byte × Nat)) : Prop where
  keys : G.map (·.1) = N.map (·.addr)
  need : ∀ n ∈ N, grantOf G n.addr ≤ needOf n
  sum : (N.map fun n => grantOf G n.addr).sum + left ≤ free
  fits : (N.map needOf).sum ≤ free → left = free - (N.map needOf).sum ∧ ∀ n ∈ N, grantOf G n.addr = needOf n
  short : ¬(N.map needOf).sum ≤ free → left = 0

theorem grants_sum {N : List Node} {G : List (Byte × Nat)} (hk : G.map (·.1) = N.map (·.addr)) (hn : (N.map (·.addr)).Nodup) :
    N.map (fun n => grantOf G n.addr) = G.map (·.2) := by
  have h : N.map (fun n => grantOf G n.addr) = (N.map (·.addr)).map (grantOf G) := by rw [List.map_map]; rfl
  rw [h, ← hk, List.map_map]
  exact List.map_congr_left fun e he => grantOf_mem (hk ▸ hn) he

theorem classGrants_granted (s : State) (side : Fin 2) (cls : Fin 3) (free : Nat) (hn : ((classNodes s side cls).map (·.addr)).Nodup) :
    ClassGranted (classNodes s side cls) free (classGrants s side cls free).2.1 (classGrants s side cls free).1 := by
  unfold classGrants
  extract_lets l sum last
  have hl : l = (classNodes s side cls).map fun n => (n.addr, needOf n, 0) := rfl
  have hkeys : l.map (·.1) = (classNodes s side cls).map (·.addr) := by rw [hl, List.map_map]; rfl
  have hsum : sum = ((classNodes s side cls).map needOf).sum := by
    show (l.map (·.2.1)).sum = _
    rw [hl, List.map_map]
    rfl
  generalize classNodes s side cls = N at hn hl hkeys hsum ⊢
  split
  next hfit =>
    have hg : (l.map fun e => (e.1, e.2.1)) = N.map fun n => (n.addr, needOf n) := by rw [hl, List.map_map]; rfl
    have hk : ((l.map fun e => (e.1, e.2.1)).map (·.1)) = N.map (·.addr) := by rw [hg, List.map_map]; rfl
    have hval : ∀ n ∈ N, grantOf (l.map fun e => (e.1, e.2.1)) n.addr = needOf n := fun n hnN =>
      grantOf_mem (e := (n.addr, needOf n)) (hk ▸ hn) (by rw [hg]; exact List.mem_map_of_mem hnN)
    refine ⟨hk, fun n hnN => (hval n hnN).le, ?_, fun _ => ⟨by rw [hsum], hval⟩, fun h => absurd (hsum ▸ hfit) h⟩
    rw [List.map_congr_left hval, ← hsum]
    exact (Nat.add_sub_cancel' hfit).le
  next hfit =>
    obtain ⟨h1, h2, h3⟩ := serveClass_served free (l := l) (hkeys ▸ hn) (fun e he => by
      obtain ⟨n, -, rfl⟩ := List.mem_map.1 (hl ▸ he)
      exact Nat.zero_le _) last
    generalize serveClass free last l = x at h1 h2 h3 ⊢
    obtain ⟨r, z⟩ := x
    dsimp only at h1 h2 h3 ⊢
    have hk : ((r.map fun e => (e.1, e.2.2)).map (·.1)) = N.map (·.addr) := by
      rw [List.map_map, ← hkeys, ← keys_of_pairs h1]
      rfl
    have hnd := hk ▸ hn
    have hz : (l.map (·.2.2)).sum = 0 := by
      rw [hl, List.map_map]
      exact List.sum_eq_zero fun x hx => by
        obtain ⟨n, -, rfl⟩ := List.mem_map.1 hx
        rfl
    refine ⟨hk, fun n hnN => ?_, ?_, fun h => absurd (hsum ▸ h) hfit, fun _ => rfl⟩
    · have hmem : (n.addr, needOf n) ∈ r.map fun e => (e.1, e.2.1) := by
        rw [h1, hl, List.map_map]
        exact List.mem_map_of_mem (f := (fun e : Byte × Nat × Nat => (e.1, e.2.1)) ∘ fun n : Node => (n.addr, needOf n, 0)) hnN
      obtain ⟨e, he, heq⟩ := List.mem_map.1 hmem
      obtain ⟨ha, hneed⟩ := Prod.mk.inj heq
      rw [← ha, ← hneed, grantOf_mem (e := (e.1, e.2.2)) hnd (List.mem_map_of_mem he)]
      exact h2 e he
    · rw [grants_sum hk hn, List.map_map]
      show (r.map (·.2.2)).sum + 0 ≤ free
      omega

/-! A side, and both. -/

section
variable {s : State} (hp : s.course.nodes.Pairwise fun a b => a.addr < b.addr)
include hp

theorem addrs_nodup {l : List Node} (hl : l.Sublist s.course.nodes) : (l.map (·.addr)).Nodup := by
  unfold List.Nodup
  rw [List.pairwise_map]
  exact (hp.sublist hl).imp fun h => (BitVec.ne_of_lt h)

theorem node_of_addr {n m : Node} (hn : n ∈ s.course.nodes) (hm : m ∈ s.course.nodes) (h : m.addr = n.addr) : m = n :=
  List.inj_on_of_nodup_map (addrs_nodup hp (List.Sublist.refl _)) hm hn h

theorem classNodes_nodup (side : Fin 2) (cls : Fin 3) : ((classNodes s side cls).map (·.addr)).Nodup :=
  addrs_nodup hp (List.filter_sublist.trans List.filter_sublist)

/-- The grants of a side, class after class, each out of what the classes before have left. -/
theorem sideGrants_classes (side : Fin 2) : ∃ f0 f1 f2 : Nat, ∃ g0 g1 g2 : List (Byte × Nat), (sideGrants s side).1 = g0 ++ g1 ++ g2 ∧
    ClassGranted (classNodes s side 0) (sideFrames s (sideNodes s side).length) f0 g0 ∧ ClassGranted (classNodes s side 1) f0 f1 g1 ∧
    ClassGranted (classNodes s side 2) f1 f2 g2 := by
  unfold sideGrants
  generalize sideFrames s (sideNodes s side).length = F
  have h0 := classGrants_granted s side 0 F (classNodes_nodup hp side 0)
  generalize classGrants s side 0 F = x at h0 ⊢
  obtain ⟨g0, f0, l0⟩ := x
  dsimp only at h0 ⊢
  have h1 := classGrants_granted s side 1 f0 (classNodes_nodup hp side 1)
  generalize classGrants s side 1 f0 = x at h1 ⊢
  obtain ⟨g1, f1, l1⟩ := x
  dsimp only at h1 ⊢
  have h2 := classGrants_granted s side 2 f1 (classNodes_nodup hp side 2)
  generalize classGrants s side 2 f1 = x at h2 ⊢
  obtain ⟨g2, f2, l2⟩ := x
  exact ⟨f0, f1, f2, g0, g1, g2, rfl, h0, h1, h2⟩

end

theorem mem_sideNodes {s : State} {side : Fin 2} {n : Node} : n ∈ sideNodes s side ↔ n ∈ s.course.nodes ∧ swept n = true ∧ n.side = side := by
  unfold sideNodes
  rw [List.mem_filter, Bool.and_eq_true, beq_iff_eq]

theorem mem_classNodes {s : State} {side : Fin 2} {cls : Fin 3} {n : Node} :
    n ∈ classNodes s side cls ↔ n ∈ sideNodes s side ∧ nodePrio s n = cls.val := by
  unfold classNodes
  rw [List.mem_filter, beq_iff_eq]

/-- The grants of both sides. -/
structure Granted (s : State) (G : Fin 2 → Fin 3 → List (Byte × Nat)) (fr : Fin 2 → Fin 4 → Nat) (g : List (Byte × Nat)) : Prop where
  all : g = [G 0 0, G 0 1, G 0 2, G 1 0, G 1 1, G 1 2].flatten
  frames : ∀ i, fr i 0 = sideFrames s (sideNodes s i).length
  classes : ∀ i c, ClassGranted (classNodes s i c) (fr i c.castSucc) (fr i c.succ) (G i c)

section
variable {s : State} {G : Fin 2 → Fin 3 → List (Byte × Nat)} {fr : Fin 2 → Fin 4 → Nat} {g : List (Byte × Nat)} (h : Granted s G fr g)
  (hp : s.course.nodes.Pairwise fun a b => a.addr < b.addr) (h3 : ∀ n ∈ s.course.nodes, nodePrio s n < 3)
/-- A sum over a side, class by class. -/
theorem sideNodes_sum (h3 : ∀ n ∈ s.course.nodes, nodePrio s n < 3) (f : Node → Nat) (i : Fin 2) : ((sideNodes s i).map f).sum =
    ((classNodes s i 0).map f).sum + ((classNodes s i 1).map f).sum + ((classNodes s i 2).map f).sum := by
  have hl : ∀ n ∈ sideNodes s i, nodePrio s n < 3 := fun n hn => h3 n (mem_sideNodes.1 hn).1
  unfold classNodes
  generalize sideNodes s i = l at hl
  induction l with
  | nil => rfl
  | cons n l ih =>
    have hn := hl n List.mem_cons_self
    have ih := ih fun m hm => hl m (List.mem_cons_of_mem n hm)
    rw [List.map_cons, List.sum_cons, ih]
    rcases show nodePrio s n = 0 ∨ nodePrio s n = 1 ∨ nodePrio s n = 2 by omega with hk | hk | hk <;>
      simp [hk] <;> omega

theorem class_of_side (h3 : ∀ n ∈ s.course.nodes, nodePrio s n < 3) {i : Fin 2} {n : Node} (hn : n ∈ sideNodes s i) :
    ∃ c : Fin 3, c.val = nodePrio s n ∧ n ∈ classNodes s i c := by
  obtain ⟨hm, -, -⟩ := mem_sideNodes.1 hn
  exact ⟨⟨nodePrio s n, h3 n hm⟩, rfl, mem_classNodes.2 ⟨hn, rfl⟩⟩

include h hp

/-- A pod's grant is that of its class on its side. -/
theorem Granted.of_class {i : Fin 2} {c : Fin 3} {n : Node} (hn : n ∈ classNodes s i c) : grantOf g n.addr = grantOf (G i c) n.addr := by
  have hin : n.addr ∈ (G i c).map (·.1) := by
    rw [(h.classes i c).keys]
    exact List.mem_map_of_mem hn
  have hnd (j : Fin 2) (d : Fin 3) : ((G j d).map (·.1)).Nodup := (h.classes j d).keys ▸ classNodes_nodup hp j d
  have hone (j : Fin 2) (d : Fin 3) : (G j d).lookup n.addr = none ∨ (G j d).lookup n.addr = some (grantOf (G i c) n.addr) := by
    by_cases hj : n.addr ∈ (G j d).map (·.1)
    · have hk := hj
      rw [(h.classes j d).keys] at hk
      obtain ⟨m, hm, ha⟩ := List.mem_map.1 hk
      obtain ⟨hns, hnc⟩ := mem_classNodes.1 hn
      obtain ⟨hms, hmc⟩ := mem_classNodes.1 hm
      obtain ⟨hn1, -, hn3⟩ := mem_sideNodes.1 hns
      obtain ⟨hm1, -, hm3⟩ := mem_sideNodes.1 hms
      obtain rfl := node_of_addr hp hn1 hm1 ha
      obtain rfl : j = i := hm3.symm.trans hn3
      obtain rfl : d = c := Fin.ext (hmc.symm.trans hnc)
      exact .inr (lookup_some (hnd j d) hj)
    · exact .inl (lookup_none hj)
  have hl : g.lookup n.addr = some (grantOf (G i c) n.addr) := by
    rw [h.all]
    refine lookup_flatten (fun l hl => ?_) ⟨G i c, ?_, lookup_some (hnd i c) hin⟩
    · simp only [List.mem_cons, List.not_mem_nil, or_false] at hl
      rcases hl with rfl | rfl | rfl | rfl | rfl | rfl <;> exact hone ..
    · fin_cases i <;> fin_cases c <;> simp
  rw [grantOf, hl]
  rfl

theorem Granted.class_sum (i : Fin 2) (c : Fin 3) : ((classNodes s i c).map fun n => grantOf g n.addr).sum + fr i c.succ ≤ fr i c.castSucc := by
  rw [List.map_congr_left fun n hn => h.of_class hp hn]
  exact (h.classes i c).sum

/-- What is left falls from class to class. -/
theorem Granted.left_mono (i : Fin 2) (c : Fin 3) : fr i c.succ ≤ fr i c.castSucc := le_trans (Nat.le_add_left ..) (h.class_sum hp i c)

include h3

theorem Granted.need {i : Fin 2} {n : Node} (hn : n ∈ sideNodes s i) : grantOf g n.addr ≤ needOf n := by
  obtain ⟨c, -, hc⟩ := class_of_side h3 hn
  rw [h.of_class hp hc]
  exact (h.classes i c).need n hc

theorem Granted.sum (i : Fin 2) : ((sideNodes s i).map fun n => grantOf g n.addr).sum ≤ sideFrames s (sideNodes s i).length := by
  have h0 := h.class_sum hp i 0
  have h1 := h.class_sum hp i 1
  have h2 := h.class_sum hp i 2
  have hf := h.frames i
  rw [sideNodes_sum h3]
  simp only [Fin.castSucc_zero, Fin.succ_zero_eq_one, Fin.castSucc_one, Fin.succ_one_eq_two] at h0 h1 h2
  change _ + fr i 3 ≤ fr i 2 at h2
  omega

/-- With room for every need of a side each pod is granted its own. -/
theorem Granted.fits {i : Fin 2} (hf : ((sideNodes s i).map needOf).sum ≤ sideFrames s (sideNodes s i).length) {n : Node} (hn : n ∈ sideNodes s i) :
    grantOf g n.addr = needOf n := by
  obtain ⟨c, -, hc⟩ := class_of_side h3 hn
  rw [h.of_class hp hc]
  refine ((h.classes i c).fits ?_).2 n hc
  have h0 := (h.classes i 0).fits
  have h1 := (h.classes i 1).fits
  rw [sideNodes_sum h3, ← h.frames i] at hf
  change _ → fr i 1 = fr i 0 - _ ∧ _ at h0
  change _ → fr i 2 = fr i 1 - _ ∧ _ at h1
  match c with
  | 0 =>
    show _ ≤ fr i 0
    omega
  | 1 =>
    show _ ≤ fr i 1
    have := (h0 (show _ ≤ fr i 0 by omega)).1
    omega
  | 2 =>
    show _ ≤ fr i 2
    have e0 := (h0 (show _ ≤ fr i 0 by omega)).1
    have e1 := (h1 (show _ ≤ fr i 1 by omega)).1
    omega

/-- While a pod of a more important class falls short, none of a less important one of its side is granted a frame. -/
theorem Granted.prior {i : Fin 2} {n m : Node} (hn : n ∈ sideNodes s i) (hm : m ∈ sideNodes s i) (hlt : nodePrio s n < nodePrio s m)
    (hs : grantOf g n.addr ≠ needOf n) : grantOf g m.addr = 0 := by
  obtain ⟨c, hcv, hc⟩ := class_of_side h3 hn
  obtain ⟨d, hdv, hd⟩ := class_of_side h3 hm
  have hshort : fr i c.succ = 0 := by
    refine (h.classes i c).short fun hf => hs ?_
    rw [h.of_class hp hc]
    exact ((h.classes i c).fits hf).2 n hc
  have hzero : fr i d.castSucc = 0 := by
    have m0 := h.left_mono hp i 0
    have m1 := h.left_mono hp i 1
    have hcd : c < d := by
      rw [Fin.lt_def]
      omega
    change fr i 1 ≤ fr i 0 at m0
    change fr i 2 ≤ fr i 1 at m1
    match c, d with
    | 0, 1 => exact hshort
    | 0, 2 =>
      change fr i 1 = 0 at hshort
      show fr i 2 = 0
      omega
    | 1, 2 => exact hshort
    | 0, 0 => exact absurd hcd (by decide)
    | 1, 0 => exact absurd hcd (by decide)
    | 1, 1 => exact absurd hcd (by decide)
    | 2, 0 => exact absurd hcd (by decide)
    | 2, 1 => exact absurd hcd (by decide)
    | 2, 2 => exact absurd hcd (by decide)
  have hsum := h.class_sum hp i d
  rw [hzero] at hsum
  have hle : grantOf g m.addr ≤ ((classNodes s i d).map fun n => grantOf g n.addr).sum :=
    List.single_le_sum (fun _ _ => Nat.zero_le _) _ (List.mem_map_of_mem (f := fun n : Node => grantOf g n.addr) hd)
  omega

end

/-- Grants of two sides, each given class by class. -/
theorem granted_of_sides {s : State} {F0 F1 : Nat} (hF0 : F0 = sideFrames s (sideNodes s 0).length) (hF1 : F1 = sideFrames s (sideNodes s 1).length)
    {a b : List (Byte × Nat)}
    (ha : ∃ f0 f1 f2 : Nat, ∃ g0 g1 g2 : List (Byte × Nat), a = g0 ++ g1 ++ g2 ∧ ClassGranted (classNodes s 0 0) F0 f0 g0 ∧
      ClassGranted (classNodes s 0 1) f0 f1 g1 ∧ ClassGranted (classNodes s 0 2) f1 f2 g2)
    (hb : ∃ f0 f1 f2 : Nat, ∃ g0 g1 g2 : List (Byte × Nat), b = g0 ++ g1 ++ g2 ∧ ClassGranted (classNodes s 1 0) F1 f0 g0 ∧
      ClassGranted (classNodes s 1 1) f0 f1 g1 ∧ ClassGranted (classNodes s 1 2) f1 f2 g2) : ∃ G fr, Granted s G fr (a ++ b) := by
  obtain ⟨f0, f1, f2, g0, g1, g2, rfl, h0, h1, h2⟩ := ha
  obtain ⟨e0, e1, e2, k0, k1, k2, rfl, j0, j1, j2⟩ := hb
  refine ⟨![![g0, g1, g2], ![k0, k1, k2]], ![![F0, f0, f1, f2], ![F1, e0, e1, e2]], ?_, fun i => ?_, fun i c => ?_⟩
  · simp
  · match i with
    | 0 => exact hF0
    | 1 => exact hF1
  · match i, c with
    | 0, 0 => exact h0
    | 0, 1 => exact h1
    | 0, 2 => exact h2
    | 1, 0 => exact j0
    | 1, 1 => exact j1
    | 1, 2 => exact j2

end Sys2Proof.Machine

namespace Sys2Proof.Machine

/-! CREDIT_SEND (O48): the grants of the pods and the CREDIT frames (R611, R616, R618, R624, R625, R628, R629). -/

/-- The CREDIT frames of the sweep are taken as sent. -/
def creditDone (s : State) : State := { s with course := { s.course with credited := true } }

/-- The grants of side C0 are given out. -/
def firstServed (s : State) : State :=
  { s with course := { s.course with credited := true, lastServed := (sideGrants (creditDone s) 0).2 } }

/-- The grants of the sweep. -/
def sweepGrants (s : State) : List (Byte × Nat) := (sideGrants (creditDone s) 0).1 ++ (sideGrants (firstServed s) 1).1

/-- A pod of the sweep with its grant. -/
def creditAfter (s : State) (n : Node) : Node := creditNode (creditDone s) (sweepGrants s) n

/-- A pod falls short, or decimates. -/
def shortPod (n : Node) : Bool := swept n && (n.shortfall != 0 || n.dec)

/-- The grants stand in the pods' records. -/
def creditGranted (s : State) : State := { s with course := { s.course with
  credited := true, lastServed := (sideGrants (firstServed s) 1).2, nodes := s.course.nodes.map (creditAfter s)
  overloadNow := s.course.overloadNow || (s.course.nodes.map (creditAfter s)).any shortPod } }

/-- The CREDIT frames of a port. -/
def sendCredits (a z : Nat) (s : State) (p : Fin 2) : State :=
  (creditPayloads s p 3 a z).foldl (fun s q => originate s [p] 0x11 255 1 0 q) s

section
variable {s : State} (hr : s.role = .head) (ha : isActive s = true) (hd : creditDue s = true)
include hr ha hd

theorem execCreditSend_none (h : ∀ n ∈ s.course.nodes, swept n = false) : exec .creditSend s = .next (creditDone s) := by
  show execCreditSend s = _
  have hf : s.course.nodes.filter swept = [] := List.filter_eq_nil_iff.2 fun n hn => by rw [h n hn]; decide
  unfold execCreditSend
  dsimp only
  rw [if_neg (by simp [hr, ha, hd]), hf]
  rfl

theorem execCreditSend_sends (h : ∃ n ∈ s.course.nodes, swept n = true) : ∃ a z, a ∈ s.course.nodes.filter swept ∧
    (s.course.nodes.filter swept).head? = some a ∧ (s.course.nodes.filter swept).getLast? = some z ∧
    exec .creditSend s = .next ((usedPorts (creditGranted s)).foldl (sendCredits a.addr.toNat z.addr.toNat) (creditGranted s)) := by
  obtain ⟨n, hn, hs⟩ := h
  have hne : s.course.nodes.filter swept ≠ [] := List.ne_nil_of_mem (List.mem_filter.2 ⟨hn, hs⟩)
  have hx : (s.course.nodes.filter swept).head? = some ((s.course.nodes.filter swept).head hne) := List.head?_eq_some_head hne
  have hz : (s.course.nodes.filter swept).getLast? = some ((s.course.nodes.filter swept).getLast hne) := List.getLast?_eq_some_getLast hne
  refine ⟨_, _, List.head_mem hne, hx, hz, ?_⟩
  generalize (s.course.nodes.filter swept).head hne = a at hx
  generalize (s.course.nodes.filter swept).getLast hne = z at hz
  show execCreditSend s = _
  unfold execCreditSend
  dsimp only
  rw [if_neg (by simp [hr, ha, hd]), hx, hz]
  rfl

end

/-! The grants. -/

theorem sideFrames_of_course {s t : State} {c : Course} (ht : t = { s with course := c }) (n : Nat) : sideFrames t n = sideFrames s n := by
  have h : headS t = headS s := by
    rw [ht]
    rfl
  unfold sideFrames
  rw [h]

theorem sideNodes_of_course {s t : State} {c : Course} (ht : t = { s with course := c }) (hn : c.nodes = s.course.nodes) (i : Fin 2) :
    sideNodes t i = sideNodes s i := by
  unfold sideNodes
  rw [ht, ← hn]

theorem nodePrio_of_course {s t : State} {c : Course} (ht : t = { s with course := c }) (n : Node) : nodePrio t n = nodePrio s n := by
  rw [ht]
  rfl

theorem classNodes_of_course {s t : State} {c : Course} (ht : t = { s with course := c }) (hn : c.nodes = s.course.nodes) (i : Fin 2) (d : Fin 3) :
    classNodes t i d = classNodes s i d := by
  unfold classNodes
  rw [sideNodes_of_course ht hn]
  exact List.filter_congr fun n _ => by rw [nodePrio_of_course ht]

/-- The grants of a side of a state that differs in the pods served last. -/
theorem sideGrants_of_course {s t : State} {c : Course} (ht : t = { s with course := c }) (hn : c.nodes = s.course.nodes)
    (hp : s.course.nodes.Pairwise fun a b => a.addr < b.addr) (side : Fin 2) :
    ∃ f0 f1 f2 : Nat, ∃ g0 g1 g2 : List (Byte × Nat), (sideGrants t side).1 = g0 ++ g1 ++ g2 ∧
      ClassGranted (classNodes s side 0) (sideFrames s (sideNodes s side).length) f0 g0 ∧ ClassGranted (classNodes s side 1) f0 f1 g1 ∧
      ClassGranted (classNodes s side 2) f1 f2 g2 := by
  have h := sideGrants_classes (s := t) (by rw [ht]; show c.nodes.Pairwise _; rw [hn]; exact hp) side
  rw [classNodes_of_course ht hn, classNodes_of_course ht hn, classNodes_of_course ht hn, sideNodes_of_course ht hn, sideFrames_of_course ht] at h
  exact h

theorem sweepGrants_granted {s : State} (hp : s.course.nodes.Pairwise fun a b => a.addr < b.addr) : ∃ G fr, Granted s G fr (sweepGrants s) := by
  unfold sweepGrants
  exact
  granted_of_sides rfl rfl (sideGrants_of_course (s := s) (t := creditDone s) rfl rfl hp 0) (sideGrants_of_course (s := s) (t := firstServed s) rfl rfl hp 1)

/-! The pods' records. -/

theorem decide628_rest (s : State) (n : Node) (k : Nat) : decide628 s n k = { n with dec := (decide628 s n k).dec, fitted := (decide628 s n k).fitted } := by
  unfold decide628
  split
  · rfl
  · dsimp only
    split <;> rfl

theorem creditAfter_unswept {s : State} {n : Node} (h : swept n = false) : creditAfter s n = n := if_pos (by rw [h]; rfl)

theorem creditAfter_swept {s : State} {n : Node} (h : swept n = true) : creditAfter s n = { (decide628 (creditDone s) n (grantOf (sweepGrants s) n.addr)) with
    grant := grantOf (sweepGrants s) n.addr, shortfall := needOf n - grantOf (sweepGrants s) n.addr, reported := false, expected := 0, got := 0, resent := 0 } :=
  if_neg (by rw [h]; decide)

theorem creditAfter_rest {s : State} {n : Node} (h : swept n = true) : creditAfter s n = { n with
    grant := (creditAfter s n).grant, shortfall := (creditAfter s n).shortfall, dec := (creditAfter s n).dec, fitted := (creditAfter s n).fitted,
    reported := false, expected := 0, got := 0, resent := 0 } := by
  rw [creditAfter_swept h, decide628_rest]

/-! The frames. -/

theorem creditPayloads_first {s : State} (p : Fin 2) {a z : Nat} (h : a ≤ z) : ∃ q l, creditPayloads s p 3 a z = q :: l ∧ u8 q 2 = p.val := by
  rw [creditPayloads, if_neg (Nat.not_lt.2 h)]
  refine ⟨_, _, rfl, ?_⟩
  match p with
  | 0 => rfl
  | 1 => rfl

/-- A CREDIT frame of a port waits there. -/
def CreditWaits (t : State) (p : Fin 2) : Prop := ∃ f ∈ t.course.ports[p].txq, f.type = 0x11 ∧ f.dst = 255 ∧ u8 f.payload 2 = p.val

theorem SendsOnly.creditWaits {s t : State} (h : SendsOnly s t) {p : Fin 2} (hw : CreditWaits s p) : CreditWaits t p := by
  obtain ⟨f, hf, hwhat⟩ := hw
  exact ⟨f, (h.queues p).2 f hf, hwhat⟩

theorem sendCredits_sendsOnly (a z : Nat) (s : State) (p : Fin 2) : SendsOnly s (sendCredits a z s p) :=
  foldl_sendsOnly (fun _ _ => originate_sendsOnly ..) _ s

theorem sendCredits_waits {a z : Nat} (h : a ≤ z) {s : State} {p : Fin 2} (hs : sends s p = true) : CreditWaits (sendCredits a z s p) p := by
  obtain ⟨q, l, hq, hside⟩ := creditPayloads_first (s := s) p h
  unfold sendCredits
  rw [hq, List.foldl_cons]
  refine (foldl_sendsOnly (fun _ _ => originate_sendsOnly ..) l _).creditWaits ?_
  obtain ⟨-, -, hw⟩ := originate_ports s [p] 0x11 255 1 0 q
  obtain ⟨f, hf, htype, hdst, hpay, -⟩ := hw p (List.mem_singleton_self p) hs
  exact ⟨f, hf, htype, hdst, by rw [hpay]; exact hside⟩

theorem sendAllCredits {a z : Nat} (h : a ≤ z) (l : List (Fin 2)) (s : State) : SendsOnly s (l.foldl (sendCredits a z) s) ∧
    ∀ p ∈ l, sends s p = true → CreditWaits (l.foldl (sendCredits a z) s) p := by
  induction l generalizing s with
  | nil => exact ⟨.refl s, fun p hp => nomatch hp⟩
  | cons b l ih =>
    have hb := sendCredits_sendsOnly a z s b
    obtain ⟨hl, hw⟩ := ih (sendCredits a z s b)
    refine ⟨hb.trans hl, fun p hp hs => ?_⟩
    rcases List.mem_cons.1 hp with rfl | hp
    · exact hl.creditWaits (sendCredits_waits h hs)
    · exact hw p hp (by rw [hb.sends]; exact hs)

/-- In address order the first pod of a list stands not behind the last. -/
theorem head_le_last {l : List Node} (hp : l.Pairwise fun a b => a.addr < b.addr) {a z : Node} (ha : l.head? = some a) (hz : l.getLast? = some z) :
    a.addr.toNat ≤ z.addr.toNat := by
  cases l with
  | nil => nomatch ha
  | cons b l =>
    obtain rfl := Option.some.inj ha
    have hm := List.mem_of_getLast? hz
    rcases List.mem_cons.1 hm with rfl | hm
    · exact le_rfl
    · exact Nat.le_of_lt ((List.pairwise_cons.1 hp).1 z hm)

/-- From `s` to `t` CREDIT_SEND has granted, the records of the pods being those that `after` gives. -/
structure CreditsSent (s t : State) (after : Node → Node) : Prop where
  rest : t = { s with course := t.course }
  credited : t.course.credited = true
  nodes : t.course.nodes = s.course.nodes.map after
  waits : ∀ p ∈ usedPorts s, sends s p = true → CreditWaits t p

theorem execCreditSend_spec {s : State} (hr : s.role = .head) (ha : isActive s = true) (hd : creditDue s = true) (h : ∃ n ∈ s.course.nodes, swept n = true)
    (hp : s.course.nodes.Pairwise fun a b => a.addr < b.addr) : ∃ t, exec .creditSend s = .next t ∧ CreditsSent s t (creditAfter s) := by
  obtain ⟨a, z, -, ha', hz, he⟩ := execCreditSend_sends hr ha hd h
  obtain ⟨ho, hw⟩ := sendAllCredits (head_le_last (hp.sublist List.filter_sublist) ha' hz) (usedPorts (creditGranted s)) (creditGranted s)
  refine ⟨_, he, ?_⟩
  generalize List.foldl _ _ _ = t at ho hw
  have hg : creditGranted s = { s with course := (creditGranted s).course } := rfl
  have hrest := ho.rest
  refine ⟨?_, ?_, ?_, fun p hp hs => hw p hp hs⟩
  · rw [hrest, hg]
  · exact (congrArg (·.course.credited) hrest).trans rfl
  · exact (congrArg (·.course.nodes) hrest).trans rfl

end Sys2Proof.Machine

namespace Sys2Proof.Machine

/-! The path of a record, of any node (R673): what it may write beside the store, and the events it keeps. -/

/-- From `s` to `t` records have taken their path, and no pending event is lost. -/
structure RecordGoes (s t : State) : Prop where
  only : t = { s with freeCount := t.freeCount, results := t.results, spill := t.spill, mere := t.mere, cal := t.cal, events := t.events, log := t.log
                      course := { s.course with ports := t.course.ports, seqs := t.course.seqs, pod := t.course.pod } }
  stays : PendingStays s t

theorem RecordGoes.refl (s : State) : RecordGoes s s := ⟨rfl, ⟨fun _ h => h⟩⟩

theorem RecordGoes.trans {s t u : State} (h : RecordGoes s t) (k : RecordGoes t u) : RecordGoes s u where
  only := by
    have k1 := k.only
    rw [k1, h.only]
  stays := h.stays.trans k.stays

theorem RecordGoes.of_rules {s t : State} (h : RulesOnly s t) (hs : PendingStays s t) : RecordGoes s t := by
  unfold RulesOnly at h
  exact ⟨by rw [h], hs⟩

theorem RecordGoes.of_record {s t : State} (h : RecordOnly s t) (he : t.events = s.events) : RecordGoes s t := by
  unfold RecordOnly at h
  exact ⟨by rw [h], ⟨fun n hn => by rw [he]; exact hn⟩⟩

theorem RulesOnly.goes {s t : State} (h : RulesOnly s t) (he : t.events = s.events) : RecordGoes s t :=
  .of_rules h ⟨fun n hn => by rw [he]; exact hn⟩

theorem RecordGoes.step {s t u : State} {c : Prop} [Decidable c] (h : RecordGoes s t) (k : RecordGoes t u) : RecordGoes s (if c then u else t) := by
  split
  · exact h.trans k
  · exact h

theorem raise_goesOn (s : State) (ev : Fin 32) (arg : Nat) : RecordGoes s (raise s ev arg) := ⟨rfl, raise_stays ⟨fun _ h => h⟩ ev arg⟩

theorem logAlarm_goesOn (s : State) (kind node : Byte) (code arg : Nat) (data : List Byte) : RecordGoes s (logAlarm s kind node code arg data) :=
  .of_rules (logAlarm_log (.refl s) kind node code arg data).rulesOnly (logAlarm_stays ⟨fun _ h => h⟩ ..)

theorem PinsOnly.goesOn {s t : State} (h : PinsOnly s t) : RecordGoes s t := h.rulesOnly.goes (by rw [h.1])

theorem chainChanged_goesOn (s : State) : RecordGoes s (chainChanged s) :=
  .of_rules (chainChanged_follows s).only (chainChanged_page s).stays

theorem ruleOutputs_goesOn (s : State) (k : Nat) : RecordGoes s (ruleOutputs s k) := by
  have he (x : State) (n : Fin 2) : RecordGoes x (endHold x n) := ⟨rfl, ⟨fun _ h => h⟩⟩
  unfold ruleOutputs
  extract_lets t u v
  have ht : RecordGoes s t := (RecordGoes.refl s).step (he s 0)
  have hu : RecordGoes s u := ht.step (he t 1)
  have hv : RecordGoes s v := hu.step (chainChanged_goesOn u)
  exact hv.trans (refreshOutputs_pins v).goesOn

theorem setRule_goesOn (s : State) (k : Fin 256) (new : RuleState) (first : Bool) : RecordGoes s (setRule s k new first) := by
  unfold setRule
  extract_lets r was now r' spill t u ev v w
  split
  · exact .refl s
  · have ht : RecordGoes s t := ⟨rfl, ⟨fun _ h => h⟩⟩
    have hu : RecordGoes s u := ht.trans (logAlarm_goesOn t ..)
    have hv : RecordGoes s v := hu.step (raise_goesOn u ..)
    have hw : RecordGoes s w := hv.step (raise_goesOn v ..)
    exact hw.step (ruleOutputs_goesOn w k.val)

theorem evaluate_goesOn (s : State) (k : Fin 256) (setm clrm : Bool) (v : F32) : RecordGoes s (evaluate s k setm clrm v []) := by
  rw [evaluate_agreeing]
  exact .trans (t := { s with spill := { s.spill with rules := s.spill.rules.set k.val (judgedNow s k setm clrm v).2 } }) ⟨rfl, ⟨fun _ h => h⟩⟩
    (setRule_goesOn ..)

theorem evalRecord_goesOn (s : State) (k : Fin 256) (r : Record) : RecordGoes s (evalRecord s k r []) := by
  unfold evalRecord
  split
  · exact .refl s
  · dsimp only
    split
    · exact evaluate_goesOn ..
    · exact evaluate_goesOn ..
    · exact evaluate_goesOn ..

theorem spillRecord_goesOn (s : State) (r : Record) (w : Rat) : RecordGoes s (spillRecord s r w []).1 := by
  unfold spillRecord
  split
  · exact .refl s
  · extract_lets ks u t
    have hu : RecordGoes s u := by
      unfold u
      split
      · exact foldl_rel RecordGoes .refl .trans _ (fun s k => (accumulate_rules s k r w).goes rfl) ks s
      · exact .refl s
    have ht : RecordGoes s t := hu.trans (foldl_rel RecordGoes .refl .trans _ (fun s k => evalRecord_goesOn s k r) ks u)
    split
    · exact ht
    · exact ht

theorem ratioNote_goesOn (s : State) (n : Fin 2) : RecordGoes s (ratioNote s n) := by
  refine (ratioNote_rules s n).goes ?_
  unfold ratioNote
  dsimp only
  split <;> rfl

theorem calCollect_goesOn (s : State) (r : Record) : RecordGoes s (calCollect s r) := by
  refine .of_record (calCollect_record s r) ?_
  unfold calCollect
  split
  · rfl
  · dsimp only
    split <;> rfl

theorem mereDisturbed_goesOn (s : State) (cause : Byte) : RecordGoes s (mereDisturbed s cause) := by
  unfold mereDisturbed
  dsimp only
  split
  · exact ⟨rfl, ⟨fun _ h => h⟩⟩
  · exact .trans (t := { s with mere := { s.mere with episode := true, disturbed := true, cause := cause } }) ⟨rfl, ⟨fun _ h => h⟩⟩ (raise_goesOn ..)

theorem encEmit_goesOn (s : State) (e : Fin 64) (isUp : Bool) (ev : MereEvent) : RecordGoes s (encEmit s e isUp ev) := by
  unfold encEmit
  extract_lets x full x1 x2 m u
  have hslot : RecordGoes s u := ⟨rfl, ⟨fun _ h => h⟩⟩
  split
  · exact (hslot.trans (t := u) (u := { u with mere := { u.mere with lastCoalesce := some (u.time.count, u.time.era) } }) ⟨rfl, ⟨fun _ h => h⟩⟩).trans
      (mereDisturbed_goesOn ..)
  · exact hslot

theorem encoders_goesOn (s : State) (x : Vector Encoder 64) : RecordGoes s { s with mere := { s.mere with encoders := x } } := ⟨rfl, ⟨fun _ h => h⟩⟩

theorem encTake_goesOn (s : State) (e : Fin 64) (v : F32) : RecordGoes s (encTake s e v) := by
  have hsend (x : Vector Encoder 64) (isUp : Bool) (w : Int) (ev : MereEvent) : RecordGoes s
      (if w = 0 then { s with mere := { s.mere with encoders := x } } else encEmit { s with mere := { s.mere with encoders := x } } e isUp ev) := by
    split
    · exact encoders_goesOn s x
    · exact (encoders_goesOn s x).trans (encEmit_goesOn ..)
  unfold encTake
  extract_lets p x l cap d h dv ku put kd send
  split
  · exact encoders_goesOn ..
  · split
    · exact hsend ..
    · split
      · exact hsend ..
      · exact .refl s

theorem encodeRecord_goesOn (s : State) (r : Record) : RecordGoes s (encodeRecord s r) := by
  unfold encodeRecord
  split
  · exact .refl s
  · refine foldl_rel RecordGoes .refl .trans _ (fun s e => ?_) _ s
    split
    · exact encTake_goesOn ..
    · exact .refl s

theorem modEntry_goesOn (s : State) (v : Vcn) (f : VcnEntry → VcnEntry) : RecordGoes s (modEntry s v f) := ⟨rfl, ⟨fun _ h => h⟩⟩

theorem recordKept_goesOn (s : State) (r : Record) : RecordGoes s (recordKept s r) := by
  have hput : RecordGoes s (recordPut s r) := (modEntry_goesOn s ..).trans (foldl_rel RecordGoes .refl .trans _ ratioNote_goesOn _ _)
  have hspill : RecordGoes s (recordSpilled s r).1 := hput.trans (spillRecord_goesOn ..)
  exact (hspill.trans (modEntry_goesOn ..)).trans (foldl_rel RecordGoes .refl .trans _ (fun x n => (refreshAout_pins x n).goesOn) _ _)

theorem keepRecord_goesOn (s : State) (r : Record) : RecordGoes s (keepRecord s r []) := by
  have hcal : RecordGoes s (calCollect (encodeRecord (recordKept s r) (recordSpilled s r).2) (recordSpilled s r).2) :=
    ((recordKept_goesOn s r).trans (encodeRecord_goesOn ..)).trans (calCollect_goesOn ..)
  show RecordGoes s (if ((calCollect (encodeRecord (recordKept s r) (recordSpilled s r).2) (recordSpilled s r).2).role == .pod) = true then _ else _)
  split
  · exact hcal.trans ⟨rfl, ⟨fun _ h => h⟩⟩
  · exact hcal

theorem storeRecord_goesOn (s : State) (r : Record) : RecordGoes s (storeRecord s r []) := by
  unfold storeRecord
  split
  · exact .refl s
  · split
    · exact .trans (.of_rules (logRecord_log (.refl s) 0x04 r).rulesOnly (logRing_stays ⟨fun _ h => h⟩ _)) (calCollect_goesOn ..)
    · exact keepRecord_goesOn s r

/-! The record that a VCN then holds. -/

/-- The results once a record is kept, which may have taken LATE or INBAND on its way. -/
theorem keepRecord_results (s : State) (r : Record) : ∃ k, SameRecord r k ∧ (keepRecord s r []).results =
    (modEntry (modEntry s r.vcn (putRecord (lateForm s r))) r.vcn fun e => { e with record := some k }).results := by
  have hput : RulesOnly (modEntry s r.vcn (putRecord (lateForm s r))) (recordPut s r) := by
    unfold recordPut
    rw [lateForm_vcn]
    exact foldl_rel RulesOnly .refl .trans _ ratioNote_rules _ _
  obtain ⟨hspill, hsame⟩ := spillRecord_rules (recordPut s r) (lateForm s r)
    (vcnUsAt (recordPut s r) (lateForm s r).vcn (nearTime (recordPut s r) (lateForm s r).time) : Rat)
  change RulesOnly (recordPut s r) (recordSpilled s r).1 at hspill
  change SameRecord (lateForm s r) (recordSpilled s r).2 at hsame
  have hvcn : (recordSpilled s r).2.vcn = r.vcn := (congrArg Record.vcn hsame.rest).trans (lateForm_vcn s r)
  have hkept : (recordKept s r).results = (modEntry (recordSpilled s r).1 r.vcn fun e => { e with record := some (recordSpilled s r).2 }).results := by
    unfold recordKept
    rw [hvcn]
    exact (foldl_rel RulesOnly .refl .trans _ refreshAout_rules _ _).results
  have hlast : (keepRecord s r []).results = (recordKept s r).results := by
    have hcal := (calCollect_results (encodeRecord (recordKept s r) (recordSpilled s r).2) (recordSpilled s r).2).trans
      (congrArg Quiet.results (encodeRecord_quiet (recordKept s r) (recordSpilled s r).2))
    show State.results (if ((calCollect (encodeRecord (recordKept s r) (recordSpilled s r).2) (recordSpilled s r).2).role == .pod) = true then _ else _) = _
    split
    · exact hcal
    · exact hcal
  refine ⟨_, (lateForm_same s r).trans hsame, ?_⟩
  rw [hlast, hkept]
  exact congrArg (List.map _) (hspill.results.trans hput.results)

/-- The entry of a known VCN holds the record kept. -/
theorem keepRecord_kept {s : State} {r : Record} {e : VcnEntry} (he : entryOf s r.vcn = some e) :
    ∃ e' k, entryOf (keepRecord s r []) r.vcn = some e' ∧ e'.record = some k ∧ SameRecord r k := by
  obtain ⟨k, hk, hr⟩ := keepRecord_results s r
  refine ⟨{ putRecord (lateForm s r) e with record := some k }, k, ?_, rfl, hk⟩
  rw [entryOf_of_results hr, entryOf_modEntry, if_pos rfl, entryOf_modEntry, if_pos rfl, he]
  rfl

/-! MISSING records (R636). -/

/-- The VCN reads MISSING. -/
def ReadsMissing (t : State) (v : Vcn) : Prop :=
  ∃ e q, entryOf t v = some e ∧ e.record = some q ∧ q.status.getLsbD 7 = true ∧ isValid q.status = false

theorem missingRecord_record (s : State) (v : Vcn) (e : VcnEntry) : (missingRecord s v e).1.vcn = v ∧ (missingRecord s v e).1.status = setFlag 0 7 ∧
    heldLater e (missingRecord s v e).1 = false := by
  unfold missingRecord heldLater
  cases he : e.record with
  | none => exact ⟨rfl, rfl, rfl⟩
  | some old =>
    refine ⟨rfl, rfl, ?_⟩
    dsimp only
    rw [BitVec.sub_self]
    rfl

/-- One VCN of a node that has not reported. -/
def writeMissingOne (s : State) (v : Vcn) : State :=
  match entryOf s v with
  | none => s
  | some e => storeRecord (missingRecord s v e).2 (missingRecord s v e).1 []

theorem writeMissing_eq (s : State) (node : Nat) :
    writeMissing [] s node = ((s.results.map (·.1)).filter fun v => vcnNode v == node).foldl writeMissingOne s := rfl

theorem writeMissingOne_goesOn (s : State) (v : Vcn) : RecordGoes s (writeMissingOne s v) := by
  unfold writeMissingOne
  split
  · exact .refl s
  next e _ =>
    refine .trans (t := (missingRecord s v e).2) ?_ (storeRecord_goesOn ..)
    rw [missingRecord_free]
    exact ⟨rfl, ⟨fun _ h => h⟩⟩

theorem writeMissing_goesOn (s : State) (node : Nat) : RecordGoes s (writeMissing [] s node) := by
  rw [writeMissing_eq]
  exact foldl_rel RecordGoes .refl .trans _ writeMissingOne_goesOn _ s

theorem writeMissingOne_other {s : State} {v u : Vcn} (h : u ≠ v) : entryOf (writeMissingOne s v) u = entryOf s u := by
  unfold writeMissingOne
  split
  · rfl
  next e _ =>
    rw [(storeRecord_entryOnly (missingRecord s v e).2 (missingRecord s v e).1).entry (by rw [(missingRecord_record s v e).1]; exact h)]
    exact entryOf_of_results (by rw [missingRecord_free]) u

theorem writeMissingOne_reads {s : State} {v : Vcn} {e : VcnEntry} (he : entryOf s v = some e) : ReadsMissing (writeMissingOne s v) v := by
  obtain ⟨hv, hst, hl⟩ := missingRecord_record s v e
  have hf := missingRecord_free s v e
  unfold writeMissingOne
  rw [he]
  dsimp only
  generalize missingRecord s v e = x at hv hst hl hf ⊢
  obtain ⟨r, t⟩ := x
  dsimp only at hv hst hl hf ⊢
  subst hv
  have ht : entryOf t r.vcn = some e := (entryOf_of_results (by rw [hf]) r.vcn).trans he
  have hs : storeRecord t r [] = keepRecord t r [] := by
    unfold storeRecord
    rw [ht]
    exact if_neg (by rw [hl]; decide)
  rw [hs]
  obtain ⟨e', k, he', hk, hsame⟩ := keepRecord_kept ht
  refine ⟨e', k, he', hk, ?_, ?_⟩
  · rw [hsame.status 7 (by decide) (by decide), hst]
    rfl
  · unfold isValid
    rw [hsame.status 0 (by decide) (by decide), hst]
    rfl

theorem ReadsMissing.of_entry {s t : State} {v : Vcn} (h : ReadsMissing s v) (he : entryOf t v = entryOf s v) : ReadsMissing t v := by
  obtain ⟨e, q, h1, h2⟩ := h
  exact ⟨e, q, he.trans h1, h2⟩

theorem writeMissingOne_still {s : State} {v : Vcn} (u : Vcn) (h : ReadsMissing s u) : ReadsMissing (writeMissingOne s v) u := by
  by_cases hu : u = v
  · obtain ⟨e, -, he, -⟩ := h
    subst hu
    exact writeMissingOne_reads he
  · exact h.of_entry (writeMissingOne_other hu)

theorem foldl_writeMissing (l : List Vcn) (s : State) : (∀ u, ReadsMissing s u → ReadsMissing (l.foldl writeMissingOne s) u) ∧
    (∀ u, u ∉ l → entryOf (l.foldl writeMissingOne s) u = entryOf s u) ∧
    ∀ u e, u ∈ l → entryOf s u = some e → ReadsMissing (l.foldl writeMissingOne s) u := by
  induction l generalizing s with
  | nil => exact ⟨fun _ h => h, fun _ _ => rfl, fun u e hu => nomatch hu⟩
  | cons v l ih =>
    obtain ⟨h1, h2, h3⟩ := ih (writeMissingOne s v)
    refine ⟨fun u h => h1 u (writeMissingOne_still u h), fun u hu => ?_, fun u e hu he => ?_⟩
    · rw [List.mem_cons, not_or] at hu
      exact (h2 u hu.2).trans (writeMissingOne_other hu.1)
    · by_cases huv : u = v
      · subst huv
        exact h1 u (writeMissingOne_reads he)
      · exact h3 u e ((List.mem_cons.1 hu).resolve_left huv) ((writeMissingOne_other huv).trans he)

theorem entryOf_mem {s : State} {v : Vcn} {e : VcnEntry} (h : entryOf s v = some e) : v ∈ s.results.map (·.1) := by
  by_contra hn
  have hnone : entryOf s v = none := by
    unfold entryOf
    rw [List.lookup_eq_none_iff]
    intro p hp
    rw [bne_iff_ne]
    exact fun heq => hn (heq ▸ List.mem_map_of_mem hp)
  exact nomatch hnone.symm.trans h

/-- Every VCN of the node reads MISSING; those of another keep their entries. -/
theorem writeMissing_spec (s : State) (node : Nat) : (∀ v e, vcnNode v = node → entryOf s v = some e → ReadsMissing (writeMissing [] s node) v) ∧
    ∀ v, vcnNode v ≠ node → entryOf (writeMissing [] s node) v = entryOf s v := by
  obtain ⟨-, h2, h3⟩ := foldl_writeMissing ((s.results.map (·.1)).filter fun v => vcnNode v == node) s
  rw [writeMissing_eq]
  exact ⟨fun v e hv he => h3 v e (List.mem_filter.2 ⟨entryOf_mem he, beq_iff_eq.2 hv⟩) he,
    fun v hv => h2 v fun hm => hv (beq_iff_eq.1 (List.mem_filter.1 hm).2)⟩

end Sys2Proof.Machine

namespace Sys2Proof.Machine

/-! Breaks at the end of a sweep (R638, R639). -/

/-- From `s` to `t` no code but 0x17 and 0x18 becomes active, and no pending event is lost. -/
structure ChainCodes (s t : State) : Prop where
  codes : ∀ i, t.ks.active.getLsbD i = true → s.ks.active.getLsbD i = true ∨ i = 0x17 ∨ i = 0x18
  stays : PendingStays s t

theorem ChainCodes.of_active {s t : State} (h : t.ks.active = s.ks.active) (k : PendingStays s t) : ChainCodes s t :=
  ⟨fun i hi => .inl (by rw [← h]; exact hi), k⟩

theorem ChainCodes.of_same {s t : State} (h : t.ks.active = s.ks.active) (k : t.events = s.events) : ChainCodes s t :=
  .of_active h ⟨fun n hn => by rw [k]; exact hn⟩

theorem ChainCodes.trans {s t u : State} (h : ChainCodes s t) (k : ChainCodes t u) : ChainCodes s u where
  codes i hi := (k.codes i hi).elim (h.codes i) .inr
  stays := h.stays.trans k.stays

/-- The active codes after a declaration: those before, and its own. -/
theorem declareEvent_codes (s : State) (code : Fin 28) (arg evArg : Nat) (masked : Bool) (i : Nat) :
    (declareEvent s code arg evArg masked).ks.active.getLsbD i = true ↔ s.ks.active.getLsbD i = true ∨ i = code.val := by
  cases h : faultActive s code with
  | true =>
    unfold declareEvent
    rw [if_pos h]
    exact ⟨.inl, fun x => x.elim id fun hi => hi ▸ h⟩
  | false =>
    unfold declareEvent
    rw [if_neg (by rw [h]; decide), (declareWith_new s code arg evArg masked h).1, BitVec.getLsbD_or, Bool.or_eq_true, BitVec.getLsbD_ofNat]
    refine or_congr_right ?_
    by_cases hi : i = code.val
    · rw [hi, Nat.testBit_two_pow_self, decide_eq_true (show code.val < 32 by omega)]
      simp
    · rw [Nat.testBit_two_pow_of_ne (Ne.symm hi), Bool.and_false]
      simp [hi]

theorem declareEvent_chain (s : State) {code : Fin 28} (hc : code.val = 0x17 ∨ code.val = 0x18) (arg evArg : Nat) (masked : Bool) :
    ChainCodes s (declareEvent s code arg evArg masked) where
  codes i hi := ((declareEvent_codes s code arg evArg masked i).1 hi).imp_right fun h => by rw [h]; exact hc
  stays := (declareEvent_pending ..).2

theorem clearFault_chain (s : State) (code : Fin 28) : ChainCodes s (clearFault s code) where
  codes i hi := by
    rw [clearFault_ks, BitVec.getLsbD_and, Bool.and_eq_true] at hi
    exact .inl hi.1
  stays := ⟨fun n hn => by rw [clearFault_only]; exact hn⟩

/-- What the break positions change before a break is reported: the positions, the breaks of before a reset, and a ring that opens. -/
def breaksNoted (s : State) (a b : Byte) : State :=
  let t : State := { s with course := { s.course with break0 := a, break1 := b }, ks := { s.ks with oldBreaks := stillOpen s a b } }
  if s.course.ringClosed && !(a == 0xFF && b == 0xFF) then openRing t else t

/-- A break reported on a condition. -/
def reportIf (c : Bool) (s : State) (side : Fin 2) (b : Byte) : State := if c then reportBreak s side b else s

theorem reportIf_fault {s : State} (h : (cfgSafeMask s).getLsbD 0x18 = false) (c : Bool) (side : Fin 2) (b : Byte) :
    FaultOnly s (reportIf c s side b) ∧ ChainCodes s (reportIf c s side b) := by
  cases c with
  | true => exact ⟨declareEvent_unmasked h .., declareEvent_chain s (.inr rfl) ..⟩
  | false => exact ⟨.refl s, .of_same rfl rfl⟩

theorem reportBreak_reported (s : State) (side : Fin 2) (b : Byte) :
    faultActive (reportBreak s side b) 0x18 = true ∧ (reportBreak s side b).events.pending.getLsbD 21 = true :=
  ⟨declareEvent_active .., (declareEvent_pending s 0x18 _ _ _).1⟩

/-- The position of a side's break as located, on a used port. -/
def breakFound (s : State) (side : Fin 2) : Byte := if (usedPorts s).contains side then breakOn s side else 0xFF

/-- A break on C0 that is not the one known. -/
def newBreak0 (s : State) : Bool :=
  breakFound s 0 != 0xFF && breakFound s 0 != s.course.break0 && !sameBreak s (breakFound s 0) s.course.break1 &&
    !s.ks.oldBreaks.contains (0, breakFound s 0)

/-- A break on C1 that is not the one known. -/
def newBreak1 (s : State) : Bool :=
  breakFound s 1 != 0xFF && breakFound s 1 != s.course.break1 && !sameBreak s (breakFound s 0) (breakFound s 1) &&
    !sameBreak s s.course.break0 (breakFound s 1) && !s.ks.oldBreaks.contains (1, breakFound s 1)

/-- Breaks located and reported, before code 0x18 clears. -/
def breaksReported (s : State) : State :=
  reportIf (newBreak1 s) (reportIf (newBreak0 s) (breaksNoted s (breakFound s 0) (breakFound s 1)) 0 (breakFound s 0)) 1 (breakFound s 1)

theorem locateBreaks_eq (s : State) : locateBreaks s =
    if (breakFound s 0 == 0xFF && breakFound s 1 == 0xFF) && (breaksReported s).ks.oldBreaks == [] && faultActive (breaksReported s) 0x18 then
      clearFault (breaksReported s) 0x18
    else breaksReported s := rfl

/-- A node record with another side. -/
structure Resided (n m : Node) : Prop where
  only : m = { n with side := m.side, delayWanted := m.delayWanted }

/-- The breaks of `s` are located in `t`. -/
structure BreaksLocated (s t : State) : Prop where
  only : t = { s with events := t.events, log := t.log, ks := t.ks, modes := t.modes
                      course := { s.course with break0 := t.course.break0, break1 := t.course.break1, ringClosed := t.course.ringClosed, n := t.course.n
                                                nodes := t.course.nodes } }
  staysOpen : s.course.ringClosed = false → t.course.ringClosed = false
  nodes : ∃ f : Node → Node, t.course.nodes = s.course.nodes.map f ∧ (∀ n, Resided n (f n)) ∧
    (s.course.ringClosed = false ∨ t.course.ringClosed = true → ∀ n, f n = n)
  faults : ChainCodes s t

theorem breaksNoted_located (s : State) (a b : Byte) : BreaksLocated s (breaksNoted s a b) := by
  unfold breaksNoted
  dsimp only
  split
  · next h =>
    rw [Bool.and_eq_true] at h
    exact ⟨rfl, fun _ => rfl, ⟨_, rfl, fun n => ⟨rfl⟩, fun hr => absurd hr (by rw [h.1]; exact fun x => x.elim nofun nofun)⟩, .of_same rfl rfl⟩
  · exact ⟨rfl, id, ⟨id, (List.map_id _).symm, fun n => ⟨rfl⟩, fun _ _ => rfl⟩, .of_same rfl rfl⟩

theorem BreaksLocated.step {s t u : State} (h : BreaksLocated s t)
    (k : u = { t with events := u.events, log := u.log, ks := u.ks, modes := u.modes }) (hc : ChainCodes t u) : BreaksLocated s u := by
  obtain ⟨ho, hopen, hn, hf⟩ := h
  have hcourse : u.course = t.course := by rw [k]
  rw [← hcourse] at ho hopen hn
  exact ⟨by rw [k, ho], hopen, hn, hf.trans hc⟩

theorem FaultOnly.with_modes {s t : State} (h : FaultOnly s t) : t = { s with events := t.events, log := t.log, ks := t.ks, modes := t.modes } := by
  unfold FaultOnly at h
  rw [h]

theorem breaksReported_located {s : State} (hm : (cfgSafeMask s).getLsbD 0x18 = false) : BreaksLocated s (breaksReported s) := by
  have hmask {x : State} (h : BreaksLocated s x) : (cfgSafeMask x).getLsbD 0x18 = false := by
    rw [h.only]
    exact hm
  have h0 := breaksNoted_located s (breakFound s 0) (breakFound s 1)
  have h1 := reportIf_fault (hmask h0) (newBreak0 s) 0 (breakFound s 0)
  have h1 := h0.step h1.1.with_modes h1.2
  have h2 := reportIf_fault (hmask h1) (newBreak1 s) 1 (breakFound s 1)
  exact h1.step h2.1.with_modes h2.2

theorem locateBreaks_located {s : State} (hm : (cfgSafeMask s).getLsbD 0x18 = false) : BreaksLocated s (locateBreaks s) := by
  have h := breaksReported_located hm
  rw [locateBreaks_eq]
  split
  · refine h.step ?_ (clearFault_chain ..)
    rw [clearFault_only]
  · exact h

/-! Loss of signal at the head that no pod shows (R638). -/

/-- Port C0 of the head has no signal, which no pod of a known chain shows, and no test is the reason. -/
structure LossAtHead (s : State) : Prop where
  used : (0 : Fin 2) ∈ usedPorts s
  los : s.course.ports[(0 : Fin 2)].los = true
  unseen : ∀ n ∈ s.course.nodes, n.los0 = false ∧ n.los1 = false
  known : ∃ n ∈ s.course.nodes, n.state = .joined
  untested : s.course.remote = none

theorem LossAtHead.found {s : State} (h : LossAtHead s) : breakFound s 0 = 0 := by
  have hpods : s.course.nodes.filter (breakPod s 0) = [] := by
    refine List.filter_eq_nil_iff.2 fun n hn => ?_
    obtain ⟨h0, h1⟩ := h.unseen n hn
    simp [breakPod, showsLoss, h0, h1]
  have hknown : (s.course.nodes.any fun n => n.state == .joined || n.state == .lost) = true := by
    obtain ⟨n, hn, hj⟩ := h.known
    exact List.any_eq_true.2 ⟨n, hn, by rw [hj]; rfl⟩
  have hboth : (s.course.nodes.any fun n => swept n && n.reported && n.los0 && n.los1) = false := by
    refine List.any_eq_false.2 fun n hn => ?_
    simp [(h.unseen n hn).1]
  unfold breakFound breakOn testEnd
  rw [if_pos (List.contains_iff_mem.2 h.used), hpods, h.los, h.untested, hknown, hboth]
  rfl

/-- Located, it is a break between the head and the first pod: reported, with the ring open. -/
theorem LossAtHead.located {s : State} (h : LossAtHead s) (h0 : s.course.break0 ≠ 0) (h1 : s.course.break1 = 0xFF) (ho : s.ks.oldBreaks = [])
    (hm : (cfgSafeMask s).getLsbD 0x18 = false) :
    (locateBreaks s).course.break0 = 0 ∧ (locateBreaks s).course.ringClosed = false ∧
      (s.course.ringClosed = true → (locateBreaks s).course.n = 0) ∧ faultActive (locateBreaks s) 0x18 = true ∧
      (locateBreaks s).events.pending.getLsbD 21 = true := by
  have hf := h.found
  have hnew : newBreak0 s = true := by
    unfold newBreak0 sameBreak
    rw [hf, h1, ho]
    simpa using Ne.symm h0
  have hloc : locateBreaks s = breaksReported s := by
    rw [locateBreaks_eq, hf]
    exact if_neg (by rw [show ((0 : Byte) == 0xFF) = false from rfl]; simp)
  rw [hloc]
  unfold breaksReported
  rw [hnew, hf]
  have hn := breaksNoted_located s 0 (breakFound s 1)
  have hring : (breaksNoted s 0 (breakFound s 1)).course.break0 = 0 ∧ (breaksNoted s 0 (breakFound s 1)).course.ringClosed = false ∧
      (s.course.ringClosed = true → (breaksNoted s 0 (breakFound s 1)).course.n = 0) := by
    unfold breaksNoted
    dsimp only
    cases hc : s.course.ringClosed with
    | true =>
      rw [if_pos (by rw [show ((0 : Byte) == 0xFF) = false from rfl]; simp)]
      exact ⟨rfl, rfl, fun _ => rfl⟩
    | false =>
      rw [if_neg (by simp)]
      exact ⟨rfl, rfl, nofun⟩
  generalize breaksNoted s 0 (breakFound s 1) = x at hn hring ⊢
  have hxm : (cfgSafeMask x).getLsbD 0x18 = false := by
    rw [hn.only]
    exact hm
  have hr1 := (reportIf_fault hxm true 0 0).1
  obtain ⟨ha, hp⟩ := reportBreak_reported x 0 0
  change faultActive (reportIf true x 0 0) 0x18 = true at ha
  change (reportIf true x 0 0).events.pending.getLsbD 21 = true at hp
  generalize reportIf true x 0 0 = y at hr1 ha hp
  unfold FaultOnly at hr1
  have hym : (cfgSafeMask y).getLsbD 0x18 = false := by
    rw [hr1]
    exact hxm
  obtain ⟨hz, hzc⟩ := reportIf_fault hym (newBreak1 s) 1 (breakFound s 1)
  have hza : faultActive (reportIf (newBreak1 s) y 1 (breakFound s 1)) 0x18 = true := by
    unfold reportIf
    split
    · exact (reportBreak_reported ..).1
    · exact ha
  have hcourse : (reportIf (newBreak1 s) y 1 (breakFound s 1)).course = x.course := by
    unfold FaultOnly at hz
    rw [hz, hr1]
  rw [hcourse]
  exact ⟨hring.1, hring.2.1, hring.2.2, hza, hzc.stays.stays _ hp⟩

end Sys2Proof.Machine

namespace Sys2Proof.Machine

/-! The end of a sweep (R616, R636, R637): what one pod of it changes. -/

/-- In a node table by ascending address, a record of an address that stands in it takes its place. -/
theorem putNode_replaces {l : List Node} (hp : l.Pairwise fun a b => a.addr < b.addr) {n : Node} (hn : ∃ m ∈ l, m.addr = n.addr) :
    putNode n l = l.map fun m => if m.addr = n.addr then n else m := by
  induction l with
  | nil => obtain ⟨m, hm, -⟩ := hn; exact nomatch hm
  | cons m l ih =>
    rw [List.pairwise_cons] at hp
    obtain ⟨hfirst, hp⟩ := hp
    unfold putNode
    by_cases ha : n.addr = m.addr
    · have hrest : l.map (fun m => if m.addr = n.addr then n else m) = l := by
        refine (List.map_congr_left fun k hk => if_neg fun hx => ?_).trans (List.map_id l)
        exact BitVec.lt_irrefl _ (show m.addr < m.addr from (hx.trans ha) ▸ hfirst k hk)
      rw [if_neg (by rw [ha]; exact BitVec.lt_irrefl _), if_pos ha, List.map_cons, if_pos ha.symm, hrest]
    · obtain ⟨k, hk, hkn⟩ := hn
      have hk : k ∈ l := (List.mem_cons.1 hk).resolve_left fun hx => ha (hx ▸ hkn).symm
      have hlt : m.addr < n.addr := hkn ▸ hfirst k hk
      rw [if_neg (fun hx => BitVec.lt_irrefl _ (BitVec.lt_trans hlt hx)), if_neg ha, List.map_cons, if_neg (Ne.symm ha), ih hp ⟨k, hk, hkn⟩]

/-- Address and link counts of a node. -/
def nodeLinks (n : Node) : Byte × Byte × Byte := (n.addr, n.link0, n.link1)

/-- From `s` to `t` pods of a sweep have been judged at its end: no node moves in the table, no code clears, and codes 0x17 and 0x18 alone
become active. -/
structure SweepGoes (s t : State) : Prop where
  only : t = { s with freeCount := t.freeCount, results := t.results, spill := t.spill, mere := t.mere, cal := t.cal, events := t.events, log := t.log
                      ks := t.ks
                      course := { s.course with ports := t.course.ports, seqs := t.course.seqs, pod := t.course.pod, nodes := t.course.nodes
                                                service := t.course.service, rrPending := t.course.rrPending } }
  faults : ChainCodes s t
  kept : ∀ i, s.ks.active.getLsbD i = true → t.ks.active.getLsbD i = true
  links : t.course.nodes.map nodeLinks = s.course.nodes.map nodeLinks

theorem SweepGoes.refl (s : State) : SweepGoes s s := ⟨rfl, .of_same rfl rfl, fun _ h => h, rfl⟩

theorem SweepGoes.trans {s t u : State} (h : SweepGoes s t) (k : SweepGoes t u) : SweepGoes s u where
  only := by
    have k1 := k.only
    rw [k1, h.only]
  faults := h.faults.trans k.faults
  kept i hi := k.kept i (h.kept i hi)
  links := k.links.trans h.links

theorem RecordGoes.sweep {s t : State} (h : RecordGoes s t) : SweepGoes s t where
  only := by rw [h.only]
  faults := .of_active (by rw [h.only]) h.stays
  kept i hi := by rw [h.only]; exact hi
  links := by rw [h.only]

/-- The records of the head's nodes are in the order of their addresses, each once. -/
def TableOrder (s : State) : Prop := s.course.nodes.Pairwise fun a b => a.addr < b.addr

theorem tableOrder_iff (s : State) : TableOrder s ↔ (s.course.nodes.map nodeLinks).Pairwise fun a b => a.1 < b.1 :=
  (List.pairwise_map (f := nodeLinks) (R := fun a b => a.1 < b.1)).symm

theorem SweepGoes.tableOrder {s t : State} (h : SweepGoes s t) (hp : TableOrder s) : TableOrder t := by
  rw [tableOrder_iff] at hp ⊢
  rw [h.links]
  exact hp

theorem TableOrder.nodup {s : State} (h : TableOrder s) : (s.course.nodes.map (·.addr)).Nodup := by
  refine List.pairwise_map.2 (h.imp fun hlt hx => ?_)
  rw [hx] at hlt
  exact BitVec.lt_irrefl _ hlt

theorem TableOrder.unique {s : State} (h : TableOrder s) {n m : Node} (hn : n ∈ s.course.nodes) (hm : m ∈ s.course.nodes) (ha : n.addr = m.addr) : n = m :=
  List.inj_on_of_nodup_map h.nodup hn hm ha

theorem setNode_sweep {s : State} (hp : TableOrder s) {n m : Node} (hm : m ∈ s.course.nodes) (hl : nodeLinks n = nodeLinks m) : SweepGoes s (setNode s n) where
  only := rfl
  faults := .of_same rfl rfl
  kept _ hi := hi
  links := by
    have ha : m.addr = n.addr := (congrArg Prod.fst hl).symm
    rw [setNode_nodes, putNode_replaces hp ⟨m, hm, ha⟩, List.map_map]
    refine List.map_congr_left fun k hk => ?_
    show nodeLinks (if k.addr = n.addr then n else k) = nodeLinks k
    split
    · next hkn => rw [hp.unique hk hm (hkn.trans ha.symm), hl]
    · rfl

/-! Breaks and link counts as they were. -/

theorem linkAt_links (s : State) (a : Byte) (side : Fin 2) : linkAt s a side =
    (((s.course.nodes.map nodeLinks).find? fun x => x.1 == a).map fun x => (if side = 0 then x.2.1 else x.2.2).toNat).getD 0 := by
  rw [List.find?_map, Option.map_map]
  rfl

theorem SweepGoes.linkAt {s t : State} (h : SweepGoes s t) : linkAt t = linkAt s := by
  funext a side
  rw [linkAt_links, h.links, ← linkAt_links]

theorem SweepGoes.between {s t : State} (h : SweepGoes s t) (n : Node) : between t n = between s n := by
  have h0 : t.course.break0 = s.course.break0 := by rw [h.only]
  have h1 : t.course.break1 = s.course.break1 := by rw [h.only]
  unfold Machine.between reaches headSide breakAt
  rw [h.linkAt, h0, h1]

theorem SweepGoes.beyondTest {s t : State} (h : SweepGoes s t) (n : Node) : beyondTest t n = beyondTest s n := by
  unfold Machine.beyondTest
  rw [h.only]

/-! The record of a node at the end of a sweep. -/

/-- The report and all announced frames came. -/
def cameWhole (n : Node) : Bool := n.reported && n.expected ≤ n.got

/-- The node moves to its other side (R619). -/
def movesSide (s : State) (n : Node) : Bool := s.course.sweepRing && s.course.ringClosed && !cameWhole n

/-- The ACK and the side for the next sweep. -/
def sideJudged (s : State) (n : Node) : Node :=
  { n with ack := cameWhole n, side := if movesSide s n then otherPort n.side else n.side, delayWanted := n.delayWanted || movesSide s n }

/-- A ring's move excuses the missed report once (R636). -/
def spared (s : State) (n : Node) : Bool := s.course.sweepRing && !n.excused && !between s n

/-- Reports missed in a row, with this one. -/
def missedNow (s : State) (n : Node) : Nat := if beyondTest s n then 0 else min 3 (n.missedReports + 1)

/-- The record after a missed report, before the node counts as lost. -/
def missedNode (s : State) (n : Node) : Node :=
  let m := { sideJudged s n with missedReports := missedNow s n, excused := n.excused || spared s n }
  if spared s n then m else countNode m 3 1

/-- The record after the end of the sweep. -/
def endedNode (s : State) (n : Node) : Node :=
  if n.reported then { sideJudged s n with missedReports := 0, excused := false }
  else if missedNow s n = 3 then { missedNode s n with state := .lost } else missedNode s n

theorem missedNode_counted (s : State) (n : Node) :
    missedNode s n = { sideJudged s n with missedReports := missedNow s n, excused := n.excused || spared s n, counts := (missedNode s n).counts } := by
  unfold missedNode
  dsimp only
  split <;> rfl

theorem missedNode_links (s : State) (n : Node) : nodeLinks (missedNode s n) = nodeLinks n := by
  rw [missedNode_counted]
  rfl

theorem endedNode_links (s : State) (n : Node) : nodeLinks (endedNode s n) = nodeLinks n := by
  unfold endedNode
  split
  · rfl
  · split
    · exact missedNode_links s n
    · exact missedNode_links s n

theorem SweepGoes.endedNode {s t : State} (h : SweepGoes s t) (n : Node) : endedNode t n = endedNode s n := by
  have hr : t.course.sweepRing = s.course.sweepRing := by rw [h.only]
  have hc : t.course.ringClosed = s.course.ringClosed := by rw [h.only]
  have hs : sideJudged t n = sideJudged s n := by
    unfold sideJudged movesSide
    rw [hr, hc]
  have hp : spared t n = spared s n := by
    unfold spared
    rw [hr, h.between]
  have hk : missedNow t n = missedNow s n := by
    unfold missedNow
    rw [h.beyondTest]
  unfold Machine.endedNode missedNode
  rw [hs, hp, hk]

/-! A pod that is lost (R637). -/

/-- What a lost pod changes before code 0x17 is declared. -/
def nodeLost (s : State) (n : Node) : State :=
  let rr := s.course.rrPending && s.course.rrNode == n.addr
  let keep (op : ServiceOp) : Bool := match op with
    | .statusRead a _ _ => a != n.addr
  { s with
    course := { s.course with nodes := putNode { n with state := .lost } s.course.nodes, service := s.course.service.filter keep
                              rrPending := if rr then false else s.course.rrPending }
    ks := { s.ks with lostPods := (s.ks.lostPods ++ [n.addr]).eraseDups } }

theorem loseNode_eq (s : State) (n : Node) : loseNode s n = declareEvent (nodeLost s n) 0x17 n.addr.toNat n.addr.toNat false := rfl

theorem declareEvent_sweep {s : State} (h : (cfgSafeMask s).getLsbD 0x17 = false) (arg evArg : Nat) (masked : Bool) :
    SweepGoes s (declareEvent s 0x17 arg evArg masked) := by
  have hf := declareEvent_unmasked (code := 0x17) h arg evArg masked
  have hc := declareEvent_chain s (code := 0x17) (.inl rfl) arg evArg masked
  have hk (i : Nat) := declareEvent_codes s 0x17 arg evArg masked i
  unfold FaultOnly at hf
  exact ⟨by rw [hf], hc, fun i hi => (hk i).2 (.inl hi), by rw [hf]⟩

/-- A pod of the table is lost: its record says so, with EV20 and code 0x17. -/
theorem loseNode_spec {s : State} (hm : (cfgSafeMask s).getLsbD 0x17 = false) (hp : TableOrder s) {n m : Node} (hn : m ∈ s.course.nodes)
    (hl : nodeLinks n = nodeLinks m) : SweepGoes s (loseNode s n) ∧ faultActive (loseNode s n) 0x17 = true ∧
      (loseNode s n).events.pending.getLsbD 20 = true ∧ (loseNode s n).course.nodes = putNode { n with state := .lost } s.course.nodes := by
  have hset : SweepGoes s (nodeLost s n) := ⟨rfl, .of_same rfl rfl, fun _ h => h, (setNode_sweep hp (n := { n with state := .lost }) hn hl).links⟩
  have hd := declareEvent_sweep (s := nodeLost s n) hm n.addr.toNat n.addr.toNat false
  rw [loseNode_eq]
  refine ⟨hset.trans hd, declareEvent_active .., (declareEvent_pending (nodeLost s n) 0x17 _ _ _).1, ?_⟩
  have hf := declareEvent_unmasked (s := nodeLost s n) (code := 0x17) hm n.addr.toNat n.addr.toNat false
  unfold FaultOnly at hf
  rw [hf]
  rfl

/-! The end of a sweep for one pod. -/

/-- What a missed report leaves, before the pod counts as lost. -/
def missedReport (s : State) (n : Node) : State :=
  if spared s n then setNode s (missedNode s n) else writeMissing [] (setNode s (missedNode s n)) n.addr.toNat

theorem endNode_of_none {s : State} {a : Byte} (h : (s.course.nodes.find? fun n => n.addr == a && swept n) = none) : endNode [] s a = s := by
  unfold endNode
  rw [h]

theorem endNode_found {s : State} {n : Node} (h : (s.course.nodes.find? fun m => m.addr == n.addr && swept m) = some n) : endNode [] s n.addr =
    if n.reported then setNode s { sideJudged s n with missedReports := 0, excused := false }
    else if missedNow s n = 3 then loseNode (missedReport s n) (missedNode s n) else missedReport s n := by
  unfold endNode
  rw [h]
  rfl

theorem missedReport_goes {s : State} (hp : TableOrder s) {n : Node} (hn : n ∈ s.course.nodes) : SweepGoes s (missedReport s n) ∧
    (missedReport s n).course.nodes = putNode (missedNode s n) s.course.nodes := by
  have hset := setNode_sweep hp hn (missedNode_links s n)
  unfold missedReport
  split
  · exact ⟨hset, rfl⟩
  · have hw := writeMissing_goesOn (setNode s (missedNode s n)) n.addr.toNat
    exact ⟨hset.trans hw.sweep, by rw [hw.only]; rfl⟩

/-- The end of the sweep for a pod of it. -/
structure NodeEnded (s t : State) (n : Node) : Prop where
  goes : SweepGoes s t
  nodes : t.course.nodes = putNode (endedNode s n) s.course.nodes
  missing : n.reported = false → spared s n = false → ∀ v e, vcnNode v = n.addr.toNat → entryOf s v = some e → ReadsMissing t v
  others : ∀ v, vcnNode v ≠ n.addr.toNat → entryOf t v = entryOf s v
  lost : n.reported = false → missedNow s n = 3 → faultActive t 0x17 = true ∧ t.events.pending.getLsbD 20 = true

theorem loseNode_results {s : State} (hm : (cfgSafeMask s).getLsbD 0x17 = false) (n : Node) : (loseNode s n).results = s.results := by
  have hf := declareEvent_unmasked (s := nodeLost s n) (code := 0x17) hm n.addr.toNat n.addr.toNat false
  unfold FaultOnly at hf
  rw [loseNode_eq, hf]
  rfl

theorem missedReport_entries (s : State) (n : Node) :
    (spared s n = false → ∀ v e, vcnNode v = n.addr.toNat → entryOf s v = some e → ReadsMissing (missedReport s n) v) ∧
      ∀ v, vcnNode v ≠ n.addr.toNat → entryOf (missedReport s n) v = entryOf s v := by
  have hw := writeMissing_spec (setNode s (missedNode s n)) n.addr.toNat
  unfold missedReport
  cases spared s n with
  | true => exact ⟨nofun, fun _ _ => rfl⟩
  | false => exact ⟨fun _ => hw.1, hw.2⟩

theorem putNode_again {l : List Node} {n m : Node} (ha : m.addr = n.addr) : putNode m (putNode n l) = putNode m l := by
  have hfirst (r : List Node) : putNode m (n :: r) = m :: r := by
    rw [putNode, if_neg (by rw [ha]; exact BitVec.lt_irrefl _), if_pos ha]
  induction l with
  | nil => exact hfirst []
  | cons k l ih =>
    rw [putNode, putNode, ha]
    split
    · exact hfirst _
    · split
      · exact hfirst _
      · next h1 h2 => rw [putNode, ha, if_neg h1, if_neg h2, ih]

theorem endNode_ended {s : State} (hm : (cfgSafeMask s).getLsbD 0x17 = false) (hp : TableOrder s) {n : Node} (hn : n ∈ s.course.nodes)
    (h : (s.course.nodes.find? fun m => m.addr == n.addr && swept m) = some n) : NodeEnded s (endNode [] s n.addr) n := by
  rw [endNode_found h]
  cases hr : n.reported with
  | true =>
    rw [if_pos rfl]
    exact { goes := setNode_sweep hp hn rfl
            nodes := by unfold endedNode; rw [hr, if_pos rfl, setNode_nodes]
            missing := fun h => absurd (hr.symm.trans h) (by decide)
            others := fun _ _ => rfl
            lost := fun h => absurd (hr.symm.trans h) (by decide) }
  | false =>
    obtain ⟨hg, hnodes⟩ := missedReport_goes hp hn
    obtain ⟨hmiss, hother⟩ := missedReport_entries s n
    rw [if_neg (by decide)]
    by_cases hk : missedNow s n = 3
    · rw [if_pos hk]
      have hxm : (cfgSafeMask (missedReport s n)).getLsbD 0x17 = false := by
        rw [hg.only]
        exact hm
      have hkeep := loseNode_results hxm (missedNode s n)
      obtain ⟨m, hmem, hml⟩ : ∃ m ∈ (missedReport s n).course.nodes, nodeLinks (missedNode s n) = nodeLinks m :=
        ⟨_, by rw [hnodes]; exact putNode_mem _ _, rfl⟩
      obtain ⟨hgo, hact, hpend, hln⟩ := loseNode_spec hxm (hg.tableOrder hp) hmem hml
      exact { goes := hg.trans hgo
              nodes := by
                unfold endedNode
                rw [hr, if_neg (by decide), if_pos hk, hln, hnodes]
                exact putNode_again rfl
              missing := fun _ hs v e hv he => (hmiss hs v e hv he).of_entry (entryOf_of_results hkeep v)
              others := fun v hv => (entryOf_of_results hkeep v).trans (hother v hv)
              lost := fun _ _ => ⟨hact, hpend⟩ }
    · rw [if_neg hk]
      exact { goes := hg
              nodes := by
                unfold endedNode
                rw [hr, if_neg (by decide), if_neg hk, hnodes]
              missing := fun _ => hmiss
              others := hother
              lost := fun _ h => absurd h hk }

end Sys2Proof.Machine

namespace Sys2Proof.Machine

/-! SWEEP_END for all pods, and the sweeps of the head (O48). -/

/-- A node's record once the sweep has ended for the pods of these addresses. -/
def endedOf (s : State) (l : List Byte) (n : Node) : Node := if l.contains n.addr && swept n then endedNode s n else n

/-- From `s` to `t` the sweep has ended for the pods of these addresses. -/
structure PodsEnded (s t : State) (l : List Byte) : Prop where
  goes : SweepGoes s t
  nodes : t.course.nodes = s.course.nodes.map (endedOf s l)
  missing : ∀ n ∈ s.course.nodes, n.addr ∈ l → swept n = true → n.reported = false → spared s n = false →
    ∀ v e, vcnNode v = n.addr.toNat → entryOf s v = some e → ReadsMissing t v
  others : ∀ v, (∀ a ∈ l, vcnNode v ≠ a.toNat) → entryOf t v = entryOf s v
  lost : ∀ n ∈ s.course.nodes, n.addr ∈ l → swept n = true → n.reported = false → missedNow s n = 3 →
    faultActive t 0x17 = true ∧ t.events.pending.getLsbD 20 = true

theorem endedOf_in (s : State) {l : List Byte} {n : Node} (ha : n.addr ∈ l) (hs : swept n = true) : endedOf s l n = endedNode s n := by
  unfold endedOf
  rw [List.contains_iff_mem.2 ha, hs]
  rfl

theorem endedOf_out (s : State) {l : List Byte} {n : Node} (h : n.addr ∉ l ∨ swept n = false) : endedOf s l n = n := by
  unfold endedOf
  rw [if_neg]
  rw [Bool.and_eq_true, List.contains_iff_mem]
  exact fun hx => h.elim (fun h => h hx.1) fun h => Bool.noConfusion (h.symm.trans hx.2)

theorem endNode_pods {s : State} (hm : (cfgSafeMask s).getLsbD 0x17 = false) (hp : TableOrder s) (a : Byte) : PodsEnded s (endNode [] s a) [a] := by
  cases h : s.course.nodes.find? fun n => n.addr == a && swept n with
  | none =>
    have hno (n : Node) (hn : n ∈ s.course.nodes) (ha : n.addr ∈ [a]) : swept n = false := by
      have := List.find?_eq_none.1 h n hn
      simpa [List.mem_singleton.1 ha] using this
    rw [endNode_of_none h]
    refine ⟨.refl s, ?_, fun n hn ha hs => ?_, fun _ _ => rfl, fun n hn ha hs => ?_⟩
    · refine ((List.map_congr_left fun n hn => ?_).trans (List.map_id _)).symm
      by_cases ha : n.addr ∈ [a]
      · exact endedOf_out s (.inr (hno n hn ha))
      · exact endedOf_out s (.inl ha)
    · exact Bool.noConfusion ((hno n hn ha).symm.trans hs)
    · exact Bool.noConfusion ((hno n hn ha).symm.trans hs)
  | some n =>
    have hn := List.mem_of_find?_eq_some h
    have hw := List.find?_some h
    rw [Bool.and_eq_true, beq_iff_eq] at hw
    obtain ⟨rfl, hs⟩ := hw
    have hone {m : Node} (hm : m ∈ s.course.nodes) (ha : m.addr ∈ [n.addr]) : m = n := hp.unique hm hn (List.mem_singleton.1 ha)
    have he := endNode_ended hm hp hn h
    refine ⟨he.goes, ?_, fun m hm ha _ => hone hm ha ▸ he.missing, fun v hv => he.others v (hv _ (List.mem_singleton_self _)),
      fun m hm ha _ => hone hm ha ▸ he.lost⟩
    have hea : (endedNode s n).addr = n.addr := congrArg Prod.fst (endedNode_links s n)
    rw [he.nodes, putNode_replaces hp ⟨n, hn, hea.symm⟩, hea]
    refine List.map_congr_left fun m hm => ?_
    split
    · next ha =>
      rw [hone hm (List.mem_singleton.2 ha), endedOf_in s (List.mem_singleton_self _) hs]
    · next ha => exact (endedOf_out s (.inl fun hx => ha (List.mem_singleton.1 hx))).symm

theorem PodsEnded.cons {s t u : State} {a : Byte} {l : List Byte} (h : PodsEnded s t [a]) (k : PodsEnded t u l) (ha : a ∉ l) : PodsEnded s u (a :: l) := by
  have hkeep {n : Node} (hn : n ∈ s.course.nodes) (hl : n.addr ∈ l) : n ∈ t.course.nodes := by
    rw [h.nodes]
    refine List.mem_map.2 ⟨n, hn, endedOf_out s (.inl fun hx => ha ?_)⟩
    rw [← List.mem_singleton.1 hx]
    exact hl
  have hentry {n : Node} (hl : n.addr ∈ l) {v : Vcn} (hv : vcnNode v = n.addr.toNat) : entryOf t v = entryOf s v := by
    refine h.others v fun b hb hx => ha ?_
    rw [← List.mem_singleton.1 hb, ← BitVec.eq_of_toNat_eq (hv.symm.trans hx)]
    exact hl
  have hsp (n : Node) : spared t n = spared s n ∧ missedNow t n = missedNow s n := by
    unfold spared missedNow
    rw [h.goes.between, h.goes.beyondTest, h.goes.only]
    exact ⟨rfl, rfl⟩
  refine ⟨h.goes.trans k.goes, ?_, fun n hn hl hs hr hp v e hv he => ?_, fun v hv => ?_, fun n hn hl hs hr hk => ?_⟩
  · rw [k.nodes, h.nodes, List.map_map]
    refine List.map_congr_left fun n _ => ?_
    show endedOf t l (endedOf s [a] n) = endedOf s (a :: l) n
    by_cases hs : swept n = true
    · by_cases hna : n.addr = a
      · rw [endedOf_in s (List.mem_singleton.2 hna) hs, endedOf_in s (hna ▸ List.mem_cons_self) hs]
        refine endedOf_out t (.inl ?_)
        rw [show (endedNode s n).addr = n.addr from congrArg Prod.fst (endedNode_links s n), hna]
        exact ha
      · rw [endedOf_out s (.inl fun hx => hna (List.mem_singleton.1 hx))]
        by_cases hl : n.addr ∈ l
        · rw [endedOf_in t hl hs, endedOf_in s (List.mem_cons_of_mem a hl) hs, h.goes.endedNode]
        · rw [endedOf_out t (.inl hl), endedOf_out s (.inl fun hx => (List.mem_cons.1 hx).elim hna hl)]
    · rw [Bool.not_eq_true] at hs
      rw [endedOf_out s (.inr hs), endedOf_out t (.inr hs), endedOf_out s (.inr hs)]
  · rcases List.mem_cons.1 hl with rfl | hl
    · exact (h.missing n hn (List.mem_singleton_self _) hs hr hp v e hv he).of_entry
        (k.others v fun b hb hx => ha (BitVec.eq_of_toNat_eq (hv.symm.trans hx) ▸ hb))
    · exact k.missing n (hkeep hn hl) hl hs hr ((hsp n).1.trans hp) v e hv ((hentry hl hv).trans he)
  · exact (k.others v fun b hb => hv b (List.mem_cons_of_mem a hb)).trans
      (h.others v fun b hb => hv b (List.mem_singleton.1 hb ▸ List.mem_cons_self))
  · rcases List.mem_cons.1 hl with rfl | hl
    · obtain ⟨hact, hpend⟩ := h.lost n hn (List.mem_singleton_self _) hs hr hk
      exact ⟨k.goes.kept _ hact, k.goes.faults.stays.stays _ hpend⟩
    · exact k.lost n (hkeep hn hl) hl hs hr ((hsp n).2.trans hk)

theorem endNodes_pods (l : List Byte) (hl : l.Nodup) {s : State} (hm : (cfgSafeMask s).getLsbD 0x17 = false) (hp : TableOrder s) :
    PodsEnded s (l.foldl (endNode []) s) l := by
  induction l generalizing s with
  | nil =>
    have hout (n : Node) : endedOf s [] n = n := endedOf_out s (.inl fun h => nomatch h)
    exact ⟨.refl s, ((List.map_congr_left fun n _ => hout n).trans (List.map_id _)).symm, fun n _ ha => (nomatch ha),
      fun _ _ => rfl, fun n _ ha => (nomatch ha)⟩
  | cons a l ih =>
    obtain ⟨ha, hl⟩ := List.nodup_cons.1 hl
    have h := endNode_pods hm hp a
    exact h.cons (ih hl (by rw [h.goes.only]; exact hm) (h.goes.tableOrder hp)) ha

/-! The record of a node that the sweep included. -/

theorem endedNode_ack (s : State) (n : Node) : (endedNode s n).ack = cameWhole n ∧
    (endedNode s n).side = if movesSide s n then otherPort n.side else n.side := by
  unfold endedNode
  split
  · exact ⟨rfl, rfl⟩
  · split
    · rw [missedNode_counted]
      exact ⟨rfl, rfl⟩
    · rw [missedNode_counted]
      exact ⟨rfl, rfl⟩

theorem endedNode_reported {s : State} {n : Node} (h : n.reported = true) : (endedNode s n).state = n.state ∧ (endedNode s n).missedReports = 0 := by
  unfold endedNode
  rw [if_pos h]
  exact ⟨rfl, rfl⟩

theorem endedNode_missed {s : State} {n : Node} (h : n.reported = false) : (endedNode s n).missedReports = missedNow s n ∧
    (endedNode s n).state = if missedNow s n = 3 then .lost else n.state := by
  unfold endedNode
  rw [if_neg (by rw [h]; decide)]
  split
  · rw [missedNode_counted]
    exact ⟨rfl, rfl⟩
  · rw [missedNode_counted]
    exact ⟨rfl, rfl⟩

/-! The overload episode, and a test that waits. -/

/-- From `s` to `t` the marks of the sweep's end alone are written. -/
structure MarksOnly (s t : State) : Prop where
  only : t = { s with events := t.events, log := t.log
                      course := { s.course with testDone := t.course.testDone, overload := t.course.overload, quiet := t.course.quiet
                                                overloadNow := t.course.overloadNow } }
  stays : PendingStays s t

theorem missingDone_marksOnly (s : State) : MarksOnly s (missingDone s) := by
  unfold missingDone
  split
  · exact ⟨rfl, ⟨fun _ h => h⟩⟩
  next t _ =>
    split
    · exact ⟨rfl, ⟨fun _ h => h⟩⟩
    · exact ⟨rfl, raise_stays (s := s) (t := { s with course := { s.course with testDone := none } }) ⟨fun _ h => h⟩ ..⟩

theorem overloadEnd_marksOnly (s : State) : MarksOnly s (overloadEnd s) := by
  unfold overloadEnd
  dsimp only
  split
  · split
    · exact ⟨rfl, ⟨fun _ h => h⟩⟩
    · exact ⟨rfl, raise_stays (s := s) (t := { s with course := { s.course with overload := true, quiet := 0, overloadNow := false } }) ⟨fun _ h => h⟩ ..⟩
  · exact ⟨rfl, ⟨fun _ h => h⟩⟩

theorem MarksOnly.trans {s t u : State} (h : MarksOnly s t) (k : MarksOnly t u) : MarksOnly s u where
  only := by
    have k1 := k.only
    rw [k1, h.only]
  stays := h.stays.trans k.stays

theorem overloadEnd_begins {s : State} (hn : s.course.overloadNow = true) (ho : s.course.overload = false) :
    (overloadEnd s).events.pending.getLsbD 23 = true ∧ (overloadEnd s).course.overload = true := by
  unfold overloadEnd
  dsimp only
  rw [if_pos hn, if_neg (by rw [ho]; decide)]
  exact ⟨raise_pending .., rfl⟩

theorem missingDone_overload (s : State) : (missingDone s).course.overloadNow = s.course.overloadNow ∧ (missingDone s).course.overload = s.course.overload := by
  unfold missingDone
  split
  · exact ⟨rfl, rfl⟩
  · split <;> exact ⟨rfl, rfl⟩

theorem MarksOnly.between {s t : State} (h : MarksOnly s t) (n : Node) : between t n = between s n := by
  have h0 : t.course.break0 = s.course.break0 := by rw [h.only]
  have h1 : t.course.break1 = s.course.break1 := by rw [h.only]
  have hl : linkAt t = linkAt s := by
    unfold linkAt
    rw [h.only]
  unfold Machine.between reaches headSide breakAt
  rw [hl, h0, h1]

/-! SWEEP_END as a whole. -/

/-- The breaks of the sweep's end are located. -/
def sweepLocated (s : State) : State := locateBreaks { s with course := { s.course with sweepOf := none } }

/-- The pods of the sweep are judged. -/
def sweepJudged (s : State) : State := ((sweepLocated s).course.nodes.map (·.addr)).foldl (endNode []) (sweepLocated s)

/-- The sweep has ended. -/
def sweepEnded (s : State) : State := overloadEnd (missingDone (sweepJudged s))

/-- What SWEEP_END leaves, part by part. -/
structure SweepEnds (s : State) : Prop where
  located : BreaksLocated { s with course := { s.course with sweepOf := none } } (sweepLocated s)
  pods : PodsEnded (sweepLocated s) (sweepJudged s) ((sweepLocated s).course.nodes.map (·.addr))
  marks : MarksOnly (sweepJudged s) (sweepEnded s)
  exec : Machine.exec (.sweepEnd []) s = .next (sweepEnded s)

section
variable {s : State} (hr : s.role = .head) (ha : isActive s = true) (ho : sweepOver s = true)
  (hp : s.course.nodes.Pairwise fun a b => a.addr < b.addr) (h17 : (cfgSafeMask s).getLsbD 0x17 = false) (h18 : (cfgSafeMask s).getLsbD 0x18 = false)

theorem BreaksLocated.tableOrder {s t : State} (h : BreaksLocated s t) (hp : TableOrder s) : TableOrder t := by
  obtain ⟨f, hf, hres, -⟩ := h.nodes
  rw [tableOrder_iff] at hp ⊢
  have hl : t.course.nodes.map nodeLinks = s.course.nodes.map nodeLinks := by
    rw [hf, List.map_map]
    refine List.map_congr_left fun n _ => ?_
    show nodeLinks (f n) = nodeLinks n
    rw [(hres n).only]
    rfl
  rw [hl]
  exact hp

include hr ha ho hp h17 h18

theorem sweepEnds : SweepEnds s := by
  have hloc : BreaksLocated { s with course := { s.course with sweepOf := none } } (sweepLocated s) := locateBreaks_located h18
  have hmask : cfgSafeMask (sweepLocated s) = cfgSafeMask s := by
    rw [hloc.only]
    rfl
  have hord : TableOrder (sweepLocated s) := hloc.tableOrder (s := { s with course := { s.course with sweepOf := none } }) hp
  have hpods : PodsEnded (sweepLocated s) (sweepJudged s) ((sweepLocated s).course.nodes.map (·.addr)) :=
    endNodes_pods _ hord.nodup (by rw [hmask]; exact h17) hord
  have hmarks : MarksOnly (sweepJudged s) (sweepEnded s) := (missingDone_marksOnly _).trans (overloadEnd_marksOnly _)
  refine ⟨hloc, hpods, hmarks, ?_⟩
  show execSweepEnd [] s = _
  unfold execSweepEnd
  rw [if_neg (guard_of_head hr ha ho)]
  refine congrArg Host.Outcome.next (settle_unmasked (t := sweepEnded s) fun i hi => ?_)
  have hmask' : cfgSafeMask (sweepEnded s) = cfgSafeMask s := by
    rw [hmarks.only, ← hmask, hpods.goes.only]
    rfl
  have hks : (sweepEnded s).ks = (sweepJudged s).ks := by rw [hmarks.only]
  rw [hks] at hi
  rw [hmask']
  rcases (hloc.faults.trans hpods.goes.faults).codes i hi with h | rfl | rfl
  · exact .inl h
  · exact .inr h17
  · exact .inr h18

end

end Sys2Proof.Machine

namespace Sys2Proof.Machine

/-! What the end of a sweep leaves of its pods and of the breaks (O48). -/

/-- `m` is the record of the node `n` of `s` once the sweep has ended in `t`. -/
structure PodSwept (s t : State) (n m : Node) : Prop where
  mem : m ∈ t.course.nodes
  addr : m.addr = n.addr
  ack : m.ack = cameWhole n
  chain : s.course.ringClosed = false → m.side = n.side
  ring : s.course.sweepRing = true → t.course.ringClosed = true → m.side = if cameWhole n = true then n.side else otherPort n.side
  reported : n.reported = true → m.state = .joined ∧ m.missedReports = 0
  missed : n.reported = false → m.missedReports = if beyondTest s n = true then 0 else min 3 (n.missedReports + 1)
  joined : n.reported = false → n.missedReports < 2 ∨ beyondTest s n = true → m.state = .joined
  lost : n.reported = false → 2 ≤ n.missedReports → beyondTest s n = false → m.state = .lost ∧ faultActive t 0x17 = true ∧ t.events.pending.getLsbD 20 = true
  missing : n.reported = false → s.course.sweepRing = false ∨ n.excused = true ∨ between t n = true →
    ∀ v e, vcnNode v = n.addr.toNat → entryOf s v = some e → ReadsMissing t v

section
variable {s : State} (h : SweepEnds s)
include h

theorem SweepEnds.course : (sweepEnded s).course = { (sweepLocated s).course with
    ports := (sweepEnded s).course.ports, seqs := (sweepEnded s).course.seqs, pod := (sweepEnded s).course.pod, nodes := (sweepEnded s).course.nodes
    service := (sweepEnded s).course.service, rrPending := (sweepEnded s).course.rrPending, testDone := (sweepEnded s).course.testDone
    overload := (sweepEnded s).course.overload, quiet := (sweepEnded s).course.quiet, overloadNow := (sweepEnded s).course.overloadNow } := by
  have hm := congrArg (·.course) h.marks.only
  have hg := congrArg (·.course) h.pods.goes.only
  dsimp only at hm hg
  rw [hg] at hm
  rw [hm]

theorem SweepEnds.rest : sweepEnded s = { s with
    freeCount := (sweepEnded s).freeCount, course := (sweepEnded s).course, results := (sweepEnded s).results, spill := (sweepEnded s).spill
    events := (sweepEnded s).events, log := (sweepEnded s).log, ks := (sweepEnded s).ks, mere := (sweepEnded s).mere, cal := (sweepEnded s).cal
    modes := (sweepEnded s).modes } := by
  have hm := h.marks.only
  rw [h.pods.goes.only, h.located.only] at hm
  rw [hm]

theorem SweepEnds.sweepOf : (sweepEnded s).course.sweepOf = none := by
  rw [h.course, h.located.only]

theorem SweepEnds.results : (sweepEnded s).results = (sweepJudged s).results ∧ (sweepLocated s).results = s.results := by
  rw [h.marks.only, h.located.only]
  exact ⟨rfl, rfl⟩

/-- What becomes of a code or an event at the breaks stays. -/
theorem SweepEnds.stays : (∀ i : Fin 28, faultActive (sweepLocated s) i = true → faultActive (sweepEnded s) i = true) ∧
    PendingStays (sweepLocated s) (sweepEnded s) := by
  refine ⟨fun i hi => ?_, h.pods.goes.faults.stays.trans h.marks.stays⟩
  have hk : (sweepEnded s).ks = (sweepJudged s).ks := by rw [h.marks.only]
  unfold faultActive
  rw [hk]
  exact h.pods.goes.kept i.val hi

theorem SweepEnds.node {n : Node} (hn : n ∈ s.course.nodes) (hs : swept n = true) : ∃ m, PodSwept s (sweepEnded s) n m := by
  obtain ⟨f, hf, hres, hsame⟩ := h.located.nodes
  have hmem : f n ∈ (sweepLocated s).course.nodes := hf ▸ List.mem_map_of_mem hn
  have hk := (hres n).only
  have hcoursed := h.course
  have hseen : beyondTest (sweepLocated s) (f n) = beyondTest s n ∧ between (sweepLocated s) (f n) = between (sweepEnded s) n ∧
      (sweepLocated s).course.sweepRing = s.course.sweepRing := by
    refine ⟨?_, ?_, by rw [h.located.only]⟩
    · unfold beyondTest
      rw [h.located.only, hk]
      rfl
    · rw [h.marks.between, h.pods.goes.between, hk]
      rfl
  obtain ⟨hbeyond, hbetween, hsweepRing⟩ := hseen
  have hring : (sweepEnded s).course.ringClosed = (sweepLocated s).course.ringClosed := by rw [hcoursed]
  have hopen : s.course.ringClosed = false → (sweepLocated s).course.ringClosed = false := h.located.staysOpen
  have hsame : s.course.ringClosed = false ∨ (sweepLocated s).course.ringClosed = true → f n = n := fun hx => hsame hx n
  generalize f n = k at hmem hk hbeyond hbetween hsame
  have hkaddr : k.addr = n.addr := by rw [hk]
  have hkrep : k.reported = n.reported := by rw [hk]
  have hkstate : k.state = n.state := by rw [hk]
  have hkmissed : k.missedReports = n.missedReports := by rw [hk]
  have hkexc : k.excused = n.excused := by rw [hk]
  have hkwhole : cameWhole k = cameWhole n := by rw [hk]; rfl
  have hkswept : swept k = true := by rw [hk]; exact hs
  have hjoined : n.state = .joined := by
    unfold swept at hs
    rw [Bool.and_eq_true, beq_iff_eq] at hs
    exact hs.1
  have haddr : k.addr ∈ (sweepLocated s).course.nodes.map (·.addr) := List.mem_map_of_mem hmem
  have hnow : missedNow (sweepLocated s) k = if beyondTest s n = true then 0 else min 3 (n.missedReports + 1) := by
    unfold missedNow
    rw [hbeyond, hkmissed]
  obtain ⟨hack, hside⟩ := endedNode_ack (sweepLocated s) k
  refine ⟨endedNode (sweepLocated s) k, ?_⟩
  exact {
    mem := by
      have hnodes : (sweepEnded s).course.nodes = (sweepJudged s).course.nodes := by rw [h.marks.only]
      rw [hnodes, h.pods.nodes, ← endedOf_in (sweepLocated s) haddr hkswept]
      exact List.mem_map_of_mem hmem
    addr := (congrArg Prod.fst (endedNode_links (sweepLocated s) k)).trans hkaddr
    ack := hack.trans hkwhole
    chain := fun hc => by
      have hm : movesSide (sweepLocated s) k = false := by
        unfold movesSide
        rw [hopen hc, Bool.and_false, Bool.false_and]
      rw [hside, hm, hsame (.inl hc)]
      rfl
    ring := fun hr hc => by
      rw [hring] at hc
      have hm : movesSide (sweepLocated s) k = !cameWhole n := by
        unfold movesSide
        rw [hsweepRing, hr, hc, hkwhole]
        rfl
      rw [hside, hm, hsame (.inr hc)]
      cases cameWhole n <;> rfl
    reported := fun hr => by
      obtain ⟨h1, h2⟩ := endedNode_reported (s := sweepLocated s) (hkrep.trans hr)
      exact ⟨h1.trans (hkstate.trans hjoined), h2⟩
    missed := fun hr => (endedNode_missed (hkrep.trans hr)).1.trans hnow
    joined := fun hr hfew => by
      have hne : missedNow (sweepLocated s) k ≠ 3 := by
        rw [hnow]
        split
        · decide
        · next hb =>
          have := hfew.resolve_right hb
          omega
      rw [(endedNode_missed (hkrep.trans hr)).2, if_neg hne]
      exact hkstate.trans hjoined
    lost := fun hr htwo hb => by
      have hthree : missedNow (sweepLocated s) k = 3 := by
        rw [hnow, if_neg (by rw [hb]; decide)]
        omega
      obtain ⟨hact, hpend⟩ := h.pods.lost k hmem haddr hkswept (hkrep.trans hr) hthree
      refine ⟨by rw [(endedNode_missed (hkrep.trans hr)).2, if_pos hthree], ?_, h.marks.stays.stays _ hpend⟩
      unfold faultActive at hact ⊢
      rw [h.marks.only]
      exact hact
    missing := fun hr hwhy v e hv he => by
      have hsp : spared (sweepLocated s) k = false := by
        unfold spared
        rw [hsweepRing, hkexc, hbetween]
        rcases hwhy with hx | hx | hx <;> simp [hx]
      have hread := h.pods.missing k hmem haddr hkswept (hkrep.trans hr) hsp v e (by rw [hkaddr]; exact hv)
        ((entryOf_of_results h.results.2 v).trans he)
      exact hread.of_entry (entryOf_of_results h.results.1 v) }

theorem SweepEnds.overload (hn : s.course.overloadNow = true) (ho : s.course.overload = false) :
    (sweepEnded s).events.pending.getLsbD 23 = true ∧ (sweepEnded s).course.overload = true := by
  obtain ⟨h1, h2⟩ := missingDone_overload (sweepJudged s)
  refine overloadEnd_begins (h1.trans ?_) (h2.trans ?_)
  · rw [h.pods.goes.only, h.located.only]
    exact hn
  · rw [h.pods.goes.only, h.located.only]
    exact ho

theorem SweepEnds.lossAtHead (hl : LossAtHead s) (h0 : s.course.break0 ≠ 0) (h1 : s.course.break1 = 0xFF) (ho : s.ks.oldBreaks = [])
    (hm : (cfgSafeMask s).getLsbD 0x18 = false) : (sweepEnded s).course.break0 = 0 ∧ (sweepEnded s).course.ringClosed = false ∧
      (s.course.ringClosed = true → (sweepEnded s).course.n = 0) ∧ faultActive (sweepEnded s) 0x18 = true ∧
      (sweepEnded s).events.pending.getLsbD 21 = true := by
  obtain ⟨k1, k2, k3, k4, k5⟩ := LossAtHead.located (s := { s with course := { s.course with sweepOf := none } })
    ⟨hl.used, hl.los, hl.unseen, hl.known, hl.untested⟩ h0 h1 ho hm
  obtain ⟨hact, hpend⟩ := h.stays
  have hcourse := h.course
  exact ⟨by rw [hcourse]; exact k1, by rw [hcourse]; exact k2, fun hc => by rw [hcourse]; exact k3 hc, hact _ k4, hpend.stays _ k5⟩

end

/-- Settles O48: SWEEP_TICK, the node of the delay slot, the conditions of the three commands, the grants of CREDIT_SEND, a sweep without pods, and
SWEEP_END as the breaks located, then pod by pod the report judged, then the overload episode. -/
theorem headSweepsAndCredits : Obligations.HeadSweepsAndCredits := by
  unfold Obligations.HeadSweepsAndCredits
  refine ⟨fun s hr ha hu ht => ?tick, fun s a h hne => delayNode_spec h hne,
    fun s bad => ⟨execSweepTick_not, execSweepEnd_not, execCreditSend_not, creditDue_iff s, sweepOver_iff s⟩,
    fun s hr ha hsome hp h3 hd => ?credit, fun s hr ha hd hnone => execCreditSend_none hr ha hd hnone, fun s hr ha ho hp h17 h18 => ?sweepEnd⟩
  case tick =>
    obtain ⟨hrest, hof, hclk, hcredited, hsweep, hring, hclosed, hwaits, hnodes, htest⟩ := sweepTick_spec s
    exact ⟨_, execSweepTick_due hr ha hu ht, hrest, hof, hclk, hcredited, hsweep, hring, hclosed, hwaits, hnodes, htest⟩
  case credit =>
    obtain ⟨t, hexec, hrest, hcredited, hnodes, hwaits⟩ := execCreditSend_spec hr ha hd hsome hp
    obtain ⟨G, fr, hg⟩ := sweepGrants_granted hp
    have hgrant {n : Node} (hs : swept n = true) : (creditAfter s n).grant = grantOf (sweepGrants s) n.addr ∧
        (creditAfter s n).shortfall = needOf n - grantOf (sweepGrants s) n.addr := by
      rw [creditAfter_swept hs]
      exact ⟨rfl, rfl⟩
    have hof {side : Fin 2} {n : Node} (hn : n ∈ sideNodes s side) : (creditAfter s n).grant = grantOf (sweepGrants s) n.addr :=
      (hgrant (mem_sideNodes.1 hn).2.1).1
    refine ⟨t, creditAfter s, hexec, hrest, hcredited, hnodes, fun n _ hs => creditAfter_unswept hs, fun n hn hs => ?_, fun side => ?_,
      fun side hfits n hn => ?_, fun side n m hn hm hlt hshort => ?_, hwaits⟩
    · obtain ⟨hgr, hsh⟩ := hgrant hs
      exact ⟨by rw [hgr]; exact hg.need hp h3 (mem_sideNodes.2 ⟨hn, hs, rfl⟩), by rw [hsh, hgr], creditAfter_rest hs⟩
    · rw [List.map_congr_left fun n hn => hof hn]
      exact hg.sum hp h3 side
    · rw [hof hn]
      exact hg.fits hp h3 hfits hn
    · rw [hof hm]
      refine hg.prior hp h3 hn hm hlt fun heq => hshort ?_
      rw [(hgrant (mem_sideNodes.1 hn).2.1).2, heq, Nat.sub_self]
  case sweepEnd =>
    have h := sweepEnds hr ha ho hp h17 h18
    refine ⟨sweepEnded s, h.exec, h.sweepOf, h.rest, fun n hn hs => ?_, h.overload, fun hu hlos hunseen hknown htest h0 h1 hold => ?_⟩
    · obtain ⟨m, hm⟩ := h.node hn hs
      exact ⟨m, hm.mem, hm.addr, hm.ack, hm.chain, hm.ring, hm.reported, fun hr => ⟨hm.missed hr, hm.joined hr, hm.lost hr, hm.missing hr⟩⟩
    · exact h.lossAtHead ⟨hu, hlos, hunseen, hknown, htest⟩ h0 h1 hold h18

end Sys2Proof.Machine
